-- ==== Sys2Proof/Word.lean ====
section
/-! DEFINITION. The words of the module: bytes, 32-bit numbers, 64-bit registers, 128-bit instruction slots,
512-bit lines (R31, R78, R104, R217). -/

namespace Sys2Proof

/-- One byte of a memory (R31: registers and memories are little-endian). -/
abbrev Byte := BitVec 8

/-- One FP32 or INT32 element (Table 03-1). -/
abbrev W32 := BitVec 32

/-- One register (R31). -/
abbrev W64 := BitVec 64

/-- One instruction slot (R104, R122). -/
abbrev W128 := BitVec 128

/-- One 64-byte line (R217, R241). -/
abbrev Line := BitVec 512

end Sys2Proof
end

