-- ==== Sys2Proof/Syntax.lean ====
section
/-! DEFINITION. The commands of the module: one constructor of `Instr` per row of spec/opcode_table.json, with the
operands each command brings from outside (DESIGN CHOICE, log entry 96). -/

namespace Sys2Proof

/-- Who writes or reads a register (R46): a function over a host link, a rim core, or the management port. -/
inductive Src where
  | host (func link : Nat)
  | rim (core : Nat)
  | mgmt
  deriving DecidableEq, Repr

/-- The block types of Table 02-4 (R38). -/
inductive Blk where
  | mgmt | arb | clk | pwr | therm | tele | crack | saggar | kiln | slip | glaze
  | pug | fab | blink | host | rim | tile | core | vec | tdma | router | sem
  deriving DecidableEq, Repr

/-- A command entry of a ring (Table 02-9, R50). -/
structure CmdEntry where
  own : Bool
  opcode : Nat
  blk : Nat
  inst : Nat
  mailbox : Nat
  mbxEn : Bool
  userTag : Nat
  args : List W64
  deriving DecidableEq, Repr

/-- What the host changes of a function's MSI-X (R62): the mask bit of a vector cleared, or MSI-X Enable and Function Mask
of the function's configuration space on a link (for a virtual function, its bound link whatever the number says). -/
inductive MsixChange where
  | vec (v : Nat)
  | func (link : Nat) (enable mask : Bool)
  deriving DecidableEq, Repr

/-- The fields of a command entry that say who posted it and where its result goes (R50, R54): function, ring,
entry index, mailbox, user tag. -/
structure CmdCtx where
  func : Nat
  ring : Nat
  idx : Nat
  mailbox : Nat
  mbxEn : Bool
  userTag : Nat
  deriving DecidableEq, Repr

/-- An Ozzon frame as a port receives it (Tables 14-2, 14-3): whether FCS and E2E CRC hold, the header's fields, the
destination MAC address, the payload. -/
structure Frame where
  fcsOk : Bool
  e2eOk : Bool
  da : Nat
  etype : Nat
  ver : Nat
  cls : Nat
  typ : Nat
  src : Nat
  dst : Nat
  first : Bool
  last : Bool
  seqd : Bool
  seq : Nat
  msg : Nat
  moff : Nat
  mlen : Nat
  rsvd : Nat
  payload : List Byte
  deriving DecidableEq, Repr

/-- Where a line that is to be accepted stands (R259): a route entry of a tile, a stream context of a slip port, the
output of a combine set, or a remote request of the tile DMA engine. -/
inductive LineSrc where
  | route (tile entry : Nat)
  | stream (port ctx entry : Nat)
  | comb (tile set : Nat)
  | dma (tile : Nat)
  deriving DecidableEq, Repr

/-- A WFI of a rim core (R72, R73): the core, its mie and stimecmp CSRs. -/
structure RimWait where
  core : Nat
  mie : Nat
  stimecmp : W64
  deriving DecidableEq, Repr

/-- A rim core's access to the store, and what it meets in its cluster's L2 (R71): 0 nothing, 1 a corrected error, 2 an
uncorrectable one. -/
structure RimPort where
  core : Nat
  l2 : Nat
  deriving DecidableEq, Repr

/-- What one management-port or background sample brings besides the sensors (Table 18-3 bytes 912–919). -/
structure TeleExtra where
  serdes : Nat
  bgPeak : Nat
  bgTile : Nat
  deriving DecidableEq, Repr

/-- The commands, one constructor per row of the opcode table.  Tiles are logical tile indices (0–34,559) unless an
operand is called `phys` (physical index, R395); ports 0–47 are slip ports; link ports 0–15 are F0–F15 and 16–18 are
L0–L2; engines 0–5 are C0–C3, V, D and 6 is the sequencer. -/
inductive Instr where
  -- 01 geometry
  | geomBuildStart
  | geomSwap
  | distDataRead
  | distCopy (src : Src) (v : W64)
  | copyDone
  | distCopyWriteFail (off : Nat)
  -- 02 registers and host interface
  | registerWrite (src : Src) (blk : Blk) (inst off width : Nat) (v : W64)
  | errClear (src : Src) (blk : Blk) (inst : Nat)
  | eventAdmit (i : Nat)
  | evtRingWriteFail (f idx : Nat)
  | evtRingEnable (src : Src) (f : Nat) (v : W64)
  | saggarRegisterWrite (src : Src) (blk : Blk) (inst : Nat) (v : W64)
  | funcBindWrite (src : Src) (v : W64)
  | vfActiveChange (h numVfs : Nat) (enable : Bool)
  | ringEnable (src : Src) (f n : Nat) (v : W64)
  | doorbell (src : Src) (f n : Nat) (v : W64)
  | cmdEntryFetched (f n : Nat) (words : List W64)
  | ringPcieFail (f n idx : Nat)
  | cmdAdmit (f n : Nat)
  | nop (c : CmdCtx)
  | fence (c : CmdCtx)
  | fenceComplete (f n : Nat)
  | mbxAck (src : Src) (f m : Nat) (v : W64)
  | functionLevelReset (f : Nat)
  | semSignal (src : Src) (f : Nat) (v : W64)
  | hostSemSignal (i : Nat)
  | hsemTake (src : Src) (f i : Nat) (v : W64)
  | hostLinkDown (h : Nat)
  | hostLinkUp (h speed width : Nat) (flit : Bool)
  | rimStart (c : CmdCtx) (inst : Nat) (args : List W64)
  | rimHalt (c : CmdCtx) (inst : Nat) (args : List W64) (pc : W64)
  | rimReset (c : CmdCtx) (inst : Nat) (args : List W64)
  | rimFlush (c : CmdCtx) (inst : Nat) (args : List W64)
  | rimWfi (wait : RimWait)
  | rimDoorbell (src : Src) (core : Nat) (v : W64)
  | rimTimerInterrupt (core : Nat)
  | rimIoAccess (core : Nat) (write : Bool) (addr width : Nat) (v : W64)
  | rimStoreAccess (core : RimPort) (addr len : Nat) (data : Option (List Byte))
  -- 04 tile programs
  | seqDispatch (t : Nat)
  | engineInstrIssue (t e : Nat)
  | engineInstrComplete (t e : Nat)
  | engineExecError (t e code : Nat)
  | wait (t e : Nat)
  | waitSatisfied (t : Nat)
  | signal (t e : Nat)
  | tileSignalArrive (i : Nat)
  | loop (t : Nat)
  | loopEnd (t : Nat)
  | cmpset (t : Nat)
  | branch (t : Nat)
  | swap (t : Nat)
  | bankSwap (t : Nat)
  | halt (t : Nat)
  | tileHalted (t : Nat)
  | endProg (t : Nat)
  | tilePark (t : Nat)
  | drain (t : Nat)
  | drainComplete (t : Nat)
  | tileFlushDone (t : Nat)
  | qcfgWrite (src : Src) (t q : Nat) (v : W64)
  | imemDataHiWrite (src : Src) (t : Nat) (v : W64)
  | shadowReadySet (src : Src) (t : Nat) (v : W64)
  -- 05–07 engines
  | mma (t c : Nat)
  | accwb (t c : Nat)
  | smma24 (t c : Nat)
  | smmau (t c : Nat)
  | smmab (t c : Nat)
  | vop (t : Nat)
  | vsetvl (t : Nat)
  | vseed (t : Nat)
  -- 08 scratchpad and tile DMA
  | dma (t : Nat)
  | dmaDescriptorStart (t ring : Nat) (bytes host : List Byte) (stop : Option Nat)
  | dmaDescriptorComplete (t ring : Nat)
  | dmaRemoteResponse (i : Nat)
  | hDoorbell (src : Src) (t : Nat) (v : W64)
  | hCfgEnable (src : Src) (t : Nat) (v : W64)
  | tdmaRingStop (src : Src) (t : Nat) (v : W64)
  | tdmaRingResume (src : Src) (t : Nat) (v : W64)
  | tdmaHostFail (t idx : Nat)
  | spInject (src : Src) (t : Nat) (v : W64)
  | requestUrgent (t requester slice : Nat)
  | scrubForced (t slice line : Nat)
  -- 09 wafer network
  | lineAccept (src : LineSrc)
  | routerForward (i : Nat)
  | packetDeliver (i : Nat)
  | combStep (t set : Nat)
  | creditReceived (i : Nat)
  | noticeReceived (i : Nat)
  -- 10 slip ports and store
  | stackTempSample (p : Nat) (celsius : Int)
  | storeReadTimeout (tag : Nat)
  | streamEntryStart (p c : Nat)
  | streamEnd (p c entry : Nat)
  | gatherStart (p c : Nat)
  | gatherTimeout (p w : Nat)
  | edgeWrite (p : Nat)
  | edgeRead (p : Nat)
  | xferTimeout (p i : Nat)
  | bar4Read (h off len : Nat)
  | bar4Write (h off : Nat) (data : List Byte)
  | slipMapWrite (src : Src) (p r : Nat) (v : W64)
  | combExitForward (p : Nat)
  -- 11 pug units
  | pugCombReceive (u feed : Nat)
  | bucketStageAdvance (job bucket : Nat)
  | bucketDone (job bucket : Nat)
  | stageTimeout (job bucket : Nat)
  | abortStep (c : CmdCtx) (inst : Nat) (args : List W64)
  -- 12 glaze units
  | gjobWrite (src : Src) (p : Nat) (v : W64)
  | shadowOpen (p : Nat)
  | glazeRangeUpdate (p range : Nat)
  | glazeRangeAccepted (p range : Nat)
  | voteResend (job : Nat)
  | commitResend (job : Nat)
  | commitTimeout (p : Nat)
  | mirrorTimeout (p : Nat)
  | mirrorSync (c : CmdCtx) (inst : Nat) (args : List W64)
  | mirrorSyncDone (job : Nat)
  -- 13 kilns
  | load (c : CmdCtx) (inst : Nat) (args : List W64)
  | kilnLoadDone (k : Nat)
  | start (c : CmdCtx) (inst : Nat) (args : List W64)
  | kilnArmed (k : Nat)
  | step (c : CmdCtx) (inst : Nat) (args : List W64)
  | kilnStepBoundary (k : Nat)
  | stop (c : CmdCtx) (inst : Nat) (args : List W64)
  | abort (c : CmdCtx) (inst : Nat) (args : List W64)
  | swapOut (c : CmdCtx) (inst : Nat) (args : List W64)
  | swapOutDone (k : Nat)
  | swapIn (c : CmdCtx) (inst : Nat) (args : List W64)
  | swapInDone (k : Nat)
  | unload (c : CmdCtx) (inst : Nat) (args : List W64)
  -- 14 fabric and board links
  | linkEnable (src : Src) (port : Nat) (v : W64)
  | linkDisable (src : Src) (port : Nat) (v : W64)
  | retrain (c : CmdCtx) (blk : Blk) (inst : Nat) (args : List W64)
  | linkTrainDone (port laneOk ms : Nat) (reversed : Bool)
  | linkTrainTimeout (port : Nat)
  | linkLoss (port : Nat)
  | linkAutoRetrain (port : Nat)
  | hello (port moduleId pos link grade : Nat)
  | frameReceive (port : Nat) (fr : Frame)
  | heartbeat (port : Nat)
  | heartbeatTick
  | ack (port : Nat)
  | nak (port : Nat)
  | ackTimeout (port peer cls : Nat)
  | record (port : Nat)
  | abortBroadcastReceive (port : Nat)
  | vote (port : Nat)
  | commit (port : Nat)
  | commitAck (port : Nat)
  | segReq (port : Nat)
  | segServeStart (port : Nat)
  | segData (port : Nat)
  | segReadTimeout (tag : Nat)
  | mwrite
  | mhdr
  -- 15 faults and partners
  | pair (c : CmdCtx) (args : List W64)
  | pairReceive
  | pairAck
  | pairTimeout
  | unpair (c : CmdCtx) (args : List W64)
  | unpairReceive
  | unpairAck
  | promote (c : CmdCtx) (args : List W64)
  | promoteDone
  | shift (c : CmdCtx) (args : List W64)
  | shiftPublish
  | persist (c : CmdCtx) (args : List W64)
  | persistGo (src : Src) (v : W64)
  | autoPersist
  | persistDone (ok : Bool)
  | entryDataWrite (src : Src) (v : W64)
  | entryDataRead
  | computeWatchdog (phys : Nat)
  | coreResidueMismatch (phys core : Nat)
  | vecResidueMismatch (phys : Nat)
  | neighbourWatchExpire (phys : Nat)
  | repeaterClockLoss (phys : Nat)
  | arbiterStallTimeout
  | rimInterconnectUe
  -- 16 saggars
  | storeWindowCommit (src : Src) (v : W64)
  | jobOwnerWrite (src : Src) (job : Nat) (v : W64)
  | kilnSaggarWrite (src : Src) (k : Nat) (v : W64)
  | waferChangeInstall
  | waferChangeSettle (ns : Nat)
  -- 17 clocks, power, heat
  | pllUnlock
  | pllRelock
  | pllRelockTimeout
  | dividerSwitch (half : Nat)
  | supplySwitchover (toB : Bool)
  | supplySample (va ia vb ib watts : Nat)
  | wakeGrant
  | tileWakeDone (t : Nat)
  | sleep (c : CmdCtx) (inst : Nat) (args : List W64)
  | wake (c : CmdCtx) (inst : Nat) (args : List W64)
  | thermalSample (temps : List Int)
  | thermalLevelClear (level scope : Nat)
  -- 18 background work
  | storeScrubBurst (addr outcome : Nat)
  | clockPhaseCal (corrections marginPs : Nat)
  | hbmRecentre
  | trimEvaluate (want : List Nat)
  | hoursCount
  | hoursSave
  | selftestStart (phys : Nat)
  | selftestDone (phys bits : Nat)
  | telemetrySample (x : TeleExtra)
  | teleRingEnable (src : Src) (v : W64)
  | teleRingFail (sample : Nat)
  -- 19 reset and management
  | resetNAssert
  | resetNRelease (pos : Nat) (posValid held : Bool)
  | pllLock
  | pllLockTimeout
  | aonDone
  | crackLoadDone
  | treeBuildDone
  | storeTrainDone (failed : List Nat) (us : Nat)
  | hostPerstRelease (h : Nat)
  | hostLinkReset (h : Nat)
  | moduleReset
  | mgmtResetGo (src : Src) (v : W64)
  | mgmtRead (tag off : Nat)
  | mgmtWrite (tag off : Nat) (v : W64)
  | mgmtReset (tag : Nat)
  | i3cRead (idx : Nat)
  | tapInstruction (ir : Nat)
  -- the rows at the table's end
  | rimFlushDone (k : Nat)
  | imemDataHiRead (t : Nat)
  | hoursDataRead
  | msipWrite (src : Src) (core : Nat) (irqEn : Bool) (v : W64)
  | msixUnmask (f : Nat) (chg : MsixChange)
  | sramScrubLine (t slice line : Nat)
  | fieldRampEnd (field : Nat)
  | bothInputsConduct (together : Bool)
  | segServeDone (port i : Nat)
  | pauseFrame (port prio : Nat) (pause : Bool)
  deriving DecidableEq, Repr

end Sys2Proof
end

