-- ==== Sys2Proof/Machine/Num.lean ====
section
/-! DEFINITION. Numbers (chapter 03): the formats' values, exact dyadic arithmetic, one rounding at the end, and the
four classes of numeric exception. -/

namespace Sys2Proof.Machine

/-- A value: NaN, an infinity, or (−1)^neg × m × 2^e; m = 0 is a signed zero (R78–R81). -/
inductive Num where
  | nan
  | inf (neg : Bool)
  | fin (neg : Bool) (m : Nat) (e : Int)
  deriving DecidableEq, Repr

/-- The exception classes of R93 that one element raised. -/
structure Fl where
  nan : Bool := false
  inv : Bool := false
  ovf : Bool := false
  sat : Bool := false
  deriving DecidableEq, Repr

/-- Classes raised by either of two operations of one element; NAN_IN takes away INVALID (R93). -/
def Fl.or (a b : Fl) : Fl :=
  let n := a.nan || b.nan
  ⟨n, !n && (a.inv || b.inv), a.ovf || b.ovf, a.sat || b.sat⟩

/-- A floating-point format: exponent bits, fraction bits, bias, whether it has infinities (Tables 03-2, 03-3). -/
structure FFmt where
  eb : Nat
  mb : Nat
  bias : Nat
  hasInf : Bool
  deriving DecidableEq, Repr

def fp32 : FFmt := ⟨8, 23, 127, true⟩
def bf16 : FFmt := ⟨8, 7, 127, true⟩
def fp16 : FFmt := ⟨5, 10, 15, true⟩
def e4m3 : FFmt := ⟨4, 3, 7, false⟩
def e5m2 : FFmt := ⟨5, 2, 15, true⟩

/-- The floating-point format of a format code (Table 03-1). -/
def ffmtOf (f : Nat) : FFmt :=
  match f with | 0 => fp32 | 1 => bf16 | 2 => fp16 | 3 => e4m3 | _ => e5m2

/-- The exponent of the smallest subnormal. -/
def FFmt.low (f : FFmt) : Int := 1 - (f.bias : Int) - (f.mb : Int)

/-- The largest finite value's encoding without sign. -/
def FFmt.maxBits (f : FFmt) : Nat :=
  if f.hasInf then (2 ^ f.eb - 1) * 2 ^ f.mb - 1 else 2 ^ (f.eb + f.mb) - 2

/-- The canonical NaN (R80). -/
def FFmt.nanBits (f : FFmt) : Nat :=
  if f.hasInf then (2 ^ f.eb - 1) * 2 ^ f.mb + 2 ^ (f.mb - 1) else 2 ^ (f.eb + f.mb) - 1

/-- The positive infinity. -/
def FFmt.infBits (f : FFmt) : Nat := (2 ^ f.eb - 1) * 2 ^ f.mb

/-- The sign bit. -/
def FFmt.sign (f : FFmt) (neg : Bool) : Nat := if neg then 2 ^ (f.eb + f.mb) else 0

/-- The value of an encoding (R78, R79). -/
def FFmt.decode (f : FFmt) (b : Nat) : Num :=
  let neg := b / 2 ^ (f.eb + f.mb) % 2 = 1
  let ex := b / 2 ^ f.mb % 2 ^ f.eb
  let fr := b % 2 ^ f.mb
  if f.hasInf && ex = 2 ^ f.eb - 1 then (if fr = 0 then .inf neg else .nan)
  else if !f.hasInf && ex = 2 ^ f.eb - 1 && fr = 2 ^ f.mb - 1 then .nan
  else if ex = 0 then .fin neg fr f.low
  else .fin neg (2 ^ f.mb + fr) (f.low + (ex : Int) - 1)

/-- Rounding modes (Table 03-5); SR brings its 16 random bits (R89). -/
inductive Rnd where
  | rne
  | rtz
  | sr (r16 : Nat)
  deriving DecidableEq, Repr

/-- m / 2^k rounded to a natural number. -/
def roundShift (r : Rnd) (m k : Nat) : Nat :=
  if k = 0 then m else
  let q := m >>> k
  let rem := m % 2 ^ k
  match r with
  | .rne => if 2 ^ (k - 1) < rem ∨ (rem = 2 ^ (k - 1) ∧ q % 2 = 1) then q + 1 else q
  | .rtz => q
  | .sr r16 => if 0x10000 ≤ (rem * 2 ^ 16) / 2 ^ k + r16 then q + 1 else q

/-- A finite value rounded to a format: the encoding, and whether it overflowed (R91, Table 03-7).
DEDUCED, log entry 98. -/
def FFmt.round (f : FFmt) (r : Rnd) (sat : Bool) (neg : Bool) (m : Nat) (e : Int) : Nat × Bool :=
  if m = 0 then (f.sign neg, false) else
  let top : Int := (Nat.log2 m : Int) + e
  let q : Int := max (top - f.mb) f.low
  let k : Nat := if q ≤ e then m <<< (e - q).toNat else roundShift r m (q - e).toNat
  -- a significand that rounded up to the next power of two
  let k1 := if 2 ^ (f.mb + 1) ≤ k then k / 2 else k
  let q1 := if 2 ^ (f.mb + 1) ≤ k then q + 1 else q
  let bits : Nat := if k1 < 2 ^ f.mb then k1 else (q1 - f.low + 1).toNat * 2 ^ f.mb + (k1 - 2 ^ f.mb)
  if bits ≤ f.maxBits then (f.sign neg + bits, false)
  else
    let res : Nat := match r with
      | .rtz => f.maxBits
      | _ => if f.hasInf then (if sat && f = e5m2 then f.maxBits else f.infBits)
             else (if sat then f.maxBits else f.nanBits)
    -- an E4M3 NaN is the positive canonical one
    (if !f.hasInf && !sat && r ≠ .rtz then res else f.sign neg + res, true)

/-- A value converted to a floating-point format (R91): its encoding and the classes raised; a NaN operand is counted
by the caller's operation. -/
def FFmt.encode (f : FFmt) (r : Rnd) (sat : Bool) : Num → Nat × Fl
  | .nan => (f.nanBits, { nan := true })
  | .inf neg =>
    if f.hasInf then (f.sign neg + f.infBits, {})
    else if sat then (f.sign neg + f.maxBits, {}) else (f.nanBits, { inv := true })
  | .fin neg m e => let p := f.round r sat neg m e; (p.1, { ovf := p.2 })

/-! ## Exact arithmetic -/

/-- A signed integer as sign and magnitude times 2^e; an exact zero keeps the sign given. -/
def Num.ofInt (zeroNeg : Bool) (i : Int) (e : Int) : Num :=
  if i = 0 then .fin zeroNeg 0 0 else .fin (i < 0) i.natAbs e

/-- The integer of a finite value over 2^e0, for e0 at most its exponent. -/
def scaleTo (neg : Bool) (m : Nat) (e e0 : Int) : Int :=
  let v : Int := ((m <<< (e - e0).toNat : Nat) : Int)
  if neg then -v else v

/-- The exact sum; two zeros of one sign keep it, any other zero sum is +0 (R81). -/
def Num.add (a b : Num) : Num :=
  match a, b with
  | .nan, _ => .nan
  | _, .nan => .nan
  | .inf x, .inf y => if x = y then .inf x else .nan
  | .inf x, _ => .inf x
  | _, .inf y => .inf y
  | .fin n1 m1 e1, .fin n2 m2 e2 =>
    if m1 = 0 ∧ m2 = 0 then .fin (n1 && n2) 0 0
    else if m1 = 0 then .fin n2 m2 e2
    else if m2 = 0 then .fin n1 m1 e1
    else
      let e0 := min e1 e2
      Num.ofInt false (scaleTo n1 m1 e1 e0 + scaleTo n2 m2 e2 e0) e0

/-- The value with its sign turned. -/
def Num.neg : Num → Num
  | .nan => .nan
  | .inf x => .inf (!x)
  | .fin n m e => .fin (!n) m e

/-- The exact product. -/
def Num.mul (a b : Num) : Num :=
  match a, b with
  | .nan, _ => .nan
  | _, .nan => .nan
  | .inf x, .inf y => .inf (x != y)
  | .inf x, .fin n m _ => if m = 0 then .nan else .inf (x != n)
  | .fin n m _, .inf y => if m = 0 then .nan else .inf (n != y)
  | .fin n1 m1 e1, .fin n2 m2 e2 => .fin (n1 != n2) (m1 * m2) (e1 + e2)

/-- Whether a value is a NaN. -/
def Num.isNan : Num → Bool
  | .nan => true
  | _ => false

/-- Whether a value is a zero. -/
def Num.isZero : Num → Bool
  | .fin _ 0 _ => true
  | _ => false

/-- Whether a value is infinite. -/
def Num.isInf : Num → Bool
  | .inf _ => true
  | _ => false

/-- Order of values that are no NaN. -/
def Num.lt (a b : Num) : Bool :=
  match a, b with
  | .nan, _ => false
  | _, .nan => false
  | .inf x, .inf y => x && !y
  | .inf x, _ => x
  | _, .inf y => !y
  | .fin n1 m1 e1, .fin n2 m2 e2 =>
    let e0 := min e1 e2
    scaleTo n1 m1 e1 e0 < scaleTo n2 m2 e2 e0

/-- Whether two values that are no NaN are equal (−0 = +0). -/
def Num.eq (a b : Num) : Bool := !a.isNan && !b.isNan && !a.lt b && !b.lt a

/-- Classes of an operation on operands with a result: NAN_IN from a NaN operand, INVALID from a NaN that arose. -/
def opFl (ops : List Num) (r : Num) : Fl :=
  if ops.any Num.isNan then { nan := true } else { inv := r.isNan }

/-- The exact quotient of finite values, enough bits and a sticky bit for one later rounding; division by zero gives
an infinity, 0/0 and Inf/Inf a NaN (IEEE 754). -/
def Num.div (a b : Num) : Num :=
  match a, b with
  | .nan, _ => .nan
  | _, .nan => .nan
  | .inf x, .inf _ => let _ := x; .nan
  | .inf x, .fin n _ _ => .inf (x != n)
  | .fin n _ _, .inf y => .fin (n != y) 0 0
  | .fin n1 m1 e1, .fin n2 m2 e2 =>
    if m2 = 0 then (if m1 = 0 then .nan else .inf (n1 != n2))
    else if m1 = 0 then .fin (n1 != n2) 0 0
    else
      let k := 66 + Nat.log2 m2
      let q := (m1 <<< k) / m2
      let st := if (m1 <<< k) % m2 = 0 then 0 else 1
      .fin (n1 != n2) (2 * q + st) (e1 - e2 - (k : Int) - 1)

/-- The integer square root, bit by bit from 2^k down. -/
def isqrt (n : Nat) : Nat → Nat → Nat
  | 0, r => if (r + 1) * (r + 1) ≤ n then r + 1 else r
  | k + 1, r => isqrt n k (if (r + 2 ^ (k + 1)) * (r + 2 ^ (k + 1)) ≤ n then r + 2 ^ (k + 1) else r)

/-- The square root, enough bits and a sticky bit for one later rounding; a negative value gives a NaN (IEEE 754). -/
def Num.sqrt : Num → Num
  | .nan => .nan
  | .inf x => if x then .nan else .inf false
  | .fin n m e =>
    if m = 0 then .fin n 0 0
    else if n then .nan
    else
      let odd : Nat := if e % 2 = 0 then 0 else 1
      let m' := m <<< (80 + odd)
      let h := Nat.log2 m' / 2 + 1
      let r := isqrt m' h 0
      let st := if r * r = m' then 0 else 1
      .fin false (2 * r + st) ((e - (odd : Int)) / 2 - 41)

/-! ## FP32 results -/

/-- The value of FP32 bits. -/
def f32 (b : W32) : Num := fp32.decode b.toNat

/-- A value rounded to FP32 with RNE: bits and classes of the rounding alone. -/
def toF32 (v : Num) : W32 × Fl :=
  match v with
  | .fin n m e => let p := fp32.round .rne false n m e; (BitVec.ofNat 32 p.1, { ovf := p.2 })
  | .inf n => (BitVec.ofNat 32 (fp32.sign n + fp32.infBits), {})
  | .nan => (BitVec.ofNat 32 fp32.nanBits, {})

/-- An FP32 value inside an element, with the classes the element raised on its way to it. -/
abbrev FV := W32 × Fl

/-- Classes of an operation inside an element (R93): a NaN that arose on the way to an operand is no NaN operand. -/
def elFl (ops : List FV) (r : Num) : Fl :=
  let n := ops.any fun o => (f32 o.1).isNan && !o.2.inv
  ops.foldl (fun f o => f.or o.2) { nan := n, inv := !n && r.isNan }

/-- An FP32 operation inside an element: the exact result rounded once, and the element's classes. -/
def fvOp (ops : List FV) (r : Num) : FV :=
  let p := toF32 r
  (p.1, (elFl ops r).or p.2)

/-- The canonical NaN in place of any NaN (R80). -/
def canonF32 (b : W32) : W32 := if (f32 b).isNan then BitVec.ofNat 32 fp32.nanBits else b

/-! ## Integers (R82, R92) -/

/-- A finite value rounded to an integer. -/
def roundInt (r : Rnd) (neg : Bool) (m : Nat) (e : Int) : Int :=
  let k : Nat := if 0 ≤ e then m <<< e.toNat else roundShift r m (-e).toNat
  if neg then -(k : Int) else (k : Int)

/-- An integer held inside [lo, hi], and whether it was clamped. -/
def clampInt (lo hi i : Int) : Int × Bool := if i < lo then (lo, true) else if hi < i then (hi, true) else (i, false)

/-- A value converted to a two's-complement integer of w bits: outside the range or infinite it is clamped with
SATURATE, a NaN gives 0 with INVALID and no NAN_IN (R92, R93). -/
def Num.toInt (w : Nat) (r : Rnd) : Num → Int × Fl
  | .nan => (0, { inv := true })
  | .inf n => (if n then -(2 ^ (w - 1) : Int) else 2 ^ (w - 1) - 1, { sat := true })
  | .fin n m e =>
    let c := clampInt (-(2 ^ (w - 1) : Int)) (2 ^ (w - 1) - 1) (roundInt r n m e)
    (c.1, { sat := c.2 })

/-- The signed integer of w bits. -/
def sInt (w n : Nat) : Int := if n % 2 ^ w < 2 ^ (w - 1) then ((n % 2 ^ w : Nat) : Int) else ((n % 2 ^ w : Nat) : Int) - 2 ^ w

/-- A signed integer as w bits. -/
def ofSInt (w : Nat) (i : Int) : Nat := (i % (2 ^ w : Int)).toNat

/-! ## CVT (R90–R92) -/

/-- The rounding mode of a CVT field; code 2 takes random bits. -/
def cvtRnd (cvt r16 : Nat) : Rnd := match cvt / 16 % 4 with | 1 => .rtz | 2 => .sr r16 | _ => .rne

/-- Whether a CVT field is legal: a reserved RND, bit 7 and a reserved format are ARG (R88, R90). -/
def cvtLegal (cvt : Nat) : Bool := cvt % 16 ≤ 6 && cvt / 16 % 4 ≠ 3 && cvt / 128 % 2 = 0

/-- An FP32 value converted by a CVT field: bits of the target and classes. -/
def cvtOut (cvt r16 : Nat) (v : W32) : Nat × Fl :=
  let f := cvt % 16
  if f = 5 then let p := (f32 v).toInt 8 (cvtRnd cvt r16); (ofSInt 8 p.1, p.2)
  else if f = 6 then let p := (f32 v).toInt 32 (cvtRnd cvt r16); (ofSInt 32 p.1, p.2)
  else if f = 0 then (v.toNat, {})
  else (ffmtOf f).encode (cvtRnd cvt r16) (cvt / 64 % 2 = 1) (f32 v)

/-- The value of an element of a compute format. -/
def decodeElem (f n : Nat) : Num :=
  if f = 5 then Num.ofInt false (sInt 8 n) 0
  else if f = 6 then Num.ofInt false (sInt 32 n) 0
  else (ffmtOf f).decode n

/-! ## Wire formats (R83–R87) -/

/-- R86: an FP32 element as a WG8 code of scale exponent s: the code and whether it was clamped. -/
def toWg8 (s : Int) (v : W32) : Nat × Bool :=
  match f32 v with
  | .fin n m e =>
    let c := clampInt (-127) 127 (roundInt .rne n m (e - s))
    (ofSInt 8 c.1, c.2)
  | _ => (0x80, false)

/-- R86: the residual x − q × 2^s of a code, as a value. -/
def wg8Residual (s : Int) (v : W32) (code : Nat) : Num :=
  (f32 v).add (Num.ofInt false (-(sInt 8 code)) s)

/-- The poison code of a carrier of w bits. -/
def poisonCode (w : Nat) : Nat := 2 ^ (w - 1)

/-- R85: codes of carriers added exactly; any poison gives poison. -/
def wireAdd (wOut : Nat) (codes : List (Nat × Nat)) : Nat :=
  if codes.any fun c => c.2 % 2 ^ c.1 = poisonCode c.1 then poisonCode wOut
  else ofSInt wOut (codes.map fun c => sInt c.1 c.2).sum

/-- R87: a carrier's code as FP32; none for poison. -/
def wireToF32 (w code : Nat) (s : Int) : Option W32 :=
  if code % 2 ^ w = poisonCode w then none else some (toF32 (Num.ofInt false (sInt w code) s)).1

end Sys2Proof.Machine
end

