-- ==== Sys2Proof/Config.lean ====
section
/-! DEFINITION. What one implementation fixes, and the values the spec leaves open: opaque constants without a
body, so that no proof can use a value of theirs. -/

namespace Sys2Proof.Config

/-- A FREE VALUE: the FP32 result of the vector engine's transcendental function `fn` (0 = exp2, 1 = log2,
2 = rcp, 3 = rsqrt) at the operand's bits, outside the exact cases of Table 07-6.  R196 bounds it in ulps and
makes it a fixed function of the operand's bits; DESIGN CHOICE, log entry 5. -/
opaque trFn : Nat → BitVec 32 → BitVec 32

/-- A FREE VALUE: bytes or words the spec leaves undefined, one per value of the model's counter `State.free`;
DESIGN CHOICE, log entry 6. -/
opaque freeWord : Nat → BitVec 64

/-- A FREE VALUE: which of the three outcomes R223 leaves open a codeword with three or more flipped bits has. -/
opaque freeOutcome : Nat → Fin 3

/-- A FREE VALUE: the byte at address `a` of a scratchpad word with flip mask `m` that reads wrong unnoticed (R223). -/
opaque freeByte : Nat → Nat → BitVec 8

/-- A FREE VALUE: draw k of a vector instruction in FREE mode, whose value depends on timing (R202).
DESIGN CHOICE, log entry 59. -/
opaque freeDraw : Nat → Nat → BitVec 32

/-- A FREE VALUE: the byte of the store at address `a` after thermal trip number `g`, which leaves the store's contents
undefined (R482). DESIGN CHOICE, log entry 13. -/
opaque lostByte : Nat → Nat → BitVec 8

end Sys2Proof.Config
end

