-- ==== Sys2Proof/Machine/FMap.lean ====
section
/-! DEFINITION. Finite maps with a default: a list of (key, value) pairs in one canonical form, the keys' codes
strictly rising and no value equal to what an unlisted key reads as, so that equal contents are equal data. -/

namespace Sys2Proof.Machine

/-- A finite map: the entries that differ from the default, by rising key code. -/
abbrev FMap (κ α : Type) := List (κ × α)

/-- The listed value of a key, if the key is listed. -/
def ffind {κ α : Type} [DecidableEq κ] : FMap κ α → κ → Option α
  | [], _ => none
  | e :: m, k => if e.1 = k then some e.2 else ffind m k

/-- What a key reads as: its listed value, else the default. -/
def fget {κ α : Type} [DecidableEq κ] (d : κ → α) (m : FMap κ α) (k : κ) : α :=
  (ffind m k).getD (d k)

/-- The map without a key: it reads as the default again. -/
def fdrop {κ α : Type} [DecidableEq κ] (m : FMap κ α) (k : κ) : FMap κ α :=
  m.filter fun e => e.1 ≠ k

/-- The map without every key of a set. -/
def fclear {κ α : Type} (p : κ → Bool) (m : FMap κ α) : FMap κ α :=
  m.filter fun e => !p e.1

/-- A pair put at its place among rising codes. -/
def finsert {κ α : Type} (c : κ → Nat) (k : κ) (v : α) : FMap κ α → FMap κ α
  | [] => [(k, v)]
  | e :: m => if c k < c e.1 then (k, v) :: e :: m else e :: finsert c k v m

/-- A write: the key reads as the value; a value equal to the default leaves no entry. -/
def fset {κ α : Type} [DecidableEq κ] [DecidableEq α] (c : κ → Nat) (d : κ → α) (m : FMap κ α) (k : κ)
    (v : α) : FMap κ α :=
  if v = d k then fdrop m k else finsert c k v (fdrop m k)

/-- The canonical form: codes strictly rising, no listed value equal to the default. -/
abbrev fwf {κ α : Type} (c : κ → Nat) (d : κ → α) (m : FMap κ α) : Prop :=
  m.Pairwise (fun a b => c a.1 < c b.1) ∧ ∀ e ∈ m, e.2 ≠ d e.1

end Sys2Proof.Machine
end

