-- ==== Sys2Proof/Machine/State.lean ====
section
/-! DEFINITION. The state of the module, as plain data, and its value after reset. -/

namespace Sys2Proof.Machine

/-- A register: its block, its instance, its offset in the page (R31).  A page of a tile is keyed by the tile's
PHYSICAL index (R12, R395); a CORE page by 4 times that index plus the core number (R43). -/
structure RK where
  blk : Blk
  inst : Nat
  off : Nat
  deriving DecidableEq, Repr

/-- The number of a block type in Table 02-4. -/
def blkCode : Blk → Nat
  | .mgmt => 1 | .arb => 2 | .clk => 3 | .pwr => 4 | .therm => 5 | .tele => 6 | .crack => 7 | .saggar => 8
  | .kiln => 9 | .slip => 10 | .glaze => 11 | .pug => 12 | .fab => 13 | .blink => 14 | .host => 15 | .rim => 16
  | .tile => 17 | .core => 18 | .vec => 19 | .tdma => 20 | .router => 21 | .sem => 22

/-- The block of a code of Table 02-4. -/
def blkOfCode : Nat → Option Blk
  | 1 => some .mgmt | 2 => some .arb | 3 => some .clk | 4 => some .pwr | 5 => some .therm | 6 => some .tele
  | 7 => some .crack | 8 => some .saggar | 9 => some .kiln | 10 => some .slip | 11 => some .glaze
  | 12 => some .pug | 13 => some .fab | 14 => some .blink | 15 => some .host | 16 => some .rim | 17 => some .tile
  | 18 => some .core | 19 => some .vec | 20 => some .tdma | 21 => some .router | 22 => some .sem | _ => none

/-- A number for each register, by which the register map is sorted. -/
def RK.key (k : RK) : Nat := Nat.pair (Nat.pair (blkCode k.blk) k.inst) k.off

/-- The kinds of hidden scalar state: numbers the module holds that no register shows. -/
inductive AuxKind where
  /-- TAIL of command ring n of function f as the last doorbell gave it (R51); arguments f, n. -/
  | ringTail
  /-- 1 while ring n of function f is being fetched (R51); arguments f, n. -/
  | ringFetch
  /-- the ring last served of a function's four, plus 1 (round robin, R54); argument f. -/
  | ringLast
  /-- MSI-X Enable of a function's configuration space (R62); arguments f, link (0 for a virtual function). -/
  | msixEn
  /-- MSI-X Function Mask (R62); arguments as for msixEn. -/
  | msixMask
  /-- 1 while RESET_N is asserted (R476). -/
  | resetHeld
  /-- compute power state of a physical tile: 0 OFF, 1 WAKING, 2 ON, 3 FENCED (Table 17-2); argument: index. -/
  | tilePwr
  /-- what the sequencer of a tile waits for at PC: 0 nothing, 1 WAIT, 2 SWAP, 3 DRAIN, 4 END; argument: index. -/
  | seqWait
  /-- 1 once a comparator has had a CMPSET since the last START or step start (R115); arguments: index, comparator. -/
  | cmpLive
  /-- the initial count the image gives a semaphore (R126, Table 13-6); arguments: index, semaphore. -/
  | semInit
  /-- the half a core's next transposing-buffer operand goes to (R143); argument: 4 × index + core. -/
  | tbNext
  /-- 1 plus the step with which a tile that is ABORTING starts once its flush is complete (R126); argument: index. -/
  | startDue
  /-- lines a ring of a tile holds; arguments: index, ring. -/
  | ringLines
  /-- 1 while a field's compute rail is off by heat (R456); argument: field. -/
  | fieldHeat
  /-- 1 while a module change of the geometry waits to be built (R25). -/
  | geoDue
  /-- lines of the current packet a route entry, stream or set output has still to send; arguments: index, entry. -/
  | outLeft
  /-- the frame in which a source last sent (WCOUNT divided by the cone's frame, plus 1) and the lines it sent in it
  (R259); arguments: source, sub-source. -/
  | lineFrame
  | lineUsed
  /-- lines popped from a fed ring and not yet credited (R260); arguments: index, ring. -/
  | ringFreed
  /-- the feeder of a ring as its last packet named it, plus 1 (R260); arguments: index, ring. -/
  | ringFeed
  /-- line credits of a set that leaves to a pug (R307); arguments: index, set. -/
  | combCredit
  /-- line credits a feeder has used (R260), and the entry link of a stream's feeder; argument: feeder. -/
  | feedUsed
  | feedLink
  /-- WCOUNT, plus 1, at which a router last sent a NOTICE for a stream (R266); arguments: index, stream. -/
  | noticeAt
  /-- the edge of CK_NET at which a token bucket is full again (R245); argument: bucket. -/
  | bucket
  /-- WCOUNT, plus 1, at which an output last sent a flit (R246); arguments: 8 × router + output, lane. -/
  | outAt
  /-- instructions of a ring-0 DMA still to run: descriptors left (R229); argument: index. -/
  | dmaLeft
  /-- 1 plus the code with which a ring-0 descriptor ended an instruction that has not faulted yet; argument: index. -/
  | dmaErr
  /-- 1 plus the request whose response lines are arriving; argument: index. -/
  | dmaRid
  /-- the ring D served last, plus 1 (chapter 08); argument: index. -/
  | dmaLast
  /-- TAIL of ring 1 as the last doorbell gave it, plus 1 while a fetch is due (R239); argument: index. -/
  | hTail
  /-- 1 while a step of a job is open (R356); argument: job. -/
  | stepOpen
  /-- the step number of a job's last STEP (R350); argument: job. -/
  | stepNo
  /-- 1 plus the step number of a job's last aborted step (R327); argument: job. -/
  | stepAborted
  /-- 1 once a job's own module has voted for the open step (R340): 1 PREPARED, 2 HELD; argument: job. -/
  | voted
  /-- 1 plus the step whose COMMIT the coordinator still repeats (R340); argument: job. -/
  | committed
  /-- 1 plus the address of a kiln's image or slot while a command runs (R364, R366), and the bytes of a slot being written;
  arguments: kiln, 0 or 1. -/
  | kilnAddr
  /-- WCOUNT, plus 1, at the admission of a kiln's running command (CMD_TIME); argument: kiln. -/
  | kilnT0
  /-- 1 once a shift or a death moved tiles of a faulted kiln since its LOAD (R406); argument: kiln. -/
  | kilnMoved
  /-- steps completed by a kiln are in its page; the last step taken part in (R349); argument: kiln. -/
  | kilnLast
  /-- 1 while a feed is bound by a kiln's image, the kiln plus 1; arguments: pug, feed. -/
  | feedKiln
  /-- the kiln, plus 1, that holds a gather window (R362); arguments: port, window. -/
  | winKiln
  /-- 1 while HELLO has matched on a board link in TRAINING, 2 for a mismatch; argument: link port. -/
  | helloSeen
  /-- the number of the last heartbeat sent (R382). -/
  | hbSeq
  /-- WCOUNT, plus 1, at the last NAK of a class to a peer (R378); arguments: 4096 × port + module, 2 × class + alias. -/
  | nakAt
  /-- 1 while a priority of a port is paused (R387); arguments: link port, priority. -/
  | paused
  /-- the persist in progress: 1 plus the copy being programmed, 3 while only requested (R398). -/
  | persist
  /-- 1 while a recorded death waits for the flash (R398): a = 0 not in a build, 1 in the running build, 2 published. -/
  | persistDue
  /-- SHIFT commands that wait (R404): a = 0 for a build, 1 for the running build's publication. -/
  | shiftDue
  /-- 1 while the L0 peer's PAIR is held (R411). -/
  | pairHeld
  /-- 1 once PAIR_ACK was received, 1 once it was sent (R411). -/
  | pairAckIn
  | pairAckOut
  /-- what the peer's PAIR said: word 0 and 1 of its payload (R411); argument: word. -/
  | pairWord
  /-- 1 while a field ramps (R451); argument: field. -/
  | ramping
  /-- 1 while FIELD_ON is due when a field's wakes are done (R456); argument: field. -/
  | fieldOnDue
  /-- thermal levels held: level 1 of the module; 2 and network per half; 3 per field; arguments: level, scope. -/
  | level
  /-- the last supply input that carried alone, plus 1 (R447). -/
  | lastSole
  /-- 1 while the physical tile is under self-test (R467); argument: index. -/
  | selftest
  /-- samples taken since power-on (Table 18-3). -/
  | samples
  /-- 1 while telemetry samples were lost since the last one written (R474). -/
  | teleLost
  /-- scrub passes: the stacks that completed the present pass (R463); argument: stack. -/
  | scrubPos
  /-- milliseconds ON and active of a physical tile not yet a whole 1/16 hour (R466); argument: index. -/
  | onMs
  | activeMs
  /-- a requester of a slice is urgent (R219); arguments: index × 8 + requester, slice. -/
  | urgent
  /-- 1 while a Function Level Reset waits for the end of a module reset (R484); argument: function. -/
  | flrWait
  /-- 1 while a link reset waits for the end of a module reset (R484); argument: link. -/
  | linkWait
  /-- a = 0: a module reset runs (R484): 1, or 2 while the crack map is held through it; a = 1: the kind requested and not yet
  begun, 2 by the management port, 3 by MGMT.RESET. -/
  | resetting
  /-- RESET_N straps sampled: BOARD_POS and POS_VALID (R494); argument 0, 1. -/
  | strap
  /-- WCOUNT, plus 1, at a thermal trip (R484). -/
  | tripAt
  /-- 1 once PERST# of a host link is released (R480); argument: link. -/
  | perst
  /-- a divider decision that waits for a switch edge: 1 plus WCOUNT at the decision (R442); argument: half. -/
  | divDue
  /-- lines of a sparse queue's head that stay until its last tile is popped (R165); arguments: index, ring. -/
  | ringKept
  /-- 1 plus the slot of the partner's mirror a unit last flipped (R343, R345); argument: port. -/
  | mirrorSlot
  /-- the last TAP instruction (R498). -/
  | tapIr
  /-- ECC counts of the whole module since reset (Table 18-3): 0 corrected words, 1 bad words, 2 corrected bursts, 3 bad
  bursts. -/
  | eccTotal
  /-- the pc a rim core starts at or was halted at, and its privilege mode, 3 machine, 1 supervisor, 0 user (R72);
  argument: core. -/
  | rimPc
  | rimMode
  /-- the mie CSR and the stimecmp CSR of a waiting rim core, as its WFI found them (R72, R73); argument: core. -/
  | rimMie
  | rimStimecmp
  /-- 1 once a calibration has shown a FIFO margin (Table 18-4). -/
  | calSeen
  deriving DecidableEq, Repr

/-- A hidden scalar: its kind and up to two numbers. -/
structure Aux where
  kind : AuxKind
  a : Nat := 0
  b : Nat := 0
  deriving DecidableEq, Repr

/-- A number for each kind. -/
def AuxKind.code (k : AuxKind) : Nat := k.ctorIdx

/-- A number for each hidden scalar, by which their map is sorted. -/
def Aux.key (k : Aux) : Nat := Nat.pair (Nat.pair k.kind.code k.a) k.b

/-- A command the arbiter accepted and a block has not completed (R54): its entry's fields, its block, its instance,
its opcode, its arguments, its sequence number; `post` falls when a Function Level Reset or a module reset takes its
result away (R58, R483); `res` holds a code already found during execution. -/
structure Running where
  ctx : CmdCtx
  blk : Blk
  inst : Nat
  op : Nat
  args : List W64
  seq : Nat
  post : Bool
  res : Option Nat := none
  deriving DecidableEq, Repr

/-- A command entry the module has fetched and not decided (R51). -/
structure Fetched where
  func : Nat
  ring : Nat
  idx : Nat
  entry : CmdEntry
  deriving DecidableEq, Repr

/-- An event that waits at the arbiter (R36, R46): its page, its bit, and CODE and INFO of its entry (Table 02-11). -/
structure Event where
  blk : Blk
  inst : Nat
  bit : Nat
  code : Nat
  info : Nat
  deriving DecidableEq, Repr

/-- A tile signal to a host semaphore on its way to the arbiter (R64): the kiln of the tile, the semaphore, COUNT. -/
structure HostSig where
  kiln : Nat
  sem : Nat
  count : Nat
  deriving DecidableEq, Repr

/-- The register arbiter's and the host interface's waiting items (chapter 02), each list oldest first. -/
structure HostSt where
  running : List Running := []
  fetched : List Fetched := []
  evq : List Event := []
  signals : List HostSig := []
  deriving DecidableEq, Repr

/-- The links of a router (R240): local, north, east, south, west. -/
inductive Dir where
  | l | n | e | s | w
  deriving DecidableEq, Repr

/-- An operand as the sequencer resolves it at dispatch (R107–R110): the advance of a descriptor is in `base`; `held` is a
descriptor operand the transposing buffer holds already (R143), its elements packed as a queue end's. -/
inductive Opd where
  | none
  | desc (base fmt n0 n1 n2 st1 st2 : Nat)
  | q (qid lines : Nat)
  | held
  deriving DecidableEq, Repr

/-- An instruction in an engine queue (R101): its tile (physical index), engine, place, word, operands, whether it has
issued (all its pops taken, `popA`, `popB` their bytes), whether its work is done. -/
structure QInstr where
  p : Nat
  e : Nat
  pc : Nat
  bank : Nat
  word : W128
  a : Opd
  b : Opd
  c : Opd
  issued : Bool := false
  worked : Bool := false
  popA : List Byte := []
  popB : List Byte := []
  /-- pops taken so far: OPD_A's, then OPD_B's, of which a sparse one is popped tile by tile (R111, R164). -/
  tk : Nat := 0
  /-- the halves of the transposing buffer its operand was loaded into: 1, 2, both 3, none 0 (R143). -/
  tb : Nat := 0
  /-- TILE.PC.DISPATCHED at its dispatch (Table 05-12). -/
  disp : Nat := 0
  /-- what a VOP captures at dispatch: VL, its chain descriptor, its immediate slot (R187, R191). -/
  vl : Nat := 0
  chain : W128 := 0
  imm : W128 := 0
  deriving DecidableEq, Repr

/-- The A operand a core's transposing buffer holds from a sparse instruction (R164): the core (4 × physical index +
core), its halves, M1, K1, FMT_A, TRA, and A's elements row by row. -/
structure TbA where
  core : Nat
  halves : Nat
  m1 : Nat
  k1 : Nat
  fmt : Nat
  tra : Nat
  elems : List Nat
  deriving DecidableEq, Repr

/-- Lines an instruction pushed into an output ring and the network has not yet taken (R103, R244): tile, ring,
engine, lines. -/
structure Push where
  p : Nat
  q : Nat
  e : Nat
  lines : Nat
  deriving DecidableEq, Repr

/-- A remote request of the tile DMA engine (R227): a read or a write, for the destination (KEEP) or the source, its
address, its place in the transfer, its lines or bytes. -/
structure DReq where
  rid : Nat
  write : Bool
  forDst : Bool
  addr : Nat
  pos : Nat
  lines : Nat
  data : List Byte
  deriving DecidableEq, Repr

/-- A descriptor that D runs (R226–R234): its words, its phase (0 reads the source, 1 reads the destination, 2 writes,
3 done, 4 ended by its check), its requests to send and outstanding, the pieces read (in phase 1 its whole data at hand, with the
code of the source's error in `status`), its stored tiles not yet counted, the bytes to store without the CRC and those stored so
far, and what it writes back. -/
structure DmaJob where
  p : Nat
  ring : Nat
  idx : Nat
  w0 : W64
  w1 : W64
  w2 : W64
  w3 : W64
  phase : Nat := 0
  reqs : List DReq := []
  outst : List DReq := []
  pieces : List (Nat × List Byte) := []
  olds : List (Nat × List Byte) := []
  status : Nat := 0
  tiles : List (Nat × Nat × Nat) := []
  body : Nat := 0
  stored : Nat := 0
  crc : Nat := 0
  hostStop : Option Nat := none
  failAt : Option (Nat × Nat) := none
  deriving DecidableEq, Repr

/-- The tiles' queues, transposing buffers, pushes under way and DMA transfers (chapters 04–06, 08). -/
structure TileSt where
  q : List QInstr := []
  tbs : List TbA := []
  pushes : List Push := []
  jobs : List DmaJob := []
  deriving DecidableEq, Repr

/-! ## The wafer network (chapter 09) -/

/-- A packet header (Table 09-3); `lines` is LINES1 + 1, 0 for a control packet. -/
structure Hdr where
  typ : Nat := 0
  cone : Nat := 0
  lines : Nat := 0
  dx : Nat := 0
  dy : Nat := 0
  sx : Nat := 0
  sy : Nat := 0
  x2 : Nat := 0
  y2 : Nat := 0
  sag : Nat := 0
  stream : Nat := 0
  set : Nat := 0
  rim : Bool := false
  exitEn : Bool := false
  exit : Nat := 0
  kiln : Nat := 0
  arg : Nat := 0
  rsvd : Nat := 0
  deriving DecidableEq, Repr

/-- A flit (Table 09-2) with its whole packet's header: its lane, its line, the router it stands at and the input port it came
in by, the moves of a detour it has still to make, the target and source row of its present leg, its branch (0 toward the
destination or a multicast's entry point, 1 E, 2 W, 3 N, 4 S, 5 at a delivery), its EPOCH (R432), root authority (R227), and its
feeder; `due` is the edge of CK_NET from which a line is eligible (R246), or that of a control flit's injection (R245); `wait`
is 1 plus the token bucket a control packet waits for at its source, 0 once it has left (R245).  The header's DETOUR bit is set
while `todo` is not empty; its reserved bits, with those of the tag, are `rsvd`. -/
structure Flit where
  h : Hdr
  ctrl : Bool := false
  head : Bool := true
  tail : Bool := true
  line : List Byte := []
  at_ : Nat
  inp : Dir := .l
  due : Nat := 0
  wait : Nat := 0
  todo : List Dir := []
  tx : Nat
  ty : Nat
  ly : Nat
  br : Nat := 0
  epoch : Nat := 0
  root : Bool := false
  feed : Nat := 0
  deriving DecidableEq, Repr

/-- A packet at an input of a combine set (R255): router, set, input. -/
structure CombIn where
  p : Nat
  set : Nat
  dir : Dir
  h : Hdr
  epoch : Nat
  full : Bool
  lines : List (List Byte)
  deriving DecidableEq, Repr

/-- The output of a combine set that waits to be accepted (R255, R259). -/
structure CombOut where
  p : Nat
  set : Nat
  h : Hdr
  lines : List (List Byte)
  deriving DecidableEq, Repr

/-- A packet that left the square through an edge link (R251): port, link. -/
structure EdgePkt where
  port : Nat
  link : Nat
  h : Hdr
  epoch : Nat
  root : Bool
  feed : Nat
  full : Bool
  lines : List (List Byte)
  deriving DecidableEq, Repr

/-- Chunks of credit that one branch of a multicast has returned to a router and the others not yet (R260): router, feeder,
branch (L for the router's own delivery). -/
structure Merge where
  p : Nat
  feed : Nat
  br : Dir
  chunks : Nat
  deriving DecidableEq, Repr

/-- An output that a packet holds until its TAIL (R246): router, output, the packet's input port and header. -/
structure Hold where
  p : Nat
  out : Dir
  inp : Dir
  h : Hdr
  deriving DecidableEq, Repr

/-- A reservation of a loaded kiln at a router (R261): kind 0–4 outputs N, E, S, W, L, 5–9 the inputs of the same
ports, 10 a multicast merge stream, 11 an edge link (p is then port × 16 + link, out of the square) and 12 (into it);
its cone and its lines per frame. -/
structure Rsv where
  kiln : Nat
  p : Nat
  kind : Nat
  cone : Nat
  rate : Nat
  deriving DecidableEq, Repr

structure NetSt where
  flits : List Flit := []
  combIn : List CombIn := []
  combOut : List CombOut := []
  edge : List EdgePkt := []
  merges : List Merge := []
  rsv : List Rsv := []
  holds : List Hold := []
  /-- background lines sent in the last 1,024 cycles: 8 × router + output, and the edge of CK_NET (R470). -/
  bg : List (Nat × Nat) := []
  deriving DecidableEq, Repr

/-! ## Slip ports (chapter 10) -/

/-- A version sample (R292): window segment (0 for HOME), VERSION, ALT; the stack and slot of the generation resolved
in place (stack 48: a remote segment's copy). -/
structure Sample where
  seg : Nat
  ver : Nat
  alt : Nat
  stack : Nat := 48
  slot : Nat := 0
  deriving DecidableEq, Repr

/-- A running stream: port, context, entry, the entry's four words, its start
samples with the generations it resolved, the lines it has sent, its tag. -/
structure Strm where
  port : Nat
  ctx : Nat
  entry : Nat
  e0 : W64
  e1 : W64
  e2 : W64
  e3 : W64
  start : List Sample
  sent : Nat := 0
  tag : Nat := 0
  deriving DecidableEq, Repr

/-- A segment of a gather window (Table 10-9): its place, its state (0 waits to be asked, 1 asked, 2 arrived, 3 answered
without data), its tag, VERSION and ALT. -/
structure Seg where
  port : Nat
  w : Nat
  seg : Nat
  module_ : Nat
  path : Nat
  link : Nat
  stack : Nat
  off : Nat
  len : Nat
  woff : Nat
  st : Nat := 0
  tag : Nat := 0
  ver : Nat := 0
  alt : Nat := 0
  deriving DecidableEq, Repr

/-- An entry of the gather log (R294). -/
structure GLog where
  port : Nat
  kiln : Nat
  ctx : Nat
  layer : Nat
  seg : Nat
  ver : Nat
  alt : Nat
  deriving DecidableEq, Repr

/-- An open wedged transfer of a slip port (R297): source tile, TXN, kiln, FIRST's address, the wedging word, the bytes
received, the bytes stored. -/
structure Xfer where
  port : Nat
  src : Nat
  txn : Nat
  kiln : Nat
  addr : Nat
  word : Nat
  data : List Byte
  old : List Byte
  stored : Nat
  deriving DecidableEq, Repr

/-- The reserved read rate of a loaded stream (R284): kiln, stack read, port, MB/s, whether it transposes. -/
structure Bud where
  kiln : Nat
  stack : Nat
  port : Nat
  mbps : Nat
  tr : Bool
  deriving DecidableEq, Repr

/-- A tag whose holder a flush dropped, and that waits for the answer or the deadline (R280): a segment request's module and link
port, or a store read, whose deadline ends at an edge of CK_NET. -/
structure Drained where
  tag : Nat
  module_ : Nat := 0
  link : Option Nat := none
  due : Nat := 0
  deriving DecidableEq, Repr

structure SlipSt where
  streams : List Strm := []
  segs : List Seg := []
  glog : List GLog := []
  xfers : List Xfer := []
  bud : List Bud := []
  /-- tags of streams and segment requests a step start or an ABORT has dropped, held until R280 retires them. -/
  drain : List Drained := []
  deriving DecidableEq, Repr

/-! ## Pug units (chapter 11) -/

/-- A part of a feed's list (Table 11-1) as read at the step start. -/
structure Part where
  bucket : Nat
  off : Nat
  n : Nat
  deriving DecidableEq, Repr

/-- A bucket of a job's step on this module (Tables 11-2, 11-6): its entry's address and fields, its state, the codes it
holds for its present range (element, code; FP32 bits for a RAW bucket), the senders verified in the present stage, and
the header values of R321. -/
structure Bkt where
  job : Nat
  id : Nat
  addr : Nat
  chan : Nat
  order : Nat
  raw : Bool
  ef : Bool
  resFmt : Nat
  elems : Nat
  scale : Nat
  stages : Nat
  glaze : Nat
  step : Nat
  state : Nat
  stage : Nat := 0
  got : Nat := 0
  lo : Nat := 0
  n : Nat := 0
  /-- codes as 0 … 2^32: the low 32 bits of a signed code, 2^32 for poison. -/
  vals : FMap Nat Nat := []
  from_ : List Nat := []
  ncon : Nat := 1
  c : Nat := 0
  pcorr : Nat := 0
  pcount : Nat := 0
  pmin : Option Nat := none
  /-- sums under way for the module's own range in the present stage, as for `vals`. -/
  sum : FMap Nat Nat := []
  sncon : Nat := 0
  sc : Nat := 0
  spcorr : Nat := 0
  spcount : Nat := 0
  spmin : Option Nat := none
  sat : Nat := 0
  code : Nat := 0
  deriving DecidableEq, Repr

/-- A COMB packet in a feed's ingress buffer (R307). -/
structure FeedPkt where
  u : Nat
  f : Nat
  h : Hdr
  epoch : Nat
  lines : List (List Byte)
  deriving DecidableEq, Repr

structure PugSt where
  buckets : List Bkt := []
  feedq : List FeedPkt := []
  deriving DecidableEq, Repr

/-! ## Glaze units (chapter 12) -/

/-- A range delivered to a glaze unit (R337): unit, entry of its range table, bucket; 0 delivered, 1 written,
2 accepted. -/
structure GRange where
  port : Nat
  idx : Nat
  bucket : Nat
  st : Nat
  deriving DecidableEq, Repr

/-- A vote the coordinator holds (R340). -/
structure VoteRec where
  job : Nat
  step : Nat
  module_ : Nat
  held : Bool
  deriving DecidableEq, Repr

/-- A mirror flip that is due or under way (R343): unit, job, step, the slot committed, whether MHDR has left. -/
structure MFlip where
  port : Nat
  job : Nat
  step : Nat
  slot : Nat
  sent : Bool := false
  deriving DecidableEq, Repr

/-- A mirror write that waits for the flip of an earlier step (R343): unit, step, MWRITE payload. -/
structure MWait where
  port : Nat
  step : Nat
  data : List Byte
  deriving DecidableEq, Repr

structure GlazeSt where
  ranges : List GRange := []
  /-- hyperparameter tables as read at the step start (R335): unit and bytes. -/
  hyper : List (Nat × List Byte) := []
  votes : List VoteRec := []
  /-- modules that acknowledged COMMIT: job, module. -/
  acks : List (Nat × Nat) := []
  mirrorQ : List MWait := []
  /-- mirror flips, in the order of their commits. -/
  flips : List MFlip := []
  /-- units that met a poisoned element in the present step (R338). -/
  tainted : List Nat := []
  deriving DecidableEq, Repr

/-! ## Fabric ports and board links (chapter 14); link ports 0–15 are F0–F15, 16–18 L0–L2 -/

/-- A sequenced frame kept until it is acknowledged (R378), whether it has been sent, and the first four bytes of its
message (JOB, STAGE, BUCKET of a RECORD). -/
structure SentFrame where
  cls : Nat
  sent : Bool
  fr : Frame
  ref : Nat := 0
  deriving DecidableEq, Repr

/-- One class of one peer, both directions (R378, R379): the next SEQ and MSG to give, NEXT and CREDIT of the last ACK
(none before the first), timeouts in a row; the next SEQ expected, the message being assembled, whether it is a RECORD of a step
aborted meanwhile (R328). -/
structure Chan where
  sNext : Nat := 0
  sMsg : Nat := 0
  sBase : Nat := 0
  sLimit : Option Nat := none
  retries : Nat := 0
  rNext : Nat := 0
  asm : List Byte := []
  stale : Bool := false
  deriving DecidableEq, Repr

/-- A peer entry (Table 14-7): link port, module, whether its own side is ALIAS (R416), state 0 SYNC 1 UP 2 DOWN,
heartbeat seen since the last tick, missed ticks, WEDGED, PMODE, last HB_SEQ received, HB_SEQ at entering
SYNC, BOARD_POS, the four classes, the frames not yet acknowledged. -/
structure Peer where
  port : Nat
  module_ : Nat
  alias_ : Bool := false
  st : Nat := 0
  seen : Bool := false
  missed : Nat := 0
  wedged : Bool := false
  pmode : Nat := 0
  lastHb : Nat := 0
  hbBase : Nat := 0
  pos : Nat := 0
  c0 : Chan := {}
  c1 : Chan := {}
  c2 : Chan := {}
  c3 : Chan := {}
  frames : List SentFrame := []
  deriving DecidableEq, Repr

/-- A message a port has accepted and no step has taken yet (R374): port, sender, whether it came for ALIAS, class,
type, payload. -/
structure InMsg where
  port : Nat
  src : Nat
  alias_ : Bool
  cls : Nat
  typ : Nat
  data : List Byte
  deriving DecidableEq, Repr

/-- A segment request a port serves or queues (R376): its port, requester, whether for ALIAS, TAG, STACK, PEER_OFF, LEN;
whether it is being served, and the slot it pins. -/
structure Serve where
  port : Nat
  src : Nat
  alias_ : Bool
  tag : Nat
  stack : Nat
  off : Nat
  len : Nat
  busy : Bool := false
  slot : Nat := 0
  deriving DecidableEq, Repr

structure FabSt where
  peers : List Peer := []
  inbox : List InMsg := []
  /-- RECORDs for the next step, held under credit (R326, R379). -/
  held : List InMsg := []
  serves : List Serve := []
  /-- datagrams that wait for a paused priority (R387): link port, frame. -/
  dgrams : List (Nat × Frame) := []
  /-- references of loaded kilns to peers (R381): kiln, fabric port, module. -/
  refs : List (Nat × Nat × Nat) := []
  deriving DecidableEq, Repr

/-! ## Crack map, power, saggars, rim cores -/

/-- A flash copy (R397, R466): whether valid, SEQ, its entries that are not 0. DESIGN CHOICE, log entry 120. -/
structure FlashCopy where
  valid : Bool := false
  seq : Nat := 0
  entries : FMap Nat Nat := []
  deriving DecidableEq, Repr

structure FaultSt where
  /-- the crack map's entries that are not 0, bits [10:0] (Table 15-1), by physical index. -/
  crack : FMap Nat Nat := []
  copyA : FlashCopy := {}
  copyB : FlashCopy := {}
  hoursA : FlashCopy := {}
  hoursB : FlashCopy := {}
  /-- ON_HOURS and ACTIVE_HOURS in 1/16 hour: keys 2 × index, 2 × index + 1. -/
  hours : FMap Nat Nat := []
  /-- the clock tree (R440): parent and standby parent of each repeater as directions + 1 (0 none), and the one in use:
  parent + 8 × standby + 64 × in use (0 parent, 1 standby). -/
  tree : FMap Nat Nat := []
  deriving DecidableEq, Repr

structure PowerSt where
  /-- wake requests waiting, in order: logical tile (R451). -/
  wakes : List Nat := []
  /-- tiles granted and WAKING: logical tile. -/
  waking : List Nat := []
  /-- WCOUNT, plus 1, at a tile's wake request. -/
  asked : FMap Nat Nat := []
  /-- the grants of the last 8 µs: field and WCOUNT (R451). -/
  grants : List (Nat × Nat) := []
  /-- newest sensor readings × 16 plus 2^15, and the highest since reset, keys 2n and 2n + 1 (Table 17-10). -/
  sensors : FMap Nat Nat := []
  /-- trim steps and aging indices of fields, keys 2f and 2f + 1 (R465). -/
  trims : FMap Nat Nat := []
  deriving DecidableEq, Repr

/-- A wafer change (R432): kind 0 kiln SAGGAR, 1 store window, 2 JOB_OWNER; its index; the values before it. -/
structure Change where
  kind : Nat
  idx : Nat
  old0 : W64
  old1 : W64
  installed : Bool
  deriving DecidableEq, Repr

structure SagSt where
  /-- store windows (SW_LO, SW_HI), keys 2w and 2w + 1. -/
  wins : FMap Nat Nat := []
  change : Option Change := none
  /-- wafer changes, and later writes of their sources, that wait at the arbiter, oldest first (R47, R433). -/
  waiting : List (Src × Instr) := []
  deriving DecidableEq, Repr

/-- A cache line a rim core or its L2 has modified and the store does not hold yet (R71): line address, cluster, core
(8 for the L2 itself), the store's own bytes. -/
structure RimLine where
  addr : Nat
  cluster : Nat
  core : Nat
  under : List Byte
  deriving DecidableEq, Repr

structure RimSt where
  lines : List RimLine := []
  deriving DecidableEq, Repr

/-- The state of a row segment that is not NORMAL (Tables 01-2, 01-11). -/
structure SegInfo where
  state : Nat
  dead : Nat
  second : Nat
  deriving DecidableEq, Repr

/-- A row-segment map and the dead routers that go with it (R11, R252): segments not listed are NORMAL. -/
structure GeoMap where
  segs : FMap Nat SegInfo := []
  deadRouters : List Nat := []
  deriving DecidableEq, Repr

/-- The reset value of a register: what the tables of the pages give where it is not 0.
DESIGN CHOICE, log entry 10. DESIGN CHOICE, log entry 11. -/
def resetVal (k : RK) : W64 :=
  match k.blk, k.off with
  | .core, 0x148 => 0x100
  | .vec, 0x138 => 0x80
  | .tile, 0x600 => 0x10
  | .slip, 0x018 => 0x1
  | .slip, 0x110 => 0x640
  | .slip, 0x358 => 0x7D0
  | .pug, 0x110 => 0x1F4
  | .glaze, 0x130 => 0x00C803E8
  | .fab, 0x010 => 0x2
  | .fab, 0x110 => 0x00400404
  | .fab, 0x118 => 0x0400080008000010
  | .blink, 0x010 => 0x2
  | .blink, 0x110 => 0x00400404
  | .blink, 0x118 => 0x0400080008000010
  | .blink, 0x188 => if k.inst = 0 then 0x2 else 0
  | .blink, 0x190 => if k.inst = 0 then 0x88B5 else 0
  | .blink, 0x198 => if k.inst = 0 then 0x3457 else 0
  | .crack, 0x010 => 0x3
  | .clk, 0x120 => if k.inst = 0 then 0x102342 else 0
  | .therm, 0x110 => 0x5C
  | .tele, 0x128 => 0x258
  | .mgmt, 0x018 => if k.inst = 0 then 0x1 else 0
  | .mgmt, 0x100 => if k.inst = 1 then 0x0087001E18190608 else 0
  | .rim, 0x130 => if k.inst < 32 then 0xFFFFFFFFFFFFFFFF else 0
  | .host, off => if k.inst < 64 ∧ 0x808 ≤ off ∧ off < 0x900 ∧ off % 16 = 8 then 0x100000000 else 0
  | _, _ => 0

/-- What an unlisted row-state field reads as: M = −Inf, F and L = +0. -/
def rowReset (k : Nat) : W32 := if k % 3 = 0 then 0xFF800000 else 0

/-- What the module sends out, newest first: nothing in the model reads it back. -/
inductive Out where
  /-- a write to host memory: function, link, I/O virtual address, bytes (R41). -/
  | hostWrite (func link addr : Nat) (data : List Byte)
  /-- a read request to host memory. -/
  | hostRead (func link addr len : Nat)
  /-- an MSI-X message: function, link, vector (R62). -/
  | msix (func link vec : Nat)
  /-- a value answered to a read. -/
  | readData (v : W64)
  /-- bytes answered to a BAR4 or rim-core read, and whether they are poisoned (R278). -/
  | bytes (data : List Byte) (bad : Bool)
  /-- a read or write that ends in an access fault of a rim core (R69, R71). -/
  | rimFault (core : Nat)
  /-- an Ozzon frame sent by a link port (Table 14-2), DA and the header in `fr`, SA, TCI. -/
  | frame (port sa tci : Nat) (fr : Frame)
  /-- a priority flow control pause frame (R387). -/
  | pause (port prio : Nat)
  /-- an answer of the management port: message kind, TAG, code, value (R496). -/
  | mgmt (kind tag code : Nat) (v : W64)
  /-- the whole-table copy of R29: link, address, generation and snapshot; its bytes are `distTableBytes`. -/
  | distTable (link addr gen : Nat) (map : GeoMap)
  deriving DecidableEq, Repr

/-- The state of the module. -/
structure State where
  /-- the commands that wait, first in first out. -/
  pending : List Instr := []
  /-- the last sequence number the arbiter gave (R46). -/
  seq : Nat := 0
  /-- fuses: the grade code (R2) and the serial number, 16 bytes (Table 19-5). -/
  grade : Nat := 0
  serial : Nat := 0
  /-- the registers that differ from their reset values. -/
  regs : FMap RK W64 := []
  /-- the hidden scalars that are not 0. -/
  aux : FMap Aux Nat := []
  /-- what was sent out, newest first. -/
  out : List Out := []
  /-- the model's own: how many free values have been drawn. -/
  free : Nat := 0
  hi : HostSt := {}
  tl : TileSt := {}
  /-- scratchpad bytes that are not 0, keyed by physical index × 2^21 + address (R217, R450). -/
  sp : FMap Nat Byte := []
  /-- flipped bits of stored scratchpad codewords, a 72-bit mask each, keyed by the key of the word's first byte / 8
  (R223, R238). -/
  ecc : FMap Nat Nat := []
  /-- accumulators that are not +0 tagged FP32: bit 32 is the tag INT32 (R135); keyed by
  ((4 × physical index + core) × 16 + accumulator) × 256 + row × 16 + column. -/
  acc : FMap Nat (BitVec 33) := []
  /-- instruction slots that are not 0, keyed by physical index × 4096 + bank × 2048 + slot (R122). -/
  imem : FMap Nat W128 := []
  /-- generator states of the vector lanes that are not 1, keyed by physical index × 128 + lane (R200). -/
  rng : FMap Nat (BitVec 96) := []
  /-- row-state fields that differ from M = −Inf, F = +0, L = +0, keyed by
  (physical index × 256 + entry) × 3 + field (R207). -/
  row : FMap Nat W32 := []
  /-- edges of CK_NET counted (R437). -/
  wcount : Nat := 0
  net : NetSt := {}
  sl : SlipSt := {}
  pg : PugSt := {}
  gl : GlazeSt := {}
  fb : FabSt := {}
  ft : FaultSt := {}
  pw : PowerSt := {}
  sg : SagSt := {}
  rm : RimSt := {}
  /-- weight-store bytes that are not 0, by store address (R272). -/
  store : FMap Nat Byte := []
  /-- the model's own: extents of the store whose contents a rule leaves undefined (a thermal trip, R482; a shadow after an abort,
  Table 12-4), newest first: first address, length, and the number of the free value that a listed byte of `store` is combined
  with by exclusive or. -/
  storeFill : List (Nat × Nat × Nat) := []
  /-- bad 32-byte bursts of the store, by address / 32 (R277). -/
  storeBad : List Nat := []
  /-- the published geometry (R25), the one being built, and the one with every recorded death. -/
  geo : GeoMap := {}
  geoNext : GeoMap := {}
  geoLive : GeoMap := {}
  deriving DecidableEq, Repr

/-- Why the machine stops with a fault. -/
inductive Fault where
  /-- SUPPLY_SAMPLE with both inputs below 44 V: R448 gives no behaviour.  Safe: the machine stops. -/
  | bothInputsLow
  /-- RESET_N_RELEASE before the board's conditions of R476 hold: behaviour undefined.  Safe: the machine stops. -/
  | releasedEarly
  deriving DecidableEq, Repr

/-- Why the machine refuses a command. -/
inductive Refusal where
  /-- raised by an arm that has no meaning yet.  Safe: nothing happens. -/
  | notModelled (mnemonic : String)
  deriving DecidableEq, Repr

/-- The module right after reset: RESET_N has just been released and the power-on sequence stands in phase PLL
(R477); every register at its reset value, every memory and queue empty.
DESIGN CHOICE, log entries 7, 10, 11, 12. -/
def State.reset : State := {}

end Sys2Proof.Machine
end

