-- ==== Sys2Proof/Machine/Ops.lean ====
section
/-! DEFINITION. The updates a command makes, one constructor per kind of state, and effects: a command's meaning is a
list of updates computed from the state, applied in order.  Fields of registers, saturating counters. -/

namespace Sys2Proof.Machine

/-! ## Reading -/

/-- The stored value of a register. -/
def State.rd (s : State) (blk : Blk) (inst off : Nat) : W64 := fget resetVal s.regs ⟨blk, inst, off⟩

/-- A hidden scalar. -/
def State.ax (s : State) (k : Aux) : Nat := fget (fun _ => 0) s.aux k

/-- Bits [lo + w − 1 : lo] of a register value. -/
def getBits (v : W64) (lo w : Nat) : Nat := (v.toNat >>> lo) % 2 ^ w

/-- The mask of bits [lo + w − 1 : lo]. -/
def bitMask (lo w : Nat) : W64 := BitVec.ofNat 64 ((2 ^ w - 1) <<< lo)

/-- A register value with bits [lo + w − 1 : lo] replaced. -/
def setBits (v : W64) (lo w x : Nat) : W64 :=
  (v &&& ~~~bitMask lo w) ||| (BitVec.ofNat 64 ((x % 2 ^ w) <<< lo))

/-- A field of a register of a block: offset in the page, lowest bit, width. -/
structure Fld where
  blk : Blk
  off : Nat
  lo : Nat
  w : Nat
  deriving DecidableEq, Repr

/-- The field of the register that lies n bytes further. -/
def Fld.plus (f : Fld) (n : Nat) : Fld := { f with off := f.off + n }

/-- A field's value. -/
def State.get (s : State) (f : Fld) (inst : Nat) : Nat := getBits (s.rd f.blk inst f.off) f.lo f.w

/-- A one-bit field, as a truth value. -/
def State.on (s : State) (f : Fld) (inst : Nat) : Bool := s.get f inst ≠ 0

/-! ## Updates -/

/-- One update of one piece of state. -/
inductive Upd where
  | reg (k : RK) (v : W64)
  | regClear (p : RK → Bool)
  | aux (k : Aux) (v : Nat)
  | auxClear (p : Aux → Bool)
  | seq
  | seqZero
  | out (o : Out)
  | free
  | hi (f : HostSt → HostSt)
  | tl (f : TileSt → TileSt)
  | sp (a : Nat) (b : Byte)
  | spClear (f : Nat → Bool)
  | ecc (a m : Nat)
  | eccClear (f : Nat → Bool)
  | acc (a : Nat) (v : BitVec 33)
  | accClear (f : Nat → Bool)
  | imem (a : Nat) (w : W128)
  | imemClear (f : Nat → Bool)
  | rng (a : Nat) (v : BitVec 96)
  | row (a : Nat) (v : W32)
  | rowClear (f : Nat → Bool)
  | wcount
  | wzero
  | net (f : NetSt → NetSt)
  | sl (f : SlipSt → SlipSt)
  | pg (f : PugSt → PugSt)
  | gl (f : GlazeSt → GlazeSt)
  | fb (f : FabSt → FabSt)
  | ft (f : FaultSt → FaultSt)
  | pw (f : PowerSt → PowerSt)
  | sg (f : SagSt → SagSt)
  | rm (f : RimSt → RimSt)
  | store (a : Nat) (b : Byte)
  | storeClear
  | storeLost (a n : Nat)
  | storeBad (f : List Nat → List Nat)
  | fuses (grade serial : Nat)
  | geo (g : GeoMap)
  | geoNext (g : GeoMap)
  | geoLive (g : GeoMap)

/-- What an unlisted byte of the store reads as: zero, or a free value where the store's contents were lost. -/
def storeFillByte (l : List (Nat × Nat × Nat)) (a : Nat) : Byte :=
  match l.find? fun x => x.1 ≤ a && a < x.1 + x.2.1 with
  | some x => Config.lostByte x.2.2 a
  | none => 0

/-- What one update does. -/
def State.apply1 (s : State) : Upd → State
  | .reg k v => { s with regs := fset RK.key resetVal s.regs k v }
  | .regClear p => { s with regs := fclear p s.regs }
  | .aux k v => { s with aux := fset Aux.key (fun _ => 0) s.aux k v }
  | .auxClear p => { s with aux := fclear p s.aux }
  | .seq => { s with seq := s.seq + 1 }
  | .seqZero => { s with seq := 0 }
  | .out o => { s with out := o :: s.out }
  | .free => { s with free := s.free + 1 }
  | .hi f => { s with hi := f s.hi }
  | .tl f => { s with tl := f s.tl }
  | .sp a b => { s with sp := fset id (fun _ => 0) s.sp a b }
  | .spClear f => { s with sp := fclear f s.sp }
  | .ecc a m => { s with ecc := fset id (fun _ => 0) s.ecc a m }
  | .eccClear f => { s with ecc := fclear f s.ecc }
  | .acc a v => { s with acc := fset id (fun _ => 0) s.acc a v }
  | .accClear f => { s with acc := fclear f s.acc }
  | .imem a w => { s with imem := fset id (fun _ => 0) s.imem a w }
  | .imemClear f => { s with imem := fclear f s.imem }
  | .rng a v => { s with rng := fset id (fun _ => 1) s.rng a v }
  | .row a v => { s with row := fset id rowReset s.row a v }
  | .rowClear f => { s with row := fclear f s.row }
  | .wcount => { s with wcount := s.wcount + 1 }
  | .wzero => { s with wcount := 0 }
  | .net f => { s with net := f s.net }
  | .sl f => { s with sl := f s.sl }
  | .pg f => { s with pg := f s.pg }
  | .gl f => { s with gl := f s.gl }
  | .fb f => { s with fb := f s.fb }
  | .ft f => { s with ft := f s.ft }
  | .pw f => { s with pw := f s.pw }
  | .sg f => { s with sg := f s.sg }
  | .rm f => { s with rm := f s.rm }
  | .store a b => { s with store := fset id (fun _ => 0) s.store a (b ^^^ storeFillByte s.storeFill a) }
  | .storeClear => { s with store := [], storeFill := [] }
  | .storeLost a n => { s with
      store := fclear (fun x => a ≤ x && x < a + n) s.store
      storeFill := (a, n, s.free + 1) :: s.storeFill.filter fun x => !(a ≤ x.1 && x.1 + x.2.1 ≤ a + n)
      free := s.free + 1 }
  | .storeBad f => { s with storeBad := f s.storeBad }
  | .fuses g n => { s with grade := g, serial := n }
  | .geo g => { s with geo := g }
  | .geoNext g => { s with geoNext := g }
  | .geoLive g => { s with geoLive := g }

/-- Updates in order. -/
def State.applyAll (s : State) : List Upd → State
  | [] => s
  | u :: us => (s.apply1 u).applyAll us

/-- An effect: the updates it makes, from the state it finds. -/
abbrev Eff := State → List Upd

/-- An effect run on a state. -/
def Eff.run (e : Eff) (s : State) : State := s.applyAll (e s)

/-- No effect. -/
def skip : Eff := fun _ => []

/-- One effect, then another on the state it leaves. -/
def Eff.seq (e f : Eff) : Eff := fun s =>
  let us := e s
  us ++ f (s.applyAll us)

/-- Effects in order. -/
def doAll : List Eff → Eff
  | [] => skip
  | e :: es => e.seq (doAll es)

/-- An effect for each element, in order. -/
def forEach {α : Type} (l : List α) (f : α → Eff) : Eff := doAll (l.map f)

/-- An effect under a condition on the state it finds. DESIGN CHOICE, log entry 1. -/
def whenE (c : State → Bool) (e : Eff) : Eff := fun s => if c s then e s else []

/-- An effect that first looks at the state. -/
def look {α : Type} (f : State → α) (k : α → Eff) : Eff := fun s => k (f s) s

/-- The value at hand, or another effect where there is none. -/
def withSome {α : Type} (o : Option α) (none : Eff) (some : α → Eff) : Eff :=
  match o with
  | .none => none
  | .some a => some a

/-- A register written. -/
def setReg (blk : Blk) (inst off : Nat) (v : W64) : Eff := fun _ => [.reg ⟨blk, inst, off⟩ v]

/-- A field written, the other bits kept. -/
def setF (f : Fld) (inst x : Nat) : Eff := fun s =>
  [.reg ⟨f.blk, inst, f.off⟩ (setBits (s.rd f.blk inst f.off) f.lo f.w x)]

/-- A hidden scalar written. -/
def setAx (k : Aux) (v : Nat) : Eff := fun _ => [.aux k v]

/-- A field increased by n, held at its largest value (SATURATE counters). -/
def addSat (f : Fld) (inst n : Nat) : Eff := fun s => setF f inst (min (s.get f inst + n) (2 ^ f.w - 1)) s

/-- Something sent out. DESIGN CHOICE, log entry 97. -/
def emit (o : Out) : Eff := fun _ => [.out o]

/-- The host side's waiting items changed. -/
def modHi (f : HostSt → HostSt) : Eff := fun _ => [.hi f]

/-- The tiles' queues and signals changed. -/
def modTl (f : TileSt → TileSt) : Eff := fun _ => [.tl f]

/-- The network's packets changed. -/
def modNet (f : NetSt → NetSt) : Eff := fun _ => [.net f]

/-- The slip ports' streams, segments, log and transfers changed. -/
def modSl (f : SlipSt → SlipSt) : Eff := fun _ => [.sl f]

/-- The pug units' buckets and buffers changed. -/
def modPg (f : PugSt → PugSt) : Eff := fun _ => [.pg f]

/-- The glaze units' ranges and votes changed. -/
def modGl (f : GlazeSt → GlazeSt) : Eff := fun _ => [.gl f]

/-- The fabric's peers and messages changed. -/
def modFb (f : FabSt → FabSt) : Eff := fun _ => [.fb f]

/-- The crack map, its copies, the hours and the clock tree changed. -/
def modFt (f : FaultSt → FaultSt) : Eff := fun _ => [.ft f]

/-- Wake requests, sensors and trims changed. -/
def modPw (f : PowerSt → PowerSt) : Eff := fun _ => [.pw f]

/-- Store windows and the wafer change changed. -/
def modSg (f : SagSt → SagSt) : Eff := fun _ => [.sg f]

/-- The rim cores' modified lines changed. -/
def modRm (f : RimSt → RimSt) : Eff := fun _ => [.rm f]

/-- A free value drawn: the value for the present count, and the count advanced. -/
def drawFree (k : W64 → Eff) : Eff := fun s => (Eff.seq (fun _ => [.free]) (k (Config.freeWord s.free))) s

/-- A counter of cycles increased by a number no rule fixes (the clock's cycles are not modelled): a free value. -/
def addFree (f : Fld) (inst : Nat) : Eff := drawFree fun w => addSat f inst (getBits w 0 f.w)

/-! ## Error codes (Table 02-14) -/

def eOK : Nat := 0x00
def eABSENT : Nat := 0x01
def eSTATE : Nat := 0x02
def eARG : Nat := 0x03
def eSAGGAR : Nat := 0x04
def eFULL : Nat := 0x05
def eTIMEOUT : Nat := 0x06
def eECC_UE : Nat := 0x07
def eFENCED : Nat := 0x08
def eSHARD_CHANGED : Nat := 0x09
def eBUCKET_LATE : Nat := 0x0A
def eCHECKSUM : Nat := 0x0B
def ePOISON : Nat := 0x0C
def eSATURATE : Nat := 0x0D
def eIMEM_ACTIVE : Nat := 0x0E
def eSCALE_MISMATCH : Nat := 0x0F
def eABORTED : Nat := 0x10
def eLINK_DOWN : Nat := 0x11
def eTHERMAL : Nat := 0x12
def eUNMIRRORED : Nat := 0x13
def eWEDGED : Nat := 0x14

end Sys2Proof.Machine
end

