-- ==== Sys2Proof/Machine/Flags.lean ====
section
/-! DEFINITION. The status words every page has: ERR, EVT_STATUS and EVT_ENABLE (R31, R35, R36), and the events they
give the arbiter. -/

namespace Sys2Proof.Machine

/-- EVT_STATUS, EVT_ENABLE, SAGGAR, SEQ, CTRL, STATE and ERR have one place in every page (Table 02-1). -/
def offCtrl : Nat := 0x010
def offState : Nat := 0x018
def offErr : Nat := 0x020
def offErrClear : Nat := 0x028
def offEvtStatus : Nat := 0x030
def offEvtEnable : Nat := 0x038
def offSaggar : Nat := 0x040
def offSeq : Nat := 0x048

def fErrCode (b : Blk) : Fld := ⟨b, offErr, 0, 8⟩
def fErrCount (b : Blk) : Fld := ⟨b, offErr, 8, 8⟩
def fErrInfo (b : Blk) : Fld := ⟨b, offErr, 32, 32⟩
def fEvt (b : Blk) (bit : Nat) : Fld := ⟨b, offEvtStatus, bit, 1⟩
def fEvtEn (b : Blk) (bit : Nat) : Fld := ⟨b, offEvtEnable, bit, 1⟩
def fSaggar (b : Blk) : Fld := ⟨b, offSaggar, 0, 6⟩

/-- The event an EVT_STATUS bit gives: CODE and INFO of an ERROR event are those of ERR (Table 02-11). -/
def State.mkEvent (s : State) (blk : Blk) (inst bit info : Nat) : Event :=
  if bit = 63 then ⟨blk, inst, 63, s.get (fErrCode blk) inst, s.get (fErrInfo blk) inst⟩
  else ⟨blk, inst, bit, 0, info⟩

/-- R36: an EVT_STATUS bit set; from 0 to 1 under its enable is an event, which waits at the arbiter. -/
def setEvtI (blk : Blk) (inst bit info : Nat) : Eff := fun s =>
  if s.on (fEvt blk bit) inst then [] else
    setF (fEvt blk bit) inst 1 s ++
    (if s.on (fEvtEn blk bit) inst then
      [.hi fun h => { h with evq := h.evq ++ [s.mkEvent blk inst bit info] }] else [])

/-- An event bit whose entry carries INFO 0. -/
def setEvt (blk : Blk) (inst bit : Nat) : Eff := setEvtI blk inst bit 0

/-- R35: an error recorded in a page's ERR: the first since the last clear sets CODE, INFO and COUNT = 1 and
EVT_STATUS.ERROR; a later one only counts, up to 255. -/
def recordErr (blk : Blk) (inst code info : Nat) : Eff := fun s =>
  if s.get (fErrCode blk) inst = 0 then
    doAll [setF (fErrCode blk) inst code, setF (fErrCount blk) inst 1, setF (fErrInfo blk) inst info,
      setEvt blk inst 63] s
  else addSat (fErrCount blk) inst 1 s

/-- An error for which the spec states no INFO: the word is a free value (DESIGN CHOICE, log entry 8). -/
def recordErrFree (blk : Blk) (inst code : Nat) : Eff :=
  drawFree fun w => recordErr blk inst code (getBits w 0 32)

/-- One more in a module-wide ECC count (Table 18-3). -/
def eccTotal (n : Nat) : Eff := fun s => setAx ⟨.eccTotal, n, 0⟩ (s.ax ⟨.eccTotal, n, 0⟩ + 1) s

/-- The bits below 64, lowest first. -/
def bits64 : List Nat := List.range 64

/-- R36: a write to EVT_ENABLE: each enable that rises over a set status bit is an event. -/
def writeEvtEnable (blk : Blk) (inst : Nat) (v : W64) : Eff := fun s =>
  let rising := bits64.filter fun b =>
    getBits v b 1 = 1 && !s.on (fEvtEn blk b) inst && s.on (fEvt blk b) inst
  [.reg ⟨blk, inst, offEvtEnable⟩ v,
   .hi fun h => { h with evq := h.evq ++ rising.map fun b => s.mkEvent blk inst b 0 }]

end Sys2Proof.Machine
end

