-- ==== Sys2Proof/Machine/Access.lean ====
section
/-! DEFINITION. Who may reach which page: logical and physical tiles, presence, ownership, denials, the admission of a
register write (R12, R33, R34, R37, R40–R47, R69, R70, R420, R429), writes to host memory and MSI-X messages. -/

namespace Sys2Proof.Machine

/-! ## Tiles -/

/-- The row segment s of a map; a segment not listed is NORMAL. -/
def GeoMap.seg (g : GeoMap) (n : Nat) : SegInfo := (ffind g.segs n).getD ⟨0, 0, 0⟩

/-- R12: physical column of logical (x, y). -/
def GeoMap.px (g : GeoMap) (x y : Nat) : Nat :=
  let fx := x / 24
  let lx := x % 24
  let i := g.seg (y * 8 + fx)
  fx * 25 + (if i.state = 1 ∧ i.dead ≤ lx then lx + 1 else lx)

/-- Physical index of logical tile t (R12, R395). -/
def GeoMap.phys (g : GeoMap) (t : Nat) : Nat := (t / 192) * 200 + g.px (t % 192) (t / 192)

/-- Whether tile t lies in an OUT_OF_USE segment (R13). -/
def GeoMap.outOfUse (g : GeoMap) (t : Nat) : Bool := (g.seg ((t / 192) * 8 + (t % 192) / 24)).state = 3

/-- The field of logical tile t (R6, R7). -/
def fieldOf (t : Nat) : Nat := (t / 192 / 30) * 8 + (t % 192) / 24

/-- The logical tile a physical tile carries under a map, if any. DESIGN CHOICE, log entry 95. -/
def GeoMap.carries (g : GeoMap) (p : Nat) : Option Nat :=
  let y := p / 200
  let px := p % 200
  let fx := px / 25
  let pc := px % 25
  let i := g.seg (y * 8 + fx)
  if i.state = 3 then none
  else if i.state = 1 then
    if pc = i.dead then none
    else some (y * 192 + fx * 24 + (if i.dead < pc then pc - 1 else pc))
  else if pc < 24 then some (y * 192 + fx * 24 + pc) else none

/-- The physical index of a logical tile in the published geometry. -/
def State.phys (s : State) (t : Nat) : Nat := s.geo.phys t

/-- The key instance of a page: tile pages go to the physical tile (R12, R14). -/
def State.key (s : State) (blk : Blk) (inst : Nat) : Nat :=
  match blk with
  | .tile => s.phys inst
  | .vec => s.phys inst
  | .tdma => s.phys inst
  | .router => s.phys inst
  | .core => 4 * s.phys (inst / 4) + inst % 4
  | _ => inst

/-! ## Kilns -/

def fKilnState : Fld := ⟨.kiln, 0x018, 0, 3⟩
def fKilnBusy : Fld := ⟨.kiln, 0x018, 5, 1⟩
def fKilnX0 : Fld := ⟨.kiln, 0x100, 0, 8⟩
def fKilnX1 : Fld := ⟨.kiln, 0x100, 8, 8⟩
def fKilnY0 : Fld := ⟨.kiln, 0x100, 16, 8⟩
def fKilnY1 : Fld := ⟨.kiln, 0x100, 24, 8⟩

/-- Whether logical tile t lies in the rectangle of kiln k's GEOM. -/
def State.inRect (s : State) (k t : Nat) : Bool :=
  s.get fKilnX0 k ≤ t % 192 && t % 192 ≤ s.get fKilnX1 k && s.get fKilnY0 k ≤ t / 192 && t / 192 ≤ s.get fKilnY1 k

/-- Kiln k holds its rectangle: it is neither EMPTY nor SWAPPED_OUT (R347). -/
def State.kilnHolds (s : State) (k : Nat) : Bool := s.get fKilnState k ≠ 0 && s.get fKilnState k ≠ 7

/-- The kiln a tile belongs to (R347). -/
def State.kilnOf (s : State) (t : Nat) : Option Nat :=
  (List.range 256).find? fun k => s.kilnHolds k && s.inRect k t

/-- The logical tiles of a rectangle, in order of y and then x (R361). -/
def rectTiles (x0 x1 y0 y1 : Nat) : List Nat :=
  (List.range (y1 + 1 - y0)).flatMap fun j => (List.range (x1 + 1 - x0)).map fun i => (y0 + j) * 192 + x0 + i

/-- The tiles of kiln k. -/
def State.kilnTiles (s : State) (k : Nat) : List Nat :=
  rectTiles (s.get fKilnX0 k) (s.get fKilnX1 k) (s.get fKilnY0 k) (s.get fKilnY1 k)

/-! ## Functions and host links -/

def fLinkUp : Fld := ⟨.host, 0x100, 0, 1⟩
def fNumVfs : Fld := ⟨.host, 0x110, 0, 6⟩
def fVfEnable : Fld := ⟨.host, 0x110, 8, 1⟩
def fBind (f : Nat) : Fld := ⟨.host, 0x108, f, 1⟩
def fMirrorAll : Fld := ⟨.host, 0x010, 0, 1⟩
def fRootLink : Fld := ⟨.host, 0x010, 1, 1⟩

/-- Whether host link h is up (Table 02-18). -/
def State.linkUp (s : State) (h : Nat) : Bool := s.on fLinkUp (256 + h)

/-- The link slot f is bound to (R40). -/
def State.bind (s : State) (f : Nat) : Nat := s.get (fBind f) 0

/-- R40: virtual function f is active; the root always is. -/
def State.active (s : State) (f : Nat) : Bool :=
  f = 0 || (f < 64 && s.on fVfEnable (256 + s.bind f) && f ≤ s.get fNumVfs (256 + s.bind f))

/-- The saggar of a function: its page's SAGGAR register; the root's reads 0 (R60). -/
def State.funcSaggar (s : State) (f : Nat) : Nat := if f = 0 then 0 else s.get (fSaggar .host) f

/-- R60: the home function of a saggar: the lowest-numbered of its functions that is the root or active. -/
def State.home (s : State) (sag : Nat) : Option Nat :=
  (List.range 64).find? fun f => s.active f && s.funcSaggar f = sag

/-- The saggar that owns a page (R37, R424). -/
def State.owner (s : State) (blk : Blk) (inst : Nat) : Nat := s.get (fSaggar blk) (s.key blk inst)

/-! ## Phases -/

def fMgmtState : Fld := ⟨.mgmt, 0x018, 0, 64⟩
def fWedged : Fld := ⟨.crack, 0x130, 0, 1⟩

/-- The module has reached READY (R480). -/
def State.ready (s : State) : Bool := s.get fMgmtState 0 = 7

/-- The module is wedged (R418). -/
def State.wedged (s : State) : Bool := s.on fWedged 0

/-- A thermal trip holds (R457). -/
def State.tripped (s : State) : Bool := s.get fMgmtState 0 = 9

/-- RESET_N is asserted: the module answers on no port (R476). -/
def State.held (s : State) : Bool := s.ax ⟨.resetHeld, 0, 0⟩ ≠ 0

/-! ## Presence (R34) -/

/-- Whether the block type lists the instance (Tables 02-7, 02-8). -/
def pageListed (blk : Blk) (inst : Nat) : Bool :=
  match blk with
  | .mgmt => inst < 2 | .arb => inst = 0 | .clk => inst < 3 | .pwr => inst < 2 | .therm => inst = 0
  | .tele => inst = 0 | .crack => inst = 0 | .saggar => inst = 0 | .kiln => inst < 256 | .slip => inst < 48
  | .glaze => inst < 48 | .pug => inst < 16 | .fab => inst < 16 | .blink => inst < 3
  | .host => inst < 128 || inst = 256 || inst = 257 | .rim => inst < 36 | .sem => inst < 64
  | .tile => inst < 34560 | .vec => inst < 34560 | .tdma => inst < 34560 | .router => inst < 34560
  | .core => inst < 138240

/-- The pages that answer before READY (R480). -/
def earlyPage (blk : Blk) : Bool :=
  match blk with
  | .mgmt => true | .arb => true | .clk => true | .pwr => true | .therm => true | .tele => true
  | .crack => true | .host => true | .sem => true | _ => false

/-- The compute of logical tile t is ON (Table 17-2). -/
def State.computeOn (s : State) (t : Nat) : Bool := s.ax ⟨.tilePwr, s.phys t, 0⟩ = 2

/-- R34: whether a listed page is present. -/
def State.present (s : State) (blk : Blk) (inst : Nat) : Bool :=
  pageListed blk inst && (earlyPage blk || s.ready) &&
  match blk with
  | .fab => s.grade ≠ 2
  | .host => if inst < 64 then s.active inst else if inst < 128 then s.active (inst - 64) else true
  | .sem => s.active inst
  | .tile => !s.geo.outOfUse inst && s.computeOn inst
  | .vec => !s.geo.outOfUse inst && s.computeOn inst
  | .tdma => !s.geo.outOfUse inst && s.computeOn inst
  | .core => !s.geo.outOfUse (inst / 4) && s.computeOn (inst / 4)
  | .router => !s.geo.outOfUse inst && !s.geoLive.deadRouters.contains (s.phys inst)
  | _ => true

/-! ## BAR0 and BAR2 (R43, R44) -/

/-- The BAR0 offset of a rim page (Table 02-7). -/
def bar0Of (blk : Blk) (inst : Nat) : Nat :=
  match blk with
  | .mgmt => 0x00000 + inst * 0x1000 | .arb => 0x10000 + inst * 0x1000 | .clk => 0x20000 + inst * 0x1000
  | .pwr => 0x30000 + inst * 0x1000 | .therm => 0x40000 + inst * 0x1000 | .tele => 0x50000 + inst * 0x1000
  | .crack => 0x60000 + inst * 0x1000 | .saggar => 0x70000 + inst * 0x1000
  | .kiln => 0x100000 + inst * 0x1000 | .slip => 0x200000 + inst * 0x1000 | .glaze => 0x240000 + inst * 0x1000
  | .pug => 0x280000 + inst * 0x1000 | .fab => 0x290000 + inst * 0x1000 | .blink => 0x2A0000 + inst * 0x1000
  | .rim => 0x2C0000 + inst * 0x1000
  | .host => if inst < 64 then 0x300000 + inst * 0x1000 else if inst < 256 then 0x340000 + (inst - 64) * 0x1000
      else 0x3C0000 + (inst - 256) * 0x1000
  | .sem => 0x380000 + inst * 0x1000
  | _ => 0

/-- The page and the offset in it of a BAR0 offset; none where the region is reserved. -/
def pageOfBar0 (a : Nat) : Option (Blk × Nat × Nat) :=
  let off := a % 0x1000
  let pick (blk : Blk) (i : Nat) : Option (Blk × Nat × Nat) := if pageListed blk i then some (blk, i, off) else none
  if a < 0x10000 then pick .mgmt (a / 0x1000)
  else if a < 0x20000 then pick .arb ((a - 0x10000) / 0x1000)
  else if a < 0x30000 then pick .clk ((a - 0x20000) / 0x1000)
  else if a < 0x40000 then pick .pwr ((a - 0x30000) / 0x1000)
  else if a < 0x50000 then pick .therm ((a - 0x40000) / 0x1000)
  else if a < 0x60000 then pick .tele ((a - 0x50000) / 0x1000)
  else if a < 0x70000 then pick .crack ((a - 0x60000) / 0x1000)
  else if a < 0x80000 then pick .saggar ((a - 0x70000) / 0x1000)
  else if a < 0x100000 then none
  else if a < 0x200000 then pick .kiln ((a - 0x100000) / 0x1000)
  else if a < 0x240000 then pick .slip ((a - 0x200000) / 0x1000)
  else if a < 0x280000 then pick .glaze ((a - 0x240000) / 0x1000)
  else if a < 0x290000 then pick .pug ((a - 0x280000) / 0x1000)
  else if a < 0x2A0000 then pick .fab ((a - 0x290000) / 0x1000)
  else if a < 0x2B0000 then pick .blink ((a - 0x2A0000) / 0x1000)
  else if a < 0x2C0000 then none
  else if a < 0x300000 then pick .rim ((a - 0x2C0000) / 0x1000)
  else if a < 0x340000 then pick .host ((a - 0x300000) / 0x1000)
  else if a < 0x380000 then (if (a - 0x340000) / 0x1000 < 64 then pick .host (64 + (a - 0x340000) / 0x1000) else none)
  else if a < 0x3C0000 then pick .sem ((a - 0x380000) / 0x1000)
  else if a < 0x3C2000 then pick .host (256 + (a - 0x3C0000) / 0x1000)
  else none

/-- The page and the offset of a BAR2 offset: the eight pages of a tile window (R43). -/
def pageOfBar2 (a : Nat) : Option (Blk × Nat × Nat) :=
  let t := a / 0x8000
  let w := a % 0x8000
  let off := w % 0x1000
  if 34560 ≤ t then none
  else match w / 0x1000 with
    | 0 => some (.tile, t, off)
    | 5 => some (.vec, t, off)
    | 6 => some (.tdma, t, off)
    | 7 => some (.router, t, off)
    | k => some (.core, 4 * t + (k - 1), off)

/-- The page and the offset of an offset in VF BAR0 of virtual function f (Table 02-8, R45). -/
def pageOfVfBar0 (f a : Nat) : Option (Blk × Nat × Nat) :=
  let off := a % 0x1000
  match a / 0x1000 with
  | 0 => some (.host, f, off)
  | 1 => some (.host, 64 + f, off)
  | 2 => some (.sem, f, off)
  | 3 => none
  | n => if n - 4 ≤ 251 then some (.kiln, n - 4, off) else none

/-- A base address register (Table 02-6): its size in bytes, whether prefetchable; all are 64-bit. -/
structure Bar where
  size : Nat
  prefetch : Bool
  bits : Nat := 64
  deriving DecidableEq, Repr

/-- BAR b of function f, the same on both links; none where it is not implemented. -/
def barOf (f b : Nat) : Option Bar :=
  if f = 0 then match b with
    | 0 => some ⟨2 ^ 26, false, 64⟩
    | 2 => some ⟨2 ^ 31, false, 64⟩
    | 4 => some ⟨2 ^ 36, true, 64⟩
    | _ => none
  else if f < 64 ∧ b = 0 then some ⟨2 ^ 20, false, 64⟩ else none

/-- The size of a BAR, 0 where there is none. -/
def barSize (f b : Nat) : Nat := (barOf f b).elim 0 fun x => x.size

/-- What configuration space says of a function (Table 02-5): the read-only identity and capabilities of both links. -/
structure PcieCaps where
  vendor : Nat := 0x1F5C
  device : Nat
  classCode : Nat := 0x120000
  totalVfs : Nat := 63
  firstVfOffset : Nat := 1
  vfStride : Nat := 1
  msixVectors : Nat := 16
  maxSpeed : Nat := 6
  maxWidth : Nat := 16
  tagBits : Nat := 14
  outstanding : Nat := 256
  maxPayload : Nat := 512
  maxReadRequest : Nat := 4096
  flr : Bool := true
  aer : Bool := true
  deriving DecidableEq, Repr

/-- Table 02-5 for function f; that no command reads or writes these registers is a DESIGN CHOICE, log entry 113. -/
def pcieCaps (f : Nat) : PcieCaps := { device := if f = 0 then 0x4830 else 0x4831 }

/-- The slot of a PCIe function number of a link: 0 is PF0, and VF k has First VF Offset + (k − 1) × VF Stride. -/
def slotOfFunction (n : Nat) : Option Nat :=
  let c := pcieCaps 0
  if n = 0 then some 0
  else (List.range (c.totalVfs + 1)).find? fun k => k ≠ 0 && c.firstVfOffset + (k - 1) * c.vfStride = n

/-- The page and the offset an access of function f reaches through BAR b (R42–R45). -/
def pageOfBar (f b a : Nat) : Option (Blk × Nat × Nat) :=
  if barSize f b ≤ a then none
  else if f ≠ 0 then pageOfVfBar0 f a
  else if b = 0 then pageOfBar0 a else if b = 2 then pageOfBar2 a else none

/-! ## Denials (R429) -/

def fDenyCount : Fld := ⟨.saggar, 0x128, 0, 48⟩
def fDenyValid : Fld := ⟨.saggar, 0x130, 63, 1⟩

/-- DENY_FIRST as a word (Table 16-4). -/
def denyWord (point presented owner : Nat) (owned : Bool) (wher : Nat) : W64 :=
  BitVec.ofNat 64 (point % 16 + (presented % 64) * 2 ^ 4 + (owner % 64) * 2 ^ 10 + (if owned then 2 ^ 16 else 0)
    + (wher % 65536) * 2 ^ 32 + 2 ^ 63)

/-- R429: a denial counts; the first while DENY_FIRST.VALID = 0 is recorded there and sets DENY_NEW.
DEDUCED, log entry 52. -/
def deny (point presented owner : Nat) (owned : Bool) (wher : Nat) : Eff :=
  doAll [addSat fDenyCount 0 1,
    whenE (fun s => !s.on fDenyValid 0)
      (doAll [setReg .saggar 0 0x130 (denyWord point presented owner owned wher), setEvt .saggar 0 1])]

/-! ## Compute power lost -/

/-- The hidden scalars of a tile's compute lane. -/
def tileAux (k : AuxKind) : Bool :=
  match k with
  | .seqWait => true | .startDue => true | .cmpLive => true | .semInit => true | .ringLines => true
  | .dmaLeft => true | .dmaErr => true | .dmaRid => true | .dmaLast => true | .hTail => true | .urgent => false
  | .ringKept => true | _ => false

/-- The physical tile a tile register belongs to. -/
def RK.tileOf (k : RK) : Option Nat :=
  match k.blk with
  | .tile => some k.inst | .vec => some k.inst | .tdma => some k.inst | .core => some (k.inst / 4) | _ => none

/-- Zero-fill of a tile's memories (Table 17-2, R467). -/
def tileClear (p : Nat) : Eff := fun _ =>
  [.spClear fun a => a / 2 ^ 21 = p, .eccClear fun a => a / 2 ^ 18 = p, .accClear fun a => a / 16384 = p,
   .imemClear fun a => a / 4096 = p, .rowClear fun a => a / 3 / 256 = p,
   .regClear fun k => k.tileOf = some p,
   .auxClear fun a => (tileAux a.kind && a.a = p) || (a.kind = .tbNext && a.a / 4 = p) || (a.kind = .urgent && a.a / 8 = p),
   .tl fun t => { q := t.q.filter fun i => i.p ≠ p, tbs := t.tbs.filter fun x => x.core / 4 ≠ p,
                  pushes := t.pushes.filter fun x => x.p ≠ p, jobs := t.jobs.filter fun j => j.p ≠ p }]

/-- The generators of a tile return to their reset state. -/
def rngClear (p : Nat) : Eff := fun s =>
  (s.rng.filter fun e => e.1 / 128 = p).map fun e => Upd.rng e.1 1

/-- A tile's compute lane loses its contents (R401, R450). -/
def tileLost (p : Nat) : Eff := doAll [tileClear p, rngClear p]

/-- A self-test under way ends, without a result, or as aborted (R469). -/
def fStAborted : Fld := ⟨.tele, 0x140, 48, 16⟩
def selftestEnd (p : Nat) : Eff :=
  whenE (fun s => s.ax ⟨.selftest, p, 0⟩ ≠ 0) (doAll [setAx ⟨.selftest, p, 0⟩ 0, addSat fStAborted 0 1])

def selftestStop (p : Nat) : Eff :=
  whenE (fun s => s.ax ⟨.selftest, p, 0⟩ ≠ 0) (doAll [selftestEnd p, tileLost p,
    fun s => setReg .tele 0 0x148 (BitVec.ofNat 64 (p % 65536 + 2 * 2 ^ 16 + s.ax ⟨.samples, 0, 0⟩ % 2 ^ 32 * 2 ^ 32)) s])

/-- The physical tile of a compute page; none for another page. -/
def computeTile (blk : Blk) (key : Nat) : Option Nat := RK.tileOf ⟨blk, key, 0⟩

/-! ## The admission of a register write -/

/-- What the arbiter does with a register write before the register itself is looked at. -/
inductive WAcc where
  /-- goes on; whether it has the root function's authority. -/
  | ok (root : Bool)
  /-- cannot reach a page, or is discarded without a record (R34, R40, R420). -/
  | ignored
  /-- discarded, SAGGAR recorded in the named page with INFO; PRESENTED, OWNER and WHERE of the denial (R45, R70). -/
  | denied (blk : Blk) (inst info presented owner wher : Nat)
  deriving DecidableEq, Repr

/-- The pages of VF BAR0 of function f other than kiln slots (Table 02-8). -/
def vfPage (f : Nat) (blk : Blk) (inst : Nat) : Bool :=
  match blk with
  | .host => inst = f || inst = 64 + f
  | .sem => inst = f
  | _ => false

/-- R40–R45, R70, R420, R431, R496: the writer's authority over a page. DEDUCED, log entry 87. -/
def State.writeAccess (s : State) (src : Src) (blk : Blk) (inst : Nat) : WAcc :=
  if s.held then .ignored else
  match src with
  | .host f l =>
    if s.tripped || s.wedged || !s.linkUp l || 1 < l then .ignored
    else if f = 0 then .ok true
    else if !s.active f || s.bind f ≠ l then .ignored
    else if vfPage f blk inst then .ok false
    else if blk = .kiln && inst ≤ 251 then
      if s.owner .kiln inst = s.funcSaggar f then .ok false
      else .denied .host f inst (s.funcSaggar f) (s.owner .kiln inst) inst
    else .ignored
  | .rim c =>
    if s.tripped || s.wedged || 32 ≤ c then .ignored
    else if s.get (fSaggar .rim) c = 0 then .ok true
    else if s.owner blk inst = s.get (fSaggar .rim) c then .ok false
    else .denied .rim c (bar0Of blk inst / 0x1000) (s.get (fSaggar .rim) c) (s.owner blk inst) inst
  | .mgmt => .ok true

/-- R34, R40, R45, R70: a reader sees the registers of a page; another page reads 0. -/
def State.readAccess (s : State) (src : Src) (blk : Blk) (inst : Nat) : Bool :=
  match src with
  | .host f l => s.linkUp l && l < 2 && (f = 0 || (s.active f && s.bind f = l && (vfPage f blk inst ||
      (blk = .kiln && inst ≤ 251 && s.owner .kiln inst = s.funcSaggar f))))
  | .rim c => c < 32 && (s.get (fSaggar .rim) c = 0 || s.owner blk inst = s.get (fSaggar .rim) c)
  | .mgmt => true

/-- R46: an accepted write takes the next sequence number, which the page's SEQ shows (R37); the management port's
writes of a wedged or tripped module use no arbiter (R419). -/
def acceptWrite (blk : Blk) (inst : Nat) : Eff := fun s =>
  if s.wedged || s.tripped then [] else
  [.seq, .reg ⟨blk, s.key blk inst, offSeq⟩ (BitVec.ofNat 64 (s.seq + 1))]

/-- The MSI-X table and PBA accept the accesses PCIe allows (R33). -/
def msixRange (blk : Blk) (inst off : Nat) : Bool := blk = .host && inst < 64 && 0x800 ≤ off && off < 0x908

/-- An error a write records in its page: its code, and its INFO where a rule states one. -/
structure WErr where
  code : Nat
  info : Option Nat := none
  deriving DecidableEq, Repr

/-- A write's error recorded (R35): the INFO no rule states is a free value. -/
def recordW (blk : Blk) (inst : Nat) (e : WErr) : Eff :=
  match e.info with
  | some i => recordErr blk inst e.code i
  | none => recordErrFree blk inst e.code

/-- One register write at the arbiter: authority, presence, width and alignment (R33), the register's own check, and
then acceptance and the register's effect.  A rejected write takes no number and changes nothing but ERR (R46); a
write to an absent page takes its number and changes nothing (R34, DEDUCED, log entry 9). -/
def regWrite (src : Src) (blk : Blk) (inst off width : Nat) (check : Bool → State → Option WErr)
    (act : Bool → Eff) : Eff := fun s =>
  match s.writeAccess src blk inst with
  | .ignored => []
  | .denied b i info pres own wher =>
    doAll [recordErr b i eSAGGAR info, deny 2 pres own true wher] s
  | .ok root =>
    if !s.present blk inst then (if s.wedged || s.tripped then [] else [.seq])
    else if (width ≠ 8 || off % 8 ≠ 0) && !msixRange blk inst off then recordErrFree blk (s.key blk inst) eARG s
    else match check root s with
      | some e => recordW blk (s.key blk inst) e s
      | none => doAll [withSome (computeTile blk (s.key blk inst)) skip selftestStop, acceptWrite blk inst, act root] s

/-- R47: a write whose source has a wafer change waiting at the arbiter waits behind it. -/
def inTurn (src : Src) (i : Instr) (e : Eff) : Eff := fun s =>
  if s.sg.waiting.any fun w => w.1 = src then [.sg fun g => { g with waiting := g.waiting ++ [(src, i)] }] else e s

/-- A register's check that passes every write. -/
def noCheck : Bool → State → Option WErr := fun _ _ => none

/-- An error under a condition. -/
def errIf (c : Bool) (code : Nat) : Option WErr := if c then some ⟨code, none⟩ else none

/-- The first error of a list of checks. -/
def firstErr : List (Option WErr) → Option WErr
  | [] => none
  | some e :: _ => some e
  | none :: l => firstErr l

/-! ## Host memory and MSI-X -/

/-- The link a function's traffic without a LINK field of its own takes (R41, R62). -/
def State.funcLink (s : State) (f : Nat) : Nat := if f = 0 then s.get fRootLink 0 else s.bind f

/-- A write to host memory: sent while the link is up; else it is discarded (R66), and `lost` says what the page that
issued it does. -/
def hostWriteOr (func link addr : Nat) (data : List Byte) (lost : Eff) : Eff := fun s =>
  if s.linkUp link then [.out (.hostWrite func link addr data)] else lost s

/-- A write to host memory whose loss only records TIMEOUT in the page that issued it, INFO stated by no rule (R66).
DESIGN CHOICE, log entry 84. -/
def hostWrite (blk : Blk) (inst func link addr : Nat) (data : List Byte) : Eff :=
  hostWriteOr func link addr data (recordErrFree blk inst eTIMEOUT)

/-- The bytes of a word, lowest first (R31). -/
def leBytes (n : Nat) (v : Nat) : List Byte := (List.range n).map fun i => BitVec.ofNat 8 (v >>> (8 * i))

/-- The number of a list of bytes, lowest first. -/
def ofBytes : List Byte → Nat
  | [] => 0
  | b :: bs => b.toNat + 256 * ofBytes bs

def fPba (v : Nat) : Fld := ⟨.host, 0x900, v, 1⟩
def fVecMask (v : Nat) : Fld := ⟨.host, 0x808 + 16 * v, 32, 1⟩

/-- Whether vector v of function f can be sent now (R62). -/
def State.msixFree (s : State) (f v : Nat) : Bool :=
  let l := s.funcLink f
  let c := if f = 0 then l else 0
  s.linkUp l && s.ax ⟨.msixEn, f, c⟩ ≠ 0 && s.ax ⟨.msixMask, f, c⟩ = 0 && !s.on (fVecMask v) f

/-- R62: a message of vector v of function f falls due: sent, or pending in the PBA. DEDUCED, log entry 50. -/
def msixDue (f v : Nat) : Eff := fun s =>
  if s.msixFree f v then [.out (.msix f (s.funcLink f) v)] else setF (fPba v) f 1 s

/-- Pending messages that can be sent now are sent (R62). -/
def msixFlush (f : Nat) : Eff :=
  forEach (List.range 16) fun v => whenE (fun s => s.on (fPba v) f && s.msixFree f v)
    (doAll [setF (fPba v) f 0, look (fun s => s.funcLink f) fun l => emit (.msix f l v)])

/-! ## Mailboxes (R55) -/

def fMbxValid (m : Nat) : Fld := ⟨.host, 0x100 + 0x20 * m, 0, 1⟩
def fMbxPending (m : Nat) : Fld := ⟨.host, 0x100 + 0x20 * m, 1, 1⟩
def fMbxCode (m : Nat) : Fld := ⟨.host, 0x100 + 0x20 * m, 8, 8⟩
def fMbxSeq (m : Nat) : Fld := ⟨.host, 0x100 + 0x20 * m, 32, 32⟩

/-- The next value of a 32-bit count that skips 0 (R55). -/
def nextSeq32 (n : Nat) : Nat := if n + 1 < 2 ^ 32 then n + 1 else 1

/-- Table 02-10: a completing command posts CODE, RESULT and INFO to its PENDING mailbox, which goes VALID, its SEQ
one on; MBX_VALID is set and vector 1 falls due (R55, R62). -/
def mbxPost (f m code : Nat) (result : W64) (tag seq : Nat) : Eff := fun s =>
  if !s.on (fMbxPending m) (64 + f) then [] else
  doAll [setF (fMbxPending m) (64 + f) 0, setF (fMbxCode m) (64 + f) code,
    setF (fMbxSeq m) (64 + f) (nextSeq32 (s.get (fMbxSeq m) (64 + f))),
    setReg .host (64 + f) (0x108 + 0x20 * m) result,
    setReg .host (64 + f) (0x110 + 0x20 * m) (BitVec.ofNat 64 (tag % 2 ^ 32 + (seq % 2 ^ 32) * 2 ^ 32)),
    setF (fMbxValid m) (64 + f) 1, setEvt .host (64 + f) 0, msixDue f 1] s

/-- A running command completes: it leaves the list, and its result is posted unless a reset took it away. -/
def finish (r : Running) (code : Nat) (result : W64) : Eff :=
  doAll [modHi fun h => { h with running := h.running.filter fun x => x.seq ≠ r.seq },
    whenE (fun _ => r.ctx.mbxEn && r.post) (mbxPost r.ctx.func r.ctx.mailbox code result r.ctx.userTag r.seq)]

/-- The running commands of a block instance with an opcode, oldest first. -/
def State.runningOf (s : State) (blk : Blk) (inst op : Nat) : List Running :=
  s.hi.running.filter fun r => r.blk = blk && r.inst = inst && r.op = op

/-- Every running command of a block instance with an opcode completes with a code and a result. -/
def finishAll (blk : Blk) (inst op code : Nat) (result : W64) : Eff :=
  look (fun s => s.runningOf blk inst op) fun l => forEach l fun r => finish r code result

/-! ## Admission of commands (R52–R54) -/

def fRingEnable (n : Nat) : Fld := ⟨.host, 0x208 + 0x20 * n, 8, 1⟩
def fRingLink (n : Nat) : Fld := ⟨.host, 0x208 + 0x20 * n, 9, 1⟩
def fRingLog (n : Nat) : Fld := ⟨.host, 0x208 + 0x20 * n, 0, 4⟩
def fRingHead (n : Nat) : Fld := ⟨.host, 0x210 + 0x20 * n, 0, 16⟩

/-- The link of a ring: a virtual function's bound link, the root's LINK field (R41). -/
def State.ringLink (s : State) (f n : Nat) : Nat := if f = 0 then s.get (fRingLink n) 0 else s.bind f

/-- Word 0 of an entry as the module writes it back (Table 02-9): OWN = 0, ADMIT_CODE set. -/
def entryWord0 (e : CmdEntry) (code : Nat) : Nat :=
  e.opcode % 256 * 2 ^ 8 + e.blk % 65536 * 2 ^ 16 + e.inst % 65536 * 2 ^ 32 + e.mailbox % 64 * 2 ^ 48
    + (if e.mbxEn then 2 ^ 54 else 0) + code % 256 * 2 ^ 56

/-- The fields of an entry's eight words (Table 02-9). -/
def CmdEntry.ofWords (ws : List W64) : CmdEntry :=
  let w0 := ws.getD 0 0
  ⟨getBits w0 0 1 = 1, getBits w0 8 8, getBits w0 16 16, getBits w0 32 16, getBits w0 48 6, getBits w0 54 1 = 1,
    getBits (ws.getD 1 0) 0 32, (List.range 6).map fun i => ws.getD (2 + i) 0⟩

/-- What a command of a block checks at admission, and what it does when accepted: its argument check, its state
check, and its effect, which knows the running command. -/
structure CmdSpec where
  argBad : State → Bool
  blocked : State → Option Nat
  run : Running → Eff

/-- R52, for a command of a block with an opcode the block accepts: the admission code. DEDUCED, log entry 18. -/
def State.admitCode (s : State) (c : CmdCtx) (blk : Blk) (inst : Nat) (sp : CmdSpec) : Nat :=
  if !pageListed blk inst then eARG
  else if !s.ready then eSTATE
  else if !s.present blk inst then eABSENT
  else if sp.argBad s then eARG
  else if c.func ≠ 0 && s.owner blk inst ≠ s.funcSaggar c.func then eSAGGAR
  else match sp.blocked s with
    | some code => code
    | none =>
      if c.mbxEn && (s.on (fMbxValid c.mailbox) (64 + c.func) || s.on (fMbxPending c.mailbox) (64 + c.func))
      then eFULL else eOK

/-- R51: the read of an entry, or the write-back of its word 0, failed at PCIe: ENABLE of the ring clears, and TIMEOUT
is recorded with the ring and the entry. -/
def ringLost (f n idx : Nat) : Eff :=
  doAll [setF (fRingEnable n) f 0, setAx ⟨.ringFetch, f, n⟩ 0, recordErr .host f eTIMEOUT (n * 0x10000 + idx)]

/-- R53, R54: word 0 of the entry written back to its ring; a link that is down loses it (R51, R66). -/
def writeBack (c : CmdCtx) (word0 : Nat) : Eff := fun s =>
  hostWriteOr c.func (s.ringLink c.func c.ring)
    ((s.rd .host c.func (0x200 + 0x20 * c.ring)).toNat + 64 * c.idx) (leBytes 8 word0) (ringLost c.func c.ring c.idx) s

/-- R53: a rejected entry: written back with its code, recorded in the function page, CMD_REJECT and vector 3. -/
def reject (c : CmdCtx) (word0 : Nat) (code : Nat) : Eff :=
  doAll [writeBack c (word0 + code * 2 ^ 56), recordErr .host c.func code (c.ring * 0x10000 + c.idx),
    setEvt .host c.func 0, msixDue c.func 3]

/-- R54: an accepted entry takes a number, its mailbox goes PENDING, word 0 is written back, and the command is handed
to its block. -/
def accept (c : CmdCtx) (word0 : Nat) (blk : Blk) (inst op : Nat) (args : List W64) (run : Running → Eff) : Eff :=
  fun s =>
    let r : Running := ⟨c, blk, inst, op, args, s.seq + 1, true, none⟩
    doAll [fun _ => [.seq],
      whenE (fun _ => c.mbxEn) (setF (fMbxPending c.mailbox) (64 + c.func) 1),
      writeBack c word0,
      modHi fun h => { h with running := h.running ++ [r] }, run r] s

/-- Word 0 without ADMIT_CODE of a command given by its fields. -/
def ctxWord0 (c : CmdCtx) (blk : Blk) (inst op : Nat) : Nat :=
  entryWord0 ⟨false, op, blkCode blk, inst, c.mailbox, c.mbxEn, c.userTag, []⟩ 0

/-- R54: a FENCE of ring n of function f has not completed: no later entry of the ring is admitted. -/
def State.fenceHeld (s : State) (f n : Nat) : Bool :=
  s.hi.running.any fun r => r.blk = .host && r.op = 1 && r.ctx.func = f && r.ctx.ring = n

/-- R52–R54: a command of a block decided: rejected, or accepted and run; a SAGGAR rejection is a denial (R429).
DESIGN CHOICE, log entry 94. -/
def admitCmd (c : CmdCtx) (blk : Blk) (inst op : Nat) (args : List W64) (sp : CmdSpec) : Eff := fun s =>
  if s.held || s.tripped || s.wedged || !s.active c.func || s.fenceHeld c.func c.ring then [] else
  let code := s.admitCode c blk inst sp
  if code = eOK then accept c (ctxWord0 c blk inst op) blk inst op args sp.run s
  else doAll [reject c (ctxWord0 c blk inst op) code,
    whenE (fun _ => code = eSAGGAR) (deny 1 (s.funcSaggar c.func) (s.owner blk inst) true inst)] s

/-- Argument i of a command. -/
def argN (args : List W64) (i : Nat) : W64 := args.getD i 0

/-- Arguments from i on are 0. -/
def argsZeroFrom (args : List W64) (i : Nat) : Bool := (args.drop i).all fun a => a = 0

end Sys2Proof.Machine
end

