-- ==== Sys2Proof/Machine/Operands.lean ====
section
/-! DEFINITION. The operand forms of tile instructions: fields of a slot (R104), operand fields (R107), tensor
descriptors (R108, R109), queue ends and their rings (R110, R111), scratchpad and instruction memory. -/

namespace Sys2Proof.Machine

/-! ## Scratchpad and instruction memory -/

/-- The size of the scratchpad (R217). -/
def spSize : Nat := 0x180000

/-- The key of scratchpad byte a of physical tile p. -/
def spKey (p a : Nat) : Nat := p * 0x200000 + a

/-- The number of set bits below n. -/
def popCount (m : Nat) : Nat → Nat
  | 0 => 0
  | n + 1 => m / 2 ^ n % 2 + popCount m n

/-- What a stored codeword with a flip mask reads as: 0 sound, 1 corrected, 2 bad, 3 wrong unnoticed, 4 corrected to a
wrong value; three or more flips are one of the last three (R223). -/
def eccKind (m : Nat) : Nat :=
  match popCount m 72 with
  | 0 => 0 | 1 => 1 | 2 => 2
  | _ => match Config.freeOutcome m with | 0 => 2 | 1 => 3 | _ => 4

/-- The flip mask of the word that holds scratchpad byte a of physical tile p. -/
def State.eccMask (s : State) (p a : Nat) : Nat := fget (fun _ => 0) s.ecc (spKey p a / 8)

/-- A byte of the scratchpad as it reads. -/
def State.spRd (s : State) (p a : Nat) : Byte :=
  if s.ecc = [] then fget (fun _ => 0) s.sp (spKey p a)
  else if eccKind (s.eccMask p a) < 3 then fget (fun _ => 0) s.sp (spKey p a)
  else Config.freeByte a (s.eccMask p a)

/-- n bytes of the scratchpad from a on. -/
def State.spRds (s : State) (p a n : Nat) : List Byte := (List.range n).map fun i => s.spRd p (a + i)

/-- Whether a bad word of tile p holds a byte of an address set (R224). -/
def State.badIn (s : State) (p : Nat) (inSet : Nat → Bool) : Bool :=
  s.ecc.any fun e => e.1 / 0x40000 = p && eccKind e.2 = 2 &&
    (List.range 8).any fun i => inSet (e.1 % 0x40000 * 8 + i)

/-- The n bytes from a on, as a set. -/
def span (a n x : Nat) : Bool := a ≤ x && x < a + n

/-- Whether a write of a set of bytes covers the whole word of byte x. -/
def wholeWord (w : Nat → Bool) (x : Nat) : Bool := (List.range 8).all fun k => w (x / 8 * 8 + k)

/-- Whether a write of a set of bytes covers the whole word of x or the word is not bad: what R225 lets it write. -/
def State.wordOpen (s : State) (p : Nat) (w : Nat → Bool) (x : Nat) : Bool :=
  wholeWord w x || eccKind (s.eccMask p x) ≠ 2

/-- Whether a write of a set of bytes meets, among the n at a, a bad word it covers only in part: the writer raises ECC_UE
(R225). -/
def State.badWrite (s : State) (p : Nat) (w : Nat → Bool) (a n : Nat) : Bool :=
  s.ecc ≠ [] && (List.range n).any fun i => !s.wordOpen p w (a + i)

/-- The word of byte x stored anew as it reads, with fresh check bits: what a wrong correction, or a read-modify-write of a
word that reads wrong, leaves (R223, R225). -/
def spoil (p x : Nat) : Eff := fun s =>
  (List.range 8).map (fun k => Upd.sp (spKey p (x / 8 * 8 + k)) (s.spRd p (x / 8 * 8 + k))) ++ [Upd.ecc (spKey p x / 8) 0]

/-- The bytes at x of a write of a set of bytes: fresh check bits for every word written; a bad word that the whole write
covers only in part is not written and stays bad; the other bytes of a word that reads wrong are the wrong ones (R223,
R225). -/
def spWrIn (p : Nat) (w : Nat → Bool) (x : Nat) (l : List Byte) : Eff := fun s =>
  if s.ecc = [] then l.zipIdx.map fun y => Upd.sp (spKey p (x + y.2)) y.1
  else doAll [
    forEach (((List.range l.length).map fun k => (x + k) / 8 * 8).dedup.filter fun a =>
      3 ≤ eccKind (s.eccMask p a) && !wholeWord w a) (spoil p),
    fun _ => l.zipIdx.flatMap fun y =>
      if s.wordOpen p w (x + y.2)
      then [Upd.sp (spKey p (x + y.2)) y.1, Upd.ecc (spKey p (x + y.2) / 8) 0] else []] s

/-- Bytes written to the scratchpad by one write. -/
def spWr (p a : Nat) (l : List Byte) : Eff := spWrIn p (span a l.length) a l

def fSpCe : Fld := ⟨.tile, 0x608, 0, 32⟩
def fSpUe : Fld := ⟨.tile, 0x608, 32, 16⟩
def fUeAddr : Fld := ⟨.tile, 0x610, 0, 21⟩
def fUeReq : Fld := ⟨.tile, 0x610, 22, 3⟩
def fUeValid : Fld := ⟨.tile, 0x610, 31, 1⟩

/-- R223: a read by requester `req` of the words of a set: single-bit errors, and what the code takes for one, counted and
corrected in place, bad words counted, the first recorded in SP_UE_FIRST. -/
def eccReadW (p req : Nat) (wordIn : Nat → Bool) : Eff := fun s =>
  forEach (s.ecc.filter fun e => e.1 / 0x40000 = p && wordIn (e.1 % 0x40000)) (fun e =>
    let k := eccKind e.2
    if k = 1 ∨ k = 4 then doAll [addSat fSpCe p 1, eccTotal 0, if k = 1 then fun _ => [.ecc e.1 0] else spoil p (e.1 % 0x40000 * 8)]
    else if k = 2 then doAll [addSat fSpUe p 1, eccTotal 1, whenE (fun t => !t.on fUeValid p)
      (doAll [setF fUeAddr p (e.1 % 0x40000 * 8), setF fUeReq p req, setF fUeValid p 1])]
    else skip) s

/-- A read by requester `req` of the lines of a set. -/
def eccRead (p req : Nat) (lineIn : Nat → Bool) : Eff := eccReadW p req fun w => lineIn (w / 8)

/-- R225: the words that a write of a set of bytes covers in part are read first. -/
def eccRmwIn (p req : Nat) (w : Nat → Bool) : Eff := eccReadW p req fun k =>
  !wholeWord w (8 * k) && (List.range 8).any fun j => w (8 * k + j)

/-- R225 for a write of n bytes at a. -/
def eccRmw (p req a n : Nat) : Eff := eccRmwIn p req (span a n)

/-- The key of a slot of physical tile p. -/
def imemKey (p bank slot : Nat) : Nat := p * 4096 + bank % 2 * 2048 + slot % 2048

/-- A slot of the instruction memory. -/
def State.slot (s : State) (p bank slot : Nat) : W128 := fget (fun _ => 0) s.imem (imemKey p bank slot)

/-- Bits [lo + w − 1 : lo] of a slot. -/
def sb (v : W128) (lo w : Nat) : Nat := (v.toNat >>> lo) % 2 ^ w

/-! ## Formats (Table 03-1) -/

/-- The width in bytes of a format code: FP32, BF16, FP16, E4M3, E5M2, INT8, INT32, WG8, WS16, WS32. -/
def fmtBytes (f : Nat) : Nat :=
  match f with
  | 0 => 4 | 1 => 2 | 2 => 2 | 3 => 1 | 4 => 1 | 5 => 1 | 6 => 4 | 7 => 1 | 8 => 2 | 9 => 4 | _ => 1

/-! ## Fields of an instruction (Tables 04-1, 04-2) -/

def iOp (w : W128) : Nat := sb w 0 8
def iEng (w : W128) : Nat := sb w 8 3
def iTee (w : W128) : Bool := sb w 11 1 = 1
def iPred (w : W128) : Nat := sb w 12 3
def iNeg (w : W128) : Bool := sb w 15 1 = 1
def iSig (w : W128) : Nat := sb w 16 6
def iTeeQ (w : W128) : Nat := sb w 22 4
def iA (w : W128) : Nat := sb w 32 16
def iB (w : W128) : Nat := sb w 48 16
def iC (w : W128) : Nat := sb w 64 16
/-- CTL bits, numbered as the instruction's. -/
def iCtl (w : W128) : Nat := sb w 80 48

/-! ## The TILE page (Tables 04-11, 04-12) -/

def fStallEn : Fld := ⟨.tile, 0x010, 0, 1⟩
def fTileState : Fld := ⟨.tile, 0x018, 0, 64⟩
def fPc : Fld := ⟨.tile, 0x100, 0, 11⟩
def fBank : Fld := ⟨.tile, 0x100, 11, 1⟩
def fDispatched : Fld := ⟨.tile, 0x100, 32, 32⟩
def fActive : Fld := ⟨.tile, 0x108, 0, 1⟩
def fShadowReady : Fld := ⟨.tile, 0x108, 1, 1⟩
def fSwapWait : Fld := ⟨.tile, 0x108, 2, 1⟩
def fImSlot : Fld := ⟨.tile, 0x110, 0, 11⟩
def fImBank : Fld := ⟨.tile, 0x110, 11, 1⟩
def fImAuto : Fld := ⟨.tile, 0x110, 12, 1⟩
def fEntry : Fld := ⟨.tile, 0x128, 0, 11⟩
def fLc (n : Nat) : Fld := ⟨.tile, 0x140 + 8 * n, 0, 16⟩
def fLimit (n : Nat) : Fld := ⟨.tile, 0x140 + 8 * n, 16, 16⟩
def fCmpLc (k : Nat) : Fld := ⟨.tile, 0x180 + 8 * k, 0, 3⟩
def fCmpOp (k : Nat) : Fld := ⟨.tile, 0x180 + 8 * k, 4, 2⟩
def fCmpVal (k : Nat) : Fld := ⟨.tile, 0x180 + 8 * k, 16, 16⟩
def fCmpMod (k : Nat) : Fld := ⟨.tile, 0x180 + 8 * k, 32, 16⟩
def fCmpResult (k : Nat) : Fld := ⟨.tile, 0x180 + 8 * k, 63, 1⟩
def fSem (n : Nat) : Fld := ⟨.tile, 0x200 + 8 * n, 0, 16⟩
def fSemWaited (n : Nat) : Fld := ⟨.tile, 0x200 + 8 * n, 16, 1⟩
def fSemWaiter (n : Nat) : Fld := ⟨.tile, 0x200 + 8 * n, 17, 3⟩
def fQBase (q : Nat) : Fld := ⟨.tile, 0x440 + 8 * q, 0, 21⟩
def fQLog (q : Nat) : Fld := ⟨.tile, 0x440 + 8 * q, 24, 4⟩
def fQEnable (q : Nat) : Fld := ⟨.tile, 0x440 + 8 * q, 32, 1⟩
def fQWr (q : Nat) : Fld := ⟨.tile, 0x4C0 + 8 * q, 0, 16⟩
def fQRd (q : Nat) : Fld := ⟨.tile, 0x4C0 + 8 * q, 16, 16⟩
def fFaultPc : Fld := ⟨.tile, 0x540, 0, 11⟩
def fFaultBank : Fld := ⟨.tile, 0x540, 11, 1⟩
def fFaultEng : Fld := ⟨.tile, 0x540, 12, 3⟩
def fFaultOp : Fld := ⟨.tile, 0x540, 16, 8⟩
def fFaultReason : Fld := ⟨.tile, 0x540, 24, 4⟩

/-! ## Queue ends (Table 04-6) -/

/-- The ring a queue end goes to: 14 and 15 push into the rings of 6 and 7 (R110). -/
def ringOf (q : Nat) : Nat := if q = 14 then 6 else if q = 15 then 7 else q

/-- The lines of ring q. -/
def State.ringSize (s : State) (p q : Nat) : Nat := 2 ^ s.get (fQLog q) p

/-- The number of lines a ring holds: kept beside its pointers, which cannot tell full from empty. -/
def State.ringCount (s : State) (p q : Nat) : Nat := s.ax ⟨.ringLines, p, q⟩

/-- The lines instructions that have issued and not yet pushed will push into ring q. -/
def State.ringHeldFor (s : State) (p q : Nat) : Nat :=
  ((s.tl.q.filter fun i => i.p = p && i.issued && !i.worked).map fun i =>
    match i.c with | .q k n => if ringOf k = q then n else 0 | _ => 0).sum

/-- The lines of ring q that are taken: held, or popped and still read in place (R164). -/
def State.ringTaken (s : State) (p q : Nat) : Nat := s.ringCount p q + s.ax ⟨.ringKept, p, q⟩

/-- The room of ring q (R111). -/
def State.ringRoom (s : State) (p q : Nat) : Nat := s.ringSize p q - (s.ringTaken p q + s.ringHeldFor p q)

/-- The bytes of n lines at the ring's read pointer, in arrival order. -/
def State.ringPeek (s : State) (p q n : Nat) : List Byte :=
  (List.range n).flatMap fun i =>
    s.spRds p (s.get (fQBase q) p + 64 * ((s.get (fQRd q) p + i) % s.ringSize p q)) 64

/-- n lines popped from a ring (R111). -/
def ringPop (p q n : Nat) : Eff := fun s =>
  doAll [setF (fQRd q) p ((s.get (fQRd q) p + n) % s.ringSize p q),
    setAx ⟨.ringLines, p, q⟩ (s.ringCount p q - n)] s

/-- One line pushed into a ring. -/
def ringPush1 (p q : Nat) (l : List Byte) : Eff := fun s =>
  doAll [spWr p (s.get (fQBase q) p + 64 * (s.get (fQWr q) p % s.ringSize p q)) l,
    setF (fQWr q) p ((s.get (fQWr q) p + 1) % s.ringSize p q),
    setAx ⟨.ringLines, p, q⟩ (s.ringCount p q + 1)] s

/-- A list of bytes cut into 64-byte lines, the last one filled up with zeros. -/
def linesOf (fuel : Nat) (l : List Byte) : List (List Byte) :=
  match fuel with
  | 0 => []
  | n + 1 => if l = [] then [] else
      let h := l.take 64
      (h ++ List.replicate (64 - h.length) 0) :: linesOf n (l.drop 64)

/-- Bytes pushed into a ring as lines. -/
def ringPush (p q : Nat) (l : List Byte) : Eff := forEach (linesOf l.length l) fun x => ringPush1 p q x

/-! ## Engine queues (R101, R103) -/

/-- The instruction at the head of engine queue e of tile p. -/
def State.head (s : State) (p e : Nat) : Option QInstr := s.tl.q.find? fun i => i.p = p && i.e = e

/-- The instructions in engine queue e of tile p. -/
def State.depth (s : State) (p e : Nat) : Nat := (s.tl.q.filter fun i => i.p = p && i.e = e).length

/-- The head of a queue changed. -/
def mapHead (p e : Nat) (f : QInstr → QInstr) : List QInstr → List QInstr
  | [] => []
  | i :: l => if i.p = p && i.e = e then f i :: l else i :: mapHead p e f l

/-- The head of a queue removed. -/
def dropHead (p e : Nat) : List QInstr → List QInstr
  | [] => []
  | i :: l => if i.p = p && i.e = e then l else i :: dropHead p e l

/-- The n-th instruction of a queue. -/
def State.nth (s : State) (p e n : Nat) : Option QInstr := (s.tl.q.filter fun i => i.p = p && i.e = e)[n]?

/-- The n-th instruction of a queue changed. -/
def mapNth (p e : Nat) (f : QInstr → QInstr) : Nat → List QInstr → List QInstr
  | _, [] => []
  | n, i :: l => if i.p = p && i.e = e then (match n with | 0 => f i :: l | k + 1 => i :: mapNth p e f k l)
      else i :: mapNth p e f n l

/-- The push of an instruction that has done its work: what the network has still to take of it (R103, R244). -/
def QInstr.push (i : QInstr) : List Push :=
  match i.c with
  | .q k n => if 8 ≤ k ∧ k ≤ 13 then [⟨i.p, k, i.e, n⟩] else []
  | _ => []

/-- The urgent line requests of a requester are granted: an urgent request wins its slice (R219), so that none is left when
the requester's accesses are done.  DESIGN CHOICE, log entry 114. -/
def served (p req : Nat) : Eff := fun _ => [.auxClear fun a => a.kind = .urgent && a.a = p * 8 + req]

/-- The head of a queue has done its work: it completes once its writes are accepted (R103). -/
def markWorked (p e : Nat) : Eff := doAll [served p e, modTl fun t =>
  { t with q := mapHead p e (fun i => { i with worked := true }) t.q,
           pushes := t.pushes ++ match t.q.find? fun i => i.p = p && i.e = e with
             | some i => i.push
             | none => [] }]

/-- The first whole lines of what an instruction pushes that ends partway: a free number of them.  They leave the ring, but nothing
waits for them. -/
def pushSome (p q : Nat) (b : List Byte) : Eff := drawFree fun w =>
  let n := getBits w 0 16 % (b.length / 64 + 1)
  doAll [ringPush p (ringOf q) (b.take (64 * n)),
    modTl fun t => { t with pushes := t.pushes ++ (if 8 ≤ q ∧ q ≤ 13 ∧ n ≠ 0 then [⟨p, q, 7, n⟩] else []) }]

/-! ## Resolving operands at dispatch -/

/-- A signed number of w bits. -/
def toSigned (w n : Nat) : Int := if n < 2 ^ (w - 1) then (n : Int) else (n : Int) - 2 ^ w

/-- R109: a descriptor's first byte, the loop advance applied. -/
def State.descBase (s : State) (p : Nat) (d : W128) : Int :=
  (sb d 8 21 : Int) + (if sb d 105 1 = 1 then toSigned 17 (sb d 109 17) * 16 * (s.get (fLc (sb d 106 3)) p : Int) else 0)

/-- R109: a descriptor's last byte. -/
def State.descLast (s : State) (p : Nat) (d : W128) : Int :=
  s.descBase p d + ((sb d 33 12 + 1) * fmtBytes (sb d 29 4) : Nat) - 1 + (sb d 45 12 * sb d 65 20 : Nat)
    + (sb d 57 8 * sb d 85 20 : Nat)

/-- What is wrong with an operand field, as REASON numbers (Table 04-9), for an operand that may be a descriptor of an
allowed format or a queue end; `out` for a destination. -/
def State.opdReasons (s : State) (p bank : Nat) (o : Nat) (out : Bool) (fmtOk : Nat → Bool) : List Nat :=
  match o / 2 ^ 14 with
  | 0 => []
  | 1 =>
    let d := s.slot p bank (o % 2048)
    (if o / 2048 % 8 ≠ 0 then [3] else []) ++
    if sb d 0 8 ≠ 0xFD then [4] else
      (if sb d 126 2 ≠ 0 then [3] else []) ++
      (if s.descBase p d < 0 ∨ (spSize : Int) ≤ s.descLast p d then [5] else []) ++
      (if fmtOk (sb d 29 4) then [] else [8])
  | 2 =>
    let q := o % 16
    let r := ringOf q
    (if (decide (8 ≤ q)) ≠ out || !s.on (fQEnable r) p then [6] else
      if s.ringSize p r < o / 16 % 1024 + 1 then [7] else [])
  | _ => [3]

/-- An operand resolved. -/
def State.resolve (s : State) (p bank : Nat) (o : Nat) : Opd :=
  match o / 2 ^ 14 with
  | 1 =>
    let d := s.slot p bank (o % 2048)
    .desc (s.descBase p d).toNat (sb d 29 4) (sb d 33 12 + 1) (sb d 45 12 + 1) (sb d 57 8 + 1) (sb d 65 20) (sb d 85 20)
  | 2 => .q (o % 16) (o / 16 % 1024 + 1)
  | _ => .none

/-- What is wrong with the tee of an instruction (R112): no queue-end source, an input as TEE_QID, a ring not enabled,
more lines than the ring. -/
def State.teeReasons (s : State) (p : Nat) (w : W128) : List Nat :=
  if !iTee w then [] else
  let src := if iA w / 2 ^ 14 = 2 then some (iA w) else if iB w / 2 ^ 14 = 2 then some (iB w) else none
  match src with
  | none => [6]
  | some o =>
    let r := ringOf (iTeeQ w)
    if iTeeQ w < 8 || !s.on (fQEnable r) p then [6]
    else if s.ringSize p r < o / 16 % 1024 + 1 then [7] else []

/-- The address of element (i0, i1, i2) of a descriptor operand (R109). -/
def elemAddr (base fmt st1 st2 i0 i1 i2 : Nat) : Nat := base + i0 * fmtBytes fmt + i1 * st1 + i2 * st2

end Sys2Proof.Machine
end

