-- ==== Sys2Proof/Machine/Matrix.lean ====
section
/-! DEFINITION. Matrix cores (chapter 05): the dispatch checks of MMA and ACCWB, the sweep, write-back, exception
counting and accumulators. -/

namespace Sys2Proof.Machine

/-! ## The CORE page (Tables 05-11, 05-12, 06-14) -/

def fCoreStat : Fld := ⟨.core, 0x010, 0, 1⟩
def fExcNan : Fld := ⟨.core, 0x100, 0, 16⟩
def fExcInv : Fld := ⟨.core, 0x100, 16, 16⟩
def fExcOvf : Fld := ⟨.core, 0x100, 32, 16⟩
def fExcSat : Fld := ⟨.core, 0x100, 48, 16⟩
def fExcFirstValid : Fld := ⟨.core, 0x108, 31, 1⟩
def fActiveCycles : Fld := ⟨.core, 0x110, 0, 48⟩
def fMacs : Fld := ⟨.core, 0x120, 0, 64⟩
def fLastDone : Fld := ⟨.core, 0x128, 24, 1⟩
def fTbHalf (h : Nat) : Fld := ⟨.core, 0x140, 2 * h, 2⟩

/-! ## Accumulators (R135) -/

/-- The key of accumulator a of PE (m, n) of a core. -/
def accKey (core a m n : Nat) : Nat := (core * 16 + a) * 256 + m * 16 + n

/-- An accumulator: its tag (true = INT32) and its bits. -/
def State.accRd (s : State) (core a m n : Nat) : Bool × W32 :=
  let v := fget (fun _ => 0) s.acc (accKey core a m n)
  (v.getLsbD 32, v.setWidth 32)

/-- An accumulator as stored. -/
def accPack (isInt : Bool) (v : W32) : BitVec 33 := v.setWidth 33 ||| (if isInt then 0x100000000 else 0)

/-! ## Operand data -/

/-- Element (i0, i1) of an operand as bits: a descriptor's by R109, a queue end's, or that of an operand loaded before,
packed row-major with `cols` elements a row (R142). -/
def State.elem (s : State) (p : Nat) (o : Opd) (pop : List Byte) (e cols i0 i1 : Nat) : Nat :=
  match o with
  | .desc base _ _ _ _ st1 _ => ofBytes (s.spRds p (base + i0 * e + i1 * st1) e)
  | .none => 0
  | _ => ofBytes ((pop.drop ((i1 * cols + i0) * e)).take e)

/-- Whether address a lies in a descriptor operand's byte extent (R109). -/
def Opd.covers (o : Opd) (a : Nat) : Bool :=
  match o with
  | .desc base fmt n0 n1 n2 st1 st2 =>
    base ≤ a && a < base + n0 * fmtBytes fmt + (n1 - 1) * st1 + (n2 - 1) * st2
  | _ => false

/-- First and last + 1 byte of a descriptor operand. -/
def Opd.extent (o : Opd) : Option (Nat × Nat) :=
  match o with
  | .desc base fmt n0 n1 n2 st1 st2 => some (base, base + n0 * fmtBytes fmt + (n1 - 1) * st1 + (n2 - 1) * st2)
  | _ => Option.none

/-- Whether two descriptor operands share a byte of their extents (R140). -/
def Opd.overlaps (a b : Opd) : Bool :=
  match a.extent, b.extent with
  | some x, some y => x.1 < y.2 && y.1 < x.2
  | _, _ => false

/-- Whether a byte of an element is read from a bad word by a descriptor operand of n1 rows (R224). -/
def State.opdBad (s : State) (p : Nat) (o : Opd) : Bool :=
  match o with
  | .desc base fmt n0 n1 _ st1 _ =>
    s.ecc ≠ [] && (List.range n1).any fun i => s.badIn p fun a => base + i * st1 ≤ a && a < base + i * st1 + n0 * fmtBytes fmt
  | _ => false

/-- The lines a descriptor operand touches. -/
def Opd.touches (o : Opd) (line : Nat) : Bool :=
  match o with
  | .desc base fmt n0 n1 _ st1 _ =>
    (List.range n1).any fun i => (base + i * st1) / 64 ≤ line && line ≤ (base + i * st1 + n0 * fmtBytes fmt - 1) / 64
  | _ => false

/-! ## Fields and checks (Tables 05-2 to 05-5) -/

def mM (w : W128) : Nat := sb w 80 6 + 1
def mN (w : W128) : Nat := sb w 86 6 + 1
def mK (w : W128) : Nat := sb w 92 6 + 1
def mFa (w : W128) : Nat := sb w 98 4
def mFb (w : W128) : Nat := sb w 102 4
def mPass (w : W128) : Nat := sb w 106 2
def mPrec (w : W128) : Nat := sb w 108 1
def mTra (w : W128) : Bool := sb w 109 1 = 1
def mTrb (w : W128) : Bool := sb w 110 1 = 1
def mAccIn (w : W128) : Nat := sb w 111 2
def mWb (w : W128) : Bool := sb w 113 1 = 1
def mCvt (w : W128) : Nat := sb w 114 8

/-- Table 05-3: whether two formats pair. -/
def pairOk (a b : Nat) : Bool :=
  ((a = 3 || a = 4) && (b = 3 || b = 4)) || (a = 5 && b = 5) || (a = 2 && b = 2) || ((a = 0 || a = 1) && (b = 0 || b = 1))

/-- Whether a pair may take PASS 2 and 3. -/
def pairMulti (a b : Nat) : Bool := (a = 0 || a = 1) && (b = 0 || b = 1)

/-- Whether a pair's accumulators are INT32. -/
def pairInt (a : Nat) : Bool := a = 5

/-- Cycles of a step (R136). -/
def stepCycles (a : Nat) : Nat := if a = 3 ∨ a = 4 ∨ a = 5 then 1 else 2

/-- The write-back formats of an accumulator type (Table 05-3). -/
def wbFmtOk (isInt : Bool) (f : Nat) : Bool := if isInt then f = 6 || f = 5 || f = 0 else f ≤ 4

/-- The CVT checks at dispatch (R144). -/
def cvtReasons (cvt : Nat) : List Nat :=
  (if cvt / 128 % 2 = 1 then [3] else []) ++ (if 2 ≤ cvt / 16 % 4 then [8] else [])

/-- ⌈a / b⌉. -/
def cdiv (a b : Nat) : Nat := (a + b - 1) / b

/-- The number of lines an operand field names. -/
def opdLines (o : Nat) : Nat := o / 16 % 1024 + 1

/-- Shape, alignment and format of a two-dimensional matrix operand field (R139–R142): d0 × d1 elements of `fmt`. -/
def State.matShape (s : State) (p bank o d0 d1 fmt : Nat) : List Nat :=
  match o / 2 ^ 14, s.resolve p bank o with
  | 1, .desc base f n0 n1 n2 st1 _ =>
    (if f ≠ fmt then [8] else []) ++
    (if base % fmtBytes f ≠ 0 ∨ st1 % fmtBytes f ≠ 0 then [8] else []) ++
    (if n0 ≠ d0 ∨ n1 ≠ d1 ∨ n2 ≠ 1 then [9] else [])
  | 2, _ => if opdLines o ≠ cdiv (d0 * d1 * fmtBytes fmt) 64 then [9] else []
  | _, _ => []

/-- The destination checks shared by matrix instructions (R140): the KINDs WB and ACC_IN allow, the load formats, the
format and shape, CO only with FP32. -/
def State.destReasons (s : State) (p bank o : Nat) (wb : Bool) (accIn : Nat) (isInt : Bool) (cvt d0 d1 : Nat) :
    List Nat :=
  let kind := o / 2 ^ 14
  (if accIn = 2 then (if kind = 1 then [] else [8])
   else if wb then (if kind = 1 ∨ kind = 2 then [] else [8])
   else (if kind = 0 then [] else [8])) ++
  (match s.resolve p bank o with
   | .desc _ f _ _ _ _ _ =>
     (if accIn = 2 ∧ !(if isInt then f = 6 else (f = 0 || f = 1)) then [8] else []) ++
     s.matShape p bank o d0 d1 (if wb then cvt % 16 else f)
   | .q q _ => (if q = 12 ∧ cvt % 16 ≠ 0 then [8] else []) ++ s.matShape p bank o d0 d1 (cvt % 16)
   | _ => [])

/-- Tables 05-5 and 04-9: what is wrong with an MMA at dispatch; CVT.FMT is checked whether or not WB is set. -/
def State.mmaReasons (s : State) (p bank : Nat) (w : W128) : List Nat :=
  let fa := mFa w
  let fb := mFb w
  let ra := s.resolve p bank (iA w)
  let rb := s.resolve p bank (iB w)
  let rc := s.resolve p bank (iC w)
  let tbA := iA w / 2 ^ 14 = 2 || mTra w
  let tbB := iB w / 2 ^ 14 = 2 || mTrb w
  (if mAccIn w = 3 ∨ sb w 122 6 ≠ 0 then [3] else []) ++ cvtReasons (mCvt w) ++
  (if pairOk fa fb then [] else [8]) ++
  (if wbFmtOk (pairInt fa) (mCvt w % 16) then [] else [8]) ++
  (if mPass w = 0 then [9] else []) ++ (if mPass w ≠ 1 ∧ !pairMulti fa fb then [8] else []) ++
  (if iA w / 2 ^ 14 = 0 ∨ iB w / 2 ^ 14 = 0 then [8] else []) ++
  (if tbA && tbB then [8] else []) ++
  (if rc.overlaps ra || rc.overlaps rb then [8] else []) ++
  s.opdReasons p bank (iA w) false (· ≤ 6) ++ s.opdReasons p bank (iB w) false (· ≤ 6) ++
  s.opdReasons p bank (iC w) true (· ≤ 6) ++
  s.matShape p bank (iA w) (if mTra w then mM w else mK w) (if mTra w then mK w else mM w) fa ++
  s.matShape p bank (iB w) (if mTrb w then mK w else mN w) (if mTrb w then mN w else mK w) fb ++
  s.destReasons p bank (iC w) (mWb w) (mAccIn w) (pairInt fa) (mCvt w) (mN w) (mM w)

/-- What is wrong with an ACCWB at dispatch (R138, R140, R144): only M1, N1 and CVT may be set; another bit, and OPD_A or
OPD_B, that is not 0 is REASON 3.  DESIGN CHOICE, log entry 109. -/
def State.accwbReasons (s : State) (p bank : Nat) (w : W128) : List Nat :=
  (if sb w 92 22 ≠ 0 ∨ sb w 122 6 ≠ 0 ∨ iA w ≠ 0 ∨ iB w ≠ 0 then [3] else []) ++ cvtReasons (mCvt w) ++
  (if 7 ≤ mCvt w % 16 then [8] else []) ++
  s.opdReasons p bank (iC w) true (· ≤ 6) ++
  s.destReasons p bank (iC w) true 0 false (mCvt w) (mN w) (mM w)

/-! ## Arithmetic of one element (R95, R96, R98) -/

/-- R95: the exact product, or the infinity of one that RNE alone would round to infinity. -/
def product (x y : Num) : Num × Bool :=
  match x.mul y with
  | .fin n m e =>
    if !Num.lt (.fin false m e) (.fin false (2 ^ 25 - 1) 103) then (.inf n, true) else (.fin n m e, false)
  | r => (r, false)

/-- R96: one FP32 accumulation and its classes: a carried NaN is no operand (R93, R148), and an invalid product raises
INVALID whatever it is added to. -/
def fmaAcc (acc : W32) (x y : Num) : W32 × Fl :=
  let pr := product x y
  let r := toF32 ((f32 acc).add pr.1)
  let n := x.isNan || y.isNan
  (r.1, ⟨n, !n && (pr.1.isNan || (!(f32 acc).isNan && (f32 r.1).isNan)), pr.2 || r.2.ovf, false⟩)

/-- R96: one INT32 accumulation, clamped. -/
def intAcc (acc : W32) (x y : Int) : W32 × Fl :=
  let c := clampInt (-(2 ^ 31)) (2 ^ 31 - 1) (acc.toInt + x * y)
  (BitVec.ofInt 32 c.1, { sat := c.2 })

/-- R98: hi and lo of a multi-pass operand and whether hi overflowed. -/
def splitHiLo (v : Num) : Num × Num × Bool :=
  let h := bf16.encode .rne false v
  let hi := bf16.decode h.1
  match v with
  | .fin _ _ _ => if h.2.ovf then (hi, .fin false 0 0, true)
      else (hi, bf16.decode (bf16.encode .rne false (v.add hi.neg)).1, false)
  | _ => (v, .fin false 0 0, false)

/-- Table 03-11: the terms of PASS and PREC in order: (lo of A?, lo of B?). -/
def passTerms (pass prec : Nat) : List (Bool × Bool) :=
  match pass with
  | 2 => if prec = 0 then [(true, false), (false, false)] else [(false, true), (false, false)]
  | 3 => [(true, false), (false, true), (false, false)]
  | _ => [(false, false)]

/-- The accumulation of a list of products in order; a step is skipped where it is `none` (zero gating). -/
def accumulate (isInt : Bool) : List (Option (Nat × Nat × Num × Num)) → W32 × Fl → W32 × Fl
  | [], a => a
  | none :: l, a => accumulate isInt l a
  | some (bx, by', x, y) :: l, a =>
    let r := if isInt then intAcc a.1 (sInt 8 bx) (sInt 8 by') else fmaAcc a.1 x y
    accumulate isInt l (r.1, a.2.or r.2)

/-- One operand value of a term: its plain value, or its hi or lo part. -/
def termVal (multi lo : Bool) (v : Num) : Num × Bool :=
  if multi then let h := splitHiLo v; (if lo then h.2.1 else h.1, h.2.2) else (v, false)

/-- An accumulator's value converted for write-back (R147): bits and classes, a NaN that is carried raising nothing. -/
def wbConv (isInt : Bool) (cvt : Nat) (v : W32) : Nat × Fl :=
  if isInt then
    (if cvt % 16 = 6 then (v.toNat, {})
     else if cvt % 16 = 5 then let c := clampInt (-128) 127 v.toInt; (ofSInt 8 c.1, { sat := c.2 })
     else match Num.ofInt false v.toInt 0 with
       | .fin n m e => ((fp32.round (cvtRnd cvt 0) false n m e).1, {})
       | _ => (0, {}))
  else let r := cvtOut cvt 0 v; (r.1, { r.2 with nan := false })

/-- An FP32 or INT32 accumulator loaded from OPD_C (R146), a NaN as the canonical one (R80). -/
def loadAcc (fmt bits : Nat) : W32 :=
  if fmt = 1 then canonF32 (BitVec.ofNat 32 (bits * 2 ^ 16))
  else if fmt = 0 then canonF32 (BitVec.ofNat 32 bits) else BitVec.ofNat 32 bits

/-- One output element of a matrix instruction when it completes: its place, its accumulator after, its classes, its
written-back bits. -/
structure ElemOut where
  a : Nat
  m : Nat
  n : Nat
  acc : W32
  fl : Fl
  out : Nat
  deriving DecidableEq, Repr

/-- The valid elements of an M × N output in the order of the sweep (R145): blocks row by row, each block row-major;
(accumulator, row, column) of the whole output. -/
def sweep (M N : Nat) : List (Nat × Nat × Nat) :=
  (List.range (cdiv M 16)).flatMap fun bm => (List.range (cdiv N 16)).flatMap fun bn =>
    (List.range (min 16 (M - 16 * bm))).flatMap fun m => (List.range (min 16 (N - 16 * bn))).map fun n =>
      (bm * 4 + bn, 16 * bm + m, 16 * bn + n)

/-! ## Counting and writing back -/

/-- EXC_FIRST as a word (Table 05-12). -/
def excFirstWord (i : QInstr) (x : ElemOut) : W64 :=
  BitVec.ofNat 64 (i.pc % 2048 + i.bank % 2 * 2 ^ 11 + (if x.fl.nan then 2 ^ 12 else 0) + (if x.fl.inv then 2 ^ 13 else 0)
    + (if x.fl.ovf then 2 ^ 14 else 0) + (if x.fl.sat then 2 ^ 15 else 0) + x.m % 64 * 2 ^ 16 + x.n % 64 * 2 ^ 22
    + 2 ^ 31 + i.disp % 2 ^ 32 * 2 ^ 32)

/-- R93, R148: an element's classes counted in a counter register of a page. -/
def countFl (blk : Blk) (off inst : Nat) (fl : Fl) (n : Nat) : Eff :=
  doAll [whenE (fun _ => fl.nan) (addSat ⟨blk, off, 0, 16⟩ inst n), whenE (fun _ => fl.inv) (addSat ⟨blk, off, 16, 16⟩ inst n),
    whenE (fun _ => fl.ovf) (addSat ⟨blk, off, 32, 16⟩ inst n), whenE (fun _ => fl.sat) (addSat ⟨blk, off, 48, 16⟩ inst n)]

/-- R148: the exceptions of completed elements: counters, EXC_FIRST, EXC_NEW. -/
def countExc (core : Nat) (i : QInstr) (l : List ElemOut) : Eff :=
  forEach (l.filter fun x => x.fl ≠ {}) fun x =>
    doAll [countFl .core 0x100 core x.fl 1,
      whenE (fun s => !s.on fExcFirstValid core) (doAll [setReg .core core 0x108 (excFirstWord i x), setEvt .core core 0])]

/-- The bytes of columns of e-byte elements of a row that starts at a. -/
def rowSet (a e : Nat) (cols : List Nat) (x : Nat) : Bool := cols.any fun c => span (a + c * e) e x

/-- The elements of a write-back with which its rows begin: a block's row is one write.  DEDUCED, log entry 55. -/
def rowHeads (col : ElemOut → Nat) (cols : ElemOut → List Nat) (l : List ElemOut) : List ElemOut :=
  l.filter fun x => (cols x).head? = some (col x)

/-- R225: the words that a write-back of e-byte elements to OPD_C covers in part are read first. -/
def rmwC (p req : Nat) (c : Opd) (e : Nat) (col : ElemOut → Nat) (cols : ElemOut → List Nat) (l : List ElemOut) : Eff := fun s =>
  match c with
  | .desc base _ _ _ _ st1 _ =>
    if s.ecc = [] then [] else forEach (rowHeads col cols l) (fun x => eccRmwIn p req (rowSet (base + x.m * st1) e (cols x))) s
  | _ => []

/-- The first row of a block at which a write-back to OPD_C meets a bad word it covers only in part (R225). -/
def State.badC (s : State) (p : Nat) (c : Opd) (e : Nat) (col : ElemOut → Nat) (cols : ElemOut → List Nat) (l : List ElemOut) :
    Option Nat :=
  match c with
  | .desc base _ _ _ _ st1 _ =>
    if s.ecc = [] then none else
    ((rowHeads col cols l).find? fun x => (cols x).any fun k =>
      s.badWrite p (rowSet (base + x.m * st1) e (cols x)) (base + x.m * st1 + k * e) e).map (·.m)
  | _ => none

/-- R142, R147: elements of e bytes written to OPD_C: a descriptor's place (column `col` of an element, in one write with the
columns `cols` of its row), or a push in order. -/
def writeBackC (p : Nat) (c : Opd) (e : Nat) (col : ElemOut → Nat) (cols : ElemOut → List Nat) (l : List ElemOut) : Eff :=
  match c with
  | .desc base _ _ _ _ st1 _ => forEach l fun x =>
      spWrIn p (rowSet (base + x.m * st1) e (cols x)) (base + col x * e + x.m * st1) (leBytes e x.out)
  | .q q _ => ringPush p (ringOf q) (l.flatMap fun x => leBytes e x.out)
  | _ => skip

/-- The accumulators of completed elements written. -/
def writeAccs (core : Nat) (isInt : Bool) (l : List ElemOut) : Eff :=
  fun _ => l.map fun x => Upd.acc (accKey core x.a (x.m % 16) (x.n % 16)) (accPack isInt x.acc)

/-- Statistics of a matrix instruction (Table 05-11). -/
def matStats (core cycles macs : Nat) : Eff :=
  whenE (fun s => s.on fCoreStat core) (doAll [addSat fActiveCycles core cycles,
    fun s => setF fMacs core (s.get fMacs core + macs) s])

/-- LAST_INSTR of an instruction that begins: DONE = 0. -/
def instrWord (i : QInstr) : W64 := BitVec.ofNat 64 (i.pc % 2048 + i.bank % 2 * 2 ^ 11 + iOp i.word * 2 ^ 16)

/-- The state of the transposing-buffer halves of a mask (R154): 1 loading, 2 loaded, 3 in use. -/
def tbSet (core halves st : Nat) : Eff :=
  doAll [whenE (fun _ => halves % 2 = 1) (setF (fTbHalf 0) core st), whenE (fun _ => halves / 2 % 2 = 1) (setF (fTbHalf 1) core st)]

/-- R143: the halves the next operand of so many bytes goes to: both, or one in turn. -/
def State.tbNext (s : State) (core bytes : Nat) (whole : Bool) : Nat :=
  if whole || 8192 < bytes then 3 else 1 + s.ax ⟨.tbNext, core, 0⟩ % 2

/-- An operand begins to load into its halves; the next one of one half goes to the other. -/
def tbLoad (core halves : Nat) : Eff := fun s =>
  doAll [tbSet core halves 1, whenE (fun _ => halves ≠ 3) (setAx ⟨.tbNext, core, 0⟩ (1 - s.ax ⟨.tbNext, core, 0⟩ % 2))] s

/-- The sparse A operand a core's buffer holds is gone. -/
def tbForget (core : Nat) : Eff := modTl fun t => { t with tbs := t.tbs.filter fun x => x.core ≠ core }

/-! ## MMA (R145–R148) -/

/-- The completed elements of an MMA. -/
def State.mmaElems (s : State) (i : QInstr) (core : Nat) : List ElemOut :=
  let w := i.word
  let isInt := pairInt (mFa w)
  let multi := pairMulti (mFa w) (mFb w)
  let ea := fmtBytes (mFa w)
  let eb := fmtBytes (mFb w)
  let aBits (m k : Nat) : Nat :=
    if mTra w then s.elem i.p i.a i.popA ea (mM w) m k else s.elem i.p i.a i.popA ea (mK w) k m
  let bBits (k n : Nat) : Nat :=
    if mTrb w then s.elem i.p i.b i.popB eb (mK w) k n else s.elem i.p i.b i.popB eb (mN w) n k
  (sweep (mM w) (mN w)).map fun x =>
    let a := x.1
    let m := x.2.1
    let n := x.2.2
    let init : W32 × Fl :=
      match mAccIn w with
      | 1 => ((s.accRd core a (m % 16) (n % 16)).2, {})
      | 2 => match i.c with
        | .desc base f _ _ _ st1 _ =>
          let v := loadAcc f (ofBytes (s.spRds i.p (base + n * fmtBytes f + m * st1) (fmtBytes f)))
          (v, { nan := !isInt && (f32 v).isNan })
        | _ => (0, {})
      | _ => (0, {})
    let steps := (passTerms (mPass w) (mPrec w)).flatMap fun t => (List.range (mK w)).map fun k =>
      let ab := aBits m k
      let bb := bBits k n
      some (ab, bb, (termVal multi t.1 (decodeElem (mFa w) ab)).1, (termVal multi t.2 (decodeElem (mFb w) bb)).1)
    let ovr := multi && (List.range (mK w)).any fun k =>
      (splitHiLo (decodeElem (mFa w) (aBits m k))).2.2 || (splitHiLo (decodeElem (mFb w) (bBits k n))).2.2
    let r := accumulate isInt steps init
    let wb := if mWb w then wbConv isInt (mCvt w) r.1 else (0, {})
    ⟨a, m, n, r.1, (r.2.or wb.2).or { ovf := ovr }, wb.1⟩

/-- Whether a bad word holds an element of index j along an operand's dimension 1 (`across` false) or dimension 0. -/
def State.lineBad (s : State) (p : Nat) (o : Opd) (across : Bool) (j : Nat) : Bool :=
  match o with
  | .desc base fmt n0 n1 _ st1 _ =>
    let e := fmtBytes fmt
    if across then (List.range n1).any fun i => s.badIn p (span (base + i * st1 + j * e) e)
    else s.badIn p (span (base + j * st1) (n0 * e))
  | _ => false

/-- Where a matrix instruction stops at an error: its code, the block at which it stops (all earlier ones are summed), the
row of that block at which its write-back stops, where it does, and whether it stops while the transposing buffer loads. -/
structure MStop where
  code : Nat
  blk : Nat
  row : Option Nat := none
  load : Bool := false
  /-- of a sparse instruction: code of Table 06-7, phase, row. -/
  tile : Option (Nat × Nat × Nat) := none
  deriving DecidableEq, Repr

/-- The blocks of a list of elements, in order. -/
def blocksOf (l : List ElemOut) : List Nat := (l.map fun x => x.a).dedup

/-- The first stop among the blocks of a list of elements, each with its place. -/
def firstStop (l : List ElemOut) (f : Nat → List ElemOut → Option MStop) : Option MStop :=
  (blocksOf l).zipIdx.findSome? fun b => f b.2 (l.filter fun x => x.a = b.1)

/-- Whether OPD_C's elements of a block hold a bad word, with ACC_IN = 2. -/
def State.loadBad (s : State) (p : Nat) (c : Opd) (col : ElemOut → Nat) (l : List ElemOut) : Bool :=
  match c with
  | .desc base f _ _ _ st1 _ => s.ecc ≠ [] && l.any fun x => s.badIn p (span (base + col x * fmtBytes f + x.m * st1) (fmtBytes f))
  | _ => false

/-- The columns of C written together with an element of an MMA or ACCWB: those of its block's row. -/
def mCols (w : W128) (x : ElemOut) : List Nat := List.range' (x.n / 16 * 16) (min 16 (mN w - x.n / 16 * 16))

/-- An MMA's or ACCWB's write-back of elements. -/
def mmaBack (i : QInstr) (l : List ElemOut) : Eff :=
  writeBackC i.p i.c (fmtBytes (mCvt i.word % 16)) (fun x => x.n) (mCols i.word) l

/-- R225 for that write-back. -/
def mmaRmw (i : QInstr) (l : List ElemOut) : Eff :=
  rmwC i.p i.e i.c (fmtBytes (mCvt i.word % 16)) (fun x => x.n) (mCols i.word) l

/-- The row of a block at which that write-back meets a bad word. -/
def State.mmaBadC (s : State) (i : QInstr) (l : List ElemOut) : Option Nat :=
  s.badC i.p i.c (fmtBytes (mCvt i.word % 16)) (fun x => x.n) (mCols i.word) l

/-- The execution error an MMA meets first (R146, R149, R225): a bad word in an operand that the transposing buffer loads
whole; then, block by block, a tag that differs, a bad word that a step or the load of C reads, one that the write-back covers
in part. -/
def State.mmaStop (s : State) (i : QInstr) (core : Nat) (l : List ElemOut) : Option MStop :=
  let w := i.word
  if (mTra w && s.opdBad i.p i.a) || (mTrb w && s.opdBad i.p i.b) then some { code := eECC_UE, blk := 0, load := true }
  else if s.ecc = [] && mAccIn w ≠ 1 then none
  else firstStop l fun b x =>
    if mAccIn w = 1 && x.any fun y => (s.accRd core y.a (y.m % 16) (y.n % 16)).1 ≠ pairInt (mFa w) then some { code := eARG, blk := b }
    else if s.ecc ≠ [] && (x.any (fun y => s.lineBad i.p i.a false y.m || s.lineBad i.p i.b true y.n) ||
        (mAccIn w = 2 && s.loadBad i.p i.c (fun y => y.n) x)) then some { code := eECC_UE, blk := b }
    else match (if mWb w then s.mmaBadC i x else none) with
      | some r => some { code := eECC_UE, blk := b, row := some r }
      | none => none

/-- R223: the scratchpad lines whose words an MMA reads: its operands', and OPD_C's with ACC_IN = 2. -/
def mmaReads (i : QInstr) (core : Nat) : Eff :=
  eccRead i.p (core % 4) fun ln => i.a.touches ln || i.b.touches ln || (mAccIn i.word = 2 && i.c.touches ln)

/-- An MMA's work: accumulators, write-back or push, exceptions, statistics; then it only has to complete. -/
def mmaEff (i : QInstr) (core : Nat) : Eff := fun s =>
  let w := i.word
  let l := s.mmaElems i core
  doAll [mmaReads i core, writeAccs core (pairInt (mFa w)) l,
    whenE (fun _ => mWb w) (doAll [mmaRmw i l, mmaBack i l]),
    countExc core i l,
    matStats core (cdiv (mM w) 16 * cdiv (mN w) 16 * mK w * mPass w * stepCycles (mFa w))
      (mM w * mN w * mK w * mPass w),
    tbSet core i.tb 3, tbForget core, markWorked i.p i.e] s

/-- The instruction at the head of core c's queue of tile t, issued and not yet done, with an opcode. -/
def State.coreHead (s : State) (p c op : Nat) : Option QInstr :=
  match s.head p c with
  | some i => if c < 4 && i.issued && !i.worked && iOp i.word = op then some i else none
  | none => none

/-- MMA: the core sweeps the instruction at the head of its queue; where it meets an error, ENGINE_EXEC_ERROR ends it. -/
def effMma (t c : Nat) : Eff := fun s =>
  match s.coreHead (s.phys t) c 0x20 with
  | some i => if (s.mmaStop i (4 * i.p + c) (s.mmaElems i (4 * i.p + c))).isSome then [] else mmaEff i (4 * i.p + c) s
  | none => []

def execMma (t c : Nat) (s : State) : Host.Outcome State Fault Refusal := .next ((effMma t c).run s)

/-! ## ACCWB (R147) -/

/-- The elements an ACCWB writes: each converted from the type its tag names. -/
def State.accwbElems (s : State) (i : QInstr) (core : Nat) : List ElemOut :=
  (sweep (mM i.word) (mN i.word)).map fun x =>
    let v := s.accRd core x.1 (x.2.1 % 16) (x.2.2 % 16)
    let r := wbConv v.1 (mCvt i.word) v.2
    ⟨x.1, x.2.1, x.2.2, v.2, r.2, r.1⟩

/-- The execution error an ACCWB meets first: block by block, CVT.FMT not allowed for an accumulator's tag, a bad word at a
partial write. -/
def State.accwbStop (s : State) (i : QInstr) (core : Nat) (l : List ElemOut) : Option MStop :=
  firstStop l fun b x =>
    if x.any fun y => !wbFmtOk (s.accRd core y.a (y.m % 16) (y.n % 16)).1 (mCvt i.word % 16) then some { code := eARG, blk := b }
    else match s.mmaBadC i x with
      | some r => some { code := eECC_UE, blk := b, row := some r }
      | none => none

/-- ACCWB's work. -/
def accwbEff (i : QInstr) (core : Nat) : Eff := fun s =>
  let l := s.accwbElems i core
  doAll [mmaRmw i l, mmaBack i l, countExc core i l, tbForget core, markWorked i.p i.e] s

/-- ACCWB: the core writes back accumulators without computing. -/
def effAccwb (t c : Nat) : Eff := fun s =>
  match s.coreHead (s.phys t) c 0x21 with
  | some i => if (s.accwbStop i (4 * i.p + c) (s.accwbElems i (4 * i.p + c))).isSome then [] else accwbEff i (4 * i.p + c) s
  | none => []

def execAccwb (t c : Nat) (s : State) : Host.Outcome State Fault Refusal := .next ((effAccwb t c).run s)

end Sys2Proof.Machine
end

