-- ==== Sys2Proof/Machine/Geometry.lean ====
section
/-! DEFINITION. Routes over the physical grid (R249–R252), edge links (R18–R20), hop counts and the distance table
(R21–R24, R29). -/

namespace Sys2Proof.Machine

/-! ## Positions and routes -/

/-- A physical position: column px and row y. -/
abbrev Pos := Nat × Nat

/-- The physical index of a position. -/
def posIdx (p : Pos) : Nat := p.2 * 200 + p.1

/-- Whether the router at a position is dead. -/
def GeoMap.deadAt (g : GeoMap) (p : Pos) : Bool := g.deadRouters.contains (posIdx p)

/-- The position one hop away; none off the square. -/
def hop (p : Pos) : Dir → Option Pos
  | .l => some p
  | .n => if p.2 = 0 then none else some (p.1, p.2 - 1)
  | .s => if p.2 = 179 then none else some (p.1, p.2 + 1)
  | .e => if p.1 = 199 then none else some (p.1 + 1, p.2)
  | .w => if p.1 = 0 then none else some (p.1 - 1, p.2)

/-- The positions a list of moves passes; none where it leaves the square or meets a dead router.
DEDUCED, log entry 49. -/
def GeoMap.walk (g : GeoMap) (p : Pos) : List Dir → Option (List Pos)
  | [] => some []
  | d :: ds => match hop p d with
    | none => none
    | some q => if g.deadAt q then none else (g.walk q ds).map (q :: ·)

/-- R249: the next link of a unicast packet at a position, for logical destination (dx, dy) and source row sy; L at
the destination. -/
def GeoMap.nextPort (g : GeoMap) (p : Pos) (dx dy sy : Nat) : Dir :=
  if p = (g.px dx dy, dy) then .l
  else if p.2 = sy ∧ p.1 ≠ g.px dx p.2 then (if p.1 < g.px dx p.2 then .e else .w)
  else if p.1 ≠ g.px dx p.2 then (if p.1 < g.px dx p.2 then .e else .w)
  else if p.2 < dy then .s else .n

/-- The moves of a detour or of one plain hop (R252): X travel around a dead router through the south row (the north
row at y = 179), Y travel through the east column (the west column at px = 199), and at a turn one column early.
none: the route is broken.  The flag says that the moves are a detour. -/
def GeoMap.moves (g : GeoMap) (p : Pos) (dx dy sy : Nat) : Option (List Dir × Bool) :=
  let d := g.nextPort p dx dy sy
  match d with
  | .l => some ([], false)
  | _ =>
    match hop p d with
    | none => none
    | some q =>
      if !g.deadAt q then some ([d], false)
      else if q = (g.px dx dy, dy) then none
      else
        let ydir : Dir := if p.2 < dy then .s else .n
        let ms : List Dir :=
          if d = .e ∨ d = .w then
            (if q.1 = g.px dx p.2 ∧ p.2 ≠ dy then [ydir, d]
             else if p.2 = 179 then [.n, d, d, .s] else [.s, d, d, .n])
          else
            (if g.px dx q.2 ≠ q.1 then [(if q.1 < g.px dx q.2 then .e else .w), d]
             else if p.1 = 199 then [.w, d, d, .e] else [.e, d, d, .w])
        match g.walk p ms with
        | none => none
        | some _ => some (ms, true)

/-- The end of a list of moves. -/
def walkEnd (p : Pos) : List Dir → Pos
  | [] => p
  | d :: ds => walkEnd ((hop p d).getD p) ds

/-- The route of a unicast packet from a position, with bounded length: hops, detours, and each move; none where the
route is broken. -/
def GeoMap.routeFrom (g : GeoMap) (dx dy sy : Nat) : Nat → Pos → Option (List Dir × Nat)
  | 0, _ => none
  | fuel + 1, p =>
    match g.moves p dx dy sy with
    | none => none
    | some ([], _) => some ([], 0)
    | some (ms, dt) =>
      match g.routeFrom dx dy sy fuel (walkEnd p ms) with
      | none => none
      | some (rest, n) => some (ms ++ rest, n + if dt then 1 else 0)

/-- The position of logical (x, y). -/
def GeoMap.pos (g : GeoMap) (x y : Nat) : Pos := (g.px x y, y)

/-- The route between two logical tiles: its moves and its number of detours (R249–R252, R263). -/
def GeoMap.route (g : GeoMap) (xs ys xd yd : Nat) : Option (List Dir × Nat) :=
  g.routeFrom xd yd ys 800 (g.pos xs ys)

/-- Hop count of a route, its detours' hops included (R21–R23). -/
def GeoMap.hops (g : GeoMap) (xs ys xd yd : Nat) : Option Nat := (g.route xs ys xd yd).map fun r => r.1.length

/-! ## Edge links (R18–R20) -/

/-- The number of edge links of a slip port (Table 01-6). -/
def portLinks (p : Nat) : Nat := if p < 12 ∨ (24 ≤ p ∧ p < 36) then 16 else 15

/-- The logical edge tile of link i of port p: (x, y). -/
def edgeTile (p i : Nat) : Nat × Nat :=
  if p < 12 then (16 * p + i, 0)
  else if p < 24 then (191, 15 * (p - 12) + i)
  else if p < 36 then (16 * (p - 24) + i, 179)
  else (0, 15 * (p - 36) + i)

/-- The link of the edge tile that leaves the square there. -/
def edgeDir (p : Nat) : Dir := if p < 12 then .n else if p < 24 then .e else if p < 36 then .s else .w

/-- The port and the link index a logical edge tile's outward link belongs to, if it is an edge link. -/
def edgeOf (x y : Nat) (d : Dir) : Option (Nat × Nat) :=
  match d with
  | .n => if y = 0 then some (x / 16, x % 16) else none
  | .s => if y = 179 then some (24 + x / 16, x % 16) else none
  | .e => if x = 191 then some (12 + y / 15, y % 15) else none
  | .w => if x = 0 then some (36 + y / 15, y % 15) else none
  | .l => none

/-- R20: link i of port p is enabled: its edge tile's segment is in use. -/
def GeoMap.linkOn (g : GeoMap) (p i : Nat) : Bool :=
  i < portLinks p && !g.outOfUse ((edgeTile p i).2 * 192 + (edgeTile p i).1)

/-- The enabled links of a port. -/
def GeoMap.linksOn (g : GeoMap) (p : Nat) : List Nat := (List.range (portLinks p)).filter fun i => g.linkOn p i

/-- The distance of two numbers. -/
def absDiff (a b : Nat) : Nat := (a - b) + (b - a)

/-- The first of a list with the least measure. -/
def argMin {α : Type} (f : α → Nat) : List α → Option α
  | [] => none
  | a :: l => match argMin f l with
    | none => some a
    | some b => if f a ≤ f b then some a else some b

/-- R22: the entry link of a port for a tile: the enabled link nearest along the edge, the lower index at a tie. -/
def GeoMap.entryLink (g : GeoMap) (p x y : Nat) : Option Nat :=
  argMin (fun i => if p < 12 ∨ (24 ≤ p ∧ p < 36) then absDiff (edgeTile p i).1 x else absDiff (edgeTile p i).2 y)
    (g.linksOn p)

/-! ## The distance table -/

/-- R21–R24: bits [31:0] of DIST_DATA for tile t and port p (Table 01-12). -/
def GeoMap.dist (g : GeoMap) (t p : Nat) : Nat :=
  let x := t % 192
  let y := t / 192
  if g.outOfUse t then 0
  else match g.entryLink p x y with
    | none => 0
    | some i =>
      let e := edgeTile p i
      match g.hops e.1 e.2 x y, g.hops x y e.1 e.2 with
      | some a, some b => (a + 1) % 512 + ((b + 1) % 512) * 2 ^ 9 + (i % 16) * 2 ^ 18 + 2 ^ 31
      | _, _ => 0

/-- R29: entry n of a whole-table copy, n = t × 48 + p. -/
def GeoMap.distEntry (g : GeoMap) (n : Nat) : Nat := g.dist (n / 48) (n % 48)

/-! ## CRC-32C (R232) -/

/-- One bit of CRC-32C, reflected polynomial 0x82F6_3B78. -/
def crcBit (c : Nat) : Nat := if c % 2 = 1 then (c / 2) ^^^ 0x82F63B78 else c / 2

/-- One byte of CRC-32C. -/
def crcByte (c : Nat) (b : Byte) : Nat := Nat.repeat crcBit 8 (c ^^^ b.toNat)

/-- CRC-32C of a list of bytes: initial value and final inversion all ones. -/
def crc32c (l : List Byte) : Nat := (l.foldl crcByte 0xFFFFFFFF) ^^^ 0xFFFFFFFF

/-- R29, Table 01-13: the bytes of a whole-table copy: the header, then the entries. -/
def GeoMap.distTableBytes (g : GeoMap) (gen : Nat) : List Byte :=
  let entries := (List.range 1658880).flatMap fun n => leBytes 4 (g.distEntry n)
  leBytes 4 gen ++ leBytes 4 34560 ++ leBytes 4 48 ++ leBytes 4 4 ++ leBytes 4 (crc32c entries)
    ++ leBytes 44 0 ++ entries

end Sys2Proof.Machine
end

