-- ==== Sys2Proof/Machine/Store.lean ====
section
/-! DEFINITION. The weight store: addresses and regions (R272, R274), generation headers (R275, R485), bad bursts
(R277), the alteration count (R293), pins (R276), and the store windows of the saggars (R426, R427, R432). -/

namespace Sys2Proof.Machine

/-! ## Fields of the SLIP page (Tables 10-14, 10-15) -/

def fSlipStat : Fld := ⟨.slip, 0x010, 0, 1⟩
def fSlipState : Fld := ⟨.slip, 0x018, 0, 64⟩
def fUnits : Fld := ⟨.slip, 0x108, 0, 12⟩
def fStackTemp : Fld := ⟨.slip, 0x108, 16, 8⟩
def fRefresh : Fld := ⟨.slip, 0x108, 24, 2⟩
def fTrained : Fld := ⟨.slip, 0x108, 26, 1⟩
def fReadMax : Fld := ⟨.slip, 0x110, 0, 11⟩
def fRsvRead : Fld := ⟨.slip, 0x110, 16, 11⟩
def fRsvTr : Fld := ⟨.slip, 0x110, 32, 11⟩
def fMapBase (r : Nat) : Fld := ⟨.slip, 0x140 + 8 * r, 0, 12⟩
def fMapSize (r : Nat) : Fld := ⟨.slip, 0x140 + 8 * r, 16, 12⟩
def fCgen (g : Nat) : Fld := ⟨.slip, 0x180 + 8 * g, 0, 1⟩
def fGenValid (g : Nat) : Fld := ⟨.slip, 0x180 + 8 * g, 1, 1⟩
def fGenOwner (g : Nat) : Fld := ⟨.slip, 0x180 + 8 * g, 4, 12⟩
def fGenAlt (g : Nat) : Fld := ⟨.slip, 0x180 + 8 * g, 16, 16⟩
def fGenVer (g : Nat) : Fld := ⟨.slip, 0x180 + 8 * g, 32, 32⟩
def fCtxKiln (c : Nat) : Fld := ⟨.slip, 0x200 + 0x10 * c, 0, 8⟩
def fCtxValid (c : Nat) : Fld := ⟨.slip, 0x200 + 0x10 * c, 8, 1⟩
def fCtxState (c : Nat) : Fld := ⟨.slip, 0x200 + 0x10 * c, 9, 3⟩
def fCtxIndex (c : Nat) : Fld := ⟨.slip, 0x200 + 0x10 * c, 16, 12⟩
def fCtxLen (c : Nat) : Fld := ⟨.slip, 0x200 + 0x10 * c, 32, 12⟩
def fCtxList (c : Nat) : Fld := ⟨.slip, 0x208 + 0x10 * c, 0, 48⟩
def fWinBase (w : Nat) : Fld := ⟨.slip, 0x300 + 8 * w, 0, 16⟩
def fWinSize (w : Nat) : Fld := ⟨.slip, 0x300 + 8 * w, 16, 16⟩
def fWinState (w : Nat) : Fld := ⟨.slip, 0x300 + 8 * w, 32, 2⟩
def fWinKiln (w : Nat) : Fld := ⟨.slip, 0x300 + 8 * w, 40, 8⟩
def fWinDone (w : Nat) : Fld := ⟨.slip, 0x300 + 8 * w, 48, 6⟩
def fGlogUsed : Fld := ⟨.slip, 0x340, 0, 11⟩
def fGlogChecks : Fld := ⟨.slip, 0x340, 16, 16⟩
def fGlogMiss : Fld := ⟨.slip, 0x340, 32, 16⟩
def fStoreCe : Fld := ⟨.slip, 0x360, 0, 32⟩
def fStoreUe : Fld := ⟨.slip, 0x360, 32, 16⟩
def fEccFirstValid : Fld := ⟨.slip, 0x368, 63, 1⟩
def fBytesRd : Fld := ⟨.slip, 0x378, 0, 48⟩
def fBytesWr : Fld := ⟨.slip, 0x380, 0, 48⟩
def fXferClosed : Fld := ⟨.slip, 0x398, 16, 16⟩

/-- The pages of the 48 slip ports. -/
def ports48 : List Nat := List.range 48

/-! ## Addresses (R272) -/

/-- The slot of a stack: 64 GiB. -/
def slotSize : Nat := 2 ^ 36

/-- The usable bytes of stack p. -/
def State.usable (s : State) (p : Nat) : Nat := if p < 48 then s.get fUnits p * 2 ^ 24 else 0

/-- Whether a store address is populated. -/
def State.populated (s : State) (a : Nat) : Bool := a / slotSize < 48 && a % slotSize < s.usable (a / slotSize)

/-- The first unpopulated byte of n bytes at a. -/
def State.firstUnpop (s : State) (a n : Nat) : Option Nat :=
  if n = 0 then none
  else if !s.populated a then some a
  else
    let e := a / slotSize * slotSize + s.usable (a / slotSize)
    if e < a + n then some (if e % slotSize = 0 && s.populated e then e + s.usable (e / slotSize) else e) else none

/-- Address bits [37:6], the INFO of store errors. -/
def storeInfo (a : Nat) : Nat := a / 64 % 2 ^ 32

/-- A byte of the store as it reads: zero where it is unpopulated. DESIGN CHOICE, log entry 12. -/
def State.stRd (s : State) (a : Nat) : Byte :=
  if s.populated a then fget (fun _ => 0) s.store a ^^^ storeFillByte s.storeFill a else 0

/-- n bytes of the store from a on. -/
def State.stRds (s : State) (a n : Nat) : List Byte := (List.range n).map fun i => s.stRd (a + i)

/-- A little-endian number of n bytes in the store. -/
def State.stNum (s : State) (a n : Nat) : Nat := ofBytes (s.stRds a n)

/-- The bad bursts that hold a byte of an extent (R277). -/
def State.badBursts (s : State) (a n : Nat) : List Nat :=
  s.storeBad.filter fun b => b * 32 < a + n && a < b * 32 + 32

/-- Whether a write covers part of a bad burst only (R277). -/
def State.badPart (s : State) (a n : Nat) : Bool :=
  (s.badBursts a n).any fun b => b * 32 < a || a + n < b * 32 + 32

/-- R277: bad bursts met by a reader are counted in the page of their stack, the first recorded, ECC_UE set. -/
def badMeet (reader a n : Nat) : Eff := fun s =>
  forEach (s.badBursts a n) (fun b =>
    let p := b * 32 / slotSize
    doAll [addSat fStoreUe p 1, eccTotal 3, setEvt .slip p 2,
      whenE (fun s => !s.on fEccFirstValid p)
        (setReg .slip p 0x368 (BitVec.ofNat 64 (b * 32 / 64 + reader * 2 ^ 42 + 2 ^ 63)))]) s

/-- R277: bursts of stack p that reads have corrected since the last look, a free number: no command names them.
DESIGN CHOICE, log entry 4. -/
def ceGain (p : Nat) : Eff := drawFree fun w => doAll [addSat fStoreCe p (getBits w 0 32),
  fun s => setAx ⟨.eccTotal, 2, 0⟩ (s.ax ⟨.eccTotal, 2, 0⟩ + getBits w 0 32) s]

/-- BYTES_RD or BYTES_WR of the stack an access touches, while STAT_EN. -/
def countBytes (f : Fld) (a n : Nat) : Eff :=
  whenE (fun s => s.on fSlipStat (a / slotSize)) (addSat f (a / slotSize) n)

/-! ## Regions and generations (Tables 10-3, 10-4) -/

/-- The store address at which region r of stack p begins. -/
def State.regionBase (s : State) (p r : Nat) : Nat := p * slotSize + s.get (fMapBase r) p * 2 ^ 24

/-- The bytes of region r of stack p. -/
def State.regionSize (s : State) (p r : Nat) : Nat := s.get (fMapSize r) p * 2 ^ 24

/-- Whether an extent lies inside region r of stack p. -/
def State.inRegion (s : State) (p r a n : Nat) : Bool :=
  s.regionBase p r ≤ a && a + n ≤ s.regionBase p r + s.regionSize p r

/-- Whether an extent lies inside region r of some stack. -/
def State.inRegionAny (s : State) (r a n : Nat) : Bool := a / slotSize < 48 && s.inRegion (a / slotSize) r a n

/-- Whether an extent shares a byte with region r of its stack. -/
def State.meetsRegion (s : State) (p r a n : Nat) : Bool :=
  s.regionSize p r ≠ 0 && a < s.regionBase p r + s.regionSize p r && s.regionBase p r < a + n

/-- A generation's data starts 64 KiB in (R275). -/
def genData : Nat := 0x10000

/-- The store address of an offset in slot k of pair g of stack p: 0 home, 1 mirror. -/
def State.genAddr (s : State) (p g k off : Nat) : Nat := s.regionBase p (2 * g + k) + genData + off

/-- The bytes of a generation header (Table 10-4). -/
def headerBytes (ver alt st owner : Nat) : List Byte :=
  let h := leBytes 4 ver ++ leBytes 2 alt ++ leBytes 1 st ++ leBytes 1 0 ++ leBytes 2 (owner % 4096) ++ leBytes 50 0
  h ++ leBytes 4 (crc32c h)

/-- Whether the header of slot k of pair g of stack p is correct and COMMITTED. -/
def State.hdrCommitted (s : State) (p g k : Nat) : Bool :=
  let a := s.regionBase p (2 * g + k)
  let h := s.stRds a 64
  s.regionSize p (2 * g + k) ≠ 0 && s.badBursts a 64 = [] && ofBytes (h.drop 60) = crc32c (h.take 60)
    && ofBytes ((h.drop 6).take 1) = 2

/-- VERSION, ALT and OWNER of a header. -/
def State.hdrVer (s : State) (p g k : Nat) : Nat := s.stNum (s.regionBase p (2 * g + k)) 4
def State.hdrAlt (s : State) (p g k : Nat) : Nat := s.stNum (s.regionBase p (2 * g + k) + 4) 2
def State.hdrOwner (s : State) (p g k : Nat) : Nat := s.stNum (s.regionBase p (2 * g + k) + 8) 2 % 4096

/-- HOME_GEN as a word. -/
def genWord (slot valid owner alt ver : Nat) : W64 :=
  BitVec.ofNat 64 (slot % 2 + 2 * (valid % 2) + owner % 4096 * 16 + alt % 65536 * 2 ^ 16 + ver % 2 ^ 32 * 2 ^ 32)

/-- R485: HOME_GEN of pair g of port p set from its headers. -/
def reread1 (p g : Nat) : Eff := fun s =>
  let c0 := s.hdrCommitted p g 0
  let c1 := s.hdrCommitted p g 1
  let k := if c0 && c1 then (if s.hdrVer p g 0 < s.hdrVer p g 1 then 1 else 0) else if c1 then 1 else 0
  setReg .slip p (0x180 + 8 * g)
    (if c0 || c1 then genWord k 1 (s.hdrOwner p g k) (s.hdrAlt p g k) (s.hdrVer p g k) else 0) s

/-- R485: a slip port reads its generation headers. -/
def headerReread (p : Nat) : Eff := doAll [reread1 p 0, reread1 p 1]

/-! ## Writes -/

/-- The bytes of an extent put into the store; bad bursts covered whole become sound, and a write that covers part of one is
discarded in full, with `lost` what its writer does (R277); a rim core's modified copy of a line gives way (R71). -/
def storePutOr (a : Nat) (data : List Byte) (lost : Eff) : Eff := fun s =>
  if s.badPart a data.length then lost s else
  (data.zipIdx.map fun x => Upd.store (a + x.2) x.1) ++
  [.storeBad fun l => l.filter fun b => !(a ≤ b * 32 && b * 32 + 32 ≤ a + data.length),
   .rm fun r => { r with lines := r.lines.filter fun l => !(l.addr < a + data.length && a < l.addr + 64) }]

/-- A write whose writer has met no bad burst, or does nothing about one. -/
def storePut (a : Nat) (data : List Byte) : Eff := storePutOr a data skip

/-- A generation header written with a fresh CRC. -/
def writeHeader (p g k ver alt st owner : Nat) : Eff := fun s =>
  storePut (s.regionBase p (2 * g + k)) (headerBytes ver alt st owner) s

/-- The ALT of the committed generation of pair g of port p increments, in the header and in HOME_GEN (R293). -/
def bumpAlt (p g : Nat) : Eff := fun s =>
  let k := s.get (fCgen g) p
  let alt := (s.get (fGenAlt g) p + 1) % 65536
  doAll [writeHeader p g k (s.hdrVer p g k) alt 2 (s.hdrOwner p g k), setF (fGenAlt g) p alt] s

/-- R293: a write into a COMMITTED generation increments its ALT, unless it covers bytes of the header. -/
def altCount (a n : Nat) : Eff := fun s =>
  let p := a / slotSize
  forEach [0, 1] (fun g => whenE (fun s =>
    let r := 2 * g + s.get (fCgen g) p
    s.on (fGenValid g) p && s.meetsRegion p r a n &&
      !(a < s.regionBase p r + 64 && s.regionBase p r < a + n)) (bumpAlt p g)) s

/-- Whether an extent covers a byte of a header of port p. -/
def State.coversHeader (s : State) (p a n : Nat) : Bool :=
  (List.range 4).any fun r => s.regionSize p r ≠ 0 && a < s.regionBase p r + 64 && s.regionBase p r < a + n

/-- Why a write is discarded: an unpopulated byte (R272), part of a bad burst (R277). -/
def State.storeWrErr (s : State) (a n : Nat) : Option (Nat × Nat) :=
  match s.firstUnpop a n with
  | some x => some (eARG, storeInfo x)
  | none => if s.badPart a n then some (eECC_UE, storeInfo a) else none

/-- A write by any writer other than the glaze commit path: stored, counted toward ALT; headers it covers are read again
(R293, R485). -/
def storeWrite (a : Nat) (data : List Byte) : Eff :=
  doAll [altCount a data.length, storePut a data, countBytes fBytesWr a data.length,
    whenE (fun s => s.coversHeader (a / slotSize) a data.length) (headerReread (a / slotSize))]

/-- What a read meets: a bad burst, else an unpopulated byte (R272). -/
def State.storeRdErr (s : State) (a n : Nat) : Option (Nat × Nat) :=
  match s.badBursts a n with
  | b :: _ => some (eECC_UE, storeInfo (b * 32))
  | [] => (s.firstUnpop a n).map fun x => (eARG, storeInfo x)

/-! ## Pins (R276) -/

/-- Slot k of the HOME pair of stack p is pinned by a stream or a gather serve. -/
def State.pinned (s : State) (p k : Nat) : Bool :=
  (s.sl.streams.any fun t => t.start.any fun x => x.stack = p && x.slot = k) ||
  (s.fb.serves.any fun v => v.busy && !v.alias_ && v.stack = p && v.slot = k)

/-! ## Store windows (R426, R427) -/

def fEpoch : Fld := ⟨.saggar, 0x108, 0, 1⟩
def fJobSag (j : Nat) : Fld := ⟨.saggar, 0x400 + 8 * j, 0, 6⟩
def fJobValid (j : Nat) : Fld := ⟨.saggar, 0x400 + 8 * j, 8, 1⟩

/-- R432: whether an item with an EPOCH is judged by the value before the wafer change. -/
def State.oldEntry (s : State) (kind idx epoch : Nat) : Bool :=
  match s.sg.change with
  | some c => c.kind = kind && c.idx = idx && (!c.installed || epoch ≠ s.get fEpoch 0)
  | none => false

/-- The values before the wafer change. -/
def State.changeOld (s : State) : W64 × W64 :=
  match s.sg.change with
  | some c => (c.old0, c.old1)
  | none => (0, 0)

/-- A store window as SW_LO and SW_HI; for an item of an EPOCH, or for a command (none). -/
def State.win (s : State) (w : Nat) (epoch : Option Nat) : W64 × W64 :=
  let now := (BitVec.ofNat 64 (fget (fun _ => 0) s.sg.wins (2 * w)), BitVec.ofNat 64 (fget (fun _ => 0) s.sg.wins (2 * w + 1)))
  match epoch with
  | some e => if s.oldEntry 1 w e then s.changeOld else now
  | none => now

/-- Base, bytes, saggar, READ, WRITE of a VALID window. -/
def winParts (x : W64 × W64) : Option (Nat × Nat × Nat × Bool × Bool) :=
  if getBits x.2 42 1 = 1 then
    some (getBits x.1 0 48, getBits x.2 0 32 * 65536, getBits x.2 32 6, getBits x.2 40 1 = 1, getBits x.2 41 1 = 1)
  else none

/-- The VALID windows that hold an address. -/
def State.winAt (s : State) (epoch : Option Nat) (a : Nat) : Option (Nat × Nat × Nat × Bool × Bool) :=
  (List.range 256).findSome? fun w =>
    match winParts (s.win w epoch) with
    | some x => if x.1 ≤ a ∧ a < x.1 + x.2.1 then some x else none
    | none => none

/-- The first address of an extent that a saggar may not reach (R427), within a number of windows. -/
def State.sagStop (s : State) (epoch : Option Nat) (sag : Nat) (rd wr : Bool) (stop : Nat) : Nat → Nat → Option Nat
  | 0, a => if stop ≤ a then none else some a
  | fuel + 1, a =>
    if stop ≤ a then none
    else match s.winAt epoch a with
      | some x => if x.2.2.1 = sag && (!rd || x.2.2.2.1) && (!wr || x.2.2.2.2)
          then s.sagStop epoch sag rd wr stop fuel (x.1 + x.2.1) else some a
      | none => some a

/-- R427: the first byte of an access that is denied. -/
def State.sagDenied (s : State) (epoch : Option Nat) (sag : Nat) (rd wr : Bool) (a n : Nat) : Option Nat :=
  s.sagStop epoch sag rd wr (a + n) 257 a

/-- Owner and OWNED of a denied address, for DENY_FIRST. -/
def State.winOwner (s : State) (epoch : Option Nat) (a : Nat) : Nat × Bool :=
  match s.winAt epoch a with
  | some x => (x.2.2.1, true)
  | none => (0, false)

/-- The saggar of a kiln for an item of an EPOCH (R432). -/
def State.kilnSag (s : State) (k : Nat) (epoch : Option Nat) : Nat :=
  match epoch with
  | some e => if s.oldEntry 0 k e then getBits s.changeOld.1 0 6 else s.get (fSaggar .kiln) k
  | none => s.get (fSaggar .kiln) k

/-- JOB_OWNER of a job: VALID and saggar. -/
def State.jobOwner (s : State) (j : Nat) (epoch : Option Nat) : Bool × Nat :=
  match epoch with
  | some e => if s.oldEntry 2 j e then (getBits s.changeOld.1 8 1 = 1, getBits s.changeOld.1 0 6)
      else (s.on (fJobValid j) 0, s.get (fJobSag j) 0)
  | none => (s.on (fJobValid j) 0, s.get (fJobSag j) 0)

end Sys2Proof.Machine
end

