-- ==== Sys2Proof/Machine/Frames.lean ====
section
/-! DEFINITION. Sending over fabric ports and board links (chapter 14): link ports, MAC addresses (R372), frames
(R371, R374), peers and classes (R378, R379, R381), datagrams (R384), and the modules of a job (R358).
A link port is 0–15 for F0–F15 and 16–18 for L0–L2. -/

namespace Sys2Proof.Machine

/-! ## Link pages (Table 14-11) -/

/-- Block and instance of a link port. -/
def lkBlk (port : Nat) : Blk := if port < 16 then .fab else .blink
def lkInst (port : Nat) : Nat := if port < 16 then port else port - 16

/-- A field of a link port's page. -/
def lkF (port off lo w : Nat) : Fld := ⟨lkBlk port, off, lo, w⟩

def State.lk (s : State) (port off lo w : Nat) : Nat := s.get (lkF port off lo w) (lkInst port)
def setLk (port off lo w v : Nat) : Eff := setF (lkF port off lo w) (lkInst port) v
def addLk (port off lo w n : Nat) : Eff := addSat (lkF port off lo w) (lkInst port) n
def evtLk (port bit : Nat) : Eff := setEvt (lkBlk port) (lkInst port) bit
def errLk (port code info : Nat) : Eff := recordErr (lkBlk port) (lkInst port) code info

/-- The link ports. -/
def linkPorts : List Nat := List.range 19

def State.lkState (s : State) (port : Nat) : Nat := s.lk port 0x018 0 64
def State.lkUp (s : State) (port : Nat) : Bool := s.lkState port = 2
def State.lkEnabled (s : State) (port : Nat) : Bool := s.lk port 0x010 2 1 = 1
def State.lkStat (s : State) (port : Nat) : Bool := s.lk port 0x010 0 1 = 1
def State.win4 (s : State) (port cls : Nat) : Nat := s.lk port 0x118 (16 * cls) 12

def fModuleId : Fld := ⟨.blink, 0x180, 0, 12⟩
def fBoardPos : Fld := ⟨.blink, 0x180, 12, 2⟩
def fVid : Fld := ⟨.blink, 0x180, 16, 12⟩
def fMacPrefix : Fld := ⟨.blink, 0x188, 0, 32⟩
def fEtype : Fld := ⟨.blink, 0x190, 0, 16⟩
def fPrio (c : Nat) : Fld := ⟨.blink, 0x198, 4 * c, 3⟩
def fPmode : Fld := ⟨.crack, 0x138, 0, 2⟩
def fRole : Fld := ⟨.crack, 0x138, 2, 1⟩
def fPartnerState : Fld := ⟨.crack, 0x138, 4, 3⟩
def fPartnerId : Fld := ⟨.crack, 0x138, 16, 12⟩
def fAlias : Fld := ⟨.crack, 0x138, 32, 12⟩
def fAliasEn : Fld := ⟨.crack, 0x138, 44, 1⟩

/-- This module's MODULE_ID. -/
def State.self (s : State) : Nat := s.get fModuleId 0

/-- R372: the MAC address of link port `port` of module m, octet 0 in the lowest byte. -/
def State.mac (s : State) (port m : Nat) : Nat :=
  let pre := s.get fMacPrefix 0
  let o3 := pre / 2 ^ 24 / 2 * 2 + (if port < 16 then 0 else 1)
  pre % 2 ^ 24 + o3 * 2 ^ 24 + (lkInst port * 16 + m / 256 % 16) * 2 ^ 32 + m % 256 * 2 ^ 40

/-! ## Peers -/

/-- The entry of a module on a link port. -/
def State.peer (s : State) (port m : Nat) (al : Bool) : Option Peer :=
  s.fb.peers.find? fun x => x.port = port && x.module_ = m && x.alias_ = al

/-- The fixed peer of a board link (R381). -/
def State.boardPeer (s : State) (port : Nat) : Option Peer := s.fb.peers.find? fun x => x.port = port

/-- One class of a peer. -/
def Peer.chan (x : Peer) (cls : Nat) : Chan :=
  match cls with | 0 => x.c0 | 1 => x.c1 | 2 => x.c2 | _ => x.c3

def Peer.setChan (x : Peer) (cls : Nat) (c : Chan) : Peer :=
  match cls with | 0 => { x with c0 := c } | 1 => { x with c1 := c } | 2 => { x with c2 := c } | _ => { x with c3 := c }

/-- A peer entry changed. -/
def modPeer (port m : Nat) (al : Bool) (f : Peer → Peer) : Eff := modFb fun b =>
  { b with peers := b.peers.map fun x => if x.port = port && x.module_ = m && x.alias_ = al then f x else x }

/-! ## Frames -/

/-- A frame of this module to module m over a link port (Tables 14-2, 14-3). -/
def State.mkFrame (s : State) (port m : Nat) (al : Bool) (cls typ : Nat) (seqd first last : Bool)
    (seq msg moff mlen : Nat) (payload : List Byte) : Frame :=
  ⟨true, true, s.mac port m, s.get fEtype 0, 1, cls, typ, if al then s.get fAlias 0 else s.self, m, first, last, seqd,
    seq, msg, moff, mlen, 0, payload⟩

/-- TCI of a frame of a class: its PCP from PRIO, and VID (Table 14-2). -/
def State.tci (s : State) (cls : Nat) : Nat := s.get (fPrio cls) 0 * 2 ^ 13 + s.get fVid 0

/-- A frame leaves a port: counted while STAT_EN (Table 14-11). -/
def sendFrame (port : Nat) (fr : Frame) : Eff := fun s =>
  doAll [emit (.frame port (s.mac port fr.src) (s.tci fr.cls) fr), whenE (fun s => s.lkStat port) (addLk port 0x148 0 48 1)] s

/-- A priority of a port is paused (R387). -/
def State.isPaused (s : State) (port cls : Nat) : Bool := s.ax ⟨.paused, port, s.get (fPrio cls) 0⟩ ≠ 0

/-- The datagrams that wait on a port leave, in order. -/
def pumpDgrams (port : Nat) : Eff := fun s =>
  doAll [forEach (s.fb.dgrams.filter fun x => x.1 = port) (fun x => sendFrame port x.2),
    whenE (fun s => s.fb.dgrams ≠ []) (modFb fun b => { b with dgrams := b.dgrams.filter fun x => x.1 ≠ port })] s

/-- A datagram on one link port: one frame with SEQD = 0 (R374); it waits while its priority is paused (R387). -/
def sendOn (port m : Nat) (al : Bool) (typ : Nat) (data : List Byte) : Eff := fun s =>
  let fr := s.mkFrame port m al 0 typ false true true 0 0 0 data.length data
  if s.isPaused port 0 then modFb (fun b => { b with dgrams := b.dgrams ++ [(port, fr)] }) s
  else doAll [pumpDgrams port, sendFrame port fr] s

/-- The frames of a peer that may be sent now (R379): not yet sent, and SEQ below NEXT + CREDIT of the last ACK. -/
def State.ready? (s : State) (x : Peer) (f : SentFrame) : Bool :=
  !f.sent && x.st = 1 && s.lkUp x.port && !s.isPaused x.port f.cls &&
  match (x.chan f.cls).sLimit with
  | some c => (f.fr.seq + 2 ^ 32 - (x.chan f.cls).sBase) % 2 ^ 32 < c
  | none => false

/-- Every frame of a peer that may be sent leaves, in order. -/
def pump (port m : Nat) (al : Bool) : Eff := fun s =>
  match s.peer port m al with
  | none => []
  | some x => doAll [forEach (x.frames.filter fun f => s.ready? x f) (fun f => sendFrame port f.fr),
      modPeer port m al fun y => { y with frames := y.frames.map fun f => { f with sent := f.sent || s.ready? x f } }] s

/-- The fragments of a message: at most 4,096 bytes each (R374). -/
def fragments (fuel off : Nat) (data : List Byte) : List (Nat × List Byte) :=
  match fuel with
  | 0 => []
  | n + 1 => if data.length ≤ 4096 then [(off, data)]
      else (off, data.take 4096) :: fragments n (off + 4096) (data.drop 4096)

/-- A sequenced message to a peer: its fragments take consecutive SEQ and one MSG, and leave as credit allows. -/
def sendMsg (port m : Nat) (al : Bool) (cls typ : Nat) (data : List Byte) : Eff := fun s =>
  match s.peer port m al with
  | none => []
  | some x =>
    let c := x.chan cls
    let fs := fragments (data.length / 4096 + 1) 0 data
    let frs := fs.zipIdx.map fun z : (Nat × List Byte) × Nat =>
      (⟨cls, false, s.mkFrame port m al cls typ true (z.1.1 = 0) (z.2 + 1 = fs.length)
        ((c.sNext + z.2) % 2 ^ 32) (c.sMsg % 65536) z.1.1 data.length z.1.2, ofBytes (data.take 4)⟩ : SentFrame)
    doAll [modPeer port m al fun y => { y.setChan cls { c with sNext := (c.sNext + fs.length) % 2 ^ 32, sMsg := c.sMsg + 1 }
        with frames := y.frames ++ frs }, pump port m al] s

/-- A message can be handed to a peer: there is an entry and it is not DOWN (Tables 14-7, 14-9). -/
def State.canSend (s : State) (port m : Nat) : Bool :=
  match s.peer port m false with
  | some x => x.st ≠ 2
  | none => false

/-- The link port of a PATH and PORT of a plan (R288, R316): 0 fabric, 1 board link. -/
def planPort (path port : Nat) : Nat := if path = 0 then port % 16 else 16 + port % 4

/-- R388: whether a plan's path reaches the module it names. -/
def State.pathOk (s : State) (path port m : Nat) : Bool :=
  if path = 0 then s.canSend (port % 16) m
  else port < 3 && match s.boardPeer (16 + port) with
    | some x => x.module_ = m && x.st ≠ 2
    | none => false

/-! ## Datagrams (R384) -/

/-- The first UP fabric port from n on, other than one in use. -/
def State.upFab (s : State) (n : Nat) (not_ : Option Nat) : Option Nat :=
  ((List.range 16).map fun i => (n + i) % 16).find? fun q => s.lkUp q && some q ≠ not_

/-- A datagram to module m by the routes of R384; none to itself. DEDUCED, log entry 122. -/
def sendDgram (m typ : Nat) (data : List Byte) : Eff := fun s =>
  if m = s.self then [] else
  match ([16, 17, 18].find? fun q => s.lkUp q && (s.boardPeer q).any fun x => x.module_ = m) with
  | some q => sendOn q m false typ data s
  | none =>
    match s.upFab (m % 16) none with
    | none => addLk (if s.grade = 2 then 16 else m % 16) 0x170 0 32 1 s
    | some a =>
      doAll [sendOn a m false typ data, withSome (s.upFab ((m + 8) % 16) (some a)) skip fun b => sendOn b m false typ data] s

/-! ## The modules of a job (Tables 13-3, 13-4) -/

def fKilnJob : Fld := ⟨.kiln, 0x110, 0, 8⟩
def fKilnJobValid : Fld := ⟨.kiln, 0x110, 8, 1⟩
def fJobtab : Fld := ⟨.kiln, 0x118, 0, 48⟩

/-- The kilns. -/
def kilns256 : List Nat := List.range 256

/-- The kilns of a job on the module. -/
def State.jobKilns (s : State) (j : Nat) : List Nat :=
  kilns256.filter fun k => s.get fKilnState k ≠ 0 && s.on fKilnJobValid k && s.get fKilnJob k = j

/-- The address of a job's table entry, as its first kiln names it. -/
def State.jobTab (s : State) (j : Nat) : Option Nat := (s.jobKilns j).head?.map fun k => s.get fJobtab k

/-- The module IDs of a shard list. -/
def State.shardModules (s : State) (tab : Nat) : List Nat :=
  let n := s.stNum (tab + 2) 2 % 8192
  let a := s.stNum (tab + 24) 8 % 2 ^ 48
  (List.range n).map fun i => s.stNum (a + 16 * i) 2 % 4096

/-- The modules of a job. -/
def State.jobModules (s : State) (j : Nat) : List Nat := (s.jobTab j).elim [] s.shardModules

/-- A datagram to every other module of a job. -/
def castJob (j typ : Nat) (data : List Byte) : Eff := fun s => forEach (s.jobModules j) (fun m => sendDgram m typ data) s

/-- Payloads of Table 14-5. -/
def abortBytes (job code origin step : Nat) : List Byte :=
  leBytes 1 job ++ leBytes 1 code ++ leBytes 2 origin ++ leBytes 4 step ++ leBytes 8 0
def voteBytes (job kind step : Nat) : List Byte := leBytes 1 job ++ leBytes 1 kind ++ leBytes 2 0 ++ leBytes 4 step ++ leBytes 8 0
def commitBytes (job step : Nat) : List Byte := leBytes 1 job ++ leBytes 3 0 ++ leBytes 4 step ++ leBytes 8 0

end Sys2Proof.Machine
end

