-- ==== Sys2Proof/Machine/Sparse.lean ====
section
/-! DEFINITION. Sparse work (chapter 06): sparse tiles, the sparse matrix instructions, row splitting, binned mode, and
the wedging stage. -/

namespace Sys2Proof.Machine

/-! ## Sparse tiles (R155–R160) -/

/-- A sparse tile as read: its header's fields (Table 06-2) and its payload. -/
structure STile where
  form : Nat
  fmt : Nat
  rows : Nat
  cols : Nat
  lines : Nat
  count : Nat
  cls : Nat
  tensor : Nat
  cap : Nat
  rowCnt : List Nat
  perm : List Nat
  rsvdOk : Bool
  payload : List Byte
  deriving DecidableEq, Repr

/-- Byte i of a list, as a number. -/
def byteN (l : List Byte) (i : Nat) : Nat := (l.getD i 0).toNat

/-- Bits [lo + w − 1 : lo] of a list of bytes taken as one little-endian number. -/
def bitsOf (l : List Byte) (lo w : Nat) : Nat := (ofBytes l >>> lo) % 2 ^ w

/-- The header of a tile (Table 06-2); the payload still to come. DEDUCED, log entry 48. -/
def parseHead (h : List Byte) : STile :=
  let rc := ofBytes ((h.drop 16).take 18)
  { form := byteN h 0, fmt := byteN h 1 % 16, rows := byteN h 2 % 16 + 1, cols := byteN h 3 + 1,
    lines := byteN h 4 + 256 * byteN h 5, count := byteN h 6 + 256 * byteN h 7,
    cls := byteN h 8 % 4, tensor := byteN h 8 / 4 % 8, cap := byteN h 9 + 1,
    rowCnt := (List.range 16).map fun n => (rc >>> (9 * n)) % 512,
    perm := (List.range 16).map fun n => byteN h (34 + n),
    rsvdOk := byteN h 1 / 16 = 0 && byteN h 2 / 16 = 0 && byteN h 8 / 32 = 0 && byteN h 10 / 8 = 0 &&
      ((h.drop 11).take 5).all (· = 0) && ((h.drop 50).take 14).all (· = 0),
    payload := [] }

/-- The payload lines Table 06-3 gives a form. -/
def formLines (form rows cols count cap e : Nat) : Nat :=
  match form with
  | 0 => cdiv (rows * cols * e) 64
  | 1 => cdiv (rows * cols * e) 128 + cdiv (rows * cols) 512
  | 2 => cdiv rows 2 + cdiv (count * e) 64
  | 3 => cdiv (count * e) 64 + cdiv count 64
  | _ => cdiv (16 * cap * e) 64 + cdiv cap 4

/-- An element of e bytes at a byte of a payload. -/
def payElem (l : List Byte) (at' e : Nat) : Nat := ofBytes ((l.drop at').take e)

/-- The sum of the first n numbers. -/
def sumTo (l : List Nat) (n : Nat) : Nat := (l.take n).sum

/-- The stored positions and values of tile row n: (column, bits), in stored order (Table 06-3). -/
def STile.entries (t : STile) (n : Nat) : List (Nat × Nat) :=
  let e := fmtBytes t.fmt
  let c := t.rowCnt.getD n 0
  let first := sumTo t.rowCnt n
  match t.form with
  | 0 => (List.range t.cols).map fun k => (k, payElem t.payload ((n * t.cols + k) * e) e)
  | 1 =>
    let meta0 := cdiv (t.rows * t.cols * e) 128 * 64
    (List.range (t.cols / 4)).flatMap fun g =>
      let j := n * (t.cols / 4) + g
      let nib := byteN t.payload (meta0 + j / 2) / (if j % 2 = 0 then 1 else 16) % 16
      [(4 * g + nib % 4, payElem t.payload (n * (t.cols / 2) * e + 2 * g * e) e),
       (4 * g + nib / 4, payElem t.payload (n * (t.cols / 2) * e + (2 * g + 1) * e) e)]
  | 2 =>
    let ks := (List.range t.cols).filter fun k => byteN t.payload (32 * n + k / 8) / 2 ^ (k % 8) % 2 = 1
    let v0 := cdiv t.rows 2 * 64
    ks.zipIdx.map fun x => (x.1, payElem t.payload (v0 + (first + x.2) * e) e)
  | 3 =>
    let i0 := cdiv (t.count * e) 64 * 64
    (List.range c).map fun j => (byteN t.payload (i0 + first + j), payElem t.payload ((first + j) * e) e)
  | _ =>
    let i0 := cdiv (16 * t.cap * e) 64 * 64
    (List.range (min c t.cap)).map fun st => (byteN t.payload (i0 + 16 * st + n), payElem t.payload ((16 * st + n) * e) e)

/-- Whether numbers rise strictly. -/
def rising : List Nat → Bool
  | a :: b :: l => a < b && rising (b :: l)
  | _ => true

/-- Whether an element's encoding is a zero (R156). -/
def zeroBits (fmt b : Nat) : Bool := (decodeElem fmt b).isZero

/-! ## The sparse instructions (Tables 06-4, 06-5) -/

def spM (w : W128) : Nat := sb w 80 6 + 1
def spK (w : W128) : Nat := sb w 86 10 + 1
def spFa (w : W128) : Nat := sb w 96 4
def spFb (w : W128) : Nat := sb w 100 4
def spTra (w : W128) : Bool := sb w 104 1 = 1
def spAccIn (w : W128) : Nat := sb w 105 2
def spWb (w : W128) : Bool := sb w 107 1 = 1
def spCvt (w : W128) : Nat := sb w 108 8
def spKeep (w : W128) : Bool := sb w 116 1 = 1
def spPerm (w : W128) : Bool := sb w 117 1 = 1

/-- The width of C's rows: 16, or what the C descriptor says with PERM_WB = 1 (R164). -/
def State.spWidth (s : State) (p bank : Nat) (w : W128) : Nat :=
  if spPerm w then (match s.resolve p bank (iC w) with | .desc _ _ n0 _ _ _ _ => n0 | _ => 16) else 16

/-- Tables 06-6, 04-9: what is wrong with a sparse instruction at dispatch; CVT.FMT is checked whether or not WB is set.  A B
descriptor whose BASE is not aligned, or whose FMT is not FMT_B, is REASON 8.  DESIGN CHOICE, log entry 111. -/
def State.smmaReasons (s : State) (p bank : Nat) (w : W128) : List Nat :=
  let fa := spFa w
  let fb := spFb w
  let M := spM w
  let K := spK w
  let rb := s.resolve p bank (iB w)
  let rc := s.resolve p bank (iC w)
  let W := s.spWidth p bank w
  (if spAccIn w = 3 ∨ sb w 118 10 ≠ 0 then [3] else []) ++ cvtReasons (spCvt w) ++
  (if pairOk fa fb && fa ≠ 0 && fb ≠ 0 then [] else [8]) ++
  (if wbFmtOk (pairInt fa) (spCvt w % 16) then [] else [8]) ++
  (if spPerm w ∧ iOp w ≠ 0x2A then [8] else []) ++
  (if spKeep w then (if iA w / 2 ^ 14 = 0 then [] else [8]) else (if iA w / 2 ^ 14 = 0 then [8] else [])) ++
  (if iB w / 2 ^ 14 = 0 then [8] else []) ++
  (if 16384 < M * K * fmtBytes fa then [9] else []) ++
  (if rc.overlaps (s.resolve p bank (iA w)) then [8] else []) ++
  (match rb, rc.extent with
   | .desc base _ n0 _ _ _ _, some x => if x.1 < base + 64 * n0 ∧ base < x.2 then [8] else []
   | _, _ => []) ++
  (if W < 16 ∨ 256 < W then [9] else []) ++
  s.opdReasons p bank (iA w) false (· ≤ 6) ++ s.opdReasons p bank (iC w) true (· ≤ 6) ++
  s.matShape p bank (iA w) (if spTra w then M else K) (if spTra w then K else M) fa ++
  (match iB w / 2 ^ 14, rb with
   | 1, .desc base f n0 n1 n2 st1 st2 =>
     let d := s.slot p bank (iB w % 2048)
     (if iB w / 2048 % 8 ≠ 0 ∨ sb d 126 2 ≠ 0 then [3] else []) ++
     (if sb d 0 8 ≠ 0xFD then [4] else
       (if s.descBase p d < 0 ∨ spSize < base + 64 * n0 then [5] else []) ++
       (if f ≠ fb ∨ base % 64 ≠ 0 then [8] else []) ++
       (if n1 ≠ 1 ∨ n2 ≠ 1 ∨ st1 ≠ 0 ∨ st2 ≠ 0 then [9] else []))
   | 2, _ => s.opdReasons p bank (iB w) false (· ≤ 6) ++ (if opdLines (iB w) ≠ 1 then [9] else [])
   | _, _ => s.opdReasons p bank (iB w) false (· ≤ 6)) ++
  s.destReasons p bank (iC w) (spWb w) (spAccIn w) (pairInt fa) (spCvt w) W M

/-- The column blocks of K (R162). -/
def spKb (w : W128) : Nat := cdiv (spK w) 256

/-- The bytes of B: the descriptor's extent, or what the pop took. -/
def State.spB (s : State) (i : QInstr) : List Byte :=
  match i.b with
  | .desc base _ n0 _ _ _ _ => s.spRds i.p base (64 * n0)
  | _ => i.popB

/-- The tiles of B one after the other; a tile that runs past the bytes has a short payload. -/
def spTiles : Nat → List Byte → List STile
  | 0, _ => []
  | n + 1, l =>
    let h := parseHead (l.take 64)
    { h with payload := (l.drop 64).take (64 * h.lines) } :: spTiles n (l.drop (64 + 64 * h.lines))

def fBinValid (j : Nat) : Fld := ⟨.core, 0x180 + 8 * j, 32, 1⟩
def fBinCap (j cls : Nat) : Fld := ⟨.core, 0x180 + 8 * j, 8 * cls, 8⟩
def fSplitT : Fld := ⟨.core, 0x148, 0, 9⟩

/-- Whether an opcode accepts a tile form (Table 06-4). -/
def formOk (op form : Nat) : Bool :=
  match op with
  | 0x28 => form = 1 || form = 0
  | 0x29 => form = 2 || form = 3 || form = 0
  | _ => form = 4

/-- A set bit count of a bitmap row. -/
def mapCount (t : STile) (n : Nat) : Nat :=
  ((List.range 256).filter fun k => byteN t.payload (32 * n + k / 8) / 2 ^ (k % 8) % 2 = 1).length

/-- Whether the payload agrees with its header (code 5 of Table 06-7): the first row concerned. -/
def STile.inconsistent (t : STile) : Option Nat :=
  if t.lines ≠ formLines t.form t.rows t.cols t.count t.cap (fmtBytes t.fmt) then some 0
  else if t.count ≠ t.rowCnt.sum then some 0
  else (List.range 16).find? fun n =>
    match t.form with
    | 0 => false
    | 1 => t.rowCnt.getD n 0 ≠ t.cols / 2
    | 2 => mapCount t n ≠ t.rowCnt.getD n 0
    | _ => !rising ((t.entries n).map (·.1))

/-- Table 06-7, lowest code first: what is wrong with the tile of a phase; (code, row). -/
def State.tileErr (s : State) (i : QInstr) (core phase : Nat) (t : STile) (first : Option STile) : Option (Nat × Nat) :=
  let w := i.word
  let kb := spKb w
  let W := s.spWidth i.p i.bank w
  if !formOk (iOp w) t.form then some (1, 0)
  else if t.fmt ≠ spFb w then some (2, 0)
  else if t.rows ≠ 16 ∨ (phase + 1 < kb ∧ t.cols ≠ 256) ∨ (phase + 1 = kb ∧ t.cols ≠ spK w - 256 * (kb - 1)) then some (3, 0)
  else if t.payload.length < 64 * t.lines then some (4, 0)
  else match t.inconsistent with
  | some r => some (5, r)
  | none =>
    if t.form = 1 && (List.range 16).any fun n =>
        (List.range (t.cols / 4)).any fun g =>
          match (t.entries n)[2 * g]?, (t.entries n)[2 * g + 1]? with
          | some a, some b => b.1 ≤ a.1
          | _, _ => false
    then some (6, 0)
    else if t.form = 4 && s.on (fBinValid t.tensor) core &&
        (t.cap ≠ s.get (fBinCap t.tensor t.cls) core + 1
         || t.rowCnt.any (fun c => t.cap < c)
         || (List.range 16).any (fun n => (List.range t.cap).any fun st => t.rowCnt.getD n 0 ≤ st &&
              (byteN t.payload (cdiv (16 * t.cap * fmtBytes t.fmt) 64 * 64 + 16 * st + n) ≠ 0
               || payElem t.payload ((16 * st + n) * fmtBytes t.fmt) (fmtBytes t.fmt) ≠ 0))
         || (match first with | some f => f.perm ≠ t.perm | none => false)
         || !t.perm.Nodup
         || (spPerm w && t.perm.any fun q => W ≤ q))
    then some (7, 0)
    else if !t.rsvdOk then some (8, 0)
    else if t.form = 4 && !s.on (fBinValid t.tensor) core then some (9, 0)
    else none

/-- The A the transposing buffer must hold for A_KEEP (R164). -/
def State.tbHeld (s : State) (core : Nat) (w : W128) : Option TbA :=
  s.tl.tbs.find? fun x => x.core = core && x.m1 = spM w && x.k1 = spK w && x.fmt = spFa w && x.tra = (if spTra w then 1 else 0)

/-- A, row by row. -/
def State.spA (s : State) (i : QInstr) (core : Nat) : List Nat :=
  let w := i.word
  if spKeep w then (match s.tbHeld core w with | some x => x.elems | none => [])
  else
    let e := fmtBytes (spFa w)
    (List.range (spM w)).flatMap fun m => (List.range (spK w)).map fun k =>
      if spTra w then s.elem i.p i.a i.popA e (spM w) m k else s.elem i.p i.a i.popA e (spK w) k m

/-! ## Row splitting (R168–R170) -/

/-- The least loaded lane, the lowest at a tie. -/
def leastLane (load : List Nat) : Nat := (argMin' (List.range load.length) load).1
where
  argMin' : List Nat → List Nat → Nat × Nat
    | [], _ => (0, 0)
    | [l], load => (l, load.getD l 0)
    | l :: ls, load => let r := argMin' ls load; if load.getD l 0 ≤ r.2 then (l, load.getD l 0) else r

/-- The lengths of the extra segments of a row: segment j from 1 on. -/
def extraSegs (cnt t : Nat) : List (Nat × Nat) :=
  (List.range (cdiv cnt t - 1)).map fun j => (j + 1, min t (cnt - (j + 1) * t))

/-- R168: the schedule: the loads, and the extra segments in order as (row, j, lane, length). -/
def schedule (cnt : List Nat) (t : Nat) : List Nat × List (Nat × Nat × Nat × Nat) :=
  ((cnt.zipIdx.flatMap fun x => (extraSegs x.1 t).map fun g => (x.2, g.1, g.2))).foldl
    (fun st x =>
      let lane := leastLane st.1
      (st.1.set lane (st.1.getD lane 0 + x.2.2), st.2 ++ [(x.1, x.2.1, lane, x.2.2)]))
    (cnt.map fun c => min c t, [])

/-- The largest of a list. -/
def maxOf (l : List Nat) : Nat := l.foldl max 0

/-- How a phase runs: 0 the dense path or in order, 1 split; its steps, its cycles, idle lane-steps, extra segments. -/
structure PhaseRun where
  split : Bool
  steps : Nat
  cycles : Nat
  idle : Nat
  extra : List (Nat × Nat × Nat × Nat)
  deriving DecidableEq, Repr

/-- R166, R170, R171: how the phase of a tile runs. -/
def phaseRun (op : Nat) (t : STile) (c T : Nat) : PhaseRun :=
  match t.form with
  | 0 => ⟨false, 0, t.cols * c, 0, []⟩
  | 1 => ⟨false, t.cols / 2, t.cols / 2 * c, 0, []⟩
  | 4 => if t.cols * c < max (16 * c) (2 * c * t.cap) then ⟨false, 0, t.cols * c, 0, []⟩
      else ⟨false, t.cap, 2 * c * t.cap, 0, []⟩
  | _ =>
    let sc := schedule t.rowCnt T
    let L := maxOf sc.1
    if t.cols * c < max (16 * c) (2 * c * L + sc.2.length) then ⟨false, 0, t.cols * c, 0, []⟩
    else ⟨op = 0x29, L, 2 * c * L, (sc.1.map fun x => L - x).sum, sc.2⟩

/-- Products of entries of a phase onto an accumulator, zeros skipped (R156). -/
def runEntries (isInt : Bool) (fa fb : Nat) (A : Nat → Nat) (base : Nat) (es : List (Nat × Nat)) (a : W32 × Fl) :
    W32 × Fl :=
  accumulate isInt (es.map fun x => if zeroBits fb x.2 then none else
    some (A (base + x.1), x.2, decodeElem fa (A (base + x.1)), decodeElem fb x.2)) a

/-- A segment partial added to an output accumulator with one rounding (R169). -/
def addSeg (isInt : Bool) (a : W32 × Fl) (b : W32 × Fl) : W32 × Fl :=
  if isInt then
    let c := clampInt (-(2 ^ 31)) (2 ^ 31 - 1) (a.1.toInt + b.1.toInt)
    (BitVec.ofInt 32 c.1, (a.2.or b.2).or { sat := c.2 })
  else
    let r := toF32 ((f32 a.1).add (f32 b.1))
    (r.1, (a.2.or b.2).or { inv := !(f32 a.1).isNan && !(f32 b.1).isNan && (f32 r.1).isNan, ovf := r.2.ovf })

/-- The partial of extra segment j of a row (R168): sequential from zero. -/
def segPartial (isInt : Bool) (fa fb : Nat) (A : Nat → Nat) (base T j : Nat) (es : List (Nat × Nat)) : W32 × Fl :=
  runEntries isInt fa fb A base ((es.drop (j * T)).take T) (0, {})

/-- One phase of one output element (R156, R169). -/
def phaseElem (isInt : Bool) (fa fb : Nat) (A : Nat → Nat) (base T : Nat) (run : PhaseRun) (es : List (Nat × Nat))
    (a : W32 × Fl) : W32 × Fl :=
  if run.split && T < es.length then
    (extraSegs es.length T).foldl (fun x g => addSeg isInt x (segPartial isInt fa fb A base T g.1 es))
      (runEntries isInt fa fb A base (es.take T) a)
  else runEntries isInt fa fb A base es a

/-- Entries in increasing column (SP24 slots already are). -/
def STile.rowOf (t : STile) (n : Nat) : List (Nat × Nat) := t.entries n

/-- The elements of a sparse instruction after its first n phases.  An index past COLS of the last tile takes the element of A's
row it reaches, a bitmap bit past COLS none.  DESIGN CHOICE, log entry 110. -/
def State.smmaPart (s : State) (i : QInstr) (core n : Nat) : List ElemOut :=
  let w := i.word
  let isInt := pairInt (spFa w)
  let ts := (spTiles (spKb w) (s.spB i)).take n
  let A := s.spA i core
  let T := s.get fSplitT core
  let runs := ts.map fun t => phaseRun (iOp w) t (stepCycles (spFa w)) T
  let perm := (ts.head?.map (·.perm)).getD []
  (List.range (spM w)).flatMap fun m => (List.range 16).map fun n =>
    let row (k : Nat) : Nat := A.getD (m * spK w + k) 0
    let col := if spPerm w then perm.getD n 0 else n
    let init : W32 × Fl :=
      match spAccIn w with
      | 1 => ((s.accRd core (4 * (m / 16)) (m % 16) n).2, {})
      | 2 => match i.c with
        | .desc base f _ _ _ st1 _ =>
          let v := loadAcc f (ofBytes (s.spRds i.p (base + col * fmtBytes f + m * st1) (fmtBytes f)))
          (v, { nan := !isInt && (f32 v).isNan })
        | _ => (0, {})
      | _ => (0, {})
    let r := (ts.zip runs).zipIdx.foldl
      (fun a x => phaseElem isInt (spFa w) (spFb w) row (256 * x.2) T x.1.2 (x.1.1.rowOf n) a) init
    let wb := if spWb w then wbConv isInt (spCvt w) r.1 else (0, {})
    ⟨4 * (m / 16), m, n, r.1, r.2.or wb.2, wb.1⟩

/-- The completed elements of a sparse instruction. -/
def State.smmaElems (s : State) (i : QInstr) (core : Nat) : List ElemOut := s.smmaPart i core (spKb i.word)

/-- The partials left in accumulator 4 × bm + 1 of each PE of the first M rows by the last extra segment its lane ran in the
first k phases (R164). -/
def State.segRegs (s : State) (i : QInstr) (core M k : Nat) : List Upd :=
  let w := i.word
  let isInt := pairInt (spFa w)
  let ts := (spTiles (spKb w) (s.spB i)).take k
  let A := s.spA i core
  let T := s.get fSplitT core
  ts.zipIdx.flatMap fun x =>
    let run := phaseRun (iOp w) x.1 (stepCycles (spFa w)) T
    if !run.split then [] else
    run.extra.flatMap fun g => (List.range M).map fun m =>
      Upd.acc (accKey core (4 * (m / 16) + 1) (m % 16) g.2.2.1)
        (accPack isInt (segPartial isInt (spFa w) (spFb w) (fun k => A.getD (m * spK w + k) 0) (256 * x.2) T g.2.1
          (x.1.rowOf g.1)).1)

def fSpSteps : Fld := ⟨.core, 0x150, 0, 48⟩
def fSpStall : Fld := ⟨.core, 0x160, 0, 48⟩
def fSpIdle : Fld := ⟨.core, 0x158, 0, 48⟩
def fSpSplitSegs : Fld := ⟨.core, 0x168, 0, 32⟩
def fSpSplitCycles : Fld := ⟨.core, 0x168, 32, 32⟩
def fSpErrValid : Fld := ⟨.core, 0x170, 31, 1⟩

/-- The column of C an element goes to: its own, or what PERM says (R172). -/
def spCol (w : W128) (perm : List Nat) (x : ElemOut) : Nat := if spPerm w then perm.getD x.n 0 else x.n

/-- The columns of C a row writes: all sixteen of the instruction. -/
def spCols (w : W128) (perm : List Nat) : List Nat := if spPerm w then perm else List.range 16

/-- PERM of the tiles of an instruction: that of the first. -/
def State.spPermOf (s : State) (i : QInstr) : List Nat := ((spTiles 1 (s.spB i)).head?.map (·.perm)).getD []

/-- The elements of each row in the order in which a push takes them: by their column of C (R142, R172). -/
def spPushOrder (w : W128) (perm : List Nat) (l : List ElemOut) : List ElemOut :=
  if !spPerm w then l else
  (l.map (·.m)).dedup.flatMap fun m => (List.range 16).filterMap fun c => l.find? fun x => x.m = m && spCol w perm x = c

/-- A sparse instruction's write-back of elements. -/
def smmaBack (i : QInstr) (perm : List Nat) (l : List ElemOut) : Eff :=
  writeBackC i.p i.c (fmtBytes (spCvt i.word % 16)) (spCol i.word perm) (fun _ => spCols i.word perm)
    (match i.c with | .q _ _ => spPushOrder i.word perm l | _ => l)

/-- R225 for that write-back. -/
def smmaRmw (i : QInstr) (perm : List Nat) (l : List ElemOut) : Eff :=
  rmwC i.p i.e i.c (fmtBytes (spCvt i.word % 16)) (spCol i.word perm) (fun _ => spCols i.word perm) l

/-- The row of a block at which that write-back meets a bad word. -/
def State.smmaBadC (s : State) (i : QInstr) (perm : List Nat) (l : List ElemOut) : Option Nat :=
  s.badC i.p i.c (fmtBytes (spCvt i.word % 16)) (spCol i.word perm) (fun _ => spCols i.word perm) l

/-- The lines of the tiles of a B descriptor that a sparse instruction reads: (first byte of the header, payload lines), the
payload held inside the descriptor's extent. -/
def State.tileSpans (s : State) (i : QInstr) : List (Nat × Nat) :=
  match i.b with
  | .desc base _ n0 _ _ _ _ =>
    ((spTiles (spKb i.word) (s.spB i)).foldl (fun (a : Nat × List (Nat × Nat)) t =>
      (a.1 + 64 + 64 * t.lines, a.2 ++ [(a.1, min t.lines ((base + 64 * n0 - (a.1 + 64)) / 64))])) (base, [])).2
  | _ => []

/-- The tiles of B that a sparse instruction has: a descriptor's all, of a queue end's those it has popped (R164). -/
def QInstr.tilesAtHand (i : QInstr) : Nat :=
  match i.b, i.a with
  | .q _ _, .q _ _ => i.tk - 1
  | .q _ _, _ => i.tk
  | _, _ => spKb i.word

/-- The error on the tile of phase k: a bad word in its header, a header Table 06-7 refuses, a bad word in its payload, a
payload it refuses.  DEDUCED, log entry 112. -/
def State.phaseStop (s : State) (i : QInstr) (core : Nat) (ts : List STile) (k : Nat) : Option MStop :=
  let sp := (s.tileSpans i)[k]?
  let bad (a n : Nat) : Bool := s.ecc ≠ [] && s.badIn i.p (span a n)
  match ts[k]? with
  | none => none
  | some t =>
    let te (most : Nat) : Option MStop := match s.tileErr i core k t ts.head? with
      | some (c, r) => if c ≤ most then some { code := eARG, blk := 0, tile := some (c, k, r) } else none
      | none => none
    let ue : MStop := { code := eECC_UE, blk := 0 }
    if sp.any (fun x => bad x.1 64) then some ue
    else (te 4).or (if sp.any (fun x => bad (x.1 + 64) (64 * x.2)) then some ue else te 9)

/-- The execution error a sparse instruction meets first: a bad word in A, which the transposing buffer loads whole; A_KEEP
without its A; then, block by block, a tag that differs, a bad word in the load of C, in the first block the tiles phase by
phase, a bad word at a partial write. -/
def State.smmaStop (s : State) (i : QInstr) (core : Nat) (l : List ElemOut) : Option MStop :=
  let w := i.word
  let perm := s.spPermOf i
  let ts := spTiles (spKb w) (s.spB i)
  if s.opdBad i.p i.a then some { code := eECC_UE, blk := 0, load := true }
  else if spKeep w && (s.tbHeld core w).isNone then some { code := eARG, blk := 0, tile := some (10, 0, 0) }
  else firstStop l fun b x =>
    if spAccIn w = 1 && x.any fun y => (s.accRd core y.a (y.m % 16) (y.n % 16)).1 ≠ pairInt (spFa w) then
      some { code := eARG, blk := b }
    else if spAccIn w = 2 && s.loadBad i.p i.c (spCol w perm) x then some { code := eECC_UE, blk := b }
    else (if b = 0 then (List.range i.tilesAtHand).findSome? (s.phaseStop i core ts) else none).or
      ((if spWb w then s.smmaBadC i perm x else none).map fun r => { code := eECC_UE, blk := b, row := some r })

/-- SP_ERR as recorded at an error on tile data (Table 06-15). -/
def spErrRecord (i : QInstr) (core : Nat) (e : Nat × Nat × Nat) : Eff :=
  whenE (fun s => !s.on fSpErrValid core) (setReg .core core 0x170 (BitVec.ofNat 64 (e.1 % 16 + e.2.1 % 4 * 2 ^ 4
    + e.2.2 % 16 * 2 ^ 6 + 2 ^ 31 + i.disp % 2 ^ 32 * 2 ^ 32)))

/-- R223: the scratchpad lines whose words a sparse instruction reads: A's, the elements of C that it loads, the tiles of a B
descriptor. -/
def smmaReads (i : QInstr) (core : Nat) (l : List ElemOut) : Eff := fun s =>
  let w := i.word
  if s.ecc = [] then [] else
  let perm := s.spPermOf i
  let sp := s.tileSpans i
  eccRead i.p (core % 4) (fun ln => i.a.touches ln ||
    (spAccIn w = 2 && match i.c with
      | .desc base f _ _ _ st1 _ => l.any fun x =>
          (base + x.m * st1 + spCol w perm x * fmtBytes f) / 64 ≤ ln &&
          ln ≤ (base + x.m * st1 + spCol w perm x * fmtBytes f + fmtBytes f - 1) / 64
      | _ => false) ||
    sp.any fun x => x.1 / 64 ≤ ln && ln ≤ x.1 / 64 + x.2) s

/-- How the phases of the first k tiles run. -/
def State.spRuns (s : State) (i : QInstr) (core k : Nat) : List PhaseRun :=
  ((spTiles (spKb i.word) (s.spB i)).take k).map fun t => phaseRun (iOp i.word) t (stepCycles (spFa i.word)) (s.get fSplitT core)

/-- The non-zero entries of the first k tiles. -/
def State.spNonzero (s : State) (i : QInstr) (k : Nat) : Nat :=
  (((spTiles (spKb i.word) (s.spB i)).take k).map fun t => ((List.range 16).map fun n =>
    ((t.rowOf n).filter fun x => !zeroBits (spFb i.word) x.2).length).sum).sum

/-- Statistics of k phases of `nb` output blocks with `rows` rows; SP_STALL gains free cycles where a coil phase drew from the
lane queues (R167). -/
def spStats (i : QInstr) (core k nb rows : Nat) : Eff := fun s =>
  let runs := s.spRuns i core k
  let ts := (spTiles (spKb i.word) (s.spB i)).take k
  let sum (f : PhaseRun → Nat) : Nat := nb * (runs.map f).sum
  doAll [matStats core (sum (·.cycles)) (rows * s.spNonzero i k),
    whenE (fun t => t.on fCoreStat core) (doAll [addSat fSpSteps core (sum (·.steps)), addSat fSpIdle core (sum (·.idle)),
      addSat fSpSplitSegs core (sum (·.extra.length)), addSat fSpSplitCycles core (sum (·.extra.length)),
      if iOp i.word = 0x29 && 0 < nb && ts.any (fun t => t.form = 2 || t.form = 3) then addFree fSpStall core else skip])] s

/-- A sparse instruction's work. -/
def smmaEff (i : QInstr) (core : Nat) : Eff := fun s =>
  let w := i.word
  let l := s.smmaElems i core
  let perm := s.spPermOf i
  let A := s.spA i core
  doAll [smmaReads i core l, fun _ => s.segRegs i core (spM w) (spKb w),
    writeAccs core (pairInt (spFa w)) l,
    whenE (fun _ => spWb w) (doAll [smmaRmw i perm l, smmaBack i perm l]),
    countExc core i l,
    spStats i core (spKb w) (cdiv (spM w) 16) (spM w),
    tbSet core i.tb 3,
    modTl (fun t => { t with tbs :=
      ⟨core, i.tb, spM w, spK w, spFa w, (if spTra w then 1 else 0), A⟩ :: (t.tbs.filter fun x => x.core ≠ core) }),
    markWorked i.p i.e] s

/-- R165: what a sparse instruction that ends at the tile of phase k has done: the phases before it of its first output
block, added into the accumulators; no element is complete. -/
def smmaUpTo (i : QInstr) (core k : Nat) : Eff := fun s =>
  let w := i.word
  if k = 0 then [] else
  doAll [fun _ => s.segRegs i core (min 16 (spM w)) k,
    writeAccs core (pairInt (spFa w)) ((s.smmaPart i core k).filter fun x => x.m < 16),
    spStats i core k 1 (min 16 (spM w))] s

/-- A sparse instruction at the head of a core's queue runs; where it meets an error, ENGINE_EXEC_ERROR ends it. -/
def effSmma (op t c : Nat) : Eff := fun s =>
  match s.coreHead (s.phys t) c op with
  | some i => if (s.smmaStop i (4 * i.p + c) (s.smmaElems i (4 * i.p + c))).isSome then [] else smmaEff i (4 * i.p + c) s
  | none => []

def execSmma24 (t c : Nat) (s : State) : Host.Outcome State Fault Refusal := .next ((effSmma 0x28 t c).run s)

def execSmmau (t c : Nat) (s : State) : Host.Outcome State Fault Refusal := .next ((effSmma 0x29 t c).run s)

def execSmmab (t c : Nat) (s : State) : Host.Outcome State Fault Refusal := .next ((effSmma 0x2A t c).run s)

/-! ## The wedging stage (R175–R181) -/

def wMode (w : Nat) : Nat := w % 8
def wFmt (w : Nat) : Nat := w / 16 % 16
def wLen (w : Nat) : Nat := w / 256 % 65536 + 1

/-- R175: whether a WEDGE control word is legal for source bytes of n. -/
def wedgeOk (w n : Nat) : Bool :=
  wMode w ≤ 5 && w / 8 % 2 = 0 && w / 2 ^ 24 = 0 && wFmt w ≤ 6 &&
  (wMode w = 0 || n % (wLen w * fmtBytes (wFmt w)) = 0)

/-- A list of bytes filled up with zeros to whole lines. -/
def padLine (l : List Byte) : List Byte := l ++ List.replicate (cdiv l.length 64 * 64 - l.length) 0

/-- The header of a stored tile (Table 06-2). -/
def tileHeader (form fmt rows cols lines count cls tensor cap1 reason : Nat) (rowCnt perm : List Nat) : List Byte :=
  leBytes 1 form ++ leBytes 1 fmt ++ leBytes 1 (rows - 1) ++ leBytes 1 (cols - 1) ++ leBytes 2 lines ++ leBytes 2 count ++
  leBytes 1 (cls + 4 * tensor) ++ leBytes 1 cap1 ++ leBytes 1 reason ++ leBytes 5 0 ++
  leBytes 18 ((rowCnt.zipIdx.map fun x => x.1 * 2 ^ (9 * x.2)).sum) ++ (perm.flatMap fun q => leBytes 1 q) ++ leBytes 14 0

/-- The payload of a form from the stored entries of each row (Table 06-3). -/
def tilePayload (form rows cols cap e : Nat) (rowsE : List (List (Nat × Nat))) : List Byte :=
  match form with
  | 0 => padLine (rowsE.flatMap fun r => r.flatMap fun x => leBytes e x.2)
  | 1 =>
    padLine (rowsE.flatMap fun r => r.flatMap fun x => leBytes e x.2) ++
    padLine (leBytes (cdiv (rows * cols) 8) ((rowsE.zipIdx.map fun rn => ((List.range (cols / 4)).map fun g =>
        (((rn.1.getD (2 * g) (0, 0)).1 % 4) + 4 * ((rn.1.getD (2 * g + 1) (0, 0)).1 % 4))
          * 16 ^ (rn.2 * (cols / 4) + g)).sum).sum))
  | 2 =>
    padLine (rowsE.flatMap fun r => leBytes 32 ((r.map fun x => 2 ^ x.1).sum)) ++
    padLine (rowsE.flatMap fun r => r.flatMap fun x => leBytes e x.2)
  | 3 =>
    padLine (rowsE.flatMap fun r => r.flatMap fun x => leBytes e x.2) ++
    padLine (rowsE.flatMap fun r => r.flatMap fun x => leBytes 1 x.1)
  | _ =>
    let _ := rows
    padLine ((List.range cap).flatMap fun st => (List.range 16).flatMap fun n =>
      leBytes e (((rowsE.getD n []).getD st (0, 0)).2)) ++
    padLine ((List.range cap).flatMap fun st => (List.range 16).flatMap fun n =>
      leBytes 1 (((rowsE.getD n []).getD st (0, 0)).1))

/-- The rank of an element's magnitude for SP24_MAG (R179): whether a ranks above b. -/
def magAbove (a b : Num) : Bool :=
  let abs : Num → Num := fun x => match x with | .fin _ m e => .fin false m e | .inf _ => .inf false | .nan => .nan
  if a.isNan then !b.isNan else if b.isNan then false else (abs b).lt (abs a)

/-- The two columns of a group of four that SP24_MAG keeps: largest magnitudes, the lower position at a tie. -/
def keepTwo (mags : List Num) : List Nat :=
  (List.range mags.length).filter fun i =>
    ((List.range mags.length).filter fun j =>
      magAbove (mags.getD j .nan) (mags.getD i .nan) ||
      (j < i && !magAbove (mags.getD i .nan) (mags.getD j .nan) && !magAbove (mags.getD j .nan) (mags.getD i .nan))).length < 2

/-- The two stored positions of a group whose non-zero columns are given: the lowest unused positions fill up (R160). -/
def slots24 (nz : List Nat) : List Nat :=
  let fill := ((List.range 4).filter fun k => !nz.contains k).take (2 - min 2 nz.length)
  (List.range 4).filter fun k => nz.contains k || fill.contains k

/-- One tile's choice and its bytes: (bytes, REASON, dropped); with SP24_MAG the tile is pruned before its form is chosen
(R177, R179). -/
def wedgeTile (d24 : Bool) (mode fmt rows cols : Nat) (el : Nat → Nat → Nat) (mag : Nat → Nat → Num) :
    List Byte × Nat × Nat :=
  let e := fmtBytes fmt
  let isz (n k : Nat) : Bool := zeroBits fmt (el n k)
  let nzRow (n : Nat) : List Nat := (List.range cols).filter fun k => !isz n k
  let nzs := ((List.range rows).map fun n => (nzRow n).length).sum
  let is24 := cols % 4 = 0 && (List.range rows).all fun n => (List.range (cols / 4)).all fun g =>
    ((List.range 4).filter fun j => !isz n (4 * g + j)).length ≤ 2
  let pos24 (n : Nat) : List Nat := (List.range (cols / 4)).flatMap fun g =>
    (if mode = 3 then slots24 ((keepTwo ((List.range 4).map fun j => mag n (4 * g + j))).filter fun j => !isz n (4 * g + j))
     else slots24 ((List.range 4).filter fun j => !isz n (4 * g + j))).map fun j => 4 * g + j
  let prune := decide (mode = 3 ∧ cols % 4 = 0)
  let rowsAll := (List.range rows).map fun n => (List.range cols).map fun k =>
    (k, if prune && !isz n k && !(pos24 n).contains k then 0 else el n k)
  let dropped := if prune then
      ((List.range rows).map fun n => ((nzRow n).filter fun k => !(pos24 n).contains k).length).sum else 0
  let pick : Nat × Nat :=
    if mode = 1 then (0, 0)
    else if mode = 2 ∨ mode = 3 then (if cols % 4 ≠ 0 then (0, 4) else if mode = 2 ∧ !is24 then (0, 2) else (1, 0))
    else if d24 then (0, 3) else if nzs ≤ 32 * rows then (3, 0) else (2, 0)
  let cnt (form : Nat) : Nat := match form with | 0 => rows * cols | 1 => rows * (cols / 2) | _ => nzs
  let pick2 := if pick.1 ≠ 0 ∧ formLines 0 rows cols 0 0 e ≤ formLines pick.1 rows cols (cnt pick.1) 0 e then (0, 1) else pick
  let rowsE := match pick2.1 with
    | 0 => rowsAll
    | 1 => (List.range rows).map fun n => (pos24 n).map fun k => (k, el n k)
    | _ => (List.range rows).map fun n => (nzRow n).map fun k => (k, el n k)
  let rc := (List.range 16).map fun n => (rowsE.getD n []).length
  (tileHeader pick2.1 fmt rows cols (formLines pick2.1 rows cols (cnt pick2.1) 0 e) (cnt pick2.1) 0 0 0 pick2.2 rc
      (List.replicate 16 0) ++ tilePayload pick2.1 rows cols 0 e rowsE, pick2.2, dropped)

/-- What the stage has stored: its bytes; for each tile the bytes stored with it, whether it fell back to DENSE, the non-zeros it
dropped; and the error that ended it. -/
structure Wedged where
  bytes : List Byte := []
  tiles : List (Nat × Nat × Nat) := []
  err : Option Nat := none
  deriving DecidableEq, Repr

/-- A tile stored: its bytes, 1 for a fallback, its dropped elements. -/
def Wedged.add (w : Wedged) (b : List Byte) (fallback dropped : Nat) : Wedged :=
  let all := w.bytes ++ b
  { w with bytes := all, tiles := w.tiles ++ [(all.length, fallback, dropped)] }

/-- The bytes of a payload that give the stored positions: where they begin, and their number (Table 06-3). -/
def formPositions (form rows cols count cap e : Nat) : Nat × Nat :=
  match form with
  | 0 => (0, 0)
  | 1 => (cdiv (rows * cols * e) 128 * 64, cdiv (rows * cols) 512 * 64)
  | 2 => (0, cdiv rows 2 * 64)
  | 3 => (cdiv (count * e) 64 * 64, cdiv count 64 * 64)
  | _ => (cdiv (16 * cap * e) 64 * 64, cdiv cap 4 * 64)

/-- Where a tile's header puts the stored positions. -/
def STile.positions (h : STile) : Nat × Nat := formPositions h.form h.rows h.cols h.count h.cap (fmtBytes h.fmt)

/-- Whether the header of an old tile fits the source tile (R178). -/
def STile.keeps (h : STile) (fmt rows cols : Nat) : Bool := h.rows = rows && h.cols = cols && h.fmt = fmt && h.form < 5

/-- R178: one tile re-encoded into the tile that stands at the destination: its header is read first, then its stored
positions; `miss` is the code of a read that fails. -/
def keepTile (d24 : Bool) (fmt rows cols : Nat) (el : Nat → Nat → Nat) (old : Nat → Nat → Option (List Byte)) (miss at' : Nat)
    (w : Wedged) : Wedged :=
  match old at' 64 with
  | none => { w with err := some miss }
  | some hd =>
    let h := parseHead hd
    if !h.keeps fmt rows cols then { w with err := some eARG }
    else if d24 ∧ 2 ≤ h.form then { w with err := some eABSENT }
    else match old (at' + 64 + h.positions.1) h.positions.2 with
    | none => { w with err := some miss }
    | some pos =>
      let t := { h with payload := List.replicate h.positions.1 0 ++ pos }
      let keep (n : Nat) : List (Nat × Nat) := (t.entries n).map fun x => (x.1, el n x.1)
      let rowsE := (List.range rows).map keep
      let lost := ((List.range rows).map fun n =>
        ((List.range cols).filter fun k => !zeroBits fmt (el n k) && !((keep n).any fun x => x.1 = k)).length).sum
      w.add (hd ++ tilePayload h.form rows cols h.cap (fmtBytes fmt) rowsE) (if h.form = 0 ∧ byteN hd 10 % 8 ≠ 0 then 1 else 0) lost

/-- A tile of a source of rows of `len` elements (R176): its first row and column, its rows and columns. -/
structure SrcTile where
  r0 : Nat
  c0 : Nat
  rows : Nat
  cols : Nat
  deriving DecidableEq, Repr

/-- The tiles of a source of `n` elements in rows of `len`, in order. -/
def srcTiles (len n : Nat) : List SrcTile :=
  let rows := n / len
  (List.range (cdiv rows 16)).flatMap fun g => (List.range (cdiv len 256)).map fun b =>
    ⟨16 * g, 256 * b, min 16 (rows - 16 * g), min 256 (len - 256 * b)⟩

/-- The number of the source's elements up to the last of a tile. -/
def SrcTile.need (t : SrcTile) (len : Nat) : Nat := (t.r0 + t.rows - 1) * len + t.c0 + t.cols

/-- R176–R179: a source of `n` elements wedged, of which the first `avail` are at hand: `el` gives its converted elements, `mag`
its values before conversion, `old` the bytes that stand at the destination, `mode` the mode of the tile that begins at a byte. -/
def wedgeAs (d24 : Bool) (mode : Nat → Nat) (word n avail : Nat) (el : Nat → Nat) (mag : Nat → Num) (old : Nat → Nat → Option (List Byte))
    (miss : Nat) : Wedged :=
  let len := wLen word
  let fmt := wFmt word
  ((srcTiles len n).filter fun t => t.need len ≤ avail).foldl (fun w t =>
    if w.err.isSome then w else
    let at2 (i k : Nat) : Nat := (t.r0 + i) * len + t.c0 + k
    if mode w.bytes.length = 5 then keepTile d24 fmt t.rows t.cols (fun i k => el (at2 i k)) old miss w.bytes.length w
    else
      let x := wedgeTile d24 (mode w.bytes.length) fmt t.rows t.cols (fun i k => el (at2 i k)) (fun i k => mag (at2 i k))
      w.add x.1 (if x.2.1 = 0 then 0 else 1) x.2.2) {}

/-- R176: the worst case a destination must hold: every tile DENSE. -/
def wedgeWorst (word n : Nat) : Nat :=
  ((srcTiles (wLen word) n).map fun t => 64 + 64 * cdiv (t.rows * t.cols * fmtBytes (wFmt word)) 64).sum

/-- R181: the two wedging counters of a page, for the tiles stored with bytes [m, n). -/
def countWedge (blk : Blk) (off inst : Nat) (tiles : List (Nat × Nat × Nat)) (m n : Nat) : Eff :=
  let ts := tiles.filter fun x => m < x.1 && x.1 ≤ n
  doAll [addSat ⟨blk, off, 0, 32⟩ inst ts.length, addSat ⟨blk, off, 32, 16⟩ inst (ts.map fun x => x.2.1).sum,
    addSat ⟨blk, off + 8, 0, 32⟩ inst (ts.map fun x => x.2.2).sum, addSat ⟨blk, off + 8, 32, 32⟩ inst (n / 64 - m / 64)]

end Sys2Proof.Machine
end

