-- ==== Sys2Proof/Machine/Vector.lean ====
section
/-! DEFINITION. The vector engine (chapter 07): dispatch checks, the chain of stages, reductions and scans, row state,
random generators, and the meanings of VOP, VSETVL and VSEED. -/

namespace Sys2Proof.Machine

/-! ## The VEC page (Tables 07-14, 07-15) -/

def fVecStat : Fld := ⟨.vec, 0x010, 0, 1⟩
def fVecFirstValid : Fld := ⟨.vec, 0x108, 31, 1⟩
def fVecActive : Fld := ⟨.vec, 0x118, 0, 48⟩
def fVecWait : Fld := ⟨.vec, 0x120, 0, 48⟩
def fVecBeats : Fld := ⟨.vec, 0x128, 0, 48⟩
def fVecDone : Fld := ⟨.vec, 0x130, 24, 1⟩
def fVl : Fld := ⟨.vec, 0x138, 0, 13⟩
def fRngMode : Fld := ⟨.vec, 0x140, 0, 1⟩
def fRngStream : Fld := ⟨.vec, 0x140, 8, 8⟩
def fRngSeed : Fld := ⟨.vec, 0x148, 0, 64⟩
def fRngDraws : Fld := ⟨.vec, 0x168, 0, 48⟩
def fKilnStep : Fld := ⟨.kiln, 0x120, 0, 32⟩

/-! ## Chain descriptor and immediates (Tables 07-2 to 07-4) -/

def vSlot (w : W128) : Nat := sb w 80 11
def vImmEn (w : W128) : Bool := sb w 91 1 = 1
def vRowBase (w : W128) : Nat := sb w 92 8
def cLw (c : W128) : Bool := sb c 8 1 = 1
def cBSrc (c : W128) : Nat := sb c 9 2
/-- The middle-stage slots in order. -/
def cSlots (c : W128) : List Nat := [sb c 11 3, sb c 14 3, sb c 17 3, sb c 20 3]
def cMaP (c : W128) : Nat := sb c 23 3
def cMaQ (c : W128) : Nat := sb c 26 3
def cMaS (c : W128) : Nat := sb c 29 3
def cNegP (c : W128) : Bool := sb c 32 1 = 1
def cNegS (c : W128) : Bool := sb c 33 1 = 1
def cTrFn (c : W128) : Nat := sb c 34 2
def cCsMode (c : W128) : Nat := sb c 36 2
def cCsQ (c : W128) : Nat := sb c 38 3
def cCsX (c : W128) : Nat := sb c 41 3
def cCsY (c : W128) : Nat := sb c 44 3
def cRdMode (c : W128) : Nat := sb c 47 2
def cKeep (c : W128) : Nat := sb c 49 17
def cRed (c : W128) : Nat := sb c 66 4
def cRAcc (c : W128) : Bool := sb c 70 1 = 1
def cExcl (c : W128) : Bool := sb c 71 1 = 1
def cStoreSel (c : W128) : Bool := sb c 72 1 = 1
def cRInit (c : W128) : Bool := sb c 73 1 = 1
def cRBase (c : W128) : Nat := sb c 74 21
def cCvt (c : W128) : Nat := sb c 95 8
def cRTgt (c : W128) : Nat := sb c 103 2
def cRScl (c : W128) : Nat := sb c 105 2
/-- Elements per beat (R186). -/
def cW (c : W128) : Nat := if cLw c then 256 else 128
/-- The lane format (R186). -/
def cFmt (c : W128) : FFmt := if cLw c then bf16 else fp32
/-- The format of elements that come through an input queue end: the lane format (DEDUCED, log entry 20). -/
def cQFmt (c : W128) : Nat := if cLw c then 1 else 0
/-- Bytes of a row result (Table 07-7). -/
def cResBytes (c : W128) : Nat := if cRed c = 4 ∨ cRed c = 5 then 8 else 4
/-- Whether results go to RBASE. -/
def cToBase (c : W128) : Bool := cRed c ≠ 0 && cRTgt c = 0
/-- The selectors a chain uses (R194). -/
def cSels (c : W128) : List Nat :=
  (if (cSlots c).contains 1 then [cMaP c, cMaQ c, cMaS c] else []) ++
  (if (cSlots c).contains 3 then cCsQ c :: (if 2 ≤ cCsMode c then [cCsX c, cCsY c] else []) else [])
/-- Whether a VOP uses the row state (R207). -/
def cUsesRow (c : W128) : Bool :=
  (cSels c).contains 5 || (cSels c).contains 6 || cRTgt c ≠ 0 || cRScl c = 2 || cRed c = 8 || cRed c = 9
def immOf (v : W128) (n : Nat) : W32 := BitVec.ofNat 32 (sb v (32 + 32 * n) 32)

/-! ## Dispatch checks (R189, R192, R212) -/

/-- The shape a descriptor operand gives: rows. -/
def Opd.rows (o : Opd) : Nat :=
  match o with
  | .desc _ _ _ n1 n2 _ _ => n1 * n2
  | _ => 0

/-- The format of a descriptor operand. -/
def Opd.fmt (o : Opd) : Nat :=
  match o with
  | .desc _ f _ _ _ _ _ => f
  | _ => 0

/-- ROWS: the first descriptor among OPD_A and OPD_C gives it (R188). -/
def vopRows (a c : Opd) : Nat := if a.rows ≠ 0 then a.rows else c.rows

/-- First byte of row r of a descriptor operand, i1 varying fastest (R188). -/
def Opd.rowAt (o : Opd) (r : Nat) : Nat :=
  match o with
  | .desc base _ _ n1 _ st1 st2 => base + r % n1 * st1 + r / n1 * st2
  | _ => 0

/-- The byte ranges of the rows of a descriptor operand: first byte, last + 1. -/
def Opd.ranges (o : Opd) : List (Nat × Nat) :=
  match o with
  | .desc _ fmt n0 _ _ _ _ => (List.range o.rows).map fun r => (o.rowAt r, o.rowAt r + n0 * fmtBytes fmt)
  | _ => []

/-- Whether two sets of byte ranges share a byte. -/
def rangesMeet (a b : List (Nat × Nat)) : Bool := a.any fun x => b.any fun y => x.1 < y.2 && y.1 < x.2

/-- R192: OPD_C may cover OPD_A in place: same BASE, sizes, strides, advance fields and element width. -/
def inPlace (da dc : W128) : Bool :=
  sb da 8 21 = sb dc 8 21 && sb da 33 93 = sb dc 33 93 && fmtBytes (sb da 29 4) = fmtBytes (sb dc 29 4)

/-- Elements of a row of a descriptor operand and its two outer sizes. -/
def Opd.sizes (o : Opd) : Nat × Nat × Nat :=
  match o with
  | .desc _ _ n0 n1 n2 _ _ => (n0, n1, n2)
  | _ => (0, 0, 0)

/-- What is wrong with a VOP at dispatch (Tables 04-9, 07-9); CVT.RND = 3 is REASON 3.  DESIGN CHOICE, log entry 104. -/
def State.vopReasons (s : State) (p bank : Nat) (w : W128) : List Nat :=
  let ch := s.slot p bank (vSlot w)
  let im := s.slot p bank (vSlot w + 1)
  let vl := s.get fVl p
  let a := s.resolve p bank (iA w)
  let b := s.resolve p bank (iB w)
  let c := s.resolve p bank (iC w)
  let rows := vopRows a c
  let shape := if a.rows ≠ 0 then a.sizes.2 else c.sizes.2
  let ms := (cSlots ch).filter (· ≠ 0)
  let sels := cSels ch
  let rb := [(cRBase ch, cRBase ch + rows * cResBytes ch)]
  let isDesc (o : Nat) : Bool := o / 2 ^ 14 = 1
  let qlines (o fmt : Nat) : List Nat :=
    if o / 2 ^ 14 = 2 then (if vl = 0 ∨ opdLines o ≠ cdiv (rows * vl * fmtBytes fmt) 64 then [9] else []) else []
  (if sb w 100 28 ≠ 0 then [3] else []) ++
  s.opdReasons p bank (iA w) false (· ≤ 6) ++ s.opdReasons p bank (iB w) false (· ≤ 6) ++
  s.opdReasons p bank (iC w) true (· ≤ 6) ++
  (if sb ch 0 8 ≠ 0xFD ∨ sb ch 126 2 ≠ 1 then [4] else []) ++
  (if vImmEn w ∧ (vSlot w = 2047 ∨ sb im 0 8 ≠ 0xFD ∨ sb im 126 2 ≠ 1) then [4] else []) ++
  (if vImmEn w ∧ (sb im 8 24 ≠ 0 ∨ sb im 96 30 ≠ 0) then [3] else []) ++
  (if sb ch 107 19 ≠ 0 ∨ ms.any (4 < ·) ∨ cRdMode ch = 3 ∨ 10 ≤ cRed ch ∨ cRTgt ch = 3 ∨ cRScl ch = 3 ∨
      cCvt ch / 128 = 1 ∨ cCvt ch / 16 % 4 = 3 then [3] else []) ++
  (if cToBase ch ∧ spSize < cRBase ch + rows * cResBytes ch then [5] else []) ++
  (if !ms.Nodup ∨ 7 ≤ cCvt ch % 16 ∨
      (isDesc (iC w) ∧ c.fmt ≠ cCvt ch % 16) ∨
      (cCvt ch / 16 % 4 = 2 ∧ (cCvt ch % 16 = 0 ∨ 5 ≤ cCvt ch % 16)) ∨
      (!vImmEn w ∧ (sels.contains 3 ∨ sels.contains 4 ∨ cRScl ch ≠ 0)) ∨
      (sels.contains 2 ∧ cBSrc ch = 0) ∨ (cRed ch = 7 ∧ cBSrc ch ≠ 1) ∨
      (cStoreSel ch ∧ cRed ch ≠ 6 ∧ cRed ch ≠ 7) ∨
      ((cRed ch = 0 ∨ 4 ≤ cRed ch) ∧ (cRTgt ch ≠ 0 ∨ cRScl ch ≠ 0)) ∨
      (!isDesc (iA w) ∧ !isDesc (iC w)) ∨
      (cBSrc ch = 0 ∧ iB w / 2 ^ 14 ≠ 0) ∨ (cBSrc ch ≠ 0 ∧ iB w / 2 ^ 14 = 0) ∨
      (2 ≤ cBSrc ch ∧ iB w / 2 ^ 14 = 2) ∨
      (cToBase ch ∧ cRBase ch % cResBytes ch ≠ 0) ∨
      (isDesc (iC w) ∧ (rangesMeet c.ranges b.ranges ∨ (cToBase ch ∧ rangesMeet c.ranges rb) ∨
        (rangesMeet c.ranges a.ranges ∧
          !inPlace (s.slot p bank (iA w % 2048)) (s.slot p bank (iC w % 2048)))))
    then [8] else []) ++
  (if (isDesc (iA w) ∧ a.sizes.1 < vl) ∨ (isDesc (iC w) ∧ c.sizes.1 < vl) ∨
      (isDesc (iB w) ∧ ((cBSrc ch = 1 ∧ (b.sizes.1 < vl ∨ b.sizes.2 ≠ shape)) ∨
        (cBSrc ch = 2 ∧ (b.sizes.1 < vl ∨ b.sizes.2 ≠ (1, 1))) ∨
        (cBSrc ch = 3 ∧ b.sizes ≠ (rows, 1, 1)))) ∨
      (cUsesRow ch ∧ 256 < vRowBase w + rows) ∨ 65536 < cKeep ch then [9] else []) ++
  qlines (iA w) (cQFmt ch) ++ qlines (iB w) (cQFmt ch) ++ qlines (iC w) (cCvt ch % 16)

/-- What is wrong with a VSETVL at dispatch (R189). DEDUCED, log entry 60. -/
def vsetvlReasons (w : W128) : List Nat :=
  (if sb w 110 18 ≠ 0 then [3] else []) ++
  (if iTee w then [6] else []) ++
  (if iA w / 2 ^ 14 ≠ 0 ∨ iB w / 2 ^ 14 ≠ 0 ∨ iC w / 2 ^ 14 ≠ 0 then [8] else []) ++
  (if 4096 < sb w 80 13 ∨ iSig w ≠ 0x3F ∨
      (if sb w 109 1 = 1 then sb w 93 13 = 0 ∨ 4096 < sb w 93 13 else sb w 93 13 ≠ 0) then [9] else [])

/-- What is wrong with a VSEED at dispatch (R189). -/
def vseedReasons (w : W128) : List Nat :=
  (if sb w 88 40 ≠ 0 then [3] else []) ++ (if iTee w then [6] else []) ++
  (if iA w / 2 ^ 14 ≠ 0 ∨ iB w / 2 ^ 14 ≠ 0 ∨ iC w / 2 ^ 14 ≠ 0 then [8] else [])

/-! ## Random generators (R200, R201) -/

/-- One bit step of the generator. -/
def rngStep (s : Nat) : Nat :=
  (s * 2) % 2 ^ 96 + ((s >>> 95) ^^^ (s >>> 93) ^^^ (s >>> 48) ^^^ (s >>> 46)) % 2

/-- One draw: the new state; its low 32 bits are the value drawn. -/
def rngDraw (s : Nat) : Nat := Nat.repeat rngStep 32 s

/-- R201: the state of a lane after seeding and three draws. -/
def rngSeeded (seed step t stream l : Nat) : Nat :=
  let s := ((seed / 2 ^ 32 % 2 ^ 32) <<< 64) + (((seed % 2 ^ 32) ^^^ (step % 2 ^ 32)) <<< 32) + ((t % 2 ^ 16) <<< 16)
    + ((stream % 256) <<< 8) + l % 128
  rngDraw (rngDraw (rngDraw (if s = 0 then 1 else s)))

/-- The key of a lane's generator. -/
def rngKey (p l : Nat) : Nat := p * 128 + l

/-- A lane's generator state. -/
def State.rngRd (s : State) (p l : Nat) : BitVec 96 := fget (fun _ => 1) s.rng (rngKey p l)

/-- The generators of logical tile t seeded with a stream; RNG_CFG shows it. -/
def seedLanes (t p stream step : Nat) : Eff := fun s =>
  (List.range 128).map (fun l =>
    Upd.rng (rngKey p l) (BitVec.ofNat 96 (rngSeeded (s.get fRngSeed p) step t stream l))) ++
  setF fRngStream p stream s

/-! ## Row state (R207) -/

/-- A field of a row-state entry: 0 M, 1 F, 2 L. -/
def State.rowRd (s : State) (p entry f : Nat) : W32 := fget rowReset s.row ((p * 256 + entry) * 3 + f)

/-! ## Transcendental functions (R196) -/

/-- The unit in the last place of a value in FP32, as an exponent of 2. -/
def ulpExp (m : Nat) (e : Int) : Int := max ((Nat.log2 m : Int) + e - 23) (-149)

/-- Whether a value lies within a number of units of 2^u of a reference value. -/
def within (v ref : Num) (k : Nat) (u : Int) : Bool :=
  match v.add ref.neg with
  | .fin _ m e => m = 0 || !Num.lt (.fin false k u) (.fin false m e)
  | _ => false

/-- 2^(f / 2^64) for f < 2^64, at 2^−80, by products of repeated square roots of 2. -/
def expFrac (f : Nat) : Nat :=
  ((List.range 64).foldl (fun (x : Nat × Nat) i =>
    let r := isqrt (x.2 <<< 80) 90 0
    (if f / 2 ^ (63 - i) % 2 = 1 then x.1 * r / 2 ^ 80 else x.1, r)) (2 ^ 80, 2 ^ 81)).1

/-- log2 (m / 2^96) for 2^96 ≤ m < 2^97, at 2^−64, bit by bit by squaring. -/
def logFrac (m : Nat) : Nat :=
  ((List.range 64).foldl (fun (x : Nat × Nat) _ =>
    let q := x.2 * x.2 / 2 ^ 96
    if 2 ^ 97 ≤ q then (2 * x.1 + 1, q / 2) else (2 * x.1, q)) (0, m)).1

/-- A close reference value of a function at a finite value, for the error bounds of Table 07-6. -/
def trRef (fn : Nat) (n : Bool) (m : Nat) (e : Int) : Num :=
  match fn with
  | 0 =>
    let x : Int := scaleTo n (if e < -200 then m >>> (-e - 200).toNat else m) (max e (-200)) (-200)
    let k := x / (2 ^ 200 : Int)
    let f := ((x - k * 2 ^ 200) / 2 ^ 136).toNat
    .fin false (expFrac f) (k - 80)
  | 1 =>
    let l := Nat.log2 m
    let g := if l ≤ 96 then m <<< (96 - l) else m >>> (l - 96)
    Num.ofInt false (((l : Int) + e) * 2 ^ 64 + (logFrac g : Int)) (-64)
  | 2 => (Num.fin false 1 0).div (.fin n m e)
  | _ => (Num.fin false 1 0).div (Num.sqrt (.fin n m e))

/-- Whether a magnitude is a power of two, and its exponent. -/
def pow2Exp (m : Nat) (e : Int) : Option Int := if m = 2 ^ Nat.log2 m then some ((Nat.log2 m : Int) + e) else none

/-- Whether a finite value is an integer, and which. -/
def intOf (n : Bool) (m : Nat) (e : Int) : Option Int :=
  if 0 ≤ e then some (scaleTo n m e 0)
  else if m % 2 ^ (-e).toNat = 0 then some (if n then -((m / 2 ^ (-e).toNat : Nat) : Int) else ((m / 2 ^ (-e).toNat : Nat) : Int))
  else none

/-- The free FP32 result of a function within the bound of Table 07-6, which is held to subnormal results too (R81); else the
reference rounded (DESIGN CHOICE, log entry 5). -/
def trFree (fn : Nat) (x : W32) (n : Bool) (m : Nat) (e : Int) : Num :=
  let raw := f32 (Config.trFn fn x)
  let r := trRef fn n m e
  match r with
  | .fin rn rm re =>
    let mag : Num := .fin false rm re
    if !Num.lt mag (.fin false 1 128) then
      (match raw with | .inf i => .inf i | .fin a b c => .fin a b c | .nan => .inf rn)
    else
      let near := fn = 1 && !Num.lt (.fin false m e) (.fin false 1 (-1)) && !Num.lt (.fin false 2 0) (.fin false m e)
      let ok := (match raw with | .fin true _ _ => fn ≠ 0 | _ => true) &&
        if near then within raw r 1 (-22) else within raw r (if fn ≤ 1 then 2 else 1) (ulpExp rm re)
      if ok then raw else f32 (toF32 r).1
  | v => v

/-- Table 07-6: a function's FP32 result as a value, and whether it overflowed. -/
def trEval (fn : Nat) (x : W32) : Num × Bool :=
  match fn, f32 x with
  | _, .nan => (.nan, false)
  | 0, .inf n => (if n then .fin false 0 0 else .inf false, false)
  | 0, .fin n m e =>
    if m = 0 then (.fin false 1 0, false)
    else if !n && !Num.lt (.fin false m e) (.fin false 128 0) then (.inf false, true)
    else match intOf n m e with
      | some k => (if -149 ≤ k then .fin false 1 k else trFree 0 x n m e, false)
      | none => (trFree 0 x n m e, false)
  | 1, .inf n => (if n then .nan else .inf false, false)
  | 1, .fin n m e =>
    if m = 0 then (.inf true, false)
    else if n then (.nan, false)
    else match pow2Exp m e with
      | some k => (Num.ofInt false k 0, false)
      | none => (trFree 1 x n m e, false)
  | 2, .inf n => (.fin n 0 0, false)
  | 2, .fin n m e =>
    if m = 0 then (.inf n, false)
    else match pow2Exp m e with
      | some k => (if -k ≤ 127 then .fin n 1 (-k) else trFree 2 x n m e, false)
      | none => (trFree 2 x n m e, false)
  | _, .inf n => (if n then .nan else .fin false 0 0, false)
  | _, .fin n m e =>
    if m = 0 then (.inf n, false)
    else if n then (.nan, false)
    else match pow2Exp m e with
      | some k => (if k % 2 = 0 then .fin false 1 (-(k / 2)) else trFree 3 x n m e, false)
      | none => (trFree 3 x n m e, false)

/-! ## The chain (R193–R199) -/

/-- A value of an element: `own` says that a NaN arose inside the element, so that it is no NaN operand (R93). -/
structure TV where
  v : Num
  own : Bool := false
  deriving DecidableEq, Repr

/-- The result of an operation on operands: the value and its classes. -/
def tvOp (ops : List TV) (r : Num) (ovf : Bool) : TV × Fl :=
  let n := ops.any fun x => x.v.isNan && !x.own
  (⟨r, r.isNan && !n⟩, ⟨n, !n && r.isNan, ovf, false⟩)

/-- A value rounded to a format with RNE, as a value, and whether it overflowed. -/
def roundNum (f : FFmt) (v : Num) : Num × Bool :=
  match v with
  | .fin n m e => let p := f.round .rne false n m e; (f.decode p.1, p.2)
  | _ => (v, false)

/-- An operation rounded to a format. -/
def tvRound (f : FFmt) (ops : List TV) (r : Num) : TV × Fl :=
  let p := roundNum f r
  tvOp ops p.1 p.2

/-- The values an element's selectors name (Table 07-5). -/
structure VEnv where
  a : Num
  b : Num
  i0 : Num
  i1 : Num
  m : Num
  f : Num
  deriving DecidableEq, Repr

/-- A selected value. -/
def VEnv.sel (x : VEnv) (t : TV) (code : Nat) (const : Num) : TV :=
  match code with
  | 0 => t | 1 => ⟨x.a, false⟩ | 2 => ⟨x.b, false⟩ | 3 => ⟨x.i0, false⟩ | 4 => ⟨x.i1, false⟩ | 5 => ⟨x.m, false⟩
  | 6 => ⟨x.f, false⟩ | _ => ⟨const, false⟩

def numOne : Num := .fin false 1 0
def numZero : Num := .fin false 0 0

/-- The larger of two values, +0 above −0 (R197); both no NaN. -/
def numMax (a b : Num) : Num :=
  if a.lt b then b else if b.lt a then a else
  match a, b with
  | .fin true 0 _, _ => b
  | _, _ => a

/-- The smaller of two values, −0 below +0. -/
def numMin (a b : Num) : Num :=
  if a.lt b then a else if b.lt a then b else
  match a, b with
  | .fin true 0 _, _ => a
  | _, _ => b

/-- Maximum or minimum with NaN giving NaN (R197). -/
def numExt (isMax : Bool) (a b : Num) : Num :=
  if a.isNan || b.isNan then .nan else if isMax then numMax a b else numMin a b

/-- An element on its way through the chain: T, the classes so far, the first stage that raised one. -/
structure VElem where
  t : TV
  fl : Fl := {}
  stage : Option Nat := none
  deriving DecidableEq, Repr

/-- A stage's result taken into an element. -/
def VElem.take (x : VElem) (stage : Nat) (r : TV × Fl) : VElem :=
  ⟨r.1, x.fl.or r.2, if x.stage.isNone && r.2 ≠ {} then some stage else x.stage⟩

/-- One middle stage (R195–R198): r32 is the draw of the lane, r16 the element's half of it. -/
def vStage (c : W128) (x : VEnv) (r32 r16 : Nat) (el : VElem) (kind : Nat) : VElem :=
  let t := el.t
  match kind with
  | 1 =>
    let p := x.sel t (cMaP c) numOne
    let q := x.sel t (cMaQ c) numOne
    let pr := p.v.mul q.v
    let pr := if cNegP c then pr.neg else pr
    if cMaS c = 7 then el.take 1 (tvRound (cFmt c) [p, q] pr)
    else
      let a := x.sel t (cMaS c) numZero
      el.take 1 (tvRound (cFmt c) [p, q, a] (pr.add (if cNegS c then a.v.neg else a.v)))
  | 2 =>
    let r := trEval (cTrFn c) (toF32 t.v).1
    let q := roundNum (cFmt c) r.1
    el.take 2 (tvOp [t] q.1 (r.2 || q.2))
  | 3 =>
    let q := x.sel t (cCsQ c) numZero
    if cCsMode c < 2 then el.take 3 (tvOp [t, q] (numExt (cCsMode c = 0) t.v q.v) false)
    else
      let cmp := if cCsMode c = 2 then q.v.lt t.v else q.v.lt t.v || t.v.eq q.v
      let y := if cmp then x.sel t (cCsX c) numZero else x.sel t (cCsY c) numZero
      let n := [t, q, y].any fun z => z.v.isNan && !z.own
      el.take 3 (⟨y.v, y.own⟩, { nan := n })
  | 4 =>
    let keep := r16 < cKeep c
    { el with t :=
        match cRdMode c with
        | 0 => if keep then t else ⟨numZero, false⟩
        | 1 => if keep then ⟨numOne, false⟩ else ⟨numZero, false⟩
        | _ => if cLw c then ⟨.fin false (r16 / 256) (-8), false⟩ else ⟨.fin false (r32 / 256) (-24), false⟩ }
  | _ => el

/-- The convert/store stage (R199): bits and classes. -/
def vStore (cvt r16 : Nat) (t : TV) : Nat × Fl :=
  if t.v.isNan && t.own then
    (if 5 ≤ cvt % 16 then 0 else (ffmtOf (cvt % 16)).nanBits, { inv := true })
  else if cvt % 16 = 5 then let p := t.v.toInt 8 (cvtRnd cvt r16); (ofSInt 8 p.1, p.2)
  else if cvt % 16 = 6 then let p := t.v.toInt 32 (cvtRnd cvt r16); (ofSInt 32 p.1, p.2)
  else (ffmtOf (cvt % 16)).encode (cvtRnd cvt r16) (cvt / 64 % 2 = 1) t.v

/-! ## The reduction unit (R203–R208) -/

/-- FP32 addition of two reduction values. -/
def redAdd (a b : TV × Fl) : TV × Fl :=
  let r := tvRound fp32 [a.1, b.1] (a.1.v.add b.1.v)
  (r.1, (a.2.or b.2).or r.2)

/-- One level of the pairwise tree. -/
def treeLevel : List (TV × Fl) → List (TV × Fl)
  | a :: b :: l => redAdd a b :: treeLevel l
  | l => l

/-- R204: the pairwise tree of a beat, whose absent lanes lie at its end. -/
def treeSum : Nat → List (TV × Fl) → Option (TV × Fl)
  | _, [] => none
  | _, [a] => some a
  | 0, a :: _ => some a
  | n + 1, l => treeSum n (treeLevel l)

/-- R204: the sum of a row given as its beats. -/
def rowSum (beats : List (List (TV × Fl))) : Option (TV × Fl) :=
  beats.foldl (fun tot b => match tot, treeSum 10 b with
    | none, x => x
    | some t, some x => some (redAdd t x)
    | some t, none => some t) none

/-- The extremum of a row, its index, and its classes (R204). -/
def rowExt (isMax : Bool) (l : List Num) : Num × Nat × Fl :=
  match l with
  | [] => (numZero, 0, {})
  | a :: r =>
    let m := r.foldl (numExt isMax) a
    (m, l.findIdx (fun x => if m.isNan then x.isNan else decide (fp32.encode .rne false x = fp32.encode .rne false m)),
      { nan := m.isNan })

/-- One level of the prefix network over (value, own classes, segment flag) (R205): the classes of an output are those
of its own additions. -/
def scanLevel (d : Nat) (l : List (TV × Fl × Bool)) : List (TV × Fl × Bool) :=
  l.zipWith (fun y x => match x with
    | none => y
    | some z =>
      if y.2.2 then y else
        let r := tvRound fp32 [z.1, y.1] (z.1.v.add y.1.v)
        (r.1, y.2.1.or r.2, z.2.2)) (List.replicate d none ++ l.map some)

/-- R205: the inclusive outputs of a beat. -/
def beatScan (carry : TV) (l : List (TV × Bool)) : List (TV × Fl) :=
  let y := [1, 2, 4, 8, 16, 32, 64, 128].foldl (fun y d => scanLevel d y) (l.map fun x => (x.1, {}, x.2))
  y.map fun z =>
    if z.2.2 then (z.1, z.2.1) else
      let r := tvRound fp32 [carry, z.1] (carry.v.add z.1.v)
      (r.1, z.2.1.or r.2)

/-! ## One VOP -/

/-- An exception of an element of a VOP: classes, stage, row, element. -/
structure VExc where
  fl : Fl
  stage : Nat
  row : Nat
  col : Nat
  deriving DecidableEq, Repr

/-- What a VOP has done so far: lane states, draws, bytes stored at descriptor addresses, bytes for a queue end,
row-state writes (entry, field, value), row results (address, bytes), exceptions, beats; `bad` once a bad word ended
it (R211). -/
structure VAcc where
  lanes : List Nat
  draws : Nat := 0
  stores : List (Nat × List Byte) := []
  push : List Byte := []
  rowW : List (Nat × Nat × W32) := []
  results : List (Nat × List Byte) := []
  exc : List VExc := []
  beats : Nat := 0
  bad : Bool := false
  deriving DecidableEq, Repr

/-- What one beat leaves for the reduction: the tapped values with B's segment flags, scan outputs' last value. -/
structure VRow where
  taps : List (List TV) := []
  carry : TV := ⟨numZero, false⟩
  deriving DecidableEq, Repr

/-- The bits of element i0 of row r of an operand: a descriptor's, or a queue end's packed ones. -/
def State.vElem (s : State) (p : Nat) (o : Opd) (pop : List Byte) (fmt vl r i0 : Nat) : Nat :=
  match o with
  | .desc _ f _ _ _ _ _ => ofBytes (s.spRds p (o.rowAt r + i0 * fmtBytes f) (fmtBytes f))
  | .none => 0
  | _ => ofBytes ((pop.drop ((r * vl + i0) * fmtBytes fmt)).take (fmtBytes fmt))

/-- An element in the lane format (R193). -/
def laneVal (c : W128) (fmt bits : Nat) : Num :=
  if fmt = 6 && cLw c then (roundNum bf16 (roundNum fp32 (decodeElem 6 bits)).1).1
  else (roundNum (cFmt c) (decodeElem fmt bits)).1

/-- The format of an operand: its descriptor's, or that of queue-end data. -/
def opdFmt (c : W128) (o : Opd) : Nat :=
  match o with
  | .desc _ f _ _ _ _ _ => f
  | _ => cQFmt c

/-- The draws of a beat of n elements (R198–R200): the lanes after, and per element (32-bit RD draw, its half, half of
the CV draw). In FREE mode the draws are free values. -/
def beatDraws (free : Option Nat) (c : W128) (n : Nat) (rd cv : Bool) (lanes : List Nat) (base : Nat) :
    List Nat × List (Nat × Nat × Nat) × Nat :=
  let used := if cLw c then (n + 1) / 2 else n
  let ls := lanes.zipIdx.map fun x =>
    if used ≤ x.2 then (x.1, 0, 0) else
      match free with
      | some k => (x.1, (Config.freeDraw k (base + 2 * x.2)).toNat, (Config.freeDraw k (base + 2 * x.2 + 1)).toNat)
      | none =>
        let s1 := if rd then rngDraw x.1 else x.1
        let s2 := if cv then rngDraw s1 else s1
        (s2, s1 % 2 ^ 32, s2 % 2 ^ 32)
  let half (i r : Nat) : Nat := if cLw c && i % 2 = 1 then r / 2 ^ 16 else r % 2 ^ 16
  (ls.map (·.1),
   (List.range n).map fun i =>
     let l := ls.getD (if cLw c then i / 2 else i) (0, 0, 0)
     (l.2.1, half i l.2.1, half i l.2.2),
   used * ((if rd then 1 else 0) + (if cv then 1 else 0)))

/-- Whether beat b of row r meets a bad word: in a source, or in a word its stores cover only in part (R211, R225). -/
def State.beatBad (s : State) (i : QInstr) (r b n : Nat) : Bool :=
  let c := i.chain
  s.ecc ≠ [] &&
  ((match i.a with
    | .desc _ f _ _ _ _ _ => s.badIn i.p fun x =>
        i.a.rowAt r + b * cW c * fmtBytes f ≤ x && x < i.a.rowAt r + (b * cW c + n) * fmtBytes f
    | _ => false) ||
   (cBSrc c = 1 && match i.b with
    | .desc _ f _ _ _ _ _ => s.badIn i.p fun x =>
        i.b.rowAt r + b * cW c * fmtBytes f ≤ x && x < i.b.rowAt r + (b * cW c + n) * fmtBytes f
    | _ => false) ||
   (match i.c with
    | .desc _ f _ _ _ _ _ => r < i.c.rows && (let a := i.c.rowAt r + b * cW c * fmtBytes f
        s.badWrite i.p (span a (n * fmtBytes f)) a (n * fmtBytes f))
    | _ => false))

/-- Whether the operand V reads once, before the first beat, meets a bad word. -/
def State.holdBad (s : State) (i : QInstr) : Bool :=
  s.ecc ≠ [] && 2 ≤ cBSrc i.chain && match i.b with
  | .desc _ f _ _ _ _ _ => s.badIn i.p fun x =>
      i.b.rowAt 0 ≤ x && x < i.b.rowAt 0 + (if cBSrc i.chain = 2 then i.vl else i.b.sizes.1) * fmtBytes f
  | _ => false

/-- Beat b of row r (R188–R205), where fewer than `lim` beats have run; a row past OPD_C's own shape stores nothing. -/
def State.vopBeat (s : State) (i : QInstr) (lim r b : Nat) (x : VAcc × VRow) : VAcc × VRow :=
  let c := i.chain
  let n := min (cW c) (i.vl - b * cW c)
  if x.1.bad then x
  else if lim ≤ x.1.beats || s.beatBad i r b n then ({ x.1 with bad := true }, x.2)
  else
    let rd := (cSlots c).contains 4
    let cv := cCvt c / 16 % 4 = 2
    let free := if s.on fRngMode i.p then some s.free else none
    let dr := beatDraws free c n rd cv x.1.lanes (x.1.beats * 256)
    let one (v : W32) : Num := (roundNum (cFmt c) (f32 v)).1
    let m := one (s.rowRd i.p (vRowBase i.word + r) 0)
    let f := one (s.rowRd i.p (vRowBase i.word + r) 1)
    let bv (i0 : Nat) : Num :=
      match cBSrc c with
      | 0 => numZero
      | 2 => laneVal c (opdFmt c i.b) (s.vElem i.p i.b i.popB (cQFmt c) i.vl 0 i0)
      | 3 => laneVal c (opdFmt c i.b) (s.vElem i.p i.b i.popB (cQFmt c) i.vl 0 r)
      | _ => laneVal c (opdFmt c i.b) (s.vElem i.p i.b i.popB (cQFmt c) i.vl r i0)
    let av (i0 : Nat) : Num :=
      match i.a with
      | .none => numZero
      | _ => laneVal c (opdFmt c i.a) (s.vElem i.p i.a i.popA (cQFmt c) i.vl r i0)
    let els : List (VElem × Num × Nat) := dr.2.1.zipIdx.map fun d =>
      let i0 := b * cW c + d.2
      let env : VEnv := ⟨av i0, bv i0, one (immOf i.imm 0), one (immOf i.imm 1), m, f⟩
      ((cSlots c).foldl (vStage c env d.1.1 d.1.2.1) { t := ⟨env.a, false⟩ }, env.b, d.1.2.2)
    let taps : List TV := els.map fun e => ⟨e.1.t.v, false⟩
    let isScan := cRed c = 6 || cRed c = 7
    let flags : List Bool := els.map fun e => cRed c = 7 && !e.2.1.isZero
    let sc := if isScan then beatScan x.2.carry (taps.zip flags) else []
    let incl := sc.map (·.1)
    let outs : List TV :=
      if !isScan then [] else if cExcl c then
        (flags.zip (x.2.carry :: incl)).map fun z => if z.1 then ⟨numZero, false⟩ else z.2
      else incl
    let stored : List (Nat × Fl) :=
      if cStoreSel c then (outs.zip els).map fun z => vStore (cCvt c) z.2.2.2 z.1
      else els.map fun e => vStore (cCvt c) e.2.2 e.1.t
    let e1 : List VExc := (els.zip stored).zipIdx.map fun z =>
      let el := z.1.1.1
      if cStoreSel c then ⟨el.fl, el.stage.getD 5, r, b * cW c + z.2⟩
      else ⟨el.fl.or z.1.2.2, el.stage.getD 5, r, b * cW c + z.2⟩
    let e2 : List VExc := sc.zipIdx.map fun z =>
      let cvf : Fl := if cStoreSel c then (stored.getD z.2 (0, {})).2 else {}
      ⟨z.1.2.or cvf, if z.1.2 ≠ {} then 6 else 5, r, b * cW c + z.2⟩
    let eb := fmtBytes (cCvt c % 16)
    let bytes := stored.flatMap fun z => leBytes eb z.1
    ({ x.1 with
        lanes := dr.1, draws := x.1.draws + dr.2.2, beats := x.1.beats + 1,
        stores := match i.c with
          | .desc _ _ _ _ _ _ _ => if r < i.c.rows then x.1.stores ++ [(i.c.rowAt r + b * cW c * eb, bytes)] else x.1.stores
          | _ => x.1.stores,
        push := match i.c with | .q _ _ => x.1.push ++ bytes | _ => x.1.push,
        exc := x.1.exc ++ (e1 ++ e2).filter fun z => z.fl ≠ {} },
     ⟨x.2.taps ++ [taps], incl.getLastD x.2.carry⟩)

/-- The word a row's result combines with: the value at RBASE or in the row state (R206). -/
def State.vOld (s : State) (i : QInstr) (r : Nat) : Num :=
  let c := i.chain
  if cRTgt c = 0 then f32 (BitVec.ofNat 32 (ofBytes (s.spRds i.p (cRBase c + 4 * r) 4)))
  else f32 (s.rowRd i.p (vRowBase i.word + r) (cRTgt c - 1))

/-- Whether the value at RBASE that a row reads with R_ACC = 1 lies in a bad word. -/
def State.oldBad (s : State) (i : QInstr) (r : Nat) : Bool :=
  let c := i.chain
  s.ecc ≠ [] && cToBase c && cRAcc c && s.badIn i.p (span (cRBase c + r * cResBytes c) (cResBytes c))

/-- Whether a row's result meets a bad word at RBASE: one it reads, or one the results of the rows, one write, cover only in
part. -/
def State.resBad (s : State) (i : QInstr) (rows r : Nat) : Bool :=
  let c := i.chain
  let e := cResBytes c
  s.oldBad i r || (cToBase c && s.badWrite i.p (span (cRBase c) (rows * e)) (cRBase c + r * e) e)

/-- A value as FP32 bits. -/
def f32Bits (v : Num) : W32 := (toF32 v).1

/-- A row's result after its last beat (R204–R208). -/
def State.vopRowEnd (s : State) (i : QInstr) (rows r : Nat) (x : VAcc × VRow) : VAcc :=
  let c := i.chain
  let e := vRowBase i.word + r
  if x.1.bad || cRed c = 0 then x.1
  else if s.resBad i rows r then { x.1 with bad := true }
  else
    let flat := x.2.taps.flatten.map (·.v)
    let put (v : Num) (extra : List Byte) (fl : Fl) (rowW : List (Nat × Nat × W32)) : VAcc :=
      { x.1 with
        results := if cToBase c then x.1.results ++ [(cRBase c + r * cResBytes c, leBytes 4 (f32Bits v).toNat ++ extra)]
          else x.1.results
        rowW := x.1.rowW ++ rowW ++ (if cRTgt c = 0 then [] else [(e, cRTgt c - 1, f32Bits v)])
        exc := if fl = {} then x.1.exc else x.1.exc ++ [⟨fl, 6, r, 0⟩] }
    match cRed c with
    | 4 => let m := rowExt true flat; put m.1 (leBytes 4 m.2.1) m.2.2 []
    | 5 => let m := rowExt false flat; put m.1 (leBytes 4 m.2.1) m.2.2 []
    | 6 => put x.2.carry.v [] {} []
    | 7 => put x.2.carry.v [] {} []
    | 8 =>
      let old := if cRInit c then Num.inf true else f32 (s.rowRd i.p e 0)
      let b := rowExt true flat
      let new := numExt true old b.1
      let d := toF32 (old.add new.neg)
      let ex := trEval 0 d.1
      let fv := if new.eq old then numOne else ex.1
      let fl := opFl [old, b.1] new
      put fv [] (if new.eq old then fl else ((fl.or (opFl [old, new] (old.add new.neg))).or d.2).or { ovf := ex.2 }) [(e, 1, f32Bits fv), (e, 0, f32Bits new)]
    | 9 =>
      let sm := (rowSum (x.2.taps.map fun l => l.map fun t => (t, ({} : Fl)))).getD (⟨numZero, false⟩, {})
      let old := if cRInit c then numZero else f32 (s.rowRd i.p e 2)
      let fv := f32 (s.rowRd i.p e 1)
      let r' := tvRound fp32 [⟨old, false⟩, ⟨fv, false⟩, sm.1] ((old.mul fv).add sm.1.v)
      put r'.1.v [] (sm.2.or r'.2) [(e, 2, f32Bits r'.1.v)]
    | k =>
      let base : TV × Fl :=
        if k = 1 then (rowSum (x.2.taps.map fun l => l.map fun t => (t, ({} : Fl)))).getD (⟨numZero, false⟩, {})
        else let m := rowExt (k = 2) flat; (⟨m.1, false⟩, m.2.2)
      let acc : TV × Fl :=
        if cRAcc c then
          (let o := s.vOld i r
           if k = 1 then redAdd (⟨o, false⟩, {}) base
           else (⟨numExt (k = 2) o base.1.v, false⟩, base.2.or { nan := o.isNan }))
        else base
      let mulBy (v : TV × Fl) (n : Num) : TV × Fl :=
        let q := tvRound fp32 [v.1, ⟨n, false⟩] (v.1.v.mul n)
        (q.1, v.2.or q.2)
      let s1 := if cRScl c = 0 then acc else mulBy acc (roundNum (cFmt c) (f32 (immOf i.imm 1))).1
      let s2 := if cRScl c = 2 then mulBy s1 (f32 (s.rowRd i.p e 1)) else s1
      put s2.1.v [] s2.2 []

/-- The rows of a VOP in order, at most `lim` beats. DEDUCED, log entry 58. -/
def State.vopUpTo (s : State) (i : QInstr) (lim : Nat) : VAcc :=
  let c := i.chain
  let rows := vopRows i.a i.c
  let start : VAcc := { lanes := (List.range 128).map fun l => (s.rngRd i.p l).toNat }
  if i.vl = 0 then start
  else if s.holdBad i then { start with bad := true }
  else (List.range rows).foldl (fun acc r =>
    let scan := cRAcc c && (cRed c = 6 || cRed c = 7)
    let carry : TV := if scan then ⟨s.vOld i r, false⟩ else ⟨numZero, false⟩
    let acc := if scan && s.oldBad i r then { acc with bad := true } else acc
    let x := (List.range (cdiv i.vl (cW c))).foldl (fun y b => s.vopBeat i lim r b y) (acc, { carry := carry })
    s.vopRowEnd i rows r x) start

/-- The number of beats of a VOP. -/
def QInstr.beats (i : QInstr) : Nat := vopRows i.a i.c * cdiv i.vl (cW i.chain)

/-- A VOP run to its end. -/
def State.vopRun (s : State) (i : QInstr) : VAcc := s.vopUpTo i i.beats

/-- EXC_FIRST of a VOP (Table 07-15). -/
def vecFirst (i : QInstr) (x : VExc) : W64 :=
  BitVec.ofNat 64 (i.pc % 2048 + i.bank % 2 * 2 ^ 11 + (if x.fl.nan then 2 ^ 12 else 0) + (if x.fl.inv then 2 ^ 13 else 0)
    + (if x.fl.ovf then 2 ^ 14 else 0) + (if x.fl.sat then 2 ^ 15 else 0) + x.stage % 8 * 2 ^ 16 + 2 ^ 31
    + i.disp % 2 ^ 32 * 2 ^ 32)

/-- R210: exceptions counted, the first recorded. -/
def vecCount (i : QInstr) (l : List VExc) : Eff :=
  forEach l fun x =>
    doAll [countFl .vec 0x100 i.p x.fl 1,
      whenE (fun s => !s.on fVecFirstValid i.p) (doAll [setReg .vec i.p 0x108 (vecFirst i x),
        setReg .vec i.p 0x110 (BitVec.ofNat 64 (x.col % 4096 + x.row % 2 ^ 20 * 2 ^ 12)), setEvt .vec i.p 0])]

/-- The byte ranges of a row-wise source that the first `n` beats of a VOP read: of each row the elements those beats hold. -/
def QInstr.readRanges (i : QInstr) (o : Opd) (n : Nat) : List (Nat × Nat) :=
  let nb := cdiv i.vl (cW i.chain)
  match o with
  | .desc .. => (List.range (vopRows i.a i.c)).filterMap fun r =>
      let m := min i.vl ((n - r * nb) * cW i.chain)
      if m = 0 then none else some (o.rowAt r, o.rowAt r + m * fmtBytes o.fmt)
  | _ => []

/-- The byte ranges a VOP reads that has run `v.beats` beats and met a bad word, or not, in the next: a source's elements
below VL, the operand read once, the old results (R188, R206). -/
def QInstr.vReads (i : QInstr) (v : VAcc) : List (Nat × Nat) :=
  let c := i.chain
  let n := v.beats + (if v.bad then 1 else 0)
  if i.vl = 0 then [] else
  i.readRanges i.a n ++
  (if cBSrc c = 1 then i.readRanges i.b n
   else match i.b with
    | .desc .. => if cBSrc c = 0 then [] else
        [(i.b.rowAt 0, i.b.rowAt 0 + (if cBSrc c = 2 then i.vl else i.b.sizes.1) * fmtBytes i.b.fmt)]
    | _ => []) ++
  (if cRAcc c && cToBase c then
    [(cRBase c, cRBase c + min (vopRows i.a i.c) (v.results.length + if v.bad then 1 else 0) * cResBytes c)] else [])

/-- R202: the generators of a tile in FREE mode: states no rule fixes, none of them 0. -/
def freeLanes (p : Nat) : Eff := fun s =>
  .free :: (List.range 128).map fun l =>
    let v := Config.freeDraw s.free (3 * l) ++ Config.freeDraw s.free (3 * l + 1) ++ Config.freeDraw s.free (3 * l + 2)
    Upd.rng (rngKey p l) (if v = 0 then 1 else v)

/-- What a VOP's rows and beats leave: stores, results in one write, row state, generators, counters; of one that ended early, a
free number of whole lines of a queue-end destination. -/
def vecCommit (i : QInstr) (v : VAcc) : Eff := fun s =>
  let rows := if v.bad then v.results.length else vopRows i.a i.c
  let res := span (cRBase i.chain) (rows * cResBytes i.chain)
  doAll [
    (if s.ecc = [] then skip else look (fun _ => i.vReads v) fun l =>
      eccRead i.p 4 fun ln => l.any fun x => x.1 < x.2 && x.1 / 64 ≤ ln && ln ≤ (x.2 - 1) / 64),
    forEach v.stores fun x => doAll [eccRmw i.p 4 x.1 x.2.length, spWr i.p x.1 x.2],
    (match i.c with
      | .q q _ => if v.bad then pushSome i.p q v.push else ringPush i.p (ringOf q) v.push
      | _ => skip),
    whenE (fun s => s.ecc ≠ [] && v.results ≠ []) (eccRmwIn i.p 4 res),
    forEach v.results fun x => spWrIn i.p res x.1 x.2,
    (fun _ => v.rowW.map fun x => Upd.row ((i.p * 256 + x.1) * 3 + x.2.1) x.2.2),
    (if s.on fRngMode i.p then doAll [fun _ => [.free], freeLanes i.p]
      else fun _ => v.lanes.zipIdx.map fun x => Upd.rng (rngKey i.p x.2) (BitVec.ofNat 96 x.1)),
    addSat fRngDraws i.p v.draws,
    vecCount i v.exc,
    whenE (fun s => s.on fVecStat i.p)
      (doAll [addSat fVecBeats i.p v.beats, addSat fVecActive i.p v.beats, addFree fVecWait i.p])] s

/-- The instruction at the head of V's queue, issued and not yet done, with an opcode. -/
def State.vecHead (s : State) (p op : Nat) : Option QInstr :=
  match s.head p 4 with
  | some i => if i.issued && !i.worked && iOp i.word = op then some i else none
  | none => none

/-- VOP: one pass of the chain over the rows of the instruction at the head of V's queue. -/
def effVop (t : Nat) : Eff := fun s =>
  match s.vecHead (s.phys t) 0x40 with
  | some i => let v := s.vopRun i
    if v.bad then [] else doAll [vecCommit i v, markWorked i.p 4] s
  | none => []

def execVop (t : Nat) (s : State) : Host.Outcome State Fault Refusal := .next ((effVop t).run s)

/-- VSEED: the generators are reseeded with the instruction's STREAM (R189, R201). -/
def effVseed (t : Nat) : Eff := fun s =>
  match s.vecHead (s.phys t) 0x42 with
  | some i =>
    doAll [seedLanes t i.p (sb i.word 80 8) ((s.kilnOf t).elim 0 fun k => s.get fKilnStep k), markWorked i.p 4] s
  | none => []

def execVseed (t : Nat) (s : State) : Host.Outcome State Fault Refusal := .next ((effVseed t).run s)

/-- VL as a VSETVL sets it (R189). -/
def State.vsetvlVl (s : State) (p : Nat) (w : W128) : Nat :=
  if sb w 109 1 = 1 then min (sb w 93 13) (sb w 80 13 - s.get (fLc (sb w 106 3)) p * sb w 93 13) else sb w 80 13

end Sys2Proof.Machine
end

