-- ==== Sys2Proof/Machine/Stops.lean ====
section
/-! DEFINITION. What an engine's instruction leaves that ends partway: at an error (R131, R146, R149, R165, R211), or at an
ABORT, which stops it at its next line or beat (R128). -/

namespace Sys2Proof.Machine

/-! ## A matrix instruction by its opcode -/

/-- The elements of a matrix instruction. -/
def State.matElems (s : State) (i : QInstr) (core : Nat) : List ElemOut :=
  match iOp i.word with
  | 0x20 => s.mmaElems i core
  | 0x21 => s.accwbElems i core
  | _ => s.smmaElems i core

/-- The error a matrix instruction meets first. -/
def State.matStop (s : State) (i : QInstr) (core : Nat) (l : List ElemOut) : Option MStop :=
  match iOp i.word with
  | 0x20 => s.mmaStop i core l
  | 0x21 => s.accwbStop i core l
  | _ => s.smmaStop i core l

/-- Whether it writes back. -/
def QInstr.writes (i : QInstr) : Bool :=
  match iOp i.word with
  | 0x20 => mWb i.word
  | 0x21 => true
  | _ => spWb i.word

/-- Its write-back of elements, with the reads of the words it covers in part. -/
def matBack (i : QInstr) (l : List ElemOut) : Eff := fun s =>
  if iOp i.word < 0x28 then doAll [mmaRmw i l, mmaBack i l] s
  else doAll [smmaRmw i (s.spPermOf i) l, smmaBack i (s.spPermOf i) l] s

/-- The bytes its write-back makes of elements, in the order of a push. -/
def State.matBytes (s : State) (i : QInstr) (l : List ElemOut) : List Byte :=
  if iOp i.word < 0x28 then l.flatMap fun x => leBytes (fmtBytes (mCvt i.word % 16)) x.out
  else (spPushOrder i.word (s.spPermOf i) l).flatMap fun x => leBytes (fmtBytes (spCvt i.word % 16)) x.out

/-- The accumulators of elements whose sums are done; ACCWB changes none. -/
def matAccs (i : QInstr) (core : Nat) (l : List ElemOut) : Eff :=
  if iOp i.word = 0x21 then skip else writeAccs core (pairInt (if iOp i.word = 0x20 then mFa i.word else spFa i.word)) l

/-- The sums of a block in progress, which no rule fixes. -/
def matPart (i : QInstr) (core : Nat) (l : List ElemOut) : Eff :=
  if iOp i.word = 0x21 then skip else forEach l fun x => drawFree fun v => fun _ =>
    [.acc (accKey core x.a (x.m % 16) (x.n % 16)) (accPack (pairInt (if iOp i.word = 0x20 then mFa i.word else spFa i.word)) (v.setWidth 32))]

/-- The reads of its operands. -/
def matReads (i : QInstr) (core : Nat) (l : List ElemOut) : Eff :=
  match iOp i.word with
  | 0x20 => mmaReads i core
  | 0x21 => skip
  | _ => smmaReads i core l

/-- Statistics and segment registers of `nb` whole blocks with `rows` rows and `n` elements. -/
def matBlocks (i : QInstr) (core nb rows n : Nat) : Eff :=
  let w := i.word
  match iOp w with
  | 0x20 => matStats core (nb * mK w * mPass w * stepCycles (mFa w)) (n * mK w * mPass w)
  | 0x21 => skip
  | _ => doAll [fun s => s.segRegs i core rows (spKb w), spStats i core (spKb w) nb rows]

/-- Elements written back: to a descriptor all of them; of a push a free number of whole lines. -/
def matWrites (i : QInstr) (l : List ElemOut) : Eff :=
  match i.c with
  | .desc .. => matBack i l
  | .q q _ => look (fun s => s.matBytes i l) (pushSome i.p q)
  | _ => skip

/-! ## Ends -/

/-- A matrix instruction that ends with ARG at a block (R146, R147, R165): the blocks before it are complete, and of the first
block the phases before a tile that is refused. DEDUCED, log entry 55. -/
def matEnds (i : QInstr) (core : Nat) (l : List ElemOut) (x : MStop) : Eff :=
  let done := l.filter fun y => ((blocksOf l).take x.blk).contains y.a
  doAll [matBlocks i core x.blk ((done.map (·.m)).dedup.length) done.length, matAccs i core done,
    if i.writes then matWrites i done else skip, countExc core i done,
    withSome x.tile skip fun e => doAll [smmaUpTo i core e.2.1, spErrRecord i core e],
    tbSet core i.tb 2]

/-- A matrix instruction that stops at block `x.blk` at the latest, at a bad word or an ABORT: a free number of blocks are summed,
the next one holds sums no rule fixes, the last one summed is written up to a free row, and EXC counts the elements that are
complete (R128, R148, R149). -/
def matStops (i : QInstr) (core : Nat) (l : List ElemOut) (x : MStop) : Eff :=
  drawFree fun w =>
    let blocks := blocksOf l
    let k := match x.row with | some _ => x.blk + 1 | none => getBits w 0 8 % (x.blk + 1)
    let rows := match x.row with | some r => r % 16 | none => getBits w 8 8 % 17
    let full := l.filter fun y => (blocks.take k).contains y.a
    let last (y : ElemOut) : Bool := 0 < k && blocks[k - 1]? = some y.a
    let written := full.filter fun y => !last y || y.m % 16 < rows
    let met := full.filter fun y => !last y || y.m % 16 ≤ rows
    doAll [matBlocks i core k ((full.map (·.m)).dedup.length) full.length, matAccs i core full,
      if i.writes then doAll [(if x.row.isSome then
          (if iOp i.word < 0x28 then mmaRmw i met else fun s => smmaRmw i (s.spPermOf i) met s) else skip), matWrites i written]
        else skip,
      countExc core i (if i.writes then written else full),
      if x.load then skip else matPart i core (l.filter fun y => blocks[k]? = some y.a),
      if iOp i.word = 0x21 then skip else
        whenE (fun s => s.on fCoreStat core) (doAll [addFree fActiveCycles core, addFree fMacs core])]

/-- The transposing buffer's contents are discarded (R149). -/
def tbDiscard (core : Nat) : Eff := doAll [setReg .core core 0x140 0, tbForget core]

/-- What a matrix instruction leaves that meets an error. -/
def matLeaves (i : QInstr) (core : Nat) : Eff := fun s =>
  let l := s.matElems i core
  withSome (s.matStop i core l) skip (fun x =>
    doAll [matReads i core l,
      if x.code = eECC_UE then doAll [matStops i core l x, tbDiscard core] else matEnds i core l x]) s

/-- What an instruction of a matrix core or of the vector engine leaves that an ABORT stops: none that has done its work or has
not begun. -/
def abortLeaves (i : QInstr) : Eff := fun s =>
  if !i.issued ∨ i.worked ∨ iOp i.word < 0x20 then [] else
  if i.e < 4 then
    let core := 4 * i.p + i.e
    let l := s.matElems i core
    let most := match s.matStop i core l with | some x => x.blk | none => (blocksOf l).length
    matStops i core l { code := eABORTED, blk := most } s
  else if iOp i.word = 0x40 then
    drawFree (fun w => fun s => vecCommit i (s.vopUpTo i (getBits w 0 32 % (i.beats + 1))) s) s
  else []

end Sys2Proof.Machine
end

