-- ==== Sys2Proof/Machine/Shared.lean ====
section
/-! DEFINITION. What several blocks do together: the flush of a tile and of a kiln (R128, R267, Table 10-8), the fault
of a kiln (R356, R357, R407), the step abort (R327, R328), the commit point (R341), and the release of a kiln (R355). -/

namespace Sys2Proof.Machine

/-! ## Fields of the KILN, ROUTER, TDMA, PUG and GLAZE pages -/

def fInStep : Fld := ⟨.kiln, 0x018, 3, 1⟩
def fRestart : Fld := ⟨.kiln, 0x018, 4, 1⟩
def fBusyOp : Fld := ⟨.kiln, 0x018, 8, 8⟩
def fKilnTiles : Fld := ⟨.kiln, 0x100, 32, 16⟩
def fKStep : Fld := ⟨.kiln, 0x120, 0, 32⟩
def fKSteps : Fld := ⟨.kiln, 0x120, 32, 32⟩
def fKFaultSrc : Fld := ⟨.kiln, 0x128, 8, 3⟩
def fKFaultCode : Fld := ⟨.kiln, 0x128, 0, 8⟩
def fCtxmap (p : Nat) : Fld := ⟨.kiln, 0x140, p, 1⟩
def fOwnKiln : Fld := ⟨.router, 0x108, 0, 8⟩
def fInKiln : Fld := ⟨.router, 0x108, 8, 1⟩
def fOwnSag : Fld := ⟨.router, 0x108, 9, 6⟩
def fOwnStep : Fld := ⟨.router, 0x108, 32, 32⟩
def fRouteCredit (r : Nat) : Fld := ⟨.router, 0x128 + 0x10 * r, 10, 15⟩
def fRouteCreditInit (r : Nat) : Fld := ⟨.router, 0x128 + 0x10 * r, 32, 11⟩
def fR0State : Fld := ⟨.tdma, 0x018, 0, 2⟩
def fR1State : Fld := ⟨.tdma, 0x018, 2, 2⟩
def fR0Base : Fld := ⟨.tdma, 0x100, 0, 21⟩
def fR0Log : Fld := ⟨.tdma, 0x100, 32, 4⟩
def fR0En : Fld := ⟨.tdma, 0x100, 40, 1⟩
def fR0Head : Fld := ⟨.tdma, 0x108, 0, 12⟩
def fFeedPort (f : Nat) : Fld := ⟨.pug, 0x200 + 0x10 * f, 0, 6⟩
def fFeedLink (f : Nat) : Fld := ⟨.pug, 0x200 + 0x10 * f, 6, 4⟩
def fFeedSet (f : Nat) : Fld := ⟨.pug, 0x200 + 0x10 * f, 10, 4⟩
def fFeedJob (f : Nat) : Fld := ⟨.pug, 0x200 + 0x10 * f, 14, 8⟩
def fFeedValid (f : Nat) : Fld := ⟨.pug, 0x200 + 0x10 * f, 22, 1⟩
def fFeedFill (f : Nat) : Fld := ⟨.pug, 0x200 + 0x10 * f, 24, 7⟩
def fFeedPos (f : Nat) : Fld := ⟨.pug, 0x200 + 0x10 * f, 32, 32⟩
def fFeedParts (f : Nat) : Fld := ⟨.pug, 0x208 + 0x10 * f, 0, 48⟩
def fFeedCount (f : Nat) : Fld := ⟨.pug, 0x208 + 0x10 * f, 48, 10⟩
def fPugStale : Fld := ⟨.pug, 0x128, 0, 16⟩
def fPugDups : Fld := ⟨.pug, 0x128, 16, 16⟩
def fPugHeld : Fld := ⟨.pug, 0x128, 32, 16⟩
def fLgen (j : Nat) : Fld := ⟨.pug, 0x180 + 8 * (j / 64), j % 64, 1⟩
def fGlzState : Fld := ⟨.glaze, 0x018, 0, 64⟩
def fGjob : Fld := ⟨.glaze, 0x100, 0, 8⟩
def fGjobValid : Fld := ⟨.glaze, 0x100, 8, 1⟩
def fGpolicy : Fld := ⟨.glaze, 0x100, 9, 2⟩
def fGcoord : Fld := ⟨.glaze, 0x100, 16, 12⟩
def fGmodules : Fld := ⟨.glaze, 0x100, 32, 13⟩
def fCommitted : Fld := ⟨.glaze, 0x128, 0, 32⟩
def fDurable : Fld := ⟨.glaze, 0x128, 32, 32⟩
def fMstate : Fld := ⟨.glaze, 0x138, 0, 2⟩

/-- The pug units. -/
def pugs16 : List Nat := List.range 16

/-- The feeds of a pug unit. -/
def feeds32 : List Nat := List.range 32

/-- The glaze units bound to a job (R332). -/
def State.jobGlaze (s : State) (j : Nat) : List Nat := ports48.filter fun p => s.on fGjobValid p && s.get fGjob p = j

/-- The stream contexts of a kiln: port and context. -/
def State.kilnCtx (s : State) (k : Nat) : List (Nat × Nat) :=
  ports48.flatMap fun p => (List.range 16).filterMap fun c =>
    if s.on (fCtxValid c) p && s.get (fCtxKiln c) p = k then some (p, c) else none

/-- The gather windows a kiln holds (R362): port and window. -/
def State.kilnWins (s : State) (k : Nat) : List (Nat × Nat) :=
  ports48.flatMap fun p => (List.range 8).filterMap fun w => if s.ax ⟨.winKiln, p, w⟩ = k + 1 then some (p, w) else none

/-- The feeds a kiln holds (R362): pug and feed. -/
def State.kilnFeeds (s : State) (k : Nat) : List (Nat × Nat) :=
  pugs16.flatMap fun u => feeds32.filterMap fun f => if s.ax ⟨.feedKiln, u, f⟩ = k + 1 then some (u, f) else none

/-- The feeds of a job: pug and feed. -/
def State.jobFeeds (s : State) (j : Nat) : List (Nat × Nat) :=
  pugs16.flatMap fun u => feeds32.filterMap fun f =>
    if s.on (fFeedValid f) u && s.get (fFeedJob f) u = j then some (u, f) else none

/-! ## The write-back of a descriptor (R233) -/

/-- R233: word 3 and then word 0 of a ring-0 descriptor written back; `own` is what OWN becomes. -/
def dmaWriteBack0 (j : DmaJob) (status stored : Nat) (own : Bool) : Eff := fun s =>
  let a := s.get fR0Base j.p + 32 * j.idx
  let w3 := setBits j.w3 32 32 stored
  let w0 := setBits (setBits j.w0 56 8 status) 0 1 (if own then 1 else 0)
  doAll [spWr j.p (a + 24) (leBytes 8 w3.toNat), spWr j.p a (leBytes 8 w0.toNat)] s

/-! ## Flushes -/

/-- The kept part of a tile's rings emptied: ring q of tile p holds nothing. -/
def ringEmpty (p q : Nat) : Eff := fun s =>
  doAll [setF (fQRd q) p (s.get (fQWr q) p), setAx ⟨.ringLines, p, q⟩ 0] s

/-- The transposing buffers of a tile's cores are empty, and hold no sparse A. -/
def tbsEmpty (p : Nat) : Eff := forEach [0, 1, 2, 3] fun c => tbDiscard (4 * p + c)

/-- LAST of the TDMA page names a descriptor that has ended (Table 08-8). -/
def dmaLastSet (j : DmaJob) (status stored : Nat) : Eff := setReg .tdma j.p 0x130
  (BitVec.ofNat 64 (j.idx % 4096 + j.ring * 2 ^ 16 + status % 256 * 2 ^ 24 + stored % 2 ^ 32 * 2 ^ 32))

/-- R128: the flush of a tile (physical index): no new flush in IDLE or ABORTING, where a START that waits for its end is taken
back; executing instructions stop where they are, the queue and lines in output rings are discarded; a ring-0 descriptor in
progress is written back with ABORTED, and a stopped ring stays stopped (R236). -/
def flushTile (p : Nat) : Eff := fun s =>
  if s.get fTileState p = 0 then [] else
  if s.get fTileState p = 6 then setAx ⟨.startDue, p, 0⟩ 0 s else
  doAll [setF fTileState p 6,
    forEach (s.tl.q.filter fun i => i.p = p) abortLeaves,
    forEach (s.tl.jobs.filter fun j => j.p = p && j.ring = 0) (fun j =>
      doAll [dmaWriteBack0 j eABORTED j.stored false, dmaLastSet j eABORTED j.stored, recordErr .tdma p eABORTED j.idx,
        whenE (fun _ => j.tiles ≠ []) (countWedge .tdma 0x158 p j.tiles 0 j.stored)]),
    modTl fun t => { t with q := t.q.filter fun i => i.p ≠ p, pushes := t.pushes.filter fun x => x.p ≠ p,
                            jobs := t.jobs.filter fun j => !(j.p = p && j.ring = 0) },
    tbsEmpty p, whenE (fun s => s.get fR0State p ≠ 3) (setF fR0State p 0), setAx ⟨.dmaLeft, p, 0⟩ 0, setAx ⟨.dmaErr, p, 0⟩ 0, setAx ⟨.seqWait, p, 0⟩ 0, setF fSwapWait p 0,
    forEach (List.range 14) (fun q => doAll [whenE (fun _ => 8 ≤ q) (ringEmpty p q), setAx ⟨.ringKept, p, q⟩ 0]),
    forEach ((List.range 16).filter fun r => r < 15 || !(s.tl.jobs.any fun j => j.p = p && j.ring = 1))
      (fun r => setAx ⟨.outLeft, p, r⟩ 0)] s

/-- The feeder code of route entry r of physical tile p; of the stream of a context to a destination (X, Y, X2, Y2,
QUEUE); of the final combine set of a feed. -/
def feedTile (p r : Nat) : Nat := (p * 8 + r) * 3
def feedStream (port ctx d : Nat) : Nat := ((port * 16 + ctx) * 2 ^ 32 + d) * 3 + 1
def feedComb (p set : Nat) : Nat := (p * 16 + set) * 3 + 2

/-- A destination as one number. -/
def destCode (dx dy x2 y2 q : Nat) : Nat := (((dx * 180 + dy) * 192 + x2) * 180 + y2) * 2 + q

/-- Whether a feeder belongs to a kiln's tiles or contexts. -/
def feedIn (tiles : List Nat) (ctxs : List (Nat × Nat)) (feed : Nat) : Bool :=
  if feed % 3 = 0 then tiles.contains (feed / 3 / 8)
  else if feed % 3 = 1 then ctxs.contains (feed / 3 / 2 ^ 32 / 16, feed / 3 / 2 ^ 32 % 16)
  else tiles.contains (feed / 3 / 16)

/-- R267: the routers discard a kiln's lines, combine steps, credits and merge state. -/
def flushNet (k : Nat) : Eff := fun s =>
  let tiles := (s.kilnTiles k).map s.phys
  let ctxs := s.kilnCtx k
  doAll [modNet fun n => { n with
      flits := n.flits.filter fun f => if f.h.typ = 5 then !(f.feed ≠ 0 && feedIn tiles ctxs (f.feed - 1)) else f.ctrl || f.root || f.h.kiln ≠ k
      combIn := n.combIn.filter fun c => c.h.kiln ≠ k
      combOut := n.combOut.filter fun c => c.h.kiln ≠ k
      edge := n.edge.filter fun e => e.root || e.h.kiln ≠ k || (e.full && e.h.typ ≠ 2)
      merges := n.merges.filter fun m => !feedIn tiles ctxs m.feed
      holds := n.holds.filter fun x => x.h.kiln ≠ k },
    forEach tiles (fun p => doAll [forEach (List.range 5) (fun r => setF (fRouteCredit r) p 0),
      forEach (List.range 16) (fun c => setAx ⟨.combCredit, p, c⟩ 0),
      forEach (List.range 6) (fun q => setAx ⟨.ringFreed, p, q⟩ 0)]),
    fun _ => [.auxClear fun a => a.kind = .feedUsed && feedIn tiles ctxs a.a]] s

/-- R280: the tags of streams and asked segments that a flush drops. -/
def drained (wc : Nat) (ts : List Strm) (gs : List Seg) : List Drained :=
  (ts.map fun t => { tag := t.tag, due := wc + 24000 }) ++
    (gs.filter fun g => g.st = 1).map fun g => { tag := g.tag, module_ := g.module_, link := some (planPort g.path g.link) }

/-- Streams and segments dropped from a slip port's lists, their tags left to drain. -/
def dropReads (wc : Nat) (st : Strm → Bool) (sg : Seg → Bool) (l : SlipSt) : SlipSt := { l with
  streams := l.streams.filter fun t => !st t
  segs := l.segs.filter fun g => !sg g
  drain := l.drain ++ drained wc (l.streams.filter st) (l.segs.filter sg) }

/-- R298: the open wedged transfers of a kiln close with a code. -/
def closeXfers (k code : Nat) : Eff := fun s =>
  doAll [forEach (s.sl.xfers.filter fun x => x.kiln = k) (fun x =>
      doAll [recordErr .slip x.port code x.src, addSat fXferClosed x.port 1]),
    modSl fun l => { l with xfers := l.xfers.filter fun x => x.kiln ≠ k }] s

/-- The ingress buffers of feeds are empty, their positions at the start, and no freed line waits for its chunk (R307, Table
11-5). -/
def feedsEmpty (feeds : List (Nat × Nat)) : Eff :=
  doAll [modPg fun g => { g with feedq := g.feedq.filter fun x => !feeds.contains (x.u, x.f) },
    forEach feeds fun f => doAll [setF (fFeedFill f.2) f.1 0, setF (fFeedPos f.2) f.1 0, setAx ⟨.ringFreed, 36000 + f.1, f.2⟩ 0]]

/-- Table 10-8 and R307: a kiln's contexts go IDLE, its windows FREE, its log entries and feed buffers empty; the tags of its
requests drain (R280). -/
def flushCtx (k : Nat) : Eff := fun s =>
  let ctxs := s.kilnCtx k
  let wins := s.kilnWins k
  let feeds := s.kilnFeeds k
  doAll [forEach ctxs (fun c => setF (fCtxState c.2) c.1 0),
    forEach wins (fun w => setF (fWinState w.2) w.1 0),
    modSl fun l => { dropReads s.wcount (fun t => ctxs.contains (t.port, t.ctx)) (fun g => wins.contains (g.port, g.w)) l with
      glog := l.glog.filter fun g => g.kiln ≠ k },
    feedsEmpty feeds] s

/-- The flush of a kiln (R356, R327 action 4): its tiles, routers, contexts and wedged transfers. -/
def flushKiln (k : Nat) : Eff := fun s =>
  doAll [forEach (s.kilnTiles k) (fun t => flushTile (s.phys t)), flushNet k, flushCtx k, closeXfers k eABORTED] s

/-! ## Status words of a bucket (Table 11-2) -/

/-- A signed code as a number: its low 32 bits; 2^32 stands for poison. -/
def poison : Nat := 2 ^ 32

/-- The poisoned elements a bucket holds. -/
def Bkt.poisoned (b : Bkt) : Nat := (b.vals.filter fun e => e.2 = poison).length

/-- Words 6 and 7 of a bucket's entry. -/
def bktWord6 (b : Bkt) : Nat := b.code % 256 + b.state % 8 * 2 ^ 8 + b.stage % 8 * 2 ^ 11 + b.step % 2 ^ 32 * 2 ^ 32
def bktWord7 (b : Bkt) : Nat :=
  min b.sat (2 ^ 25 - 1) + (if b.state = 4 then
    b.poisoned % 2 ^ 25 * 2 ^ 25 + (match b.pmin with | some m => m % 4096 * 2 ^ 50 + 2 ^ 62 | none => 0) else 0)

/-- R330: a bucket's status written to its entry; where that fails at a bad burst, its pug unit receives ECC_UE (R277). -/
def bktStatus (b : Bkt) : Eff :=
  storePutOr (b.addr + 48) (leBytes 8 (bktWord6 b) ++ leBytes 8 (bktWord7 b)) (recordErrFree .pug b.chan eECC_UE)

/-- LAST_DONE of a channel names a bucket that leaves DELIVER, FAILED or ABORTED (Table 11-8). -/
def lastDone (b : Bkt) : Eff := setReg .pug b.chan 0x108
  (BitVec.ofNat 64 (b.id % 65536 + b.job % 256 * 2 ^ 16 + b.code % 256 * 2 ^ 24 + b.step % 2 ^ 32 * 2 ^ 32))

/-- A bucket replaced. -/
def putBkt (b : Bkt) : Eff := modPg fun g =>
  { g with buckets := g.buckets.map fun x => if x.job = b.job && x.id = b.id then b else x }

/-- The bucket of a job. -/
def State.bkt (s : State) (job id : Nat) : Option Bkt := s.pg.buckets.find? fun b => b.job = job && b.id = id

/-! ## The step abort -/

/-- The shadow slot of a glaze unit's stack: the one that is not committed (R339). -/
def State.shadowSlot (s : State) (p : Nat) : Nat := if s.on (fGenValid 0) p then 1 - s.get (fCgen 0) p else 1

/-- Whether the shadow of a unit is open for a step: its header says SHADOW with that VERSION. -/
def State.shadowOpened (s : State) (p n : Nat) : Bool :=
  s.stNum (s.regionBase p (s.shadowSlot p) + 6) 1 = 1 && s.hdrVer p 0 (s.shadowSlot p) = n

/-! ## Mirroring (R343) -/

/-- A message to the L0 peer in class 3. -/
def sendL0 (typ : Nat) (data : List Byte) : Eff := fun s =>
  match s.boardPeer 16 with
  | some x => sendMsg 16 x.module_ false 3 typ data s
  | none => []

/-- The MWRITE payloads for n bytes of slot k of a stack's HOME pair from an offset on, by whole lines, 63 lines a
message (DESIGN CHOICE, log entry 26). -/
def State.mirrorMsgs (s : State) (p k dst off n : Nat) : List (List Byte) :=
  (List.range (cdiv (cdiv n 64) 63)).map fun i =>
    let o := off + 4032 * i
    let len := min 4032 (64 * cdiv n 64 - 4032 * i)
    leBytes 1 p ++ leBytes 1 dst ++ leBytes 6 0 ++ leBytes 8 o ++ s.stRds (s.regionBase p k + o) len

/-- Bytes of the shadow of a step mirrored while MSTATE = ACTIVE; they wait while a flip of an earlier step is outstanding. -/
def mirrorWrite (p k off n step : Nat) : Eff := fun s =>
  if s.get fMstate p ≠ 1 then [] else
  let ms := s.mirrorMsgs p k k off n
  if s.gl.flips.any fun x => x.port = p then
    modGl (fun g => { g with mirrorQ := g.mirrorQ ++ ms.map fun d => ⟨p, step, d⟩ }) s
  else forEach ms (fun d => sendL0 0x30 d) s

/-- The frames of the class-3 traffic of L0 that are not acknowledged (R377). -/
def State.mirrorFrames (s : State) : List SentFrame :=
  match s.boardPeer 16 with
  | some x => x.frames.filter fun f => f.cls = 3
  | none => []

/-- The whole class-3 traffic of L0 is acknowledged. -/
def State.mirrorIdle (s : State) : Bool := s.mirrorFrames = []

/-- A unit's mirror writes are acknowledged; the mirror headers of a job's slot are. -/
def State.writesAcked (s : State) (p : Nat) : Bool := s.mirrorFrames.all fun f => f.fr.typ ≠ 0x30 || f.ref % 256 ≠ p
def State.flipAcked (s : State) (j k : Nat) : Bool := s.mirrorFrames.all fun f => f.fr.typ ≠ 0x31 || f.ref % 65536 ≠ j + 256 * k

/-- The first flip of a unit that is outstanding. -/
def State.flipOf (s : State) (p : Nat) : Option MFlip := s.gl.flips.find? fun x => x.port = p

/-- The step of a flip makes its unit DURABLE (R343). -/
def flipDone (x : MFlip) : Eff :=
  doAll [modGl fun g => { g with flips := g.flips.erase x }, setF fDurable x.port x.step, setEvt .glaze x.port 2]

/-- Waiting writes of a step leave once no flip of an earlier step of their unit is outstanding. -/
def releaseMirror : Eff := fun s =>
  let go (x : MWait) : Bool := (s.flipOf x.port).all fun f => f.step = x.step
  doAll [modGl fun g => { g with mirrorQ := g.mirrorQ.filter fun x => !go x },
    forEach (s.gl.mirrorQ.filter go) fun x => sendL0 0x30 x.data] s

/-- The flips whose unit's writes are all acknowledged leave, one MHDR for each job, slot and step. -/
def sendFlips : Eff := fun s =>
  let ready := s.gl.flips.filter fun x => !x.sent && s.flipOf x.port = some x && s.writesAcked x.port &&
    !(s.gl.mirrorQ.any fun w => w.port = x.port && w.step = x.step)
  let keys := (ready.map fun x => (x.job, x.slot, x.step)).dedup
  doAll [forEach keys (fun k => sendL0 0x31 (leBytes 1 k.1 ++ leBytes 1 k.2.1 ++ leBytes 2 0 ++ leBytes 4 k.2.2 ++
      leBytes 6 (((ready.filter fun x => (x.job, x.slot, x.step) = k).map fun x => 2 ^ x.port).sum) ++ leBytes 2 0)),
    forEach ready (fun x => setAx ⟨.mirrorSlot, x.port, 0⟩ (x.slot + 1)),
    modGl fun g => { g with flips := g.flips.map fun x => if ready.contains x then { x with sent := true } else x }] s

/-- R343, R377: the mirror goes on: flips that are acknowledged make their commits DURABLE, the writes that waited for them leave,
and the flips whose writes are acknowledged leave. -/
def mirrorAdvance : Eff :=
  doAll [look (fun s => s.gl.flips.filter fun x => x.sent && s.flipAcked x.job x.slot) (fun l => forEach l flipDone),
    releaseMirror, sendFlips]

/-- Table 12-4: a job's glaze units go IDLE without a commit: the shadow header is set EMPTY, its data are a free value, and its
writes that still wait for the mirror do not leave. -/
def discardShadow (j n : Nat) : Eff := fun s =>
  doAll [modGl fun g => { g with
      ranges := g.ranges.filter fun r => !(s.jobGlaze j).contains r.port
      votes := g.votes.filter fun v => v.job ≠ j
      mirrorQ := g.mirrorQ.filter fun x => !((s.jobGlaze j).contains x.port && x.step = n) },
    forEach (s.jobGlaze j) (fun p => doAll [
      whenE (fun s => s.shadowOpened p n) (look (fun s => s.shadowSlot p) fun k => doAll [
        fun s => [.storeLost (s.genAddr p 0 k 0) (s.regionSize p k - genData)],
        writeHeader p 0 k n 0 0 s.self, mirrorWrite p k 0 64 n]),
      setF fGlzState p 0])] s

/-- A RECORD message is of step n of job j (R375). -/
def recordFor (j n : Nat) (d : List Byte) : Bool := ofBytes (d.take 1) = j && ofBytes ((d.drop 4).take 4) = n

/-- The RECORDs of a job that a peer entry queues and has sent no frame of are taken out of its class 1; the frames behind them
take their SEQ (R378). -/
def unsendRecords (j : Nat) (x : Peer) : Peer :=
  let begun (f : SentFrame) : Bool := x.frames.any fun g => g.cls = 1 && g.sent && g.fr.msg = f.fr.msg
  let gone (f : SentFrame) : Bool := f.cls = 1 && !f.sent && f.ref % 256 = j && !begun f
  let place (f : SentFrame) : Nat := (f.fr.seq + 2 ^ 32 - x.c1.sBase) % 2 ^ 32
  let n (f : SentFrame) : Nat := (x.frames.filter fun g => gone g && place g < place f).length
  { x with
    c1 := { x.c1 with sNext := (x.c1.sNext + 2 ^ 32 - (x.frames.filter gone).length) % 2 ^ 32 }
    frames := (x.frames.filter fun f => !gone f).map fun f =>
      if f.cls = 1 then { f with fr := { f.fr with seq := (f.fr.seq + 2 ^ 32 - n f) % 2 ^ 32 } } else f }

/-- R328: the RECORDs of an aborted step are discarded: those that wait to be decided, those still coming in, and those queued. -/
def dropRecords (j n : Nat) : Eff := modFb fun b => { b with
  inbox := b.inbox.filter fun m => !(m.typ = 0x10 && recordFor j n m.data)
  peers := b.peers.map fun x => unsendRecords j
    (if x.c1.asm ≠ [] && recordFor j n x.c1.asm then { x with c1 := { x.c1 with stale := true } } else x) }

/-- The pug unit that detects an abort no bucket or feed gives a place: the lowest with a feed of the job, else P0
(DESIGN CHOICE, log entry 21). -/
def State.jobPug (s : State) (j : Nat) : Nat := (s.jobFeeds j).head?.elim 0 fun x => x.1

/-- ABORT_LAST (Table 11-8). -/
def abortLast (u code origin job step : Nat) : Eff := setReg .pug u 0x130
  (BitVec.ofNat 64 (code % 256 + origin % 4096 * 2 ^ 8 + job % 256 * 2 ^ 20 + 2 ^ 31 + step % 2 ^ 32 * 2 ^ 32))

/-- R357: what a step abort does to a kiln of the job. -/
def abortKiln (k : Nat) : Eff := fun s =>
  match s.get fKilnState k with
  | 3 => doAll [flushKiln k, setF fRestart k 1, setF fInStep k 0] s
  | 4 => doAll [flushKiln k, setF fKilnState k 5, setF fInStep k 0,
      finishAll .kiln k 0x13 eOK (BitVec.ofNat 64 (s.ax ⟨.kilnLast, k, 0⟩))] s
  | _ => []

/-- R327 actions 1, 2, 4, 5 for step n of job j: `u` records, with an INFO or a free one; `rcvd` for a broadcast. -/
def abortLocal (j n code u origin : Nat) (info : Option Nat) (rcvd : Bool) : Eff := fun s =>
  doAll [withSome info (recordErrFree .pug u code) (fun i => recordErr .pug u code i),
    abortLast u code origin j n, setEvt .pug u (if rcvd then 4 else 3),
    forEach (s.pg.buckets.filter fun b => b.job = j && 1 ≤ b.state && b.state ≤ 4) (fun b =>
      let b' := { b with state := 6, code := code, vals := [], sum := [] }
      doAll [putBkt b', bktStatus b', whenE (fun _ => b.state = 3) (lastDone b')]),
    feedsEmpty (s.jobFeeds j), dropRecords j n, forEach (s.jobKilns j) abortKiln, discardShadow j n,
    setAx ⟨.stepOpen, j, 0⟩ 0, setAx ⟨.stepAborted, j, 0⟩ (n + 1), setAx ⟨.voted, j, 0⟩ 0] s

/-- R327: the step abort of a job's open step, detected by pug u; nothing where no step is open. -/
def stepAbortAt (j code u : Nat) (info : Option Nat) : Eff := fun s =>
  if s.ax ⟨.stepOpen, j, 0⟩ = 0 then [] else
  let n := s.ax ⟨.stepNo, j, 0⟩
  doAll [castJob j 0x11 (abortBytes j code s.self n), abortLocal j n code u s.self info false] s

/-- The step abort a kiln's fault or ABORT raises (R356, Table 13-2); none after this module voted PREPARED (R407). -/
def stepAbort (j code : Nat) : Eff := fun s =>
  if s.ax ⟨.voted, j, 0⟩ = 1 then [] else stepAbortAt j code (s.jobPug j) none s

/-- A bucket goes FAILED with a code (Table 11-6), and the step aborts. -/
def bktFail (b : Bkt) (code : Nat) (u : Nat) (info : Option Nat) : Eff :=
  let b' := { b with state := 5, code := code, vals := [], sum := [] }
  doAll [putBkt b', bktStatus b', whenE (fun _ => b.state = 3) (lastDone b'), stepAbortAt b.job code u info]

/-! ## The release of a kiln (R355) -/

/-- R381: peer entries of fabric ports without a reference are removed. -/
def dropPeers (refs : List (Nat × Nat × Nat)) (peers : List Peer) : List Peer :=
  peers.filter fun x => 16 ≤ x.port || x.alias_ || refs.any fun r => r.2.1 = x.port && r.2.2 = x.module_

/-- R355: the rectangle, reservations, contexts, log entries and feeds of a kiln are released; its tiles go IDLE. -/
def releaseKiln (k : Nat) : Eff := fun s =>
  let ctxs := s.kilnCtx k
  let wins := s.kilnWins k
  let feeds := s.kilnFeeds k
  doAll [flushCtx k, closeXfers k eABORTED,
    forEach (s.kilnTiles k) (fun t => doAll [setF fInKiln (s.phys t) 0, setF fTileState (s.phys t) 0]),
    forEach ctxs (fun c => doAll [setReg .slip c.1 (0x200 + 0x10 * c.2) 0, setReg .slip c.1 (0x208 + 0x10 * c.2) 0]),
    forEach wins (fun w => setAx ⟨.winKiln, w.1, w.2⟩ 0),
    forEach feeds (fun f => doAll [setF (fFeedValid f.2) f.1 0, setAx ⟨.feedKiln, f.1, f.2⟩ 0]),
    modNet fun n => { n with rsv := n.rsv.filter fun r => r.kiln ≠ k },
    modSl fun l => { l with bud := l.bud.filter fun b => b.kiln ≠ k },
    modFb fun b => { b with refs := b.refs.filter fun r => r.1 ≠ k
                            peers := dropPeers (b.refs.filter fun r => r.1 ≠ k) b.peers },
    setReg .kiln k 0x140 0] s

/-- R330, R355: after the last kiln of a job is unloaded, its buckets are IDLE and its feeds are not in use. -/
def lastKiln (j : Nat) : Eff := fun s =>
  if s.jobKilns j ≠ [] then [] else
  doAll [forEach (s.pg.buckets.filter fun b => b.job = j && b.state ≠ 0) (fun b => doAll [
      storePutOr (b.addr + 48) (leBytes 8 (bktWord6 { b with state := 0 })) (recordErrFree .pug b.chan eECC_UE),
      whenE (fun _ => b.state = 3 || b.state = 5 || b.state = 6) (lastDone b)]),
    modPg fun g => { g with buckets := g.buckets.filter fun b => b.job ≠ j },
    forEach (s.jobFeeds j) (fun f => setF (fFeedValid f.2) f.1 0)] s

/-! ## Kiln faults -/

/-- KILN.FAULT (Table 13-9). -/
def setFault (k code src tile port : Nat) : Eff := setReg .kiln k 0x128
  (BitVec.ofNat 64 (code % 256 + src % 8 * 2 ^ 8 + tile % 65536 * 2 ^ 16 + port % 64 * 2 ^ 32))

/-- CMD_TIME takes the microseconds since a command's admission, and the command completes. -/
def kilnFinish (k op code : Nat) (res : W64) : Eff := fun s =>
  if s.runningOf .kiln k op = [] then [] else
  doAll [setReg .kiln k 0x138 (BitVec.ofNat 64 (min ((s.wcount + 1 - s.ax ⟨.kilnT0, k, 0⟩) / 2400) (2 ^ 32 - 1))),
    finishAll .kiln k op code res] s

/-- The flush of kiln k is complete: its ABORT completes (Table 13-1). -/
def abortDone (k : Nat) : Eff := fun s =>
  if s.runningOf .kiln k 0x14 = [] ∨ (s.kilnTiles k).any (fun t => s.get fTileState (s.phys t) = 6) then []
  else kilnFinish k 0x14 eOK 0 s

/-- BUSY ends. -/
def clearBusy (k : Nat) : Eff := doAll [setF fKilnBusy k 0, setF fBusyOp k 0, setAx ⟨.kilnAddr, k, 0⟩ 0]

/-- Table 13-2: a SWAP_OUT that ends with an error or an ABORT leaves the contents of its slot undefined (free values). -/
def slotLost (k : Nat) : Eff := fun s => [.storeLost (s.ax ⟨.kilnAddr, k, 0⟩ - 1) (s.ax ⟨.kilnAddr, k, 1⟩)]

/-- What Table 13-2 leaves when a LOAD, SWAP_OUT or SWAP_IN in progress ends with an error. -/
def endBusy (k code : Nat) : Eff := fun s =>
  let op := s.get fBusyOp k
  if !s.on fKilnBusy k then [] else
  if op = 0x10 then
    doAll [releaseKiln k, setF fKilnState k 0, setReg .kiln k 0x100 0, clearBusy k, kilnFinish k 0x10 code 0] s
  else if op = 0x15 then doAll [slotLost k, clearBusy k, kilnFinish k 0x15 code 0] s
  else doAll [releaseKiln k, setF fKilnState k 7, clearBusy k, kilnFinish k 0x16 code 0] s

/-- R356, R357, Table 13-2: a fault report reaches kiln k; a STOP that waits ends with its code (DEDUCED, log entry 66). -/
def kilnFault (k code src tile port : Nat) : Eff := fun s =>
  let st := s.get fKilnState k
  if s.on fKilnBusy k then endBusy k code s
  else if st = 3 ∨ st = 4 then
    let j := s.get fKilnJob k
    doAll [setFault k code src tile port, setF fKilnState k 6, setF fInStep k 0, setEvt .kiln k 4,
      whenE (fun _ => st = 4) (finishAll .kiln k 0x13 code 0), flushKiln k,
      whenE (fun s => s.on fKilnJobValid k) (stepAbort j code)] s
  else []

/-- R264, R285, R404: a RUNNING kiln whose bound or rate no longer fits drains to its step boundary. -/
def drainKiln (k code src : Nat) : Eff := fun s =>
  if s.get fKilnState k = 3 then doAll [setFault k code src 0 0, setF fKilnState k 4] s else []

/-- The kiln of a logical tile faults (R131, R356 source 0). -/
def tileFaultsKiln (p code : Nat) : Eff := fun s =>
  match s.geo.carries p with
  | none => []
  | some t => match s.kilnOf t with
    | some k => kilnFault k code 0 t 0 s
    | none => []

/-! ## Engine errors (R131) -/

/-- FAULT_INFO (Table 04-9). -/
def faultWord (pc bank eng op reason : Nat) : Nat :=
  pc % 2048 + bank % 2 * 2 ^ 11 + eng % 8 * 2 ^ 12 + op % 256 * 2 ^ 16 + reason % 16 * 2 ^ 24

/-- The tile meets an engine's error: FAULTED from RUNNING or HALTING, FAULT_INFO naming the instruction; its kiln told. -/
def engineFault (p pc bank eng op code : Nat) (info : Option Nat) : Eff := fun s =>
  let st := s.get fTileState p
  doAll [withSome info (recordErrFree .tile p code) (fun i => recordErr .tile p code i),
    whenE (fun _ => st = 1 ∨ st = 3) (doAll [setReg .tile p 0x540 (BitVec.ofNat 64 (faultWord pc bank eng op 10)),
      setF fTileState p 5, tileFaultsKiln p code])] s

/-- R224, R257: an error the router meets for its tile: FAULT_INFO reads ENGINE 7 and REASON 10, its other fields a free value.
DEDUCED, log entry 56. -/
def localPortFault (p code : Nat) : Eff :=
  drawFree fun w => engineFault p (getBits w 0 11) (getBits w 11 1) 7 (getBits w 16 8) code none

/-! ## The commit point (R341) -/

/-- R341: the commit point of step n of job j on this module. -/
def commitPoint (j n : Nat) : Eff := fun s =>
  doAll [forEach (s.jobGlaze j) (fun p => doAll [
      whenE (fun s => s.shadowOpened p n) (look (fun s => (s.shadowSlot p, s.hdrOwner p 0 (s.shadowSlot p))) fun x =>
        doAll [whenE (fun s => s.on (fGenValid 0) p) (look (fun s => s.get (fCgen 0) p) fun k => fun s =>
            writeHeader p 0 k (s.hdrVer p 0 k) (s.hdrAlt p 0 k) 3 (s.hdrOwner p 0 k) s),
          writeHeader p 0 x.1 n 0 2 x.2, setReg .slip p 0x180 (genWord x.1 1 x.2 0 n)]),
      setF fCommitted p n, setF fGlzState p 0, setEvt .glaze p 1,
      whenE (fun s => s.get fMstate p = 1) (look (fun s => s.get (fCgen 0) p) fun k =>
        modGl fun g => { g with flips := g.flips ++ [⟨p, j, n, k, false⟩] })]),
    forEach pugs16 (fun u => look (fun s => s.get (fLgen j) u) fun x => setF (fLgen j) u (1 - x)),
    modGl fun g => { g with ranges := g.ranges.filter fun r => !(s.jobGlaze j).contains r.port },
    setAx ⟨.stepOpen, j, 0⟩ 0, setAx ⟨.voted, j, 0⟩ 0, mirrorAdvance] s

end Sys2Proof.Machine
end

