-- ==== Sys2Proof/Machine/Net.lean ====
section
/-! DEFINITION. The wafer network (chapter 09): packets, forwarding with detours and multicast, delivery checks,
combine sets, credits and notices. -/

namespace Sys2Proof.Machine

/-! ## Fields of the ROUTER page (Tables 09-9 to 09-12) -/

def fRtStat : Fld := ⟨.router, 0x010, 0, 1⟩
def fCoSet : Fld := ⟨.router, 0x110, 0, 4⟩
def fCoValid : Fld := ⟨.router, 0x110, 4, 1⟩
def fRaType (r : Nat) : Fld := ⟨.router, 0x120 + 0x10 * r, 0, 4⟩
def fRaCone (r : Nat) : Fld := ⟨.router, 0x120 + 0x10 * r, 4, 3⟩
def fRaValid (r : Nat) : Fld := ⟨.router, 0x120 + 0x10 * r, 7, 1⟩
def fRaDx (r : Nat) : Fld := ⟨.router, 0x120 + 0x10 * r, 8, 8⟩
def fRaDy (r : Nat) : Fld := ⟨.router, 0x120 + 0x10 * r, 16, 8⟩
def fRaX2 (r : Nat) : Fld := ⟨.router, 0x120 + 0x10 * r, 24, 8⟩
def fRaY2 (r : Nat) : Fld := ⟨.router, 0x120 + 0x10 * r, 32, 8⟩
def fRaStream (r : Nat) : Fld := ⟨.router, 0x120 + 0x10 * r, 40, 3⟩
def fRaExitEn (r : Nat) : Fld := ⟨.router, 0x120 + 0x10 * r, 43, 1⟩
def fRaExit (r : Nat) : Fld := ⟨.router, 0x120 + 0x10 * r, 44, 2⟩
def fRbRate (r : Nat) : Fld := ⟨.router, 0x128 + 0x10 * r, 0, 10⟩
def fRbLimit (r : Nat) : Fld := ⟨.router, 0x128 + 0x10 * r, 48, 16⟩
def fCombIn (c : Nat) : Fld := ⟨.router, 0x180 + 8 * c, 0, 5⟩
def fCombOut (c : Nat) : Fld := ⟨.router, 0x180 + 8 * c, 5, 3⟩
def fCombExit (c : Nat) : Fld := ⟨.router, 0x180 + 8 * c, 8, 2⟩
def fCombOutSet (c : Nat) : Fld := ⟨.router, 0x180 + 8 * c, 10, 4⟩
def fCombCone (c : Nat) : Fld := ⟨.router, 0x180 + 8 * c, 14, 3⟩
def fCombValid (c : Nat) : Fld := ⟨.router, 0x180 + 8 * c, 17, 1⟩
def fCombRate (c : Nat) : Fld := ⟨.router, 0x180 + 8 * c, 18, 10⟩
def fCombSteps (c : Nat) : Fld := ⟨.router, 0x180 + 8 * c, 32, 16⟩
def fCombBroken (c : Nat) : Fld := ⟨.router, 0x180 + 8 * c, 48, 1⟩
def fCombLimit (c : Nat) : Fld := ⟨.router, 0x180 + 8 * c, 49, 15⟩
def fRtExcFirstValid : Fld := ⟨.router, 0x348, 31, 1⟩
def fFencedDrops : Fld := ⟨.router, 0x350, 0, 16⟩
def fSagDrops : Fld := ⟨.router, 0x350, 16, 16⟩
def fStateDrops : Fld := ⟨.router, 0x350, 32, 16⟩
def fNoticeSupp : Fld := ⟨.router, 0x350, 48, 16⟩
def fLinesOut (o : Nat) : Fld := ⟨.router, 0x360 + 8 * o, 0, 48⟩
def fCtrlOut : Fld := ⟨.router, 0x388, 0, 48⟩

/-- The number of a side: 0 N, 1 E, 2 S, 3 W, 4 L. -/
def Dir.num : Dir → Nat
  | .n => 0 | .e => 1 | .s => 2 | .w => 3 | .l => 4

/-- The side of a number. -/
def dirOf : Nat → Dir
  | 0 => .n | 1 => .e | 2 => .s | 3 => .w | _ => .l

/-- The opposite side. -/
def Dir.opp : Dir → Dir
  | .n => .s | .s => .n | .e => .w | .w => .e | .l => .l

/-- The logical neighbour of (x, y) on a side. -/
def neigh (x y : Nat) : Dir → Nat × Nat
  | .n => (x, y - 1) | .s => (x, y + 1) | .e => (x + 1, y) | .w => (x - 1, y) | .l => (x, y)

/-! ## Packets -/

/-- Bits [31:0] of a header (Table 09-3). -/
def Hdr.low (h : Hdr) : Nat :=
  h.typ % 16 + h.cone % 8 * 2 ^ 4 + (h.lines - 1) % 16 * 2 ^ 7 + h.dx % 256 * 2 ^ 11 + h.dy % 256 * 2 ^ 19 + h.sx % 32 * 2 ^ 27

/-- A logical tile as X and Y. -/
def tileX (t : Nat) : Nat := t % 192
def tileY (t : Nat) : Nat := t / 192

/-- A flit enters the network at an input port of the router of physical tile p: its first leg goes to the destination, or to the
entry point of a multicast (R253); it may leave at once. -/
def flitAt (p : Nat) (inp : Dir) (h : Hdr) (ctrl head tail : Bool) (line : List Byte) (epoch : Nat) (root : Bool) (feed : Nat) :
    Flit :=
  let clamp (v a b : Nat) : Nat := max a (min v b)
  { h := h, ctrl := ctrl, head := head, tail := tail, line := line, at_ := p, inp := inp,
    tx := if h.typ = 1 then clamp h.sx h.dx h.x2 else h.dx,
    ty := if h.typ = 1 then clamp h.sy h.dy h.y2 else h.dy,
    ly := h.sy, epoch := epoch, root := root, feed := feed }

/-- A flit put into the network, behind those already there. -/
def inject (f : Flit) : Eff := modNet fun n => { n with flits := n.flits ++ [f] }

/-- The token buckets (R245): of the program of a physical tile, of its router, of an edge link. -/
def bktProgram (p : Nat) : Nat := 3 * p
def bktRouter (p : Nat) : Nat := 3 * p + 1
def bktEdge (port link : Nat) : Nat := 3 * (port * 16 + link) + 2

/-- R245: a bucket holds a token: at most 8, one more every 8 cycles. -/
def State.token (s : State) (b : Nat) : Bool := s.ax ⟨.bucket, b, 0⟩ ≤ s.wcount + 56

/-- A token taken. -/
def takeToken (b : Nat) : Eff := fun s => setAx ⟨.bucket, b, 0⟩ (max (s.ax ⟨.bucket, b, 0⟩) s.wcount + 8) s

/-- A control packet put at its source, where it waits for a token of a bucket. -/
def injectCtrl (p : Nat) (inp : Dir) (bkt : Nat) (h : Hdr) (root : Bool) (feed : Nat) : Eff := fun s =>
  inject { flitAt p inp h true true true [] (s.get fEpoch 0) root feed with wait := bkt + 1 } s

/-- A control packet of physical router p, whose tile is (x, y), to tile d. -/
def ctrlFrom (p : Nat) (at' : Nat × Nat) (bkt d typ arg feed : Nat) (exitEn : Bool) : Eff := fun s =>
  injectCtrl p .l bkt {
    typ := typ, dx := tileX d, dy := tileY d, sx := at'.1, sy := at'.2, sag := s.get fOwnSag p
    kiln := s.get fOwnKiln p, arg := arg, exitEn := exitEn } false feed s

/-- A control packet from the router of tile t (logical) to tile d. -/
def sendCtrl (t bkt d typ arg feed : Nat) (exitEn : Bool) : Eff := fun s =>
  ctrlFrom (s.phys t) (tileX t, tileY t) bkt d typ arg feed exitEn s

/-- A flit removed from the network. -/
def dropFlit (i : Nat) : Eff := modNet fun n => { n with flits := n.flits.eraseIdx i }

/-! ## Credits (R260) -/

/-- The rectangle of a feeder's multicast: first and last column, first and last row; none for another feeder. -/
def State.feedRect (s : State) (feed : Nat) : Option (Nat × Nat × Nat × Nat) :=
  let x := feed / 3
  match feed % 3 with
  | 0 =>
    let p := x / 8
    let r := x % 8
    if s.get (fRaType r) p = 1 then some (s.get (fRaDx r) p, s.get (fRaX2 r) p, s.get (fRaDy r) p, s.get (fRaY2 r) p) else none
  | 1 =>
    let d := x % 2 ^ 32 / 2
    let r := (d / 180 / 192 / 180, d / 180 % 192, d / 180 / 192 % 180, d % 180)
    if r.1 = r.2.1 ∧ r.2.2.1 = r.2.2.2 then none else some r
  | _ => none

/-- The tile a feeder's credits go to. -/
def State.feedDest (s : State) (feed : Nat) : Option Nat :=
  let x := feed / 3
  match feed % 3 with
  | 0 => s.geo.carries (x / 8)
  | 1 =>
    let e := edgeTile (x / 2 ^ 32 / 16) (s.ax ⟨.feedLink, feed, 0⟩)
    some (e.2 * 192 + e.1)
  | _ => s.geo.carries (x / 16)

/-- R253: the branch of a multicast's tree by which tile t is fed, seen from the tile before it: that tile and the side toward t;
none at the entry point, which the feeder itself feeds. -/
def treeUp (r : Nat × Nat × Nat × Nat) (src t : Nat) : Option (Nat × Dir) :=
  let xe := max r.1 (min (tileX src) r.2.1)
  let ye := max r.2.2.1 (min (tileY src) r.2.2.2)
  let x := tileX t
  let y := tileY t
  if y < ye then some (t + 192, .n) else if ye < y then some (t - 192, .s)
  else if x < xe then some (t + 1, .w) else if xe < x then some (t - 1, .e) else none

/-- The branches of a multicast's tree at tile t, its own delivery among them. -/
def treeDown (r : Nat × Nat × Nat × Nat) (src t : Nat) : List Dir :=
  let own : List Dir := if r.1 ≤ tileX t ∧ tileX t ≤ r.2.1 ∧ r.2.2.1 ≤ tileY t ∧ tileY t ≤ r.2.2.2 then [.l] else []
  own ++ [Dir.n, .e, .s, .w].filter fun d =>
    let n := neigh (tileX t) (tileY t) d
    r.1 ≤ n.1 && n.1 ≤ r.2.1 && r.2.2.1 ≤ n.2 && n.2 ≤ r.2.2.2 && decide (treeUp r src (n.2 * 192 + n.1) = some (t, d))

/-- R260, R307: chunks added to a CREDIT of a feeder that waits for its token at router p on its way to tile d, or else a new
one. -/
def joinCredit (p d feed chunks : Nat) (new : Eff) : Eff := fun s =>
  let same (g : Flit) : Bool := g.at_ = p && g.h.typ = 5 && g.wait ≠ 0 && g.feed = feed && g.h.dx = tileX d && g.h.dy = tileY d &&
    g.h.arg / 256 + chunks ≤ 255
  if s.net.flits.any same then
    modNet (fun n => { n with flits := n.flits.map fun g => if same g then { g with h := { g.h with arg := g.h.arg + chunks * 256 } } else g }) s
  else new s

/-- A CREDIT of tile t toward tile d. -/
def sendCredit (t d feed chunks : Nat) : Eff := fun s =>
  joinCredit (s.phys t) d feed chunks (sendCtrl t (bktRouter (s.phys t)) d 5 (feed / 3 % 8 + chunks * 256) feed false) s

/-- The chunks of a branch that a router holds for a multicast. -/
def State.merged (s : State) (p feed : Nat) (br : Dir) : Nat :=
  ((s.net.merges.filter fun m => m.p = p && m.feed = feed && m.br = br).map fun m => m.chunks).sum

/-- R260: chunks that a branch of a multicast returns at tile t: what every branch of the router has, goes on upstream. -/
def mergeAt (t feed src : Nat) (r : Nat × Nat × Nat × Nat) (br : Dir) (chunks : Nat) : Eff := fun s =>
  let p := s.phys t
  let brs := treeDown r src t
  let n (d : Dir) : Nat := s.merged p (feed - 1) d + if d = br then chunks else 0
  let low := (brs.map n).foldl min (n br)
  let left : List Merge := brs.filterMap fun d => if n d - low = 0 then none else some ⟨p, feed - 1, d, n d - low⟩
  doAll [modNet (fun m => { m with merges := (m.merges.filter fun x => !(x.p = p && x.feed = feed - 1)) ++ left }),
    whenE (fun _ => low ≠ 0) (sendCredit t (match treeUp r src t with | some u => u.1 | none => src) feed low)] s

/-- R260: n lines of ring q of tile t are free again: whole chunks of 16 go back toward the ring's feeder. -/
def creditBack (t q n : Nat) : Eff := fun s =>
  let p := s.phys t
  let feed := s.ax ⟨.ringFeed, p, q⟩
  if feed = 0 ∨ 6 ≤ q then [] else
  let freed := s.ax ⟨.ringFreed, p, q⟩ + n
  doAll [setAx ⟨.ringFreed, p, q⟩ (freed % 16),
    whenE (fun _ => 16 ≤ freed) (withSome (s.feedDest (feed - 1)) skip fun d =>
      match s.feedRect (feed - 1) with
      | some r => mergeAt t feed d r .l (freed / 16)
      | none => sendCredit t d feed (freed / 16))] s

/-! ## Notices (R266) -/

/-- The index of the source tile of a flit. -/
def Flit.src (f : Flit) : Nat := f.h.sy * 192 + f.h.sx

/-- Where a physical router stands, logically; one that carries no logical tile has no x of its own, and the packet's takes its
place (DESIGN CHOICE, log entry 116). -/
def State.routerXY (s : State) (p : Nat) (f : Flit) : Nat × Nat :=
  match s.geo.carries p with
  | some t => (tileX t, tileY t)
  | none => (f.tx, p / 200)

/-- R266: a NOTICE of a physical router to a packet's source, at most one for a stream in any 64 CK_NET cycles. -/
def sendNotice (p code : Nat) (f : Flit) : Eff := fun s =>
  let key := (f.src * 16 + f.h.typ) * 16 + (if f.h.typ = 2 then f.h.set else f.h.stream)
  let d := if f.h.exitEn ∨ f.h.typ = 1 then f.ty * 192 + f.tx else f.h.dy * 192 + f.h.dx
  let last := s.ax ⟨.noticeAt, p, key⟩
  if last ≠ 0 ∧ s.wcount + 1 < last + 64 then addSat fNoticeSupp p 1 s
  else doAll [setAx ⟨.noticeAt, p, key⟩ (s.wcount + 1),
    ctrlFrom p (s.routerXY p f) (bktRouter p) f.src 4
      (code + f.h.typ * 2 ^ 8 + (if f.h.typ = 2 then f.h.set else f.h.stream) % 16 * 2 ^ 12 + d * 2 ^ 16)
      (if f.h.rim then 1 else 0) false] s

/-! ## Forwarding (R249–R253) -/

/-- LINES_OUT or CTRL_OUT of a router, while STAT_EN. -/
def countOut (p : Nat) (f : Flit) (d : Dir) : Eff :=
  whenE (fun s => s.on fRtStat p) (if f.ctrl then addSat fCtrlOut p 1 else addSat (fLinesOut d.num) p 1)

/-- The branches of a multicast at one of its routers (R253): the sides it goes on to. -/
def Flit.branches (f : Flit) : List (Dir × Nat) :=
  (if f.br ≤ 1 ∧ f.tx < f.h.x2 then [(.e, 1)] else []) ++ (if (f.br = 0 ∨ f.br = 2) ∧ f.h.dx < f.tx then [(.w, 2)] else []) ++
  (if f.br ≤ 3 ∧ f.h.dy < f.ty then [(.n, 3)] else []) ++ (if (f.br ≤ 2 ∨ f.br = 4) ∧ f.ty < f.h.y2 then [(.s, 4)] else [])

/-- The copies a multicast flit makes at one of its routers, one toward each branch. -/
def Flit.copies (f : Flit) : List Flit :=
  f.branches.map fun d =>
    let n := neigh f.tx f.ty d.1
    { f with tx := n.1, ty := n.2, ly := f.ty, br := d.2 }

/-- The flit at place i replaced by a list. -/
def putFlits (i : Nat) (fs : List Flit) : Eff := modNet fun n => { n with flits := n.flits.take i ++ fs ++ n.flits.drop (i + 1) }

/-- What a flit does next at its router: its route is broken, it is at the end of its leg, it goes on by a side to a router with
these moves of a detour to make there, or its way leaves the square. -/
inductive Fwd where
  | broken
  | arrived
  | go (d : Dir) (q : Nat) (ds : List Dir)
  | off
  deriving DecidableEq, Repr

/-- The next hop of a flit (R249–R252). -/
def State.fwd (s : State) (f : Flit) : Fwd :=
  let here : Pos := (f.at_ % 200, f.at_ / 200)
  let step (d : Dir) (ds : List Dir) : Fwd := match hop here d with
    | some q => .go d (posIdx q) ds
    | none => .off
  match f.todo with
  | d :: ds => step d ds
  | [] => match s.geo.moves here f.tx f.ty f.ly with
    | none => .broken
    | some ([], _) => .arrived
    | some (d :: ds, _) => step d ds

/-- The outputs a flit needs at once: those of all its branches for a multicast. -/
def State.outsOf (s : State) (f : Flit) : List Dir :=
  match s.fwd f with
  | .go d _ _ => [d]
  | .arrived =>
    if f.h.typ = 1 then .l :: f.copies.filterMap fun g => match s.fwd g with | .go d _ _ => some d | _ => none
    else if f.h.exitEn then [dirOf f.h.exit] else [.l]
  | _ => []

/-! ### Buffers (R247) -/

/-- The flits in a buffer of an input port of a router: of a lane, of the detour buffer or not. -/
def State.buffered (s : State) (p : Nat) (d : Dir) (ctrl det : Bool) : List Flit :=
  s.net.flits.filter fun g => g.at_ = p && g.inp = d && g.ctrl = ctrl && (g.todo ≠ [] : Bool) = det && g.br ≠ 5 && g.wait = 0

/-- The sum of the rates of one cone on a port, A_c. -/
def coneSum (l : List Rsv) (p kind cone : Nat) : Nat :=
  ((l.filter fun r => r.p = p && r.kind = kind && r.cone = cone).map fun r => r.rate).sum

/-- R247: an input port has room for a flit: 8 lines and 2 control flits on a detour, 8 control flits, and 128 lines, of which every
cone has 2 × A_c for itself (R261).  What no reservation claims serves any cone.  DESIGN CHOICE, log entry 115. -/
def State.roomIn (s : State) (p : Nat) (d : Dir) (ctrl det root : Bool) (cone : Nat) : Bool :=
  let l := s.buffered p d ctrl det
  if det then l.length < (if ctrl then 2 else 8)
  else if ctrl then l.length < 8
  else l.length < 128 && (root || (l.filter fun g => g.h.cone = cone).length +
    (([1, 2, 3, 4, 5, 6, 7].filter (· ≠ cone)).map fun c => 2 * coneSum s.net.rsv p (5 + d.num) c).sum < 128)

/-- Every router a flit goes to next has room for it. -/
def State.roomAhead (s : State) (f : Flit) : Bool :=
  let ok (g : Flit) : Bool := match s.fwd g with
    | .go d q ds => s.roomIn q d.opp g.ctrl (ds ≠ []) g.root g.h.cone
    | _ => true
  match s.fwd f with
  | .arrived => f.h.typ ≠ 1 || f.copies.all ok
  | _ => ok f

/-! ### Outputs (R245, R246) -/

/-- A half's CK_NET runs at 1.2 GHz. -/
def State.netSlow (s : State) (half : Nat) : Bool := s.on ⟨.clk, 0x100, 1, 1⟩ (half + 1)

/-- The half a physical position lies in: 0 west, 1 east. -/
def halfOf (p : Nat) : Nat := if p % 200 < 100 then 0 else 1

/-- The cycles of a frame of a cone, twice as many in a slow half (R246, R264). -/
def frameLen (slow : Bool) (cone : Nat) : Nat := 2 ^ (cone + 2) * if slow then 2 else 1

/-- R246: a line that reaches an output of router p now is eligible at the start of its cone's next frame. -/
def State.dueAt (s : State) (p cone : Nat) : Nat :=
  let n := frameLen (s.netSlow (halfOf p)) cone
  (s.wcount / n + 1) * n

/-- The rank of a control flit at an output: by injection, then by input port (R245). -/
def Flit.rank (f : Flit) : Nat := f.due * 5 + f.inp.num

/-- The header without what differs between packets of one stream. -/
def Hdr.stream0 (h : Hdr) : Hdr := { h with lines := 0, arg := 0 }

/-- R248: an earlier flit of the same stream, or packet of the same bucket, stands before this one at the same router. -/
def State.behind (s : State) (i : Nat) (f : Flit) : Bool :=
  (s.net.flits.take i).any fun g => g.at_ = f.at_ && g.ctrl = f.ctrl && g.br = f.br &&
    (g.h.stream0 = f.h.stream0 || (f.wait ≠ 0 && g.wait = f.wait))

/-- Another flit goes first at an output: of a control lane an older one, of a data lane one of a lower cone that is eligible and has
room ahead (R245, R246). -/
def State.outRank (s : State) (i : Nat) (f : Flit) (d : Dir) : Bool :=
  s.net.flits.zipIdx.any fun x =>
    let g := x.1
    x.2 ≠ i && g.at_ = f.at_ && g.ctrl = f.ctrl && g.br ≠ 5 && g.wait = 0 &&
    (if f.ctrl then g.rank < f.rank || (g.rank = f.rank && x.2 < i) else g.due ≤ s.wcount && g.h.cone < f.h.cone) &&
    (s.outsOf g).contains d && s.roomAhead g

/-- R470: background work may send a line on an output: one in a frame of cone 4, 15 in any 1,024 cycles. -/
def State.bgRoom (s : State) (key : Nat) : Bool :=
  let l := s.net.bg.filter fun x => x.1 = key && s.wcount < x.2 + 1024
  l.length < 15 && l.all fun x => x.2 / 64 ≠ s.wcount / 64

/-- R245, R246: output d of its router serves a flit now: one flit a cycle on each lane; a line is eligible, no packet of its cone
holds the output, and background work stays in its share. -/
def State.outServes (s : State) (i : Nat) (f : Flit) (d : Dir) : Bool :=
  s.ax ⟨.outAt, f.at_ * 8 + d.num, if f.ctrl then 1 else 0⟩ ≠ s.wcount + 1 && !s.outRank i f d &&
  (f.ctrl || (f.due ≤ s.wcount &&
    (!s.net.holds.any fun x => x.p = f.at_ && x.out = d && x.h.cone = f.h.cone && !(x.inp = f.inp && x.h = f.h)) &&
    (!f.root || s.bgRoom (f.at_ * 8 + d.num))))

/-- A flit leaves its router by outputs: they are used for this cycle, and a packet holds them until its TAIL. -/
def useOuts (f : Flit) (ds : List Dir) : Eff := fun s =>
  doAll [forEach ds (fun d => doAll [countOut f.at_ f d, setAx ⟨.outAt, f.at_ * 8 + d.num, if f.ctrl then 1 else 0⟩ (s.wcount + 1)]),
    whenE (fun _ => !f.ctrl) (modNet fun n => { n with
      holds := if f.tail then n.holds.filter fun x => !(x.p = f.at_ && x.inp = f.inp && x.h = f.h)
        else if f.head then n.holds ++ ds.map fun d => ⟨f.at_, d, f.inp, f.h⟩ else n.holds
      bg := if f.root then (n.bg.filter fun x => s.wcount < x.2 + 1024) ++ ds.map fun d => (f.at_ * 8 + d.num, s.wcount) else n.bg })] s

/-- A flit at the router it goes on to. -/
def State.arriveAt (s : State) (f : Flit) (d : Dir) (q : Nat) (ds : List Dir) : Flit :=
  { f with at_ := q, inp := d.opp, todo := ds, due := if f.ctrl then f.due else s.dueAt q f.h.cone }

/-- A flit discarded in the network: its packet holds no output. -/
def discardFlit (i : Nat) (f : Flit) : Eff :=
  doAll [dropFlit i, modNet fun n => { n with holds := n.holds.filter fun x => x.h ≠ f.h }]

/-- A line that leaves the square joins its packet at the edge interface, or starts one (R251). -/
def edgeTake (port link : Nat) (f : Flit) (l : List EdgePkt) : List EdgePkt :=
  if f.head then l ++ [⟨port, link, f.h, f.epoch, f.root, f.feed, f.tail, [f.line]⟩]
  else
    let rec go : List EdgePkt → List EdgePkt
      | [] => []
      | e :: es => if !e.full && e.port = port && e.link = link && e.h = f.h
          then { e with lines := e.lines ++ [f.line], full := f.tail } :: es else e :: go es
    go l

/-- R20, R271: an edge link carries traffic: it is enabled, and its port is not OFFLINE. -/
def State.linkUse (s : State) (port link : Nat) : Bool := s.geo.linkOn port link && s.get fSlipState port ≠ 3

/-- A flit leaves the square: a host signal goes to the arbiter (R64), a data line to its port's edge interface.  On a link that
carries no traffic it stays (R20, R271; DESIGN CHOICE, log entry 117). -/
def leave (i : Nat) (f : Flit) : Eff := fun s =>
  match edgeOf f.tx f.ty (dirOf f.h.exit) with
  | none => discardFlit i f s
  | some (port, link) =>
    if !s.linkUse port link then [] else
    doAll [useOuts f [dirOf f.h.exit], dropFlit i,
      if f.h.typ = 3 then modHi fun h => { h with signals := h.signals ++ [⟨f.h.kiln, f.h.arg % 64, f.h.arg / 64 % 256⟩] }
      else if f.ctrl then skip
      else modNet fun n => { n with edge := edgeTake port link f n.edge }] s

/-- A multicast at the end of a leg: a copy goes on toward every branch, one stands for delivery; a branch whose route is broken is
dropped with its notice. -/
def branchOut (i : Nat) (f : Flit) : Eff := fun s =>
  doAll [useOuts f (s.outsOf f),
    putFlits i ((f.copies.filterMap fun g => match s.fwd g with | .go d q ds => some (s.arriveAt g d q ds) | _ => none) ++ [{ f with br := 5 }]),
    forEach (f.copies.filter fun g => s.fwd g = .broken) (sendNotice f.at_ eFENCED)] s

/-- R241, R243: reserved bits, a reserved TYPE, or a lane its TYPE does not allow. -/
def Flit.malformed (f : Flit) : Bool :=
  f.h.rsvd ≠ 0 || 7 ≤ f.h.typ || (f.ctrl && (f.h.typ = 0 || f.h.typ = 2)) || (!f.ctrl && 3 ≤ f.h.typ)

/-- A flit that has its token, if it needs one: what its router does with it (R249–R253). -/
def routeFlit (i : Nat) (f : Flit) : Eff := fun s =>
  if f.malformed then doAll [discardFlit i f, recordErrFree .router f.at_ eARG, addSat fStateDrops f.at_ 1] s
  else if !(s.outsOf f).all (s.outServes i f) ∨ !s.roomAhead f then []
  else match s.fwd f with
    | .broken => doAll [discardFlit i f, sendNotice f.at_ eFENCED f] s
    | .off => []
    | .go d q ds => doAll [useOuts f [d], putFlits i [s.arriveAt f d q ds]] s
    | .arrived =>
      if f.h.typ = 1 then branchOut i f s
      else if f.h.exitEn then leave i f s
      else doAll [useOuts f [.l], putFlits i [{ f with br := 5 }]] s

/-- A line that waits at an edge interface passes the edge link, if the router's input has room for it and, of background work, the
link's share is not used up (R247, R470). -/
def edgeIn (i : Nat) (f : Flit) : Eff := fun s =>
  let key := 8 * 36000 + f.wait
  if !s.roomIn f.at_ f.inp false false f.root f.h.cone ∨ (f.root ∧ !s.bgRoom key) then []
  else doAll [putFlits i [{ f with wait := 0, due := s.dueAt f.at_ f.h.cone }],
    whenE (fun _ => f.root) (modNet fun n => { n with bg := (n.bg.filter fun x => s.wcount < x.2 + 1024) ++ [(key, s.wcount)] })] s

/-- ROUTER_FORWARD: the router at which flit i stands sends it on by one hop, along a detour or its route; at the end of
a leg a multicast branches, an EXIT leaves the square, and anything else stands for delivery (R249–R253).  A control packet at its
source first takes a token (R245).  DESIGN CHOICE, log entry 17. -/
def effRouterForward (i : Nat) : Eff := fun s =>
  match s.net.flits[i]? with
  | none => []
  | some f =>
    if f.br = 5 ∨ s.geoLive.deadRouters.contains f.at_ ∨ s.behind i f then []
    else if f.wait = 0 then routeFlit i f s
    else if !f.ctrl then edgeIn i f s
    else if !s.token (f.wait - 1) then []
    else
      let g := { f with wait := 0, due := s.wcount }
      doAll [takeToken (f.wait - 1), putFlits i [g], routeFlit i g] s

def execRouterForward (i : Nat) (s : State) : Host.Outcome State Fault Refusal := .next ((effRouterForward i).run s)

/-! ## Delivery (R266, Table 09-7) -/

/-- The tile's compute takes no delivery: fenced, without a logical tile, off or waking. -/
def State.tileOff (s : State) (p : Nat) : Bool :=
  s.ax ⟨.tilePwr, p, 0⟩ ≠ 2 || match s.geo.carries p with | some t => s.geo.outOfUse t | none => true

/-- R432: the saggar a router checks a flit against. -/
def State.ownerSag (s : State) (p : Nat) (f : Flit) : Nat :=
  match s.sg.change with
  | some c => if c.kind = 0 && c.idx = s.get fOwnKiln p && c.installed && f.epoch ≠ s.get fEpoch 0
      then getBits c.old0 0 6 else s.get fOwnSag p
  | none => s.get fOwnSag p

/-- A dropped line returns its credit at once (R266): as if popped from ring q. -/
def dropCredit (t q : Nat) (f : Flit) : Eff := fun s =>
  if f.feed = 0 ∨ 6 ≤ q then [] else doAll [setAx ⟨.ringFeed, s.phys t, q⟩ f.feed, creditBack t q 1] s

/-- The first check of Table 09-7 that fails, 1–3. -/
def State.deliverFail (s : State) (p : Nat) (f : Flit) (fence : Bool) : Nat :=
  if fence && s.tileOff p then 1
  else if !s.on fInKiln p then 2
  else if !f.h.rim && f.h.sag ≠ s.ownerSag p f then 3 else 0

/-- A failed delivery check: counted, its event, a denial for SAGGAR (R429), and a NOTICE. -/
def deliverDrop (t p : Nat) (f : Flit) (fail : Nat) : Eff := fun s =>
  match fail with
  | 1 => doAll [addSat fFencedDrops p 1, setEvt .router p 0, sendNotice p eFENCED f] s
  | 3 => doAll [addSat fSagDrops p 1, setEvt .router p 1, deny 3 f.h.sag (s.ownerSag p f) true t,
      sendNotice p eSAGGAR f] s
  | _ => doAll [addSat fStateDrops p 1, sendNotice p eSTATE f] s

/-- A COMB line joins its packet at input d of a set, or starts one. -/
def combTake (p set : Nat) (d : Dir) (f : Flit) (l : List CombIn) : List CombIn :=
  if f.head then l ++ [⟨p, set, d, f.h, f.epoch, f.tail, [f.line]⟩]
  else
    let rec go : List CombIn → List CombIn
      | [] => []
      | e :: es => if !e.full && e.p = p && e.set = set && e.dir = d
          then { e with lines := e.lines ++ [f.line], full := f.tail } :: es else e :: go es
    go l

/-- The input of a combine set a packet comes from: the side of its source. -/
def combDir (t : Nat) (f : Flit) : Dir :=
  if f.src = t then .l else if f.h.sy < tileY t then .n else if tileY t < f.h.sy then .s
  else if tileX t < f.h.sx then .e else .w

/-- PACKET_DELIVER: the line at place i is checked and delivered into its ring or its combine set, or dropped. -/
def effPacketDeliver (i : Nat) : Eff := fun s =>
  match s.net.flits[i]? with
  | none => []
  | some f =>
    match s.geo.carries f.at_ with
    | none => []
    | some t =>
      let p := f.at_
      if f.br ≠ 5 ∨ f.ctrl ∨ 3 ≤ f.h.typ ∨ s.behind i f ∨ (f.h.rim ∧ f.h.typ = 0 ∧ f.h.stream < 4) then []
      else if f.h.typ = 2 then
        let fail := s.deliverFail p f false
        if fail ≠ 0 then doAll [dropFlit i, deliverDrop t p f fail] s
        else if !s.on (fCombValid f.h.set) p ∨ s.get (fCombIn f.h.set) p / 2 ^ (combDir t f).num % 2 = 0 then
          doAll [dropFlit i, deliverDrop t p f 4] s
        else doAll [dropFlit i, modNet fun n => { n with combIn := combTake p f.h.set (combDir t f) f n.combIn }] s
      else
        let q := f.h.stream
        let fail := s.deliverFail p f true
        if fail ≠ 0 then doAll [dropFlit i, deliverDrop t p f fail, dropCredit t q f] s
        else if 6 ≤ q ∨ !s.on (fQEnable q) p then doAll [dropFlit i, deliverDrop t p f 4, dropCredit t q f] s
        else if s.ringSize p q ≤ s.ringTaken p q then []
        else doAll [dropFlit i, served p 6, ringPush1 p q f.line, setAx ⟨.ringFeed, p, q⟩ f.feed] s

def execPacketDeliver (i : Nat) (s : State) : Host.Outcome State Fault Refusal := .next ((effPacketDeliver i).run s)

/-! ## Combine sets (R255–R257) -/

/-- One FP32 addition with its exceptions (R80, R81, R93). -/
def addF32 (a b : FV) : FV := fvOp [a, b] ((f32 a.1).add (f32 b.1))

/-- Element i of a line. -/
def lineElem (l : List Byte) (i : Nat) : W32 := BitVec.ofNat 32 (ofBytes ((l.drop (4 * i)).take 4))

/-- R256: the lines of one combine step added in port order, each element with its exceptions. -/
def combineLine : List (List Byte) → List (W32 × Fl)
  | [] => []
  | l :: ls => (List.range 16).map fun i => ls.foldl (fun a m => addF32 a (lineElem m i, {})) (lineElem l i, {})

/-- The classes of an element as bits (Table 09-12). -/
def flBits (f : Fl) : Nat :=
  (if f.nan then 1 else 0) + (if f.inv then 2 else 0) + (if f.ovf then 4 else 0) + (if f.sat then 8 else 0)

/-- R257: the exceptions of a combine step: counted, the first recorded. -/
def combExc (p set : Nat) (res : List (List (W32 × Fl))) : Eff := fun s =>
  forEach ((res.zipIdx.flatMap fun l => l.1.zipIdx.map fun e => (l.2, e.2, e.1.2)).filter fun x => x.2.2 ≠ {}) (fun x =>
    doAll [countFl .router 0x340 p x.2.2 1,
      whenE (fun s => !s.on fRtExcFirstValid p) (doAll [setReg .router p 0x348
        (BitVec.ofNat 64 (set + flBits x.2.2 * 2 ^ 4 + x.2.1 * 2 ^ 8 + x.1 % 16 * 2 ^ 12
          + s.get (fCombSteps set) p % 2 ^ 15 * 2 ^ 16 + 2 ^ 31)), setEvt .router p 2])]) s

/-- The configured inputs of a set in port order. -/
def State.combInputs (s : State) (p set : Nat) : List Dir :=
  [Dir.n, .e, .s, .w, .l].filter fun d => s.get (fCombIn set) p / 2 ^ d.num % 2 = 1

/-- The first whole packet at an input. -/
def State.combFirst (s : State) (p set : Nat) (d : Dir) : Option CombIn :=
  s.net.combIn.find? fun c => c.p = p && c.set = set && c.dir = d && c.full

/-- COMB_STEP: every configured input of a set has its packet: they are added in fixed order and one packet goes out;
packets that differ in LINES break the set. -/
def effCombStep (t set : Nat) : Eff := fun s =>
  let p := s.phys t
  let ins := s.combInputs p set
  let pk := ins.filterMap fun d => s.combFirst p set d
  if !s.on (fCombValid set) p ∨ s.on (fCombBroken set) p ∨ ins = [] ∨ pk.length ≠ ins.length then [] else
  let n := (pk.head?.elim 0 fun c => c.lines.length)
  let taken : Eff := modNet fun m => { m with combIn := pk.foldl (fun l c => l.erase c) m.combIn }
  if pk.any fun c => c.lines.length ≠ n then
    doAll [taken, setF (fCombBroken set) p 1, recordErr .router p eARG set, localPortFault p eARG] s
  else
    let res := (List.range n).map fun j => combineLine (pk.map fun c => c.lines.getD j [])
    let out := if ins.length = 1 then pk.head?.elim [] fun c => c.lines
      else res.map fun l => l.flatMap fun e => leBytes 4 e.1.toNat
    let o := s.get (fCombOut set) p
    let d := if o = 4 then (tileX t, tileY t) else neigh (tileX t) (tileY t) (dirOf o)
    let h : Hdr := {
      typ := 2, cone := s.get (fCombCone set) p, lines := n, dx := d.1, dy := d.2, sx := tileX t,
      sy := tileY t, sag := s.get fOwnSag p, set := if o = 4 then set else s.get (fCombOutSet set) p, exitEn := o = 4,
      exit := s.get (fCombExit set) p, kiln := s.get fOwnKiln p, arg := s.get fOwnStep p % 65536 }
    doAll [taken, whenE (fun _ => ins.length ≠ 1) (combExc p set res),
      setF (fCombSteps set) p ((s.get (fCombSteps set) p + 1) % 65536),
      modNet fun m => { m with combOut := m.combOut ++ [⟨p, set, h, out⟩] }] s

def execCombStep (t set : Nat) (s : State) : Host.Outcome State Fault Refusal := .next ((effCombStep t set).run s)

/-! ## Credits and notices that arrive -/

/-- Credits in lines reach a feeder. -/
def feederCredit (feed n : Nat) : Eff := fun s =>
  let x := feed / 3
  match feed % 3 with
  | 0 => setF (fRouteCredit (x % 8)) (x / 8) (min (s.get (fRouteCredit (x % 8)) (x / 8) + n) 16384) s
  | 1 => setAx ⟨.feedUsed, feed, 0⟩ (s.ax ⟨.feedUsed, feed, 0⟩ - n) s
  | _ => setAx ⟨.combCredit, x / 16, x % 16⟩ (min (s.ax ⟨.combCredit, x / 16, x % 16⟩ + n) 64) s

/-- CREDIT_RECEIVED: a CREDIT reaches the router before its sender in a multicast's tree, which merges it, or the feeder it
names (R260). -/
def effCreditReceived (i : Nat) : Eff := fun s =>
  match s.net.flits[i]? with
  | none => []
  | some f =>
    if f.br ≠ 5 ∨ f.h.typ ≠ 5 ∨ f.feed = 0 then [] else
    let feed := f.feed - 1
    let chunks := f.h.arg / 256 % 256
    let up := match s.feedRect feed, s.feedDest feed, s.geo.carries f.at_ with
      | some r, some src, some t => match treeUp r src f.src with
        | some (u, d) => if u = t then some (r, src, t, d) else none
        | none => none
      | _, _, _ => none
    match up with
    | some (r, src, t, d) => doAll [dropFlit i, mergeAt t f.feed src r d chunks] s
    | none => doAll [dropFlit i, feederCredit feed (16 * chunks)] s

def execCreditReceived (i : Nat) (s : State) : Host.Outcome State Fault Refusal := .next ((effCreditReceived i).run s)

/-- NOTICE_RECEIVED: a NOTICE at the router of its packet's source: for a signal the tile records the code (R120), for
any other packet the router does, and sets NOTICE_IN; an edge interface's own NOTICE ends there. -/
def effNoticeReceived (i : Nat) : Eff := fun s =>
  match s.net.flits[i]? with
  | none => []
  | some f =>
    if f.br ≠ 5 ∨ f.h.typ ≠ 4 then [] else
    let p := f.at_
    if f.feed = 1 then dropFlit i s
    else doAll [dropFlit i, setReg .router p 0x358 (BitVec.ofNat 64 (f.h.arg % 2 ^ 32)),
      if f.h.arg / 256 % 16 = 3 then recordErr .tile p (f.h.arg % 256) (f.h.arg / 65536)
      else doAll [recordErr .router p (f.h.arg % 256) (f.h.arg % 2 ^ 32), setEvt .router p 3]] s

def execNoticeReceived (i : Nat) (s : State) : Host.Outcome State Fault Refusal := .next ((effNoticeReceived i).run s)

/-! ## Tile signals (R116, R120) -/

/-- R116: a semaphore of a tile (physical index) raised by n, held at 0xFFFF with SATURATE recorded. -/
def semAdd (p sem n : Nat) : Eff := fun s =>
  let v := s.get (fSem sem) p + n
  if v ≤ 0xFFFF then setF (fSem sem) p v s
  else doAll [setF (fSem sem) p 0xFFFF, recordErr .tile p eSATURATE sem] s

/-- TILE_SIGNAL_ARRIVE: a SIGNAL at its target's router is checked and raises the semaphore, or is dropped with the
error returned. -/
def effTileSignalArrive (i : Nat) : Eff := fun s =>
  match s.net.flits[i]? with
  | none => []
  | some f =>
    match s.geo.carries f.at_ with
    | none => []
    | some t =>
      if f.br ≠ 5 ∨ f.h.typ ≠ 3 then [] else
      let fail := s.deliverFail f.at_ f true
      if fail ≠ 0 then doAll [dropFlit i, deliverDrop t f.at_ f fail] s
      else doAll [dropFlit i, semAdd f.at_ (f.h.arg % 64) (f.h.arg / 64 % 256)] s

def execTileSignalArrive (i : Nat) (s : State) : Host.Outcome State Fault Refusal := .next ((effTileSignalArrive i).run s)

end Sys2Proof.Machine
end

