-- ==== Sys2Proof/Machine/Pug.lean ====
section
/-! DEFINITION. Pug units (chapter 11): feeds, quantisation and the residual ledger, reduction stages, checksums,
deadlines and ABORT_STEP. -/

namespace Sys2Proof.Machine

/-! ## Feeds (R307–R309) -/

def fSatTotal : Fld := ⟨.pug, 0x118, 32, 32⟩
def fBucketsDone : Fld := ⟨.pug, 0x118, 0, 32⟩
def fPcContrib : Fld := ⟨.pug, 0x120, 0, 32⟩
def fPcElems : Fld := ⟨.pug, 0x120, 32, 32⟩
def fPugStat : Fld := ⟨.pug, 0x010, 0, 1⟩
def fBytesOut : Fld := ⟨.pug, 0x138, 0, 48⟩
def fBytesIn : Fld := ⟨.pug, 0x140, 0, 48⟩

/-- The parts list of a feed (Table 11-1). -/
def State.feedParts (s : State) (u f : Nat) : List Part :=
  let a := s.get (fFeedParts f) u
  (List.range (s.get (fFeedCount f) u + 1)).map fun i =>
    ⟨s.stNum (a + 16 * i) 2, s.stNum (a + 16 * i + 4) 4, s.stNum (a + 16 * i + 8) 4⟩

/-- The bucket and the first element of the line at a position of a parts list; none past its end. -/
def partFind : List Part → Nat → Option (Nat × Nat)
  | [], _ => none
  | x :: l, pos => if pos * 16 < x.n then some (x.bucket, x.off + pos * 16) else partFind l (pos - x.n / 16)

/-- R307: lines of a feed's buffer freed: whole chunks go back in a CREDIT through the feed's edge link. -/
def feedFreed (u f n : Nat) : Eff := fun s =>
  let freed := s.ax ⟨.ringFreed, 36000 + u, f⟩ + n
  let set := s.get (fFeedSet f) u
  let x := edgeTile (s.get (fFeedPort f) u) (s.get (fFeedLink f) u)
  let p := s.phys (x.2 * 192 + x.1)
  let h : Hdr := { typ := 5, dx := x.1, dy := x.2, sx := x.1, sy := x.2, rim := true, arg := set + freed / 16 * 256 }
  doAll [setAx ⟨.ringFreed, 36000 + u, f⟩ (freed % 16),
    whenE (fun _ => 16 ≤ freed) (joinCredit p (x.2 * 192 + x.1) (feedComb p set + 1) (freed / 16)
      (injectCtrl p (edgeDir (s.get (fFeedPort f) u)) (bktEdge (s.get (fFeedPort f) u) (s.get (fFeedLink f) u)) h false
        (feedComb p set + 1))),
    setF (fFeedFill f) u (s.get (fFeedFill f) u - n)] s

/-- A discard for its step: DROPS.STALE and its event. -/
def staleDrop (u : Nat) : Eff := doAll [addSat fPugStale u 1, setEvt .pug u 5]

/-! ## Quantisation (R312, R313) -/

/-- The bytes of a residual. -/
def Bkt.resBytes (b : Bkt) : Nat := if b.resFmt = 1 then 2 else 4

/-- The address of residual i in slot g. -/
def State.residual (s : State) (b : Bkt) (g i : Nat) : Nat :=
  s.stNum (b.addr + 16) 6 + g * b.elems * b.resBytes + i * b.resBytes

/-- The committed residual slot of a bucket's job. -/
def State.lgen (s : State) (b : Bkt) : Nat := s.get (fLgen b.job) b.chan

/-- A quantised element: its code (2^32 for poison), the residual to write, whether it was clamped. -/
structure QElem where
  code : Nat
  res : Nat
  sat : Bool
  deriving DecidableEq, Repr

/-- A WG8 code as a signed code of 32 bits. -/
def wideCode (w c : Nat) : Nat := if c % 2 ^ w = poisonCode w then poison else ofSInt 32 (sInt w c)

/-- R313: one element quantised with its old residual. -/
def quantise (b : Bkt) (old : Nat) (x : W32) : QElem :=
  let s := sInt 8 b.scale
  if b.raw then ⟨x.toNat, 0, false⟩
  else if !b.ef then let q := toWg8 s x; ⟨wideCode 8 q.1, 0, q.2⟩
  else
    let xp := (toF32 ((f32 x).add (decodeElem (if b.resFmt = 1 then 1 else 0) old))).1
    let q := toWg8 s xp
    let r := wg8Residual s xp q.1
    ⟨wideCode 8 q.1,
      if q.1 = 0x80 then old else if b.resFmt = 1 then (bf16.encode .rne false r).1 else (toF32 r).1.toNat, q.2⟩

/-- A line of 16 FP32 elements from element i0 of a bucket on, quantised. -/
def State.quantLine (s : State) (b : Bkt) (i0 : Nat) (line : List Byte) : List QElem :=
  (List.range 16).map fun k =>
    quantise b (s.stNum (s.residual b (s.lgen b) (i0 + k)) b.resBytes) (BitVec.ofNat 32 (ofBytes ((line.drop (4 * k)).take 4)))

/-- A bucket with the codes of a line; poisoned codes count as the module's own contributions (R321, R322). -/
def Bkt.take (b : Bkt) (i0 self : Nat) (qs : List QElem) : Bkt :=
  let np := if b.raw then 0 else (qs.filter fun q => q.code = poison).length
  { b with
    vals := qs.zipIdx.foldl (fun m q => fset (fun a => a) (fun _ => 0) m (i0 + q.2) q.1.code) b.vals
    got := b.got + 16
    sat := b.sat + (qs.filter fun q => q.sat).length
    pcount := b.pcount + np
    pmin := if np = 0 then b.pmin else some self }

/-- One line of a feed's packet reaches its part (R309, R313, R315). -/
def combLine (u f : Nat) (line : List Byte) : Eff := fun s =>
  let j := s.get (fFeedJob f) u
  let pos := s.get (fFeedPos f) u
  let parts := s.feedParts u f
  if s.ax ⟨.stepOpen, j, 0⟩ = 0 then [] else
  match partFind parts pos with
  | none =>
    doAll [feedFreed u f 1,
      withSome ((parts.getLast?.bind fun x => s.bkt j x.bucket).filter fun b => b.state = 1)
        (stepAbortAt j eARG u (some f)) (fun b => bktFail b eARG u (some f))] s
  | some x =>
    match (s.bkt j x.1).filter fun b => b.state = 1 with
    | none => doAll [feedFreed u f 1, setF (fFeedPos f) u (pos + 1)] s
    | some b =>
      let a := s.residual b (s.lgen b) x.2
      let n := 16 * b.resBytes
      match (if b.ef then s.badBursts a n else []) with
      | bad :: _ => doAll [feedFreed u f 1, badMeet 3 a n, recordErr .slip (a / slotSize) eECC_UE (storeInfo (bad * 32)),
          bktFail b eECC_UE u none] s
      | [] =>
        let qs := s.quantLine b x.2 line
        doAll [feedFreed u f 1, setF (fFeedPos f) u (pos + 1), putBkt (b.take x.2 s.self qs),
          addSat fSatTotal u (qs.filter fun q => q.sat).length,
          whenE (fun _ => b.ef) (doAll [countBytes fBytesRd a n,
            storePut (s.residual b (1 - s.lgen b) x.2) (qs.flatMap fun q => leBytes b.resBytes q.res),
            countBytes fBytesWr (s.residual b (1 - s.lgen b) x.2) n])] s

/-- PUG_COMB_RECEIVE: the oldest packet of a feed is checked against the job's owner (R428) and step (R308), and its
lines fill the feed's parts. -/
def effPugCombReceive (u f : Nat) : Eff := fun s =>
  match s.pg.feedq.find? fun x => x.u = u && x.f = f with
  | none => []
  | some x =>
    let j := s.get (fFeedJob f) u
    let ow := s.jobOwner j (some x.epoch)
    let gone := modPg fun g => { g with feedq := g.feedq.erase x }
    if !ow.1 ∨ ow.2 ≠ x.h.sag then
      doAll [gone, feedFreed u f x.lines.length, recordErr .pug u eSAGGAR f, deny 6 x.h.sag ow.2 ow.1 f] s
    else if s.ax ⟨.stepOpen, j, 0⟩ = 0 ∨ x.h.arg % 65536 ≠ s.ax ⟨.stepNo, j, 0⟩ % 65536 then
      doAll [gone, feedFreed u f x.lines.length, staleDrop u] s
    else doAll [gone, forEach x.lines (combLine u f)] s

def execPugCombReceive (u feed : Nat) (s : State) : Host.Outcome State Fault Refusal := .next ((effPugCombReceive u feed).run s)

/-! ## Stage plans (R316–R318) -/

/-- A member entry (Table 11-3). -/
structure Member where
  module_ : Nat
  path : Nat
  port : Nat
  lo : Nat
  n : Nat
  deriving DecidableEq, Repr

/-- The address of block k of a plan, k from 0. -/
def State.planAt (s : State) (a : Nat) : Nat → Nat
  | 0 => a
  | k + 1 => let x := s.planAt a k; x + 16 + 16 * (s.stNum x 2 % 512)

/-- The members of a plan's block. -/
def State.planBlock (s : State) (a k : Nat) : List Member :=
  let x := s.planAt a k
  (List.range (s.stNum x 2 % 512)).map fun i =>
    let w0 := s.stNum (x + 16 + 16 * i) 8
    let w1 := s.stNum (x + 24 + 16 * i) 8
    ⟨w0 % 4096, w0 / 2 ^ 12 % 4, w0 / 2 ^ 14 % 16, w0 / 2 ^ 32, w1 % 2 ^ 32⟩

/-- The address of a bucket's plan. -/
def State.bktPlan (s : State) (b : Bkt) : Nat := s.stNum (b.addr + 32) 6

/-- The members of stage k (k from 1), and the module's own entry. -/
def State.stageMembers (s : State) (b : Bkt) (k : Nat) : List Member := s.planBlock (s.bktPlan b) (k - 1)
def State.ownMember (s : State) (b : Bkt) (k : Nat) : Member :=
  ((s.stageMembers b k).find? fun m => m.path = 2).getD ⟨s.self, 2, 0, b.lo, b.n⟩

/-- C_k: the product of the group sizes of the first k stages. -/
def State.groupProd (s : State) (b : Bkt) (k : Nat) : Nat :=
  ((List.range k).map fun i => (s.stageMembers b (i + 1)).length).foldl (· * ·) 1

/-- FMT of the records of stage k, and the bytes of a code. -/
def State.stageFmt (s : State) (b : Bkt) (k : Nat) : Nat :=
  if k ≤ 1 then 7 else if s.groupProd b (k - 1) ≤ 256 then 8 else 9
def fmtWidth (fmt : Nat) : Nat := if fmt = 7 then 1 else if fmt = 8 then 2 else 4

/-! ## Checksums (R320–R322) -/

/-- p = 2^61 − 1. -/
def csumP : Nat := 2 ^ 61 - 1

/-- The seed of a step, a scale and a bucket. -/
def csumSeed (step scale bucket : Nat) : Nat := step % 65536 * 2 ^ 24 + scale % 256 * 2 ^ 16 + bucket + 1

/-- A held code as an integer; poison counts as 0. -/
def codeInt (v : Nat) : Int := if v = poison then 0 else sInt 32 v

/-- The checksum of a range of codes. -/
def csum (ncon step scale bucket : Nat) (codes : List (Nat × Nat)) : Nat :=
  ((((ncon * csumSeed step scale bucket : Nat) : Int) +
    (codes.map fun x => ((x.1 + 1 : Nat) : Int) * codeInt x.2).sum) % (csumP : Int)).toNat

/-- The codes of a range. -/
def codesOf (m : FMap Nat Nat) (lo n : Nat) : List (Nat × Nat) :=
  (List.range n).map fun i => (lo + i, fget (fun _ => 0) m (lo + i))

/-- PCORR, PCOUNT and POISON_MIN of a slice of a bucket that goes into stage k: of a quantiser's codes by R322; of a
stage's output, those of the output where the slice holds every poisoned element or none; else free values (DESIGN CHOICE, log entry
24). -/
def sliceHdr (b : Bkt) (k self lo n : Nat) (use : Nat × Nat × Option Nat → Eff) : Eff :=
  let np := ((codesOf b.vals lo n).filter fun x => x.2 = poison).length
  if k ≤ 1 then use (0, np, if np = 0 then none else some self)
  else if np = 0 then use (0, 0, none)
  else if np = b.poisoned then use (b.pcorr, b.pcount, b.pmin)
  else drawFree fun x => drawFree fun y => use (x.toNat % csumP, getBits y 0 32, some (getBits y 32 12))

/-- A record as a message payload (R375). -/
structure Rec where
  job : Nat
  stage : Nat
  fmt : Nat
  bucket : Nat
  step : Nat
  scale : Nat
  src : Nat
  ncon : Nat
  pmin : Option Nat
  lo : Nat
  elems : Nat
  c : Nat
  pcorr : Nat
  pcount : Nat
  codes : List (Nat × Nat)
  deriving DecidableEq, Repr

/-- The bytes of a record. -/
def Rec.bytes (r : Rec) : List Byte :=
  let w := fmtWidth r.fmt
  leBytes 1 r.job ++ leBytes 1 (r.stage + 16 * r.fmt) ++ leBytes 2 r.bucket ++ leBytes 4 r.step ++ leBytes 1 r.scale ++
  leBytes 1 0 ++ leBytes 2 r.src ++ leBytes 2 r.ncon ++
  leBytes 2 (match r.pmin with | some m => m + 0x8000 | none => 0) ++ leBytes 4 r.lo ++ leBytes 4 r.elems ++
  leBytes 8 r.c ++ leBytes 8 r.pcorr ++ leBytes 4 r.pcount ++ leBytes 4 0 ++
  (r.codes.flatMap fun x => leBytes w (if x.2 = poison then poisonCode (8 * w) else ofSInt (8 * w) (sInt 32 x.2)))

/-- A record read from a message. -/
def Rec.parse (d : List Byte) : Rec :=
  let n (at' len : Nat) : Nat := ofBytes ((d.drop at').take len)
  let fmt := n 1 1 / 16
  let w := fmtWidth fmt
  let lo := n 16 4
  { job := n 0 1, stage := n 1 1 % 8, fmt := fmt, bucket := n 2 2, step := n 4 4, scale := n 8 1, src := n 10 2 % 4096
    ncon := n 12 2 % 8192, pmin := if n 14 2 / 2 ^ 15 = 1 then some (n 14 2 % 4096) else none, lo := lo, elems := n 20 4
    c := n 24 8 % 2 ^ 61, pcorr := n 32 8 % 2 ^ 61, pcount := n 40 4
    codes := (List.range ((d.length - 48) / w)).map fun i => (lo + i, wideCode (8 * w) (n (48 + w * i) w)) }

/-! ## Stages (R305, R318, R330) -/

/-- The bucket before a bucket on its channel, in its job (R305). -/
def State.prevBkt (s : State) (b : Bkt) : Option Bkt :=
  (s.pg.buckets.filter fun x => x.job = b.job && x.chan = b.chan && x.order < b.order).foldl
    (fun m x => match m with | none => some x | some y => if y.order < x.order then some x else some y) none

/-- How far a bucket is: its stage number, with DELIVER and DONE beyond every stage. -/
def Bkt.rank (b : Bkt) : Nat := if b.state = 2 then b.stage else if b.state = 3 ∨ b.state = 4 then 8 else 0

/-- R305: a bucket may enter stage k. -/
def State.mayEnter (s : State) (b : Bkt) (k : Nat) : Bool :=
  match s.prevBkt b with
  | none => true
  | some x => k + 1 ≤ x.rank

/-- The record of a slice for a member, sent. -/
def sendRecord (b : Bkt) (k fmt : Nat) (m : Member) : Eff := fun s =>
  sliceHdr b k s.self m.lo m.n (fun h =>
    let codes := codesOf b.vals m.lo m.n
    let r : Rec := {
      job := b.job, stage := k, fmt := fmt, bucket := b.id, step := b.step, scale := b.scale, src := s.self, ncon := b.ncon
      pmin := h.2.2, lo := m.lo, elems := m.n, c := (csum b.ncon b.step b.scale b.id codes + h.1) % csumP, pcorr := h.1
      pcount := h.2.1, codes := codes }
    doAll [sendMsg (planPort m.path m.port) m.module_ false 1 0x10 r.bytes,
      whenE (fun s => s.on fPugStat b.chan) (addSat fBytesOut b.chan r.bytes.length)]) s

/-- A bucket enters stage k: its records leave, its own slice begins the sum. -/
def enterStage (b : Bkt) (k : Nat) : Eff := fun s =>
  let ms := s.stageMembers b k
  let me := s.ownMember b k
  let others := ms.filter fun m => m.path ≠ 2
  if others.any fun m => !s.pathOk m.path m.port m.module_ then bktFail b eLINK_DOWN b.chan none s else
  doAll [forEach others (sendRecord b k (s.stageFmt b k)),
    sliceHdr b k s.self me.lo me.n (fun h => putBkt { b with
      state := 2
      stage := k
      from_ := []
      sum := (codesOf b.vals me.lo me.n).foldl (fun m x => fset (fun a => a) (fun _ => 0) m x.1 x.2) []
      sncon := b.ncon
      sc := (csum b.ncon b.step b.scale b.id (codesOf b.vals me.lo me.n) + h.1) % csumP
      spcorr := h.1
      spcount := h.2.1
      spmin := h.2.2 })] s

/-- Entries of a glaze unit's range table that name a bucket. -/
def State.rangesOf (s : State) (p bucket : Nat) : List Nat :=
  (List.range (s.get ⟨.glaze, 0x110, 0, 13⟩ p)).filter fun i =>
    s.stNum (s.get ⟨.glaze, 0x108, 0, 48⟩ p + 64 * i) 2 = bucket

/-- R323: the poison of a bucket that DELIVER makes DONE is accounted (Table 11-6). -/
def bktPoison (b : Bkt) : Eff := whenE (fun _ => b.poisoned ≠ 0)
  (doAll [addSat fPcElems b.chan b.poisoned, addSat fPcContrib b.chan b.pcount, setEvt .pug b.chan 1, recordErr .pug b.chan ePOISON b.id])

/-- A bucket enters DELIVER: its codes are handed to the glaze unit. -/
def deliverBkt (b : Bkt) : Eff := fun s =>
  let b' := { b with state := 3 }
  doAll [putBkt b', bktStatus b',
    modGl fun g => { g with ranges := g.ranges ++ (s.rangesOf b.glaze b.id).map fun i => ⟨b.glaze, i, b.id, 0⟩ }] s

/-- Every record of a bucket's present stage is in. -/
def State.stageFull (s : State) (b : Bkt) : Bool := (s.stageMembers b b.stage).length ≤ b.from_.length + 1

/-- BUCKET_STAGE_ADVANCE. -/
def effBucketStageAdvance (job bucket : Nat) : Eff := fun s =>
  match s.bkt job bucket with
  | none => []
  | some b =>
    if s.ax ⟨.stepOpen, job, 0⟩ = 0 then []
    else if b.state = 1 then
      (if b.got ≠ b.elems ∨ !s.mayEnter b 1 then []
       else if b.stages = 0 then deliverBkt b s else enterStage b 1 s)
    else if b.state = 2 ∧ s.stageFull b then
      let me := s.ownMember b b.stage
      let a := s.stNum (b.addr + 24) 6 + 4 * me.lo
      if b.stage < b.stages ∧ !s.mayEnter b (b.stage + 1) then []
      else match s.badBursts a (4 * me.n) with
        | bad :: _ => doAll [badMeet 3 a (4 * me.n), recordErr .slip (a / slotSize) eECC_UE (storeInfo (bad * 32)),
            bktFail b eECC_UE b.chan none] s
        | [] =>
          let b' := { b with
            lo := me.lo
            n := me.n
            vals := b.sum
            sum := []
            ncon := b.sncon
            c := b.sc
            pcorr := b.spcorr
            pcount := b.spcount
            pmin := b.spmin }
          if (csum b'.ncon b.step b.scale b.id (codesOf b'.vals me.lo me.n) + b'.pcorr) % csumP ≠ b'.c then
            bktFail b eCHECKSUM b.chan none s
          else if b.stage < b.stages then enterStage b' (b.stage + 1) s else deliverBkt b' s
    else []

def execBucketStageAdvance (job bucket : Nat) (s : State) : Host.Outcome State Fault Refusal :=
  .next ((effBucketStageAdvance job bucket).run s)

/-! ## Records received (R320, R321, R326) -/

/-- A verified record added to a bucket's sum (R318, R321, R322). DESIGN CHOICE, log entry 65. -/
def Bkt.add (b : Bkt) (r : Rec) : Bkt :=
  let cur := (r.codes.map fun x => (x.1, fget (fun _ => 0) b.sum x.1, x.2))
  let new := cur.map fun x =>
    (x.1, if x.2.1 = poison ∨ x.2.2 = poison then poison else ofSInt 32 (sInt 32 x.2.1 + sInt 32 x.2.2))
  -- what becomes poison gives the codes it held so far to the correction; what is poison gives the record's code
  let corr : Int := (cur.map fun x =>
    if x.2.1 = poison then ((x.1 + 1 : Nat) : Int) * codeInt x.2.2
    else if x.2.2 = poison then ((x.1 + 1 : Nat) : Int) * codeInt x.2.1 else 0).sum
  { b with
    sum := new.foldl (fun m x => fset (fun a => a) (fun _ => 0) m x.1 x.2) b.sum
    from_ := b.from_ ++ [r.src]
    sncon := b.sncon + r.ncon
    sc := (b.sc + r.c) % csumP
    spcorr := (((b.spcorr + r.pcorr : Nat) : Int) + corr) % (csumP : Int) |>.toNat
    spcount := min (b.spcount + r.pcount) (2 ^ 32 - 1)
    spmin := match b.spmin, r.pmin with | some x, some y => some (min x y) | some x, none => some x | none, y => y }

/-- A record names a stage that the bucket does not have, or a sender that is no member of the stage it names (R320). -/
def State.stageBad (s : State) (b : Bkt) (r : Rec) : Bool :=
  r.stage = 0 || b.stages < r.stage || !((s.stageMembers b r.stage).any fun m => m.path ≠ 2 && m.module_ = r.src)

/-- What is wrong with a record for a bucket's present stage (R320, R321). -/
def State.recordErr (s : State) (b : Bkt) (r : Rec) : Option Nat :=
  let me := s.ownMember b b.stage
  if r.scale ≠ b.scale then some eSCALE_MISMATCH
  else if r.lo ≠ me.lo ∨ r.elems ≠ me.n ∨ r.codes.length ≠ me.n ∨ r.fmt ≠ s.stageFmt b b.stage ∨
      r.ncon ≠ s.groupProd b (b.stage - 1) then
    some eARG
  else if (csum r.ncon r.step r.scale r.bucket r.codes + r.pcorr) % csumP ≠ r.c then some eCHECKSUM
  else none

/-- Where a record that has arrived stands: 0 it can be decided now, 1 it waits for its bucket's stage, 2 it is for the
next step. -/
def State.recordWhen (s : State) (r : Rec) : Nat :=
  let n := s.ax ⟨.stepNo, r.job, 0⟩
  let opened := s.ax ⟨.stepOpen, r.job, 0⟩ ≠ 0
  if r.step = n + 1 then 2
  else if r.step = n ∧ opened then
    match s.bkt r.job r.bucket with
    | some b => if !s.stageBad b r ∧ (b.state = 1 ∨ (b.state = 2 ∧ b.stage < r.stage)) then 1 else 0
    | none => 0
  else 0

/-- R320, R321, R326, Table 11-6: a record decided. -/
def takeRecord (r : Rec) : Eff := fun s =>
  let n := s.ax ⟨.stepNo, r.job, 0⟩
  let opened := s.ax ⟨.stepOpen, r.job, 0⟩ ≠ 0
  let u := (s.bkt r.job r.bucket).elim (s.jobPug r.job) fun b => b.chan
  let count := whenE (fun s => s.on fPugStat u) (addSat fBytesIn u (48 + r.codes.length * fmtWidth r.fmt))
  if n + 1 < r.step then doAll [count, recordErr .pug u eARG r.src] s
  else if r.step < n ∨ !opened then doAll [count, staleDrop u] s
  else match s.bkt r.job r.bucket with
  | none => doAll [count, stepAbortAt r.job eARG u none] s
  | some b =>
    if 4 ≤ b.state ∨ b.state = 0 then doAll [count, staleDrop u] s
    else if s.stageBad b r then
      doAll [count, if b.state = 2 then bktFail b eARG u none else stepAbortAt b.job eARG u none] s
    else if b.state = 3 ∨ r.stage < b.stage ∨ (b.from_.contains r.src ∧ r.stage = b.stage) then doAll [count, addSat fPugDups u 1] s
    else match s.recordErr b r with
      | some code => doAll [count, bktFail b code u none] s
      | none => doAll [count, putBkt (b.add r)] s

/-! ## Completion, deadlines, ABORT_STEP -/

/-- The glaze unit has accepted every range of a bucket. -/
def State.bktAccepted (s : State) (b : Bkt) : Bool :=
  (s.rangesOf b.glaze b.id).all fun i => s.gl.ranges.any fun r => r.port = b.glaze && r.idx = i && r.st = 2

/-- STAGE_TIMEOUT: a stage's records are not all verified, or DELIVER still waits for a pinned shadow (R339). -/
def effStageTimeout (job bucket : Nat) : Eff := fun s =>
  match s.bkt job bucket with
  | none => []
  | some b =>
    if s.ax ⟨.stepOpen, job, 0⟩ ≠ 0 ∧
        ((b.state = 2 ∧ !s.stageFull b) ∨ (b.state = 3 ∧ !s.shadowOpened b.glaze b.step)) then
      bktFail b eBUCKET_LATE b.chan (some (b.id * 16 + b.stage)) s
    else []

def execStageTimeout (job bucket : Nat) (s : State) : Host.Outcome State Fault Refusal := .next ((effStageTimeout job bucket).run s)

/-- The coordinator of a job: GJOB.COORD of a bound unit, else COORD of the job's table (R340, R358). -/
def State.jobCoord (s : State) (j : Nat) : Option Nat :=
  match s.jobGlaze j with
  | p :: _ => some (s.get fGcoord p)
  | [] => (s.jobTab j).map fun t => s.stNum (t + 4) 2 % 4096

/-- The number of a job's modules, from the same place. -/
def State.jobModCount (s : State) (j : Nat) : Nat :=
  match s.jobGlaze j with
  | p :: _ => s.get fGmodules p
  | [] => (s.jobTab j).elim 0 fun t => s.stNum (t + 2) 2 % 8192

/-- The module is a job's coordinator (Table 12-7). -/
def State.isCoord (s : State) (j : Nat) : Bool := s.jobCoord j = some s.self

/-- ABORT_STEP (R329, Table 12-4). -/
def abortStepSpec (inst : Nat) (args : List W64) : CmdSpec where
  argBad _ := argN args 1 ≠ 0
  blocked s :=
    let j := getBits (argN args 0) 0 8
    if s.ax ⟨.stepOpen, j, 0⟩ = 0 ∨ s.ax ⟨.stepNo, j, 0⟩ ≠ getBits (argN args 0) 32 32 ∨
      (s.ax ⟨.voted, j, 0⟩ = 1 ∧ !s.isCoord j) then some eSTATE else none
  run r := doAll [stepAbortAt (getBits (argN args 0) 0 8) eABORTED inst none, finish r eOK 0]

def execAbortStep (c : CmdCtx) (inst : Nat) (args : List W64) (s : State) : Host.Outcome State Fault Refusal :=
  .next ((admitCmd c .pug inst 0x10 args (abortStepSpec inst args)).run s)

end Sys2Proof.Machine
end

