-- ==== Sys2Proof/Machine/Glaze.lean ====
section
/-! DEFINITION. Glaze units (chapter 12): range tables, the update's arithmetic, poison, shadows, votes and the commit,
mirroring, MIRROR_SYNC. -/

namespace Sys2Proof.Machine

/-! ## Range and hyperparameter tables (Tables 12-1, 12-2) -/

def fRanges : Fld := ⟨.glaze, 0x108, 0, 48⟩
def fRangeCnt : Fld := ⟨.glaze, 0x110, 0, 13⟩
def fHyper : Fld := ⟨.glaze, 0x118, 0, 48⟩
def fSets1 : Fld := ⟨.glaze, 0x118, 56, 8⟩
def fResK : Fld := ⟨.glaze, 0x120, 0, 16⟩
def fResPhase : Fld := ⟨.glaze, 0x120, 16, 16⟩
def fPGrad : Fld := ⟨.glaze, 0x148, 0, 24⟩
def fPResult : Fld := ⟨.glaze, 0x148, 24, 24⟩
def fHeldSteps : Fld := ⟨.glaze, 0x148, 48, 16⟩
def fGlzStat : Fld := ⟨.glaze, 0x010, 0, 1⟩
def fElems : Fld := ⟨.glaze, 0x158, 0, 48⟩

/-- A range table entry. -/
structure REnt where
  bucket : Nat
  hset : Nat
  bf : Bool
  resel : Bool
  stream : Bool
  lo : Nat
  n : Nat
  master : Nat
  mOff : Nat
  vOff : Nat
  sOff : Nat
  wedge : Nat
  sat : Bool
  deriving DecidableEq, Repr

/-- Entry i of a range table. -/
def State.rangeEntAt (s : State) (tab i : Nat) : REnt :=
  let w (k : Nat) : Nat := s.stNum (tab + 64 * i + 8 * k) 8
  { bucket := w 0 % 2 ^ 16, hset := w 0 / 2 ^ 16 % 256, bf := w 0 / 2 ^ 24 % 2 = 1, resel := w 0 / 2 ^ 25 % 2 = 1
    stream := w 0 / 2 ^ 26 % 2 = 1, lo := w 0 / 2 ^ 32, n := w 1 % 2 ^ 32, master := w 2 % 2 ^ 40, mOff := w 3 % 2 ^ 40
    vOff := w 4 % 2 ^ 40, sOff := w 5 % 2 ^ 40, wedge := w 6 % 2 ^ 32, sat := w 6 / 2 ^ 32 % 2 = 1 }

def State.rangeEnt (s : State) (p i : Nat) : REnt := s.rangeEntAt (s.get fRanges p) i

/-- The bytes of a moment. -/
def REnt.mBytes (r : REnt) : Nat := if r.bf then 2 else 4

/-- A hyperparameter set, for the parity of a step. -/
structure Hyp where
  opt : Nat
  nest : Bool
  lr : W32
  b1 : W32
  omb1 : W32
  b2 : W32
  omb2 : W32
  eps : W32
  wd : W32
  gscale : W32
  bc1 : W32
  bc2 : W32
  deriving DecidableEq, Repr

/-- Set h of a table of bytes, for step n. -/
def hypOf (l : List Byte) (h n : Nat) : Hyp :=
  let w (i : Nat) : W32 := BitVec.ofNat 32 (ofBytes ((l.drop (64 * h + 4 * i)).take 4))
  let p := n % 2
  { opt := (w 0).toNat % 4, nest := (w 0).toNat / 4 % 2 = 1, lr := w (1 + p), b1 := w 3, omb1 := w 4, b2 := w 5, omb2 := w 6
    eps := w 7, wd := w 8, gscale := w 9, bc1 := w (10 + p), bc2 := w (12 + p) }

/-! ## The arithmetic (R336) -/

def fvMul (a b : FV) : FV := fvOp [a, b] ((f32 a.1).mul (f32 b.1))
def fvAdd (a b : FV) : FV := fvOp [a, b] ((f32 a.1).add (f32 b.1))
def fvSub (a b : FV) : FV := fvOp [a, b] ((f32 a.1).add (f32 b.1).neg)
def fvDiv (a b : FV) : FV := fvOp [a, b] ((f32 a.1).div (f32 b.1))
def fvSqrt (a : FV) : FV := fvOp [a] (f32 a.1).sqrt
def fvFma (a b c : FV) : FV := fvOp [a, b, c] (((f32 a.1).mul (f32 b.1)).add (f32 c.1))
def fvNeg (a : FV) : FV := (a.1 ^^^ 0x80000000, a.2)

/-- −1, 0 or 1 by the sign of a value; a NaN stays one. -/
def fvSign (a : FV) : Num :=
  match f32 a.1 with
  | .nan => .nan
  | .inf n => .fin n 1 0
  | .fin n m _ => if m = 0 then .fin false 0 0 else .fin n 1 0

/-- R336: w, m and v after one update with the scaled gradient g; v is touched by AdamW only. -/
def glazeUpdate (h : Hyp) (w m v g : FV) : FV × FV × FV :=
  let k (x : W32) : FV := (x, {})
  let lr := k h.lr
  let lrwd := fvMul lr (k h.wd)
  if h.opt = 0 then
    let g2 := fvFma (k h.wd) w g
    let m2 := fvFma (k h.b1) m g2
    let d := if h.nest then fvFma (k h.b1) m2 g2 else m2
    (fvFma (fvNeg lr) d w, m2, v)
  else if h.opt = 1 then
    let m2 := fvFma (k h.b1) m (fvMul (k h.omb1) g)
    let v2 := fvFma (k h.b2) v (fvMul (k h.omb2) (fvMul g g))
    let den := fvAdd (fvSqrt (fvMul v2 (k h.bc2))) (k h.eps)
    let u := fvDiv (fvMul m2 (k h.bc1)) den
    (fvFma (fvNeg lr) u (fvFma (fvNeg lrwd) w w), m2, v2)
  else
    let c := fvFma (k h.b1) m (fvMul (k h.omb1) g)
    let d := fvFma (fvNeg lrwd) w w
    (fvOp [d, lr, c] ((f32 d.1).add ((f32 lr.1).mul (fvSign c)).neg), fvFma (k h.b2) m (fvMul (k h.omb2) g), v)

/-- A value is finite. -/
def isFin (x : W32) : Bool := !(f32 x).isNan && !(f32 x).isInf

/-- What an element of a range becomes: w, m, v; classes raised; counted in GRAD, in RESULT; whether it is written
unchanged. -/
structure GElem where
  w : W32
  m : W32
  v : W32
  fl : Fl
  grad : Bool
  result : Bool
  kept : Bool := false
  deriving DecidableEq, Repr

/-- Table 12-3: one element under a poison policy; `G` is none for a poisoned gradient. -/
def glazeElem (h : Hyp) (policy : Nat) (w m v : W32) (G : Option W32) : GElem :=
  let run (g : FV) : FV × FV × FV := glazeUpdate h (w, {}) (m, {}) (v, {}) g
  let ok (x : FV × FV × FV) (fl : Fl) (gr re : Bool) : GElem :=
    ⟨x.1.1, x.2.1.1, x.2.2.1, ((fl.or x.1.2).or x.2.1.2).or x.2.2.2, gr, re, false⟩
  let same (fl : Fl) (gr re : Bool) : GElem := ⟨w, m, v, fl, gr, re, true⟩
  let flOf (x : FV × FV × FV) : Fl := (x.1.2.or x.2.1.2).or x.2.2.2
  let zero (fl : Fl) (gr re : Bool) : GElem :=
    let x := run (0, {})
    if isFin x.1.1 then ok x fl gr re else same (fl.or (flOf x)) gr re
  match G with
  | none => if policy = 2 then zero {} true false else same {} true false
  | some g =>
    let x := run (fvMul (g, {}) (h.gscale, {}))
    if isFin x.1.1 then ok x {} false false
    else if policy = 2 then zero (flOf x) false true else same (flOf x) false true

/-! ## A range (R333, R334, R337, R342) -/

/-- The gradient of element i of a bucket: none where it is poisoned. -/
def Bkt.grad (b : Bkt) (i : Nat) : Option W32 :=
  let c := fget (fun _ => 0) b.vals i
  if b.raw then (if isFin (BitVec.ofNat 32 c) then some (BitVec.ofNat 32 c) else none)
  else if c = poison then none else some (toF32 (Num.ofInt false (sInt 32 c) (sInt 8 b.scale))).1

/-- The elements of a range as updated. -/
def State.rangeElems (s : State) (p : Nat) (b : Bkt) (r : REnt) : List GElem :=
  let k := s.get (fCgen 0) p
  let a (off : Nat) : Nat := s.genAddr p 0 k off
  let mom (at' : Nat) : W32 := if r.bf then BitVec.ofNat 32 (s.stNum at' 2 * 65536) else BitVec.ofNat 32 (s.stNum at' 4)
  let h := hypOf (((s.gl.hyper.find? fun x => x.1 = p).map (·.2)).getD []) r.hset b.step
  (List.range r.n).map fun i =>
    glazeElem h (s.get fGpolicy p) (BitVec.ofNat 32 (s.stNum (a (r.master + 4 * i)) 4)) (mom (a (r.mOff + r.mBytes * i)))
      (if h.opt = 1 then mom (a (r.vOff + r.mBytes * i)) else 0) (b.grad (r.lo + i))

/-- A moment as stored, and the classes of its narrowing: an unchanged one keeps its bits; a NaN was counted where it came
in. -/
def momOut (bf kept : Bool) (x : W32) : Nat × Fl :=
  if !bf then (x.toNat, {}) else if kept then (x.toNat / 65536, {})
  else let r := bf16.encode .rne false (f32 x); (r.1, { r.2 with nan := false })

/-- The streaming copy of a range's new weights: the bytes, with R342's choice tile by tile on a re-selection step. -/
def State.streamCopy (s : State) (p : Nat) (r : REnt) (resel : Bool) (ws : List W32) : Wedged :=
  let k := s.get (fCgen 0) p
  let fmt := wFmt r.wedge
  let e := fmtBytes fmt
  let el (i : Nat) : Nat := ((ffmtOf fmt).encode .rne r.sat (f32 (ws.getD i 0))).1
  let mag (i : Nat) : Num := f32 (ws.getD i 0)
  let old (at' n : Nat) : Option (List Byte) :=
    let a := s.genAddr p 0 k (r.sOff + at')
    if s.badBursts a n = [] then some (s.stRds a n) else none
  if wMode r.wedge = 0 then { bytes := (List.range r.n).flatMap fun i => leBytes e (el i) }
  else
    let mode (at' : Nat) : Nat := if resel && (old at' 64).any (fun h => (parseHead h).form = 1) then 3 else wMode r.wedge
    wedgeAs (s.grade = 3) mode r.wedge r.n r.n el mag old eECC_UE

/-! ## Mirroring (R343, R344) -/

/-- Mirroring of a unit stops (R344): its own flips and waiting writes end. -/
def mirrorBreak (p step : Nat) : Eff :=
  doAll [recordErr .glaze p eUNMIRRORED step, setEvt .glaze p 4, setF fMstate p 2,
    modGl fun g => { g with
      mirrorQ := g.mirrorQ.filter fun x => x.port ≠ p
      flips := g.flips.filter fun x => x.port ≠ p }]

/-- Shadow bytes of a step written: store and mirror; a write that covers part of a bad burst is discarded, and the unit receives
ECC_UE (R277). -/
def shadowPut (p k off n : Nat) (data : List Byte) : Eff := fun s =>
  if data = [] then [] else
  doAll [storePutOr (s.genAddr p 0 k off) data (recordErrFree .glaze p eECC_UE), countBytes fBytesWr (s.genAddr p 0 k off) data.length,
    mirrorWrite p k (genData + off) data.length n] s

/-! ## The commands -/

/-- A kiln of a job is STARTING, RUNNING or DRAINING. -/
def State.jobActive (s : State) (j : Nat) : Bool :=
  (s.jobKilns j).any fun k => s.get fKilnState k = 2 || s.get fKilnState k = 3 || s.get fKilnState k = 4

/-- The bits of GJOB that are written. -/
def gjobMask : W64 := bitMask 0 11 ||| bitMask 16 12 ||| bitMask 32 13

/-- A glaze unit is bound (R332, R346, R411). -/
def bindGlaze (p : Nat) (v : W64) : Eff := fun s =>
  doAll [setReg .glaze p 0x100 (v &&& gjobMask),
    whenE (fun _ => getBits v 8 1 = 1 && !s.on fGjobValid p) (look (fun s => if s.on (fGenValid 0) p then s.get (fGenVer 0) p else 0)
      fun n => doAll [setF fCommitted p n, setF fDurable p n,
        whenE (fun s => s.get fPartnerState 0 = 2 && s.get fMstate p = 0) (setF fMstate p 2)])] s

/-- This module is the STANDBY side of a pair (R413). -/
def State.standby (s : State) : Bool := s.get fPartnerState 0 ≠ 0 && s.get fPmode 0 = 2 && s.on fRole 0

/-- GJOB is written (R332, R346, R413, R486). DEDUCED, log entry 68. -/
def effGjobWrite (src : Src) (p : Nat) (v : W64) : Eff :=
  regWrite src .glaze p 0x100 8
    (fun _ s => firstErr [
      errIf (s.get fGlzState p ≠ 0 || (s.on fGjobValid p && s.jobActive (s.get fGjob p)) ||
        (getBits v 8 1 = 1 && (s.jobActive (getBits v 0 8) || s.standby))) eSTATE,
      errIf (getBits v 9 2 = 3 || getBits v 32 13 = 0 || 4096 < getBits v 32 13) eARG])
    (fun _ => bindGlaze p v)

def execGjobWrite (src : Src) (p : Nat) (v : W64) (s : State) : Host.Outcome State Fault Refusal :=
  .next ((inTurn src (.gjobWrite src p v) (effGjobWrite src p v)).run s)

/-- SHADOW_OPEN: the job's first bucket has reached DELIVER on the unit and no pin holds the other generation (R339). -/
def effShadowOpen (p : Nat) : Eff := fun s =>
  let j := s.get fGjob p
  let n := s.ax ⟨.stepNo, j, 0⟩
  let k := s.shadowSlot p
  if 48 ≤ p ∨ !s.on fGjobValid p ∨ s.get fGlzState p ≠ 1 ∨ s.shadowOpened p n ∨ s.pinned p k ∨
      !(s.gl.ranges.any fun r => r.port = p) then []
  else doAll [writeHeader p 0 k n 0 1 s.self, mirrorWrite p k 0 64 n] s

def execShadowOpen (p : Nat) (s : State) : Host.Outcome State Fault Refusal := .next ((effShadowOpen p).run s)

/-- A range of a unit marked. -/
def markRange (p i st : Nat) : Eff := modGl fun g =>
  { g with ranges := g.ranges.map fun r => if r.port = p && r.idx = i then { r with st := st } else r }

/-- What a range reads: master, moments, the committed streaming copy's headers are inside its extents. -/
def State.rangeBad (s : State) (p : Nat) (r : REnt) (opt : Nat) : Option (Nat × Nat) :=
  let k := s.get (fCgen 0) p
  let ex := [(r.master, 4 * r.n), (r.mOff, r.mBytes * r.n)] ++ (if opt = 1 then [(r.vOff, r.mBytes * r.n)] else [])
  (ex.map fun x => (s.genAddr p 0 k x.1, x.2)).find? fun x => s.badBursts x.1 x.2 ≠ []

/-- GLAZE_RANGE_UPDATE: a delivered range is updated and written into the open shadow.  A bad burst under its reads, or
a streaming copy R178 refuses, leaves the range unaccepted with the error recorded (DEDUCED, log entry 25). -/
def effGlazeRangeUpdate (p range : Nat) : Eff := fun s =>
  match s.gl.ranges.find? fun x => x.port = p && x.idx = range && x.st = 0 with
  | none => []
  | some x =>
    match s.bkt (s.get fGjob p) x.bucket with
    | none => []
    | some b =>
      if s.get fGlzState p ≠ 1 ∨ !s.shadowOpened p b.step ∨ b.state ≠ 3 then [] else
      let r := s.rangeEnt p range
      let k := s.shadowSlot p
      let h := hypOf (((s.gl.hyper.find? fun x => x.1 = p).map (·.2)).getD []) r.hset b.step
      match s.rangeBad p r h.opt with
      | some x => doAll [badMeet 2 x.1 x.2, recordErrFree .glaze p eECC_UE, markRange p range 3] s
      | none =>
        let es := s.rangeElems p b r
        let resel := r.resel && s.get fResK p ≠ 0 && b.step % s.get fResK p = s.get fResPhase p
        let copy : Wedged := if r.stream then s.streamCopy p r resel (es.map fun e => e.w) else {}
        let conv (e : GElem) : Fl :=
          let fm := (momOut r.bf e.kept e.m).2.or (if h.opt = 1 then (momOut r.bf e.kept e.v).2 else {})
          if r.stream then fm.or ((ffmtOf (wFmt r.wedge)).encode .rne r.sat (f32 e.w)).2 else fm
        doAll [shadowPut p k r.master b.step (es.flatMap fun e => leBytes 4 e.w.toNat),
          shadowPut p k r.mOff b.step (es.flatMap fun e => leBytes r.mBytes (momOut r.bf e.kept e.m).1),
          whenE (fun _ => h.opt = 1) (shadowPut p k r.vOff b.step (es.flatMap fun e => leBytes r.mBytes (momOut r.bf e.kept e.v).1)),
          whenE (fun _ => r.stream) (doAll [shadowPut p k r.sOff b.step copy.bytes,
            whenE (fun _ => wMode r.wedge ≠ 0) (countWedge .glaze 0x160 p copy.tiles 0 copy.bytes.length)]),
          forEach es (fun e => countFl .glaze 0x150 p (e.fl.or (conv e)) 1),
          whenE (fun _ => es.any fun e => e.grad || e.result) (modGl fun g => { g with tainted := p :: g.tainted }),
          addSat fPGrad p (es.filter fun e => e.grad).length, addSat fPResult p (es.filter fun e => e.result).length,
          whenE (fun s => s.on fGlzStat p) (addSat fElems p r.n),
          match copy.err with
          | some c => doAll [whenE (fun _ => c = eECC_UE) (badMeet 2 (s.genAddr p 0 (s.get (fCgen 0) p) (r.sOff + copy.bytes.length)) 64),
              recordErrFree .glaze p c, markRange p range 3]
          | none => markRange p range 1] s

def execGlazeRangeUpdate (p range : Nat) (s : State) : Host.Outcome State Fault Refusal :=
  .next ((effGlazeRangeUpdate p range).run s)

/-! ## Votes and the commit (R338, R340) -/

/-- Votes of a kind a coordinator holds for a step. -/
def State.votesOf (s : State) (j n : Nat) (held : Bool) : Nat :=
  (s.gl.votes.filter fun v => v.job = j && v.step = n && v.held = held).length

/-- The coordinator's commit point, one arbiter item (R341): COMMIT leaves for every module, and R341 takes effect. -/
def coordCommit (j n : Nat) : Eff :=
  doAll [fun _ => [.seq], setAx ⟨.committed, j, 0⟩ (n + 1),
    modGl fun g => { g with acks := g.acks.filter (fun a => a.1 ≠ j), votes := g.votes.filter (fun v => v.job ≠ j || n < v.step) },
    castJob j 0x13 (commitBytes j n), commitPoint j n]

/-- R340: the coordinator of a job decides: a PREPARED vote of every module and no HELD one. -/
def coordDecide (j n : Nat) : Eff := fun s =>
  if s.isCoord j ∧ s.ax ⟨.stepOpen, j, 0⟩ ≠ 0 ∧ s.ax ⟨.stepNo, j, 0⟩ = n ∧ s.ax ⟨.voted, j, 0⟩ = 1 ∧ s.votesOf j n true = 0 ∧
      s.jobModCount j ≤ s.votesOf j n false then coordCommit j n s
  else []

/-- VOTES of a job's units shows the counts held for step n (Table 12-7). -/
def showVotes (j n : Nat) : Eff := fun s =>
  forEach (s.jobGlaze j) (fun p => setReg .glaze p 0x140
    (BitVec.ofNat 64 (s.votesOf j n false % 8192 + s.votesOf j n true % 8192 * 2 ^ 16 + n % 2 ^ 32 * 2 ^ 32))) s

/-- A vote reaches the coordinator: the first of a module for a step is held, and VOTES shows the counts of the open
step. -/
def takeVote (j n m : Nat) (held : Bool) : Eff := fun s =>
  if (s.gl.votes.any fun v => v.job = j && v.step = n && v.module_ = m) ∨ !s.isCoord j then [] else
  doAll [modGl fun g => { g with votes := g.votes ++ [⟨j, n, m, held⟩] },
    whenE (fun s => s.ax ⟨.stepNo, j, 0⟩ = n) (showVotes j n), coordDecide j n] s

/-- Every glaze unit bound to a job has accepted every range. -/
def State.allAccepted (s : State) (j : Nat) : Bool :=
  (s.jobGlaze j).all fun p => (List.range (s.get fRangeCnt p)).all fun i =>
    s.gl.ranges.any fun r => r.port = p && r.idx = i && r.st = 2

/-- R340: the module votes on its open step. -/
def castVote (j : Nat) : Eff := fun s =>
  let n := s.ax ⟨.stepNo, j, 0⟩
  let ps := s.jobGlaze j
  let held := (ps.any fun p => s.get fGpolicy p = 0) && ps.any fun p => s.gl.tainted.contains p
  doAll [setAx ⟨.voted, j, 0⟩ (if held then 2 else 1),
    forEach ps (fun p => doAll [setF fGlzState p (if held then 3 else 2), setEvt .glaze p (if held then 3 else 0),
      whenE (fun _ => held) (addSat fHeldSteps p 1)]),
    if s.isCoord j then takeVote j n s.self held
    else withSome (s.jobCoord j) skip fun c => sendDgram c 0x12 (voteBytes j (if held then 2 else 1) n)] s

/-- A module with no glaze unit of the job has nothing to accept: it votes once its kilns are past the step boundary and
its buckets are DONE (DEDUCED, log entry 28). -/
def bareVote (j : Nat) : Eff := fun s =>
  if s.jobGlaze j = [] ∧ s.ax ⟨.stepOpen, j, 0⟩ ≠ 0 ∧ s.ax ⟨.voted, j, 0⟩ = 0 ∧
      (s.jobKilns j).all (fun k => !s.on fInStep k) ∧ (s.pg.buckets.all fun b => b.job ≠ j || b.state = 4)
  then castVote j s else []

/-- BUCKET_DONE. -/
def effBucketDone (job bucket : Nat) : Eff := fun s =>
  match s.bkt job bucket with
  | none => []
  | some b =>
    if b.state ≠ 3 ∨ !s.bktAccepted b ∨ (s.prevBkt b).any (fun x => x.state ≠ 4) then [] else
    let b' := { b with state := 4 }
    doAll [putBkt b', bktStatus b', lastDone b', bktPoison b, addSat fBucketsDone b.chan 1, setEvt .pug b.chan 0,
      whenE (fun _ => b.sat ≠ 0) (setEvt .pug b.chan 2), bareVote job] s

def execBucketDone (job bucket : Nat) (s : State) : Host.Outcome State Fault Refusal := .next ((effBucketDone job bucket).run s)

/-- GLAZE_RANGE_ACCEPTED: the stack has taken every shadow write of a range; the last range of the job makes the module
vote. -/
def effGlazeRangeAccepted (p range : Nat) : Eff := fun s =>
  if !(s.gl.ranges.any fun r => r.port = p && r.idx = range && r.st = 1) then [] else
  let j := s.get fGjob p
  doAll [markRange p range 2,
    whenE (fun s => s.allAccepted j && s.ax ⟨.voted, j, 0⟩ = 0 && s.ax ⟨.stepOpen, j, 0⟩ ≠ 0) (castVote j)] s

def execGlazeRangeAccepted (p range : Nat) (s : State) : Host.Outcome State Fault Refusal :=
  .next ((effGlazeRangeAccepted p range).run s)

/-- COMMIT_TIMEOUT: COMMIT_TMO passes in PREPARED. -/
def effCommitTimeout (p : Nat) : Eff := fun s =>
  if 48 ≤ p ∨ s.get fGlzState p ≠ 2 then [] else
  doAll [recordErr .glaze p eTIMEOUT (s.ax ⟨.stepNo, s.get fGjob p, 0⟩), setEvt .glaze p 5] s

def execCommitTimeout (p : Nat) (s : State) : Host.Outcome State Fault Refusal := .next ((effCommitTimeout p).run s)

/-- VOTE_RESEND: a vote not yet decided is sent again (R386). -/
def effVoteResend (j : Nat) : Eff := fun s =>
  if s.ax ⟨.voted, j, 0⟩ = 0 ∨ s.ax ⟨.stepOpen, j, 0⟩ = 0 ∨ s.isCoord j then [] else
  withSome (s.jobCoord j) skip (fun c => sendDgram c 0x12 (voteBytes j (s.ax ⟨.voted, j, 0⟩) (s.ax ⟨.stepNo, j, 0⟩))) s

def execVoteResend (j : Nat) (s : State) : Host.Outcome State Fault Refusal := .next ((effVoteResend j).run s)

/-- COMMIT_RESEND: COMMIT again to each module of the job that has not acknowledged it (R340). -/
def effCommitResend (j : Nat) : Eff := fun s =>
  match s.ax ⟨.committed, j, 0⟩ with
  | 0 => []
  | n + 1 => forEach ((s.jobModules j).filter fun m => m ≠ s.self && !s.gl.acks.contains (j, m))
      (fun m => sendDgram m 0x13 (commitBytes j n)) s

def execCommitResend (j : Nat) (s : State) : Host.Outcome State Fault Refusal := .next ((effCommitResend j).run s)

/-! ## Mirror deadlines and MIRROR_SYNC -/

/-- MIRROR_TIMEOUT: MIRROR_TMO passes after the commit point without the partner's acknowledgement (R344). -/
def effMirrorTimeout (p : Nat) : Eff := fun s =>
  match s.flipOf p with
  | none => []
  | some x => mirrorBreak p x.step s

def execMirrorTimeout (p : Nat) (s : State) : Host.Outcome State Fault Refusal := .next ((effMirrorTimeout p).run s)

/-- The MIRROR_SYNC commands that run for a job. -/
def State.syncRuns (s : State) (j : Nat) : List Running :=
  s.hi.running.filter fun r => r.blk = .glaze && r.op = 0x10 && getBits (argN r.args 0) 0 8 = j

/-- R345: L0 fails a MIRROR_SYNC: LINK_DOWN, and MSTATE is BROKEN again. -/
def syncFail (j : Nat) : Eff := fun s =>
  doAll [forEach ((s.jobGlaze j).filter fun p => s.get fMstate p = 3) (fun p => setF fMstate p 2),
    forEach (s.syncRuns j) (fun r => finish r eLINK_DOWN 0)] s

/-- R344, R345: L0 goes down: units with a mirror write or flip outstanding, `out` those whose MWRITEs were not acknowledged, are BROKEN,
and syncs in progress fail. -/
def mirrorLost (out : List Nat) : Eff := fun s =>
  doAll [forEach (ports48.filter fun p => s.get fMstate p = 1 && ((s.flipOf p).isSome || out.contains p ||
      s.gl.mirrorQ.any fun x => x.port = p)) (fun p =>
        mirrorBreak p ((s.flipOf p).elim (s.ax ⟨.stepNo, s.get fGjob p, 0⟩) fun x => x.step)),
    forEach (((ports48.filter fun p => s.get fMstate p = 3).map fun p => s.get fGjob p).dedup) syncFail] s

/-- The partner's mirror slot that is not committed: the one a unit did not flip last, else the matching one (DESIGN CHOICE, log entry
27). -/
def State.syncSlot (s : State) (p : Nat) : Nat :=
  match s.ax ⟨.mirrorSlot, p, 0⟩ with
  | 0 => s.get (fCgen 0) p
  | k + 1 => 1 - k

/-- A unit's whole committed generation, header included, then its flip (R345). -/
def syncUnit (j p : Nat) : Eff := fun s =>
  let k := s.get (fCgen 0) p
  let d := s.syncSlot p
  doAll [forEach (s.mirrorMsgs p k d 0 (s.regionSize p k)) (fun m => sendL0 0x30 m),
    sendL0 0x31 (leBytes 1 j ++ leBytes 1 d ++ leBytes 2 0 ++ leBytes 4 (s.get (fGenVer 0) p) ++ leBytes 6 (2 ^ p) ++ leBytes 2 0),
    setAx ⟨.mirrorSlot, p, 0⟩ (d + 1)] s

/-- MIRROR_SYNC (R345). -/
def mirrorSyncSpec (args : List W64) : CmdSpec where
  argBad s := !argsZeroFrom args 1 || s.jobGlaze (getBits (argN args 0) 0 8) = [] || (argN args 0).toNat ≥ 256
  blocked s :=
    let ps := s.jobGlaze (getBits (argN args 0) 0 8)
    if ps.any fun p => s.get fGlzState p ≠ 0 || s.get fMstate p = 0 || s.get fMstate p = 3 then some eSTATE else none
  run _ := fun s =>
    let j := getBits (argN args 0) 0 8
    doAll [forEach (s.jobGlaze j) (fun p => setF fMstate p 3),
      if s.lkUp 16 && (s.boardPeer 16).any (fun x => x.st ≠ 2) then forEach (s.jobGlaze j) (syncUnit j) else syncFail j] s

def execMirrorSync (c : CmdCtx) (inst : Nat) (args : List W64) (s : State) : Host.Outcome State Fault Refusal :=
  .next ((admitCmd c .glaze inst 0x10 args (mirrorSyncSpec args)).run s)

/-- MIRROR_SYNC_DONE: everything a sync sent is acknowledged. -/
def effMirrorSyncDone (j : Nat) : Eff := fun s =>
  let ps := s.jobGlaze j
  if s.syncRuns j = [] ∨ !s.mirrorIdle ∨ ps.all (fun p => s.get fMstate p ≠ 3) then [] else
  doAll [forEach ps (fun p => doAll [setF fMstate p 1, setF fDurable p (s.get fCommitted p), setEvt .glaze p 6]),
    forEach (s.syncRuns j) (fun r => finish r eOK (BitVec.ofNat 64 ((ps.head?.map fun p => s.get fCommitted p).getD 0)))] s

def execMirrorSyncDone (j : Nat) (s : State) : Host.Outcome State Fault Refusal := .next ((effMirrorSyncDone j).run s)

end Sys2Proof.Machine
end

