-- ==== Sys2Proof/Machine/Tdma.lean ====
section
/-! DEFINITION. The tile DMA engine (chapter 08): its rings, its descriptors and their checks, transfers between local
and remote ends, and the scratchpad's own events (R219, R220, R238). -/

namespace Sys2Proof.Machine

/-! ## The TDMA page (Table 08-8) -/

def fStop (r : Nat) : Fld := ⟨.tdma, 0x010, r, 1⟩
def fDmaStat : Fld := ⟨.tdma, 0x010, 2, 1⟩
def fRState (r : Nat) : Fld := ⟨.tdma, 0x018, 2 * r, 2⟩
def fHBase : Fld := ⟨.tdma, 0x110, 0, 64⟩
def fHLog : Fld := ⟨.tdma, 0x118, 0, 4⟩
def fHEn : Fld := ⟨.tdma, 0x118, 8, 1⟩
def fHHead : Fld := ⟨.tdma, 0x120, 0, 12⟩
def fDmaRd : Fld := ⟨.tdma, 0x140, 0, 48⟩
def fDmaWr : Fld := ⟨.tdma, 0x148, 0, 48⟩
def fDmaRmw : Fld := ⟨.tdma, 0x150, 0, 32⟩

/-! ## Descriptors (Table 08-2) -/

def DmaJob.keep (j : DmaJob) : Bool := getBits j.w0 1 1 = 1
def DmaJob.crcOn (j : DmaJob) : Bool := getBits j.w0 2 1 = 1
def DmaJob.srcKind (j : DmaJob) : Nat := getBits j.w0 4 4
def DmaJob.dstKind (j : DmaJob) : Nat := getBits j.w0 8 4
def DmaJob.sig (j : DmaJob) : Nat := getBits j.w0 12 6
def DmaJob.evt (j : DmaJob) : Bool := getBits j.w0 18 1 = 1
def DmaJob.cone (j : DmaJob) : Nat := getBits j.w0 19 3
def DmaJob.len (j : DmaJob) : Nat := getBits j.w0 32 24 + 1
def DmaJob.src (j : DmaJob) : Nat := j.w1.toNat
def DmaJob.dst (j : DmaJob) : Nat := j.w2.toNat
def DmaJob.word (j : DmaJob) : Nat := getBits j.w3 0 32

/-- The most bytes a descriptor stores at DST, the CRC included. -/
def DmaJob.room (j : DmaJob) : Nat :=
  (if wMode j.word = 0 then j.len else wedgeWorst j.word (j.len / fmtBytes (wFmt j.word))) + (if j.crcOn then 4 else 0)

/-- Table 08-2: a loaded kiln holds a reservation under a cone at the local port of the tile's router. -/
def State.coneHeld (s : State) (p cone : Nat) : Bool :=
  s.net.rsv.any fun r => r.p = p && r.cone = cone && r.kind = 9

/-- Table 08-4: whether a descriptor fails ARG at its check; `held` says which cones the tile's reservations have. -/
def DmaJob.argBad (j : DmaJob) (held : Nat → Bool) : Bool :=
  let remote (k : Nat) : Bool := k = 2 || k = 3
  let anyRemote := remote j.srcKind || remote j.dstKind
  getBits j.w0 22 10 ≠ 0 || 3 < j.srcKind || 3 < j.dstKind || (remote j.srcKind && remote j.dstKind) ||
  (j.ring = 0 && (j.srcKind = 2 || j.dstKind = 2)) ||
  (if j.ring = 0 && anyRemote then j.cone = 0 || !held j.cone else j.cone ≠ 0) ||
  (if j.ring = 0 then 48 ≤ j.sig && j.sig ≠ 63 else j.sig ≠ 63) || (j.ring = 0 && j.evt) || (j.ring = 1 && j.keep) ||
  !wedgeOk j.word j.len ||
  (j.srcKind = 0 && spSize < j.src + j.len) || (j.dstKind = 0 && spSize < j.dst + j.room) ||
  (j.srcKind = 1 && 0x10000 < j.src + j.len) || (j.dstKind = 1 && 0x10000 < j.dst + j.len) ||
  (j.srcKind = 3 && 2 ^ 48 ≤ j.src) || (j.dstKind = 3 && 2 ^ 48 ≤ j.dst) ||
  (j.dstKind = 1 && (j.dst % 16 ≠ 0 || j.len % 16 ≠ 0 || j.crcOn || wMode j.word ≠ 0)) ||
  (wMode j.word ≠ 0 && (j.dst % 64 ≠ 0 || j.dstKind = 1))

/-! ## The data of a transfer -/

/-- The bytes of instruction slots from an IMEM address on. -/
def State.imemRds (s : State) (p a n : Nat) : List Byte :=
  (List.range n).map fun i =>
    BitVec.ofNat 8 ((s.slot p ((a + i) / 0x8000) ((a + i) % 0x8000 / 16)).toNat >>> (8 * ((a + i) % 16)))

/-- The source bytes of a local or host source, up to the line that stops the transfer, and its code (R234). -/
def State.dmaSource (s : State) (j : DmaJob) (host : List Byte) (stop : Option Nat) : List Byte × Option Nat :=
  match j.srcKind with
  | 0 =>
    match (List.range j.len).find? fun i => s.ecc ≠ [] && s.badIn j.p fun a => a = j.src + i with
    | some i => (s.spRds j.p j.src (i - (j.src + i) % 64), some eECC_UE)
    | none => (s.spRds j.p j.src j.len, none)
  | 1 => (s.imemRds j.p j.src j.len, none)
  | 2 =>
    let all := (host ++ List.replicate j.len 0).take j.len
    match (if s.linkUp (s.get fRootLink 0) then stop else some 0) with
    | some n => (all.take n, if n < j.len then some eTIMEOUT else none)
    | none => (all, none)
  | _ => ([], none)

/-- What D stores at DST for source bytes (R232): plain, or the wedging stage's tiles, of which the source's bytes at hand give
the first; an error of the stage, `miss` where `old` reads nothing at the destination. -/
def dmaStage (d24 : Bool) (j : DmaJob) (data : List Byte) (old : Nat → Nat → Option (List Byte)) (miss : Nat) : Wedged :=
  if wMode j.word = 0 then { bytes := data }
  else
    let e := fmtBytes (wFmt j.word)
    let el (i : Nat) : Nat := ofBytes ((data.drop (i * e)).take e)
    wedgeAs d24 (fun _ => wMode j.word) j.word (j.len / e) (data.length / e) el (fun i => decodeElem (wFmt j.word) (el i)) old miss

/-- The reads of the destination that KEEP makes (R232): the header of each tile it comes to, and of one that fits the stored
positions. -/
def keepReads (w : Wedged) (old : Nat → Nat → Option (List Byte)) : List (Nat × Nat) :=
  let starts := (0 :: w.tiles.map (·.1)).take (w.tiles.length + if w.err.isSome then 1 else 0)
  starts.zipIdx.flatMap fun a => (a.1, 64) ::
    match old a.1 64 with
    | some hd =>
      let q := (parseHead hd).positions
      if q.2 = 0 ∨ (a.2 = w.tiles.length ∧ (w.err = some eARG ∨ w.err = some eABSENT)) then [] else [(a.1 + 64 + q.1, q.2)]
    | none => []

/-- The number of read-modify-writes of a write of n bytes at a (R230). -/
def rmwCount (a n : Nat) : Nat :=
  if n = 0 then 0 else
  let e := a + n
  (if a % 8 ≠ 0 ∨ (a / 64 = e / 64 ∧ e % 8 ≠ 0) then 1 else 0) + (if e % 8 ≠ 0 ∧ a / 64 ≠ e / 64 then 1 else 0)

/-- Of a write of n bytes at a, the first that meets a bad word it covers in part (R225). -/
def State.dmaBadWrite (s : State) (p a n : Nat) : Option Nat :=
  if s.ecc = [] then none else (List.range n).find? fun i => !s.wordOpen p (span a n) (a + i)

/-- R123: whether a slot write to an IMEM address is refused. -/
def State.imemRefused (s : State) (p a : Nat) : Bool := s.get fTileState p ≠ 0 && a / 0x8000 = s.get fActive p

/-- R123: a slot written; writing the shadow bank clears SHADOW_READY. -/
def imemPut (p bank slot : Nat) (v : W128) : Eff := fun s =>
  doAll [fun _ => [.imem (imemKey p bank slot) v],
    whenE (fun _ => bank % 2 ≠ s.get fActive p) (setF fShadowReady p 0)] s

/-- Bytes written to IMEM slots in order, up to the first refused one (R231). -/
def imemWrites (p a : Nat) (data : List Byte) : Eff :=
  forEach (List.range (data.length / 16)) fun i => whenE (fun s => !s.imemRefused p (a + 16 * i))
    (imemPut p ((a + 16 * i) / 0x8000) ((a + 16 * i) % 0x8000 / 16) (BitVec.ofNat 128 (ofBytes ((data.drop (16 * i)).take 16))))

/-- A job changed. -/
def putJob (j : DmaJob) : Eff := modTl fun t =>
  { t with jobs := t.jobs.map fun x => if x.p = j.p then j else x }

/-- D's transfer of a tile in progress. -/
def State.job (s : State) (p : Nat) : Option DmaJob := s.tl.jobs.find? fun j => j.p = p

/-- The requests that write bytes to the store, one for each store line, so that an error stops the transfer at the
failing line (R234, R300, DESIGN CHOICE, log entry 33). -/
def storeReqs (fuel a pos : Nat) (data : List Byte) : List DReq :=
  match fuel with
  | 0 => []
  | n + 1 => if data = [] then [] else
      let k := min (64 - a % 64) data.length
      ⟨0, true, true, a, pos, 1, data.take k⟩ :: storeReqs n (a + k) (pos + k) (data.drop k)

/-- The requests that read n lines from the store, one line each. -/
def readReqs (a pos n : Nat) (forDst : Bool) : List DReq :=
  (List.range n).map fun i => ⟨0, false, forDst, a + 64 * i, pos + 64 * i, 1, []⟩

/-- Bytes [off, off + n) of the pieces read so far; none where a piece is missing. -/
def piecesGet (l : List (Nat × List Byte)) (off n : Nat) : Option (List Byte) :=
  let byte (i : Nat) : Option Byte := l.findSome? fun x => if x.1 ≤ off + i then x.2[off + i - x.1]? else none
  (List.range n).mapM byte

/-- BYTES_RD, BYTES_WR and RMW, while STAT_EN. -/
def dmaCount (p rd wr rmw : Nat) : Eff :=
  whenE (fun s => s.on fDmaStat p) (doAll [addSat fDmaRd p rd, addSat fDmaWr p wr, addSat fDmaRmw p rmw])

/-- The bytes a transfer stores, at a local destination or to the host, up to the line that fails there; for STORE, the
requests that will.  What the source or the wedging stage ended it with is its code, else what the destination did. -/
def dmaWrite (j : DmaJob) (data : List Byte) (stop : Option Nat) (old : Nat → Nat → Option (List Byte)) (miss : Nat) : Eff := fun s =>
  let w := dmaStage (s.grade = 3) j data old miss
  let err := w.err <|> stop
  let crc := crc32c w.bytes
  let all := w.bytes ++ (if j.crcOn ∧ err = none then leBytes 4 crc else [])
  let body := w.bytes.length
  let j1 (n : Nat) (code : Option Nat) : DmaJob := {
    j with
    phase := 3, status := (if n < all.length then code else err).getD 0, stored := min n body, crc := crc, reqs := [], outst := [], tiles := [] }
  let done (n rmw : Nat) (code : Option Nat) : Eff := doAll [putJob (j1 n code),
    whenE (fun _ => wMode j.word ≠ 0) (countWedge .tdma 0x158 j.p w.tiles 0 (min n body)), dmaCount j.p data.length n rmw]
  match j.dstKind with
  | 0 =>
    let n := match s.dmaBadWrite j.p j.dst all.length with | some i => (j.dst + i) / 64 * 64 - j.dst | none => all.length
    let met := if n < all.length then (j.dst + n) / 64 * 64 + 64 else j.dst + n
    let reads := if wMode j.word = 5 then keepReads w old else []
    doAll [whenE (fun _ => reads ≠ []) (eccRead j.p 5 fun ln => reads.any fun x => (j.dst + x.1) / 64 ≤ ln && ln ≤ (j.dst + x.1 + x.2 - 1) / 64),
      eccReadW j.p 5 (fun k => decide (8 * k < met) && !wholeWord (span j.dst all.length) (8 * k) &&
        (List.range 8).any fun i => span j.dst all.length (8 * k + i)),
      spWrIn j.p (span j.dst all.length) j.dst (all.take n), done n (rmwCount j.dst n) (some eECC_UE)] s
  | 1 =>
    let bad := (List.range (all.length / 16)).find? fun i => s.imemRefused j.p (j.dst + 16 * i)
    let n := (bad.map (16 * ·)).getD all.length
    doAll [imemWrites j.p j.dst (all.take n), done n 0 (some eIMEM_ACTIVE),
      withSome bad skip fun i => recordErr .tile j.p eIMEM_ACTIVE ((j.dst + 16 * i) / 0x8000 * 0x800 + (j.dst + 16 * i) % 0x8000 / 16)] s
  | 2 =>
    let n := if s.linkUp (s.get fRootLink 0) then min (j.hostStop.getD all.length) all.length else 0
    doAll [whenE (fun _ => n ≠ 0) (emit (.hostWrite 0 (s.get fRootLink 0) j.dst (all.take n))), done n 0 (some eTIMEOUT)] s
  | _ =>
    let j2 := { j1 all.length none with phase := if all = [] then 3 else 2, stored := 0, body := body, tiles := w.tiles }
    doAll [putJob { j2 with reqs := storeReqs (all.length + 1) j.dst 0 all }, dmaCount j.p data.length 0 0] s

/-- The code of a destination that has not been read yet: no code of Table 02-14. -/
def unread : Nat := 0x100

/-- The transfer goes on with its source's bytes at hand and, for KEEP to STORE, the old tiles it has read so far: it asks for the
header or the positions it needs next, or writes; `miss` is the code of a read of the destination that has failed.
DEDUCED, log entry 61. -/
def dmaGo (j : DmaJob) (data : List Byte) (stop : Option Nat) (old : State → Nat → Nat → Option (List Byte)) (miss : Nat) : Eff := fun s =>
  if wMode j.word = 5 ∧ j.dstKind = 3 then
    let w := dmaStage (s.grade = 3) j data (piecesGet j.olds) miss
    if w.err = some unread then
      let a := w.bytes.length
      let need := match piecesGet j.olds a 64 with
        | none => (a, 1)
        | some hd => (a + 64 + (parseHead hd).positions.1, (parseHead hd).positions.2 / 64)
      putJob { j with phase := 1, status := stop.getD 0, pieces := [(0, data)], reqs := readReqs (j.dst + need.1) need.1 need.2 true } s
    else dmaWrite j data stop (piecesGet j.olds) miss s
  else dmaWrite j data stop (old s) miss s

/-- What stands at the destination of a KEEP: scratchpad lines without a bad word, or host memory as read (R224, R232). -/
def oldAt (j : DmaJob) (host : List Byte) (s : State) (a n : Nat) : Option (List Byte) :=
  if j.dstKind = 2 then
    (if !s.linkUp (s.get fRootLink 0) || (j.hostStop.elim false fun m => m < a + n) then none
      else some (((host ++ List.replicate (a + n) 0).drop a).take n))
  else if s.ecc ≠ [] && s.badIn j.p (span (j.dst + a) n) then none else some (s.spRds j.p (j.dst + a) n)

/-! ## The DMA instruction (R228, R229) -/

/-- The instruction at the head of D's queue, issued and not done. -/
def State.dHead (s : State) (p : Nat) : Option QInstr :=
  match s.head p 5 with
  | some i => if i.issued && !i.worked && iOp i.word = 0x80 then some i else none
  | none => none

/-- DMA: the COUNT descriptors of ring 0 are handed to D, and ring 0 runs (Table 08-5). -/
def effDma (t : Nat) : Eff := fun s =>
  let p := s.phys t
  match s.dHead p with
  | none => []
  | some i =>
    if s.ax ⟨.dmaLeft, p, 0⟩ ≠ 0 ∨ (s.tl.jobs.any fun j => j.p = p && j.ring = 0) ∨ s.get (fRState 0) p ≠ 0 ∨
        s.ax ⟨.dmaErr, p, 0⟩ ≠ 0 then []
    else doAll [setAx ⟨.dmaLeft, p, 0⟩ (sb i.word 80 12 + 1), setF (fRState 0) p 1] s

def execDma (t : Nat) (s : State) : Host.Outcome State Fault Refusal := .next ((effDma t).run s)

/-- Ring 1 loses ENABLE: IDLE now, or after its current descriptor (Table 08-5). -/
def hDisable (p : Nat) : Eff := fun s =>
  doAll [setF fHEn p 0, setAx ⟨.hTail, p, 0⟩ 0,
    whenE (fun s => !(s.tl.jobs.any fun j => j.p = p && j.ring = 1)) (setF (fRState 1) p 0)] s

/-- R235: ring 1 of tile p loses its host at an index. -/
def hLost (p idx : Nat) : Eff := doAll [hDisable p, recordErr .tdma p eTIMEOUT (0x10000 + idx)]

/-! ## Starting a descriptor (R226, R234) -/

/-- Ring r of tile p holds work for D. -/
def State.ringWork (s : State) (p r : Nat) : Bool :=
  s.get (fRState r) p = 1 &&
  if r = 0 then s.ax ⟨.dmaLeft, p, 0⟩ ≠ 0 && s.ax ⟨.dmaErr, p, 0⟩ = 0
  else s.on fHEn p && s.ax ⟨.hTail, p, 0⟩ ≠ 0 && s.get fHHead p ≠ s.ax ⟨.hTail, p, 0⟩ - 1

/-- D takes ring r next: it is idle, the ring has work, and the rings alternate. -/
def State.dmaTurn (s : State) (p r : Nat) : Bool :=
  (s.job p).isNone && s.ringWork p r && !(s.ringWork p (1 - r) && s.ax ⟨.dmaLast, p, 0⟩ = r + 1)

/-- The words of a descriptor's 32 bytes. -/
def descWord (l : List Byte) (i : Nat) : W64 := BitVec.ofNat 64 (ofBytes ((l.drop (8 * i)).take 8))

/-- DMA_DESCRIPTOR_START: D reads the next descriptor of a ring (`bytes` from the host for ring 1, `host` what a read of
host memory returns, `stop` the bytes at the host end before the line that fails at PCIe; for KEEP to the host, `host` is
what stands at DST), checks it, and runs it as far as local data goes. -/
def effDmaDescriptorStart (t r : Nat) (bytes host : List Byte) (stop : Option Nat) : Eff := fun s =>
  let p := s.phys t
  if !s.dmaTurn p r ∨ 2 ≤ r then [] else
  let idx := if r = 0 then s.get fR0Head p else s.get fHHead p
  if r = 1 ∧ !s.linkUp (s.get fRootLink 0) then hLost p idx s else
  let at0 := s.get fR0Base p + 32 * idx
  let l := if r = 0 then s.spRds p at0 32 else bytes
  let bad := r = 0 && s.ecc ≠ [] && s.badIn p fun a => at0 ≤ a && a < at0 + 32
  let j : DmaJob := {
    p := p, ring := r, idx := idx, hostStop := stop
    w0 := descWord l 0, w1 := descWord l 1, w2 := descWord l 2, w3 := descWord l 3 }
  let size := 2 ^ (if r = 0 then s.get fR0Log p else s.get fHLog p)
  if getBits j.w0 0 1 = 0 ∧ !bad then
    (if r = 1 then doAll [setAx ⟨.hTail, p, 0⟩ 0, setF (fRState 1) p 0] s else [])
  else
    let take : Eff := doAll [eccRead p 5 (fun ln => r = 0 && ln = at0 / 64), setAx ⟨.dmaLast, p, 0⟩ (r + 1),
      if r = 0 then doAll [setF fR0Head p ((idx + 1) % size), setAx ⟨.dmaLeft, p, 0⟩ (s.ax ⟨.dmaLeft, p, 0⟩ - 1)]
      else setF fHHead p ((idx + 1) % size)]
    let add (j : DmaJob) : Eff := modTl fun t => { t with jobs := t.jobs ++ [j] }
    if bad then doAll [take, add { j with phase := 4, status := eECC_UE }] s
    else if j.argBad (s.coneHeld p) then doAll [take, add { j with phase := 4, status := eARG }] s
    else if j.srcKind = 3 then
      let n := (j.src + j.len - 1) / 64 + 1 - j.src / 64
      doAll [take, add { j with reqs := readReqs (j.src / 64 * 64) 0 n false }] s
    else
      let d := s.dmaSource j host stop
      doAll [take, add j, whenE (fun _ => j.srcKind = 0)
        (eccRead p 5 fun ln => j.src / 64 ≤ ln && ln ≤ (j.src + (if d.2.isSome then d.1.length else j.len - 1)) / 64),
        whenE (fun _ => j.dstKind = 2 && wMode j.word = 5) (emit (.hostRead 0 (s.get fRootLink 0) j.dst j.room)),
        dmaGo j d.1 d.2 (oldAt j host) (if j.dstKind = 2 then eTIMEOUT else if j.dstKind = 3 then unread else eECC_UE)] s

def execDmaDescriptorStart (t r : Nat) (bytes host : List Byte) (stop : Option Nat) (s : State) :
    Host.Outcome State Fault Refusal := .next ((effDmaDescriptorStart t r bytes host stop).run s)

/-! ## Responses from the edge (R299) -/

/-- A transfer to STORE ends: the tiles it stored are counted (R181). -/
def dmaEnd (j : DmaJob) : Eff :=
  doAll [putJob { j with phase := 3, tiles := [] },
    whenE (fun _ => j.tiles ≠ []) (countWedge .tdma 0x158 j.p j.tiles 0 j.stored)]

/-- A job whose requests have all been answered goes on to its next phase, or ends at the line that failed (R234). -/
def dmaNext (j : DmaJob) : Eff := fun s =>
  if j.reqs ≠ [] ∨ j.outst ≠ [] then putJob j s
  else
    let j' := { j with failAt := none, pieces := [] }
    let noOld : State → Nat → Nat → Option (List Byte) := fun s a n => oldAt j [] s a n
    let first := if j.dstKind = 0 then eECC_UE else unread
    match j.phase, j.failAt with
    | 0, some (n, code) =>
      doAll [putJob j, dmaGo j' ((piecesGet j.pieces (j.src % 64) n).getD []) (some code) noOld first] s
    | 0, none => match piecesGet j.pieces (j.src % 64) j.len with
      | some data => doAll [putJob j, dmaGo j' data none noOld first] s
      | none => putJob j s
    | 1, f =>
      let data := ((j.pieces.head?).map (·.2)).getD []
      doAll [putJob j, dmaGo { j' with status := 0 } data (if j.status = 0 then none else some j.status) noOld
        (match f with | some x => x.2 | none => unread)] s
    | _, some (_, code) => dmaEnd { j with status := code } s
    | _, none => dmaEnd j s

/-- A remote request failed: no further line is asked for, and what is under way is waited for. -/
def dmaFail (j : DmaJob) (q : DReq) (code : Nat) : Eff := fun s =>
  let n := if j.phase = 0 then q.pos - j.src % 64 else q.pos
  let j' : DmaJob := {
    j with
    reqs := if s.ax ⟨.outLeft, j.p, 15⟩ ≠ 0 then j.reqs.take 1 else []
    outst := j.outst.erase q
    failAt := match j.failAt with
      | some (m, c) => if m ≤ n then some (m, c) else some (n, code)
      | none => some (n, code) }
  dmaNext j' s

/-- DMA_REMOTE_RESPONSE: a read response's line, or the answer to a write, is handed to D by the router; a CTRL that was multicast
carries the same ARG (Table 09-4). -/
def effDmaRemoteResponse (i : Nat) : Eff := fun s =>
  match s.net.flits[i]? with
  | none => []
  | some f =>
    let p := f.at_
    if f.br ≠ 5 ∨ s.behind i f ∨ !(f.h.typ = 6 ∨ (f.h.typ = 1 ∧ f.ctrl) ∨ (f.h.typ = 0 ∧ f.h.rim ∧ f.h.stream < 4)) then [] else
    match s.job p with
    | none => dropFlit i s
    | some j =>
      if f.ctrl then
        let rid := f.h.arg / 4 % 32
        let code := f.h.arg / 256 % 256
        match j.outst.find? fun q => q.rid = rid && q.write with
        | none => dropFlit i s
        | some q =>
          if code ≠ 0 then doAll [dropFlit i, dmaFail j q code] s
          else doAll [dropFlit i, dmaCount p 0 q.data.length 0,
            dmaNext { j with outst := j.outst.erase q, stored := max j.stored (min j.body (q.pos + q.data.length)) }] s
      else
        let rid := if f.head then ofBytes (f.line.take 1) % 32 else s.ax ⟨.dmaRid, p, 0⟩ - 1
        match j.outst.find? fun q => q.rid = rid && !q.write with
        | none => doAll [dropFlit i, setAx ⟨.dmaRid, p, 0⟩ (rid + 1)] s
        | some q =>
          let code := ofBytes ((f.line.drop 2).take 1)
          if f.head ∧ code ≠ 0 then doAll [dropFlit i, setAx ⟨.dmaRid, p, 0⟩ (rid + 1), dmaFail j q code] s
          else
            let q' := if f.head then q else { q with data := q.data ++ f.line }
            let rest := j.outst.erase q
            let j' : DmaJob :=
              if f.tail then (if q.forDst then { j with outst := rest, olds := j.olds ++ [(q.pos, q'.data)] }
                else { j with outst := rest, pieces := j.pieces ++ [(q.pos, q'.data)] })
              else { j with outst := rest ++ [q'] }
            doAll [dropFlit i, setAx ⟨.dmaRid, p, 0⟩ (rid + 1), dmaNext j'] s

def execDmaRemoteResponse (i : Nat) (s : State) : Host.Outcome State Fault Refusal :=
  .next ((effDmaRemoteResponse i).run s)

/-! ## Completion (R233) -/

/-- Table 08-5: what a ring does when its current descriptor ends. -/
def ringAfter (p r : Nat) : Eff := fun s =>
  let st := s.get (fRState r) p
  if r = 1 ∧ !s.on fHEn p then setF (fRState 1) p 0 s
  else if st = 2 then doAll [setF (fRState r) p 3, whenE (fun _ => r = 1) (setEvt .tdma p 1)] s
  else if st = 1 then
    (if r = 0 then (if s.ax ⟨.dmaLeft, p, 0⟩ = 0 ∨ s.ax ⟨.dmaErr, p, 0⟩ ≠ 0 then setF (fRState 0) p 0 s else [])
     else if s.on fHEn p ∧ s.ax ⟨.hTail, p, 0⟩ ≠ 0 ∧ s.get fHHead p ≠ s.ax ⟨.hTail, p, 0⟩ - 1 then []
     else doAll [setAx ⟨.hTail, p, 0⟩ 0, setF (fRState 1) p 0] s)
  else []

/-- The write-back of words 3 and 0 of a descriptor: to ring 0 in the scratchpad, OWN = 1 with KEEP but for a failed check, to
ring 1 in host memory, where a loss disables the ring (R233–R235). -/
def dmaWriteBack (j : DmaJob) : Eff := fun s =>
  if j.ring = 0 then dmaWriteBack0 j j.status j.stored (j.keep && j.phase = 3) s
  else
    let a := s.get fHBase j.p + 32 * j.idx
    let w0 := setBits (setBits j.w0 56 8 j.status) 0 1 0
    if s.linkUp (s.get fRootLink 0) then
      doAll [emit (.hostWrite 0 (s.get fRootLink 0) (a + 24) (leBytes 8 (setBits j.w3 32 32 j.stored).toNat)),
        emit (.hostWrite 0 (s.get fRootLink 0) a (leBytes 8 w0.toNat))] s
    else hLost j.p j.idx s

/-- DMA_DESCRIPTOR_COMPLETE: every write of the descriptor is acknowledged, or it has ended with an error: written back,
its signal or event raised, LAST updated (R233, R234). -/
def effDmaDescriptorComplete (t r : Nat) : Eff := fun s =>
  let p := s.phys t
  match s.job p with
  | none => []
  | some j =>
    if j.ring ≠ r ∨ j.phase < 3 then [] else
    let last := r = 0 && s.ax ⟨.dmaLeft, p, 0⟩ = 0
    doAll [dmaWriteBack j,
      modTl fun t => { t with jobs := t.jobs.filter fun x => x.p ≠ p }, served p 5,
      dmaLastSet j j.status j.stored,
      whenE (fun _ => j.status = 0) (doAll [whenE (fun _ => j.crcOn) (setReg .tdma p 0x138 (BitVec.ofNat 64 j.crc)),
        whenE (fun _ => r = 0 && j.sig < 48) (semAdd p j.sig 1), whenE (fun _ => r = 1 && j.evt) (setEvt .tdma p 0),
        whenE (fun _ => last) (markWorked p 5)]),
      whenE (fun _ => j.status ≠ 0) (doAll [recordErr .tdma p j.status (r * 0x10000 + j.idx),
        whenE (fun _ => r = 0) (doAll [setAx ⟨.dmaErr, p, 0⟩ (j.status + 1), setAx ⟨.dmaLeft, p, 0⟩ 0])]),
      ringAfter p r] s

def execDmaDescriptorComplete (t r : Nat) (s : State) : Host.Outcome State Fault Refusal :=
  .next ((effDmaDescriptorComplete t r).run s)

/-! ## Registers of the TDMA page with effects -/

/-- The tile's instance key of a page. -/
def pageKey (s : State) (t : Nat) : Nat := s.phys t

/-- R236, R239: a doorbell to ring 1: STATE while ENABLE = 0, ARG for a TAIL at or above the size; D fetches. -/
def effHDoorbell (src : Src) (t : Nat) (v : W64) : Eff :=
  regWrite src .tdma t 0x128 8
    (fun _ s => firstErr [errIf (!s.on fHEn (s.phys t)) eSTATE, errIf (2 ^ s.get fHLog (s.phys t) ≤ getBits v 0 12) eARG])
    (fun _ s =>
      let p := s.phys t
      doAll [setAx ⟨.hTail, p, 0⟩ (getBits v 0 12 + 1),
        whenE (fun s => s.get fHHead p ≠ getBits v 0 12)
          (doAll [whenE (fun s => s.get (fRState 1) p = 0) (setF (fRState 1) p 1),
            emit (.hostRead 0 (s.get fRootLink 0) (s.get fHBase p + 32 * s.get fHHead p) 32)])] s)

def execHDoorbell (src : Src) (t : Nat) (v : W64) (s : State) : Host.Outcome State Fault Refusal :=
  .next ((inTurn src (.hDoorbell src t v) (effHDoorbell src t v)).run s)

/-- R239: H_CFG: LOG2_SIZE 4–12, not while ENABLE = 1; setting ENABLE sets H_HEAD to 0, clearing it idles the ring. -/
def effHCfgEnable (src : Src) (t : Nat) (v : W64) : Eff :=
  regWrite src .tdma t 0x118 8
    (fun _ s => firstErr [
      errIf (s.on fHEn (s.phys t) && getBits v 0 4 ≠ s.get fHLog (s.phys t)) eSTATE,
      errIf (!(4 ≤ getBits v 0 4 && getBits v 0 4 ≤ 12)) eARG])
    (fun _ s =>
      let p := s.phys t
      let was := s.on fHEn p
      doAll [setReg .tdma p 0x118 (v &&& 0x10F),
        whenE (fun _ => !was && getBits v 8 1 = 1) (setF fHHead p 0),
        whenE (fun _ => was && getBits v 8 1 = 0) (hDisable p)] s)

def execHCfgEnable (src : Src) (t : Nat) (v : W64) (s : State) : Host.Outcome State Fault Refusal :=
  .next ((inTurn src (.hCfgEnable src t v) (effHCfgEnable src t v)).run s)

/-- Table 08-5: STOP of ring r set or cleared. -/
def stopWrite (p r : Nat) (stop : Bool) : Eff := fun s =>
  let st := s.get (fRState r) p
  if stop then
    (if st = 0 then setF (fRState r) p 3 s
     else if st = 1 then
       (if s.tl.jobs.any fun j => j.p = p && j.ring = r then setF (fRState r) p 2 s
        else doAll [setF (fRState r) p 3, whenE (fun _ => r = 1) (setEvt .tdma p 1)] s)
     else [])
  else if st = 2 then setF (fRState r) p 1 s
  else if st = 3 then
    setF (fRState r) p (if r = 0 then (if s.ax ⟨.dmaLeft, p, 0⟩ ≠ 0 then 1 else 0)
      else if s.on fHEn p ∧ s.ax ⟨.hTail, p, 0⟩ ≠ 0 ∧ s.get fHHead p ≠ s.ax ⟨.hTail, p, 0⟩ - 1 then 1 else 0) s
  else []

/-- A write to TDMA CTRL: STAT_EN, and each STOP bit that changes acts. -/
def effTdmaCtrl (src : Src) (t : Nat) (v : W64) : Eff :=
  regWrite src .tdma t 0x010 8 noCheck fun _ s =>
    let p := s.phys t
    doAll [setReg .tdma p 0x010 (v &&& 0x7),
      forEach [0, 1] fun r => whenE (fun _ => s.get (fStop r) p ≠ getBits v r 1) (stopWrite p r (getBits v r 1 = 1))] s

/-- TDMA_RING_STOP: a CTRL write that sets STOP bits. -/
def execTdmaRingStop (src : Src) (t : Nat) (v : W64) (s : State) : Host.Outcome State Fault Refusal :=
  .next ((inTurn src (.tdmaRingStop src t v) (effTdmaCtrl src t v)).run s)

/-- TDMA_RING_RESUME: a CTRL write that clears STOP bits. -/
def execTdmaRingResume (src : Src) (t : Nat) (v : W64) (s : State) : Host.Outcome State Fault Refusal :=
  .next ((inTurn src (.tdmaRingResume src t v) (effTdmaCtrl src t v)).run s)

/-- R235: a PCIe failure of ring 1 at an index: ENABLE clears and TIMEOUT is recorded. -/
def effTdmaHostFail (t idx : Nat) : Eff := fun s =>
  let p := s.phys t
  if !s.on fHEn p then [] else hLost p idx s

def execTdmaHostFail (t idx : Nat) (s : State) : Host.Outcome State Fault Refusal := .next ((effTdmaHostFail t idx).run s)

/-! ## The scratchpad's own events -/

/-- Bits of a stored codeword flipped (R238): data bits change what is read until the code corrects them. -/
def eccFlip (p a m : Nat) : Eff := fun s => [.ecc (spKey p a / 8) (s.eccMask p a ^^^ m)]

/-- SP_INJECT: GO flips one or two bits of the word's stored codeword; a field out of range returns ARG. -/
def effSpInject (src : Src) (t : Nat) (v : W64) : Eff :=
  let a := getBits v 0 21
  let ba := getBits v 32 7
  let bb := getBits v 40 7
  let two := getBits v 47 1 = 1
  regWrite src .tile t 0x618 8
    (fun root _ => firstErr [errIf (!root) eSAGGAR, errIf (decide (a % 8 ≠ 0) || decide (spSize ≤ a) || decide (71 < ba) || decide (71 < bb)) eARG])
    (fun _ s => whenE (fun _ => getBits v 48 1 = 1) (fun s => eccFlip (s.phys t) a (2 ^ ba ^^^ (if two then 2 ^ bb else 0)) s) s)

def execSpInject (src : Src) (t : Nat) (v : W64) (s : State) : Host.Outcome State Fault Refusal :=
  .next ((inTurn src (.spInject src t v) (effSpInject src t v)).run s)

/-- REQUEST_URGENT: a line request refused STARVE cycles running becomes urgent (R219): its refusals are counted in
SP_REFUSED while STALL_CNT_EN; the grant is timing. -/
def effRequestUrgent (t requester slice : Nat) : Eff := fun s =>
  let p := s.phys t
  if 7 ≤ requester ∨ 12 ≤ slice then [] else
  doAll [whenE (fun s => s.on fStallEn p) (addSat ⟨.tile, 0x620, 0, 48⟩ p (s.get ⟨.tile, 0x600, 0, 6⟩ p)),
    setAx ⟨.urgent, p * 8 + requester, slice⟩ 1] s

def execRequestUrgent (t requester slice : Nat) (s : State) : Host.Outcome State Fault Refusal :=
  .next ((effRequestUrgent t requester slice).run s)

/-- The scratchpad line a slice and its line number name (R217). -/
def sliceLine (slice line : Nat) : Nat := line * 12 + slice

/-- The scrubber reads a line (R220, R464): single-bit errors, and what the code takes for one, corrected and counted, also in
SCRUB_CNT; bad words recorded with requester 7. -/
def scrubLine (p slice line : Nat) : Eff := fun s =>
  let fixed := (s.ecc.filter fun e => e.1 / 0x40000 = p && e.1 % 0x40000 / 8 = sliceLine slice line &&
    (eccKind e.2 = 1 || eccKind e.2 = 4)).length
  doAll [eccRead p 7 (fun ln => ln = sliceLine slice line), addSat ⟨.tele, 0x130, 0, 32⟩ 0 fixed] s

/-- Whether a tile has a slice and a line of that number, and its compute rail is on. -/
def State.scrubOk (s : State) (p slice line : Nat) : Bool := slice < 12 && line < 2048 && s.ax ⟨.tilePwr, p, 0⟩ = 2

/-- SCRUB_FORCED: the scrubber takes a slice's cycle by force, before every request (R219), and reads its line. -/
def effScrubForced (t slice line : Nat) : Eff :=
  look (fun s => s.phys t) fun p => whenE (fun s => s.scrubOk p slice line) (scrubLine p slice line)

def execScrubForced (t slice line : Nat) (s : State) : Host.Outcome State Fault Refusal :=
  .next ((effScrubForced t slice line).run s)

/-- SRAM_SCRUB_LINE: the scrubber reads a line in a cycle no requester uses: none while an urgent request waits at the slice
(R220). -/
def effSramScrubLine (t slice line : Nat) : Eff :=
  look (fun s => s.phys t) fun p => whenE (fun s => s.scrubOk p slice line &&
    (List.range 7).all fun req => s.ax ⟨.urgent, p * 8 + req, slice⟩ = 0) (scrubLine p slice line)

def execSramScrubLine (t slice line : Nat) (s : State) : Host.Outcome State Fault Refusal :=
  .next ((effSramScrubLine t slice line).run s)

end Sys2Proof.Machine
end

