-- ==== Sys2Proof/Machine/Tile.lean ====
section
/-! DEFINITION. Tile programs (chapter 04): the sequencer, its checks and its own instructions, the engine queues,
semaphores and signals, bank swaps, faults, and the writes of the TILE page that act. -/

namespace Sys2Proof.Machine

/-! ## Checks at dispatch (R105, R106, R131) -/

/-- The ENGINE values an opcode may have (Table 04-3); none for a reserved opcode. -/
def opEngines (grade op : Nat) : List Nat :=
  if op ≤ 0x02 then [0, 1, 2, 3, 4, 5, 6]
  else if 0x10 ≤ op ∧ op ≤ 0x17 then [6]
  else if op = 0x20 ∨ op = 0x21 ∨ op = 0x28 ∨ ((op = 0x29 ∨ op = 0x2A) ∧ grade ≠ 3) then [0, 1, 2, 3]
  else if op = 0x40 ∨ op = 0x41 ∨ op = 0x42 then [4]
  else if op = 0x80 then [5]
  else []

/-- R105: what is wrong with bits [31:0]. DEDUCED, log entry 43. -/
def headReasons (grade : Nat) (w : W128) : List Nat :=
  (if opEngines grade (iOp w) = [] then [1] else if (opEngines grade (iOp w)).contains (iEng w) then [] else [2]) ++
  (if 5 ≤ iPred w ∨ (48 ≤ iSig w ∧ iSig w ≠ 63) ∨ sb w 26 6 ≠ 0 then [3] else [])

/-- R105, R115: the predicate; a comparator without a CMPSET reads false. -/
def State.predTrue (s : State) (p : Nat) (w : W128) : Bool :=
  (iPred w = 0 || s.on (fCmpResult (iPred w - 1)) p) ≠ iNeg w

/-- Whether bits [127:32] are 0 outside a list of fields (lowest bit, width). -/
def onlyFields (w : W128) (fs : List (Nat × Nat)) : Bool :=
  (fs.foldl (fun (v : W128) f => v &&& ~~~(BitVec.ofNat 128 ((2 ^ f.2 - 1) <<< f.1))) (w >>> 32 <<< 32)) = 0

/-- The fields of bits [127:32] of the instructions of this chapter (Table 04-4, R118, R119): a NOP has none.  DESIGN CHOICE, log
entry 106. DESIGN CHOICE, log entry 106. -/
def ownFields (op : Nat) : List (Nat × Nat) :=
  match op with
  | 0x01 => [(32, 6), (48, 16)]
  | 0x02 => [(32, 32)]
  | 0x10 => [(32, 3), (48, 16)]
  | 0x11 => [(32, 3), (48, 11)]
  | 0x12 => [(32, 2), (36, 3), (40, 2), (48, 16), (64, 16)]
  | 0x13 => [(48, 11)]
  | 0x14 => [(48, 11)]
  | 0x15 => [(32, 16)]
  | 0x17 => [(32, 6)]
  | _ => []

/-- A field of an instruction of this chapter out of range. -/
def ownRange (w : W128) : Bool :=
  match iOp w with
  | 0x01 => 47 < sb w 32 6 || sb w 48 16 = 0
  | 0x02 => sb w 32 2 = 3 || sb w 40 8 = 0 || (sb w 32 2 < 2 && 47 < sb w 34 6) ||
      (sb w 32 2 = 1 && (191 < sb w 48 8 || 179 < sb w 56 8))
  | 0x10 => sb w 48 16 = 0
  | _ => false

/-- R228: what is wrong with a DMA instruction; DEDUCED, log entry 46. -/
def State.dmaReasons (s : State) (p : Nat) (w : W128) : List Nat :=
  (if iTee w then [6] else []) ++
  (if sb w 92 36 ≠ 0 ∨ iA w / 2 ^ 14 ≠ 0 ∨ iB w / 2 ^ 14 ≠ 0 ∨ iC w / 2 ^ 14 ≠ 0 then [9] else []) ++
  (if s.on fR0En p then (if 2 ^ s.get fR0Log p < sb w 80 12 + 1 then [9] else []) else [8])

/-- What is wrong with bits [127:32] of an instruction, by its opcode. -/
def State.bodyReasons (s : State) (p bank : Nat) (w : W128) : List Nat :=
  match iOp w with
  | 0x20 => s.mmaReasons p bank w ++ s.teeReasons p w
  | 0x21 => s.accwbReasons p bank w ++ s.teeReasons p w
  | 0x28 => s.smmaReasons p bank w ++ s.teeReasons p w
  | 0x29 => s.smmaReasons p bank w ++ s.teeReasons p w
  | 0x2A => s.smmaReasons p bank w ++ s.teeReasons p w
  | 0x40 => s.vopReasons p bank w ++ s.teeReasons p w
  | 0x41 => vsetvlReasons w
  | 0x42 => vseedReasons w
  | 0x80 => s.dmaReasons p w
  | op => (if onlyFields w (ownFields op) then [] else [3]) ++ (if iTee w then [6] else []) ++
      (if ownRange w then [9] else [])

/-- The least of a list of reasons. -/
def leastReason : List Nat → Option Nat
  | [] => none
  | a :: l => some (l.foldl min a)

/-! ## The sequencer -/

/-- The compute of a physical tile is ON, so that its sequencer and engines step. -/
def State.tileRuns (s : State) (p : Nat) : Bool := s.ax ⟨.tilePwr, p, 0⟩ = 2

/-- The instruction at PC in the active bank. -/
def State.pcWord (s : State) (p : Nat) : W128 := s.slot p (s.get fActive p) (s.get fPc p)

/-- The sequencer can look at the instruction at PC: RUNNING, and waiting for nothing (R102). -/
def State.seqReady (s : State) (p : Nat) : Bool := s.tileRuns p && s.get fTileState p = 1 && s.ax ⟨.seqWait, p, 0⟩ = 0

/-- The instruction at PC, where the sequencer is ready, it is this opcode for this engine, legal, and its predicate
holds. -/
def State.seqAt (s : State) (p op e : Nat) : Option W128 :=
  let w := s.pcWord p
  if s.seqReady p && iOp w = op && iEng w = e && headReasons s.grade w = [] && s.predTrue p w &&
    s.bodyReasons p (s.get fActive p) w = [] then some w else none

/-- SIG of an instruction (R114, R103). -/
def raiseSig (p : Nat) (w : W128) : Eff := if iSig w < 48 then semAdd p (iSig w) 1 else skip

/-- A dispatched sequencer instruction retires: counted (R130), PC on, SIG raised. DEDUCED, log entry 45. -/
def seqRetire (p pc : Nat) (w : W128) : Eff :=
  doAll [addSat fDispatched p 1, setF fPc p (pc % 2048), raiseSig p w]

/-- An illegal instruction (R131): ARG with INFO = FAULT_INFO, the tile FAULTED, its kiln told. -/
def illegal (p : Nat) (w : W128) (reason : Nat) : Eff := fun s =>
  let f := faultWord (s.get fPc p) (s.get fActive p) (iEng w) (iOp w) reason
  doAll [setReg .tile p 0x540 (BitVec.ofNat 64 f), recordErr .tile p eARG f, setF fTileState p 5, tileFaultsKiln p eARG] s

/-- SEQ_DISPATCH: the instruction at PC is checked; an illegal one faults the tile, one whose predicate is false is
discarded, an engine instruction enters its queue with the value of DISPATCHED that counts it (DESIGN CHOICE, log entry
108), a NOP of the sequencer retires; the other sequencer instructions take effect by their own commands. -/
def effSeqDispatch (t : Nat) : Eff := fun s =>
  let p := s.phys t
  let w := s.pcWord p
  let bank := s.get fActive p
  let pc := s.get fPc p
  if !s.seqReady p then [] else
  match leastReason (headReasons s.grade w) with
  | some r => illegal p w r s
  | none =>
    if !s.predTrue p w then setF fPc p ((pc + 1) % 2048) s
    else match leastReason (s.bodyReasons p bank w) with
      | some r => illegal p w r s
      | none =>
        if iEng w = 6 then (if iOp w = 0 then seqRetire p (pc + 1) w s else [])
        else if iOp w = 0x41 ∨ 16 ≤ s.depth p (iEng w) then []
        else
          let i : QInstr := {
            p := p, e := iEng w, pc := pc, bank := bank, word := w
            a := s.resolve p bank (iA w), b := s.resolve p bank (iB w), c := s.resolve p bank (iC w)
            disp := min (s.get fDispatched p + 1) (2 ^ 32 - 1), vl := s.get fVl p
            chain := if iOp w = 0x40 then s.slot p bank (vSlot w) else 0
            imm := if iOp w = 0x40 ∧ vImmEn w then s.slot p bank (vSlot w + 1) else 0 }
          let i' : QInstr := if 0x20 ≤ iOp w ∧ iOp w < 0x43 ∧ iOp w ≠ 0x42 then i else { i with a := .none, b := .none, c := .none }
          doAll [modTl fun x => { x with q := x.q ++ [i'] }, addSat fDispatched p 1, setF fPc p ((pc + 1) % 2048)] s

def execSeqDispatch (t : Nat) (s : State) : Host.Outcome State Fault Refusal := .next ((effSeqDispatch t).run s)

/-- VSETVL: VL set at dispatch (R187, R189). -/
def effVsetvl (t : Nat) : Eff := fun s =>
  let p := s.phys t
  match s.seqAt p 0x41 4 with
  | none => []
  | some w => doAll [setF fVl p (s.vsetvlVl p w), seqRetire p (s.get fPc p + 1) w] s

def execVsetvl (t : Nat) (s : State) : Host.Outcome State Fault Refusal := .next ((effVsetvl t).run s)

/-! ## Loops and comparators (R114, R115) -/

/-- The result of a comparator's setting for a loop count. -/
def cmpEval (lc op val mod : Nat) : Bool :=
  let v := if mod = 0 then lc else lc % mod
  match op with
  | 0 => v = val
  | 1 => v ≠ val
  | 2 => v < val
  | _ => val ≤ v

/-- Comparator k evaluated, once it has had a CMPSET. -/
def cmpUpdate (p k : Nat) : Eff := fun s =>
  if s.ax ⟨.cmpLive, p, k⟩ = 0 then [] else
  setF (fCmpResult k) p (if cmpEval (s.get (fLc (s.get (fCmpLc k) p)) p) (s.get (fCmpOp k) p) (s.get (fCmpVal k) p)
    (s.get (fCmpMod k) p) then 1 else 0) s

/-- A loop counter set: the comparators on it follow. -/
def setLc (p n v : Nat) : Eff :=
  doAll [setF (fLc n) p v, forEach [0, 1, 2, 3] fun k => whenE (fun s => s.get (fCmpLc k) p = n) (cmpUpdate p k)]

/-- R126: loop counters 0, and every comparator as before any CMPSET. -/
def clearLoops (p : Nat) : Eff :=
  doAll [forEach (List.range 8) fun n => setF (fLc n) p 0,
    forEach [0, 1, 2, 3] fun k => doAll [setReg .tile p (0x180 + 8 * k) 0, setAx ⟨.cmpLive, p, k⟩ 0]]

def effLoop (t : Nat) : Eff := fun s =>
  let p := s.phys t
  match s.seqAt p 0x10 6 with
  | none => []
  | some w => doAll [setF (fLimit (sb w 32 3)) p (sb w 48 16), setLc p (sb w 32 3) 0, seqRetire p (s.get fPc p + 1) w] s

/-- LOOP. -/
def execLoop (t : Nat) (s : State) : Host.Outcome State Fault Refusal := .next ((effLoop t).run s)

/-- R115: LOOPEND at its loop counter; DEDUCED, log entry 44. -/
def effLoopEnd (t : Nat) : Eff := fun s =>
  let p := s.phys t
  match s.seqAt p 0x11 6 with
  | none => []
  | some w =>
    let n := sb w 32 3
    let v := s.get (fLc n) p + 1
    let lim := s.get (fLimit n) p
    doAll [setLc p n (if v < lim then v else lim), seqRetire p (if v < lim then sb w 48 11 else s.get fPc p + 1) w] s

/-- LOOPEND. -/
def execLoopEnd (t : Nat) (s : State) : Host.Outcome State Fault Refusal := .next ((effLoopEnd t).run s)

def effCmpset (t : Nat) : Eff := fun s =>
  let p := s.phys t
  match s.seqAt p 0x12 6 with
  | none => []
  | some w =>
    let k := sb w 32 2
    doAll [setReg .tile p (0x180 + 8 * k)
        (BitVec.ofNat 64 (sb w 36 3 + sb w 40 2 * 2 ^ 4 + sb w 48 16 * 2 ^ 16 + sb w 64 16 * 2 ^ 32)),
      setAx ⟨.cmpLive, p, k⟩ 1, cmpUpdate p k, seqRetire p (s.get fPc p + 1) w] s

/-- CMPSET. -/
def execCmpset (t : Nat) (s : State) : Host.Outcome State Fault Refusal := .next ((effCmpset t).run s)

def effBranch (t : Nat) : Eff := fun s =>
  let p := s.phys t
  match s.seqAt p 0x13 6 with
  | none => []
  | some w => seqRetire p (sb w 48 11) w s

/-- BRANCH, its predicate true; with a false one it is discarded at dispatch. -/
def execBranch (t : Nat) (s : State) : Host.Outcome State Fault Refusal := .next ((effBranch t).run s)

/-! ## Bank swaps (R125) -/

def effSwap (t : Nat) : Eff := fun s =>
  let p := s.phys t
  match s.seqAt p 0x14 6 with
  | none => []
  | some _ => doAll [setAx ⟨.seqWait, p, 0⟩ 2, setF fSwapWait p 1] s

/-- SWAP at the dispatch point: it waits for SHADOW_READY. -/
def execSwap (t : Nat) (s : State) : Host.Outcome State Fault Refusal := .next ((effSwap t).run s)

/-- ACTIVE flips and SHADOW_READY clears. -/
def flipBank (p : Nat) : Eff := fun s =>
  let b := 1 - s.get fActive p
  doAll [setF fActive p b, setF fBank p b, setF fShadowReady p 0, setEvt .tile p 2] s

def effBankSwap (t : Nat) : Eff := fun s =>
  let p := s.phys t
  if !s.tileRuns p ∨ s.get fTileState p ≠ 1 ∨ s.ax ⟨.seqWait, p, 0⟩ ≠ 2 ∨ !s.on fShadowReady p then [] else
  let w := s.pcWord p
  doAll [setAx ⟨.seqWait, p, 0⟩ 0, setF fSwapWait p 0, flipBank p, seqRetire p (sb w 48 11) w] s

/-- BANK_SWAP: the waiting SWAP is met. -/
def execBankSwap (t : Nat) (s : State) : Host.Outcome State Fault Refusal := .next ((effBankSwap t).run s)

/-! ## HALT, END, DRAIN -/

def effHalt (t : Nat) : Eff := fun s =>
  let p := s.phys t
  match s.seqAt p 0x15 6 with
  | none => []
  | some w =>
    let n := min (s.get fDispatched p + 1) (2 ^ 32 - 1)
    doAll [seqRetire p (s.get fPc p) w, setReg .tile p 0x548
        (BitVec.ofNat 64 (sb w 32 16 + s.get fPc p * 2 ^ 16 + s.get fActive p * 2 ^ 27 + n * 2 ^ 32)), setF fTileState p 3] s

/-- HALT (R129). -/
def execHalt (t : Nat) (s : State) : Host.Outcome State Fault Refusal := .next ((effHalt t).run s)

/-- All six queues of a tile are empty, their instructions complete. -/
def State.queuesEmpty (s : State) (p : Nat) : Bool := s.tl.q.all fun i => i.p ≠ p

def effTileHalted (t : Nat) : Eff := fun s =>
  let p := s.phys t
  if s.get fTileState p ≠ 3 ∨ !s.queuesEmpty p then [] else doAll [setF fTileState p 4, setEvt .tile p 0] s

/-- TILE_HALTED. -/
def execTileHalted (t : Nat) (s : State) : Host.Outcome State Fault Refusal := .next ((effTileHalted t).run s)

def effEndProg (t : Nat) : Eff := fun s =>
  let p := s.phys t
  match s.seqAt p 0x16 6 with
  | none => []
  | some w => doAll [setAx ⟨.seqWait, p, 0⟩ 4, seqRetire p (s.get fPc p) w] s

/-- END: dispatch stops. -/
def execEndProg (t : Nat) (s : State) : Host.Outcome State Fault Refusal := .next ((effEndProg t).run s)

def effTilePark (t : Nat) : Eff := fun s =>
  let p := s.phys t
  if s.get fTileState p ≠ 1 ∨ s.ax ⟨.seqWait, p, 0⟩ ≠ 4 ∨ !s.queuesEmpty p then [] else
  doAll [setF fTileState p 2, setAx ⟨.seqWait, p, 0⟩ 0, setEvt .tile p 1] s

/-- TILE_PARK: after END, everything is complete. -/
def execTilePark (t : Nat) (s : State) : Host.Outcome State Fault Refusal := .next ((effTilePark t).run s)

def effDrain (t : Nat) : Eff := fun s =>
  let p := s.phys t
  match s.seqAt p 0x17 6 with
  | none => []
  | some _ => setAx ⟨.seqWait, p, 0⟩ 3 s

/-- DRAIN at the dispatch point. -/
def execDrain (t : Nat) (s : State) : Host.Outcome State Fault Refusal := .next ((effDrain t).run s)

def effDrainComplete (t : Nat) : Eff := fun s =>
  let p := s.phys t
  let w := s.pcWord p
  if !s.tileRuns p ∨ s.get fTileState p ≠ 1 ∨ s.ax ⟨.seqWait, p, 0⟩ ≠ 3 ∨
      (List.range 6).any (fun e => sb w (32 + e) 1 = 1 && s.depth p e ≠ 0) then [] else
  doAll [setAx ⟨.seqWait, p, 0⟩ 0, seqRetire p (s.get fPc p + 1) w] s

/-- DRAIN_COMPLETE: the named queues are empty. -/
def execDrainComplete (t : Nat) (s : State) : Host.Outcome State Fault Refusal := .next ((effDrainComplete t).run s)

/-! ## WAIT and SIGNAL (R117–R120) -/

/-- The instruction that waits on a semaphore for an engine queue (0–5), at its head, or for the sequencer (6). -/
def State.waiter (s : State) (p e : Nat) : Option W128 :=
  if e < 6 then (match s.head p e with | some i => if iOp i.word = 1 && i.issued then some i.word else none | none => none)
  else if s.get fTileState p = 1 ∧ s.ax ⟨.seqWait, p, 0⟩ = 1 then some (s.pcWord p) else none

/-- WAIT reaches the head of its queue, or the dispatch point, and stalls there. -/
def effWait (t e : Nat) : Eff := fun s =>
  let p := s.phys t
  if e = 6 then (match s.seqAt p 0x01 6 with | some _ => setAx ⟨.seqWait, p, 0⟩ 1 s | none => [])
  else match s.head p e with
    | some i => if s.tileRuns p && iOp i.word = 1 && e < 6
        then modTl (fun x => { x with q := mapHead p e (fun i => { i with issued := true }) x.q }) s else []
    | none => []

def execWait (t e : Nat) (s : State) : Host.Outcome State Fault Refusal := .next ((effWait t e).run s)

/-- One waiting head evaluated: a satisfied wait subtracts its count and retires. -/
def waitTry (p e : Nat) : Eff := fun s =>
  match s.waiter p e with
  | none => []
  | some w =>
    let v := s.get (fSem (sb w 32 6)) p
    if v < sb w 48 16 then [] else
    doAll [setF (fSem (sb w 32 6)) p (v - sb w 48 16),
      if e < 6 then doAll [modTl fun x => { x with q := dropHead p e x.q }, whenE (fun _ => e < 4) (tbForget (4 * p + e))]
      else doAll [setAx ⟨.seqWait, p, 0⟩ 0, addSat fDispatched p 1, setF fPc p ((s.get fPc p + 1) % 2048)]] s

/-- WAIT_SATISFIED: the waiting heads are evaluated in the order C0–C3, V, D, sequencer (R117); the SIGs of those that
retire arrive after it. -/
def effWaitSatisfied (t : Nat) : Eff := fun s =>
  let p := s.phys t
  if !s.tileRuns p then [] else
  let order := List.range 7
  let after := s.applyAll (forEach order (waitTry p) s)
  let met := order.filterMap fun e => if s.waiter p e ≠ none ∧ after.waiter p e = none then s.waiter p e else none
  doAll [forEach order (waitTry p), forEach met (raiseSig p)] s

def execWaitSatisfied (t : Nat) (s : State) : Host.Outcome State Fault Refusal := .next ((effWaitSatisfied t).run s)

/-- A signal leaves (R119): local, to a tile on VC0, or to the host through the column's north edge (DEDUCED, log entry 22). -/
def sendSignal (t p : Nat) (w : W128) : Eff :=
  let sem := sb w 34 6
  let n := sb w 40 8
  match sb w 32 2 with
  | 0 => semAdd p sem n
  | 1 => sendCtrl t (bktProgram p) (sb w 56 8 * 192 + sb w 48 8) 3 (sem + n * 64) 0 false
  | _ => sendCtrl t (bktProgram p) (tileX t) 3 (sem + n * 64 + 2 ^ 14) 0 true

def effSignal (t e : Nat) : Eff := fun s =>
  let p := s.phys t
  if e = 6 then
    match s.seqAt p 0x02 6 with
    | some w => doAll [sendSignal t p w, seqRetire p (s.get fPc p + 1) w] s
    | none => []
  else match s.head p e with
    | some i => if s.tileRuns p && iOp i.word = 2 && e < 6 then
        doAll [sendSignal t p i.word, modTl fun x => { x with q := dropHead p e x.q }, whenE (fun _ => e < 4) (tbForget (4 * p + e)),
          raiseSig p i.word] s else []
    | none => []

/-- SIGNAL. -/
def execSignal (t e : Nat) (s : State) : Host.Outcome State Fault Refusal := .next ((effSignal t e).run s)

/-! ## Issue and completion (R103, R111, R112) -/

/-- Whether an instruction is a sparse product. -/
def QInstr.sparse (i : QInstr) : Bool := 0x28 ≤ iOp i.word && iOp i.word ≤ 0x2A

/-- The queue end of an operand. -/
def Opd.qid : Opd → Option Nat
  | .q r _ => some r
  | _ => Option.none

/-- The number of pops an instruction takes: one for each queue-end source; a sparse B is popped tile by tile (R111, R164). -/
def QInstr.pops (i : QInstr) : Nat :=
  (if i.a.qid.isSome then 1 else 0) + (if i.b.qid.isSome then (if i.sparse then spKb i.word else 1) else 0)

/-- A pop: whether it is OPD_A's, its ring, its lines. -/
structure Pop where
  isA : Bool
  q : Nat
  lines : Nat
  deriving DecidableEq, Repr

/-- The lines of the tile at a ring's head: its header and its payload; one while no header is there. -/
def State.tileLines (s : State) (p q : Nat) : Nat :=
  if s.ringCount p q = 0 then 1 else 1 + (parseHead (s.ringPeek p q 1)).lines

/-- The next pop of an instruction; none once it has taken all (R111, R112, R164). -/
def State.nextPop (s : State) (i : QInstr) : Option Pop :=
  if i.pops ≤ i.tk then none else
  match i.a, i.b with
  | .q q n, .q r m => if i.tk = 0 then some ⟨true, q, n⟩ else some ⟨false, r, if i.sparse then s.tileLines i.p r else m⟩
  | .q q n, _ => some ⟨true, q, n⟩
  | _, .q r m => some ⟨false, r, if i.sparse then s.tileLines i.p r else m⟩
  | _, _ => none

/-- Whether a popped line lies in a bad word (R224). -/
def State.popBad (s : State) (p q n : Nat) : Bool :=
  s.ecc ≠ [] && (List.range n).any fun k =>
    s.badIn p (span (s.get (fQBase q) p + 64 * ((s.get (fQRd q) p + k) % s.ringSize p q)) 64)

/-- Whether a pop is of a tile, read in place. -/
def QInstr.kept (i : QInstr) (x : Pop) : Bool := i.sparse && !x.isA

/-- Whether the lines of a pop are in the ring. -/
def State.popHere (s : State) (p : Nat) (x : Pop) : Bool := x.lines ≤ s.ringCount p x.q

/-- Whether a pop meets a bad word: in its lines, or in the header that says how many they are. -/
def State.popMeets (s : State) (i : QInstr) (x : Pop) : Bool :=
  (s.popHere i.p x && s.popBad i.p x.q x.lines) || (i.kept x && s.ringCount i.p x.q ≠ 0 && s.popBad i.p x.q 1)

/-- Whether a pop is of a tile larger than its ring (code 4 of Table 06-7). -/
def State.popLarge (s : State) (i : QInstr) (x : Pop) : Bool := i.kept x && s.ringSize i.p x.q < x.lines

/-- Whether the tee copies a pop: that of the first queue-end operand (R112). -/
def QInstr.tees (i : QInstr) (x : Pop) : Bool := iTee i.word && (x.isA || i.a.qid.isNone)

/-- Whether a pop's tee has room; a pop that is not read in place frees its own lines (R112). -/
def State.teeRoom (s : State) (i : QInstr) (x : Pop) : Bool :=
  !i.tees x || x.lines ≤ s.ringRoom i.p (ringOf (iTeeQ i.word)) + (if ringOf (iTeeQ i.word) = x.q && !i.kept x then x.lines else 0)

/-- Whether the next pop can be taken now. -/
def State.popReady (s : State) (i : QInstr) (x : Pop) : Bool :=
  s.popHere i.p x && !s.popMeets i x && !s.popLarge i x && s.teeRoom i x

/-- R223: the ring lines of a pop are read. -/
def popReads (i : QInstr) (x : Pop) : Eff := fun s =>
  if s.ecc = [] then [] else
  eccRead i.p i.e (fun ln => (List.range x.lines).any fun k =>
    s.get (fQBase x.q) i.p / 64 + (s.get (fQRd x.q) i.p + k) % s.ringSize i.p x.q = ln) s

/-- The n-th instruction of a queue takes a pop: the lines leave the ring, or stay in it to be read in place; the tee copies
them (R111, R112, R164). -/
def popTake (t n : Nat) (i : QInstr) (x : Pop) : Eff := fun s =>
  let l := s.ringPeek i.p x.q x.lines
  doAll [popReads i x, ringPop i.p x.q x.lines,
    if i.kept x then (fun s => setAx ⟨.ringKept, i.p, x.q⟩ (s.ax ⟨.ringKept, i.p, x.q⟩ + x.lines) s) else creditBack t x.q x.lines,
    modTl fun y => { y with q := mapNth i.p i.e (fun j =>
      if x.isA then { j with tk := j.tk + 1, popA := l } else { j with tk := j.tk + 1, popB := j.popB ++ l }) n y.q },
    whenE (fun _ => i.tees x) (doAll [ringPush i.p (ringOf (iTeeQ i.word)) l,
      modTl fun y => { y with pushes := y.pushes ++ (if iTeeQ i.word < 14 then [⟨i.p, iTeeQ i.word, i.e, x.lines⟩] else []) }])] s

/-- The next pop of the n-th instruction of a queue, where it can be taken. -/
def popNext (t p e n : Nat) : Eff := fun s =>
  withSome (s.nth p e n) skip (fun i => withSome (s.nextPop i) skip fun x =>
    if s.popReady i x then popTake t n i x else skip) s

/-- The operand an instruction loads into the transposing buffer: whether it is OPD_A, its bytes, whether it is FP32 (R140,
R164). -/
def QInstr.tbOpd (i : QInstr) : Option (Bool × Nat × Bool) :=
  let w := i.word
  if iOp w = 0x20 then
    if iA w / 2 ^ 14 = 2 || mTra w then some (true, mM w * mK w * fmtBytes (mFa w), mFa w = 0)
    else if iB w / 2 ^ 14 = 2 || mTrb w then some (false, mK w * mN w * fmtBytes (mFb w), mFb w = 0) else none
  else if i.sparse && !spKeep w then some (true, spM w * spK w * fmtBytes (spFa w), false) else none

/-- The halves an instruction's operand goes to: those of the A that A_KEEP takes over; none where it loads nothing. -/
def State.tbHalves (s : State) (i : QInstr) : Nat :=
  match i.tbOpd with
  | some x => s.tbNext (4 * i.p + i.e) x.2.1 x.2.2
  | none => if i.sparse then ((s.tbHeld (4 * i.p + i.e) i.word).map (·.halves)).getD 0 else 0

/-- The operand of the n-th instruction of a core's queue begins to load. -/
def tbBegin (p e n : Nat) : Eff := fun s =>
  withSome (s.nth p e n) skip (fun i =>
    if 4 ≤ e ∨ i.tb ≠ 0 then skip else
    doAll [if i.tbOpd.isSome then tbLoad (4 * p + e) (s.tbHalves i) else skip,
      modTl fun y => { y with q := mapNth p e (fun j => { j with tb := s.tbHalves i }) n y.q }]) s

/-- The room of an instruction's push. -/
def State.pushRoom (s : State) (i : QInstr) : Bool :=
  match i.c with
  | .q k m => m ≤ s.ringRoom i.p (ringOf k)
  | _ => true

/-- Whether the head of a queue can issue: it has its pops, and its push has room. -/
def State.issuable (s : State) (i : QInstr) : Bool := (s.nextPop i).isNone && s.pushRoom i

/-- The head issues: LAST_INSTR names it, a NOP's work is done. -/
def issueHead (p e : Nat) : Eff := fun s =>
  withSome (s.head p e) skip (fun i =>
    doAll [tbBegin p e 0, modTl fun x => { x with q := mapHead p e (fun j => { j with issued := true, worked := iOp j.word = 0 }) x.q },
      if e < 4 ∧ 0x20 ≤ iOp i.word then setReg .core (4 * p + e) 0x128 (instrWord i)
      else if e = 4 ∧ 0x40 ≤ iOp i.word then setReg .vec p 0x130 (instrWord i) else skip]) s

/-- The elements of a descriptor operand, packed. -/
def State.packed (s : State) (p : Nat) (o : Opd) : List Byte :=
  match o with
  | .desc base fmt n0 n1 _ st1 _ => (List.range n1).flatMap fun r => s.spRds p (base + r * st1) (n0 * fmtBytes fmt)
  | _ => []

/-- R143: while the head of a core's queue sweeps from one half of the transposing buffer, the operand of the product behind it
that fills one half loads into the other: its pop is taken early, or its descriptor's elements are read. -/
def preload (t p e : Nat) : Eff := fun s =>
  match s.head p e, s.nth p e 1 with
  | some i, some j =>
    match j.tbOpd with
    | some x =>
      if 4 ≤ e ∨ !(i.tb = 1 ∨ i.tb = 2) ∨ j.tb ≠ 0 ∨ x.2.2 ∨ 8192 < x.2.1 then [] else
      let o := if x.1 then j.a else j.b
      match o.qid with
      | some _ => match s.nextPop j with
        | some y => if s.popReady j y then doAll [popTake t 1 j y, tbBegin p e 1] s else []
        | none => []
      | none =>
        if s.opdBad p o then [] else
        let l := s.packed p o
        doAll [eccRead p e (fun ln => o.touches ln), tbBegin p e 1, modTl fun y => { y with q := mapNth p e (fun k =>
          if x.1 then { k with a := .held, popA := l } else { k with b := .held, popB := l }) 1 y.q }] s
    | none => []
  | _, _ => []

/-- ENGINE_INSTR_ISSUE: the head of a queue takes the pops it can, and starts once it has them all and its push has room; an
instruction behind a head that runs preloads. -/
def effEngineInstrIssue (t e : Nat) : Eff := fun s =>
  let p := s.phys t
  match s.head p e with
  | none => []
  | some i =>
    if !s.tileRuns p ∨ 6 ≤ e ∨ iOp i.word = 1 ∨ iOp i.word = 2 then []
    else if i.issued then preload t p e s
    else doAll [forEach (List.range (i.pops - i.tk)) (fun _ => popNext t p e 0),
      whenE (fun s => (s.head p e).any s.issuable) (issueHead p e)] s

def execEngineInstrIssue (t e : Nat) (s : State) : Host.Outcome State Fault Refusal :=
  .next ((effEngineInstrIssue t e).run s)

/-- The room of lines a sparse instruction read in place is free again. -/
def keptFree (t p : Nat) (i : QInstr) : Eff := fun s =>
  match i.b.qid with
  | some q => if i.sparse then
      doAll [setAx ⟨.ringKept, p, q⟩ (s.ax ⟨.ringKept, p, q⟩ - i.popB.length / 64), creditBack t q (i.popB.length / 64)] s
      else []
  | none => []

/-- LAST_INSTR.DONE of the engine that completes an instruction of its own. -/
def lastInstrDone (p e op : Nat) : Eff :=
  if e < 4 ∧ 0x20 ≤ op then setF fLastDone (4 * p + e) 1
  else if e = 4 ∧ 0x40 ≤ op then setF fVecDone p 1 else skip

/-- ENGINE_INSTR_COMPLETE: the head's work is done and every line it pushed is taken: it leaves its queue and raises
SIG. -/
def effEngineInstrComplete (t e : Nat) : Eff := fun s =>
  let p := s.phys t
  match s.head p e with
  | none => []
  | some i =>
    if !s.tileRuns p ∨ !i.worked ∨ (s.tl.pushes.any fun x => x.p = p && x.e = e) then [] else
    doAll [keptFree t p i, modTl fun x => { x with q := dropHead p e x.q }, lastInstrDone p e (iOp i.word),
      whenE (fun _ => e < 4) (if iOp i.word = 0 then tbForget (4 * p + e) else tbSet (4 * p + e) i.tb 2), raiseSig p i.word] s

def execEngineInstrComplete (t e : Nat) (s : State) : Host.Outcome State Fault Refusal :=
  .next ((effEngineInstrComplete t e).run s)

/-! ## Execution errors (R131, R149, R211, R229) -/

/-- The next descriptor of ring 0, where D has its turn with it, has OWN = 0. -/
def State.ownZero (s : State) (p : Nat) : Bool :=
  let a := s.get fR0Base p + 32 * s.get fR0Head p
  s.dmaTurn p 0 && (s.ecc = [] || !s.badIn p (fun x => a ≤ x && x < a + 32)) && getBits (descWord (s.spRds p a 32) 0) 0 1 = 0

/-- The error a matrix instruction meets: one that has not all its pops may already meet one at its start or at a tile it has. -/
def State.coreStop (s : State) (i : QInstr) : Option MStop :=
  let core := 4 * i.p + i.e
  if i.issued then s.matStop i core (s.matElems i core)
  else if !i.sparse || (i.a.qid.isSome && i.tk = 0) then none
  else (s.smmaStop i core (s.smmaElems i core)).filter fun x => x.blk = 0 && x.row.isNone

/-- The error at the next pop of an instruction: a bad word, or a tile larger than its ring, with its code of Table 06-7. -/
def State.popStop (s : State) (i : QInstr) : Option (Nat × Nat) :=
  match s.nextPop i with
  | none => none
  | some x =>
    if s.popMeets i x then some (eECC_UE, 0)
    else if s.popLarge i x then
      some (eARG, ((s.tileErr i (4 * i.p + i.e) i.tilesAtHand (parseHead (s.ringPeek i.p x.q 1)) none).map (·.1)).getD 4)
    else none

/-- The error the head of queue e meets: its code, and the INFO a rule states. -/
def State.execErr (s : State) (p e : Nat) : Option (Nat × Option Nat) :=
  match s.head p e with
  | none => none
  | some i =>
    if i.worked ∨ iOp i.word = 1 ∨ iOp i.word = 2 then none
    else if e < 4 ∧ (s.coreStop i).isSome then (s.coreStop i).map fun x => (x.code, none)
    else if !i.issued then (s.popStop i).map fun x => (x.1, none)
    else if iOp i.word = 0x40 then (if (s.vopRun i).bad then some (eECC_UE, none) else none)
    else if iOp i.word = 0x80 then
      (if s.ax ⟨.dmaErr, p, 0⟩ ≠ 0 then some (s.ax ⟨.dmaErr, p, 0⟩ - 1, none)
       else if s.ownZero p then some (eSTATE, some (s.get fR0Head p)) else none)
    else none

/-- What an instruction leaves that meets an error at a pop: the phases of the tiles it has, added up where the error is a tile's,
and holding sums no rule fixes where it is a bad word. -/
def popLeaves (i : QInstr) : Eff := fun s =>
  let core := 4 * i.p + i.e
  withSome (s.popStop i) skip (fun x => doAll [withSome (s.nextPop i) skip (popReads i),
    if x.1 = eECC_UE then whenE (fun _ => i.e < 4) (doAll [
        whenE (fun _ => i.sparse && i.tilesAtHand ≠ 0) (fun s => matPart i core ((s.smmaElems i core).filter fun y => y.m < 16) s),
        tbDiscard core])
      else doAll [smmaUpTo i core i.tilesAtHand, spErrRecord i core (x.2, i.tilesAtHand, 0)]]) s

/-- What the work done before an execution error leaves. -/
def execLeaves (i : QInstr) : Eff := fun s =>
  if i.e < 4 ∧ (s.coreStop i).isSome then matLeaves i (4 * i.p + i.e) s
  else if !i.issued then popLeaves i s
  else if iOp i.word = 0x40 then vecCommit i (s.vopRun i) s
  else if iOp i.word = 0x80 then setAx ⟨.dmaLeft, i.p, 0⟩ 0 s
  else []

/-- ENGINE_EXEC_ERROR: the head of queue e meets the error: it does not complete, the later instructions of the queue are
discarded, the tile is FAULTED; lines it has pushed go on. -/
def effEngineExecError (t e code : Nat) : Eff := fun s =>
  let p := s.phys t
  match s.head p e, s.execErr p e with
  | some i, some x =>
    if !s.tileRuns p ∨ x.1 ≠ code then [] else
    doAll [execLeaves i, keptFree t p i,
      modTl (fun y => { y with q := y.q.filter fun j => !(j.p = p && j.e = e),
                               pushes := y.pushes.map fun j => if j.p = p && j.e = e then { j with e := 7 } else j }),
      whenE (fun _ => e = 5) (doAll [setAx ⟨.dmaErr, p, 0⟩ 0, setAx ⟨.dmaLeft, p, 0⟩ 0,
        whenE (fun s => s.get (fRState 0) p = 1) (setF (fRState 0) p 0)]),
      engineFault p i.pc i.bank e (iOp i.word) code x.2] s
  | _, _ => []

def execEngineExecError (t e code : Nat) (s : State) : Host.Outcome State Fault Refusal :=
  .next ((effEngineExecError t e code).run s)

/-! ## Writes of the TILE page that act -/

/-- Whether a ring [base, base + 64 · 2^log) overlaps another enabled ring of the tile. -/
def State.ringMeets (s : State) (p q base log : Nat) : Bool :=
  (List.range 14).any fun r => r ≠ q && s.on (fQEnable r) p &&
    s.get (fQBase r) p < base + 64 * 2 ^ log && base < s.get (fQBase r) p + 64 * s.ringSize p r

/-- QCFG_WRITE (R113). DEDUCED, log entry 47. -/
def effQcfgWrite (src : Src) (t q : Nat) (v : W64) : Eff :=
  let base := getBits v 0 21
  let log := getBits v 24 4
  regWrite src .tile t (0x440 + 8 * q) 8
    (fun root s =>
      let p := s.phys t
      firstErr [errIf (!root) eSAGGAR, errIf (s.get fTileState p ≠ 0) eSTATE,
        errIf (decide (base % 64 ≠ 0) || decide (log = 15) ||
          (decide (getBits v 32 1 = 1) && (decide (spSize < base + 64 * 2 ^ log) || s.ringMeets p q base log))) eARG])
    (fun _ s => if q < 14 then setReg .tile (s.phys t) (0x440 + 8 * q) (v &&& 0x10F1FFFFF) s else [])

def execQcfgWrite (src : Src) (t q : Nat) (v : W64) (s : State) : Host.Outcome State Fault Refusal :=
  .next ((inTurn src (.qcfgWrite src t q v) (effQcfgWrite src t q v)).run s)

/-- IMEM_DATA_HI_WRITE: all 128 bits committed, or refused with IMEM_ACTIVE (R123); a refused write does not advance SLOT.  DESIGN
CHOICE, log entry 107. -/
def effImemDataHiWrite (src : Src) (t : Nat) (v : W64) : Eff :=
  regWrite src .tile t 0x120 8
    (fun root s =>
      let p := s.phys t
      firstErr [errIf (!root) eSAGGAR,
        if s.get fTileState p ≠ 0 ∧ s.get fImBank p = s.get fActive p
        then some ⟨eIMEM_ACTIVE, some (s.get fImBank p * 0x800 + s.get fImSlot p)⟩ else none])
    (fun _ s =>
      let p := s.phys t
      doAll [imemPut p (s.get fImBank p) (s.get fImSlot p) (v ++ s.rd .tile p 0x118),
        whenE (fun s => s.on fImAuto p) (setF fImSlot p ((s.get fImSlot p + 1) % 2048))] s)

def execImemDataHiWrite (src : Src) (t : Nat) (v : W64) (s : State) : Host.Outcome State Fault Refusal :=
  .next ((inTurn src (.imemDataHiWrite src t v) (effImemDataHiWrite src t v)).run s)

/-- IMEM_DATA_HI_READ: bits [127:64] of the selected slot; with AUTO_INC the read advances SLOT; an absent page reads
0. -/
def effImemDataHiRead (t : Nat) : Eff := fun s =>
  let p := s.phys t
  if !s.present .tile t then emit (.readData 0) s else
  doAll [emit (.readData ((s.slot p (s.get fImBank p) (s.get fImSlot p) >>> 64).setWidth 64)),
    whenE (fun s => s.on fImAuto p) (setF fImSlot p ((s.get fImSlot p + 1) % 2048))] s

def execImemDataHiRead (t : Nat) (s : State) : Host.Outcome State Fault Refusal := .next ((effImemDataHiRead t).run s)

/-- SHADOW_READY_SET: a write of 1 marks the shadow bank complete (R124); a 0 is ignored. -/
def effShadowReadySet (src : Src) (t : Nat) (v : W64) : Eff :=
  regWrite src .tile t 0x108 8 noCheck fun _ s =>
    if getBits v 1 1 = 1 then setF fShadowReady (s.phys t) 1 s else []

def execShadowReadySet (src : Src) (t : Nat) (v : W64) (s : State) : Host.Outcome State Fault Refusal :=
  .next ((inTurn src (.shadowReadySet src t v) (effShadowReadySet src t v)).run s)

/-- A write to ENTRY: STATE outside IDLE. -/
def effEntryWrite (src : Src) (t : Nat) (v : W64) : Eff :=
  regWrite src .tile t 0x128 8 (fun _ s => errIf (s.get fTileState (s.phys t) ≠ 0) eSTATE)
    fun _ s => setReg .tile (s.phys t) 0x128 (v &&& 0x7FF) s

/-! ## What a kiln sends its tiles (Table 04-8) -/

/-- What START and step start both do: the statistics of stalls, VL ← 128 (R187), the generators seeded (R201), the
transposing buffers empty (Table 05-11), every accumulator +0 tagged FP32 (R146), every row-state entry as R207 says.
DEDUCED, log entry 57. -/
def tileFresh (t p step : Nat) : Eff :=
  doAll [setF fDispatched p 0, (fun s => setF fPc p (s.get fEntry p) s), setF fVl p 128, seedLanes t p 0 step,
    setF fRngDraws p 0, fun _ => [.accClear fun a => a / 16384 = p, .rowClear fun a => a / 3 / 256 = p],
    forEach (List.range 7) (fun e => setF ⟨.tile, 0x400 + 8 * e, 32, 32⟩ p 0), tbsEmpty p]

/-- Kiln START at a tile that is IDLE: semaphores ← image values, rings emptied, banks swapped if the shadow is ready, PC ← ENTRY;
ring 0 of D at its first descriptor (R229).  At one that is ABORTING it waits for the end of the flush (Table 04-8). -/
def tileStart (t p step : Nat) : Eff := fun s =>
  if s.get fTileState p = 6 then setAx ⟨.startDue, p, 0⟩ (step + 1) s
  else if s.get fTileState p ≠ 0 then [] else
  doAll [setF fTileState p 1, setAx ⟨.seqWait, p, 0⟩ 0, setAx ⟨.dmaErr, p, 0⟩ 0,
    forEach (List.range 48) (fun n => fun s => setF (fSem n) p (s.ax ⟨.semInit, p, n⟩) s),
    clearLoops p,
    forEach (List.range 14) (fun q => doAll [setReg .tile p (0x4C0 + 8 * q) 0, setAx ⟨.ringLines, p, q⟩ 0,
      setAx ⟨.ringKept, p, q⟩ 0]),
    whenE (fun s => s.on fShadowReady p) (flipBank p),
    setF fR0Head p 0, tileFresh t p step] s

/-- Kiln step start at a PARKED tile: PC ← ENTRY, LC ← 0, comparators cleared; semaphores and rings kept. -/
def tileStepStart (t p step : Nat) : Eff := fun s =>
  if s.get fTileState p ≠ 2 then [] else
  doAll [setF fTileState p 1, setAx ⟨.seqWait, p, 0⟩ 0, clearLoops p, tileFresh t p step] s

/-- TILE_FLUSH_DONE (R128): the tile is IDLE, and starts if a START waits. -/
def effTileFlushDone (t : Nat) : Eff := fun s =>
  let p := s.phys t
  if s.get fTileState p ≠ 6 then [] else
  let due := s.ax ⟨.startDue, p, 0⟩
  doAll [setF fTileState p 0, setAx ⟨.startDue, p, 0⟩ 0, withSome (s.kilnOf t) skip abortDone,
    whenE (fun _ => due ≠ 0) (tileStart t p (due - 1))] s

def execTileFlushDone (t : Nat) (s : State) : Host.Outcome State Fault Refusal := .next ((effTileFlushDone t).run s)

end Sys2Proof.Machine
end

