-- ==== Sys2Proof/Machine/Paths.lean ====
section
/-! DEFINITION. The routers a stream or a combine set uses (R249–R253, R255), and whether they lie in a slow half (R264). -/

namespace Sys2Proof.Machine

/-! ## Register values of ROUTE and COMB (Tables 09-10, 09-11) -/

/-- What a tile's record or its registers say: queue rings, CO_SET, route entries, combine sets. -/
structure TileCfg where
  t : Nat
  qcfg : List W64
  coSet : W64
  routes : List (W64 × W64)
  combs : List W64
  deriving DecidableEq, Repr

/-- The registers of a logical tile. -/
def State.regCfg (s : State) (t : Nat) : TileCfg :=
  let p := s.phys t
  { t := t, qcfg := (List.range 14).map fun q => s.rd .tile p (0x440 + 8 * q), coSet := s.rd .router p 0x110
    routes := (List.range 5).map fun r => (s.rd .router p (0x120 + 0x10 * r), s.rd .router p (0x128 + 0x10 * r))
    combs := (List.range 16).map fun c => s.rd .router p (0x180 + 8 * c) }

/-! ## What a route uses -/

/-- The outputs (kinds 0–3) and inputs (kinds 5–8) that moves use. -/
def pathUses : Pos → List Dir → List (Nat × Nat)
  | _, [] => []
  | p, d :: ds =>
    let q := (hop p d).getD p
    (posIdx p, d.num) :: (posIdx q, 5 + d.opp.num) :: pathUses q ds

/-- What a route takes: router ports (position, kind), hops and detours of its farthest destination; `up` are the ports of the
routes that lead into a combine set. -/
structure Want where
  uses : List (Nat × Nat) := []
  up : List (Nat × Nat) := []
  h : Nat := 0
  d : Nat := 0
  deriving DecidableEq, Repr

/-- A unicast between logical tiles, entering its first router at a kind of input. -/
def GeoMap.uniWant (g : GeoMap) (inKind xs ys xd yd : Nat) : Option Want :=
  (g.route xs ys xd yd).map fun r =>
    { uses := (posIdx (g.pos xs ys), inKind) :: pathUses (g.pos xs ys) r.1, h := r.1.length, d := r.2 }

/-- More ports used. -/
def Want.more (l : List (Nat × Nat)) (w : Want) : Want := { w with uses := w.uses ++ l }

/-- The first none of a list of options makes none. -/
def allSome {α : Type} : List (Option α) → Option (List α)
  | [] => some []
  | none :: _ => none
  | some a :: l => (allSome l).map (a :: ·)

/-- R253: a multicast over [x1, x2] × [y1, y2]. -/
def GeoMap.mcastWant (g : GeoMap) (inKind xs ys x1 y1 x2 y2 : Nat) : Option Want :=
  let xe := max x1 (min xs x2)
  let ye := max y1 (min ys y2)
  let seg (a b c d : Nat) : Option Want := (g.route a b c d).map fun r =>
    { uses := pathUses (g.pos a b) r.1, h := r.1.length, d := r.2 }
  let cols := (List.range (x2 + 1 - x1)).map (x1 + ·)
  let legs := cols.map fun x =>
    match seg xe ye x ye, seg x ye x y1, seg x ye x y2 with
    | some a, some b, some c =>
      let far := if b.h + 2 * b.d < c.h + 2 * c.d then c else b
      some ({ uses := a.uses ++ b.uses ++ c.uses, h := a.h + far.h, d := a.d + far.d } : Want)
    | _, _, _ => none
  match g.uniWant inKind xs ys xe ye, allSome legs with
  | some r0, some ls =>
    let far := ls.foldl (fun m x => if m.h + 2 * m.d < x.h + 2 * x.d then x else m) {}
    some { uses := (r0.uses ++ ls.flatMap (fun l => l.uses)).dedup, h := r0.h + far.h, d := r0.d + far.d }
  | _, _ => none

/-- Deliveries into tiles: output L, kind 4. -/
def GeoMap.lands (g : GeoMap) (x1 y1 x2 y2 : Nat) : List (Nat × Nat) :=
  (rectTiles x1 x2 y1 y2).map fun t => (g.phys t, 4)

/-- The route of a ROUTE_A value of tile t, to the ring or the edge link it ends in. -/
def GeoMap.entryWant (g : GeoMap) (t : Nat) (a : W64) : Option Want :=
  let x := t % 192
  let y := t / 192
  let dx := getBits a 8 8
  let dy := getBits a 16 8
  if getBits a 43 1 = 1 then
    (g.uniWant 9 x y dx dy).map fun w => { w with uses := w.uses ++ [(posIdx (g.pos dx dy), getBits a 44 2)], h := w.h + 1 }
  else if getBits a 0 4 = 1 then
    (g.mcastWant 9 x y dx dy (getBits a 24 8) (getBits a 32 8)).map (Want.more (g.lands dx dy (getBits a 24 8) (getBits a 32 8)))
  else (g.uniWant 9 x y dx dy).map (Want.more [(posIdx (g.pos dx dy), 4)])

/-! ## Combine sets (R255, R258) -/

/-- The logical neighbour of a tile. -/
def neighTile (t : Nat) (d : Dir) : Option Nat :=
  let x := t % 192
  let y := t / 192
  match d with
  | .n => if y = 0 then none else some (t - 192)
  | .s => if y = 179 then none else some (t + 192)
  | .e => if x = 191 then none else some (t + 1)
  | .w => if x = 0 then none else some (t - 1)
  | .l => some t

/-- The side of an OUT or EXIT code. -/
def sideOf (n : Nat) : Dir := match n with | 0 => .n | 1 => .e | 2 => .s | _ => .w

/-- The ways from the contributing tiles into set c of a tile, through the sets of a kiln: their ports, and hops and detours of
the farthest (R258). -/
def combUp (g : GeoMap) (cfg : Nat → Option TileCfg) : Nat → Nat → Nat → Want
  | 0, _, _ => {}
  | fuel + 1, t, c =>
    match cfg t with
    | none => {}
    | some x =>
      let v := x.combs.getD c 0
      ([Dir.n, .e, .s, .w].flatMap fun d =>
        if getBits v d.num 1 = 0 then [] else
        match neighTile t d with
        | none => []
        | some n => match cfg n with
          | none => []
          | some y => (y.combs.zipIdx.filter fun z => getBits z.1 17 1 = 1 && getBits z.1 5 3 = d.opp.num && getBits z.1 10 4 = c).map fun z =>
              let r := (g.route (n % 192) (n / 192) (t % 192) (t / 192)).getD ([], 0)
              let w := combUp g cfg fuel n z.2
              { up := w.up ++ pathUses (g.pos (n % 192) (n / 192)) r.1, h := w.h + r.1.length, d := w.d + r.2 : Want }).foldl
        (fun m z => { (if m.h + 2 * m.d < z.h + 2 * z.d then z else m) with up := m.up ++ z.up }) {}

/-- The way of set c of a tile onward, after the ways into it; none where it is broken or leaves the square. -/
def GeoMap.combWant (g : GeoMap) (cfg : Nat → Option TileCfg) (x : TileCfg) (c : Nat) : Option Want :=
  let v := x.combs.getD c 0
  let w := combUp g cfg 400 x.t c
  if getBits v 5 3 = 4 then some { w with uses := [(g.phys x.t, getBits v 8 2)], h := w.h + 1 }
  else match neighTile x.t (sideOf (getBits v 5 3)) with
    | none => none
    | some n => (g.route (x.t % 192) (x.t / 192) (n % 192) (n / 192)).map fun m =>
        { w with uses := pathUses (g.pos (x.t % 192) (x.t / 192)) m.1, h := w.h + m.1.length, d := w.d + m.2 }

/-- The configurations of the tiles of a kiln. -/
def State.kilnCfg (s : State) (k : Nat) : Nat → Option TileCfg :=
  let ts := s.kilnTiles k
  fun t => if ts.contains t then some (s.regCfg t) else none

/-! ## Slow halves (R264) -/

/-- A route has a hop in a slow half. -/
def State.slowRoute (s : State) (w : Want) : Bool := (w.uses ++ w.up).any fun u => s.netSlow (halfOf u.1)

/-- A source takes the slow frame. -/
def State.slowWant (s : State) (w : Option Want) : Bool := (s.netSlow 0 || s.netSlow 1) && w.elim false s.slowRoute

end Sys2Proof.Machine
end

