-- ==== Sys2Proof/Machine/Slip.lean ====
section
/-! DEFINITION. Slip ports (chapter 10): stream contexts and gather windows, shard versions and the gather log, edge
requests, the BAR4 aperture, the memory map; and the acceptance of lines into the wafer network (R259). -/

namespace Sys2Proof.Machine

/-! ## Stream list entries (Table 10-7) -/

def Strm.op (t : Strm) : Nat := getBits t.e0 0 2
def Strm.src (t : Strm) : Nat := getBits t.e0 2 2
def Strm.tr (t : Strm) : Bool := getBits t.e0 4 1 = 1
def Strm.tb (t : Strm) : Nat := 16 * 2 ^ getBits t.e0 5 2
def Strm.fmt (t : Strm) : Nat := getBits t.e0 7 4
def Strm.log (t : Strm) : Bool := getBits t.e0 11 1 = 1
def Strm.check (t : Strm) : Bool := getBits t.e0 12 1 = 1
def Strm.drop (t : Strm) : Bool := getBits t.e0 13 1 = 1
def Strm.win (t : Strm) : Nat := getBits t.e0 14 3
def Strm.link (t : Strm) : Nat := getBits t.e0 17 4
def Strm.mcast (t : Strm) : Bool := getBits t.e0 21 1 = 1
def Strm.cone (t : Strm) : Nat := getBits t.e0 22 3
def Strm.q (t : Strm) : Nat := getBits t.e0 25 1
def Strm.layer (t : Strm) : Nat := getBits t.e0 32 16
def Strm.addr (t : Strm) : Nat := getBits t.e1 0 48
def Strm.len (t : Strm) : Nat := getBits t.e2 0 40 + 1
def Strm.nsegs (t : Strm) : Nat := getBits t.e2 40 6 + 1
def Strm.limit (t : Strm) : Nat := getBits t.e2 48 16
def Strm.dx (t : Strm) : Nat := getBits t.e3 0 8
def Strm.dy (t : Strm) : Nat := getBits t.e3 8 8
def Strm.x2 (t : Strm) : Nat := if t.mcast then getBits t.e3 16 8 else t.dx
def Strm.y2 (t : Strm) : Nat := if t.mcast then getBits t.e3 24 8 else t.dy
def Strm.rate (t : Strm) : Nat := getBits t.e3 32 10
def Strm.creditInit (t : Strm) : Nat := getBits t.e3 42 11
/-- The lines of a stream. -/
def Strm.lines (t : Strm) : Nat := t.len / 64
/-- The route of a stream from its edge tile to the rings it feeds; none where it is broken. -/
def Strm.want (g : GeoMap) (t : Strm) : Option Want :=
  let e := edgeTile t.port t.link
  let inKind := 5 + (edgeDir t.port).num
  if t.mcast then (g.mcastWant inKind e.1 e.2 t.dx t.dy t.x2 t.y2).map (Want.more (g.lands t.dx t.dy t.x2 t.y2))
  else (g.uniWant inKind e.1 e.2 t.dx t.dy).map (Want.more [(posIdx (g.pos t.dx t.dy), 4)])

/-- The destination of a stream as one number, and its feeder (R260). -/
def Strm.dest (t : Strm) : Nat := destCode t.dx t.dy t.x2 t.y2 t.q
def Strm.feeder (t : Strm) : Nat := feedStream t.port t.ctx t.dest

/-- A 64-bit word of the store. -/
def State.stWord (s : State) (a : Nat) : W64 := BitVec.ofNat 64 (s.stNum a 8)

/-- Entry i of the list at a store address, for context c of port p. -/
def State.listEntry (s : State) (p c a i : Nat) : Strm := {
  port := p, ctx := c, entry := i
  e0 := s.stWord (a + 32 * i), e1 := s.stWord (a + 32 * i + 8), e2 := s.stWord (a + 32 * i + 16)
  e3 := s.stWord (a + 32 * i + 24), start := [] }

/-- The entry a context is at. -/
def State.ctxEntry (s : State) (p c : Nat) : Strm := s.listEntry p c (s.get (fCtxList c) p) (s.get (fCtxIndex c) p)

/-! ## What streams read -/

/-- The source offset of byte j that a stream sends: with TRANSPOSE, blocks of TBLK × TBLK elements with rows and
columns exchanged (R287). -/
def Strm.srcOff (t : Strm) (j : Nat) : Nat :=
  if !t.tr then j else
    let e := fmtBytes t.fmt
    let b := t.tb * t.tb * e
    let i := j % b / e
    j / b * b + ((i % t.tb) * t.tb + i / t.tb) * e + j % e

/-- The segments of a window. -/
def State.winSegs (s : State) (p w : Nat) : List Seg := s.sl.segs.filter fun g => g.port = p && g.w = w

/-- The segment of a window that holds an offset. -/
def State.segAt (s : State) (p w o : Nat) : Option Seg :=
  (s.winSegs p w).find? fun g => g.woff * 64 ≤ o && o < g.woff * 64 + g.len

/-- The store address of window w's bytes (R288). -/
def State.winAddr (s : State) (p w o : Nat) : Nat := s.regionBase p 4 + s.get (fWinBase w) p * 65536 + o

/-- The generation slot a stream resolved for a segment at its start. -/
def Strm.slotOf (t : Strm) (seg : Nat) : Nat := ((t.start.find? fun x => x.seg = seg).map fun x => x.slot).getD 0

/-- The store address of offset o of a stream's source. -/
def State.srcAddr (s : State) (t : Strm) (o : Nat) : Nat :=
  match t.src with
  | 0 => t.addr + o
  | 1 => s.genAddr t.port 0 (t.slotOf 0) (t.addr + o)
  | _ => match s.segAt t.port t.win (t.addr + o) with
    | some g => if g.path = 2 then s.genAddr g.stack 0 (t.slotOf g.seg) (g.off + (t.addr + o - g.woff * 64))
        else s.winAddr t.port t.win (t.addr + o)
    | none => s.winAddr t.port t.win (t.addr + o)

/-- The store addresses of the 64 bytes of line n of a stream. -/
def State.lineAddrs (s : State) (t : Strm) (n : Nat) : List Nat :=
  (List.range 64).map fun k => s.srcAddr t (t.srcOff (64 * n + k))

/-! ## Version samples (R292) -/

/-- VERSION and ALT of the committed home generation of a stack. -/
def State.sample (s : State) (seg stack : Nat) : Sample :=
  ⟨seg, s.get (fGenVer 0) stack, s.get (fGenAlt 0) stack, stack, s.get (fCgen 0) stack⟩

/-- A start sample taken again at the end: VERSION and ALT of the generation it resolved, from its header (R276, R292). -/
def State.resample (s : State) (x : Sample) : Sample :=
  if 48 ≤ x.stack then x else { x with ver := s.hdrVer x.stack 0 x.slot, alt := s.hdrAlt x.stack 0 x.slot }

/-- The samples of a stream now: HOME, or each segment it touches; none where a stack has no committed generation. -/
def State.samples (s : State) (t : Strm) : Option (List Sample) :=
  match t.src with
  | 0 => some []
  | 1 => if s.on (fGenValid 0) t.port then some [s.sample 0 t.port] else none
  | _ =>
    let gs := (s.winSegs t.port t.win).filter fun g => g.woff * 64 < t.addr + t.len && t.addr < g.woff * 64 + g.len
    if gs.any (fun g => g.path = 2 && !s.on (fGenValid 0) g.stack) then none
    else some (gs.map fun g => if g.path = 2 then s.sample g.seg g.stack else ⟨g.seg, g.ver, g.alt, 48, 0⟩)

/-! ## Faults of contexts and windows -/

/-- A context goes FAULTED: its streams end, CTX_FAULT, its kiln told (R285). -/
def ctxFaulted (p c code : Nat) : Eff := fun s =>
  let k := s.get (fCtxKiln c) p
  doAll [setF (fCtxState c) p 4, modSl (fun l => { l with streams := l.streams.filter fun t => !(t.port = p && t.ctx = c) }),
    setEvt .slip p 0, kilnFault k code 1 0 p] s

/-- A context goes FAULTED with an error recorded in its port's page. -/
def ctxFault (p c code : Nat) (info : Option Nat) : Eff :=
  doAll [withSome info (recordErrFree .slip p code) (fun i => recordErr .slip p code i), ctxFaulted p c code]

/-- The context of port p whose list has started a GATHER on window w. -/
def State.winCtx (s : State) (p w : Nat) : Option Nat :=
  (List.range 16).find? fun c => s.on (fCtxValid c) p && s.get (fCtxKiln c) p = s.get (fWinKiln w) p &&
    (List.range (s.get (fCtxIndex c) p)).any fun i =>
      let t := s.listEntry p c (s.get (fCtxList c) p) i
      t.op = 1 && t.win = w

/-- A window goes FAILED: the segment's code, GWIN_FAIL, its context FAULTED (Table 10-10). -/
def winFail (p w seg code : Nat) : Eff := fun s =>
  doAll [setF (fWinState w) p 3, recordErr .slip p code (w * 0x100 + seg), setEvt .slip p 1,
    withSome (s.winCtx p w) skip fun c => ctxFaulted p c code] s

/-- A segment of a window has arrived; the last one makes the window READY. -/
def segArrived (p w seg ver alt : Nat) : Eff := fun s =>
  let n := s.get (fWinDone w) p + 1
  doAll [modSl (fun l => { l with segs := l.segs.map fun g => if g.port = p && g.w = w && g.seg = seg
      then { g with st := 2, ver := ver, alt := alt } else g }),
    setF (fWinDone w) p n, whenE (fun s => (s.winSegs p w).all fun g => g.st = 2) (setF (fWinState w) p 2)] s

/-! ## Streams (R283, R287, R292–R295) -/

/-- SHARD_CHANGED (R295). -/
def shardChanged (t : Strm) (k : Nat) (old new : Sample) : Eff :=
  doAll [addSat fGlogMiss t.port 1,
    setReg .slip t.port 0x348 (BitVec.ofNat 64 (t.layer + k * 2 ^ 16 + old.seg % 64 * 2 ^ 24 + 2 ^ 31 + old.alt * 2 ^ 32 + new.alt * 2 ^ 48)),
    setReg .slip t.port 0x350 (BitVec.ofNat 64 (old.ver + new.ver * 2 ^ 32)),
    setEvt .slip t.port 3,
    ctxFault t.port t.ctx eSHARD_CHANGED (some (t.layer + k * 2 ^ 16 + old.seg % 64 * 2 ^ 24))]

/-- The first of two lists of samples' segments whose VERSION or ALT differ. -/
def firstDiff (old new : List Sample) : Option (Sample × Sample) :=
  old.findSome? fun x => (new.find? fun y => y.seg = x.seg && (y.ver ≠ x.ver || y.alt ≠ x.alt)).map fun y => (x, y)

/-- The logged samples of a stream's layer. -/
def State.logged (s : State) (t : Strm) : List Sample :=
  (s.sl.glog.filter fun g => g.port = t.port && g.ctx = t.ctx && g.layer = t.layer).map fun g => ⟨g.seg, g.ver, g.alt, 48, 0⟩

/-- The streams of a context. -/
def State.ctxStreams (s : State) (p c : Nat) : List Strm := s.sl.streams.filter fun t => t.port = p && t.ctx = c

/-- The tags of a port's pool that are held (R279). -/
def State.tagsHeld (s : State) (p : Nat) : List Nat :=
  ((s.sl.streams.filter fun t => t.port = p).map fun t => t.tag) ++
    ((s.sl.segs.filter fun g => g.port = p && g.st = 1).map fun g => g.tag) ++
    (s.sl.drain.filter fun d => d.tag / 0x400 = p && (d.link.isSome || decide (s.wcount < d.due))).map fun d => d.tag

/-- A free tag of a port's pool; none where every one is held, and the holder waits (R279). -/
def State.freeTag (s : State) (p : Nat) : Option Nat :=
  ((List.range 0x400).find? fun n => !(s.tagsHeld p).contains (p * 0x400 + n)).map (p * 0x400 + ·)

def fTagsPeak : Fld := ⟨.slip, 0x370, 16, 11⟩

/-- PEAK of a port's tags. -/
def tagsPeak (p : Nat) : Eff := fun s => setF fTagsPeak p (max (s.get fTagsPeak p) (s.tagsHeld p).length) s

/-- The payload of a SEG_REQ (R376). -/
def segReqBytes (g : Seg) : List Byte :=
  leBytes 2 g.tag ++ leBytes 1 g.stack ++ leBytes 1 0 ++ leBytes 4 g.len ++ leBytes 8 g.off ++ leBytes 16 0

/-- A remote segment asked for: it takes a tag, and a SEG_REQ leaves on its path; a path that reaches nobody fails the
window with LINK_DOWN.  Without a free tag it waits (R279). -/
def segAsk (g : Seg) : Eff := fun s =>
  if s.get (fWinState g.w) g.port ≠ 1 then [] else
  if !s.pathOk g.path g.link g.module_ then winFail g.port g.w g.seg eLINK_DOWN s
  else match s.freeTag g.port with
  | none => []
  | some n =>
    let g' := { g with st := 1, tag := n }
    doAll [modSl (fun l => { l with segs := l.segs.map fun x => if x.port = g.port && x.w = g.w && x.seg = g.seg then g' else x }),
    tagsPeak g.port, sendMsg (planPort g.path g.link) g.module_ false 2 0x20 (segReqBytes g')] s

/-- Segments of a port that wait for a tag are asked for, now that one is free (R279). -/
def segRetry (p : Nat) : Eff := fun s => forEach (s.sl.segs.filter fun g => g.port = p && g.st = 0 && g.path ≠ 2) segAsk s

/-- R283: whether an entry has to wait: an earlier stream to its destination queue has lines to send, the port runs 32
streams, its window is FILLING, no tag is free (R279). -/
def State.mustWait (s : State) (t : Strm) : Bool :=
  ((s.ctxStreams t.port t.ctx).any fun x => x.dest = t.dest && x.sent < x.lines) ||
  32 ≤ (s.sl.streams.filter fun x => x.port = t.port).length ||
  (t.src = 2 && s.get (fWinState t.win) t.port = 1) || s.freeTag t.port = none

/-- END: the context is DONE once its streams have ended. -/
def ctxEnd (p c : Nat) : Eff := fun s =>
  if s.ctxStreams p c = [] ∧ (s.ctxEntry p c).op = 2 ∧ (s.get (fCtxState c) p = 1 ∨ s.get (fCtxState c) p = 2)
  then setF (fCtxState c) p 3 s else []

/-- A STREAM entry that need not wait starts: link, window, saggar, versions checked; its samples logged. -/
def streamStart (t : Strm) : Eff := fun s =>
  let p := t.port
  let c := t.ctx
  let k := s.get (fCtxKiln c) p
  let ep := some (s.get fEpoch 0)
  if !s.linkUse p t.link then ctxFault p c eFENCED none s
  else if t.src = 2 ∧ s.get (fWinState t.win) p ≠ 2 then ctxFault p c eSTATE none s
  else match (if t.src = 0 then s.sagDenied ep (s.kilnSag k ep) true false t.addr t.len else none) with
    | some a => doAll [deny 5 (s.kilnSag k ep) (s.winOwner ep a).1 (s.winOwner ep a).2 p, ctxFault p c eSAGGAR none] s
    | none => match s.samples t with
      | none => ctxFault p c eSTATE none s
      | some now =>
        match (if t.check then firstDiff (s.logged t) now else none) with
        | some x => doAll [addSat fGlogChecks p 1, shardChanged t k x.1 x.2] s
        | none =>
          doAll [whenE (fun _ => t.check) (addSat fGlogChecks p 1),
            modSl (fun l => { l with
              streams := l.streams ++ [{ t with start := now, tag := (s.freeTag p).getD 0 }]
              glog := l.glog ++ (if t.log then (now.map fun x => ⟨p, k, c, t.layer, x.seg, x.ver, x.alt⟩) else []) }),
            setAx ⟨.feedLink, t.feeder, 0⟩ t.link, tagsPeak p,
            setF (fCtxIndex c) p (s.get (fCtxIndex c) p + 1), setF (fCtxState c) p 1, ctxEnd p c] s

/-- STREAM_ENTRY_START: a context starts its next entry, or waits at it; at END it is DONE. DEDUCED, log entry 62. -/
def effStreamEntryStart (p c : Nat) : Eff := fun s =>
  let st := s.get (fCtxState c) p
  let t := s.ctxEntry p c
  if 48 ≤ p ∨ 16 ≤ c ∨ !s.on (fCtxValid c) p ∨ !(st = 1 ∨ st = 2) then []
  else if t.op = 2 then ctxEnd p c s
  else if t.op ≠ 0 then []
  else if s.mustWait t then setF (fCtxState c) p 2 s
  else streamStart t s

def execStreamEntryStart (p c : Nat) (s : State) : Host.Outcome State Fault Refusal :=
  .next ((effStreamEntryStart p c).run s)

/-- STREAM_END: a stream has sent its last line: its end sample is checked, DROP frees the window (R295, Table 10-10). -/
def effStreamEnd (p c entry : Nat) : Eff := fun s =>
  match (s.ctxStreams p c).find? fun t => t.entry = entry with
  | none => []
  | some t =>
    if t.sent < t.lines then [] else
    let diff := if t.check || t.log then firstDiff t.start (t.start.map s.resample) else none
    match diff with
    | some x => shardChanged t (s.get (fCtxKiln c) p) x.1 x.2 s
    | none =>
      doAll [modSl (fun l => { l with
          streams := l.streams.filter fun x => !(x.port = p && x.ctx = c && x.entry = entry)
          segs := if t.src = 2 ∧ t.drop then (l.segs.filter fun g => !(g.port = p && g.w = t.win)) else l.segs }),
        whenE (fun _ => t.src = 2 && t.drop) (setF (fWinState t.win) p 0), ctxEnd p c, segRetry p] s

def execStreamEnd (p c entry : Nat) (s : State) : Host.Outcome State Fault Refusal := .next ((effStreamEnd p c entry).run s)

/-! ## Gathering (R288–R291) -/

/-- Entry i of a segment table (Table 10-9). -/
def State.segEntry (s : State) (p w a i : Nat) : Seg :=
  let w0 := s.stWord (a + 16 * i)
  let w1 := s.stWord (a + 16 * i + 8)
  { port := p, w := w, seg := i, module_ := getBits w0 0 12, path := getBits w0 12 2, link := getBits w0 14 4
    stack := getBits w0 18 6, off := getBits w0 24 40, len := getBits w1 0 32, woff := getBits w1 32 32 }

/-- GATHER_START: a FREE window goes FILLING: LOCAL segments are ready at once, the others are asked for. -/
def effGatherStart (p c : Nat) : Eff := fun s =>
  let st := s.get (fCtxState c) p
  let t := s.ctxEntry p c
  let k := s.get (fCtxKiln c) p
  let ep := some (s.get fEpoch 0)
  if 48 ≤ p ∨ 16 ≤ c ∨ !s.on (fCtxValid c) p ∨ !(st = 1 ∨ st = 2) ∨ t.op ≠ 1 then []
  else if s.get (fWinState t.win) p = 1 ∨ s.get (fWinState t.win) p = 2 then ctxFault p c eSTATE none s
  else if s.get (fWinState t.win) p = 3 then []
  else match s.sagDenied ep (s.kilnSag k ep) true false t.addr (16 * t.nsegs) with
    | some a => doAll [deny 5 (s.kilnSag k ep) (s.winOwner ep a).1 (s.winOwner ep a).2 p, ctxFault p c eSAGGAR none] s
    | none =>
      let gs := (List.range t.nsegs).map fun i => s.segEntry p t.win t.addr i
      let gs' := gs.map fun g => if g.path = 2 then { g with st := 2 } else g
      let local_ := (gs'.filter fun g => g.st = 2).length
      doAll [modSl (fun l => let l' := dropReads s.wcount (fun _ => false) (fun g => g.port = p && g.w = t.win) l
          { l' with segs := l'.segs ++ gs' }),
        setF (fWinKiln t.win) p k, setF (fWinDone t.win) p local_,
        setF (fWinState t.win) p (if local_ = t.nsegs then 2 else 1),
        setF (fCtxIndex c) p (s.get (fCtxIndex c) p + 1), setF (fCtxState c) p 1,
        forEach (gs.filter fun g => g.path ≠ 2) segAsk] s

def execGatherStart (p c : Nat) (s : State) : Host.Outcome State Fault Refusal := .next ((effGatherStart p c).run s)

/-- GATHER_TIMEOUT: GATHER_TMO passed in FILLING; INFO names the first segment that is missing. -/
def effGatherTimeout (p w : Nat) : Eff := fun s =>
  if 48 ≤ p ∨ 8 ≤ w ∨ s.get (fWinState w) p ≠ 1 then [] else
  winFail p w (((s.winSegs p w).find? fun g => g.st ≠ 2).elim 0 fun g => g.seg) eTIMEOUT s

def execGatherTimeout (p w : Nat) (s : State) : Host.Outcome State Fault Refusal := .next ((effGatherTimeout p w).run s)

/-! ## Stack temperature and refresh (R270, R285) -/

/-- The refresh level of a temperature, and the sustained read rate of a level in GB/s (Table 10-2). -/
def refreshOf (celsius : Int) : Nat := if celsius < 85 then 0 else if celsius < 95 then 1 else 2
def sustained (level : Nat) : Nat := if level = 0 then 1920 else if level = 1 then 1840 else 1680

/-- RSV_READ of a stack and RSV_TRANSPOSE of a port in MB/s, as loaded (R284). -/
def State.rsvRead (s : State) (p : Nat) : Nat := ((s.sl.bud.filter fun b => b.stack = p).map fun b => b.mbps).sum
def State.rsvTr (s : State) (p : Nat) : Nat := ((s.sl.bud.filter fun b => b.port = p && b.tr).map fun b => b.mbps).sum

/-- STACK_TEMP_SAMPLE. -/
def effStackTempSample (p : Nat) (celsius : Int) : Eff := fun s =>
  if 48 ≤ p ∨ !s.on fTrained p then [] else
  let old := s.get fRefresh p
  let new := refreshOf celsius
  doAll [setF fStackTemp p (min celsius.toNat 255), setF fRefresh p new, whenE (fun _ => old ≠ new) (setEvt .slip p 4),
    whenE (fun s => old < new && sustained new * 1000 < s.rsvRead p)
      (forEach (((s.sl.bud.filter fun b => b.stack = p).map fun b => b.kiln).dedup) fun k => drainKiln k eTHERMAL 4)] s

def execStackTempSample (p : Nat) (celsius : Int) (s : State) : Host.Outcome State Fault Refusal :=
  .next ((effStackTempSample p celsius).run s)

/-! ## Edge requests (R296–R300) -/

/-- Whether an edge packet is one a tile sends to the store. -/
def EdgePkt.isReq (e : EdgePkt) (p : Nat) : Bool := e.port = p && e.full && e.h.typ ≠ 2

/-- The first request at port p; an OFFLINE port serves none (R271). -/
def State.edgeReq (s : State) (p : Nat) : Option EdgePkt :=
  if s.get fSlipState p = 3 then none else s.net.edge.find? fun e => e.isReq p

def EdgePkt.src (e : EdgePkt) : Nat := e.h.sy * 192 + e.h.sx
def EdgePkt.op (e : EdgePkt) : Nat := e.h.arg % 4
def EdgePkt.rid (e : EdgePkt) : Nat := e.h.arg / 4 % 32
/-- Bits of the request line. -/
def EdgePkt.bits (e : EdgePkt) (word lo w : Nat) : Nat := ofBytes (((e.lines.headD []).drop (8 * word)).take 8) / 2 ^ lo % 2 ^ w
/-- The packet comes from a program's EO queue: only those have a feeder's credit. -/
def EdgePkt.eo (e : EdgePkt) : Bool := e.feed ≠ 0

/-- Reserved bits of a request that are not 0 (Table 10-11). -/
def EdgePkt.rsvd (e : EdgePkt) : Bool :=
  e.h.arg / 2 ^ 11 ≠ 0 || e.bits 0 48 16 ≠ 0 || e.bits 1 42 22 ≠ 0 || e.bits 2 18 46 ≠ 0 || e.bits 3 48 16 ≠ 0 ||
  e.bits 4 7 57 ≠ 0 || e.bits 5 0 64 ≠ 0 || e.bits 6 0 64 ≠ 0 || e.bits 7 0 64 ≠ 0

/-- The packet is taken by the edge interface: its lines' credit goes back to EO's route entry. -/
def edgeGone (e : EdgePkt) : Eff :=
  doAll [modNet fun n => { n with edge := n.edge.erase e }, whenE (fun _ => e.eo) (feederCredit (e.feed - 1) e.lines.length)]

/-- A control packet from an edge interface to a packet's source tile, with a token of the interface (R245). -/
def edgeCtrl (e : EdgePkt) (typ arg : Nat) : Eff := fun s =>
  let x := edgeTile e.port e.link
  injectCtrl (s.phys (x.2 * 192 + x.1)) (edgeDir e.port) (bktEdge e.port e.link) {
    typ := typ, dx := e.h.sx, dy := e.h.sy, sx := x.1, sy := x.2, sag := e.h.sag, rim := true, kiln := e.h.kiln, arg := arg } e.root 0 s

/-- R299: the answer to a write of D. -/
def edgeAnswer (e : EdgePkt) (code : Nat) : Eff := edgeCtrl e 6 (e.rid * 4 + code * 256)

/-- R299: the answer to a read, a response line and the data lines, which wait at the edge interface for room at the router. -/
def edgeReply (e : EdgePkt) (code : Nat) (data : List (List Byte)) : Eff := fun s =>
  let x := edgeTile e.port e.link
  let h : Hdr := {
    cone := e.h.cone, lines := data.length + 1, dx := e.h.sx, dy := e.h.sy, sx := x.1, sy := x.2, sag := e.h.sag
    rim := true, kiln := e.h.kiln }
  let resp := leBytes 1 e.rid ++ leBytes 1 data.length ++ leBytes 1 code ++ leBytes 61 0
  let all := resp :: data
  forEach all.zipIdx (fun l => inject { flitAt (s.phys (x.2 * 192 + x.1)) (edgeDir e.port) h false (l.2 = 0) (l.2 + 1 = all.length) l.1
    (s.get fEpoch 0) e.root 0 with wait := bktEdge e.port e.link + 1 }) s

/-- R300: a request fails: answered to D, with the data lines that R272 gives a read of unpopulated bytes; an engine error of the
source tile for EO; recorded in the port's page.  The instruction that pushed it is not known there, so FAULT_INFO's other fields
are free values. -/
def edgeFailWith (e : EdgePkt) (code : Nat) (data : List (List Byte)) : Eff := fun s =>
  doAll [recordErr .slip e.port code e.src,
    if e.eo then drawFree fun w => engineFault (s.phys e.src) (getBits w 0 11) (getBits w 11 1) (getBits w 12 3) (getBits w 16 8) code none
    else if e.op = 1 then edgeReply e code data else edgeAnswer e code] s

/-- A request that fails without data. -/
def edgeFail (e : EdgePkt) (code : Nat) : Eff := edgeFailWith e code []

/-- What forbids a store access of an edge packet: the saggar's windows (R427), an unpopulated byte, for a write part of
a bad burst, for a read a bad burst. -/
def State.edgeErr (s : State) (e : EdgePkt) (wr : Bool) (a n : Nat) : Option Nat :=
  if !e.root ∧ (s.sagDenied (some e.epoch) (s.kilnSag e.h.kiln (some e.epoch)) (!wr) wr a n).isSome then some eSAGGAR
  else if wr then (s.storeWrErr a n).map (·.1) else (s.storeRdErr a n).map (·.1)

/-- The denial of an edge request (R429). -/
def edgeDeny (e : EdgePkt) (wr : Bool) (a n : Nat) : Eff := fun s =>
  let ep := some e.epoch
  let sag := s.kilnSag e.h.kiln ep
  match s.sagDenied ep sag (!wr) wr a n with
  | some x => if e.root then [] else deny 4 sag (s.winOwner ep x).1 (s.winOwner ep x).2 e.port s
  | none => []

/-- The bytes a write packet carries. -/
def EdgePkt.data (e : EdgePkt) : List Byte := ((e.lines.drop 1).flatten).take (e.bits 1 32 10 + 1)

/-- Whether a write packet's fields are in range. -/
def EdgePkt.wrBad (e : EdgePkt) : Bool :=
  2 ≤ e.op || e.rsvd || e.h.arg / 2 ^ 7 ≠ 0 || 960 ≤ e.bits 1 32 10 ||
  e.lines.length ≠ 1 + (e.bits 1 32 10 + 64) / 64 || (!e.eo && e.bits 1 0 32 ≠ 0) || (e.eo && e.rid ≠ 0)

/-- STORED_ADDR and the ACK of a stored transfer (R297). -/
def edgeDone (e : EdgePkt) (stored : Nat) : Eff :=
  let sa := e.bits 3 0 48
  doAll [whenE (fun _ => sa ≠ 0) (storeWrite sa (leBytes 8 stored)),
    if e.eo then whenE (fun _ => e.bits 4 6 1 = 1) (edgeCtrl e 3 (e.bits 4 0 6 + 64)) else edgeAnswer e 0]

/-- A PLAIN write. DEDUCED, log entry 63. -/
def edgePlain (e : EdgePkt) : Eff := fun s =>
  let a := e.bits 0 0 48
  let sa := e.bits 3 0 48
  let err := match s.edgeErr e true a e.data.length with
    | some c => some (c, a, e.data.length)
    | none => if sa = 0 then none else (s.edgeErr e true sa 8).map fun c => (c, sa, 8)
  match err with
  | some c => doAll [edgeDeny e true c.2.1 c.2.2, edgeFail e c.1] s
  | none => doAll [storeWrite a e.data, edgeDone e e.data.length] s

/-- The bytes that stand at offset a of a wedged transfer's destination before it: those it has overwritten, and the
store's own; none where a bad burst holds one. -/
def State.xferOld (s : State) (x : Xfer) (a n : Nat) : Option (List Byte) :=
  if x.old.length < a + n ∧ s.badBursts (x.addr + max a x.old.length) (a + n - max a x.old.length) ≠ [] then none
  else some (((x.old ++ s.stRds (x.addr + x.old.length) (a + n - x.old.length)).drop a).take n)

/-- What the wedging stage stores of a transfer's first n bytes (R175–R181). -/
def State.xferWedge (s : State) (x : Xfer) (n : Nat) : Wedged :=
  let e := fmtBytes (wFmt x.word)
  let el (i : Nat) : Nat := ofBytes ((x.data.drop (i * e)).take e)
  wedgeAs (s.grade = 3) (fun _ => wMode x.word) x.word (n / e) (n / e) el (fun i => decodeElem (wFmt x.word) (el i)) (s.xferOld x) eECC_UE

/-- A wedged transfer ends or goes on: a change of its entry, or none left of it. -/
def putXfer (x : Xfer) (x' : Option Xfer) : Eff := modSl fun l => { l with
  xfers := l.xfers.flatMap fun y => if y.port = x.port && y.src = x.src && y.txn = x.txn then x'.toList else [y] }

/-- A packet of a wedged transfer, joined to it: the tiles it completes are stored, at LAST all of them.  A tile that KEEP refuses ends
the transfer, and the tiles before it stay stored (R178, R184); a store access that fails writes nothing of the packet (R300). -/
def edgeWedged (e : EdgePkt) (x0 : Xfer) : Eff := fun s =>
  let last := e.bits 2 17 1 = 1
  let x := { x0 with data := x0.data ++ e.data }
  let row := 16 * wLen x.word * fmtBytes (wFmt x.word)
  let n := if last then x.data.length else x.data.length / row * row
  let w := s.xferWedge x n
  let new := w.bytes.drop x.stored
  let a := x.addr + x.stored
  let sa := e.bits 3 0 48
  let err := if last ∧ !wedgeOk x.word x.data.length then some (eARG, a, 0)
    else match (if new = [] then none else s.edgeErr e true a new.length) with
      | some c => some (c, a, new.length)
      | none => if !last ∨ sa = 0 ∨ w.err.isSome then none else (s.edgeErr e true sa 8).map fun c => (c, sa, 8)
  match err with
  | some c => doAll [whenE (fun _ => c.1 = eSAGGAR) (edgeDeny e true c.2.1 c.2.2), edgeFail e c.1] s
  | none =>
    let x' := { x with stored := w.bytes.length, old := x.old ++ s.stRds (x.addr + x.old.length) (w.bytes.length - x.old.length) }
    doAll [whenE (fun _ => new ≠ []) (storeWrite a new),
      putXfer x (if last ∨ w.err.isSome then none else some x'),
      countWedge .slip 0x388 x.port w.tiles x.stored w.bytes.length,
      match w.err with
      | some c => doAll [whenE (fun _ => c = eECC_UE) (badMeet 4 (x.addr + w.bytes.length) 64), edgeFail e c]
      | none => whenE (fun _ => last) (edgeDone e w.bytes.length)] s

/-- R298: an open transfer closes without its LAST. -/
def xferClose (x : Xfer) (code : Nat) : Eff :=
  doAll [putXfer x none, recordErr .slip x.port code x.src, addSat fXferClosed x.port 1]

/-- The open transfer of a packet. -/
def State.xferOf (s : State) (e : EdgePkt) : Option Xfer :=
  s.sl.xfers.find? fun x => x.port = e.port && x.src = e.src && x.txn = e.bits 2 0 16

/-- EDGE_WRITE: the first write request at a port is checked, stored, answered. -/
def effEdgeWrite (p : Nat) : Eff := fun s =>
  match s.edgeReq p with
  | none => []
  | some e =>
    if e.op = 1 then [] else
    doAll [edgeGone e,
      if e.wrBad then edgeFail e eARG
      else if wMode (e.bits 1 0 32) = 0 then (if wedgeOk (e.bits 1 0 32) 0 then edgePlain e else edgeFail e eARG)
      else if e.bits 2 16 1 = 1 then
        doAll [withSome (s.xferOf e) skip fun x => xferClose x eSTATE, fun s =>
          if !wedgeOk (e.bits 1 0 32) 0 ∨ e.bits 0 0 48 % 64 ≠ 0 then edgeFail e eARG s
          else if 16 ≤ (s.sl.xfers.filter fun x => x.port = p).length then edgeFail e eFULL s
          else
            let x : Xfer := {
              port := p, src := e.src, txn := e.bits 2 0 16, kiln := e.h.kiln, addr := e.bits 0 0 48
              word := e.bits 1 0 32, data := [], old := [], stored := 0 }
            doAll [modSl (fun l => { l with xfers := l.xfers ++ [x] }), edgeWedged e x] s]
      else withSome (s.xferOf e) (edgeFail e eARG) fun x => edgeWedged e x] s

def execEdgeWrite (p : Nat) (s : State) : Host.Outcome State Fault Refusal := .next ((effEdgeWrite p).run s)

/-- EDGE_READ: the first read request at a port is checked and answered with data. -/
def effEdgeRead (p : Nat) : Eff := fun s =>
  match s.edgeReq p with
  | none => []
  | some e =>
    if e.op ≠ 1 then [] else
    let a := e.bits 0 0 48
    let n := e.h.arg / 2 ^ 7 % 16 + 1
    let data := (List.range n).map fun i => s.stRds (a + 64 * i) 64
    doAll [edgeGone e,
      if e.rsvd ∨ e.lines.length ≠ 1 ∨ 15 < n ∨ a % 64 ≠ 0 then edgeFail e eARG
      else match s.edgeErr e false a (64 * n) with
        | some c => doAll [whenE (fun _ => c = eSAGGAR) (edgeDeny e false a (64 * n)),
            whenE (fun _ => c = eECC_UE) (badMeet 4 a (64 * n)),
            whenE (fun s => c = eECC_UE && (s.firstUnpop a (64 * n)).isSome) (recordErr .slip p eARG e.src),
            edgeFailWith e c (if c = eARG then data else [])]
        | none => doAll [countBytes fBytesRd a (64 * n), edgeReply e 0 data]] s

def execEdgeRead (p : Nat) (s : State) : Host.Outcome State Fault Refusal := .next ((effEdgeRead p).run s)

/-- XFER_TIMEOUT: XFER_TMO of the i-th open transfer of a port. -/
def effXferTimeout (p i : Nat) : Eff := fun s =>
  match (s.sl.xfers.filter fun x => x.port = p)[i]? with
  | some x => xferClose x eTIMEOUT s
  | none => []

def execXferTimeout (p i : Nat) (s : State) : Host.Outcome State Fault Refusal := .next ((effXferTimeout p i).run s)

/-! ## The BAR4 aperture (R301, R302) -/

def fApEnable : Fld := ⟨.host, 0x120, 0, 1⟩
def fApBase : Fld := ⟨.host, 0x120, 30, 18⟩

/-- A host link's aperture answers: the link is up and the module is neither held, tripped nor wedged. -/
def State.apLive (s : State) (h : Nat) : Bool := h < 2 && s.linkUp h && !s.held && !s.tripped && !s.wedged

/-- The stack at a store address is still in TRAINING (R480). DEDUCED, log entry 91. -/
def State.training (s : State) (a : Nat) : Bool := a / slotSize < 48 && s.get fSlipState (a / slotSize) = 1

/-- BAR4_READ. -/
def effBar4Read (h off len : Nat) : Eff := fun s =>
  if !s.apLive h then [] else
  if !s.on fApEnable (256 + h) then doAll [emit (.bytes (List.replicate len 0) false), recordErrFree .host (256 + h) eARG] s else
  let a := s.get fApBase (256 + h) * 2 ^ 30 + off
  if s.training a then doAll [emit (.bytes (List.replicate len 0) false), recordErrFree .host (256 + h) eSTATE] s else
  let bad := s.badBursts a len
  doAll [badMeet 5 a len, whenE (fun _ => bad ≠ []) (recordErrFree .host (256 + h) eECC_UE),
    withSome (s.firstUnpop a len) skip fun x => recordErr .host (256 + h) eARG (storeInfo x),
    countBytes fBytesRd a len,
    emit (.bytes (s.stRds a len) (bad ≠ []))] s

def execBar4Read (h off len : Nat) (s : State) : Host.Outcome State Fault Refusal := .next ((effBar4Read h off len).run s)

/-- A write with the root's authority: discarded with an error, or stored, counted toward ALT, headers it covers read
again (R272, R277, R293, R485). -/
def rootStore (blk : Blk) (inst a : Nat) (data : List Byte) : Eff := fun s =>
  match s.storeWrErr a data.length with
  | some x => if x.1 = eARG then recordErr blk inst eARG x.2 s else recordErrFree blk inst x.1 s
  | none => storeWrite a data s

/-- BAR4_WRITE. -/
def effBar4Write (h off : Nat) (data : List Byte) : Eff := fun s =>
  if !s.apLive h ∨ data = [] then [] else
  if !s.on fApEnable (256 + h) then recordErrFree .host (256 + h) eARG s
  else if s.training (s.get fApBase (256 + h) * 2 ^ 30 + off) then recordErrFree .host (256 + h) eSTATE s
  else rootStore .host (256 + h) (s.get fApBase (256 + h) * 2 ^ 30 + off) data s

def execBar4Write (h off : Nat) (data : List Byte) (s : State) : Host.Outcome State Fault Refusal :=
  .next ((effBar4Write h off data).run s)

/-! ## Deadlines of store reads (R279, R280) -/

/-- The holder of a tag of slip port p gets TIMEOUT: the stream that holds it, else the read request that waits at the port (R300). -/
def slipTimeout (p tag : Nat) : Eff := fun s =>
  match s.sl.streams.find? fun t => t.port = p && t.tag = tag with
  | some t => ctxFault p t.ctx eTIMEOUT none s
  | none =>
    if (s.sl.segs.any fun g => g.st = 1 && g.tag = tag) ∨ (s.sl.drain.any fun d => d.tag = tag && d.link.isSome) then []
    else if s.sl.drain.any fun d => d.tag = tag then []
    else match s.edgeReq p with
      | some e => if e.op = 1 then doAll [edgeGone e, edgeFail e eTIMEOUT] s else []
      | none => []

/-- STORE_READ_TIMEOUT: the tag retires, and the holder its pool names gets TIMEOUT (Table 10-6): a slip port's reader, a pug or glaze
unit, a link's BAR4 read, a rim core's load.  DESIGN CHOICE, log entry 118. -/
def effStoreReadTimeout (tag : Nat) : Eff := fun s =>
  if tag < 0xC000 then doAll [slipTimeout (tag / 0x400) tag,
    modSl (fun l => { l with drain := l.drain.filter fun d => d.tag ≠ tag || d.link.isSome }), segRetry (tag / 0x400)] s
  else if tag < 0xD000 then recordErrFree .pug ((tag - 0xC000) / 256) eTIMEOUT s
  else if tag < 0xDC00 then recordErrFree .glaze ((tag - 0xD000) / 64) eTIMEOUT s
  else if tag < 0xE400 then recordErrFree .host (256 + (tag - 0xDC00) / 1024) eTIMEOUT s
  else if tag < 0xF400 then emit (.rimFault ((tag - 0xE400) / 128)) s
  else []

def execStoreReadTimeout (tag : Nat) (s : State) : Host.Outcome State Fault Refusal := .next ((effStoreReadTimeout tag).run s)

/-! ## The memory map (R274) -/

/-- Whether an extent shares a byte with a VALID store window (R426). -/
def State.winMeets (s : State) (a n : Nat) : Bool :=
  (List.range 256).any fun w => match winParts (s.win w none) with
    | some y => a < y.1 + y.2.1 && y.1 < a + n
    | none => false

/-- SLIP_MAP_WRITE. -/
def effSlipMapWrite (src : Src) (p r : Nat) (v : W64) : Eff :=
  regWrite src .slip p (0x140 + 8 * r) 8
    (fun _ s =>
      let b := getBits v 0 12
      let n := getBits v 16 12
      firstErr [errIf (kilns256.any fun k => s.get fKilnState k ≠ 0) eSTATE,
        errIf (n ≠ 0 && (decide (s.get fUnits p < b + n) || (List.range 8).any fun q => q ≠ r && s.get (fMapSize q) p ≠ 0 &&
          s.get (fMapBase q) p < b + n && b < s.get (fMapBase q) p + s.get (fMapSize q) p)) eARG,
        errIf (decide (r < 5) && s.winMeets (p * slotSize + b * 2 ^ 24) (n * 2 ^ 24)) eARG])
    (fun _ => if r < 8 then doAll [setReg .slip p (0x140 + 8 * r) (v &&& 0x0FFF0FFF), headerReread p] else skip)

def execSlipMapWrite (src : Src) (p r : Nat) (v : W64) (s : State) : Host.Outcome State Fault Refusal :=
  .next ((inTurn src (.slipMapWrite src p r v) (effSlipMapWrite src p r v)).run s)

/-! ## COMB packets at the edge (R306, R307) -/

/-- The feed of an edge link and a set: pug and feed. -/
def State.feedFor (s : State) (port link set : Nat) : Option (Nat × Nat) :=
  pugs16.findSome? fun u => (feeds32.find? fun f => s.on (fFeedValid f) u && s.get (fFeedPort f) u = port &&
    s.get (fFeedLink f) u = link && s.get (fFeedSet f) u = set).map fun f => (u, f)

/-- COMB_EXIT_FORWARD: the first COMB packet at a port goes to the pug whose feed matches, or is discarded with ARG. -/
def effCombExitForward (p : Nat) : Eff := fun s =>
  match s.net.edge.find? fun e => e.port = p && e.full && e.h.typ = 2 with
  | none => []
  | some e =>
    match s.feedFor p e.link e.h.set with
    | none => doAll [modNet (fun n => { n with edge := n.edge.erase e }), recordErr .slip p eARG (e.link * 16 + e.h.set)] s
    | some x =>
      if 64 < s.get (fFeedFill x.2) x.1 + e.lines.length then [] else
      doAll [modNet (fun n => { n with edge := n.edge.erase e }),
        modPg (fun g => { g with feedq := g.feedq ++ [⟨x.1, x.2, e.h, e.epoch, e.lines⟩] }),
        setF (fFeedFill x.2) x.1 (s.get (fFeedFill x.2) x.1 + e.lines.length)] s

def execCombExitForward (p : Nat) (s : State) : Host.Outcome State Fault Refusal := .next ((effCombExitForward p).run s)

/-! ## Acceptance of lines (R244, R259, R260) -/

/-- The frame of a cone that is running, the slow one where the source's route has a hop in a slow half (R246, R264). -/
def State.frame (s : State) (slow : Bool) (cone : Nat) : Nat := s.wcount / frameLen slow cone

/-- Source (a, b) has allowance left in the current frame of its cone. DESIGN CHOICE, log entry 17. -/
def State.allowed (s : State) (a b : Nat) (slow : Bool) (cone rate : Nat) : Bool :=
  s.ax ⟨.lineFrame, a, b⟩ ≠ s.frame slow cone + 1 || s.ax ⟨.lineUsed, a, b⟩ < rate

/-- A line uses its source's allowance. -/
def useAllowance (a b : Nat) (slow : Bool) (cone : Nat) : Eff := fun s =>
  if s.ax ⟨.lineFrame, a, b⟩ = s.frame slow cone + 1 then setAx ⟨.lineUsed, a, b⟩ (s.ax ⟨.lineUsed, a, b⟩ + 1) s
  else doAll [setAx ⟨.lineFrame, a, b⟩ (s.frame slow cone + 1), setAx ⟨.lineUsed, a, b⟩ 1] s

/-- The oldest push into an output ring. -/
def State.pushOf (s : State) (p q : Nat) : Option Push := s.tl.pushes.find? fun x => x.p = p && x.q = q

/-- One line of the oldest push into an output ring is taken. -/
def takePush (p q n : Nat) : List Push → List Push
  | [] => []
  | x :: l => if x.p = p && x.q = q then (if x.lines ≤ n then l else { x with lines := x.lines - n } :: l) else x :: takePush p q n l

/-- The line at an output ring's head. -/
def State.outLine (s : State) (p q : Nat) : List Byte := s.ringPeek p q 1

/-- The local port reads a line of an output ring: a bad word faults the tile, and the line is not sent (R224). -/
def localRead (p q : Nat) (send : Eff) : Eff := fun s =>
  let ln := (s.get (fQBase q) p + 64 * (s.get (fQRd q) p % s.ringSize p q)) / 64
  doAll [served p 6, eccRead p 6 (· = ln), if s.popBad p q 1 then localPortFault p eECC_UE else send] s

/-- Whether EXIT of tile (x, y) is an edge link (R251). -/
def exitOk (x y exit : Nat) : Bool := x < 192 && y < 180 && (edgeOf x y (dirOf exit)).isSome

/-- The header of a packet of a route entry. -/
def State.routeHdr (s : State) (t p r lines : Nat) : Hdr := {
  typ := s.get (fRaType r) p, cone := s.get (fRaCone r) p, lines := lines, dx := s.get (fRaDx r) p
  dy := s.get (fRaDy r) p, sx := tileX t, sy := tileY t
  x2 := if s.get (fRaType r) p = 1 then s.get (fRaX2 r) p else 0
  y2 := if s.get (fRaType r) p = 1 then s.get (fRaY2 r) p else 0
  sag := s.get fOwnSag p, stream := s.get (fRaStream r) p, exitEn := s.on (fRaExitEn r) p, exit := s.get (fRaExit r) p
  kiln := s.get fOwnKiln p }

/-- Entry r of a tile sends in the slow frame. -/
def State.slowEntry (s : State) (t r : Nat) : Bool := s.slowWant (s.geo.entryWant t (s.rd .router (s.phys t) (0x120 + 0x10 * r)))

/-- A line of an NO or EO queue leaves under its route entry. -/
def acceptRoute (t r : Nat) : Eff := fun s =>
  let p := s.phys t
  let q := if r = 4 then 13 else 8 + r
  match s.pushOf p q with
  | none => []
  | some x =>
    let left := s.ax ⟨.outLeft, p, r⟩
    let n := if left = 0 then min 16 x.lines else left
    let h := s.routeHdr t p r (if left = 0 then n else 0)
    let slow := s.slowEntry t r
    if !s.on (fRaValid r) p ∨ s.get (fRouteCredit r) p = 0 ∨ !s.allowed p r slow h.cone (s.get (fRbRate r) p) ∨
        !s.roomIn p .l false false false h.cone then []
    else if left = 0 ∧ h.exitEn ∧ !exitOk h.dx h.dy h.exit then
      doAll [recordErr .router p eARG h.low, ringPop p q n, modTl fun y => { y with pushes := takePush p q n y.pushes }] s
    else
      let hl := if left = 0 then h else { h with lines := s.ax ⟨.outLeft, p, 32 + r⟩ }
      localRead p q (doAll [
        inject (flitAt p .l hl false (left = 0) (n = 1) (s.outLine p q) (s.get fEpoch 0) false (feedTile p r + 1)),
        ringPop p q 1, modTl (fun y => { y with pushes := takePush p q 1 y.pushes }),
        setAx ⟨.outLeft, p, r⟩ (n - 1), whenE (fun _ => left = 0) (setAx ⟨.outLeft, p, 32 + r⟩ n),
        setF (fRouteCredit r) p (s.get (fRouteCredit r) p - 1), useAllowance p r slow h.cone]) s

/-- The lines a combine set's input buffer takes: two packets of the largest size.  DESIGN CHOICE, log entry 31. -/
def combBuf : Nat := 32

/-- The lines at the input of a set of tile t from side d, or on their way to it (R259). -/
def State.combHeld (s : State) (t set : Nat) (d : Dir) : Nat :=
  let p := s.phys t
  ((s.net.combIn.filter fun c => c.p = p && c.set = set && c.dir = d).map fun c => c.lines.length).sum +
  (s.net.flits.filter fun f => f.h.typ = 2 && !f.ctrl && !f.h.exitEn && f.h.set = set && f.h.dy * 192 + f.h.dx = t &&
    combDir t f = d).length

/-- A line of the CO queue enters the tile's own combine set, whose input has room for it (R255, R259). -/
def acceptCo (t : Nat) : Eff := fun s =>
  let p := s.phys t
  match s.pushOf p 12 with
  | none => []
  | some x =>
    let left := s.ax ⟨.outLeft, p, 5⟩
    let n := if left = 0 then min 16 x.lines else left
    let set := s.get fCoSet p
    if !s.on fCoValid p ∨ combBuf ≤ s.combHeld t set .l then []
    else
      let h : Hdr := {
        typ := 2, cone := s.get (fCombCone set) p, lines := if left = 0 then n else s.ax ⟨.outLeft, p, 37⟩, dx := tileX t
        dy := tileY t, sx := tileX t, sy := tileY t, sag := s.get fOwnSag p, set := set, kiln := s.get fOwnKiln p
        arg := s.get fOwnStep p % 65536 }
      let f := flitAt p .l h false (left = 0) (n = 1) (s.outLine p 12) (s.get fEpoch 0) false 0
      localRead p 12 (doAll [
        inject { f with br := 5 }, ringPop p 12 1, modTl (fun y => { y with pushes := takePush p 12 1 y.pushes }),
        setAx ⟨.outLeft, p, 5⟩ (n - 1), whenE (fun _ => left = 0) (setAx ⟨.outLeft, p, 37⟩ n)]) s

/-- One of the lines under these addresses reads as the header of a compressed tile (R155, Table 06-2).
DEDUCED, log entry 64. -/
def State.tileHeadIn (s : State) (as : List Nat) : Bool :=
  (as.map (· / 64)).dedup.any fun l =>
    let h := parseHead (s.stRds (64 * l) 64)
    1 ≤ h.form && h.form ≤ 4 && h.rsvdOk && h.lines = formLines h.form h.rows h.cols h.count h.cap (fmtBytes h.fmt)

/-- A line of a stream leaves its edge link (R282, R283). -/
def acceptStream (p c entry : Nat) : Eff := fun s =>
  match (s.ctxStreams p c).find? fun t => t.entry = entry with
  | none => []
  | some t =>
    let src := 36000 + p
    let sub := c * 4096 + entry
    let k := s.get (fCtxKiln c) p
    let as := s.lineAddrs t t.sent
    let bad := (as.map (· / 32)).dedup.filter fun b => s.storeBad.contains b
    let x := edgeTile p t.link
    let at' := s.phys (x.2 * 192 + x.1)
    let slow := s.slowWant (t.want s.geo)
    if t.lines ≤ t.sent ∨ !s.allowed src sub slow t.cone t.rate ∨ 16 * t.creditInit ≤ s.ax ⟨.feedUsed, t.feeder, 0⟩ ∨
        !s.roomIn at' (edgeDir p) false false false t.cone then []
    else if !s.linkUse p t.link then ctxFault p c eFENCED none s
    else match bad with
      | b :: _ => doAll [forEach bad (fun x => badMeet 0 (x * 32) 32),
          withSome (as.find? fun a => !s.populated a) skip (fun a => recordErr .slip p eARG (storeInfo a)),
          ctxFault p c eECC_UE (some (storeInfo (b * 32)))] s
      | [] =>
        let base := t.sent / 16 * 16
        let h : Hdr := {
          typ := if t.mcast then 1 else 0, cone := t.cone, lines := min 16 (t.lines - base), dx := t.dx, dy := t.dy, sx := x.1
          sy := x.2, x2 := if t.mcast then t.x2 else 0, y2 := if t.mcast then t.y2 else 0
          sag := s.kilnSag k (some (s.get fEpoch 0)), stream := 4 + t.q, rim := true, kiln := k }
        let send : Eff := doAll [withSome (as.find? fun a => !s.populated a) skip (fun a => recordErr .slip p eARG (storeInfo a)),
          inject (flitAt at' (edgeDir p) h false (t.sent % 16 = 0) (t.sent + 1 = t.lines ∨ t.sent % 16 = 15)
            (as.map s.stRd) (s.get fEpoch 0) false (t.feeder + 1)),
          countBytes fBytesRd (as.headD 0) 64,
          modSl (fun l => { l with streams := l.streams.map fun y => if y.port = p && y.ctx = c && y.entry = entry
            then { y with sent := y.sent + 1 } else y }),
          setAx ⟨.feedUsed, t.feeder, 0⟩ (s.ax ⟨.feedUsed, t.feeder, 0⟩ + 1), useAllowance src sub slow t.cone]
        (if t.tr && s.tileHeadIn as then ctxFault p c eARG none else send) s

/-- The next router's set has room for a line of a set's output (R259); a neighbour that does not exist has none. -/
def State.combRoom (s : State) (t : Nat) (h : Hdr) : Bool :=
  let d := if h.dy < tileY t then Dir.s else if tileY t < h.dy then .n else if tileX t < h.dx then .w else .e
  (h.dx, h.dy) ≠ (tileX t, tileY t) && h.dx < 192 && h.dy < 180 && s.combHeld (h.dy * 192 + h.dx) h.set d < combBuf

/-- A line of a combine set's output leaves (R255, R259, R307); one that names no edge link is discarded (R251). -/
def acceptComb (t set : Nat) : Eff := fun s =>
  let p := s.phys t
  match s.net.combOut.find? fun o => o.p = p && o.set = set with
  | none => []
  | some o =>
    let cone := s.get (fCombCone set) p
    let slow := (s.netSlow 0 || s.netSlow 1) && s.slowWant (s.geo.combWant (s.kilnCfg (s.get fOwnKiln p)) (s.regCfg t) set)
    if o.h.exitEn ∧ !exitOk o.h.dx o.h.dy o.h.exit then
      doAll [recordErr .router p eARG o.h.low, modNet fun n => { n with combOut := n.combOut.erase o }] s
    else if !s.allowed p (16 + set) slow cone (s.get (fCombRate set) p) ∨ !s.roomIn p .l false false false cone ∨
        (if o.h.exitEn then s.ax ⟨.combCredit, p, set⟩ = 0 else !s.combRoom t o.h) then [] else
    match o.lines with
    | [] => modNet (fun n => { n with combOut := n.combOut.erase o }) s
    | l :: ls =>
      doAll [inject (flitAt p .l o.h false (o.lines.length = o.h.lines) (ls = []) l (s.get fEpoch 0) false
          (if o.h.exitEn then feedComb p set + 1 else 0)),
        modNet (fun n => { n with combOut := n.combOut.flatMap fun y => if y = o then (if ls = [] then [] else [{ y with lines := ls }]) else [y] }),
        whenE (fun _ => o.h.exitEn) (setAx ⟨.combCredit, p, set⟩ (s.ax ⟨.combCredit, p, set⟩ - 1)),
        useAllowance p (16 + set) slow cone] s

/-- The exit of D's remote requests: EO's route entry if it is in use, else the entry link of the store address's port:
edge tile and side (R227, DEDUCED, log entry 23). -/
def State.dmaExit (s : State) (t p a : Nat) : Option (Nat × Nat × Nat) :=
  if s.on (fRaValid 4) p ∧ s.on (fRaExitEn 4) p then some (s.get (fRaDx 4) p, s.get (fRaDy 4) p, s.get (fRaExit 4) p)
  else
    let port := min (a / slotSize) 47
    (s.geo.entryLink port (tileX t) (tileY t)).map fun i => ((edgeTile port i).1, (edgeTile port i).2, (edgeDir port).num)

/-- The lines of a remote request: the request line, and a write's data (Table 10-11). -/
def DReq.packet (r : DReq) : List (List Byte) :=
  (leBytes 8 r.addr ++ leBytes 8 (if r.write then (r.data.length - 1) * 2 ^ 32 else 0) ++ leBytes 48 0) ::
    (if r.write then linesOf (r.data.length + 1) r.data else [])

/-- The header of a remote request with RID i that leaves by an exit. -/
def State.dmaHdr (s : State) (t p : Nat) (j : DmaJob) (x : Nat × Nat × Nat) (r : DReq) (i : Nat) : Hdr := {
  cone := if j.ring = 0 then j.cone else 4, lines := r.packet.length, dx := x.1, dy := x.2.1, sx := tileX t, sy := tileY t
  sag := s.get fOwnSag p, exitEn := true, exit := x.2.2, kiln := s.get fOwnKiln p
  arg := (if r.write then 0 else 1 + (r.lines - 1) * 2 ^ 7) + i * 4 }

/-- The reservation D sends under: in EO's cone EO's own, allowance included; in another cone of the tile what its local port has
reserved there; ring 1 in the background share (R227, R265).  Sub-source and lines per frame.  DEDUCED, log entry 23. -/
def State.dmaShare (s : State) (p : Nat) (j : DmaJob) : Nat × Nat :=
  if j.ring = 1 then (15, 1)
  else if s.on (fRaValid 4) p ∧ s.on (fRaExitEn 4) p ∧ s.get (fRaCone 4) p = j.cone then (4, s.get (fRbRate 4) p)
  else (15, coneSum s.net.rsv p 9 j.cone)

/-- The lines of D's requests that the edge has not taken yet (R259).  DESIGN CHOICE, log entry 31. -/
def State.dmaAfloat (s : State) (t : Nat) : Nat :=
  (s.net.flits.filter fun f => f.h.typ = 0 && !f.ctrl && f.h.exitEn && f.feed = 0 && f.src = t).length +
  ((s.net.edge.filter fun e => e.h.typ = 0 && e.feed = 0 && e.src = t).map fun e => e.lines.length).sum

/-- A line of D's first remote request leaves: at its first line the request takes a RID that no other holds. -/
def acceptDma (t : Nat) : Eff := fun s =>
  let p := s.phys t
  match s.job p with
  | none => []
  | some j =>
    match j.reqs with
    | [] => []
    | r0 :: rs =>
      let done := s.ax ⟨.outLeft, p, 15⟩
      let reads := ((j.outst.filter fun x => !x.write).map fun x => x.lines).sum
      let rid := (List.range 32).find? fun i => j.outst.all fun x => x.rid ≠ i
      let cone := if j.ring = 0 then j.cone else 4
      let share := s.dmaShare p j
      let slow := s.slowEntry t 4
      match (if done = 0 then rid else some r0.rid), s.dmaExit t p r0.addr with
      | some i, some x =>
        if done = 0 ∧ !exitOk x.1 x.2.1 x.2.2 then
          doAll [recordErr .router p eARG (s.dmaHdr t p j x r0 i).low, dmaFail { j with reqs := rs } r0 eTIMEOUT] s
        else if !s.allowed p share.1 slow cone share.2 ∨ !s.roomIn p .l false false (j.ring = 1) cone ∨ 32 ≤ s.dmaAfloat t ∨ (done = 0 ∧ !r0.write ∧ 32 < reads + r0.lines) ∨
            (done = 0 ∧ r0.write ∧ j.outst ≠ []) then [] else
        let r := { r0 with rid := i }
        let ls := r.packet
        let h := s.dmaHdr t p j x r0 i
        let last := done + 1 = ls.length
        doAll [inject (flitAt p .l h false (done = 0) last (ls.getD done []) (s.get fEpoch 0) (j.ring = 1) 0),
          putJob (if last then { j with reqs := rs, outst := j.outst ++ [r] } else { j with reqs := r :: rs }),
          setAx ⟨.outLeft, p, 15⟩ (if last then 0 else done + 1), useAllowance p share.1 slow cone] s
      | _, _ => []

/-- LINE_ACCEPT: the next line of a source leaves onto its first link, if it has allowance and credit. -/
def effLineAccept (src : LineSrc) : Eff :=
  match src with
  | .route t e => if e < 5 then acceptRoute t e else if e = 5 then acceptCo t else skip
  | .stream p c e => acceptStream p c e
  | .comb t set => acceptComb t set
  | .dma t => acceptDma t

def execLineAccept (src : LineSrc) (s : State) : Host.Outcome State Fault Refusal := .next ((effLineAccept src).run s)

end Sys2Proof.Machine
end

