-- ==== Sys2Proof/Machine/Routes.lean ====
section
/-! DEFINITION. Reservations (R258–R265): what the route entries, combine sets and streams of a kiln use, the sums of
Table 09-6, and their bounds. -/

namespace Sys2Proof.Machine

/-! ## Register values of ROUTE and COMB (Tables 09-10, 09-11) -/

/-- A ROUTE_A value is out of range for entry r. -/
def routeABad (r : Nat) (v : W64) : Bool :=
  2 ≤ getBits v 0 4 || (getBits v 7 1 = 1 && (getBits v 4 3 = 0 || (r = 4 && getBits v 43 1 = 0))) ||
  192 ≤ getBits v 8 8 || 180 ≤ getBits v 16 8 || 192 ≤ getBits v 24 8 || 180 ≤ getBits v 32 8 ||
  6 ≤ getBits v 40 3 || (getBits v 43 1 = 1 && getBits v 40 3 ≠ 0) ||
  (getBits v 0 4 = 1 && getBits v 7 1 = 1 && (getBits v 24 8 < getBits v 8 8 || getBits v 32 8 < getBits v 16 8))

/-- A ROUTE_B value is out of range; `used` says that the entry is VALID. -/
def routeBBad (used : Bool) (v : W64) : Bool :=
  512 < getBits v 0 10 || 1024 < getBits v 32 11 || (used && (getBits v 0 10 = 0 || getBits v 32 11 < 2))

/-- A COMB value is out of range. -/
def combBad (v : W64) : Bool :=
  5 ≤ getBits v 5 3 || 512 < getBits v 18 10 ||
  (getBits v 17 1 = 1 && (getBits v 0 5 = 0 || getBits v 14 3 = 0 || getBits v 18 10 = 0))

/-- A QCFG value is out of range by itself (Table 04-12, R113). -/
def qcfgBad (v : W64) : Bool :=
  getBits v 0 6 ≠ 0 || getBits v 24 4 = 15 ||
  (getBits v 32 1 = 1 && spSize < getBits v 0 21 + 64 * 2 ^ getBits v 24 4)

/-- The lines of a ring, 0 where it is not enabled. -/
def qcfgLines (v : W64) : Nat := if getBits v 32 1 = 1 then 2 ^ getBits v 24 4 else 0

/-! ## The reservations of a kiln -/

/-- One stream or set that needs a reservation: its want (none: the route is broken), cone, rate, LIMIT, the tile it is
told under, the rings it feeds with CREDIT_INIT, and the edge link (port × 16 + link) it comes in by. -/
structure Need where
  t : Nat
  want : Option Want
  cone : Nat
  rate : Nat
  limit : Nat
  fed : List (Nat × Nat) := []
  credit : Nat := 0
  link : Option Nat := none
  deriving DecidableEq, Repr

/-- The route entries of a tile (R261); with `swap`, EO's inbound path too (R363). -/
def GeoMap.routeNeeds (g : GeoMap) (swap : Bool) (c : TileCfg) : List Need :=
  let x := c.t % 192
  let y := c.t / 192
  (c.routes.zipIdx.filter fun r => getBits r.1.1 7 1 = 1).flatMap fun r =>
    let a := r.1.1
    let b := r.1.2
    let dx := getBits a 8 8
    let dy := getBits a 16 8
    let ex := getBits a 44 2
    let n : Need := {
      t := c.t, cone := getBits a 4 3, rate := getBits b 0 10, limit := getBits b 48 16, want := g.entryWant c.t a }
    if getBits a 43 1 = 1 then
      n :: if swap && r.2 = 4 then
        [{ n with
            limit := 0
            want := (g.uniWant (5 + ex) dx dy x y).map fun w => { w with uses := w.uses ++ [(g.phys c.t, 4)], h := w.h + 1 }
            link := (edgeOf dx dy (dirOf ex)).map fun e => e.1 * 16 + e.2 }] else []
    else [{ n with
        credit := getBits b 32 11
        fed := (if getBits a 0 4 = 1 then rectTiles dx (getBits a 24 8) dy (getBits a 32 8) else [dy * 192 + dx]).map fun t => (t, getBits a 40 3) }]

/-- The combine sets of a tile. -/
def GeoMap.combNeeds (g : GeoMap) (cfg : Nat → Option TileCfg) (c : TileCfg) : List Need :=
  (c.combs.zipIdx.filter fun r => getBits r.1 17 1 = 1).map fun r =>
    { t := c.t, cone := getBits r.1 14 3, rate := getBits r.1 18 10, limit := getBits r.1 49 15, want := g.combWant cfg c r.2 }

/-- The kilns' reservations a need makes. -/
def Need.rsvs (k : Nat) (n : Need) : List Rsv :=
  ((n.want.map fun w => w.uses.map fun u => (⟨k, u.1, u.2, n.cone, n.rate⟩ : Rsv)).getD []) ++
  (match n.link with | some l => [⟨k, l, 12, n.cone, n.rate⟩] | none => [])

/-- The routers where a multicast branches: merge streams, kind 10. -/
def Need.merges (k : Nat) (n : Need) : List Rsv :=
  if n.fed.length ≤ 1 then [] else
  match n.want with
  | none => []
  | some w => ((w.uses.map fun u => u.1).dedup.filter fun p => 2 ≤ ((w.uses.filter fun u => u.1 = p && u.2 ≤ 4).dedup.length)).map
      fun p => ⟨k, p, 10, n.cone, n.rate⟩

/-- Lines per 512 cycles that reservations take of a port. DESIGN CHOICE, log entry 16. -/
def rsvSum (l : List Rsv) (p kind : Nat) : Nat :=
  ((l.filter fun r => r.p = p && r.kind = kind).map fun r => r.rate * 2 ^ (7 - r.cone)).sum

/-- A_c of every cone, doubled: the lines of an input buffer. -/
def bufSum (l : List Rsv) (p kind : Nat) : Nat := 2 * ((l.filter fun r => r.p = p && r.kind = kind).map fun r => r.rate).sum

/-- R258, R264: the bound of a need is within its LIMIT, in units of 10 ns (0: none). -/
def State.boundFits (s : State) (n : Need) : Bool :=
  match n.want with
  | none => true
  | some w => n.limit = 0 ||
      24 + (w.h + 2 * w.d) * (3 + 2 * 2 ^ (n.cone + 2)) * (if s.slowRoute w then 2 else 1) ≤ 24 * n.limit

/-- An error with INFO made from the tile a position carries; a position that carries none has no INFO of the spec's. -/
def State.rsvErr (s : State) (code p port : Nat) : WErr := ⟨code, (s.geo.carries p).map fun t => t * 8 + port⟩

/-- The lines of the ring a need feeds: the kiln's own record, or the registers of a tile outside it. -/
def State.fedLines (s : State) (cfg : Nat → Option TileCfg) (t q : Nat) : Nat :=
  match cfg t with
  | some c => qcfgLines (c.qcfg.getD q 0)
  | none => qcfgLines (s.rd .tile (s.phys t) (0x440 + 8 * q))

/-- Table 09-6 for the needs of a kiln. -/
def State.rsvCheck (s : State) (k : Nat) (cfg : Nat → Option TileCfg) (ns : List Need) : Option WErr :=
  let new := ns.flatMap (Need.rsvs k) ++ ns.flatMap (Need.merges k)
  let l := (s.net.rsv.filter fun r => r.kiln ≠ k) ++ new
  firstErr [
    ((new.find? fun r => r.kind ≤ 3 && 504 < rsvSum l r.p r.kind).map fun r => s.rsvErr eFULL r.p r.kind),
    ((new.find? fun r => r.kind = 12 && 504 < rsvSum l r.p r.kind).map fun r => ⟨eFULL, some (r.p / 16)⟩),
    ((new.find? fun r => r.kind = 4 && 252 < rsvSum l r.p r.kind).map fun r => s.rsvErr eFULL r.p 4),
    ((new.find? fun r => 5 ≤ r.kind && r.kind ≤ 9 && 128 < bufSum l r.p r.kind).map fun r => s.rsvErr eFULL r.p (r.kind - 5)),
    ((new.find? fun r => r.kind = 10 && 16 < (l.filter fun x => x.p = r.p && x.kind = 10).length).map fun r => s.rsvErr eFULL r.p 5),
    (ns.findSome? fun n => (n.fed.find? fun f => s.fedLines cfg f.1 f.2 < 32 || n.credit * 16 ≠ s.fedLines cfg f.1 f.2).map
      fun f => ⟨eARG, some f.1⟩),
    ((ns.find? fun n => n.want = none).map fun n => ⟨eFENCED, some n.t⟩),
    ((ns.find? fun n => !s.boundFits n).map fun n => ⟨eARG, some (n.t * 8 + 7)⟩)]

/-! ## Streams (R282, R284) -/

/-- The need of a STREAM entry of port p. -/
def State.streamNeed (s : State) (p : Nat) (t : Strm) : Need :=
  let e := edgeTile p t.link
  { t := e.2 * 192 + e.1, cone := t.cone, rate := t.rate, limit := t.limit, credit := t.creditInit, link := some (p * 16 + t.link)
    want := (t.want s.geo).map fun w => { w with h := w.h + 1 }
    fed := (rectTiles t.dx t.x2 t.dy t.y2).map fun d => (d, 4 + t.q) }

/-- The entries of a context's list. -/
def State.listOf (s : State) (p c a n : Nat) : List Strm := (List.range n).map fun i => s.listEntry p c a i

/-- The reserved read rate of a stream in MB/s (R284). -/
def Strm.mbps (t : Strm) : Nat := t.rate * 64 * 2400 / 2 ^ (t.cone + 2)

/-- The GATHER entry before entry i of a list that fills its window. -/
def gatherOf (l : List Strm) (t : Strm) : Option Strm :=
  (l.filter fun g => g.op = 1 && g.win = t.win && g.entry < t.entry).getLast?

/-- The segments of a window that a stream touches. -/
def State.touches (s : State) (l : List Strm) (t : Strm) : List Seg :=
  match gatherOf l t with
  | none => []
  | some g => ((List.range g.nsegs).map fun i => s.segEntry t.port t.win g.addr i).filter fun x =>
      x.woff * 64 < t.addr + t.len && t.addr < x.woff * 64 + x.len

/-- The stacks a stream reads. -/
def State.stacksOf (s : State) (l : List Strm) (t : Strm) : List Nat :=
  match t.src with
  | 0 => [t.addr / slotSize]
  | 1 => [t.port]
  | _ => ((s.touches l t).map fun x => if x.path = 2 then x.stack else t.port).dedup

/-- The budget of a list's streams for kiln k: one item for each stack read; the first carries the transpose. -/
def State.buds (s : State) (k : Nat) (l : List Strm) : List Bud :=
  (l.filter fun t => t.op = 0).flatMap fun t => (s.stacksOf l t).zipIdx.map fun x => ⟨k, x.1, t.port, t.mbps, t.tr && x.2 = 0⟩

/-- R284's two checks of a port's stack. -/
def State.budCheck (s : State) (k : Nat) (new : List Bud) : Option WErr :=
  let l := (s.sl.bud.filter fun b => b.kiln ≠ k) ++ new
  firstErr [
    ((new.find? fun b => 1000 * s.get fReadMax b.stack < ((l.filter fun x => x.stack = b.stack).map fun x => x.mbps).sum).map
      fun b => ⟨eFULL, some b.stack⟩),
    ((new.find? fun b => b.tr && 1024000 < ((l.filter fun x => x.port = b.port && x.tr).map fun x => x.mbps).sum).map
      fun b => ⟨eFULL, some b.port⟩)]

/-! ## Loaded kilns whose bounds no longer fit (R264, R404) -/

/-- The needs of a loaded kiln, from its registers and lists. -/
def State.kilnNeeds (s : State) (k : Nat) : List Need :=
  ((s.kilnTiles k).flatMap fun t => s.geo.routeNeeds false (s.regCfg t) ++ s.geo.combNeeds (s.kilnCfg k) (s.regCfg t)) ++
  ((s.kilnCtx k).flatMap fun c => ((s.listOf c.1 c.2 (s.get (fCtxList c.2) c.1) (s.get (fCtxLen c.2) c.1)).filter fun t => t.op = 0).map
    (s.streamNeed c.1))

/-- Every bound of a loaded kiln is within its LIMIT, and no route is broken. -/
def State.kilnFits (s : State) (k : Nat) : Bool := (s.kilnNeeds k).all fun n => n.want ≠ none && s.boundFits n

end Sys2Proof.Machine
end

