-- ==== Sys2Proof/Machine/Fabric.lean ====
section
/-! DEFINITION. Fabric ports and board links (chapter 14): link states and training, HELLO, frames, acknowledgement and
credit, heartbeats, and what the messages of a step, a gather and a mirror do. -/

namespace Sys2Proof.Machine

/-! ## Small parts -/

/-- RESET_N released, no trip, not wedged: the ports act on frames (R420, R457; DEDUCED, log entry 29). -/
def State.fabLive (s : State) : Bool := !s.held && !s.tripped && !s.wedged

/-- Lanes of a port (Table 14-1). -/
def lanesOf (port : Nat) : Nat := if port < 16 then 8 else 16

/-- The heartbeat number last sent. -/
def State.hb (s : State) : Nat := s.ax ⟨.hbSeq, 0, 0⟩

/-- A peer with its classes new and nothing waiting (Table 14-7). -/
def Peer.fresh (x : Peer) (st hb : Nat) : Peer :=
  { x with st := st, hbBase := hb, missed := 0, c0 := {}, c1 := {}, c2 := {}, c3 := {}, frames := [] }

/-- n numbers from a to b, modulo 2^32. -/
def sub32 (b a : Nat) : Nat := (b + 2 ^ 32 - a) % 2 ^ 32

/-- Frames of a message. -/
def msgFrames (m : InMsg) : Nat := max 1 (cdiv m.data.length 4096)

/-- A message is a RECORD for the step after its job's present one (R326). -/
def State.isNext (s : State) (m : InMsg) : Bool :=
  m.typ = 0x10 && ofBytes ((m.data.drop 4).take 4) = s.ax ⟨.stepNo, ofBytes (m.data.take 1), 0⟩ + 1

/-- The RECORDs a port holds for a next step, decided or not (R379). -/
def State.heldMsgs (s : State) (port : Nat) : List InMsg :=
  (s.fb.held.filter fun m => m.port = port) ++ (s.fb.inbox.filter fun m => m.port = port && s.isNext m)

/-- HOLD of a port (Table 14-11). -/
def State.holdFrames (s : State) (port : Nat) : Nat := ((s.heldMsgs port).map msgFrames).sum

/-- The first message of a type at a port. -/
def State.msgAt (s : State) (port typ : Nat) : Option InMsg := s.fb.inbox.find? fun m => m.port = port && m.typ = typ

/-- A message taken from the inbox. -/
def takeMsg (m : InMsg) : Eff := modFb fun b => { b with inbox := b.inbox.erase m }

/-- A little-endian number in a message. -/
def InMsg.num (m : InMsg) (at' n : Nat) : Nat := ofBytes ((m.data.drop at').take n)

/-! ## Acknowledgement (R378, R379) -/

/-- The next SEQ a class acknowledges: class 3 only what its store accepted (R377). -/
def State.nextSeq (s : State) (x : Peer) (cls : Nat) : Nat :=
  if cls = 3 then sub32 (x.chan 3).rNext (s.fb.inbox.filter fun m => m.port = x.port && m.cls = 3).length
  else (x.chan cls).rNext

/-- CREDIT of a class for a peer. -/
def State.credit (s : State) (x : Peer) (cls : Nat) : Nat :=
  s.win4 x.port cls - (if cls = 1 then (((s.heldMsgs x.port).filter fun m => m.src = x.module_).map msgFrames).sum else 0)

/-- An ACK or a NAK of a class (Table 14-5). -/
def sendAck (port m : Nat) (al : Bool) (typ cls : Nat) : Eff := fun s =>
  match s.peer port m al with
  | none => []
  | some x => sendOn port m al typ (leBytes 1 cls ++ leBytes 3 0 ++ leBytes 4 (s.nextSeq x cls) ++
      leBytes 2 (s.credit x cls) ++ leBytes 6 0) s

/-- R378: a NAK, at most one per ACK_TMO / 4 for a class of a peer. DEDUCED, log entry 93. -/
def sendNak (port m : Nat) (al : Bool) (cls : Nat) : Eff := fun s =>
  let k : Aux := ⟨.nakAt, 4096 * port + m, 2 * cls + (if al then 1 else 0)⟩
  if s.ax k ≠ 0 ∧ s.wcount + 1 < s.ax k + 600 * s.lk port 0x110 0 6 then [] else
  doAll [setAx k (s.wcount + 1), addLk port 0x160 32 32 1, sendAck port m al 3 cls] s

/-- The frames of a class that NEXT acknowledges leave; the credit is the message's. -/
def ackTake (port m : Nat) (al : Bool) (cls next credit : Nat) : Eff := fun s =>
  match s.peer port m al with
  | none => []
  | some x =>
    let c := x.chan cls
    let d := sub32 next c.sBase
    if x.st = 2 ∨ sub32 c.sNext c.sBase < d then [] else
    doAll [modPeer port m al fun y =>
      let z := y.setChan cls { c with sBase := next, sLimit := some credit, retries := if d = 0 then c.retries else 0 }
      { z with frames := z.frames.filter fun f => f.cls ≠ cls || d ≤ sub32 f.fr.seq c.sBase },
      pump port m al, whenE (fun _ => port = 16 && cls = 3) mirrorAdvance] s

/-- Every frame of a class already sent and not acknowledged is sent again; a paused priority sends nothing (R387). -/
def resend (port m : Nat) (al : Bool) (cls : Nat) : Eff := fun s =>
  match s.peer port m al with
  | none => []
  | some x =>
    if x.st ≠ 1 ∨ !s.lkUp port ∨ s.isPaused port cls then [] else
    forEach (x.frames.filter fun f => f.cls = cls && f.sent) (fun f =>
      doAll [sendFrame port f.fr, addLk port 0x160 0 32 1]) s

/-! ## A peer goes DOWN (Tables 14-7, 14-9) -/

/-- Buckets go FAILED with a code, and their steps abort. -/
def bktsFail (bs : List Bkt) (code : Nat) : Eff :=
  doAll [forEach bs (fun b =>
      let b' := { b with state := 5, code := code, vals := [], sum := [] }
      doAll [putBkt b', bktStatus b', whenE (fun _ => b.state = 3) (lastDone b')]),
    forEach bs fun b => stepAbortAt b.job code b.chan none]

/-- The buckets a lost peer leaves without a record: sent to it and not acknowledged, or awaited from it. -/
def State.lostBkts (s : State) (x : Peer) : List Bkt :=
  s.pg.buckets.filter fun b => s.ax ⟨.voted, b.job, 0⟩ ≠ 1 && 2 ≤ b.state && b.state ≤ 4 &&
    ((x.frames.any fun f => f.cls = 1 && f.fr.typ = 0x10 && f.ref % 256 = b.job && f.ref / 65536 = b.id) ||
     (b.state = 2 && (s.stageMembers b b.stage).any fun m =>
       m.path ≠ 2 && m.module_ = x.module_ && planPort m.path m.port = x.port && !b.from_.contains m.module_))

/-- R390: a peer goes DOWN with a code. -/
def peerDown (port m : Nat) (al : Bool) (code : Nat) : Eff := fun s =>
  match s.peer port m al with
  | none => []
  | some x =>
    if x.st = 2 then [] else
    let bs := if al then [] else s.lostBkts x
    let gs := if al then [] else s.sl.segs.filter fun g => g.st = 1 && g.module_ = m && planPort g.path g.link = port
    doAll [modPeer port m al (fun y => y.fresh 2 y.hbBase), addLk port 0x160 0 32 x.frames.length,
      whenE (fun _ => x.st = 1) (doAll [errLk port code m, evtLk port 3]),
      modFb (fun b => { b with
        held := b.held.filter fun q => !(q.port = port && q.src = m)
        inbox := b.inbox.filter fun q => !(q.port = port && q.src = m && s.isNext q)
        serves := b.serves.filter fun v => !(v.port = port && v.src = m && v.alias_ = al) }),
      modSl (fun l => { l with
        segs := l.segs.map fun g => if gs.contains g then { g with st := 3 } else g
        drain := l.drain.filter fun d => al || d.module_ ≠ m || d.link ≠ some port }),
      bktsFail bs code,
      forEach gs (fun g => whenE (fun s => s.get (fWinState g.w) g.port = 1) (winFail g.port g.w g.seg code)),
      whenE (fun _ => !al) (forEach ports48 segRetry),
      whenE (fun _ => port = 16 && x.st = 1) (doAll [mirrorLost ((x.frames.filter fun f => f.fr.typ = 0x30).map fun f => f.ref % 256), finishAll .crack 0 0x11 eOK 0,
        whenE (fun s => s.get fPartnerState 0 = 2) (doAll [setF fPartnerState 0 3, setEvt .crack 0 5])])] s

/-- Every peer of a port goes DOWN, and UP is left for a state (R390). -/
def leaveUp (port st : Nat) : Eff := fun s =>
  doAll [setLk port 0x018 0 64 st, addLk port 0x108 0 16 1, evtLk port 1,
    forEach (s.fb.peers.filter fun x => x.port = port) fun x => peerDown port x.module_ x.alias_ eLINK_DOWN] s

/-- A port leaves UP if it is UP, and takes a state. -/
def dropTo (port st : Nat) : Eff := fun s => if s.lkUp port then leaveUp port st s else setLk port 0x018 0 64 st s

/-- RETRAIN commands of a port complete. -/
def retrainEnd (port code : Nat) (res : W64) : Eff := finishAll (lkBlk port) (lkInst port) 0x10 code res

/-! ## Link states (Table 14-8, R389) -/

/-- A link that starts again has no paused priority, and no datagram waits there. DEDUCED, log entry 85. -/
def unpause (port : Nat) : Eff :=
  doAll [forEach (List.range 8) (fun p => whenE (fun s => s.ax ⟨.paused, port, p⟩ ≠ 0) (setAx ⟨.paused, port, p⟩ 0)),
    whenE (fun s => s.fb.dgrams ≠ []) (modFb fun b => { b with dgrams := b.dgrams.filter fun x => x.1 ≠ port })]

/-- TRAINING begins: no HELLO has come. -/
def trainStart (port : Nat) : Eff :=
  doAll [setLk port 0x018 0 64 1, setAx ⟨.helloSeen, port, 0⟩ 0, unpause port]

/-- CTRL is written: a rise of ENABLE starts training, a fall takes the link OFF. DEDUCED, log entry 85. -/
def ctrlEnable (port : Nat) (v : W64) : Eff := fun s =>
  let was := s.lkEnabled port
  let now := getBits v 2 1 = 1
  doAll [setReg (lkBlk port) (lkInst port) 0x010 (v &&& 7#64),
    whenE (fun s => !was && now && s.lkState port = 0) (trainStart port),
    whenE (fun _ => was && !now) (doAll [dropTo port 0, retrainEnd port eLINK_DOWN 0])] s

/-- A CTRL write of a port; with POS_VALID = 0 no board link's ENABLE can be set (R494). -/
def effLinkCtrl (src : Src) (port : Nat) (v : W64) : Eff :=
  regWrite src (lkBlk port) (lkInst port) 0x010 8
    (fun _ s => errIf (16 ≤ port && getBits v 2 1 = 1 && !s.lkEnabled port && !s.on ⟨.blink, 0x180, 14, 1⟩ 0) eSTATE)
    fun _ => ctrlEnable port v

def execLinkEnable (src : Src) (port : Nat) (v : W64) (s : State) : Host.Outcome State Fault Refusal :=
  .next ((inTurn src (.linkEnable src port v) (effLinkCtrl src port v)).run s)

def execLinkDisable (src : Src) (port : Nat) (v : W64) (s : State) : Host.Outcome State Fault Refusal :=
  .next ((inTurn src (.linkDisable src port v) (effLinkCtrl src port v)).run s)

/-- RETRAIN (R389). -/
def retrainSpec (port : Nat) (args : List W64) : CmdSpec where
  argBad _ := !argsZeroFrom args 0
  blocked s := if s.lkState port = 0 ∨ s.lkState port = 1 then some eSTATE else none
  run _ := doAll [whenE (fun s => s.lkUp port) (leaveUp port 3), trainStart port]

/-- RETRAIN of a FAB or BLINK instance; another block has no such command. -/
def effRetrain (c : CmdCtx) (blk : Blk) (inst : Nat) (args : List W64) : Eff :=
  if blk = .fab then admitCmd c .fab inst 0x10 args (retrainSpec inst args)
  else if blk = .blink then admitCmd c .blink inst 0x10 args (retrainSpec (16 + inst) args)
  else skip

def execRetrain (c : CmdCtx) (blk : Blk) (inst : Nat) (args : List W64) (s : State) : Host.Outcome State Fault Refusal :=
  .next ((effRetrain c blk inst args).run s)

/-- A link comes UP: its peers go SYNC, a board link's fixed peer is the module of its HELLO. -/
def linkGoUp (port : Nat) : Eff := fun s =>
  let lanes := s.lk port 0x100 0 5
  doAll [setLk port 0x018 0 64 2, evtLk port 0, whenE (fun _ => lanes < lanesOf port) (evtLk port 2),
    if port < 16 then modFb (fun b => { b with peers := b.peers.map fun x => if x.port = port then x.fresh 0 s.hb else x })
    else modFb (fun b => { b with peers := b.peers.filter (fun x => x.port ≠ port) ++ [
      { port := port, module_ := s.ax ⟨.helloSeen, port, 1⟩ - 1, pos := s.ax ⟨.helloSeen, port, 2⟩, hbBase := s.hb }] }),
    retrainEnd port eOK (BitVec.ofNat 64 lanes)] s

/-- A board link's HELLO does not match (R388). -/
def linkMiswired (port : Nat) : Eff := fun s =>
  doAll [setLk port 0x018 0 64 4, evtLk port 5, errLk port eARG (s.ax ⟨.helloSeen, port, 1⟩ - 1), retrainEnd port eARG 0] s

/-- A HELLO leaves after lock (R388); the module it goes to is known only once the other end's HELLO has come, and the
spec states no DST before that. -/
def sendHello (port : Nat) : Eff := fun s =>
  let data := leBytes 2 s.self ++ leBytes 1 (s.get fBoardPos 0) ++ leBytes 1 (port - 16) ++ leBytes 1 s.grade ++ leBytes 11 0
  if s.ax ⟨.helloSeen, port, 1⟩ ≠ 0 then sendOn port (s.ax ⟨.helloSeen, port, 1⟩ - 1) false 4 data s
  else drawFree (fun w => sendOn port (getBits w 0 12) false 4 data) s

/-- Lanes in use of a port whose lanes trained as a mask: all, the lower half, the upper half, or none (R370). -/
def lanesUsed (port laneOk : Nat) : Option (Nat × Nat) :=
  let n := lanesOf port
  let h := n / 2
  let lo := laneOk % 2 ^ h = 2 ^ h - 1
  let up := laneOk / 2 ^ h % 2 ^ h = 2 ^ h - 1
  if lo ∧ up then some (n, 2 ^ n - 1) else if lo then some (h, 2 ^ h - 1)
  else if up then some (h, (2 ^ h - 1) * 2 ^ h) else none

/-- LINK_TRAIN_DONE: enough lanes have trained; a board link also waits for its HELLO. -/
def effLinkTrainDone (port laneOk ms : Nat) (reversed : Bool) : Eff := fun s =>
  if 19 ≤ port ∨ s.held ∨ s.lkState port ≠ 1 ∨ s.ax ⟨.helloSeen, port, 0⟩ = 3 then [] else
  match lanesUsed port laneOk with
  | none => []
  | some u =>
    doAll [setReg (lkBlk port) (lkInst port) 0x100 (BitVec.ofNat 64
        (u.1 + (if 16 ≤ port ∧ reversed then 2 ^ 5 else 0) + u.2 * 2 ^ 16 + ms % 65536 * 2 ^ 32)),
      if port < 16 then linkGoUp port
      else doAll [sendHello port,
        match s.ax ⟨.helloSeen, port, 0⟩ with
        | 1 => linkGoUp port
        | 2 => linkMiswired port
        | _ => setAx ⟨.helloSeen, port, 0⟩ 3]] s

def execLinkTrainDone (port laneOk ms : Nat) (reversed : Bool) (s : State) : Host.Outcome State Fault Refusal :=
  .next ((effLinkTrainDone port laneOk ms reversed).run s)

/-- LINK_TRAIN_TIMEOUT. -/
def effLinkTrainTimeout (port : Nat) : Eff := fun s =>
  if 19 ≤ port ∨ s.lkState port ≠ 1 then [] else
  doAll [setLk port 0x018 0 64 3, recordErrFree (lkBlk port) (lkInst port) eTIMEOUT, retrainEnd port eLINK_DOWN 0] s

def execLinkTrainTimeout (port : Nat) (s : State) : Host.Outcome State Fault Refusal := .next ((effLinkTrainTimeout port).run s)

/-- LINK_LOSS (R370). -/
def effLinkLoss (port : Nat) : Eff := fun s => if 19 ≤ port ∨ !s.lkUp port then [] else leaveUp port 3 s

def execLinkLoss (port : Nat) (s : State) : Host.Outcome State Fault Refusal := .next ((effLinkLoss port).run s)

/-- LINK_AUTO_RETRAIN. -/
def effLinkAutoRetrain (port : Nat) : Eff := fun s =>
  if 19 ≤ port ∨ s.lkState port ≠ 3 ∨ s.lk port 0x010 1 1 = 0 then [] else trainStart port s

def execLinkAutoRetrain (port : Nat) (s : State) : Host.Outcome State Fault Refusal := .next ((effLinkAutoRetrain port).run s)

/-- HELLO received in TRAINING (R388): it decides the link once the lanes are locked. -/
def effHello (port moduleId pos link : Nat) : Eff := fun s =>
  if port < 16 ∨ 19 ≤ port ∨ s.lkState port ≠ 1 then [] else
  let good := link = port - 16 ∧ pos = Nat.xor (s.get fBoardPos 0) (port - 15) ∧ moduleId ≠ s.self
  let locked := s.ax ⟨.helloSeen, port, 0⟩ = 3
  doAll [setAx ⟨.helloSeen, port, 1⟩ (moduleId + 1), setAx ⟨.helloSeen, port, 2⟩ pos,
    setAx ⟨.helloSeen, port, 0⟩ (if good then 1 else 2),
    whenE (fun _ => locked) (if good then linkGoUp port else linkMiswired port)] s

def execHello (port moduleId pos link _grade : Nat) (s : State) : Host.Outcome State Fault Refusal :=
  .next ((effHello port moduleId pos link).run s)

/-! ## Frames (R371–R374, R378) -/

/-- Class and SEQD of a type on a port; none where the type is reserved or not allowed there (Table 14-4, R388). -/
def typeInfo (port typ : Nat) : Option (Nat × Bool) :=
  if typ = 1 ∨ typ = 2 ∨ typ = 3 then some (0, false)
  else if typ = 4 then (if 16 ≤ port then some (0, false) else none)
  else if typ = 0x10 then some (1, true)
  else if 0x11 ≤ typ ∧ typ ≤ 0x14 then some (0, false)
  else if typ = 0x20 ∨ typ = 0x21 then some (2, true)
  else if typ = 0x30 ∨ typ = 0x31 then (if port = 16 then some (3, true) else none)
  else if 0x40 ≤ typ ∧ typ ≤ 0x43 then (if port = 16 then some (0, true) else none)
  else none

/-- A frame is for this module's alias (R416). -/
def State.forAlias (s : State) (port : Nat) (fr : Frame) : Bool :=
  port < 16 && s.on fAliasEn 0 && fr.dst = s.get fAlias 0 && fr.dst ≠ s.self && fr.da = s.mac port (s.get fAlias 0)

/-- A frame fails the header checks of R373. -/
def State.headerBad (s : State) (port : Nat) (fr : Frame) : Bool :=
  fr.etype ≠ s.get fEtype 0 || fr.ver ≠ 1 || fr.rsvd ≠ 0 || (fr.dst ≠ s.self && !s.forAlias port fr) ||
  typeInfo port fr.typ ≠ some (fr.cls, fr.seqd) || 4096 < fr.payload.length ||
  (s.forAlias port fr && !(fr.typ ≤ 3 || fr.typ = 0x20 || fr.typ = 0x21))

/-- A message that carries a job whose JOB_OWNER is not VALID (R428). -/
def State.jobBarred (s : State) (typ : Nat) (data : List Byte) : Bool :=
  0x10 ≤ typ && typ ≤ 0x14 && !(s.jobOwner (ofBytes (data.take 1)) (some (s.get fEpoch 0))).1

/-- A message accepted: it waits for the command that takes it, or a barred one is discarded and denied. -/
def putMsg (m : InMsg) : Eff := fun s =>
  if s.jobBarred m.typ m.data then
    doAll [addLk m.port 0x158 32 16 1,
      deny 7 0 (s.jobOwner (ofBytes (m.data.take 1)) (some (s.get fEpoch 0))).2 false (ofBytes (m.data.take 1))] s
  else if m.typ = 4 then []
  else modFb (fun b => { b with inbox := b.inbox ++ [m] }) s

/-- A held record would overflow the hold buffer of 512 frames (R379). -/
def State.holdFull (s : State) (port : Nat) (c : Chan) (fr : Frame) : Bool :=
  let data := c.asm ++ fr.payload
  fr.typ = 0x10 && s.isNext ⟨port, fr.src, false, 1, 0x10, data⟩ && 512 < s.holdFrames port + cdiv data.length 4096

/-- A RECORD of a step aborted while its frames came in is discarded (R328, R326). -/
def staleRecord (data : List Byte) : Eff := fun s =>
  let r := Rec.parse data
  staleDrop ((s.bkt r.job r.bucket).elim (s.jobPug r.job) fun b => b.chan) s

/-- A sequenced frame of a peer (R378). -/
def seqFrame (port : Nat) (al : Bool) (fr : Frame) : Eff := fun s =>
  match s.peer port fr.src al with
  | none => []
  | some x =>
    let c := x.chan fr.cls
    if x.st ≠ 1 then []
    else if fr.seq = c.rNext ∧ !s.holdFull port c fr then
      let data := c.asm ++ fr.payload
      doAll [whenE (fun s => s.lkStat port) (addLk port 0x150 0 48 1),
        modPeer port fr.src al (fun y => y.setChan fr.cls
          { c with rNext := (c.rNext + 1) % 2 ^ 32, asm := if fr.last then [] else data, stale := c.stale && !fr.last }),
        whenE (fun _ => fr.last) (if c.stale then staleRecord data else putMsg ⟨port, fr.src, al, fr.cls, fr.typ, data⟩),
        whenE (fun _ => fr.cls ≠ 3) (sendAck port fr.src al 2 fr.cls)] s
    else if fr.seq ≠ c.rNext ∧ 2 ^ 31 ≤ sub32 fr.seq c.rNext then
      doAll [addLk port 0x158 48 16 1, sendAck port fr.src al 2 fr.cls] s
    else sendNak port fr.src al fr.cls s

/-- FRAME_RECEIVE. DEDUCED, log entry 92. -/
def effFrameReceive (port : Nat) (fr : Frame) : Eff := fun s =>
  if 19 ≤ port ∨ !s.fabLive ∨ !s.lkUp port then []
  else if !fr.fcsOk then addLk port 0x158 0 16 1 s
  else if s.headerBad port fr then addLk port 0x158 32 16 1 s
  else if !fr.e2eOk then addLk port 0x158 16 16 1 s
  else if fr.seqd then seqFrame port (s.forAlias port fr) fr s
  else doAll [whenE (fun s => s.lkStat port && !s.jobBarred fr.typ fr.payload) (addLk port 0x150 0 48 1),
    putMsg ⟨port, fr.src, s.forAlias port fr, fr.cls, fr.typ, fr.payload⟩] s

def execFrameReceive (port : Nat) (fr : Frame) (s : State) : Host.Outcome State Fault Refusal :=
  .next ((effFrameReceive port fr).run s)

/-- A command that takes the first message of a type at a port. -/
def withMsg (port typ : Nat) (f : InMsg → Eff) : Eff := fun s =>
  if !s.fabLive then [] else
  match s.msgAt port typ with
  | none => []
  | some m => doAll [takeMsg m, f m] s

/-- ACK. -/
def effAck (port : Nat) : Eff := withMsg port 2 fun m => ackTake port m.src m.alias_ (m.num 0 1) (m.num 4 4) (m.num 8 2)

def execAck (port : Nat) (s : State) : Host.Outcome State Fault Refusal := .next ((effAck port).run s)

/-- NAK: the sender resends from NEXT at once. -/
def effNak (port : Nat) : Eff := withMsg port 3 fun m =>
  doAll [ackTake port m.src m.alias_ (m.num 0 1) (m.num 4 4) (m.num 8 2), resend port m.src m.alias_ (m.num 0 1)]

def execNak (port : Nat) (s : State) : Host.Outcome State Fault Refusal := .next ((effNak port).run s)

/-- ACK_TMO passes for a peer's class. -/
def ackLate (port m : Nat) (al : Bool) (cls : Nat) : Eff := fun s =>
  match s.peer port m al with
  | none => []
  | some x =>
    let c := x.chan cls
    if x.st ≠ 1 ∨ !(x.frames.any fun f => f.cls = cls && f.sent) then []
    else if s.lk port 0x110 8 4 ≤ c.retries + 1 then peerDown port m al eLINK_DOWN s
    else doAll [modPeer port m al (fun y => y.setChan cls { c with retries := c.retries + 1 }), resend port m al cls] s

/-- ACK_TIMEOUT (R378). -/
def effAckTimeout (port peer cls : Nat) : Eff :=
  whenE (fun s => s.fabLive) (doAll [ackLate port peer false cls, ackLate port peer true cls])

def execAckTimeout (port peer cls : Nat) (s : State) : Host.Outcome State Fault Refusal :=
  .next ((effAckTimeout port peer cls).run s)

/-! ## Heartbeats (R382, R383) -/

/-- The payload of a heartbeat to a peer (Table 14-5). -/
def State.hbBytes (s : State) (x : Peer) : List Byte :=
  leBytes 1 (if s.ax ⟨.resetting, 0, 0⟩ ≠ 0 then 2 else if s.wedged then 1 else 0) ++ leBytes 1 (s.get fPmode 0) ++
  leBytes 1 x.st ++ leBytes 1 0 ++ leBytes 4 s.hb ++ leBytes 4 x.lastHb ++ leBytes 4 0

/-- HEARTBEAT_TICK: a heartbeat to every peer on an UP port; an UP peer unheard at three ticks in a row is DOWN. -/
def effHeartbeatTick : Eff := fun s =>
  if s.held ∨ s.tripped then [] else
  doAll [setAx ⟨.hbSeq, 0, 0⟩ (nextSeq32 s.hb),
    forEach (s.fb.peers.filter fun x => s.lkUp x.port) (fun x => fun t => sendOn x.port x.module_ x.alias_ 1 (t.hbBytes x) t),
    whenE (fun s => !s.wedged) (forEach (s.fb.peers.filter fun x => x.st = 1) fun x =>
      if x.seen then modPeer x.port x.module_ x.alias_ fun y => { y with seen := false, missed := 0 }
      else if x.missed < 2 then modPeer x.port x.module_ x.alias_ fun y => { y with missed := y.missed + 1 }
      else peerDown x.port x.module_ x.alias_ eLINK_DOWN)] s

def execHeartbeatTick (s : State) : Host.Outcome State Fault Refusal := .next (effHeartbeatTick.run s)

/-- A peer goes UP: the first ACK of each class leaves, and what waits may go. -/
def peerGoUp (port m : Nat) (al : Bool) : Eff :=
  doAll [modPeer port m al (fun y => { y with st := 1, missed := 0, seen := true }),
    forEach [0, 1, 2, 3] (fun c => sendAck port m al 2 c), evtLk port 4, pump port m al,
    whenE (fun s => port = 16 && s.get fPartnerState 0 = 3 &&
        (s.boardPeer 16).any fun x => x.pmode = s.get fPmode 0)
      (doAll [setF fPartnerState 0 2, setEvt .crack 0 6])]

/-- A heartbeat reaches a peer's entry (Table 14-7). -/
def heartbeatAt (port m : Nat) (al : Bool) (status pmode estate seq echo : Nat) : Eff := fun s =>
  match s.peer port m al with
  | none => []
  | some x =>
    if !s.lkUp port then [] else
    let note := modPeer port m al fun y => { y with seen := true, lastHb := seq, pmode := pmode, wedged := status = 1 }
    doAll [note,
      if x.st = 0 then
        (if echo ≠ 0 ∧ 1 ≤ sub32 echo x.hbBase ∧ sub32 echo x.hbBase ≤ sub32 s.hb x.hbBase then peerGoUp port m al else skip)
      else if x.st = 1 then
        (if status = 1 then peerDown port m al eWEDGED else if estate ≠ 1 then peerDown port m al eLINK_DOWN else skip)
      else if status ≠ 1 then doAll [modPeer port m al (fun y => y.fresh 0 s.hb),
        modFb (fun b => { b with held := b.held.filter fun q => !(q.port = port && q.src = m) })]
      else skip] s

/-- HEARTBEAT: a heartbeat for the alias from a module not yet listed opens an entry for it (R416). -/
def effHeartbeat (port : Nat) : Eff := withMsg port 1 fun m => fun s =>
  doAll [whenE (fun s => m.alias_ && (s.peer port m.src true).isNone)
      (modFb fun b => { b with peers := b.peers ++ [{ port := port, module_ := m.src, alias_ := true, hbBase := s.hb }] }),
    heartbeatAt port m.src m.alias_ (m.num 0 1) (m.num 1 1) (m.num 2 1) (m.num 4 4) (m.num 8 4)] s

def execHeartbeat (port : Nat) (s : State) : Host.Outcome State Fault Refusal := .next ((effHeartbeat port).run s)

/-- PAUSE_FRAME (R387): a resumed priority sends what waits. -/
def effPauseFrame (port prio : Nat) (pause : Bool) : Eff := fun s =>
  if 19 ≤ port ∨ 8 ≤ prio ∨ !s.lkUp port then [] else
  doAll [addLk port 0x168 0 32 1, setAx ⟨.paused, port, prio⟩ (if pause then 1 else 0),
    whenE (fun _ => !pause) (doAll [whenE (fun s => !s.isPaused port 0) (pumpDgrams port),
      forEach (s.fb.peers.filter fun x => x.port = port) fun x => pump port x.module_ x.alias_])] s

def execPauseFrame (port prio : Nat) (pause : Bool) (s : State) : Host.Outcome State Fault Refusal :=
  .next ((effPauseFrame port prio pause).run s)

/-! ## The messages of a step (R326, R327, R340, R375, R386) -/

/-- RECORD: the first record at a port whose turn has come; one for the next step is held (R326). -/
def effRecord (port : Nat) : Eff := fun s =>
  if !s.fabLive then [] else
  match s.fb.inbox.find? fun m => m.port = port && m.typ = 0x10 && s.recordWhen (Rec.parse m.data) ≠ 1 with
  | none => []
  | some m =>
    let r := Rec.parse m.data
    if s.isNext m then
      doAll [takeMsg m, modFb (fun b => { b with held := b.held ++ [m] }),
        addSat fPugHeld ((s.bkt r.job r.bucket).elim (s.jobPug r.job) fun b => b.chan) 1] s
    else doAll [takeMsg m, takeRecord r] s

def execRecord (port : Nat) (s : State) : Host.Outcome State Fault Refusal := .next ((effRecord port).run s)

/-- The step of a job that is open, if any. -/
def State.openStep (s : State) (j : Nat) : Option Nat :=
  if s.ax ⟨.stepOpen, j, 0⟩ ≠ 0 then some (s.ax ⟨.stepNo, j, 0⟩) else none

/-- ABORT_BROADCAST_RECEIVE (R327): the first copy for the open step acts, any other is stale. -/
def effAbortBroadcastReceive (port : Nat) : Eff := withMsg port 0x11 fun m => fun s =>
  let j := m.num 0 1
  if s.openStep j = some (m.num 4 4) then
    abortLocal j (m.num 4 4) (m.num 1 1) (s.jobPug j) (m.num 2 2 % 4096) none true s
  else staleDrop (s.jobPug j) s

def execAbortBroadcastReceive (port : Nat) (s : State) : Host.Outcome State Fault Refusal :=
  .next ((effAbortBroadcastReceive port).run s)

/-- VOTE (R386): for the open step or one this module has not started yet. -/
def effVote (port : Nat) : Eff := withMsg port 0x12 fun m => fun s =>
  let j := m.num 0 1
  if s.openStep j = some (m.num 4 4) ∨ s.ax ⟨.stepNo, j, 0⟩ < m.num 4 4 then
    takeVote j (m.num 4 4) m.src (m.num 1 1 = 2) s
  else []

def execVote (port : Nat) (s : State) : Host.Outcome State Fault Refusal := .next ((effVote port).run s)

/-- A step of a job is committed on this module. -/
def State.stepDone (s : State) (j n : Nat) : Bool :=
  match s.jobGlaze j with
  | p :: _ => n ≤ s.get fCommitted p && n ≤ s.ax ⟨.stepNo, j, 0⟩
  | [] => s.openStep j ≠ some n && n ≤ s.ax ⟨.stepNo, j, 0⟩ && s.ax ⟨.stepAborted, j, 0⟩ ≠ n + 1

/-- COMMIT (R340, R341, R386): its admission at the register arbiter is the commit point, and it is answered; a HELD
step records ARG with the sender. -/
def effCommit (port : Nat) : Eff := withMsg port 0x13 fun m => fun s =>
  let j := m.num 0 1
  let n := m.num 4 4
  if s.openStep j = some n ∧ s.ax ⟨.voted, j, 0⟩ = 1 then
    doAll [fun _ => [.seq], commitPoint j n, sendDgram m.src 0x14 (commitBytes j n)] s
  else if s.openStep j = some n ∧ s.ax ⟨.voted, j, 0⟩ = 2 then
    forEach (s.jobGlaze j) (fun p => recordErr .glaze p eARG m.src) s
  else if s.stepDone j n then sendDgram m.src 0x14 (commitBytes j n) s
  else []

def execCommit (port : Nat) (s : State) : Host.Outcome State Fault Refusal := .next ((effCommit port).run s)

/-- COMMIT_ACK: the coordinator sends that module no more; with every module's, it stops (R340). -/
def effCommitAck (port : Nat) : Eff := withMsg port 0x14 fun m => fun s =>
  let j := m.num 0 1
  if s.ax ⟨.committed, j, 0⟩ ≠ m.num 4 4 + 1 ∨ s.gl.acks.contains (j, m.src) then [] else
  doAll [modGl (fun g => { g with acks := g.acks ++ [(j, m.src)] }),
    whenE (fun s => (s.jobModules j).all fun x => x = s.self || s.gl.acks.contains (j, x)) (setAx ⟨.committed, j, 0⟩ 0)] s

def execCommitAck (port : Nat) (s : State) : Host.Outcome State Fault Refusal := .next ((effCommitAck port).run s)

/-! ## Segments for peers and from peers (R289, R376, R391) -/

/-- SEG_REQ: queued in arrival order. -/
def effSegReq (port : Nat) : Eff := withMsg port 0x20 fun m => modFb fun b =>
  { b with serves := b.serves ++ [{ port := port, src := m.src, alias_ := m.alias_, tag := m.num 0 2, stack := m.num 2 1 % 64
                                    off := m.num 8 8 % 2 ^ 40, len := m.num 4 4 }] }

def execSegReq (port : Nat) (s : State) : Host.Outcome State Fault Refusal := .next ((effSegReq port).run s)

/-- SEG_SERVE_START: the oldest waiting request is answered from the committed HOME generation (the promoted one for the
alias), which is pinned while its data leaves; an error answer carries no data and holds no slot. -/
def effSegServeStart (port : Nat) : Eff := fun s =>
  if !s.fabLive ∨ 64 ≤ (s.fb.serves.filter fun v => v.port = port && v.busy).length then [] else
  match s.fb.serves.find? fun v => v.port = port && !v.busy with
  | none => []
  | some v =>
    let g := if v.alias_ then 1 else 0
    let k := s.get (fCgen g) v.stack
    let a := s.genAddr v.stack g k v.off
    let head (code : Nat) : List Byte := leBytes 2 v.tag ++ leBytes 1 code ++ leBytes 1 0 ++
      (if code = 0 then leBytes 4 (s.get (fGenVer g) v.stack) ++ leBytes 2 (s.get (fGenAlt g) v.stack) else leBytes 6 0) ++ leBytes 6 0
    let fail (code : Nat) : Eff := doAll [modFb (fun b => { b with serves := b.serves.erase v }),
      sendMsg port v.src v.alias_ 2 0x21 (head code)]
    if 48 ≤ v.stack ∨ s.regionSize v.stack (2 * g) < genData + v.off + v.len then fail eARG s
    else if !s.on (fGenValid g) v.stack then fail eSTATE s
    else if s.badBursts a v.len ≠ [] then doAll [badMeet 1 a v.len, fail eECC_UE] s
    else doAll [modFb (fun b => { b with serves := b.serves.map fun x => if x = v then { v with busy := true, slot := k } else x }),
      countBytes fBytesRd a v.len, sendMsg port v.src v.alias_ 2 0x21 (head 0 ++ s.stRds a v.len)] s

def execSegServeStart (port : Nat) (s : State) : Host.Outcome State Fault Refusal := .next ((effSegServeStart port).run s)

/-- SEG_SERVE_DONE: the last frame of an answer has left; the pin and the serve slot are free. -/
def effSegServeDone (port i : Nat) : Eff := fun s =>
  match (s.fb.serves.filter fun v => v.port = port && v.busy)[i]? with
  | none => []
  | some v =>
    if (s.peer port v.src v.alias_).any fun x => x.frames.any fun f => f.fr.typ = 0x21 && f.ref % 65536 = v.tag && !f.sent then []
    else modFb (fun b => { b with serves := b.serves.erase v }) s

def execSegServeDone (port i : Nat) (s : State) : Host.Outcome State Fault Refusal := .next ((effSegServeDone port i).run s)

/-- A segment request is over without data: its tag retires (R280). -/
def segOver (g : Seg) : Eff := modSl fun l =>
  { l with segs := l.segs.map fun x => if x = g then { x with st := 3 } else x }

/-- SEG_DATA: an answer for a tag still held fills its place in the window, or fails it; any other is discarded, and retires the tag
that a flush left to it. -/
def effSegData (port : Nat) : Eff := withMsg port 0x21 fun m => fun s =>
  let tag := m.num 0 2
  match s.sl.segs.find? fun g => g.st = 1 && g.tag = tag && g.module_ = m.src && planPort g.path g.link = port with
  | none => doAll [modSl (fun l => { l with drain := l.drain.filter fun d => d.tag ≠ tag || d.module_ ≠ m.src || d.link ≠ some port }),
      segRetry (tag / 0x400)] s
  | some g =>
    let a := s.winAddr g.port g.w (g.woff * 64)
    let data := m.data.drop 16
    let fail (code : Nat) : Eff := doAll [segOver g, winFail g.port g.w g.seg code]
    doAll [if s.get (fWinState g.w) g.port ≠ 1 then segOver g
      else if m.num 2 1 ≠ 0 then fail (m.num 2 1)
      else match s.storeWrErr a data.length with
        | some e => fail e.1
        | none => doAll [storePut a data, countBytes fBytesWr a data.length, segArrived g.port g.w g.seg (m.num 4 4) (m.num 8 2)],
      segRetry g.port] s

def execSegData (port : Nat) (s : State) : Host.Outcome State Fault Refusal := .next ((effSegData port).run s)

/-- SEG_READ_TIMEOUT (R391). -/
def effSegReadTimeout (tag : Nat) : Eff := fun s =>
  match s.sl.segs.find? fun g => g.st = 1 && g.tag = tag with
  | none => doAll [modSl (fun l => { l with drain := l.drain.filter fun d => d.tag ≠ tag || d.link.isNone }), segRetry (tag / 0x400)] s
  | some g => doAll [segOver g, whenE (fun s => s.get (fWinState g.w) g.port = 1) (winFail g.port g.w g.seg eTIMEOUT),
      segRetry g.port] s

def execSegReadTimeout (tag : Nat) (s : State) : Host.Outcome State Fault Refusal := .next ((effSegReadTimeout tag).run s)

/-! ## The mirror of the partner (R377) -/

/-- A class-3 message is taken in its turn: the messages of a class reach the receiver in the order sent (R374). -/
def withMirror (typ : Nat) (f : InMsg → Eff) : Eff := fun s =>
  match s.fb.inbox.find? fun m => m.port = 16 && m.cls = 3 with
  | some m => if m.typ = typ then withMsg 16 typ f s else []
  | none => []

/-- MWRITE: its data is in the MIRROR region, and acknowledged. -/
def effMwrite : Eff := withMirror 0x30 fun m => fun s =>
  let p := m.num 0 1 % 64
  let a := s.regionBase p (2 + m.num 1 1 % 2) + m.num 8 8 % 2 ^ 40
  let data := m.data.drop 16
  doAll [whenE (fun s => p < 48 && s.inRegion p (2 + m.num 1 1 % 2) a data.length)
      (doAll [storePut a data, countBytes fBytesWr a data.length]),
    sendAck 16 m.src false 2 3] s

def execMwrite (s : State) : Host.Outcome State Fault Refusal := .next (effMwrite.run s)

/-- The mirror header flip of one stack. -/
def mirrorFlip (p k ver : Nat) : Eff := fun s =>
  doAll [whenE (fun s => s.hdrCommitted p 1 (1 - k)) (fun s =>
      writeHeader p 1 (1 - k) (s.hdrVer p 1 (1 - k)) (s.hdrAlt p 1 (1 - k)) 3 (s.hdrOwner p 1 (1 - k)) s),
    writeHeader p 1 k ver (s.hdrAlt p 1 k) 2 (s.hdrOwner p 1 k),
    setReg .slip p 0x188 (genWord k 1 (s.hdrOwner p 1 k) (s.hdrAlt p 1 k) ver)] s

/-- MHDR: slot SLOT of the stacks named becomes COMMITTED, the other RETIRED. -/
def effMhdr : Eff := withMirror 0x31 fun m =>
  doAll [forEach (ports48.filter fun p => m.num 8 6 / 2 ^ p % 2 = 1) (fun p => mirrorFlip p (m.num 1 1 % 2) (m.num 4 4)),
    sendAck 16 m.src false 2 3]

def execMhdr (s : State) : Host.Outcome State Fault Refusal := .next (effMhdr.run s)

end Sys2Proof.Machine
end

