-- ==== Sys2Proof/Machine/Image.lean ====
section
/-! DEFINITION. The kiln image (R360–R363) and the checks of LOAD in their order (R364), with those of the chapters it
names: tile records, the job (R348, R358, R392), reservations, stream lists (R281–R294), feeds and buckets (R310,
R311), stage plans (R316, R317), glaze records (R332–R335), peers (R381). -/

namespace Sys2Proof.Machine

/-- A failed check of a command: its code, its INFO where a rule states one, and for SAGGAR the owner of what was
denied and whether it had one (Table 16-4). -/
structure LErr where
  code : Nat
  info : Option Nat := none
  den : Option (Nat × Bool) := none
  deriving DecidableEq, Repr

/-- An error under a condition. -/
def lIf (c : Bool) (code : Nat) (info : Option Nat := none) : Option LErr := if c then some ⟨code, info, none⟩ else none

/-- The first error of a list of checks. -/
def lFirst : List (Option LErr) → Option LErr
  | [] => none
  | some e :: _ => some e
  | none :: l => lFirst l

/-- The first error over a list of items. -/
def lEach {α : Type} (l : List α) (f : α → Option LErr) : Option LErr := l.findSome? f

/-- R271, R479: a port is OFFLINE. -/
def State.offline (s : State) (p : Nat) : Bool := p < 48 && s.get fSlipState p = 3

/-- R427: SAGGAR where an extent is not all in windows of kiln k's saggar that allow the access; R271: ABSENT where the stack it
names is OFFLINE.  DEDUCED, log entry 119. -/
def State.winErr (s : State) (k : Nat) (wr : Bool) (a n : Nat) : Option LErr :=
  if s.offline (a / slotSize) then some ⟨eABSENT, none, none⟩ else
  (s.sagDenied none (s.kilnSag k none) true wr a n).map fun x => ⟨eSAGGAR, none, some (s.winOwner none x)⟩

/-- Bytes of the store are all 0. -/
def State.zeros (s : State) (a n : Nat) : Bool := (s.stRds a n).all fun b => b = 0

/-! ## The header (Table 13-5) -/

/-- An image header. -/
structure ImgHdr where
  a : Nat
  flags : Nat
  x0 : Nat
  x1 : Nat
  y0 : Nat
  y1 : Nat
  job : Nat
  split : Nat
  tab : Nat
  seed : Nat
  saveBase : Nat
  saveLines : Nat
  binCap : List W64
  tileOff : Nat
  tileCnt : Nat
  strmCnt : Nat
  strmOff : Nat
  feedCnt : Nat
  feedOff : Nat
  glzCnt : Nat
  glzOff : Nat
  bytes : Nat
  deriving DecidableEq, Repr

/-- The header of the image at a store address. -/
def State.img (s : State) (a : Nat) : ImgHdr :=
  let n (off len : Nat) : Nat := s.stNum (a + off) len
  { a := a, flags := n 6 1, x0 := n 8 1, x1 := n 9 1, y0 := n 10 1, y1 := n 11 1, job := n 12 1, split := n 14 2, tab := n 16 8
    seed := n 24 8, saveBase := n 32 4, saveLines := n 36 4
    binCap := (List.range 8).map fun j => BitVec.ofNat 64 (n (40 + 8 * j) 8)
    tileOff := n 104 8, tileCnt := n 112 4, strmCnt := n 116 4, strmOff := n 120 8, feedCnt := n 128 4, feedOff := n 136 8
    glzCnt := n 144 4, glzOff := n 152 8, bytes := n 160 8 }

def ImgHdr.coil (h : ImgHdr) : Bool := h.flags % 2 = 1
def ImgHdr.binned (h : ImgHdr) : Bool := h.flags / 2 % 2 = 1
def ImgHdr.swapEn (h : ImgHdr) : Bool := h.flags / 4 % 2 = 1
def ImgHdr.rngFree (h : ImgHdr) : Bool := h.flags / 8 % 2 = 1

/-- The logical tiles of an image, in record order. -/
def ImgHdr.tiles (h : ImgHdr) : List Nat := rectTiles h.x0 h.x1 h.y0 h.y1

/-- Check 1 of LOAD (R360), after the read of the image is allowed. -/
def State.hdrErr (s : State) (k : Nat) (h : ImgHdr) : Option LErr :=
  lFirst [s.winErr k false h.a 256,
    lIf (s.badBursts h.a 256 ≠ []) eECC_UE (some (storeInfo h.a)),
    lIf (s.stNum h.a 4 ≠ 0x4E4C494B || s.stNum (h.a + 4) 2 ≠ 1) eARG,
    lIf (h.bytes < 256 || !s.inRegionAny 7 h.a h.bytes) eARG,
    s.winErr k false h.a h.bytes,
    lIf (s.badBursts h.a h.bytes ≠ []) eECC_UE ((s.badBursts h.a h.bytes).head?.map fun b => storeInfo (b * 32)),
    lIf (crc32c (s.stRds h.a 252 ++ s.stRds (h.a + 256) (h.bytes - 256)) ≠ s.stNum (h.a + 252) 4) eARG,
    lIf (16 ≤ h.flags || !s.zeros (h.a + 7) 1 || !s.zeros (h.a + 13) 1 || !s.zeros (h.a + 132) 4 || !s.zeros (h.a + 148) 4 ||
      !s.zeros (h.a + 168) 84 || 2 ^ 48 ≤ h.tab || h.tab % 64 ≠ 0) eARG,
    lIf (h.x1 < h.x0 || h.y1 < h.y0 || 192 ≤ h.x1 || 180 ≤ h.y1 || h.tileCnt ≠ (h.x1 + 1 - h.x0) * (h.y1 + 1 - h.y0)) eARG,
    lIf (h.bytes < h.tileOff + 512 * h.tileCnt || h.bytes < h.strmOff + 96 * h.strmCnt || h.bytes < h.feedOff + 24 * h.feedCnt ||
      h.bytes < h.glzOff + 48 * h.glzCnt) eARG,
    lIf (h.saveBase % 64 ≠ 0 || 24576 < h.saveLines || spSize < h.saveBase + 64 * h.saveLines) eARG,
    lIf (h.split % 16 ≠ 0 || h.split < 64 || 256 < h.split) eARG]

/-- Check 2 (R4). -/
def State.d24Err (s : State) (h : ImgHdr) : Option LErr := lIf (s.grade = 3 && (h.coil || h.binned)) eABSENT

/-! ## The rectangle (check 3) -/

/-- The rectangles of an image and of a kiln's GEOM share a tile. -/
def State.rectMeets (s : State) (h : ImgHdr) (k : Nat) : Bool :=
  h.x0 ≤ s.get fKilnX1 k && s.get fKilnX0 k ≤ h.x1 && h.y0 ≤ s.get fKilnY1 k && s.get fKilnY0 k ≤ h.y1

/-- A kiln holds its rectangle, or a LOAD or SWAP_IN in progress is about to. -/
def State.kilnTakes (s : State) (k : Nat) : Bool :=
  s.kilnHolds k || (s.on fKilnBusy k && (s.get fBusyOp k = 0x10 || s.get fBusyOp k = 0x16))

/-- A tile's field is off by heat (R456). -/
def State.hot (s : State) (t : Nat) : Bool := s.ax ⟨.fieldHeat, fieldOf t, 0⟩ ≠ 0

/-- Check 3: the rectangle (R13, R347, R406, R452). -/
def State.rectErr (s : State) (k : Nat) (h : ImgHdr) : Option LErr :=
  lFirst [lIf (kilns256.any fun x => x ≠ k && s.kilnTakes x && s.rectMeets h x) eSTATE,
    lIf (h.tiles.any fun t => s.geo.outOfUse t || s.ax ⟨.tilePwr, s.phys t, 0⟩ = 3) eFENCED,
    lIf (h.tiles.any s.hot) eTHERMAL]

/-- Tiles ask for a wake, where they are OFF and have not asked (R451, R452). -/
def wakeRect (ts : List Nat) : Eff := fun s =>
  let new := ts.filter fun t => s.ax ⟨.tilePwr, s.phys t, 0⟩ = 0 && !s.pw.wakes.contains t && !s.pw.waking.contains t
  modPw (fun w => { w with wakes := w.wakes ++ new
                           asked := new.foldl (fun m t => fset id (fun _ => 0) m t (s.wcount + 1)) w.asked }) s

/-! ## Tile records (Table 13-6, check 4) -/

/-- The address of tile record i. -/
def ImgHdr.recAt (h : ImgHdr) (i : Nat) : Nat := h.a + h.tileOff + 512 * i

/-- A 64-bit word of the store. -/
def State.st64 (s : State) (a : Nat) : W64 := BitVec.ofNat 64 (s.stNum a 8)

/-- The router and queue values of a record for logical tile t. -/
def State.recCfg (s : State) (r t : Nat) : TileCfg :=
  { t := t, qcfg := (List.range 14).map fun q => s.st64 (r + 112 + 8 * q), coSet := s.st64 (r + 224)
    routes := (List.range 5).map fun i => (s.st64 (r + 232 + 16 * i), s.st64 (r + 240 + 16 * i))
    combs := (List.range 16).map fun c => s.st64 (r + 312 + 8 * c) }

/-- The records of an image. -/
def State.imgCfgs (s : State) (h : ImgHdr) : List TileCfg := h.tiles.zipIdx.map fun x => s.recCfg (h.recAt x.2) x.1

/-- Two rings overlap. -/
def ringsMeet (u v : W64) : Bool :=
  getBits u 32 1 = 1 && getBits v 32 1 = 1 && getBits u 0 21 < getBits v 0 21 + 64 * qcfgLines v &&
    getBits v 0 21 < getBits u 0 21 + 64 * qcfgLines u

/-- Some two values of a list are in a relation, the first before the second. -/
def somePair {α : Type} (f : α → α → Bool) : List α → Bool
  | [] => false
  | x :: l => l.any (f x) || somePair f l

/-- A tile record is not allowed (R361). -/
def State.recBad (s : State) (h : ImgHdr) (i t : Nat) : Bool :=
  let r := h.recAt i
  let c := s.recCfg r t
  let n (off len : Nat) : Nat := s.stNum (r + off) len
  n 0 1 ≠ t % 192 - h.x0 || n 1 1 ≠ t / 192 - h.y0 || 2048 ≤ n 2 2 || n 4 4 = 0 || 2048 < n 4 4 ||
  h.bytes < n 8 8 + 16 * n 4 4 || c.qcfg.any qcfgBad || somePair ringsMeet c.qcfg ||
  (c.routes.zipIdx.any fun x => routeABad x.2 x.1.1 || routeBBad (getBits x.1.1 7 1 = 1) x.1.2) || c.combs.any combBad ||
  (n 440 8 ≠ 0 && (n 448 4 % 64 ≠ 0 || 24576 < n 452 4 || spSize < n 448 4 + 64 * n 452 4 || h.bytes < n 440 8 + 64 * n 452 4)) ||
  !s.zeros (r + 456) 56

/-- Check 4. -/
def State.recsErr (s : State) (h : ImgHdr) : Option LErr := lIf (h.tiles.zipIdx.any fun x => s.recBad h x.2 x.1) eARG

/-! ## Plan records (Table 13-7) -/

/-- A stream record. -/
structure StrmRec where
  a : Nat
  port : Nat
  wins : List Nat
  len : Nat
  list : Nat
  deriving DecidableEq, Repr

def State.strmRecs (s : State) (h : ImgHdr) : List StrmRec := (List.range h.strmCnt).map fun i =>
  let a := h.a + h.strmOff + 96 * i
  ⟨a, s.stNum a 1, (List.range 8).filter fun w => s.stNum (a + 1) 1 / 2 ^ w % 2 = 1, s.stNum (a + 2) 2, s.stNum (a + 8) 8⟩

/-- The list of a stream record: context numbers do not matter before it is bound. -/
def State.recList (s : State) (r : StrmRec) : List Strm := s.listOf r.port 0 r.list r.len

/-- The GWIN value of a record for a window. -/
def State.recGwin (s : State) (r : StrmRec) (w : Nat) : W64 := s.st64 (r.a + 16 + 8 * w)

/-- A feed record: pug, FEED_A, FEED_B. -/
structure FeedRec where
  u : Nat
  fa : W64
  fb : W64
  deriving DecidableEq, Repr

def State.feedRecs (s : State) (h : ImgHdr) : List FeedRec := (List.range h.feedCnt).map fun i =>
  let a := h.a + h.feedOff + 24 * i
  ⟨s.stNum a 1, s.st64 (a + 8), s.st64 (a + 16)⟩

/-- A glaze record: port, GJOB, RANGES, RANGE_CNT, HYPER, RESEL. -/
structure GlzRec where
  p : Nat
  gjob : W64
  ranges : W64
  cnt : W64
  hyper : W64
  resel : W64
  deriving DecidableEq, Repr

def State.glzRecs (s : State) (h : ImgHdr) : List GlzRec := (List.range h.glzCnt).map fun i =>
  let a := h.a + h.glzOff + 48 * i
  ⟨s.stNum a 1, s.st64 (a + 8), s.st64 (a + 16), s.st64 (a + 24), s.st64 (a + 32), s.st64 (a + 40)⟩

/-! ## The job (check 5: R348, R358, R392, R428) -/

/-- The job-table entry is inconsistent (R358). -/
def State.tabErr (s : State) (k : Nat) (h : ImgHdr) : Option LErr :=
  let t := h.tab
  let n := s.stNum (t + 2) 2
  let a := s.stNum (t + 24) 8
  let ids := (List.range n).map fun i => s.stNum (a + 16 * i) 2
  lFirst [s.winErr k false t 64,
    lIf (!s.zeros (t + 1) 1 || !s.zeros (t + 6) 2 || !s.zeros (t + 20) 4 || !s.zeros (t + 32) 32 || n = 0 || 4096 < n ||
      4096 ≤ s.stNum (t + 4) 2 || 2 ^ 48 ≤ s.stNum (t + 8) 8 || s.stNum (t + 16) 4 = 0 || 65536 < s.stNum (t + 16) 4 ||
      2 ^ 48 ≤ a || a % 16 ≠ 0) eARG,
    lIf ((s.glzRecs h).any fun g => getBits g.gjob 16 12 ≠ s.stNum (t + 4) 2 || getBits g.gjob 32 13 ≠ n) eARG,
    s.winErr k false a (16 * n),
    lIf (ids.any fun m => 4096 ≤ m) eARG,
    lIf ((List.range n).any fun i => !s.zeros (a + 16 * i + 2) 6) eARG,
    lIf (ids.dedup.length ≠ n || !ids.contains s.self) eARG,
    lIf (s.grade = 2 && ids.any fun m => m ≠ s.self &&
      !([16, 17, 18].any fun q => s.lkUp q && (s.boardPeer q).any fun x => x.module_ = m)) eABSENT]

/-- Check 5. -/
def State.jobErr (s : State) (k : Nat) (h : ImgHdr) : Option LErr :=
  let o := s.jobOwner h.job none
  let others := (s.jobKilns h.job).filter fun x => x ≠ k
  lFirst [(if !o.1 || o.2 ≠ s.kilnSag k none then some ⟨eSAGGAR, none, some (o.2, o.1)⟩ else none),
    lIf (others.any fun x => s.get fJobtab x ≠ h.tab || s.kilnSag x none ≠ s.kilnSag k none) eARG,
    s.tabErr k h]

/-! ## Reservations (check 6) -/

/-- The reservations an image makes: its tiles' route entries and combine sets, and its streams. -/
def State.imgNeeds (s : State) (h : ImgHdr) : List Need :=
  let cs := s.imgCfgs h
  let cfg (t : Nat) : Option TileCfg := cs.find? fun c => c.t = t
  (cs.flatMap fun c => s.geo.routeNeeds h.swapEn c ++ s.geo.combNeeds cfg c) ++
  (s.strmRecs h).flatMap fun r => ((s.recList r).filter fun t => t.op = 0).map (s.streamNeed r.port)

/-- The read budget an image takes. -/
def State.imgBuds (s : State) (k : Nat) (h : ImgHdr) : List Bud := (s.strmRecs h).flatMap fun r => s.buds k (s.recList r)

def WErr.toL (e : WErr) : LErr := ⟨e.code, e.info, none⟩

/-- Check 6; with `bounds` the LIMITs are checked too. -/
def State.rsvErrL (s : State) (k : Nat) (h : ImgHdr) (bounds : Bool) : Option LErr :=
  let cs := s.imgCfgs h
  let ns := s.imgNeeds h
  lFirst [(s.rsvCheck k (fun t => cs.find? fun c => c.t = t) (if bounds then ns else ns.map fun n => { n with limit := 0 })).map WErr.toL,
    (s.budCheck k (s.imgBuds k h)).map WErr.toL]

/-! ## Stream lists (check 7: R281, R282, R288, R290, R294) -/

/-- A list entry is out of range (Table 10-7). -/
def Strm.bad (p : Nat) (t : Strm) : Bool :=
  let len := t.len
  let blk := t.tb * t.tb * fmtBytes t.fmt
  match t.op with
  | 0 => t.src = 3 || (t.tr && (getBits t.e0 5 2 = 3 || 7 ≤ t.fmt)) || portLinks p ≤ t.link || t.cone = 0 ||
      getBits t.e0 26 6 ≠ 0 || getBits t.e0 48 16 ≠ 0 || getBits t.e1 48 16 ≠ 0 || t.addr % 64 ≠ 0 ||
      getBits t.e2 46 2 ≠ 0 || len % 64 ≠ 0 || (t.tr && len % blk ≠ 0) || 192 ≤ t.dx || 180 ≤ t.dy ||
      (t.mcast && (192 ≤ t.x2 || 180 ≤ t.y2 || t.x2 < t.dx || t.y2 < t.dy)) || t.rate = 0 || 512 < t.rate ||
      t.creditInit < 2 || 1024 < t.creditInit || getBits t.e3 53 11 ≠ 0 || (t.src = 0 && (t.log || t.check))
  | 1 => getBits t.e0 26 6 ≠ 0 || getBits t.e0 48 16 ≠ 0 || getBits t.e1 48 16 ≠ 0 || t.addr % 16 ≠ 0 ||
      getBits t.e2 46 2 ≠ 0 || getBits t.e3 53 11 ≠ 0
  | 2 => t.e0 ≠ 2#64 || t.e1 ≠ 0#64 || t.e2 ≠ 0#64 || t.e3 ≠ 0#64
  | _ => true

/-- The entries of a list that use a window. -/
def winUses (l : List Strm) (w : Nat) : List Strm := l.filter fun t => t.win = w && (t.op = 1 || (t.op = 0 && t.src = 2))

/-- R290: one GATHER, then STREAM entries of which the last and only the last carries DROP, over and over; `st` is 0
before a GATHER, 1 right after it, 2 after a STREAM without DROP. -/
def usesOk : Nat → List Strm → Bool
  | st, [] => st = 0
  | st, t :: l => if t.op = 1 then st = 0 && usesOk 1 l else st ≠ 0 && usesOk (if t.drop then 0 else 2) l

/-- The segment table of a GATHER is not allowed (R288). -/
def State.segsErr (s : State) (k : Nat) (r : StrmRec) (g : Strm) : Option LErr :=
  let segs := (List.range g.nsegs).map fun i => s.segEntry r.port g.win g.addr i
  let size := getBits (s.recGwin r g.win) 16 16 * 65536
  lFirst [s.winErr k false g.addr (16 * g.nsegs),
    lIf (s.grade = 2 && segs.any fun x => x.path = 0) eABSENT,
    lIf (segs.any fun x => x.path = 2 && s.offline x.stack) eABSENT,
    lIf (segs.any fun x => x.path = 3 || (x.path = 1 && 3 ≤ x.link) || (x.path = 2 && x.link ≠ 0) || 48 ≤ x.stack ||
      x.off % 64 ≠ 0 || x.len % 64 ≠ 0 || size < x.woff * 64 + x.len) eARG,
    lIf (somePair (fun x y => x.woff * 64 < y.woff * 64 + y.len && y.woff * 64 < x.woff * 64 + x.len) segs) eARG]

/-- The segment indices a stream touches: a HOME stream counts as segment 0 (R294). -/
def State.segSet (s : State) (l : List Strm) (t : Strm) : List Nat := if t.src = 1 then [0] else (s.touches l t).map fun x => x.seg

/-- The gather-log entries a list makes. -/
def State.logCount (s : State) (l : List Strm) : Nat := ((l.filter fun t => t.op = 0 && t.log).map fun t => (s.segSet l t).length).sum

/-- R294: every CHECK has a LOG of its LAYER before it, and each layer's LOG streams touch what its CHECK streams touch. -/
def State.logOk (s : State) (l : List Strm) : Bool :=
  let logs := l.filter fun t => t.op = 0 && t.log
  let chks := l.filter fun t => t.op = 0 && t.check
  chks.all fun c =>
    let ls := (logs.filter fun t => t.layer = c.layer).flatMap (s.segSet l)
    let cs := (chks.filter fun t => t.layer = c.layer).flatMap (s.segSet l)
    (logs.any fun t => t.layer = c.layer && t.entry < c.entry) && ls.all cs.contains && cs.all ls.contains

/-- A list of a stream record. -/
def State.listErr (s : State) (k : Nat) (r : StrmRec) : Option LErr :=
  let l := s.recList r
  let on_ (t : Strm) : Bool := s.geo.linkOn r.port t.link
  lFirst [lIf (48 ≤ r.port || r.len = 0 || 4096 ≤ r.len || r.list % 32 ≠ 0 || 2 ^ 48 ≤ r.list || !s.zeros (r.a + 4) 4 ||
      !s.zeros (r.a + 80) 16) eARG,
    lIf (s.offline r.port) eABSENT,
    s.winErr k false r.list (32 * r.len),
    lEach l fun t => lIf (t.bad r.port) eARG (some (r.port * 0x10000 + t.entry)),
    lIf (l.any fun t => t.op = 0 && t.src = 0 && s.offline (t.addr / slotSize)) eABSENT,
    lIf (l.any fun t => t.op = 0 && !on_ t) eFENCED,
    lEach (l.filter fun t => t.op = 0 && t.src = 0) fun t => s.winErr k false t.addr t.len,
    lEach (l.filter fun t => t.op = 1) (s.segsErr k r),
    lIf (r.wins.any fun w => s.ax ⟨.winKiln, r.port, w⟩ ≠ 0 && s.ax ⟨.winKiln, r.port, w⟩ ≠ k + 1) eSTATE,
    lIf (r.wins.any fun w => s.regionSize r.port 4 < (getBits (s.recGwin r w) 0 16 + getBits (s.recGwin r w) 16 16) * 65536) eARG,
    lIf (!(List.range 8).all fun w => usesOk 0 (winUses l w)) eARG,
    lIf (!s.logOk l) eARG]

/-- The free contexts of a port, lowest first. -/
def State.freeCtx (s : State) (p : Nat) : List Nat := (List.range 16).filter fun c => !s.on (fCtxValid c) p

/-- Every stream record, in order, with the context it takes (R362). -/
def State.bindCtx (s : State) (rs : List StrmRec) : List (StrmRec × Nat) :=
  rs.zipIdx.filterMap fun x =>
    ((s.freeCtx x.1.port)[((rs.take x.2).filter fun y => y.port = x.1.port).length]?).map fun c => (x.1, c)

/-- The stream records of an image. -/
def State.strmsErr (s : State) (k : Nat) (h : ImgHdr) : Option LErr :=
  let rs := s.strmRecs h
  let onPort (p : Nat) : Nat :=
    ((rs.filter fun r => r.port = p).map fun r => s.logCount (s.recList r)).sum +
    ((List.range 16).map fun c => if s.on (fCtxValid c) p && s.get (fCtxKiln c) p ≠ k
      then s.logCount (s.listOf p c (s.get (fCtxList c) p) (s.get (fCtxLen c) p)) else 0).sum
  lFirst [lEach rs (s.listErr k), lIf ((s.bindCtx rs).length ≠ rs.length) eFULL,
    lIf (rs.any fun r => 1024 < onPort r.port) eFULL]

/-! ## Feeds and buckets (R310, R311, R316, R317) -/

/-- The parts of a FEED_B value. -/
def State.partsOf (s : State) (v : W64) : List Part :=
  (List.range (getBits v 48 10 + 1)).map fun i =>
    let a := getBits v 0 48 + 16 * i
    ⟨s.stNum a 2, s.stNum (a + 4) 4, s.stNum (a + 8) 4⟩

/-- A part's reserved fields are 0, its numbers multiples of 16 (Table 11-1). -/
def State.partsBad (s : State) (v : W64) : Bool :=
  getBits v 0 48 % 16 ≠ 0 || getBits v 58 6 ≠ 0 ||
  (List.range (getBits v 48 10 + 1)).any fun i =>
    let a := getBits v 0 48 + 16 * i
    !s.zeros (a + 2) 2 || !s.zeros (a + 12) 4 || s.stNum (a + 4) 4 % 16 ≠ 0 || s.stNum (a + 8) 4 % 16 ≠ 0 || s.stNum (a + 8) 4 < 16

/-- Spans of elements, sorted by insertion. -/
def insSpan (x : Nat × Nat) : List (Nat × Nat) → List (Nat × Nat)
  | [] => [x]
  | y :: l => if x.1 < y.1 then x :: y :: l else y :: insSpan x l

/-- Spans that follow one another without gap from a number to another. -/
def tiles1 : Nat → Nat → List (Nat × Nat) → Bool
  | a, b, [] => a = b
  | a, b, x :: l => x.1 = a && tiles1 (a + x.2) b l

/-- The free FEED entries of a pug, lowest first. -/
def State.freeFeed (s : State) (u : Nat) : List Nat := feeds32.filter fun f => !s.on (fFeedValid f) u

/-- Every feed record, in order, with the FEED entry it takes. -/
def State.bindFeed (s : State) (rs : List FeedRec) : List (FeedRec × Nat) :=
  rs.zipIdx.filterMap fun x =>
    ((s.freeFeed x.1.u)[((rs.take x.2).filter fun y => y.u = x.1.u).length]?).map fun f => (x.1, f)

/-- Port, link and set: the key of a FEED_A value. -/
def feedKey (v : W64) : Nat := getBits v 0 14

/-- R310: the feeds an image adds; with any, every bucket of the job is checked for coverage (DEDUCED, log entry 30). -/
def State.feedsErr (s : State) (h : ImgHdr) : Option LErr :=
  let rs := s.feedRecs h
  let btab := s.stNum (h.tab + 8) 8
  let loaded := pugs16.flatMap fun u => feeds32.filterMap fun f =>
    if s.on (fFeedValid f) u then some (u, s.rd .pug u (0x200 + 0x10 * f), s.rd .pug u (0x208 + 0x10 * f)) else none
  let sameJob := (loaded.filter fun x => getBits x.2.1 14 8 = h.job).flatMap fun x => s.partsOf x.2.2
  let mine := rs.flatMap fun r => s.partsOf r.fb
  let spans (b : Nat) : List (Nat × Nat) :=
    ((mine ++ sameJob).filter fun x => x.bucket = b).foldr (fun x l => insSpan (x.off, x.n) l) []
  lFirst [lIf (rs.any fun r => 16 ≤ r.u || getBits r.fa 22 1 = 0 || 48 ≤ getBits r.fa 0 6 || portLinks (getBits r.fa 0 6) ≤ getBits r.fa 6 4 ||
      s.partsBad r.fb) eARG,
    lIf (rs.any fun r => s.offline (getBits r.fa 0 6)) eABSENT,
    lIf (mine.any fun x => s.stNum (h.tab + 16) 4 ≤ x.bucket) eARG,
    lIf (rs ≠ [] && (List.range (s.stNum (h.tab + 16) 4)).any fun b => !tiles1 0 (s.stNum (btab + 64 * b + 4) 4) (spans b)) eARG,
    lIf (rs.any fun r => (s.partsOf r.fb).any fun x => s.stNum (btab + 64 * x.bucket + 2) 1 % 16 ≠ r.u) eARG,
    lIf (!(rs.map fun r => feedKey r.fa).Nodup || rs.any fun r => loaded.any fun x => feedKey x.2.1 = feedKey r.fa) eARG,
    lIf ((s.bindFeed rs).length ≠ rs.length) eARG]

/-- An extent lies in a LEDGER region and kiln k's saggar may read and write it; SAGGAR before ARG (R311). -/
def State.areaErr (s : State) (k id a n : Nat) : Option LErr :=
  if s.inRegionAny 5 a n then s.winErr k true a n else
  match s.winErr k true a n with
  | some e => some e
  | none => some ⟨eARG, some id, none⟩

/-- The bytes of a bucket's plan; PLAN itself must lie in the region with no stage too. -/
def State.planBytes (s : State) (a stages : Nat) : Nat := max 1 (s.planAt a stages - a)

/-- Entry id of the bucket table is not allowed (R311). DEDUCED, log entry 71. -/
def State.bktErr (s : State) (k tab id : Nat) : Option LErr :=
  let a := tab + 64 * id
  let w (i : Nat) : W64 := s.st64 (a + 8 * i)
  let elems := getBits (w 0) 32 32
  let stages := getBits (w 1) 16 3
  let scaleBad (x : Nat) : Bool := 96 < x && x < 128
  let wd := if getBits (w 0) 22 1 = 1 then 2 else 4
  lFirst [lIf (getBits (w 0) 0 16 ≠ id || getBits (w 0) 23 9 ≠ 0 || elems < 16 || 16777216 < elems || elems % 16 ≠ 0 ||
      scaleBad (getBits (w 1) 0 8) || scaleBad (getBits (w 1) 8 8) || 4 < stages || getBits (w 1) 19 13 ≠ 0 || getBits (w 1) 48 16 ≠ 0 ||
      getBits (w 2) 48 16 ≠ 0 || getBits (w 2) 0 6 ≠ 0 || getBits (w 3) 48 16 ≠ 0 || getBits (w 3) 0 6 ≠ 0 ||
      getBits (w 4) 48 16 ≠ 0 || getBits (w 4) 0 4 ≠ 0 || 48 ≤ getBits (w 5) 0 64 ||
      (getBits (w 0) 20 1 = 1 && (stages ≠ 0 || getBits (w 0) 21 1 = 1))) eARG (some id),
    s.areaErr k id (w 2).toNat (2 * elems * wd), s.areaErr k id (w 3).toNat (4 * elems),
    s.areaErr k id (w 4).toNat (s.planBytes (w 4).toNat stages)]

/-- The range of this module after each stage of a plan from a block on, or none where R317 is broken. -/
def State.planRun (s : State) (a : Nat) : Nat → Nat → Nat × Nat → Option (Nat × Nat)
  | 0, _, r => some r
  | fuel + 1, k, r =>
    let x := s.planAt a k
    let ms := s.planBlock a k
    let me := ms.filter fun m => m.path = 2
    let spans := ms.foldr (fun m l => if m.n = 0 then l else insSpan (m.lo, m.n) l) []
    let sane := s.stNum x 8 < 512 && 1 ≤ ms.length && ms.length ≤ 256 && s.zeros (x + 8) 8 &&
      (List.range ms.length).all (fun i => s.stNum (x + 16 + 16 * i) 4 / 2 ^ 18 = 0 && s.zeros (x + 28 + 16 * i) 4) &&
      ms.all (fun m => m.path ≠ 3 && (m.path ≠ 1 || m.port < 3) && (m.path ≠ 2 || m.port = 0) && m.n % 16 = 0 && m.lo % 16 = 0)
    match me with
    | [m] => if sane && m.module_ = s.self && (ms.filter fun y => y.module_ = s.self).length = 1 && tiles1 r.1 (r.1 + r.2) spans
        then s.planRun a fuel (k + 1) (m.lo, m.n) else none
    | _ => none

/-- The range table of a unit: the image's record, else its registers when it is bound to the job; a unit that serves
another job or none has no table, so it assigns no range. -/
def State.unitTab (s : State) (h : ImgHdr) (p : Nat) : Option (Nat × Nat) :=
  match (s.glzRecs h).find? fun g => g.p = p with
  | some g => some (getBits g.ranges 0 48, getBits g.cnt 0 13)
  | none => if s.on fGjobValid p && s.get fGjob p = h.job then some (s.get fRanges p, s.get fRangeCnt p) else none

/-- The plan of a bucket (R317, R318). -/
def State.planErr (s : State) (h : ImgHdr) (tab id : Nat) : Option LErr :=
  let a := tab + 64 * id
  let stages := getBits (s.st64 (a + 8)) 16 3
  let plan := s.stNum (a + 32) 8
  let ms := (List.range stages).flatMap fun k => s.planBlock plan k
  let unit := s.unitTab h (s.stNum (a + 40) 8)
  let own := (unit.map fun u => (List.range u.2).map fun i => s.rangeEntAt u.1 i).getD [] |>.filter fun r => r.bucket = id
  lFirst [lIf (4096 < ((List.range stages).map fun k => (s.planBlock plan k).length).foldl (· * ·) 1) eARG (some id),
    match s.planRun plan stages 0 (0, s.stNum (a + 4) 4) with
    | none => some ⟨eARG, some id, none⟩
    | some r => lIf (if r.2 = 0 then !own.all (fun e => e.lo = r.1 && e.n = 0) else
        own.length ≠ 1 || !own.all (fun e => e.lo = r.1 && e.n = r.2)) eARG (some id),
    lIf (s.grade = 2 && ms.any fun m => m.path = 0) eABSENT]

/-- The bucket table and the plans of a job. -/
def State.bktsErr (s : State) (k : Nat) (h : ImgHdr) : Option LErr :=
  let tab := s.stNum (h.tab + 8) 8
  let n := s.stNum (h.tab + 16) 4
  let ids := List.range n
  let place (i : Nat) : Nat × Nat := (s.stNum (tab + 64 * i + 2) 1 % 16, s.stNum (tab + 64 * i + 12) 2)
  lFirst [s.winErr k false tab (64 * n), lEach ids (s.bktErr k tab),
    lEach ids fun i => lIf ((List.range i).any fun j => place j = place i) eARG (some i),
    lEach ids (s.planErr h tab)]

/-! ## Glaze records (R332–R335) -/

/-- The bytes a streaming copy may take (R176, R334). -/
def copyBytes (wedge n : Nat) : Nat := if wMode wedge = 0 then n * fmtBytes (wFmt wedge) else wedgeWorst wedge n

/-- A WEDGE word not allowed for a range of n elements (R334). -/
def wedgeBad (r : REnt) : Bool :=
  !(wMode r.wedge = 0 || wMode r.wedge = 1 || wMode r.wedge = 5) || !(wFmt r.wedge = 1 || wFmt r.wedge = 3) || r.wedge / 8 % 2 = 1 ||
  2 ^ 24 ≤ r.wedge || r.n % wLen r.wedge ≠ 0

/-- Entry i of a range table is not allowed for a unit (R333, R334).  An extent must lie in both HOME regions, since a
commit changes which one it names; an entry of a bucket the job lacks, or that names another unit, is no range the plan
gives (DEDUCED, log entry 32). -/
def State.rangeBadAt (s : State) (h : ImgHdr) (p tab sets hyper i : Nat) : Bool :=
  let r := s.rangeEntAt tab i
  let a := tab + 64 * i
  let opt := s.stNum (hyper + 64 * r.hset) 4 % 4
  let room := min (s.regionSize p 0) (s.regionSize p 1) - genData
  let ext (off n : Nat) : Bool := off % 64 ≠ 0 || room < off + n
  s.stNum (h.tab + 16) 4 ≤ r.bucket || s.stNum (s.stNum (h.tab + 8) 8 + 64 * r.bucket + 40) 8 ≠ p ||
  sets < r.hset || s.stNum a 4 / 2 ^ 27 ≠ 0 || !s.zeros (a + 12) 4 || r.n % 16 ≠ 0 ||
  (List.range 4).any (fun i => !s.zeros (a + 16 + 8 * i + 5) 3) || s.stNum (a + 52) 4 / 2 ≠ 0 || !s.zeros (a + 56) 8 ||
  ext r.master (4 * r.n) || ext r.mOff (r.mBytes * r.n) || (if opt = 1 then ext r.vOff (r.mBytes * r.n) else r.vOff ≠ 0) ||
  r.sOff % 64 ≠ 0 || (r.stream && (wedgeBad r || ext r.sOff (copyBytes r.wedge r.n))) || (r.resel && wMode r.wedge ≠ 5)

/-- A glaze record (R332, R333, R335, R362). -/
def State.glzErr (s : State) (h : ImgHdr) (g : GlzRec) : Option LErr :=
  let same := s.rd .glaze g.p 0x100 &&& gjobMask = g.gjob &&& gjobMask && s.rd .glaze g.p 0x108 = g.ranges &&
    s.rd .glaze g.p 0x110 = g.cnt && s.rd .glaze g.p 0x118 = g.hyper && s.rd .glaze g.p 0x120 = g.resel
  let bound := s.on fGjobValid g.p
  let sets := getBits g.hyper 56 8
  lFirst [lIf (48 ≤ g.p) eARG, lIf (s.offline g.p) eABSENT,
    lIf (bound && s.get fGjob g.p ≠ h.job) eSTATE,
    lIf (bound && !same) eARG,
    lIf (getBits g.gjob 9 2 = 3 || getBits g.gjob 0 8 ≠ h.job || getBits g.gjob 8 1 = 0 || getBits g.gjob 32 13 = 0 ||
      4096 < getBits g.gjob 32 13 || getBits g.ranges 0 6 ≠ 0 || getBits g.cnt 0 64 = 0 || 4096 < getBits g.cnt 0 64 ||
      getBits g.hyper 0 6 ≠ 0 || (getBits g.resel 0 16 ≠ 0 && getBits g.resel 0 16 ≤ getBits g.resel 16 16)) eARG,
    lIf ((List.range (sets + 1)).any fun i => s.stNum (getBits g.hyper 0 48 + 64 * i) 4 % 4 = 3 ||
      8 ≤ s.stNum (getBits g.hyper 0 48 + 64 * i) 4) eARG,
    lEach (List.range (getBits g.cnt 0 13)) fun i =>
      lIf (s.rangeBadAt h g.p (getBits g.ranges 0 48) sets (getBits g.hyper 0 48) i) eARG (some i)]

/-! ## Peers (R381) -/

/-- The fabric peers an image's plans and segment tables name: port and module. -/
def State.imgPeers (s : State) (h : ImgHdr) : List (Nat × Nat) :=
  let tab := s.stNum (h.tab + 8) 8
  let plans := (List.range (s.stNum (h.tab + 16) 4)).flatMap fun id =>
    (List.range (getBits (s.st64 (tab + 64 * id + 8)) 16 3)).flatMap fun k => s.planBlock (s.stNum (tab + 64 * id + 32) 8) k
  let segs := (s.strmRecs h).flatMap fun r => ((s.recList r).filter fun t => t.op = 1).flatMap fun g =>
    (List.range g.nsegs).map fun i => s.segEntry r.port g.win g.addr i
  ((plans.filter fun m => m.path = 0).map (fun m => (m.port, m.module_)) ++
    (segs.filter fun x => x.path = 0).map fun x => (x.link, x.module_)).dedup

/-- The peers on a port once an image is loaded. -/
def State.peersAfter (s : State) (h : ImgHdr) (q : Nat) : Nat :=
  let have_ := (s.fb.peers.filter fun x => x.port = q && !x.alias_).map fun x => x.module_
  (have_ ++ ((s.imgPeers h).filter fun x => x.1 = q).map fun x => x.2).dedup.length

def State.peersErr (s : State) (h : ImgHdr) : Option LErr :=
  lEach (List.range 16) fun q => lIf (256 < s.peersAfter h q) eFULL (some q)

/-! ## All checks -/

/-- R363: with SWAP_EN, EO of every tile leaves through an exit. -/
def State.swapBad (s : State) (h : ImgHdr) : Bool :=
  h.swapEn && (s.imgCfgs h).any fun c => match c.routes[4]? with
    | some r => getBits r.1 7 1 = 0 || getBits r.1 43 1 = 0
    | none => true

/-- Check 7. -/
def State.plansErr (s : State) (k : Nat) (h : ImgHdr) : Option LErr :=
  lFirst [lIf (s.swapBad h) eARG, s.strmsErr k h, s.bktsErr k h, s.feedsErr h, lEach (s.glzRecs h) (s.glzErr h), s.peersErr h]

/-- Checks 1 to 3: what comes before the wake requests (R452). -/
def State.loadErr1 (s : State) (k : Nat) (h : ImgHdr) : Option LErr := lFirst [s.hdrErr k h, s.d24Err h, s.rectErr k h]

/-- Checks 4 to 7. -/
def State.loadErr2 (s : State) (k : Nat) (h : ImgHdr) : Option LErr :=
  lFirst [s.recsErr h, s.jobErr k h, s.rsvErrL k h true, s.plansErr k h]

/-! ## What LOAD writes (R364) -/

/-- Instruction slots from a store address into a bank of a tile. -/
def imemLoad (p bank a n : Nat) : Eff := fun s =>
  (List.range n).map fun i => Upd.imem (imemKey p bank i) (BitVec.ofNat 128 (s.stNum (a + 16 * i) 16))

/-- The tile, core, vector and router registers of a record (R361, R364), for kiln k. -/
def loadRegs (k : Nat) (h : ImgHdr) (i t : Nat) : Eff := fun s =>
  let p := s.phys t
  let r := h.recAt i
  let c := s.recCfg r t
  doAll [setF fEntry p (s.stNum (r + 2) 2),
    forEach c.qcfg.zipIdx (fun x => setReg .tile p (0x440 + 8 * x.2) (x.1 &&& (bitMask 0 21 ||| bitMask 24 4 ||| bitMask 32 1))),
    forEach (List.range 48) (fun n => setAx ⟨.semInit, p, n⟩ (s.stNum (r + 16 + 2 * n) 2)),
    forEach [0, 1, 2, 3] (fun q => doAll [setReg .core (4 * p + q) 0x148 (BitVec.ofNat 64 h.split),
      whenE (fun s => s.grade ≠ 3) (forEach h.binCap.zipIdx fun x => setReg .core (4 * p + q) (0x180 + 8 * x.2) (x.1 &&& bitMask 0 33))]),
    setF ⟨.vec, 0x140, 0, 1⟩ p (if h.rngFree then 1 else 0), setReg .vec p 0x148 (BitVec.ofNat 64 h.seed),
    setReg .router p 0x110 (c.coSet &&& bitMask 0 5),
    forEach c.routes.zipIdx (fun x => doAll [setReg .router p (0x120 + 0x10 * x.2) (x.1.1 &&& bitMask 0 46),
      setReg .router p (0x128 + 0x10 * x.2) (x.1.2 &&& (bitMask 0 10 ||| bitMask 32 11 ||| bitMask 48 16))]),
    forEach c.combs.zipIdx (fun x => setReg .router p (0x180 + 8 * x.2) (x.1 &&& (bitMask 0 28 ||| bitMask 49 15))),
    setF fOwnKiln p k, setF fInKiln p 1, setF fOwnSag p (s.kilnSag k none)] s

/-- The program and the scratchpad data of a record; the program goes into the bank that is not ACTIVE (R124). -/
def loadData (h : ImgHdr) (i t : Nat) : Eff := fun s =>
  let p := s.phys t
  let r := h.recAt i
  doAll [imemLoad p (1 - s.get fActive p) (h.a + s.stNum (r + 8) 8) (s.stNum (r + 4) 4), setF fShadowReady p 1,
    whenE (fun s => s.stNum (r + 440) 8 ≠ 0)
      (spWr p (s.stNum (r + 448) 4) (s.stRds (h.a + s.stNum (r + 440) 8) (64 * s.stNum (r + 452) 4)))] s

/-- Contexts, windows and feeds bound, reservations and peer references taken (R362, R284, R381). -/
def bindPlans (k : Nat) (h : ImgHdr) : Eff := fun s =>
  let rs := s.bindCtx (s.strmRecs h)
  let ns := s.imgNeeds h
  let peers := s.imgPeers h
  doAll [forEach rs (fun x => doAll [
      setReg .slip x.1.port (0x200 + 0x10 * x.2) (BitVec.ofNat 64 (k + 2 ^ 8 + x.1.len * 2 ^ 32)),
      setReg .slip x.1.port (0x208 + 0x10 * x.2) (BitVec.ofNat 64 x.1.list),
      setF (fCtxmap x.1.port) k 1,
      forEach x.1.wins fun w => doAll [setAx ⟨.winKiln, x.1.port, w⟩ (k + 1), setF (fWinBase w) x.1.port (getBits (s.recGwin x.1 w) 0 16),
        setF (fWinSize w) x.1.port (getBits (s.recGwin x.1 w) 16 16), setF (fWinState w) x.1.port 0]]),
    forEach (s.bindFeed (s.feedRecs h)) (fun x => doAll [
      setReg .pug x.1.u (0x200 + 0x10 * x.2) (x.1.fa &&& bitMask 0 23), setReg .pug x.1.u (0x208 + 0x10 * x.2) x.1.fb,
      setAx ⟨.feedKiln, x.1.u, x.2⟩ (k + 1)]),
    modNet fun n => { n with rsv := n.rsv ++ ns.flatMap (Need.rsvs k) ++ ns.flatMap (Need.merges k) },
    modSl fun l => { l with bud := l.bud ++ s.imgBuds k h },
    modFb fun b => { b with
      refs := b.refs ++ peers.map fun x => (k, x.1, x.2)
      peers := b.peers ++ (peers.filter fun x => (s.peer x.1 x.2 false).isNone).map fun x =>
        { port := x.1, module_ := x.2, hbBase := s.hb } }] s

/-- The whole of what LOAD writes, and KILN's registers. -/
def loadWrite (k : Nat) (h : ImgHdr) : Eff := fun s =>
  doAll [forEach h.tiles.zipIdx (fun x => doAll [loadRegs k h x.2 x.1, loadData h x.2 x.1]), bindPlans k h,
    forEach ((s.glzRecs h).filter fun g => !s.on fGjobValid g.p) (fun g => doAll [bindGlaze g.p g.gjob, setReg .glaze g.p 0x108 g.ranges,
      setReg .glaze g.p 0x110 g.cnt, setReg .glaze g.p 0x118 g.hyper, setReg .glaze g.p 0x120 g.resel]),
    setReg .kiln k 0x108 (BitVec.ofNat 64 h.a), setReg .kiln k 0x110 (BitVec.ofNat 64 (h.job + 2 ^ 8)),
    setReg .kiln k 0x118 (BitVec.ofNat 64 h.tab), setReg .kiln k 0x120 0, setReg .kiln k 0x128 0,
    setAx ⟨.kilnMoved, k, 0⟩ 0, setAx ⟨.kilnLast, k, 0⟩ 0,
    whenE (fun s => s.ax ⟨.stepOpen, h.job, 0⟩ = 0) (fun s =>
      match s.jobGlaze h.job with
      | p :: _ => setAx ⟨.stepNo, h.job, 0⟩ (s.get fCommitted p) s
      | [] => [])] s

end Sys2Proof.Machine
end

