-- ==== Sys2Proof/Machine/Kiln.lean ====
section
/-! DEFINITION. The kiln commands and the happenings of Table 13-2: LOAD, START, STEP, STOP, ABORT, SWAP_OUT, SWAP_IN,
UNLOAD, arming, the step boundary (R349–R357, R364–R368, R406). -/

namespace Sys2Proof.Machine

def fKilnSwap : Fld := ⟨.kiln, 0x130, 0, 64⟩
def fSwapSlot : Fld := ⟨.kiln, 0x130, 0, 48⟩
def fFromStopped : Fld := ⟨.kiln, 0x130, 49, 1⟩
def fImage : Fld := ⟨.kiln, 0x108, 0, 48⟩

/-! ## Admission (Table 13-1, Table 13-2) -/

/-- The image a loaded or swapped-out kiln was loaded from. -/
def State.kilnImg (s : State) (k : Nat) : ImgHdr := s.img (s.get fImage k)

/-- R350: a kiln of the job is not RUNNING between steps, a bucket is under way, or a glaze unit is not ready. -/
def State.stepBlocked (s : State) (j : Nat) : Bool :=
  (s.jobKilns j).any (fun k => s.get fKilnState k ≠ 3 || s.on fInStep k) ||
  s.pg.buckets.any (fun b => b.job = j && 1 ≤ b.state && b.state ≤ 3) ||
  (s.jobGlaze j).any fun p => s.get fGlzState p ≠ 0 || s.get fMstate p = 3

/-- The elements of a job's range tables on the module, and its ELEMS in the shard list (R350). -/
def State.homeElems (s : State) (j : Nat) : Nat :=
  ((s.jobGlaze j).map fun p => ((List.range (s.get fRangeCnt p)).map fun i => (s.rangeEnt p i).n).sum).sum

def State.shardElems (s : State) (tab : Nat) : Nat :=
  let n := s.stNum (tab + 2) 2 % 8192
  let a := s.stNum (tab + 24) 8 % 2 ^ 48
  (((List.range n).find? fun i => s.stNum (a + 16 * i) 2 % 4096 = s.self).map fun i => s.stNum (a + 16 * i + 8) 8).getD 0

/-- R350: n does not follow the committed step, or the shard's elements differ. -/
def State.stepArgBad (s : State) (k n : Nat) : Bool :=
  let j := s.get fKilnJob k
  (s.jobGlaze j).any (fun p => n ≠ (s.get fCommitted p + 1) % 2 ^ 32) || s.homeElems j ≠ s.shardElems (s.get fJobtab k)

/-- The admission of a kiln command by the state of the kiln (Table 13-2, R352, R413). -/
def State.kilnBlocked (s : State) (k op n : Nat) : Option Nat :=
  let st := s.get fKilnState k
  let stop (c : Bool) : Option Nat := if c then some eSTATE else none
  if s.on fKilnBusy k then stop (op ≠ 0x14)
  else match op with
  | 0x10 => stop (st ≠ 0 || s.standby)
  | 0x11 => stop (st ≠ 1 && st ≠ 5 && st ≠ 6)
  | 0x12 => if st ≠ 3 ∨ s.stepBlocked (s.get fKilnJob k) then some eSTATE else if s.stepArgBad k n then some eARG else none
  | 0x13 => stop (st ≠ 3)
  | 0x14 => stop (st = 0 || st = 7)
  | 0x15 => stop ((st ≠ 1 && st ≠ 5) || !(s.kilnImg k).swapEn)
  | 0x16 => stop (st ≠ 7)
  | _ => stop (st ≠ 1 && st ≠ 5 && st ≠ 6 && st ≠ 7)

/-- A kiln command: ARG0 may use its low bits; LOAD and SWAP_OUT name an address in a region. -/
def kilnSpec (k op : Nat) (args : List W64) (run : Eff) : CmdSpec where
  argBad s :=
    let a := (argN args 0).toNat
    !argsZeroFrom args 1 ||
    (match op with
     | 0x10 => a % 64 ≠ 0 || !s.inRegionAny 7 a 64
     | 0x12 => 2 ^ 32 ≤ a
     | 0x15 => a % 64 ≠ 0 || !s.inRegionAny 6 a 64
     | _ => a ≠ 0)
  blocked s := s.kilnBlocked k op (argN args 0).toNat
  run _ := run

/-- A kiln command's admission time, then its effect. -/
def timed (k : Nat) (e : Eff) : Eff := fun s => doAll [setAx ⟨.kilnT0, k, 0⟩ (s.wcount + 1), e] s

/-- A failed check: the denial, the command's completion code (R52), and ERR of the page where the check gives an INFO
(Table 09-6, DEDUCED, log entry 34). -/
def kilnFail (k op : Nat) (e : LErr) : Eff := fun s =>
  doAll [withSome e.den skip (fun d => deny 9 (s.kilnSag k none) d.1 d.2 k),
    whenE (fun _ => e.info.isSome) (recordW .kiln k ⟨e.code, e.info⟩),
    kilnFinish k op e.code 0] s

/-! ## LOAD -/

/-- GEOM of a kiln (Table 13-9). -/
def setGeom (k : Nat) (h : ImgHdr) : Eff := setReg .kiln k 0x100
  (BitVec.ofNat 64 (h.x0 + h.x1 * 2 ^ 8 + h.y0 * 2 ^ 16 + h.y1 * 2 ^ 24 + h.tileCnt % 65536 * 2 ^ 32))

/-- A kiln is EMPTY: its page names no rectangle, image, job or slot. DEDUCED, log entry 70. -/
def emptyRegs (k : Nat) : Eff :=
  doAll [setF fKilnState k 0, setReg .kiln k 0x100 0, setReg .kiln k 0x108 0, setReg .kiln k 0x110 0, setReg .kiln k 0x118 0,
    setReg .kiln k 0x130 0, setReg .kiln k 0x140 0, setF fInStep k 0, setF fRestart k 0]

/-- BUSY begins. -/
def setBusy (k op a : Nat) : Eff := doAll [setF fKilnBusy k 1, setF fBusyOp k op, setAx ⟨.kilnAddr, k, 0⟩ (a + 1)]

/-- LOAD: checks 1 to 3, the wake requests, checks 4 to 7; then it waits for its tiles. -/
def loadRun (k a : Nat) : Eff := fun s =>
  let h := s.img a
  match s.loadErr1 k h with
  | some e => kilnFail k 0x10 e s
  | none => doAll [forEach h.tiles (fun t => fun s => selftestStop (s.phys t) s), wakeRect h.tiles,
      match s.loadErr2 k h with
      | some e => kilnFail k 0x10 e
      | none => doAll [setGeom k h, setBusy k 0x10 a]] s

def loadSpec (k : Nat) (args : List W64) : CmdSpec := kilnSpec k 0x10 args (timed k (loadRun k (argN args 0).toNat))

def execLoad (c : CmdCtx) (inst : Nat) (args : List W64) (s : State) : Host.Outcome State Fault Refusal :=
  .next ((admitCmd c .kiln inst 0x10 args (loadSpec inst args)).run s)

/-- What another LOAD may have taken since the checks: rectangle, reservations, windows, contexts, feeds, bindings, peer
entries. -/
def State.loadErr3 (s : State) (k : Nat) (h : ImgHdr) (bounds : Bool) : Option LErr :=
  let rs := s.strmRecs h
  lFirst [s.rectErr k h, s.rsvErrL k h bounds,
    lIf (rs.any fun r => r.wins.any fun w => s.ax ⟨.winKiln, r.port, w⟩ ≠ 0) eSTATE,
    lIf ((s.bindCtx rs).length ≠ rs.length) eFULL,
    lIf ((s.bindFeed (s.feedRecs h)).length ≠ (s.feedRecs h).length) eARG,
    lIf ((s.glzRecs h).any fun g => s.on fGjobValid g.p && s.get fGjob g.p ≠ h.job) eSTATE,
    s.peersErr h]

/-- The tiles of an image are ON. -/
def State.tilesOn (s : State) (ts : List Nat) : Bool := ts.all fun t => s.ax ⟨.tilePwr, s.phys t, 0⟩ = 2

/-- KILN_LOAD_DONE: every tile is ON: what LOAD writes is written, and the kiln is LOADED. -/
def effKilnLoadDone (k : Nat) : Eff := fun s =>
  let h := s.img (s.ax ⟨.kilnAddr, k, 0⟩ - 1)
  if 256 ≤ k ∨ !s.on fKilnBusy k ∨ s.get fBusyOp k ≠ 0x10 ∨ !s.tilesOn h.tiles then [] else
  match s.loadErr3 k h true with
  | some e => doAll [clearBusy k, emptyRegs k, kilnFail k 0x10 e] s
  | none => doAll [loadWrite k h, setF fKilnState k 1, clearBusy k, setEvt .kiln k 0,
      kilnFinish k 0x10 eOK (BitVec.ofNat 64 h.tileCnt)] s

def execKilnLoadDone (k : Nat) (s : State) : Host.Outcome State Fault Refusal := .next ((effKilnLoadDone k).run s)

/-! ## START and arming (R353) -/

def startSpec (k : Nat) (args : List W64) : CmdSpec := kilnSpec k 0x11 args (timed k (setF fKilnState k 2))

def execStart (c : CmdCtx) (inst : Nat) (args : List W64) (s : State) : Host.Outcome State Fault Refusal :=
  .next ((admitCmd c .kiln inst 0x11 args (startSpec inst args)).run s)

/-- The credits of a kiln's feeders (R260, R307), its combine sets at step 0. DEDUCED, log entry 69. -/
def kilnCredits (k : Nat) : Eff := fun s =>
  let ps := (s.kilnTiles k).map s.phys
  doAll [forEach ps (fun p => doAll [
      forEach (List.range 5) (fun r => fun s => setF (fRouteCredit r) p (16 * s.get (fRouteCreditInit r) p) s),
      forEach (List.range 16) (fun c => fun s => doAll [setF (fCombSteps c) p 0, setF (fCombBroken c) p 0,
        setAx ⟨.combCredit, p, c⟩ (if s.on (fCombValid c) p && s.get (fCombOut c) p = 4 then 64 else 0)] s),
      forEach (List.range 6) (fun q => setAx ⟨.ringFreed, p, q⟩ 0)]),
    forEach (s.kilnFeeds k) (fun f => setAx ⟨.ringFreed, 36000 + f.1, f.2⟩ 0),
    fun _ => [.auxClear fun a => a.kind = .feedUsed && feedIn ps (s.kilnCtx k) a.a]] s

/-- Why arming fails: code, source, tile (R353, R406, R456). -/
def State.armErr (s : State) (k : Nat) : Option (Nat × Nat × Nat) :=
  let ts := s.kilnTiles k
  match ts.find? fun t => s.ax ⟨.tilePwr, s.phys t, 0⟩ = 2 && s.get fTileState (s.phys t) ≠ 0 with
  | some t => some (eSTATE, 0, t)
  | none =>
    if s.get fKFaultSrc k = 3 ∧ s.ax ⟨.kilnMoved, k, 0⟩ ≠ 0 then some (eFENCED, 3, getBits (s.rd .kiln k 0x128) 16 16)
    else match ts.find? s.hot with
      | some t => some (eTHERMAL, 3, t)
      | none => (ts.find? fun t => s.ax ⟨.tilePwr, s.phys t, 0⟩ ≠ 2).map fun t => (eSTATE, 0, t)

/-- KILN_ARMED: arming ends. -/
def effKilnArmed (k : Nat) : Eff := fun s =>
  if 256 ≤ k ∨ s.get fKilnState k ≠ 2 then [] else
  match s.armErr k with
  | some e => doAll [setFault k e.1 e.2.1 e.2.2 0, setF fKilnState k 6, setEvt .kiln k 4, kilnFinish k 0x11 e.1 0] s
  | none => doAll [kilnCredits k, setF fKilnState k 3, setF fRestart k 1, setEvt .kiln k 1, kilnFinish k 0x11 eOK 0] s

def execKilnArmed (k : Nat) (s : State) : Host.Outcome State Fault Refusal := .next ((effKilnArmed k).run s)

/-! ## STEP (R350, R354) -/

/-- Entry id of a job's bucket table as a bucket in COLLECT of step n (R312); its scale is taken as it is found.
DESIGN CHOICE, log entry 105. -/
def State.newBkt (s : State) (j tab id n : Nat) : Bkt :=
  let a := tab + 64 * id
  let w0 := s.st64 a
  let w1 := s.st64 (a + 8)
  { job := j, id := id, addr := a, chan := getBits w0 16 4, order := getBits w1 32 16, raw := getBits w0 20 1 = 1
    ef := getBits w0 21 1 = 1, resFmt := getBits w0 22 1, elems := getBits w0 32 32
    scale := getBits w1 (if n % 2 = 0 then 0 else 8) 8, stages := getBits w1 16 3, glaze := s.stNum (a + 40) 8 % 64
    step := n, state := 1, n := getBits w0 32 32 }

/-- The buckets of a job enter COLLECT; those that were FAILED or ABORTED leave that state (Table 11-8). -/
def openBkts (j tab n : Nat) : Eff := fun s =>
  let l := (List.range (s.stNum (tab + 16) 4)).map fun i => s.newBkt j (s.stNum (tab + 8) 8) i n
  doAll [forEach (s.pg.buckets.filter fun b => b.job = j && (b.state = 5 || b.state = 6)) lastDone,
    modPg fun g => { g with buckets := g.buckets.filter (fun b => b.job ≠ j) ++ l }, forEach l bktStatus] s

/-- The glaze units of a job enter UPDATING: hyperparameters read, counts of the step cleared (R335, Table 12-4). -/
def openGlaze (j n : Nat) : Eff := fun s =>
  let ps := s.jobGlaze j
  let hyper := ps.map fun p => (p, s.stRds (s.get fHyper p) (64 * (s.get fSets1 p + 1)))
  doAll [forEach ps (fun p => doAll [setF fGlzState p 1, setF fPGrad p 0, setF fPResult p 0]),
    modGl fun g => { g with
      ranges := g.ranges.filter fun r => !ps.contains r.port
      hyper := g.hyper.filter (fun x => !ps.contains x.1) ++ hyper
      tainted := g.tainted.filter fun p => !ps.contains p
      votes := g.votes.filter fun v => v.job ≠ j || n ≤ v.step },
    showVotes j n] s

/-- The records held for a step come in (R326, R379); their senders get the credit back. -/
def freeHeld (j n : Nat) : Eff := fun s =>
  let l := s.fb.held.filter fun m => m.num 0 1 = j && m.num 4 4 = n
  doAll [modFb fun b => { b with held := b.held.filter (fun m => !l.contains m), inbox := b.inbox ++ l },
    forEach ((l.map fun m => (m.port, m.src)).dedup) fun x => sendAck x.1 x.2 false 2 1] s

/-- A kiln of a job begins step n: its tiles start, its contexts run from their first entry (Table 10-8). -/
def kilnStepStart (k n : Nat) : Eff := fun s =>
  let restart := s.on fRestart k
  let ctxs := s.kilnCtx k
  let wins := s.kilnWins k
  doAll [whenE (fun _ => restart) (kilnCredits k), setF fInStep k 1, setF fRestart k 0, setF fKStep k n, setAx ⟨.kilnLast, k, 0⟩ n,
    forEach (s.kilnTiles k) (fun t => doAll [setF fOwnStep (s.phys t) n,
      if restart then tileStart t (s.phys t) n else tileStepStart t (s.phys t) n]),
    forEach ctxs (fun c => doAll [setF (fCtxState c.2) c.1 1, setF (fCtxIndex c.2) c.1 0]),
    forEach wins (fun w => setF (fWinState w.2) w.1 0),
    modSl fun l => { dropReads s.wcount (fun t => ctxs.contains (t.port, t.ctx)) (fun g => wins.contains (g.port, g.w)) l with
      glog := l.glog.filter fun g => g.kiln ≠ k }] s

/-- STEP. -/
def stepRun (k n : Nat) : Eff := fun s =>
  let j := s.get fKilnJob k
  let tab := s.get fJobtab k
  doAll [setAx ⟨.stepOpen, j, 0⟩ 1, setAx ⟨.stepNo, j, 0⟩ n, setAx ⟨.voted, j, 0⟩ 0, setAx ⟨.stepAborted, j, 0⟩ 0,
    openBkts j tab n, forEach (s.jobFeeds j) (fun f => doAll [setF (fFeedPos f.2) f.1 0]), openGlaze j n,
    forEach (s.jobKilns j) (fun x => kilnStepStart x n), freeHeld j n, kilnFinish k 0x12 eOK (BitVec.ofNat 64 n)] s

def stepSpec (k : Nat) (args : List W64) : CmdSpec := kilnSpec k 0x12 args (timed k (stepRun k (argN args 0).toNat))

def execStep (c : CmdCtx) (inst : Nat) (args : List W64) (s : State) : Host.Outcome State Fault Refusal :=
  .next ((admitCmd c .kiln inst 0x12 args (stepSpec inst args)).run s)

/-- A DRAINING kiln stops: its PARKED tiles go IDLE, STOP completes. -/
def kilnStops (k : Nat) : Eff := fun s =>
  doAll [forEach (s.kilnTiles k) (fun t => whenE (fun s => s.get fTileState (s.phys t) = 2) (setF fTileState (s.phys t) 0)),
    setF fKilnState k 5, setEvt .kiln k 3, kilnFinish k 0x13 eOK (BitVec.ofNat 64 (s.ax ⟨.kilnLast, k, 0⟩))] s

/-- KILN_STEP_BOUNDARY: every tile PARKED and every context DONE, or a DRAINING kiln outside a step (R354). -/
def effKilnStepBoundary (k : Nat) : Eff := fun s =>
  let st := s.get fKilnState k
  if 256 ≤ k ∨ !(st = 3 ∨ st = 4) then []
  else if s.on fInStep k then
    (if (s.kilnTiles k).all (fun t => s.get fTileState (s.phys t) = 2) ∧ (s.kilnCtx k).all (fun c => s.get (fCtxState c.2) c.1 = 3) then
      doAll [setF fInStep k 0, addSat fKSteps k 1, setEvt .kiln k 2, whenE (fun _ => st = 4) (kilnStops k),
        whenE (fun s => s.on fKilnJobValid k) (bareVote (s.get fKilnJob k))] s
    else [])
  else if st = 4 then kilnStops k s else []

def execKilnStepBoundary (k : Nat) (s : State) : Host.Outcome State Fault Refusal := .next ((effKilnStepBoundary k).run s)

/-! ## STOP, ABORT, UNLOAD -/

def stopSpec (k : Nat) (args : List W64) : CmdSpec := kilnSpec k 0x13 args (timed k (setF fKilnState k 4))

def execStop (c : CmdCtx) (inst : Nat) (args : List W64) (s : State) : Host.Outcome State Fault Refusal :=
  .next ((admitCmd c .kiln inst 0x13 args (stopSpec inst args)).run s)

/-- ABORT in each state (Table 13-2). -/
def abortRun (k : Nat) : Eff := fun s =>
  let st := s.get fKilnState k
  let j := s.get fKilnJob k
  if s.on fKilnBusy k then doAll [endBusy k eABORTED, timed k (kilnFinish k 0x14 eOK 0)] s
  else doAll [
    if st = 2 then doAll [setF fKilnState k 5, kilnFinish k 0x11 eABORTED 0]
    else if st = 3 ∨ st = 4 then doAll [setF fKilnState k 5, setF fInStep k 0, setF fRestart k 0,
      kilnFinish k 0x13 eOK (BitVec.ofNat 64 (s.ax ⟨.kilnLast, k, 0⟩)), flushKiln k, stepAbort j eABORTED]
    else if st = 6 then setF fKilnState k 5 else skip,
    setAx ⟨.kilnT0, k, 0⟩ (s.wcount + 1), abortDone k] s

def abortSpec (k : Nat) (args : List W64) : CmdSpec := kilnSpec k 0x14 args (abortRun k)

def execAbort (c : CmdCtx) (inst : Nat) (args : List W64) (s : State) : Host.Outcome State Fault Refusal :=
  .next ((admitCmd c .kiln inst 0x14 args (abortSpec inst args)).run s)

/-- UNLOAD (R355); a swapped-out kiln holds nothing but its slot. -/
def unloadRun (k : Nat) : Eff := fun s =>
  let j := s.get fKilnJob k
  doAll [whenE (fun s => s.get fKilnState k ≠ 7) (releaseKiln k), emptyRegs k, lastKiln j, kilnFinish k 0x17 eOK 0] s

def unloadSpec (k : Nat) (args : List W64) : CmdSpec := kilnSpec k 0x17 args (timed k (unloadRun k))

def execUnload (c : CmdCtx) (inst : Nat) (args : List W64) (s : State) : Host.Outcome State Fault Refusal :=
  .next ((admitCmd c .kiln inst 0x17 args (unloadSpec inst args)).run s)

/-! ## Swapping (R365–R367) -/

/-- The bytes of a tile's record in a swap slot, and of a slot. -/
def ImgHdr.swapRec (h : ImgHdr) : Nat := 512 * 64 + 64 * h.saveLines
def ImgHdr.swapBytes (h : ImgHdr) : Nat := h.tileCnt * h.swapRec

/-- SWAP_OUT of LOADED or STOPPED. -/
def swapOutRun (k a : Nat) : Eff := fun s =>
  let n := (s.kilnImg k).swapBytes
  match lFirst [lIf (!s.inRegionAny 6 a n) eARG, s.winErr k true a n] with
  | some e => kilnFail k 0x15 e s
  | none => doAll [setBusy k 0x15 a, setAx ⟨.kilnAddr, k, 1⟩ n] s

def swapOutSpec (k : Nat) (args : List W64) : CmdSpec := kilnSpec k 0x15 args (timed k (swapOutRun k (argN args 0).toNat))

def execSwapOut (c : CmdCtx) (inst : Nat) (args : List W64) (s : State) : Host.Outcome State Fault Refusal :=
  .next ((admitCmd c .kiln inst 0x15 args (swapOutSpec inst args)).run s)

/-- What a tile's record holds: the program bank, then the saved lines. -/
def State.swapData (s : State) (h : ImgHdr) (stopped : Bool) (t : Nat) : List Byte :=
  let p := s.phys t
  let bank := if stopped then s.get fActive p else 1 - s.get fActive p
  ((List.range 2048).flatMap fun i => leBytes 16 (s.slot p bank i).toNat) ++ s.spRds p h.saveBase (64 * h.saveLines)

/-- SWAP_OUT_DONE: every write of the slot is acknowledged. -/
def effSwapOutDone (k : Nat) : Eff := fun s =>
  if 256 ≤ k ∨ !s.on fKilnBusy k ∨ s.get fBusyOp k ≠ 0x15 then [] else
  let a := s.ax ⟨.kilnAddr, k, 0⟩ - 1
  let h := s.kilnImg k
  let stopped := s.get fKilnState k = 5
  let bad := (s.kilnTiles k).any fun t => s.badIn (s.phys t) fun x => h.saveBase ≤ x && x < h.saveBase + 64 * h.saveLines
  match lFirst [lIf bad eECC_UE, (s.storeWrErr a h.swapBytes).map fun e => ⟨e.1, some e.2, none⟩] with
  | some e => doAll [slotLost k, clearBusy k, kilnFail k 0x15 e] s
  | none => doAll [forEach (s.kilnTiles k).zipIdx (fun x => storeWrite (a + x.2 * h.swapRec) (s.swapData h stopped x.1)),
      releaseKiln k, setF fKilnState k 7, setAx ⟨.kilnMoved, k, 0⟩ 0,
      setReg .kiln k 0x130 (BitVec.ofNat 64 (a + 2 ^ 48 + (if stopped then 2 ^ 49 else 0))), clearBusy k, setEvt .kiln k 5,
      kilnFinish k 0x15 eOK (BitVec.ofNat 64 h.swapBytes)] s

def execSwapOutDone (k : Nat) (s : State) : Host.Outcome State Fault Refusal := .next ((effSwapOutDone k).run s)

/-- SWAP_IN: check 3 of R364, then the wake requests (R366, R452). -/
def swapInRun (k : Nat) : Eff := fun s =>
  let h := s.kilnImg k
  match lFirst [s.winErr k false h.a h.bytes, s.winErr k false (s.get fSwapSlot k) h.swapBytes, s.rectErr k h] with
  | some e => kilnFail k 0x16 e s
  | none => doAll [forEach h.tiles (fun t => fun s => selftestStop (s.phys t) s), wakeRect h.tiles,
      match s.rsvErrL k h (s.ax ⟨.kilnMoved, k, 0⟩ ≠ 0) with
      | some e => kilnFail k 0x16 e
      | none => setBusy k 0x16 (s.get fSwapSlot k)] s

def swapInSpec (k : Nat) (args : List W64) : CmdSpec := kilnSpec k 0x16 args (timed k (swapInRun k))

def execSwapIn (c : CmdCtx) (inst : Nat) (args : List W64) (s : State) : Host.Outcome State Fault Refusal :=
  .next ((admitCmd c .kiln inst 0x16 args (swapInSpec inst args)).run s)

/-- A tile's record read back: its bank into the role it was saved from, its lines. -/
def swapTile (h : ImgHdr) (a : Nat) (stopped : Bool) (t : Nat) : Eff := fun s =>
  let p := s.phys t
  doAll [imemLoad p (if stopped then s.get fActive p else 1 - s.get fActive p) a 2048, setF fShadowReady p (if stopped then 0 else 1),
    spWr p h.saveBase (s.stRds (a + 32768) (64 * h.saveLines))] s

/-- SWAP_IN_DONE: the tiles are ON, and every record has been read back. -/
def effSwapInDone (k : Nat) : Eff := fun s =>
  let h := s.kilnImg k
  if 256 ≤ k ∨ !s.on fKilnBusy k ∨ s.get fBusyOp k ≠ 0x16 ∨ !s.tilesOn h.tiles then [] else
  let a := s.ax ⟨.kilnAddr, k, 0⟩ - 1
  let stopped := s.on fFromStopped k
  match lFirst [s.loadErr3 k h (s.ax ⟨.kilnMoved, k, 0⟩ ≠ 0),
      lIf (s.badBursts a h.swapBytes ≠ []) eECC_UE ((s.badBursts a h.swapBytes).head?.map fun b => storeInfo (b * 32))] with
  | some e => doAll [clearBusy k, kilnFail k 0x16 e] s
  | none => doAll [forEach h.tiles.zipIdx (fun x => doAll [loadRegs k h x.2 x.1, swapTile h (a + x.2 * h.swapRec) stopped x.1]),
      bindPlans k h, setAx ⟨.kilnMoved, k, 0⟩ 0, setF fKilnState k (if stopped then 5 else 1), setF fKilnSwap k 0, clearBusy k,
      kilnFinish k 0x16 eOK (BitVec.ofNat 64 h.swapBytes)] s

def execSwapInDone (k : Nat) (s : State) : Host.Outcome State Fault Refusal := .next ((effSwapInDone k).run s)

end Sys2Proof.Machine
end

