-- ==== Sys2Proof/Machine/Crack.lean ====
section
/-! DEFINITION. The crack map, its deaths and its flash copies (R395–R407, R421, R422), pairing and promotion
(R410–R416), the wedged module (R418, R419). -/

namespace Sys2Proof.Machine

/-! ## The map -/

def fMapState : Fld := ⟨.crack, 0x018, 0, 2⟩
def fFlashCode : Fld := ⟨.crack, 0x128, 40, 8⟩
def fAutoShift : Fld := ⟨.crack, 0x010, 0, 1⟩
def fAutoPersist : Fld := ⟨.crack, 0x010, 1, 1⟩
def fUpdating : Fld := ⟨.mgmt, 0x108, 32, 1⟩
def fGen : Fld := ⟨.mgmt, 0x108, 0, 32⟩
def fBootPhase : Fld := ⟨.mgmt, 0x110, 0, 8⟩
def fBootCode : Fld := ⟨.mgmt, 0x110, 8, 8⟩

/-- The stored entry of a physical tile: bits [9:0] of Table 15-1. -/
def State.crackOf (s : State) (p : Nat) : Nat := fget (fun _ => 0) s.ft.crack p

/-- An entry written. -/
def putEntry (p v : Nat) : Eff := modFt fun f => { f with crack := fset id (fun _ => 0) f.crack p v }

/-- R397: a sequence number is newer than another. -/
def seqNewer (x y : Nat) : Bool :=
  let d := (x + 0xFFFFFFFE - y) % 0xFFFFFFFE
  1 ≤ d && d ≤ 0x7FFFFFFF

/-- The newer of two copies: 0 copy A, 1 copy B; none when neither is valid (R397, R466). -/
def newestOf (a b : FlashCopy) : Option Nat :=
  if a.valid && b.valid then some (if seqNewer b.seq a.seq then 1 else 0)
  else if a.valid then some 0 else if b.valid then some 1 else none

def FaultSt.newest (f : FaultSt) : Option Nat := newestOf f.copyA f.copyB

/-- The newest crack-map copy. -/
def FaultSt.newCopy (f : FaultSt) : Option FlashCopy := f.newest.map fun x => if x = 0 then f.copyA else f.copyB

/-- PENDING: the entry differs from the newest copy's. -/
def State.crackPending (s : State) (p : Nat) : Bool :=
  match s.ft.newCopy with
  | some c => fget (fun _ => 0) c.entries p ≠ s.crackOf p
  | none => s.crackOf p ≠ 0

/-- ENTRY_DATA (Table 15-12) of a physical tile. -/
def State.entryView (s : State) (p : Nat) : W64 := BitVec.ofNat 64
  (s.crackOf p + (if s.crackPending p then 2 ^ 10 else 0) +
   (match s.geo.carries p with
    | some t => t * 2 ^ 32 + 2 ^ 48
    | none => 0xFFFF * 2 ^ 32))

/-! ## Row segments (R11, R403, Table 01-11) -/

/-- The segment of a physical index, its first physical index, the local column. -/
def segOf (p : Nat) : Nat := p / 200 * 8 + p % 200 / 25
def colOf (p : Nat) : Nat := p % 25
def segPhys (n col : Nat) : Nat := n / 8 * 200 + n % 8 * 25 + col

/-- The first logical tile of a segment. -/
def segTile (n : Nat) : Nat := n / 8 * 192 + n % 8 * 24

/-- A death at a local column (Table 15-4). -/
def SegInfo.after (i : SegInfo) (col : Nat) : SegInfo :=
  match i.state with
  | 0 => if col < 24 then ⟨1, col, 0⟩ else ⟨2, 24, 0⟩
  | 1 => ⟨3, i.dead, col⟩
  | 2 => ⟨3, 24, col⟩
  | _ => i

/-- A segment's state in a map, put in one form: a NORMAL segment is not listed. -/
def GeoMap.setSeg (g : GeoMap) (n : Nat) (i : SegInfo) : GeoMap :=
  { g with segs := fset id (fun _ => (⟨0, 0, 0⟩ : SegInfo)) g.segs n i }

/-- A segment built from its dead columns, lowest first (Table 01-11). -/
def segFrom : List Nat → SegInfo
  | [] => ⟨0, 0, 0⟩
  | [d] => if d < 24 then ⟨1, d, 0⟩ else ⟨2, 24, 0⟩
  | d :: e :: _ => ⟨3, d, e⟩

/-- The dead columns of a segment by the crack map and the routers still taken as dead. -/
def State.deadCols (s : State) (n : Nat) : List Nat := (List.range 25).filter fun c =>
  s.crackOf (segPhys n c) % 256 ≠ 0 || s.geoLive.deadRouters.contains (segPhys n c)

/-- The map the whole crack map gives (R11, R396): at power-on and module reset. -/
def State.builtMap (s : State) : GeoMap :=
  let dead := s.ft.crack.filter fun e => e.2 % 256 ≠ 0
  let segs := (dead.map fun e => segOf e.1).dedup
  let g : GeoMap := { deadRouters := (dead.filter fun e => 64 ≤ e.2 % 256).map fun e => e.1 }
  segs.foldl (fun g n => g.setSeg n (segFrom ((List.range 25).filter fun c => s.crackOf (segPhys n c) % 256 ≠ 0))) g

/-- The segments two maps differ in. -/
def GeoMap.diff (a b : GeoMap) : List Nat :=
  ((a.segs.map fun e => e.1) ++ b.segs.map fun e => e.1).dedup.filter fun n => a.seg n ≠ b.seg n

/-- SHIFT_PEND: segments with a shift not yet published (a spare's death moves nothing). DEDUCED, log entry 121. -/
def State.pendSegs (s : State) : List Nat :=
  (s.geo.diff s.geoLive).filter fun n => !((s.geo.seg n).state = 0 && (s.geoLive.seg n).state = 2)

/-- The logical tiles a map's change moves or takes out of use. -/
def movedTiles (old new : GeoMap) : List Nat := (old.diff new).flatMap fun n =>
  ((List.range 24).map fun i => segTile n + i).filter fun t => old.phys t ≠ new.phys t || old.outOfUse t ≠ new.outOfUse t

/-! ## The clock tree (R405, R440) -/

/-- The neighbour of a physical index: 0 north, 1 east, 2 south, 3 west. -/
def nbr (p d : Nat) : Option Nat :=
  let x := p % 200
  let y := p / 200
  match d with
  | 0 => if y = 0 then none else some (p - 200)
  | 1 => if x = 199 then none else some (p + 1)
  | 2 => if y = 179 then none else some (p + 200)
  | _ => if x = 0 then none else some (p - 1)

/-- The neighbours of a repeater in order N, E, S, W. -/
def nbrs (p : Nat) : List Nat := (List.range 4).filterMap (nbr p)

/-- A tree entry: parent and standby as directions + 1 (0 none), in use. -/
def treePar (v : Nat) : Nat := v % 8
def treeStb (v : Nat) : Nat := v / 8 % 8
def treeUse (v : Nat) : Nat := v / 64
def treeSrc (p v : Nat) : Option Nat :=
  let d := if treeUse v = 0 then treePar v else treeStb v
  if d = 0 then none else nbr p (d - 1)

/-- What the loss of repeaters' clocks leads to: the repeaters that switch to their standby parent, and those left
without a clock; `live` says which repeaters live, `gone` and `moved` gather the results. -/
def orphans (tree : FMap Nat Nat) (live : Nat → Bool) : Nat → List Nat → List Nat → List Nat → List Nat × List Nat
  | 0, _, gone, moved => (gone, moved)
  | _ + 1, [], gone, moved => (gone, moved)
  | fuel + 1, p :: todo, gone, moved =>
    let kids := (nbrs p).filter fun q => live q && !gone.contains q &&
      (let v := fget (fun _ => 0) tree q
       let v := if moved.contains q then v % 64 + 64 else v
       treeSrc q v = some p)
    let sw := kids.filter fun q =>
      let v := fget (fun _ => 0) tree q
      treeUse v = 0 && !moved.contains q && (match treeStb v with
        | 0 => false
        | d => match nbr q (d - 1) with
          | some r => live r && !gone.contains r && r ≠ p
          | none => false)
    let die := kids.filter fun q => !sw.contains q
    orphans tree live fuel (todo ++ die) (gone ++ die) (moved ++ sw)

def fOnStandby : Fld := ⟨.clk, 0x110, 24, 16⟩
def fUnclocked : Fld := ⟨.clk, 0x110, 40, 16⟩

/-! ## Deaths (R398, R400–R403) -/

def fDeathCount : Fld := ⟨.crack, 0x148, 0, 32⟩
def fDeathEvent : Fld := ⟨.crack, 0x118, 28, 1⟩

/-- DEATH_LAST; its EVENT sequence number is filled in when the event is admitted. -/
def deathLast (p cause bits : Nat) : Eff := fun s =>
  let ev := s.on (fEvtEn .crack 0) 0 && !s.on (fEvt .crack 0) 0
  setReg .crack 0 0x118 (BitVec.ofNat 64 (p % 65536 + cause % 16 * 2 ^ 16 + bits % 256 * 2 ^ 20 +
    (if ev then 2 ^ 28 else (s.seq % 2 ^ 32) * 2 ^ 32))) s

/-- The logical tiles that fault their kilns at a death at physical index p (Table 15-4, R404). -/
def State.deathTiles (s : State) (p : Nat) : List Nat :=
  let n := segOf p
  let all := (List.range 24).map fun i => segTile n + i
  let own := (s.geo.carries p).toList
  let i := s.geoLive.seg n
  if !s.on fAutoShift 0 then own
  else match i.state with
    | 0 => if colOf p < 24 then all.drop (colOf p) else []
    | 1 => if i.dead = colOf p then [] else all
    | 2 => if colOf p = 24 then [] else all
    | _ => []

/-- R403, R406: a death's effect on a kiln. -/
def kilnDeath (k tile : Nat) : Eff := fun s =>
  let st := s.get fKilnState k
  doAll [if s.on fKilnBusy k ∨ st = 3 ∨ st = 4 then kilnFault k eFENCED 3 tile 0 else setFault k eFENCED 3 tile 0,
    whenE (fun s => s.get fKilnState k = 1 || s.get fKilnState k = 5 || s.get fKilnState k = 6)
      (setFault k eFENCED 3 tile 0),
    setAx ⟨.kilnMoved, k, 0⟩ 1] s

/-- Bits of an entry found dead; nothing where they are set already. -/
def death1 (p bits cause origin : Nat) : Eff := fun s =>
  let e := s.crackOf p
  let new := bits % 256 &&& (255 - e % 256)
  if new = 0 then [] else
  let fresh := e % 256 = 0 && !s.geoLive.deadRouters.contains p
  let ts := if fresh then s.deathTiles p else []
  let tile := (s.geo.carries p).getD (segTile (segOf p))
  let ks := kilns256.filter fun k => s.kilnTakes k && ts.any (s.inRect k)
  let segNew := (s.geoLive.seg (segOf p)).after (colOf p)
  doAll [putEntry p ((e % 256 ||| new) + origin * 256), addSat fDeathCount 0 1, deathLast p cause new, setEvt .crack 0 0,
    forEach ks (fun k => kilnDeath k tile), selftestEnd p, tileLost p, setAx ⟨.tilePwr, p, 0⟩ 3,
    modPw (fun w => { w with wakes := w.wakes.filter fun t => s.phys t ≠ p, waking := w.waking.filter fun t => s.phys t ≠ p }),
    fun s => [.geoLive
      (let g := if 64 ≤ new && !s.geoLive.deadRouters.contains p then
          { s.geoLive with deadRouters := s.geoLive.deadRouters ++ [p] } else s.geoLive
       if fresh then g.setSeg (segOf p) segNew else g)],
    whenE (fun _ => fresh && (s.geoLive.seg (segOf p)).state ≠ 3 && segNew.state = 3) (setEvt .crack 0 2),
    setAx ⟨.persistDue, 0, 0⟩ 1,
    whenE (fun s => !s.on fAutoShift 0 && s.pendSegs = [] && s.geoLive ≠ s.geo) (setAx ⟨.geoDue, 0, 0⟩ 1)] s

/-- A death, and those of the repeaters it leaves without a clock (R405, cause 8). -/
def death (p bits cause origin : Nat) : Eff := fun s =>
  let lost := bits % 256 / 128 = 1 && s.crackOf p % 256 / 128 = 0
  let live (q : Nat) : Bool := q ≠ p && s.crackOf q % 256 / 128 = 0
  let r := if lost then orphans s.ft.tree live 36000 [p] [] [] else ([], [])
  doAll [death1 p bits cause origin,
    forEach r.2 (fun q => doAll [
      modFt (fun f => { f with tree := fset id (fun _ => 0) f.tree q (fget (fun _ => 0) f.tree q % 64 + 64) }),
      addSat fOnStandby 0 1, setEvt .clk 0 2]),
    forEach r.1 (fun q => doAll [death1 q 0x80 8 2, addSat fUnclocked 0 1])] s

/-- Detection runs: the module is READY, and neither held, tripped nor wedged. -/
def State.detects (s : State) : Bool := s.ready && s.fabLive

/-- A tile's compute lane is ON. -/
def State.physOn (s : State) (p : Nat) : Bool := p < 36000 && s.ax ⟨.tilePwr, p, 0⟩ = 2

/-- COMPUTE_WATCHDOG (cause 1). -/
def effComputeWatchdog (p : Nat) : Eff :=
  whenE (fun s => s.detects && s.physOn p && s.get fTileState p ≠ 0 && s.get fTileState p ≠ 2) (death p 0x20 1 2)

def execComputeWatchdog (phys : Nat) (s : State) : Host.Outcome State Fault Refusal := .next ((effComputeWatchdog phys).run s)

/-- CORE_RESIDUE_MISMATCH (cause 2). -/
def effCoreResidue (p c : Nat) : Eff := whenE (fun s => s.detects && s.physOn p && c < 4) (death p (2 ^ (c % 4)) 2 2)

def execCoreResidueMismatch (phys core : Nat) (s : State) : Host.Outcome State Fault Refusal :=
  .next ((effCoreResidue phys core).run s)

/-- VEC_RESIDUE_MISMATCH (cause 3). -/
def effVecResidue (p : Nat) : Eff := whenE (fun s => s.detects && s.physOn p) (death p 0x10 3 2)

def execVecResidueMismatch (phys : Nat) (s : State) : Host.Outcome State Fault Refusal := .next ((effVecResidue phys).run s)

/-- NEIGHBOUR_WATCH_EXPIRE (cause 4). -/
def effNeighbourWatch (p : Nat) : Eff := whenE (fun s => s.detects && p < 36000) (death p 0x40 4 2)

def execNeighbourWatchExpire (phys : Nat) (s : State) : Host.Outcome State Fault Refusal :=
  .next ((effNeighbourWatch phys).run s)

/-- REPEATER_CLOCK_LOSS (cause 5). -/
def effRepeaterLoss (p : Nat) : Eff := whenE (fun s => s.detects && p < 36000) (death p 0x80 5 2)

def execRepeaterClockLoss (phys : Nat) (s : State) : Host.Outcome State Fault Refusal := .next ((effRepeaterLoss phys).run s)

/-! ## ENTRY_DATA (R399, R422) -/

def fEntrySel : Fld := ⟨.crack, 0x100, 0, 16⟩
def fEntryInc : Fld := ⟨.crack, 0x100, 16, 1⟩

/-- AUTO_INC of ENTRY_SEL. -/
def entryAdvance : Eff := whenE (fun s => s.on fEntryInc 0)
  (look (fun s => s.get fEntrySel 0) fun p => setF fEntrySel 0 ((p + 1) % 36000))

/-- A clear of a CORE, VEC or BASE bit meets a kiln on the segment (R399). -/
def State.entryHeld (s : State) (p clr : Nat) : Bool :=
  clr % 64 ≠ 0 && kilns256.any fun k => s.kilnTakes k && (List.range 24).any fun i => s.inRect k (segTile (segOf p) + i)

/-- A root write of bits [7:0] of an entry; while the module is wedged it is only recorded (Table 15-9). -/
def entryWrite (p v : Nat) : Eff := fun s =>
  let e := s.crackOf p % 256
  let clr := e &&& (255 - v % 256)
  let set := v % 256 &&& (255 - e)
  if clr = 0 ∧ set = 0 then []
  else if s.wedged then putEntry p (if v % 256 = 0 then 0 else v % 256 + 3 * 256) s
  else doAll [
    whenE (fun _ => clr ≠ 0) (putEntry p (if e - clr = 0 then 0 else e - clr + 3 * 256)),
    whenE (fun _ => clr % 64 ≠ 0) (fun s => [.geoLive (s.geoLive.setSeg (segOf p) (segFrom (s.deadCols (segOf p)))),
      .aux ⟨.geoDue, 0, 0⟩ 1]),
    whenE (fun _ => set ≠ 0) (death p set 7 3)] s

/-- ENTRY_DATA_WRITE. -/
def effEntryDataWrite (src : Src) (v : W64) : Eff :=
  regWrite src .crack 0 0x108 8
    (fun root s =>
      let p := s.get fEntrySel 0
      let e := s.crackOf p % 256
      firstErr [errIf (!root) eSAGGAR, errIf (!s.wedged && s.entryHeld p (e &&& (255 - getBits v 0 8))) eSTATE])
    (fun _ => doAll [look (fun s => s.get fEntrySel 0) fun p => entryWrite p (getBits v 0 8), entryAdvance])

def execEntryDataWrite (src : Src) (v : W64) (s : State) : Host.Outcome State Fault Refusal :=
  .next ((inTurn src (.entryDataWrite src v) (effEntryDataWrite src v)).run s)

/-- ENTRY_DATA_READ. -/
def effEntryDataRead : Eff := fun s =>
  if s.held then [] else doAll [emit (.readData (s.entryView (s.get fEntrySel 0))), entryAdvance] s

def execEntryDataRead (s : State) : Host.Outcome State Fault Refusal := .next (effEntryDataRead.run s)

/-! ## Persisting (R398, R421) -/

/-- SEQ of the next copy. -/
def FaultSt.nextSeq (f : FaultSt) : Nat :=
  match f.newCopy with
  | some c => if c.seq = 0xFFFFFFFE then 1 else c.seq + 1
  | none => 1

/-- A persist starts: the copy that is not the newest is erased and programmed. -/
def persistStart : Eff := fun s =>
  let x := match s.ft.newest with | some 0 => 1 | _ => 0
  let c : FlashCopy := ⟨false, s.ft.nextSeq, s.ft.crack⟩
  doAll [modFt (fun f => if x = 0 then { f with copyA := c } else { f with copyB := c }),
    setF fMapState 0 2, setAx ⟨.persist, 0, 0⟩ (1 + x)] s

/-- PERSIST. -/
def persistSpec (args : List W64) : CmdSpec where
  argBad _ := !argsZeroFrom args 0
  blocked s := if s.get fMapState 0 = 2 then some eSTATE else none
  run _ := persistStart

def effPersist (c : CmdCtx) (args : List W64) : Eff := admitCmd c .crack 0 0x13 args (persistSpec args)

def execPersist (c : CmdCtx) (args : List W64) (s : State) : Host.Outcome State Fault Refusal :=
  .next ((effPersist c args).run s)

/-- PERSIST_GO. -/
def effPersistGo (src : Src) (v : W64) : Eff :=
  regWrite src .crack 0 0x150 8
    (fun root s => firstErr [errIf (!root) eSAGGAR, errIf (getBits v 0 1 = 1 && s.get fMapState 0 = 2) eSTATE])
    (fun _ => whenE (fun _ => getBits v 0 1 = 1) persistStart)

def execPersistGo (src : Src) (v : W64) (s : State) : Host.Outcome State Fault Refusal :=
  .next ((inTurn src (.persistGo src v) (effPersistGo src v)).run s)

/-- AUTO_PERSIST: a publication that includes a new death has been made. -/
def effAutoPersist : Eff :=
  whenE (fun s => s.detects && s.on fAutoPersist 0 && s.ax ⟨.persistDue, 2, 0⟩ ≠ 0 && s.get fMapState 0 ≠ 2)
    (doAll [setAx ⟨.persistDue, 2, 0⟩ 0, persistStart])

def execAutoPersist (s : State) : Host.Outcome State Fault Refusal := .next (effAutoPersist.run s)

/-- PERSIST_DONE. DEDUCED, log entry 72. -/
def effPersistDone (ok : Bool) : Eff := fun s =>
  let x := s.ax ⟨.persist, 0, 0⟩
  if s.get fMapState 0 ≠ 2 ∨ x = 0 then [] else
  let v (c : FlashCopy) : FlashCopy := { c with valid := ok }
  let seq := if x = 1 then s.ft.copyA.seq else s.ft.copyB.seq
  doAll [modFt (fun f => if x = 1 then { f with copyA := v f.copyA } else { f with copyB := v f.copyB }),
    setAx ⟨.persist, 0, 0⟩ 0, setF fFlashCode 0 (if ok then eOK else eTIMEOUT),
    look (fun s => s.ft.newest) (fun n => setF fMapState 0 (if n = none then 3 else 1)),
    if ok then doAll [setEvt .crack 0 3, finishAll .crack 0 0x13 eOK (BitVec.ofNat 64 seq)]
    else doAll [recordErr .crack 0 eTIMEOUT (x - 1), finishAll .crack 0 0x13 eTIMEOUT 0]] s

def execPersistDone (ok : Bool) (s : State) : Host.Outcome State Fault Refusal := .next ((effPersistDone ok).run s)

/-! ## SHIFT (R404) -/

/-- A kiln holding a tile a pending shift moves is STARTING, RUNNING, DRAINING or BUSY. -/
def State.shiftBlocked (s : State) : Bool :=
  let ts := movedTiles s.geo s.geoLive
  kilns256.any fun k => s.kilnTakes k && ts.any (s.inRect k) &&
    (s.on fKilnBusy k || (2 ≤ s.get fKilnState k && s.get fKilnState k ≤ 4))

/-- SHIFT: it completes with the publication that takes its segments, at once when none is pending. -/
def shiftRun (r : Running) : Eff := fun s =>
  if s.pendSegs = [] then finish r eOK 0 s
  else doAll [setAx ⟨.geoDue, 0, 0⟩ 1, setAx ⟨.shiftDue, 0, 0⟩ (s.ax ⟨.shiftDue, 0, 0⟩ + 1)] s

def shiftSpec (args : List W64) : CmdSpec where
  argBad _ := !argsZeroFrom args 0
  blocked s := if s.shiftBlocked then some eSTATE else none
  run := shiftRun

def effShift (c : CmdCtx) (args : List W64) : Eff := admitCmd c .crack 0 0x14 args (shiftSpec args)

def execShift (c : CmdCtx) (args : List W64) (s : State) : Host.Outcome State Fault Refusal :=
  .next ((effShift c args).run s)

/-- SHIFT_PUBLISH: with AUTO_SHIFT = 1 a change that no build holds falls due once the kilns its deaths faulted have
flushed. -/
def effShiftPublish : Eff :=
  whenE (fun s => s.detects && s.on fAutoShift 0 && s.geoLive ≠ (if s.on fUpdating 1 then s.geoNext else s.geo) &&
      s.ax ⟨.geoDue, 0, 0⟩ = 0 &&
      !(kilns256.any fun k => s.get fKilnState k = 6 && s.get fKFaultSrc k = 3 &&
        (s.kilnTiles k).any fun t => s.get fTileState (s.phys t) = 6))
    (setAx ⟨.geoDue, 0, 0⟩ 1)

def execShiftPublish (s : State) : Host.Outcome State Fault Refusal := .next (effShiftPublish.run s)

/-! ## Pairing (R411, R412) -/

/-- MAPSIG. -/
def State.mapSig (s : State) : Nat := crc32c (ports48.flatMap fun p => (List.range 8).flatMap fun r =>
  leBytes 8 (s.rd .slip p (0x140 + 8 * r)).toNat)

/-- The payload of PAIR and PAIR_ACK (Table 15-7). -/
def State.pairBytes (s : State) (mode role : Nat) : List Byte :=
  leBytes 1 mode ++ leBytes 1 role ++ leBytes 2 s.self ++ leBytes 4 s.mapSig ++ leBytes 1 s.grade ++ leBytes 7 0

/-- MODE and ROLE of the PAIR that runs. -/
def State.pairMode (s : State) : Nat × Nat :=
  match (s.runningOf .crack 0 0x10).head? with
  | some r => (getBits (argN r.args 0) 0 2, getBits (argN r.args 0) 2 1)
  | none => (0, 0)

/-- The size rule of R411. -/
def State.mirrorFits (s : State) : Bool := ports48.all fun p =>
  s.get (fMapSize 0) p ≤ s.get (fMapSize 2) p && s.get (fMapSize 1) p ≤ s.get (fMapSize 3) p

/-- A message to the L0 peer in class 0. -/
def sendPartner (typ : Nat) (data : List Byte) : Eff := fun s =>
  match s.boardPeer 16 with
  | some x => sendMsg 16 x.module_ false 0 typ data s
  | none => []

/-- The handshake's marks cleared. -/
def pairReset : Eff := doAll [setAx ⟨.pairHeld, 0, 0⟩ 0, setAx ⟨.pairAckIn, 0, 0⟩ 0, setAx ⟨.pairAckOut, 0, 0⟩ 0]

/-- Pairing fails. DEDUCED, log entry 73. -/
def pairFail (code : Nat) : Eff := doAll [setF fPartnerState 0 0, pairReset, finishAll .crack 0 0x10 code 0]

/-- Word 0 of the peer's PAIR, as held. -/
def State.peerPair (s : State) : W64 × W64 :=
  (BitVec.ofNat 64 (s.ax ⟨.pairWord, 0, 0⟩), BitVec.ofNat 64 (s.ax ⟨.pairWord, 1, 0⟩))

/-- The peer's PAIR agrees with this module's (R411). -/
def State.pairMatch (s : State) : Bool :=
  let w := s.peerPair
  let m := s.pairMode
  getBits w.1 0 8 = m.1 && (if m.1 = 1 then getBits w.1 8 8 = 0 && m.2 = 0 else getBits w.1 8 8 + m.2 = 1) &&
    getBits w.1 32 32 = s.mapSig && getBits w.2 0 8 = s.grade

/-- Pairing ends once PAIR_ACK has left and has come. -/
def pairEnd : Eff := fun s =>
  if s.ax ⟨.pairAckIn, 0, 0⟩ = 0 ∨ s.ax ⟨.pairAckOut, 0, 0⟩ = 0 then [] else
  let m := s.pairMode
  let id := getBits s.peerPair.1 16 12
  doAll [setF fPartnerState 0 2, setF fPmode 0 m.1, setF fRole 0 m.2, setF fPartnerId 0 id, pairReset,
    forEach ports48 (fun p => whenE (fun s => s.on fGjobValid p) (setF fMstate p 2)),
    setEvt .crack 0 4, finishAll .crack 0 0x10 eOK 0] s

/-- The peer's PAIR is held while this module pairs: it is answered, or the pairing fails. -/
def pairTry : Eff := fun s =>
  if s.get fPartnerState 0 ≠ 1 ∨ s.ax ⟨.pairHeld, 0, 0⟩ = 0 then []
  else if !s.pairMatch then pairFail eARG s
  else doAll [sendPartner 0x41 (s.pairBytes s.pairMode.1 s.pairMode.2), setAx ⟨.pairAckOut, 0, 0⟩ 1, pairEnd] s

/-- PAIR. -/
def pairRun (a : W64) : Eff := fun s =>
  if !s.mirrorFits then finishAll .crack 0 0x10 eARG 0 s
  else doAll [setF fPartnerState 0 1, sendPartner 0x40 (s.pairBytes (getBits a 0 2) (getBits a 2 1)), pairTry] s

def pairSpec (args : List W64) : CmdSpec where
  argBad _ :=
    let a := argN args 0
    let mode := getBits a 0 2
    mode = 0 || mode = 3 || (mode = 1 && getBits a 2 1 = 1) || getBits a 3 61 ≠ 0 || !argsZeroFrom args 1
  blocked s := if s.get fPartnerState 0 ≠ 0 ∨ !s.lkUp 16 then some eSTATE else none
  run _ := pairRun (argN args 0)

def execPair (c : CmdCtx) (args : List W64) (s : State) : Host.Outcome State Fault Refusal :=
  .next ((admitCmd c .crack 0 0x10 args (pairSpec args)).run s)

/-- PAIR_RECEIVE: held while PSTATE is NONE or PAIRING; a later state gives it no answer. -/
def effPairReceive : Eff := withMsg 16 0x40 fun m =>
  whenE (fun s => s.get fPartnerState 0 ≤ 1)
    (doAll [setAx ⟨.pairHeld, 0, 0⟩ 1, setAx ⟨.pairWord, 0, 0⟩ (m.num 0 8), setAx ⟨.pairWord, 1, 0⟩ (m.num 8 8), pairTry])

def execPairReceive (s : State) : Host.Outcome State Fault Refusal := .next (effPairReceive.run s)

/-- PAIR_ACK. -/
def effPairAck : Eff := withMsg 16 0x41 fun _ =>
  whenE (fun s => s.get fPartnerState 0 = 1) (doAll [setAx ⟨.pairAckIn, 0, 0⟩ 1, pairEnd])

def execPairAck (s : State) : Host.Outcome State Fault Refusal := .next (effPairAck.run s)

/-- PAIR_TIMEOUT. -/
def effPairTimeout : Eff := whenE (fun s => s.get fPartnerState 0 = 1) (pairFail eTIMEOUT)

def execPairTimeout (s : State) : Host.Outcome State Fault Refusal := .next (effPairTimeout.run s)

/-- The pair ends on this module: PARTNER reads NONE, the mirrors are NONE, the alias ends. -/
def unpairClear : Eff := fun s =>
  doAll [setReg .crack 0 0x138 0,
    forEach (((ports48.filter fun p => s.get fMstate p = 3).map fun p => s.get fGjob p).dedup)
      (fun j => forEach (s.syncRuns j) fun r => finish r eABORTED 0),
    forEach ports48 (fun p => setF fMstate p 0),
    modGl (fun g => { g with mirrorQ := [], flips := [] }),
    modFb fun b => { b with peers := b.peers.filter fun x => !x.alias_, serves := b.serves.filter fun v => !v.alias_
                            inbox := b.inbox.filter fun m => !m.alias_ }] s

/-- UNPAIR: it waits for UNPAIR_ACK where the pair stands and L0 is UP. -/
def unpairRun (r : Running) : Eff := fun s =>
  let wait := s.get fPartnerState 0 = 2 && s.lkUp 16
  doAll [unpairClear, if wait then sendPartner 0x42 (leBytes 2 s.self ++ leBytes 14 0) else finish r eOK 0] s

def unpairSpec (args : List W64) : CmdSpec where
  argBad _ := !argsZeroFrom args 0
  blocked s :=
    let st := s.get fPartnerState 0
    if st = 2 ∨ st = 3 ∨ st = 5 then none else some eSTATE
  run := unpairRun

def effUnpair (c : CmdCtx) (args : List W64) : Eff := admitCmd c .crack 0 0x11 args (unpairSpec args)

def execUnpair (c : CmdCtx) (args : List W64) (s : State) : Host.Outcome State Fault Refusal :=
  .next ((effUnpair c args).run s)

/-- UNPAIR_RECEIVE: answered. -/
def effUnpairReceive : Eff := withMsg 16 0x42 fun _ =>
  doAll [whenE (fun s => s.get fPartnerState 0 = 2) unpairClear,
    fun s => sendPartner 0x43 (leBytes 2 s.self ++ leBytes 14 0) s]

def execUnpairReceive (s : State) : Host.Outcome State Fault Refusal := .next (effUnpairReceive.run s)

/-- UNPAIR_ACK. -/
def effUnpairAck : Eff := withMsg 16 0x43 fun _ => finishAll .crack 0 0x11 eOK 0

def execUnpairAck (s : State) : Host.Outcome State Fault Refusal := .next (effUnpairAck.run s)

/-! ## Promotion (R414, R416) -/

/-- PROMOTE. -/
def promoteSpec (args : List W64) : CmdSpec where
  argBad _ := !argsZeroFrom args 0
  blocked s := if s.get fPartnerState 0 ≠ 3 then some eSTATE else none
  run _ := setF fPartnerState 0 4

def effPromote (c : CmdCtx) (args : List W64) : Eff := admitCmd c .crack 0 0x12 args (promoteSpec args)

def execPromote (c : CmdCtx) (args : List W64) (s : State) : Host.Outcome State Fault Refusal :=
  .next ((effPromote c args).run s)

/-- The smallest of a list. -/
def minOf : List Nat → Nat
  | [] => 0
  | [a] => a
  | a :: l => min a (minOf l)

/-- The alias is enabled, and its heartbeats reach every module the peer tables name (R416). -/
def aliasOn (id : Nat) : Eff := fun s =>
  let ps := (s.fb.peers.filter fun x => x.port < 16 && !x.alias_).map fun x =>
    ({ port := x.port, module_ := x.module_, alias_ := true, hbBase := s.hb } : Peer)
  doAll [setF fAlias 0 id, setF fAliasEn 0 1, modFb (fun b => { b with peers := b.peers ++ ps }),
    forEach (ps.filter fun x => s.lkUp x.port) (fun x => fun t => sendOn x.port x.module_ true 1 (t.hbBytes x) t)] s

/-- Two registers of a page exchanged. -/
def swapRegs (blk : Blk) (inst a b : Nat) : Eff := fun s =>
  [.reg ⟨blk, inst, a⟩ (s.rd blk inst b), .reg ⟨blk, inst, b⟩ (s.rd blk inst a)]

/-- The standby takes its partner's place: the mirror pairs become home pairs, every link retrains under the partner's
ID. -/
def standbyTakes (id : Nat) : Eff := fun s =>
  let ls := linkPorts.filter s.lkEnabled
  doAll [forEach ports48 (fun p => doAll [swapRegs .slip p 0x140 0x150, swapRegs .slip p 0x148 0x158, swapRegs .slip p 0x180 0x188]),
    forEach linkPorts (fun q => doAll [dropTo q 0, retrainEnd q eLINK_DOWN 0]), setF fModuleId 0 id,
    forEach ls trainStart] s

/-- PROMOTE_DONE. DESIGN CHOICE, log entry 74. -/
def effPromoteDone : Eff := fun s =>
  if s.get fPartnerState 0 ≠ 4 then [] else
  doAll [forEach ports48 (fun p => reread1 p 1), fun s =>
    let ps := ports48.filter fun p => s.on (fGenValid 1) p
    let ext (p : Nat) : Nat × Nat :=
      (s.regionBase p (2 + s.get (fCgen 1) p), s.regionSize p (2 + s.get (fCgen 1) p))
    let bad := (ps.map fun p => (s.badBursts (ext p).1 (ext p).2).length).sum
    let vmin := minOf (ps.map fun p => s.get (fGenVer 1) p)
    let id := s.get fPartnerId 0
    if ps = [] then doAll [setReg .crack 0 0x140 (BitVec.ofNat 64 (48 * 2 ^ 40)), setF fPartnerState 0 3,
      finishAll .crack 0 0x12 eUNMIRRORED 0] s
    else doAll [forEach ps (fun p => bumpAlt p 1),
      forEach ps (fun p => drawFree fun w => badMeet (getBits w 0 3) (ext p).1 (ext p).2),
      setReg .crack 0 0x140 (BitVec.ofNat 64 (vmin % 2 ^ 32 + ps.length * 2 ^ 32 + (48 - ps.length) * 2 ^ 40 + min bad 65535 * 2 ^ 48)),
      if s.get fPmode 0 = 1 then aliasOn id else standbyTakes id,
      setF fPartnerState 0 5, setEvt .crack 0 7, finishAll .crack 0 0x12 eOK (BitVec.ofNat 64 vmin)] s] s

def execPromoteDone (s : State) : Host.Outcome State Fault Refusal := .next (effPromoteDone.run s)

/-! ## Wedged (R418, R478) -/

/-- The module is wedged by a cause: WEDGE, ERR, MGMT.STATE, the boot record when the power-on sequence stops, the
reduced telemetry. -/
def wedgeNow (cause : Nat) : Eff := drawFree fun w => fun s =>
  if s.wedged then [] else
  doAll [setReg .crack 0 0x130 (BitVec.ofNat 64 (1 + cause % 16 * 16 + getBits w 0 32 * 2 ^ 32)),
    recordErr .crack 0 eWEDGED cause, setReg .tele 0 0x018 1,
    whenE (fun s => !s.ready) (setF fBootCode 0 eWEDGED), setF fMgmtState 0 8] s

/-- ARBITER_STALL_TIMEOUT (cause 1). -/
def effArbiterStall : Eff := whenE (fun s => s.fabLive) (wedgeNow 1)

def execArbiterStallTimeout (s : State) : Host.Outcome State Fault Refusal := .next (effArbiterStall.run s)

/-- RIM_INTERCONNECT_UE (cause 2). -/
def effRimUe : Eff := whenE (fun s => s.fabLive) (wedgeNow 2)

def execRimInterconnectUe (s : State) : Host.Outcome State Fault Refusal := .next (effRimUe.run s)

end Sys2Proof.Machine
end

