-- ==== Sys2Proof/Machine/Power.lean ====
section
/-! DEFINITION. Clocks, supplies, tile power and heat (R439, R442–R459, Tables 17-2 to 17-4). -/

namespace Sys2Proof.Machine

/-! ## The root PLL (R439) -/

def fClkState : Fld := ⟨.clk, 0x018, 0, 64⟩
def fPllLock : Fld := ⟨.clk, 0x100, 0, 1⟩
def fUnlocks : Fld := ⟨.clk, 0x100, 8, 8⟩

/-- PLL_UNLOCK: LOCKED becomes HOLDOVER. -/
def effPllUnlock : Eff := whenE (fun s => !s.held && s.get fClkState 0 = 1)
  (doAll [setF fClkState 0 2, setF fPllLock 0 0, addSat fUnlocks 0 1, setEvt .clk 0 0])

def execPllUnlock (s : State) : Host.Outcome State Fault Refusal := .next (effPllUnlock.run s)

/-- PLL_RELOCK. -/
def effPllRelock : Eff := whenE (fun s => !s.held && s.get fClkState 0 = 2)
  (doAll [setF fClkState 0 1, setF fPllLock 0 1, setEvt .clk 0 1])

def execPllRelock (s : State) : Host.Outcome State Fault Refusal := .next (effPllRelock.run s)

/-- PLL_RELOCK_TIMEOUT: wedged with cause 4. -/
def effPllRelockTimeout : Eff := whenE (fun s => s.fabLive && s.get fClkState 0 = 2) (wedgeNow 4)

def execPllRelockTimeout (s : State) : Host.Outcome State Fault Refusal := .next (effPllRelockTimeout.run s)

/-! ## Thermal levels held (R455) -/

/-- Level 1 of the module, level 2 and the network slow-down of a half, level 3 of a field. -/
def State.level1 (s : State) : Bool := s.ax ⟨.level, 1, 0⟩ ≠ 0
def State.level2 (s : State) (h : Nat) : Bool := s.ax ⟨.level, 2, h⟩ ≠ 0
def State.levelNet (s : State) (h : Nat) : Bool := s.ax ⟨.level, 4, h⟩ ≠ 0
def State.level3 (s : State) (f : Nat) : Bool := s.ax ⟨.fieldHeat, f, 0⟩ ≠ 0

/-- The fields of the wafer. -/
def fields48 : List Nat := List.range 48

/-- The half of a field. -/
def fieldHalf (f : Nat) : Nat := if f % 8 < 4 then 0 else 1

/-! ## Dividers (R442–R445) -/

def fTileDiv : Fld := ⟨.clk, 0x100, 0, 1⟩
def fNetDiv : Fld := ⟨.clk, 0x100, 1, 1⟩
def fChangeAt : Fld := ⟨.clk, 0x100, 32, 32⟩
def fSlowReq : Fld := ⟨.clk, 0x010, 0, 1⟩
def fDivSwitches : Fld := ⟨.clk, 0x108, 0, 32⟩

/-- The dividers a half is due to have: 1 for the slow one. -/
def State.tileWant (s : State) (h : Nat) : Nat := if s.on fSlowReq (h + 1) || s.level2 h then 1 else 0
def State.netWant (s : State) (h : Nat) : Nat := if s.levelNet h then 1 else 0

/-- A half's dividers are not what they are due to be. -/
def State.divLate (s : State) (h : Nat) : Bool := s.get fTileDiv (h + 1) ≠ s.tileWant h || s.get fNetDiv (h + 1) ≠ s.netWant h

/-- A divider decision of a half: it takes effect at the first switch edge at least 1 µs later (R442). -/
def divDecide (h : Nat) : Eff := fun s =>
  if s.divLate h then (if s.ax ⟨.divDue, h, 0⟩ = 0 then setAx ⟨.divDue, h, 0⟩ (s.wcount + 1) s else [])
  else setAx ⟨.divDue, h, 0⟩ 0 s

/-- Running kilns whose bounds no longer fit drain with a code and a source: FENCED and 3 after a publication (R404), THERMAL and
4 for heat (R264, Table 13-2). -/
def refit (code src : Nat) : Eff := forEach kilns256 fun k =>
  whenE (fun s => s.get fKilnState k = 3 && !s.kilnFits k) (drainKiln k code src)

/-- DIVIDER_SWITCH. -/
def effDividerSwitch (h : Nat) : Eff := fun s =>
  let due := s.ax ⟨.divDue, h, 0⟩
  if 2 ≤ h ∨ s.held ∨ s.get fClkState 0 ≠ 1 ∨ due = 0 ∨ s.wcount % 1024 ≠ 0 ∨ s.wcount + 1 < due + 2400 then [] else
  let c := h + 1
  let t := s.tileWant h
  let n := s.netWant h
  doAll [setAx ⟨.divDue, h, 0⟩ 0, setF fChangeAt c (s.wcount % 2 ^ 32),
    whenE (fun s => s.get fTileDiv c ≠ t) (doAll [setF fTileDiv c t, addSat fDivSwitches c 1, setEvt .clk c 0]),
    whenE (fun s => s.get fNetDiv c ≠ n) (doAll [setF fNetDiv c n, addSat fDivSwitches c 1,
      setEvt .clk c (if n = 1 then 1 else 2), whenE (fun _ => n = 1) (setEvt .therm 0 3), refit eTHERMAL 4])] s

def execDividerSwitch (half : Nat) (s : State) : Host.Outcome State Fault Refusal := .next ((effDividerSwitch half).run s)

/-! ## Supplies (R447–R449) -/

def fPwrState : Fld := ⟨.pwr, 0x018, 0, 64⟩
def fToB : Fld := ⟨.pwr, 0x118, 0, 16⟩
def fToA : Fld := ⟨.pwr, 0x118, 16, 16⟩

/-- An input carries alone; a change of the input that last did is a switch-over. -/
def solely (b : Nat) : Eff := fun s =>
  doAll [setF fPwrState 0 b,
    whenE (fun s => s.ax ⟨.lastSole, 0, 0⟩ ≠ b) (doAll [setAx ⟨.lastSole, 0, 0⟩ b,
      if b = 1 then doAll [addSat fToB 0 1, setEvt .pwr 0 0] else doAll [addSat fToA 0 1, setEvt .pwr 0 1]])] s

/-- SUPPLY_SWITCHOVER. -/
def effSupplySwitchover (toB : Bool) : Eff := whenE (fun s => !s.held) (solely (if toB then 1 else 0))

def execSupplySwitchover (toB : Bool) (s : State) : Host.Outcome State Fault Refusal :=
  .next ((effSupplySwitchover toB).run s)

/-- BOTH_INPUTS_CONDUCT: they conduct together, or part to the input that last carried alone. -/
def effBothInputs (together : Bool) : Eff := fun s =>
  if s.held then [] else if together then setF fPwrState 0 2 s
  else if s.get fPwrState 0 = 2 then setF fPwrState 0 (s.ax ⟨.lastSole, 0, 0⟩) s else []

def execBothInputsConduct (together : Bool) (s : State) : Host.Outcome State Fault Refusal :=
  .next ((effBothInputs together).run s)

/-- SUPPLY_SAMPLE: volts × 1,000, amperes × 10, watts; the samples are numbered from 1.
DESIGN CHOICE, log entry 14. -/
def effSupplySample (va ia vb ib watts : Nat) : Eff := fun s =>
  if s.held then [] else
  let n := getBits (s.rd .pwr 0 0x110) 32 32 + 1
  let w (v i : Nat) : W64 := BitVec.ofNat 64 (v % 65536 + i % 65536 * 2 ^ 16 + n % 2 ^ 32 * 2 ^ 32)
  doAll [setReg .pwr 0 0x100 (w va ia), setReg .pwr 0 0x108 (w vb ib), setReg .pwr 0 0x110 (w watts 0)] s

/-- R448: below 44 V on both inputs the behaviour is undefined. -/
def execSupplySample (va ia vb ib watts : Nat) (s : State) : Host.Outcome State Fault Refusal :=
  if va < 44000 ∧ vb < 44000 then .fault .bothInputsLow else .next ((effSupplySample va ia vb ib watts).run s)

/-! ## Wake tokens (R450–R453) -/

def fGrants : Fld := ⟨.pwr, 0x118, 0, 48⟩
def fLongest : Fld := ⟨.pwr, 0x110, 32, 32⟩

/-- 8 µs in CK_NET edges. -/
def wakePeriod : Nat := 19200

/-- A field ramps. -/
def State.ramps (s : State) (f : Nat) : Bool := s.ax ⟨.ramping, f, 0⟩ ≠ 0

/-- Grants of a field in the last 8 µs. -/
def State.tokens (s : State) (f : Nat) : Nat := (s.pw.grants.filter fun g => g.1 = f && s.wcount < g.2 + wakePeriod).length

/-- A queued tile may be granted now. DEDUCED, log entry 75. -/
def State.grantable (s : State) (t : Nat) : Bool :=
  let f := fieldOf t
  s.tokens f < 64 && (s.ramps f || (fields48.filter s.ramps).length < 8)

/-- WAKE_GRANT: the first request in the queue that the limits allow. -/
def effWakeGrant : Eff := fun s =>
  if !s.ready ∨ s.held ∨ s.tripped then [] else
  match s.pw.wakes.find? s.grantable with
  | none => []
  | some t =>
    let us := (s.wcount + 1 - fget (fun _ => 0) s.pw.asked t) / 2400
    doAll [modPw (fun w => { w with wakes := w.wakes.erase t, waking := w.waking ++ [t]
                                    grants := (w.grants.filter fun g => s.wcount < g.2 + wakePeriod) ++ [(fieldOf t, s.wcount)] }),
      setAx ⟨.tilePwr, s.phys t, 0⟩ 1, setAx ⟨.ramping, fieldOf t, 0⟩ 1, addSat fGrants 1 1,
      whenE (fun s => s.get fLongest 1 < us) (setF fLongest 1 (min us (2 ^ 32 - 1))),
      whenE (fun s => s.pw.wakes = []) (setEvt .pwr 1 0)] s

def execWakeGrant (s : State) : Host.Outcome State Fault Refusal := .next (effWakeGrant.run s)

/-- FIELD_RAMP_END: 8 µs after its last grant. -/
def effFieldRampEnd (f : Nat) : Eff := whenE (fun s => s.tokens f = 0) (setAx ⟨.ramping, f, 0⟩ 0)

def execFieldRampEnd (field : Nat) (s : State) : Host.Outcome State Fault Refusal := .next ((effFieldRampEnd field).run s)

/-- A tile waits for its wake, or is waking. -/
def State.awaited (s : State) (t : Nat) : Bool := s.pw.wakes.contains t || s.pw.waking.contains t

/-- The rectangle of a PWR command. -/
def pwrRect (a : W64) : List Nat := rectTiles (getBits a 0 8) (getBits a 8 8) (getBits a 16 8) (getBits a 24 8)

/-- A WAKE whose tiles no longer wait completes (Table 17-3); its tiles follow its rectangle in the running command's
arguments. -/
def wakeDone (r : Running) : Eff := fun s =>
  let ts := (r.args.drop 1).map fun w => w.toNat
  let on := ts.filter fun t => s.computeOn t
  let hot := (pwrRect (argN r.args 0)).any s.hot || ts.any fun t => s.ax ⟨.tilePwr, s.phys t, 0⟩ = 0
  if ts.any s.awaited then [] else finish r (if hot then eTHERMAL else eOK) (BitVec.ofNat 64 on.length) s

/-- WAKE commands looked at again, and the fields that come back from heat (R456). -/
def wakesCheck : Eff :=
  doAll [look (fun s => s.runningOf .pwr 1 0x11) fun l => forEach l wakeDone,
    forEach fields48 fun f => whenE (fun s => s.ax ⟨.fieldOnDue, f, 0⟩ ≠ 0 &&
        !(s.pw.wakes ++ s.pw.waking).any fun t => fieldOf t = f)
      (doAll [setAx ⟨.fieldOnDue, f, 0⟩ 0, setEvt .pwr 1 1])]

/-- TILE_WAKE_DONE: the tile is ON, its memories zero, its registers at reset, IDLE. -/
def effTileWakeDone (t : Nat) : Eff := fun s =>
  let p := s.phys t
  if !s.pw.waking.contains t ∨ s.ax ⟨.tilePwr, p, 0⟩ ≠ 1 then [] else
  doAll [tileLost p, setAx ⟨.tilePwr, p, 0⟩ 2, modPw (fun w => { w with waking := w.waking.erase t }), wakesCheck] s

def execTileWakeDone (t : Nat) (s : State) : Host.Outcome State Fault Refusal := .next ((effTileWakeDone t).run s)

/-- The argument check of SLEEP and WAKE. -/
def pwrArgBad (inst : Nat) (args : List W64) : Bool :=
  let a := argN args 0
  inst ≠ 1 || getBits a 32 32 ≠ 0 || !argsZeroFrom args 1 || getBits a 8 8 < getBits a 0 8 || getBits a 24 8 < getBits a 16 8 ||
    191 < getBits a 8 8 || 179 < getBits a 24 8

/-- A tile's compute goes OFF, its contents lost. -/
def tileOffNow (p : Nat) : Eff := doAll [selftestEnd p, tileLost p, setAx ⟨.tilePwr, p, 0⟩ 0]

/-- SLEEP. -/
def sleepSpec (inst : Nat) (args : List W64) : CmdSpec where
  argBad _ := pwrArgBad inst args
  blocked s := if (pwrRect (argN args 0)).any fun t => kilns256.any fun k => s.kilnTakes k && s.inRect k t then some eSTATE else none
  run r := fun s =>
    let ps := ((pwrRect (argN args 0)).filter fun t => s.computeOn t && !s.geo.outOfUse t).map s.phys
    doAll [forEach ps (fun p => doAll [selftestStop p, tileOffNow p]), finish r eOK (BitVec.ofNat 64 ps.length)] s

def execSleep (c : CmdCtx) (inst : Nat) (args : List W64) (s : State) : Host.Outcome State Fault Refusal :=
  .next ((admitCmd c .pwr inst 0x10 args (sleepSpec inst args)).run s)

/-- WAKE: the OFF tiles of fields that are not off by heat ask for a wake. -/
def wakeSpec (inst : Nat) (args : List W64) : CmdSpec where
  argBad _ := pwrArgBad inst args
  blocked _ := none
  run r := fun s =>
    let ts := (pwrRect (argN args 0)).filter fun t => s.ax ⟨.tilePwr, s.phys t, 0⟩ = 0 && !s.hot t && !s.geo.outOfUse t
    doAll [wakeRect ts,
      modHi (fun h => { h with running := h.running.map fun x =>
        if x.seq = r.seq then { x with args := argN args 0 :: ts.map (BitVec.ofNat 64) } else x }),
      wakesCheck] s

def execWake (c : CmdCtx) (inst : Nat) (args : List W64) (s : State) : Host.Outcome State Fault Refusal :=
  .next ((admitCmd c .pwr inst 0x11 args (wakeSpec inst args)).run s)

/-! ## Heat (R454–R458) -/

def fAlertT : Fld := ⟨.therm, 0x110, 0, 8⟩
def fTrips : Fld := ⟨.therm, 0x130, 0, 16⟩
def fTripSensor : Fld := ⟨.therm, 0x130, 16, 9⟩
def fTripped : Fld := ⟨.therm, 0x130, 31, 1⟩

/-- °C as the sensors give them: × 16. -/
def deg (c : Int) : Int := 16 * c

/-- The sensors (R454): compute sensors of a field, always-on sensor of a field, the rim, the stacks. -/
def computeSensors (f : Nat) : List Nat := (List.range 4).map fun q => 4 * f + q
def halfFields (h : Nat) : List Nat := fields48.filter fun f => fieldHalf f = h
def rimSensors : List Nat := (List.range 8).map fun i => 240 + i
def stackSensors : List Nat := (List.range 48).map fun i => 248 + i

/-- The first sensor of a list at or above a temperature. -/
def hotAt (temps : List Int) (l : List Nat) (c : Int) : Option Nat := l.find? fun n => deg c ≤ temps.getD n 0

/-- The newest reading of a sensor as stored: × 16 plus 2^15. -/
def State.sensor (s : State) (n : Nat) : Int := Int.ofNat (fget (fun _ => 0) s.pw.sensors (2 * n)) - 2 ^ 15

/-- A level's action is recorded with its sensor, and its event bit set. -/
def heatRec (bit sensor : Nat) : Eff := doAll [recordErr .therm 0 eTHERMAL sensor, setEvt .therm 0 bit]

/-- R456: a kiln holding a tile of a field that switches off; `t` its lowest tile there (DESIGN CHOICE, log entry 36). -/
def kilnHeat (k t : Nat) : Eff := fun s =>
  let st := s.get fKilnState k
  doAll [if s.on fKilnBusy k ∨ st = 3 ∨ st = 4 then kilnFault k eTHERMAL 3 t 0 else setFault k eTHERMAL 3 t 0,
    whenE (fun s => s.get fKilnState k = 1 || s.get fKilnState k = 5 || s.get fKilnState k = 6) (setFault k eTHERMAL 3 t 0)] s

/-- The physical tiles of a field. -/
def fieldPhys (f : Nat) : List Nat := (List.range 30).flatMap fun y => (List.range 25).map fun x => (f / 8 * 30 + y) * 200 + f % 8 * 25 + x

/-- The logical tiles of a field. -/
def fieldTiles (f : Nat) : List Nat := rectTiles (f % 8 * 24) (f % 8 * 24 + 23) (f / 8 * 30) (f / 8 * 30 + 29)

/-- R456: a field's compute rail switches off. -/
def fieldOff (f : Nat) : Eff := fun s =>
  let ks := kilns256.filter fun k => s.kilnTakes k && (fieldTiles f).any (s.inRect k)
  doAll [setAx ⟨.fieldHeat, f, 0⟩ 1, setAx ⟨.fieldOnDue, f, 0⟩ 0,
    forEach ks (fun k => kilnHeat k (((fieldTiles f).find? (s.inRect k)).getD 0)),
    modPw (fun w => { w with wakes := w.wakes.filter fun t => fieldOf t ≠ f, waking := w.waking.filter fun t => fieldOf t ≠ f }),
    forEach (fieldPhys f) (fun p => whenE (fun s => s.ax ⟨.tilePwr, p, 0⟩ = 1 || s.ax ⟨.tilePwr, p, 0⟩ = 2) (tileOffNow p)),
    setEvt .pwr 1 2, wakesCheck] s

/-- R457: a thermal trip; one during the power-on sequence is the error that stopped it (R478, Table 19-5). -/
def thermalTrip (sensor : Nat) : Eff := fun s =>
  doAll [whenE (fun s => s.get fMgmtState 0 < 7) (setF fBootCode 0 eTHERMAL), recordErr .therm 0 eTHERMAL sensor, addSat fTrips 0 1, setF fTripSensor 0 sensor, setF fTripped 0 1,
    setF fMgmtState 0 9, setAx ⟨.tripAt, 0, 0⟩ (s.wcount + 1)] s

/-- The readings stored, with the highest since reset. -/
def putSensors (temps : List Int) : Eff := modPw fun w =>
  { w with sensors := temps.zipIdx.foldl (fun m x =>
      let v := (x.1 + 2 ^ 15).toNat % 2 ^ 16
      let m := fset id (fun _ => 0) m (2 * x.2) v
      fset id (fun _ => 0) m (2 * x.2 + 1) (max v (fget (fun _ => 0) m (2 * x.2 + 1)))) w.sensors }

/-- Levels 1 to 3 and the network slow-down. DEDUCED, log entry 76. -/
def heatLevels (temps : List Int) : Eff := fun s =>
  let compute (h : Nat) : List Nat := (halfFields h).flatMap computeSensors
  let l1 := (hotAt temps (List.range 248) (s.get fAlertT 0)).or (hotAt temps stackSensors 95)
  doAll [
    (match l1 with
     | some n => whenE (fun s => !s.level1) (doAll [setAx ⟨.level, 1, 0⟩ 1, heatRec 0 n])
     | none => skip),
    forEach [0, 1] (fun h => match hotAt temps (compute h) 98 with
      | some n => whenE (fun s => !s.level2 h) (doAll [setAx ⟨.level, 2, h⟩ 1, heatRec 1 n, divDecide h])
      | none => skip),
    forEach fields48 (fun f => match hotAt temps (computeSensors f) 105 with
      | some n => whenE (fun s => !s.level3 f) (doAll [heatRec 2 n, fieldOff f])
      | none => skip),
    forEach [0, 1] (fun h => match hotAt temps ((halfFields h).map fun f => 192 + f) 110 with
      | some n => whenE (fun s => !s.levelNet h) (doAll [setAx ⟨.level, 4, h⟩ 1, heatRec 3 n, divDecide h])
      | none => skip)] s

/-- THERMAL_SAMPLE: 296 readings × 16; a trip overrides every other action (R458). -/
def effThermalSample (temps : List Int) : Eff := fun s =>
  if temps.length ≠ 296 ∨ s.held ∨ s.tripped ∨ s.get fMgmtState 0 = 1 then [] else
  let trip := (hotAt temps (fields48.map fun f => 192 + f) 115).or (hotAt temps stackSensors 105)
  doAll [putSensors temps,
    match trip with
    | some n => thermalTrip n
    | none => heatLevels temps] s

def execThermalSample (temps : List Int) (s : State) : Host.Outcome State Fault Refusal :=
  .next ((effThermalSample temps).run s)

/-- Every sensor of a list reads below a temperature. -/
def State.cool (s : State) (l : List Nat) (c : Int) : Bool := l.all fun n => s.sensor n < deg c

/-- THERMAL_LEVEL_CLEAR: level 1 of the module, 2 of a half, 3 of a field, 4 the network slow-down of a half. -/
def effThermalClear (level scope : Nat) : Eff := fun s =>
  if s.held ∨ s.tripped then [] else
  match level with
  | 1 => if s.level1 ∧ s.cool (List.range 248) ((s.get fAlertT 0 : Int) - 6) ∧ s.cool stackSensors 89
      then doAll [setAx ⟨.level, 1, 0⟩ 0, setEvt .therm 0 4] s else []
  | 2 => if s.level2 scope ∧ s.cool ((halfFields scope).flatMap computeSensors) 92
      then doAll [setAx ⟨.level, 2, scope⟩ 0, setEvt .therm 0 4, divDecide scope] s else []
  | 3 => if s.level3 scope ∧ s.cool (computeSensors scope) 95
      then doAll [setAx ⟨.fieldHeat, scope, 0⟩ 0, setEvt .therm 0 4,
        wakeRect ((fieldTiles scope).filter fun t => !s.geo.outOfUse t), setAx ⟨.fieldOnDue, scope, 0⟩ 1, wakesCheck] s else []
  | 4 => if s.levelNet scope ∧ s.cool ((halfFields scope).map fun f => 192 + f) 104
      then doAll [setAx ⟨.level, 4, scope⟩ 0, setEvt .therm 0 4, divDecide scope] s else []
  | _ => []

def execThermalLevelClear (level scope : Nat) (s : State) : Host.Outcome State Fault Refusal :=
  .next ((effThermalClear level scope).run s)

end Sys2Proof.Machine
end

