-- ==== Sys2Proof/Machine/Background.lean ====
section
/-! DEFINITION. Background work and telemetry (chapter 18): the store scrub, calibration, trims, hours, idle self-test,
the telemetry sample and its ring. -/

namespace Sys2Proof.Machine

/-- R462: background work runs from the first publication until a trip or a reset. -/
def State.bgOn (s : State) : Bool := s.get fGen 1 ≠ 0 && !s.held && !s.tripped

/-! ## Store scrub (R463) -/

def fScrubSram : Fld := ⟨.tele, 0x130, 0, 32⟩
def fScrubStore : Fld := ⟨.tele, 0x130, 32, 32⟩
def fPasses : Fld := ⟨.tele, 0x128, 32, 16⟩

/-- The bursts of a stack. -/
def State.stackBursts (s : State) (p : Nat) : Nat := s.usable p / 32

/-- The stacks the scrub reads have all been read to their end: the pass is complete. -/
def scrubPassEnd : Eff :=
  whenE (fun s => ports48.all fun p => s.stackBursts p ≤ s.ax ⟨.scrubPos, p, 0⟩)
    (doAll [forEach ports48 (fun p => setAx ⟨.scrubPos, p, 0⟩ 0), addSat fPasses 0 1, setEvt .tele 0 3])

/-- STORE_SCRUB_BURST: the next burst of its stack in address order.  outcome 0: clean; 1: corrected and rewritten; 2:
found uncorrectable; a bad burst is uncorrectable whatever the outcome says. DEDUCED, log entry 78. -/
def effStoreScrub (addr outcome : Nat) : Eff := fun s =>
  let p := addr / slotSize
  let i := addr % slotSize / 32
  if !s.bgOn ∨ addr % 32 ≠ 0 ∨ !s.populated addr ∨ !s.on fTrained p ∨ s.get fSlipState p = 3 ∨ s.ax ⟨.scrubPos, p, 0⟩ ≠ i then [] else
  doAll [setAx ⟨.scrubPos, p, 0⟩ (i + 1),
    if s.badBursts addr 32 ≠ [] then badMeet 7 addr 32
    else if outcome = 2 then doAll [fun _ => [.storeBad fun l => l ++ [addr / 32]], badMeet 7 addr 32]
    else if outcome = 1 then doAll [addSat fStoreCe p 1, eccTotal 2, addSat fScrubStore 0 1] else skip,
    scrubPassEnd] s

def execStoreScrubBurst (addr outcome : Nat) (s : State) : Host.Outcome State Fault Refusal :=
  .next ((effStoreScrub addr outcome).run s)

/-! ## Calibration, trims (R441, R462, R465) -/

def fCalCount : Fld := ⟨.tele, 0x170, 0, 32⟩
def fCalMargin : Fld := ⟨.tele, 0x170, 32, 16⟩

/-- CLOCK_PHASE_CAL: corrections applied, and the smallest margin seen. -/
def effPhaseCal (corrections marginPs : Nat) : Eff := whenE (fun s => s.bgOn)
  (doAll [addSat fCalCount 0 corrections,
    whenE (fun s => s.ax ⟨.calSeen, 0, 0⟩ = 0 || marginPs < s.get fCalMargin 0) (setF fCalMargin 0 (min marginPs 65535)),
    setAx ⟨.calSeen, 0, 0⟩ 1])

def execClockPhaseCal (corrections marginPs : Nat) (s : State) : Host.Outcome State Fault Refusal :=
  .next ((effPhaseCal corrections marginPs).run s)

/-- HBM_RECENTRE: read timing within refresh slots; no register shows it. -/
def effHbmRecentre : Eff := skip

def execHbmRecentre (s : State) : Host.Outcome State Fault Refusal := .next (effHbmRecentre.run s)

/-- A field's trim as kept: steps, plus 16 while it needs a 13th. -/
def State.trim (s : State) (f : Nat) : Nat := fget (fun _ => 0) s.pw.trims (2 * f)

/-- A field's trim after an evaluation that wants `w` steps: at most one step nearer. -/
def trimNext (v w : Nat) : Nat :=
  let n := v % 16
  if n < w ∧ n < 12 then n + 1 else if w < n then n - 1 else if 12 < w then 12 + 16 else n

/-- TRIM_EVALUATE: the monitors' wish for each field; a field that ramps or is off keeps its trim.  The aging index has
no stated value: a free one. DESIGN CHOICE, log entry 77. -/
def effTrim (want : List Nat) : Eff := whenE (fun s => s.bgOn) (forEach fields48 fun f => fun s =>
  let v := trimNext (s.trim f) (want.getD f 0)
  if s.ramps f ∨ s.level3 f then [] else
  doAll [drawFree fun x => modPw fun w => { w with
      trims := fset id (fun _ => 0) (fset id (fun _ => 0) w.trims (2 * f) v) (2 * f + 1) (getBits x 0 16) },
    whenE (fun _ => 16 ≤ v) (setEvt .tele 0 2)] s)

def execTrimEvaluate (want : List Nat) (s : State) : Host.Outcome State Fault Refusal := .next ((effTrim want).run s)

/-! ## Hours (R466) -/

/-- The physical tiles whose compute is ON. -/
def State.onTiles (s : State) : List Nat := s.aux.filterMap fun e =>
  if e.1.kind = .tilePwr && e.1.b = 0 && e.2 = 2 && e.1.a < 36000 then some e.1.a else none

/-- One more millisecond: 225,000 make 1/16 hour. -/
def hourTick (k : AuxKind) (p key : Nat) : Eff := fun s =>
  let n := s.ax ⟨k, p, 0⟩ + 1
  if n < 225000 then setAx ⟨k, p, 0⟩ n s
  else doAll [setAx ⟨k, p, 0⟩ 0, modFt fun f => { f with
    hours := fset id (fun _ => 0) f.hours key (min (fget (fun _ => 0) f.hours key + 1) 0xFFFFFFFF) }] s

/-- HOURS_COUNT: once a millisecond. -/
def effHoursCount : Eff := whenE (fun s => s.bgOn) (look (fun s => s.onTiles) fun l => forEach l fun p =>
  doAll [hourTick .onMs p (2 * p), whenE (fun s => s.get fTileState p ≠ 0) (hourTick .activeMs p (2 * p + 1))])

def execHoursCount (s : State) : Host.Outcome State Fault Refusal := .next (effHoursCount.run s)

/-- HOURS_SAVE: the copy that is not the newest takes the counts. -/
def effHoursSave : Eff := whenE (fun s => s.bgOn) (doAll [
  modFt (fun f =>
    let n := newestOf f.hoursA f.hoursB
    let last := match n with | some 0 => f.hoursA.seq | some _ => f.hoursB.seq | none => 0
    let c : FlashCopy := ⟨true, if last = 0xFFFFFFFE then 1 else last + 1, f.hours⟩
    if n = some 0 then { f with hoursB := c } else { f with hoursA := c }),
  setEvt .tele 0 4])

def execHoursSave (s : State) : Host.Outcome State Fault Refusal := .next (effHoursSave.run s)

def fHoursSel : Fld := ⟨.tele, 0x160, 0, 16⟩
def fHoursInc : Fld := ⟨.tele, 0x160, 16, 1⟩

/-- HOURS_DATA of a physical tile. -/
def State.hoursView (s : State) (p : Nat) : W64 := BitVec.ofNat 64
  (fget (fun _ => 0) s.ft.hours (2 * p + 1) % 2 ^ 32 + fget (fun _ => 0) s.ft.hours (2 * p) % 2 ^ 32 * 2 ^ 32)

/-- AUTO_INC of HOURS_SEL. -/
def hoursAdvance : Eff := whenE (fun s => s.on fHoursInc 0)
  (look (fun s => s.get fHoursSel 0) fun p => setF fHoursSel 0 ((p + 1) % 36000))

/-- HOURS_DATA_READ. -/
def effHoursRead : Eff := fun s =>
  if s.held then [] else doAll [emit (.readData (s.hoursView (s.get fHoursSel 0))), hoursAdvance] s

def execHoursDataRead (s : State) : Host.Outcome State Fault Refusal := .next (effHoursRead.run s)

/-! ## Idle self-test (R467, R468) -/

def fStDone : Fld := ⟨.tele, 0x140, 0, 32⟩
def fStFail : Fld := ⟨.tele, 0x140, 32, 16⟩

/-- A tile may be tested: ON, carrying a logical tile of no kiln, and no other of its field is under test. -/
def State.testable (s : State) (p : Nat) : Bool :=
  s.physOn p && match s.geo.carries p with
    | some t => !(kilns256.any fun k => s.kilnTakes k && s.inRect k t) &&
        !(fieldPhys (fieldOf t)).any fun q => s.ax ⟨.selftest, q, 0⟩ ≠ 0
    | none => false

/-- SELFTEST_START. -/
def effSelftestStart (p : Nat) : Eff := whenE (fun s => s.bgOn && s.testable p) (setAx ⟨.selftest, p, 0⟩ 1)

def execSelftestStart (phys : Nat) (s : State) : Host.Outcome State Fault Refusal := .next ((effSelftestStart phys).run s)

/-- SELFTEST_DONE: the tile is zero-filled; `bits` are the failing blocks' crack-map bits, 0 for a pass. -/
def effSelftestDone (p bits : Nat) : Eff := fun s =>
  if s.ax ⟨.selftest, p, 0⟩ = 0 ∨ !s.bgOn then [] else
  let b := bits % 256
  doAll [setAx ⟨.selftest, p, 0⟩ 0, tileLost p, addSat fStDone 0 1,
    setReg .tele 0 0x148 (BitVec.ofNat 64 (p % 65536 + (if b = 0 then 0 else 2 ^ 16) + b * 2 ^ 20 +
      s.ax ⟨.samples, 0, 0⟩ % 2 ^ 32 * 2 ^ 32)),
    whenE (fun _ => b ≠ 0) (doAll [addSat fStFail 0 1, setEvt .tele 0 1, death p b 6 2])] s

def execSelftestDone (phys bits : Nat) (s : State) : Host.Outcome State Fault Refusal :=
  .next ((effSelftestDone phys bits).run s)

/-! ## The telemetry sample (R472, R473, Table 18-3) -/

/-- THERM.STATE: the highest level held. -/
def State.thermState (s : State) : Nat :=
  if s.tripped then 4
  else if (fields48.any s.level3) || s.levelNet 0 || s.levelNet 1 then 3
  else if s.level2 0 || s.level2 1 then 2 else if s.level1 then 1 else 0

/-- HALF bits [3:0] of a half (Table 17-7). -/
def State.halfBits (s : State) (h : Nat) : Nat :=
  s.get fTileDiv (h + 1) + 2 * s.get fNetDiv (h + 1) + (if s.level2 h then 4 else 0) + (if s.levelNet h then 8 else 0)

/-- FIELD_OFF. -/
def State.fieldOffBits (s : State) : Nat := ((fields48.filter s.level3).map fun f => 2 ^ f).sum

/-- Bytes [8n + 7 : 8n] of the SAMPLE window. -/
def State.sampleBytes (s : State) : List Byte := (List.range 128).flatMap fun i => leBytes 8 (s.rd .tele 0 (0x400 + 8 * i)).toNat

/-- Bytes of a list replaced from a position on. -/
def putAt (l : List Byte) (i : Nat) (d : List Byte) : List Byte := l.take i ++ d ++ l.drop (i + d.length)

/-- Bytes [1,019:0] of a sample that a wedged module still refreshes: SAMPLE, SUPPLY, POWER, CLOCKS [1:0], SENSOR. -/
def State.sampleLive (s : State) (n : Nat) (l : List Byte) : List Byte :=
  let v (off lo w : Nat) : Nat := getBits (s.rd .pwr 0 off) lo w
  let clocks := (l.drop 36).take 2
  let l := putAt l 4 (leBytes 4 n)
  let l := putAt l 24 (leBytes 4 (v 0x100 0 32) ++ leBytes 4 (v 0x108 0 32) ++ leBytes 4 (v 0x110 0 16 + s.get fPwrState 0 % 4 * 2 ^ 16))
  let l := putAt l 36 (leBytes 2 (ofBytes clocks / 4 * 4 + s.get fClkState 0 % 4))
  putAt l 64 ((List.range 296).flatMap fun i => leBytes 2 (if fget (fun _ => 0) s.pw.sensors (2 * i) = 0 then 0 else (s.sensor i + 2 ^ 16).toNat))

/-- The other fields; the matrix steps of each field are not counted in the model: `steps` gives them. -/
def State.sampleFull (s : State) (x : TeleExtra) (steps : W64) (l : List Byte) : List Byte :=
  let on := s.onTiles
  let fieldAt (f : Nat) : List Byte :=
    leBytes 2 (on.filter fun p => p / 200 / 30 * 8 + p % 200 / 25 = f).length ++ leBytes 2 (steps.toNat / (f + 1) % 65536)
  let l := putAt l 8 (leBytes 8 s.wcount ++ leBytes 8 s.seq)
  let l := putAt l 36 (leBytes 2 (s.get fClkState 0 % 4 + s.halfBits 0 * 4 + s.halfBits 1 * 64 + s.thermState * 1024))
  let l := putAt l 38 (leBytes 2 (kilns256.filter fun k => s.get fKilnState k = 3).length ++ leBytes 8 s.fieldOffBits)
  let l := putAt l 656 (fields48.flatMap fieldAt)
  let l := putAt l 848 ((List.range 4).flatMap fun i => leBytes 4 (s.ax ⟨.eccTotal, i, 0⟩))
  let l := putAt l 864 (fields48.flatMap fun f => leBytes 1 (s.trim f % 16))
  putAt l 912 (leBytes 4 x.serdes ++ leBytes 4 (x.bgPeak % 65536))

/-- A sample with its PHASE and its CRC. -/
def sealSample (phase : Nat) (l : List Byte) : List Byte :=
  let l := putAt l 0 (leBytes 1 phase)
  l.take 1020 ++ leBytes 4 (crc32c (l.take 1020))

def fTeleEn : Fld := ⟨.tele, 0x108, 8, 1⟩
def fTeleLog : Fld := ⟨.tele, 0x108, 0, 4⟩
def fTeleLink : Fld := ⟨.tele, 0x108, 9, 1⟩
def fTeleTail : Fld := ⟨.tele, 0x110, 0, 16⟩
def fTelePhase : Fld := ⟨.tele, 0x110, 16, 1⟩
def fTeleHead : Fld := ⟨.tele, 0x118, 0, 16⟩
def fTeleLost : Fld := ⟨.tele, 0x120, 0, 32⟩
def fBgPeak : Fld := ⟨.tele, 0x138, 0, 16⟩
def fBgTile : Fld := ⟨.tele, 0x138, 16, 16⟩

/-- R474: a PCIe write of a sample fails. -/
def teleLostWrite (sample : Nat) : Eff := doAll [setF fTeleEn 0 0, recordErr .tele 0 eTIMEOUT sample]

/-- R474: a sample written to the ring, or lost. -/
def teleRing (l : List Byte) : Eff := fun s =>
  let size := 2 ^ s.get fTeleLog 0
  let tail := s.get fTeleTail 0
  if !s.on fTeleEn 0 then []
  else if (tail + 1) % size = s.get fTeleHead 0 then
    doAll [addSat fTeleLost 0 1, setEvt .tele 0 0, setAx ⟨.teleLost, 0, 0⟩ 1] s
  else doAll [hostWriteOr 0 (s.get fTeleLink 0) ((s.rd .tele 0 0x100).toNat + 1024 * tail) (sealSample (s.get fTelePhase 0) l)
      (teleLostWrite (s.ax ⟨.samples, 0, 0⟩)),
    setF fTeleTail 0 ((tail + 1) % size), setAx ⟨.teleLost, 0, 0⟩ 0,
    whenE (fun _ => tail + 1 = size) (look (fun s => s.get fTelePhase 0) fun x => setF fTelePhase 0 (1 - x))] s

/-- The SAMPLE window takes a sample. -/
def putSample (l : List Byte) : Eff := forEach (List.range 128) fun i =>
  setReg .tele 0 (0x400 + 8 * i) (BitVec.ofNat 64 (ofBytes ((l.drop (8 * i)).take 8)))

/-- TELEMETRY_SAMPLE: at a WCOUNT that is a multiple of 240,000. -/
def effTelemetry (x : TeleExtra) : Eff := drawFree fun steps => fun s =>
  if !s.bgOn ∨ s.wcount % 240000 ≠ 0 then [] else
  let n := s.ax ⟨.samples, 0, 0⟩ + 1
  let hold := if s.get fClkState 0 = 2 then 2 else 0
  let live := s.sampleLive n s.sampleBytes
  doAll [setAx ⟨.samples, 0, 0⟩ n,
    whenE (fun s => s.get fBgPeak 0 < x.bgPeak) (doAll [setF fBgPeak 0 x.bgPeak, setF fBgTile 0 x.bgTile]),
    setReg .tele 0 0x178 (BitVec.ofNat 64 (x.serdes % 2 ^ 32)),
    if s.wedged then putSample (sealSample 0 (putAt live 1 (leBytes 1 (ofBytes ((live.drop 1).take 1) % 8 / 2 * 2 + 9))))
    else
      doAll [forEach ports48 ceGain, fun s =>
      let l := putAt (s.sampleFull { x with bgPeak := max x.bgPeak (s.get fBgPeak 0) } steps live) 1
        (leBytes 1 (hold + 4 * s.ax ⟨.teleLost, 0, 0⟩) ++ leBytes 2 16)
      doAll [putSample (sealSample 0 l), teleRing l] s]] s

def execTelemetrySample (x : TeleExtra) (s : State) : Host.Outcome State Fault Refusal := .next ((effTelemetry x).run s)

/-- TELE_RING_ENABLE: RING_CFG written; setting ENABLE sets TAIL to 0 and PHASE to 1. -/
def effTeleCfg (src : Src) (v : W64) : Eff :=
  regWrite src .tele 0 0x108 8
    (fun _ s => firstErr [errIf (s.on fTeleEn 0 && getBits v 0 4 ≠ s.get fTeleLog 0) eSTATE,
      errIf (!(4 ≤ getBits v 0 4 && getBits v 0 4 ≤ 14)) eARG])
    (fun _ => doAll [whenE (fun s => !s.on fTeleEn 0 && getBits v 8 1 = 1) (setReg .tele 0 0x110 0x10000),
      setReg .tele 0 0x108 (v &&& 0x30F)])

def execTeleRingEnable (src : Src) (v : W64) (s : State) : Host.Outcome State Fault Refusal :=
  .next ((inTurn src (.teleRingEnable src v) (effTeleCfg src v)).run s)

/-- TELE_RING_FAIL. -/
def effTeleFail (sample : Nat) : Eff := whenE (fun s => s.bgOn && s.on fTeleEn 0)
  (teleLostWrite sample)

def execTeleRingFail (sample : Nat) (s : State) : Host.Outcome State Fault Refusal := .next ((effTeleFail sample).run s)

end Sys2Proof.Machine
end

