-- ==== Sys2Proof/Machine/GeomCmds.lean ====
section
/-! DEFINITION. The commands of the geometry (R25–R30, R404): building and publishing a map, reading and copying the
distance table. -/

namespace Sys2Proof.Machine

/-! ## Building and publishing (R25, R404) -/

/-- The power-on sequence builds the first geometry. -/
def State.bootGeom (s : State) : Bool := s.get fMgmtState 0 = 5

/-- GEOM_BUILD_START: a due change enters a build; SHIFT commands and deaths recorded so far go with it. -/
def effBuildStart : Eff :=
  whenE (fun s => !s.held && !s.tripped && !s.wedged && !s.on fUpdating 1 && (s.ax ⟨.geoDue, 0, 0⟩ ≠ 0 || s.bootGeom))
    (fun s => doAll [setF fUpdating 1 1, fun _ => [.geoNext s.geoLive], setAx ⟨.geoDue, 0, 0⟩ 0,
      setAx ⟨.shiftDue, 1, 0⟩ (s.ax ⟨.shiftDue, 0, 0⟩), setAx ⟨.shiftDue, 0, 0⟩ 0,
      whenE (fun s => s.ax ⟨.persistDue, 0, 0⟩ ≠ 0) (doAll [setAx ⟨.persistDue, 1, 0⟩ 1, setAx ⟨.persistDue, 0, 0⟩ 0])] s)

def execGeomBuildStart (s : State) : Host.Outcome State Fault Refusal := .next (effBuildStart.run s)

/-- The segments a publication shifts: those that become SHIFTED or OUT_OF_USE. -/
def shiftedSegs (old new : GeoMap) : List Nat := (old.diff new).filter fun n => (new.seg n).state = 1 || (new.seg n).state = 3

/-- The tiles of changed segments: a tile that carries no logical tile any more is gated (R15), a tile a root write took
from the crack map leaves FENCED (R399). -/
def swapPower (old new : GeoMap) : Eff := forEach (old.diff new) fun n => forEach (List.range 25) fun c => fun s =>
  let p := segPhys n c
  let w := s.ax ⟨.tilePwr, p, 0⟩
  if (w = 1 ∨ w = 2) ∧ new.carries p = none then tileOffNow p s
  else if w = 3 ∧ s.crackOf p % 256 = 0 ∧ !new.deadRouters.contains p then setAx ⟨.tilePwr, p, 0⟩ 0 s
  else []

/-- Wakes under way keep their physical tile; a logical tile whose tile changed asks again. DEDUCED, log entry 83. -/
def swapWakes (old new : GeoMap) : Eff := fun s =>
  let kept := s.pw.waking.filterMap fun t => if s.ax ⟨.tilePwr, old.phys t, 0⟩ = 1 then new.carries (old.phys t) else none
  let again := s.pw.waking.filter fun t => !kept.contains t && !s.pw.wakes.contains t && !new.outOfUse t &&
    s.ax ⟨.tilePwr, new.phys t, 0⟩ = 0
  modPw (fun w => { w with waking := kept, wakes := (w.wakes ++ again).filter fun t => !new.outOfUse t }) s

/-- R404, R406: a kiln that holds a tile the publication moves. -/
def swapKiln (k tile : Nat) : Eff := fun s =>
  let st := s.get fKilnState k
  doAll [setAx ⟨.kilnMoved, k, 0⟩ 1,
    if s.on fKilnBusy k ∨ st = 3 ∨ st = 4 then kilnFault k eFENCED 3 tile 0
    else whenE (fun s => s.get fKFaultSrc k ≠ 3) (setFault k eFENCED 3 tile 0)] s

/-- A port's STATE follows its enabled links, once its stack is trained (R20, Table 10-14). -/
def portLinksState : Eff := forEach ports48 fun p => fun s =>
  let st := s.get fSlipState p
  let off := s.geo.linksOn p = []
  if st = 0 ∧ off then setF fSlipState p 2 s else if st = 2 ∧ !off then setF fSlipState p 0 s else []

/-- GEOM_SWAP: the build is published. -/
def effGeomSwap : Eff := fun s =>
  if s.held ∨ s.tripped ∨ s.wedged ∨ !s.on fUpdating 1 then [] else
  let old := s.geo
  let new := s.geoNext
  let boot := s.bootGeom
  let moved := if boot then [] else movedTiles old new
  let ks := kilns256.filter fun k => s.kilnTakes k && moved.any (s.inRect k)
  let shifted := if boot then [] else shiftedSegs old new
  let gen := s.get fGen 1
  doAll [swapPower old new, swapWakes old new,
    forEach ks (fun k => swapKiln k ((moved.find? (s.inRect k)).getD 0)),
    forEach (kilns256.filter fun k => s.get fKilnState k = 7 && moved.any (s.inRect k)) (fun k => setAx ⟨.kilnMoved, k, 0⟩ 1),
    fun _ => [.geo new], modNet (fun n => { n with holds := [] }), setF fGen 1 (if gen = 0xFFFFFFFF then 1 else gen + 1), setF fUpdating 1 0, portLinksState,
    setEvt .mgmt 1 0, whenE (fun _ => shifted ≠ []) (setEvt .crack 0 1), wakesCheck, refit eFENCED 3,
    look (fun s => (s.runningOf .crack 0 0x14).take (s.ax ⟨.shiftDue, 1, 0⟩)) (fun l =>
      forEach l fun r => finish r eOK (BitVec.ofNat 64 shifted.length)),
    setAx ⟨.shiftDue, 1, 0⟩ 0,
    whenE (fun s => s.ax ⟨.persistDue, 1, 0⟩ ≠ 0) (doAll [setAx ⟨.persistDue, 2, 0⟩ 1, setAx ⟨.persistDue, 1, 0⟩ 0]),
    whenE (fun _ => boot) (doAll [setF fMgmtState 0 6, setF fBootPhase 0 6])] s

def execGeomSwap (s : State) : Host.Outcome State Fault Refusal := .next (effGeomSwap.run s)

/-! ## The tables as registers (Tables 01-11, 01-12) -/

def fSegSel : Fld := ⟨.mgmt, 0x110, 0, 11⟩
def fDistTile : Fld := ⟨.mgmt, 0x128, 0, 16⟩
def fDistPort : Fld := ⟨.mgmt, 0x128, 16, 6⟩
def fDistInc : Fld := ⟨.mgmt, 0x128, 23, 1⟩
def fCopying : Fld := ⟨.mgmt, 0x018, 0, 64⟩

/-- SEG_DATA. -/
def State.segView (s : State) : W64 :=
  let i := s.geo.seg (s.get fSegSel 1)
  if s.get fGen 1 = 0 then 0
  else BitVec.ofNat 64 (i.state + i.dead * 2 ^ 8 + i.second * 2 ^ 16 + s.get fGen 1 * 2 ^ 32)

/-- SEG_SUMMARY. -/
def State.segSummary (s : State) : W64 :=
  let n (st : Nat) : Nat := (s.geo.segs.filter fun e => e.2.state = st).length
  BitVec.ofNat 64 (n 1 + n 2 * 2 ^ 16 + n 3 * 2 ^ 32)

/-- DIST_DATA. -/
def State.distView (s : State) : W64 :=
  if s.get fGen 1 = 0 then 0
  else BitVec.ofNat 64 (s.geo.dist (s.get fDistTile 1) (s.get fDistPort 1) + s.get fGen 1 * 2 ^ 32)

/-- AUTO_INC of DIST_SEL. -/
def distAdvance : Eff := whenE (fun s => s.on fDistInc 1) fun s =>
  let p := s.get fDistPort 1
  let t := s.get fDistTile 1
  if p < 47 then setF fDistPort 1 (p + 1) s
  else doAll [setF fDistPort 1 0, setF fDistTile 1 (if t < 34559 then t + 1 else 0)] s

/-- DIST_DATA_READ. -/
def effDistRead : Eff := fun s => if s.held then [] else doAll [emit (.readData s.distView), distAdvance] s

def execDistDataRead (s : State) : Host.Outcome State Fault Refusal := .next (effDistRead.run s)

/-! ## The whole-table copy (R28–R30) -/

/-- The copy's writes leave on ROOT_LINK; while that link is down the first of them is discarded with TIMEOUT (R66),
and the copy ends. DEDUCED, log entry 82. -/
def distCopyStart : Eff := fun s =>
  let l := s.get fRootLink 0
  if s.linkUp l then doAll [setF fCopying 1 1,
    emit (.distTable l (s.rd .mgmt 1 0x138).toNat (s.get fGen 1) s.geo)] s
  else recordErr .mgmt 1 eTIMEOUT 0 s

/-- DIST_COPY: R28's checks in the order of its table. -/
def effDistCopy (src : Src) (v : W64) : Eff :=
  regWrite src .mgmt 1 0x140 8
    (fun _ s => if getBits v 0 1 = 0 then none else firstErr [errIf (getBits (s.rd .mgmt 1 0x138) 0 6 ≠ 0) eARG,
      errIf (s.get fCopying 1 = 1) eSTATE, errIf (s.get fGen 1 = 0) eSTATE])
    (fun _ => whenE (fun _ => getBits v 0 1 = 1) distCopyStart)

def execDistCopy (src : Src) (v : W64) (s : State) : Host.Outcome State Fault Refusal :=
  .next ((inTurn src (.distCopy src v) (effDistCopy src v)).run s)

/-- COPY_DONE. -/
def effCopyDone : Eff := whenE (fun s => !s.held && s.get fCopying 1 = 1)
  (doAll [setF fCopying 1 0, setEvt .mgmt 1 1])

def execCopyDone (s : State) : Host.Outcome State Fault Refusal := .next (effCopyDone.run s)

/-- DIST_COPY_WRITE_FAIL at byte `off` of the copy. -/
def effDistFail (off : Nat) : Eff := whenE (fun s => !s.held && s.get fCopying 1 = 1 && off < 6635584)
  (doAll [setF fCopying 1 0, recordErr .mgmt 1 eTIMEOUT off])

def execDistCopyWriteFail (off : Nat) (s : State) : Host.Outcome State Fault Refusal := .next ((effDistFail off).run s)

end Sys2Proof.Machine
end

