-- ==== Sys2Proof/Machine/Rim.lean ====
section
/-! DEFINITION. The rim cores (R68–R75): their states, interrupts, commands, and their cached accesses to the store. -/

namespace Sys2Proof.Machine

def fRimStat : Fld := ⟨.rim, 0x010, 0, 1⟩
def fRimState : Fld := ⟨.rim, 0x018, 0, 64⟩
def fRimEntry : Fld := ⟨.rim, 0x100, 0, 48⟩
def fHaltPc : Fld := ⟨.rim, 0x108, 0, 48⟩
def fIrqPend : Fld := ⟨.rim, 0x110, 0, 2⟩
def fIrqEn : Fld := ⟨.rim, 0x118, 0, 2⟩
def fMsip : Fld := ⟨.rim, 0x128, 0, 1⟩
def fMtimecmp : Fld := ⟨.rim, 0x130, 0, 64⟩
def fRimFault : Fld := ⟨.rim, 0x140, 0, 56⟩
def fInstret : Fld := ⟨.rim, 0x138, 0, 48⟩
def fL2Corr : Fld := ⟨.rim, 0x100, 0, 32⟩
def fL2Bad : Fld := ⟨.rim, 0x100, 32, 16⟩

/-- The hart ID of core c (R68). -/
def mhartid (c : Nat) : Nat := c

/-- The time CSR (R68). DEDUCED, log entry 54. -/
def State.rimTime (s : State) : Nat := s.wcount / 24

/-- R73: the hart's interrupts that are pending, as bits of mip: machine external 11, machine timer 7, supervisor timer
5, machine software 3. -/
def State.rimMip (s : State) (c : Nat) (stimecmp : Nat) : Nat :=
  (if s.get fIrqPend c &&& s.get fIrqEn c ≠ 0 then 2 ^ 11 else 0) + (if s.get fMtimecmp c ≤ s.rimTime then 2 ^ 7 else 0) +
  (if stimecmp ≤ s.rimTime then 2 ^ 5 else 0) + (if s.on fMsip c then 2 ^ 3 else 0)

/-- R72, R73: an interrupt is pending and enabled in mie, delegated to supervisor mode or not. -/
def State.rimIrqOf (s : State) (c mie stimecmp : Nat) : Bool := s.rimMip c stimecmp &&& mie ≠ 0

/-- The same of a waiting core, by the CSRs its WFI found. -/
def State.rimIrq (s : State) (c : Nat) : Bool := s.rimIrqOf c (s.ax ⟨.rimMie, c, 0⟩) (s.ax ⟨.rimStimecmp, c, 0⟩)

/-- INSTRET of core c counts now (R75). -/
def State.rimRetires (s : State) (c : Nat) : Bool := c < 32 && s.on fRimStat c && s.get fRimState c = 1

/-- What a running core retired since INSTRET was last brought up to date: a free value.
DESIGN CHOICE, log entry 4. -/
def rimRetire (c : Nat) : Eff := whenE (fun s => s.rimRetires c) (addFree fInstret c)

/-- Table 02-22: a waiting core with an interrupt runs on. -/
def rimWake (c : Nat) : Eff := whenE (fun s => c < 32 && s.get fRimState c = 2 && s.rimIrq c) (setF fRimState c 1)

/-- Bits of IRQ_PEND set. -/
def rimPend (c bit : Nat) : Eff := doAll [setF ⟨.rim, 0x110, bit, 1⟩ c 1, rimWake c]

/-! ## Commands (R74) -/

/-- A command of a core. -/
def rimCoreSpec (inst : Nat) (args : List W64) (bad : Bool) (blocked : State → Bool) (run : Running → Eff) : CmdSpec where
  argBad _ := 32 ≤ inst || bad || !argsZeroFrom args 1
  blocked s := if blocked s then some eSTATE else none
  run := run

/-- START: the hart's reset, machine mode, pc at ENTRY. -/
def rimStartSpec (inst : Nat) (args : List W64) : CmdSpec :=
  let a := (argN args 0).toNat
  rimCoreSpec inst args (a % 2 ≠ 0 || 0x30000000000 ≤ a) (fun s => s.get fRimState inst = 1 || s.get fRimState inst = 2)
    fun r => doAll [setF fRimState inst 1, setF fRimEntry inst a, setAx ⟨.rimPc, inst, 0⟩ a, setAx ⟨.rimMode, inst, 0⟩ 3,
      finish r eOK 0]

def execRimStart (c : CmdCtx) (inst : Nat) (args : List W64) (s : State) : Host.Outcome State Fault Refusal :=
  .next ((admitCmd c .rim inst 0x10 args (rimStartSpec inst args)).run s)

/-- HALT at a pc. -/
def rimHaltSpec (inst : Nat) (args : List W64) (pc : W64) : CmdSpec :=
  rimCoreSpec inst args (argN args 0 ≠ 0) (fun s => s.get fRimState inst = 0 || s.get fRimState inst = 3)
    fun r => doAll [rimRetire inst, setF fRimState inst 3, setAx ⟨.rimPc, inst, 0⟩ (getBits pc 0 48), setF fHaltPc inst (getBits pc 0 48), setEvt .rim inst 0,
      finish r eOK (BitVec.ofNat 64 (getBits pc 0 48))]

def execRimHalt (c : CmdCtx) (inst : Nat) (args : List W64) (pc : W64) (s : State) : Host.Outcome State Fault Refusal :=
  .next ((admitCmd c .rim inst 0x11 args (rimHaltSpec inst args pc)).run s)

/-- RESET: the core's modified lines go to its L2. -/
def rimResetSpec (inst : Nat) (args : List W64) : CmdSpec :=
  rimCoreSpec inst args (argN args 0 ≠ 0) (fun _ => false)
    fun r => doAll [rimRetire inst, setF fRimState inst 0,
      modRm (fun m => { m with lines := m.lines.map fun l =>
        if l.cluster = inst / 8 ∧ l.core = inst % 8 then { l with core := 8 } else l }),
      finish r eOK 0]

def execRimReset (c : CmdCtx) (inst : Nat) (args : List W64) (s : State) : Host.Outcome State Fault Refusal :=
  .next ((admitCmd c .rim inst 0x12 args (rimResetSpec inst args)).run s)

/-- FLUSH. -/
def rimFlushSpec (inst : Nat) (args : List W64) : CmdSpec where
  argBad _ := inst < 32 || !argsZeroFrom args 0
  blocked _ := none
  run _ := setF fRimState inst 1

def execRimFlush (c : CmdCtx) (inst : Nat) (args : List W64) (s : State) : Host.Outcome State Fault Refusal :=
  .next ((admitCmd c .rim inst 0x13 args (rimFlushSpec inst args)).run s)

/-- RIM_FLUSH_DONE of cluster k: every modified line is in the store. -/
def effFlushDone (k : Nat) : Eff := fun s =>
  match (s.runningOf .rim (32 + k) 0x13).head? with
  | none => []
  | some r =>
    if s.held then [] else
    let n := (s.rm.lines.filter fun l => l.cluster = k).length
    doAll [modRm (fun m => { m with lines := m.lines.filter fun l => l.cluster ≠ k }), finish r eOK (BitVec.ofNat 64 n),
      whenE (fun s => s.runningOf .rim (32 + k) 0x13 = []) (setF fRimState (32 + k) 0), setEvt .rim (32 + k) 0] s

def execRimFlushDone (k : Nat) (s : State) : Host.Outcome State Fault Refusal := .next ((effFlushDone k).run s)

/-! ## Interrupts (R72, R73) -/

/-- RIM_WFI: a core executes WFI with these values of mie and stimecmp; with no interrupt pending and enabled it waits. -/
def effRimWfi (c mie stimecmp : Nat) : Eff :=
  whenE (fun s => s.fabLive && c < 32 && s.get fRimState c = 1 && !s.rimIrqOf c mie stimecmp)
    (doAll [rimRetire c, setAx ⟨.rimMie, c, 0⟩ mie, setAx ⟨.rimStimecmp, c, 0⟩ stimecmp, setF fRimState c 2])

def execRimWfi (wait : RimWait) (s : State) : Host.Outcome State Fault Refusal :=
  .next ((effRimWfi wait.core wait.mie wait.stimecmp.toNat).run s)

/-- RIM_DOORBELL. -/
def effRimDoorbell (src : Src) (c : Nat) (v : W64) : Eff :=
  if 32 ≤ c then skip else
  regWrite src .rim c 0x120 8 noCheck (fun _ => whenE (fun _ => getBits v 0 1 = 1) (rimPend c 0))

def execRimDoorbell (src : Src) (core : Nat) (v : W64) (s : State) : Host.Outcome State Fault Refusal :=
  .next ((inTurn src (.rimDoorbell src core v) (effRimDoorbell src core v)).run s)

/-- RIM_TIMER_INTERRUPT: time has reached MTIMECMP, or a waiting hart's stimecmp. -/
def effRimTimer (c : Nat) : Eff :=
  whenE (fun s => s.fabLive && (s.get fMtimecmp c ≤ s.rimTime || s.ax ⟨.rimStimecmp, c, 0⟩ ≤ s.rimTime)) (rimWake c)

def execRimTimerInterrupt (core : Nat) (s : State) : Host.Outcome State Fault Refusal := .next ((effRimTimer core).run s)

/-- MSIP_WRITE: a write of MSIP, or of IRQ_EN. -/
def effMsipWrite (src : Src) (c : Nat) (irqEn : Bool) (v : W64) : Eff :=
  if 32 ≤ c then skip else
  regWrite src .rim c (if irqEn then 0x118 else 0x128) 8 noCheck
    (fun _ => doAll [if irqEn then setReg .rim c 0x118 (v &&& 3) else setReg .rim c 0x128 (v &&& 1), rimWake c])

def execMsipWrite (src : Src) (core : Nat) (irqEn : Bool) (v : W64) (s : State) : Host.Outcome State Fault Refusal :=
  .next ((inTurn src (.msipWrite src core irqEn v) (effMsipWrite src core irqEn v)).run s)

/-! ## Accesses to the store (R69–R71) -/

/-- An access fault the module raises on a core: FAULT, ACCESS_FAULT, and the fault itself. -/
def rimFault (c addr code : Nat) : Eff :=
  doAll [setF fRimFault c (addr % 2 ^ 48 + code * 2 ^ 48), setEvt .rim c 1, emit (.rimFault c)]

/-- The 64-byte lines of an extent. -/
def linesAt (a n : Nat) : List Nat := (List.range ((a + n + 63) / 64 - a / 64)).map fun i => (a / 64 + i) * 64

/-- A cached store: the coherent view changes at once; a line not yet modified keeps the stack's own bytes beside it. -/
def rimCached (c a : Nat) (data : List Byte) : Eff := fun s =>
  let held (l : Nat) : Option RimLine := s.rm.lines.find? fun x => x.addr = l
  let mine (l : Nat) : RimLine := match held l with
    | some x => { x with cluster := c / 8, core := c % 8 }
    | none => ⟨l, c / 8, c % 8, s.stRds l 64⟩
  let ls := linesAt a data.length
  (data.zipIdx.map fun x => Upd.store (a + x.2) x.1) ++
  [.storeBad fun l => l.filter fun b => !(a ≤ b * 32 && b * 32 + 32 ≤ a + data.length),
   .rm fun r => { r with lines := (r.lines.filter fun x => !ls.contains x.addr) ++ ls.map mine }]

/-- A store goes to a HOME or MIRROR region, where lines are cached write-through. -/
def State.writeThrough (s : State) (a n : Nat) : Bool :=
  (List.range 4).any fun r => s.meetsRegion (a / slotSize) r a n

/-- R71: an uncorrectable L2 error is met in a line the cluster holds modified. -/
def State.l2Dirty (s : State) (k a n : Nat) : Bool := s.rm.lines.any fun l => l.cluster = k && (linesAt a n).contains l.addr

/-- R71: what an access meets in its L2: 0 nothing, 1 a single-bit error, which is corrected, 2 an uncorrectable one: in
a modified line ECC_UE in the L2 page and a load access fault, in a clean one a fresh read from the store.
DEDUCED, log entry 102. -/
def l2Meet (c addr n l2 : Nat) (go : Eff) : Eff := fun s =>
  match l2 with
  | 1 => doAll [addSat fL2Corr (32 + c / 8) 1, go] s
  | 2 => doAll [addSat fL2Bad (32 + c / 8) 1,
      if s.l2Dirty (c / 8) addr n then doAll [recordErrFree .rim (32 + c / 8) eECC_UE, rimFault c addr eECC_UE] else go] s
  | _ => go s

/-- RIM_STORE_ACCESS: a load (no data) or a store of `len` bytes, and what it meets in the L2.
DESIGN CHOICE, log entry 53. -/
def effRimStore (c addr len : Nat) (data : Option (List Byte)) (l2 : Nat) : Eff := fun s =>
  let n := match data with | some d => d.length | none => len
  let sag := s.get (fSaggar .rim) c
  if !s.fabLive ∨ 32 ≤ c ∨ s.get fRimState c ≠ 1 ∨ n = 0 ∨ 0x30000000000 ≤ addr then [] else
  match s.firstUnpop addr n with
  | some x =>
    if data.isNone ∧ s.badBursts addr n ≠ [] then
      doAll [badMeet 6 addr n, rimFault c addr eECC_UE, recordErr .rim c eARG (storeInfo x)] s
    else doAll [rimFault c x eARG, recordErr .rim c eARG (storeInfo x)] s
  | none =>
    match (if sag = 0 then none else s.sagDenied (some (s.get fEpoch 0)) sag data.isNone data.isSome addr n) with
    | some x => doAll [rimFault c x eSAGGAR, recordErr .rim c eSAGGAR (storeInfo x)] s
    | none => l2Meet c addr n l2 (match data with
      | none => fun s => if s.badBursts addr n = [] then doAll [countBytes fBytesRd addr n, emit (.bytes (s.stRds addr n) false)] s
          else doAll [badMeet 6 addr n, rimFault c addr eECC_UE] s
      | some d => fun s => if s.badPart addr n then doAll [badMeet 6 addr n, rimFault c addr eECC_UE] s
          else if s.writeThrough addr n then storeWrite addr d s else rimCached c addr d s) s

def execRimStoreAccess (core : RimPort) (addr len : Nat) (data : Option (List Byte)) (s : State) :
    Host.Outcome State Fault Refusal := .next ((effRimStore core.core addr len data core.l2).run s)

end Sys2Proof.Machine
end

