-- ==== Sys2Proof/Machine/HostIf.lean ====
section
/-! DEFINITION. The host interface (chapter 02): functions and links, command rings, fences, mailboxes, event rings,
MSI-X, host semaphores. -/

namespace Sys2Proof.Machine

/-! ## Command rings (R49–R51) -/

/-- Entries of ring n of function f. -/
def State.ringSz (s : State) (f n : Nat) : Nat := 2 ^ s.get (fRingLog n) f

/-- RING_BASE of a ring. -/
def State.ringBase (s : State) (f n : Nat) : Nat := (s.rd .host f (0x200 + 0x20 * n)).toNat

/-- R49: RING_CFG written. -/
def ringCfg (f n : Nat) (v : W64) : Eff := fun s =>
  let rise := !s.on (fRingEnable n) f && getBits v 8 1 = 1
  doAll [setReg .host f (0x208 + 0x20 * n) (v &&& (if f = 0 then 0x30F else 0x10F)),
    whenE (fun _ => rise) (doAll [setF (fRingHead n) f 0, setAx ⟨.ringTail, f, n⟩ 0]),
    whenE (fun _ => rise || getBits v 8 1 = 0) (setAx ⟨.ringFetch, f, n⟩ 0)] s

/-- RING_ENABLE: a write of RING_CFG. DEDUCED, log entry 37. -/
def effRingEnable (src : Src) (f n : Nat) (v : W64) : Eff :=
  if 64 ≤ f ∨ 4 ≤ n then skip else
  regWrite src .host f (0x208 + 0x20 * n) 8
    (fun _ s => firstErr [errIf (s.on (fRingEnable n) f && getBits v 0 4 ≠ s.get (fRingLog n) f) eSTATE,
      errIf (!(4 ≤ getBits v 0 4 && getBits v 0 4 ≤ 12)) eARG])
    (fun _ => ringCfg f n v)

def execRingEnable (src : Src) (f n : Nat) (v : W64) (s : State) : Host.Outcome State Fault Refusal :=
  .next ((inTurn src (.ringEnable src f n v) (effRingEnable src f n v)).run s)

/-- The read of the entry at RING_HEAD is sent, while entries are posted and the link is up. -/
def fetchNext (f n : Nat) : Eff := fun s =>
  let h := s.get (fRingHead n) f
  if h ≠ s.ax ⟨.ringTail, f, n⟩ ∧ s.linkUp (s.ringLink f n) then
    doAll [setAx ⟨.ringFetch, f, n⟩ 1, emit (.hostRead f (s.ringLink f n) (s.ringBase f n + 64 * h) 64)] s
  else setAx ⟨.ringFetch, f, n⟩ 0 s

/-- DOORBELL. DEDUCED, log entry 79. -/
def effDoorbell (src : Src) (f n : Nat) (v : W64) : Eff :=
  if 64 ≤ f ∨ 4 ≤ n then skip else
  regWrite src .host f (0x218 + 0x20 * n) 8
    (fun _ s => firstErr [errIf (!s.on (fRingEnable n) f) eSTATE, errIf (s.ringSz f n ≤ getBits v 0 16) eARG])
    (fun _ => doAll [setAx ⟨.ringTail, f, n⟩ (getBits v 0 16),
      whenE (fun s => s.ax ⟨.ringFetch, f, n⟩ = 0) (fetchNext f n)])

def execDoorbell (src : Src) (f n : Nat) (v : W64) (s : State) : Host.Outcome State Fault Refusal :=
  .next ((inTurn src (.doorbell src f n v) (effDoorbell src f n v)).run s)

/-- CMD_ENTRY_FETCHED: an entry with OWN = 1 waits for admission, and the next is read; OWN = 0 stops the fetch. -/
def effCmdFetched (f n : Nat) (words : List W64) : Eff := fun s =>
  let e := CmdEntry.ofWords words
  if !s.fabLive ∨ 64 ≤ f ∨ 4 ≤ n ∨ !s.active f ∨ !s.on (fRingEnable n) f ∨ s.ax ⟨.ringFetch, f, n⟩ = 0 ∨
    !s.linkUp (s.ringLink f n) then []
  else if !e.own then setAx ⟨.ringFetch, f, n⟩ 0 s
  else
    let h := s.get (fRingHead n) f
    doAll [modHi (fun x => { x with fetched := x.fetched ++ [⟨f, n, h, e⟩] }),
      setF (fRingHead n) f ((h + 1) % s.ringSz f n), fetchNext f n] s

def execCmdEntryFetched (f n : Nat) (words : List W64) (s : State) : Host.Outcome State Fault Refusal :=
  .next ((effCmdFetched f n words).run s)

/-- RING_PCIE_FAIL: of the read of entry idx (RING_HEAD), or of the write-back of an entry idx decided before: no entry
after it is taken (R49).  A write-back may fail after the ring was disabled. -/
def effRingFail (f n idx : Nat) : Eff :=
  whenE (fun s => s.fabLive && f < 64 && n < 4 && s.active f && idx < s.ringSz f n)
    (doAll [whenE (fun s => s.get (fRingHead n) f ≠ idx)
        (modHi fun h => { h with fetched := h.fetched.filter fun x => !(x.func = f && x.ring = n) }),
      ringLost f n idx])

def execRingPcieFail (f n idx : Nat) (s : State) : Host.Outcome State Fault Refusal := .next ((effRingFail f n idx).run s)

/-! ## Admission (R52–R54) -/

/-- The checks of NOP and FENCE: only the mailbox's. -/
def State.plainCode (s : State) (c : CmdCtx) : Nat :=
  if c.mbxEn && (s.on (fMbxValid c.mailbox) (64 + c.func) || s.on (fMbxPending c.mailbox) (64 + c.func)) then eFULL else eOK

/-- NOP (opcode 0) and FENCE (opcode 1): word 0 as posted, what the accepted entry does. -/
def admitPlain (c : CmdCtx) (op word0 : Nat) (run : Running → Eff) : Eff := fun s =>
  if !s.fabLive || !s.active c.func || s.fenceHeld c.func c.ring then [] else
  if s.plainCode c = eOK then accept c word0 .host 0 op [] run s else reject c word0 eFULL s

/-- A result for which no rule states a value. -/
def finishFree (r : Running) : Eff := drawFree fun w => finish r eOK w

/-- Word 0 of a NOP or FENCE, BLOCK and INSTANCE 0. DESIGN CHOICE, log entry 19. -/
def plainWord0 (c : CmdCtx) (op : Nat) : Nat := entryWord0 ⟨false, op, 0, 0, c.mailbox, c.mbxEn, c.userTag, []⟩ 0

def effNop (c : CmdCtx) : Eff := admitPlain c 0 (plainWord0 c 0) finishFree

/-- NOP: it completes at admission. -/
def execNop (c : CmdCtx) (s : State) : Host.Outcome State Fault Refusal := .next ((effNop c).run s)

def effFence (c : CmdCtx) : Eff := admitPlain c 1 (plainWord0 c 1) (fun _ => skip)

/-- FENCE: it waits for the ring's earlier commands. -/
def execFence (c : CmdCtx) (s : State) : Host.Outcome State Fault Refusal := .next ((effFence c).run s)

/-- FENCE_COMPLETE. -/
def effFenceComplete (f n : Nat) : Eff := fun s =>
  let mine := s.hi.running.filter fun r => r.ctx.func = f && r.ctx.ring = n
  match mine.find? fun r => r.blk = .host && r.op = 1 with
  | none => []
  | some r => if s.held || mine.any fun x => x.seq < r.seq then [] else finishFree r s

def execFenceComplete (f n : Nat) (s : State) : Host.Outcome State Fault Refusal := .next ((effFenceComplete f n).run s)

/-- What a block does with an opcode; none where it does not accept it (R52).  The pc of a rim core's HALT is the hart's
own: a free value. -/
def specOf (blk : Blk) (op inst : Nat) (args : List W64) (pc : W64) : Option CmdSpec :=
  match blk, op with
  | .kiln, 0x10 => some (loadSpec inst args) | .kiln, 0x11 => some (startSpec inst args)
  | .kiln, 0x12 => some (stepSpec inst args) | .kiln, 0x13 => some (stopSpec inst args)
  | .kiln, 0x14 => some (abortSpec inst args) | .kiln, 0x15 => some (swapOutSpec inst args)
  | .kiln, 0x16 => some (swapInSpec inst args) | .kiln, 0x17 => some (unloadSpec inst args)
  | .rim, 0x10 => some (rimStartSpec inst args) | .rim, 0x11 => some (rimHaltSpec inst args pc)
  | .rim, 0x12 => some (rimResetSpec inst args) | .rim, 0x13 => some (rimFlushSpec inst args)
  | .pug, 0x10 => some (abortStepSpec inst args)
  | .glaze, 0x10 => some (mirrorSyncSpec args)
  | .fab, 0x10 => some (retrainSpec inst args) | .blink, 0x10 => some (retrainSpec (16 + inst) args)
  | .crack, 0x10 => some (pairSpec args) | .crack, 0x11 => some (unpairSpec args) | .crack, 0x12 => some (promoteSpec args)
  | .crack, 0x13 => some (persistSpec args) | .crack, 0x14 => some (shiftSpec args)
  | .pwr, 0x10 => some (sleepSpec inst args) | .pwr, 0x11 => some (wakeSpec inst args)
  | _, _ => none

/-- The context of a fetched entry. -/
def Fetched.ctx (x : Fetched) : CmdCtx := ⟨x.func, x.ring, x.idx, x.entry.mailbox % 64, x.entry.mbxEn, x.entry.userTag⟩

/-- A fetched entry decided. DEDUCED, log entry 41. -/
def decideEntry (x : Fetched) (pc : W64) : Eff :=
  let e := x.entry
  let w := entryWord0 { e with own := false } 0
  match e.opcode with
  | 0 => admitPlain x.ctx 0 w finishFree
  | 1 => admitPlain x.ctx 1 w (fun _ => skip)
  | op => match blkOfCode e.blk with
    | none => reject x.ctx w eARG
    | some b => match specOf b op e.inst e.args pc with
      | none => reject x.ctx w eARG
      | some sp => admitCmd x.ctx b e.inst op e.args sp

/-- The rings of a function with an entry that can be decided. -/
def State.ringsReady (s : State) (f : Nat) : List Nat := (List.range 4).filter fun n =>
  !s.fenceHeld f n && s.hi.fetched.any fun x => x.func = f && x.ring = n

/-- The ring whose turn it is, round robin after the one last served. DESIGN CHOICE, log entry 40. -/
def State.ringTurn (s : State) (f : Nat) : Option Nat :=
  ((List.range 4).map fun i => (s.ax ⟨.ringLast, f, 0⟩ + i) % 4).find? fun n => (s.ringsReady f).contains n

/-- CMD_ADMIT: the oldest fetched entry of the ring whose turn it is. -/
def effCmdAdmit (f n : Nat) : Eff := fun s =>
  if !s.fabLive ∨ !s.active f ∨ s.ringTurn f ≠ some n then [] else
  match s.hi.fetched.find? fun x => x.func = f && x.ring = n with
  | none => []
  | some x => doAll [modHi (fun h => { h with fetched := h.fetched.erase x }), setAx ⟨.ringLast, f, 0⟩ (n + 1),
      drawFree (decideEntry x)] s

def execCmdAdmit (f n : Nat) (s : State) : Host.Outcome State Fault Refusal := .next ((effCmdAdmit f n).run s)

/-! ## Mailboxes (R55–R57) -/

/-- MBX_ACK. -/
def effMbxAck (src : Src) (f m : Nat) (v : W64) : Eff :=
  if 64 ≤ f ∨ 64 ≤ m then skip else
  regWrite src .host (64 + f) (0x118 + 0x20 * m) 8
    (fun _ s => if !s.on (fMbxValid m) (64 + f) then some ⟨eSTATE, some m⟩
      else if getBits v 0 32 ≠ s.get (fMbxSeq m) (64 + f) then some ⟨eARG, some m⟩ else none)
    (fun _ => setF (fMbxValid m) (64 + f) 0)

def execMbxAck (src : Src) (f m : Nat) (v : W64) (s : State) : Host.Outcome State Fault Refusal :=
  .next ((inTurn src (.mbxAck src f m v) (effMbxAck src f m v)).run s)

/-! ## Function Level Reset, functions, links (R40, R58, R66) -/

def fEvtRingEn : Fld := ⟨.host, 0x308, 8, 1⟩
def fEvtRingLog : Fld := ⟨.host, 0x308, 0, 4⟩
def fEvtRingLink : Fld := ⟨.host, 0x308, 9, 1⟩
def fEvtTail : Fld := ⟨.host, 0x310, 0, 16⟩
def fEvtPhase : Fld := ⟨.host, 0x310, 16, 1⟩
def fEvtHead : Fld := ⟨.host, 0x318, 0, 16⟩
def fEvtLost : Fld := ⟨.host, 0x320, 0, 32⟩

/-- MSI-X of a function as PCIe leaves it after a Function Level Reset. -/
def msixClear (f : Nat) : Eff := fun _ =>
  [.regClear fun k => k.blk = .host && k.inst = f && 0x800 ≤ k.off && k.off < 0x908,
   .auxClear fun a => (a.kind = .msixEn || a.kind = .msixMask) && a.a = f]

/-- The effects of a Function Level Reset of function f.  The ERR, EVT_STATUS and EVT_ENABLE of the SEM page and of
the mailbox page keep their values. DESIGN CHOICE, log entry 100. -/
def flrEffect (f : Nat) : Eff :=
  doAll [forEach (List.range 4) (fun n => doAll [setF (fRingEnable n) f 0, setAx ⟨.ringFetch, f, n⟩ 0]),
    setF fEvtRingEn f 0,
    modHi (fun h => { h with fetched := h.fetched.filter fun x => x.func ≠ f
                             running := h.running.map fun r => if r.ctx.func = f then { r with post := false } else r }),
    fun _ => [.regClear fun k => (k.blk = .host && k.inst = 64 + f && 0x100 ≤ k.off && k.off < 0x900) ||
      (k.blk = .sem && k.inst = f && 0x100 ≤ k.off)],
    msixClear f,
    whenE (fun _ => f = 0) (look (fun s => s.regs.filterMap fun e =>
      if e.1.blk = .tdma && e.1.off = 0x118 then some e.1.inst else none) fun l => forEach l.dedup hDisable)]

/-- FUNCTION_LEVEL_RESET; one that meets a module reset waits for its end (R484). -/
def effFlr (f : Nat) : Eff := fun s =>
  if s.held ∨ 64 ≤ f ∨ !s.active f then []
  else if s.ax ⟨.resetting, 0, 0⟩ ≠ 0 then setAx ⟨.flrWait, f, 0⟩ 1 s
  else flrEffect f s

def execFunctionLevelReset (f : Nat) (s : State) : Host.Outcome State Fault Refusal := .next ((effFlr f).run s)

/-- The virtual functions active on link h. -/
def State.vfsOn (s : State) (h : Nat) : List Nat := (List.range 64).filter fun f => f ≠ 0 && s.active f && s.bind f = h

/-- R40: virtual function f stops being active: the effects of a Function Level Reset, and nothing of its rings,
mailboxes, semaphores and MSI-X remains; its SAGGAR and SEQ stay. DEDUCED, log entry 101. -/
def vfLeave (f : Nat) : Eff :=
  doAll [flrEffect f, fun _ =>
    [.regClear fun k => ((k.blk = .host && (k.inst = f || k.inst = 64 + f)) || (k.blk = .sem && k.inst = f)) &&
        k.off ≠ offSaggar && k.off ≠ offSeq,
     .auxClear fun a => (a.kind = .ringTail || a.kind = .ringFetch || a.kind = .ringLast || a.kind = .flrWait) && a.a = f]]

/-- NumVFs and VF Enable of a link; the functions that leave are reset. -/
def setVfs (h numVfs : Nat) (enable : Bool) : Eff := fun s =>
  let before := s.vfsOn h
  doAll [setReg .host (256 + h) 0x110 (BitVec.ofNat 64 (numVfs % 64 + if enable then 256 else 0)),
    look (fun s => before.filter fun f => !s.active f) fun l => forEach l vfLeave] s

/-- VF_ACTIVE_CHANGE: the host writes the SR-IOV capability of a link. -/
def effVfChange (h numVfs : Nat) (enable : Bool) : Eff :=
  whenE (fun s => !s.held && h < 2 && s.linkUp h && numVfs ≤ (pcieCaps 0).totalVfs) (setVfs h numVfs enable)

def execVfActiveChange (h numVfs : Nat) (enable : Bool) (s : State) : Host.Outcome State Fault Refusal :=
  .next ((effVfChange h numVfs enable).run s)

/-- FUNC_BIND_WRITE: no active slot's link changes; bit 0 reads 0. -/
def effFuncBind (src : Src) (v : W64) : Eff :=
  regWrite src .host 0 0x108 8
    (fun root s => firstErr [errIf (!root) eSAGGAR,
      errIf ((List.range 64).any fun f => f ≠ 0 && s.active f && getBits v f 1 ≠ s.bind f) eSTATE])
    (fun _ => setReg .host 0 0x108 (v &&& ~~~1))

def execFuncBindWrite (src : Src) (v : W64) (s : State) : Host.Outcome State Fault Refusal :=
  .next ((inTurn src (.funcBindWrite src v) (effFuncBind src v)).run s)

/-- The physical tiles whose ring 1 is enabled. -/
def State.hRings (s : State) : List Nat := s.regs.filterMap fun e =>
  if e.1.blk = .tdma && e.1.off = 0x118 && s.on fHEn e.1.inst then some e.1.inst else none

/-- HOST_LINK_DOWN: the rings that use the link stop fetching (R66); ring 1 of every tile, which uses ROOT_LINK, is lost (R235). -/
def effLinkDown (h : Nat) : Eff := whenE (fun s => !s.held && h < 2 && s.linkUp h)
  (doAll [setF fLinkUp (256 + h) 0, addSat ⟨.host, 0x108, 0, 16⟩ (256 + h) 1, recordErrFree .host (256 + h) eLINK_DOWN,
    forEach (List.range 64) (fun f => forEach (List.range 4) fun n =>
      whenE (fun s => s.ringLink f n = h) (setAx ⟨.ringFetch, f, n⟩ 0)),
    whenE (fun s => s.get fRootLink 0 = h) (look State.hRings fun l => forEach l fun p => fun s => hLost p (s.get fHHead p) s)])

def execHostLinkDown (h : Nat) (s : State) : Host.Outcome State Fault Refusal := .next ((effLinkDown h).run s)

/-- HOST_LINK_UP: LINK_STATUS shows the training; pending messages of the link's functions are sent (R62, R480). -/
def effLinkUp (h speed width : Nat) (flit : Bool) : Eff :=
  whenE (fun s => !s.held && h < 2 && !s.linkUp h && s.ax ⟨.perst, h, 0⟩ ≠ 0 && s.get fMgmtState 0 ≠ 1)
    (doAll [setReg .host (256 + h) 0x100
        (BitVec.ofNat 64 (1 + speed % 16 * 16 + width % 32 * 256 + if flit then 65536 else 0)),
      forEach (List.range 64) fun f => whenE (fun s => s.active f && s.funcLink f = h) (msixFlush f)])

def execHostLinkUp (h speed width : Nat) (flit : Bool) (s : State) : Host.Outcome State Fault Refusal :=
  .next ((effLinkUp h speed width flit).run s)

/-- The link a change of a function's MSI-X comes over: a virtual function's own; the root's configuration space is one
per link, its table is reached over both. -/
def State.msixLink (s : State) (f : Nat) (chg : MsixChange) : Nat :=
  if f ≠ 0 then s.bind f else match chg with
    | .vec _ => if s.linkUp 0 then 0 else 1
    | .func l _ _ => l

/-- MSIX_UNMASK: a vector's mask bit is cleared, or MSI-X Enable and Function Mask of a configuration space are written;
what is pending and free is sent. -/
def effMsixUnmask (f : Nat) (chg : MsixChange) : Eff :=
  whenE (fun s => !s.held && f < 64 && s.active f && s.linkUp (s.msixLink f chg)) fun s =>
    let c := if f = 0 then s.msixLink f chg else 0
    doAll [match chg with
      | .vec v => if v < (pcieCaps f).msixVectors then setF (fVecMask v) f 0 else skip
      | .func _ en mask => doAll [setAx ⟨.msixEn, f, c⟩ (if en then 1 else 0), setAx ⟨.msixMask, f, c⟩ (if mask then 1 else 0)],
      msixFlush f] s

def execMsixUnmask (f : Nat) (chg : MsixChange) (s : State) : Host.Outcome State Fault Refusal :=
  .next ((effMsixUnmask f chg).run s)

/-! ## Event rings (R59–R61) -/

/-- EVT_RING_ENABLE: a write of EVT_RING_CFG. -/
def effEvtCfg (src : Src) (f : Nat) (v : W64) : Eff :=
  if 64 ≤ f then skip else
  regWrite src .host f 0x308 8
    (fun _ s => firstErr [errIf (s.on fEvtRingEn f && getBits v 0 4 ≠ s.get fEvtRingLog f) eSTATE,
      errIf (!(4 ≤ getBits v 0 4 && getBits v 0 4 ≤ 14)) eARG])
    (fun _ => doAll [whenE (fun s => !s.on fEvtRingEn f && getBits v 8 1 = 1) (setReg .host f 0x310 0x10000),
      setReg .host f 0x308 (v &&& (if f = 0 then 0x30F else 0x10F))])

def execEvtRingEnable (src : Src) (f : Nat) (v : W64) (s : State) : Host.Outcome State Fault Refusal :=
  .next ((inTurn src (.evtRingEnable src f v) (effEvtCfg src f v)).run s)

/-- The INSTANCE an event's entry shows: tile pages by logical tile; none where the tile carries none any more. -/
def State.evtInst (s : State) (e : Event) : Option Nat :=
  match computeTile e.blk e.inst with
  | some p => s.geo.carries p
  | none => if e.blk = .router then s.geo.carries e.inst else some e.inst

/-- An entry of the event ring (Table 02-11), without PHASE. -/
def evtBytes (e : Event) (inst seq phase : Nat) : List Byte :=
  leBytes 8 (phase % 2 + e.code % 256 * 2 ^ 8 + blkCode e.blk * 2 ^ 16 + inst % 65536 * 2 ^ 32 + e.bit % 64 * 2 ^ 48)
    ++ leBytes 8 seq ++ leBytes 8 e.info ++ leBytes 8 0

/-- R61: the write of the entry at the index failed: ENABLE clears, and TIMEOUT is recorded with the index. -/
def evtLost (f idx : Nat) : Eff := doAll [setF fEvtRingEn f 0, recordErr .host f eTIMEOUT idx]

/-- An event reaches the ring of function f; a link that is down loses the entry (R61, R66), and EVT_RING_TAIL stays at
it. -/
def evtToRing (f : Nat) (e : Event) (inst : Nat) : Eff := fun s =>
  let size := 2 ^ s.get fEvtRingLog f
  let tail := s.get fEvtTail f
  let link := if f = 0 then s.get fEvtRingLink 0 else s.bind f
  if !s.on fEvtRingEn f then []
  else if (tail + 1) % size = s.get fEvtHead f then doAll [addSat fEvtLost f 1, setEvt .host f 1] s
  else if !s.linkUp link then evtLost f tail s
  else doAll [emit (.hostWrite f link ((s.rd .host f 0x300).toNat + 32 * tail) (evtBytes e inst s.seq (s.get fEvtPhase f))),
    setF fEvtTail f ((tail + 1) % size),
    whenE (fun _ => tail + 1 = size) (setF fEvtPhase f (1 - s.get fEvtPhase f)), msixDue f 0] s

/-- Whether the geometry's GEOM_CHANGED waits before place i: CRACK's SHIFT_DONE is admitted after it (R25). -/
def State.behindGeom (s : State) (i : Nat) (e : Event) : Bool :=
  e.blk = .crack && e.bit = 1 && (s.hi.evq.take i).any fun x => x.blk = .mgmt && x.inst = 1 && x.bit = 0

/-- EVENT_ADMIT: event i of those that wait takes a number; it goes to the home function's ring and, with MIRROR_ALL, to
the root's; rim cores of the page's saggar see IRQ_PEND.EVENT. DEDUCED, log entry 51. -/
def effEventAdmit (i : Nat) : Eff := fun s =>
  match s.hi.evq[i]? with
  | none => []
  | some e =>
    if !s.fabLive ∨ s.behindGeom i e then [] else
    let own := s.get (fSaggar e.blk) e.inst
    let home := s.home own
    doAll [modHi (fun h => { h with evq := h.evq.eraseIdx i }), fun _ => [.seq],
      whenE (fun s => e.blk = .crack && e.bit = 0 && s.on fDeathEvent 0)
        (fun s => setF ⟨.crack, 0x118, 32, 32⟩ 0 (s.seq % 2 ^ 32) s),
      withSome (s.evtInst e) skip (fun n => doAll [withSome home skip (fun f => evtToRing f e n),
        whenE (fun s => s.on fMirrorAll 0 && home ≠ some 0) (evtToRing 0 e n)]),
      forEach (List.range 32) (fun c => whenE (fun s => s.get (fSaggar .rim) c = own) (rimPend c 1))] s

def execEventAdmit (i : Nat) (s : State) : Host.Outcome State Fault Refusal := .next ((effEventAdmit i).run s)

/-- EVT_RING_WRITE_FAIL (R61): the entry at the index failed: ENABLE clears, EVT_RING_TAIL stays at it (DEDUCED, log entry 35),
TIMEOUT is recorded.  A write may fail after the ring was disabled: then only the record is left. -/
def effEvtFail (f idx : Nat) : Eff :=
  whenE (fun s => !s.held && f < 64 && s.active f && idx < 2 ^ s.get fEvtRingLog f)
    (doAll [whenE (fun s => s.on fEvtRingEn f) (doAll
        [whenE (fun s => s.get fEvtTail f ≤ idx) (fun s => setF fEvtPhase f (1 - s.get fEvtPhase f) s), setF fEvtTail f idx]),
      evtLost f idx])

def execEvtRingWriteFail (f idx : Nat) (s : State) : Host.Outcome State Fault Refusal := .next ((effEvtFail f idx).run s)

/-! ## Host semaphores (R63, R64) -/

/-- The saggar a writer presents. -/
def State.srcSag (s : State) : Src → Nat
  | .host f _ => s.funcSaggar f
  | .rim c => s.get (fSaggar .rim) c
  | .mgmt => 0

/-- Table 02-13. -/
def State.semErr (s : State) (src : Src) (root : Bool) (v : W64) : Option WErr :=
  let t := getBits v 0 16
  let bad (c : Nat) : Option WErr := some ⟨c, some (getBits v 0 32)⟩
  if 34559 < t ∨ 47 < getBits v 16 6 ∨ getBits v 24 8 = 0 then bad eARG
  else match s.kilnOf t with
    | none => bad eSTATE
    | some k =>
      let st := s.get fKilnState k
      if !root ∧ s.kilnSag k none ≠ s.srcSag src then bad eSAGGAR
      else if s.geo.outOfUse t ∨ s.ax ⟨.tilePwr, s.phys t, 0⟩ = 3 then bad eFENCED
      else if 1 ≤ st ∧ st ≤ 4 then none else bad eSTATE

/-- SEM_SIGNAL; a SAGGAR failure is a denial at the host semaphores (R429). -/
def effSemSignal (src : Src) (f : Nat) (v : W64) : Eff := fun s =>
  let t := getBits v 0 16
  let denied := match s.writeAccess src .sem f with
    | .ok root => s.present .sem f && (s.semErr src root v).any fun e => e.code = eSAGGAR
    | _ => false
  if 64 ≤ f then [] else
  doAll [regWrite src .sem f 0x100 8 (fun root s => s.semErr src root v)
      (fun _ s => semAdd (s.phys t) (getBits v 16 6) (getBits v 24 8) s),
    whenE (fun _ => denied) (deny 8 (s.srcSag src) (s.kilnSag ((s.kilnOf t).getD 0) none) true t)] s

def execSemSignal (src : Src) (f : Nat) (v : W64) (s : State) : Host.Outcome State Fault Refusal :=
  .next ((inTurn src (.semSignal src f v) (effSemSignal src f v)).run s)

def fHsemCount (i : Nat) : Fld := ⟨.sem, 0x200 + 8 * i, 0, 32⟩
def fHsemPending (i : Nat) : Fld := ⟨.sem, 0x108, i, 1⟩
def fHsemIrq (i : Nat) : Fld := ⟨.sem, 0x110, i, 1⟩
def fHsemDrop : Fld := ⟨.arb, 0x108, 0, 32⟩

/-- HOST_SEM_SIGNAL: signal i of those that wait. DEDUCED, log entry 39. -/
def effHostSem (i : Nat) : Eff := fun s =>
  match s.hi.signals[i]? with
  | none => []
  | some g =>
    if !s.fabLive then [] else
    doAll [modHi (fun h => { h with signals := h.signals.eraseIdx i }),
      match s.home (s.kilnSag g.kiln none) with
      | none => addSat fHsemDrop 0 1
      | some f => doAll [fun _ => [.seq],
          whenE (fun s => 2 ^ 32 ≤ s.get (fHsemCount g.sem) f + g.count) (recordErr .sem f eSATURATE g.sem),
          addSat (fHsemCount g.sem) f g.count,
          whenE (fun s => !s.on (fHsemPending g.sem) f) (doAll [setF (fHsemPending g.sem) f 1,
            whenE (fun s => s.on (fHsemIrq g.sem) f) (msixDue f 2)])]] s

def execHostSemSignal (i : Nat) (s : State) : Host.Outcome State Fault Refusal := .next ((effHostSem i).run s)

/-- HSEM_TAKE. -/
def effHsemTake (src : Src) (f i : Nat) (v : W64) : Eff :=
  if 64 ≤ f ∨ 64 ≤ i then skip else
  regWrite src .sem f (0x400 + 8 * i) 8
    (fun _ s => if s.get (fHsemCount i) f < getBits v 0 32 then some ⟨eARG, some i⟩ else none)
    (fun _ => look (fun s => s.get (fHsemCount i) f) fun n => setF (fHsemCount i) f (n - getBits v 0 32))

def execHsemTake (src : Src) (f i : Nat) (v : W64) (s : State) : Host.Outcome State Fault Refusal :=
  .next ((inTurn src (.hsemTake src f i v) (effHsemTake src f i v)).run s)

end Sys2Proof.Machine
end

