-- ==== Sys2Proof/Machine/Boot.lean ====
section
/-! DEFINITION. Power-on, the phases of Table 19-1, module reset and link reset (R476–R485, R440). -/

namespace Sys2Proof.Machine

/-! ## Phases -/

/-- A phase begins: MGMT.STATE and BOOT.LAST_PHASE. -/
def setPhase (n : Nat) : Eff := doAll [setF fMgmtState 0 n, setF fBootPhase 0 n]

/-- The power-on sequence stands in a phase and goes on. -/
def State.inPhase (s : State) (n : Nat) : Bool := !s.held && !s.wedged && s.get fMgmtState 0 = n

def fResetKind : Fld := ⟨.mgmt, 0x120, 0, 2⟩
def fModuleResets : Fld := ⟨.mgmt, 0x120, 16, 16⟩
def fReadyUs : Fld := ⟨.mgmt, 0x110, 16, 32⟩
def fOffline (p : Nat) : Fld := ⟨.mgmt, 0x118, p, 1⟩

/-- The straps as DOMAIN shows them (R494). -/
def straps : Eff := look (fun s => (s.ax ⟨.strap, 0, 0⟩, s.ax ⟨.strap, 1, 0⟩)) fun x =>
  doAll [setF fBoardPos 0 x.1, setF ⟨.blink, 0x180, 14, 1⟩ 0 x.2]

/-- Everything a module holds in its tiles, its network and its rim is gone; registers and hidden scalars go but for the
named ones. -/
def clearAll (keepReg : RK → Bool) (keepAux : Aux → Bool) : Eff := fun s =>
  (s.rng.map fun e => Upd.rng e.1 1) ++
  [.regClear fun k => !keepReg k, .auxClear fun a => !keepAux a, .wzero, .hi fun _ => {}, .tl fun _ => {},
   .spClear fun _ => true, .eccClear fun _ => true, .accClear fun _ => true, .imemClear fun _ => true,
   .rowClear fun _ => true, .net fun _ => {}, .sl fun _ => {}, .pg fun _ => {}, .gl fun _ => {}, .fb fun _ => {},
   .pw fun _ => {}, .sg fun _ => {}, .rm fun _ => {}, .geo {}, .geoNext {}, .geoLive {}]

/-! ## RESET_N (R476, R477) -/

/-- RESET_N_ASSERT: everything is cleared but the flash; a copy being programmed stays invalid (R398). -/
def effResetNAssert : Eff := doAll [
  clearAll (fun _ => false) (fun a => a.kind = .perst),
  fun _ => [.seqZero, .storeClear, .storeBad fun _ => []],
  modFt (fun f => { f with crack := [], hours := [], tree := [] }), setAx ⟨.resetHeld, 0, 0⟩ 1]

def execResetNAssert (s : State) : Host.Outcome State Fault Refusal := .next (effResetNAssert.run s)

/-- The power-on sequence starts: the straps are sampled. DESIGN CHOICE, log entry 15. -/
def effResetNRelease (pos : Nat) (posValid : Bool) : Eff := doAll [
  setAx ⟨.resetHeld, 0, 0⟩ 0, setAx ⟨.strap, 0, 0⟩ (pos % 4), setAx ⟨.strap, 1, 0⟩ (if posValid then 1 else 0), straps,
  setPhase 1, setF fResetKind 0 1]

/-- RESET_N_RELEASE; `held` says that the board met R476's conditions: released earlier, the behaviour is undefined. -/
def execResetNRelease (pos : Nat) (posValid held : Bool) (s : State) : Host.Outcome State Fault Refusal :=
  if !s.held then .next s
  else if !held then .fault .releasedEarly
  else .next ((effResetNRelease pos posValid).run s)

/-! ## The sequence -/

/-- PLL_LOCK: the reference's offset is the board's own, a free value. -/
def effPllLock : Eff := whenE (fun s => s.inPhase 1) (drawFree fun w => doAll [setF fClkState 0 1,
  setReg .clk 0 0x100 (BitVec.ofNat 64 (3 + getBits w 0 16 * 2 ^ 16)), setPhase 2])

def execPllLock (s : State) : Host.Outcome State Fault Refusal := .next (effPllLock.run s)

/-- PLL_LOCK_TIMEOUT. -/
def effPllLockTimeout : Eff := whenE (fun s => s.inPhase 1) (wedgeNow 4)

def execPllLockTimeout (s : State) : Host.Outcome State Fault Refusal := .next (effPllLockTimeout.run s)

/-- AON_DONE: rails up, fuses read. -/
def effAonDone : Eff := whenE (fun s => s.inPhase 2) fun s =>
  doAll [setReg .mgmt 0 0x100 (BitVec.ofNat 64 (s.serial % 2 ^ 64)),
    setReg .mgmt 0 0x108 (BitVec.ofNat 64 (s.serial / 2 ^ 64 % 2 ^ 64)), setPhase 3] s

def execAonDone (s : State) : Host.Outcome State Fault Refusal := .next (effAonDone.run s)

/-- The newest hours. -/
def FaultSt.newHours (f : FaultSt) : FMap Nat Nat :=
  match newestOf f.hoursA f.hoursB with
  | some 0 => f.hoursA.entries
  | some _ => f.hoursB.entries
  | none => []

/-- CRACK_LOAD_DONE: from flash, unless a module reset holds the map (R482); with no valid copy the module is wedged. -/
def effCrackLoad : Eff := whenE (fun s => s.inPhase 3) fun s =>
  let kept := s.ax ⟨.resetting, 0, 0⟩ = 2
  if !kept && s.ft.newest = none then doAll [setF fMapState 0 3, wedgeNow 3] s else
  doAll [whenE (fun _ => !kept) (modFt fun f => { f with crack := (f.newCopy.elim [] fun c => c.entries) }),
    whenE (fun _ => !kept) (modFt fun f => { f with hours := f.newHours }),
    setF fMapState 0 (if s.ax ⟨.persist, 0, 0⟩ ≠ 0 then 2 else 1),
    look (fun s => s.ft.crack) (fun l => forEach l fun e => whenE (fun _ => e.2 % 256 ≠ 0) (setAx ⟨.tilePwr, e.1, 0⟩ 3)),
    setPhase 4] s

def execCrackLoadDone (s : State) : Host.Outcome State Fault Refusal := .next (effCrackLoad.run s)

/-! ## The clock tree (R440) -/

/-- A repeater that the tree reaches: its depth, its parent as a direction + 1 (0 for an entry). -/
structure TNode where
  p : Nat
  depth : Nat
  dir : Nat
  deriving DecidableEq, Repr

/-- The node of a repeater. -/
def treeNode (l : List TNode) (p : Nat) : Option TNode := l.find? fun n => n.p = p

/-- The field of a physical index. -/
def physField (p : Nat) : Nat := p / 200 / 30 * 8 + p % 200 / 25

/-- One breadth-first level among the candidates: the live repeaters not yet reached whose first neighbour in order
N, E, S, W is of the level before (or, across fields, of any). -/
def repLevel (cand : List Nat) (live : Nat → Bool) (across : Bool) (k : Nat) (l : List TNode) : List TNode :=
  cand.filterMap fun p =>
    if !live p || (treeNode l p).isSome then none
    else (List.range 4).findSome? fun d => match (nbr p d).bind (treeNode l) with
      | some n => if across || (n.depth = k && physField n.p = physField p) then some ⟨p, n.depth + 1, d + 1⟩ else none
      | none => none

/-- Levels until none is new. DEDUCED, log entry 81. -/
def treeGrow (cand : List Nat) (live : Nat → Bool) (across : Bool) : Nat → Nat → List TNode → List TNode
  | 0, _, l => l
  | fuel + 1, k, l => match repLevel cand live across k l with
    | [] => l
    | new => treeGrow cand live across fuel (k + 1) (l ++ new)

/-- The live entry repeater of field f: row 14 first, else row 15. -/
def treeEntry (live : Nat → Bool) (f : Nat) : List TNode :=
  (([14, 15].map fun r => (f / 8 * 30 + r) * 200 + f % 8 * 25 + 12).find? live).toList.map fun p => ⟨p, 0, 0⟩

/-- The tree: within the fields, then across them. -/
def buildTree (live : Nat → Bool) : List TNode :=
  let l := fields48.flatMap fun f => treeGrow (fieldPhys f) live false 750 0 (treeEntry live f)
  treeGrow ((List.range 36000).filter fun p => live p && (treeNode l p).isNone) live true 36000 0 l

/-- The standby parent of a node, as a direction + 1. -/
def treeStandby (l : List TNode) (n : TNode) : Nat :=
  (((List.range 4).find? fun d => d + 1 ≠ n.dir && ((nbr n.p d).bind (treeNode l)).any fun m => m.depth ≤ n.depth).map
    fun d => d + 1).getD 0

/-- TREE of the CLK page. -/
def treeWord (l : List TNode) (unclocked : Nat) : W64 :=
  let cross := (l.filter fun n => n.dir ≠ 0 && (nbr n.p (n.dir - 1)).any fun q => physField q ≠ physField n.p).length
  BitVec.ofNat 64 (l.foldl (fun m n => max m n.depth) 0 % 256 + cross % 65536 * 2 ^ 8 + unclocked % 65536 * 2 ^ 40)

/-- TREE_BUILD_DONE: repeaters the tree does not reach are dead with cause 8; the map they and the crack map give is the
one to publish. -/
def effTreeBuild : Eff := whenE (fun s => s.inPhase 4) fun s =>
  let live (p : Nat) : Bool := s.crackOf p % 256 / 128 = 0
  let l := buildTree live
  let lost := (List.range 36000).filter fun p => live p && (treeNode l p).isNone
  let tree := l.foldl (fun m n => fset id (fun _ => 0) m n.p (n.dir + 8 * treeStandby l n)) []
  doAll [modFt (fun f => { f with tree := tree }), forEach lost (fun p => death1 p 0x80 8 2),
    setReg .clk 0 0x110 (treeWord l lost.length), fun s => [.geoLive s.builtMap], setPhase 5] s

def execTreeBuildDone (s : State) : Host.Outcome State Fault Refusal := .next (effTreeBuild.run s)

/-! ## Link reset (R482, R484) -/

/-- What a link reset of host link h clears. -/
def linkResetEffect (h : Nat) : Eff := doAll [
  fun _ => [.auxClear fun a => (a.kind = .msixEn || a.kind = .msixMask) && a.a = 0 && a.b = h],
  setVfs h 0 false, setReg .host (256 + h) 0x120 0,
  whenE (fun s => s.get fRootLink 0 = h) (setReg .host 0 0x900 0)]

/-- HOST_LINK_RESET; one that meets a module reset waits for its end. -/
def effLinkReset (h : Nat) : Eff := fun s =>
  if s.held ∨ 2 ≤ h then []
  else if s.ax ⟨.resetting, 0, 0⟩ ≠ 0 then setAx ⟨.linkWait, h, 0⟩ 1 s
  else linkResetEffect h s

def execHostLinkReset (h : Nat) (s : State) : Host.Outcome State Fault Refusal := .next ((effLinkReset h).run s)

/-- HOST_PERST_RELEASE: the link may train. -/
def effPerst (h : Nat) : Eff := whenE (fun _ => h < 2) (setAx ⟨.perst, h, 0⟩ 1)

def execHostPerstRelease (h : Nat) (s : State) : Host.Outcome State Fault Refusal := .next ((effPerst h).run s)

/-! ## READY (R479) -/

/-- Units of 16 MiB of a trained stack by grade (R2, R272). -/
def gradeUnits (g : Nat) : Nat := if g = 0 then 2145 else 1430

/-- The end of a port's training. -/
def portTrained (p : Nat) (failed : Bool) : Eff := fun s =>
  if failed then doAll [setF fSlipState p 3, setF (fOffline p) 0 1, setEvt .mgmt 0 1] s
  else doAll [setF fUnits p (gradeUnits s.grade), setF fTrained p 1,
    setF fSlipState p (if s.geo.linksOn p = [] then 2 else 0), headerReread p] s

/-- Resets that waited for READY (R484). DEDUCED, log entry 42. -/
def waitingResets : Eff := doAll [
  forEach [0, 1] (fun h => whenE (fun s => s.ax ⟨.linkWait, h, 0⟩ ≠ 0) (doAll [setAx ⟨.linkWait, h, 0⟩ 0, linkResetEffect h])),
  forEach (List.range 64) (fun f => whenE (fun s => s.ax ⟨.flrWait, f, 0⟩ ≠ 0)
    (doAll [setAx ⟨.flrWait, f, 0⟩ 0, flrEffect f]))]

/-- STORE_TRAIN_DONE: the stacks that failed, microseconds since the release. -/
def effStoreTrain (failed : List Nat) (us : Nat) : Eff := whenE (fun s => s.inPhase 6)
  (doAll [forEach ports48 (fun p => portTrained p (failed.contains p)), setPhase 7, setF fReadyUs 0 (min us (2 ^ 32 - 1)),
    setEvt .mgmt 0 0, setAx ⟨.resetting, 0, 0⟩ 0, waitingResets])

def execStoreTrainDone (failed : List Nat) (us : Nat) (s : State) : Host.Outcome State Fault Refusal :=
  .next ((effStoreTrain failed us).run s)

/-! ## Module reset (R482–R484) -/

/-- A module reset asked for less than 1 s after a thermal trip is refused. -/
def State.tooSoon (s : State) : Bool := s.ax ⟨.tripAt, 0, 0⟩ ≠ 0 && s.wcount + 1 < s.ax ⟨.tripAt, 0, 0⟩ + 2400000000

/-- A module reset of a kind is requested; while another is in progress, and has not stopped wedged or tripped, the
request is ignored. -/
def requestReset (kind : Nat) : Eff :=
  whenE (fun s => (s.ax ⟨.resetting, 0, 0⟩ = 0 || s.wedged || s.tripped) && s.ax ⟨.resetting, 1, 0⟩ = 0)
  (setAx ⟨.resetting, 1, 0⟩ kind)

/-- Registers a module reset keeps: RS fields, and the host links' status and configuration space. -/
def resetKeepsReg (k : RK) : Bool :=
  match k.blk with
  | .fab => k.off = 0x108
  | .blink => k.off = 0x108
  | .host => (k.inst = 256 || k.inst = 257) && (k.off = 0x100 || k.off = 0x108 || k.off = 0x110)
  | .pwr => k.inst = 0 && k.off = 0x118
  | .therm => k.off = 0x130
  | .mgmt => k.inst = 0 && k.off = 0x120
  | _ => false

/-- Hidden scalars a module reset keeps. -/
def resetKeepsAux (a : Aux) : Bool :=
  match a.kind with
  | .msixEn => true | .msixMask => true | .perst => true | .strap => true | .samples => true | .lastSole => true
  | .persist => true | .resetting => true | .flrWait => true | .linkWait => true | .onMs => true | .activeMs => true
  | _ => false

/-- R72: every L1 and L2 is invalidated: what only they held is lost. -/
def rimInvalidate : Eff := fun s => s.rm.lines.flatMap fun l => l.under.zipIdx.map fun x => Upd.store (l.addr + x.2) x.1

/-- R483: one heartbeat with STATUS = RESETTING on every UP link, then every link OFF. -/
def resetLinks : Eff := fun s => doAll [
  whenE (fun s => !s.tripped) (doAll [setAx ⟨.hbSeq, 0, 0⟩ (nextSeq32 s.hb),
    forEach (s.fb.peers.filter fun x => s.lkUp x.port) (fun x => fun t => sendOn x.port x.module_ x.alias_ 1 (t.hbBytes x) t)]),
  forEach linkPorts (fun q => whenE (fun s => s.lkUp q) (addLk q 0x108 0 16 1))] s

/-- MODULE_RESET: the requested reset begins. DEDUCED, log entry 80. -/
def effModuleReset : Eff := fun s =>
  let kind := s.ax ⟨.resetting, 1, 0⟩
  if s.held ∨ kind = 0 then [] else
  let kept := s.get fMapState 0 = 1 || s.get fMapState 0 = 2 || s.ax ⟨.resetting, 0, 0⟩ = 2
  let trip := s.tripped
  let cause := kind + (if trip then 2 ^ 8 else 0) + (if s.wedged then 2 ^ 9 else 0) +
    min (s.get fModuleResets 0 + 1) 65535 * 2 ^ 16
  doAll [setAx ⟨.resetting, 0, 0⟩ (if kept then 2 else 1), setAx ⟨.resetting, 1, 0⟩ 0, resetLinks, rimInvalidate,
    clearAll resetKeepsReg resetKeepsAux,
    whenE (fun _ => trip) (fun _ => [.storeLost 0 (2 ^ 48), .storeBad fun _ => []]),
    modFt (fun f => { f with tree := [] }), straps,
    whenE (fun s => s.ax ⟨.persist, 0, 0⟩ ≠ 0) (setF fMapState 0 2),
    setReg .mgmt 0 0x120 (BitVec.ofNat 64 cause), setPhase 1] s

def execModuleReset (s : State) : Host.Outcome State Fault Refusal := .next (effModuleReset.run s)

/-- MGMT_RESET_GO. -/
def effMgmtResetGo (src : Src) (v : W64) : Eff :=
  regWrite src .mgmt 0 0x128 8
    (fun root s => firstErr [errIf (!root) eSAGGAR, errIf (getBits v 0 1 = 1 && s.tooSoon) eSTATE])
    (fun _ => whenE (fun _ => getBits v 0 1 = 1) (requestReset 3))

def execMgmtResetGo (src : Src) (v : W64) (s : State) : Host.Outcome State Fault Refusal :=
  .next ((inTurn src (.mgmtResetGo src v) (effMgmtResetGo src v)).run s)

end Sys2Proof.Machine
end

