-- ==== Sys2Proof/Machine/Saggar.lean ====
section
/-! DEFINITION. Saggar entries written: SAGGAR registers (R37, R425), store windows (R426), JOB_OWNER (R428), and the
wafer change they make (R430–R432). -/

namespace Sys2Proof.Machine

/-- Only the root function writes saggar entries: another writer that reaches the page is recorded in its own page with
the target's block type and instance (R37); for a rim core this is its RIM page.  DEDUCED, log entry 38.  A page that
the writer's saggar does not own stands under R45 and R70, whose INFO it takes.  DESIGN CHOICE, log entry 99. -/
def rootOnly (src : Src) (blk : Blk) (inst : Nat) (e : Eff) : Eff := fun s =>
  if s.writeAccess src blk inst = .ok false ∧ s.present blk inst then
    match src with
    | .host f _ => recordErr .host f eSAGGAR (blkCode blk * 0x10000 + inst) s
    | .rim c => recordErr .rim c eSAGGAR (blkCode blk * 0x10000 + inst) s
    | .mgmt => []
  else e s

/-! ## Wafer changes (R432, R433) -/

def fSettling : Fld := ⟨.saggar, 0x018, 0, 1⟩
def fSettleNs : Fld := ⟨.saggar, 0x108, 32, 32⟩
def fSwSel : Fld := ⟨.saggar, 0x110, 0, 8⟩

/-- A wafer change admitted: the arbiter's number in CHANGE, SETTLING until it settles, the entry's value before it. -/
def changeStart (kind idx : Nat) (old0 old1 : W64) : Eff := fun s =>
  doAll [modSg fun g => { g with change := some ⟨kind, idx, old0, old1, false⟩ },
    setReg .saggar 0 0x100 (BitVec.ofNat 64 s.seq), setF fSettling 0 1] s

/-- R433: a wafer change that reaches the arbiter before the one before it has settled waits there; else it is a write
like another. DEDUCED, log entry 67. -/
def waferWrite (src : Src) (i : Instr) (blk : Blk) (inst off : Nat) (check : State → Option WErr) (act : Eff) : Eff :=
  rootOnly src blk inst fun s =>
    if s.sg.change.isSome ∧ s.writeAccess src blk inst = .ok true ∧ s.present blk inst then
      [.sg fun g => { g with waiting := g.waiting ++ [(src, i)] }]
    else regWrite src blk inst off 8 (fun _ => check) (fun _ => act) s

/-! ## SAGGAR registers (R37, R425) -/

/-- A write of the SAGGAR register of a KILN page: a wafer change. -/
def effKilnSaggar (src : Src) (k : Nat) (v : W64) : Eff :=
  waferWrite src (.kilnSaggarWrite src k v) .kiln k offSaggar (fun _ => none) fun s =>
    doAll [changeStart 0 k (s.rd .kiln k offSaggar) 0, setReg .kiln k offSaggar (v &&& 0x3F)] s

/-- KILN_SAGGAR_WRITE. -/
def execKilnSaggarWrite (src : Src) (k : Nat) (v : W64) (s : State) : Host.Outcome State Fault Refusal :=
  .next ((inTurn src (.kilnSaggarWrite src k v) (effKilnSaggar src k v)).run s)

/-- A write of a page's SAGGAR register; that of the root's function page is ARG. -/
def effSaggarReg (src : Src) (blk : Blk) (inst : Nat) (v : W64) : Eff :=
  if blk = .kiln then effKilnSaggar src inst v
  else rootOnly src blk inst (regWrite src blk inst offSaggar 8 (fun _ _ => errIf (blk = .host && inst = 0) eARG)
    (fun _ s => setReg blk (s.key blk inst) offSaggar (v &&& 0x3F) s))

/-- SAGGAR_REGISTER_WRITE. -/
def execSaggarRegisterWrite (src : Src) (blk : Blk) (inst : Nat) (v : W64) (s : State) : Host.Outcome State Fault Refusal :=
  .next ((inTurn src (.saggarRegisterWrite src blk inst v) (effSaggarReg src blk inst v)).run s)

/-! ## Store windows (R426) -/

/-- Why a commit of window w with a base and SW_HI is ARG. -/
def State.swBad (s : State) (w base : Nat) (hi : W64) : Bool :=
  let size := getBits hi 0 32 * 65536
  let p := base / slotSize
  getBits hi 42 1 = 1 && (base % 65536 ≠ 0 || size = 0 || s.usable p < base % slotSize + size ||
    (List.range 5).any (fun r => s.meetsRegion p r base size) ||
    (List.range 256).any fun x => x ≠ w && match winParts (s.win x none) with
      | some y => base < y.1 + y.2.1 && y.1 < base + size
      | none => false)

/-- The bits SW_HI has. -/
def swHiMask : W64 := 0x73FFFFFFFFF

/-- A write of SW_HI: window SW_SEL takes the staged base and this word. -/
def effWindowCommit (src : Src) (v : W64) : Eff :=
  waferWrite src (.storeWindowCommit src v) .saggar 0 0x120
    (fun s => errIf (s.swBad (s.get fSwSel 0) (getBits (s.rd .saggar 0 0x118) 0 48) v) eARG) fun s =>
    let w := s.get fSwSel 0
    let old := s.win w none
    let base := getBits (s.rd .saggar 0 0x118) 0 48
    doAll [changeStart 1 w old.1 old.2, modSg fun g =>
      { g with wins := fset id (fun _ => 0) (fset id (fun _ => 0) g.wins (2 * w) base) (2 * w + 1) (v &&& swHiMask).toNat }] s

/-- STORE_WINDOW_COMMIT. -/
def execStoreWindowCommit (src : Src) (v : W64) (s : State) : Host.Outcome State Fault Refusal :=
  .next ((inTurn src (.storeWindowCommit src v) (effWindowCommit src v)).run s)

/-! ## JOB_OWNER (R428) -/

/-- A write of JOB_OWNER[j]. -/
def effJobOwner (src : Src) (j : Nat) (v : W64) : Eff :=
  if 256 ≤ j then skip else
  waferWrite src (.jobOwnerWrite src j v) .saggar 0 (0x400 + 8 * j) (fun _ => none) fun s =>
    doAll [changeStart 2 j (s.rd .saggar 0 (0x400 + 8 * j)) 0, setReg .saggar 0 (0x400 + 8 * j) (v &&& 0x13F)] s

/-- JOB_OWNER_WRITE. -/
def execJobOwnerWrite (src : Src) (job : Nat) (v : W64) (s : State) : Host.Outcome State Fault Refusal :=
  .next ((inTurn src (.jobOwnerWrite src job v) (effJobOwner src job v)).run s)

/-! ## Install -/

/-- At the edge S: the new entry in every router of a kiln's rectangle, and the epoch flips. -/
def effChangeInstall : Eff := fun s =>
  match s.sg.change with
  | none => []
  | some c =>
    if c.installed ∨ !s.fabLive then [] else
    doAll [modSg (fun g => { g with change := some { c with installed := true } }),
      setF fEpoch 0 (1 - s.get fEpoch 0),
      whenE (fun s => c.kind = 0 && s.kilnHolds c.idx) (forEach (s.kilnTiles c.idx) fun t =>
        whenE (fun s => s.on fInKiln (s.phys t) && s.get fOwnKiln (s.phys t) = c.idx)
          (setF fOwnSag (s.phys t) (s.kilnSag c.idx none)))] s

/-- WAFER_CHANGE_INSTALL. -/
def execWaferChangeInstall (s : State) : Host.Outcome State Fault Refusal := .next (effChangeInstall.run s)

end Sys2Proof.Machine
end

