-- ==== Sys2Proof/Machine/Pages.lean ====
section
/-! DEFINITION. What a read of a register returns (R31, R32, R34): stored registers, registers computed from the state,
capabilities, and reads with an effect. -/

namespace Sys2Proof.Machine

/-! ## PAGE_ID and PAGE_CAPS -/

/-- The instance field of PAGE_ID: for a CORE page its tile (R154). -/
def idInst (blk : Blk) (inst : Nat) : Nat := if blk = .core then inst / 4 else inst

/-- PAGE_ID. -/
def State.pageId (s : State) (blk : Blk) (inst : Nat) : W64 :=
  BitVec.ofNat 64 (blkCode blk * 2 ^ 48 + idInst blk inst % 65536 * 2 ^ 32 + 2 ^ 16 + if s.present blk inst then 1 else 0)

/-- PAGE_CAPS by grade: 2 is B24, 3 is D24 (Table 00-1); pages of which no table gives it read 0.  DESIGN CHOICE, log
entry 103. DESIGN CHOICE, log entry 103. -/
def pageCaps (grade : Nat) (blk : Blk) (inst : Nat) : Nat :=
  match blk with
  | .mgmt => if inst = 0 then grade % 16 else 1
  | .clk => if inst = 0 then 0x12C064 else 0
  | .pwr => if inst = 0 then 2 else 0x80840
  | .therm => 0x128
  | .tele => 0x6410
  | .crack => if grade = 2 then 0x8CA00110 else 0x8CA00310
  | .saggar => 0x100010040
  | .kiln => 0x10100
  | .slip => (if portLinks inst = 16 then 0x3081010 else 0x308100F) + if grade = 3 then 0 else 0x4000000
  | .glaze => if grade = 3 then 0x1F else 0x3F
  | .pug => if grade = 2 then 0x20420 else 0x30420
  | .fab => 0x1000408
  | .blink => if inst = 0 then 0x10410 else 0x410
  | .host => if inst < 64 then 0x104004 else 0
  | .rim => if inst < 32 then 0x11000 + inst / 8 else 0x81010
  | .tile => 0x800483010
  | .core => if grade = 3 then 0x80101003 else 0x8010100F
  | .vec => 0x60010001000180
  | .tdma => if grade = 3 then 0x38020 else 0x78020
  | .router => 0x8008010050803
  | .arb => 0
  | .sem => 0

/-! ## The tile pages -/

/-- QSTATE.STALL of an engine's queue (Table 04-12). -/
def State.stall (s : State) (p e : Nat) : Nat :=
  if e = 6 then
    if s.get fTileState p = 3 then 7
    else if s.get fTileState p ≠ 1 then 0
    else match s.ax ⟨.seqWait, p, 0⟩ with
      | 0 => if iEng (s.pcWord p) < 6 ∧ 16 ≤ s.depth p (iEng (s.pcWord p)) then 6 else 0
      | 1 => 1
      | _ => 7
  else match s.head p e with
    | none => 0
    | some i =>
      if (s.waiter p e).isSome then 1
      else if i.issued then 5
      else match s.nextPop i with
        | none => if s.pushRoom i then 0 else 3
        | some x => if !s.popHere p x then 2 else if !s.teeRoom i x then 3 else 0

/-- QSTATE[e]; STALL_CYCLES is kept in the register's own bits. -/
def State.qstate (s : State) (p e : Nat) : W64 :=
  let hd : Nat × Nat × Nat := if e = 6 then (iOp (s.pcWord p), s.get fPc p, s.get fActive p)
    else match s.head p e with
      | some i => (iOp i.word, i.pc % 2048, i.bank % 2)
      | none => (0, 0, 0)
  BitVec.ofNat 64 ((if e = 6 then 0 else s.depth p e) + hd.1 * 2 ^ 8 + hd.2.1 * 2 ^ 16 + hd.2.2 * 2 ^ 27 +
    s.stall p e * 2 ^ 28 + s.get ⟨.tile, 0x400 + 8 * e, 32, 32⟩ p * 2 ^ 32)

/-- STATE of a core or vector page: IDLE, EXEC, WAIT. -/
def State.engState (s : State) (p e : Nat) : Nat :=
  match s.head p e with
  | none => 0
  | some i => if i.issued && (s.waiter p e).isNone then 1 else 2

/-- WAITED and WAITER of a semaphore: the first engine in order that waits for it (Table 04-11). -/
def State.semWaiter (s : State) (p n : Nat) : Nat :=
  match (List.range 7).find? fun e => (s.waiter p e).any fun w => sb w 32 6 = n with
  | some e => 2 ^ 16 + e * 2 ^ 17
  | none => 0

/-- A register of a TILE page that is not plain storage. -/
def State.tileView (s : State) (p off : Nat) : W64 :=
  if off = 0x118 then (s.slot p (s.get fImBank p) (s.get fImSlot p)).setWidth 64
  else if off = 0x120 then (s.slot p (s.get fImBank p) (s.get fImSlot p) >>> 64).setWidth 64
  else if 0x200 ≤ off ∧ off < 0x380 then s.rd .tile p off ||| BitVec.ofNat 64 (s.semWaiter p ((off - 0x200) / 8))
  else if 0x400 ≤ off ∧ off ≤ 0x430 then s.qstate p ((off - 0x400) / 8)
  else if off = 0x618 then 0
  else s.rd .tile p off

/-- A register of a CORE page: `c` is 4 × physical index + core. -/
def State.coreView (s : State) (c off : Nat) : W64 :=
  if off = 0x018 then BitVec.ofNat 64 (s.engState (c / 4) (c % 4))
  else if off = 0x138 then
    let sel := s.rd .core c 0x130
    (fget (fun _ => 0) s.acc (accKey c (getBits sel 0 4) (getBits sel 4 4) (getBits sel 8 4))).setWidth 64 |||
      (if s.engState (c / 4) (c % 4) = 0 then 0x200000000 else 0)
  else s.rd .core c off

/-- A register of a VEC page. -/
def State.vecView (s : State) (p off : Nat) : W64 :=
  let lane := getBits (s.rd .vec p 0x150) 0 7
  let row := getBits (s.rd .vec p 0x170) 0 8
  if off = 0x018 then BitVec.ofNat 64 (s.engState p 4)
  else if off = 0x158 then (s.rngRd p lane).setWidth 64
  else if off = 0x160 then (s.rngRd p lane >>> 64).setWidth 64
  else if off = 0x178 then (s.rowRd p row 1) ++ (s.rowRd p row 0)
  else if off = 0x180 then (s.rowRd p row 2).setWidth 64
  else s.rd .vec p off

/-- A register of the ROUTER page of logical tile t. -/
def State.routerView (s : State) (t off : Nat) : W64 :=
  let p := s.phys t
  let pw := s.ax ⟨.tilePwr, p, 0⟩
  if off = 0x018 then BitVec.ofNat 64 (if pw = 3 then 1 else if pw ≠ 2 then 2
    else if s.on fNetDiv (fieldHalf (fieldOf t) + 1) then 3 else 0)
  else if off = 0x100 then BitVec.ofNat 64 (tileX t + tileY t * 2 ^ 8 + p % 200 * 2 ^ 16 + s.get fGen 1 * 2 ^ 32)
  else if 0x200 ≤ off ∧ off < 0x340 ∧ off % 0x40 < 0x38 then
    let o := (off - 0x200) / 0x40
    let c := off % 0x40 / 8 + 1
    BitVec.ofNat 64 (((s.net.rsv.filter fun r => r.p = p && r.kind = o && r.cone = c).map fun r => r.rate).sum +
      (if c = 4 ∧ o < 4 then 1 else 0))
  else s.rd .router p off

/-! ## The rim pages -/

/-- A register of a HOST page; `arrived` is the link a host read of the root's page came over. -/
def State.hostView (s : State) (inst off arrived : Nat) : W64 :=
  if inst < 64 then
    if off = 0x018 then (if s.active inst then 1 else 0)
    else if off = 0x100 then BitVec.ofNat 64 (inst + (if inst = 0 then 2 ^ 8 + arrived % 2 * 2 ^ 9 else s.bind inst * 2 ^ 9))
    else if 0x200 ≤ off ∧ off < 0x280 ∧ off % 0x20 = 0x18 then 0
    else s.rd .host inst off
  else if inst < 128 then
    if off = 0x900 then BitVec.ofNat 64 (((List.range 64).filter fun m => s.on (fMbxValid m) inst).map fun m => 2 ^ m).sum
    else s.rd .host inst off
  else s.rd .host inst off

/-- A register of a SLIP page. -/
def State.slipView (s : State) (p off : Nat) : W64 :=
  if off = 0x100 then
    if s.get fGen 1 = 0 then 0 else
    BitVec.ofNat 64 (((s.geo.linksOn p).map fun i => 2 ^ i).sum + (s.geo.linksOn p).length * 2 ^ 16 + s.get fGen 1 * 2 ^ 32)
  else if off = 0x110 then BitVec.ofNat 64 (s.get fReadMax p + (s.rsvRead p + 999) / 1000 % 2048 * 2 ^ 16 +
    (s.rsvTr p + 999) / 1000 % 2048 * 2 ^ 32)
  else if off = 0x340 then s.rd .slip p off ||| BitVec.ofNat 64 (s.sl.glog.filter fun g => g.port = p).length
  else if off = 0x180 then s.rd .slip p off ||| (if s.pinned p 0 then 4 else 0) ||| (if s.pinned p 1 then 8 else 0)
  else if off = 0x188 then
    let pin (k : Nat) : Bool := s.fb.serves.any fun v => v.busy && v.alias_ && v.stack = p && v.slot = k
    s.rd .slip p off ||| (if pin 0 then 4 else 0) ||| (if pin 1 then 8 else 0)
  else if off = 0x398 then s.rd .slip p off ||| BitVec.ofNat 64 (s.sl.xfers.filter fun x => x.port = p).length
  else s.rd .slip p off

/-- The bucket at the head of channel u: the open one of lowest order (Table 11-6). -/
def State.chanHead (s : State) (u : Nat) : Option Bkt :=
  argMin (fun b => b.order) (s.pg.buckets.filter fun b => b.chan = u && 1 ≤ b.state && b.state ≤ 3)

/-- R327's actions of unit u's last abort are in progress: a kiln of the job still flushes. -/
def State.pugAborting (s : State) (u : Nat) : Bool :=
  let v := s.rd .pug u 0x130
  let j := getBits v 20 8
  getBits v 31 1 = 1 && s.ax ⟨.stepAborted, j, 0⟩ ≠ 0 &&
    (s.jobKilns j).any fun k => (s.kilnTiles k).any fun t => s.get fTileState (s.phys t) = 6

/-- A register of a PUG page. -/
def State.pugView (s : State) (u off : Nat) : W64 :=
  if off = 0x018 then (if s.pugAborting u then 2 else if (s.chanHead u).isSome then 1 else 0)
  else if off = 0x100 then match s.chanHead u with
    | some b => BitVec.ofNat 64 (b.id % 65536 + b.job * 2 ^ 16 + b.state * 2 ^ 24 + b.stage % 8 * 2 ^ 27 + b.step % 2 ^ 32 * 2 ^ 32)
    | none => 0
  else if 0x200 ≤ off ∧ off < 0x400 ∧ off % 0x10 = 0 then
    let f := (off - 0x200) / 0x10
    s.rd .pug u off ||| BitVec.ofNat 64 (((s.pg.feedq.filter fun x => x.u = u && x.f = f).map fun x => x.lines.length).sum % 128 * 2 ^ 24)
  else s.rd .pug u off

/-- A register of a GLAZE page. -/
def State.glazeView (s : State) (p off : Nat) : W64 :=
  if off = 0x100 then s.rd .glaze p off |||
    (if s.on fGjobValid p && s.get fGcoord p = s.self then 0x800 else 0)
  else if off = 0x138 then BitVec.ofNat 64 (s.get fMstate p + s.get fPartnerId 0 * 2 ^ 16)
  else s.rd .glaze p off

/-- PEER_DATA of an entry. -/
def State.peerData (s : State) (x : Peer) : W64 :=
  let refs := (s.fb.refs.filter fun r => r.2.1 = x.port && r.2.2 = x.module_).length
  BitVec.ofNat 64 (x.module_ % 4096 + 2 ^ 12 + x.st % 4 * 2 ^ 13 + (if x.wedged then 2 ^ 15 else 0) + x.pmode % 4 * 2 ^ 16 +
    (if x.port < 16 then refs % 256 * 2 ^ 32 else x.pos % 4 * 2 ^ 40))

/-- A register of a FAB or BLINK page, of link port q. -/
def State.linkView (s : State) (q off : Nat) : W64 :=
  let peers := s.fb.peers.filter fun x => x.port = q
  if off = 0x120 then BitVec.ofNat 64 (min (s.holdFrames q) 1023)
  else if off = 0x130 then
    match (if q < 16 then peers[s.lk q 0x128 0 8]? else peers.head?) with
    | some x => s.peerData x
    | none => 0
  else if off = 0x138 ∧ q < 16 then BitVec.ofNat 64 (peers.length + (peers.filter fun x => x.st = 1).length * 2 ^ 16 +
    (peers.filter fun x => x.st = 2).length * 2 ^ 32)
  else s.rd (lkBlk q) (lkInst q) off

/-- A register of the CRACK page. -/
def State.crackView (s : State) (off : Nat) : W64 :=
  let n (m : Nat) : Nat := (s.ft.crack.filter fun e => e.2 % 256 / m ≠ 0).length
  if off = 0x018 then BitVec.ofNat 64 (s.get fMapState 0 + s.get fPartnerState 0 * 2 ^ 4 + if s.wedged then 2 ^ 7 else 0)
  else if off = 0x108 then s.entryView (s.get fEntrySel 0)
  else if off = 0x110 then BitVec.ofNat 64 (n 1 + n 64 * 2 ^ 16 + n 128 * 2 ^ 32 +
    ((List.range 36000).filter s.crackPending).length * 2 ^ 48)
  else if off = 0x120 then BitVec.ofNat 64 (s.pendSegs.length % 2048 + (argMin id s.pendSegs).getD 0 * 2 ^ 16)
  else if off = 0x128 then BitVec.ofNat 64 ((s.ft.newCopy.elim 0 fun c => c.seq) + (if s.ft.copyA.valid then 2 ^ 32 else 0) +
    (if s.ft.copyB.valid then 2 ^ 33 else 0) + (if s.ft.newest = some 1 then 2 ^ 34 else 0) + s.get fFlashCode 0 * 2 ^ 40)
  else s.rd .crack 0 off

/-- A field's state in FIELD_LO and FIELD_HI; 0 before the compute rails have power.
DEDUCED, log entry 88. -/
def State.fieldState (s : State) (f : Nat) : Nat :=
  let pw (v : Nat) : Bool := s.aux.any fun e => e.1.kind = .tilePwr && e.2 = v && e.1.a < 36000 && physField e.1.a = f
  if s.get fMgmtState 0 < 3 then 0
  else if s.level3 f then 2
  else if s.ramps f then 1
  else if pw 2 then 0
  else if pw 1 then 1 else 3

/-- A register of a PWR page. -/
def State.pwrView (s : State) (inst off : Nat) : W64 :=
  let fields (f0 n : Nat) : W64 := BitVec.ofNat 64 (((List.range n).map fun i => s.fieldState (f0 + i) * 4 ^ i).sum)
  if inst = 0 then s.rd .pwr 0 off
  else if off = 0x018 then (if s.pw.wakes = [] then 0 else 1)
  else if off = 0x100 then fields 0 32
  else if off = 0x108 then fields 32 16
  else if off = 0x110 then BitVec.ofNat 64 (s.pw.wakes.length % 65536 + (fields48.filter s.ramps).length % 16 * 2 ^ 16 +
    s.get fLongest 1 * 2 ^ 32)
  else if off = 0x128 then
    let t := getBits (s.rd .pwr 1 0x120) 0 16
    BitVec.ofNat 64 (s.ax ⟨.tilePwr, s.phys t, 0⟩ % 4 + if s.level3 (fieldOf t) then 4 else 0)
  else s.rd .pwr 1 off

/-- A sensor's newest reading, if it was sampled. -/
def State.sampled (s : State) (n : Nat) : Bool := fget (fun _ => 0) s.pw.sensors (2 * n) ≠ 0

/-- A reading × 16 as 16 signed bits, from its place in the list of readings. -/
def State.reading (s : State) (k : Nat) : Nat := (fget (fun _ => 0) s.pw.sensors k + 2 ^ 15) % 2 ^ 16

/-- The hottest sensor, the lowest of equals. -/
def State.hottest (s : State) : Option Nat :=
  (List.range 296).foldl (fun b n => if !s.sampled n then b else match b with
    | none => some n
    | some m => if s.sensor m < s.sensor n then some n else some m) none

/-- HOTTEST: a free word while no sensor has been read. -/
def State.hottestWord (s : State) : W64 :=
  match s.hottest with
  | some n => BitVec.ofNat 64 (n + s.reading (2 * n) * 2 ^ 16)
  | none => 0

/-- A register of the THERM page. -/
def State.thermView (s : State) (off : Nat) : W64 :=
  let bit (b : Bool) (k : Nat) : Nat := if b then 2 ^ k else 0
  if off = 0x018 then BitVec.ofNat 64 s.thermState
  else if off = 0x100 then BitVec.ofNat 64 (bit s.level1 0 + bit (s.level2 0) 1 + bit (s.level2 1) 2 + bit (s.levelNet 0) 3 +
    bit (s.levelNet 1) 4)
  else if off = 0x108 then BitVec.ofNat 64 s.fieldOffBits
  else if off = 0x120 then
    let n := getBits (s.rd .therm 0 0x118) 0 9
    if s.sampled n then BitVec.ofNat 64 (s.reading (2 * n) + s.reading (2 * n + 1) * 2 ^ 16 + 2 ^ 32) else 0
  else if off = 0x128 then s.hottestWord
  else s.rd .therm 0 off

/-- A register of the TELE page. -/
def State.teleView (s : State) (off : Nat) : W64 :=
  let f := getBits (s.rd .tele 0 0x150) 0 6
  if off = 0x018 then (if s.wedged then 1 else 0)
  else if off = 0x158 then BitVec.ofNat 64 (s.trim f % 16 + s.trim f / 16 % 2 * 2 ^ 8 +
    fget (fun _ => 0) s.pw.trims (2 * f + 1) % 65536 * 2 ^ 16)
  else if off = 0x168 then s.hoursView (s.get fHoursSel 0)
  else s.rd .tele 0 off

/-- A register of a CLK page. -/
def State.clkView (s : State) (inst off : Nat) : W64 :=
  if inst = 0 then (if off = 0x108 then BitVec.ofNat 64 s.wcount else s.rd .clk 0 off)
  else if off = 0x018 then BitVec.ofNat 64 (s.get fTileDiv inst + 2 * s.get fNetDiv inst)
  else if off = 0x100 then (s.rd .clk inst off &&& ~~~(0xF : W64)) ||| BitVec.ofNat 64 (s.halfBits (inst - 1))
  else s.rd .clk inst off

/-- A register of a MGMT page. -/
def State.mgmtView (s : State) (inst off : Nat) : W64 :=
  if inst = 1 then
    if off = 0x118 then s.segView
    else if off = 0x120 then s.segSummary
    else if off = 0x130 then s.distView
    else s.rd .mgmt 1 off
  else s.rd .mgmt 0 off

/-- A register of the SAGGAR page: SW_LO and SW_HI read back the committed window. -/
def State.saggarView (s : State) (off : Nat) : W64 :=
  if off = 0x118 then (s.win (s.get fSwSel 0) none).1
  else if off = 0x120 then (s.win (s.get fSwSel 0) none).2
  else s.rd .saggar 0 off

/-- A register of a RIM page. -/
def State.rimView (s : State) (inst off : Nat) : W64 :=
  if 32 ≤ inst ∧ off = 0x108 then
    BitVec.ofNat 64 (s.rm.lines.filter fun l => l.cluster = inst - 32 && l.core = 8).length
  else s.rd .rim inst off

/-- A block's own register, STATE included. -/
def State.blkView (s : State) (blk : Blk) (inst off arrived : Nat) : W64 :=
  match blk with
  | .mgmt => s.mgmtView inst off
  | .arb => if off = 0x100 then BitVec.ofNat 64 s.seq else s.rd .arb inst off
  | .clk => s.clkView inst off
  | .pwr => s.pwrView inst off
  | .therm => s.thermView off
  | .tele => s.teleView off
  | .crack => s.crackView off
  | .saggar => s.saggarView off
  | .slip => s.slipView inst off
  | .glaze => s.glazeView inst off
  | .pug => s.pugView inst off
  | .fab => s.linkView inst off
  | .blink => s.linkView (16 + inst) off
  | .host => s.hostView inst off arrived
  | .rim => s.rimView inst off
  | .tile => s.tileView (s.phys inst) off
  | .core => s.coreView (4 * s.phys (inst / 4) + inst % 4) off
  | .vec => s.vecView (s.phys inst) off
  | .router => s.routerView inst off
  | .kiln => s.rd .kiln inst off
  | .tdma => s.rd .tdma (s.phys inst) off
  | .sem => s.rd .sem inst off

/-- R34: what a page holds for a 64-bit read. -/
def State.view (s : State) (blk : Blk) (inst off arrived : Nat) : W64 :=
  if !pageListed blk inst then 0
  else if off = 0 then s.pageId blk inst
  else if !s.present blk inst then 0
  else if off = 8 then BitVec.ofNat 64 (pageCaps s.grade blk inst)
  else if off = offErrClear then 0
  else s.blkView blk inst off arrived

/-- R34, R45, R70: what a 64-bit read returns to a reader. -/
def State.seenBy (s : State) (src : Src) (blk : Blk) (inst off : Nat) : W64 :=
  if !s.readAccess src blk inst then 0
  else s.view blk inst off (match src with | .host _ l => l | _ => 0)

/-- What a 64-bit read of function f at offset a of BAR b returns over link l (R42, R45): 0 outside the pages. -/
def State.barRead (s : State) (f l b a : Nat) : W64 :=
  match pageOfBar f b a with
  | some (blk, inst, off) => s.seenBy (.host f l) blk inst off
  | none => 0

/-! ## Reads with an effect -/

/-- Counters of cycles or of events the model does not time: what they have gained since the last look is a free value.
DESIGN CHOICE, log entry 4. -/
def timedFields (s : State) (blk : Blk) (inst off : Nat) : List Fld :=
  match blk, off with
  | .core, 0x118 => if s.on ⟨.core, 0x010, 0, 1⟩ (s.key blk inst) then [⟨.core, 0x118, 0, 48⟩] else []
  | .vec, 0x120 =>
    let p := s.key blk inst
    if s.on ⟨.vec, 0x010, 0, 1⟩ p && (s.head p 4).any (fun i => iOp i.word = 0x40 && !i.worked) then [⟨.vec, 0x120, 0, 48⟩] else []
  | .tile, 0x620 => if s.on fStallEn (s.key blk inst) then [⟨.tile, 0x620, 0, 48⟩] else []
  | .rim, 0x138 => if s.rimRetires inst then [fInstret] else []
  | .clk, 0x118 => if inst = 0 then [⟨.clk, 0x118, 0, 5⟩] else []
  | .slip, 0x360 => [⟨.slip, 0x360, 48, 16⟩]
  | .fab, 0x140 => [⟨.fab, 0x140, 0, 32⟩, ⟨.fab, 0x140, 32, 16⟩]
  | .blink, 0x140 => [⟨.blink, 0x140, 0, 32⟩, ⟨.blink, 0x140, 32, 16⟩]
  | .tile, _ => if 0x400 ≤ off ∧ off ≤ 0x430 ∧ s.on fStallEn (s.key blk inst) then [⟨.tile, off, 32, 32⟩] else []
  | _, _ => []

/-- TAGS: the tags held; a running stream's reads hold further tags, as many as its data takes to come (R279), a free number. -/
def tagsSeen (p : Nat) : Eff := fun s =>
  let n := (s.tagsHeld p).length
  let show_ (x : Nat) : Eff := doAll [setF ⟨.slip, 0x370, 0, 11⟩ p x, setF fTagsPeak p (max (s.get fTagsPeak p) x)]
  if s.sl.streams.any fun t => t.port = p then drawFree (fun w => show_ (min 1024 (n + getBits w 0 10))) s else show_ n s

/-- TB_STATE: how far a load has come is a free value: the half of an instruction that runs goes from loading to in use, that of one
which preloads from loading to loaded (R143, R154). -/
def tbSeen (core : Nat) : Eff := fun s =>
  let runs (h : Nat) : Bool := (s.head (core / 4) (core % 4)).any fun i => i.issued && i.tb / 2 ^ h % 2 = 1
  forEach [0, 1] (fun h => whenE (fun s => s.get (fTbHalf h) core = 1)
    (drawFree fun w => whenE (fun _ => getBits w 0 1 = 1) (setF (fTbHalf h) core (if runs h then 3 else 2)))) s

/-- What happens before the value is taken: untimed counters, TAGS, TB_STATE, generators that run freely. -/
def readBefore (blk : Blk) (inst off : Nat) : Eff := fun s =>
  if !s.present blk inst then [] else
  let key := s.key blk inst
  doAll [forEach (timedFields s blk inst off) (fun f => addFree f key),
    match blk, off with
    | .slip, 0x360 => ceGain inst
    | .slip, 0x370 => tagsSeen inst
    | .core, 0x140 => tbSeen key
    | .vec, 0x158 => whenE (fun s => s.on fRngMode key) (freeLanes key)
    | .vec, 0x160 => whenE (fun s => s.on fRngMode key) (freeLanes key)
    | _, _ => skip] s

/-- What a read does once the value is taken: AUTO_INC. -/
def readAfter (blk : Blk) (inst off : Nat) : Eff := fun s =>
  if !s.present blk inst then [] else
  match blk, off with
  | .tile, 0x120 => whenE (fun s => s.on fImAuto (s.phys inst))
      (fun s => setF fImSlot (s.phys inst) ((s.get fImSlot (s.phys inst) + 1) % 2048) s) s
  | .mgmt, 0x130 => if inst = 1 then distAdvance s else []
  | .crack, 0x108 => entryAdvance s
  | .tele, 0x168 => hoursAdvance s
  | _, _ => []

/-- A read of a register: the value goes to `k`.  HOTTEST before the first sample is a free value. -/
def readReg (blk : Blk) (inst off arrived : Nat) (k : W64 → Eff) : Eff :=
  (readBefore blk inst off).seq fun s =>
    let v := s.view blk inst off arrived
    (if blk = .therm ∧ off = 0x128 ∧ s.hottest.isNone ∧ s.present .therm 0 then drawFree fun w => k w
     else k v).seq (readAfter blk inst off) s

end Sys2Proof.Machine
end

