-- ==== Sys2Proof/Machine/RegWrite.lean ====
section
/-! DEFINITION. A write of any register (R32, R33, R46): the registers without an effect of their own by access code,
mask and check; the others by their commands' effects.  A write that fails a state check and a range check gets STATE. -/

namespace Sys2Proof.Machine

/-- What a register does with a write: the error it is refused with, its effect. -/
structure WRule where
  err : Option WErr := none
  act : Eff := skip

/-- The writable bits of a register take the value; the others keep theirs. -/
def keepW (blk : Blk) (key off : Nat) (mask v : W64) : Eff := fun s =>
  [.reg ⟨blk, key, off⟩ ((s.rd blk key off &&& ~~~mask) ||| (v &&& mask))]

/-- W1C. -/
def clearW (blk : Blk) (key off : Nat) (mask v : W64) : Eff := fun s =>
  [.reg ⟨blk, key, off⟩ (s.rd blk key off &&& ~~~(v &&& mask))]

/-- A value outside [lo, hi]. -/
def outside (x lo hi : Nat) : Bool := x < lo || hi < x

/-! ## The common header -/

/-- The control bits of a page. -/
def ctrlMask (blk : Blk) (inst : Nat) : W64 :=
  match blk with
  | .host => if inst = 0 then 3 else 0
  | .rim => if inst < 32 then 1 else 0
  | .tile => 1 | .core => 1 | .vec => 1 | .router => 1 | .slip => 1 | .pug => 1 | .glaze => 1
  | .crack => 3
  | .clk => if inst = 0 then 0 else 1
  | _ => 0

/-- The events of a page, EVT_STATUS bits [62:0]. -/
def evtMask (blk : Blk) (inst : Nat) : W64 :=
  match blk with
  | .mgmt => 3 | .clk => 7 | .pwr => if inst = 0 then 3 else 7
  | .therm => 0x1F | .tele => 0x1F | .crack => 0xFF | .saggar => 3 | .kiln => 0x3F | .slip => 0x1F | .glaze => 0x7F
  | .pug => 0x3F | .fab => 0x3F | .blink => 0x3F
  | .host => if inst < 64 then 3 else if inst < 128 then 1 else 0
  | .rim => if inst < 32 then 3 else 1
  | .tile => 7 | .core => 1 | .vec => 1 | .tdma => 3 | .router => 0xF
  | .arb => 0 | .sem => 0

/-- CTRL written: what follows from a bit that changed. -/
def ctrlW (blk : Blk) (inst key : Nat) (v : W64) : Eff :=
  doAll [whenE (fun _ => blk = .rim) (rimRetire key), keepW blk key offCtrl (ctrlMask blk inst) v,
    whenE (fun _ => blk = .host && inst = 0) (msixFlush 0),
    whenE (fun _ => blk = .clk && inst ≠ 0) (divDecide (inst - 1))]

/-- The header registers a write reaches. -/
def headerRule (blk : Blk) (inst key off : Nat) (v : W64) : WRule :=
  match off with
  | 0x010 => { act := ctrlW blk inst key v }
  | 0x028 => { act := setReg blk key offErr 0 }
  | 0x030 => { act := clearW blk key offEvtStatus (BitVec.allOnes 64) v }
  | 0x038 => { act := writeEvtEnable blk key (v &&& (evtMask blk inst ||| 0x8000000000000000)) }
  | _ => {}

/-! ## Registers whose writes only load bits -/

/-- The bits a write loads, without a check: counters, first-record registers, selectors of full range. -/
def plainMask (blk : Blk) (inst off : Nat) : W64 :=
  let m48 : W64 := 0xFFFFFFFFFFFF
  let all : W64 := BitVec.allOnes 64
  match blk with
  | .mgmt => if inst = 1 ∧ off = 0x138 then all else 0
  | .host => if inst < 64 ∧ off = 0x318 then 0xFFFF else if 256 ≤ inst ∧ off = 0x120 then 0xFFFFC0000001 else 0
  | .sem => if off = 0x110 then all else 0
  | .rim => if inst < 32 then (if off = 0x138 then m48 else 0) else if off = 0x100 then m48 else 0
  | .tile => match off with
    | 0x110 => 0x1FFF | 0x118 => all | 0x608 => m48 | 0x610 => 0x81DFFFF8 | 0x620 => m48 | _ => 0
  | .core => match off with
    | 0x100 => all | 0x108 => 0xFFFFFFFF8FFFFFFF | 0x110 => m48 | 0x118 => m48 | 0x120 => all | 0x130 => 0xFFF
    | 0x150 => m48 | 0x158 => m48 | 0x160 => m48 | 0x168 => all | 0x170 => 0xFFFFFFFF800003FF | _ => 0
  | .vec => match off with
    | 0x100 => all | 0x108 => 0xFFFFFFFF8007FFFF | 0x110 => 0xFFFFFFFF | 0x118 => m48 | 0x120 => m48 | 0x128 => m48
    | 0x150 => 0x7F | 0x168 => m48 | 0x170 => 0xFF | _ => 0
  | .tdma => match off with
    | 0x140 => m48 | 0x148 => m48 | 0x150 => 0xFFFFFFFF | 0x158 => m48 | 0x160 => all | _ => 0
  | .router => match off with
    | 0x340 => all | 0x348 => 0xFFFFFFFF | 0x350 => all | 0x388 => m48
    | _ => if 0x360 ≤ off ∧ off ≤ 0x380 then m48 else 0
  | .slip => match off with
    | 0x340 => 0xFFFFFFFF0000 | 0x360 => all | 0x368 => 0x80001FFFFFFFFFFF | 0x378 => m48 | 0x380 => m48
    | 0x388 => m48 | 0x390 => all | 0x398 => 0xFFFF0000 | _ => 0
  | .pug => match off with
    | 0x118 => all | 0x120 => all | 0x128 => m48 | 0x138 => m48 | 0x140 => m48 | _ => 0
  | .glaze => match off with
    | 0x148 => all | 0x150 => all | 0x158 => m48 | 0x160 => m48 | 0x168 => all | _ => 0
  | .fab => match off with
    | 0x128 => 0xFF | 0x140 => m48 | 0x148 => m48 | 0x150 => m48 | 0x158 => all | 0x160 => all | 0x168 => all
    | 0x170 => 0xFFFFFFFF | _ => 0
  | .blink => match off with
    | 0x140 => m48 | 0x148 => m48 | 0x150 => m48 | 0x158 => all | 0x160 => all | 0x168 => all
    | 0x170 => 0xFFFFFFFF | _ => 0
  | .crack => if off = 0x148 then 0xFFFFFFFF else 0
  | .saggar => match off with
    | 0x110 => 0xFF | 0x118 => m48 | 0x128 => m48 | 0x130 => 0x8000FFFF0001FFFF | _ => 0
  | .clk => if inst ≠ 0 ∧ off = 0x108 then 0xFFFFFFFF else 0
  | .pwr => if inst = 1 ∧ off = 0x118 then m48 else 0
  | .tele => match off with
    | 0x118 => 0xFFFF | 0x130 => all | 0x140 => all | 0x170 => 0xFFFFFFFF | _ => 0
  | .arb => 0 | .kiln => 0 | .therm => 0

/-! ## Registers with a check -/

/-- A register whose bits are loaded unless a check refuses. -/
def checked (blk : Blk) (key off : Nat) (mask v : W64) (errs : List (Option WErr)) : WRule :=
  { err := firstErr errs, act := keepW blk key off mask v }

/-- The MSI-X table (R33, R62): entries of 16 bytes; bit 32 of an entry's second word is its mask. -/
def msixRule (f off width : Nat) (v : W64) : WRule :=
  let base := off / 8 * 8
  let full : W64 := if base % 16 = 0 then 0xFFFFFFFFFFFFFFFC else 0x1FFFFFFFF
  let part : W64 := if width = 8 then BitVec.allOnes 64 else if off % 8 = 0 then 0xFFFFFFFF else 0xFFFFFFFF00000000
  { err := errIf (!(width = 4 || width = 8) || off % width ≠ 0) eARG
    act := if base < 0x900 then
      doAll [keepW .host f base (full &&& part) (if width = 4 ∧ off % 8 = 4 then v <<< 32 else v), msixFlush f] else skip }

/-- HOST function pages: RING_BASE, EVT_RING_BASE. -/
def hostRule (s : State) (f off : Nat) (v : W64) : WRule :=
  if 0x200 ≤ off ∧ off < 0x280 ∧ off % 0x20 = 0 then
    checked .host f off (BitVec.allOnes 64) v [errIf (s.on (fRingEnable ((off - 0x200) / 0x20)) f) eSTATE, errIf (getBits v 0 6 ≠ 0) eARG]
  else if off = 0x300 then
    checked .host f off (BitVec.allOnes 64) v [errIf (s.on fEvtRingEn f) eSTATE, errIf (getBits v 0 6 ≠ 0) eARG]
  else {}

/-- TILE, CORE, VEC and TDMA registers that are written while the tile is IDLE; p is the physical tile.
DEDUCED, log entry 86. -/
def tileRule (s : State) (p : Nat) (blk : Blk) (key off : Nat) (v : W64) : WRule :=
  let busy := errIf (s.get fTileState p ≠ 0) eSTATE
  match blk with
  | .tile => if off = 0x600 then checked .tile key off 0x3F v [errIf (outside (getBits v 0 6) 8 63) eARG] else {}
  | .core =>
    if off = 0x148 then
      checked .core key off 0x1FF v [busy, errIf (outside (getBits v 0 9) 64 256 || getBits v 0 4 ≠ 0) eARG]
    else if 0x180 ≤ off ∧ off < 0x1C0 ∧ s.grade ≠ 3 then checked .core key off 0x1FFFFFFFF v [busy] else {}
  | .vec =>
    if off = 0x140 then { err := busy, act := doAll [whenE (fun s => s.on fRngMode key) (freeLanes key), keepW .vec key off 1 v] }
    else if off = 0x148 then checked .vec key off (BitVec.allOnes 64) v [busy] else {}
  | .tdma =>
    if off = 0x100 then
      let base := getBits v 0 21
      let size := 32 * 2 ^ getBits v 32 4
      checked .tdma key off 0x10F001FFFFF v [busy, errIf (getBits v 0 5 ≠ 0 || (getBits v 40 1 = 1 &&
        (outside (getBits v 32 4) 1 12 || spSize < base + size || (List.range 14).any fun q => s.on (fQEnable q) p &&
          s.get (fQBase q) p < base + size && base < s.get (fQBase q) p + 64 * s.ringSize p q))) eARG]
    else if off = 0x110 then
      checked .tdma key off (BitVec.allOnes 64) v [errIf (s.on fHEn p) eSTATE, errIf (getBits v 0 6 ≠ 0) eARG] else {}
  | .router =>
    if off = 0x110 then checked .router key off 0x1F v [busy]
    else if 0x120 ≤ off ∧ off < 0x170 then
      let r := (off - 0x120) / 0x10
      if off % 0x10 = 0 then checked .router key off 0x3FFFFFFFFFFF v [busy, errIf (routeABad r v) eARG]
      else checked .router key off 0xFFFF07FF000003FF v [busy, errIf (routeBBad (s.on (fRaValid r) p) v) eARG]
    else if 0x180 ≤ off ∧ off < 0x200 then checked .router key off 0xFFFE00000FFFFFFF v [busy, errIf (combBad v) eARG] else {}
  | _ => {}

/-- R286: the kiln a context is bound to is neither EMPTY nor LOADED. -/
def State.ctxBusy (s : State) (k : Nat) : Bool := s.get fKilnState k ≠ 0 && s.get fKilnState k ≠ 1

/-- SLIP registers. -/
def slipRule (s : State) (p off : Nat) (v : W64) : WRule :=
  if off = 0x110 then
    checked .slip p off 0x7FF v [errIf (1000 * getBits v 0 11 < s.rsvRead p) eSTATE, errIf (outside (getBits v 0 11) 1 1840) eARG]
  else if 0x200 ≤ off ∧ off < 0x300 then
    let c := (off - 0x200) / 0x10
    let busy := errIf ((s.on (fCtxValid c) p && s.ctxBusy (s.get (fCtxKiln c) p)) ||
      (off % 0x10 = 0 && getBits v 8 1 = 1 && s.ctxBusy (getBits v 0 8))) eSTATE
    if off % 0x10 = 0 then
      checked .slip p off 0xFFF000001FF v [busy, errIf (getBits v 8 1 = 1 && getBits v 32 12 = 0) eARG]
    else checked .slip p off 0xFFFFFFFFFFFF v [busy, errIf (getBits v 0 5 ≠ 0) eARG]
  else if 0x300 ≤ off ∧ off < 0x340 then
    checked .slip p off 0xFFFFFFFF v [errIf (s.regionSize p 4 < (getBits v 0 16 + getBits v 16 16) * 65536) eARG]
  else if off = 0x358 then checked .slip p off 0xFFFF v [errIf (outside (getBits v 0 16) 1 65535) eARG]
  else {}

/-- PUG registers. -/
def pugRule (s : State) (u off : Nat) (v : W64) : WRule :=
  if off = 0x110 then checked .pug u off 0xFFFF v [errIf (outside (getBits v 0 16) 10 65535) eARG]
  else if 0x200 ≤ off ∧ off < 0x400 then
    let f := (off - 0x200) / 0x10
    let busy := errIf ((s.on (fFeedValid f) u && s.jobActive (s.get (fFeedJob f) u)) ||
      (off % 0x10 = 0 && getBits v 22 1 = 1 && s.jobActive (getBits v 14 8))) eSTATE
    if off % 0x10 = 0 then
      checked .pug u off 0x7FFFFF v [busy, errIf (48 ≤ getBits v 0 6 || portLinks (getBits v 0 6) ≤ getBits v 6 4) eARG]
    else checked .pug u off 0x3FFFFFFFFFFFFFF v [busy, errIf (getBits v 0 4 ≠ 0) eARG]
  else {}

/-- GLAZE registers. -/
def glazeRule (s : State) (p off : Nat) (v : W64) : WRule :=
  let busy := errIf (s.get fGlzState p ≠ 0 || (s.on fGjobValid p && s.jobActive (s.get fGjob p))) eSTATE
  match off with
  | 0x108 => checked .glaze p off 0xFFFFFFFFFFFF v [busy, errIf (getBits v 0 6 ≠ 0) eARG]
  | 0x110 => checked .glaze p off 0x1FFF v [busy, errIf (outside (getBits v 0 13) 1 4096) eARG]
  | 0x118 => checked .glaze p off 0xFF00FFFFFFFFFFFF v [busy, errIf (getBits v 0 6 ≠ 0) eARG]
  | 0x120 => checked .glaze p off 0xFFFFFFFF v [busy, errIf (getBits v 0 16 ≠ 0 && getBits v 0 16 ≤ getBits v 16 16) eARG]
  | 0x130 => checked .glaze p off 0xFFFFFFFF v [errIf (outside (getBits v 0 16) 10 65535 || outside (getBits v 16 16) 10 65535) eARG]
  | _ => {}

/-- FAB and BLINK registers, the domain registers of BLINK page 0 (R393, R394); q is the link port. -/
def linkRule (s : State) (q off : Nat) (v : W64) : WRule :=
  let blk := lkBlk q
  let i := lkInst q
  let up := errIf (s.lkUp q) eSTATE
  let dom := errIf (linkPorts.any fun x => s.lkState x ≠ 0) eSTATE
  let pcp (c : Nat) : Nat := getBits v (4 * c) 3
  match off with
  | 0x110 => checked blk i off 0xFFFF0F3F v [up, errIf (outside (getBits v 0 6) 1 32 || outside (getBits v 8 4) 1 15 ||
      outside (getBits v 16 16) 8 65535) eARG]
  | 0x118 => checked blk i off 0x0FFF0FFF0FFF0FFF v [up, errIf ((List.range 4).any fun c => getBits v (16 * c) 12 = 0) eARG]
  | 0x180 => if q = 16 then checked .blink 0 off 0x0FFF0FFF v [dom] else {}
  | 0x188 => if q = 16 then checked .blink 0 off 0xFFFFFFFF v
      [dom, errIf (getBits v 0 2 ≠ 2 || getBits v 24 1 = 1) eARG] else {}
  | 0x190 => if q = 16 then checked .blink 0 off 0xFFFF v [dom, errIf (getBits v 0 16 < 0x600) eARG] else {}
  | 0x198 => if q = 16 then checked .blink 0 off 0x7777 v
      [dom, errIf (decide (¬ [pcp 0, pcp 1, pcp 2, pcp 3].Nodup)) eARG] else {}
  | _ => {}

/-- Registers of the module-wide pages. -/
def wideRule (s : State) (blk : Blk) (inst off : Nat) (v : W64) : WRule :=
  match blk, off with
  | .mgmt, 0x110 => if inst = 1 then checked .mgmt 1 off 0x7FF v [errIf (1439 < getBits v 0 11) eARG] else {}
  | .mgmt, 0x128 => if inst = 1 then checked .mgmt 1 off 0xBFFFFF v
      [errIf (34559 < getBits v 0 16 || 47 < getBits v 16 6) eARG] else {}
  | .crack, 0x100 => checked .crack 0 off 0x1FFFF v [errIf (35999 < getBits v 0 16) eARG]
  | .pwr, 0x120 => if inst = 1 then checked .pwr 1 off 0xFFFF v [errIf (34559 < getBits v 0 16) eARG] else {}
  | .therm, 0x110 => checked .therm 0 off 0xFF v [errIf (outside (getBits v 0 8) 60 92) eARG]
  | .therm, 0x118 => checked .therm 0 off 0x1FF v [errIf (295 < getBits v 0 9) eARG]
  | .tele, 0x100 => checked .tele 0 off (BitVec.allOnes 64) v [errIf (s.on fTeleEn 0) eSTATE, errIf (getBits v 0 6 ≠ 0) eARG]
  | .tele, 0x128 => checked .tele 0 off 0xFFFF v [errIf (outside (getBits v 0 16) 60 65535) eARG]
  | .tele, 0x150 => checked .tele 0 off 0x3F v [errIf (47 < getBits v 0 6) eARG]
  | .tele, 0x160 => checked .tele 0 off 0x1FFFF v [errIf (35999 < getBits v 0 16) eARG]
  | .sem, 0x108 => { act := clearW .sem inst off (BitVec.allOnes 64) v }
  | .rim, 0x110 => if inst < 32 then { act := clearW .rim inst off 3 v } else {}
  | .rim, 0x130 => if inst < 32 then { act := doAll [setReg .rim inst off v, rimWake inst] } else {}
  | _, _ => {}

/-- The rule of a register that has no command of its own. -/
def regRule (s : State) (blk : Blk) (inst off width : Nat) (v : W64) : WRule :=
  let key := s.key blk inst
  if msixRange blk inst off then msixRule inst off width v
  else if off < 0x100 then headerRule blk inst key off v
  else if plainMask blk inst off ≠ 0 then { act := keepW blk key off (plainMask blk inst off) v }
  else match blk with
    | .host => if inst < 64 then hostRule s inst off v else {}
    | .tile => tileRule s key blk key off v
    | .core => tileRule s (key / 4) blk key off v
    | .vec => tileRule s key blk key off v
    | .tdma => tileRule s key blk key off v
    | .router => tileRule s key blk key off v
    | .slip => slipRule s inst off v
    | .pug => pugRule s inst off v
    | .glaze => glazeRule s inst off v
    | .fab => linkRule s inst off v
    | .blink => linkRule s (16 + inst) off v
    | _ => wideRule s blk inst off v

/-- A write of a register by its rule. -/
def plainWrite (src : Src) (blk : Blk) (inst off width : Nat) (v : W64) : Eff :=
  regWrite src blk inst off width (fun _ s => (regRule s blk inst off width v).err)
    (fun _ s => (regRule s blk inst off width v).act s)

/-! ## Registers with a command of their own -/

/-- The effect of a 64-bit write of a register that a row of the opcode table names; none for another register. -/
def ownEff (src : Src) (blk : Blk) (inst off : Nat) (v : W64) : Option Eff :=
  match blk with
  | .mgmt => if inst = 0 ∧ off = 0x128 then some (effMgmtResetGo src v)
      else if inst = 1 ∧ off = 0x140 then some (effDistCopy src v) else none
  | .host =>
    if inst < 64 then
      if inst = 0 ∧ off = 0x108 then some (effFuncBind src v)
      else if off = 0x308 then some (effEvtCfg src inst v)
      else if 0x200 ≤ off ∧ off < 0x280 then
        if off % 0x20 = 0x08 then some (effRingEnable src inst ((off - 0x200) / 0x20) v)
        else if off % 0x20 = 0x18 then some (effDoorbell src inst ((off - 0x200) / 0x20) v) else none
      else none
    else if inst < 128 ∧ 0x100 ≤ off ∧ off < 0x900 ∧ off % 0x20 = 0x18 then some (effMbxAck src (inst - 64) ((off - 0x100) / 0x20) v)
    else none
  | .sem => if off = 0x100 then some (effSemSignal src inst v)
      else if 0x400 ≤ off ∧ off < 0x600 then some (effHsemTake src inst ((off - 0x400) / 8) v) else none
  | .rim => if 32 ≤ inst then none
      else if off = 0x118 then some (effMsipWrite src inst true v)
      else if off = 0x120 then some (effRimDoorbell src inst v)
      else if off = 0x128 then some (effMsipWrite src inst false v) else none
  | .tile => if off = 0x108 then some (effShadowReadySet src inst v)
      else if off = 0x120 then some (effImemDataHiWrite src inst v)
      else if off = 0x128 then some (effEntryWrite src inst v)
      else if 0x440 ≤ off ∧ off < 0x4B0 then some (effQcfgWrite src inst ((off - 0x440) / 8) v)
      else if off = 0x618 then some (effSpInject src inst v) else none
  | .tdma => if off = 0x010 then some (effTdmaCtrl src inst v)
      else if off = 0x118 then some (effHCfgEnable src inst v)
      else if off = 0x128 then some (effHDoorbell src inst v) else none
  | .slip => if 0x140 ≤ off ∧ off < 0x180 then some (effSlipMapWrite src inst ((off - 0x140) / 8) v) else none
  | .glaze => if off = 0x100 then some (effGjobWrite src inst v) else none
  | .fab => if off = 0x010 then some (effLinkCtrl src inst v) else none
  | .blink => if off = 0x010 then some (effLinkCtrl src (16 + inst) v) else none
  | .crack => if off = 0x108 then some (effEntryDataWrite src v)
      else if off = 0x150 then some (effPersistGo src v) else none
  | .saggar => if off = 0x120 then some (effWindowCommit src v)
      else if 0x400 ≤ off ∧ off < 0xC00 then some (effJobOwner src ((off - 0x400) / 8) v) else none
  | .tele => if off = 0x108 then some (effTeleCfg src v) else none
  | _ => none

/-- R46: a write of any register: one that is not 64 bits wide and aligned meets the arbiter's own check (R33). -/
def regWriteAny (src : Src) (blk : Blk) (inst off width : Nat) (v : W64) : Eff :=
  if 0x1000 ≤ off then skip
  else if width ≠ 8 ∨ off % 8 ≠ 0 ∨ !pageListed blk inst then plainWrite src blk inst off width v
  else if off = offSaggar then effSaggarReg src blk inst v
  else (ownEff src blk inst off v).getD (plainWrite src blk inst off width v)

/-- REGISTER_WRITE. -/
def execRegisterWrite (src : Src) (blk : Blk) (inst off width : Nat) (v : W64) (s : State) :
    Host.Outcome State Fault Refusal :=
  .next ((inTurn src (.registerWrite src blk inst off width v) (regWriteAny src blk inst off width v)).run s)

/-- ERR_CLEAR: any 64-bit write clears the page's ERR. -/
def effErrClear (src : Src) (blk : Blk) (inst : Nat) : Eff := plainWrite src blk inst offErrClear 8 0

def execErrClear (src : Src) (blk : Blk) (inst : Nat) (s : State) : Host.Outcome State Fault Refusal :=
  .next ((inTurn src (.errClear src blk inst) (effErrClear src blk inst)).run s)

end Sys2Proof.Machine
end

