-- ==== Sys2Proof/Machine/Mgmt.lean ====
section
/-! DEFINITION. The other ports of the registers: a rim core's I/O regions (R69, R70), the management port (R419, R496),
I3C (R497), the TAP (R498), the pins (R494); and the settling of a wafer change (R433). -/

namespace Sys2Proof.Machine

/-! ## A rim core's I/O regions -/

/-- The half of a 64-bit register that an access of a width reads. -/
def readPart (off width : Nat) (v : W64) : W64 :=
  if width = 8 then v else if off % 8 = 4 then v >>> 32 else v &&& 0xFFFFFFFF

/-- A read of a register from a port other than a host link: the LINK bit of the root's FUNC_INFO is then free. -/
def portRead (blk : Blk) (inst off : Nat) (k : W64 → Eff) : Eff :=
  if blk = .host ∧ inst = 0 ∧ off = 0x100 then drawFree fun w => readReg blk inst off (getBits w 0 1) k
  else readReg blk inst off 0 k

/-- R69: an access of a width that an I/O region does not take. -/
def ioBad (write : Bool) (addr width : Nat) : Bool :=
  if write then width ≠ 8 || addr % 8 ≠ 0 else !(width = 4 || width = 8) || addr % width ≠ 0

/-- A core's access to a page of an I/O region. -/
def rimPage (c : Nat) (write : Bool) (addr width : Nat) (v : W64) (page : Option (Blk × Nat × Nat)) : Eff := fun s =>
  if ioBad write addr width then doAll [rimFault c addr eARG, recordErrFree .rim c eARG] s
  else match page with
    | none => if write then [] else [.out (.readData 0)]
    | some (blk, inst, off) =>
      if write then inTurn (.rim c) (.registerWrite (.rim c) blk inst off 8 v) (regWriteAny (.rim c) blk inst off 8 v) s
      else if !s.readAccess (.rim c) blk inst then [.out (.readData 0)]
      else portRead blk inst (off / 8 * 8) (fun x => emit (.readData (readPart off width x))) s

/-- RIM_IO_ACCESS: the rim pages, the tile windows (saggar 0 only), every other address. -/
def effRimIo (c : Nat) (write : Bool) (addr width : Nat) (v : W64) : Eff := fun s =>
  if !s.fabLive ∨ 32 ≤ c ∨ s.get fRimState c ≠ 1 ∨ addr < 0x30000000000 then []
  else if 0x800000000000 ≤ addr ∧ addr < 0x800000000000 + barSize 0 0 then
    rimPage c write addr width v (pageOfBar0 (addr - 0x800000000000)) s
  else if 0x800100000000 ≤ addr ∧ addr < 0x800100000000 + barSize 0 2 then
    if s.get (fSaggar .rim) c ≠ 0 then rimFault c addr eSAGGAR s
    else rimPage c write addr width v (pageOfBar2 (addr - 0x800100000000)) s
  else rimFault c addr eARG s

def execRimIoAccess (core : Nat) (write : Bool) (addr width : Nat) (v : W64) (s : State) :
    Host.Outcome State Fault Refusal := .next ((effRimIo core write addr width v).run s)

/-! ## The management port -/

/-- The port answers: RESET_N is not asserted and phase PLL is over (R488). -/
def State.mgmtUp (s : State) : Bool := !s.held && s.get fMgmtState 0 ≠ 1

/-- A wedged or tripped module serves a few pages only. -/
def State.reduced (s : State) : Bool := s.wedged || s.tripped

/-- The pages such a module answers reads of (R419, R461). -/
def reducedPage (blk : Blk) : Bool :=
  match blk with
  | .mgmt => true | .tele => true | .crack => true | .therm => true | _ => false

/-- The registers such a module takes writes of: ENTRY_SEL, ENTRY_DATA, PERSIST_GO, MGMT.RESET. -/
def reducedReg (blk : Blk) (inst off : Nat) : Bool :=
  (blk = .crack && (off = 0x100 || off = 0x108 || off = 0x150)) || (blk = .mgmt && inst = 0 && off = 0x128)

/-- The answer to a page that is not served: WEDGED; of a module that is tripped and not wedged no rule states which code of
Table 02-14 (R65). -/
def notServed (kind tag : Nat) : Eff := fun s =>
  if s.wedged then emit (.mgmt kind tag eWEDGED 0) s
  else drawFree (fun w => emit (.mgmt kind tag (getBits w 0 8 % (eWEDGED + 1)) 0)) s

/-- MGMT_READ; a reserved offset reads 0. -/
def effMgmtRead (tag off : Nat) : Eff := fun s =>
  if !s.mgmtUp then []
  else if off % 8 ≠ 0 then [.out (.mgmt 1 tag eARG 0)]
  else match pageOfBar0 off with
    | none => if s.reduced then notServed 1 tag s else [.out (.mgmt 1 tag eOK 0)]
    | some (blk, inst, o) =>
      if s.reduced ∧ !reducedPage blk then notServed 1 tag s
      else portRead blk inst o (fun x => emit (.mgmt 1 tag eOK x)) s

def execMgmtRead (tag off : Nat) (s : State) : Host.Outcome State Fault Refusal := .next ((effMgmtRead tag off).run s)

/-- The error a write would record in its page, 0 for none: seen on the state with the page's ERR clear.
DEDUCED, log entry 89. -/
def State.writeCode (s : State) (e : Eff) (blk : Blk) (inst : Nat) : Nat :=
  (e.run (s.apply1 (.reg ⟨blk, s.key blk inst, offErr⟩ 0))).get (fErrCode blk) (s.key blk inst)

/-- A write of the port at the arbiter; one that has to wait for a wafer change is answered after it. -/
def mgmtPut (tag off : Nat) (v : W64) (blk : Blk) (inst o : Nat) : Eff := fun s =>
  let e := regWriteAny .mgmt blk inst o 8 v
  if (e.run s).sg.waiting.length ≠ s.sg.waiting.length then
    [.sg fun g => { g with waiting := g.waiting ++ [(.mgmt, .mgmtWrite tag off v)] }]
  else doAll [e, emit (.mgmt 2 tag (s.writeCode e blk inst) 0)] s

/-- A WRITE message served. -/
def mgmtServe (tag off : Nat) (v : W64) : Eff := fun s =>
  if !s.mgmtUp then []
  else if off % 8 ≠ 0 then [.out (.mgmt 2 tag eARG 0)]
  else match pageOfBar0 off with
    | none => if s.reduced then notServed 2 tag s else [.out (.mgmt 2 tag eOK 0)]
    | some (blk, inst, o) =>
      if s.reduced then (if reducedReg blk inst o then mgmtPut tag off v blk inst o s else notServed 2 tag s)
      else mgmtPut tag off v blk inst o s

/-- MGMT_WRITE: in turn with the port's earlier writes, unless the module is wedged or tripped. -/
def effMgmtWrite (tag off : Nat) (v : W64) : Eff := fun s =>
  if s.reduced then mgmtServe tag off v s else inTurn .mgmt (.mgmtWrite tag off v) (mgmtServe tag off v) s

def execMgmtWrite (tag off : Nat) (v : W64) (s : State) : Host.Outcome State Fault Refusal :=
  .next ((effMgmtWrite tag off v).run s)

/-- MGMT_RESET: a module reset is requested; too soon after a trip it is refused. -/
def effMgmtReset (tag : Nat) : Eff := fun s =>
  if !s.mgmtUp then []
  else if s.tooSoon then doAll [recordErrFree .mgmt 0 eSTATE, emit (.mgmt 3 tag eSTATE 0)] s
  else doAll [requestReset 2, emit (.mgmt 3 tag eOK 0)] s

def execMgmtReset (tag : Nat) (s : State) : Host.Outcome State Fault Refusal := .next ((effMgmtReset tag).run s)

/-! ## I3C, TAP and pins -/

/-- I3C_READ: MGMT.STATE, HOTTEST, POWER, WEDGE; it answers in every state and changes nothing.
DEDUCED, log entry 90. -/
def effI3c (idx : Nat) : Eff := fun s =>
  match idx with
  | 0 => [.out (.readData (s.rd .mgmt 0 0x018))]
  | 1 => if s.hottest.isNone then drawFree (fun w => emit (.readData w)) s else [.out (.readData s.hottestWord)]
  | 2 => [.out (.readData (s.rd .pwr 0 0x110))]
  | 3 => [.out (.readData (s.rd .crack 0 0x130))]
  | _ => [.out (.readData 0)]

def execI3cRead (idx : Nat) (s : State) : Host.Outcome State Fault Refusal := .next ((effI3c idx).run s)

/-- IDCODE of the TAP. -/
def idcode : W64 := 0x14830F5D

/-- TAP_INSTRUCTION: 0 stands for BYPASS, 1 for IDCODE, any other number for a test instruction, which acts only while
RESET_N is asserted and is otherwise decoded as BYPASS. -/
def effTap (ir : Nat) : Eff := fun s =>
  if ir = 1 then doAll [setAx ⟨.tapIr, 0, 0⟩ 1, emit (.readData idcode)] s
  else setAx ⟨.tapIr, 0, 0⟩ (if s.held then ir else 0) s

def execTapInstruction (ir : Nat) (s : State) : Host.Outcome State Fault Refusal := .next ((effTap ir).run s)

/-- The instruction the TAP performs now: a test instruction ends with RESET_N. -/
def State.tapNow (s : State) : Nat := if s.held || s.ax ⟨.tapIr, 0, 0⟩ = 1 then s.ax ⟨.tapIr, 0, 0⟩ else 0

/-- ALERT_N is low while THERM STATE ≥ 1; TRIP_N from a trip until reset (Table 20-3). -/
def State.alertN (s : State) : Bool := s.thermState = 0
def State.tripN (s : State) : Bool := !s.tripped

/-! ## The clock -/

/-- One edge of CK_NET while the root PLL has locked (R442): what an empty queue leaves to happen. -/
def tick : Eff := whenE (fun s => !s.held && s.get fClkState 0 ≠ 0) fun _ => [.wcount]

/-! ## A wafer change settles (R433) -/

/-- The effect of a write that waited at the arbiter. -/
def writeEff : Instr → Eff
  | .distCopy src v => effDistCopy src v
  | .registerWrite src blk inst off width v => regWriteAny src blk inst off width v
  | .errClear src blk inst => effErrClear src blk inst
  | .evtRingEnable src f v => effEvtCfg src f v
  | .saggarRegisterWrite src blk inst v => effSaggarReg src blk inst v
  | .funcBindWrite src v => effFuncBind src v
  | .ringEnable src f n v => effRingEnable src f n v
  | .doorbell src f n v => effDoorbell src f n v
  | .mbxAck src f m v => effMbxAck src f m v
  | .semSignal src f v => effSemSignal src f v
  | .hsemTake src f i v => effHsemTake src f i v
  | .rimDoorbell src core v => effRimDoorbell src core v
  | .qcfgWrite src t q v => effQcfgWrite src t q v
  | .imemDataHiWrite src t v => effImemDataHiWrite src t v
  | .shadowReadySet src t v => effShadowReadySet src t v
  | .hDoorbell src t v => effHDoorbell src t v
  | .hCfgEnable src t v => effHCfgEnable src t v
  | .tdmaRingStop src t v => effTdmaCtrl src t v
  | .tdmaRingResume src t v => effTdmaCtrl src t v
  | .spInject src t v => effSpInject src t v
  | .slipMapWrite src p r v => effSlipMapWrite src p r v
  | .gjobWrite src p v => effGjobWrite src p v
  | .linkEnable src port v => effLinkCtrl src port v
  | .linkDisable src port v => effLinkCtrl src port v
  | .persistGo src v => effPersistGo src v
  | .entryDataWrite src v => effEntryDataWrite src v
  | .storeWindowCommit src v => effWindowCommit src v
  | .jobOwnerWrite src job v => effJobOwner src job v
  | .kilnSaggarWrite src k v => effKilnSaggar src k v
  | .teleRingEnable src v => effTeleCfg src v
  | .mgmtResetGo src v => effMgmtResetGo src v
  | .mgmtWrite tag off v => mgmtServe tag off v
  | .msipWrite src core irqEn v => effMsipWrite src core irqEn v
  | _ => skip

/-- No flit or request accepted before the edge S remains. -/
def State.drained (s : State) : Bool :=
  let e := s.get fEpoch 0
  (s.net.flits.all fun f => f.epoch = e) && (s.net.combIn.all fun x => x.epoch = e) && (s.net.edge.all fun x => x.epoch = e) &&
  s.pg.feedq.all fun x => x.epoch = e

/-- The writes that waited are admitted in their order; a second wafer change among them waits again. -/
def admitWaiting : Eff := fun s =>
  let l := s.sg.waiting
  doAll [modSg fun g => { g with waiting := [] }, forEach l fun x => inTurn x.1 x.2 (writeEff x.2)] s

/-- WAFER_CHANGE_SETTLE, `ns` after the edge S. -/
def effChangeSettle (ns : Nat) : Eff := fun s =>
  match s.sg.change with
  | none => []
  | some c =>
    if !c.installed ∨ !s.fabLive ∨ !s.drained then [] else
    doAll [modSg fun g => { g with change := none }, setF fSettling 0 0, setF fSettleNs 0 (min ns (2 ^ 32 - 1)),
      setEvt .saggar 0 0, admitWaiting] s

def execWaferChangeSettle (ns : Nat) (s : State) : Host.Outcome State Fault Refusal := .next ((effChangeSettle ns).run s)

end Sys2Proof.Machine
end

