-- ==== Sys2Proof/Machine/Dispatch.lean ====
section
/-! DEFINITION. The meaning of every command: one arm per constructor, each a direct call. -/

namespace Sys2Proof.Machine

def exec (i : Instr) (s : State) : Host.Outcome State Fault Refusal :=
  match i with
  | .geomBuildStart => Sys2Proof.Machine.execGeomBuildStart s
  | .geomSwap => Sys2Proof.Machine.execGeomSwap s
  | .distDataRead => Sys2Proof.Machine.execDistDataRead s
  | .distCopy src v => Sys2Proof.Machine.execDistCopy src v s
  | .copyDone => Sys2Proof.Machine.execCopyDone s
  | .distCopyWriteFail off => Sys2Proof.Machine.execDistCopyWriteFail off s
  | .registerWrite src blk inst off width v => Sys2Proof.Machine.execRegisterWrite src blk inst off width v s
  | .errClear src blk inst => Sys2Proof.Machine.execErrClear src blk inst s
  | .eventAdmit nn => Sys2Proof.Machine.execEventAdmit nn s
  | .evtRingWriteFail f idx => Sys2Proof.Machine.execEvtRingWriteFail f idx s
  | .evtRingEnable src f v => Sys2Proof.Machine.execEvtRingEnable src f v s
  | .saggarRegisterWrite src blk inst v => Sys2Proof.Machine.execSaggarRegisterWrite src blk inst v s
  | .funcBindWrite src v => Sys2Proof.Machine.execFuncBindWrite src v s
  | .vfActiveChange h numVfs enable => Sys2Proof.Machine.execVfActiveChange h numVfs enable s
  | .ringEnable src f n v => Sys2Proof.Machine.execRingEnable src f n v s
  | .doorbell src f n v => Sys2Proof.Machine.execDoorbell src f n v s
  | .cmdEntryFetched f n words => Sys2Proof.Machine.execCmdEntryFetched f n words s
  | .ringPcieFail f n idx => Sys2Proof.Machine.execRingPcieFail f n idx s
  | .cmdAdmit f n => Sys2Proof.Machine.execCmdAdmit f n s
  | .nop c => Sys2Proof.Machine.execNop c s
  | .fence c => Sys2Proof.Machine.execFence c s
  | .fenceComplete f n => Sys2Proof.Machine.execFenceComplete f n s
  | .mbxAck src f m v => Sys2Proof.Machine.execMbxAck src f m v s
  | .functionLevelReset f => Sys2Proof.Machine.execFunctionLevelReset f s
  | .semSignal src f v => Sys2Proof.Machine.execSemSignal src f v s
  | .hostSemSignal nn => Sys2Proof.Machine.execHostSemSignal nn s
  | .hsemTake src f nn v => Sys2Proof.Machine.execHsemTake src f nn v s
  | .hostLinkDown h => Sys2Proof.Machine.execHostLinkDown h s
  | .hostLinkUp h speed width flit => Sys2Proof.Machine.execHostLinkUp h speed width flit s
  | .rimStart c inst args => Sys2Proof.Machine.execRimStart c inst args s
  | .rimHalt c inst args pc => Sys2Proof.Machine.execRimHalt c inst args pc s
  | .rimReset c inst args => Sys2Proof.Machine.execRimReset c inst args s
  | .rimFlush c inst args => Sys2Proof.Machine.execRimFlush c inst args s
  | .rimWfi wait => Sys2Proof.Machine.execRimWfi wait s
  | .rimDoorbell src core v => Sys2Proof.Machine.execRimDoorbell src core v s
  | .rimTimerInterrupt core => Sys2Proof.Machine.execRimTimerInterrupt core s
  | .rimIoAccess core write addr width v => Sys2Proof.Machine.execRimIoAccess core write addr width v s
  | .rimStoreAccess core addr len data => Sys2Proof.Machine.execRimStoreAccess core addr len data s
  | .seqDispatch t => Sys2Proof.Machine.execSeqDispatch t s
  | .engineInstrIssue t e => Sys2Proof.Machine.execEngineInstrIssue t e s
  | .engineInstrComplete t e => Sys2Proof.Machine.execEngineInstrComplete t e s
  | .engineExecError t e code => Sys2Proof.Machine.execEngineExecError t e code s
  | .wait t e => Sys2Proof.Machine.execWait t e s
  | .waitSatisfied t => Sys2Proof.Machine.execWaitSatisfied t s
  | .signal t e => Sys2Proof.Machine.execSignal t e s
  | .tileSignalArrive nn => Sys2Proof.Machine.execTileSignalArrive nn s
  | .loop t => Sys2Proof.Machine.execLoop t s
  | .loopEnd t => Sys2Proof.Machine.execLoopEnd t s
  | .cmpset t => Sys2Proof.Machine.execCmpset t s
  | .branch t => Sys2Proof.Machine.execBranch t s
  | .swap t => Sys2Proof.Machine.execSwap t s
  | .bankSwap t => Sys2Proof.Machine.execBankSwap t s
  | .halt t => Sys2Proof.Machine.execHalt t s
  | .tileHalted t => Sys2Proof.Machine.execTileHalted t s
  | .endProg t => Sys2Proof.Machine.execEndProg t s
  | .tilePark t => Sys2Proof.Machine.execTilePark t s
  | .drain t => Sys2Proof.Machine.execDrain t s
  | .drainComplete t => Sys2Proof.Machine.execDrainComplete t s
  | .tileFlushDone t => Sys2Proof.Machine.execTileFlushDone t s
  | .qcfgWrite src t q v => Sys2Proof.Machine.execQcfgWrite src t q v s
  | .imemDataHiWrite src t v => Sys2Proof.Machine.execImemDataHiWrite src t v s
  | .shadowReadySet src t v => Sys2Proof.Machine.execShadowReadySet src t v s
  | .mma t c => Sys2Proof.Machine.execMma t c s
  | .accwb t c => Sys2Proof.Machine.execAccwb t c s
  | .smma24 t c => Sys2Proof.Machine.execSmma24 t c s
  | .smmau t c => Sys2Proof.Machine.execSmmau t c s
  | .smmab t c => Sys2Proof.Machine.execSmmab t c s
  | .vop t => Sys2Proof.Machine.execVop t s
  | .vsetvl t => Sys2Proof.Machine.execVsetvl t s
  | .vseed t => Sys2Proof.Machine.execVseed t s
  | .dma t => Sys2Proof.Machine.execDma t s
  | .dmaDescriptorStart t ring bytes host stop => Sys2Proof.Machine.execDmaDescriptorStart t ring bytes host stop s
  | .dmaDescriptorComplete t ring => Sys2Proof.Machine.execDmaDescriptorComplete t ring s
  | .dmaRemoteResponse nn => Sys2Proof.Machine.execDmaRemoteResponse nn s
  | .hDoorbell src t v => Sys2Proof.Machine.execHDoorbell src t v s
  | .hCfgEnable src t v => Sys2Proof.Machine.execHCfgEnable src t v s
  | .tdmaRingStop src t v => Sys2Proof.Machine.execTdmaRingStop src t v s
  | .tdmaRingResume src t v => Sys2Proof.Machine.execTdmaRingResume src t v s
  | .tdmaHostFail t idx => Sys2Proof.Machine.execTdmaHostFail t idx s
  | .spInject src t v => Sys2Proof.Machine.execSpInject src t v s
  | .requestUrgent t requester slice => Sys2Proof.Machine.execRequestUrgent t requester slice s
  | .scrubForced t slice line => Sys2Proof.Machine.execScrubForced t slice line s
  | .lineAccept src => Sys2Proof.Machine.execLineAccept src s
  | .routerForward nn => Sys2Proof.Machine.execRouterForward nn s
  | .packetDeliver nn => Sys2Proof.Machine.execPacketDeliver nn s
  | .combStep t set => Sys2Proof.Machine.execCombStep t set s
  | .creditReceived nn => Sys2Proof.Machine.execCreditReceived nn s
  | .noticeReceived nn => Sys2Proof.Machine.execNoticeReceived nn s
  | .stackTempSample p celsius => Sys2Proof.Machine.execStackTempSample p celsius s
  | .storeReadTimeout tag => Sys2Proof.Machine.execStoreReadTimeout tag s
  | .streamEntryStart p c => Sys2Proof.Machine.execStreamEntryStart p c s
  | .streamEnd p c entry => Sys2Proof.Machine.execStreamEnd p c entry s
  | .gatherStart p c => Sys2Proof.Machine.execGatherStart p c s
  | .gatherTimeout p w => Sys2Proof.Machine.execGatherTimeout p w s
  | .edgeWrite p => Sys2Proof.Machine.execEdgeWrite p s
  | .edgeRead p => Sys2Proof.Machine.execEdgeRead p s
  | .xferTimeout p nn => Sys2Proof.Machine.execXferTimeout p nn s
  | .bar4Read h off len => Sys2Proof.Machine.execBar4Read h off len s
  | .bar4Write h off data => Sys2Proof.Machine.execBar4Write h off data s
  | .slipMapWrite src p r v => Sys2Proof.Machine.execSlipMapWrite src p r v s
  | .combExitForward p => Sys2Proof.Machine.execCombExitForward p s
  | .pugCombReceive u feed => Sys2Proof.Machine.execPugCombReceive u feed s
  | .bucketStageAdvance job bucket => Sys2Proof.Machine.execBucketStageAdvance job bucket s
  | .bucketDone job bucket => Sys2Proof.Machine.execBucketDone job bucket s
  | .stageTimeout job bucket => Sys2Proof.Machine.execStageTimeout job bucket s
  | .abortStep c inst args => Sys2Proof.Machine.execAbortStep c inst args s
  | .gjobWrite src p v => Sys2Proof.Machine.execGjobWrite src p v s
  | .shadowOpen p => Sys2Proof.Machine.execShadowOpen p s
  | .glazeRangeUpdate p range => Sys2Proof.Machine.execGlazeRangeUpdate p range s
  | .glazeRangeAccepted p range => Sys2Proof.Machine.execGlazeRangeAccepted p range s
  | .voteResend job => Sys2Proof.Machine.execVoteResend job s
  | .commitResend job => Sys2Proof.Machine.execCommitResend job s
  | .commitTimeout p => Sys2Proof.Machine.execCommitTimeout p s
  | .mirrorTimeout p => Sys2Proof.Machine.execMirrorTimeout p s
  | .mirrorSync c inst args => Sys2Proof.Machine.execMirrorSync c inst args s
  | .mirrorSyncDone job => Sys2Proof.Machine.execMirrorSyncDone job s
  | .load c inst args => Sys2Proof.Machine.execLoad c inst args s
  | .kilnLoadDone k => Sys2Proof.Machine.execKilnLoadDone k s
  | .start c inst args => Sys2Proof.Machine.execStart c inst args s
  | .kilnArmed k => Sys2Proof.Machine.execKilnArmed k s
  | .step c inst args => Sys2Proof.Machine.execStep c inst args s
  | .kilnStepBoundary k => Sys2Proof.Machine.execKilnStepBoundary k s
  | .stop c inst args => Sys2Proof.Machine.execStop c inst args s
  | .abort c inst args => Sys2Proof.Machine.execAbort c inst args s
  | .swapOut c inst args => Sys2Proof.Machine.execSwapOut c inst args s
  | .swapOutDone k => Sys2Proof.Machine.execSwapOutDone k s
  | .swapIn c inst args => Sys2Proof.Machine.execSwapIn c inst args s
  | .swapInDone k => Sys2Proof.Machine.execSwapInDone k s
  | .unload c inst args => Sys2Proof.Machine.execUnload c inst args s
  | .linkEnable src port v => Sys2Proof.Machine.execLinkEnable src port v s
  | .linkDisable src port v => Sys2Proof.Machine.execLinkDisable src port v s
  | .retrain c blk inst args => Sys2Proof.Machine.execRetrain c blk inst args s
  | .linkTrainDone port laneOk ms reversed => Sys2Proof.Machine.execLinkTrainDone port laneOk ms reversed s
  | .linkTrainTimeout port => Sys2Proof.Machine.execLinkTrainTimeout port s
  | .linkLoss port => Sys2Proof.Machine.execLinkLoss port s
  | .linkAutoRetrain port => Sys2Proof.Machine.execLinkAutoRetrain port s
  | .hello port moduleId pos link grade => Sys2Proof.Machine.execHello port moduleId pos link grade s
  | .frameReceive port fr => Sys2Proof.Machine.execFrameReceive port fr s
  | .heartbeat port => Sys2Proof.Machine.execHeartbeat port s
  | .heartbeatTick => Sys2Proof.Machine.execHeartbeatTick s
  | .ack port => Sys2Proof.Machine.execAck port s
  | .nak port => Sys2Proof.Machine.execNak port s
  | .ackTimeout port peer cls => Sys2Proof.Machine.execAckTimeout port peer cls s
  | .record port => Sys2Proof.Machine.execRecord port s
  | .abortBroadcastReceive port => Sys2Proof.Machine.execAbortBroadcastReceive port s
  | .vote port => Sys2Proof.Machine.execVote port s
  | .commit port => Sys2Proof.Machine.execCommit port s
  | .commitAck port => Sys2Proof.Machine.execCommitAck port s
  | .segReq port => Sys2Proof.Machine.execSegReq port s
  | .segServeStart port => Sys2Proof.Machine.execSegServeStart port s
  | .segData port => Sys2Proof.Machine.execSegData port s
  | .segReadTimeout tag => Sys2Proof.Machine.execSegReadTimeout tag s
  | .mwrite => Sys2Proof.Machine.execMwrite s
  | .mhdr => Sys2Proof.Machine.execMhdr s
  | .pair c args => Sys2Proof.Machine.execPair c args s
  | .pairReceive => Sys2Proof.Machine.execPairReceive s
  | .pairAck => Sys2Proof.Machine.execPairAck s
  | .pairTimeout => Sys2Proof.Machine.execPairTimeout s
  | .unpair c args => Sys2Proof.Machine.execUnpair c args s
  | .unpairReceive => Sys2Proof.Machine.execUnpairReceive s
  | .unpairAck => Sys2Proof.Machine.execUnpairAck s
  | .promote c args => Sys2Proof.Machine.execPromote c args s
  | .promoteDone => Sys2Proof.Machine.execPromoteDone s
  | .shift c args => Sys2Proof.Machine.execShift c args s
  | .shiftPublish => Sys2Proof.Machine.execShiftPublish s
  | .persist c args => Sys2Proof.Machine.execPersist c args s
  | .persistGo src v => Sys2Proof.Machine.execPersistGo src v s
  | .autoPersist => Sys2Proof.Machine.execAutoPersist s
  | .persistDone ok => Sys2Proof.Machine.execPersistDone ok s
  | .entryDataWrite src v => Sys2Proof.Machine.execEntryDataWrite src v s
  | .entryDataRead => Sys2Proof.Machine.execEntryDataRead s
  | .computeWatchdog phys => Sys2Proof.Machine.execComputeWatchdog phys s
  | .coreResidueMismatch phys core => Sys2Proof.Machine.execCoreResidueMismatch phys core s
  | .vecResidueMismatch phys => Sys2Proof.Machine.execVecResidueMismatch phys s
  | .neighbourWatchExpire phys => Sys2Proof.Machine.execNeighbourWatchExpire phys s
  | .repeaterClockLoss phys => Sys2Proof.Machine.execRepeaterClockLoss phys s
  | .arbiterStallTimeout => Sys2Proof.Machine.execArbiterStallTimeout s
  | .rimInterconnectUe => Sys2Proof.Machine.execRimInterconnectUe s
  | .storeWindowCommit src v => Sys2Proof.Machine.execStoreWindowCommit src v s
  | .jobOwnerWrite src job v => Sys2Proof.Machine.execJobOwnerWrite src job v s
  | .kilnSaggarWrite src k v => Sys2Proof.Machine.execKilnSaggarWrite src k v s
  | .waferChangeInstall => Sys2Proof.Machine.execWaferChangeInstall s
  | .waferChangeSettle ns => Sys2Proof.Machine.execWaferChangeSettle ns s
  | .pllUnlock => Sys2Proof.Machine.execPllUnlock s
  | .pllRelock => Sys2Proof.Machine.execPllRelock s
  | .pllRelockTimeout => Sys2Proof.Machine.execPllRelockTimeout s
  | .dividerSwitch half => Sys2Proof.Machine.execDividerSwitch half s
  | .supplySwitchover toB => Sys2Proof.Machine.execSupplySwitchover toB s
  | .supplySample va ia vb ib watts => Sys2Proof.Machine.execSupplySample va ia vb ib watts s
  | .wakeGrant => Sys2Proof.Machine.execWakeGrant s
  | .tileWakeDone t => Sys2Proof.Machine.execTileWakeDone t s
  | .sleep c inst args => Sys2Proof.Machine.execSleep c inst args s
  | .wake c inst args => Sys2Proof.Machine.execWake c inst args s
  | .thermalSample temps => Sys2Proof.Machine.execThermalSample temps s
  | .thermalLevelClear level scope => Sys2Proof.Machine.execThermalLevelClear level scope s
  | .storeScrubBurst addr outcome => Sys2Proof.Machine.execStoreScrubBurst addr outcome s
  | .clockPhaseCal corrections marginPs => Sys2Proof.Machine.execClockPhaseCal corrections marginPs s
  | .hbmRecentre => Sys2Proof.Machine.execHbmRecentre s
  | .trimEvaluate want => Sys2Proof.Machine.execTrimEvaluate want s
  | .hoursCount => Sys2Proof.Machine.execHoursCount s
  | .hoursSave => Sys2Proof.Machine.execHoursSave s
  | .selftestStart phys => Sys2Proof.Machine.execSelftestStart phys s
  | .selftestDone phys bits => Sys2Proof.Machine.execSelftestDone phys bits s
  | .telemetrySample x => Sys2Proof.Machine.execTelemetrySample x s
  | .teleRingEnable src v => Sys2Proof.Machine.execTeleRingEnable src v s
  | .teleRingFail sample => Sys2Proof.Machine.execTeleRingFail sample s
  | .resetNAssert => Sys2Proof.Machine.execResetNAssert s
  | .resetNRelease pos posValid held => Sys2Proof.Machine.execResetNRelease pos posValid held s
  | .pllLock => Sys2Proof.Machine.execPllLock s
  | .pllLockTimeout => Sys2Proof.Machine.execPllLockTimeout s
  | .aonDone => Sys2Proof.Machine.execAonDone s
  | .crackLoadDone => Sys2Proof.Machine.execCrackLoadDone s
  | .treeBuildDone => Sys2Proof.Machine.execTreeBuildDone s
  | .storeTrainDone failed us => Sys2Proof.Machine.execStoreTrainDone failed us s
  | .hostPerstRelease h => Sys2Proof.Machine.execHostPerstRelease h s
  | .hostLinkReset h => Sys2Proof.Machine.execHostLinkReset h s
  | .moduleReset => Sys2Proof.Machine.execModuleReset s
  | .mgmtResetGo src v => Sys2Proof.Machine.execMgmtResetGo src v s
  | .mgmtRead tag off => Sys2Proof.Machine.execMgmtRead tag off s
  | .mgmtWrite tag off v => Sys2Proof.Machine.execMgmtWrite tag off v s
  | .mgmtReset tag => Sys2Proof.Machine.execMgmtReset tag s
  | .i3cRead idx => Sys2Proof.Machine.execI3cRead idx s
  | .tapInstruction ir => Sys2Proof.Machine.execTapInstruction ir s
  | .rimFlushDone k => Sys2Proof.Machine.execRimFlushDone k s
  | .imemDataHiRead t => Sys2Proof.Machine.execImemDataHiRead t s
  | .hoursDataRead => Sys2Proof.Machine.execHoursDataRead s
  | .msipWrite src core irqEn v => Sys2Proof.Machine.execMsipWrite src core irqEn v s
  | .msixUnmask f chg => Sys2Proof.Machine.execMsixUnmask f chg s
  | .sramScrubLine t slice line => Sys2Proof.Machine.execSramScrubLine t slice line s
  | .fieldRampEnd field => Sys2Proof.Machine.execFieldRampEnd field s
  | .bothInputsConduct together => Sys2Proof.Machine.execBothInputsConduct together s
  | .segServeDone port nn => Sys2Proof.Machine.execSegServeDone port nn s
  | .pauseFrame port prio pause => Sys2Proof.Machine.execPauseFrame port prio pause s

end Sys2Proof.Machine
end

