-- ==== Sys2Proof/Safety.lean ====
section
/-! DEFINITION. The terms statements are made in: the canonical form of the memories, the parts of the state and what
it is to keep them, what it is for a command to complete, a register write that the arbiter lets through, a command
that is admitted. -/

namespace Sys2Proof.Machine

/-! ## The canonical form -/

/-- A byte memory (the weight store, the scratchpads) in its canonical form: addresses rising, no listed byte equal to
what an unlisted address holds. -/
abbrev Memory.wf (m : FMap Nat Byte) : Prop := fwf id (fun _ => 0) m

/-- Every map of the state is in its canonical form. -/
abbrev State.Canon (s : State) : Prop :=
  fwf RK.key resetVal s.regs ∧ fwf Aux.key (fun _ => 0) s.aux ∧ Memory.wf s.sp ∧ Memory.wf s.store ∧
  fwf id (fun _ => 0) s.ecc ∧ fwf id (fun _ => 0) s.acc ∧ fwf id (fun _ => 0) s.imem ∧
  fwf id (fun _ => 1) s.rng ∧ fwf id rowReset s.row

/-! ## Parts of the state -/

/-- The parts of the state a frame speaks of. -/
inductive Component where
  /-- the arbiter's sequence number. -/
  | seq
  /-- fuses: grade and serial number. -/
  | fuses
  /-- the register file. -/
  | regs
  /-- the hidden scalars. -/
  | aux
  /-- what was sent out. -/
  | out
  /-- the model's count of free values. -/
  | free
  /-- commands, entries, events and signals at the arbiter. -/
  | hi
  /-- the tiles' queues. -/
  | tl
  /-- scratchpads. -/
  | sp
  /-- flipped bits of scratchpad words. -/
  | ecc
  /-- accumulators. -/
  | acc
  /-- instruction memories. -/
  | imem
  /-- lane generators. -/
  | rng
  /-- row state. -/
  | row
  /-- WCOUNT. -/
  | wcount
  /-- packets and reservations of the network. -/
  | net
  /-- streams, gather windows, transfers. -/
  | sl
  /-- buckets. -/
  | pg
  /-- glaze ranges, votes. -/
  | gl
  /-- peers and messages. -/
  | fb
  /-- crack map, hours, clock tree. -/
  | ft
  /-- wakes, sensors, trims. -/
  | pw
  /-- store windows, the wafer change. -/
  | sg
  /-- modified cache lines of the rim cores. -/
  | rm
  /-- the weight store. -/
  | store
  /-- bad bursts of the weight store. -/
  | bad
  /-- the geometry maps. -/
  | geo
  deriving DecidableEq, Repr

/-- One part is the same in two states. -/
def Component.same (s t : State) : Component → Prop
  | .seq => t.seq = s.seq
  | .fuses => t.grade = s.grade ∧ t.serial = s.serial
  | .regs => t.regs = s.regs
  | .aux => t.aux = s.aux
  | .out => t.out = s.out
  | .free => t.free = s.free
  | .hi => t.hi = s.hi
  | .tl => t.tl = s.tl
  | .sp => t.sp = s.sp
  | .ecc => t.ecc = s.ecc
  | .acc => t.acc = s.acc
  | .imem => t.imem = s.imem
  | .rng => t.rng = s.rng
  | .row => t.row = s.row
  | .wcount => t.wcount = s.wcount
  | .net => t.net = s.net
  | .sl => t.sl = s.sl
  | .pg => t.pg = s.pg
  | .gl => t.gl = s.gl
  | .fb => t.fb = s.fb
  | .ft => t.ft = s.ft
  | .pw => t.pw = s.pw
  | .sg => t.sg = s.sg
  | .rm => t.rm = s.rm
  | .store => t.store = s.store ∧ t.storeFill = s.storeFill
  | .bad => t.storeBad = s.storeBad
  | .geo => t.geo = s.geo ∧ t.geoNext = s.geoNext ∧ t.geoLive = s.geoLive

/-- The frame of a command: only the named parts may differ, and never the queue. -/
def OnlyParts (ps : List Component) (s t : State) : Prop :=
  t.pending = s.pending ∧ ∀ p : Component, p ∉ ps → p.same s t

/-- Every register reads as before, but those named. -/
def RegsKeptBut (named : Blk → Nat → Nat → Prop) (s t : State) : Prop :=
  ∀ blk inst off, ¬ named blk inst off → t.rd blk inst off = s.rd blk inst off

/-- One byte of the weight store. -/
def State.storeByte (s : State) (a : Nat) : Byte :=
  fget (fun _ => 0) s.store a ^^^ storeFillByte s.storeFill a

/-- One byte of the scratchpad of physical tile p. -/
def State.spByte (s : State) (p a : Nat) : Byte := fget (fun _ => 0) s.sp (p * 2 ^ 21 + a)

/-! ## Completion -/

/-- The command answers a next state, and that state is as stated. -/
def Answers (c : Instr) (s : State) (P : State → Prop) : Prop := ∃ t, exec c s = .next t ∧ P t

/-- The module runs: RESET_N released, no thermal trip, not wedged. -/
abbrev State.running (s : State) : Prop := s.held = false ∧ s.tripped = false ∧ s.wedged = false

/-- No earlier write of the source waits at the arbiter behind a wafer change (R47). -/
abbrev State.inTurnFor (s : State) (src : Src) : Prop := ∀ w ∈ s.sg.waiting, w.1 ≠ src

/-- A register write that the arbiter lets through to the register: in turn, with authority over the page (root or
not), the page present, and no self-test of its tile under way. -/
abbrev State.lets (s : State) (src : Src) (blk : Blk) (inst : Nat) (root : Bool) : Prop :=
  s.inTurnFor src ∧ s.writeAccess src blk inst = .ok root ∧ s.present blk inst = true ∧ s.running ∧
  ∀ p, computeTile blk (s.key blk inst) = some p → s.ax ⟨.selftest, p, 0⟩ = 0

/-- What every accepted write does at the arbiter (R37, R46): the next sequence number is taken and shown in the page. -/
def TookNumber (s : State) (blk : Blk) (key : Nat) (t : State) : Prop :=
  t.seq = s.seq + 1 ∧ t.rd blk key offSeq = BitVec.ofNat 64 (s.seq + 1)

/-- The writer and the page of a command that writes one register; none for the other commands. -/
def writesPage : Instr → Option (Src × Blk × Nat)
  | .registerWrite src blk inst off _ _ => if off < 0x1000 then some (src, blk, inst) else none
  | .errClear src blk inst => some (src, blk, inst)
  | .saggarRegisterWrite src blk inst _ => some (src, blk, inst)
  | .distCopy src _ => some (src, .mgmt, 1)
  | .mgmtResetGo src _ => some (src, .mgmt, 0)
  | .evtRingEnable src f _ => if f < 64 then some (src, .host, f) else none
  | .funcBindWrite src _ => some (src, .host, 0)
  | .ringEnable src f n _ => if f < 64 ∧ n < 4 then some (src, .host, f) else none
  | .doorbell src f n _ => if f < 64 ∧ n < 4 then some (src, .host, f) else none
  | .mbxAck src f m _ => if f < 64 ∧ m < 64 then some (src, .host, 64 + f) else none
  | .semSignal src f _ => if f < 64 then some (src, .sem, f) else none
  | .hsemTake src f i _ => if f < 64 ∧ i < 64 then some (src, .sem, f) else none
  | .rimDoorbell src c _ => if c < 32 then some (src, .rim, c) else none
  | .msipWrite src c _ _ => if c < 32 then some (src, .rim, c) else none
  | .qcfgWrite src t q _ => if q < 14 then some (src, .tile, t) else none
  | .imemDataHiWrite src t _ => some (src, .tile, t)
  | .shadowReadySet src t _ => some (src, .tile, t)
  | .spInject src t _ => some (src, .tile, t)
  | .hDoorbell src t _ => some (src, .tdma, t)
  | .hCfgEnable src t _ => some (src, .tdma, t)
  | .tdmaRingStop src t _ => some (src, .tdma, t)
  | .tdmaRingResume src t _ => some (src, .tdma, t)
  | .slipMapWrite src p r _ => if r < 8 then some (src, .slip, p) else none
  | .gjobWrite src p _ => some (src, .glaze, p)
  | .linkEnable src q _ => some (src, lkBlk q, lkInst q)
  | .linkDisable src q _ => some (src, lkBlk q, lkInst q)
  | .persistGo src _ => some (src, .crack, 0)
  | .entryDataWrite src _ => some (src, .crack, 0)
  | .storeWindowCommit src _ => some (src, .saggar, 0)
  | .jobOwnerWrite src j _ => if j < 256 then some (src, .saggar, 0) else none
  | .kilnSaggarWrite src k _ => some (src, .kiln, k)
  | .teleRingEnable src _ => some (src, .tele, 0)
  | _ => none

/-- A command of a block whose entry the arbiter accepts (R52): all its checks pass. -/
abbrev State.admits (s : State) (c : CmdCtx) (blk : Blk) (inst : Nat) (sp : CmdSpec) : Prop :=
  s.running ∧ s.active c.func = true ∧ s.fenceHeld c.func c.ring = false ∧ s.admitCode c blk inst sp = eOK

/-- The command as it runs in its block once accepted. -/
def State.asRunning (s : State) (c : CmdCtx) (blk : Blk) (inst op : Nat) (args : List W64) : Running :=
  ⟨c, blk, inst, op, args, s.seq + 1, true, none⟩

/-- The state an accepted command's effect runs on: the number taken, the mailbox PENDING, word 0 written back, the command
running (R54). -/
def State.taken (s : State) (c : CmdCtx) (blk : Blk) (inst op : Nat) (args : List W64) : State :=
  (accept c (ctxWord0 c blk inst op) blk inst op args fun _ => skip).run s

/-- The same for a kiln command, whose admission time is noted. -/
def State.kilnTaken (s : State) (c : CmdCtx) (k op : Nat) (args : List W64) : State :=
  (timed k skip).run (s.taken c .kiln k op args)

/-- A register whose read takes the stored value and changes nothing: no untimed counter, no AUTO_INC, no open value. -/
abbrev State.readsPlainly (s : State) (blk : Blk) (inst off : Nat) : Prop :=
  timedFields s blk inst off = [] ∧ ¬ (blk = .host ∧ inst = 0 ∧ off = 0x100) ∧
  (blk, off) ∉ [(Blk.slip, 0x370), (.tile, 0x120), (.mgmt, 0x130), (.crack, 0x108), (.tele, 0x168), (.therm, 0x128),
    (.slip, 0x360), (.core, 0x140), (.vec, 0x158), (.vec, 0x160)]

/-! ## Tiles -/

/-- What raising SIG may write: its semaphore, and where that is full, ERR and EVT_STATUS of the tile (R116). -/
def State.sigRegs (s : State) (p : Nat) (w : W128) (off : Nat) : Prop :=
  iSig w < 48 ∧ (off = 0x200 + 8 * iSig w ∨
    (s.get (fSem (iSig w)) p = 0xFFFF ∧ (off = offErr ∨ off = offEvtStatus)))

/-- SIG raised at tile p: the semaphore it names gains 1, held at 0xFFFF. -/
def SigRaised (s t : State) (p : Nat) (w : W128) : Prop :=
  iSig w < 48 → t.get (fSem (iSig w)) p = min (s.get (fSem (iSig w)) p + 1) 0xFFFF

/-- A sequencer instruction is done at tile p: it is counted, PC stands at pc, SIG is raised; only the named parts, PC, SIG's
semaphore and the named registers of the tile differ. -/
def SeqDone (ps : List Component) (s t : State) (p pc : Nat) (w : W128) (more : Nat → Prop) : Prop :=
  t.get fDispatched p = min (s.get fDispatched p + 1) (2 ^ 32 - 1) ∧ t.get fPc p = pc % 2048 ∧ SigRaised s t p w ∧
  OnlyParts ps s t ∧ RegsKeptBut (fun b i o => b = .tile ∧ i = p ∧ (o = 0x100 ∨ s.sigRegs p w o ∨ more o)) s t

/-- The bytes a destination of `rows` rows of w bytes covers: a descriptor's rows, or the ring behind a queue end. -/
def State.destBytes (s : State) (p : Nat) (o : Opd) (rows w a : Nat) : Prop :=
  match o with
  | .desc base _ _ _ _ st1 _ => ∃ m < rows, base + m * st1 ≤ a ∧ a < base + m * st1 + w
  | .q q _ => s.get (fQBase (ringOf q)) p ≤ a ∧ a < s.get (fQBase (ringOf q)) p + 64 * s.ringSize p (ringOf q)
  | .none | .held => False

/-- Every byte of every scratchpad reads as before, but those of tile p named. -/
def SpKeptBut (p : Nat) (named : Nat → Prop) (s t : State) : Prop :=
  ∀ q a, a < 2 ^ 21 → ¬ (q = p ∧ named a) → t.spByte q a = s.spByte q a

/-- The same, but for the bytes of tile p whose word holds three or more flips, which a read may take for one (R223). -/
def SpKeptOrSpoilt (p : Nat) (named : Nat → Prop) (s t : State) : Prop :=
  SpKeptBut p (fun a => named a ∨ 3 ≤ eccKind (s.eccMask p a)) s t

/-- The registers the work of an engine's instruction may change: those of its own page, the counters of scratchpad errors of
its tile, the pointers of the ring it pushes into. -/
def engineRegs (page : Blk) (inst p : Nat) (c : Opd) (b : Blk) (j o : Nat) : Prop :=
  (b = page ∧ j = inst) ∨ (b = .tile ∧ j = p ∧ (o = 0x608 ∨ o = 0x610 ∨ ∃ q n, c = .q q n ∧ o = 0x4C0 + 8 * ringOf q))

/-- The head of queue e of tile p has done its work, and waits for its completion. -/
def HeadWorked (t : State) (p e : Nat) (i : QInstr) : Prop := t.head p e = some { i with worked := true }

/-- The first byte of a sparse instruction's element in a descriptor OPD_C, whose rows lie st1 bytes apart (R172). -/
def State.spPlace (s : State) (i : QInstr) (base st1 : Nat) (x : ElemOut) : Nat :=
  base + spCol i.word (s.spPermOf i) x * fmtBytes (spCvt i.word % 16) + x.m * st1

/-- The bytes a sparse instruction writes: its elements' places, or the ring behind a queue end. -/
def State.sparseDest (s : State) (i : QInstr) (core a : Nat) : Prop :=
  spWb i.word = true ∧
  ((∃ base f n0 n1 n2 st1 st2, i.c = .desc base f n0 n1 n2 st1 st2 ∧ ∃ x ∈ s.smmaElems i core,
      s.spPlace i base st1 x ≤ a ∧ a < s.spPlace i base st1 x + fmtBytes (spCvt i.word % 16)) ∨
    ∃ q n, i.c = .q q n ∧ s.destBytes i.p i.c 0 0 a)

/-- A sparse instruction is done: its sums stand in the accumulators, no accumulator of another core is changed; each element
whose place no other one meets is stored, converted; its A stays in the transposing buffer (R156, R162, R164, R173). -/
def SparseDone (s u : State) (p c : Nat) (i : QInstr) : Prop :=
  let core := 4 * p + c
  let w := i.word
  let e := fmtBytes (spCvt w % 16)
  HeadWorked u p c i ∧
  (∀ x ∈ s.smmaElems i core, u.accRd core x.a (x.m % 16) x.n = (pairInt (spFa w), x.acc)) ∧
  (∀ k a m n, k ≠ core → a < 16 → m < 16 → n < 16 → u.accRd k a m n = s.accRd k a m n) ∧
  (∀ base f n0 n1 n2 st1 st2, i.c = .desc base f n0 n1 n2 st1 st2 → spWb w = true → ∀ x ∈ s.smmaElems i core,
    (∀ y ∈ s.smmaElems i core, (y.m = x.m ∧ y.n = x.n) ∨ s.spPlace i base st1 y + e ≤ s.spPlace i base st1 x ∨
      s.spPlace i base st1 x + e ≤ s.spPlace i base st1 y) →
    ∀ j, j < e → (leBytes e x.out)[j]? = some (u.spByte p (s.spPlace i base st1 x + j))) ∧
  SpKeptOrSpoilt p (s.sparseDest i core) s u ∧
  (∃ x ∈ u.tl.tbs, x.core = core ∧ x.m1 = spM w ∧ x.k1 = spK w ∧ x.fmt = spFa w ∧ x.elems = s.spA i core) ∧
  (i.tb % 2 = 1 → u.get (fTbHalf 0) core = 3) ∧ (i.tb / 2 % 2 = 1 → u.get (fTbHalf 1) core = 3) ∧
  OnlyParts [.regs, .aux, .free, .hi, .tl, .sp, .ecc, .acc] s u ∧ RegsKeptBut (engineRegs .core core p i.c) s u

/-- What a write to TDMA CTRL does to the rings of tile p (Table 08-5): a STOP bit that changes moves its ring's STATE. -/
def RingsSwitched (s u : State) (p : Nat) (v : W64) : Prop :=
  u.rd .tdma p 0x010 = v &&& 7 ∧
  (∀ r, r < 2 →
    (s.get (fStop r) p = getBits v r 1 → u.get (fRState r) p = s.get (fRState r) p) ∧
    (s.get (fStop r) p = 0 → getBits v r 1 = 1 →
      (s.get (fRState r) p = 0 → u.get (fRState r) p = 3) ∧
      (s.get (fRState r) p = 1 → u.get (fRState r) p =
        if s.tl.jobs.any (fun j => j.p = p && j.ring = r) then 2 else 3)) ∧
    (s.get (fStop r) p = 1 → getBits v r 1 = 0 →
      (s.get (fRState r) p = 2 → u.get (fRState r) p = 1) ∧
      (s.get (fRState r) p = 3 → r = 0 → u.get (fRState r) p = if s.ax ⟨.dmaLeft, p, 0⟩ ≠ 0 then 1 else 0) ∧
      (s.get (fRState r) p = 3 → r = 1 → s.on fHEn p = false → u.get (fRState r) p = 0))) ∧
  OnlyParts [.regs, .seq, .hi] s u ∧
  RegsKeptBut (fun b i o => b = .tdma ∧ i = p ∧ (o = offCtrl ∨ o = offState ∨ o = offEvtStatus ∨ o = offSeq)) s u

/-- A line of tile p's scratchpad is scrubbed (R220): the single-bit errors of its words are corrected, no other word's check
bits change, and no byte but of a word with three or more flips. -/
def LineScrubbed (s u : State) (p sl line : Nat) : Prop :=
  (∀ e ∈ s.ecc, e.1 / 0x40000 = p → e.1 % 0x40000 / 8 = sliceLine sl line → eccKind e.2 = 1 →
    fget (fun _ => 0) u.ecc e.1 = 0) ∧
  (∀ k, ¬ (k / 0x40000 = p ∧ k % 0x40000 / 8 = sliceLine sl line) →
    fget (fun _ => 0) u.ecc k = fget (fun _ => 0) s.ecc k) ∧
  SpKeptOrSpoilt p (fun _ => False) s u ∧ OnlyParts [.regs, .aux, .ecc, .sp] s u ∧
  RegsKeptBut (fun b i o => (b = .tile ∧ i = p ∧ (o = 0x608 ∨ o = 0x610)) ∨ (b = .tele ∧ i = 0 ∧ o = 0x130)) s u

/-! ## Faults -/

/-- A death at a physical index: its bits gained, its compute DEAD, DEATH set, a persist due, the published geometry as it
was (R398, R401). -/
def Died (s t : State) (p bits : Nat) : Prop :=
  t.crackOf p % 256 = s.crackOf p % 256 ||| bits ∧ t.ax ⟨.tilePwr, p, 0⟩ = 3 ∧ t.on (fEvt .crack 0) 0 = true ∧
  t.ax ⟨.persistDue, 0, 0⟩ = 1 ∧ t.geo = s.geo

/-- A persist under way: the copy that is not the newest is invalid and takes the next number and the map (R397, R398). -/
def Persisting (s t : State) : Prop :=
  t.get fMapState 0 = 2 ∧
  (s.ft.newest = some 0 → t.ft = { s.ft with copyB := ⟨false, s.ft.nextSeq, s.ft.crack⟩ }) ∧
  (s.ft.newest ≠ some 0 → t.ft = { s.ft with copyA := ⟨false, s.ft.nextSeq, s.ft.crack⟩ })

/-- The module wedged by a cause (R418). -/
def Wedges (s t : State) (cause : Nat) : Prop :=
  t.wedged = true ∧ getBits (t.rd .crack 0 0x130) 4 4 = cause ∧ t.get fMgmtState 0 = 8 ∧
  (s.get (fErrCode .crack) 0 = 0 → t.get (fErrCode .crack) 0 = eWEDGED ∧ t.get (fErrInfo .crack) 0 = cause) ∧
  OnlyParts [.regs, .hi, .free] s t

/-! ## Datagrams -/

/-- Module m has a route (R384): an UP board link whose peer it is, or an UP fabric port. -/
def State.routed (s : State) (m : Nat) : Prop :=
  m ≠ s.self ∧ ((∃ q, (q = 16 ∨ q = 17 ∨ q = 18) ∧ s.lkUp q = true ∧ (s.boardPeer q).any (fun x => x.module_ = m) = true) ∨
    (s.upFab (m % 16) none).isSome = true)

/-- With no datagram waiting, frames of one type and payload go to the modules named, at least one to each that has a route;
those of a port whose priority is paused wait there (R384, R387). -/
def Casts (s t : State) (ms : List Nat) (typ : Nat) (data : List Byte) : Prop :=
  s.fb.dgrams = [] → ∃ l : List (Nat × Frame),
    t.out = ((l.filter fun x => !s.isPaused x.1 0).map fun x =>
      Out.frame x.1 (s.mac x.1 x.2.src) (s.tci 0) x.2).reverse ++ s.out ∧
    t.fb = { s.fb with dgrams := l.filter fun x => s.isPaused x.1 0 } ∧
    (∀ x ∈ l, x.2.typ = typ ∧ x.2.payload = data ∧ x.2.dst ∈ ms) ∧
    ∀ m ∈ ms, s.routed m → ∃ x ∈ l, x.2.dst = m

/-- A bucket of a job is FAILED with a code, and the step is over (R327). -/
def BucketFailed (t : State) (job bucket code : Nat) : Prop :=
  (∃ b, t.bkt job bucket = some b ∧ b.state = 5 ∧ b.code = code) ∧ t.ax ⟨.stepOpen, job, 0⟩ = 0

end Sys2Proof.Machine
end

