-- ==== Sys2Proof/Certificates/Slice0/Obligations.lean ====
section
/-! DEFINITION. The statements for the provers, from the spec's numbered rules, chapter by chapter.  `Answers c s P` says
that command c completes on state s and that the state it leaves is as P says; `OnlyParts` and `RegsKeptBut` are frames. -/

open Sys2Proof Sys2Proof.Machine

/-! ## The machine -/

/-- A step takes the command at the front of the queue and runs it on the state with the queue's rest. -/
def Obligations.StepRunsTheFrontCommand : Prop :=
  ∀ (c : Instr) (cs : List Instr) (s : State), s.pending = c :: cs → step s = exec c { s with pending := cs }

/-- On an empty queue one edge of CK_NET passes: WCOUNT counts while the root PLL gives a clock, and nothing else changes
(the model's choice, log entry 2). -/
def Obligations.IdleStepCountsOneEdge : Prop :=
  ∀ s : State, s.pending = [] → ∃ t, step s = .next t ∧ OnlyParts [.wcount] s t ∧
    t.wcount = if s.held = false ∧ s.get fClkState 0 ≠ 0 then s.wcount + 1 else s.wcount

/-- Reset: the power-on sequence stands in phase PLL, no function has a ring, no link is up, every memory lists nothing, every
register holds its reset value. -/
def Obligations.ResetIsCanonical : Prop :=
  State.reset.Canon ∧ State.reset.pending = [] ∧ State.reset.get fMgmtState 0 = 1 ∧ State.reset.wcount = 0 ∧
  (∀ h, State.reset.linkUp h = false) ∧ (∀ a, State.reset.storeByte a = 0) ∧
  ∀ blk inst off, State.reset.rd blk inst off = resetVal ⟨blk, inst, off⟩

/-- Every step, from every state, keeps every map of the state in its canonical form: the register file, the weight store,
the scratchpads, the accumulators, the instruction memories, the lane generators and the row states. -/
def Obligations.EveryStepKeepsTheCanonicalForm : Prop :=
  ∀ s t : State, s.Canon → step s = .next t → t.Canon

/-- Every command completes, on every state, and leaves the queue alone, but in the two cases for which the spec gives no
behaviour, which stop: a supply sample with both inputs below 44 V, and RESET_N released too early. -/
def Obligations.OnlyUndefinedBehaviourStops : Prop :=
  (∀ (c : Instr) (s : State), (∀ va ia vb ib w, c = .supplySample va ia vb ib w → ¬ (va < 44000 ∧ vb < 44000)) →
    (∀ pos v, c ≠ .resetNRelease pos v false) → Answers c s fun t => t.pending = s.pending) ∧
  (∀ (s : State) (va ia vb ib w : Nat), va < 44000 → vb < 44000 →
    exec (.supplySample va ia vb ib w) s = .fault .bothInputsLow) ∧
  (∀ (s : State) (pos : Nat) (v : Bool), exec (.resetNRelease pos v false) s = .fault .releasedEarly)

/-! ## Geometry (chapter 01) -/

/-- R8: "Rows are not remapped. The row coordinate y is the same in the physical and the logical grid." -/
def Obligations.RowsAreNotRemapped : Prop := ∀ (s : State) (t : Nat), s.phys t / 200 = t / 192

/-- R25: a due change enters a build, which takes every change recorded so far, and UPDATING shows it while the published map
stays; the swap publishes the build: GEN steps on, skipping 0, UPDATING clears and GEOM_CHANGED is set.  R27: a read of DIST_DATA
answers the selected entry and, with AUTO_INC, advances the port and then the tile; R28–R30: a whole-table copy whose checks pass
leaves as a snapshot of the published table; its end clears STATE and sets COPY_DONE; its failure clears STATE, records TIMEOUT
with the byte and does not set COPY_DONE. -/
def Obligations.GeometryIsPublishedAndRead : Prop :=
  (∀ s : State, s.running → s.on fUpdating 1 = false → (s.ax ⟨.geoDue, 0, 0⟩ ≠ 0 ∨ s.bootGeom = true) →
    Answers .geomBuildStart s fun t => t.on fUpdating 1 = true ∧ t.geoNext = s.geoLive ∧ t.geo = s.geo ∧
      t.geoLive = s.geoLive ∧ t.ax ⟨.geoDue, 0, 0⟩ = 0 ∧ OnlyParts [.regs, .aux, .geo] s t ∧
      RegsKeptBut (fun b i o => b = .mgmt ∧ i = 1 ∧ o = 0x108) s t) ∧
  (∀ s : State, s.running → s.on fUpdating 1 = true →
    Answers .geomSwap s fun t => t.geo = s.geoNext ∧ t.on fUpdating 1 = false ∧
      t.get fGen 1 = (if s.get fGen 1 = 0xFFFFFFFF then 1 else s.get fGen 1 + 1) ∧
      t.on (fEvt .mgmt 0) 1 = true ∧ (s.bootGeom = true → t.get fMgmtState 0 = 6)) ∧
  (∀ s : State, s.held = false →
    Answers .distDataRead s fun t => t.out = .readData s.distView :: s.out ∧
      (s.on fDistInc 1 = false → t.regs = s.regs) ∧
      (s.on fDistInc 1 = true → s.get fDistPort 1 < 47 → t.get fDistPort 1 = s.get fDistPort 1 + 1 ∧
        t.get fDistTile 1 = s.get fDistTile 1) ∧
      (s.on fDistInc 1 = true → s.get fDistPort 1 = 47 → t.get fDistPort 1 = 0 ∧
        t.get fDistTile 1 = if s.get fDistTile 1 < 34559 then s.get fDistTile 1 + 1 else 0) ∧
      OnlyParts [.regs, .out] s t ∧ RegsKeptBut (fun b i o => b = .mgmt ∧ i = 1 ∧ o = 0x128) s t) ∧
  (∀ (s : State) (src : Src) (v : W64) (root : Bool), s.lets src .mgmt 1 root → getBits v 0 1 = 1 →
    getBits (s.rd .mgmt 1 0x138) 0 6 = 0 → s.get fCopying 1 ≠ 1 → s.get fGen 1 ≠ 0 → s.linkUp (s.get fRootLink 0) = true →
    Answers (.distCopy src v) s fun t => TookNumber s .mgmt 1 t ∧ t.get fCopying 1 = 1 ∧
      t.out = .distTable (s.get fRootLink 0) (s.rd .mgmt 1 0x138).toNat (s.get fGen 1) s.geo :: s.out ∧
      OnlyParts [.regs, .seq, .out] s t ∧
      RegsKeptBut (fun b i o => b = .mgmt ∧ i = 1 ∧ (o = 0x018 ∨ o = offSeq)) s t) ∧
  (∀ s : State, s.held = false → s.get fCopying 1 = 1 →
    Answers .copyDone s fun t => t.get fCopying 1 = 0 ∧ t.on (fEvt .mgmt 1) 1 = true ∧ OnlyParts [.regs, .hi] s t ∧
      RegsKeptBut (fun b i o => b = .mgmt ∧ i = 1 ∧ (o = 0x018 ∨ o = offEvtStatus)) s t) ∧
  (∀ (s : State) (off : Nat), s.held = false → s.get fCopying 1 = 1 → off < 6635584 →
    Answers (.distCopyWriteFail off) s fun t => t.get fCopying 1 = 0 ∧ t.on (fEvt .mgmt 1) 1 = s.on (fEvt .mgmt 1) 1 ∧
      (s.get (fErrCode .mgmt) 1 = 0 → t.get (fErrCode .mgmt) 1 = eTIMEOUT ∧ t.get (fErrInfo .mgmt) 1 = off) ∧
      OnlyParts [.regs, .hi] s t ∧
      RegsKeptBut (fun b i o => b = .mgmt ∧ i = 1 ∧ (o = 0x018 ∨ o = offErr ∨ o = offEvtStatus)) s t)

/-! ## Registers (chapter 02) -/

/-- R46, R37: a write of a register that only loads bits changes the writable bits to the value's and leaves the others; a write of
EVT_STATUS clears the bits written as 1; a write of ERR_CLEAR sets ERR to 0.  Each takes the next sequence number, which the page's
SEQ shows, and changes no other register and nothing else.  R36: a rise of an EVT_ENABLE bit over a set status bit is an event, which
waits at the arbiter; no other bit gives one. -/
def Obligations.RegisterWritesByAccessCode : Prop :=
  (∀ (s : State) (src : Src) (blk : Blk) (inst off : Nat) (v : W64) (root : Bool), s.lets src blk inst root →
    off % 8 = 0 → 0x100 ≤ off → off < 0x1000 → (ownEff src blk inst off v).isNone → msixRange blk inst off = false →
    plainMask blk inst off ≠ 0 →
    Answers (.registerWrite src blk inst off 8 v) s fun t => TookNumber s blk (s.key blk inst) t ∧
      t.rd blk (s.key blk inst) off =
        (s.rd blk (s.key blk inst) off &&& ~~~plainMask blk inst off) ||| (v &&& plainMask blk inst off) ∧
      OnlyParts [.regs, .seq] s t ∧
      RegsKeptBut (fun b i o => b = blk ∧ i = s.key blk inst ∧ (o = off ∨ o = offSeq)) s t) ∧
  (∀ (s : State) (src : Src) (blk : Blk) (inst : Nat) (v : W64) (root : Bool), s.lets src blk inst root →
    Answers (.registerWrite src blk inst offEvtStatus 8 v) s fun t => TookNumber s blk (s.key blk inst) t ∧
      t.rd blk (s.key blk inst) offEvtStatus = s.rd blk (s.key blk inst) offEvtStatus &&& ~~~v ∧
      OnlyParts [.regs, .seq] s t ∧
      RegsKeptBut (fun b i o => b = blk ∧ i = s.key blk inst ∧ (o = offEvtStatus ∨ o = offSeq)) s t) ∧
  (∀ (s : State) (src : Src) (blk : Blk) (inst : Nat) (root : Bool), s.lets src blk inst root →
    Answers (.errClear src blk inst) s fun t => TookNumber s blk (s.key blk inst) t ∧
      t.rd blk (s.key blk inst) offErr = 0 ∧ OnlyParts [.regs, .seq] s t ∧
      RegsKeptBut (fun b i o => b = blk ∧ i = s.key blk inst ∧ (o = offErr ∨ o = offSeq)) s t) ∧
  (∀ (s : State) (src : Src) (blk : Blk) (inst : Nat) (v : W64) (root : Bool), s.lets src blk inst root →
    Answers (.registerWrite src blk inst offEvtEnable 8 v) s fun t => TookNumber s blk (s.key blk inst) t ∧
      t.rd blk (s.key blk inst) offEvtEnable = v &&& (evtMask blk inst ||| 0x8000000000000000) ∧
      (∃ new, t.hi.evq = s.hi.evq ++ new ∧ new.map (fun e => e.bit) = (List.range 64).filter fun b =>
        getBits (v &&& (evtMask blk inst ||| 0x8000000000000000)) b 1 = 1 && !s.on (fEvtEn blk b) (s.key blk inst) &&
          s.on (fEvt blk b) (s.key blk inst)) ∧
      OnlyParts [.regs, .seq, .hi] s t)

/-- R34, R40, R44, R66, R476: a write that cannot reach a page of its writer (a host link that is down, a slot that is not active or
bound to the other link, a page outside a virtual function's BAR0, a module that is wedged, tripped or held in reset) changes
nothing.  R34: a write to an absent page takes its sequence number and changes nothing else (log entry 9); R33, R46: a write that is not
64 bits wide and aligned is recorded in the page with ARG, takes no number and changes nothing else (INFO is free, log entry 8). -/
def Obligations.WritesWithoutEffect : Prop :=
  (∀ (c : Instr) (s : State) (src : Src) (blk : Blk) (inst : Nat), writesPage c = some (src, blk, inst) →
    s.inTurnFor src → s.writeAccess src blk inst = .ignored → exec c s = .next s) ∧
  (∀ (s : State) (src : Src) (blk : Blk) (inst off width : Nat) (v : W64) (root : Bool), s.inTurnFor src → s.running →
    off < 0x1000 → off ≠ offSaggar → s.writeAccess src blk inst = .ok root → s.present blk inst = false →
    (ownEff src blk inst off v).isNone →
    Answers (.registerWrite src blk inst off width v) s fun t => t.seq = s.seq + 1 ∧ OnlyParts [.seq] s t) ∧
  (∀ (s : State) (src : Src) (blk : Blk) (inst off width : Nat) (v : W64) (root : Bool), s.inTurnFor src → s.running →
    off < 0x1000 → s.writeAccess src blk inst = .ok root → s.present blk inst = true →
    msixRange blk inst off = false → (width ≠ 8 ∨ off % 8 ≠ 0) →
    Answers (.registerWrite src blk inst off width v) s fun t => OnlyParts [.regs, .hi, .free] s t ∧
      (s.get (fErrCode blk) (s.key blk inst) = 0 → t.get (fErrCode blk) (s.key blk inst) = eARG) ∧
      RegsKeptBut (fun b i o => b = blk ∧ i = s.key blk inst ∧ (o = offErr ∨ o = offEvtStatus)) s t)

/-- R45, R70, R429: a write to a page the writer's saggar does not own changes nothing in that page: SAGGAR is recorded in the
writer's own page, the denial is counted, and the first denial is recorded in DENY_FIRST. -/
def Obligations.DeniedWritesAreCountedAndRecorded : Prop :=
  ∀ (c : Instr) (s : State) (src : Src) (blk : Blk) (inst : Nat) (b : Blk) (i info pres own wher : Nat),
    writesPage c = some (src, blk, inst) → s.inTurnFor src →
    s.writeAccess src blk inst = .denied b i info pres own wher →
    Answers c s fun t => t.get fDenyCount 0 = min (s.get fDenyCount 0 + 1) (2 ^ 48 - 1) ∧
      (s.on fDenyValid 0 = false → t.rd .saggar 0 0x130 = denyWord 2 pres own true wher) ∧
      (s.get (fErrCode b) i = 0 → t.get (fErrCode b) i = eSAGGAR ∧ t.get (fErrInfo b) i = info % 2 ^ 32) ∧
      OnlyParts [.regs, .hi] s t ∧
      RegsKeptBut (fun b' i' o => (b' = b ∧ i' = i ∧ (o = offErr ∨ o = offEvtStatus)) ∨
        (b' = .saggar ∧ i' = 0 ∧ (o = 0x128 ∨ o = 0x130 ∨ o = offEvtStatus))) s t

/-- R37: the SAGGAR register of a page (KILN pages apart) takes the owner's saggar from a writer with root authority, and
from no other: the other's write is recorded with SAGGAR in the writer's own page, with the target's block type and instance. -/
def Obligations.SaggarRegisterIsRootOnly : Prop :=
  (∀ (s : State) (src : Src) (blk : Blk) (inst : Nat) (v : W64), s.lets src blk inst true → blk ≠ .kiln →
    ¬ (blk = .host ∧ inst = 0) →
    Answers (.saggarRegisterWrite src blk inst v) s fun t => TookNumber s blk (s.key blk inst) t ∧
      t.rd blk (s.key blk inst) offSaggar = v &&& 0x3F ∧ OnlyParts [.regs, .seq] s t ∧
      RegsKeptBut (fun b i o => b = blk ∧ i = s.key blk inst ∧ (o = offSaggar ∨ o = offSeq)) s t) ∧
  (∀ (s : State) (f l : Nat) (blk : Blk) (inst : Nat) (v : W64), s.lets (.host f l) blk inst false → blk ≠ .kiln →
    Answers (.saggarRegisterWrite (.host f l) blk inst v) s fun t =>
      (s.get (fErrCode .host) f = 0 → t.get (fErrCode .host) f = eSAGGAR ∧
        t.get (fErrInfo .host) f = (blkCode blk * 0x10000 + inst) % 2 ^ 32) ∧
      OnlyParts [.regs, .hi] s t ∧
      RegsKeptBut (fun b i o => b = .host ∧ i = f ∧ (o = offErr ∨ o = offEvtStatus)) s t)

/-! ## Rings, mailboxes, semaphores (chapter 02) -/

/-- R49–R52: the registers of a command ring act: enabling and disabling it, a doorbell that fetches; a fetched entry's fields are
read from its words, and it waits at the arbiter when its OWN is 1; a fetch or write-back that fails at PCIe disables the ring with TIMEOUT. -/
def Obligations.CommandRingsFetch : Prop :=
  (∀ (s : State) (src : Src) (f n : Nat) (v : W64) (root : Bool), s.lets src .host f root → f < 64 → n < 4 →
    4 ≤ getBits v 0 4 → getBits v 0 4 ≤ 12 → (s.on (fRingEnable n) f = true → getBits v 0 4 = s.get (fRingLog n) f) →
    Answers (.ringEnable src f n v) s fun t => TookNumber s .host f t ∧
      t.rd .host f (0x208 + 0x20 * n) = v &&& (if f = 0 then 0x30F else 0x10F) ∧
      (s.on (fRingEnable n) f = false → getBits v 8 1 = 1 → t.get (fRingHead n) f = 0) ∧
      (getBits v 8 1 = 0 → t.ax ⟨.ringFetch, f, n⟩ = 0) ∧ OnlyParts [.regs, .aux, .seq] s t ∧
      RegsKeptBut (fun b i o => b = .host ∧ i = f ∧ (o = 0x208 + 0x20 * n ∨ o = 0x210 + 0x20 * n ∨ o = offSeq)) s t) ∧
  (∀ (s : State) (src : Src) (f n : Nat) (v : W64) (root : Bool), s.lets src .host f root → f < 64 → n < 4 →
    s.on (fRingEnable n) f = true → getBits v 0 16 < s.ringSz f n →
    Answers (.doorbell src f n v) s fun t => TookNumber s .host f t ∧ t.ax ⟨.ringTail, f, n⟩ = getBits v 0 16 ∧
      (s.ax ⟨.ringFetch, f, n⟩ = 0 → s.get (fRingHead n) f ≠ getBits v 0 16 → s.linkUp (s.ringLink f n) = true →
        t.ax ⟨.ringFetch, f, n⟩ = 1 ∧
        t.out = .hostRead f (s.ringLink f n) (s.ringBase f n + 64 * s.get (fRingHead n) f) 64 :: s.out) ∧
      OnlyParts [.regs, .aux, .seq, .out] s t ∧
      RegsKeptBut (fun b i o => b = .host ∧ i = f ∧ o = offSeq) s t) ∧
  (∀ (s : State) (src : Src) (f : Nat) (v : W64) (root : Bool), s.lets src .host f root → f < 64 →
    4 ≤ getBits v 0 4 → getBits v 0 4 ≤ 14 → (s.on fEvtRingEn f = true → getBits v 0 4 = s.get fEvtRingLog f) →
    Answers (.evtRingEnable src f v) s fun t => TookNumber s .host f t ∧
      t.rd .host f 0x308 = v &&& (if f = 0 then 0x30F else 0x10F) ∧
      (s.on fEvtRingEn f = false → getBits v 8 1 = 1 → t.get fEvtTail f = 0 ∧ t.get fEvtPhase f = 1) ∧
      OnlyParts [.regs, .seq] s t ∧
      RegsKeptBut (fun b i o => b = .host ∧ i = f ∧ (o = 0x308 ∨ o = 0x310 ∨ o = offSeq)) s t) ∧
  (∀ (s : State) (f n : Nat) (ws : List W64), s.running → f < 64 → n < 4 → s.active f = true →
    s.on (fRingEnable n) f = true → s.ax ⟨.ringFetch, f, n⟩ ≠ 0 → s.linkUp (s.ringLink f n) = true →
    let w0 := ws.getD 0 0
    Answers (.cmdEntryFetched f n ws) s fun t =>
      (getBits w0 0 1 = 1 → t.hi.fetched = s.hi.fetched ++ [⟨f, n, s.get (fRingHead n) f, {
          own := true, opcode := getBits w0 8 8, blk := getBits w0 16 16, inst := getBits w0 32 16, mailbox := getBits w0 48 6
          mbxEn := decide (getBits w0 54 1 = 1), userTag := getBits (ws.getD 1 0) 0 32
          args := (List.range 6).map fun i => ws.getD (2 + i) 0 }⟩] ∧
        t.get (fRingHead n) f = (s.get (fRingHead n) f + 1) % s.ringSz f n) ∧
      (getBits w0 0 1 = 0 → t.hi = s.hi ∧ t.ax ⟨.ringFetch, f, n⟩ = 0 ∧ t.regs = s.regs) ∧
      OnlyParts [.regs, .aux, .hi, .out] s t ∧
      RegsKeptBut (fun b i o => b = .host ∧ i = f ∧ o = 0x210 + 0x20 * n) s t) ∧
  (∀ (s : State) (f n idx : Nat), s.running → f < 64 → n < 4 → s.active f = true → idx < s.ringSz f n →
    Answers (.ringPcieFail f n idx) s fun t => t.on (fRingEnable n) f = false ∧ t.ax ⟨.ringFetch, f, n⟩ = 0 ∧
      (s.get (fErrCode .host) f = 0 → t.get (fErrCode .host) f = eTIMEOUT ∧
        t.get (fErrInfo .host) f = (n * 0x10000 + idx) % 2 ^ 32) ∧
      OnlyParts [.regs, .aux, .hi] s t ∧
      RegsKeptBut (fun b i o => b = .host ∧ i = f ∧ (o = 0x208 + 0x20 * n ∨ o = offErr ∨ o = offEvtStatus)) s t) ∧
  (∀ (s : State) (f idx : Nat), s.held = false → f < 64 → s.active f = true → idx < 2 ^ s.get fEvtRingLog f →
    Answers (.evtRingWriteFail f idx) s fun t => t.on fEvtRingEn f = false ∧
      t.get fEvtTail f = (if s.on fEvtRingEn f then idx else s.get fEvtTail f) ∧
      (s.get (fErrCode .host) f = 0 → t.get (fErrCode .host) f = eTIMEOUT ∧ t.get (fErrInfo .host) f = idx) ∧
      OnlyParts [.regs, .hi] s t ∧
      RegsKeptBut (fun b i o => b = .host ∧ i = f ∧ (o = 0x308 ∨ o = 0x310 ∨ o = offErr ∨ o = offEvtStatus)) s t)

/-- R54: an accepted NOP or FENCE takes the next sequence number; a FENCE then runs until every earlier command of its ring has
completed and holds its ring meanwhile; a NOP completes at once and leaves no running command; R54, R55: a FENCE that completes leaves, and a
PENDING mailbox of it goes VALID. -/
def Obligations.NopAndFence : Prop :=
  (∀ (s : State) (c : CmdCtx), s.running → s.active c.func = true → s.fenceHeld c.func c.ring = false →
    s.plainCode c = eOK →
    Answers (.fence c) s fun t => t.seq = s.seq + 1 ∧
      t.hi.running = s.hi.running ++ [s.asRunning c .host 0 1 []] ∧ t.fenceHeld c.func c.ring = true ∧
      OnlyParts [.regs, .aux, .seq, .hi, .out, .free] s t) ∧
  (∀ (s : State) (c : CmdCtx), s.running → s.active c.func = true → s.fenceHeld c.func c.ring = false →
    s.plainCode c = eOK → (∀ r ∈ s.hi.running, r.seq ≠ s.seq + 1) →
    Answers (.nop c) s fun t => t.seq = s.seq + 1 ∧ t.hi.running = s.hi.running ∧
      OnlyParts [.regs, .aux, .seq, .hi, .out, .free] s t) ∧
  (∀ (s : State) (f n : Nat) (r : Running), s.held = false →
    (s.hi.running.filter fun r => r.ctx.func = f && r.ctx.ring = n).find? (fun r => r.blk = .host && r.op = 1) = some r →
    (∀ x ∈ s.hi.running, x.ctx.func = f → x.ctx.ring = n → r.seq ≤ x.seq) →
    Answers (.fenceComplete f n) s fun t => t.hi.running = s.hi.running.filter (fun x => x.seq ≠ r.seq) ∧
      (r.ctx.mbxEn = true → r.post = true → s.on (fMbxPending r.ctx.mailbox) (64 + r.ctx.func) = true → r.ctx.func < 64 → r.ctx.mailbox < 64 →
        t.on (fMbxPending r.ctx.mailbox) (64 + r.ctx.func) = false ∧
        t.on (fMbxValid r.ctx.mailbox) (64 + r.ctx.func) = true ∧
        t.get (fMbxCode r.ctx.mailbox) (64 + r.ctx.func) = eOK) ∧
      OnlyParts [.regs, .hi, .out, .free] s t)

/-- R52, R54: CMD_ADMIT takes the oldest fetched entry of the ring whose turn it is: it leaves the entries that wait, the
turn passes on, and the entry is decided: a FENCE whose mailbox is free is accepted with the next sequence number, an entry whose block does not accept its opcode
is rejected with ARG, and a rejection takes no number. -/
def Obligations.AdmissionDecidesTheOldestEntry : Prop :=
  ∀ (s : State) (f n : Nat) (x : Fetched), s.running → s.active f = true → s.ringTurn f = some n →
    s.hi.fetched.find? (fun x => x.func = f && x.ring = n) = some x →
    Answers (.cmdAdmit f n) s fun t =>
      (x.entry.opcode = 1 → s.plainCode x.ctx = eOK → t.seq = s.seq + 1 ∧ t.hi.fetched = s.hi.fetched.erase x ∧
        t.ax ⟨.ringLast, f, 0⟩ = n + 1 ∧ t.hi.running = s.hi.running ++ [s.asRunning x.ctx .host 0 1 []]) ∧
      (1 < x.entry.opcode → blkOfCode x.entry.blk = none → t.seq = s.seq ∧ t.hi.fetched = s.hi.fetched.erase x ∧
        t.ax ⟨.ringLast, f, 0⟩ = n + 1 ∧ t.hi.running = s.hi.running ∧
        (s.get (fErrCode .host) f = 0 → s.linkUp (s.ringLink f n) = true →
          t.get (fErrCode .host) f = eARG ∧ t.get (fErrInfo .host) f = (n * 0x10000 + x.idx) % 2 ^ 32))

/-- R55: MBX_ACK with the mailbox's SEQ empties a VALID mailbox; R64: HSEM_TAKE of n takes n from a count that holds it; R63,
R116: SEM.SIGNAL to a tile raises the tile's semaphore by COUNT, held at 0xFFFF. -/
def Obligations.MailboxAndSemaphoreWrites : Prop :=
  (∀ (s : State) (src : Src) (f m : Nat) (v : W64) (root : Bool), s.lets src .host (64 + f) root → f < 64 → m < 64 →
    s.on (fMbxValid m) (64 + f) = true → getBits v 0 32 = s.get (fMbxSeq m) (64 + f) →
    Answers (.mbxAck src f m v) s fun t => TookNumber s .host (64 + f) t ∧ t.on (fMbxValid m) (64 + f) = false ∧
      t.get (fMbxSeq m) (64 + f) = s.get (fMbxSeq m) (64 + f) ∧ OnlyParts [.regs, .seq] s t ∧
      RegsKeptBut (fun b i o => b = .host ∧ i = 64 + f ∧ (o = 0x100 + 0x20 * m ∨ o = offSeq)) s t) ∧
  (∀ (s : State) (src : Src) (f i : Nat) (v : W64) (root : Bool), s.lets src .sem f root → f < 64 → i < 64 →
    getBits v 0 32 ≤ s.get (fHsemCount i) f →
    Answers (.hsemTake src f i v) s fun t => TookNumber s .sem f t ∧
      t.get (fHsemCount i) f = s.get (fHsemCount i) f - getBits v 0 32 ∧ OnlyParts [.regs, .seq] s t ∧
      RegsKeptBut (fun b j o => b = .sem ∧ j = f ∧ (o = 0x200 + 8 * i ∨ o = offSeq)) s t) ∧
  (∀ (s : State) (src : Src) (f : Nat) (v : W64) (root : Bool), s.lets src .sem f root → f < 64 →
    s.semErr src root v = none →
    Answers (.semSignal src f v) s fun t => TookNumber s .sem f t ∧
      t.get (fSem (getBits v 16 6)) (s.phys (getBits v 0 16)) =
        min (s.get (fSem (getBits v 16 6)) (s.phys (getBits v 0 16)) + getBits v 24 8) 0xFFFF ∧
      OnlyParts [.regs, .seq, .hi] s t)

/-- R25, R46, R60: an event that is admitted (SHIFT_DONE not before a GEOM_CHANGED that waits) leaves those that wait and takes the next number; its entry is written at TAIL of the home
function's ring, if that is enabled, has room and its link is up, and TAIL steps on; R64: a tile's signal to a host semaphore leaves those
that wait and raises the count of the home function, held at the largest count, and sets its pending bit; with no home function it is dropped and
counted. -/
def Obligations.EventsAndHostSignalsAreAdmitted : Prop :=
  (∀ (s : State) (i : Nat) (e : Event), s.running → s.hi.evq[i]? = some e → s.behindGeom i e = false →
    Answers (.eventAdmit i) s fun t => t.seq = s.seq + 1 ∧ (∃ new, t.hi.evq = s.hi.evq.eraseIdx i ++ new) ∧
      OnlyParts [.regs, .seq, .hi, .out, .free] s t ∧
      ∀ f r, s.home (s.get (fSaggar e.blk) e.inst) = some f → s.evtInst e = some r → s.on fEvtRingEn f = true →
        (s.get fEvtTail f + 1) % 2 ^ s.get fEvtRingLog f ≠ s.get fEvtHead f →
        s.linkUp (if f = 0 then s.get fEvtRingLink 0 else s.bind f) = true →
        .hostWrite f (if f = 0 then s.get fEvtRingLink 0 else s.bind f) ((s.rd .host f 0x300).toNat + 32 * s.get fEvtTail f)
          (evtBytes e r (s.seq + 1) (s.get fEvtPhase f)) ∈ t.out ∧
        t.get fEvtTail f = (s.get fEvtTail f + 1) % 2 ^ s.get fEvtRingLog f) ∧
  (∀ (s : State) (i : Nat) (g : HostSig), s.running → s.hi.signals[i]? = some g → g.sem < 64 →
    Answers (.hostSemSignal i) s fun t => t.hi.signals = s.hi.signals.eraseIdx i ∧
      (∀ f, s.home (s.kilnSag g.kiln none) = some f → t.seq = s.seq + 1 ∧
        t.get (fHsemCount g.sem) f = min (s.get (fHsemCount g.sem) f + g.count) (2 ^ 32 - 1) ∧
        t.on (fHsemPending g.sem) f = true) ∧
      (s.home (s.kilnSag g.kiln none) = none → t.seq = s.seq ∧
        t.get fHsemDrop 0 = min (s.get fHsemDrop 0 + 1) (2 ^ 32 - 1)) ∧
      OnlyParts [.regs, .seq, .hi, .out] s t)

/-- R57: "The arbiter order decides a race between an ACK and a command that names the same mailbox. If the ACK is admitted
first, the command finds EMPTY and can be accepted. If the command comes first, it is rejected with FULL." -/
def Obligations.ArbiterOrderDecidesAckAgainstCommand : Prop :=
  (∀ (s : State) (src : Src) (f m : Nat) (v : W64) (root : Bool), s.lets src .host (64 + f) root → f < 64 → m < 64 →
    s.on (fMbxValid m) (64 + f) = true → s.on (fMbxPending m) (64 + f) = false →
    getBits v 0 32 = s.get (fMbxSeq m) (64 + f) →
    Answers (.mbxAck src f m v) s fun t => ∀ c : CmdCtx, c.func = f → c.mailbox = m →
      (∀ blk inst sp, t.admitCode c blk inst sp = eFULL → sp.blocked t = some eFULL) ∧
      (t.active f = true → t.fenceHeld f c.ring = false → Answers (.nop c) t fun u => u.seq = t.seq + 1)) ∧
  (∀ (s : State) (c : CmdCtx), s.running → s.active c.func = true → s.fenceHeld c.func c.ring = false → c.mbxEn = true →
    s.on (fMbxValid c.mailbox) (64 + c.func) = true →
    (∀ blk inst sp, sp.blocked s ≠ some eOK → s.admitCode c blk inst sp ≠ eOK) ∧
    Answers (.nop c) s fun u => u.seq = s.seq ∧ u.hi.running = s.hi.running ∧
      (s.get (fErrCode .host) c.func = 0 → s.linkUp (s.ringLink c.func c.ring) = true →
        u.get (fErrCode .host) c.func = eFULL ∧
        u.get (fErrInfo .host) c.func = (c.ring * 0x10000 + c.idx) % 2 ^ 32))

/-- R40: the root binds slots to links unless that would move an active slot; when NumVFs or VF Enable of a link changes, a
virtual function that becomes inactive has no ring and no fetched entry left; R58: a Function Level Reset disables the
function's rings, discards its entries, takes away the results of its commands and empties its mailboxes and host semaphores. -/
def Obligations.FunctionsBindChangeAndReset : Prop :=
  (∀ (s : State) (src : Src) (v : W64), s.lets src .host 0 true →
    (∀ f, f < 64 → f ≠ 0 → s.active f = true → getBits v f 1 = s.bind f) →
    Answers (.funcBindWrite src v) s fun t => TookNumber s .host 0 t ∧ t.rd .host 0 0x108 = v &&& ~~~1 ∧
      OnlyParts [.regs, .seq] s t ∧ RegsKeptBut (fun b i o => b = .host ∧ i = 0 ∧ (o = 0x108 ∨ o = offSeq)) s t) ∧
  (∀ (s : State) (h n : Nat) (en : Bool), s.held = false → h < 2 → s.linkUp h = true → n < 64 →
    Answers (.vfActiveChange h n en) s fun t =>
      t.get fNumVfs (256 + h) = n ∧ (t.on fVfEnable (256 + h) = en) ∧
      (∀ f, f < 64 → f ≠ 0 → s.active f = true → s.bind f = h → (en = false ∨ n < f) →
        t.active f = false ∧ (∀ k, k < 4 → t.on (fRingEnable k) f = false) ∧ ∀ x ∈ t.hi.fetched, x.func ≠ f) ∧
      OnlyParts [.regs, .aux, .hi] s t) ∧
  (∀ (s : State) (f : Nat), s.held = false → f < 64 → s.active f = true → s.ax ⟨.resetting, 0, 0⟩ = 0 →
    Answers (.functionLevelReset f) s fun t => (∀ k, k < 4 → t.on (fRingEnable k) f = false) ∧
      t.on fEvtRingEn f = false ∧ (∀ x ∈ t.hi.fetched, x.func ≠ f) ∧
      (∀ r ∈ t.hi.running, r.ctx.func = f → r.post = false) ∧
      (∀ m, m < 64 → t.on (fMbxValid m) (64 + f) = false ∧ t.on (fMbxPending m) (64 + f) = false ∧
        t.get (fHsemCount m) f = 0 ∧ t.on (fHsemPending m) f = false) ∧
      OnlyParts [.regs, .aux, .hi] s t ∧
      RegsKeptBut (fun b i _ => (b = .host ∧ (i = f ∨ i = 64 + f)) ∨ (b = .sem ∧ i = f) ∨ (f = 0 ∧ b = .tdma)) s t)

/-- R66, R480: a host link that goes down is counted and recorded with LINK_DOWN, and the rings on it stop fetching, and ring 1 of every tile is disabled if it is the root's (R235); one that
comes up shows its speed and width; R62: a vector unmasked while its message is pending is sent, and Enable and Function Mask take their written values; R476, R482: PERST# released
lets a link train; a link reset takes its virtual functions, its APERTURE and its MSI-X enable. -/
def Obligations.HostLinksComeAndGo : Prop :=
  (∀ (s : State) (h : Nat), s.held = false → h < 2 → s.linkUp h = true →
    Answers (.hostLinkDown h) s fun t => t.linkUp h = false ∧
      t.get ⟨.host, 0x108, 0, 16⟩ (256 + h) = min (s.get ⟨.host, 0x108, 0, 16⟩ (256 + h) + 1) 0xFFFF ∧
      (s.get (fErrCode .host) (256 + h) = 0 → t.get (fErrCode .host) (256 + h) = eLINK_DOWN) ∧
      (∀ f n, f < 64 → n < 4 → s.ringLink f n = h → t.ax ⟨.ringFetch, f, n⟩ = 0) ∧
      (s.get fRootLink 0 = h → ∀ p, t.on fHEn p = false) ∧ OnlyParts [.regs, .aux, .hi, .free] s t ∧
      RegsKeptBut (fun b i o => (b = .host ∧ i = 256 + h ∧ (o = 0x100 ∨ o = 0x108 ∨ o = offErr ∨ o = offEvtStatus)) ∨
        (b = .tdma ∧ s.get fRootLink 0 = h ∧ s.on fHEn i = true ∧
          (o = 0x118 ∨ o = offState ∨ o = offErr ∨ o = offEvtStatus))) s t) ∧
  (∀ (s : State) (h sp w : Nat) (fl : Bool), s.held = false → h < 2 → s.linkUp h = false → s.ax ⟨.perst, h, 0⟩ ≠ 0 →
    s.get fMgmtState 0 ≠ 1 → sp < 16 → w < 32 →
    Answers (.hostLinkUp h sp w fl) s fun t => t.linkUp h = true ∧ t.get ⟨.host, 0x100, 4, 4⟩ (256 + h) = sp ∧
      t.get ⟨.host, 0x100, 8, 5⟩ (256 + h) = w ∧ OnlyParts [.regs, .out] s t) ∧
  (∀ (s : State) (f v : Nat), s.held = false → f < 64 → s.active f = true → v < 16 → s.linkUp (s.funcLink f) = true →
    Answers (.msixUnmask f (.vec v)) s fun t => t.on (fVecMask v) f = false ∧
      (s.on (fPba v) f = true → s.ax ⟨.msixEn, f, if f = 0 then s.funcLink f else 0⟩ ≠ 0 →
        s.ax ⟨.msixMask, f, if f = 0 then s.funcLink f else 0⟩ = 0 →
        t.on (fPba v) f = false ∧ .msix f (s.funcLink f) v ∈ t.out) ∧ OnlyParts [.regs, .out] s t ∧
      RegsKeptBut (fun b i o => b = .host ∧ i = f ∧ (o = 0x808 + 16 * v ∨ o = 0x900)) s t) ∧
  (∀ (s : State) (f l : Nat) (en mask : Bool), s.held = false → f < 64 → s.active f = true → l < 2 →
    s.linkUp (if f = 0 then l else s.bind f) = true →
    Answers (.msixUnmask f (.func l en mask)) s fun t => t.ax ⟨.msixEn, f, if f = 0 then l else 0⟩ = (if en then 1 else 0) ∧
      t.ax ⟨.msixMask, f, if f = 0 then l else 0⟩ = (if mask then 1 else 0) ∧ OnlyParts [.regs, .aux, .out] s t ∧
      RegsKeptBut (fun b i o => b = .host ∧ i = f ∧ o = 0x900) s t) ∧
  (∀ (s : State) (h : Nat), h < 2 → Answers (.hostPerstRelease h) s fun t => t.ax ⟨.perst, h, 0⟩ = 1 ∧ OnlyParts [.aux] s t) ∧
  (∀ (s : State) (h : Nat), s.held = false → h < 2 → s.ax ⟨.resetting, 0, 0⟩ = 0 →
    Answers (.hostLinkReset h) s fun t => t.on fVfEnable (256 + h) = false ∧ t.rd .host (256 + h) 0x120 = 0 ∧
      t.ax ⟨.msixEn, 0, h⟩ = 0 ∧ OnlyParts [.regs, .aux, .hi] s t)

/-! ## Rim cores (chapter 02) -/

/-- R72–R75: START, HALT, RESET and FLUSH of a rim core move it between HELD, RUNNING, HALTED and WAITING, and START sets the hart's pc
and machine mode; WFI waits with no interrupt pending and enabled in mie; a doorbell, a software interrupt and the timers set their
pending bits and wake a waiting core whose mie takes them. -/
def Obligations.RimCoresRunAndWake : Prop :=
  (∀ (s : State) (c : CmdCtx) (k : Nat) (args : List W64), s.admits c .rim k (rimStartSpec k args) →
    (∀ r ∈ s.hi.running, r.seq ≠ s.seq + 1) →
    Answers (.rimStart c k args) s fun t => t.seq = s.seq + 1 ∧ t.get fRimState k = 1 ∧
      t.get fRimEntry k = (argN args 0).toNat ∧ t.ax ⟨.rimPc, k, 0⟩ = (argN args 0).toNat ∧ t.ax ⟨.rimMode, k, 0⟩ = 3 ∧
      t.hi.running = s.hi.running ∧ OnlyParts [.regs, .aux, .seq, .hi, .out, .free] s t ∧
      RegsKeptBut (fun b i o => (b = .rim ∧ i = k ∧ (o = 0x018 ∨ o = 0x100)) ∨ b = .host) s t) ∧
  (∀ (s : State) (c : CmdCtx) (k : Nat) (args : List W64) (pc : W64), s.admits c .rim k (rimHaltSpec k args pc) →
    (∀ r ∈ s.hi.running, r.seq ≠ s.seq + 1) →
    Answers (.rimHalt c k args pc) s fun t => t.seq = s.seq + 1 ∧ t.get fRimState k = 3 ∧
      t.get fHaltPc k = getBits pc 0 48 ∧ t.on (fEvt .rim 0) k = true ∧ t.hi.running = s.hi.running ∧
      OnlyParts [.regs, .aux, .seq, .hi, .out, .free] s t ∧
      RegsKeptBut (fun b i o => (b = .rim ∧ i = k ∧ (o = 0x018 ∨ o = 0x108 ∨ o = 0x138 ∨ o = offEvtStatus)) ∨ b = .host) s t) ∧
  (∀ (s : State) (c : CmdCtx) (k : Nat) (args : List W64), s.admits c .rim k (rimResetSpec k args) →
    (∀ r ∈ s.hi.running, r.seq ≠ s.seq + 1) →
    Answers (.rimReset c k args) s fun t => t.seq = s.seq + 1 ∧ t.get fRimState k = 0 ∧
      (∀ l ∈ t.rm.lines, ¬ (l.cluster = k / 8 ∧ l.core = k % 8)) ∧ t.hi.running = s.hi.running ∧
      OnlyParts [.regs, .aux, .seq, .hi, .out, .free, .rm] s t ∧
      RegsKeptBut (fun b i o => (b = .rim ∧ i = k ∧ (o = 0x018 ∨ o = 0x138)) ∨ b = .host) s t) ∧
  (∀ (s : State) (c : CmdCtx) (k : Nat) (args : List W64), s.admits c .rim k (rimFlushSpec k args) →
    Answers (.rimFlush c k args) s fun t => t.seq = s.seq + 1 ∧ t.get fRimState k = 1 ∧
      t.hi.running = s.hi.running ++ [s.asRunning c .rim k 0x13 args] ∧
      OnlyParts [.regs, .aux, .seq, .hi, .out, .free] s t ∧
      RegsKeptBut (fun b i o => (b = .rim ∧ i = k ∧ o = 0x018) ∨ b = .host) s t) ∧
  (∀ (s : State) (k : Nat) (r : Running), s.held = false → (s.runningOf .rim (32 + k) 0x13).head? = some r →
    Answers (.rimFlushDone k) s fun t => (∀ l ∈ t.rm.lines, l.cluster ≠ k) ∧
      t.hi.running = s.hi.running.filter (fun x => x.seq ≠ r.seq) ∧ t.on (fEvt .rim 0) (32 + k) = true ∧
      ((∀ x ∈ s.runningOf .rim (32 + k) 0x13, x.seq = r.seq) → t.get fRimState (32 + k) = 0) ∧
      OnlyParts [.regs, .hi, .out, .rm] s t) ∧
  (∀ (s : State) (c mie : Nat) (v : W64), s.running → c < 32 → s.get fRimState c = 1 → s.rimMip c v.toNat &&& mie = 0 →
    Answers (.rimWfi ⟨c, mie, v⟩) s fun t => t.get fRimState c = 2 ∧ t.ax ⟨.rimMie, c, 0⟩ = mie ∧
      t.ax ⟨.rimStimecmp, c, 0⟩ = v.toNat ∧ OnlyParts [.regs, .aux, .free] s t ∧
      RegsKeptBut (fun b i o => b = .rim ∧ i = c ∧ (o = 0x018 ∨ o = 0x138)) s t) ∧
  (∀ (s : State) (src : Src) (c : Nat) (v : W64) (root : Bool), s.lets src .rim c root → c < 32 → getBits v 0 1 = 1 →
    Answers (.rimDoorbell src c v) s fun t => TookNumber s .rim c t ∧ t.get ⟨.rim, 0x110, 0, 1⟩ c = 1 ∧
      (s.get fRimState c = 2 → s.get ⟨.rim, 0x118, 0, 1⟩ c = 1 → s.ax ⟨.rimMie, c, 0⟩ / 2 ^ 11 % 2 = 1 →
        t.get fRimState c = 1) ∧
      OnlyParts [.regs, .seq] s t ∧
      RegsKeptBut (fun b i o => b = .rim ∧ i = c ∧ (o = 0x110 ∨ o = 0x018 ∨ o = offSeq)) s t) ∧
  (∀ (s : State) (src : Src) (c : Nat) (en : Bool) (v : W64) (root : Bool), s.lets src .rim c root → c < 32 →
    Answers (.msipWrite src c en v) s fun t => TookNumber s .rim c t ∧
      (en = true → t.rd .rim c 0x118 = v &&& 3) ∧ (en = false → t.rd .rim c 0x128 = v &&& 1) ∧
      (s.get fRimState c = 2 → en = false → getBits v 0 1 = 1 → s.ax ⟨.rimMie, c, 0⟩ / 2 ^ 3 % 2 = 1 →
        t.get fRimState c = 1) ∧
      OnlyParts [.regs, .seq] s t) ∧
  (∀ (s : State) (c : Nat), s.running → c < 32 → s.get fRimState c = 2 →
    (s.get fMtimecmp c ≤ s.rimTime ∧ s.ax ⟨.rimMie, c, 0⟩ / 2 ^ 7 % 2 = 1 ∨
      s.ax ⟨.rimStimecmp, c, 0⟩ ≤ s.rimTime ∧ s.ax ⟨.rimMie, c, 0⟩ / 2 ^ 5 % 2 = 1) →
    Answers (.rimTimerInterrupt c) s fun t => t.get fRimState c = 1 ∧ OnlyParts [.regs] s t ∧
      RegsKeptBut (fun b i o => b = .rim ∧ i = c ∧ o = 0x018) s t)

/-- R71: a running core of saggar 0, whose L2 meets no error, loads the bytes of populated, sound store, and a store writes exactly its bytes: every other byte of
the weight store reads as before; the bytes of a generation header apart, whose ALT a store into a HOME or MIRROR region steps
on (R293). -/
def Obligations.RimCoreLoadsAndStores : Prop :=
  (∀ (s : State) (c addr len : Nat), s.running → c < 32 → s.get fRimState c = 1 → 0 < len → addr < 0x30000000000 →
    s.get (fSaggar .rim) c = 0 → s.firstUnpop addr len = none → s.badBursts addr len = [] →
    Answers (.rimStoreAccess ⟨c, 0⟩ addr len none) s fun t => t.out = .bytes (s.stRds addr len) false :: s.out ∧
      OnlyParts [.regs, .out] s t ∧ RegsKeptBut (fun b i o => b = .slip ∧ i = addr / slotSize ∧ o = 0x378) s t) ∧
  (∀ (s : State) (c addr len : Nat) (d : List Byte), s.running → c < 32 → s.get fRimState c = 1 → d ≠ [] →
    addr < 0x30000000000 → s.get (fSaggar .rim) c = 0 → s.firstUnpop addr d.length = none →
    s.badPart addr d.length = false →
    Answers (.rimStoreAccess ⟨c, 0⟩ addr len (some d)) s fun t =>
      (∀ i (h : i < d.length), t.storeByte (addr + i) = d[i]) ∧
      (∀ a, (a < addr ∨ addr + d.length ≤ a) →
        (∀ r, r < 4 → s.writeThrough addr d.length = true →
          ¬ (s.regionBase (addr / slotSize) r ≤ a ∧ a < s.regionBase (addr / slotSize) r + 64)) →
        t.storeByte a = s.storeByte a) ∧
      OnlyParts [.regs, .store, .bad, .rm] s t ∧ RegsKeptBut (fun b i _ => b = .slip ∧ i = addr / slotSize) s t)

/-! ## Tile programs (chapter 04) -/

/-- R114, R115, R125, R126, R128, R129: each sequencer instruction that stands legal at PC with a true predicate takes its effect: LOOP and
LOOPEND set their counter and the comparators on it, CMPSET its comparator, BRANCH the PC; SWAP waits until the banks swap;
HALT records where it stands and stops dispatch; END and DRAIN wait until what they wait for is
complete; a tile whose flush is done is IDLE, and starts if a START waits for it. -/
def Obligations.SequencerInstructionsTakeEffect : Prop :=
  (∀ (s : State) (t : Nat) (w : W128), let p := s.phys t
    s.seqAt p 0x00 6 = some w → Answers (.seqDispatch t) s fun u =>
      SeqDone [.regs, .hi] s u p (s.get fPc p + 1) w fun _ => False) ∧
  (∀ (s : State) (t : Nat) (w : W128), let p := s.phys t
    let n := sb w 32 3
    s.seqAt p 0x10 6 = some w → Answers (.loop t) s fun u =>
      u.get (fLimit n) p = sb w 48 16 ∧ u.get (fLc n) p = 0 ∧
      (∀ k, k < 4 → s.ax ⟨.cmpLive, p, k⟩ ≠ 0 → s.get (fCmpLc k) p = n → u.on (fCmpResult k) p =
        cmpEval 0 (s.get (fCmpOp k) p) (s.get (fCmpVal k) p) (s.get (fCmpMod k) p)) ∧
      SeqDone [.regs, .hi] s u p (s.get fPc p + 1) w fun o => o = 0x140 + 8 * n ∨ 0x180 ≤ o ∧ o < 0x1A0) ∧
  (∀ (s : State) (t : Nat) (w : W128), let p := s.phys t
    let n := sb w 32 3
    let v := s.get (fLc n) p + 1
    let lim := s.get (fLimit n) p
    let v' := if v < lim then v else lim
    s.seqAt p 0x11 6 = some w → Answers (.loopEnd t) s fun u =>
      u.get (fLc n) p = v' ∧
      (∀ k, k < 4 → s.ax ⟨.cmpLive, p, k⟩ ≠ 0 → s.get (fCmpLc k) p = n → u.on (fCmpResult k) p =
        cmpEval v' (s.get (fCmpOp k) p) (s.get (fCmpVal k) p) (s.get (fCmpMod k) p)) ∧
      SeqDone [.regs, .hi] s u p (if v < lim then sb w 48 11 else s.get fPc p + 1) w
        fun o => o = 0x140 + 8 * n ∨ 0x180 ≤ o ∧ o < 0x1A0) ∧
  (∀ (s : State) (t : Nat) (w : W128), let p := s.phys t
    let k := sb w 32 2
    s.seqAt p 0x12 6 = some w → Answers (.cmpset t) s fun u =>
      u.get (fCmpLc k) p = sb w 36 3 ∧ u.get (fCmpOp k) p = sb w 40 2 ∧ u.get (fCmpVal k) p = sb w 48 16 ∧
      u.get (fCmpMod k) p = sb w 64 16 ∧ u.ax ⟨.cmpLive, p, k⟩ = 1 ∧
      u.on (fCmpResult k) p = cmpEval (s.get (fLc (sb w 36 3)) p) (sb w 40 2) (sb w 48 16) (sb w 64 16) ∧
      SeqDone [.regs, .aux, .hi] s u p (s.get fPc p + 1) w fun o => o = 0x180 + 8 * k) ∧
  (∀ (s : State) (t : Nat) (w : W128), let p := s.phys t
    s.seqAt p 0x13 6 = some w → Answers (.branch t) s fun u =>
      SeqDone [.regs, .hi] s u p (sb w 48 11) w fun _ => False) ∧
  (∀ (s : State) (t : Nat) (w : W128), let p := s.phys t
    s.seqAt p 0x14 6 = some w → Answers (.swap t) s fun u =>
      u.ax ⟨.seqWait, p, 0⟩ = 2 ∧ u.on fSwapWait p = true ∧ OnlyParts [.regs, .aux] s u ∧
      RegsKeptBut (fun b i o => b = .tile ∧ i = p ∧ o = 0x108) s u) ∧
  (∀ (s : State) (t : Nat), let p := s.phys t
    s.tileRuns p = true → s.get fTileState p = 1 → s.ax ⟨.seqWait, p, 0⟩ = 2 → s.on fShadowReady p = true →
    Answers (.bankSwap t) s fun u => u.get fActive p = 1 - s.get fActive p ∧ u.get fBank p = u.get fActive p ∧
      u.on fShadowReady p = false ∧ u.on fSwapWait p = false ∧ u.on (fEvt .tile 2) p = true ∧ u.ax ⟨.seqWait, p, 0⟩ = 0 ∧
      SeqDone [.regs, .aux, .hi] s u p (sb (s.pcWord p) 48 11) (s.pcWord p) fun o => o = 0x108 ∨ o = offEvtStatus) ∧
  (∀ (s : State) (t : Nat) (w : W128), let p := s.phys t
    s.seqAt p 0x15 6 = some w → Answers (.halt t) s fun u => u.get fTileState p = 3 ∧
      u.rd .tile p 0x548 = BitVec.ofNat 64 (sb w 32 16 + s.get fPc p * 2 ^ 16 + s.get fActive p * 2 ^ 27 +
        u.get fDispatched p * 2 ^ 32) ∧
      SeqDone [.regs, .hi] s u p (s.get fPc p) w fun o => o = offState ∨ o = 0x548) ∧
  (∀ (s : State) (t : Nat), let p := s.phys t
    s.get fTileState p = 3 → s.queuesEmpty p = true →
    Answers (.tileHalted t) s fun u => u.get fTileState p = 4 ∧ u.on (fEvt .tile 0) p = true ∧
      OnlyParts [.regs, .hi] s u ∧
      RegsKeptBut (fun b i o => b = .tile ∧ i = p ∧ (o = offState ∨ o = offEvtStatus)) s u) ∧
  (∀ (s : State) (t : Nat) (w : W128), let p := s.phys t
    s.seqAt p 0x16 6 = some w → Answers (.endProg t) s fun u => u.ax ⟨.seqWait, p, 0⟩ = 4 ∧
      SeqDone [.regs, .aux, .hi] s u p (s.get fPc p) w fun _ => False) ∧
  (∀ (s : State) (t : Nat), let p := s.phys t
    s.get fTileState p = 1 → s.ax ⟨.seqWait, p, 0⟩ = 4 → s.queuesEmpty p = true →
    Answers (.tilePark t) s fun u => u.get fTileState p = 2 ∧ u.ax ⟨.seqWait, p, 0⟩ = 0 ∧ u.on (fEvt .tile 1) p = true ∧
      OnlyParts [.regs, .aux, .hi] s u ∧
      RegsKeptBut (fun b i o => b = .tile ∧ i = p ∧ (o = offState ∨ o = offEvtStatus)) s u) ∧
  (∀ (s : State) (t : Nat) (w : W128), let p := s.phys t
    s.seqAt p 0x17 6 = some w → Answers (.drain t) s fun u => u.ax ⟨.seqWait, p, 0⟩ = 3 ∧ OnlyParts [.aux] s u) ∧
  (∀ (s : State) (t : Nat), let p := s.phys t
    s.tileRuns p = true → s.get fTileState p = 1 → s.ax ⟨.seqWait, p, 0⟩ = 3 →
    (∀ e, e < 6 → sb (s.pcWord p) (32 + e) 1 = 1 → s.depth p e = 0) →
    Answers (.drainComplete t) s fun u => u.ax ⟨.seqWait, p, 0⟩ = 0 ∧
      SeqDone [.regs, .aux, .hi] s u p (s.get fPc p + 1) (s.pcWord p) fun _ => False) ∧
  (∀ (s : State) (t : Nat), let p := s.phys t
    s.get fTileState p = 6 → s.ax ⟨.startDue, p, 0⟩ = 0 →
    Answers (.tileFlushDone t) s fun u => u.get fTileState p = 0 ∧
      OnlyParts [.regs, .aux, .hi, .out] s u ∧
      ∀ k, s.kilnOf t = some k → (∀ x ∈ s.kilnTiles k, s.phys x ≠ p → s.get fTileState (s.phys x) ≠ 6) →
        u.runningOf .kiln k 0x14 = []) ∧
  (∀ (s : State) (t : Nat), let p := s.phys t
    s.get fTileState p = 6 → s.ax ⟨.startDue, p, 0⟩ ≠ 0 →
    Answers (.tileFlushDone t) s fun u => u.get fTileState p = 1 ∧ u.get fPc p = s.get fEntry p ∧
      u.ax ⟨.startDue, p, 0⟩ = 0 ∧ ∀ n, n < 48 → u.get (fSem n) p = s.ax ⟨.semInit, p, n⟩ % 2 ^ 16)

/-- R116–R120: WAIT stalls its queue or the sequencer until its semaphore holds its count, which it subtracts; SIGNAL
raises a semaphore of its own tile, or sends a signal on VC0; a signal that passes its checks raises the semaphore it names. -/
def Obligations.SemaphoresWaitAndSignal : Prop :=
  (∀ (s : State) (t : Nat) (w : W128), let p := s.phys t
    s.seqAt p 0x01 6 = some w → Answers (.wait t 6) s fun u => u.ax ⟨.seqWait, p, 0⟩ = 1 ∧ OnlyParts [.aux] s u) ∧
  (∀ (s : State) (t e : Nat) (i : QInstr), let p := s.phys t
    e < 6 → s.tileRuns p = true → s.head p e = some i → iOp i.word = 1 →
    Answers (.wait t e) s fun u => u.head p e = some { i with issued := true } ∧ OnlyParts [.tl] s u) ∧
  (∀ (s : State) (t : Nat) (w : W128), let p := s.phys t
    let m := sb w 32 6
    s.tileRuns p = true → s.waiter p 6 = some w → (∀ e, e < 6 → s.waiter p e = none) →
    sb w 48 16 ≤ s.get (fSem m) p →
    Answers (.waitSatisfied t) s fun u => u.ax ⟨.seqWait, p, 0⟩ = 0 ∧ u.get fPc p = (s.get fPc p + 1) % 2048 ∧
      u.get fDispatched p = min (s.get fDispatched p + 1) (2 ^ 32 - 1) ∧
      u.get (fSem m) p = min (s.get (fSem m) p - sb w 48 16 + if iSig w < 48 ∧ iSig w = m then 1 else 0) 0xFFFF ∧
      OnlyParts [.regs, .aux, .hi] s u ∧ RegsKeptBut (fun b i o => b = .tile ∧ i = p ∧
        (o = 0x100 ∨ o = 0x200 + 8 * m ∨ s.sigRegs p w o ∨ (iSig w = m ∧ (o = offErr ∨ o = offEvtStatus)))) s u) ∧
  (∀ (s : State) (t e : Nat) (w : W128), let p := s.phys t
    let m := sb w 32 6
    s.tileRuns p = true → e < 6 → s.waiter p e = some w → (∀ x, x < 7 → x ≠ e → s.waiter p x = none) →
    (∀ i ∈ dropHead p e s.tl.q, i.p = p → i.e = e → i.issued = false) → sb w 48 16 ≤ s.get (fSem m) p →
    Answers (.waitSatisfied t) s fun u => u.tl.q = dropHead p e s.tl.q ∧
      u.get (fSem m) p = min (s.get (fSem m) p - sb w 48 16 + if iSig w < 48 ∧ iSig w = m then 1 else 0) 0xFFFF ∧
      OnlyParts [.regs, .tl, .hi] s u ∧ RegsKeptBut (fun b i o => b = .tile ∧ i = p ∧
        (o = 0x200 + 8 * m ∨ s.sigRegs p w o ∨ (iSig w = m ∧ (o = offErr ∨ o = offEvtStatus)))) s u) ∧
  (∀ (s : State) (t : Nat) (w : W128), let p := s.phys t
    let m := sb w 34 6
    s.seqAt p 0x02 6 = some w → sb w 32 2 = 0 →
    Answers (.signal t 6) s fun u => u.get fPc p = (s.get fPc p + 1) % 2048 ∧
      u.get fDispatched p = min (s.get fDispatched p + 1) (2 ^ 32 - 1) ∧
      u.get (fSem m) p = min (s.get (fSem m) p + sb w 40 8 + if iSig w < 48 ∧ iSig w = m then 1 else 0) 0xFFFF ∧
      OnlyParts [.regs, .hi] s u ∧ RegsKeptBut (fun b i o => b = .tile ∧ i = p ∧
        (o = 0x100 ∨ o = 0x200 + 8 * m ∨ s.sigRegs p w o ∨ o = offErr ∨ o = offEvtStatus)) s u) ∧
  (∀ (s : State) (t : Nat) (w : W128), let p := s.phys t
    s.seqAt p 0x02 6 = some w → sb w 32 2 ≠ 0 →
    Answers (.signal t 6) s fun u => (∃ f, u.net.flits = s.net.flits ++ [f] ∧ f.ctrl = true ∧ f.h.typ = 3 ∧ f.at_ = p ∧
        f.h.arg % 64 = sb w 34 6 ∧ f.h.arg / 64 % 256 = sb w 40 8 ∧ f.h.exitEn = decide (sb w 32 2 ≠ 1) ∧
        (sb w 32 2 = 1 → f.h.dx = (sb w 56 8 * 192 + sb w 48 8) % 192 ∧ f.h.dy = (sb w 56 8 * 192 + sb w 48 8) / 192)) ∧
      SeqDone [.regs, .hi, .net] s u p (s.get fPc p + 1) w fun _ => False) ∧
  (∀ (s : State) (t e : Nat) (i : QInstr), let p := s.phys t
    e < 6 → s.tileRuns p = true → s.head p e = some i → iOp i.word = 2 →
    Answers (.signal t e) s fun u => u.tl.q = dropHead p e s.tl.q ∧
      (sb i.word 32 2 = 0 → u.get (fSem (sb i.word 34 6)) p = min (s.get (fSem (sb i.word 34 6)) p + sb i.word 40 8 +
        if iSig i.word < 48 ∧ iSig i.word = sb i.word 34 6 then 1 else 0) 0xFFFF ∧ u.net = s.net) ∧
      (sb i.word 32 2 ≠ 0 → SigRaised s u p i.word ∧ ∃ f, u.net.flits = s.net.flits ++ [f]) ∧
      OnlyParts [.regs, .tl, .hi, .net] s u) ∧
  (∀ (s : State) (i t : Nat) (f : Flit), s.net.flits[i]? = some f → s.geo.carries f.at_ = some t → f.br = 5 → f.h.typ = 3 →
    s.deliverFail f.at_ f true = 0 →
    Answers (.tileSignalArrive i) s fun u => u.net = { s.net with flits := s.net.flits.eraseIdx i } ∧
      u.get (fSem (f.h.arg % 64)) f.at_ = min (s.get (fSem (f.h.arg % 64)) f.at_ + f.h.arg / 64 % 256) 0xFFFF ∧
      OnlyParts [.regs, .net, .hi] s u ∧ RegsKeptBut (fun b j o => b = .tile ∧ j = f.at_ ∧
        (o = 0x200 + 8 * (f.h.arg % 64) ∨ (o = offErr ∨ o = offEvtStatus) ∧
          0xFFFF < s.get (fSem (f.h.arg % 64)) f.at_ + f.h.arg / 64 % 256)) s u)

/-- R102, R103, R105, R112, R130, R131: dispatch discards an instruction whose predicate is false, puts an engine's
instruction into its queue, and holds at a full queue; an illegal one faults the tile and its kiln; the head of a
queue issues with its operands popped, and once its work is done it completes and raises SIG; an error at the head faults the tile. -/
def Obligations.InstructionsDispatchIssueAndComplete : Prop :=
  (∀ (s : State) (t : Nat), let p := s.phys t
    let w := s.pcWord p
    s.seqReady p = true → headReasons s.grade w = [] → s.predTrue p w = false →
    Answers (.seqDispatch t) s fun u => u.get fPc p = (s.get fPc p + 1) % 2048 ∧ u.get fDispatched p = s.get fDispatched p ∧
      OnlyParts [.regs] s u ∧ RegsKeptBut (fun b i o => b = .tile ∧ i = p ∧ o = 0x100) s u) ∧
  (∀ (s : State) (t e op : Nat) (w : W128), let p := s.phys t
    s.seqAt p op e = some w → e < 6 → op ≠ 0x41 →
    (s.depth p e < 16 → Answers (.seqDispatch t) s fun u =>
      (∃ i : QInstr, u.tl = { s.tl with q := s.tl.q ++ [i] } ∧ i.p = p ∧ i.e = e ∧ i.word = w ∧ i.pc = s.get fPc p ∧
        i.issued = false ∧ i.worked = false ∧
        (0x20 ≤ op → op < 0x42 → i.a = s.resolve p (s.get fActive p) (iA w) ∧ i.b = s.resolve p (s.get fActive p) (iB w) ∧
          i.c = s.resolve p (s.get fActive p) (iC w)) ∧
        (op = 0x40 → i.vl = s.get fVl p ∧ i.chain = s.slot p (s.get fActive p) (vSlot w))) ∧
      u.get fPc p = (s.get fPc p + 1) % 2048 ∧ u.get fDispatched p = min (s.get fDispatched p + 1) (2 ^ 32 - 1) ∧
      OnlyParts [.regs, .tl] s u ∧ RegsKeptBut (fun b i o => b = .tile ∧ i = p ∧ o = 0x100) s u) ∧
    (16 ≤ s.depth p e → Answers (.seqDispatch t) s fun u => u = s)) ∧
  (∀ (s : State) (t r : Nat), let p := s.phys t
    let w := s.pcWord p
    let f := faultWord (s.get fPc p) (s.get fActive p) (iEng w) (iOp w) r
    s.seqReady p = true →
    (leastReason (headReasons s.grade w) = some r ∨ (headReasons s.grade w = [] ∧ s.predTrue p w = true ∧
      leastReason (s.bodyReasons p (s.get fActive p) w) = some r)) →
    Answers (.seqDispatch t) s fun u => u.rd .tile p 0x540 = BitVec.ofNat 64 f ∧ u.get fTileState p ≠ 1 ∧
      (s.get (fErrCode .tile) p = 0 → u.get (fErrCode .tile) p = eARG ∧ u.get (fErrInfo .tile) p = f % 2 ^ 32) ∧
      ((∀ x, s.geo.carries p = some x → s.kilnOf x = none) → u.get fTileState p = 5 ∧ OnlyParts [.regs, .hi] s u ∧
        RegsKeptBut (fun b i o => b = .tile ∧ i = p ∧
          (o = offState ∨ o = offErr ∨ o = offEvtStatus ∨ o = 0x540)) s u) ∧
      (∀ x k, s.geo.carries p = some x → s.kilnOf x = some k → s.on fKilnBusy k = false →
        (s.get fKilnState k = 3 ∨ s.get fKilnState k = 4) →
        u.get fKilnState k = 6 ∧ u.get fKFaultCode k = eARG ∧ u.get fKFaultSrc k = 0)) ∧
  (∀ (s : State) (t e : Nat) (i : QInstr), let p := s.phys t
    e < 6 → s.tileRuns p = true → s.head p e = some i → i.issued = false → iOp i.word ≠ 1 → iOp i.word ≠ 2 →
    i.a.qid = none → i.b.qid = none → s.pushRoom i = true →
    Answers (.engineInstrIssue t e) s fun u =>
      (∃ j, u.head p e = some j ∧ j.issued = true ∧ j.word = i.word ∧ (j.worked = true ↔ iOp i.word = 0)) ∧
      (e < 4 → 0x20 ≤ iOp i.word → u.rd .core (4 * p + e) 0x128 = instrWord i) ∧ OnlyParts [.regs, .aux, .tl] s u ∧
      RegsKeptBut (fun b j o => (b = .core ∧ j = 4 * p + e ∧ e < 4 ∧ (o = 0x128 ∨ o = 0x140)) ∨
        (b = .vec ∧ j = p ∧ e = 4 ∧ o = 0x130)) s u) ∧
  (∀ (s : State) (t e q n : Nat) (i : QInstr), let p := s.phys t
    e < 6 → s.tileRuns p = true → s.head p e = some i → i.issued = false → iOp i.word ≠ 1 → iOp i.word ≠ 2 →
    i.sparse = false → i.tk = 0 → i.a = .q q n → i.b.qid = none → i.c.qid = none → iTee i.word = false →
    n ≤ s.ringCount p q → s.popBad p q n = false →
    Answers (.engineInstrIssue t e) s fun u => u.ringCount p q = s.ringCount p q - n ∧
      ∃ j, u.head p e = some j ∧ j.issued = true ∧ j.word = i.word ∧ j.popA = s.ringPeek p q n) ∧
  (∀ (s : State) (t e : Nat) (i : QInstr), let p := s.phys t
    s.tileRuns p = true → s.head p e = some i → i.worked = true → (∀ x ∈ s.tl.pushes, ¬ (x.p = p ∧ x.e = e)) →
    Answers (.engineInstrComplete t e) s fun u => u.tl.q = dropHead p e s.tl.q ∧ u.tl.pushes = s.tl.pushes ∧
      u.tl.jobs = s.tl.jobs ∧ SigRaised s u p i.word ∧ (e < 4 → 0x20 ≤ iOp i.word → u.on fLastDone (4 * p + e) = true) ∧
      OnlyParts [.regs, .aux, .tl, .net, .hi] s u ∧
      RegsKeptBut (fun b j o => (b = .tile ∧ j = p ∧ s.sigRegs p i.word o) ∨
        (b = .core ∧ j = 4 * p + e ∧ e < 4 ∧ (o = 0x128 ∨ o = 0x140)) ∨ (b = .vec ∧ j = p ∧ e = 4 ∧ o = 0x130)) s u) ∧
  (∀ (s : State) (t e code : Nat) (i : QInstr) (info : Option Nat), let p := s.phys t
    s.tileRuns p = true → s.head p e = some i → s.execErr p e = some (code, info) → s.get (fErrCode .tile) p = 0 →
    (s.get fTileState p = 1 ∨ s.get fTileState p = 3) →
    Answers (.engineExecError t e code) s fun u => u.head p e = none ∧ u.get (fErrCode .tile) p = code % 256 ∧
      u.rd .tile p 0x540 = BitVec.ofNat 64 (faultWord i.pc i.bank e (iOp i.word) 10) ∧ u.get fTileState p ≠ s.get fTileState p)
/-! ## Matrix cores, sparse work, vector engine (chapters 05–07) -/

/-- R145–R147, R156, R162, R172, R173: a core's instruction that meets no error leaves in each accumulator of its output the
sum its elements say, stores each element converted at its place of a descriptor OPD_C, and changes no other byte of any
scratchpad (but in a word with three or more flipped bits) and no accumulator of another core; then it waits for its
completion.  ACCWB stores without changing an accumulator.  Each clause says that the command completes: exec of mma, accwb,
smma24, smmau and smmab at a queue's head that meets no error is a next state, the one described. -/
def Obligations.CoresAccumulateAndWriteBack : Prop :=
  (∀ (s : State) (t c : Nat) (i : QInstr), let p := s.phys t
    let core := 4 * p + c
    let w := i.word
    let e := fmtBytes (mCvt w % 16)
    let dest := fun a => mWb w = true ∧ s.destBytes p i.c (mM w) (mN w * e) a
    s.coreHead p c 0x20 = some i → s.mmaStop i core (s.mmaElems i core) = none → (∀ a, dest a → a < 2 ^ 21) →
    Answers (.mma t c) s fun u => HeadWorked u p c i ∧
      (∀ x ∈ s.mmaElems i core, u.accRd core x.a (x.m % 16) (x.n % 16) = (pairInt (mFa w), x.acc)) ∧
      (∀ k a m n, k ≠ core → a < 16 → m < 16 → n < 16 → u.accRd k a m n = s.accRd k a m n) ∧
      (∀ base f n0 n1 n2 st1 st2, i.c = .desc base f n0 n1 n2 st1 st2 → mWb w = true → (mN w * e ≤ st1 ∨ mM w = 1) →
        ∀ x ∈ s.mmaElems i core, ∀ j, j < e →
          (leBytes e x.out)[j]? = some (u.spByte p (base + x.n * e + x.m * st1 + j))) ∧
      (i.tb % 2 = 1 → u.get (fTbHalf 0) core = 3) ∧ (i.tb / 2 % 2 = 1 → u.get (fTbHalf 1) core = 3) ∧
      SpKeptOrSpoilt p dest s u ∧ OnlyParts [.regs, .aux, .hi, .tl, .sp, .ecc, .acc] s u ∧
      RegsKeptBut (engineRegs .core core p i.c) s u) ∧
  (∀ (s : State) (t c : Nat) (i : QInstr), let p := s.phys t
    let core := 4 * p + c
    let w := i.word
    let e := fmtBytes (mCvt w % 16)
    let dest := s.destBytes p i.c (mM w) (mN w * e)
    s.coreHead p c 0x21 = some i → s.accwbStop i core (s.accwbElems i core) = none → (∀ a, dest a → a < 2 ^ 21) →
    Answers (.accwb t c) s fun u => HeadWorked u p c i ∧
      (∀ base f n0 n1 n2 st1 st2, i.c = .desc base f n0 n1 n2 st1 st2 → (mN w * e ≤ st1 ∨ mM w = 1) →
        ∀ x ∈ s.accwbElems i core, ∀ j, j < e →
          (leBytes e x.out)[j]? = some (u.spByte p (base + x.n * e + x.m * st1 + j))) ∧
      SpKeptOrSpoilt p dest s u ∧ OnlyParts [.regs, .aux, .hi, .tl, .sp, .ecc] s u ∧
      RegsKeptBut (engineRegs .core core p i.c) s u) ∧
  (∀ (s : State) (t c : Nat) (i : QInstr), s.coreHead (s.phys t) c 0x28 = some i →
    s.smmaStop i (4 * s.phys t + c) (s.smmaElems i (4 * s.phys t + c)) = none →
    (∀ a, s.sparseDest i (4 * s.phys t + c) a → a < 2 ^ 21) →
    Answers (.smma24 t c) s fun u => SparseDone s u (s.phys t) c i) ∧
  (∀ (s : State) (t c : Nat) (i : QInstr), s.coreHead (s.phys t) c 0x29 = some i →
    s.smmaStop i (4 * s.phys t + c) (s.smmaElems i (4 * s.phys t + c)) = none →
    (∀ a, s.sparseDest i (4 * s.phys t + c) a → a < 2 ^ 21) →
    Answers (.smmau t c) s fun u => SparseDone s u (s.phys t) c i) ∧
  (∀ (s : State) (t c : Nat) (i : QInstr), s.coreHead (s.phys t) c 0x2A = some i →
    s.smmaStop i (4 * s.phys t + c) (s.smmaElems i (4 * s.phys t + c)) = none →
    (∀ a, s.sparseDest i (4 * s.phys t + c) a → a < 2 ^ 21) →
    Answers (.smmab t c) s fun u => SparseDone s u (s.phys t) c i)

/-- R187–R189, R200–R203: a VOP that meets no bad word leaves what its rows give: each of its stores and row results that no
later one covers in the scratchpad, no other byte changed (but in a word with three or more flipped bits), the generators where
its draws left them, its draws counted; VSETVL sets VL at dispatch; VSEED seeds every lane with the seed, the step, the tile
and its stream.  Each clause says that the command completes: exec of vop and vseed at the head of V's queue, and of vsetvl at
its dispatch, is a next state, the one described. -/
def Obligations.VectorInstructionsTakeEffect : Prop :=
  (∀ (s : State) (t : Nat) (i : QInstr), let p := s.phys t
    let v := s.vopRun i
    let dest := fun a => (∃ x ∈ v.stores ++ v.results, x.1 ≤ a ∧ a < x.1 + x.2.length) ∨
      (∃ q n, i.c = .q q n ∧ s.destBytes p i.c 0 0 a)
    s.vecHead p 0x40 = some i → v.bad = false → (∀ a, dest a → a < 2 ^ 21) →
    Answers (.vop t) s fun u => HeadWorked u p 4 i ∧ u.get fRngDraws p = min (s.get fRngDraws p + v.draws) (2 ^ 48 - 1) ∧
      (s.on fRngMode p = false → ∀ l x, v.lanes[l]? = some x → u.rngRd p l = BitVec.ofNat 96 x) ∧
      (∀ q l, q ≠ p → l < 128 → u.rngRd q l = s.rngRd q l) ∧
      (∀ l₁ x l₂, v.stores ++ v.results = l₁ ++ x :: l₂ → ∀ j b, x.2[j]? = some b →
        (∀ y ∈ l₂, ¬ (y.1 ≤ x.1 + j ∧ x.1 + j < y.1 + y.2.length)) → u.spByte p (x.1 + j) = b) ∧
      SpKeptOrSpoilt p dest s u ∧
      OnlyParts [.regs, .aux, .hi, .tl, .sp, .ecc, .row, .rng, .free] s u ∧
      RegsKeptBut (engineRegs .vec p p i.c) s u) ∧
  (∀ (s : State) (t : Nat) (w : W128), let p := s.phys t
    s.seqAt p 0x41 4 = some w → Answers (.vsetvl t) s fun u =>
      (sb w 109 1 = 0 → u.get fVl p = sb w 80 13) ∧
      (sb w 109 1 = 1 → u.get fVl p = min (sb w 93 13) (sb w 80 13 - s.get (fLc (sb w 106 3)) p * sb w 93 13)) ∧
      u.get fDispatched p = min (s.get fDispatched p + 1) (2 ^ 32 - 1) ∧ u.get fPc p = (s.get fPc p + 1) % 2048 ∧
      SigRaised s u p w ∧ OnlyParts [.regs, .hi] s u ∧
      RegsKeptBut (fun b j o => j = p ∧ (b = .vec ∧ o = 0x138 ∨ b = .tile ∧ (o = 0x100 ∨ s.sigRegs p w o))) s u) ∧
  (∀ (s : State) (t : Nat) (i : QInstr), let p := s.phys t
    s.vecHead p 0x42 = some i → Answers (.vseed t) s fun u => HeadWorked u p 4 i ∧
      (∀ l, l < 128 → u.rngRd p l = BitVec.ofNat 96
        (rngSeeded (s.get fRngSeed p) ((s.kilnOf t).elim 0 fun k => s.get fKilnStep k) t (sb i.word 80 8) l)) ∧
      (∀ q l, q ≠ p → l < 128 → u.rngRd q l = s.rngRd q l) ∧
      u.get fRngStream p = sb i.word 80 8 ∧ OnlyParts [.regs, .aux, .rng, .tl] s u ∧
      RegsKeptBut (fun b j o => b = .vec ∧ j = p ∧ (o = 0x130 ∨ o = 0x140)) s u)

/-! ## Writes of the tile's pages, scratchpad, tile DMA (chapters 04, 08) -/

/-- R113, R123, R124, R238, R239, Table 08-5: the writes of the TILE and TDMA pages that act: QCFG in IDLE, a slot of the
instruction memory (refused with IMEM_ACTIVE in the active bank of a tile that is not IDLE), SHADOW_READY, SP_INJECT, the
doorbell, the configuration and the STOP bits of the DMA rings; a read of IMEM_DATA_HI advances SLOT with AUTO_INC.  Each
clause says that the command completes: exec of qcfgWrite, imemDataHiWrite, imemDataHiRead, shadowReadySet, spInject,
hDoorbell, hCfgEnable, tdmaRingStop and tdmaRingResume, let through by the arbiter, is a next state, the one described. -/
def Obligations.TilePageWritesAct : Prop :=
  (∀ (s : State) (src : Src) (t q : Nat) (v : W64), let p := s.phys t
    s.lets src .tile t true → q < 14 → s.get fTileState p = 0 → getBits v 0 21 % 64 = 0 → getBits v 24 4 ≠ 15 →
    (getBits v 32 1 = 1 → getBits v 0 21 + 64 * 2 ^ getBits v 24 4 ≤ spSize ∧
      s.ringMeets p q (getBits v 0 21) (getBits v 24 4) = false) →
    Answers (.qcfgWrite src t q v) s fun u => TookNumber s .tile p u ∧
      u.rd .tile p (0x440 + 8 * q) = v &&& 0x10F1FFFFF ∧ OnlyParts [.regs, .seq] s u ∧
      RegsKeptBut (fun b i o => b = .tile ∧ i = p ∧ (o = 0x440 + 8 * q ∨ o = offSeq)) s u) ∧
  (∀ (s : State) (src : Src) (t : Nat) (v : W64), let p := s.phys t
    let bank := s.get fImBank p
    let n := s.get fImSlot p
    s.lets src .tile t true →
    ((s.get fTileState p = 0 ∨ bank ≠ s.get fActive p) → Answers (.imemDataHiWrite src t v) s fun u =>
      TookNumber s .tile p u ∧ u.slot p bank n = v ++ s.rd .tile p 0x118 ∧
      (∀ b k, b < 2 → k < 2048 → ¬ (b = bank ∧ k = n) → u.slot p b k = s.slot p b k) ∧
      (bank ≠ s.get fActive p → u.on fShadowReady p = false) ∧
      u.get fImSlot p = (if s.on fImAuto p then (n + 1) % 2048 else n) ∧ OnlyParts [.regs, .seq, .imem] s u ∧
      RegsKeptBut (fun b i o => b = .tile ∧ i = p ∧ (o = 0x108 ∨ o = 0x110 ∨ o = offSeq)) s u) ∧
    (s.get fTileState p ≠ 0 → bank = s.get fActive p → Answers (.imemDataHiWrite src t v) s fun u => u.imem = s.imem ∧
      (s.get (fErrCode .tile) p = 0 → u.get (fErrCode .tile) p = eIMEM_ACTIVE ∧
        u.get (fErrInfo .tile) p = bank * 0x800 + n) ∧ OnlyParts [.regs, .hi] s u)) ∧
  (∀ (s : State) (t : Nat), let p := s.phys t
    s.present .tile t = true → Answers (.imemDataHiRead t) s fun u =>
      u.out = .readData ((s.slot p (s.get fImBank p) (s.get fImSlot p) >>> 64).setWidth 64) :: s.out ∧
      u.get fImSlot p = (if s.on fImAuto p then (s.get fImSlot p + 1) % 2048 else s.get fImSlot p) ∧
      OnlyParts [.regs, .out] s u ∧ RegsKeptBut (fun b i o => b = .tile ∧ i = p ∧ o = 0x110) s u) ∧
  (∀ (s : State) (src : Src) (t : Nat) (v : W64) (root : Bool), let p := s.phys t
    s.lets src .tile t root → Answers (.shadowReadySet src t v) s fun u => TookNumber s .tile p u ∧
      (u.on fShadowReady p = (s.on fShadowReady p || decide (getBits v 1 1 = 1))) ∧ OnlyParts [.regs, .seq] s u ∧
      RegsKeptBut (fun b i o => b = .tile ∧ i = p ∧ (o = 0x108 ∨ o = offSeq)) s u) ∧
  (∀ (s : State) (src : Src) (t : Nat) (v : W64), let p := s.phys t
    let a := getBits v 0 21
    s.lets src .tile t true → a % 8 = 0 → a < spSize → getBits v 32 7 ≤ 71 → getBits v 40 7 ≤ 71 → getBits v 48 1 = 1 →
    Answers (.spInject src t v) s fun u => TookNumber s .tile p u ∧
      u.eccMask p a = s.eccMask p a ^^^ (2 ^ getBits v 32 7 ^^^ if getBits v 47 1 = 1 then 2 ^ getBits v 40 7 else 0) ∧
      OnlyParts [.regs, .seq, .ecc] s u ∧ RegsKeptBut (fun b i o => b = .tile ∧ i = p ∧ o = offSeq) s u) ∧
  (∀ (s : State) (src : Src) (t : Nat) (v : W64) (root : Bool), let p := s.phys t
    s.lets src .tdma t root → s.on fHEn p = true → getBits v 0 12 < 2 ^ s.get fHLog p →
    Answers (.hDoorbell src t v) s fun u => TookNumber s .tdma p u ∧ u.ax ⟨.hTail, p, 0⟩ = getBits v 0 12 + 1 ∧
      (s.get fHHead p ≠ getBits v 0 12 → (s.get (fRState 1) p = 0 → u.get (fRState 1) p = 1) ∧
        u.out = .hostRead 0 (s.get fRootLink 0) (s.get fHBase p + 32 * s.get fHHead p) 32 :: s.out) ∧
      OnlyParts [.regs, .seq, .aux, .out] s u ∧
      RegsKeptBut (fun b i o => b = .tdma ∧ i = p ∧ (o = offState ∨ o = offSeq)) s u) ∧
  (∀ (s : State) (src : Src) (t : Nat) (v : W64) (root : Bool), let p := s.phys t
    s.lets src .tdma t root → 4 ≤ getBits v 0 4 → getBits v 0 4 ≤ 12 →
    (s.on fHEn p = true → getBits v 0 4 = s.get fHLog p) →
    Answers (.hCfgEnable src t v) s fun u => TookNumber s .tdma p u ∧ u.rd .tdma p 0x118 = v &&& 0x10F ∧
      (s.on fHEn p = false → getBits v 8 1 = 1 → u.get fHHead p = 0) ∧
      (s.on fHEn p = true → getBits v 8 1 = 0 → u.ax ⟨.hTail, p, 0⟩ = 0 ∧
        ((∀ j ∈ s.tl.jobs, ¬ (j.p = p ∧ j.ring = 1)) → u.get (fRState 1) p = 0)) ∧
      OnlyParts [.regs, .seq, .aux] s u ∧
      RegsKeptBut (fun b i o => b = .tdma ∧ i = p ∧ (o = 0x118 ∨ o = 0x120 ∨ o = offState ∨ o = offSeq)) s u) ∧
  (∀ (s : State) (src : Src) (t : Nat) (v : W64) (root : Bool), s.lets src .tdma t root →
    Answers (.tdmaRingStop src t v) s fun u => TookNumber s .tdma (s.phys t) u ∧ RingsSwitched s u (s.phys t) v) ∧
  (∀ (s : State) (src : Src) (t : Nat) (v : W64) (root : Bool), s.lets src .tdma t root →
    Answers (.tdmaRingResume src t v) s fun u => TookNumber s .tdma (s.phys t) u ∧ RingsSwitched s u (s.phys t) v)

/-- R219, R220, R226–R235, R299: a DMA instruction hands its descriptors to D; D copies a plain descriptor between scratchpad bytes and
moves no byte for one that fails its check; at completion it writes back words 3 and 0, shows LAST, raises SIG or records the
error; a scrubbed line has its single-bit errors corrected.  Each clause says that the command completes: exec of dma,
dmaDescriptorStart, dmaDescriptorComplete, dmaRemoteResponse, tdmaHostFail, requestUrgent, scrubForced and sramScrubLine is
a next state, the one described. -/
def Obligations.DescriptorsMoveBytes : Prop :=
  (∀ (s : State) (t : Nat) (i : QInstr), let p := s.phys t
    s.dHead p = some i → s.ax ⟨.dmaLeft, p, 0⟩ = 0 → (∀ j ∈ s.tl.jobs, ¬ (j.p = p ∧ j.ring = 0)) →
    s.get (fRState 0) p = 0 → s.ax ⟨.dmaErr, p, 0⟩ = 0 →
    Answers (.dma t) s fun u => u.ax ⟨.dmaLeft, p, 0⟩ = sb i.word 80 12 + 1 ∧ u.get (fRState 0) p = 1 ∧
      OnlyParts [.regs, .aux] s u ∧ RegsKeptBut (fun b i o => b = .tdma ∧ i = p ∧ o = offState) s u) ∧
  (∀ (s : State) (t : Nat) (bytes host : List Byte) (stop : Option Nat), let p := s.phys t
    let l := s.spRds p (s.get fR0Base p + 32 * s.get fR0Head p) 32
    let j : DmaJob := {
      p := p, ring := 0, idx := s.get fR0Head p, hostStop := stop
      w0 := descWord l 0, w1 := descWord l 1, w2 := descWord l 2, w3 := descWord l 3 }
    s.dmaTurn p 0 = true → s.ecc = [] → getBits j.w0 0 1 = 1 →
    (j.argBad (s.coneHeld p) = false → j.srcKind = 0 → j.dstKind = 0 → wMode j.word = 0 → j.crcOn = false →
      Answers (.dmaDescriptorStart t 0 bytes host stop) s fun u =>
        (∀ i, i < j.len → u.spByte p (j.dst + i) = s.spByte p (j.src + i)) ∧
        SpKeptBut p (fun a => j.dst ≤ a ∧ a < j.dst + j.len) s u ∧
        (∃ x, u.job p = some x ∧ x.phase = 3 ∧ x.status = 0 ∧ x.stored = j.len) ∧
        u.get fR0Head p = (s.get fR0Head p + 1) % 2 ^ s.get fR0Log p % 4096 ∧
        u.ax ⟨.dmaLeft, p, 0⟩ = s.ax ⟨.dmaLeft, p, 0⟩ - 1 ∧ OnlyParts [.regs, .aux, .tl, .sp] s u ∧
        RegsKeptBut (fun b i o => b = .tdma ∧ i = p ∧ (o = 0x108 ∨ o = 0x140 ∨ o = 0x148 ∨ o = 0x150)) s u) ∧
    (j.argBad (s.coneHeld p) = true → Answers (.dmaDescriptorStart t 0 bytes host stop) s fun u =>
        (∃ x, u.job p = some x ∧ x.phase = 4 ∧ x.status = eARG ∧ x.stored = 0) ∧
        u.get fR0Head p = (s.get fR0Head p + 1) % 2 ^ s.get fR0Log p % 4096 ∧ OnlyParts [.regs, .aux, .tl] s u ∧
        RegsKeptBut (fun b i o => b = .tdma ∧ i = p ∧ o = 0x108) s u)) ∧
  (∀ (s : State) (t : Nat) (j : DmaJob), let p := s.phys t
    let a := s.get fR0Base p + 32 * j.idx
    let own := if j.keep = true ∧ j.phase = 3 then 1 else 0
    s.job p = some j → j.ring = 0 → 3 ≤ j.phase → s.ecc = [] → a + 32 ≤ 2 ^ 21 →
    Answers (.dmaDescriptorComplete t 0) s fun u => u.job p = none ∧
      (∀ k, k < 8 → (leBytes 8 (setBits (setBits j.w0 56 8 j.status) 0 1 own).toNat)[k]? = some (u.spByte p (a + k)) ∧
        (leBytes 8 (setBits j.w3 32 32 j.stored).toNat)[k]? = some (u.spByte p (a + 24 + k))) ∧
      SpKeptBut p (fun x => (a ≤ x ∧ x < a + 8) ∨ (a + 24 ≤ x ∧ x < a + 32)) s u ∧
      u.rd .tdma p 0x130 = BitVec.ofNat 64 (j.idx % 4096 + j.status % 256 * 2 ^ 24 + j.stored % 2 ^ 32 * 2 ^ 32) ∧
      (j.status = 0 → j.sig < 48 → u.get (fSem j.sig) p = min (s.get (fSem j.sig) p + 1) 0xFFFF) ∧
      (j.status ≠ 0 → s.get (fErrCode .tdma) p = 0 → u.get (fErrCode .tdma) p = j.status % 256 ∧
        u.get (fErrInfo .tdma) p = j.idx % 2 ^ 32) ∧
      OnlyParts [.regs, .aux, .tl, .sp, .hi] s u) ∧
  (∀ (s : State) (i : Nat) (f : Flit) (j : DmaJob) (q : DReq),
    s.net.flits[i]? = some f → f.br = 5 → s.behind i f = false → f.h.typ = 6 → f.ctrl = true → s.job f.at_ = some j →
    j.reqs = [] → j.outst = [q] → j.phase = 2 → j.failAt = none → q.rid = f.h.arg / 4 % 32 → q.write = true →
    f.h.arg / 256 % 256 = 0 →
    Answers (.dmaRemoteResponse i) s fun u => u.net = { s.net with flits := s.net.flits.eraseIdx i } ∧
      (∃ x, u.job f.at_ = some x ∧ x.phase = 3 ∧ x.status = j.status ∧
        x.stored = max j.stored (min j.body (q.pos + q.data.length))) ∧ OnlyParts [.net, .tl, .regs] s u ∧
      RegsKeptBut (fun b p o => b = .tdma ∧ p = f.at_ ∧ (o = 0x140 ∨ o = 0x148 ∨ o = 0x150 ∨ o = 0x158 ∨ o = 0x160)) s u) ∧
  (∀ (s : State) (t idx : Nat), let p := s.phys t
    s.on fHEn p = true → Answers (.tdmaHostFail t idx) s fun u => u.on fHEn p = false ∧ u.ax ⟨.hTail, p, 0⟩ = 0 ∧
      (s.get (fErrCode .tdma) p = 0 → u.get (fErrCode .tdma) p = eTIMEOUT ∧
        u.get (fErrInfo .tdma) p = (0x10000 + idx) % 2 ^ 32) ∧ OnlyParts [.regs, .aux, .hi] s u) ∧
  (∀ (s : State) (t r sl : Nat), let p := s.phys t
    r < 7 → sl < 12 → Answers (.requestUrgent t r sl) s fun u => u.ax ⟨.urgent, p * 8 + r, sl⟩ = 1 ∧
      OnlyParts [.regs, .aux] s u ∧ RegsKeptBut (fun b i o => b = .tile ∧ i = p ∧ o = 0x620 ∧ s.on fStallEn p = true) s u) ∧
  (∀ (s : State) (t sl line : Nat), s.Canon → sl < 12 → line < 2048 → s.ax ⟨.tilePwr, s.phys t, 0⟩ = 2 →
    Answers (.scrubForced t sl line) s fun u => LineScrubbed s u (s.phys t) sl line) ∧
  (∀ (s : State) (t sl line : Nat), s.Canon → sl < 12 → line < 2048 → s.ax ⟨.tilePwr, s.phys t, 0⟩ = 2 →
    (∀ r, r < 7 → s.ax ⟨.urgent, s.phys t * 8 + r, sl⟩ = 0) →
    Answers (.sramScrubLine t sl line) s fun u => LineScrubbed s u (s.phys t) sl line)

/-! ## Wafer network (chapter 09) -/

/-- R244, R249, R252, R255–R257, R259, R260, R266: an accepted line of a route entry leaves its ring and uses a credit; a router whose
output serves a flit, with room ahead, sends it on by one hop or stands it for delivery; a delivered line that passes its checks enters its ring, one that fails is
counted and dropped; a combine step adds one packet from every input and counts itself, packets that differ in LINES break the
set; a CREDIT raises its feeder's credits, a NOTICE is recorded.  Each clause says that the command completes: exec of
lineAccept, routerForward, packetDeliver, combStep, creditReceived and noticeReceived is a next state, the one described. -/
def Obligations.LinesTravelAndCombine : Prop :=
  (∀ (s : State) (t r : Nat) (x : Push), let p := s.phys t
    let q := if r = 4 then 13 else 8 + r
    let n := min 16 x.lines
    let h := s.routeHdr t p r n
    r < 5 → s.pushOf p q = some x → s.ax ⟨.outLeft, p, r⟩ = 0 → s.on (fRaValid r) p = true → s.get (fRouteCredit r) p ≠ 0 →
    s.allowed p r (s.slowEntry t r) (s.get (fRaCone r) p) (s.get (fRbRate r) p) = true →
    s.roomIn p .l false false false (s.get (fRaCone r) p) = true → (h.exitEn = true → exitOk h.dx h.dy h.exit = true) →
    s.popBad p q 1 = false →
    Answers (.lineAccept (.route t r)) s fun u =>
      (∃ f, u.net = { s.net with flits := s.net.flits ++ [f] } ∧ f.h = h ∧ f.line = s.outLine p q ∧ f.at_ = p ∧
        f.ctrl = false ∧ f.head = true ∧ f.tail = decide (n = 1)) ∧
      u.get (fRouteCredit r) p = s.get (fRouteCredit r) p - 1 ∧ u.ringCount p q = s.ringCount p q - 1 ∧
      u.tl = { s.tl with pushes := takePush p q 1 s.tl.pushes } ∧ OnlyParts [.regs, .aux, .tl, .net, .ecc, .sp] s u ∧
      RegsKeptBut (fun b i o => i = p ∧ (b = .router ∧ o = 0x128 + 0x10 * r ∨
        b = .tile ∧ (o = 0x4C0 + 8 * q ∨ o = 0x608 ∨ o = 0x610))) s u) ∧
  (∀ (s : State) (i q : Nat) (f : Flit) (d : Dir) (ds : List Dir),
    s.net.flits[i]? = some f → f.br ≠ 5 → f.at_ ∉ s.geoLive.deadRouters → s.behind i f = false → f.wait = 0 →
    f.malformed = false → s.fwd f = .go d q ds → s.outServes i f d = true → s.roomAhead f = true →
    Answers (.routerForward i) s fun u =>
      u.net.flits = s.net.flits.take i ++ [s.arriveAt f d q ds] ++ s.net.flits.drop (i + 1) ∧
      u.net.combIn = s.net.combIn ∧ u.net.combOut = s.net.combOut ∧ u.net.edge = s.net.edge ∧
      (s.on fRtStat f.at_ = true → f.ctrl = false →
        u.get (fLinesOut d.num) f.at_ = min (s.get (fLinesOut d.num) f.at_ + 1) (2 ^ 48 - 1)) ∧
      OnlyParts [.regs, .aux, .net] s u ∧
      RegsKeptBut (fun b j o => b = .router ∧ j = f.at_ ∧ s.on fRtStat f.at_ = true ∧ 0x360 ≤ o ∧ o ≤ 0x388) s u) ∧
  (∀ (s : State) (i : Nat) (f : Flit),
    s.net.flits[i]? = some f → f.br ≠ 5 → f.at_ ∉ s.geoLive.deadRouters → s.behind i f = false → f.wait = 0 →
    f.malformed = false → s.fwd f = .arrived → f.h.typ ≠ 1 → f.h.exitEn = false → s.outServes i f .l = true →
    Answers (.routerForward i) s fun u =>
      u.net.flits = s.net.flits.take i ++ [{ f with br := 5 }] ++ s.net.flits.drop (i + 1) ∧
      OnlyParts [.regs, .aux, .net] s u) ∧
  (∀ (s : State) (i t : Nat) (f : Flit), let p := f.at_
    let q := f.h.stream
    let a := s.get (fQBase q) p + 64 * (s.get (fQWr q) p % s.ringSize p q)
    s.net.flits[i]? = some f → s.geo.carries p = some t → f.br = 5 → f.ctrl = false → f.h.typ < 2 →
    ¬ (f.h.rim = true ∧ f.h.typ = 0 ∧ q < 4) → s.behind i f = false →
    (s.deliverFail p f true = 0 → q < 6 → s.on (fQEnable q) p = true → s.ringTaken p q < s.ringSize p q → s.ecc = [] →
      a + f.line.length ≤ 2 ^ 21 →
      Answers (.packetDeliver i) s fun u => u.net = { s.net with flits := s.net.flits.eraseIdx i } ∧
        (∀ k (h : k < f.line.length), u.spByte p (a + k) = f.line[k]) ∧
        SpKeptBut p (fun x => a ≤ x ∧ x < a + f.line.length) s u ∧ u.ringCount p q = s.ringCount p q + 1 ∧
        u.ax ⟨.ringFeed, p, q⟩ = f.feed ∧ OnlyParts [.regs, .aux, .net, .sp] s u ∧
        RegsKeptBut (fun b j o => b = .tile ∧ j = p ∧ o = 0x4C0 + 8 * q) s u) ∧
    (s.deliverFail p f true ≠ 0 → Answers (.packetDeliver i) s fun u =>
        (s.deliverFail p f true = 1 → u.get fFencedDrops p = min (s.get fFencedDrops p + 1) 0xFFFF) ∧
        (s.deliverFail p f true = 2 → u.get fStateDrops p = min (s.get fStateDrops p + 1) 0xFFFF) ∧
        (s.deliverFail p f true = 3 → u.get fSagDrops p = min (s.get fSagDrops p + 1) 0xFFFF ∧
          u.get fDenyCount 0 = min (s.get fDenyCount 0 + 1) (2 ^ 48 - 1)) ∧
        OnlyParts [.regs, .aux, .net, .hi] s u)) ∧
  (∀ (s : State) (t set : Nat), let p := s.phys t
    let ins := s.combInputs p set
    let pk := ins.filterMap fun d => s.combFirst p set d
    s.on (fCombValid set) p = true → s.on (fCombBroken set) p = false → ins ≠ [] → pk.length = ins.length →
    (∀ n, (∀ c ∈ pk, c.lines.length = n) → Answers (.combStep t set) s fun u =>
      (∃ o, u.net.combOut = s.net.combOut ++ [o] ∧ o.p = p ∧ o.set = set ∧ o.h.typ = 2 ∧ o.h.lines = n ∧
        o.h.arg = s.get fOwnStep p % 65536 ∧ (∀ c, pk = [c] → o.lines = c.lines) ∧
        (1 < pk.length → o.lines = (List.range n).map fun j =>
          (combineLine (pk.map fun c => c.lines.getD j [])).flatMap fun e => leBytes 4 e.1.toNat)) ∧
      u.net.combIn = pk.foldl (fun l c => l.erase c) s.net.combIn ∧
      u.get (fCombSteps set) p = (s.get (fCombSteps set) p + 1) % 65536 ∧ OnlyParts [.regs, .net, .hi] s u) ∧
    ((∃ c ∈ pk, ∃ c' ∈ pk, c.lines.length ≠ c'.lines.length) →
      (∀ x, s.geo.carries p = some x → s.kilnOf x = none) →
      Answers (.combStep t set) s fun u => u.on (fCombBroken set) p = true ∧ u.net.combOut = s.net.combOut ∧
        (s.get (fErrCode .router) p = 0 → u.get (fErrCode .router) p = eARG ∧
          u.get (fErrInfo .router) p = set % 2 ^ 32) ∧
        (s.get fTileState p = 1 ∨ s.get fTileState p = 3 → u.get fTileState p = 5) ∧ OnlyParts [.regs, .net, .hi, .free] s u)) ∧
  (∀ (s : State) (i : Nat) (f : Flit), let x := (f.feed - 1) / 3
    s.net.flits[i]? = some f → f.br = 5 → f.h.typ = 5 → f.feed ≠ 0 → (f.feed - 1) % 3 = 0 →
    s.feedRect (f.feed - 1) = none →
    Answers (.creditReceived i) s fun u => u.net = { s.net with flits := s.net.flits.eraseIdx i } ∧
      u.get (fRouteCredit (x % 8)) (x / 8) =
        min (s.get (fRouteCredit (x % 8)) (x / 8) + 16 * (f.h.arg / 256 % 256)) 16384 ∧
      OnlyParts [.regs, .net] s u ∧
      RegsKeptBut (fun b j o => b = .router ∧ j = x / 8 ∧ o = 0x128 + 0x10 * (x % 8)) s u) ∧
  (∀ (s : State) (i : Nat) (f : Flit), let p := f.at_
    s.net.flits[i]? = some f → f.br = 5 → f.h.typ = 4 → f.feed ≠ 1 →
    Answers (.noticeReceived i) s fun u => u.net = { s.net with flits := s.net.flits.eraseIdx i } ∧
      u.rd .router p 0x358 = BitVec.ofNat 64 (f.h.arg % 2 ^ 32) ∧
      (f.h.arg / 256 % 16 = 3 → s.get (fErrCode .tile) p = 0 → u.get (fErrCode .tile) p = f.h.arg % 256) ∧
      (f.h.arg / 256 % 16 ≠ 3 → u.on (fEvt .router 3) p = true ∧
        (s.get (fErrCode .router) p = 0 → u.get (fErrCode .router) p = f.h.arg % 256 ∧
          u.get (fErrInfo .router) p = f.h.arg % 2 ^ 32)) ∧ OnlyParts [.regs, .net, .hi] s u)

/-! ## Slip ports and the weight store (chapter 10) -/

/-- R270, R283, R285, R288, R290, R291, R295: a temperature sample sets TEMP and the refresh level; a context's list ends DONE at END,
waits at an entry that has to wait, and starts a STREAM entry with its versions sampled and logged; a stream that has sent its last line
is gone, and DROP frees its window; a GATHER asks for its remote segments and is READY at once without any; a read timeout ends
the streams of the context with TIMEOUT (the tag pools of the pug and glaze units and of the links are the model's, log entry
118), a gather timeout fails the window.  Each clause says that the command completes: exec of stackTempSample,
streamEntryStart, gatherStart, streamEnd, storeReadTimeout and gatherTimeout is a next state, the one described. -/
def Obligations.StreamsAndGathersRun : Prop :=
  (∀ (s : State) (p : Nat) (celsius : Int), p < 48 → s.on fTrained p = true →
    Answers (.stackTempSample p celsius) s fun u => u.get fStackTemp p = min celsius.toNat 255 ∧
      u.get fRefresh p = (if celsius < 85 then 0 else if celsius < 95 then 1 else 2) ∧
      (s.get fRefresh p ≠ refreshOf celsius → u.on (fEvt .slip 4) p = true) ∧
      OnlyParts [.regs, .hi] s u ∧ RegsKeptBut (fun b i o => (b = .slip ∧ i = p ∧ (o = 0x108 ∨ o = offEvtStatus)) ∨
        (b = .kiln ∧ (∃ x ∈ s.sl.bud, x.stack = p ∧ x.kiln = i) ∧ (o = 0x018 ∨ o = 0x128))) s u) ∧
  (∀ (s : State) (p c : Nat), p < 48 → c < 16 → s.on (fCtxValid c) p = true →
    (s.get (fCtxState c) p = 1 ∨ s.get (fCtxState c) p = 2) →
    let t := s.ctxEntry p c
    let k := s.get (fCtxKiln c) p
    let ep := some (s.get fEpoch 0)
    let ctxReg := fun (b : Blk) (i o : Nat) => b = .slip ∧ i = p ∧ o = 0x200 + 0x10 * c
    (t.op = 2 → s.ctxStreams p c = [] → Answers (.streamEntryStart p c) s fun u => u.get (fCtxState c) p = 3 ∧
      OnlyParts [.regs] s u ∧ RegsKeptBut ctxReg s u) ∧
    (t.op = 0 → s.mustWait t = true → Answers (.streamEntryStart p c) s fun u => u.get (fCtxState c) p = 2 ∧
      OnlyParts [.regs] s u ∧ RegsKeptBut ctxReg s u) ∧
    (∀ now, t.op = 0 → s.mustWait t = false → s.linkUse p t.link = true → (t.src = 2 → s.get (fWinState t.win) p = 2) →
      (t.src = 0 → s.sagDenied ep (s.kilnSag k ep) true false t.addr t.len = none) → s.samples t = some now →
      (t.check = true → firstDiff (s.logged t) now = none) →
      Answers (.streamEntryStart p c) s fun u => u.get (fCtxState c) p = 1 ∧
        u.get (fCtxIndex c) p = (s.get (fCtxIndex c) p + 1) % 4096 ∧
        (∃ n, s.freeTag p = some n ∧ u.sl.streams = s.sl.streams ++ [{ t with start := now, tag := n }]) ∧
        u.sl.glog = s.sl.glog ++ (if t.log = true then now.map fun x => ⟨p, k, c, t.layer, x.seg, x.ver, x.alt⟩ else []) ∧
        u.ax ⟨.feedLink, t.feeder, 0⟩ = t.link ∧ OnlyParts [.regs, .aux, .sl] s u ∧
        RegsKeptBut (fun b i o => ctxReg b i o ∨ (b = .slip ∧ i = p ∧ (o = 0x370 ∨ (o = 0x340 ∧ t.check = true)))) s u) ∧
    (t.op = 1 → s.get (fWinState t.win) p = 0 → s.sagDenied ep (s.kilnSag k ep) true false t.addr (16 * t.nsegs) = none →
      let gs := (List.range t.nsegs).map fun i => s.segEntry p t.win t.addr i
      ((∀ g ∈ gs, g.path = 2) → Answers (.gatherStart p c) s fun u => u.get (fWinState t.win) p = 2 ∧
        u.get (fWinKiln t.win) p = k ∧ u.get (fWinDone t.win) p = t.nsegs % 64 ∧
        u.get (fCtxIndex c) p = (s.get (fCtxIndex c) p + 1) % 4096 ∧
        u.sl.segs = s.sl.segs.filter (fun g => !(g.port = p && g.w = t.win)) ++ gs.map (fun g => { g with st := 2 }) ∧
        OnlyParts [.regs, .sl] s u ∧ RegsKeptBut (fun b i o => ctxReg b i o ∨ (b = .slip ∧ i = p ∧ o = 0x300 + 8 * t.win)) s u) ∧
      (∀ g n, g.path ≠ 2 → gs = [g] → s.pathOk g.path g.link g.module_ = true → s.freeTag p = some n → Answers (.gatherStart p c) s fun u =>
        u.get (fWinState t.win) p = 1 ∧ u.get (fWinDone t.win) p = 0 ∧
        u.get (fCtxIndex c) p = (s.get (fCtxIndex c) p + 1) % 4096 ∧
        u.sl.segs = s.sl.segs.filter (fun y => !(y.port = p && y.w = t.win)) ++ [{ g with st := 1, tag := n }] ∧
        OnlyParts [.regs, .sl, .fb, .out] s u))) ∧
  (∀ (s : State) (p c entry : Nat) (t : Strm), (s.ctxStreams p c).find? (fun x => x.entry = entry) = some t →
    t.lines ≤ t.sent → t.check = false → t.log = false → (∀ g ∈ s.sl.segs, g.port = p → g.st = 0 → g.path = 2) →
    Answers (.streamEnd p c entry) s fun u =>
      u.sl.streams = s.sl.streams.filter (fun x => !(x.port = p && x.ctx = c && x.entry = entry)) ∧
      (t.src = 2 → t.drop = true → u.get (fWinState t.win) p = 0 ∧
        u.sl.segs = s.sl.segs.filter fun g => !(g.port = p && g.w = t.win)) ∧
      (¬ (t.src = 2 ∧ t.drop = true) → u.sl.segs = s.sl.segs) ∧ OnlyParts [.regs, .sl] s u ∧
      RegsKeptBut (fun b i o => b = .slip ∧ i = p ∧ (o = 0x300 + 8 * t.win ∨ o = 0x200 + 0x10 * c)) s u) ∧
  (∀ (s : State) (tag : Nat) (t : Strm), tag < 0xC000 →
    s.sl.streams.find? (fun x => x.port = tag / 0x400 && x.tag = tag) = some t →
    (∀ g ∈ s.sl.segs, g.port = t.port → g.st = 0 → g.path = 2) → Answers (.storeReadTimeout tag) s fun u => u.ctxStreams t.port t.ctx = [] ∧ u.on (fEvt .slip 0) t.port = true ∧
      (s.get (fErrCode .slip) t.port = 0 → u.get (fErrCode .slip) t.port = eTIMEOUT) ∧
      (s.get fKilnState (s.get (fCtxKiln t.ctx) t.port) = 0 → s.on fKilnBusy (s.get (fCtxKiln t.ctx) t.port) = false →
        u.get (fCtxState t.ctx) t.port = 4 ∧ OnlyParts [.regs, .hi, .sl, .free] s u) ∧
      (s.get fKilnState (s.get (fCtxKiln t.ctx) t.port) = 3 → s.on fKilnBusy (s.get (fCtxKiln t.ctx) t.port) = false →
        u.get fKilnState (s.get (fCtxKiln t.ctx) t.port) = 6)) ∧
  (∀ (s : State) (tag : Nat) (b : Blk) (i : Nat),
    (0xC000 ≤ tag ∧ tag < 0xD000 ∧ b = .pug ∧ i = (tag - 0xC000) / 256 ∨
      0xD000 ≤ tag ∧ tag < 0xDC00 ∧ b = .glaze ∧ i = (tag - 0xD000) / 64 ∨
      0xDC00 ≤ tag ∧ tag < 0xE400 ∧ b = .host ∧ i = 256 + (tag - 0xDC00) / 1024) →
    Answers (.storeReadTimeout tag) s fun u => (s.get (fErrCode b) i = 0 → u.get (fErrCode b) i = eTIMEOUT) ∧
      OnlyParts [.regs, .hi, .free] s u ∧ RegsKeptBut (fun c j o => c = b ∧ j = i ∧ (o = offErr ∨ o = offEvtStatus)) s u) ∧
  (∀ (s : State) (p w : Nat), p < 48 → w < 8 → s.get (fWinState w) p = 1 → s.winCtx p w = none →
    Answers (.gatherTimeout p w) s fun u => u.get (fWinState w) p = 3 ∧ u.on (fEvt .slip 1) p = true ∧
      (∀ g, (s.winSegs p w).find? (fun g => g.st ≠ 2) = some g → s.get (fErrCode .slip) p = 0 →
        u.get (fErrCode .slip) p = eTIMEOUT ∧ u.get (fErrInfo .slip) p = (w * 0x100 + g.seg) % 2 ^ 32) ∧
      OnlyParts [.regs, .hi] s u)

/-- R272, R274, R297–R302, R306, Table 10-11: a PLAIN write from the wafer puts its bytes at its address, and D's is answered; a read
is answered with a response line and the data lines; a transfer that waits too long closes; BAR4 reads and writes reach BASE plus the
offset; a MAP register takes base and size once every kiln is EMPTY; a COMB packet goes to the feed that takes it, or is discarded.
Each clause says that the command completes: exec of edgeWrite, edgeRead, xferTimeout, bar4Read, bar4Write, slipMapWrite and
combExitForward is a next state, the one described. -/
def Obligations.EdgeAndApertureReachTheStore : Prop :=
  (∀ (s : State) (p : Nat) (e : EdgePkt), let a := e.bits 0 0 48
    s.edgeReq p = some e → e.op ≠ 1 → e.wrBad = false → e.bits 1 0 32 = 0 → e.bits 3 0 48 = 0 →
    s.edgeErr e true a e.data.length = none →
    Answers (.edgeWrite p) s fun u => u.net.edge = s.net.edge.erase e ∧
      (∀ i (h : i < e.data.length), u.storeByte (a + i) = e.data[i]) ∧
      (∀ b, ¬ (a ≤ b ∧ b < a + e.data.length) →
        (∀ r < 4, ¬ (s.regionBase (a / slotSize) r ≤ b ∧ b < s.regionBase (a / slotSize) r + 64)) →
        u.storeByte b = s.storeByte b) ∧
      (e.eo = false → ∃ f, u.net.flits = s.net.flits ++ [f] ∧ f.h.typ = 6 ∧ f.h.arg = e.rid * 4 ∧ f.h.dx = e.h.sx ∧
        f.h.dy = e.h.sy) ∧
      OnlyParts [.regs, .aux, .net, .store, .bad, .rm] s u) ∧
  (∀ (s : State) (p : Nat) (e : EdgePkt), let a := e.bits 0 0 48
    let n := e.h.arg / 2 ^ 7 % 16 + 1
    s.edgeReq p = some e → e.op = 1 → e.rsvd = false → e.lines.length = 1 → n ≤ 15 → a % 64 = 0 → e.eo = false →
    s.edgeErr e false a (64 * n) = none →
    Answers (.edgeRead p) s fun u => u.net.edge = s.net.edge.erase e ∧
      (∃ fs, u.net.flits = s.net.flits ++ fs ∧ fs.length = n + 1 ∧
        (∀ i < n, (fs[i + 1]?).map (fun f => f.line) = some (s.stRds (a + 64 * i) 64)) ∧
        ∀ f ∈ fs, f.h.dx = e.h.sx ∧ f.h.dy = e.h.sy ∧ f.h.rim = true) ∧
      OnlyParts [.regs, .net] s u ∧ RegsKeptBut (fun b i o => b = .slip ∧ i = a / slotSize ∧ o = 0x378) s u) ∧
  (∀ (s : State) (p i : Nat) (x : Xfer), (s.sl.xfers.filter fun y => y.port = p)[i]? = some x →
    Answers (.xferTimeout p i) s fun u =>
      u.sl = { s.sl with xfers := s.sl.xfers.filter fun y => !(y.port = p && y.src = x.src && y.txn = x.txn) } ∧
      u.get fXferClosed p = min (s.get fXferClosed p + 1) 0xFFFF ∧
      (s.get (fErrCode .slip) p = 0 → u.get (fErrCode .slip) p = eTIMEOUT ∧ u.get (fErrInfo .slip) p = x.src % 2 ^ 32) ∧
      OnlyParts [.regs, .hi, .sl] s u ∧
      RegsKeptBut (fun b j o => b = .slip ∧ j = p ∧ (o = offErr ∨ o = offEvtStatus ∨ o = 0x398)) s u) ∧
  (∀ (s : State) (h off len : Nat), let a := s.get fApBase (256 + h) * 2 ^ 30 + off
    s.apLive h = true →
    (s.on fApEnable (256 + h) = true → s.training a = false →
      Answers (.bar4Read h off len) s fun u =>
        u.out = .bytes (s.stRds a len) (decide (s.badBursts a len ≠ [])) :: s.out ∧
        (s.badBursts a len = [] → s.firstUnpop a len = none → OnlyParts [.regs, .out] s u) ∧
        (∀ x, s.badBursts a len = [] → s.firstUnpop a len = some x → s.get (fErrCode .host) (256 + h) = 0 →
          u.get (fErrCode .host) (256 + h) = eARG ∧ u.get (fErrInfo .host) (256 + h) = storeInfo x)) ∧
    (s.on fApEnable (256 + h) = false → Answers (.bar4Read h off len) s fun u =>
        u.out = .bytes (List.replicate len 0) false :: s.out ∧
        (s.get (fErrCode .host) (256 + h) = 0 → u.get (fErrCode .host) (256 + h) = eARG) ∧
        OnlyParts [.regs, .hi, .out, .free] s u)) ∧
  (∀ (s : State) (h off : Nat) (data : List Byte), let a := s.get fApBase (256 + h) * 2 ^ 30 + off
    s.apLive h = true → data ≠ [] → s.on fApEnable (256 + h) = true → s.training a = false →
    s.storeWrErr a data.length = none →
    Answers (.bar4Write h off data) s fun u => (∀ i (hi : i < data.length), u.storeByte (a + i) = data[i]) ∧
      (∀ b, ¬ (a ≤ b ∧ b < a + data.length) →
        (∀ r < 4, ¬ (s.regionBase (a / slotSize) r ≤ b ∧ b < s.regionBase (a / slotSize) r + 64)) →
        u.storeByte b = s.storeByte b) ∧
      OnlyParts [.regs, .store, .bad, .rm] s u) ∧
  (∀ (s : State) (src : Src) (p r : Nat) (v : W64), let b := getBits v 0 12
    let n := getBits v 16 12
    s.lets src .slip p true → r < 8 → (∀ k < 256, s.get fKilnState k = 0) →
    (n ≠ 0 → b + n ≤ s.get fUnits p ∧ ∀ q < 8, q ≠ r → s.get (fMapSize q) p ≠ 0 →
      (s.get (fMapBase q) p + s.get (fMapSize q) p ≤ b ∨ b + n ≤ s.get (fMapBase q) p)) →
    (r < 5 → s.winMeets (p * slotSize + b * 2 ^ 24) (n * 2 ^ 24) = false) →
    Answers (.slipMapWrite src p r v) s fun u => TookNumber s .slip p u ∧ u.rd .slip p (0x140 + 8 * r) = v &&& 0x0FFF0FFF ∧
      OnlyParts [.regs, .seq] s u ∧
      RegsKeptBut (fun b i o => b = .slip ∧ i = p ∧ (o = 0x140 + 8 * r ∨ o = 0x180 ∨ o = 0x188 ∨ o = offSeq)) s u) ∧
  (∀ (s : State) (p : Nat) (e : EdgePkt), s.net.edge.find? (fun x => x.port = p && x.full && x.h.typ = 2) = some e →
    (∀ x, s.feedFor p e.link e.h.set = some x → s.get (fFeedFill x.2) x.1 + e.lines.length ≤ 64 →
      Answers (.combExitForward p) s fun u => u.net = { s.net with edge := s.net.edge.erase e } ∧
        u.pg = { s.pg with feedq := s.pg.feedq ++ [⟨x.1, x.2, e.h, e.epoch, e.lines⟩] } ∧
        u.get (fFeedFill x.2) x.1 = s.get (fFeedFill x.2) x.1 + e.lines.length ∧ OnlyParts [.regs, .net, .pg] s u ∧
        RegsKeptBut (fun b i o => b = .pug ∧ i = x.1 ∧ o = 0x200 + 0x10 * x.2) s u) ∧
    (s.feedFor p e.link e.h.set = none → Answers (.combExitForward p) s fun u =>
        u.net = { s.net with edge := s.net.edge.erase e } ∧
        (s.get (fErrCode .slip) p = 0 → u.get (fErrCode .slip) p = eARG ∧
          u.get (fErrInfo .slip) p = (e.link * 16 + e.h.set) % 2 ^ 32) ∧
        OnlyParts [.regs, .net, .hi] s u ∧
        RegsKeptBut (fun b i o => b = .slip ∧ i = p ∧ (o = offErr ∨ o = offEvtStatus)) s u))

/-! ## Pug units and glaze units (chapters 11, 12) -/

/-- R305, R308, R309, R313, R318, R321, R325, R327, R329, R330, R428: a feed's packet is refused for a job of another saggar, dropped when
stale, else its line is quantised into its bucket and, with error feedback, its residuals written to the slot that is not committed; a full
bucket enters stage 1, or DELIVER without stages; a stage whose sum fails its check, and one that is late, leave the bucket FAILED and the
step aborted; an accepted bucket is DONE, and its poison is accounted; ABORT_STEP closes the step. -/
def Obligations.GradientsReduceAndAbort : Prop :=
  (∀ (s : State) (u f : Nat) (x : FeedPkt), let j := s.get (fFeedJob f) u
    let ow := s.jobOwner j (some x.epoch)
    (s.pg.feedq.find? fun y => y.u = u && y.f = f) = some x →
    ((ow.1 = false ∨ ow.2 ≠ x.h.sag) → Answers (.pugCombReceive u f) s fun t =>
        t.pg = { s.pg with feedq := s.pg.feedq.erase x } ∧
        t.get fDenyCount 0 = min (s.get fDenyCount 0 + 1) (2 ^ 48 - 1) ∧
        (s.get (fErrCode .pug) u = 0 → t.get (fErrCode .pug) u = eSAGGAR ∧ t.get (fErrInfo .pug) u = f % 2 ^ 32) ∧
        OnlyParts [.regs, .aux, .net, .pg, .hi] s t) ∧
    (ow = (true, x.h.sag) → (s.ax ⟨.stepOpen, j, 0⟩ = 0 ∨ x.h.arg % 65536 ≠ s.ax ⟨.stepNo, j, 0⟩ % 65536) →
      Answers (.pugCombReceive u f) s fun t => t.pg = { s.pg with feedq := s.pg.feedq.erase x } ∧
        t.get fPugStale u = min (s.get fPugStale u + 1) 0xFFFF ∧ t.on (fEvt .pug 5) u = true ∧
        OnlyParts [.regs, .aux, .net, .pg, .hi] s t) ∧
    (∀ line bk i0 b, ow = (true, x.h.sag) → s.ax ⟨.stepOpen, j, 0⟩ ≠ 0 →
      x.h.arg % 65536 = s.ax ⟨.stepNo, j, 0⟩ % 65536 → x.lines = [line] →
      partFind (s.feedParts u f) (s.get (fFeedPos f) u) = some (bk, i0) → s.bkt j bk = some b → b.state = 1 →
      (b.ef = true → s.badBursts (s.residual b (s.lgen b) i0) (16 * b.resBytes) = [] ∧
        s.badPart (s.residual b (1 - s.lgen b) i0) (16 * b.resBytes) = false) →
      Answers (.pugCombReceive u f) s fun t => t.bkt j bk = some (b.take i0 s.self (s.quantLine b i0 line)) ∧
        t.get (fFeedPos f) u = (s.get (fFeedPos f) u + 1) % 2 ^ 32 ∧ t.get (fFeedFill f) u = s.get (fFeedFill f) u - 1 ∧
        (b.ef = true → ∀ a < 16 * b.resBytes, ((s.quantLine b i0 line).flatMap fun q => leBytes b.resBytes q.res)[a]? =
          some (t.storeByte (s.residual b (1 - s.lgen b) i0 + a))) ∧
        (b.ef = false → t.store = s.store) ∧
        OnlyParts [.regs, .aux, .net, .pg, .store, .bad, .rm] s t)) ∧
  (∀ (s : State) (job bucket : Nat) (b : Bkt), s.bkt job bucket = some b → s.ax ⟨.stepOpen, job, 0⟩ ≠ 0 →
    (b.state = 1 → b.got = b.elems → s.mayEnter b 1 = true →
      (b.stages = 0 → Answers (.bucketStageAdvance job bucket) s fun t => t.bkt job bucket = some { b with state := 3 } ∧
        t.gl.ranges = s.gl.ranges ++ (s.rangesOf b.glaze bucket).map (fun i => ⟨b.glaze, i, bucket, 0⟩) ∧
        OnlyParts [.regs, .hi, .free, .pg, .gl, .store, .bad, .rm] s t) ∧
      (b.stages ≠ 0 → (∀ m ∈ s.stageMembers b 1, m.path ≠ 2 → s.pathOk m.path m.port m.module_ = true) →
        Answers (.bucketStageAdvance job bucket) s fun t =>
          (∃ x, t.bkt job bucket = some x ∧ x.state = 2 ∧ x.stage = 1 ∧ x.from_ = [] ∧ x.sncon = b.ncon ∧
            ∀ i, (s.ownMember b 1).lo ≤ i → i < (s.ownMember b 1).lo + (s.ownMember b 1).n →
              fget (fun _ => 0) x.sum i = fget (fun _ => 0) b.vals i) ∧
          OnlyParts [.regs, .pg, .fb, .out] s t)) ∧
    (b.state = 2 → s.stageFull b = true → (b.stage < b.stages → s.mayEnter b (b.stage + 1) = true) →
      s.badBursts (s.stNum (b.addr + 24) 6 + 4 * (s.ownMember b b.stage).lo) (4 * (s.ownMember b b.stage).n) = [] →
      (csum b.sncon b.step b.scale b.id (codesOf b.sum (s.ownMember b b.stage).lo (s.ownMember b b.stage).n) + b.spcorr) %
        csumP ≠ b.sc →
      Answers (.bucketStageAdvance job bucket) s fun t => BucketFailed t job bucket eCHECKSUM) ∧
    (b.state = 2 → s.stageFull b = false → Answers (.stageTimeout job bucket) s fun t =>
        BucketFailed t job bucket eBUCKET_LATE ∧
        (s.badPart (b.addr + 48) 16 = false → s.get (fErrCode .pug) b.chan = 0 → t.get (fErrCode .pug) b.chan = eBUCKET_LATE ∧
          t.get (fErrInfo .pug) b.chan = (bucket * 16 + b.stage) % 2 ^ 32))) ∧
  (∀ (s : State) (job bucket : Nat) (b : Bkt), s.bkt job bucket = some b → b.state = 3 → s.bktAccepted b = true →
    (∀ x, s.prevBkt b = some x → x.state = 4) → s.jobGlaze job ≠ [] →
    Answers (.bucketDone job bucket) s fun t => t.bkt job bucket = some { b with state := 4 } ∧
      t.get fBucketsDone b.chan = min (s.get fBucketsDone b.chan + 1) (2 ^ 32 - 1) ∧ t.on (fEvt .pug 0) b.chan = true ∧
      t.rd .pug b.chan 0x108 =
        BitVec.ofNat 64 (bucket % 65536 + job % 256 * 2 ^ 16 + b.code % 256 * 2 ^ 24 + b.step % 2 ^ 32 * 2 ^ 32) ∧
      (b.poisoned ≠ 0 → t.on (fEvt .pug 1) b.chan = true ∧
        t.get fPcElems b.chan = min (s.get fPcElems b.chan + b.poisoned) (2 ^ 32 - 1)) ∧
      OnlyParts [.regs, .hi, .free, .pg, .store, .bad, .rm] s t) ∧
  (∀ (s : State) (c : CmdCtx) (u : Nat) (args : List W64), let j := getBits (argN args 0) 0 8
    s.admits c .pug u (abortStepSpec u args) →
    Answers (.abortStep c u args) s fun t => t.seq = s.seq + 1 ∧ t.ax ⟨.stepOpen, j, 0⟩ = 0 ∧ t.ax ⟨.voted, j, 0⟩ = 0 ∧
      t.ax ⟨.stepAborted, j, 0⟩ = getBits (argN args 0) 32 32 + 1 ∧ t.on (fEvt .pug 3) u = true ∧
      (∀ b ∈ t.pg.buckets, b.job = j → b.state = 0 ∨ 5 ≤ b.state) ∧
      (c.mbxEn = true → c.mailbox < 64 → t.get (fMbxCode c.mailbox) (64 + c.func) = eOK))

/-- R332, R338–R340, R343–R345, Tables 12-3, 12-4: GJOB binds a unit; the shadow's header is opened; a delivered range is updated into
the shadow; the last range accepted makes the module vote; votes and COMMITs are sent again; COMMIT_TMO only records; a mirror that is late
is BROKEN; MIRROR_SYNC makes the units SYNCING, and ends with them ACTIVE. -/
def Obligations.UpdatesVoteAndMirror : Prop :=
  (∀ (s : State) (src : Src) (p : Nat) (v : W64), s.lets src .glaze p true → s.get fGlzState p = 0 →
    (s.on fGjobValid p = true → s.jobActive (s.get fGjob p) = false) →
    (getBits v 8 1 = 1 → s.jobActive (getBits v 0 8) = false ∧ s.standby = false) →
    getBits v 9 2 ≠ 3 → 1 ≤ getBits v 32 13 → getBits v 32 13 ≤ 4096 →
    Answers (.gjobWrite src p v) s fun t => TookNumber s .glaze p t ∧ t.rd .glaze p 0x100 = v &&& gjobMask ∧
      (getBits v 8 1 = 1 → s.on fGjobValid p = false → s.on (fGenValid 0) p = true →
        t.get fCommitted p = s.get (fGenVer 0) p ∧ t.get fDurable p = s.get (fGenVer 0) p) ∧
      OnlyParts [.regs, .seq] s t ∧
      RegsKeptBut (fun b i o => b = .glaze ∧ i = p ∧ (o = 0x100 ∨ o = 0x128 ∨ o = 0x138 ∨ o = offSeq)) s t) ∧
  (∀ (s : State) (p : Nat), let n := s.ax ⟨.stepNo, s.get fGjob p, 0⟩
    p < 48 → s.on fGjobValid p = true → s.get fGlzState p = 1 → s.shadowOpened p n = false →
    s.pinned p (s.shadowSlot p) = false → (∃ r ∈ s.gl.ranges, r.port = p) →
    Answers (.shadowOpen p) s fun t =>
      (∀ i < 64, (headerBytes n 0 1 s.self)[i]? = some (t.storeByte (s.regionBase p (s.shadowSlot p) + i))) ∧
      (∀ a, ¬ (s.regionBase p (s.shadowSlot p) ≤ a ∧ a < s.regionBase p (s.shadowSlot p) + 64) →
        t.storeByte a = s.storeByte a) ∧
      (s.get fMstate p ≠ 1 → OnlyParts [.store, .bad, .rm] s t)) ∧
  (∀ (s : State) (p i : Nat) (x : GRange) (b : Bkt), let r := s.rangeEnt p i
    let k := s.shadowSlot p
    let h := hypOf (((s.gl.hyper.find? fun x => x.1 = p).map (·.2)).getD []) r.hset b.step
    let es := s.rangeElems p b r
    s.gl.ranges.find? (fun x => x.port = p && x.idx = i && x.st = 0) = some x → s.bkt (s.get fGjob p) x.bucket = some b →
    s.get fGlzState p = 1 → s.shadowOpened p b.step = true → b.state = 3 → s.rangeBad p r h.opt = none → r.stream = false →
    (∀ x ∈ [(r.master, 4 * r.n), (r.mOff, r.mBytes * r.n)] ++ (if h.opt = 1 then [(r.vOff, r.mBytes * r.n)] else []),
      s.badPart (s.genAddr p 0 k x.1) x.2 = false) →
    Answers (.glazeRangeUpdate p i) s fun t =>
      t.gl.ranges = s.gl.ranges.map (fun y => if y.port = p && y.idx = i then { y with st := 1 } else y) ∧
      (∀ a < r.mBytes * r.n, h.opt ≠ 1 → (es.flatMap fun e => leBytes r.mBytes (momOut r.bf e.kept e.m).1)[a]? =
        some (t.storeByte (s.genAddr p 0 k r.mOff + a))) ∧
      (∀ a < r.mBytes * r.n, h.opt = 1 → (es.flatMap fun e => leBytes r.mBytes (momOut r.bf e.kept e.v).1)[a]? =
        some (t.storeByte (s.genAddr p 0 k r.vOff + a))) ∧
      (r.master + 4 * r.n ≤ r.mOff → r.mOff + r.mBytes * r.n ≤ r.vOff ∨ h.opt ≠ 1 →
        ∀ a < 4 * r.n, (es.flatMap fun e => leBytes 4 e.w.toNat)[a]? = some (t.storeByte (s.genAddr p 0 k r.master + a))) ∧
      t.get fPGrad p = min (s.get fPGrad p + (es.filter fun e => e.grad).length) (2 ^ 24 - 1) ∧
      ((∃ e ∈ es, e.grad = true ∨ e.result = true) → p ∈ t.gl.tainted) ∧
      (s.get fMstate p ≠ 1 → OnlyParts [.regs, .gl, .store, .bad, .rm] s t)) ∧
  (∀ (s : State) (p i : Nat), (∃ r ∈ s.gl.ranges, r.port = p ∧ r.idx = i ∧ r.st = 1) →
    let j := s.get fGjob p
    let u := (markRange p i 2).run s
    let held := ((s.jobGlaze j).any fun q => s.get fGpolicy q = 0) && (s.jobGlaze j).any fun q => s.gl.tainted.contains q
    ((u.allAccepted j = false ∨ s.ax ⟨.voted, j, 0⟩ ≠ 0) → Answers (.glazeRangeAccepted p i) s fun t => t = u) ∧
    (∀ co, u.allAccepted j = true → s.ax ⟨.voted, j, 0⟩ = 0 → s.ax ⟨.stepOpen, j, 0⟩ ≠ 0 → s.jobCoord j = some co →
      co ≠ s.self → Answers (.glazeRangeAccepted p i) s fun t =>
        t.ax ⟨.voted, j, 0⟩ = (if held then 2 else 1) ∧
        (∀ q ∈ s.jobGlaze j, t.get fGlzState q = if held then 3 else 2) ∧
        Casts s t [co] 0x12 (voteBytes j (if held then 2 else 1) (s.ax ⟨.stepNo, j, 0⟩)) ∧
        OnlyParts [.regs, .aux, .hi, .gl, .out, .fb] s t)) ∧
  (∀ (s : State) (j co : Nat), s.ax ⟨.voted, j, 0⟩ ≠ 0 → s.ax ⟨.stepOpen, j, 0⟩ ≠ 0 → s.jobCoord j = some co → co ≠ s.self →
    Answers (.voteResend j) s fun t => Casts s t [co] 0x12 (voteBytes j (s.ax ⟨.voted, j, 0⟩) (s.ax ⟨.stepNo, j, 0⟩)) ∧
      OnlyParts [.regs, .out, .fb] s t) ∧
  (∀ (s : State) (j n : Nat), s.ax ⟨.committed, j, 0⟩ = n + 1 →
    Answers (.commitResend j) s fun t =>
      Casts s t ((s.jobModules j).filter fun m => m ≠ s.self && !s.gl.acks.contains (j, m)) 0x13 (commitBytes j n) ∧
      OnlyParts [.regs, .out, .fb] s t) ∧
  (∀ (s : State) (p : Nat), p < 48 → s.get fGlzState p = 2 →
    Answers (.commitTimeout p) s fun t => t.get fGlzState p = 2 ∧ t.on (fEvt .glaze 5) p = true ∧
      (s.get (fErrCode .glaze) p = 0 → t.get (fErrCode .glaze) p = eTIMEOUT ∧
        t.get (fErrInfo .glaze) p = s.ax ⟨.stepNo, s.get fGjob p, 0⟩ % 2 ^ 32) ∧ OnlyParts [.regs, .hi] s t) ∧
  (∀ (s : State) (p : Nat) (x : MFlip), s.flipOf p = some x →
    Answers (.mirrorTimeout p) s fun t => t.get fMstate p = 2 ∧ t.flipOf p = none ∧ t.on (fEvt .glaze 4) p = true ∧
      (∀ w, w ∈ t.gl.mirrorQ ↔ w ∈ s.gl.mirrorQ ∧ w.port ≠ p) ∧
      (s.get (fErrCode .glaze) p = 0 → t.get (fErrCode .glaze) p = eUNMIRRORED ∧
        t.get (fErrInfo .glaze) p = x.step % 2 ^ 32) ∧
      OnlyParts [.regs, .hi, .gl] s t) ∧
  (∀ (s : State) (c : CmdCtx) (inst : Nat) (args : List W64), let j := getBits (argN args 0) 0 8
    s.admits c .glaze inst (mirrorSyncSpec args) →
    ((s.lkUp 16 = true ∧ (s.boardPeer 16).any (fun x => x.st ≠ 2) = true) →
      Answers (.mirrorSync c inst args) s fun t => t.seq = s.seq + 1 ∧ (∀ p ∈ s.jobGlaze j, t.get fMstate p = 3) ∧
        t.hi.running = s.hi.running ++ [s.asRunning c .glaze inst 0x10 args] ∧
        OnlyParts [.seq, .regs, .aux, .hi, .out, .free, .fb] s t) ∧
    (s.lkUp 16 = false → Answers (.mirrorSync c inst args) s fun t => t.seq = s.seq + 1 ∧
        (∀ p ∈ s.jobGlaze j, t.get fMstate p = 2) ∧ OnlyParts [.seq, .regs, .aux, .hi, .out, .free] s t)) ∧
  (∀ (s : State) (j : Nat), s.syncRuns j ≠ [] → s.mirrorIdle = true → (∃ p ∈ s.jobGlaze j, s.get fMstate p = 3) →
    Answers (.mirrorSyncDone j) s fun t => t.syncRuns j = [] ∧
      (∀ p ∈ s.jobGlaze j, t.get fMstate p = 1 ∧ t.get fDurable p = s.get fCommitted p ∧ t.on (fEvt .glaze 6) p = true) ∧
      OnlyParts [.regs, .hi, .out] s t)

/-! ## Kilns (chapter 13) -/

/-- R352, R364, R452: an accepted LOAD whose checks pass is in progress: BUSY names it, GEOM shows the rectangle, and its OFF tiles
have asked for power; one whose checks fail completes with the check's code and leaves the kiln as it was.  Once the tiles are ON the kiln is LOADED
with its image, job and table, its tiles are in the kiln, LOADED is set and LOAD has completed. -/
def Obligations.LoadTakesTilesAndEndsLoaded : Prop :=
  (∀ (s : State) (c : CmdCtx) (k : Nat) (args : List W64), s.admits c .kiln k (loadSpec k args) →
    let u := s.kilnTaken c k 0x10 args
    let h := u.img (argN args 0).toNat
    (u.loadErr1 k h = none → u.loadErr2 k h = none →
      Answers (.load c k args) s fun t => t.seq = s.seq + 1 ∧ t.on fKilnBusy k = true ∧ t.get fBusyOp k = 0x10 ∧
        t.ax ⟨.kilnAddr, k, 0⟩ = (argN args 0).toNat + 1 ∧ t.get fKilnState k = s.get fKilnState k ∧
        t.rd .kiln k 0x100 =
          BitVec.ofNat 64 (h.x0 + h.x1 * 2 ^ 8 + h.y0 * 2 ^ 16 + h.y1 * 2 ^ 24 + h.tileCnt % 65536 * 2 ^ 32) ∧
        (∀ w ∈ h.tiles, s.ax ⟨.tilePwr, s.phys w, 0⟩ = 0 → w ∈ t.pw.wakes ∨ w ∈ t.pw.waking) ∧
        OnlyParts [.seq, .regs, .aux, .hi, .out, .free, .pw, .tl, .sp, .ecc, .acc, .imem, .rng, .row] s t) ∧
    (∀ e, u.loadErr1 k h = some e →
      Answers (.load c k args) s fun t => t.seq = s.seq + 1 ∧ t.get fKilnState k = s.get fKilnState k ∧
        t.on fKilnBusy k = false ∧
        (c.mbxEn = true → c.mailbox < 64 → t.get (fMbxCode c.mailbox) (64 + c.func) = e.code % 256) ∧
        OnlyParts [.seq, .regs, .aux, .hi, .out, .free] s t)) ∧
  (∀ (s : State) (k : Nat), k < 256 → s.on fKilnBusy k = true → s.get fBusyOp k = 0x10 →
    let h := s.img (s.ax ⟨.kilnAddr, k, 0⟩ - 1)
    s.tilesOn h.tiles = true → s.loadErr3 k h true = none →
    Answers (.kilnLoadDone k) s fun t => t.get fKilnState k = 1 ∧ t.on fKilnBusy k = false ∧
      t.rd .kiln k 0x108 = BitVec.ofNat 64 h.a ∧ t.rd .kiln k 0x110 = BitVec.ofNat 64 (h.job + 2 ^ 8) ∧
      t.rd .kiln k 0x118 = BitVec.ofNat 64 h.tab ∧ t.on (fEvt .kiln 0) k = true ∧ t.runningOf .kiln k 0x10 = [] ∧
      (∀ w ∈ h.tiles, t.get fOwnKiln (s.phys w) = k ∧ t.on fInKiln (s.phys w) = true) ∧
      OnlyParts [.regs, .aux, .hi, .out, .sp, .ecc, .imem, .net, .sl, .fb] s t)

/-- R353: an accepted START makes the kiln STARTING; arming whose checks pass makes it RUNNING with every tile's route credits at
their initial values, RESTART and RUNNING set; a failed check makes it FAULTED with the check's code and tile in FAULT; either completes START. -/
def Obligations.StartArmsTheKiln : Prop :=
  (∀ (s : State) (c : CmdCtx) (k : Nat) (args : List W64), s.admits c .kiln k (startSpec k args) →
    Answers (.start c k args) s fun t => t.seq = s.seq + 1 ∧ t.get fKilnState k = 2 ∧
      t.hi.running = s.hi.running ++ [s.asRunning c .kiln k 0x11 args] ∧
      OnlyParts [.seq, .regs, .aux, .hi, .out, .free] s t ∧
      RegsKeptBut (fun b i o => (b = .kiln ∧ i = k ∧ o = 0x018) ∨ b = .host) s t) ∧
  (∀ (s : State) (k : Nat), k < 256 → s.get fKilnState k = 2 → s.armErr k = none →
    Answers (.kilnArmed k) s fun t => t.get fKilnState k = 3 ∧ t.on fRestart k = true ∧ t.on (fEvt .kiln 1) k = true ∧
      t.runningOf .kiln k 0x11 = [] ∧
      (∀ w ∈ s.kilnTiles k, ∀ r, r < 5 → t.get (fRouteCredit r) (s.phys w) = 16 * s.get (fRouteCreditInit r) (s.phys w)) ∧
      OnlyParts [.regs, .aux, .hi, .out] s t) ∧
  (∀ (s : State) (k : Nat) (e : Nat × Nat × Nat), k < 256 → s.get fKilnState k = 2 → s.armErr k = some e →
    Answers (.kilnArmed k) s fun t => t.get fKilnState k = 6 ∧ t.get fKFaultCode k = e.1 % 256 ∧
      t.get fKFaultSrc k = e.2.1 % 8 ∧ t.on (fEvt .kiln 4) k = true ∧ t.runningOf .kiln k 0x11 = [] ∧
      OnlyParts [.regs, .hi, .out] s t)

/-- R350, R354: an accepted STEP opens step n of the kiln's job: every kiln of the job is in the step, its buckets are in
COLLECT, its glaze units UPDATING, no vote is cast; STEP completes.  The step boundary ends the step of a RUNNING kiln and counts it; a
DRAINING kiln is STOPPED there, and its STOP completes. -/
def Obligations.StepOpensAndTheBoundaryEnds : Prop :=
  (∀ (s : State) (c : CmdCtx) (k : Nat) (args : List W64), s.admits c .kiln k (stepSpec k args) →
    Answers (.step c k args) s fun t =>
      let j := s.get fKilnJob k
      let n := (argN args 0).toNat
      t.seq = s.seq + 1 ∧ t.ax ⟨.stepOpen, j, 0⟩ = 1 ∧ t.ax ⟨.stepNo, j, 0⟩ = n ∧ t.ax ⟨.voted, j, 0⟩ = 0 ∧
      (∀ x ∈ s.jobKilns j, t.on fInStep x = true ∧ t.on fRestart x = false ∧ t.get fKStep x = n) ∧
      (∀ p ∈ s.jobGlaze j, t.get fGlzState p = 1) ∧
      (∀ b ∈ t.pg.buckets, b.job = j → b.state = 1 ∧ b.step = n) ∧ t.runningOf .kiln k 0x12 = []) ∧
  (∀ (s : State) (k : Nat), k < 256 → (s.get fKilnState k = 3 ∨ s.get fKilnState k = 4) → s.on fInStep k = true →
    (∀ w ∈ s.kilnTiles k, s.get fTileState (s.phys w) = 2) → (∀ x ∈ s.kilnCtx k, s.get (fCtxState x.2) x.1 = 3) →
    Answers (.kilnStepBoundary k) s fun t => t.on fInStep k = false ∧
      t.get fKSteps k = min (s.get fKSteps k + 1) (2 ^ 32 - 1) ∧ t.on (fEvt .kiln 2) k = true ∧
      (s.get fKilnState k = 3 → t.get fKilnState k = 3) ∧
      (s.get fKilnState k = 4 → t.get fKilnState k = 5 ∧ t.runningOf .kiln k 0x13 = [] ∧
        ∀ w ∈ s.kilnTiles k, t.get fTileState (s.phys w) = 0))

/-- R352, R356, Table 13-2: an accepted STOP makes a RUNNING kiln DRAINING; an ABORT stops it at once, outside any step, and its STOP
completes; an UNLOAD makes it EMPTY, gives its tiles and contexts back, and completes. -/
def Obligations.StopAbortUnload : Prop :=
  (∀ (s : State) (c : CmdCtx) (k : Nat) (args : List W64), s.admits c .kiln k (stopSpec k args) →
    Answers (.stop c k args) s fun t => t.seq = s.seq + 1 ∧ t.get fKilnState k = 4 ∧
      t.hi.running = s.hi.running ++ [s.asRunning c .kiln k 0x13 args] ∧
      OnlyParts [.seq, .regs, .aux, .hi, .out, .free] s t ∧
      RegsKeptBut (fun b i o => (b = .kiln ∧ i = k ∧ o = 0x018) ∨ b = .host) s t) ∧
  (∀ (s : State) (c : CmdCtx) (k : Nat) (args : List W64), s.admits c .kiln k (abortSpec k args) →
    s.on fKilnBusy k = false → (s.get fKilnState k = 3 ∨ s.get fKilnState k = 4) →
    Answers (.abort c k args) s fun t => t.seq = s.seq + 1 ∧ t.get fKilnState k = 5 ∧ t.on fInStep k = false ∧
      t.runningOf .kiln k 0x13 = [] ∧ t.geo = s.geo ∧ t.imem = s.imem ∧
      (∀ core a m n, (∀ x ∈ k :: s.jobKilns (s.get fKilnJob k), ∀ w ∈ s.kilnTiles x, s.phys w ≠ core / 4) →
        a < 16 → m < 16 → n < 16 → t.accRd core a m n = s.accRd core a m n)) ∧
  (∀ (s : State) (c : CmdCtx) (k : Nat) (args : List W64), s.admits c .kiln k (unloadSpec k args) →
    Answers (.unload c k args) s fun t => t.seq = s.seq + 1 ∧ t.get fKilnState k = 0 ∧ t.rd .kiln k 0x100 = 0 ∧
      t.rd .kiln k 0x108 = 0 ∧ t.rd .kiln k 0x110 = 0 ∧ t.runningOf .kiln k 0x17 = [] ∧
      (s.get fKilnState k ≠ 7 → t.kilnCtx k = [] ∧
        ∀ w ∈ s.kilnTiles k, t.on fInKiln (s.phys w) = false ∧ t.get fTileState (s.phys w) = 0) ∧
      OnlyParts [.seq, .regs, .aux, .hi, .out, .free, .net, .sl, .pg, .fb, .store, .bad, .rm] s t)

/-- R365–R367: an accepted SWAP_OUT whose slot passes is in progress; at its end the kiln is SWAPPED_OUT, SWAP names the slot and
the state it was saved from, and its tiles are free; an accepted SWAP_IN that passes is in progress; at its end the kiln is LOADED, or STOPPED if
saved so, its tiles are in the kiln again and SWAP is 0. -/
def Obligations.KilnsSwapOutAndIn : Prop :=
  (∀ (s : State) (c : CmdCtx) (k : Nat) (args : List W64), s.admits c .kiln k (swapOutSpec k args) →
    let u := s.kilnTaken c k 0x15 args
    u.inRegionAny 6 (argN args 0).toNat (u.kilnImg k).swapBytes = true →
    u.winErr k true (argN args 0).toNat (u.kilnImg k).swapBytes = none →
    Answers (.swapOut c k args) s fun t => t.seq = s.seq + 1 ∧ t.on fKilnBusy k = true ∧ t.get fBusyOp k = 0x15 ∧
      t.ax ⟨.kilnAddr, k, 0⟩ = (argN args 0).toNat + 1 ∧ t.get fKilnState k = s.get fKilnState k ∧
      OnlyParts [.seq, .regs, .aux, .hi, .out, .free] s t) ∧
  (∀ (s : State) (k : Nat), k < 256 → s.on fKilnBusy k = true → s.get fBusyOp k = 0x15 →
    let a := s.ax ⟨.kilnAddr, k, 0⟩ - 1
    let h := s.kilnImg k
    ((s.kilnTiles k).any fun w => s.badIn (s.phys w) fun x => h.saveBase ≤ x && x < h.saveBase + 64 * h.saveLines) = false →
    s.storeWrErr a h.swapBytes = none →
    Answers (.swapOutDone k) s fun t => t.get fKilnState k = 7 ∧ t.on fKilnBusy k = false ∧ t.runningOf .kiln k 0x15 = [] ∧
      t.rd .kiln k 0x130 = BitVec.ofNat 64 (a + 2 ^ 48 + if s.get fKilnState k = 5 then 2 ^ 49 else 0) ∧
      t.on (fEvt .kiln 5) k = true ∧ ∀ w ∈ s.kilnTiles k, t.on fInKiln (s.phys w) = false) ∧
  (∀ (s : State) (c : CmdCtx) (k : Nat) (args : List W64), s.admits c .kiln k (swapInSpec k args) →
    let u := s.kilnTaken c k 0x16 args
    let h := u.kilnImg k
    u.winErr k false h.a h.bytes = none → u.winErr k false (u.get fSwapSlot k) h.swapBytes = none → u.rectErr k h = none →
    u.rsvErrL k h (u.ax ⟨.kilnMoved, k, 0⟩ ≠ 0) = none →
    Answers (.swapIn c k args) s fun t => t.seq = s.seq + 1 ∧ t.on fKilnBusy k = true ∧ t.get fBusyOp k = 0x16 ∧
      t.ax ⟨.kilnAddr, k, 0⟩ = s.get fSwapSlot k + 1 ∧ t.get fKilnState k = 7 ∧
      ∀ w ∈ h.tiles, s.ax ⟨.tilePwr, s.phys w, 0⟩ = 0 → w ∈ t.pw.wakes ∨ w ∈ t.pw.waking) ∧
  (∀ (s : State) (k : Nat), k < 256 → s.on fKilnBusy k = true → s.get fBusyOp k = 0x16 →
    let a := s.ax ⟨.kilnAddr, k, 0⟩ - 1
    let h := s.kilnImg k
    s.tilesOn h.tiles = true → s.loadErr3 k h (s.ax ⟨.kilnMoved, k, 0⟩ ≠ 0) = none → s.badBursts a h.swapBytes = [] →
    Answers (.swapInDone k) s fun t => t.get fKilnState k = (if s.on fFromStopped k then 5 else 1) ∧
      t.on fKilnBusy k = false ∧ t.rd .kiln k 0x130 = 0 ∧ t.runningOf .kiln k 0x16 = [] ∧
      ∀ w ∈ h.tiles, t.get fOwnKiln (s.phys w) = k ∧ t.on fInKiln (s.phys w) = true)

/-! ## Fabric ports and board links (chapter 14) -/

/-- R370, R387–R390, Table 14-8: ENABLE and its loss, RETRAIN, trained lanes, the HELLO of a board link, a time limit, a loss of lock and AUTO_RETRAIN move a
link port between OFF, TRAINING, UP, DOWN and MISWIRED; a port that comes UP makes its peers SYNC; one that is lost makes them DOWN; a pause frame pauses its priority. -/
def Obligations.LinksTrainAndDrop : Prop :=
  (∀ (s : State) (src : Src) (q : Nat) (v : W64), q < 19 → s.lets src (lkBlk q) (lkInst q) true →
    (getBits v 2 1 = 1 → s.lkEnabled q = false → s.lkState q = 0 → (16 ≤ q → s.on ⟨.blink, 0x180, 14, 1⟩ 0 = true) →
      Answers (.linkEnable src q v) s fun t => TookNumber s (lkBlk q) (lkInst q) t ∧ t.lkState q = 1 ∧
        t.rd (lkBlk q) (lkInst q) 0x010 = v &&& 7 ∧ t.ax ⟨.helloSeen, q, 0⟩ = 0 ∧ OnlyParts [.regs, .seq, .aux, .fb] s t ∧
        RegsKeptBut (fun b i o => b = lkBlk q ∧ i = lkInst q ∧ (o = 0x010 ∨ o = 0x018 ∨ o = offSeq)) s t) ∧
    (getBits v 2 1 = 0 → s.lkEnabled q = true →
      Answers (.linkDisable src q v) s fun t => TookNumber s (lkBlk q) (lkInst q) t ∧ t.lkState q = 0 ∧
        t.rd (lkBlk q) (lkInst q) 0x010 = v &&& 7 ∧ t.runningOf (lkBlk q) (lkInst q) 0x10 = [] ∧
        (s.lkUp q = true → t.lk q 0x108 0 16 = min (s.lk q 0x108 0 16 + 1) 0xFFFF) ∧
        (s.lkUp q = false → OnlyParts [.regs, .seq, .hi, .out] s t))) ∧
  (∀ (s : State) (c : CmdCtx) (q : Nat) (args : List W64), q < 19 →
    s.admits c (lkBlk q) (lkInst q) (retrainSpec q args) →
    Answers (.retrain c (lkBlk q) (lkInst q) args) s fun t => t.seq = s.seq + 1 ∧ t.lkState q = 1 ∧
      t.ax ⟨.helloSeen, q, 0⟩ = 0 ∧
      (s.lkUp q = true → t.lk q 0x108 0 16 = min (s.lk q 0x108 0 16 + 1) 0xFFFF) ∧
      (s.lkUp q = false → t.hi.running = s.hi.running ++ [s.asRunning c (lkBlk q) (lkInst q) 0x10 args] ∧
        OnlyParts [.seq, .regs, .aux, .hi, .out, .free, .fb] s t)) ∧
  (∀ (s : State) (q ok ms : Nat) (rev : Bool) (u : Nat × Nat), q < 19 → s.held = false → s.lkState q = 1 →
    s.ax ⟨.helloSeen, q, 0⟩ ≠ 3 → lanesUsed q ok = some u → (16 ≤ q → s.ax ⟨.helloSeen, q, 0⟩ = 1) →
    Answers (.linkTrainDone q ok ms rev) s fun t => t.lkState q = 2 ∧ t.lk q 0x100 0 5 = u.1 ∧ t.lk q 0x100 16 16 = u.2 ∧
      t.on (fEvt (lkBlk q) 0) (lkInst q) = true ∧
      (u.1 < lanesOf q → t.on (fEvt (lkBlk q) 2) (lkInst q) = true) ∧ t.runningOf (lkBlk q) (lkInst q) 0x10 = [] ∧
      (∀ x ∈ t.fb.peers, x.port = q → x.st = 0) ∧
      (16 ≤ q → ∃ x, t.boardPeer q = some x ∧ x.module_ = s.ax ⟨.helloSeen, q, 1⟩ - 1 ∧ x.pos = s.ax ⟨.helloSeen, q, 2⟩) ∧
      OnlyParts [.regs, .hi, .out, .free, .fb] s t) ∧
  (∀ (s : State) (q m pos link g : Nat), 16 ≤ q → q < 19 → s.lkState q = 1 →
    let good := link = q - 16 ∧ pos = Nat.xor (s.get fBoardPos 0) (q - 15) ∧ m ≠ s.self
    (s.ax ⟨.helloSeen, q, 0⟩ ≠ 3 → Answers (.hello q m pos link g) s fun t =>
      (good → t.ax ⟨.helloSeen, q, 0⟩ = 1) ∧ (¬ good → t.ax ⟨.helloSeen, q, 0⟩ = 2) ∧ t.lkState q = 1 ∧
        t.ax ⟨.helloSeen, q, 1⟩ = m + 1 ∧ OnlyParts [.aux] s t) ∧
    (s.ax ⟨.helloSeen, q, 0⟩ = 3 → good → Answers (.hello q m pos link g) s fun t => t.lkState q = 2 ∧
      (∃ x, t.boardPeer q = some x ∧ x.module_ = m ∧ x.st = 0 ∧ x.pos = pos) ∧
        OnlyParts [.regs, .aux, .hi, .out, .fb] s t) ∧
    (s.ax ⟨.helloSeen, q, 0⟩ = 3 → ¬ good → Answers (.hello q m pos link g) s fun t => t.lkState q = 4 ∧
      t.on (fEvt (lkBlk q) 5) (lkInst q) = true ∧
      (s.get (fErrCode (lkBlk q)) (lkInst q) = 0 → t.get (fErrCode (lkBlk q)) (lkInst q) = eARG ∧
        t.get (fErrInfo (lkBlk q)) (lkInst q) = m % 2 ^ 32) ∧ OnlyParts [.regs, .aux, .hi, .out] s t)) ∧
  (∀ (s : State) (q : Nat), q < 19 → s.lkState q = 1 → Answers (.linkTrainTimeout q) s fun t => t.lkState q = 3 ∧
      (s.get (fErrCode (lkBlk q)) (lkInst q) = 0 → t.get (fErrCode (lkBlk q)) (lkInst q) = eTIMEOUT) ∧
      t.runningOf (lkBlk q) (lkInst q) 0x10 = [] ∧ OnlyParts [.regs, .hi, .out, .free] s t) ∧
  (∀ (s : State) (q : Nat), q < 19 → s.lkUp q = true → Answers (.linkLoss q) s fun t => t.lkState q = 3 ∧
      t.lk q 0x108 0 16 = min (s.lk q 0x108 0 16 + 1) 0xFFFF ∧ t.on (fEvt (lkBlk q) 1) (lkInst q) = true ∧
      (q < 16 → s.pg.buckets = [] → s.sl.segs = [] → (∀ m al x, t.peer q m al = some x → x.st = 2) ∧
        OnlyParts [.regs, .hi, .fb, .sl] s t)) ∧
  (∀ (s : State) (q : Nat), q < 19 → s.lkState q = 3 → s.lk q 0x010 1 1 = 1 → Answers (.linkAutoRetrain q) s fun t =>
      t.lkState q = 1 ∧ t.ax ⟨.helloSeen, q, 0⟩ = 0 ∧ OnlyParts [.regs, .aux, .fb] s t ∧
      RegsKeptBut (fun b i o => b = lkBlk q ∧ i = lkInst q ∧ o = 0x018) s t) ∧
  (∀ (s : State) (q prio : Nat) (pause : Bool), q < 19 → prio < 8 → s.lkUp q = true →
    Answers (.pauseFrame q prio pause) s fun t => t.ax ⟨.paused, q, prio⟩ = (if pause then 1 else 0) ∧
      t.lk q 0x168 0 32 = min (s.lk q 0x168 0 32 + 1) (2 ^ 32 - 1) ∧ (pause = true → OnlyParts [.regs, .aux] s t) ∧
      (pause = false → s.get (fPrio 0) 0 = prio → t.fb.dgrams = s.fb.dgrams.filter fun d => d.1 ≠ q) ∧
      OnlyParts [.regs, .aux, .out, .fb] s t)

/-- R373: "A receiving port discards, without error, any frame that fails one of the checks below, and counts it in the DROPS
field named": FCS; EtherType, VER, reserved field, DST, TYPE; E2E CRC.  (A module that serves an alias takes its DST too, R416.) -/
def Obligations.FailedFramesAreDiscardedAndCounted : Prop :=
  ∀ (s : State) (q : Nat) (fr : Frame), q < 19 → s.fabLive = true → s.lkUp q = true →
    let only := fun t : State => OnlyParts [.regs] s t ∧
      RegsKeptBut (fun b i o => b = lkBlk q ∧ i = lkInst q ∧ o = 0x158) s t
    let header := fr.etype ≠ s.get fEtype 0 ∨ fr.ver ≠ 1 ∨ fr.rsvd ≠ 0 ∨
      (fr.dst ≠ s.self ∧ s.forAlias q fr = false) ∨ typeInfo q fr.typ = none
    (fr.fcsOk = false → Answers (.frameReceive q fr) s fun t =>
      t.lk q 0x158 0 16 = min (s.lk q 0x158 0 16 + 1) 0xFFFF ∧ t.lk q 0x158 16 16 = s.lk q 0x158 16 16 ∧
      t.lk q 0x158 32 16 = s.lk q 0x158 32 16 ∧ only t) ∧
    (fr.fcsOk = true → header → Answers (.frameReceive q fr) s fun t =>
      t.lk q 0x158 32 16 = min (s.lk q 0x158 32 16 + 1) 0xFFFF ∧ t.lk q 0x158 0 16 = s.lk q 0x158 0 16 ∧
      t.lk q 0x158 16 16 = s.lk q 0x158 16 16 ∧ only t) ∧
    (fr.fcsOk = true → s.headerBad q fr = false → fr.e2eOk = false → Answers (.frameReceive q fr) s fun t =>
      t.lk q 0x158 16 16 = min (s.lk q 0x158 16 16 + 1) 0xFFFF ∧ t.lk q 0x158 0 16 = s.lk q 0x158 0 16 ∧
      t.lk q 0x158 32 16 = s.lk q 0x158 32 16 ∧ only t)

/-- R374, R378, R379, R382, R383, Table 14-7: a good datagram waits as a message, and
so does a sequenced message whose SEQ is NEXT, which is acknowledged; ACK and NAK move the sender's base and credit; a deadline counts a retry, and the
last one takes the peer DOWN; heartbeats leave at the tick, and bring a peer from SYNC to UP and from DOWN to SYNC. -/
def Obligations.FramesAndHeartbeatsKeepPeers : Prop :=
  (∀ (s : State) (q : Nat) (fr : Frame), q < 19 → s.fabLive = true → s.lkUp q = true →
    (fr.fcsOk = true → s.headerBad q fr = false → fr.e2eOk = true →
      (fr.seqd = false → fr.typ ≠ 4 → s.jobBarred fr.typ fr.payload = false → Answers (.frameReceive q fr) s fun t =>
        t.fb = { s.fb with inbox := s.fb.inbox ++ [⟨q, fr.src, s.forAlias q fr, fr.cls, fr.typ, fr.payload⟩] } ∧
        OnlyParts [.regs, .fb] s t ∧
        RegsKeptBut (fun b i o => b = lkBlk q ∧ i = lkInst q ∧ o = 0x150 ∧ s.lkStat q = true) s t) ∧
      (∀ x, fr.seqd = true → fr.typ ≠ 4 → s.peer q fr.src (s.forAlias q fr) = some x → x.st = 1 →
        (x.chan fr.cls).stale = false →
        fr.seq = (x.chan fr.cls).rNext → s.holdFull q (x.chan fr.cls) fr = false → fr.last = true →
        s.jobBarred fr.typ ((x.chan fr.cls).asm ++ fr.payload) = false → Answers (.frameReceive q fr) s fun t =>
          t.fb.inbox = s.fb.inbox ++
            [⟨q, fr.src, s.forAlias q fr, fr.cls, fr.typ, (x.chan fr.cls).asm ++ fr.payload⟩] ∧
          (∃ y, t.peer q fr.src (s.forAlias q fr) = some y ∧ (y.chan fr.cls).rNext = ((x.chan fr.cls).rNext + 1) % 2 ^ 32 ∧
            (y.chan fr.cls).asm = []) ∧
          (fr.cls ≠ 3 → s.isPaused q 0 = false → (∀ d ∈ s.fb.dgrams, d.1 ≠ q) →
            ∃ a, t.out = .frame q (s.mac q a.src) (s.tci 0) a :: s.out ∧ a.typ = 2 ∧ a.dst = fr.src) ∧
          (fr.cls ≠ 3 → s.isPaused q 0 = true → ∃ a, t.fb.dgrams = s.fb.dgrams ++ [(q, a)] ∧ a.typ = 2 ∧ a.dst = fr.src) ∧
          OnlyParts [.regs, .fb, .out] s t))) ∧
  (∀ (s : State) (q : Nat) (m : InMsg) (x : Peer), let cls := m.num 0 1
    s.fabLive = true → s.peer q m.src m.alias_ = some x → x.st ≠ 2 → (q = 16 → cls ≠ 3) →
    sub32 (m.num 4 4) (x.chan cls).sBase ≤ sub32 (x.chan cls).sNext (x.chan cls).sBase →
    (s.msgAt q 2 = some m → Answers (.ack q) s fun t => t.fb.inbox = s.fb.inbox.erase m ∧
      (∃ y, t.peer q m.src m.alias_ = some y ∧ (y.chan cls).sBase = m.num 4 4 ∧ (y.chan cls).sLimit = some (m.num 8 2) ∧
        y.frames.length = (x.frames.filter fun f => f.cls ≠ cls ||
          sub32 (m.num 4 4) (x.chan cls).sBase ≤ sub32 f.fr.seq (x.chan cls).sBase).length) ∧
      OnlyParts [.regs, .fb, .out] s t) ∧
    (s.msgAt q 3 = some m → Answers (.nak q) s fun t => t.fb.inbox = s.fb.inbox.erase m ∧
      (∃ y, t.peer q m.src m.alias_ = some y ∧ (y.chan cls).sBase = m.num 4 4 ∧ (y.chan cls).sLimit = some (m.num 8 2)) ∧
      OnlyParts [.regs, .fb, .out] s t)) ∧
  (∀ (s : State) (q m cls : Nat) (x : Peer), s.fabLive = true → s.peer q m false = some x → s.peer q m true = none →
    x.st = 1 → (∃ f ∈ x.frames, f.cls = cls ∧ f.sent = true) →
    ((x.chan cls).retries + 1 < s.lk q 0x110 8 4 → Answers (.ackTimeout q m cls) s fun t =>
      (∃ y, t.peer q m false = some y ∧ y.st = 1 ∧ (y.chan cls).retries = (x.chan cls).retries + 1) ∧
      OnlyParts [.regs, .fb, .out] s t) ∧
    (s.lk q 0x110 8 4 ≤ (x.chan cls).retries + 1 → q < 16 → s.pg.buckets = [] → s.sl.segs = [] →
      Answers (.ackTimeout q m cls) s fun t => (∃ y, t.peer q m false = some y ∧ y.st = 2 ∧ y.frames = []) ∧
        t.on (fEvt (lkBlk q) 3) (lkInst q) = true ∧
        (s.get (fErrCode (lkBlk q)) (lkInst q) = 0 → t.get (fErrCode (lkBlk q)) (lkInst q) = eLINK_DOWN ∧
          t.get (fErrInfo (lkBlk q)) (lkInst q) = m % 2 ^ 32) ∧ OnlyParts [.regs, .hi, .fb, .sl] s t)) ∧
  (∀ s : State, s.running → (∀ x ∈ s.fb.peers, x.st = 1 → x.seen = true) →
    Answers .heartbeatTick s fun t => t.ax ⟨.hbSeq, 0, 0⟩ = nextSeq32 (s.ax ⟨.hbSeq, 0, 0⟩) ∧
      (∃ l, t.out = l ++ s.out ∧ ∀ x ∈ s.fb.peers, s.lkUp x.port = true → s.isPaused x.port 0 = false →
        ∃ fr, Out.frame x.port (s.mac x.port fr.src) (s.tci 0) fr ∈ l ∧ fr.typ = 1 ∧ fr.dst = x.module_) ∧
      (∀ q m al x, s.peer q m al = some x → x.st = 1 →
        ∃ y, t.peer q m al = some y ∧ y.st = 1 ∧ y.seen = false ∧ y.missed = 0) ∧
      OnlyParts [.regs, .aux, .out, .fb] s t) ∧
  (∀ (s : State) (q : Nat) (m : InMsg) (x : Peer), s.fabLive = true → s.msgAt q 1 = some m →
    s.peer q m.src m.alias_ = some x → (q = 16 → s.get fPartnerState 0 ≠ 3) → s.lkUp q = true →
    (x.st = 0 → m.num 8 4 ≠ 0 → 1 ≤ sub32 (m.num 8 4) x.hbBase →
      sub32 (m.num 8 4) x.hbBase ≤ sub32 (s.ax ⟨.hbSeq, 0, 0⟩) x.hbBase →
      Answers (.heartbeat q) s fun t => (∃ y, t.peer q m.src m.alias_ = some y ∧ y.st = 1 ∧ y.lastHb = m.num 4 4) ∧
        t.on (fEvt (lkBlk q) 4) (lkInst q) = true ∧ OnlyParts [.regs, .hi, .out, .fb] s t) ∧
    (x.st = 2 → m.num 0 1 ≠ 1 → Answers (.heartbeat q) s fun t =>
      (∃ y, t.peer q m.src m.alias_ = some y ∧ y.st = 0 ∧ y.frames = [] ∧ y.hbBase = s.ax ⟨.hbSeq, 0, 0⟩) ∧
      OnlyParts [.fb] s t))

/-- R289, R326, R327, R340, R341, R376, R377, R386, R391: a RECORD of the present stage is added to its bucket, one for the next step is held; an ABORT
closes the open step; the coordinator holds a vote, and a COMMIT_ACK; COMMIT is the commit point of a module that voted PREPARED; a segment request is
queued and served, and its answer fills the window's place; mirror writes and headers act on the MIRROR regions. -/
def Obligations.MessagesAct : Prop :=
  (∀ (s : State) (q : Nat) (m : InMsg), let r := Rec.parse m.data
    s.fabLive = true →
    s.fb.inbox.find? (fun x => x.port = q && x.typ = 0x10 && s.recordWhen (Rec.parse x.data) ≠ 1) = some m →
    (s.isNext m = true → Answers (.record q) s fun t =>
      t.fb = { s.fb with inbox := s.fb.inbox.erase m, held := s.fb.held ++ [m] } ∧ OnlyParts [.regs, .fb] s t) ∧
    (∀ b, s.isNext m = false → r.step = s.ax ⟨.stepNo, r.job, 0⟩ → s.ax ⟨.stepOpen, r.job, 0⟩ ≠ 0 →
      s.bkt r.job r.bucket = some b → b.state = 2 → s.stageBad b r = false → r.stage = b.stage → r.src ∉ b.from_ → s.recordErr b r = none →
      Answers (.record q) s fun t => t.bkt r.job r.bucket = some (b.add r) ∧ OnlyParts [.regs, .fb, .pg] s t)) ∧
  (∀ (s : State) (q : Nat) (m : InMsg), let j := m.num 0 1
    let n := m.num 4 4
    s.fabLive = true →
    (s.msgAt q 0x11 = some m → s.openStep j = some n → Answers (.abortBroadcastReceive q) s fun t =>
      t.ax ⟨.stepOpen, j, 0⟩ = 0 ∧ t.ax ⟨.stepAborted, j, 0⟩ = n + 1 ∧ t.on (fEvt .pug 4) (s.jobPug j) = true ∧
      (∀ b ∈ t.pg.buckets, b.job = j → b.state = 0 ∨ 5 ≤ b.state)) ∧
    (s.msgAt q 0x11 = some m → s.openStep j ≠ some n → Answers (.abortBroadcastReceive q) s fun t =>
      t.get fPugStale (s.jobPug j) = min (s.get fPugStale (s.jobPug j) + 1) 0xFFFF ∧ OnlyParts [.regs, .hi, .fb] s t) ∧
    (s.msgAt q 0x12 = some m → (s.openStep j = some n ∨ s.ax ⟨.stepNo, j, 0⟩ < n) → s.isCoord j = true →
      (∀ v ∈ s.gl.votes, ¬ (v.job = j ∧ v.step = n ∧ v.module_ = m.src)) → s.ax ⟨.voted, j, 0⟩ ≠ 1 →
      Answers (.vote q) s fun t => t.gl = { s.gl with votes := s.gl.votes ++ [⟨j, n, m.src, decide (m.num 1 1 = 2)⟩] } ∧
        OnlyParts [.regs, .gl, .fb] s t) ∧
    (s.msgAt q 0x13 = some m → s.openStep j = some n → s.ax ⟨.voted, j, 0⟩ = 1 → Answers (.commit q) s fun t =>
      t.seq = s.seq + 1 ∧ t.ax ⟨.stepOpen, j, 0⟩ = 0 ∧
      (∀ p ∈ s.jobGlaze j, t.get fCommitted p = n ∧ t.get fGlzState p = 0 ∧ t.on (fEvt .glaze 1) p = true ∧
        (s.shadowOpened p n = true → t.get (fCgen 0) p = s.shadowSlot p ∧ t.on (fGenValid 0) p = true ∧
          t.get (fGenVer 0) p = n ∧ t.get (fGenAlt 0) p = 0)) ∧
      (∀ u < 16, t.get (fLgen j) u = 1 - s.get (fLgen j) u)) ∧
    (s.msgAt q 0x13 = some m → s.openStep j = some n → s.ax ⟨.voted, j, 0⟩ = 2 → Answers (.commit q) s fun t =>
      (∀ p ∈ s.jobGlaze j, s.get (fErrCode .glaze) p = 0 → t.get (fErrCode .glaze) p = eARG ∧
        t.get (fErrInfo .glaze) p = m.src % 2 ^ 32) ∧ OnlyParts [.regs, .hi, .fb] s t) ∧
    (s.msgAt q 0x14 = some m → s.ax ⟨.committed, j, 0⟩ = n + 1 → (j, m.src) ∉ s.gl.acks → Answers (.commitAck q) s fun t =>
      t.gl = { s.gl with acks := s.gl.acks ++ [(j, m.src)] } ∧
      t.ax ⟨.committed, j, 0⟩ =
        (if (s.jobModules j).all (fun x => x = s.self || (s.gl.acks ++ [(j, m.src)]).contains (j, x)) then 0 else n + 1) ∧
      OnlyParts [.aux, .gl, .fb] s t)) ∧
  (∀ (s : State) (q : Nat) (m : InMsg), s.fabLive = true → s.msgAt q 0x20 = some m →
    Answers (.segReq q) s fun t => t.fb.inbox = s.fb.inbox.erase m ∧
      (∃ v, t.fb.serves = s.fb.serves ++ [v] ∧ v.port = q ∧ v.src = m.src ∧ v.tag = m.num 0 2 ∧ v.stack = m.num 2 1 % 64 ∧
        v.off = m.num 8 8 % 2 ^ 40 ∧ v.len = m.num 4 4) ∧ OnlyParts [.fb] s t) ∧
  (∀ (s : State) (q : Nat) (v : Serve) (x : Peer), let k := s.get (fCgen 0) v.stack
    let d := leBytes 2 v.tag ++ leBytes 1 0 ++ leBytes 1 0 ++ (leBytes 4 (s.get (fGenVer 0) v.stack) ++
      leBytes 2 (s.get (fGenAlt 0) v.stack)) ++ leBytes 6 0 ++ s.stRds (s.genAddr v.stack 0 k v.off) v.len
    s.fabLive = true → (s.fb.serves.filter fun y => y.port = q && y.busy).length < 64 →
    s.fb.serves.find? (fun y => y.port = q && !y.busy) = some v → v.alias_ = false → v.stack < 48 →
    genData + v.off + v.len ≤ s.regionSize v.stack 0 → s.on (fGenValid 0) v.stack = true →
    s.badBursts (s.genAddr v.stack 0 k v.off) v.len = [] → s.peer q v.src false = some x →
    Answers (.segServeStart q) s fun t =>
      t.fb.serves = s.fb.serves.map (fun y => if y = v then { v with busy := true, slot := k } else y) ∧
      (∃ y, t.peer q v.src false = some y ∧ y.frames.length = x.frames.length + (fragments (d.length / 4096 + 1) 0 d).length) ∧
      OnlyParts [.regs, .fb, .out] s t) ∧
  (∀ (s : State) (q i : Nat) (v : Serve), (s.fb.serves.filter fun y => y.port = q && y.busy)[i]? = some v →
    (∀ x, s.peer q v.src v.alias_ = some x → ∀ f ∈ x.frames, f.fr.typ = 0x21 → f.ref % 65536 = v.tag → f.sent = true) →
    Answers (.segServeDone q i) s fun t => t.fb = { s.fb with serves := s.fb.serves.erase v } ∧ OnlyParts [.fb] s t) ∧
  (∀ (s : State) (q : Nat) (m : InMsg) (g : Seg), let a := s.winAddr g.port g.w (g.woff * 64)
    s.fabLive = true → s.msgAt q 0x21 = some m →
    s.sl.segs.find? (fun g => g.st = 1 && g.tag = m.num 0 2 && g.module_ = m.src && planPort g.path g.link = q) = some g →
    s.get (fWinState g.w) g.port = 1 → (∀ x ∈ s.sl.segs, x.port = g.port → x.st = 0 → x.path = 2) → m.num 2 1 = 0 → s.storeWrErr a (m.data.drop 16).length = none →
    Answers (.segData q) s fun t => (∀ i (h : i < (m.data.drop 16).length), t.storeByte (a + i) = (m.data.drop 16)[i]) ∧
      t.sl = { s.sl with segs := s.sl.segs.map fun x => if x.port = g.port && x.w = g.w && x.seg = g.seg
        then { x with st := 2, ver := m.num 4 4, alt := m.num 8 2 } else x } ∧
      ((∀ x ∈ t.winSegs g.port g.w, x.st = 2) → t.get (fWinState g.w) g.port = 2) ∧
      OnlyParts [.regs, .fb, .sl, .store, .bad, .rm] s t) ∧
  (∀ (s : State) (tag : Nat) (g : Seg),
    s.sl.segs.find? (fun g => g.st = 1 && g.tag = tag) = some g → s.get (fWinState g.w) g.port = 1 →
    (∀ x ∈ s.sl.segs, x.port = g.port → x.st = 0 → x.path = 2) →
    s.winCtx g.port g.w = none → Answers (.segReadTimeout tag) s fun t => t.get (fWinState g.w) g.port = 3 ∧
      t.sl = { s.sl with segs := s.sl.segs.map fun x => if x = g then { x with st := 3 } else x } ∧
      (s.get (fErrCode .slip) g.port = 0 → t.get (fErrCode .slip) g.port = eTIMEOUT ∧
        t.get (fErrInfo .slip) g.port = (g.w * 0x100 + g.seg) % 2 ^ 32) ∧ OnlyParts [.regs, .hi, .sl] s t) ∧
  (∀ (s : State) (m : InMsg), let p := m.num 0 1 % 64
    let a := s.regionBase p (2 + m.num 1 1 % 2) + m.num 8 8 % 2 ^ 40
    s.fabLive = true → s.msgAt 16 0x30 = some m → (∃ x, s.fb.inbox.find? (fun x => x.port = 16 && x.cls = 3) = some x ∧ x.typ = 0x30) →
    p < 48 → s.badPart a (m.data.drop 16).length = false →
    s.inRegion p (2 + m.num 1 1 % 2) a (m.data.drop 16).length = true →
    Answers .mwrite s fun t => (∀ i (h : i < (m.data.drop 16).length), t.storeByte (a + i) = (m.data.drop 16)[i]) ∧
      (∀ b, ¬ (a ≤ b ∧ b < a + (m.data.drop 16).length) → t.storeByte b = s.storeByte b) ∧
      OnlyParts [.regs, .fb, .out, .store, .bad, .rm] s t) ∧
  (∀ (s : State) (m : InMsg), s.fabLive = true → s.msgAt 16 0x31 = some m →
    (∃ x, s.fb.inbox.find? (fun x => x.port = 16 && x.cls = 3) = some x ∧ x.typ = 0x31) →
    Answers .mhdr s fun t => (∀ p < 48, m.num 8 6 / 2 ^ p % 2 = 1 → t.get (fCgen 1) p = m.num 1 1 % 2 ∧
        t.on (fGenValid 1) p = true ∧ t.get (fGenVer 1) p = m.num 4 4) ∧
      OnlyParts [.regs, .fb, .out, .store, .bad, .rm] s t)

/-! ## Faults and partners (chapter 15) -/

/-- R398, R400, R401: a detection finds its block dead: the entry of the physical tile gains the detector's bit, the tile's compute is
DEAD, DEATH is set, a persist is due, and the published geometry stays as it is. -/
def Obligations.DetectionsRecordADeath : Prop :=
  (∀ (s : State) (p : Nat), s.detects = true → s.physOn p = true → s.get fTileState p ≠ 0 → s.get fTileState p ≠ 2 →
    s.crackOf p / 32 % 2 = 0 → Answers (.computeWatchdog p) s fun t => Died s t p 0x20) ∧
  (∀ (s : State) (p c : Nat), s.detects = true → s.physOn p = true → c < 4 → s.crackOf p / 2 ^ c % 2 = 0 →
    Answers (.coreResidueMismatch p c) s fun t => Died s t p (2 ^ c)) ∧
  (∀ (s : State) (p : Nat), s.detects = true → s.physOn p = true → s.crackOf p / 16 % 2 = 0 →
    Answers (.vecResidueMismatch p) s fun t => Died s t p 0x10) ∧
  (∀ (s : State) (p : Nat), s.detects = true → p < 36000 → s.crackOf p / 64 % 2 = 0 →
    Answers (.neighbourWatchExpire p) s fun t => Died s t p 0x40) ∧
  (∀ (s : State) (p : Nat), s.detects = true → p < 36000 → s.crackOf p / 128 % 2 = 0 →
    Answers (.repeaterClockLoss p) s fun t => Died s t p 0x80)

/-- R399, R422: a root write of ENTRY_DATA that no kiln on the segment forbids gives the selected entry its bits; a read answers the
entry; each steps ENTRY_SEL on where AUTO_INC is set.  R398, R421: a persist, by command, by PERSIST_GO or after a publication,
programs the copy that is not the newest with the next sequence number and the map, and MAP reads PERSISTING; it ends with the copy
valid, PERSISTED set and the command done. -/
def Obligations.CrackMapIsWrittenAndPersisted : Prop :=
  (∀ (s : State) (src : Src) (v : W64), s.lets src .crack 0 true →
    s.entryHeld (s.get fEntrySel 0) (s.crackOf (s.get fEntrySel 0) % 256 &&& (255 - getBits v 0 8)) = false →
    Answers (.entryDataWrite src v) s fun t => TookNumber s .crack 0 t ∧
      t.crackOf (s.get fEntrySel 0) % 256 = getBits v 0 8 ∧
      t.get fEntrySel 0 = (if s.on fEntryInc 0 then (s.get fEntrySel 0 + 1) % 36000 else s.get fEntrySel 0) ∧ t.geo = s.geo) ∧
  (∀ s : State, s.held = false →
    Answers .entryDataRead s fun t => t.out = .readData (s.entryView (s.get fEntrySel 0)) :: s.out ∧
      t.get fEntrySel 0 = (if s.on fEntryInc 0 then (s.get fEntrySel 0 + 1) % 36000 else s.get fEntrySel 0) ∧
      OnlyParts [.regs, .out] s t ∧ RegsKeptBut (fun b i o => b = .crack ∧ i = 0 ∧ o = 0x100) s t) ∧
  (∀ (s : State) (c : CmdCtx) (args : List W64), s.admits c .crack 0 (persistSpec args) →
    Answers (.persist c args) s fun t => t.seq = s.seq + 1 ∧ Persisting s t ∧
      t.hi.running = s.hi.running ++ [s.asRunning c .crack 0 0x13 args] ∧
      OnlyParts [.seq, .regs, .aux, .hi, .out, .free, .ft] s t) ∧
  (∀ (s : State) (src : Src) (v : W64), s.lets src .crack 0 true → getBits v 0 1 = 1 → s.get fMapState 0 ≠ 2 →
    Answers (.persistGo src v) s fun t => TookNumber s .crack 0 t ∧ Persisting s t ∧ OnlyParts [.seq, .regs, .aux, .ft] s t) ∧
  (∀ s : State, s.detects = true → s.on fAutoPersist 0 = true → s.ax ⟨.persistDue, 2, 0⟩ ≠ 0 → s.get fMapState 0 ≠ 2 →
    Answers .autoPersist s fun t => t.ax ⟨.persistDue, 2, 0⟩ = 0 ∧ Persisting s t ∧ OnlyParts [.regs, .aux, .ft] s t) ∧
  (∀ (s : State) (ok : Bool), s.get fMapState 0 = 2 → s.ax ⟨.persist, 0, 0⟩ ≠ 0 →
    Answers (.persistDone ok) s fun t =>
      (s.ax ⟨.persist, 0, 0⟩ = 1 → t.ft.copyA = { s.ft.copyA with valid := ok } ∧ t.ft.copyB = s.ft.copyB) ∧
      (s.ax ⟨.persist, 0, 0⟩ ≠ 1 → t.ft.copyB = { s.ft.copyB with valid := ok } ∧ t.ft.copyA = s.ft.copyA) ∧
      t.runningOf .crack 0 0x13 = [] ∧ t.get fFlashCode 0 = (if ok then eOK else eTIMEOUT) ∧
      (ok = true → t.get fMapState 0 = 1 ∧ t.on (fEvt .crack 0) 0 = s.on (fEvt .crack 0) 0 ∧ t.on (fEvt .crack 3) 0 = true) ∧
      OnlyParts [.regs, .aux, .hi, .out, .ft] s t)

/-- R404: an accepted SHIFT with shifts pending makes a publication due and runs on; with none it completes; with AUTO_SHIFT a change
that no build holds falls due once the kilns its deaths faulted have flushed.  R414, R416: an accepted PROMOTE makes a LOST partner's
module PROMOTING; with no committed mirror it ends LOST again, with one it ends PROMOTED and sets PROMOTED; either completes the command. -/
def Obligations.ShiftsAndPromotions : Prop :=
  (∀ (s : State) (c : CmdCtx) (args : List W64), s.admits c .crack 0 (shiftSpec args) →
    Answers (.shift c args) s fun t => t.seq = s.seq + 1 ∧
      (s.pendSegs ≠ [] → t.ax ⟨.geoDue, 0, 0⟩ = 1 ∧ t.hi.running = s.hi.running ++ [s.asRunning c .crack 0 0x14 args]) ∧
      (s.pendSegs = [] → ∀ r ∈ t.hi.running, r.seq ≠ s.seq + 1) ∧
      OnlyParts [.seq, .regs, .aux, .hi, .out, .free] s t) ∧
  (∀ s : State, s.detects = true → s.on fAutoShift 0 = true → s.on fUpdating 1 = false → s.geoLive ≠ s.geo →
    s.ax ⟨.geoDue, 0, 0⟩ = 0 →
    (∀ k, k < 256 → s.get fKilnState k = 6 → s.get fKFaultSrc k = 3 → ∀ w ∈ s.kilnTiles k, s.get fTileState (s.phys w) ≠ 6) →
    Answers .shiftPublish s fun t => t.ax ⟨.geoDue, 0, 0⟩ = 1 ∧ OnlyParts [.aux] s t) ∧
  (∀ (s : State) (c : CmdCtx) (args : List W64), s.admits c .crack 0 (promoteSpec args) →
    Answers (.promote c args) s fun t => t.seq = s.seq + 1 ∧ t.get fPartnerState 0 = 4 ∧
      t.hi.running = s.hi.running ++ [s.asRunning c .crack 0 0x12 args] ∧
      OnlyParts [.seq, .regs, .aux, .hi, .out, .free] s t ∧
      RegsKeptBut (fun b i o => (b = .crack ∧ i = 0 ∧ o = 0x138) ∨ b = .host) s t) ∧
  (∀ s : State, s.get fPartnerState 0 = 4 →
    let u := (forEach ports48 fun p => reread1 p 1).run s
    Answers .promoteDone s fun t => t.runningOf .crack 0 0x12 = [] ∧
      ((∀ p, p < 48 → u.on (fGenValid 1) p = false) → t.get fPartnerState 0 = 3) ∧
      (∀ p, p < 48 → u.on (fGenValid 1) p = true → t.get fPartnerState 0 = 5 ∧ t.on (fEvt .crack 7) 0 = true))

/-- R411, R412: an accepted PAIR whose mirror regions fit, with no PAIR held, makes PSTATE PAIRING; a PAIR received by an unpaired
module is held; PAIR_ACK after this module's own ends the pairing PAIRED, with MODE and ROLE shown; a timeout ends it NONE; UNPAIR and the
peer's UNPAIR clear PARTNER and every mirror; UNPAIR_ACK completes UNPAIR. -/
def Obligations.ModulesPairAndUnpair : Prop :=
  (∀ (s : State) (c : CmdCtx) (args : List W64), s.admits c .crack 0 (pairSpec args) → s.mirrorFits = true →
    s.ax ⟨.pairHeld, 0, 0⟩ = 0 →
    Answers (.pair c args) s fun t => t.seq = s.seq + 1 ∧ t.get fPartnerState 0 = 1 ∧
      t.hi.running = s.hi.running ++ [s.asRunning c .crack 0 0x10 args] ∧
      OnlyParts [.seq, .regs, .aux, .hi, .out, .free, .fb] s t) ∧
  (∀ (s : State) (m : InMsg), s.running → s.msgAt 16 0x40 = some m → s.get fPartnerState 0 = 0 →
    Answers .pairReceive s fun t => t.ax ⟨.pairHeld, 0, 0⟩ = 1 ∧ t.ax ⟨.pairWord, 0, 0⟩ = m.num 0 8 ∧
      t.ax ⟨.pairWord, 1, 0⟩ = m.num 8 8 ∧ OnlyParts [.aux, .fb] s t) ∧
  (∀ (s : State) (m : InMsg), s.running → s.msgAt 16 0x41 = some m → s.get fPartnerState 0 = 1 →
    s.ax ⟨.pairAckOut, 0, 0⟩ ≠ 0 →
    Answers .pairAck s fun t => t.get fPartnerState 0 = 2 ∧ t.get fPmode 0 = s.pairMode.1 ∧ t.get fRole 0 = s.pairMode.2 ∧
      t.on (fEvt .crack 4) 0 = true ∧ t.runningOf .crack 0 0x10 = [] ∧ OnlyParts [.regs, .aux, .hi, .out, .fb] s t) ∧
  (∀ s : State, s.get fPartnerState 0 = 1 →
    Answers .pairTimeout s fun t => t.get fPartnerState 0 = 0 ∧ t.runningOf .crack 0 0x10 = [] ∧
      OnlyParts [.regs, .aux, .hi, .out] s t) ∧
  (∀ (s : State) (c : CmdCtx) (args : List W64), s.admits c .crack 0 (unpairSpec args) →
    Answers (.unpair c args) s fun t => t.seq = s.seq + 1 ∧ t.rd .crack 0 0x138 = 0 ∧ (∀ p, p < 48 → t.get fMstate p = 0) ∧
      ((s.get fPartnerState 0 ≠ 2 ∨ s.lkUp 16 = false) → ∀ r ∈ t.hi.running, r.seq ≠ s.seq + 1)) ∧
  (∀ (s : State) (m : InMsg), s.running → s.msgAt 16 0x42 = some m → s.get fPartnerState 0 = 2 →
    Answers .unpairReceive s fun t => t.rd .crack 0 0x138 = 0 ∧ ∀ p, p < 48 → t.get fMstate p = 0) ∧
  (∀ (s : State) (m : InMsg), s.running → s.msgAt 16 0x43 = some m →
    Answers .unpairAck s fun t => t.runningOf .crack 0 0x11 = [] ∧ OnlyParts [.regs, .hi, .out, .fb] s t)

/-- R418: an arbiter stall, a rim interconnect error, a root PLL that does not lock or relock wedge the module: WEDGED and its cause are shown,
MGMT.STATE is WEDGED, WEDGED is recorded; nothing else changes. -/
def Obligations.CausesWedgeTheModule : Prop :=
  (∀ s : State, s.running → Answers .arbiterStallTimeout s fun t => Wedges s t 1) ∧
  (∀ s : State, s.running → Answers .rimInterconnectUe s fun t => Wedges s t 2) ∧
  (∀ s : State, s.running → s.get fClkState 0 = 2 → Answers .pllRelockTimeout s fun t => Wedges s t 4) ∧
  (∀ s : State, s.inPhase 1 = true → Answers .pllLockTimeout s fun t => Wedges s t 4)

/-! ## Saggars (chapter 16) -/

/-- R426, R428, R432, R433: a write of a kiln's SAGGAR, of a job's owner or of a store window that the arbiter takes while no wafer
change is under way starts one: its number is in CHANGE, STATE is SETTLING, and the old entry is kept for what was accepted
before; one that comes while another is under way waits at the arbiter and changes nothing else. -/
def Obligations.SaggarEntriesMakeWaferChanges : Prop :=
  (∀ (s : State) (src : Src) (k : Nat) (v : W64), s.lets src .kiln k true → s.sg.change = none →
    Answers (.kilnSaggarWrite src k v) s fun t => TookNumber s .kiln k t ∧ t.rd .kiln k offSaggar = v &&& 0x3F ∧
      t.sg.change = some ⟨0, k, s.rd .kiln k offSaggar, 0, false⟩ ∧ t.get fSettling 0 = 1 ∧
      t.rd .saggar 0 0x100 = BitVec.ofNat 64 (s.seq + 1) ∧ OnlyParts [.regs, .seq, .sg] s t) ∧
  (∀ (s : State) (src : Src) (j : Nat) (v : W64), s.lets src .saggar 0 true → s.sg.change = none → j < 256 →
    Answers (.jobOwnerWrite src j v) s fun t => TookNumber s .saggar 0 t ∧
      t.rd .saggar 0 (0x400 + 8 * j) = v &&& 0x13F ∧
      t.sg.change = some ⟨2, j, s.rd .saggar 0 (0x400 + 8 * j), 0, false⟩ ∧ t.get fSettling 0 = 1 ∧
      OnlyParts [.regs, .seq, .sg] s t) ∧
  (∀ (s : State) (src : Src) (v : W64), s.lets src .saggar 0 true → s.sg.change = none →
    s.swBad (s.get fSwSel 0) (getBits (s.rd .saggar 0 0x118) 0 48) v = false →
    Answers (.storeWindowCommit src v) s fun t => TookNumber s .saggar 0 t ∧
      t.win (s.get fSwSel 0) none =
        (BitVec.ofNat 64 (getBits (s.rd .saggar 0 0x118) 0 48), BitVec.ofNat 64 (v &&& swHiMask).toNat) ∧
      t.sg.change = some ⟨1, s.get fSwSel 0, (s.win (s.get fSwSel 0) none).1, (s.win (s.get fSwSel 0) none).2, false⟩ ∧
      t.get fSettling 0 = 1 ∧ OnlyParts [.regs, .seq, .sg] s t) ∧
  (∀ (s : State) (src : Src) (k : Nat) (v : W64), s.lets src .kiln k true → s.sg.change.isSome →
    Answers (.kilnSaggarWrite src k v) s fun t =>
      t.sg.waiting = s.sg.waiting ++ [(src, .kilnSaggarWrite src k v)] ∧ t.sg.change = s.sg.change ∧ OnlyParts [.sg] s t)

/-- R432, R433: at the edge S the epoch flips and the change is installed; once nothing accepted before S remains, STATE is
SETTLED with the time, SETTLED is set, and no wafer change is under way when none waited. -/
def Obligations.WaferChangeInstallsAndSettles : Prop :=
  (∀ (s : State) (c : Change), s.running → s.sg.change = some c → c.installed = false →
    Answers .waferChangeInstall s fun t => t.sg.change = some { c with installed := true } ∧
      t.get fEpoch 0 = 1 - s.get fEpoch 0 ∧ OnlyParts [.regs, .sg] s t ∧
      RegsKeptBut (fun b i o => (b = .saggar ∧ i = 0 ∧ o = 0x108) ∨ (b = .router ∧ o = 0x108)) s t) ∧
  (∀ (s : State) (ns : Nat) (c : Change), s.running → s.sg.change = some c → c.installed = true → s.drained = true →
    s.sg.waiting = [] →
    Answers (.waferChangeSettle ns) s fun t => t.sg.change = none ∧ t.get fSettling 0 = 0 ∧
      t.get fSettleNs 0 = min ns (2 ^ 32 - 1) ∧ t.on (fEvt .saggar 0) 0 = true ∧ OnlyParts [.regs, .sg, .hi] s t ∧
      RegsKeptBut (fun b i o => b = .saggar ∧ i = 0 ∧ (o = 0x018 ∨ o = 0x108 ∨ o = offEvtStatus)) s t)

/-! ## Clocks, power, heat (chapter 17) -/

/-- R439: the root PLL goes to HOLDOVER and back to LOCKED, counted and shown; R442: at a switch edge at least 1 µs after the
decision a half's dividers become what they are due to be, each switch counted. -/
def Obligations.ClocksFollowThePllAndTheDividers : Prop :=
  (∀ s : State, s.held = false → s.get fClkState 0 = 1 →
    Answers .pllUnlock s fun t => t.get fClkState 0 = 2 ∧ t.get fPllLock 0 = 0 ∧
      t.get fUnlocks 0 = min (s.get fUnlocks 0 + 1) 255 ∧ t.on (fEvt .clk 0) 0 = true ∧ OnlyParts [.regs, .hi] s t ∧
      RegsKeptBut (fun b i o => b = .clk ∧ i = 0 ∧ (o = 0x018 ∨ o = 0x100 ∨ o = offEvtStatus)) s t) ∧
  (∀ s : State, s.held = false → s.get fClkState 0 = 2 →
    Answers .pllRelock s fun t => t.get fClkState 0 = 1 ∧ t.get fPllLock 0 = 1 ∧ t.on (fEvt .clk 1) 0 = true ∧
      OnlyParts [.regs, .hi] s t ∧
      RegsKeptBut (fun b i o => b = .clk ∧ i = 0 ∧ (o = 0x018 ∨ o = 0x100 ∨ o = offEvtStatus)) s t) ∧
  (∀ (s : State) (h : Nat), s.held = false → h < 2 → s.get fClkState 0 = 1 → s.ax ⟨.divDue, h, 0⟩ ≠ 0 →
    s.wcount % 1024 = 0 → s.ax ⟨.divDue, h, 0⟩ + 2400 ≤ s.wcount + 1 →
    Answers (.dividerSwitch h) s fun t => t.get fTileDiv (h + 1) = s.tileWant h ∧ t.get fNetDiv (h + 1) = s.netWant h ∧
      t.get fChangeAt (h + 1) = s.wcount % 2 ^ 32 ∧ t.ax ⟨.divDue, h, 0⟩ = 0 ∧ OnlyParts [.regs, .aux, .hi] s t ∧
      RegsKeptBut (fun b i _ => (b = .clk ∧ i = h + 1) ∨ (b = .therm ∧ i = 0) ∨ b = .kiln) s t)

/-- R447: a change of the input that carries alone is a counted switch-over; while both conduct STATE is 2 and none is
counted, and parting again returns to the input that last carried alone; R449: a sample shows volts, amperes and watts under the next
number. -/
def Obligations.SuppliesSwitchAndAreSampled : Prop :=
  (∀ (s : State) (b : Bool), s.held = false →
    Answers (.supplySwitchover b) s fun t => t.get fPwrState 0 = (if b then 1 else 0) ∧
      t.ax ⟨.lastSole, 0, 0⟩ = (if b then 1 else 0) ∧
      (s.ax ⟨.lastSole, 0, 0⟩ = 0 → b = true → t.get fToB 0 = min (s.get fToB 0 + 1) 0xFFFF ∧ t.on (fEvt .pwr 0) 0 = true) ∧
      (s.ax ⟨.lastSole, 0, 0⟩ = 1 → b = false → t.get fToA 0 = min (s.get fToA 0 + 1) 0xFFFF ∧ t.on (fEvt .pwr 1) 0 = true) ∧
      (s.ax ⟨.lastSole, 0, 0⟩ = (if b then 1 else 0) → t.get fToA 0 = s.get fToA 0 ∧ t.get fToB 0 = s.get fToB 0) ∧
      OnlyParts [.regs, .aux, .hi] s t ∧
      RegsKeptBut (fun b' i o => b' = .pwr ∧ i = 0 ∧ (o = 0x018 ∨ o = 0x118 ∨ o = offEvtStatus)) s t) ∧
  (∀ (s : State) (tog : Bool), s.held = false →
    Answers (.bothInputsConduct tog) s fun t => (tog = true → t.get fPwrState 0 = 2) ∧
      (tog = false → s.get fPwrState 0 = 2 → s.ax ⟨.lastSole, 0, 0⟩ < 2 → t.get fPwrState 0 = s.ax ⟨.lastSole, 0, 0⟩) ∧
      t.get fToA 0 = s.get fToA 0 ∧ t.get fToB 0 = s.get fToB 0 ∧ OnlyParts [.regs] s t ∧
      RegsKeptBut (fun b i o => b = .pwr ∧ i = 0 ∧ o = 0x018) s t) ∧
  (∀ (s : State) (va ia vb ib w : Nat), s.held = false → (44000 ≤ va ∨ 44000 ≤ vb) → va < 65536 → ia < 65536 →
    vb < 65536 → ib < 65536 → w < 65536 →
    Answers (.supplySample va ia vb ib w) s fun t =>
      getBits (t.rd .pwr 0 0x100) 0 16 = va ∧ getBits (t.rd .pwr 0 0x100) 16 16 = ia ∧
      getBits (t.rd .pwr 0 0x108) 0 16 = vb ∧ getBits (t.rd .pwr 0 0x108) 16 16 = ib ∧
      getBits (t.rd .pwr 0 0x110) 0 16 = w ∧
      getBits (t.rd .pwr 0 0x110) 32 32 = (getBits (s.rd .pwr 0 0x110) 32 32 + 1) % 2 ^ 32 ∧
      OnlyParts [.regs] s t ∧
      RegsKeptBut (fun b i o => b = .pwr ∧ i = 0 ∧ (o = 0x100 ∨ o = 0x108 ∨ o = 0x110)) s t)

/-- R450–R453: the arbiter grants the first request its limits allow, and that tile is WAKING and its field ramps; a WAKING tile
whose wake ends is ON with its scratchpad zero and its registers at reset; a field that has had no grant for 8 µs ends its ramp;
SLEEP takes the ON tiles of its rectangle OFF; WAKE puts its OFF tiles into the queue. -/
def Obligations.TilesWakeAndSleep : Prop :=
  (∀ (s : State) (w : Nat), s.ready = true → s.held = false → s.tripped = false → s.pw.wakes.find? s.grantable = some w →
    Answers .wakeGrant s fun t => t.pw.wakes = s.pw.wakes.erase w ∧ t.pw.waking = s.pw.waking ++ [w] ∧
      t.ax ⟨.tilePwr, s.phys w, 0⟩ = 1 ∧ t.ramps (fieldOf w) = true ∧
      (s.pw.wakes.erase w = [] → t.on (fEvt .pwr 0) 1 = true) ∧ OnlyParts [.regs, .aux, .pw, .hi] s t ∧
      RegsKeptBut (fun b i _ => b = .pwr ∧ i = 1) s t) ∧
  (∀ (s : State) (w : Nat), w ∈ s.pw.waking → s.ax ⟨.tilePwr, s.phys w, 0⟩ = 1 →
    Answers (.tileWakeDone w) s fun t => t.ax ⟨.tilePwr, s.phys w, 0⟩ = 2 ∧ t.pw.waking = s.pw.waking.erase w ∧
      (∀ a, a < 2 ^ 21 → t.spByte (s.phys w) a = 0) ∧ t.get fTileState (s.phys w) = 0 ∧
      (∀ p a, p ≠ s.phys w → a < 2 ^ 21 → t.spByte p a = s.spByte p a) ∧ t.store = s.store) ∧
  (∀ (s : State) (f : Nat), s.tokens f = 0 →
    Answers (.fieldRampEnd f) s fun t => t.ramps f = false ∧ OnlyParts [.aux] s t) ∧
  (∀ (s : State) (c : CmdCtx) (args : List W64), s.admits c .pwr 1 (sleepSpec 1 args) →
    (∀ r ∈ s.hi.running, r.seq ≠ s.seq + 1) →
    Answers (.sleep c 1 args) s fun t => t.seq = s.seq + 1 ∧ t.hi.running = s.hi.running ∧
      (∀ w ∈ pwrRect (argN args 0), s.computeOn w = true → s.geo.outOfUse w = false → t.ax ⟨.tilePwr, s.phys w, 0⟩ = 0) ∧
      t.store = s.store ∧ t.geo = s.geo) ∧
  (∀ (s : State) (c : CmdCtx) (args : List W64) (w : Nat), s.admits c .pwr 1 (wakeSpec 1 args) →
    w ∈ pwrRect (argN args 0) → s.ax ⟨.tilePwr, s.phys w, 0⟩ = 0 → s.hot w = false → s.geo.outOfUse w = false →
    Answers (.wake c 1 args) s fun t => t.seq = s.seq + 1 ∧ (w ∈ t.pw.wakes ∨ w ∈ t.pw.waking) ∧ t.store = s.store ∧ t.geo = s.geo)

/-- R455–R457: a thermal sample stores every reading; a sensor at its trip value trips the module: MGMT.STATE, TRIPPED and the trip
count show it; a level whose sensors are cool clears and sets the clearing event. -/
def Obligations.HeatIsSampledAndClears : Prop :=
  (∀ (s : State) (temps : List Int) (n : Nat), s.held = false → s.tripped = false → s.get fMgmtState 0 ≠ 1 →
    temps.length = 296 → (hotAt temps (fields48.map fun f => 192 + f) 115).or (hotAt temps stackSensors 105) = some n →
    Answers (.thermalSample temps) s fun t => t.tripped = true ∧ t.on fTripped 0 = true ∧ t.get fTripSensor 0 = n % 512 ∧
      t.get fTrips 0 = min (s.get fTrips 0 + 1) 0xFFFF ∧
      (∀ i, i < 296 → -32768 ≤ temps.getD i 0 → temps.getD i 0 < 32768 → t.sensor i = temps.getD i 0) ∧
      OnlyParts [.regs, .aux, .hi, .pw] s t ∧
      RegsKeptBut (fun b i o => (b = .therm ∧ i = 0) ∨ (b = .mgmt ∧ i = 0 ∧ (o = 0x018 ∨ o = 0x110))) s t) ∧
  (∀ (s : State) (temps : List Int) (h n : Nat), s.held = false → s.tripped = false → s.get fMgmtState 0 ≠ 1 →
    temps.length = 296 → (hotAt temps (fields48.map fun f => 192 + f) 115).or (hotAt temps stackSensors 105) = none →
    h < 2 → hotAt temps ((halfFields h).flatMap computeSensors) 98 = some n → s.level2 h = false →
    Answers (.thermalSample temps) s fun t => t.level2 h = true ∧ t.on (fEvt .therm 1) 0 = true ∧ t.tripped = false) ∧
  (∀ (s : State) (temps : List Int), s.held = false → s.tripped = false → s.get fMgmtState 0 ≠ 1 → temps.length = 296 →
    (∀ i, i < 296 → -32768 ≤ temps.getD i 0 ∧ temps.getD i 0 < 16 * 90) → 90 ≤ s.get fAlertT 0 →
    Answers (.thermalSample temps) s fun t => (∀ i, i < 296 → t.sensor i = temps.getD i 0) ∧ OnlyParts [.pw] s t) ∧
  (∀ (s : State) (l : Nat), s.held = false → s.tripped = false → l < 2 → s.level2 l = true →
    s.cool ((halfFields l).flatMap computeSensors) 92 = true →
    Answers (.thermalLevelClear 2 l) s fun t => t.level2 l = false ∧ t.on (fEvt .therm 4) 0 = true ∧
      OnlyParts [.regs, .aux, .hi] s t ∧ RegsKeptBut (fun b i o => b = .therm ∧ i = 0 ∧ o = offEvtStatus) s t) ∧
  (∀ s : State, s.held = false → s.tripped = false → s.level1 = true →
    s.cool (List.range 248) ((s.get fAlertT 0 : Int) - 6) = true → s.cool stackSensors 89 = true →
    Answers (.thermalLevelClear 1 0) s fun t => t.level1 = false ∧ t.on (fEvt .therm 4) 0 = true ∧
      OnlyParts [.regs, .aux, .hi] s t ∧ RegsKeptBut (fun b i o => b = .therm ∧ i = 0 ∧ o = offEvtStatus) s t)

/-! ## Background work (chapter 18) -/

/-- R463: the scrub takes the next burst of a stack in address order; a corrected one is rewritten and counted, an
uncorrectable one is bad and counted; at the end of every stack a pass is counted.  R441: a calibration counts its corrections; R462: an HBM
recentring shows nothing; R465: each field's trim moves at most one step toward its monitor's wish, but for fields that ramp or are off. -/
def Obligations.ScrubCalibrationAndTrims : Prop :=
  (∀ (s : State) (addr outcome : Nat), s.bgOn = true → addr % 32 = 0 → s.populated addr = true →
    s.on fTrained (addr / slotSize) = true → s.get fSlipState (addr / slotSize) ≠ 3 →
    s.ax ⟨.scrubPos, addr / slotSize, 0⟩ = addr % slotSize / 32 → s.badBursts addr 32 = [] → outcome < 3 →
    Answers (.storeScrubBurst addr outcome) s fun t =>
      (outcome = 1 → t.get fStoreCe (addr / slotSize) = min (s.get fStoreCe (addr / slotSize) + 1) (2 ^ 32 - 1) ∧
        t.get fScrubStore 0 = min (s.get fScrubStore 0 + 1) (2 ^ 32 - 1)) ∧
      (outcome = 2 → t.storeBad = s.storeBad ++ [addr / 32] ∧ t.on (fEvt .slip 2) (addr / slotSize) = true ∧
        t.get fStoreUe (addr / slotSize) = min (s.get fStoreUe (addr / slotSize) + 1) 0xFFFF) ∧
      (t.ax ⟨.scrubPos, addr / slotSize, 0⟩ = addr % slotSize / 32 + 1 ∨
        (t.ax ⟨.scrubPos, addr / slotSize, 0⟩ = 0 ∧ t.get fPasses 0 = min (s.get fPasses 0 + 1) 0xFFFF)) ∧
      OnlyParts [.regs, .aux, .hi, .bad] s t) ∧
  (∀ (s : State) (n m : Nat), s.bgOn = true →
    Answers (.clockPhaseCal n m) s fun t => t.get fCalCount 0 = min (s.get fCalCount 0 + n) (2 ^ 32 - 1) ∧
      (s.ax ⟨.calSeen, 0, 0⟩ = 0 → t.get fCalMargin 0 = min m 65535) ∧
      OnlyParts [.regs, .aux] s t ∧ RegsKeptBut (fun b i o => b = .tele ∧ i = 0 ∧ o = 0x170) s t) ∧
  (∀ s : State, Answers .hbmRecentre s fun t => t = s) ∧
  (∀ (s : State) (want : List Nat), s.bgOn = true →
    Answers (.trimEvaluate want) s fun t =>
      (∀ f, f < 48 → s.ramps f = false → s.level3 f = false → t.trim f = trimNext (s.trim f) (want.getD f 0)) ∧
      (∀ f, (s.ramps f = true ∨ s.level3 f = true) → t.trim f = s.trim f) ∧ OnlyParts [.regs, .hi, .pw, .free] s t)

/-- R465, R466: the hours counters count, are saved and are read; R467–R469: a self-test starts, ends, and marks what it finds. -/
def Obligations.HoursAndSelfTests : Prop :=
  (∀ (s : State) (p : Nat), s.bgOn = true → s.onTiles.Nodup → p ∈ s.onTiles →
    Answers .hoursCount s fun t =>
      (s.ax ⟨.onMs, p, 0⟩ + 1 < 225000 → t.ax ⟨.onMs, p, 0⟩ = s.ax ⟨.onMs, p, 0⟩ + 1) ∧
      (225000 ≤ s.ax ⟨.onMs, p, 0⟩ + 1 → t.ax ⟨.onMs, p, 0⟩ = 0 ∧ fget (fun _ => 0) t.ft.hours (2 * p) =
        min (fget (fun _ => 0) s.ft.hours (2 * p) + 1) 0xFFFFFFFF) ∧ OnlyParts [.aux, .ft] s t) ∧
  (∀ s : State, s.bgOn = true →
    Answers .hoursSave s fun t => t.on (fEvt .tele 4) 0 = true ∧
      (newestOf s.ft.hoursA s.ft.hoursB = some 0 → t.ft.hoursA = s.ft.hoursA ∧
        t.ft.hoursB = ⟨true, if s.ft.hoursA.seq = 0xFFFFFFFE then 1 else s.ft.hoursA.seq + 1, s.ft.hours⟩) ∧
      (newestOf s.ft.hoursA s.ft.hoursB = some 1 → t.ft.hoursB = s.ft.hoursB ∧
        t.ft.hoursA = ⟨true, if s.ft.hoursB.seq = 0xFFFFFFFE then 1 else s.ft.hoursB.seq + 1, s.ft.hours⟩) ∧
      OnlyParts [.regs, .hi, .ft] s t ∧ RegsKeptBut (fun b i o => b = .tele ∧ i = 0 ∧ o = offEvtStatus) s t) ∧
  (∀ s : State, s.held = false →
    Answers .hoursDataRead s fun t => t.out = .readData (s.hoursView (s.get fHoursSel 0)) :: s.out ∧
      t.get fHoursSel 0 = (if s.on fHoursInc 0 then (s.get fHoursSel 0 + 1) % 36000 else s.get fHoursSel 0) ∧
      OnlyParts [.regs, .out] s t ∧ RegsKeptBut (fun b i o => b = .tele ∧ i = 0 ∧ o = 0x160) s t) ∧
  (∀ (s : State) (p : Nat), s.bgOn = true → s.testable p = true →
    Answers (.selftestStart p) s fun t => t.ax ⟨.selftest, p, 0⟩ = 1 ∧ OnlyParts [.aux] s t) ∧
  (∀ (s : State) (p bits : Nat), s.bgOn = true → s.ax ⟨.selftest, p, 0⟩ ≠ 0 →
    Answers (.selftestDone p bits) s fun t => t.ax ⟨.selftest, p, 0⟩ = 0 ∧
      t.get fStDone 0 = min (s.get fStDone 0 + 1) (2 ^ 32 - 1) ∧
      (bits % 256 = 0 → (∀ a, a < 2 ^ 21 → t.spByte p a = 0) ∧
        OnlyParts [.regs, .aux, .sp, .ecc, .acc, .imem, .row, .rng, .tl] s t) ∧
      (bits % 256 &&& (255 - s.crackOf p % 256) ≠ 0 → Died s t p (bits % 256) ∧
        t.get fStFail 0 = min (s.get fStFail 0 + 1) 0xFFFF ∧ t.on (fEvt .tele 1) 0 = true)) ∧
  (∀ (s : State) (src : Src) (w : Nat) (v : W64) (root : Bool), s.inTurnFor src → s.running →
    s.writeAccess src .tile w = .ok root → s.present .tile w = true → s.ax ⟨.selftest, s.phys w, 0⟩ ≠ 0 →
    Answers (.registerWrite src .tile w offEvtStatus 8 v) s fun t => t.ax ⟨.selftest, s.phys w, 0⟩ = 0 ∧
      t.get fStAborted 0 = min (s.get fStAborted 0 + 1) 0xFFFF ∧ ∀ a, a < 2 ^ 21 → t.spByte (s.phys w) a = 0)

/-- R472–R474: every 240,000 edges a sample takes the next number, which the SAMPLE window shows; while the ring is enabled and has
room it is written at TAIL, 1,024 bytes, and TAIL steps on; with no room it is lost and counted; enabling the ring sets TAIL and PHASE; a failed
write disables it with TIMEOUT. -/
def Obligations.TelemetryIsSampledIntoItsRing : Prop :=
  (∀ (s : State) (x : TeleExtra), s.bgOn = true → s.wedged = false → s.wcount % 240000 = 0 →
    Answers (.telemetrySample x) s fun t => t.ax ⟨.samples, 0, 0⟩ = s.ax ⟨.samples, 0, 0⟩ + 1 ∧
      getBits (t.rd .tele 0 0x400) 32 32 = (s.ax ⟨.samples, 0, 0⟩ + 1) % 2 ^ 32 ∧
      (s.on fTeleEn 0 = false → t.out = s.out) ∧
      (s.on fTeleEn 0 = true → (s.get fTeleTail 0 + 1) % 2 ^ s.get fTeleLog 0 = s.get fTeleHead 0 →
        t.get fTeleLost 0 = min (s.get fTeleLost 0 + 1) (2 ^ 32 - 1) ∧ t.on (fEvt .tele 0) 0 = true ∧ t.out = s.out) ∧
      (s.on fTeleEn 0 = true → (s.get fTeleTail 0 + 1) % 2 ^ s.get fTeleLog 0 ≠ s.get fTeleHead 0 →
        s.linkUp (s.get fTeleLink 0) = true →
        t.get fTeleTail 0 = (s.get fTeleTail 0 + 1) % 2 ^ s.get fTeleLog 0 ∧
        ∃ d, d.length = 1024 ∧ t.out =
          .hostWrite 0 (s.get fTeleLink 0) ((s.rd .tele 0 0x100).toNat + 1024 * s.get fTeleTail 0) d :: s.out) ∧
      OnlyParts [.regs, .aux, .hi, .out, .free] s t) ∧
  (∀ (s : State) (src : Src) (v : W64) (root : Bool), s.lets src .tele 0 root → 4 ≤ getBits v 0 4 → getBits v 0 4 ≤ 14 →
    (s.on fTeleEn 0 = true → getBits v 0 4 = s.get fTeleLog 0) →
    Answers (.teleRingEnable src v) s fun t => TookNumber s .tele 0 t ∧ t.rd .tele 0 0x108 = v &&& 0x30F ∧
      (s.on fTeleEn 0 = false → getBits v 8 1 = 1 → t.get fTeleTail 0 = 0 ∧ t.get fTelePhase 0 = 1) ∧
      OnlyParts [.regs, .seq] s t ∧
      RegsKeptBut (fun b i o => b = .tele ∧ i = 0 ∧ (o = 0x108 ∨ o = 0x110 ∨ o = offSeq)) s t) ∧
  (∀ (s : State) (n : Nat), s.bgOn = true → s.on fTeleEn 0 = true →
    Answers (.teleRingFail n) s fun t => t.on fTeleEn 0 = false ∧
      (s.get (fErrCode .tele) 0 = 0 → t.get (fErrCode .tele) 0 = eTIMEOUT ∧ t.get (fErrInfo .tele) 0 = n % 2 ^ 32) ∧
      OnlyParts [.regs, .hi] s t ∧
      RegsKeptBut (fun b i o => b = .tele ∧ i = 0 ∧ (o = 0x108 ∨ o = offErr ∨ o = offEvtStatus)) s t)

/-! ## Reset and power-on (chapter 19) -/

/-- R476, R477: RESET_N asserted clears every register, memory and queue and keeps the flash copies; released, phase PLL begins with
the straps sampled; R482: a requested module reset clears the tiles and starts again at phase PLL, keeps the arbiter's number and
the flash copies, and counts itself; R483: MGMT.RESET and the port's RESET request one. -/
def Obligations.ResetsClearAndRestart : Prop :=
  (∀ s : State, Answers .resetNAssert s fun t => t.held = true ∧ t.seq = 0 ∧ t.wcount = 0 ∧ t.hi = {} ∧ t.tl = {} ∧
      t.sp = [] ∧ t.acc = [] ∧ t.imem = [] ∧ t.store = [] ∧ t.storeFill = [] ∧ t.ft.crack = [] ∧
      t.ft.copyA = s.ft.copyA ∧ t.ft.copyB = s.ft.copyB ∧ t.ft.hoursA = s.ft.hoursA ∧ t.ft.hoursB = s.ft.hoursB ∧
      ∀ blk inst off, t.rd blk inst off = resetVal ⟨blk, inst, off⟩) ∧
  (∀ (s : State) (pos : Nat) (pv : Bool), s.held = true →
    Answers (.resetNRelease pos pv true) s fun t => t.held = false ∧ t.get fMgmtState 0 = 1 ∧ t.get fBootPhase 0 = 1 ∧
      t.get fResetKind 0 = 1 ∧ t.get fBoardPos 0 = pos % 4 ∧ t.ax ⟨.strap, 1, 0⟩ = (if pv then 1 else 0) ∧
      OnlyParts [.regs, .aux] s t) ∧
  (∀ s : State, s.held = false → s.ax ⟨.resetting, 1, 0⟩ ≠ 0 → s.ax ⟨.resetting, 1, 0⟩ < 4 →
    Answers .moduleReset s fun t => t.get fMgmtState 0 = 1 ∧ t.seq = s.seq ∧ t.wcount = 0 ∧ t.hi = {} ∧ t.tl = {} ∧
      t.sp = [] ∧ t.acc = [] ∧ t.imem = [] ∧ t.get fResetKind 0 = s.ax ⟨.resetting, 1, 0⟩ ∧
      t.get fModuleResets 0 = min (s.get fModuleResets 0 + 1) 65535 ∧ t.ax ⟨.resetting, 1, 0⟩ = 0 ∧
      t.ft.copyA = s.ft.copyA ∧ t.ft.copyB = s.ft.copyB ∧ t.ft.crack = s.ft.crack) ∧
  (∀ (s : State) (src : Src) (v : W64), s.lets src .mgmt 0 true → getBits v 0 1 = 1 → s.tooSoon = false →
    s.ax ⟨.resetting, 0, 0⟩ = 0 → s.ax ⟨.resetting, 1, 0⟩ = 0 →
    Answers (.mgmtResetGo src v) s fun t => TookNumber s .mgmt 0 t ∧ t.ax ⟨.resetting, 1, 0⟩ = 3 ∧
      OnlyParts [.regs, .aux, .seq] s t) ∧
  (∀ (s : State) (tag : Nat), s.mgmtUp = true → s.tooSoon = false → s.ax ⟨.resetting, 0, 0⟩ = 0 →
    s.ax ⟨.resetting, 1, 0⟩ = 0 →
    Answers (.mgmtReset tag) s fun t => t.ax ⟨.resetting, 1, 0⟩ = 2 ∧ t.out = .mgmt 3 tag eOK 0 :: s.out ∧
      OnlyParts [.aux, .out] s t) ∧
  (∀ (s : State) (tag : Nat), s.mgmtUp = true → s.tooSoon = true →
    Answers (.mgmtReset tag) s fun t => t.out = .mgmt 3 tag eSTATE 0 :: s.out ∧ t.aux = s.aux ∧
      (s.get (fErrCode .mgmt) 0 = 0 → t.get (fErrCode .mgmt) 0 = eSTATE))

/-- R478–R480, R440: each phase that ends well begins the next: PLL, AON with the serial number shown, the crack map from its newest
copy, the clock tree from the live repeaters, the store with each stack trained or failed, READY; with no valid copy of the crack map the
module is wedged with cause 3. -/
def Obligations.PowerOnPhasesFollow : Prop :=
  (∀ s : State, s.inPhase 1 = true → Answers .pllLock s fun t => t.get fMgmtState 0 = 2 ∧ t.get fClkState 0 = 1 ∧
      t.get fPllLock 0 = 1 ∧ OnlyParts [.regs, .free] s t ∧
      RegsKeptBut (fun b i o => (b = .clk ∧ i = 0 ∧ (o = 0x018 ∨ o = 0x100)) ∨ (b = .mgmt ∧ (i = 0 ∨ i = 1))) s t) ∧
  (∀ s : State, s.inPhase 2 = true → Answers .aonDone s fun t => t.get fMgmtState 0 = 3 ∧
      t.rd .mgmt 0 0x100 = BitVec.ofNat 64 (s.serial % 2 ^ 64) ∧
      t.rd .mgmt 0 0x108 = BitVec.ofNat 64 (s.serial / 2 ^ 64 % 2 ^ 64) ∧ OnlyParts [.regs] s t) ∧
  (∀ (s : State) (c : FlashCopy), s.inPhase 3 = true → s.ft.newCopy = some c →
    Answers .crackLoadDone s fun t => t.get fMgmtState 0 = 4 ∧
      (s.ax ⟨.resetting, 0, 0⟩ ≠ 2 → t.ft.crack = c.entries ∧ t.ft.hours = s.ft.newHours) ∧
      (s.ax ⟨.resetting, 0, 0⟩ = 2 → t.ft = s.ft) ∧ OnlyParts [.regs, .aux, .ft] s t) ∧
  (∀ s : State, s.inPhase 3 = true → s.ft.newCopy = none → s.ax ⟨.resetting, 0, 0⟩ ≠ 2 →
    Answers .crackLoadDone s fun t => Wedges s t 3 ∧ t.get fMapState 0 = 3) ∧
  (∀ s : State, s.inPhase 4 = true →
    let l := buildTree fun p => s.crackOf p % 256 / 128 = 0
    Answers .treeBuildDone s fun t => t.get fMgmtState 0 = 5 ∧ t.geo = s.geo ∧
      t.ft.tree = l.foldl (fun m n => fset id (fun _ => 0) m n.p (n.dir + 8 * treeStandby l n)) []) ∧
  (∀ (s : State) (failed : List Nat) (us : Nat), s.inPhase 6 = true →
    Answers (.storeTrainDone failed us) s fun t => t.get fMgmtState 0 = 7 ∧ t.on (fEvt .mgmt 0) 0 = true ∧
      t.get fReadyUs 0 = min us (2 ^ 32 - 1) ∧ t.ax ⟨.resetting, 0, 0⟩ = 0 ∧
      (∀ p ∈ failed, p < 48 → t.get fSlipState p = 3 ∧ t.on (fOffline p) 0 = true) ∧
      (∀ p, p < 48 → p ∉ failed → t.on fTrained p = true ∧ t.get fUnits p = gradeUnits s.grade))

/-! ## Management, I3C and TAP (chapters 19 and 20), and the rim cores' registers -/

/-- R496: the management port answers a read with the register's value and a write with OK once it is made, under the message's
tag; R497: I3C reads the four registers; R498: IDCODE is read over the TAP, and a test instruction acts only in reset. -/
def Obligations.PortsReadAndWriteRegisters : Prop :=
  (∀ (s : State) (tag off : Nat) (blk : Blk) (inst o : Nat), s.mgmtUp = true → s.reduced = false → off % 8 = 0 →
    pageOfBar0 off = some (blk, inst, o) → s.readsPlainly blk inst o →
    Answers (.mgmtRead tag off) s fun t => t.out = .mgmt 1 tag eOK (s.view blk inst o 0) :: s.out ∧ OnlyParts [.out] s t) ∧
  (∀ (s : State) (tag off : Nat) (v : W64) (blk : Blk) (inst o : Nat), s.mgmtUp = true → off % 8 = 0 →
    pageOfBar0 off = some (blk, inst, o) → s.lets .mgmt blk inst true → 0x100 ≤ o →
    (ownEff .mgmt blk inst o v).isNone → msixRange blk inst o = false → plainMask blk inst o ≠ 0 →
    Answers (.mgmtWrite tag off v) s fun t => TookNumber s blk (s.key blk inst) t ∧
      t.rd blk (s.key blk inst) o =
        (s.rd blk (s.key blk inst) o &&& ~~~plainMask blk inst o) ||| (v &&& plainMask blk inst o) ∧
      t.out = .mgmt 2 tag eOK 0 :: s.out ∧ OnlyParts [.regs, .seq, .out] s t) ∧
  (∀ s : State, Answers (.i3cRead 0) s fun t => t.out = .readData (s.rd .mgmt 0 0x018) :: s.out ∧ OnlyParts [.out] s t) ∧
  (∀ s : State, Answers (.i3cRead 2) s fun t => t.out = .readData (s.rd .pwr 0 0x110) :: s.out ∧ OnlyParts [.out] s t) ∧
  (∀ s : State, Answers (.i3cRead 3) s fun t => t.out = .readData (s.rd .crack 0 0x130) :: s.out ∧ OnlyParts [.out] s t) ∧
  (∀ s : State, Answers (.tapInstruction 1) s fun t => t.out = .readData 0x14830F5D :: s.out ∧ t.tapNow = 1 ∧
      OnlyParts [.aux, .out] s t) ∧
  (∀ (s : State) (ir : Nat), ir ≠ 1 →
    Answers (.tapInstruction ir) s fun t => t.tapNow = (if s.held then ir else 0) ∧ OnlyParts [.aux] s t)

/-- R69, R70: a running core of saggar 0 reads a register of the rim pages, whole or by half, and writes one as a register write of its own;
an address outside the I/O regions and the store faults the access. -/
def Obligations.RimCoresReachTheRegisters : Prop :=
  (∀ (s : State) (c addr width : Nat) (v : W64) (blk : Blk) (inst o : Nat), s.running → c < 32 → s.get fRimState c = 1 →
    s.get (fSaggar .rim) c = 0 → (width = 4 ∨ width = 8) → addr % width = 0 → 0x800000000000 ≤ addr →
    addr < 0x800004000000 → pageOfBar0 (addr - 0x800000000000) = some (blk, inst, o) →
    s.readsPlainly blk inst (o / 8 * 8) →
    Answers (.rimIoAccess c false addr width v) s fun t =>
      t.out = .readData (readPart o width (s.view blk inst (o / 8 * 8) 0)) :: s.out ∧ OnlyParts [.out] s t) ∧
  (∀ (s : State) (c addr : Nat) (v : W64) (blk : Blk) (inst o : Nat), s.running → c < 32 → s.get fRimState c = 1 →
    addr % 8 = 0 → 0x800000000000 ≤ addr → addr < 0x800004000000 →
    pageOfBar0 (addr - 0x800000000000) = some (blk, inst, o) →
    exec (.rimIoAccess c true addr 8 v) s = exec (.registerWrite (.rim c) blk inst o 8 v) s) ∧
  (∀ (s : State) (c addr width : Nat) (w : Bool) (v : W64), s.running → c < 32 → s.get fRimState c = 1 →
    0x30000000000 ≤ addr → ¬ (0x800000000000 ≤ addr ∧ addr < 0x800004000000) →
    ¬ (0x800100000000 ≤ addr ∧ addr < 0x800180000000) →
    Answers (.rimIoAccess c w addr width v) s fun t => t.out = .rimFault c :: s.out ∧ t.on (fEvt .rim 1) c = true ∧
      OnlyParts [.regs, .hi, .out] s t ∧ RegsKeptBut (fun b i _ => b = .rim ∧ i = c) s t)
end

