-- ==== Sys2Proof/Laws/Bits.lean ====
section
/-! SUPPORT. Fields of registers: what a field reads as after a field of the same register is written. -/

set_option Elab.async false

namespace Sys2Proof.Machine

theorem testBit_getBits (v : W64) (lo w i : Nat) :
    (getBits v lo w).testBit i = (decide (i < w) && v.getLsbD (lo + i)) := by
  simp [getBits, Nat.testBit_mod_two_pow, Nat.testBit_shiftRight, BitVec.testBit_toNat]

theorem getLsbD_bitMask (lo w i : Nat) :
    (bitMask lo w).getLsbD i = (decide (i < 64) && decide (lo ≤ i) && decide (i < lo + w)) := by
  simp only [bitMask, BitVec.getLsbD_ofNat, Nat.testBit_shiftLeft, Nat.testBit_two_pow_sub_one]
  by_cases h1 : i < 64 <;> by_cases h2 : lo ≤ i <;> simp [h1, h2]
  omega

theorem getLsbD_setBits (v : W64) (lo w x i : Nat) (hi : i < 64) :
    (setBits v lo w x).getLsbD i =
      if lo ≤ i ∧ i < lo + w then x.testBit (i - lo) else v.getLsbD i := by
  simp only [setBits, BitVec.getLsbD_or, BitVec.getLsbD_and, BitVec.getLsbD_not, getLsbD_bitMask,
    BitVec.getLsbD_ofNat, Nat.testBit_shiftLeft, Nat.testBit_mod_two_pow, hi, decide_true, Bool.true_and]
  by_cases h2 : lo ≤ i
  · by_cases h3 : i < lo + w
    · have : i - lo < w := by omega
      simp [h2, h3, this]
    · have : ¬ i - lo < w := by omega
      simp [h2, h3, this]
  · simp [h2]

/-- A field read back after it is written. -/
@[simp] theorem getBits_setBits (v : W64) (lo w x : Nat) (h : lo + w ≤ 64) :
    getBits (setBits v lo w x) lo w = x % 2 ^ w := by
  apply Nat.eq_of_testBit_eq
  intro i
  rw [testBit_getBits, Nat.testBit_mod_two_pow]
  by_cases hi : i < w
  · rw [getLsbD_setBits _ _ _ _ _ (by omega)]
    have : lo + i < lo + w := by omega
    simp [hi]
  · simp [hi]

/-- A field disjoint from the one written keeps its value. -/
theorem getBits_setBits_ne (v : W64) (lo w x lo' w' : Nat) (h : lo' + w' ≤ lo ∨ lo + w ≤ lo') (h' : lo' + w' ≤ 64) :
    getBits (setBits v lo w x) lo' w' = getBits v lo' w' := by
  apply Nat.eq_of_testBit_eq
  intro i
  rw [testBit_getBits, testBit_getBits]
  by_cases hi : i < w'
  · rw [getLsbD_setBits _ _ _ _ _ (by omega)]
    have : ¬ (lo ≤ lo' + i ∧ lo' + i < lo + w) := by omega
    simp [this]
  · simp [hi]

theorem getBits_lt (v : W64) (lo w : Nat) : getBits v lo w < 2 ^ w := Nat.mod_lt _ (Nat.two_pow_pos w)

@[simp] theorem getBits_ofNat (n : Nat) (h : n < 2 ^ 64) : getBits (BitVec.ofNat 64 n) 0 64 = n := by
  have : n < 18446744073709551616 := h
  simp [getBits, this]

@[simp] theorem getBits_zero (lo w : Nat) : getBits 0 lo w = 0 := by simp [getBits]

end Sys2Proof.Machine
end

