-- ==== Sys2Proof/Laws/Maps.lean ====
section
/-! SUPPORT. Laws of the finite maps: a read after a write, and the canonical form every operation keeps; the codes of
registers and hidden scalars tell them apart. -/

set_option Elab.async false

namespace Sys2Proof.Machine

section
variable {κ α : Type} [DecidableEq κ] (d : κ → α)

@[simp] theorem ffind_nil (k : κ) : ffind ([] : FMap κ α) k = none := rfl

@[simp] theorem fget_nil (k : κ) : fget d [] k = d k := rfl

theorem ffind_fdrop (m : FMap κ α) (k l : κ) : ffind (fdrop m k) l = if l = k then none else ffind m l := by
  induction m with
  | nil => simp [fdrop]
  | cons e m ih =>
    unfold fdrop at ih ⊢
    by_cases he : e.1 = k <;> simp only [List.filter_cons, he] <;> by_cases hl : l = k <;>
      simp_all [ffind]
    intro h; exact absurd h.symm hl

theorem ffind_fclear (p : κ → Bool) (m : FMap κ α) (l : κ) :
    ffind (fclear p m) l = if p l then none else ffind m l := by
  induction m with
  | nil => simp [fclear]
  | cons e m ih =>
    unfold fclear at ih ⊢
    by_cases he : p e.1 = true
    · simp only [List.filter_cons, he, Bool.not_true, Bool.false_eq_true, if_false, ih, ffind]
      by_cases hl : e.1 = l
      · simp [← hl, he]
      · simp [hl]
    · simp only [List.filter_cons, he, Bool.not_false, if_true, ffind, ih]
      by_cases hl : e.1 = l
      · simp [← hl, he]
      · simp [hl]

theorem ffind_finsert (c : κ → Nat) (k : κ) (v : α) (m : FMap κ α) (h : ffind m k = none) (l : κ) :
    ffind (finsert c k v m) l = if l = k then some v else ffind m l := by
  induction m with
  | nil => simp [finsert, ffind, eq_comm]
  | cons e m ih =>
    have hek : e.1 ≠ k := by intro he; simp [ffind, he] at h
    have hm : ffind m k = none := by simpa [ffind, hek] using h
    unfold finsert
    split
    · simp [ffind, eq_comm]
    · simp only [ffind, ih hm]
      by_cases hl : e.1 = l
      · have : l ≠ k := fun h => hek (hl.trans h)
        simp [hl, this]
      · simp [hl]

/-- A read after a write gives the value written, and every other key reads as before. -/
theorem fget_fset [DecidableEq α] (c : κ → Nat) (m : FMap κ α) (k l : κ) (v : α) :
    fget d (fset c d m k v) l = if l = k then v else fget d m l := by
  unfold fget fset
  by_cases hv : v = d k
  · simp only [hv, if_true, ffind_fdrop]
    by_cases hl : l = k <;> simp [hl]
  · simp only [hv, if_false]
    rw [ffind_finsert _ _ _ _ (by simp [ffind_fdrop]), ffind_fdrop]
    by_cases hl : l = k <;> simp [hl]

@[simp] theorem fget_fset_same [DecidableEq α] (c : κ → Nat) (m : FMap κ α) (k : κ) (v : α) :
    fget d (fset c d m k v) k = v := by simp [fget_fset]

theorem fget_fset_ne [DecidableEq α] (c : κ → Nat) (m : FMap κ α) {k l : κ} (v : α) (h : l ≠ k) :
    fget d (fset c d m k v) l = fget d m l := by simp [fget_fset, h]

/-- A cleared key reads as the default; the others as before. -/
theorem fget_fclear (p : κ → Bool) (m : FMap κ α) (l : κ) :
    fget d (fclear p m) l = if p l then d l else fget d m l := by
  unfold fget
  rw [ffind_fclear]
  by_cases h : p l = true <;> simp [h]

omit [DecidableEq κ] in
theorem mem_finsert (c : κ → Nat) (k : κ) (v : α) (m : FMap κ α) (x : κ × α) (h : x ∈ finsert c k v m) :
    x = (k, v) ∨ x ∈ m := by
  induction m with
  | nil => simpa [finsert] using h
  | cons y m ih =>
    unfold finsert at h
    split at h
    · simpa using h
    · rcases List.mem_cons.1 h with rfl | h
      · simp
      · rcases ih h with h | h <;> simp [h]

omit [DecidableEq κ] in
/-- A pair put at its place keeps the codes rising. -/
theorem pairwise_finsert (c : κ → Nat) (k : κ) (v : α) (m : FMap κ α)
    (hm : m.Pairwise fun a b => c a.1 < c b.1) (hk : ∀ e ∈ m, c e.1 ≠ c k) :
    (finsert c k v m).Pairwise fun a b => c a.1 < c b.1 := by
  induction m with
  | nil => simp [finsert]
  | cons e m ih =>
    rw [List.pairwise_cons] at hm
    unfold finsert
    split
    next hlt =>
      refine List.pairwise_cons.2 ⟨?_, List.pairwise_cons.2 hm⟩
      intro x hx
      rcases List.mem_cons.1 hx with rfl | hx
      · exact hlt
      · exact Nat.lt_trans hlt (hm.1 x hx)
    next hlt =>
      have hne : c e.1 ≠ c k := hk e (List.mem_cons_self ..)
      refine List.pairwise_cons.2 ⟨?_, ih hm.2 fun x hx => hk x (List.mem_cons_of_mem _ hx)⟩
      intro x hx
      rcases mem_finsert c k v m x hx with rfl | hx
      · exact by simpa using lt_of_le_of_ne (Nat.not_lt.1 hlt) hne
      · exact hm.1 x hx

/-- A write keeps the canonical form. -/
theorem fwf_fset [DecidableEq α] (c : κ → Nat) (hc : Function.Injective c) (m : FMap κ α) (k : κ) (v : α)
    (h : fwf c d m) : fwf c d (fset c d m k v) := by
  have hd : fwf c d (fdrop m k) := ⟨h.1.filter _, fun e he => h.2 e (List.mem_of_mem_filter he)⟩
  unfold fset
  split
  · exact hd
  next hv =>
    refine ⟨pairwise_finsert c k v _ hd.1 ?_, ?_⟩
    · intro e he hce
      have : e.1 ≠ k := by
        have := (List.mem_filter.1 he).2
        simpa using this
      exact this (hc hce)
    · intro e he
      rcases mem_finsert c k v _ e he with rfl | he
      · exact hv
      · exact hd.2 e he

omit [DecidableEq κ] in
/-- Clearing keys keeps the canonical form. -/
theorem fwf_fclear (c : κ → Nat) (p : κ → Bool) (m : FMap κ α) (h : fwf c d m) : fwf c d (fclear p m) :=
  ⟨h.1.filter _, fun e he => h.2 e (List.mem_of_mem_filter he)⟩

omit [DecidableEq κ] in
theorem fwf_nil (c : κ → Nat) : fwf c d [] := ⟨List.Pairwise.nil, by simp⟩

end

/-! ## The codes of keys -/

theorem blkOfCode_blkCode (b : Blk) : blkOfCode (blkCode b) = some b := by cases b <;> rfl

theorem RK.key_injective : Function.Injective RK.key := by
  intro a b h
  obtain ⟨ba, ia, oa⟩ := a
  obtain ⟨bb, ib, ob⟩ := b
  simp only [RK.key, Nat.pair_eq_pair] at h
  obtain ⟨⟨h1, h2⟩, h3⟩ := h
  have hb : some ba = some bb := by rw [← blkOfCode_blkCode ba, ← blkOfCode_blkCode bb, h1]
  cases hb
  simp [h2, h3]

theorem AuxKind.code_injective : Function.Injective AuxKind.code := by
  intro a b h
  have := congrArg AuxKind.ofNat h
  simpa [AuxKind.code, AuxKind.ofNat_ctorIdx] using this

theorem Aux.key_injective : Function.Injective Aux.key := by
  intro a b h
  obtain ⟨ka, aa, ba⟩ := a
  obtain ⟨kb, ab, bb⟩ := b
  simp only [Aux.key, Nat.pair_eq_pair] at h
  obtain ⟨⟨h1, h2⟩, h3⟩ := h
  have := AuxKind.code_injective h1
  simp [this, h2, h3]

end Sys2Proof.Machine
end

