-- ==== Sys2Proof/Laws/State.lean ====
section
/-! SUPPORT. Laws of the state: what each update does to each field, so that no proof unfolds a record update; the
canonical form, kept by every update; reads after writes of registers, hidden scalars and bytes of the store. -/

set_option Elab.async false

namespace Sys2Proof.Machine

variable (s : State)

/-! ## One lemma per field: its value after each update -/

@[simp] theorem State.apply1_pending (u : Upd) : (s.apply1 u).pending = s.pending := by cases u <;> rfl

@[simp] theorem State.apply1_seq (u : Upd) : (s.apply1 u).seq = match u with
    | .seq => s.seq + 1
    | .seqZero => 0
    | _ => s.seq := by cases u <;> rfl

@[simp] theorem State.apply1_grade (u : Upd) : (s.apply1 u).grade = match u with
    | .fuses g _ => g
    | _ => s.grade := by cases u <;> rfl

@[simp] theorem State.apply1_serial (u : Upd) : (s.apply1 u).serial = match u with
    | .fuses _ n => n
    | _ => s.serial := by cases u <;> rfl

@[simp] theorem State.apply1_regs (u : Upd) : (s.apply1 u).regs = match u with
    | .reg k v => fset RK.key resetVal s.regs k v
    | .regClear p => fclear p s.regs
    | _ => s.regs := by cases u <;> rfl

@[simp] theorem State.apply1_aux (u : Upd) : (s.apply1 u).aux = match u with
    | .aux k v => fset Aux.key (fun _ => 0) s.aux k v
    | .auxClear p => fclear p s.aux
    | _ => s.aux := by cases u <;> rfl

@[simp] theorem State.apply1_out (u : Upd) : (s.apply1 u).out = match u with
    | .out o => o :: s.out
    | _ => s.out := by cases u <;> rfl

@[simp] theorem State.apply1_free (u : Upd) : (s.apply1 u).free = match u with
    | .free => s.free + 1
    | .storeLost _ _ => s.free + 1
    | _ => s.free := by cases u <;> rfl

@[simp] theorem State.apply1_hi (u : Upd) : (s.apply1 u).hi = match u with
    | .hi f => f s.hi
    | _ => s.hi := by cases u <;> rfl

@[simp] theorem State.apply1_tl (u : Upd) : (s.apply1 u).tl = match u with
    | .tl f => f s.tl
    | _ => s.tl := by cases u <;> rfl

@[simp] theorem State.apply1_sp (u : Upd) : (s.apply1 u).sp = match u with
    | .sp a b => fset id (fun _ => 0) s.sp a b
    | .spClear f => fclear f s.sp
    | _ => s.sp := by cases u <;> rfl

@[simp] theorem State.apply1_ecc (u : Upd) : (s.apply1 u).ecc = match u with
    | .ecc a m => fset id (fun _ => 0) s.ecc a m
    | .eccClear f => fclear f s.ecc
    | _ => s.ecc := by cases u <;> rfl

@[simp] theorem State.apply1_acc (u : Upd) : (s.apply1 u).acc = match u with
    | .acc a v => fset id (fun _ => 0) s.acc a v
    | .accClear f => fclear f s.acc
    | _ => s.acc := by cases u <;> rfl

@[simp] theorem State.apply1_imem (u : Upd) : (s.apply1 u).imem = match u with
    | .imem a w => fset id (fun _ => 0) s.imem a w
    | .imemClear f => fclear f s.imem
    | _ => s.imem := by cases u <;> rfl

@[simp] theorem State.apply1_rng (u : Upd) : (s.apply1 u).rng = match u with
    | .rng a v => fset id (fun _ => 1) s.rng a v
    | _ => s.rng := by cases u <;> rfl

@[simp] theorem State.apply1_row (u : Upd) : (s.apply1 u).row = match u with
    | .row a v => fset id rowReset s.row a v
    | .rowClear f => fclear f s.row
    | _ => s.row := by cases u <;> rfl

@[simp] theorem State.apply1_wcount (u : Upd) : (s.apply1 u).wcount = match u with
    | .wcount => s.wcount + 1
    | .wzero => 0
    | _ => s.wcount := by cases u <;> rfl

@[simp] theorem State.apply1_net (u : Upd) : (s.apply1 u).net = match u with
    | .net f => f s.net
    | _ => s.net := by cases u <;> rfl

@[simp] theorem State.apply1_sl (u : Upd) : (s.apply1 u).sl = match u with
    | .sl f => f s.sl
    | _ => s.sl := by cases u <;> rfl

@[simp] theorem State.apply1_pg (u : Upd) : (s.apply1 u).pg = match u with
    | .pg f => f s.pg
    | _ => s.pg := by cases u <;> rfl

@[simp] theorem State.apply1_gl (u : Upd) : (s.apply1 u).gl = match u with
    | .gl f => f s.gl
    | _ => s.gl := by cases u <;> rfl

@[simp] theorem State.apply1_fb (u : Upd) : (s.apply1 u).fb = match u with
    | .fb f => f s.fb
    | _ => s.fb := by cases u <;> rfl

@[simp] theorem State.apply1_ft (u : Upd) : (s.apply1 u).ft = match u with
    | .ft f => f s.ft
    | _ => s.ft := by cases u <;> rfl

@[simp] theorem State.apply1_pw (u : Upd) : (s.apply1 u).pw = match u with
    | .pw f => f s.pw
    | _ => s.pw := by cases u <;> rfl

@[simp] theorem State.apply1_sg (u : Upd) : (s.apply1 u).sg = match u with
    | .sg f => f s.sg
    | _ => s.sg := by cases u <;> rfl

@[simp] theorem State.apply1_rm (u : Upd) : (s.apply1 u).rm = match u with
    | .rm f => f s.rm
    | _ => s.rm := by cases u <;> rfl

@[simp] theorem State.apply1_store (u : Upd) : (s.apply1 u).store = match u with
    | .store a b => fset id (fun _ => 0) s.store a (b ^^^ storeFillByte s.storeFill a)
    | .storeClear => []
    | .storeLost a n => fclear (fun x => a ≤ x && x < a + n) s.store
    | _ => s.store := by cases u <;> rfl

@[simp] theorem State.apply1_storeFill (u : Upd) : (s.apply1 u).storeFill = match u with
    | .storeClear => []
    | .storeLost a n => (a, n, s.free + 1) :: s.storeFill.filter fun x => !(a ≤ x.1 && x.1 + x.2.1 ≤ a + n)
    | _ => s.storeFill := by cases u <;> rfl

@[simp] theorem State.apply1_storeBad (u : Upd) : (s.apply1 u).storeBad = match u with
    | .storeBad f => f s.storeBad
    | _ => s.storeBad := by cases u <;> rfl

@[simp] theorem State.apply1_geo (u : Upd) : (s.apply1 u).geo = match u with
    | .geo g => g
    | _ => s.geo := by cases u <;> rfl

@[simp] theorem State.apply1_geoNext (u : Upd) : (s.apply1 u).geoNext = match u with
    | .geoNext g => g
    | _ => s.geoNext := by cases u <;> rfl

@[simp] theorem State.apply1_geoLive (u : Upd) : (s.apply1 u).geoLive = match u with
    | .geoLive g => g
    | _ => s.geoLive := by cases u <;> rfl

/-! ## Updates in order -/

@[simp] theorem State.applyAll_nil : s.applyAll [] = s := rfl

@[simp] theorem State.applyAll_cons (u : Upd) (us : List Upd) :
    s.applyAll (u :: us) = (s.apply1 u).applyAll us := rfl

@[simp] theorem State.applyAll_append (us vs : List Upd) :
    s.applyAll (us ++ vs) = (s.applyAll us).applyAll vs := by
  induction us generalizing s with
  | nil => rfl
  | cons u us ih => simp [ih]

/-- What every update keeps, every list of updates keeps. -/
theorem State.applyAll_induct (P : State → Prop) (us : List Upd) (h : ∀ s u, u ∈ us → P s → P (s.apply1 u))
    (hs : P s) : P (s.applyAll us) := by
  induction us generalizing s with
  | nil => exact hs
  | cons u us ih =>
    exact ih (s.apply1 u) (fun s u hu => h s u (List.mem_cons_of_mem _ hu)) (h s u (List.mem_cons_self ..) hs)

/-- No update touches the queue of commands. -/
@[simp] theorem State.applyAll_pending (us : List Upd) : (s.applyAll us).pending = s.pending :=
  s.applyAll_induct (fun t => t.pending = s.pending) us (fun t u _ h => by simp [h]) rfl

/-! ## The canonical form -/

/-- Every memory operation keeps the canonical form. -/
theorem State.Canon.apply1 {s : State} (h : s.Canon) (u : Upd) : (s.apply1 u).Canon := by
  obtain ⟨h1, h2, h3, h4, h5, h6, h7, h8, h9⟩ := h
  cases u <;> refine ⟨?_, ?_, ?_, ?_, ?_, ?_, ?_, ?_, ?_⟩ <;>
    first
    | assumption
    | exact fwf_fset _ _ RK.key_injective _ _ _ h1
    | exact fwf_fset _ _ Aux.key_injective _ _ _ h2
    | exact fwf_fset _ _ Function.injective_id _ _ _ (by assumption)
    | exact fwf_fclear _ _ _ _ (by assumption)
    | exact fwf_nil _ _
    | exact fwf_fclear (fun _ => 0) id (fun x => _ ≤ x && x < _ + _) s.store (by assumption)

/-- A list of updates keeps the canonical form. -/
theorem State.Canon.applyAll {s : State} (h : s.Canon) (us : List Upd) : (s.applyAll us).Canon :=
  s.applyAll_induct State.Canon us (fun _ u _ h => h.apply1 u) h

/-- An effect keeps the canonical form. -/
theorem State.Canon.run {s : State} (h : s.Canon) (e : Eff) : (e.run s).Canon := h.applyAll _

/-! ## Reads after writes -/

theorem State.rd_def (blk : Blk) (inst off : Nat) : s.rd blk inst off = fget resetVal s.regs ⟨blk, inst, off⟩ := rfl

/-- A register after one update. -/
@[simp] theorem State.rd_apply1 (u : Upd) (blk : Blk) (inst off : Nat) :
    (s.apply1 u).rd blk inst off = match u with
      | .reg k v => if (⟨blk, inst, off⟩ : RK) = k then v else s.rd blk inst off
      | .regClear p => if p ⟨blk, inst, off⟩ then resetVal ⟨blk, inst, off⟩ else s.rd blk inst off
      | _ => s.rd blk inst off := by
  cases u <;> simp only [State.rd_def, State.apply1_regs, fget_fset, fget_fclear]

/-- A hidden scalar after one update. -/
@[simp] theorem State.ax_apply1 (u : Upd) (a : Aux) :
    (s.apply1 u).ax a = match u with
      | .aux k v => if a = k then v else s.ax a
      | .auxClear p => if p a then 0 else s.ax a
      | _ => s.ax a := by
  cases u <;> simp only [State.ax, State.apply1_aux, fget_fset, fget_fclear]

/-- A byte of the store after a byte is written there, or elsewhere. -/
theorem State.storeByte_store (a b : Nat) (v : Byte) :
    (s.apply1 (.store a v)).storeByte b = if b = a then v else s.storeByte b := by
  unfold State.storeByte
  simp only [State.apply1_store, State.apply1_storeFill, fget_fset]
  by_cases h : b = a
  · subst h; simp
  · simp [h]

end Sys2Proof.Machine
end

