-- ==== Sys2Proof/Laws/Effects.lean ====
section
/-! SUPPORT. Laws of effects: what each combinator and each single update does when it runs. -/

set_option Elab.async false

namespace Sys2Proof.Machine

variable (s : State)

/-! ## Running an effect -/

theorem Eff.run_eq (e : Eff) : e.run s = s.applyAll (e s) := rfl

@[simp] theorem skip_run : skip.run s = s := rfl

@[simp] theorem seq_run (e f : Eff) : (e.seq f).run s = f.run (e.run s) := by
  simp [Eff.run, Eff.seq]

@[simp] theorem doAll_nil_run : (doAll []).run s = s := rfl

@[simp] theorem doAll_cons_run (e : Eff) (es : List Eff) : (doAll (e :: es)).run s = (doAll es).run (e.run s) := by
  simp [doAll]

@[simp] theorem forEach_nil_run {α : Type} (f : α → Eff) : (forEach [] f).run s = s := rfl

@[simp] theorem forEach_cons_run {α : Type} (a : α) (l : List α) (f : α → Eff) :
    (forEach (a :: l) f).run s = (forEach l f).run ((f a).run s) := by simp [forEach]

@[simp] theorem whenE_run (c : State → Bool) (e : Eff) : (whenE c e).run s = if c s then e.run s else s := by
  simp only [whenE, Eff.run]; split <;> rfl

@[simp] theorem look_run {α : Type} (f : State → α) (k : α → Eff) : (look f k).run s = (k (f s)).run s := rfl

@[simp] theorem withSome_none {α : Type} (n : Eff) (k : α → Eff) : withSome none n k = n := rfl

@[simp] theorem withSome_some {α : Type} (a : α) (n : Eff) (k : α → Eff) : withSome (some a) n k = k a := rfl

@[simp] theorem setReg_run (blk : Blk) (inst off : Nat) (v : W64) :
    (setReg blk inst off v).run s = s.apply1 (.reg ⟨blk, inst, off⟩ v) := rfl

@[simp] theorem setF_run (f : Fld) (inst x : Nat) :
    (setF f inst x).run s = s.apply1 (.reg ⟨f.blk, inst, f.off⟩ (setBits (s.rd f.blk inst f.off) f.lo f.w x)) := rfl

@[simp] theorem setAx_run (k : Aux) (v : Nat) : (setAx k v).run s = s.apply1 (.aux k v) := rfl

@[simp] theorem addSat_run (f : Fld) (inst n : Nat) :
    (addSat f inst n).run s = (setF f inst (min (s.get f inst + n) (2 ^ f.w - 1))).run s := rfl

@[simp] theorem emit_run (o : Out) : (emit o).run s = s.apply1 (.out o) := rfl
@[simp] theorem modHi_run (f : HostSt → HostSt) : (modHi f).run s = s.apply1 (.hi f) := rfl
@[simp] theorem modTl_run (f : TileSt → TileSt) : (modTl f).run s = s.apply1 (.tl f) := rfl
@[simp] theorem modNet_run (f : NetSt → NetSt) : (modNet f).run s = s.apply1 (.net f) := rfl
@[simp] theorem modSl_run (f : SlipSt → SlipSt) : (modSl f).run s = s.apply1 (.sl f) := rfl
@[simp] theorem modPg_run (f : PugSt → PugSt) : (modPg f).run s = s.apply1 (.pg f) := rfl
@[simp] theorem modGl_run (f : GlazeSt → GlazeSt) : (modGl f).run s = s.apply1 (.gl f) := rfl
@[simp] theorem modFb_run (f : FabSt → FabSt) : (modFb f).run s = s.apply1 (.fb f) := rfl
@[simp] theorem modFt_run (f : FaultSt → FaultSt) : (modFt f).run s = s.apply1 (.ft f) := rfl
@[simp] theorem modPw_run (f : PowerSt → PowerSt) : (modPw f).run s = s.apply1 (.pw f) := rfl
@[simp] theorem modSg_run (f : SagSt → SagSt) : (modSg f).run s = s.apply1 (.sg f) := rfl
@[simp] theorem modRm_run (f : RimSt → RimSt) : (modRm f).run s = s.apply1 (.rm f) := rfl

@[simp] theorem updates_run (us : List Upd) : Eff.run (fun _ => us) s = s.applyAll us := rfl

@[simp] theorem drawFree_run (k : W64 → Eff) :
    (drawFree k).run s = (k (Config.freeWord s.free)).run (s.apply1 .free) := by
  simp [drawFree, Eff.run, Eff.seq]

@[simp] theorem addFree_run (f : Fld) (inst : Nat) :
    (addFree f inst).run s = (addSat f inst (getBits (Config.freeWord s.free) 0 f.w)).run (s.apply1 .free) :=
  drawFree_run s _

end Sys2Proof.Machine
end

