-- ==== Sys2Proof/Laws/Frames.lean ====
section
/-! SUPPORT. Frames: what an effect can change at most (parts of the state, registers, hidden scalars), for every
combinator and every shared operation, and what follows for the state it leaves. -/

set_option Elab.async false

namespace Sys2Proof.Machine

/-- The parts an update changes, registers and hidden scalars apart. -/
def Upd.parts : Upd → List Component
  | .reg _ _ => []
  | .regClear _ => []
  | .aux _ _ => []
  | .auxClear _ => []
  | .seq => [.seq]
  | .seqZero => [.seq]
  | .out _ => [.out]
  | .free => [.free]
  | .hi _ => [.hi]
  | .tl _ => [.tl]
  | .sp _ _ => [.sp]
  | .spClear _ => [.sp]
  | .ecc _ _ => [.ecc]
  | .eccClear _ => [.ecc]
  | .acc _ _ => [.acc]
  | .accClear _ => [.acc]
  | .imem _ _ => [.imem]
  | .imemClear _ => [.imem]
  | .rng _ _ => [.rng]
  | .row _ _ => [.row]
  | .rowClear _ => [.row]
  | .wcount => [.wcount]
  | .wzero => [.wcount]
  | .net _ => [.net]
  | .sl _ => [.sl]
  | .pg _ => [.pg]
  | .gl _ => [.gl]
  | .fb _ => [.fb]
  | .ft _ => [.ft]
  | .pw _ => [.pw]
  | .sg _ => [.sg]
  | .rm _ => [.rm]
  | .store _ _ => [.store]
  | .storeClear => [.store]
  | .storeLost _ _ => [.store, .free]
  | .storeBad _ => [.bad]
  | .fuses _ _ => [.fuses]
  | .geo _ => [.geo]
  | .geoNext _ => [.geo]
  | .geoLive _ => [.geo]

/-- An update within given parts, registers and hidden scalars. -/
def Upd.Within (ps : List Component) (R : RK → Prop) (A : Aux → Prop) (u : Upd) : Prop :=
  (∀ p ∈ u.parts, p ∈ ps) ∧ match u with
    | .reg k _ => R k
    | .regClear p => ∀ k, p k = true → R k
    | .aux k _ => A k
    | .auxClear p => ∀ k, p k = true → A k
    | _ => True

/-- An effect that changes at most the given parts, registers and hidden scalars, whatever state it finds. -/
def Eff.Touches (ps : List Component) (R : RK → Prop) (A : Aux → Prop) (e : Eff) : Prop :=
  ∀ s, ∀ u ∈ e s, u.Within ps R A

variable {ps : List Component} {R : RK → Prop} {A : Aux → Prop}

/-! ## What follows -/

theorem Upd.Within.same {u : Upd} (h : u.Within ps R A) (s : State) (p : Component) (hp : p ∉ ps)
    (hr : p ≠ .regs) (ha : p ≠ .aux) : p.same s (s.apply1 u) := by
  have hn : p ∉ u.parts := fun hc => hp (h.1 p hc)
  cases u <;> cases p <;> simp_all [Upd.parts, Component.same]

theorem Eff.Touches.same {e : Eff} (h : e.Touches ps R A) (s : State) (p : Component) (hp : p ∉ ps)
    (hr : p ≠ .regs) (ha : p ≠ .aux) : p.same s (e.run s) := by
  refine s.applyAll_induct (fun t => p.same s t) (e s) (fun t u hu ht => ?_) ?_
  · have := (h s u hu).same t p hp hr ha
    cases p <;> simp_all [Component.same]
  · cases p <;> simp [Component.same]

/-- A register outside those an effect touches reads as before. -/
theorem Eff.Touches.rd {e : Eff} (h : e.Touches ps R A) (s : State) {blk : Blk} {inst off : Nat}
    (hk : ¬ R ⟨blk, inst, off⟩) : (e.run s).rd blk inst off = s.rd blk inst off := by
  refine s.applyAll_induct (fun t => t.rd blk inst off = s.rd blk inst off) (e s) (fun t u hu ht => ?_) rfl
  have hw := (h s u hu).2
  rw [State.rd_apply1, ← ht]
  cases u <;> simp_all
  · intro hc; exact absurd (hc ▸ hw) hk
  · intro hc; exact absurd (hw _ hc) hk

/-- A hidden scalar outside those an effect touches is as before. -/
theorem Eff.Touches.ax {e : Eff} (h : e.Touches ps R A) (s : State) {a : Aux} (hk : ¬ A a) :
    (e.run s).ax a = s.ax a := by
  refine s.applyAll_induct (fun t => t.ax a = s.ax a) (e s) (fun t u hu ht => ?_) rfl
  have hw := (h s u hu).2
  rw [State.ax_apply1, ← ht]
  cases u <;> simp_all
  · intro hc; exact absurd (hc ▸ hw) hk
  · intro hc; exact absurd (hw _ hc) hk

theorem Eff.Touches.regsKept {e : Eff} (h : e.Touches ps R A) (s : State) (named : Blk → Nat → Nat → Prop)
    (hn : ∀ blk inst off, R ⟨blk, inst, off⟩ → named blk inst off) : RegsKeptBut named s (e.run s) :=
  fun blk inst off hk => h.rd s fun hr => hk (hn blk inst off hr)

theorem fclear_none {κ α : Type} (p : κ → Bool) (m : FMap κ α) (h : ∀ k, p k = true → False) : fclear p m = m := by
  refine List.filter_eq_self.2 fun e _ => ?_
  cases hp : p e.1
  · rfl
  · exact (h _ hp).elim

/-- The frame of an effect. -/
theorem Eff.Touches.only {e : Eff} {qs : List Component} (h : e.Touches ps R A) (s : State) (hp : ∀ p ∈ ps, p ∈ qs)
    (hr : Component.regs ∈ qs ∨ ∀ k, ¬ R k) (ha : Component.aux ∈ qs ∨ ∀ k, ¬ A k) : OnlyParts qs s (e.run s) := by
  refine ⟨s.applyAll_pending _, fun p hq => ?_⟩
  by_cases h1 : p = .regs
  · subst h1
    have hr := hr.resolve_left hq
    refine s.applyAll_induct (fun t => t.regs = s.regs) (e s) (fun t u hu ht => ?_) rfl
    have hw := (h s u hu).2
    rw [State.apply1_regs]
    cases u with
    | reg k v => exact absurd hw (hr k)
    | regClear q => exact (fclear_none _ _ fun k hk => hr k (hw k hk)).trans ht
    | _ => exact ht
  · by_cases h2 : p = .aux
    · subst h2
      have ha := ha.resolve_left hq
      refine s.applyAll_induct (fun t => t.aux = s.aux) (e s) (fun t u hu ht => ?_) rfl
      have hw := (h s u hu).2
      rw [State.apply1_aux]
      cases u with
      | aux k v => exact absurd hw (ha k)
      | auxClear q => exact (fclear_none _ _ fun k hk => ha k (hw k hk)).trans ht
      | _ => exact ht
    · exact h.same s p (fun hc => hq (hp p hc)) h1 h2

theorem OnlyParts.refl (qs : List Component) (s : State) : OnlyParts qs s s :=
  ⟨rfl, fun p _ => by cases p <;> simp [Component.same]⟩

theorem OnlyParts.trans {qs : List Component} {s t u : State} (h : OnlyParts qs s t) (h' : OnlyParts qs t u) :
    OnlyParts qs s u :=
  ⟨h'.1.trans h.1, fun p hp => by
    have h1 := h.2 p hp
    have h2 := h'.2 p hp
    cases p <;> simp_all [Component.same]⟩

theorem RegsKeptBut.trans {named : Blk → Nat → Nat → Prop} {s t u : State} (h : RegsKeptBut named s t)
    (h' : RegsKeptBut named t u) : RegsKeptBut named s u := fun b i o hn => (h' b i o hn).trans (h b i o hn)

/-! ## Combinators -/

theorem Eff.Touches.mono {e : Eff} {ps' : List Component} {R' : RK → Prop} {A' : Aux → Prop}
    (h : e.Touches ps' R' A') (hp : ∀ p ∈ ps', p ∈ ps) (hR : ∀ k, R' k → R k) (hA : ∀ k, A' k → A k) :
    e.Touches ps R A := fun s u hu => by
  obtain ⟨h1, h2⟩ := h s u hu
  refine ⟨fun p hq => hp p (h1 p hq), ?_⟩
  cases u <;> simp_all

@[simp] theorem touches_skip : skip.Touches ps R A := fun _ _ h => by simp [skip] at h

@[simp] theorem touches_nil : Eff.Touches ps R A (fun _ => []) := fun _ _ h => by simp at h

@[simp] theorem touches_seq {e f : Eff} (he : e.Touches ps R A) (hf : f.Touches ps R A) : (e.seq f).Touches ps R A :=
  fun s u hu => by
    rcases List.mem_append.1 hu with h | h
    · exact he s u h
    · exact hf _ u h

@[simp] theorem touches_doAll_nil : (doAll []).Touches ps R A := touches_skip

@[simp] theorem touches_doAll_cons {e : Eff} {es : List Eff} (he : e.Touches ps R A) (h : (doAll es).Touches ps R A) :
    (doAll (e :: es)).Touches ps R A := touches_seq he h

theorem touches_doAll {es : List Eff} (h : ∀ e ∈ es, Eff.Touches ps R A e) : (doAll es).Touches ps R A := by
  induction es with
  | nil => simp
  | cons e es ih => exact touches_seq (h e (List.mem_cons_self ..)) (ih fun e he => h e (List.mem_cons_of_mem _ he))

@[simp] theorem touches_forEach {β : Type} {l : List β} {k : β → Eff} (h : ∀ b ∈ l, (k b).Touches ps R A) :
    (forEach l k).Touches ps R A := touches_doAll fun e he => by
  obtain ⟨b, hb, rfl⟩ := List.mem_map.1 he
  exact h b hb

@[simp] theorem touches_whenE {c : State → Bool} {e : Eff} (h : e.Touches ps R A) : (whenE c e).Touches ps R A :=
  fun s u hu => by
    simp only [whenE] at hu
    split at hu
    · exact h s u hu
    · simp at hu

@[simp] theorem touches_look {β : Type} {g : State → β} {k : β → Eff} (h : ∀ b, (k b).Touches ps R A) :
    (look g k).Touches ps R A := fun s => h (g s) s

/-- An effect chosen from the state it finds. -/
theorem touches_fun {k : State → Eff} (h : ∀ s, (k s).Touches ps R A) : Eff.Touches ps R A (fun s => k s s) :=
  fun s => h s s

/-- An effect that finds a state of a certain kind. -/
theorem touches_of {e : Eff} (k : State → Eff) (he : ∀ s, e s = k s s) (h : ∀ s, (k s).Touches ps R A) :
    e.Touches ps R A := fun s u hu => h s s u (he s ▸ hu)

@[simp] theorem touches_withSome {β : Type} {o : Option β} {n : Eff} {k : β → Eff} (hn : n.Touches ps R A)
    (hk : ∀ b, (k b).Touches ps R A) : (withSome o n k).Touches ps R A := by
  cases o
  · exact hn
  · exact hk _

@[simp] theorem touches_ite {c : Prop} [Decidable c] {e g : Eff} (he : e.Touches ps R A) (hg : g.Touches ps R A) :
    Eff.Touches ps R A (if c then e else g) := by
  split
  · exact he
  · exact hg

@[simp] theorem touches_list {us : List Upd} (h : ∀ u ∈ us, u.Within ps R A) : Eff.Touches ps R A (fun _ => us) :=
  fun _ => h

@[simp] theorem touches_drawFree {k : W64 → Eff} (h0 : Component.free ∈ ps) (h : ∀ w, (k w).Touches ps R A) :
    (drawFree k).Touches ps R A := fun s =>
  touches_seq (touches_list (by simpa [Upd.Within, Upd.parts] using h0)) (h _) s

/-! ## Single updates -/

@[simp] theorem touches_setReg {blk : Blk} {inst off : Nat} {v : W64} (h : R ⟨blk, inst, off⟩) :
    (setReg blk inst off v).Touches ps R A := fun _ u hu => by
  simp only [setReg, List.mem_singleton] at hu; subst hu; exact ⟨by simp [Upd.parts], h⟩

@[simp] theorem touches_setF {f : Fld} {inst x : Nat} (h : R ⟨f.blk, inst, f.off⟩) :
    (setF f inst x).Touches ps R A := fun _ u hu => by
  simp only [setF, List.mem_singleton] at hu; subst hu; exact ⟨by simp [Upd.parts], h⟩

@[simp] theorem touches_addSat {f : Fld} {inst n : Nat} (h : R ⟨f.blk, inst, f.off⟩) :
    (addSat f inst n).Touches ps R A := fun s => touches_setF (f := f) (x := min (s.get f inst + n) (2 ^ f.w - 1)) h s

@[simp] theorem touches_addFree {f : Fld} {inst : Nat} (h0 : Component.free ∈ ps) (h : R ⟨f.blk, inst, f.off⟩) :
    (addFree f inst).Touches ps R A := touches_drawFree h0 fun _ => touches_addSat h

@[simp] theorem touches_setAx {k : Aux} {v : Nat} (h : A k) : (setAx k v).Touches ps R A := fun _ u hu => by
  simp only [setAx, List.mem_singleton] at hu; subst hu; exact ⟨by simp [Upd.parts], h⟩

@[simp] theorem touches_emit {o : Out} (h : Component.out ∈ ps) : (emit o).Touches ps R A := fun _ u hu => by
  simp only [emit, List.mem_singleton] at hu; subst hu; simp [Upd.Within, Upd.parts, h]

/-- One update, whatever the state. -/
theorem touches_upd {u : Upd} (h : u.Within ps R A) : Eff.Touches ps R A (fun _ => [u]) := fun _ v hv => by
  simp only [List.mem_singleton] at hv; subst hv; exact h

@[simp] theorem touches_modHi {f : HostSt → HostSt} (h : Component.hi ∈ ps) : (modHi f).Touches ps R A := touches_upd (by simp [Upd.Within, Upd.parts, h])
@[simp] theorem touches_modTl {f : TileSt → TileSt} (h : Component.tl ∈ ps) : (modTl f).Touches ps R A := touches_upd (by simp [Upd.Within, Upd.parts, h])
@[simp] theorem touches_modNet {f : NetSt → NetSt} (h : Component.net ∈ ps) : (modNet f).Touches ps R A := touches_upd (by simp [Upd.Within, Upd.parts, h])
@[simp] theorem touches_modSl {f : SlipSt → SlipSt} (h : Component.sl ∈ ps) : (modSl f).Touches ps R A := touches_upd (by simp [Upd.Within, Upd.parts, h])
@[simp] theorem touches_modPg {f : PugSt → PugSt} (h : Component.pg ∈ ps) : (modPg f).Touches ps R A := touches_upd (by simp [Upd.Within, Upd.parts, h])
@[simp] theorem touches_modGl {f : GlazeSt → GlazeSt} (h : Component.gl ∈ ps) : (modGl f).Touches ps R A := touches_upd (by simp [Upd.Within, Upd.parts, h])
@[simp] theorem touches_modFb {f : FabSt → FabSt} (h : Component.fb ∈ ps) : (modFb f).Touches ps R A := touches_upd (by simp [Upd.Within, Upd.parts, h])
@[simp] theorem touches_modFt {f : FaultSt → FaultSt} (h : Component.ft ∈ ps) : (modFt f).Touches ps R A := touches_upd (by simp [Upd.Within, Upd.parts, h])
@[simp] theorem touches_modPw {f : PowerSt → PowerSt} (h : Component.pw ∈ ps) : (modPw f).Touches ps R A := touches_upd (by simp [Upd.Within, Upd.parts, h])
@[simp] theorem touches_modSg {f : SagSt → SagSt} (h : Component.sg ∈ ps) : (modSg f).Touches ps R A := touches_upd (by simp [Upd.Within, Upd.parts, h])
@[simp] theorem touches_modRm {f : RimSt → RimSt} (h : Component.rm ∈ ps) : (modRm f).Touches ps R A := touches_upd (by simp [Upd.Within, Upd.parts, h])

/-! ## Shared operations -/

/-- R36: an event bit set changes EVT_STATUS of its page and the events that wait. -/
@[simp] theorem touches_setEvtI {blk : Blk} {inst bit info : Nat} (h : R ⟨blk, inst, offEvtStatus⟩)
    (hh : Component.hi ∈ ps) : (setEvtI blk inst bit info).Touches ps R A := fun s u hu => by
  simp only [setEvtI] at hu
  split at hu
  · simp at hu
  · rcases List.mem_append.1 hu with hu | hu
    · exact touches_setF (f := fEvt blk bit) h s u hu
    · split at hu
      · simp only [List.mem_singleton] at hu; subst hu; simp [Upd.Within, Upd.parts, hh]
      · simp at hu

@[simp] theorem touches_setEvt {blk : Blk} {inst bit : Nat} (h : R ⟨blk, inst, offEvtStatus⟩)
    (hh : Component.hi ∈ ps) : (setEvt blk inst bit).Touches ps R A := touches_setEvtI h hh

/-- R35: an error recorded changes ERR and EVT_STATUS of its page and the events that wait. -/
@[simp] theorem touches_recordErr {blk : Blk} {inst code info : Nat} (h : R ⟨blk, inst, offErr⟩)
    (h' : R ⟨blk, inst, offEvtStatus⟩) (hh : Component.hi ∈ ps) : (recordErr blk inst code info).Touches ps R A :=
  fun s u hu => by
    simp only [recordErr] at hu
    split at hu
    · exact touches_doAll_cons (touches_setF (f := fErrCode blk) h) (touches_doAll_cons
        (touches_setF (f := fErrCount blk) h) (touches_doAll_cons (touches_setF (f := fErrInfo blk) h)
        (touches_doAll_cons (touches_setEvt h' hh) touches_doAll_nil))) s u hu
    · exact touches_addSat (f := fErrCount blk) h s u hu

@[simp] theorem touches_recordErrFree {blk : Blk} {inst code : Nat} (h : R ⟨blk, inst, offErr⟩)
    (h' : R ⟨blk, inst, offEvtStatus⟩) (hh : Component.hi ∈ ps) (hf : Component.free ∈ ps) :
    (recordErrFree blk inst code).Touches ps R A := touches_drawFree hf fun _ => touches_recordErr h h' hh

/-- R429: a denial changes DENY_COUNT, DENY_FIRST and EVT_STATUS of the SAGGAR page. -/
@[simp] theorem touches_deny {point pres own wher : Nat} {owned : Bool} (h : ∀ off, R ⟨.saggar, 0, off⟩)
    (hh : Component.hi ∈ ps) : (deny point pres own owned wher).Touches ps R A := by
  unfold deny
  simp (maxDischargeDepth := 20) [h, hh, fDenyCount]

/-- R46: acceptance of a write changes the sequence number and the page's SEQ. -/
@[simp] theorem touches_acceptWrite {blk : Blk} {inst : Nat} (h : ∀ key, R ⟨blk, key, offSeq⟩) (hs : Component.seq ∈ ps) :
    (acceptWrite blk inst).Touches ps R A := fun s u hu => by
  simp only [acceptWrite] at hu
  split at hu
  · simp at hu
  · simp only [List.mem_cons, List.not_mem_nil, or_false] at hu
    rcases hu with rfl | rfl <;> simp [Upd.Within, Upd.parts, hs, h]

/-- R66: a write to host memory leaves, or its loss is met. -/
@[simp] theorem touches_hostWriteOr {f l a : Nat} {data : List Byte} {lost : Eff} (ho : Component.out ∈ ps)
    (h : lost.Touches ps R A) : (hostWriteOr f l a data lost).Touches ps R A := fun s u hu => by
  simp only [hostWriteOr] at hu
  split at hu
  · simp only [List.mem_singleton] at hu; subst hu; simp [Upd.Within, Upd.parts, ho]
  · exact h s u hu

/-- R66: a write to host memory leaves, or TIMEOUT is recorded in the page that issued it. -/
@[simp] theorem touches_hostWrite {blk : Blk} {inst f l a : Nat} {data : List Byte} (h : R ⟨blk, inst, offErr⟩)
    (h' : R ⟨blk, inst, offEvtStatus⟩) (hh : Component.hi ∈ ps) (hf : Component.free ∈ ps) (ho : Component.out ∈ ps) :
    (hostWrite blk inst f l a data).Touches ps R A := touches_hostWriteOr ho (touches_recordErrFree h h' hh hf)

@[simp] theorem touches_msixDue {f v : Nat} (h : R ⟨.host, f, 0x900⟩) (ho : Component.out ∈ ps) :
    (msixDue f v).Touches ps R A := fun s u hu => by
  simp only [msixDue] at hu
  split at hu
  · simp only [List.mem_singleton] at hu; subst hu; simp [Upd.Within, Upd.parts, ho]
  · exact touches_setF (f := fPba v) h s u hu

/-- R55: a completion posted changes the function's mailbox page, the PBA and what is sent. -/
@[simp] theorem touches_mbxPost {f m code tag seq : Nat} {v : W64} (h : ∀ i off, R ⟨.host, i, off⟩)
    (hh : Component.hi ∈ ps) (ho : Component.out ∈ ps) : (mbxPost f m code v tag seq).Touches ps R A :=
  fun s u hu => by
    simp only [mbxPost] at hu
    split at hu
    · simp at hu
    · refine (?_ : (doAll _).Touches ps R A) s u hu
      simp (maxDischargeDepth := 20) [h, hh, ho, fMbxPending, fMbxCode, fMbxSeq, fMbxValid]

/-- R54: a command that completes changes the commands under way and its function's pages. -/
@[simp] theorem touches_finish {r : Running} {code : Nat} {v : W64} (h : ∀ i off, R ⟨.host, i, off⟩)
    (hh : Component.hi ∈ ps) (ho : Component.out ∈ ps) : (finish r code v).Touches ps R A := by
  unfold finish; simp (maxDischargeDepth := 20) [h, hh, ho]

@[simp] theorem touches_finishAll {blk : Blk} {inst op code : Nat} {v : W64} (h : ∀ i off, R ⟨.host, i, off⟩)
    (hh : Component.hi ∈ ps) (ho : Component.out ∈ ps) : (finishAll blk inst op code v).Touches ps R A := by
  unfold finishAll; simp (maxDischargeDepth := 20) [h, hh, ho]

/-- R51: a ring that lost its host is disabled, its fetch ends, TIMEOUT is recorded. -/
@[simp] theorem touches_ringLost {f n i : Nat} (h : ∀ i off, R ⟨.host, i, off⟩) (ha : A ⟨.ringFetch, f, n⟩)
    (hh : Component.hi ∈ ps) : (ringLost f n i).Touches ps R A := by
  unfold ringLost; simp (maxDischargeDepth := 20) [h, ha, hh, fRingEnable]

@[simp] theorem touches_writeBack {c : CmdCtx} {w : Nat} (h : ∀ i off, R ⟨.host, i, off⟩) (ha : A ⟨.ringFetch, c.func, c.ring⟩)
    (hh : Component.hi ∈ ps) (ho : Component.out ∈ ps) : (writeBack c w).Touches ps R A :=
  fun s => touches_hostWriteOr ho (touches_ringLost h ha hh) s

end Sys2Proof.Machine
end

