-- ==== Sys2Proof/Laws/Access.lean ====
section
/-! SUPPORT. Laws of the arbiter: what becomes of a register write and of a command entry, case by case. -/

set_option Elab.async false

namespace Sys2Proof.Machine

variable {s : State}

/-- The state in which an accepted write's register acts: the number taken and shown in the page. -/
def State.numbered (s : State) (blk : Blk) (key : Nat) : State :=
  (s.apply1 .seq).apply1 (.reg ⟨blk, key, offSeq⟩ (BitVec.ofNat 64 (s.seq + 1)))

@[simp] theorem numbered_seq (blk : Blk) (key : Nat) : (s.numbered blk key).seq = s.seq + 1 := rfl

@[simp] theorem numbered_rd (blk : Blk) (key : Nat) (b : Blk) (i o : Nat) :
    (s.numbered blk key).rd b i o =
      if b = blk ∧ i = key ∧ o = offSeq then BitVec.ofNat 64 (s.seq + 1) else s.rd b i o := by
  simp [State.numbered]

@[simp] theorem numbered_ax (blk : Blk) (key : Nat) (a : Aux) : (s.numbered blk key).ax a = s.ax a := rfl

theorem numbered_only {blk : Blk} {key : Nat} {qs : List Component} (hr : Component.regs ∈ qs) (hs : Component.seq ∈ qs) :
    OnlyParts qs s (s.numbered blk key) :=
  ⟨rfl, fun p hp => by cases p <;> first | exact absurd hr hp | exact absurd hs hp | exact ⟨rfl, rfl⟩ | exact ⟨rfl, rfl, rfl⟩ | rfl⟩

theorem numbered_kept {blk : Blk} {key : Nat} {named : Blk → Nat → Nat → Prop} (h : named blk key offSeq) :
    RegsKeptBut named s (s.numbered blk key) := fun b i o hn => by
  rw [numbered_rd, if_neg]
  rintro ⟨rfl, rfl, rfl⟩
  exact hn h

/-- A register's effect that leaves the sequence number and the page's SEQ alone: the write took its number. -/
theorem tookNumber {blk : Blk} {key : Nat} {e : Eff} {ps : List Component} {R : RK → Prop} {A : Aux → Prop}
    (he : e.Touches ps R A) (hp : Component.seq ∉ ps) (hr : ¬ R ⟨blk, key, offSeq⟩) :
    TookNumber s blk key (e.run (s.numbered blk key)) :=
  ⟨(he.same _ .seq hp (by simp) (by simp)).trans rfl, by rw [he.rd _ hr]; simp⟩

theorem lets_listed {src : Src} {blk : Blk} {inst : Nat} {root : Bool} (h : s.lets src blk inst root) :
    pageListed blk inst = true := by
  have := h.2.2.1
  unfold State.present at this
  simp only [Bool.and_eq_true] at this
  exact this.1.1

/-- A write in turn. -/
theorem inTurn_run {src : Src} {i : Instr} {e : Eff} (h : s.inTurnFor src) : (inTurn src i e).run s = e.run s := by
  have : (s.sg.waiting.any fun w => decide (w.1 = src)) = false := by
    rw [List.any_eq_false]
    intro w hw
    simpa using h w hw
  simp [inTurn, Eff.run, this]

/-- A write that reaches no page changes nothing. -/
theorem regWrite_ignored {src : Src} {blk : Blk} {inst off width : Nat} {check : Bool → State → Option WErr}
    {act : Bool → Eff} (h : s.writeAccess src blk inst = .ignored) :
    (regWrite src blk inst off width check act).run s = s := by
  simp [regWrite, Eff.run, h]

/-- A denied write is recorded, and is a denial (R45, R70, R429). -/
theorem regWrite_denied {src : Src} {blk : Blk} {inst off width : Nat} {check : Bool → State → Option WErr}
    {act : Bool → Eff} {b : Blk} {i info pres own wher : Nat}
    (h : s.writeAccess src blk inst = .denied b i info pres own wher) :
    (regWrite src blk inst off width check act).run s =
      (doAll [recordErr b i eSAGGAR info, deny 2 pres own true wher]).run s := by
  simp only [regWrite, Eff.run, h]

/-- A write to an absent page takes its number and changes nothing (R34). -/
theorem regWrite_absent {src : Src} {blk : Blk} {inst off width : Nat} {check : Bool → State → Option WErr}
    {act : Bool → Eff} {root : Bool} (h : s.writeAccess src blk inst = .ok root) (hp : s.present blk inst = false)
    (hr : s.running) : (regWrite src blk inst off width check act).run s = s.apply1 .seq := by
  simp [regWrite, Eff.run, h, hp, hr.2.1, hr.2.2]

/-- A 64-bit write its register refuses is recorded in the page. -/
theorem regWrite_refused {src : Src} {blk : Blk} {inst off : Nat} {check : Bool → State → Option WErr}
    {act : Bool → Eff} {root : Bool} {e : WErr} (h : s.writeAccess src blk inst = .ok root)
    (hp : s.present blk inst = true) (ho : off % 8 = 0) (hc : check root s = some e) :
    (regWrite src blk inst off 8 check act).run s = (recordW blk (s.key blk inst) e).run s := by
  simp [regWrite, Eff.run, h, hp, ho, hc]

/-- A 64-bit write its register accepts takes its number and acts. -/
theorem regWrite_accepted {src : Src} {blk : Blk} {inst off : Nat} {check : Bool → State → Option WErr}
    {act : Bool → Eff} {root : Bool} (h : s.lets src blk inst root) (ho : off % 8 = 0) (hc : check root s = none) :
    (regWrite src blk inst off 8 check act).run s = (act root).run (s.numbered blk (s.key blk inst)) := by
  obtain ⟨_, ha, hp, hr, hq⟩ := h
  have h1 : (withSome (computeTile blk (s.key blk inst)) skip selftestStop).run s = s := by
    cases hk : computeTile blk (s.key blk inst) with
    | none => rfl
    | some p => simp [selftestStop, hq p hk]
  have h2 : (acceptWrite blk inst).run s = s.numbered blk (s.key blk inst) := by
    simp [acceptWrite, Eff.run, hr.2.1, hr.2.2, State.numbered]
  have : regWrite src blk inst off 8 check act s =
      doAll [withSome (computeTile blk (s.key blk inst)) skip selftestStop, acceptWrite blk inst, act root] s := by
    simp [regWrite, ha, hp, ho, hc]
  rw [Eff.run, this]
  show Eff.run _ s = _
  simp [h1, h2]

/-- The same, from the arbiter's queue. -/
theorem write_accepted {src : Src} {i : Instr} {blk : Blk} {inst off : Nat} {check : Bool → State → Option WErr}
    {act : Bool → Eff} {root : Bool} (h : s.lets src blk inst root) (ho : off % 8 = 0) (hc : check root s = none) :
    (inTurn src i (regWrite src blk inst off 8 check act)).run s =
      (act root).run (s.numbered blk (s.key blk inst)) := by
  rw [inTurn_run h.1, regWrite_accepted h ho hc]

end Sys2Proof.Machine
end

