-- ==== Sys2Proof/WellFormed.lean ====
section
/-! DEFINITION. Well-formed commands: every operand that names a thing of the module names one there is, and every value fits the
field that carries it.  A command that is not well formed is no happening the spec describes. -/

namespace Sys2Proof

/-- The pages of a block type (Tables 02-4, 02-7, 02-8). -/
def Blk.lists (b : Blk) (n : Nat) : Bool :=
  match b with
  | .mgmt | .pwr => n < 2
  | .arb | .therm | .tele | .crack | .saggar => n < 1
  | .clk | .blink => n < 3
  | .kiln => n < 256
  | .slip | .glaze => n < 48
  | .pug | .fab => n < 16
  | .host => n < 128 || n = 256 || n = 257
  | .rim => n < 36
  | .sem => n < 64
  | .tile | .vec | .tdma | .router => n < 34560
  | .core => n < 138240

/-- A source of register accesses: 64 functions on two host links, 32 rim cores, the management port (R46). -/
def Src.wf : Src → Bool
  | .host f l => f < 64 && l < 2
  | .rim c => c < 32
  | .mgmt => true

/-- Who posted a command: a function, one of its four rings, an entry of at most 4,096, one of 64 mailboxes, a tag of 32
bits (R49, R50). -/
def CmdCtx.wf (c : CmdCtx) : Bool :=
  c.func < 64 && c.ring < 4 && c.idx < 4096 && c.mailbox < 64 && c.userTag < 2 ^ 32

/-- A change of a function's MSI-X: a vector of sixteen, or the configuration space on one of two links. -/
def MsixChange.wf : MsixChange → Bool
  | .vec v => v < 16
  | .func l _ _ => l < 2

/-- A frame's fields (Table 14-3). -/
def Frame.wf (f : Frame) : Bool :=
  f.da < 2 ^ 48 && f.etype < 2 ^ 16 && f.ver < 16 && f.cls < 16 && f.typ < 256 && f.src < 4096 && f.dst < 4096 &&
  f.seq < 2 ^ 32 && f.msg < 2 ^ 16 && f.moff < 2 ^ 32 && f.mlen < 2 ^ 32 && f.payload.length < 2 ^ 16

/-- A source of lines (R259). -/
def LineSrc.wf : LineSrc → Bool
  | .route t e => t < 34560 && e < 6
  | .stream p c e => p < 48 && c < 16 && e < 4096
  | .comb t k => t < 34560 && k < 16
  | .dma t => t < 34560

/-- A tile, a slip port, a link port, a physical index, an engine. -/
def isTile (t : Nat) : Bool := t < 34560
def isPort (p : Nat) : Bool := p < 48
def isLink (q : Nat) : Bool := q < 19
def isPhys (p : Nat) : Bool := p < 36000
def isEngine (e : Nat) : Bool := e < 6

/-- A command's arguments. -/
def isArgs (a : List W64) : Bool := a.length ≤ 6

/-- A command is well formed. -/
def Instr.wf : Instr → Bool
  | .geomBuildStart | .geomSwap | .distDataRead | .copyDone => true
  | .distCopy s _ => s.wf
  | .distCopyWriteFail off => off < 6635584
  | .registerWrite s b n off w _ => s.wf && b.lists n && off < 0x1000 && (w = 1 || w = 2 || w = 4 || w = 8)
  | .errClear s b n => s.wf && b.lists n
  | .eventAdmit _ | .hostSemSignal _ | .tileSignalArrive _ => true
  | .evtRingWriteFail f i => f < 64 && i < 16384
  | .evtRingEnable s f _ => s.wf && f < 64
  | .saggarRegisterWrite s b n _ => s.wf && b.lists n
  | .funcBindWrite s _ => s.wf
  | .vfActiveChange h n _ => h < 2 && n < 64
  | .ringEnable s f n _ => s.wf && f < 64 && n < 4
  | .doorbell s f n _ => s.wf && f < 64 && n < 4
  | .cmdEntryFetched f n ws => f < 64 && n < 4 && ws.length = 8
  | .ringPcieFail f n i => f < 64 && n < 4 && i < 4096
  | .cmdAdmit f n | .fenceComplete f n => f < 64 && n < 4
  | .nop c | .fence c => c.wf
  | .mbxAck s f m _ => s.wf && f < 64 && m < 64
  | .functionLevelReset f => f < 64
  | .semSignal s f _ => s.wf && f < 64
  | .hsemTake s f i _ => s.wf && f < 64 && i < 64
  | .hostLinkDown h | .hostPerstRelease h | .hostLinkReset h => h < 2
  | .hostLinkUp h _ w _ => h < 2 && w ≤ 16
  | .rimStart c n a | .rimReset c n a | .rimFlush c n a => c.wf && n < 36 && isArgs a
  | .rimHalt c n a _ => c.wf && n < 36 && isArgs a
  | .rimWfi w => w.core < 32 && w.mie < 2 ^ 64
  | .rimTimerInterrupt c => c < 32
  | .rimDoorbell s c _ => s.wf && c < 32
  | .msipWrite s c _ _ => s.wf && c < 32
  | .rimIoAccess c _ a w _ => c < 32 && a < 2 ^ 56 && (w = 1 || w = 2 || w = 4 || w = 8)
  | .rimStoreAccess c a n d => c.core < 32 && c.l2 < 3 && a < 2 ^ 48 && 1 ≤ n && n ≤ 64 && (d.map fun l => l.length).getD n = n
  | .seqDispatch t | .waitSatisfied t | .loop t | .loopEnd t | .cmpset t | .branch t | .swap t | .bankSwap t | .halt t
  | .tileHalted t | .endProg t | .tilePark t | .drain t | .drainComplete t | .tileFlushDone t | .vop t | .vsetvl t
  | .vseed t | .dma t | .imemDataHiRead t | .tileWakeDone t => isTile t
  | .engineInstrIssue t e | .engineInstrComplete t e => isTile t && isEngine e
  | .engineExecError t e code => isTile t && isEngine e && code < 256
  | .wait t e | .signal t e => isTile t && e < 7
  | .qcfgWrite s t q _ => s.wf && isTile t && q < 14
  | .imemDataHiWrite s t _ | .shadowReadySet s t _ | .hDoorbell s t _ | .hCfgEnable s t _ | .tdmaRingStop s t _
  | .tdmaRingResume s t _ | .spInject s t _ => s.wf && isTile t
  | .mma t c | .accwb t c | .smma24 t c | .smmau t c | .smmab t c => isTile t && c < 4
  | .dmaDescriptorStart t r b _ _ => isTile t && r < 2 && b.length ≤ 32
  | .dmaDescriptorComplete t r => isTile t && r < 2
  | .dmaRemoteResponse _ | .routerForward _ | .packetDeliver _ | .creditReceived _ | .noticeReceived _ => true
  | .tdmaHostFail t i => isTile t && i < 4096
  | .requestUrgent t r sl => isTile t && r < 7 && sl < 12
  | .scrubForced t sl ln | .sramScrubLine t sl ln => isTile t && sl < 12 && ln < 2048
  | .lineAccept s => s.wf
  | .combStep t k => isTile t && k < 16
  | .stackTempSample p _ | .edgeWrite p | .edgeRead p | .combExitForward p | .shadowOpen p | .commitTimeout p
  | .mirrorTimeout p => isPort p
  | .storeReadTimeout tag | .segReadTimeout tag => tag < 2 ^ 16
  | .streamEntryStart p c | .gatherStart p c => isPort p && c < 16
  | .streamEnd p c e => isPort p && c < 16 && e < 4096
  | .gatherTimeout p w => isPort p && w < 8
  | .xferTimeout p i => isPort p && i < 16
  | .bar4Read h off n => h < 2 && off + n ≤ 2 ^ 36
  | .bar4Write h off d => h < 2 && off + d.length ≤ 2 ^ 36
  | .slipMapWrite s p r _ => s.wf && isPort p && r < 8
  | .pugCombReceive u f => u < 16 && f < 32
  | .bucketStageAdvance j b | .bucketDone j b | .stageTimeout j b => j < 256 && b < 2 ^ 16
  | .abortStep c n a => c.wf && n < 16 && isArgs a
  | .gjobWrite s p _ => s.wf && isPort p
  | .glazeRangeUpdate p r | .glazeRangeAccepted p r => isPort p && r < 4096
  | .voteResend j | .commitResend j | .mirrorSyncDone j => j < 256
  | .mirrorSync c n a => c.wf && n < 48 && isArgs a
  | .load c k a | .start c k a | .step c k a | .stop c k a | .abort c k a | .swapOut c k a | .swapIn c k a
  | .unload c k a => c.wf && k < 256 && isArgs a
  | .kilnLoadDone k | .kilnArmed k | .kilnStepBoundary k | .swapOutDone k | .swapInDone k => k < 256
  | .linkEnable s q _ | .linkDisable s q _ => s.wf && isLink q
  | .retrain c b n a => c.wf && (b = .fab || b = .blink) && b.lists n && isArgs a
  | .linkTrainDone q ok _ _ => isLink q && ok < 2 ^ 16
  | .linkTrainTimeout q | .linkLoss q | .linkAutoRetrain q | .heartbeat q | .ack q | .nak q | .record q
  | .abortBroadcastReceive q | .vote q | .commit q | .commitAck q | .segReq q | .segServeStart q | .segData q => isLink q
  | .hello q m p l g => isLink q && m < 4096 && p < 4 && l < 3 && g < 4
  | .frameReceive q f => isLink q && f.wf
  | .heartbeatTick | .mwrite | .mhdr => true
  | .ackTimeout q m c => isLink q && m < 4096 && c < 4
  | .segServeDone q i => isLink q && i < 64
  | .pauseFrame q p _ => isLink q && p < 8
  | .pair c a | .unpair c a | .promote c a | .shift c a | .persist c a => c.wf && isArgs a
  | .pairReceive | .pairAck | .pairTimeout | .unpairReceive | .unpairAck | .promoteDone | .shiftPublish | .autoPersist => true
  | .persistGo s _ | .entryDataWrite s _ | .storeWindowCommit s _ | .teleRingEnable s _ | .mgmtResetGo s _ => s.wf
  | .persistDone _ | .entryDataRead | .arbiterStallTimeout | .rimInterconnectUe => true
  | .computeWatchdog p | .vecResidueMismatch p | .neighbourWatchExpire p | .repeaterClockLoss p | .selftestStart p => isPhys p
  | .coreResidueMismatch p c => isPhys p && c < 4
  | .selftestDone p b => isPhys p && b < 256
  | .jobOwnerWrite s j _ => s.wf && j < 256
  | .kilnSaggarWrite s k _ => s.wf && k < 256
  | .waferChangeInstall | .waferChangeSettle _ | .pllUnlock | .pllRelock | .pllRelockTimeout => true
  | .dividerSwitch h => h < 2
  | .supplySwitchover _ | .supplySample .. | .wakeGrant => true
  | .sleep c n a | .wake c n a => c.wf && n < 2 && isArgs a
  | .thermalSample ts => ts.length ≤ 296
  | .thermalLevelClear l sc => 1 ≤ l && l ≤ 3 && sc ≤ 48
  | .storeScrubBurst a o => a < 2 ^ 48 && o < 3
  | .clockPhaseCal .. | .hbmRecentre => true
  | .trimEvaluate w => w.length ≤ 48
  | .hoursCount | .hoursSave | .hoursDataRead => true
  | .telemetrySample _ | .teleRingFail _ => true
  | .resetNAssert | .pllLock | .pllLockTimeout | .aonDone | .crackLoadDone | .treeBuildDone | .moduleReset => true
  | .resetNRelease p _ _ => p < 4
  | .storeTrainDone f _ => f.all fun p => p < 48
  | .mgmtRead t off => t < 2 ^ 16 && off < 2 ^ 32
  | .mgmtWrite t off _ => t < 2 ^ 16 && off < 2 ^ 32
  | .mgmtReset t => t < 2 ^ 16
  | .i3cRead i => i < 256
  | .tapInstruction i => i < 256
  | .rimFlushDone k => k < 36
  | .msixUnmask f c => f < 64 && c.wf
  | .fieldRampEnd f => f < 48
  | .bothInputsConduct _ => true

end Sys2Proof
end

