-- ==== Sys2Proof/Laws/PerInstr.lean ====
section
/-! SUPPORT. Per command: a well-formed command that writes a register names a page of Tables 02-7 and 02-8, and a source that
there is. -/

set_option Elab.async false

namespace Sys2Proof.Laws.Operands

open Sys2Proof.Machine

/-- What is said of each command as syntax. -/
def Statement (i : Instr) : Prop :=
  i.wf = true → ∀ src blk inst, writesPage i = some (src, blk, inst) → src.wf = true ∧ pageListed blk inst = true

/-- The two readings of the page tables agree. -/
theorem lists_pageListed {b : Blk} {n : Nat} (h : b.lists n = true) : pageListed b n = true := by
  cases b <;> simp_all [Blk.lists, pageListed]

/-- The page of a link port is there. -/
theorem linkListed {q : Nat} (h : q < 19) : pageListed (lkBlk q) (lkInst q) = true := by
  unfold lkBlk lkInst
  split <;> simp [pageListed] <;> omega

theorem geomBuildStart : Statement .geomBuildStart := fun _ _ _ _ h => nomatch h
theorem geomSwap : Statement .geomSwap := fun _ _ _ _ h => nomatch h
theorem distDataRead : Statement .distDataRead := fun _ _ _ _ h => nomatch h
theorem distCopy a0 a1 : Statement (.distCopy a0 a1) := by
  intro h src blk inst hw
  simp only [writesPage] at hw
  cases hw
  simp only [Instr.wf] at h
  simp [pageListed, h]
theorem copyDone : Statement .copyDone := fun _ _ _ _ h => nomatch h
theorem distCopyWriteFail a0 : Statement (.distCopyWriteFail a0) := fun _ _ _ _ h => nomatch h
theorem registerWrite a0 a1 a2 a3 a4 a5 : Statement (.registerWrite a0 a1 a2 a3 a4 a5) := by
  intro h src blk inst hw
  simp only [writesPage] at hw
  split at hw <;> cases hw
  simp only [Instr.wf, Bool.and_eq_true] at h
  exact ⟨by simp [h], lists_pageListed (by simp [h])⟩
theorem errClear a0 a1 a2 : Statement (.errClear a0 a1 a2) := by
  intro h src blk inst hw
  simp only [writesPage] at hw
  cases hw
  simp only [Instr.wf, Bool.and_eq_true] at h
  exact ⟨by simp [h], lists_pageListed (by simp [h])⟩
theorem eventAdmit a0 : Statement (.eventAdmit a0) := fun _ _ _ _ h => nomatch h
theorem evtRingWriteFail a0 a1 : Statement (.evtRingWriteFail a0 a1) := fun _ _ _ _ h => nomatch h
theorem evtRingEnable a0 a1 a2 : Statement (.evtRingEnable a0 a1 a2) := by
  intro h src blk inst hw
  simp only [writesPage] at hw
  split at hw <;> cases hw
  simp only [Instr.wf, Bool.and_eq_true, decide_eq_true_eq] at h
  simp [pageListed, h] <;> omega
theorem saggarRegisterWrite a0 a1 a2 a3 : Statement (.saggarRegisterWrite a0 a1 a2 a3) := by
  intro h src blk inst hw
  simp only [writesPage] at hw
  cases hw
  simp only [Instr.wf, Bool.and_eq_true] at h
  exact ⟨by simp [h], lists_pageListed (by simp [h])⟩
theorem funcBindWrite a0 a1 : Statement (.funcBindWrite a0 a1) := by
  intro h src blk inst hw
  simp only [writesPage] at hw
  cases hw
  simp only [Instr.wf] at h
  simp [pageListed, h]
theorem vfActiveChange a0 a1 a2 : Statement (.vfActiveChange a0 a1 a2) := fun _ _ _ _ h => nomatch h
theorem ringEnable a0 a1 a2 a3 : Statement (.ringEnable a0 a1 a2 a3) := by
  intro h src blk inst hw
  simp only [writesPage] at hw
  split at hw <;> cases hw
  simp only [Instr.wf, Bool.and_eq_true, decide_eq_true_eq] at h
  simp [pageListed, h] <;> omega
theorem doorbell a0 a1 a2 a3 : Statement (.doorbell a0 a1 a2 a3) := by
  intro h src blk inst hw
  simp only [writesPage] at hw
  split at hw <;> cases hw
  simp only [Instr.wf, Bool.and_eq_true, decide_eq_true_eq] at h
  simp [pageListed, h] <;> omega
theorem cmdEntryFetched a0 a1 a2 : Statement (.cmdEntryFetched a0 a1 a2) := fun _ _ _ _ h => nomatch h
theorem ringPcieFail a0 a1 a2 : Statement (.ringPcieFail a0 a1 a2) := fun _ _ _ _ h => nomatch h
theorem cmdAdmit a0 a1 : Statement (.cmdAdmit a0 a1) := fun _ _ _ _ h => nomatch h
theorem nop a0 : Statement (.nop a0) := fun _ _ _ _ h => nomatch h
theorem fence a0 : Statement (.fence a0) := fun _ _ _ _ h => nomatch h
theorem fenceComplete a0 a1 : Statement (.fenceComplete a0 a1) := fun _ _ _ _ h => nomatch h
theorem mbxAck a0 a1 a2 a3 : Statement (.mbxAck a0 a1 a2 a3) := by
  intro h src blk inst hw
  simp only [writesPage] at hw
  split at hw <;> cases hw
  simp only [Instr.wf, Bool.and_eq_true, decide_eq_true_eq] at h
  simp [pageListed, h] <;> omega
theorem functionLevelReset a0 : Statement (.functionLevelReset a0) := fun _ _ _ _ h => nomatch h
theorem semSignal a0 a1 a2 : Statement (.semSignal a0 a1 a2) := by
  intro h src blk inst hw
  simp only [writesPage] at hw
  split at hw <;> cases hw
  simp only [Instr.wf, Bool.and_eq_true, decide_eq_true_eq] at h
  simp [pageListed, h]
theorem hostSemSignal a0 : Statement (.hostSemSignal a0) := fun _ _ _ _ h => nomatch h
theorem hsemTake a0 a1 a2 a3 : Statement (.hsemTake a0 a1 a2 a3) := by
  intro h src blk inst hw
  simp only [writesPage] at hw
  split at hw <;> cases hw
  simp only [Instr.wf, Bool.and_eq_true, decide_eq_true_eq] at h
  simp [pageListed, h]
theorem hostLinkDown a0 : Statement (.hostLinkDown a0) := fun _ _ _ _ h => nomatch h
theorem hostLinkUp a0 a1 a2 a3 : Statement (.hostLinkUp a0 a1 a2 a3) := fun _ _ _ _ h => nomatch h
theorem rimStart a0 a1 a2 : Statement (.rimStart a0 a1 a2) := fun _ _ _ _ h => nomatch h
theorem rimHalt a0 a1 a2 a3 : Statement (.rimHalt a0 a1 a2 a3) := fun _ _ _ _ h => nomatch h
theorem rimReset a0 a1 a2 : Statement (.rimReset a0 a1 a2) := fun _ _ _ _ h => nomatch h
theorem rimFlush a0 a1 a2 : Statement (.rimFlush a0 a1 a2) := fun _ _ _ _ h => nomatch h
theorem rimWfi a0 : Statement (.rimWfi a0) := fun _ _ _ _ h => nomatch h
theorem rimDoorbell a0 a1 a2 : Statement (.rimDoorbell a0 a1 a2) := by
  intro h src blk inst hw
  simp only [writesPage] at hw
  split at hw <;> cases hw
  simp only [Instr.wf, Bool.and_eq_true, decide_eq_true_eq] at h
  simp [pageListed, h] <;> omega
theorem rimTimerInterrupt a0 : Statement (.rimTimerInterrupt a0) := fun _ _ _ _ h => nomatch h
theorem rimIoAccess a0 a1 a2 a3 a4 : Statement (.rimIoAccess a0 a1 a2 a3 a4) := fun _ _ _ _ h => nomatch h
theorem rimStoreAccess a0 a1 a2 a3 : Statement (.rimStoreAccess a0 a1 a2 a3) := fun _ _ _ _ h => nomatch h
theorem seqDispatch a0 : Statement (.seqDispatch a0) := fun _ _ _ _ h => nomatch h
theorem engineInstrIssue a0 a1 : Statement (.engineInstrIssue a0 a1) := fun _ _ _ _ h => nomatch h
theorem engineInstrComplete a0 a1 : Statement (.engineInstrComplete a0 a1) := fun _ _ _ _ h => nomatch h
theorem engineExecError a0 a1 a2 : Statement (.engineExecError a0 a1 a2) := fun _ _ _ _ h => nomatch h
theorem wait a0 a1 : Statement (.wait a0 a1) := fun _ _ _ _ h => nomatch h
theorem waitSatisfied a0 : Statement (.waitSatisfied a0) := fun _ _ _ _ h => nomatch h
theorem signal a0 a1 : Statement (.signal a0 a1) := fun _ _ _ _ h => nomatch h
theorem tileSignalArrive a0 : Statement (.tileSignalArrive a0) := fun _ _ _ _ h => nomatch h
theorem loop a0 : Statement (.loop a0) := fun _ _ _ _ h => nomatch h
theorem loopEnd a0 : Statement (.loopEnd a0) := fun _ _ _ _ h => nomatch h
theorem cmpset a0 : Statement (.cmpset a0) := fun _ _ _ _ h => nomatch h
theorem branch a0 : Statement (.branch a0) := fun _ _ _ _ h => nomatch h
theorem swap a0 : Statement (.swap a0) := fun _ _ _ _ h => nomatch h
theorem bankSwap a0 : Statement (.bankSwap a0) := fun _ _ _ _ h => nomatch h
theorem halt a0 : Statement (.halt a0) := fun _ _ _ _ h => nomatch h
theorem tileHalted a0 : Statement (.tileHalted a0) := fun _ _ _ _ h => nomatch h
theorem endProg a0 : Statement (.endProg a0) := fun _ _ _ _ h => nomatch h
theorem tilePark a0 : Statement (.tilePark a0) := fun _ _ _ _ h => nomatch h
theorem drain a0 : Statement (.drain a0) := fun _ _ _ _ h => nomatch h
theorem drainComplete a0 : Statement (.drainComplete a0) := fun _ _ _ _ h => nomatch h
theorem tileFlushDone a0 : Statement (.tileFlushDone a0) := fun _ _ _ _ h => nomatch h
theorem qcfgWrite a0 a1 a2 a3 : Statement (.qcfgWrite a0 a1 a2 a3) := by
  intro h src blk inst hw
  simp only [writesPage] at hw
  split at hw <;> cases hw
  simp only [Instr.wf, isTile, Bool.and_eq_true, decide_eq_true_eq] at h
  simp [pageListed, h]
theorem imemDataHiWrite a0 a1 a2 : Statement (.imemDataHiWrite a0 a1 a2) := by
  intro h src blk inst hw
  simp only [writesPage] at hw
  cases hw
  simp only [Instr.wf, isTile, Bool.and_eq_true, decide_eq_true_eq] at h
  simp [pageListed, h]
theorem shadowReadySet a0 a1 a2 : Statement (.shadowReadySet a0 a1 a2) := by
  intro h src blk inst hw
  simp only [writesPage] at hw
  cases hw
  simp only [Instr.wf, isTile, Bool.and_eq_true, decide_eq_true_eq] at h
  simp [pageListed, h]
theorem mma a0 a1 : Statement (.mma a0 a1) := fun _ _ _ _ h => nomatch h
theorem accwb a0 a1 : Statement (.accwb a0 a1) := fun _ _ _ _ h => nomatch h
theorem smma24 a0 a1 : Statement (.smma24 a0 a1) := fun _ _ _ _ h => nomatch h
theorem smmau a0 a1 : Statement (.smmau a0 a1) := fun _ _ _ _ h => nomatch h
theorem smmab a0 a1 : Statement (.smmab a0 a1) := fun _ _ _ _ h => nomatch h
theorem vop a0 : Statement (.vop a0) := fun _ _ _ _ h => nomatch h
theorem vsetvl a0 : Statement (.vsetvl a0) := fun _ _ _ _ h => nomatch h
theorem vseed a0 : Statement (.vseed a0) := fun _ _ _ _ h => nomatch h
theorem dma a0 : Statement (.dma a0) := fun _ _ _ _ h => nomatch h
theorem dmaDescriptorStart a0 a1 a2 a3 a4 : Statement (.dmaDescriptorStart a0 a1 a2 a3 a4) := fun _ _ _ _ h => nomatch h
theorem dmaDescriptorComplete a0 a1 : Statement (.dmaDescriptorComplete a0 a1) := fun _ _ _ _ h => nomatch h
theorem dmaRemoteResponse a0 : Statement (.dmaRemoteResponse a0) := fun _ _ _ _ h => nomatch h
theorem hDoorbell a0 a1 a2 : Statement (.hDoorbell a0 a1 a2) := by
  intro h src blk inst hw
  simp only [writesPage] at hw
  cases hw
  simp only [Instr.wf, isTile, Bool.and_eq_true, decide_eq_true_eq] at h
  simp [pageListed, h]
theorem hCfgEnable a0 a1 a2 : Statement (.hCfgEnable a0 a1 a2) := by
  intro h src blk inst hw
  simp only [writesPage] at hw
  cases hw
  simp only [Instr.wf, isTile, Bool.and_eq_true, decide_eq_true_eq] at h
  simp [pageListed, h]
theorem tdmaRingStop a0 a1 a2 : Statement (.tdmaRingStop a0 a1 a2) := by
  intro h src blk inst hw
  simp only [writesPage] at hw
  cases hw
  simp only [Instr.wf, isTile, Bool.and_eq_true, decide_eq_true_eq] at h
  simp [pageListed, h]
theorem tdmaRingResume a0 a1 a2 : Statement (.tdmaRingResume a0 a1 a2) := by
  intro h src blk inst hw
  simp only [writesPage] at hw
  cases hw
  simp only [Instr.wf, isTile, Bool.and_eq_true, decide_eq_true_eq] at h
  simp [pageListed, h]
theorem tdmaHostFail a0 a1 : Statement (.tdmaHostFail a0 a1) := fun _ _ _ _ h => nomatch h
theorem spInject a0 a1 a2 : Statement (.spInject a0 a1 a2) := by
  intro h src blk inst hw
  simp only [writesPage] at hw
  cases hw
  simp only [Instr.wf, isTile, Bool.and_eq_true, decide_eq_true_eq] at h
  simp [pageListed, h]
theorem requestUrgent a0 a1 a2 : Statement (.requestUrgent a0 a1 a2) := fun _ _ _ _ h => nomatch h
theorem scrubForced a0 a1 a2 : Statement (.scrubForced a0 a1 a2) := fun _ _ _ _ h => nomatch h
theorem lineAccept a0 : Statement (.lineAccept a0) := fun _ _ _ _ h => nomatch h
theorem routerForward a0 : Statement (.routerForward a0) := fun _ _ _ _ h => nomatch h
theorem packetDeliver a0 : Statement (.packetDeliver a0) := fun _ _ _ _ h => nomatch h
theorem combStep a0 a1 : Statement (.combStep a0 a1) := fun _ _ _ _ h => nomatch h
theorem creditReceived a0 : Statement (.creditReceived a0) := fun _ _ _ _ h => nomatch h
theorem noticeReceived a0 : Statement (.noticeReceived a0) := fun _ _ _ _ h => nomatch h
theorem stackTempSample a0 a1 : Statement (.stackTempSample a0 a1) := fun _ _ _ _ h => nomatch h
theorem storeReadTimeout a0 : Statement (.storeReadTimeout a0) := fun _ _ _ _ h => nomatch h
theorem streamEntryStart a0 a1 : Statement (.streamEntryStart a0 a1) := fun _ _ _ _ h => nomatch h
theorem streamEnd a0 a1 a2 : Statement (.streamEnd a0 a1 a2) := fun _ _ _ _ h => nomatch h
theorem gatherStart a0 a1 : Statement (.gatherStart a0 a1) := fun _ _ _ _ h => nomatch h
theorem gatherTimeout a0 a1 : Statement (.gatherTimeout a0 a1) := fun _ _ _ _ h => nomatch h
theorem edgeWrite a0 : Statement (.edgeWrite a0) := fun _ _ _ _ h => nomatch h
theorem edgeRead a0 : Statement (.edgeRead a0) := fun _ _ _ _ h => nomatch h
theorem xferTimeout a0 a1 : Statement (.xferTimeout a0 a1) := fun _ _ _ _ h => nomatch h
theorem bar4Read a0 a1 a2 : Statement (.bar4Read a0 a1 a2) := fun _ _ _ _ h => nomatch h
theorem bar4Write a0 a1 a2 : Statement (.bar4Write a0 a1 a2) := fun _ _ _ _ h => nomatch h
theorem slipMapWrite a0 a1 a2 a3 : Statement (.slipMapWrite a0 a1 a2 a3) := by
  intro h src blk inst hw
  simp only [writesPage] at hw
  split at hw <;> cases hw
  simp only [Instr.wf, isPort, Bool.and_eq_true, decide_eq_true_eq] at h
  simp [pageListed, h]
theorem combExitForward a0 : Statement (.combExitForward a0) := fun _ _ _ _ h => nomatch h
theorem pugCombReceive a0 a1 : Statement (.pugCombReceive a0 a1) := fun _ _ _ _ h => nomatch h
theorem bucketStageAdvance a0 a1 : Statement (.bucketStageAdvance a0 a1) := fun _ _ _ _ h => nomatch h
theorem bucketDone a0 a1 : Statement (.bucketDone a0 a1) := fun _ _ _ _ h => nomatch h
theorem stageTimeout a0 a1 : Statement (.stageTimeout a0 a1) := fun _ _ _ _ h => nomatch h
theorem abortStep a0 a1 a2 : Statement (.abortStep a0 a1 a2) := fun _ _ _ _ h => nomatch h
theorem gjobWrite a0 a1 a2 : Statement (.gjobWrite a0 a1 a2) := by
  intro h src blk inst hw
  simp only [writesPage] at hw
  cases hw
  simp only [Instr.wf, isPort, Bool.and_eq_true, decide_eq_true_eq] at h
  simp [pageListed, h]
theorem shadowOpen a0 : Statement (.shadowOpen a0) := fun _ _ _ _ h => nomatch h
theorem glazeRangeUpdate a0 a1 : Statement (.glazeRangeUpdate a0 a1) := fun _ _ _ _ h => nomatch h
theorem glazeRangeAccepted a0 a1 : Statement (.glazeRangeAccepted a0 a1) := fun _ _ _ _ h => nomatch h
theorem voteResend a0 : Statement (.voteResend a0) := fun _ _ _ _ h => nomatch h
theorem commitResend a0 : Statement (.commitResend a0) := fun _ _ _ _ h => nomatch h
theorem commitTimeout a0 : Statement (.commitTimeout a0) := fun _ _ _ _ h => nomatch h
theorem mirrorTimeout a0 : Statement (.mirrorTimeout a0) := fun _ _ _ _ h => nomatch h
theorem mirrorSync a0 a1 a2 : Statement (.mirrorSync a0 a1 a2) := fun _ _ _ _ h => nomatch h
theorem mirrorSyncDone a0 : Statement (.mirrorSyncDone a0) := fun _ _ _ _ h => nomatch h
theorem load a0 a1 a2 : Statement (.load a0 a1 a2) := fun _ _ _ _ h => nomatch h
theorem kilnLoadDone a0 : Statement (.kilnLoadDone a0) := fun _ _ _ _ h => nomatch h
theorem start a0 a1 a2 : Statement (.start a0 a1 a2) := fun _ _ _ _ h => nomatch h
theorem kilnArmed a0 : Statement (.kilnArmed a0) := fun _ _ _ _ h => nomatch h
theorem step a0 a1 a2 : Statement (.step a0 a1 a2) := fun _ _ _ _ h => nomatch h
theorem kilnStepBoundary a0 : Statement (.kilnStepBoundary a0) := fun _ _ _ _ h => nomatch h
theorem stop a0 a1 a2 : Statement (.stop a0 a1 a2) := fun _ _ _ _ h => nomatch h
theorem abort a0 a1 a2 : Statement (.abort a0 a1 a2) := fun _ _ _ _ h => nomatch h
theorem swapOut a0 a1 a2 : Statement (.swapOut a0 a1 a2) := fun _ _ _ _ h => nomatch h
theorem swapOutDone a0 : Statement (.swapOutDone a0) := fun _ _ _ _ h => nomatch h
theorem swapIn a0 a1 a2 : Statement (.swapIn a0 a1 a2) := fun _ _ _ _ h => nomatch h
theorem swapInDone a0 : Statement (.swapInDone a0) := fun _ _ _ _ h => nomatch h
theorem unload a0 a1 a2 : Statement (.unload a0 a1 a2) := fun _ _ _ _ h => nomatch h
theorem linkEnable a0 a1 a2 : Statement (.linkEnable a0 a1 a2) := by
  intro h src blk inst hw
  simp only [writesPage] at hw
  cases hw
  simp only [Instr.wf, isLink, Bool.and_eq_true, decide_eq_true_eq] at h
  exact ⟨h.1, linkListed h.2⟩
theorem linkDisable a0 a1 a2 : Statement (.linkDisable a0 a1 a2) := by
  intro h src blk inst hw
  simp only [writesPage] at hw
  cases hw
  simp only [Instr.wf, isLink, Bool.and_eq_true, decide_eq_true_eq] at h
  exact ⟨h.1, linkListed h.2⟩
theorem retrain a0 a1 a2 a3 : Statement (.retrain a0 a1 a2 a3) := fun _ _ _ _ h => nomatch h
theorem linkTrainDone a0 a1 a2 a3 : Statement (.linkTrainDone a0 a1 a2 a3) := fun _ _ _ _ h => nomatch h
theorem linkTrainTimeout a0 : Statement (.linkTrainTimeout a0) := fun _ _ _ _ h => nomatch h
theorem linkLoss a0 : Statement (.linkLoss a0) := fun _ _ _ _ h => nomatch h
theorem linkAutoRetrain a0 : Statement (.linkAutoRetrain a0) := fun _ _ _ _ h => nomatch h
theorem hello a0 a1 a2 a3 a4 : Statement (.hello a0 a1 a2 a3 a4) := fun _ _ _ _ h => nomatch h
theorem frameReceive a0 a1 : Statement (.frameReceive a0 a1) := fun _ _ _ _ h => nomatch h
theorem heartbeat a0 : Statement (.heartbeat a0) := fun _ _ _ _ h => nomatch h
theorem heartbeatTick : Statement .heartbeatTick := fun _ _ _ _ h => nomatch h
theorem ack a0 : Statement (.ack a0) := fun _ _ _ _ h => nomatch h
theorem nak a0 : Statement (.nak a0) := fun _ _ _ _ h => nomatch h
theorem ackTimeout a0 a1 a2 : Statement (.ackTimeout a0 a1 a2) := fun _ _ _ _ h => nomatch h
theorem record a0 : Statement (.record a0) := fun _ _ _ _ h => nomatch h
theorem abortBroadcastReceive a0 : Statement (.abortBroadcastReceive a0) := fun _ _ _ _ h => nomatch h
theorem vote a0 : Statement (.vote a0) := fun _ _ _ _ h => nomatch h
theorem commit a0 : Statement (.commit a0) := fun _ _ _ _ h => nomatch h
theorem commitAck a0 : Statement (.commitAck a0) := fun _ _ _ _ h => nomatch h
theorem segReq a0 : Statement (.segReq a0) := fun _ _ _ _ h => nomatch h
theorem segServeStart a0 : Statement (.segServeStart a0) := fun _ _ _ _ h => nomatch h
theorem segData a0 : Statement (.segData a0) := fun _ _ _ _ h => nomatch h
theorem segReadTimeout a0 : Statement (.segReadTimeout a0) := fun _ _ _ _ h => nomatch h
theorem mwrite : Statement .mwrite := fun _ _ _ _ h => nomatch h
theorem mhdr : Statement .mhdr := fun _ _ _ _ h => nomatch h
theorem pair a0 a1 : Statement (.pair a0 a1) := fun _ _ _ _ h => nomatch h
theorem pairReceive : Statement .pairReceive := fun _ _ _ _ h => nomatch h
theorem pairAck : Statement .pairAck := fun _ _ _ _ h => nomatch h
theorem pairTimeout : Statement .pairTimeout := fun _ _ _ _ h => nomatch h
theorem unpair a0 a1 : Statement (.unpair a0 a1) := fun _ _ _ _ h => nomatch h
theorem unpairReceive : Statement .unpairReceive := fun _ _ _ _ h => nomatch h
theorem unpairAck : Statement .unpairAck := fun _ _ _ _ h => nomatch h
theorem promote a0 a1 : Statement (.promote a0 a1) := fun _ _ _ _ h => nomatch h
theorem promoteDone : Statement .promoteDone := fun _ _ _ _ h => nomatch h
theorem shift a0 a1 : Statement (.shift a0 a1) := fun _ _ _ _ h => nomatch h
theorem shiftPublish : Statement .shiftPublish := fun _ _ _ _ h => nomatch h
theorem persist a0 a1 : Statement (.persist a0 a1) := fun _ _ _ _ h => nomatch h
theorem persistGo a0 a1 : Statement (.persistGo a0 a1) := by
  intro h src blk inst hw
  simp only [writesPage] at hw
  cases hw
  simp only [Instr.wf] at h
  simp [pageListed, h]
theorem autoPersist : Statement .autoPersist := fun _ _ _ _ h => nomatch h
theorem persistDone a0 : Statement (.persistDone a0) := fun _ _ _ _ h => nomatch h
theorem entryDataWrite a0 a1 : Statement (.entryDataWrite a0 a1) := by
  intro h src blk inst hw
  simp only [writesPage] at hw
  cases hw
  simp only [Instr.wf] at h
  simp [pageListed, h]
theorem entryDataRead : Statement .entryDataRead := fun _ _ _ _ h => nomatch h
theorem computeWatchdog a0 : Statement (.computeWatchdog a0) := fun _ _ _ _ h => nomatch h
theorem coreResidueMismatch a0 a1 : Statement (.coreResidueMismatch a0 a1) := fun _ _ _ _ h => nomatch h
theorem vecResidueMismatch a0 : Statement (.vecResidueMismatch a0) := fun _ _ _ _ h => nomatch h
theorem neighbourWatchExpire a0 : Statement (.neighbourWatchExpire a0) := fun _ _ _ _ h => nomatch h
theorem repeaterClockLoss a0 : Statement (.repeaterClockLoss a0) := fun _ _ _ _ h => nomatch h
theorem arbiterStallTimeout : Statement .arbiterStallTimeout := fun _ _ _ _ h => nomatch h
theorem rimInterconnectUe : Statement .rimInterconnectUe := fun _ _ _ _ h => nomatch h
theorem storeWindowCommit a0 a1 : Statement (.storeWindowCommit a0 a1) := by
  intro h src blk inst hw
  simp only [writesPage] at hw
  cases hw
  simp only [Instr.wf] at h
  simp [pageListed, h]
theorem jobOwnerWrite a0 a1 a2 : Statement (.jobOwnerWrite a0 a1 a2) := by
  intro h src blk inst hw
  simp only [writesPage] at hw
  split at hw <;> cases hw
  simp only [Instr.wf, Bool.and_eq_true, decide_eq_true_eq] at h
  simp [pageListed, h]
theorem kilnSaggarWrite a0 a1 a2 : Statement (.kilnSaggarWrite a0 a1 a2) := by
  intro h src blk inst hw
  simp only [writesPage] at hw
  cases hw
  simp only [Instr.wf, Bool.and_eq_true, decide_eq_true_eq] at h
  simp [pageListed, h]
theorem waferChangeInstall : Statement .waferChangeInstall := fun _ _ _ _ h => nomatch h
theorem waferChangeSettle a0 : Statement (.waferChangeSettle a0) := fun _ _ _ _ h => nomatch h
theorem pllUnlock : Statement .pllUnlock := fun _ _ _ _ h => nomatch h
theorem pllRelock : Statement .pllRelock := fun _ _ _ _ h => nomatch h
theorem pllRelockTimeout : Statement .pllRelockTimeout := fun _ _ _ _ h => nomatch h
theorem dividerSwitch a0 : Statement (.dividerSwitch a0) := fun _ _ _ _ h => nomatch h
theorem supplySwitchover a0 : Statement (.supplySwitchover a0) := fun _ _ _ _ h => nomatch h
theorem supplySample a0 a1 a2 a3 a4 : Statement (.supplySample a0 a1 a2 a3 a4) := fun _ _ _ _ h => nomatch h
theorem wakeGrant : Statement .wakeGrant := fun _ _ _ _ h => nomatch h
theorem tileWakeDone a0 : Statement (.tileWakeDone a0) := fun _ _ _ _ h => nomatch h
theorem sleep a0 a1 a2 : Statement (.sleep a0 a1 a2) := fun _ _ _ _ h => nomatch h
theorem wake a0 a1 a2 : Statement (.wake a0 a1 a2) := fun _ _ _ _ h => nomatch h
theorem thermalSample a0 : Statement (.thermalSample a0) := fun _ _ _ _ h => nomatch h
theorem thermalLevelClear a0 a1 : Statement (.thermalLevelClear a0 a1) := fun _ _ _ _ h => nomatch h
theorem storeScrubBurst a0 a1 : Statement (.storeScrubBurst a0 a1) := fun _ _ _ _ h => nomatch h
theorem clockPhaseCal a0 a1 : Statement (.clockPhaseCal a0 a1) := fun _ _ _ _ h => nomatch h
theorem hbmRecentre : Statement .hbmRecentre := fun _ _ _ _ h => nomatch h
theorem trimEvaluate a0 : Statement (.trimEvaluate a0) := fun _ _ _ _ h => nomatch h
theorem hoursCount : Statement .hoursCount := fun _ _ _ _ h => nomatch h
theorem hoursSave : Statement .hoursSave := fun _ _ _ _ h => nomatch h
theorem selftestStart a0 : Statement (.selftestStart a0) := fun _ _ _ _ h => nomatch h
theorem selftestDone a0 a1 : Statement (.selftestDone a0 a1) := fun _ _ _ _ h => nomatch h
theorem telemetrySample a0 : Statement (.telemetrySample a0) := fun _ _ _ _ h => nomatch h
theorem teleRingEnable a0 a1 : Statement (.teleRingEnable a0 a1) := by
  intro h src blk inst hw
  simp only [writesPage] at hw
  cases hw
  simp only [Instr.wf] at h
  simp [pageListed, h]
theorem teleRingFail a0 : Statement (.teleRingFail a0) := fun _ _ _ _ h => nomatch h
theorem resetNAssert : Statement .resetNAssert := fun _ _ _ _ h => nomatch h
theorem resetNRelease a0 a1 a2 : Statement (.resetNRelease a0 a1 a2) := fun _ _ _ _ h => nomatch h
theorem pllLock : Statement .pllLock := fun _ _ _ _ h => nomatch h
theorem pllLockTimeout : Statement .pllLockTimeout := fun _ _ _ _ h => nomatch h
theorem aonDone : Statement .aonDone := fun _ _ _ _ h => nomatch h
theorem crackLoadDone : Statement .crackLoadDone := fun _ _ _ _ h => nomatch h
theorem treeBuildDone : Statement .treeBuildDone := fun _ _ _ _ h => nomatch h
theorem storeTrainDone a0 a1 : Statement (.storeTrainDone a0 a1) := fun _ _ _ _ h => nomatch h
theorem hostPerstRelease a0 : Statement (.hostPerstRelease a0) := fun _ _ _ _ h => nomatch h
theorem hostLinkReset a0 : Statement (.hostLinkReset a0) := fun _ _ _ _ h => nomatch h
theorem moduleReset : Statement .moduleReset := fun _ _ _ _ h => nomatch h
theorem mgmtResetGo a0 a1 : Statement (.mgmtResetGo a0 a1) := by
  intro h src blk inst hw
  simp only [writesPage] at hw
  cases hw
  simp only [Instr.wf] at h
  simp [pageListed, h]
theorem mgmtRead a0 a1 : Statement (.mgmtRead a0 a1) := fun _ _ _ _ h => nomatch h
theorem mgmtWrite a0 a1 a2 : Statement (.mgmtWrite a0 a1 a2) := fun _ _ _ _ h => nomatch h
theorem mgmtReset a0 : Statement (.mgmtReset a0) := fun _ _ _ _ h => nomatch h
theorem i3cRead a0 : Statement (.i3cRead a0) := fun _ _ _ _ h => nomatch h
theorem tapInstruction a0 : Statement (.tapInstruction a0) := fun _ _ _ _ h => nomatch h
theorem rimFlushDone a0 : Statement (.rimFlushDone a0) := fun _ _ _ _ h => nomatch h
theorem imemDataHiRead a0 : Statement (.imemDataHiRead a0) := fun _ _ _ _ h => nomatch h
theorem hoursDataRead : Statement .hoursDataRead := fun _ _ _ _ h => nomatch h
theorem msipWrite a0 a1 a2 a3 : Statement (.msipWrite a0 a1 a2 a3) := by
  intro h src blk inst hw
  simp only [writesPage] at hw
  split at hw <;> cases hw
  simp only [Instr.wf, Bool.and_eq_true, decide_eq_true_eq] at h
  simp [pageListed, h] <;> omega
theorem msixUnmask a0 a1 : Statement (.msixUnmask a0 a1) := fun _ _ _ _ h => nomatch h
theorem sramScrubLine a0 a1 a2 : Statement (.sramScrubLine a0 a1 a2) := fun _ _ _ _ h => nomatch h
theorem fieldRampEnd a0 : Statement (.fieldRampEnd a0) := fun _ _ _ _ h => nomatch h
theorem bothInputsConduct a0 : Statement (.bothInputsConduct a0) := fun _ _ _ _ h => nomatch h
theorem segServeDone a0 a1 : Statement (.segServeDone a0 a1) := fun _ _ _ _ h => nomatch h
theorem pauseFrame a0 a1 a2 : Statement (.pauseFrame a0 a1 a2) := fun _ _ _ _ h => nomatch h

end Sys2Proof.Laws.Operands
end

