-- ==== Sys2Proof/Tests/Slice0.lean ====
section
/-! SUPPORT. The model's own tests: terms that are not well formed, and for every statement with hypotheses a state and operands
that meet them, clause by clause, at boundary values of the operands. -/

set_option maxRecDepth 4000
set_option Elab.async false

namespace Sys2Proof.Tests

open Sys2Proof Sys2Proof.Machine

/-! ### Commands that are not well formed are refused, check by check -/

theorem test_wf_refuses_blocks :
    ([(.mgmt, 2), (.pwr, 2), (.arb, 1), (.therm, 1), (.tele, 1), (.crack, 1), (.saggar, 1), (.clk, 3), (.blink, 3), (.kiln, 256),
      (.slip, 48), (.glaze, 48), (.pug, 16), (.fab, 16), (.host, 128), (.host, 255), (.host, 258), (.rim, 36), (.sem, 64),
      (.tile, 34560), (.vec, 34560), (.tdma, 34560), (.router, 34560), (.core, 138240)] : List (Blk × Nat)).all
      (fun x => !(Instr.errClear .mgmt x.1 x.2).wf && !(Instr.registerWrite .mgmt x.1 x.2 0 8 0).wf &&
        !(Instr.saggarRegisterWrite .mgmt x.1 x.2 0).wf) = true := by decide +kernel

/-- Every command that brings a source refuses a function, a link and a rim core there is not. -/
theorem test_wf_refuses_sources :
    ([.host 64 0, .host 0 2, .rim 32] : List Src).all (fun s =>
      [Instr.distCopy s 0, .registerWrite s .mgmt 0 0 8 0, .errClear s .mgmt 0, .evtRingEnable s 0 0, .saggarRegisterWrite s .mgmt 0 0,
       .funcBindWrite s 0, .ringEnable s 0 0 0, .doorbell s 0 0 0, .mbxAck s 0 0 0, .semSignal s 0 0, .hsemTake s 0 0 0,
       .rimDoorbell s 0 0, .msipWrite s 0 true 0, .qcfgWrite s 0 0 0, .imemDataHiWrite s 0 0, .shadowReadySet s 0 0, .hDoorbell s 0 0,
       .hCfgEnable s 0 0, .tdmaRingStop s 0 0, .tdmaRingResume s 0 0, .spInject s 0 0, .slipMapWrite s 0 0 0, .gjobWrite s 0 0,
       .linkEnable s 0 0, .linkDisable s 0 0, .persistGo s 0, .entryDataWrite s 0, .storeWindowCommit s 0, .teleRingEnable s 0,
       .mgmtResetGo s 0, .jobOwnerWrite s 0 0, .kilnSaggarWrite s 0 0].all fun i => !i.wf) = true := by decide +kernel

/-- Every command that a ring's entry posts refuses a poster there is not. -/
theorem test_wf_refuses_posters :
    ([⟨64, 0, 0, 0, false, 0⟩, ⟨0, 4, 0, 0, false, 0⟩, ⟨0, 0, 4096, 0, false, 0⟩, ⟨0, 0, 0, 64, true, 0⟩,
      ⟨0, 0, 0, 0, true, 4294967296⟩] : List CmdCtx).all (fun c =>
      [Instr.nop c, .fence c, .rimStart c 0 [], .rimReset c 0 [], .rimFlush c 0 [], .rimHalt c 0 [] 0, .abortStep c 0 [],
       .mirrorSync c 0 [], .load c 0 [], .start c 0 [], .step c 0 [], .stop c 0 [], .abort c 0 [], .swapOut c 0 [], .swapIn c 0 [],
       .unload c 0 [], .retrain c .fab 0 [], .pair c [], .unpair c [], .promote c [], .shift c [], .persist c [], .sleep c 0 [],
       .wake c 0 []].all fun i => !i.wf) = true := by decide +kernel

/-- A poster there is. -/
def ctxOk : CmdCtx := ⟨0, 0, 0, 0, false, 0⟩

/-- Seven arguments are one too many for every command that takes arguments; and an instance there is not. -/
theorem test_wf_refuses_arguments_and_instances :
    (([.rimStart ctxOk 0, .rimReset ctxOk 0, .rimFlush ctxOk 0, (.rimHalt ctxOk 0 · 0), .abortStep ctxOk 0, .mirrorSync ctxOk 0,
       .load ctxOk 0, .start ctxOk 0, .step ctxOk 0, .stop ctxOk 0, .abort ctxOk 0, .swapOut ctxOk 0, .swapIn ctxOk 0, .unload ctxOk 0,
       .retrain ctxOk .blink 0, .pair ctxOk, .unpair ctxOk, .promote ctxOk, .shift ctxOk, .persist ctxOk, .sleep ctxOk 0,
       .wake ctxOk 0] : List (List W64 → Instr)).all fun i => !(i [0, 0, 0, 0, 0, 0, 0]).wf) = true ∧
    ([.rimStart ctxOk 36 [], .rimReset ctxOk 36 [], .rimFlush ctxOk 36 [], .rimHalt ctxOk 36 [] 0, .abortStep ctxOk 16 [],
      .mirrorSync ctxOk 48 [], .load ctxOk 256 [], .start ctxOk 256 [], .step ctxOk 256 [], .stop ctxOk 256 [], .abort ctxOk 256 [],
      .swapOut ctxOk 256 [], .swapIn ctxOk 256 [], .unload ctxOk 256 [], .retrain ctxOk .fab 16 [], .retrain ctxOk .blink 3 [],
      .retrain ctxOk .slip 0 [], .sleep ctxOk 2 [], .wake ctxOk 2 []] : List Instr).all (fun i => !i.wf) = true := by decide +kernel

theorem test_wf_refuses_host_interface :
    ([.registerWrite .mgmt .mgmt 0 4096 8 0, .registerWrite .mgmt .mgmt 0 0 3 0, .distCopyWriteFail 6635584, .evtRingWriteFail 64 0,
      .evtRingWriteFail 0 16384, .evtRingEnable .mgmt 64 0, .vfActiveChange 2 0 true, .vfActiveChange 0 64 true,
      .ringEnable .mgmt 64 0 0, .ringEnable .mgmt 0 4 0, .doorbell .mgmt 64 0 0, .doorbell .mgmt 0 4 0, .ringPcieFail 64 0 0,
      .ringPcieFail 0 4 0, .ringPcieFail 0 0 4096, .cmdAdmit 64 0, .cmdAdmit 0 4, .fenceComplete 64 0, .fenceComplete 0 4,
      .mbxAck .mgmt 64 0 0, .mbxAck .mgmt 0 64 0, .functionLevelReset 64, .semSignal .mgmt 64 0, .hsemTake .mgmt 64 0 0,
      .hsemTake .mgmt 0 64 0, .hostLinkDown 2, .hostPerstRelease 2, .hostLinkReset 2, .hostLinkUp 2 5 16 true, .hostLinkUp 0 5 17 true,
      .bar4Read 2 0 4, .bar4Read 0 68719476736 1, .bar4Write 2 0 [], .bar4Write 0 68719476735 [1, 2], .msixUnmask 64 (.vec 0),
      .msixUnmask 0 (.vec 16), .msixUnmask 0 (.func 2 true false)] : List Instr).all (fun i => !i.wf) = true ∧
    ([.cmdEntryFetched 64 0 (List.replicate 8 0), .cmdEntryFetched 0 4 (List.replicate 8 0), .cmdEntryFetched 0 0 (List.replicate 7 0)]
      : List Instr).all (fun i => !i.wf) = true := by decide +kernel

theorem test_wf_refuses_rim :
    ([.rimWfi ⟨32, 0, 0⟩, .rimWfi ⟨0, 18446744073709551616, 0⟩, .rimTimerInterrupt 32, .rimDoorbell .mgmt 32 0, .msipWrite .mgmt 32 true 0, .rimIoAccess 32 false 0 8 0,
      .rimIoAccess 0 false 72057594037927936 8 0, .rimIoAccess 0 false 0 3 0, .rimStoreAccess ⟨32, 0⟩ 0 1 none,
      .rimStoreAccess ⟨0, 0⟩ 281474976710656 1 none, .rimStoreAccess ⟨0, 0⟩ 0 0 none, .rimStoreAccess ⟨0, 0⟩ 0 65 none, .rimStoreAccess ⟨0, 3⟩ 0 1 none,
      .rimStoreAccess ⟨0, 0⟩ 0 2 (some [1]), .rimFlushDone 36] : List Instr).all (fun i => !i.wf) = true := by decide +kernel

theorem test_wf_refuses_tiles :
    ([.seqDispatch, .waitSatisfied, .loop, .loopEnd, .cmpset, .branch, .swap, .bankSwap, .halt, .tileHalted, .endProg, .tilePark,
      .drain, .drainComplete, .tileFlushDone, .vop, .vsetvl, .vseed, .dma, .imemDataHiRead, .tileWakeDone,
      (.engineInstrIssue · 0), (.engineInstrComplete · 0), (.engineExecError · 0 1), (.wait · 6), (.signal · 6),
      (.qcfgWrite .mgmt · 0 0), (.imemDataHiWrite .mgmt · 0), (.shadowReadySet .mgmt · 0), (.hDoorbell .mgmt · 0), (.hCfgEnable .mgmt · 0),
      (.tdmaRingStop .mgmt · 0), (.tdmaRingResume .mgmt · 0), (.spInject .mgmt · 0), (.mma · 0), (.accwb · 0), (.smma24 · 0), (.smmau · 0),
      (.smmab · 0), (.dmaDescriptorStart · 0 [] [] none), (.dmaDescriptorComplete · 0), (.tdmaHostFail · 0), (.requestUrgent · 0 0),
      (.scrubForced · 0 0), (.sramScrubLine · 0 0), (.combStep · 0), (fun t => .lineAccept (.route t 0)),
      (fun t => .lineAccept (.comb t 0)), (fun t => .lineAccept (.dma t))] : List (Nat → Instr)).all (fun c => !(c 34560).wf) = true ∧
    ([.engineInstrIssue 0 6, .engineInstrComplete 0 6, .engineExecError 0 6 1, .engineExecError 0 0 256, .wait 0 7, .signal 0 7,
      .qcfgWrite .mgmt 0 14 0, .mma 0 4, .accwb 0 4, .smma24 0 4, .smmau 0 4, .smmab 0 4, .dmaDescriptorStart 0 2 [] [] none,
      .dmaDescriptorStart 0 0 (List.replicate 33 0) [] none, .dmaDescriptorComplete 0 2, .tdmaHostFail 0 4096, .requestUrgent 0 7 0,
      .requestUrgent 0 0 12, .scrubForced 0 12 0, .scrubForced 0 0 2048, .sramScrubLine 0 12 0, .sramScrubLine 0 0 2048, .combStep 0 16,
      .lineAccept (.route 0 6), .lineAccept (.comb 0 16)] : List Instr).all (fun i => !i.wf) = true := by decide +kernel

theorem test_wf_refuses_ports :
    ([(.stackTempSample · 20), .edgeWrite, .edgeRead, .combExitForward, .shadowOpen, .commitTimeout, .mirrorTimeout,
      (.streamEntryStart · 0), (.gatherStart · 0), (.streamEnd · 0 0), (.gatherTimeout · 0), (.xferTimeout · 0),
      (.slipMapWrite .mgmt · 0 0), (.gjobWrite .mgmt · 0), (.glazeRangeUpdate · 0), (.glazeRangeAccepted · 0),
      (fun p => .lineAccept (.stream p 0 0))] : List (Nat → Instr)).all (fun c => !(c 48).wf) = true ∧
    ([.storeReadTimeout 65536, .segReadTimeout 65536, .streamEntryStart 0 16, .gatherStart 0 16, .streamEnd 0 16 0, .streamEnd 0 0 4096,
      .gatherTimeout 0 8, .xferTimeout 0 16, .slipMapWrite .mgmt 0 8 0, .glazeRangeUpdate 0 4096, .glazeRangeAccepted 0 4096,
      .lineAccept (.stream 0 16 0), .lineAccept (.stream 0 0 4096), .pugCombReceive 16 0, .pugCombReceive 0 32,
      .bucketStageAdvance 256 0, .bucketStageAdvance 0 65536, .bucketDone 256 0, .bucketDone 0 65536, .stageTimeout 256 0,
      .stageTimeout 0 65536, .voteResend 256, .commitResend 256, .mirrorSyncDone 256, .kilnLoadDone 256, .kilnArmed 256,
      .kilnStepBoundary 256, .swapOutDone 256, .swapInDone 256, .jobOwnerWrite .mgmt 256 0, .kilnSaggarWrite .mgmt 256 0] : List Instr).all
      (fun i => !i.wf) = true := by decide +kernel

/-- A frame whose fields fit. -/
def frameOk : Frame := ⟨true, true, 0, 0, 0, 0, 0, 0, 0, true, true, true, 0, 0, 0, 0, 0, []⟩

theorem test_wf_refuses_links :
    ([(.linkEnable .mgmt · 0), (.linkDisable .mgmt · 0), (.linkTrainDone · 0 0 false), .linkTrainTimeout, .linkLoss, .linkAutoRetrain,
      .heartbeat, .ack, .nak, .record, .abortBroadcastReceive, .vote, .commit, .commitAck, .segReq, .segServeStart, .segData,
      (.hello · 0 0 0 0), (.frameReceive · frameOk), (.ackTimeout · 0 0), (.segServeDone · 0), (.pauseFrame · 0 true)]
      : List (Nat → Instr)).all (fun c => !(c 19).wf) = true ∧
    ([.linkTrainDone 0 65536 0 false, .hello 0 4096 0 0 0, .hello 0 0 4 0 0, .hello 0 0 0 3 0, .hello 0 0 0 0 4, .ackTimeout 0 4096 0,
      .ackTimeout 0 0 4, .segServeDone 0 64, .pauseFrame 0 8 true] : List Instr).all (fun i => !i.wf) = true ∧
    ([{ frameOk with da := 281474976710656 }, { frameOk with etype := 65536 }, { frameOk with ver := 16 }, { frameOk with cls := 16 },
      { frameOk with typ := 256 }, { frameOk with src := 4096 }, { frameOk with dst := 4096 }, { frameOk with seq := 4294967296 },
      { frameOk with msg := 65536 }, { frameOk with moff := 4294967296 }, { frameOk with mlen := 4294967296 }] : List Frame).all
      (fun f => !(Instr.frameReceive 0 f).wf) = true := by decide +kernel

theorem test_wf_refuses_long_payload :
    (Instr.frameReceive 0 { frameOk with payload := List.replicate 65536 0 }).wf = false := by decide +kernel

theorem test_wf_refuses_wafer_power_and_reset :
    ([.computeWatchdog, (.coreResidueMismatch · 0), .vecResidueMismatch, .neighbourWatchExpire, .repeaterClockLoss, .selftestStart,
      (.selftestDone · 0)] : List (Nat → Instr)).all (fun c => !(c 36000).wf) = true ∧
    ([.coreResidueMismatch 0 4, .selftestDone 0 256, .dividerSwitch 2, .thermalSample (List.replicate 297 0), .thermalLevelClear 0 0,
      .thermalLevelClear 4 0, .thermalLevelClear 1 49, .storeScrubBurst 281474976710656 0, .storeScrubBurst 0 3,
      .trimEvaluate (List.replicate 49 0), .resetNRelease 4 true false, .storeTrainDone [48] 0, .mgmtRead 65536 0, .mgmtRead 0 4294967296,
      .mgmtWrite 65536 0 0, .mgmtWrite 0 4294967296 0, .mgmtReset 65536, .i3cRead 256, .tapInstruction 256, .fieldRampEnd 48]
      : List Instr).all (fun i => !i.wf) = true := by decide +kernel

/-! ### States of the witnesses -/

/-- A state with fields of registers written, each (field, instance, value). -/
def put (l : List (Fld × Nat × Nat)) (s : State) : State := l.foldl (fun s x => (setF x.1 x.2.1 x.2.2).run s) s

/-- A state with hidden scalars written. -/
def putA (l : List (Aux × Nat)) (s : State) : State := l.foldl (fun s x => (setAx x.1 x.2).run s) s

/-- A module that has reached READY. -/
def live : State := put [(fMgmtState, 0, 7)] State.reset


/-! ### The machine, geometry, registers -/

def twoWait : State := { live with pending := [.heartbeatTick, .hoursCount] }
def geoDue : State := putA [(⟨.geoDue, 0, 0⟩, 1)] live
def updating : State := put [(fUpdating, 1, 1)] live
/-- Host link 0 up, generation 1 published, the root's rings on link 0. -/
def linked : State := put [(fLinkUp, 256, 1), (fGen, 1, 1)] live
def copying : State := put [(fCopying, 1, 1)] live

/-- A state and operands that meet the hypotheses of `StepRunsTheFrontCommand`, clause by clause. -/
theorem test_hyps_StepRunsTheFrontCommand :
    (twoWait.pending = [Instr.heartbeatTick, Instr.hoursCount]) := by decide +kernel

/-- A state and operands that meet the hypotheses of `IdleStepCountsOneEdge`, clause by clause. -/
theorem test_hyps_IdleStepCountsOneEdge :
    (live.pending = []) := by decide +kernel

/-- A state and operands that meet the hypotheses of `GeometryIsPublishedAndRead`, clause by clause. -/
theorem test_hyps_GeometryIsPublishedAndRead :
    ((geoDue.running) ∧
      (geoDue.on fUpdating 1 = false) ∧
      (geoDue.ax { kind := AuxKind.geoDue : Aux } ≠ 0 ∨ geoDue.bootGeom = true)) ∧
    ((updating.running) ∧
      (updating.on fUpdating 1 = true)) ∧
    ((put [(fDistInc, 1, 1), (fDistPort, 1, 47), (fDistTile, 1, 34559)] live).held = false) ∧
    ((linked.lets (Src.host 0 0) Blk.mgmt 1 true) ∧
      (getBits 1 0 1 = 1) ∧
      (getBits (linked.rd Blk.mgmt 1 312) 0 6 = 0) ∧
      (linked.get fCopying 1 ≠ 1) ∧
      (linked.get fGen 1 ≠ 0) ∧
      (linked.linkUp (linked.get fRootLink 0) = true)) ∧
    ((copying.held = false) ∧
      (copying.get fCopying 1 = 1)) ∧
    ((copying.held = false) ∧
      (copying.get fCopying 1 = 1) ∧
      (6635583 < 6635584)) := by
  repeat' with_reducible apply And.intro
  all_goals decide +kernel

/-- A state and operands that meet the hypotheses of `RegisterWritesByAccessCode`, clause by clause. -/
theorem test_hyps_RegisterWritesByAccessCode :
    ((live.lets Src.mgmt Blk.glaze 47 true) ∧
      (360 % 8 = 0) ∧
      (256 ≤ 360) ∧
      (360 < 4096) ∧
      ((ownEff Src.mgmt Blk.glaze 47 360 18446462603027742720).isNone = true) ∧
      (msixRange Blk.glaze 47 360 = false) ∧
      (plainMask Blk.glaze 47 360 ≠ 0)) ∧
    ((put [(fEvt Blk.glaze 1, 47, 1)] live).lets Src.mgmt Blk.glaze 47 true) ∧
    ((put [(fErrCode Blk.kiln, 255, 3)] live).lets Src.mgmt Blk.kiln 255 true) := by
  repeat' with_reducible apply And.intro
  all_goals decide +kernel

/-- A state and operands that meet the hypotheses of `WritesWithoutEffect`, clause by clause. -/
theorem test_hyps_WritesWithoutEffect :
    ((writesPage (Instr.errClear (Src.host 0 1) Blk.mgmt 0) = some (Src.host 0 1, Blk.mgmt, 0)) ∧
      (live.inTurnFor (Src.host 0 1)) ∧
      (live.writeAccess (Src.host 0 1) Blk.mgmt 0 = WAcc.ignored)) ∧
    ((live.inTurnFor Src.mgmt) ∧
      (live.running) ∧
      (0 < 4096) ∧
      (0 ≠ offSaggar) ∧
      (live.writeAccess Src.mgmt Blk.tile 34559 = WAcc.ok true) ∧
      (live.present Blk.tile 34559 = false) ∧
      ((ownEff Src.mgmt Blk.tile 34559 0 1).isNone = true)) ∧
    ((live.inTurnFor Src.mgmt) ∧
      (live.running) ∧
      (308 < 4096) ∧
      (live.writeAccess Src.mgmt Blk.rim 31 = WAcc.ok true) ∧
      (live.present Blk.rim 31 = true) ∧
      (msixRange Blk.rim 31 308 = false) ∧
      (4 ≠ 8 ∨ 308 % 8 ≠ 0)) := by
  repeat' with_reducible apply And.intro
  all_goals decide +kernel

/-- A state and operands that meet the hypotheses of `DeniedWritesAreCountedAndRecorded`, clause by clause. -/
theorem test_hyps_DeniedWritesAreCountedAndRecorded :
    ((writesPage (Instr.errClear (Src.host 1 0) Blk.kiln 251) = some (Src.host 1 0, Blk.kiln, 251)) ∧
      ((put [(fVfEnable, 256, 1), (fNumVfs, 256, 1), (fSaggar Blk.host, 1, 5), (fSaggar Blk.kiln, 251, 6)] linked).inTurnFor (Src.host 1 0)) ∧
      ((put [(fVfEnable, 256, 1), (fNumVfs, 256, 1), (fSaggar Blk.host, 1, 5), (fSaggar Blk.kiln, 251, 6)] linked).writeAccess (Src.host 1 0) Blk.kiln 251 = WAcc.denied Blk.host 1 251 5 6 251)) := by
  repeat' with_reducible apply And.intro
  all_goals decide +kernel

/-- A state and operands that meet the hypotheses of `SaggarRegisterIsRootOnly`, clause by clause. -/
theorem test_hyps_SaggarRegisterIsRootOnly :
    ((live.lets Src.mgmt Blk.glaze 47 true) ∧
      (Blk.glaze ≠ Blk.kiln) ∧
      (¬(Blk.glaze = Blk.host ∧ 47 = 0))) ∧
    (((put [(fVfEnable, 256, 1), (fNumVfs, 256, 63)] linked).lets (Src.host 63 0) Blk.sem 63 false) ∧
      (Blk.sem ≠ Blk.kiln)) := by
  repeat' with_reducible apply And.intro
  all_goals decide +kernel

/-! ### The host interface -/

/-- Link 1 up with 63 virtual functions, every slot bound to it; the last function active. -/
def vfs : State := put ((fLinkUp, 257, 1) :: (fVfEnable, 257, 1) :: (fNumVfs, 257, 63) :: [(fBind 63, 0, 1)]) live
/-- Ring 3 of function 63 enabled with 16 entries; its entry 15 being fetched. -/
def ringOn : State := put [(fRingEnable 3, 63, 1), (fRingLog 3, 63, 4), (fRingHead 3, 63, 15)] vfs
def ringBusy : State := putA [(⟨.ringFetch, 63, 3⟩, 1), (⟨.ringTail, 63, 3⟩, 0)] ringOn
/-- Function 63's event ring enabled, TAIL at its last entry. -/
def evtRingOn : State := put [(fEvtRingEn, 63, 1), (fEvtRingLog, 63, 4), (fEvtTail, 63, 15), (fEvtPhase, 63, 1), (fEvtHead, 63, 1), (fSaggar .host, 63, 5)] vfs
/-- A command of function 63, ring 3, entry 15, to mailbox 63. -/
def ctx63 : CmdCtx := ⟨63, 3, 15, 63, true, 7⟩
/-- A command of the root, ring 0, entry 0, to mailbox 0. -/
def ctx0 : CmdCtx := ⟨0, 0, 0, 0, true, 7⟩
def aFence : Running := ⟨ctx63, .host, 0, 1, [], 9, true, none⟩
def fenced : State := { put [(fMbxPending 63, 127, 1)] vfs with hi := { running := [aFence] } }
def fetchedEntry (op blk : Nat) : Fetched := ⟨63, 3, 15, ⟨true, op, blk, 0, 63, true, 7, []⟩⟩
def fetchedSt (op blk : Nat) : State := { ringOn with hi := { fetched := [fetchedEntry op blk] } }
def given03_1 := { put [(fSaggar .kiln, 255, 5)] evtRingOn with hi := { evq := [⟨.kiln, 255, 4, 0, 0⟩] } }
def given03_2 := { put [(fHsemCount 63, 63, 0xFFFFFFF0), (fSaggar .host, 63, 5), (fSaggar .kiln, 255, 5)] vfs with hi := { signals := [⟨255, 63, 255⟩] } }
def given03_3 := { put [(fSaggar .kiln, 255, 63)] vfs with hi := { signals := [⟨255, 63, 255⟩] } }
def given03_4 := { ringOn with hi := { running := [aFence], fetched := [fetchedEntry 0 0] } }
/-! ### Rim cores -/

def rim31 (st : Nat) : State := put [(fRimState, 31, st)] vfs
def flushing : Running := ⟨ctx0, .rim, 35, 0x13, [], 4, true, none⟩
def rimFlushing : State := { put [(fRimState, 35, 1)] live with hi := { running := [flushing] }, rm := { lines := [⟨0x40, 3, 7, []⟩, ⟨0x80, 2, 7, []⟩] } }
def given03_5 := { rim31 1 with rm := { lines := [⟨0x40, 3, 7, []⟩] } }
def given03_6 := { putA [(⟨.rimMie, 31, 0⟩, 0x80), (⟨.rimStimecmp, 31, 0⟩, 3)] (put [(fMtimecmp, 31, 2)] (rim31 2)) with wcount := 48 }
def given03_7 := { putA [(⟨.rimMie, 31, 0⟩, 0x20), (⟨.rimStimecmp, 31, 0⟩, 2)] (put [(fMtimecmp, 31, 3)] (rim31 2)) with wcount := 48 }

/-- A state and operands that meet the hypotheses of `CommandRingsFetch`, clause by clause. -/
theorem test_hyps_CommandRingsFetch :
    ((vfs.lets Src.mgmt Blk.host 63 true) ∧
      (63 < 64) ∧
      (3 < 4) ∧
      (4 ≤ getBits 268 0 4) ∧
      (getBits 268 0 4 ≤ 12) ∧
      (vfs.on (fRingEnable 3) 63 = true → getBits 268 0 4 = vfs.get (fRingLog 3) 63)) ∧
    ((ringOn.lets (Src.host 63 1) Blk.host 63 false) ∧
      (63 < 64) ∧
      (3 < 4) ∧
      (4 ≤ getBits 260 0 4) ∧
      (getBits 260 0 4 ≤ 12) ∧
      (ringOn.on (fRingEnable 3) 63 = true → getBits 260 0 4 = ringOn.get (fRingLog 3) 63)) ∧
    ((ringOn.lets (Src.host 63 1) Blk.host 63 false) ∧
      (63 < 64) ∧
      (3 < 4) ∧
      (ringOn.on (fRingEnable 3) 63 = true) ∧
      (getBits 0 0 16 < ringOn.ringSz 63 3)) ∧
    ((vfs.lets (Src.host 63 1) Blk.host 63 false) ∧
      (63 < 64) ∧
      (4 ≤ getBits 270 0 4) ∧
      (getBits 270 0 4 ≤ 14) ∧
      (vfs.on fEvtRingEn 63 = true → getBits 270 0 4 = vfs.get fEvtRingLog 63)) ∧
    ((ringBusy.running) ∧
      (63 < 64) ∧
      (3 < 4) ∧
      (ringBusy.active 63 = true) ∧
      (ringBusy.on (fRingEnable 3) 63 = true) ∧
      (ringBusy.ax { kind := AuxKind.ringFetch, a := 63, b := 3 : Aux } ≠ 0) ∧
      (ringBusy.linkUp (ringBusy.ringLink 63 3) = true)) ∧
    ((ringBusy.running) ∧
      (63 < 64) ∧
      (3 < 4) ∧
      (ringBusy.active 63 = true) ∧
      (15 < ringBusy.ringSz 63 3)) ∧
    ((evtRingOn.held = false) ∧
      (63 < 64) ∧
      (evtRingOn.active 63 = true) ∧
      (15 < 2 ^ evtRingOn.get fEvtRingLog 63)) := by
  repeat' with_reducible apply And.intro
  all_goals decide +kernel

/-- A state and operands that meet the hypotheses of `NopAndFence`, clause by clause. -/
theorem test_hyps_NopAndFence :
    ((vfs.running) ∧
      (vfs.active ctx63.func = true) ∧
      (vfs.fenceHeld ctx63.func ctx63.ring = false) ∧
      (vfs.plainCode ctx63 = eOK)) ∧
    ((vfs.running) ∧
      (vfs.active ctx63.func = true) ∧
      (vfs.fenceHeld ctx63.func ctx63.ring = false) ∧
      (vfs.plainCode ctx63 = eOK) ∧
      (∀ r ∈ vfs.hi.running, r.seq ≠ vfs.seq + 1)) ∧
    ((fenced.held = false) ∧
      (List.find? (fun r => decide (r.blk = Blk.host) && decide (r.op = 1)) (List.filter (fun r => decide (r.ctx.func = 63) && decide (r.ctx.ring = 3)) fenced.hi.running) = some aFence) ∧
      (∀ x ∈ fenced.hi.running, x.ctx.func = 63 → x.ctx.ring = 3 → aFence.seq ≤ x.seq)) := by
  repeat' with_reducible apply And.intro
  all_goals decide +kernel

/-- A state and operands that meet the hypotheses of `AdmissionDecidesTheOldestEntry`, clause by clause. -/
theorem test_hyps_AdmissionDecidesTheOldestEntry :
    (((fetchedSt 1 0).running) ∧
      ((fetchedSt 1 0).active 63 = true) ∧
      ((fetchedSt 1 0).ringTurn 63 = some 3) ∧
      (List.find? (fun x => decide (x.func = 63) && decide (x.ring = 3)) (fetchedSt 1 0).hi.fetched = some (fetchedEntry 1 0))) ∧
    (((fetchedSt 2 23).running) ∧
      ((fetchedSt 2 23).active 63 = true) ∧
      ((fetchedSt 2 23).ringTurn 63 = some 3) ∧
      (List.find? (fun x => decide (x.func = 63) && decide (x.ring = 3)) (fetchedSt 2 23).hi.fetched = some (fetchedEntry 2 23))) := by
  repeat' with_reducible apply And.intro
  all_goals decide +kernel

/-- A state and operands that meet the hypotheses of `MailboxAndSemaphoreWrites`, clause by clause. -/
theorem test_hyps_MailboxAndSemaphoreWrites :
    (((put [(fMbxValid 63, 127, 1), (fMbxSeq 63, 127, 5)] vfs).lets (Src.host 63 1) Blk.host (64 + 63) false) ∧
      (63 < 64) ∧
      (63 < 64) ∧
      ((put [(fMbxValid 63, 127, 1), (fMbxSeq 63, 127, 5)] vfs).on (fMbxValid 63) (64 + 63) = true) ∧
      (getBits 5 0 32 = (put [(fMbxValid 63, 127, 1), (fMbxSeq 63, 127, 5)] vfs).get (fMbxSeq 63) (64 + 63))) ∧
    (((put [(fHsemCount 63, 63, 5)] vfs).lets (Src.host 63 1) Blk.sem 63 false) ∧
      (63 < 64) ∧
      (63 < 64) ∧
      (getBits 5 0 32 ≤ (put [(fHsemCount 63, 63, 5)] vfs).get (fHsemCount 63) 63)) ∧
    (((put [(fKilnState, 0, 4), (fSem 47, 0, 65535)] live).lets Src.mgmt Blk.sem 0 true) ∧
      (0 < 64) ∧
      ((put [(fKilnState, 0, 4), (fSem 47, 0, 65535)] live).semErr Src.mgmt true 4281270272 = none)) := by
  repeat' with_reducible apply And.intro
  all_goals decide +kernel

/-- A state and operands that meet the hypotheses of `EventsAndHostSignalsAreAdmitted`, clause by clause. -/
theorem test_hyps_EventsAndHostSignalsAreAdmitted :
    ((given03_1.running) ∧
      (given03_1.hi.evq[0]? = some { blk := Blk.kiln, inst := 255, bit := 4, code := 0, info := 0 : Event }) ∧
      (given03_1.behindGeom 0 { blk := Blk.kiln, inst := 255, bit := 4, code := 0, info := 0 : Event } = false)) ∧
    ((given03_2.running) ∧
      (given03_2.hi.signals[0]? = some { kiln := 255, sem := 63, count := 255 : HostSig }) ∧
      ({ kiln := 255, sem := 63, count := 255 : HostSig }.sem < 64)) ∧
    ((given03_3.running) ∧
      (given03_3.hi.signals[0]? = some { kiln := 255, sem := 63, count := 255 : HostSig }) ∧
      ({ kiln := 255, sem := 63, count := 255 : HostSig }.sem < 64)) := by
  repeat' with_reducible apply And.intro
  all_goals decide +kernel

/-- A state and operands that meet the hypotheses of `ArbiterOrderDecidesAckAgainstCommand`, clause by clause. -/
theorem test_hyps_ArbiterOrderDecidesAckAgainstCommand :
    (((put [(fMbxValid 63, 127, 1), (fMbxSeq 63, 127, 5)] vfs).lets (Src.host 63 1) Blk.host (64 + 63) false) ∧
      (63 < 64) ∧
      (63 < 64) ∧
      ((put [(fMbxValid 63, 127, 1), (fMbxSeq 63, 127, 5)] vfs).on (fMbxValid 63) (64 + 63) = true) ∧
      ((put [(fMbxValid 63, 127, 1), (fMbxSeq 63, 127, 5)] vfs).on (fMbxPending 63) (64 + 63) = false) ∧
      (getBits 5 0 32 = (put [(fMbxValid 63, 127, 1), (fMbxSeq 63, 127, 5)] vfs).get (fMbxSeq 63) (64 + 63))) ∧
    (((put [(fMbxValid 63, 127, 1), (fMbxSeq 63, 127, 5)] vfs).running) ∧
      ((put [(fMbxValid 63, 127, 1), (fMbxSeq 63, 127, 5)] vfs).active ctx63.func = true) ∧
      ((put [(fMbxValid 63, 127, 1), (fMbxSeq 63, 127, 5)] vfs).fenceHeld ctx63.func ctx63.ring = false) ∧
      (ctx63.mbxEn = true) ∧
      ((put [(fMbxValid 63, 127, 1), (fMbxSeq 63, 127, 5)] vfs).on (fMbxValid ctx63.mailbox) (64 + ctx63.func) = true)) := by
  repeat' with_reducible apply And.intro
  all_goals decide +kernel

/-- A state and operands that meet the hypotheses of `FunctionsBindChangeAndReset`, clause by clause. -/
theorem test_hyps_FunctionsBindChangeAndReset :
    ((live.lets Src.mgmt Blk.host 0 true) ∧
      (∀ f < 64, f ≠ 0 → live.active f = true → getBits 9223372036854775808 f 1 = live.bind f)) ∧
    ((ringOn.held = false) ∧
      (1 < 2) ∧
      (ringOn.linkUp 1 = true) ∧
      (62 < 64)) ∧
    ((given03_4.held = false) ∧
      (63 < 64) ∧
      (given03_4.active 63 = true) ∧
      (given03_4.ax { kind := AuxKind.resetting : Aux } = 0)) := by
  repeat' with_reducible apply And.intro
  all_goals decide +kernel

/-- A state and operands that meet the hypotheses of `HostLinksComeAndGo`, clause by clause. -/
theorem test_hyps_HostLinksComeAndGo :
    (((put [({ blk := Blk.host, off := 264, lo := 0, w := 16 : Fld }, 257, 65535)] ringBusy).held = false) ∧
      (1 < 2) ∧
      ((put [({ blk := Blk.host, off := 264, lo := 0, w := 16 : Fld }, 257, 65535)] ringBusy).linkUp 1 = true)) ∧
    (((putA [({ kind := AuxKind.perst, a := 1 : Aux }, 1)] live).held = false) ∧
      (1 < 2) ∧
      ((putA [({ kind := AuxKind.perst, a := 1 : Aux }, 1)] live).linkUp 1 = false) ∧
      ((putA [({ kind := AuxKind.perst, a := 1 : Aux }, 1)] live).ax { kind := AuxKind.perst, a := 1 : Aux } ≠ 0) ∧
      ((putA [({ kind := AuxKind.perst, a := 1 : Aux }, 1)] live).get fMgmtState 0 ≠ 1) ∧
      (15 < 16) ∧
      (31 < 32)) ∧
    (((putA [({ kind := AuxKind.msixEn, a := 63 : Aux }, 1)] (put [(fPba 15, 63, 1), (fVecMask 15, 63, 1)] vfs)).held = false) ∧
      (63 < 64) ∧
      ((putA [({ kind := AuxKind.msixEn, a := 63 : Aux }, 1)] (put [(fPba 15, 63, 1), (fVecMask 15, 63, 1)] vfs)).active 63 = true) ∧
      (15 < 16) ∧
      ((putA [({ kind := AuxKind.msixEn, a := 63 : Aux }, 1)] (put [(fPba 15, 63, 1), (fVecMask 15, 63, 1)] vfs)).linkUp ((putA [({ kind := AuxKind.msixEn, a := 63 : Aux }, 1)] (put [(fPba 15, 63, 1), (fVecMask 15, 63, 1)] vfs)).funcLink 63) = true)) ∧
    (((putA [({ kind := AuxKind.msixEn : Aux }, 1)] (put [(fPba 0, 0, 1), (fVecMask 0, 0, 1)] linked)).held = false) ∧
      (0 < 64) ∧
      ((putA [({ kind := AuxKind.msixEn : Aux }, 1)] (put [(fPba 0, 0, 1), (fVecMask 0, 0, 1)] linked)).active 0 = true) ∧
      (0 < 16) ∧
      ((putA [({ kind := AuxKind.msixEn : Aux }, 1)] (put [(fPba 0, 0, 1), (fVecMask 0, 0, 1)] linked)).linkUp ((putA [({ kind := AuxKind.msixEn : Aux }, 1)] (put [(fPba 0, 0, 1), (fVecMask 0, 0, 1)] linked)).funcLink 0) = true)) ∧
    (((put [(fPba 15, 63, 1)] vfs).held = false) ∧
      (63 < 64) ∧
      ((put [(fPba 15, 63, 1)] vfs).active 63 = true) ∧
      (1 < 2) ∧
      ((put [(fPba 15, 63, 1)] vfs).linkUp (if 63 = 0 then 1 else (put [(fPba 15, 63, 1)] vfs).bind 63) = true)) ∧
    ((linked.held = false) ∧
      (0 < 64) ∧
      (linked.active 0 = true) ∧
      (0 < 2) ∧
      (linked.linkUp (if 0 = 0 then 0 else linked.bind 0) = true)) ∧
    (1 < 2) ∧
    ((vfs.held = false) ∧
      (1 < 2) ∧
      (vfs.ax { kind := AuxKind.resetting : Aux } = 0)) := by
  repeat' with_reducible apply And.intro
  all_goals decide +kernel

/-- A state and operands that meet the hypotheses of `RimCoresRunAndWake`, clause by clause. -/
theorem test_hyps_RimCoresRunAndWake :
    ((live.admits ctx0 Blk.rim 31 (rimStartSpec 31 [3298534883326])) ∧
      (∀ r ∈ live.hi.running, r.seq ≠ live.seq + 1)) ∧
    (((rim31 2).admits ctx0 Blk.rim 31 (rimHaltSpec 31 [] 4660)) ∧
      (∀ r ∈ (rim31 2).hi.running, r.seq ≠ (rim31 2).seq + 1)) ∧
    ((given03_5.admits ctx0 Blk.rim 31 (rimResetSpec 31 [])) ∧
      (∀ r ∈ given03_5.hi.running, r.seq ≠ given03_5.seq + 1)) ∧
    (live.admits ctx0 Blk.rim 35 (rimFlushSpec 35 [])) ∧
    ((rimFlushing.held = false) ∧
      ((rimFlushing.runningOf Blk.rim (32 + 3) 19).head? = some flushing)) ∧
    (((rim31 1).running) ∧
      (31 < 32) ∧
      ((rim31 1).get fRimState 31 = 1) ∧
      ((rim31 1).rimMip 31 (BitVec.toNat (18446744073709551615 : W64)) &&& 2730 = 0)) ∧
    (((putA [({ kind := AuxKind.rimMie, a := 31 : Aux }, 2048)] (put [({ blk := Blk.rim, off := 280, lo := 0, w := 1 : Fld }, 31, 1)] (rim31 2))).lets Src.mgmt Blk.rim 31 true) ∧
      (31 < 32) ∧
      (getBits 1 0 1 = 1)) ∧
    (((putA [({ kind := AuxKind.rimMie, a := 31 : Aux }, 8)] (rim31 2)).lets Src.mgmt Blk.rim 31 true) ∧
      (31 < 32)) ∧
    (((rim31 2).lets Src.mgmt Blk.rim 31 true) ∧
      (31 < 32)) ∧
    ((given03_6.running) ∧
      (31 < 32) ∧
      (given03_6.get fRimState 31 = 2) ∧
      (given03_6.get fMtimecmp 31 ≤ given03_6.rimTime ∧ given03_6.ax { kind := AuxKind.rimMie, a := 31 : Aux } / 2 ^ 7 % 2 = 1 ∨ given03_6.ax { kind := AuxKind.rimStimecmp, a := 31 : Aux } ≤ given03_6.rimTime ∧ given03_6.ax { kind := AuxKind.rimMie, a := 31 : Aux } / 2 ^ 5 % 2 = 1)) ∧
    ((given03_7.running) ∧
      (31 < 32) ∧
      (given03_7.get fRimState 31 = 2) ∧
      (given03_7.get fMtimecmp 31 ≤ given03_7.rimTime ∧ given03_7.ax { kind := AuxKind.rimMie, a := 31 : Aux } / 2 ^ 7 % 2 = 1 ∨ given03_7.ax { kind := AuxKind.rimStimecmp, a := 31 : Aux } ≤ given03_7.rimTime ∧ given03_7.ax { kind := AuxKind.rimMie, a := 31 : Aux } / 2 ^ 5 % 2 = 1)) := by
  repeat' with_reducible apply And.intro
  all_goals decide +kernel

/-- A state and operands that meet the hypotheses of `RimCoreLoadsAndStores`, clause by clause. -/
theorem test_hyps_RimCoreLoadsAndStores :
    (((put [(fUnits, 47, 4064), (fTrained, 47, 1)] (rim31 1)).running) ∧
      (31 < 32) ∧
      ((put [(fUnits, 47, 4064), (fTrained, 47, 1)] (rim31 1)).get fRimState 31 = 1) ∧
      (0 < 8) ∧
      (3297998012408 < 3298534883328) ∧
      ((put [(fUnits, 47, 4064), (fTrained, 47, 1)] (rim31 1)).get (fSaggar Blk.rim) 31 = 0) ∧
      ((put [(fUnits, 47, 4064), (fTrained, 47, 1)] (rim31 1)).firstUnpop 3297998012408 8 = none) ∧
      ((put [(fUnits, 47, 4064), (fTrained, 47, 1)] (rim31 1)).badBursts 3297998012408 8 = [])) ∧
    (((put [(fUnits, 47, 4064), (fTrained, 47, 1)] (rim31 1)).running) ∧
      (31 < 32) ∧
      ((put [(fUnits, 47, 4064), (fTrained, 47, 1)] (rim31 1)).get fRimState 31 = 1) ∧
      ([1, 2, 3] ≠ []) ∧
      (3297998012408 < 3298534883328) ∧
      ((put [(fUnits, 47, 4064), (fTrained, 47, 1)] (rim31 1)).get (fSaggar Blk.rim) 31 = 0) ∧
      ((put [(fUnits, 47, 4064), (fTrained, 47, 1)] (rim31 1)).firstUnpop 3297998012408 [1, 2, 3].length = none) ∧
      ((put [(fUnits, 47, 4064), (fTrained, 47, 1)] (rim31 1)).badPart 3297998012408 [1, 2, 3].length = false)) := by
  repeat' with_reducible apply And.intro
  all_goals decide +kernel

/-! ### Tile programs: the last tile, 34,559, lies at physical index 35,998 -/

/-- An instruction word from its fields (lowest bit, value). -/
def iw (l : List (Nat × Nat)) : W128 := BitVec.ofNat 128 (l.foldl (fun n x => n + x.2 * 2 ^ x.1) 0)
/-- A sequencer instruction, SIG 47, with more fields. -/
def seqW (op : Nat) (l : List (Nat × Nat)) : W128 := iw ((0, op) :: (8, 6) :: (16, 47) :: l)
/-- The last tile ON and RUNNING, an instruction at slot 2,047 of bank 1, where PC stands. -/
def tileAt (w : W128) : State :=
  { putA [(⟨.tilePwr, 35998, 0⟩, 2)] (put [(fTileState, 35998, 1), (fPc, 35998, 2047), (fActive, 35998, 1), (fBank, 35998, 1)] live)
    with imem := [(35998 * 4096 + 4095, w)] }
/-- The sequencer of that tile waits: 1 WAIT, 2 SWAP, 3 DRAIN, 4 END. -/
def tileWaits (w : W128) (k : Nat) : State := putA [(⟨.seqWait, 35998, 0⟩, k)] (tileAt w)
/-- Comparator 3 live on loop counter 7. -/
def comparing (w : W128) : State := putA [(⟨.cmpLive, 35998, 3⟩, 1)] (put [(fCmpLc 3, 35998, 7), (fCmpOp 3, 35998, 1), (fCmpVal 3, 35998, 1), (fLc 7, 35998, 1), (fLimit 7, 35998, 2)] (tileAt w))
/-- An entry of an engine queue of that tile. -/
def qi (e : Nat) (w : W128) : QInstr := { p := 35998, e := e, pc := 2046, bank := 1, word := w, a := .none, b := .none, c := .none }
def queued (l : List QInstr) : State := { tileAt 0 with tl := { q := l } }
def waitW : W128 := iw [(0, 1), (8, 5), (16, 47), (32, 47), (48, 0xFFFF)]
def tileInState (n : Nat) : State := put [(fTileState, 35998, n)] (tileAt 0)
def sigFlit : Flit := { h := { typ := 3, dx := 191, dy := 179, arg := 47 + 255 * 64, sag := 0 }, ctrl := true, at_ := 35998, tx := 191, ty := 179, ly := 179, br := 5 }
def given05_1 := { qi 5 waitW with issued := true }
def given05_2 := { put [(fKilnState, 0, 3), (fKilnX0, 0, 191), (fKilnX1, 0, 191), (fKilnY0, 0, 179), (fKilnY1, 0, 179), (fInKiln, 35998, 1)] (tileAt 0) with net := { flits := [sigFlit] } }
def mmaW : W128 := iw [(0, 0x20), (8, 3), (16, 47), (32, 0x4000), (48, 0x4001), (98, 5), (102, 5), (106, 1)]
/-- The INT8 descriptors of mmaW at slots 0 and 1 of bank 1. -/
def mmaAt : State := { tileAt mmaW with imem := [(35998 * 4096 + 2048, iw [(0, 0xFD), (29, 5)]), (35998 * 4096 + 2049, iw [(0, 0xFD), (8, 0x17FFFF), (29, 5)]), (35998 * 4096 + 4095, mmaW)] }
def nopQ (e : Nat) : W128 := iw [(8, e), (16, 63)]
def full (e n : Nat) : State := { tileAt (nopQ e) with tl := { q := List.replicate n (qi e (nopQ e)) } }
/-- An instruction of core 3 with queue end 5, one line, as OPD_A. -/
def popper : QInstr := { qi 3 mmaW with a := .q 5 1 }
def poppable : State := putA [(⟨.ringLines, 35998, 5⟩, 1)] (put [(fQEnable 5, 35998, 1), (fQBase 5, 35998, 0x17FFC0), (fQLog 5, 35998, 0)] (queued [popper]))
def inKiln255 : List (Fld × Nat × Nat) := [(fKilnState, 255, 3), (fKilnX0, 255, 191), (fKilnX1, 255, 191), (fKilnY0, 255, 179), (fKilnY1, 255, 179)]
def given05_3 := { qi 3 mmaW with issued := true, worked := true }
def given05_4 := { qi 5 (iw [(0, 0x80), (8, 5)]) with issued := true }

/-- A state and operands that meet the hypotheses of `SequencerInstructionsTakeEffect`, clause by clause. -/
theorem test_hyps_SequencerInstructionsTakeEffect :
    ((tileAt (seqW 0 [])).seqAt ((tileAt (seqW 0 [])).phys 34559) 0 6 = some (seqW 0 [])) ∧
    ((comparing (seqW 16 [(32, 7), (48, 65535)])).seqAt ((comparing (seqW 16 [(32, 7), (48, 65535)])).phys 34559) 16 6 = some (seqW 16 [(32, 7), (48, 65535)])) ∧
    ((comparing (seqW 17 [(32, 7), (48, 2047)])).seqAt ((comparing (seqW 17 [(32, 7), (48, 2047)])).phys 34559) 17 6 = some (seqW 17 [(32, 7), (48, 2047)])) ∧
    ((tileAt (seqW 18 [(32, 3), (36, 7), (40, 3), (48, 65535), (64, 65535)])).seqAt ((tileAt (seqW 18 [(32, 3), (36, 7), (40, 3), (48, 65535), (64, 65535)])).phys 34559) 18 6 = some (seqW 18 [(32, 3), (36, 7), (40, 3), (48, 65535), (64, 65535)])) ∧
    ((tileAt (seqW 19 [(48, 2047)])).seqAt ((tileAt (seqW 19 [(48, 2047)])).phys 34559) 19 6 = some (seqW 19 [(48, 2047)])) ∧
    ((tileAt (seqW 20 [(48, 2047)])).seqAt ((tileAt (seqW 20 [(48, 2047)])).phys 34559) 20 6 = some (seqW 20 [(48, 2047)])) ∧
    (((put [(fShadowReady, 35998, 1)] (tileWaits (seqW 20 [(48, 2047)]) 2)).tileRuns ((put [(fShadowReady, 35998, 1)] (tileWaits (seqW 20 [(48, 2047)]) 2)).phys 34559) = true) ∧
      ((put [(fShadowReady, 35998, 1)] (tileWaits (seqW 20 [(48, 2047)]) 2)).get fTileState ((put [(fShadowReady, 35998, 1)] (tileWaits (seqW 20 [(48, 2047)]) 2)).phys 34559) = 1) ∧
      ((put [(fShadowReady, 35998, 1)] (tileWaits (seqW 20 [(48, 2047)]) 2)).ax { kind := AuxKind.seqWait, a := (put [(fShadowReady, 35998, 1)] (tileWaits (seqW 20 [(48, 2047)]) 2)).phys 34559 : Aux } = 2) ∧
      ((put [(fShadowReady, 35998, 1)] (tileWaits (seqW 20 [(48, 2047)]) 2)).on fShadowReady ((put [(fShadowReady, 35998, 1)] (tileWaits (seqW 20 [(48, 2047)]) 2)).phys 34559) = true)) ∧
    ((tileAt (seqW 21 [(32, 65535)])).seqAt ((tileAt (seqW 21 [(32, 65535)])).phys 34559) 21 6 = some (seqW 21 [(32, 65535)])) ∧
    (((tileInState 3).get fTileState ((tileInState 3).phys 34559) = 3) ∧
      ((tileInState 3).queuesEmpty ((tileInState 3).phys 34559) = true)) ∧
    ((tileAt (seqW 22 [])).seqAt ((tileAt (seqW 22 [])).phys 34559) 22 6 = some (seqW 22 [])) ∧
    (((tileWaits (seqW 22 []) 4).get fTileState ((tileWaits (seqW 22 []) 4).phys 34559) = 1) ∧
      ((tileWaits (seqW 22 []) 4).ax { kind := AuxKind.seqWait, a := (tileWaits (seqW 22 []) 4).phys 34559 : Aux } = 4) ∧
      ((tileWaits (seqW 22 []) 4).queuesEmpty ((tileWaits (seqW 22 []) 4).phys 34559) = true)) ∧
    ((tileAt (seqW 23 [(32, 63)])).seqAt ((tileAt (seqW 23 [(32, 63)])).phys 34559) 23 6 = some (seqW 23 [(32, 63)])) ∧
    (((tileWaits (seqW 23 [(32, 63)]) 3).tileRuns ((tileWaits (seqW 23 [(32, 63)]) 3).phys 34559) = true) ∧
      ((tileWaits (seqW 23 [(32, 63)]) 3).get fTileState ((tileWaits (seqW 23 [(32, 63)]) 3).phys 34559) = 1) ∧
      ((tileWaits (seqW 23 [(32, 63)]) 3).ax { kind := AuxKind.seqWait, a := (tileWaits (seqW 23 [(32, 63)]) 3).phys 34559 : Aux } = 3) ∧
      (∀ e < 6, sb ((tileWaits (seqW 23 [(32, 63)]) 3).pcWord ((tileWaits (seqW 23 [(32, 63)]) 3).phys 34559)) (32 + e) 1 = 1 → (tileWaits (seqW 23 [(32, 63)]) 3).depth ((tileWaits (seqW 23 [(32, 63)]) 3).phys 34559) e = 0)) ∧
    (((tileInState 6).get fTileState ((tileInState 6).phys 34559) = 6) ∧
      ((tileInState 6).ax { kind := AuxKind.startDue, a := (tileInState 6).phys 34559 : Aux } = 0)) ∧
    (((putA [({ kind := AuxKind.startDue, a := 35998 : Aux }, 1), ({ kind := AuxKind.semInit, a := 35998, b := 47 : Aux }, 65535)] (put [(fEntry, 35998, 2047)] (tileInState 6))).get fTileState ((putA [({ kind := AuxKind.startDue, a := 35998 : Aux }, 1), ({ kind := AuxKind.semInit, a := 35998, b := 47 : Aux }, 65535)] (put [(fEntry, 35998, 2047)] (tileInState 6))).phys 34559) = 6) ∧
      ((putA [({ kind := AuxKind.startDue, a := 35998 : Aux }, 1), ({ kind := AuxKind.semInit, a := 35998, b := 47 : Aux }, 65535)] (put [(fEntry, 35998, 2047)] (tileInState 6))).ax { kind := AuxKind.startDue, a := (putA [({ kind := AuxKind.startDue, a := 35998 : Aux }, 1), ({ kind := AuxKind.semInit, a := 35998, b := 47 : Aux }, 65535)] (put [(fEntry, 35998, 2047)] (tileInState 6))).phys 34559 : Aux } ≠ 0)) := by
  repeat' with_reducible apply And.intro
  all_goals decide +kernel

/-- A state and operands that meet the hypotheses of `SemaphoresWaitAndSignal`, clause by clause. -/
theorem test_hyps_SemaphoresWaitAndSignal :
    ((tileAt (seqW 1 [(32, 47), (48, 65535)])).seqAt ((tileAt (seqW 1 [(32, 47), (48, 65535)])).phys 34559) 1 6 = some (seqW 1 [(32, 47), (48, 65535)])) ∧
    ((5 < 6) ∧
      ((queued [qi 5 waitW]).tileRuns ((queued [qi 5 waitW]).phys 34559) = true) ∧
      ((queued [qi 5 waitW]).head ((queued [qi 5 waitW]).phys 34559) 5 = some (qi 5 waitW)) ∧
      (iOp (qi 5 waitW).word = 1)) ∧
    (((put [(fSem 47, 35998, 65535)] (tileWaits (seqW 1 [(32, 47), (48, 65535)]) 1)).tileRuns ((put [(fSem 47, 35998, 65535)] (tileWaits (seqW 1 [(32, 47), (48, 65535)]) 1)).phys 34559) = true) ∧
      ((put [(fSem 47, 35998, 65535)] (tileWaits (seqW 1 [(32, 47), (48, 65535)]) 1)).waiter ((put [(fSem 47, 35998, 65535)] (tileWaits (seqW 1 [(32, 47), (48, 65535)]) 1)).phys 34559) 6 = some (seqW 1 [(32, 47), (48, 65535)])) ∧
      (∀ e < 6, (put [(fSem 47, 35998, 65535)] (tileWaits (seqW 1 [(32, 47), (48, 65535)]) 1)).waiter ((put [(fSem 47, 35998, 65535)] (tileWaits (seqW 1 [(32, 47), (48, 65535)]) 1)).phys 34559) e = none) ∧
      (sb (seqW 1 [(32, 47), (48, 65535)]) 48 16 ≤ (put [(fSem 47, 35998, 65535)] (tileWaits (seqW 1 [(32, 47), (48, 65535)]) 1)).get (fSem (sb (seqW 1 [(32, 47), (48, 65535)]) 32 6)) ((put [(fSem 47, 35998, 65535)] (tileWaits (seqW 1 [(32, 47), (48, 65535)]) 1)).phys 34559))) ∧
    (((put [(fSem 47, 35998, 65535)] (queued [given05_1, qi 5 waitW])).tileRuns ((put [(fSem 47, 35998, 65535)] (queued [given05_1, qi 5 waitW])).phys 34559) = true) ∧
      (5 < 6) ∧
      ((put [(fSem 47, 35998, 65535)] (queued [given05_1, qi 5 waitW])).waiter ((put [(fSem 47, 35998, 65535)] (queued [given05_1, qi 5 waitW])).phys 34559) 5 = some waitW) ∧
      (∀ x < 7, x ≠ 5 → (put [(fSem 47, 35998, 65535)] (queued [given05_1, qi 5 waitW])).waiter ((put [(fSem 47, 35998, 65535)] (queued [given05_1, qi 5 waitW])).phys 34559) x = none) ∧
      (∀ i ∈ dropHead ((put [(fSem 47, 35998, 65535)] (queued [given05_1, qi 5 waitW])).phys 34559) 5 (put [(fSem 47, 35998, 65535)] (queued [given05_1, qi 5 waitW])).tl.q, i.p = (put [(fSem 47, 35998, 65535)] (queued [given05_1, qi 5 waitW])).phys 34559 → i.e = 5 → i.issued = false) ∧
      (sb waitW 48 16 ≤ (put [(fSem 47, 35998, 65535)] (queued [given05_1, qi 5 waitW])).get (fSem (sb waitW 32 6)) ((put [(fSem 47, 35998, 65535)] (queued [given05_1, qi 5 waitW])).phys 34559))) ∧
    (((put [(fSem 47, 35998, 65534)] (tileAt (seqW 2 [(34, 47), (40, 255)]))).seqAt ((put [(fSem 47, 35998, 65534)] (tileAt (seqW 2 [(34, 47), (40, 255)]))).phys 34559) 2 6 = some (seqW 2 [(34, 47), (40, 255)])) ∧
      (sb (seqW 2 [(34, 47), (40, 255)]) 32 2 = 0)) ∧
    (((tileAt (seqW 2 [(32, 1), (34, 47), (40, 255), (48, 191), (56, 179)])).seqAt ((tileAt (seqW 2 [(32, 1), (34, 47), (40, 255), (48, 191), (56, 179)])).phys 34559) 2 6 = some (seqW 2 [(32, 1), (34, 47), (40, 255), (48, 191), (56, 179)])) ∧
      (sb (seqW 2 [(32, 1), (34, 47), (40, 255), (48, 191), (56, 179)]) 32 2 ≠ 0)) ∧
    (((tileAt (seqW 2 [(32, 2), (34, 63), (40, 1)])).seqAt ((tileAt (seqW 2 [(32, 2), (34, 63), (40, 1)])).phys 34559) 2 6 = some (seqW 2 [(32, 2), (34, 63), (40, 1)])) ∧
      (sb (seqW 2 [(32, 2), (34, 63), (40, 1)]) 32 2 ≠ 0)) ∧
    ((5 < 6) ∧
      ((put [(fSem 47, 35998, 65534)] (queued [qi 5 (iw [(0, 2), (8, 5), (16, 47), (34, 47), (40, 255)])])).tileRuns ((put [(fSem 47, 35998, 65534)] (queued [qi 5 (iw [(0, 2), (8, 5), (16, 47), (34, 47), (40, 255)])])).phys 34559) = true) ∧
      ((put [(fSem 47, 35998, 65534)] (queued [qi 5 (iw [(0, 2), (8, 5), (16, 47), (34, 47), (40, 255)])])).head ((put [(fSem 47, 35998, 65534)] (queued [qi 5 (iw [(0, 2), (8, 5), (16, 47), (34, 47), (40, 255)])])).phys 34559) 5 = some (qi 5 (iw [(0, 2), (8, 5), (16, 47), (34, 47), (40, 255)]))) ∧
      (iOp (qi 5 (iw [(0, 2), (8, 5), (16, 47), (34, 47), (40, 255)])).word = 2)) ∧
    ((0 < 6) ∧
      ((queued [qi 0 (iw [(0, 2), (16, 63), (32, 2), (34, 63), (40, 1)])]).tileRuns ((queued [qi 0 (iw [(0, 2), (16, 63), (32, 2), (34, 63), (40, 1)])]).phys 34559) = true) ∧
      ((queued [qi 0 (iw [(0, 2), (16, 63), (32, 2), (34, 63), (40, 1)])]).head ((queued [qi 0 (iw [(0, 2), (16, 63), (32, 2), (34, 63), (40, 1)])]).phys 34559) 0 = some (qi 0 (iw [(0, 2), (16, 63), (32, 2), (34, 63), (40, 1)]))) ∧
      (iOp (qi 0 (iw [(0, 2), (16, 63), (32, 2), (34, 63), (40, 1)])).word = 2)) ∧
    ((given05_2.net.flits[0]? = some sigFlit) ∧
      (given05_2.geo.carries sigFlit.at_ = some 34559) ∧
      (sigFlit.br = 5) ∧
      (sigFlit.h.typ = 3) ∧
      (given05_2.deliverFail sigFlit.at_ sigFlit true = 0)) := by
  repeat' with_reducible apply And.intro
  all_goals decide +kernel

/-- A state and operands that meet the hypotheses of `InstructionsDispatchIssueAndComplete`, clause by clause. -/
theorem test_hyps_InstructionsDispatchIssueAndComplete :
    (((tileAt (seqW 0 [(12, 4)])).seqReady ((tileAt (seqW 0 [(12, 4)])).phys 34559) = true) ∧
      (headReasons (tileAt (seqW 0 [(12, 4)])).grade ((tileAt (seqW 0 [(12, 4)])).pcWord ((tileAt (seqW 0 [(12, 4)])).phys 34559)) = []) ∧
      ((tileAt (seqW 0 [(12, 4)])).predTrue ((tileAt (seqW 0 [(12, 4)])).phys 34559) ((tileAt (seqW 0 [(12, 4)])).pcWord ((tileAt (seqW 0 [(12, 4)])).phys 34559)) = false)) ∧
    (((full 5 15).seqAt ((full 5 15).phys 34559) 0 5 = some (nopQ 5)) ∧
      (5 < 6) ∧
      (0 ≠ 65) ∧
      ((full 5 15).depth ((full 5 15).phys 34559) 5 < 16)) ∧
    (((full 5 16).seqAt ((full 5 16).phys 34559) 0 5 = some (nopQ 5)) ∧
      (5 < 6) ∧
      (0 ≠ 65) ∧
      (16 ≤ (full 5 16).depth ((full 5 16).phys 34559) 5)) ∧
    ((mmaAt.seqAt (mmaAt.phys 34559) 32 3 = some mmaW) ∧
      (3 < 6) ∧
      (32 ≠ 65) ∧
      (mmaAt.depth (mmaAt.phys 34559) 3 < 16)) ∧
    (((tileAt (seqW 3 [])).seqReady ((tileAt (seqW 3 [])).phys 34559) = true) ∧
      (leastReason (headReasons (tileAt (seqW 3 [])).grade ((tileAt (seqW 3 [])).pcWord ((tileAt (seqW 3 [])).phys 34559))) = some 1 ∨ headReasons (tileAt (seqW 3 [])).grade ((tileAt (seqW 3 [])).pcWord ((tileAt (seqW 3 [])).phys 34559)) = [] ∧ (tileAt (seqW 3 [])).predTrue ((tileAt (seqW 3 [])).phys 34559) ((tileAt (seqW 3 [])).pcWord ((tileAt (seqW 3 [])).phys 34559)) = true ∧ leastReason ((tileAt (seqW 3 [])).bodyReasons ((tileAt (seqW 3 [])).phys 34559) ((tileAt (seqW 3 [])).get fActive ((tileAt (seqW 3 [])).phys 34559)) ((tileAt (seqW 3 [])).pcWord ((tileAt (seqW 3 [])).phys 34559))) = some 1)) ∧
    (((put inKiln255 (tileAt (seqW 16 [(32, 7)]))).seqReady ((put inKiln255 (tileAt (seqW 16 [(32, 7)]))).phys 34559) = true) ∧
      (leastReason (headReasons (put inKiln255 (tileAt (seqW 16 [(32, 7)]))).grade ((put inKiln255 (tileAt (seqW 16 [(32, 7)]))).pcWord ((put inKiln255 (tileAt (seqW 16 [(32, 7)]))).phys 34559))) = some 9 ∨ headReasons (put inKiln255 (tileAt (seqW 16 [(32, 7)]))).grade ((put inKiln255 (tileAt (seqW 16 [(32, 7)]))).pcWord ((put inKiln255 (tileAt (seqW 16 [(32, 7)]))).phys 34559)) = [] ∧ (put inKiln255 (tileAt (seqW 16 [(32, 7)]))).predTrue ((put inKiln255 (tileAt (seqW 16 [(32, 7)]))).phys 34559) ((put inKiln255 (tileAt (seqW 16 [(32, 7)]))).pcWord ((put inKiln255 (tileAt (seqW 16 [(32, 7)]))).phys 34559)) = true ∧ leastReason ((put inKiln255 (tileAt (seqW 16 [(32, 7)]))).bodyReasons ((put inKiln255 (tileAt (seqW 16 [(32, 7)]))).phys 34559) ((put inKiln255 (tileAt (seqW 16 [(32, 7)]))).get fActive ((put inKiln255 (tileAt (seqW 16 [(32, 7)]))).phys 34559)) ((put inKiln255 (tileAt (seqW 16 [(32, 7)]))).pcWord ((put inKiln255 (tileAt (seqW 16 [(32, 7)]))).phys 34559))) = some 9)) ∧
    ((3 < 6) ∧
      ((queued [qi 3 mmaW]).tileRuns ((queued [qi 3 mmaW]).phys 34559) = true) ∧
      ((queued [qi 3 mmaW]).head ((queued [qi 3 mmaW]).phys 34559) 3 = some (qi 3 mmaW)) ∧
      ((qi 3 mmaW).issued = false) ∧
      (iOp (qi 3 mmaW).word ≠ 1) ∧
      (iOp (qi 3 mmaW).word ≠ 2) ∧
      ((qi 3 mmaW).a.qid = none) ∧
      ((qi 3 mmaW).b.qid = none) ∧
      ((queued [qi 3 mmaW]).pushRoom (qi 3 mmaW) = true)) ∧
    ((5 < 6) ∧
      ((queued [qi 5 (nopQ 5)]).tileRuns ((queued [qi 5 (nopQ 5)]).phys 34559) = true) ∧
      ((queued [qi 5 (nopQ 5)]).head ((queued [qi 5 (nopQ 5)]).phys 34559) 5 = some (qi 5 (nopQ 5))) ∧
      ((qi 5 (nopQ 5)).issued = false) ∧
      (iOp (qi 5 (nopQ 5)).word ≠ 1) ∧
      (iOp (qi 5 (nopQ 5)).word ≠ 2) ∧
      ((qi 5 (nopQ 5)).a.qid = none) ∧
      ((qi 5 (nopQ 5)).b.qid = none) ∧
      ((queued [qi 5 (nopQ 5)]).pushRoom (qi 5 (nopQ 5)) = true)) ∧
    ((3 < 6) ∧
      (poppable.tileRuns (poppable.phys 34559) = true) ∧
      (poppable.head (poppable.phys 34559) 3 = some popper) ∧
      (popper.issued = false) ∧
      (iOp popper.word ≠ 1) ∧
      (iOp popper.word ≠ 2) ∧
      (popper.sparse = false) ∧
      (popper.tk = 0) ∧
      (popper.a = Opd.q 5 1) ∧
      (popper.b.qid = none) ∧
      (popper.c.qid = none) ∧
      (iTee popper.word = false) ∧
      (1 ≤ poppable.ringCount (poppable.phys 34559) 5) ∧
      (poppable.popBad (poppable.phys 34559) 5 1 = false)) ∧
    (((queued [given05_3]).tileRuns ((queued [given05_3]).phys 34559) = true) ∧
      ((queued [given05_3]).head ((queued [given05_3]).phys 34559) 3 = some given05_3) ∧
      (given05_3.worked = true) ∧
      (∀ x ∈ (queued [given05_3]).tl.pushes, ¬(x.p = (queued [given05_3]).phys 34559 ∧ x.e = 3))) ∧
    (((putA [({ kind := AuxKind.dmaErr, a := 35998 : Aux }, 18)] (queued [given05_4])).tileRuns ((putA [({ kind := AuxKind.dmaErr, a := 35998 : Aux }, 18)] (queued [given05_4])).phys 34559) = true) ∧
      ((putA [({ kind := AuxKind.dmaErr, a := 35998 : Aux }, 18)] (queued [given05_4])).head ((putA [({ kind := AuxKind.dmaErr, a := 35998 : Aux }, 18)] (queued [given05_4])).phys 34559) 5 = some given05_4) ∧
      ((putA [({ kind := AuxKind.dmaErr, a := 35998 : Aux }, 18)] (queued [given05_4])).execErr ((putA [({ kind := AuxKind.dmaErr, a := 35998 : Aux }, 18)] (queued [given05_4])).phys 34559) 5 = some (17, none)) ∧
      ((putA [({ kind := AuxKind.dmaErr, a := 35998 : Aux }, 18)] (queued [given05_4])).get (fErrCode Blk.tile) ((putA [({ kind := AuxKind.dmaErr, a := 35998 : Aux }, 18)] (queued [given05_4])).phys 34559) = 0) ∧
      ((putA [({ kind := AuxKind.dmaErr, a := 35998 : Aux }, 18)] (queued [given05_4])).get fTileState ((putA [({ kind := AuxKind.dmaErr, a := 35998 : Aux }, 18)] (queued [given05_4])).phys 34559) = 1 ∨ (putA [({ kind := AuxKind.dmaErr, a := 35998 : Aux }, 18)] (queued [given05_4])).get fTileState ((putA [({ kind := AuxKind.dmaErr, a := 35998 : Aux }, 18)] (queued [given05_4])).phys 34559) = 3)) := by
  repeat' with_reducible apply And.intro
  all_goals decide +kernel

/-! ### Engines -/

/-- The head of core 3's queue of the last tile, issued, its operands resolved. -/
def coreAt (w : W128) (a b c : Opd) (popA popB : List Byte) : QInstr := { qi 3 w with a := a, b := b, c := c, issued := true, popA := popA, popB := popB }
/-- A descriptor of n elements of one byte, INT8, or of four, INT32. -/
def d8 (base n : Nat) : Opd := .desc base 5 n 1 1 0 0
def d32 (base n : Nat) : Opd := .desc base 6 n 1 1 0 0
/-- MMA of INT8, M = N = 1, K = 2, written back as INT32. -/
def mmaI : QInstr := coreAt (iw [(0, 0x20), (8, 3), (16, 47), (92, 1), (98, 5), (102, 5), (106, 1), (113, 1), (114, 6)]) (d8 0 2) (.q 5 1) (d32 0x17FFFC 1) [] [3, 4]
def spOne (p a : Nat) (v : Byte) : Nat × Byte := (p * 2 ^ 21 + a, v)
def mmaSt : State := { queued [mmaI] with sp := [spOne 35998 0 2, spOne 35998 1 0xFF] }
/-- ACCWB of one FP32 accumulator, 1.5. -/
def accwbI : QInstr := coreAt (iw [(0, 0x21), (8, 3), (16, 63), (114, 0)]) .none .none (.desc 0x17FFFC 0 1 1 1 0 0) [] []
def accwbSt : State := { queued [accwbI] with acc := [(accKey 143995 0 0 0, 0x3FC00000)] }
/-- The sparse tiles of B of the witnesses: 2:4 by 4 columns, compressed with one element a row, binned with four. -/
def tile24 : List Byte := tileHeader 1 5 16 4 2 32 0 0 0 0 (List.replicate 16 2) (List.range 16) ++
  List.replicate 64 1 ++ List.replicate 8 0x44 ++ List.replicate 56 0
def tileU : List Byte := tileHeader 3 5 16 1 2 16 0 0 0 0 (List.replicate 16 1) (List.range 16) ++ List.replicate 64 2 ++ List.replicate 64 0
def tileB : List Byte := tileHeader 4 5 16 4 2 64 3 7 3 0 (List.replicate 16 4) (List.range 16) ++ List.replicate 64 3 ++
  (List.range 4).flatMap fun st => List.replicate 16 (BitVec.ofNat 8 st)
/-- A sparse instruction of INT8, M = 1, K as given, its tile popped, written back to 16 INT32. -/
def spI (op k : Nat) (tile : List Byte) : QInstr :=
  coreAt (iw [(0, op), (8, 3), (16, 47), (86, k - 1), (96, 5), (100, 5), (107, 1), (108, 6)]) (.q 4 1) (.q 5 1) (d32 0x17FFC0 16) [1, 2, 3, 4] tile
def spSt (op k : Nat) (tile : List Byte) : State := put [(fBinValid 7, 143995, 1), (fBinCap 7 3, 143995, 3)] (queued [spI op k tile])
/-- A VOP that copies one FP32 element and leaves its row's sum at RBASE. -/
def vopI : QInstr := { qi 4 (iw [(0, 0x40), (8, 4), (16, 47)]) with
  a := .desc 0 0 1 1 1 0 0, c := .desc 0x17FFFC 0 1 1 1 0 0, issued := true, vl := 1
  chain := iw [(0, 0xFD), (66, 1), (74, 0x1000), (126, 1)] }
def vopSt : State := { put [(fRngDraws, 35998, 2 ^ 48 - 1)] (queued [vopI]) with sp := [spOne 35998 2 0x80, spOne 35998 3 0x3F] }
def vseedI : QInstr := { qi 4 (iw [(0, 0x42), (8, 4), (16, 63), (80, 255)]) with issued := true }
def vsetW (l : List (Nat × Nat)) : W128 := iw ([(0, 0x41), (8, 4), (16, 63)] ++ l)

/-- A state and operands that meet the hypotheses of `CoresAccumulateAndWriteBack`, clause by clause. -/
theorem test_hyps_CoresAccumulateAndWriteBack :
    ((mmaSt.coreHead (mmaSt.phys 34559) 3 32 = some mmaI) ∧
      (mmaSt.mmaStop mmaI (4 * mmaSt.phys 34559 + 3) (mmaSt.mmaElems mmaI (4 * mmaSt.phys 34559 + 3)) = none)) ∧
    ((accwbSt.coreHead (accwbSt.phys 34559) 3 33 = some accwbI) ∧
      (accwbSt.accwbStop accwbI (4 * accwbSt.phys 34559 + 3) (accwbSt.accwbElems accwbI (4 * accwbSt.phys 34559 + 3)) = none)) ∧
    (((spSt 40 4 tile24).coreHead ((spSt 40 4 tile24).phys 34559) 3 40 = some (spI 40 4 tile24)) ∧
      ((spSt 40 4 tile24).smmaStop (spI 40 4 tile24) (4 * (spSt 40 4 tile24).phys 34559 + 3) ((spSt 40 4 tile24).smmaElems (spI 40 4 tile24) (4 * (spSt 40 4 tile24).phys 34559 + 3)) = none)) ∧
    (((spSt 41 1 tileU).coreHead ((spSt 41 1 tileU).phys 34559) 3 41 = some (spI 41 1 tileU)) ∧
      ((spSt 41 1 tileU).smmaStop (spI 41 1 tileU) (4 * (spSt 41 1 tileU).phys 34559 + 3) ((spSt 41 1 tileU).smmaElems (spI 41 1 tileU) (4 * (spSt 41 1 tileU).phys 34559 + 3)) = none)) ∧
    (((spSt 42 4 tileB).coreHead ((spSt 42 4 tileB).phys 34559) 3 42 = some (spI 42 4 tileB)) ∧
      ((spSt 42 4 tileB).smmaStop (spI 42 4 tileB) (4 * (spSt 42 4 tileB).phys 34559 + 3) ((spSt 42 4 tileB).smmaElems (spI 42 4 tileB) (4 * (spSt 42 4 tileB).phys 34559 + 3)) = none)) := by
  repeat' with_reducible apply And.intro
  all_goals decide +kernel

/-- A state and operands that meet the hypotheses of `VectorInstructionsTakeEffect`, clause by clause. -/
theorem test_hyps_VectorInstructionsTakeEffect :
    ((vopSt.vecHead (vopSt.phys 34559) 64 = some vopI) ∧
      ((vopSt.vopRun vopI).bad = false)) ∧
    ((tileAt (vsetW [(80, 4096)])).seqAt ((tileAt (vsetW [(80, 4096)])).phys 34559) 65 4 = some (vsetW [(80, 4096)])) ∧
    ((put [(fLc 7, 35998, 65535)] (tileAt (vsetW [(80, 4096), (93, 1), (106, 7), (109, 1)]))).seqAt ((put [(fLc 7, 35998, 65535)] (tileAt (vsetW [(80, 4096), (93, 1), (106, 7), (109, 1)]))).phys 34559) 65 4 = some (vsetW [(80, 4096), (93, 1), (106, 7), (109, 1)])) ∧
    ((put (inKiln255 ++ [(fKilnStep, 255, 4294967295), (fRngSeed, 35998, 5)]) (queued [vseedI])).vecHead ((put (inKiln255 ++ [(fKilnStep, 255, 4294967295), (fRngSeed, 35998, 5)]) (queued [vseedI])).phys 34559) 66 = some vseedI) := by
  repeat' with_reducible apply And.intro
  all_goals decide +kernel

/-! ### Scratchpad and tile DMA -/

/-- The last tile ON. -/
def tileOn : State := putA [(⟨.tilePwr, 35998, 0⟩, 2)] live
/-- Ring 1 of its DMA engine enabled, 16 entries, one posted at the last. -/
def hRing : State := put [(fHEn, 35998, 1), (fHLog, 35998, 4), (fHHead, 35998, 15), (fHBase, 35998, 0xFFFFFFFFFFFFFFE0)] tileOn
/-- The bytes of a scratchpad that are not 0, in the state's form. -/
def spBytes (p a : Nat) (l : List Byte) : FMap Nat Byte := (l.zipIdx.filter fun x => x.1 ≠ 0).map fun x => (p * 2 ^ 21 + a + x.2, x.1)
/-- A descriptor's 32 bytes: word 0 with OWN, SIG 63 and LEN, word 1 and word 2. -/
def descBytes (len src dst : Nat) : List Byte := leBytes 8 (1 + 63 * 2 ^ 12 + (len - 1) * 2 ^ 32) ++ leBytes 8 src ++ leBytes 8 dst
/-- A DMA instruction of one descriptor at the head of D's queue, issued. -/
def dmaI : QInstr := { qi 5 (iw [(0, 0x80), (8, 5), (16, 63)]) with issued := true }
/-- Ring 0 at the scratchpad's last lines, its entry 1 next, handed to D; the descriptor there, and three source bytes. -/
def ring0 (l : List Byte) : State :=
  { putA [(⟨.dmaLeft, 35998, 0⟩, 1)] (put [(fR0En, 35998, 1), (fR0Base, 35998, 0x17FF80), (fR0Log, 35998, 1), (fR0Head, 35998, 1), (fRState 0, 35998, 1)] (queued [dmaI])) with
    sp := [(35998 * 2 ^ 21 + 1, 7), (35998 * 2 ^ 21 + 3, 9)] ++ spBytes 35998 0x17FFA0 l }
/-- A transfer done, its descriptor's place the last 32 bytes of the address space of 2 MiB. -/
def jobDone (phase status : Nat) : DmaJob := { p := 35998, ring := 0, idx := 1, w0 := 0x2F003, w1 := 0, w2 := 0, w3 := 0, phase := phase, status := status, stored := 3 }
def jobAt (j : DmaJob) : State := put [(fR0Base, 35998, 0x17FFC0), (fSem 47, 35998, 5)] { queued [dmaI] with tl := { q := [dmaI], jobs := [j] } }
def dmaReq : DReq := ⟨31, true, true, 0, 64, 1, List.replicate 64 1⟩
def answerFlit : Flit := { h := { typ := 6, arg := 31 * 4 }, ctrl := true, at_ := 35998, tx := 191, ty := 179, ly := 179, br := 5 }
def answered : State := { tileOn with net := { flits := [answerFlit] }, tl := { jobs := [{ jobDone 2 0 with outst := [dmaReq] }] } }
def flipped : State := { tileOn with ecc := [(35998 * 0x40000 + 8 * 24575, 4)] }
def given08_1 := { put [(fImBank, 35998, 1), (fImSlot, 35998, 2047), (fImAuto, 35998, 1)] tileOn with imem := [(35998 * 4096 + 4095, iw [(64, 5)])] }
def given08_2 := { jobDone 2 0 with outst := [dmaReq] }

/-- A state and operands that meet the hypotheses of `TilePageWritesAct`, clause by clause. -/
theorem test_hyps_TilePageWritesAct :
    ((tileOn.lets Src.mgmt Blk.tile 34559 true) ∧
      (13 < 14) ∧
      (tileOn.get fTileState (tileOn.phys 34559) = 0) ∧
      (getBits (1572800 + 2 ^ 32) 0 21 % 64 = 0) ∧
      (getBits (1572800 + 2 ^ 32) 24 4 ≠ 15) ∧
      (getBits (1572800 + 2 ^ 32) 32 1 = 1 → getBits (1572800 + 2 ^ 32) 0 21 + 64 * 2 ^ getBits (1572800 + 2 ^ 32) 24 4 ≤ spSize ∧ tileOn.ringMeets (tileOn.phys 34559) 13 (getBits (1572800 + 2 ^ 32) 0 21) (getBits (1572800 + 2 ^ 32) 24 4) = false)) ∧
    (((put [(fImBank, 35998, 1), (fImSlot, 35998, 2047), (fImAuto, 35998, 1), (fShadowReady, 35998, 1)] tileOn).lets Src.mgmt Blk.tile 34559 true) ∧
      ((put [(fImBank, 35998, 1), (fImSlot, 35998, 2047), (fImAuto, 35998, 1), (fShadowReady, 35998, 1)] tileOn).get fTileState ((put [(fImBank, 35998, 1), (fImSlot, 35998, 2047), (fImAuto, 35998, 1), (fShadowReady, 35998, 1)] tileOn).phys 34559) = 0 ∨ (put [(fImBank, 35998, 1), (fImSlot, 35998, 2047), (fImAuto, 35998, 1), (fShadowReady, 35998, 1)] tileOn).get fImBank ((put [(fImBank, 35998, 1), (fImSlot, 35998, 2047), (fImAuto, 35998, 1), (fShadowReady, 35998, 1)] tileOn).phys 34559) ≠ (put [(fImBank, 35998, 1), (fImSlot, 35998, 2047), (fImAuto, 35998, 1), (fShadowReady, 35998, 1)] tileOn).get fActive ((put [(fImBank, 35998, 1), (fImSlot, 35998, 2047), (fImAuto, 35998, 1), (fShadowReady, 35998, 1)] tileOn).phys 34559))) ∧
    (((put [(fImBank, 35998, 1), (fActive, 35998, 1), (fTileState, 35998, 1), (fImSlot, 35998, 2047)] tileOn).lets Src.mgmt Blk.tile 34559 true) ∧
      ((put [(fImBank, 35998, 1), (fActive, 35998, 1), (fTileState, 35998, 1), (fImSlot, 35998, 2047)] tileOn).get fTileState ((put [(fImBank, 35998, 1), (fActive, 35998, 1), (fTileState, 35998, 1), (fImSlot, 35998, 2047)] tileOn).phys 34559) ≠ 0) ∧
      ((put [(fImBank, 35998, 1), (fActive, 35998, 1), (fTileState, 35998, 1), (fImSlot, 35998, 2047)] tileOn).get fImBank ((put [(fImBank, 35998, 1), (fActive, 35998, 1), (fTileState, 35998, 1), (fImSlot, 35998, 2047)] tileOn).phys 34559) = (put [(fImBank, 35998, 1), (fActive, 35998, 1), (fTileState, 35998, 1), (fImSlot, 35998, 2047)] tileOn).get fActive ((put [(fImBank, 35998, 1), (fActive, 35998, 1), (fTileState, 35998, 1), (fImSlot, 35998, 2047)] tileOn).phys 34559))) ∧
    (given08_1.present Blk.tile 34559 = true) ∧
    (tileOn.lets Src.mgmt Blk.tile 34559 true) ∧
    ((tileOn.lets Src.mgmt Blk.tile 34559 true) ∧
      (getBits (1572856 + 71 * 2 ^ 32 + 2 ^ 47 + 2 ^ 48) 0 21 % 8 = 0) ∧
      (getBits (1572856 + 71 * 2 ^ 32 + 2 ^ 47 + 2 ^ 48) 0 21 < spSize) ∧
      (getBits (1572856 + 71 * 2 ^ 32 + 2 ^ 47 + 2 ^ 48) 32 7 ≤ 71) ∧
      (getBits (1572856 + 71 * 2 ^ 32 + 2 ^ 47 + 2 ^ 48) 40 7 ≤ 71) ∧
      (getBits (1572856 + 71 * 2 ^ 32 + 2 ^ 47 + 2 ^ 48) 48 1 = 1)) ∧
    ((hRing.lets Src.mgmt Blk.tdma 34559 true) ∧
      (hRing.on fHEn (hRing.phys 34559) = true) ∧
      (getBits 14 0 12 < 2 ^ hRing.get fHLog (hRing.phys 34559))) ∧
    ((hRing.lets Src.mgmt Blk.tdma 34559 true) ∧
      (4 ≤ getBits 4 0 4) ∧
      (getBits 4 0 4 ≤ 12) ∧
      (hRing.on fHEn (hRing.phys 34559) = true → getBits 4 0 4 = hRing.get fHLog (hRing.phys 34559))) ∧
    ((tileOn.lets Src.mgmt Blk.tdma 34559 true) ∧
      (4 ≤ getBits 268 0 4) ∧
      (getBits 268 0 4 ≤ 12) ∧
      (tileOn.on fHEn (tileOn.phys 34559) = true → getBits 268 0 4 = tileOn.get fHLog (tileOn.phys 34559))) ∧
    (hRing.lets Src.mgmt Blk.tdma 34559 true) ∧
    ((put [(fStop 0, 35998, 1), (fRState 0, 35998, 3)] tileOn).lets Src.mgmt Blk.tdma 34559 true) := by
  repeat' with_reducible apply And.intro
  all_goals decide +kernel

/-- A state and operands that meet the hypotheses of `DescriptorsMoveBytes`, clause by clause. -/
theorem test_hyps_DescriptorsMoveBytes :
    (((queued [dmaI]).dHead ((queued [dmaI]).phys 34559) = some dmaI) ∧
      ((queued [dmaI]).ax { kind := AuxKind.dmaLeft, a := (queued [dmaI]).phys 34559 : Aux } = 0) ∧
      (∀ j ∈ (queued [dmaI]).tl.jobs, ¬(j.p = (queued [dmaI]).phys 34559 ∧ j.ring = 0)) ∧
      ((queued [dmaI]).get (fRState 0) ((queued [dmaI]).phys 34559) = 0) ∧
      ((queued [dmaI]).ax { kind := AuxKind.dmaErr, a := (queued [dmaI]).phys 34559 : Aux } = 0)) ∧
    (((ring0 (descBytes 3 1 1572861)).dmaTurn ((ring0 (descBytes 3 1 1572861)).phys 34559) 0 = true) ∧
      ((ring0 (descBytes 3 1 1572861)).ecc = []) ∧
      (getBits { p := (ring0 (descBytes 3 1 1572861)).phys 34559, ring := 0, idx := (ring0 (descBytes 3 1 1572861)).get fR0Head ((ring0 (descBytes 3 1 1572861)).phys 34559), w0 := descWord ((ring0 (descBytes 3 1 1572861)).spRds ((ring0 (descBytes 3 1 1572861)).phys 34559) ((ring0 (descBytes 3 1 1572861)).get fR0Base ((ring0 (descBytes 3 1 1572861)).phys 34559) + 32 * (ring0 (descBytes 3 1 1572861)).get fR0Head ((ring0 (descBytes 3 1 1572861)).phys 34559)) 32) 0, w1 := descWord ((ring0 (descBytes 3 1 1572861)).spRds ((ring0 (descBytes 3 1 1572861)).phys 34559) ((ring0 (descBytes 3 1 1572861)).get fR0Base ((ring0 (descBytes 3 1 1572861)).phys 34559) + 32 * (ring0 (descBytes 3 1 1572861)).get fR0Head ((ring0 (descBytes 3 1 1572861)).phys 34559)) 32) 1, w2 := descWord ((ring0 (descBytes 3 1 1572861)).spRds ((ring0 (descBytes 3 1 1572861)).phys 34559) ((ring0 (descBytes 3 1 1572861)).get fR0Base ((ring0 (descBytes 3 1 1572861)).phys 34559) + 32 * (ring0 (descBytes 3 1 1572861)).get fR0Head ((ring0 (descBytes 3 1 1572861)).phys 34559)) 32) 2, w3 := descWord ((ring0 (descBytes 3 1 1572861)).spRds ((ring0 (descBytes 3 1 1572861)).phys 34559) ((ring0 (descBytes 3 1 1572861)).get fR0Base ((ring0 (descBytes 3 1 1572861)).phys 34559) + 32 * (ring0 (descBytes 3 1 1572861)).get fR0Head ((ring0 (descBytes 3 1 1572861)).phys 34559)) 32) 3 : DmaJob }.w0 0 1 = 1) ∧
      ({ p := (ring0 (descBytes 3 1 1572861)).phys 34559, ring := 0, idx := (ring0 (descBytes 3 1 1572861)).get fR0Head ((ring0 (descBytes 3 1 1572861)).phys 34559), w0 := descWord ((ring0 (descBytes 3 1 1572861)).spRds ((ring0 (descBytes 3 1 1572861)).phys 34559) ((ring0 (descBytes 3 1 1572861)).get fR0Base ((ring0 (descBytes 3 1 1572861)).phys 34559) + 32 * (ring0 (descBytes 3 1 1572861)).get fR0Head ((ring0 (descBytes 3 1 1572861)).phys 34559)) 32) 0, w1 := descWord ((ring0 (descBytes 3 1 1572861)).spRds ((ring0 (descBytes 3 1 1572861)).phys 34559) ((ring0 (descBytes 3 1 1572861)).get fR0Base ((ring0 (descBytes 3 1 1572861)).phys 34559) + 32 * (ring0 (descBytes 3 1 1572861)).get fR0Head ((ring0 (descBytes 3 1 1572861)).phys 34559)) 32) 1, w2 := descWord ((ring0 (descBytes 3 1 1572861)).spRds ((ring0 (descBytes 3 1 1572861)).phys 34559) ((ring0 (descBytes 3 1 1572861)).get fR0Base ((ring0 (descBytes 3 1 1572861)).phys 34559) + 32 * (ring0 (descBytes 3 1 1572861)).get fR0Head ((ring0 (descBytes 3 1 1572861)).phys 34559)) 32) 2, w3 := descWord ((ring0 (descBytes 3 1 1572861)).spRds ((ring0 (descBytes 3 1 1572861)).phys 34559) ((ring0 (descBytes 3 1 1572861)).get fR0Base ((ring0 (descBytes 3 1 1572861)).phys 34559) + 32 * (ring0 (descBytes 3 1 1572861)).get fR0Head ((ring0 (descBytes 3 1 1572861)).phys 34559)) 32) 3 : DmaJob }.argBad ((ring0 (descBytes 3 1 1572861)).coneHeld ((ring0 (descBytes 3 1 1572861)).phys 34559)) = false) ∧
      ({ p := (ring0 (descBytes 3 1 1572861)).phys 34559, ring := 0, idx := (ring0 (descBytes 3 1 1572861)).get fR0Head ((ring0 (descBytes 3 1 1572861)).phys 34559), w0 := descWord ((ring0 (descBytes 3 1 1572861)).spRds ((ring0 (descBytes 3 1 1572861)).phys 34559) ((ring0 (descBytes 3 1 1572861)).get fR0Base ((ring0 (descBytes 3 1 1572861)).phys 34559) + 32 * (ring0 (descBytes 3 1 1572861)).get fR0Head ((ring0 (descBytes 3 1 1572861)).phys 34559)) 32) 0, w1 := descWord ((ring0 (descBytes 3 1 1572861)).spRds ((ring0 (descBytes 3 1 1572861)).phys 34559) ((ring0 (descBytes 3 1 1572861)).get fR0Base ((ring0 (descBytes 3 1 1572861)).phys 34559) + 32 * (ring0 (descBytes 3 1 1572861)).get fR0Head ((ring0 (descBytes 3 1 1572861)).phys 34559)) 32) 1, w2 := descWord ((ring0 (descBytes 3 1 1572861)).spRds ((ring0 (descBytes 3 1 1572861)).phys 34559) ((ring0 (descBytes 3 1 1572861)).get fR0Base ((ring0 (descBytes 3 1 1572861)).phys 34559) + 32 * (ring0 (descBytes 3 1 1572861)).get fR0Head ((ring0 (descBytes 3 1 1572861)).phys 34559)) 32) 2, w3 := descWord ((ring0 (descBytes 3 1 1572861)).spRds ((ring0 (descBytes 3 1 1572861)).phys 34559) ((ring0 (descBytes 3 1 1572861)).get fR0Base ((ring0 (descBytes 3 1 1572861)).phys 34559) + 32 * (ring0 (descBytes 3 1 1572861)).get fR0Head ((ring0 (descBytes 3 1 1572861)).phys 34559)) 32) 3 : DmaJob }.srcKind = 0) ∧
      ({ p := (ring0 (descBytes 3 1 1572861)).phys 34559, ring := 0, idx := (ring0 (descBytes 3 1 1572861)).get fR0Head ((ring0 (descBytes 3 1 1572861)).phys 34559), w0 := descWord ((ring0 (descBytes 3 1 1572861)).spRds ((ring0 (descBytes 3 1 1572861)).phys 34559) ((ring0 (descBytes 3 1 1572861)).get fR0Base ((ring0 (descBytes 3 1 1572861)).phys 34559) + 32 * (ring0 (descBytes 3 1 1572861)).get fR0Head ((ring0 (descBytes 3 1 1572861)).phys 34559)) 32) 0, w1 := descWord ((ring0 (descBytes 3 1 1572861)).spRds ((ring0 (descBytes 3 1 1572861)).phys 34559) ((ring0 (descBytes 3 1 1572861)).get fR0Base ((ring0 (descBytes 3 1 1572861)).phys 34559) + 32 * (ring0 (descBytes 3 1 1572861)).get fR0Head ((ring0 (descBytes 3 1 1572861)).phys 34559)) 32) 1, w2 := descWord ((ring0 (descBytes 3 1 1572861)).spRds ((ring0 (descBytes 3 1 1572861)).phys 34559) ((ring0 (descBytes 3 1 1572861)).get fR0Base ((ring0 (descBytes 3 1 1572861)).phys 34559) + 32 * (ring0 (descBytes 3 1 1572861)).get fR0Head ((ring0 (descBytes 3 1 1572861)).phys 34559)) 32) 2, w3 := descWord ((ring0 (descBytes 3 1 1572861)).spRds ((ring0 (descBytes 3 1 1572861)).phys 34559) ((ring0 (descBytes 3 1 1572861)).get fR0Base ((ring0 (descBytes 3 1 1572861)).phys 34559) + 32 * (ring0 (descBytes 3 1 1572861)).get fR0Head ((ring0 (descBytes 3 1 1572861)).phys 34559)) 32) 3 : DmaJob }.dstKind = 0) ∧
      (wMode { p := (ring0 (descBytes 3 1 1572861)).phys 34559, ring := 0, idx := (ring0 (descBytes 3 1 1572861)).get fR0Head ((ring0 (descBytes 3 1 1572861)).phys 34559), w0 := descWord ((ring0 (descBytes 3 1 1572861)).spRds ((ring0 (descBytes 3 1 1572861)).phys 34559) ((ring0 (descBytes 3 1 1572861)).get fR0Base ((ring0 (descBytes 3 1 1572861)).phys 34559) + 32 * (ring0 (descBytes 3 1 1572861)).get fR0Head ((ring0 (descBytes 3 1 1572861)).phys 34559)) 32) 0, w1 := descWord ((ring0 (descBytes 3 1 1572861)).spRds ((ring0 (descBytes 3 1 1572861)).phys 34559) ((ring0 (descBytes 3 1 1572861)).get fR0Base ((ring0 (descBytes 3 1 1572861)).phys 34559) + 32 * (ring0 (descBytes 3 1 1572861)).get fR0Head ((ring0 (descBytes 3 1 1572861)).phys 34559)) 32) 1, w2 := descWord ((ring0 (descBytes 3 1 1572861)).spRds ((ring0 (descBytes 3 1 1572861)).phys 34559) ((ring0 (descBytes 3 1 1572861)).get fR0Base ((ring0 (descBytes 3 1 1572861)).phys 34559) + 32 * (ring0 (descBytes 3 1 1572861)).get fR0Head ((ring0 (descBytes 3 1 1572861)).phys 34559)) 32) 2, w3 := descWord ((ring0 (descBytes 3 1 1572861)).spRds ((ring0 (descBytes 3 1 1572861)).phys 34559) ((ring0 (descBytes 3 1 1572861)).get fR0Base ((ring0 (descBytes 3 1 1572861)).phys 34559) + 32 * (ring0 (descBytes 3 1 1572861)).get fR0Head ((ring0 (descBytes 3 1 1572861)).phys 34559)) 32) 3 : DmaJob }.word = 0) ∧
      ({ p := (ring0 (descBytes 3 1 1572861)).phys 34559, ring := 0, idx := (ring0 (descBytes 3 1 1572861)).get fR0Head ((ring0 (descBytes 3 1 1572861)).phys 34559), w0 := descWord ((ring0 (descBytes 3 1 1572861)).spRds ((ring0 (descBytes 3 1 1572861)).phys 34559) ((ring0 (descBytes 3 1 1572861)).get fR0Base ((ring0 (descBytes 3 1 1572861)).phys 34559) + 32 * (ring0 (descBytes 3 1 1572861)).get fR0Head ((ring0 (descBytes 3 1 1572861)).phys 34559)) 32) 0, w1 := descWord ((ring0 (descBytes 3 1 1572861)).spRds ((ring0 (descBytes 3 1 1572861)).phys 34559) ((ring0 (descBytes 3 1 1572861)).get fR0Base ((ring0 (descBytes 3 1 1572861)).phys 34559) + 32 * (ring0 (descBytes 3 1 1572861)).get fR0Head ((ring0 (descBytes 3 1 1572861)).phys 34559)) 32) 1, w2 := descWord ((ring0 (descBytes 3 1 1572861)).spRds ((ring0 (descBytes 3 1 1572861)).phys 34559) ((ring0 (descBytes 3 1 1572861)).get fR0Base ((ring0 (descBytes 3 1 1572861)).phys 34559) + 32 * (ring0 (descBytes 3 1 1572861)).get fR0Head ((ring0 (descBytes 3 1 1572861)).phys 34559)) 32) 2, w3 := descWord ((ring0 (descBytes 3 1 1572861)).spRds ((ring0 (descBytes 3 1 1572861)).phys 34559) ((ring0 (descBytes 3 1 1572861)).get fR0Base ((ring0 (descBytes 3 1 1572861)).phys 34559) + 32 * (ring0 (descBytes 3 1 1572861)).get fR0Head ((ring0 (descBytes 3 1 1572861)).phys 34559)) 32) 3 : DmaJob }.crcOn = false)) ∧
    (((ring0 (descBytes 3 1 1572862)).dmaTurn ((ring0 (descBytes 3 1 1572862)).phys 34559) 0 = true) ∧
      ((ring0 (descBytes 3 1 1572862)).ecc = []) ∧
      (getBits { p := (ring0 (descBytes 3 1 1572862)).phys 34559, ring := 0, idx := (ring0 (descBytes 3 1 1572862)).get fR0Head ((ring0 (descBytes 3 1 1572862)).phys 34559), w0 := descWord ((ring0 (descBytes 3 1 1572862)).spRds ((ring0 (descBytes 3 1 1572862)).phys 34559) ((ring0 (descBytes 3 1 1572862)).get fR0Base ((ring0 (descBytes 3 1 1572862)).phys 34559) + 32 * (ring0 (descBytes 3 1 1572862)).get fR0Head ((ring0 (descBytes 3 1 1572862)).phys 34559)) 32) 0, w1 := descWord ((ring0 (descBytes 3 1 1572862)).spRds ((ring0 (descBytes 3 1 1572862)).phys 34559) ((ring0 (descBytes 3 1 1572862)).get fR0Base ((ring0 (descBytes 3 1 1572862)).phys 34559) + 32 * (ring0 (descBytes 3 1 1572862)).get fR0Head ((ring0 (descBytes 3 1 1572862)).phys 34559)) 32) 1, w2 := descWord ((ring0 (descBytes 3 1 1572862)).spRds ((ring0 (descBytes 3 1 1572862)).phys 34559) ((ring0 (descBytes 3 1 1572862)).get fR0Base ((ring0 (descBytes 3 1 1572862)).phys 34559) + 32 * (ring0 (descBytes 3 1 1572862)).get fR0Head ((ring0 (descBytes 3 1 1572862)).phys 34559)) 32) 2, w3 := descWord ((ring0 (descBytes 3 1 1572862)).spRds ((ring0 (descBytes 3 1 1572862)).phys 34559) ((ring0 (descBytes 3 1 1572862)).get fR0Base ((ring0 (descBytes 3 1 1572862)).phys 34559) + 32 * (ring0 (descBytes 3 1 1572862)).get fR0Head ((ring0 (descBytes 3 1 1572862)).phys 34559)) 32) 3 : DmaJob }.w0 0 1 = 1) ∧
      ({ p := (ring0 (descBytes 3 1 1572862)).phys 34559, ring := 0, idx := (ring0 (descBytes 3 1 1572862)).get fR0Head ((ring0 (descBytes 3 1 1572862)).phys 34559), w0 := descWord ((ring0 (descBytes 3 1 1572862)).spRds ((ring0 (descBytes 3 1 1572862)).phys 34559) ((ring0 (descBytes 3 1 1572862)).get fR0Base ((ring0 (descBytes 3 1 1572862)).phys 34559) + 32 * (ring0 (descBytes 3 1 1572862)).get fR0Head ((ring0 (descBytes 3 1 1572862)).phys 34559)) 32) 0, w1 := descWord ((ring0 (descBytes 3 1 1572862)).spRds ((ring0 (descBytes 3 1 1572862)).phys 34559) ((ring0 (descBytes 3 1 1572862)).get fR0Base ((ring0 (descBytes 3 1 1572862)).phys 34559) + 32 * (ring0 (descBytes 3 1 1572862)).get fR0Head ((ring0 (descBytes 3 1 1572862)).phys 34559)) 32) 1, w2 := descWord ((ring0 (descBytes 3 1 1572862)).spRds ((ring0 (descBytes 3 1 1572862)).phys 34559) ((ring0 (descBytes 3 1 1572862)).get fR0Base ((ring0 (descBytes 3 1 1572862)).phys 34559) + 32 * (ring0 (descBytes 3 1 1572862)).get fR0Head ((ring0 (descBytes 3 1 1572862)).phys 34559)) 32) 2, w3 := descWord ((ring0 (descBytes 3 1 1572862)).spRds ((ring0 (descBytes 3 1 1572862)).phys 34559) ((ring0 (descBytes 3 1 1572862)).get fR0Base ((ring0 (descBytes 3 1 1572862)).phys 34559) + 32 * (ring0 (descBytes 3 1 1572862)).get fR0Head ((ring0 (descBytes 3 1 1572862)).phys 34559)) 32) 3 : DmaJob }.argBad ((ring0 (descBytes 3 1 1572862)).coneHeld ((ring0 (descBytes 3 1 1572862)).phys 34559)) = true)) ∧
    (((jobAt (jobDone 3 0)).job ((jobAt (jobDone 3 0)).phys 34559) = some (jobDone 3 0)) ∧
      ((jobDone 3 0).ring = 0) ∧
      (3 ≤ (jobDone 3 0).phase) ∧
      ((jobAt (jobDone 3 0)).ecc = []) ∧
      ((jobAt (jobDone 3 0)).get fR0Base ((jobAt (jobDone 3 0)).phys 34559) + 32 * (jobDone 3 0).idx + 32 ≤ 2 ^ 21)) ∧
    (((jobAt (jobDone 4 17)).job ((jobAt (jobDone 4 17)).phys 34559) = some (jobDone 4 17)) ∧
      ((jobDone 4 17).ring = 0) ∧
      (3 ≤ (jobDone 4 17).phase) ∧
      ((jobAt (jobDone 4 17)).ecc = []) ∧
      ((jobAt (jobDone 4 17)).get fR0Base ((jobAt (jobDone 4 17)).phys 34559) + 32 * (jobDone 4 17).idx + 32 ≤ 2 ^ 21)) ∧
    ((answered.net.flits[0]? = some answerFlit) ∧
      (answerFlit.br = 5) ∧
      (answered.behind 0 answerFlit = false) ∧
      (answerFlit.h.typ = 6) ∧
      (answerFlit.ctrl = true) ∧
      (answered.job answerFlit.at_ = some given08_2) ∧
      (given08_2.reqs = []) ∧
      (given08_2.outst = [dmaReq]) ∧
      (given08_2.phase = 2) ∧
      (given08_2.failAt = none) ∧
      (dmaReq.rid = answerFlit.h.arg / 4 % 32) ∧
      (dmaReq.write = true) ∧
      (answerFlit.h.arg / 256 % 256 = 0)) ∧
    (hRing.on fHEn (hRing.phys 34559) = true) ∧
    ((6 < 7) ∧
      (11 < 12)) ∧
    ((flipped.Canon) ∧
      (11 < 12) ∧
      (2047 < 2048) ∧
      (flipped.ax { kind := AuxKind.tilePwr, a := flipped.phys 34559 : Aux } = 2)) ∧
    ((flipped.Canon) ∧
      (11 < 12) ∧
      (2047 < 2048) ∧
      (flipped.ax { kind := AuxKind.tilePwr, a := flipped.phys 34559 : Aux } = 2) ∧
      (∀ r < 7, flipped.ax { kind := AuxKind.urgent, a := flipped.phys 34559 * 8 + r, b := 11 : Aux } = 0)) := by
  repeat' with_reducible apply And.intro
  all_goals decide +kernel

/-! ### The wafer network -/

/-- The last tile's EO route entry with one line left to send, one line of credit, to the tile itself. -/
def routed : State :=
  { put [(fRaValid 4, 35998, 1), (fRaDx 4, 35998, 191), (fRaDy 4, 35998, 179), (fRaExitEn 4, 35998, 1), (fRaExit 4, 35998, 1), (fRbRate 4, 35998, 1), (fRouteCredit 4, 35998, 1),
      (fQEnable 13, 35998, 1), (fQBase 13, 35998, 0x17FFC0)] (putA [(⟨.ringLines, 35998, 13⟩, 1)] tileOn) with
    tl := { pushes := [⟨35998, 13, 5, 1⟩] } }
/-- A data line at the last tile's router: delivered, on its way, or with a detour to make. -/
def dataFlit (br : Nat) : Flit := { h := { typ := 0, lines := 1, dx := 191, dy := 179, sx := 190, sy := 179, stream := 5, rim := true }, line := List.replicate 64 0xAB, at_ := 35998, tx := 191, ty := 179, ly := 179, br := br, feed := 1 }
def carrying (s : State) (f : Flit) : State := { s with net := { flits := [f] } }
/-- The last tile in a kiln, its ring 5 of one line at the end of the scratchpad. -/
def fedTile : State := put (inKiln255 ++ [(fInKiln, 35998, 1), (fQEnable 5, 35998, 1), (fQBase 5, 35998, 0x17FFC0)]) tileOn
def combPkt (d : Dir) (n : Nat) : CombIn := ⟨35998, 15, d, { typ := 2, lines := n }, 0, true, List.replicate n (leBytes 4 0x3F800000 ++ List.replicate 60 0)⟩
/-- Combine set 15 of the last tile with inputs N and L. -/
def combAt (n : Nat) : State := { put [(fCombValid 15, 35998, 1), (fCombIn 15, 35998, 17), (fCombSteps 15, 35998, 65535)] tileOn with net := { combIn := [combPkt .n 1, combPkt .l n] } }
def creditFlit : Flit := { h := { typ := 5, arg := 255 * 256 }, ctrl := true, at_ := 0, tx := 0, ty := 0, ly := 0, br := 5, feed := 3 * (8 * 35998 + 4) + 1 }
def noticeFlit (n : Nat) : Flit := { h := { typ := 4, arg := n }, ctrl := true, at_ := 35998, tx := 191, ty := 179, ly := 179, br := 5 }
def given09_1 := { dataFlit 0 with todo := [.n, .w] }
def given09_2 := { dataFlit 0 with tx := 190 }

/-- A state and operands that meet the hypotheses of `LinesTravelAndCombine`, clause by clause. -/
theorem test_hyps_LinesTravelAndCombine :
    ((4 < 5) ∧
      (routed.pushOf (routed.phys 34559) (if 4 = 4 then 13 else 8 + 4) = some { p := 35998, q := 13, e := 5, lines := 1 : Push }) ∧
      (routed.ax { kind := AuxKind.outLeft, a := routed.phys 34559, b := 4 : Aux } = 0) ∧
      (routed.on (fRaValid 4) (routed.phys 34559) = true) ∧
      (routed.get (fRouteCredit 4) (routed.phys 34559) ≠ 0) ∧
      (routed.allowed (routed.phys 34559) 4 (routed.slowEntry 34559 4) (routed.get (fRaCone 4) (routed.phys 34559)) (routed.get (fRbRate 4) (routed.phys 34559)) = true) ∧
      (routed.roomIn (routed.phys 34559) Dir.l false false false (routed.get (fRaCone 4) (routed.phys 34559)) = true) ∧
      ((routed.routeHdr 34559 (routed.phys 34559) 4 (min 16 { p := 35998, q := 13, e := 5, lines := 1 : Push }.lines)).exitEn = true → exitOk (routed.routeHdr 34559 (routed.phys 34559) 4 (min 16 { p := 35998, q := 13, e := 5, lines := 1 : Push }.lines)).dx (routed.routeHdr 34559 (routed.phys 34559) 4 (min 16 { p := 35998, q := 13, e := 5, lines := 1 : Push }.lines)).dy (routed.routeHdr 34559 (routed.phys 34559) 4 (min 16 { p := 35998, q := 13, e := 5, lines := 1 : Push }.lines)).exit = true) ∧
      (routed.popBad (routed.phys 34559) (if 4 = 4 then 13 else 8 + 4) 1 = false)) ∧
    (((carrying tileOn given09_1).net.flits[0]? = some given09_1) ∧
      (given09_1.br ≠ 5) ∧
      (given09_1.at_ ∉ (carrying tileOn given09_1).geoLive.deadRouters) ∧
      ((carrying tileOn given09_1).behind 0 given09_1 = false) ∧
      (given09_1.wait = 0) ∧
      (given09_1.malformed = false) ∧
      ((carrying tileOn given09_1).fwd given09_1 = Fwd.go Dir.n 35798 [Dir.w]) ∧
      ((carrying tileOn given09_1).outServes 0 given09_1 Dir.n = true) ∧
      ((carrying tileOn given09_1).roomAhead given09_1 = true)) ∧
    (((carrying tileOn given09_2).net.flits[0]? = some given09_2) ∧
      (given09_2.br ≠ 5) ∧
      (given09_2.at_ ∉ (carrying tileOn given09_2).geoLive.deadRouters) ∧
      ((carrying tileOn given09_2).behind 0 given09_2 = false) ∧
      (given09_2.wait = 0) ∧
      (given09_2.malformed = false) ∧
      ((carrying tileOn given09_2).fwd given09_2 = Fwd.go Dir.w 35997 []) ∧
      ((carrying tileOn given09_2).outServes 0 given09_2 Dir.w = true) ∧
      ((carrying tileOn given09_2).roomAhead given09_2 = true)) ∧
    (((carrying tileOn (dataFlit 0)).net.flits[0]? = some (dataFlit 0)) ∧
      ((dataFlit 0).br ≠ 5) ∧
      ((dataFlit 0).at_ ∉ (carrying tileOn (dataFlit 0)).geoLive.deadRouters) ∧
      ((carrying tileOn (dataFlit 0)).behind 0 (dataFlit 0) = false) ∧
      ((dataFlit 0).wait = 0) ∧
      ((dataFlit 0).malformed = false) ∧
      ((carrying tileOn (dataFlit 0)).fwd (dataFlit 0) = Fwd.arrived) ∧
      ((dataFlit 0).h.typ ≠ 1) ∧
      ((dataFlit 0).h.exitEn = false) ∧
      ((carrying tileOn (dataFlit 0)).outServes 0 (dataFlit 0) Dir.l = true)) ∧
    (((carrying fedTile (dataFlit 5)).net.flits[0]? = some (dataFlit 5)) ∧
      ((carrying fedTile (dataFlit 5)).geo.carries (dataFlit 5).at_ = some 34559) ∧
      ((dataFlit 5).br = 5) ∧
      ((dataFlit 5).ctrl = false) ∧
      ((dataFlit 5).h.typ < 2) ∧
      (¬((dataFlit 5).h.rim = true ∧ (dataFlit 5).h.typ = 0 ∧ (dataFlit 5).h.stream < 4)) ∧
      ((carrying fedTile (dataFlit 5)).behind 0 (dataFlit 5) = false) ∧
      ((carrying fedTile (dataFlit 5)).deliverFail (dataFlit 5).at_ (dataFlit 5) true = 0) ∧
      ((dataFlit 5).h.stream < 6) ∧
      ((carrying fedTile (dataFlit 5)).on (fQEnable (dataFlit 5).h.stream) (dataFlit 5).at_ = true) ∧
      ((carrying fedTile (dataFlit 5)).ringTaken (dataFlit 5).at_ (dataFlit 5).h.stream < (carrying fedTile (dataFlit 5)).ringSize (dataFlit 5).at_ (dataFlit 5).h.stream) ∧
      ((carrying fedTile (dataFlit 5)).ecc = []) ∧
      ((carrying fedTile (dataFlit 5)).get (fQBase (dataFlit 5).h.stream) (dataFlit 5).at_ + 64 * ((carrying fedTile (dataFlit 5)).get (fQWr (dataFlit 5).h.stream) (dataFlit 5).at_ % (carrying fedTile (dataFlit 5)).ringSize (dataFlit 5).at_ (dataFlit 5).h.stream) + (dataFlit 5).line.length ≤ 2 ^ 21)) ∧
    (((carrying tileOn (dataFlit 5)).net.flits[0]? = some (dataFlit 5)) ∧
      ((carrying tileOn (dataFlit 5)).geo.carries (dataFlit 5).at_ = some 34559) ∧
      ((dataFlit 5).br = 5) ∧
      ((dataFlit 5).ctrl = false) ∧
      ((dataFlit 5).h.typ < 2) ∧
      (¬((dataFlit 5).h.rim = true ∧ (dataFlit 5).h.typ = 0 ∧ (dataFlit 5).h.stream < 4)) ∧
      ((carrying tileOn (dataFlit 5)).behind 0 (dataFlit 5) = false) ∧
      ((carrying tileOn (dataFlit 5)).deliverFail (dataFlit 5).at_ (dataFlit 5) true ≠ 0)) ∧
    (((combAt 1).on (fCombValid 15) ((combAt 1).phys 34559) = true) ∧
      ((combAt 1).on (fCombBroken 15) ((combAt 1).phys 34559) = false) ∧
      ((combAt 1).combInputs ((combAt 1).phys 34559) 15 ≠ []) ∧
      ((List.filterMap (fun d => (combAt 1).combFirst ((combAt 1).phys 34559) 15 d) ((combAt 1).combInputs ((combAt 1).phys 34559) 15)).length = ((combAt 1).combInputs ((combAt 1).phys 34559) 15).length) ∧
      (∀ c ∈ List.filterMap (fun d => (combAt 1).combFirst ((combAt 1).phys 34559) 15 d) ((combAt 1).combInputs ((combAt 1).phys 34559) 15), c.lines.length = 1)) ∧
    (((combAt 2).on (fCombValid 15) ((combAt 2).phys 34559) = true) ∧
      ((combAt 2).on (fCombBroken 15) ((combAt 2).phys 34559) = false) ∧
      ((combAt 2).combInputs ((combAt 2).phys 34559) 15 ≠ []) ∧
      ((List.filterMap (fun d => (combAt 2).combFirst ((combAt 2).phys 34559) 15 d) ((combAt 2).combInputs ((combAt 2).phys 34559) 15)).length = ((combAt 2).combInputs ((combAt 2).phys 34559) 15).length) ∧
      (∃ c ∈ List.filterMap (fun d => (combAt 2).combFirst ((combAt 2).phys 34559) 15 d) ((combAt 2).combInputs ((combAt 2).phys 34559) 15), ∃ c' ∈ List.filterMap (fun d => (combAt 2).combFirst ((combAt 2).phys 34559) 15 d) ((combAt 2).combInputs ((combAt 2).phys 34559) 15), c.lines.length ≠ c'.lines.length) ∧
      (∀ (x : Nat), (combAt 2).geo.carries ((combAt 2).phys 34559) = some x → (combAt 2).kilnOf x = none)) ∧
    (((carrying (put [(fRouteCredit 4, 35998, 16383)] tileOn) creditFlit).net.flits[0]? = some creditFlit) ∧
      (creditFlit.br = 5) ∧
      (creditFlit.h.typ = 5) ∧
      (creditFlit.feed ≠ 0) ∧
      ((creditFlit.feed - 1) % 3 = 0) ∧
      ((carrying (put [(fRouteCredit 4, 35998, 16383)] tileOn) creditFlit).feedRect (creditFlit.feed - 1) = none)) ∧
    (((carrying tileOn (noticeFlit 786)).net.flits[0]? = some (noticeFlit 786)) ∧
      ((noticeFlit 786).br = 5) ∧
      ((noticeFlit 786).h.typ = 4) ∧
      ((noticeFlit 786).feed ≠ 1)) ∧
    (((carrying tileOn (noticeFlit 4294963455)).net.flits[0]? = some (noticeFlit 4294963455)) ∧
      ((noticeFlit 4294963455).br = 5) ∧
      ((noticeFlit 4294963455).h.typ = 4) ∧
      ((noticeFlit 4294963455).feed ≠ 1)) := by
  repeat' with_reducible apply And.intro
  all_goals decide +kernel

/-! ### Slip ports and the weight store: the last port, 47 -/

/-- The first address of stack 47. -/
def b47 : Nat := 47 * 2 ^ 36
/-- Stack 47 trained with two units of 16 MiB, context 15 RUNNING for kiln 255 with its list at the stack's base. -/
def port47 : State := put [(fSlipState, 47, 2), (fTrained, 47, 1), (fUnits, 47, 2), (fCtxValid 15, 47, 1), (fCtxState 15, 47, 1), (fCtxKiln 15, 47, 255), (fCtxList 15, 47, b47), (fSaggar .kiln, 255, 5)] live
/-- Bytes of the store that are not 0, in the state's form. -/
def stBytes (a : Nat) (l : List Byte) : FMap Nat Byte := (l.zipIdx.filter fun x => x.1 ≠ 0).map fun x => (a + x.2, x.1)
/-- A list whose first entry has these words. -/
def listed (e0 e1 e2 e3 : Nat) (s : State) : State := { s with store := stBytes b47 (leBytes 8 e0 ++ leBytes 8 e1 ++ leBytes 8 e2 ++ leBytes 8 e3) }
/-- Window 255 opens the last 64 KiB of stack 47's units to saggar 5, to read and write. -/
def windowed (s : State) : State := { s with sg := { wins := [(510, b47 + 0x1FF0000), (511, 1 + 5 * 2 ^ 32 + 7 * 2 ^ 40)] } }
def strmOf (s : State) : Strm := s.ctxEntry 47 15
/-- A HOME stream of 128 bytes that is logged; the committed generation of stack 47. -/
def homeSt : State := listed (1 * 4 + 2 ^ 11) 0 127 (191 + 179 * 256) (put [(fGenValid 0, 47, 1), (fGenVer 0, 47, 0xFFFFFFFF), (fGenAlt 0, 47, 0xFFFF)] port47)
/-- A STORE stream of the window's last line. -/
def storeSt : State := windowed (listed 0 (b47 + 0x1FFFFC0) 63 0 port47)
/-- A GATHER into window 7 whose table of one segment stands at the window's last bytes. -/
def gatherSt (path : Nat) : State :=
  let s := windowed (listed (1 + 7 * 2 ^ 14) (b47 + 0x1FFFFF0) 0 0 port47)
  { s with store := s.store ++ stBytes (b47 + 0x1FFFFF0) (leBytes 8 (0x123 + path * 2 ^ 12 + 2 * 2 ^ 14) ++ leBytes 8 64) }
/-- The module at the other end of L2. -/
def peerL2 : Peer := { port := 18, module_ := 0x123, st := 1 }
def sentStrm : Strm := { strmOf homeSt with e0 := 2 + 2 ^ 13 + 7 * 2 ^ 14, sent := 2, tag := 0xBFFF }
def endedSt : State := { put [(fWinState 7, 47, 2)] homeSt with sl := { streams := [sentStrm], segs := [⟨47, 7, 0, 0x123, 2, 0, 47, 0, 64, 0, 2, 0, 0, 0⟩] } }
def gatheringSt : State := { put [(fWinState 7, 47, 1)] live with sl := { segs := [⟨47, 7, 63, 0x123, 1, 2, 47, 0, 64, 0, 1, 0xBFFF, 0, 0⟩] } }
/-- A request packet at port 47 from the last tile. -/
def edgePkt (typ arg : Nat) (root : Bool) (lines : List (List Byte)) : EdgePkt := ⟨47, 10, { typ := typ, sx := 191, sy := 179, arg := arg, kiln := 255, set := 15 }, 0, root, 0, true, lines⟩
/-- Its request line: address and LEN1. -/
def reqLine (a len1 : Nat) : List Byte := leBytes 8 a ++ leBytes 8 (len1 * 2 ^ 32) ++ List.replicate 48 0
def atEdge (s : State) (e : EdgePkt) : State := { s with net := { edge := [e] } }
def wrPkt : EdgePkt := edgePkt 6 (31 * 4) false [reqLine (b47 + 0x1FFFFFD) 2, [1, 2, 3] ++ List.replicate 61 0]
def rdPkt : EdgePkt := edgePkt 6 (1 + 31 * 4 + 14 * 2 ^ 7) true [reqLine (b47 + 0x1FFFC40) 0]
def xferOld : Xfer := ⟨47, 34559, 255, 255, b47, 0, [], [], 0⟩
/-- Host link 1 up, its aperture open at the base of stack 47. -/
def aperture : State := put [(fLinkUp, 257, 1), (fApEnable, 257, 1), (fApBase, 257, b47 / 2 ^ 30)] port47
def combEdge : EdgePkt := edgePkt 2 0 false [List.replicate 64 1]
def feedOf : State := put [(fFeedValid 31, 15, 1), (fFeedPort 31, 15, 47), (fFeedLink 31, 15, 10), (fFeedSet 31, 15, 15), (fFeedFill 31, 15, 63)] live
def waitSt : State := { homeSt with sl := { streams := [{ strmOf homeSt with entry := 4095 }] } }
def gatherL2 : State := { gatherSt 1 with fb := { peers := [peerL2] } }
def xferSt : State := { live with sl := { xfers := [xferOld] } }
def apSt (en : Nat) : State := { put [(fApEnable, 257, en)] aperture with store := [(b47 + 0x1FFFFFF, 9)] }

/-- A state and operands that meet the hypotheses of `StreamsAndGathersRun`, clause by clause. -/
theorem test_hyps_StreamsAndGathersRun :
    ((47 < 48) ∧
      (port47.on fTrained 47 = true)) ∧
    ((47 < 48) ∧
      (15 < 16) ∧
      ((listed 2 0 0 0 port47).on (fCtxValid 15) 47 = true) ∧
      ((listed 2 0 0 0 port47).get (fCtxState 15) 47 = 1 ∨ (listed 2 0 0 0 port47).get (fCtxState 15) 47 = 2) ∧
      (((listed 2 0 0 0 port47).ctxEntry 47 15).op = 2) ∧
      ((listed 2 0 0 0 port47).ctxStreams 47 15 = [])) ∧
    ((47 < 48) ∧
      (15 < 16) ∧
      (waitSt.on (fCtxValid 15) 47 = true) ∧
      (waitSt.get (fCtxState 15) 47 = 1 ∨ waitSt.get (fCtxState 15) 47 = 2) ∧
      ((waitSt.ctxEntry 47 15).op = 0) ∧
      (waitSt.mustWait (waitSt.ctxEntry 47 15) = true)) ∧
    ((47 < 48) ∧
      (15 < 16) ∧
      (homeSt.on (fCtxValid 15) 47 = true) ∧
      (homeSt.get (fCtxState 15) 47 = 1 ∨ homeSt.get (fCtxState 15) 47 = 2) ∧
      ((homeSt.ctxEntry 47 15).op = 0) ∧
      (homeSt.mustWait (homeSt.ctxEntry 47 15) = false) ∧
      (homeSt.linkUse 47 (homeSt.ctxEntry 47 15).link = true) ∧
      ((homeSt.ctxEntry 47 15).src = 2 → homeSt.get (fWinState (homeSt.ctxEntry 47 15).win) 47 = 2) ∧
      ((homeSt.ctxEntry 47 15).src = 0 → homeSt.sagDenied (some (homeSt.get fEpoch 0)) (homeSt.kilnSag (homeSt.get (fCtxKiln 15) 47) (some (homeSt.get fEpoch 0))) true false (homeSt.ctxEntry 47 15).addr (homeSt.ctxEntry 47 15).len = none) ∧
      (homeSt.samples (homeSt.ctxEntry 47 15) = some [{ seg := 0, ver := 4294967295, alt := 65535, stack := 47 : Sample }]) ∧
      ((homeSt.ctxEntry 47 15).check = true → firstDiff (homeSt.logged (homeSt.ctxEntry 47 15)) [{ seg := 0, ver := 4294967295, alt := 65535, stack := 47 : Sample }] = none)) ∧
    ((47 < 48) ∧
      (15 < 16) ∧
      (storeSt.on (fCtxValid 15) 47 = true) ∧
      (storeSt.get (fCtxState 15) 47 = 1 ∨ storeSt.get (fCtxState 15) 47 = 2) ∧
      ((storeSt.ctxEntry 47 15).op = 0) ∧
      (storeSt.mustWait (storeSt.ctxEntry 47 15) = false) ∧
      (storeSt.linkUse 47 (storeSt.ctxEntry 47 15).link = true) ∧
      ((storeSt.ctxEntry 47 15).src = 2 → storeSt.get (fWinState (storeSt.ctxEntry 47 15).win) 47 = 2) ∧
      ((storeSt.ctxEntry 47 15).src = 0 → storeSt.sagDenied (some (storeSt.get fEpoch 0)) (storeSt.kilnSag (storeSt.get (fCtxKiln 15) 47) (some (storeSt.get fEpoch 0))) true false (storeSt.ctxEntry 47 15).addr (storeSt.ctxEntry 47 15).len = none) ∧
      (storeSt.samples (storeSt.ctxEntry 47 15) = some []) ∧
      ((storeSt.ctxEntry 47 15).check = true → firstDiff (storeSt.logged (storeSt.ctxEntry 47 15)) [] = none)) ∧
    ((47 < 48) ∧
      (15 < 16) ∧
      ((gatherSt 2).on (fCtxValid 15) 47 = true) ∧
      ((gatherSt 2).get (fCtxState 15) 47 = 1 ∨ (gatherSt 2).get (fCtxState 15) 47 = 2) ∧
      (((gatherSt 2).ctxEntry 47 15).op = 1) ∧
      ((gatherSt 2).get (fWinState ((gatherSt 2).ctxEntry 47 15).win) 47 = 0) ∧
      ((gatherSt 2).sagDenied (some ((gatherSt 2).get fEpoch 0)) ((gatherSt 2).kilnSag ((gatherSt 2).get (fCtxKiln 15) 47) (some ((gatherSt 2).get fEpoch 0))) true false ((gatherSt 2).ctxEntry 47 15).addr (16 * ((gatherSt 2).ctxEntry 47 15).nsegs) = none) ∧
      (∀ g ∈ List.map (fun i => (gatherSt 2).segEntry 47 ((gatherSt 2).ctxEntry 47 15).win ((gatherSt 2).ctxEntry 47 15).addr i) (List.range ((gatherSt 2).ctxEntry 47 15).nsegs), g.path = 2)) ∧
    ((47 < 48) ∧
      (15 < 16) ∧
      (gatherL2.on (fCtxValid 15) 47 = true) ∧
      (gatherL2.get (fCtxState 15) 47 = 1 ∨ gatherL2.get (fCtxState 15) 47 = 2) ∧
      ((gatherL2.ctxEntry 47 15).op = 1) ∧
      (gatherL2.get (fWinState (gatherL2.ctxEntry 47 15).win) 47 = 0) ∧
      (gatherL2.sagDenied (some (gatherL2.get fEpoch 0)) (gatherL2.kilnSag (gatherL2.get (fCtxKiln 15) 47) (some (gatherL2.get fEpoch 0))) true false (gatherL2.ctxEntry 47 15).addr (16 * (gatherL2.ctxEntry 47 15).nsegs) = none) ∧
      (((gatherSt 1).segEntry 47 7 (b47 + 33554416) 0).path ≠ 2) ∧
      (List.map (fun i => gatherL2.segEntry 47 (gatherL2.ctxEntry 47 15).win (gatherL2.ctxEntry 47 15).addr i) (List.range (gatherL2.ctxEntry 47 15).nsegs) = [(gatherSt 1).segEntry 47 7 (b47 + 33554416) 0]) ∧
      (gatherL2.pathOk ((gatherSt 1).segEntry 47 7 (b47 + 33554416) 0).path ((gatherSt 1).segEntry 47 7 (b47 + 33554416) 0).link ((gatherSt 1).segEntry 47 7 (b47 + 33554416) 0).module_ = true) ∧
      (gatherL2.freeTag 47 = some 48128)) ∧
    ((List.find? (fun x => decide (x.entry = 0)) (endedSt.ctxStreams 47 15) = some sentStrm) ∧
      (sentStrm.lines ≤ sentStrm.sent) ∧
      (sentStrm.check = false) ∧
      (sentStrm.log = false) ∧
      (∀ g ∈ endedSt.sl.segs, g.port = 47 → g.st = 0 → g.path = 2)) ∧
    ((49151 < 49152) ∧
      (List.find? (fun x => decide (x.port = 49151 / 1024) && decide (x.tag = 49151)) endedSt.sl.streams = some sentStrm) ∧
      (∀ g ∈ endedSt.sl.segs, g.port = sentStrm.port → g.st = 0 → g.path = 2)) ∧
    ((49151 < 49152) ∧
      (List.find? (fun x => decide (x.port = 49151 / 1024) && decide (x.tag = 49151)) (put inKiln255 endedSt).sl.streams = some sentStrm) ∧
      (∀ g ∈ (put inKiln255 endedSt).sl.segs, g.port = sentStrm.port → g.st = 0 → g.path = 2)) ∧
    (49152 ≤ 53247 ∧ 53247 < 53248 ∧ Blk.pug = Blk.pug ∧ 15 = (53247 - 49152) / 256 ∨ 53248 ≤ 53247 ∧ 53247 < 56320 ∧ Blk.pug = Blk.glaze ∧ 15 = (53247 - 53248) / 64 ∨ 56320 ≤ 53247 ∧ 53247 < 58368 ∧ Blk.pug = Blk.host ∧ 15 = 256 + (53247 - 56320) / 1024) ∧
    (49152 ≤ 53248 ∧ 53248 < 53248 ∧ Blk.glaze = Blk.pug ∧ 0 = (53248 - 49152) / 256 ∨ 53248 ≤ 53248 ∧ 53248 < 56320 ∧ Blk.glaze = Blk.glaze ∧ 0 = (53248 - 53248) / 64 ∨ 56320 ≤ 53248 ∧ 53248 < 58368 ∧ Blk.glaze = Blk.host ∧ 0 = 256 + (53248 - 56320) / 1024) ∧
    (49152 ≤ 58367 ∧ 58367 < 53248 ∧ Blk.host = Blk.pug ∧ 257 = (58367 - 49152) / 256 ∨ 53248 ≤ 58367 ∧ 58367 < 56320 ∧ Blk.host = Blk.glaze ∧ 257 = (58367 - 53248) / 64 ∨ 56320 ≤ 58367 ∧ 58367 < 58368 ∧ Blk.host = Blk.host ∧ 257 = 256 + (58367 - 56320) / 1024) ∧
    ((47 < 48) ∧
      (7 < 8) ∧
      (gatheringSt.get (fWinState 7) 47 = 1) ∧
      (gatheringSt.winCtx 47 7 = none)) := by
  repeat' with_reducible apply And.intro
  all_goals decide +kernel

/-- A state and operands that meet the hypotheses of `EdgeAndApertureReachTheStore`, clause by clause. -/
theorem test_hyps_EdgeAndApertureReachTheStore :
    (((atEdge (windowed port47) wrPkt).edgeReq 47 = some wrPkt) ∧
      (wrPkt.op ≠ 1) ∧
      (wrPkt.wrBad = false) ∧
      (wrPkt.bits 1 0 32 = 0) ∧
      (wrPkt.bits 3 0 48 = 0) ∧
      ((atEdge (windowed port47) wrPkt).edgeErr wrPkt true (wrPkt.bits 0 0 48) wrPkt.data.length = none)) ∧
    (((atEdge port47 rdPkt).edgeReq 47 = some rdPkt) ∧
      (rdPkt.op = 1) ∧
      (rdPkt.rsvd = false) ∧
      (rdPkt.lines.length = 1) ∧
      (rdPkt.h.arg / 2 ^ 7 % 16 + 1 ≤ 15) ∧
      (rdPkt.bits 0 0 48 % 64 = 0) ∧
      (rdPkt.eo = false) ∧
      ((atEdge port47 rdPkt).edgeErr rdPkt false (rdPkt.bits 0 0 48) (64 * (rdPkt.h.arg / 2 ^ 7 % 16 + 1)) = none)) ∧
    ((List.filter (fun y => decide (y.port = 47)) xferSt.sl.xfers)[0]? = some xferOld) ∧
    (((apSt 1).apLive 1 = true) ∧
      ((apSt 1).on fApEnable (256 + 1) = true) ∧
      ((apSt 1).training ((apSt 1).get fApBase (256 + 1) * 2 ^ 30 + 33554430) = false)) ∧
    (((apSt 0).apLive 1 = true) ∧
      ((apSt 0).on fApEnable (256 + 1) = false)) ∧
    ((aperture.apLive 1 = true) ∧
      ([5, 6] ≠ []) ∧
      (aperture.on fApEnable (256 + 1) = true) ∧
      (aperture.training (aperture.get fApBase (256 + 1) * 2 ^ 30 + 33554430) = false) ∧
      (aperture.storeWrErr (aperture.get fApBase (256 + 1) * 2 ^ 30 + 33554430) [5, 6].length = none)) ∧
    (((put [(fMapBase 6, 47, 0), (fMapSize 6, 47, 1)] port47).lets Src.mgmt Blk.slip 47 true) ∧
      (7 < 8) ∧
      (∀ k < 256, (put [(fMapBase 6, 47, 0), (fMapSize 6, 47, 1)] port47).get fKilnState k = 0) ∧
      (getBits (1 + 2 ^ 16) 16 12 ≠ 0 → getBits (1 + 2 ^ 16) 0 12 + getBits (1 + 2 ^ 16) 16 12 ≤ (put [(fMapBase 6, 47, 0), (fMapSize 6, 47, 1)] port47).get fUnits 47 ∧ ∀ q < 8, q ≠ 7 → (put [(fMapBase 6, 47, 0), (fMapSize 6, 47, 1)] port47).get (fMapSize q) 47 ≠ 0 → (put [(fMapBase 6, 47, 0), (fMapSize 6, 47, 1)] port47).get (fMapBase q) 47 + (put [(fMapBase 6, 47, 0), (fMapSize 6, 47, 1)] port47).get (fMapSize q) 47 ≤ getBits (1 + 2 ^ 16) 0 12 ∨ getBits (1 + 2 ^ 16) 0 12 + getBits (1 + 2 ^ 16) 16 12 ≤ (put [(fMapBase 6, 47, 0), (fMapSize 6, 47, 1)] port47).get (fMapBase q) 47) ∧
      (7 < 5 → (put [(fMapBase 6, 47, 0), (fMapSize 6, 47, 1)] port47).winMeets (47 * slotSize + getBits (1 + 2 ^ 16) 0 12 * 2 ^ 24) (getBits (1 + 2 ^ 16) 16 12 * 2 ^ 24) = false)) ∧
    ((List.find? (fun x => decide (x.port = 47) && x.full && decide (x.h.typ = 2)) (atEdge feedOf combEdge).net.edge = some combEdge) ∧
      ((atEdge feedOf combEdge).feedFor 47 combEdge.link combEdge.h.set = some (15, 31)) ∧
      ((atEdge feedOf combEdge).get (fFeedFill (15, 31).2) (15, 31).1 + combEdge.lines.length ≤ 64)) ∧
    ((List.find? (fun x => decide (x.port = 47) && x.full && decide (x.h.typ = 2)) (atEdge live combEdge).net.edge = some combEdge) ∧
      ((atEdge live combEdge).feedFor 47 combEdge.link combEdge.h.set = none)) := by
  repeat' with_reducible apply And.intro
  all_goals decide +kernel

/-! ### Pug units and glaze units: job 255, unit 15, feed 31, stack 47 -/

/-- Job 255 has its step 0xFFFFFFFF open; feed 31 of unit 15 has one part at the stack's base. -/
def stepping : State :=
  putA [(⟨.stepOpen, 255, 0⟩, 1), (⟨.stepNo, 255, 0⟩, 0xFFFFFFFF)]
    (put [(fFeedValid 31, 15, 1), (fFeedJob 31, 15, 255), (fFeedParts 31, 15, b47), (fFeedFill 31, 15, 1), (fJobValid 255, 0, 1), (fJobSag 255, 0, 5)] port47)
/-- A bucket of 16 elements, its entry at 4 KiB of stack 47. -/
def bktIn (st : Nat) : Bkt := {
  job := 255, id := 0xFFFF, addr := b47 + 0x1000, chan := 15, order := 1, raw := false, ef := true, resFmt := 0, elems := 16
  scale := 0, stages := 0, glaze := 47, step := 0xFFFFFFFF, state := st }
def withBkt (b : Bkt) (s : State) : State := { s with pg := { s.pg with buckets := [b] } }
def feedPkt (sag step : Nat) : FeedPkt := ⟨15, 31, { typ := 2, sag := sag, arg := step }, 0, [leBytes 4 0x3F800000 ++ List.replicate 60 0]⟩
def fedWith (x : FeedPkt) (s : State) : State := { s with pg := { s.pg with feedq := [x] } }
/-- The feed's part: bucket 0xFFFF, elements 0 to 15; the bucket's LEDGER at 8 KiB. -/
def partsStore : FMap Nat Byte := stBytes b47 (leBytes 4 0xFFFF ++ leBytes 4 0 ++ leBytes 4 16) ++ stBytes (b47 + 0x1010) (leBytes 6 (b47 + 0x2000))
def deniedSt : State := fedWith (feedPkt 4 0xFFFF) stepping
def staleSt : State := fedWith (feedPkt 5 0xFFFE) stepping
def filling (ef : Bool) : State := { fedWith (feedPkt 5 0xFFFF) (withBkt { bktIn 1 with ef := ef } stepping) with store := partsStore }
/-- A bucket whose codes are complete, without stages. -/
def fullBkt : Bkt := { bktIn 1 with got := 16, n := 16, vals := [(15, poison)], pcount := 1 }
/-- Stage 1 has its plan at 12 KiB: the members' entries, the module's own among them. -/
def planStore (n : Nat) : FMap Nat Byte := stBytes (b47 + 0x1020) (leBytes 6 (b47 + 0x3000)) ++
  stBytes (b47 + 0x3000) (leBytes 16 n ++ leBytes 8 (2 * 2 ^ 12) ++ leBytes 8 16 ++ leBytes 8 (0x123 + 2 ^ 32) ++ leBytes 8 16)
def stagedSt (b : Bkt) (n : Nat) : State := { withBkt b stepping with store := planStore n }
def stage1 : Bkt := { bktIn 2 with stages := 1, stage := 1, sncon := 1, sc := 7 }
/-- The job's glaze unit 47, bound, with a range table of n entries at 16 KiB whose first names the bucket. -/
def glazed (n : Nat) (s : State) : State :=
  put [(fGjobValid, 47, 1), (fGjob, 47, 255), (fGcoord, 47, 0x123), (fGmodules, 47, 2), (fRanges, 47, b47 + 0x4000), (fRangeCnt, 47, n)] s
/-- An entry: bucket 0xFFFF, the element 15, MASTER at 0, M at 64, V at 128. -/
def rangeStore : FMap Nat Byte := stBytes (b47 + 0x4000) (leBytes 8 (0xFFFF + 15 * 2 ^ 32) ++ leBytes 8 1 ++ leBytes 8 0 ++ leBytes 8 64 ++ leBytes 8 128)
def ranged (st : Nat) (s : State) : State := { s with gl := { s.gl with ranges := [⟨47, 0, 0xFFFF, st⟩] } }
def doneSt : State := { glazed 1 (ranged 2 (withBkt (bktIn 3) stepping)) with store := rangeStore }
def abortArgs : List W64 := [0xFFFFFFFF000000FF]
def gjobSt : State := put [(fGenValid 0, 47, 1), (fGenVer 0, 47, 7)] port47
def updating47 : State := put [(fGlzState, 47, 1), (fMapBase 1, 47, 1)] (glazed 1 (ranged 0 stepping))
/-- The shadow's header is open for the step; ADAM with zero hyperparameters. -/
def updateSt : State :=
  let s := withBkt { bktIn 3 with vals := [(15, 1)] } updating47
  { s with store := rangeStore ++ stBytes (b47 + 2 ^ 24) (headerBytes 0xFFFFFFFF 0 1 0), gl := { s.gl with hyper := [(47, leBytes 64 1)] } }
def updated (n : Nat) : State := put [(fGlzState, 47, 1)] (glazed n (ranged 1 stepping))
def votedSt : State := putA [(⟨.voted, 255, 0⟩, 2)] (glazed 1 stepping)
def committing : State := putA [(⟨.committed, 255, 0⟩, 2 ^ 32)] stepping
def lateFlip : MFlip := ⟨47, 255, 0xFFFFFFFF, 1, true⟩
def lateMirror : State :=
  let s := put [(fMstate, 47, 1)] (glazed 1 stepping)
  { s with gl := { s.gl with flips := [lateFlip], mirrorQ := [⟨46, 7, []⟩, ⟨47, 0, []⟩] } }
/-- L0 UP with its peer; the job's unit has lost its mirror. -/
def peerL0 : Peer := { port := 16, module_ := 0x123, st := 1 }
def mirrorSt (link : Nat) : State := { put [(lkF 16 0x018 0 64, 0, link), (fMstate, 47, 2)] (glazed 0 port47) with fb := { peers := [peerL0] } }
def syncRun : Running := ⟨ctx0, .glaze, 47, 0x10, [255], 1, true, none⟩
def syncing : State := { put [(fMstate, 47, 3)] (glazed 0 port47) with hi := { running := [syncRun] } }
def given11_1 := { bktIn 1 with ef := true }
def given11_2 := { bktIn 1 with ef := false }
def given11_3 := { fullBkt with stages := 1 }
def given11_4 := { bktIn 3 with vals := [(15, 1)] }

/-- A state and operands that meet the hypotheses of `GradientsReduceAndAbort`, clause by clause. -/
theorem test_hyps_GradientsReduceAndAbort :
    ((List.find? (fun y => decide (y.u = 15) && decide (y.f = 31)) deniedSt.pg.feedq = some (feedPkt 4 65535)) ∧
      ((deniedSt.jobOwner (deniedSt.get (fFeedJob 31) 15) (some (feedPkt 4 65535).epoch)).1 = false ∨ (deniedSt.jobOwner (deniedSt.get (fFeedJob 31) 15) (some (feedPkt 4 65535).epoch)).2 ≠ (feedPkt 4 65535).h.sag)) ∧
    ((List.find? (fun y => decide (y.u = 15) && decide (y.f = 31)) staleSt.pg.feedq = some (feedPkt 5 65534)) ∧
      (staleSt.jobOwner (staleSt.get (fFeedJob 31) 15) (some (feedPkt 5 65534).epoch) = (true, (feedPkt 5 65534).h.sag)) ∧
      (staleSt.ax { kind := AuxKind.stepOpen, a := staleSt.get (fFeedJob 31) 15 : Aux } = 0 ∨ (feedPkt 5 65534).h.arg % 65536 ≠ staleSt.ax { kind := AuxKind.stepNo, a := staleSt.get (fFeedJob 31) 15 : Aux } % 65536)) ∧
    ((List.find? (fun y => decide (y.u = 15) && decide (y.f = 31)) (filling true).pg.feedq = some (feedPkt 5 65535)) ∧
      ((filling true).jobOwner ((filling true).get (fFeedJob 31) 15) (some (feedPkt 5 65535).epoch) = (true, (feedPkt 5 65535).h.sag)) ∧
      ((filling true).ax { kind := AuxKind.stepOpen, a := (filling true).get (fFeedJob 31) 15 : Aux } ≠ 0) ∧
      ((feedPkt 5 65535).h.arg % 65536 = (filling true).ax { kind := AuxKind.stepNo, a := (filling true).get (fFeedJob 31) 15 : Aux } % 65536) ∧
      ((feedPkt 5 65535).lines = [leBytes 4 1065353216 ++ List.replicate 60 0]) ∧
      (partFind ((filling true).feedParts 15 31) ((filling true).get (fFeedPos 31) 15) = some (65535, 0)) ∧
      ((filling true).bkt ((filling true).get (fFeedJob 31) 15) 65535 = some given11_1) ∧
      (given11_1.state = 1) ∧
      (given11_1.ef = true → (filling true).badBursts ((filling true).residual given11_1 ((filling true).lgen given11_1) 0) (16 * given11_1.resBytes) = [] ∧ (filling true).badPart ((filling true).residual given11_1 (1 - (filling true).lgen given11_1) 0) (16 * given11_1.resBytes) = false)) ∧
    ((List.find? (fun y => decide (y.u = 15) && decide (y.f = 31)) (filling false).pg.feedq = some (feedPkt 5 65535)) ∧
      ((filling false).jobOwner ((filling false).get (fFeedJob 31) 15) (some (feedPkt 5 65535).epoch) = (true, (feedPkt 5 65535).h.sag)) ∧
      ((filling false).ax { kind := AuxKind.stepOpen, a := (filling false).get (fFeedJob 31) 15 : Aux } ≠ 0) ∧
      ((feedPkt 5 65535).h.arg % 65536 = (filling false).ax { kind := AuxKind.stepNo, a := (filling false).get (fFeedJob 31) 15 : Aux } % 65536) ∧
      ((feedPkt 5 65535).lines = [leBytes 4 1065353216 ++ List.replicate 60 0]) ∧
      (partFind ((filling false).feedParts 15 31) ((filling false).get (fFeedPos 31) 15) = some (65535, 0)) ∧
      ((filling false).bkt ((filling false).get (fFeedJob 31) 15) 65535 = some given11_2) ∧
      (given11_2.state = 1) ∧
      (given11_2.ef = true → (filling false).badBursts ((filling false).residual given11_2 ((filling false).lgen given11_2) 0) (16 * given11_2.resBytes) = [] ∧ (filling false).badPart ((filling false).residual given11_2 (1 - (filling false).lgen given11_2) 0) (16 * given11_2.resBytes) = false)) ∧
    (((withBkt fullBkt stepping).bkt 255 65535 = some fullBkt) ∧
      ((withBkt fullBkt stepping).ax { kind := AuxKind.stepOpen, a := 255 : Aux } ≠ 0) ∧
      (fullBkt.state = 1) ∧
      (fullBkt.got = fullBkt.elems) ∧
      ((withBkt fullBkt stepping).mayEnter fullBkt 1 = true) ∧
      (fullBkt.stages = 0)) ∧
    (((stagedSt given11_3 1).bkt 255 65535 = some given11_3) ∧
      ((stagedSt given11_3 1).ax { kind := AuxKind.stepOpen, a := 255 : Aux } ≠ 0) ∧
      (given11_3.state = 1) ∧
      (given11_3.got = given11_3.elems) ∧
      ((stagedSt given11_3 1).mayEnter given11_3 1 = true) ∧
      (given11_3.stages ≠ 0) ∧
      (∀ m ∈ (stagedSt given11_3 1).stageMembers given11_3 1, m.path ≠ 2 → (stagedSt given11_3 1).pathOk m.path m.port m.module_ = true)) ∧
    (((stagedSt stage1 1).bkt 255 65535 = some stage1) ∧
      ((stagedSt stage1 1).ax { kind := AuxKind.stepOpen, a := 255 : Aux } ≠ 0) ∧
      (stage1.state = 2) ∧
      ((stagedSt stage1 1).stageFull stage1 = true) ∧
      (stage1.stage < stage1.stages → (stagedSt stage1 1).mayEnter stage1 (stage1.stage + 1) = true) ∧
      ((stagedSt stage1 1).badBursts ((stagedSt stage1 1).stNum (stage1.addr + 24) 6 + 4 * ((stagedSt stage1 1).ownMember stage1 stage1.stage).lo) (4 * ((stagedSt stage1 1).ownMember stage1 stage1.stage).n) = []) ∧
      ((csum stage1.sncon stage1.step stage1.scale stage1.id (codesOf stage1.sum ((stagedSt stage1 1).ownMember stage1 stage1.stage).lo ((stagedSt stage1 1).ownMember stage1 stage1.stage).n) + stage1.spcorr) % csumP ≠ stage1.sc)) ∧
    (((stagedSt stage1 2).bkt 255 65535 = some stage1) ∧
      ((stagedSt stage1 2).ax { kind := AuxKind.stepOpen, a := 255 : Aux } ≠ 0) ∧
      (stage1.state = 2) ∧
      ((stagedSt stage1 2).stageFull stage1 = false)) ∧
    ((doneSt.bkt 255 65535 = some (bktIn 3)) ∧
      ((bktIn 3).state = 3) ∧
      (doneSt.bktAccepted (bktIn 3) = true) ∧
      (∀ (x : Bkt), doneSt.prevBkt (bktIn 3) = some x → x.state = 4) ∧
      (doneSt.jobGlaze 255 ≠ [])) ∧
    ((withBkt (bktIn 1) stepping).admits ctx0 Blk.pug 15 (abortStepSpec 15 abortArgs)) := by
  repeat' with_reducible apply And.intro
  all_goals decide +kernel

/-- A state and operands that meet the hypotheses of `UpdatesVoteAndMirror`, clause by clause. -/
theorem test_hyps_UpdatesVoteAndMirror :
    ((gjobSt.lets Src.mgmt Blk.glaze 47 true) ∧
      (gjobSt.get fGlzState 47 = 0) ∧
      (gjobSt.on fGjobValid 47 = true → gjobSt.jobActive (gjobSt.get fGjob 47) = false) ∧
      (getBits (255 + 2 ^ 8 + 2 * 2 ^ 9 + 291 * 2 ^ 16 + 4096 * 2 ^ 32) 8 1 = 1 → gjobSt.jobActive (getBits (255 + 2 ^ 8 + 2 * 2 ^ 9 + 291 * 2 ^ 16 + 4096 * 2 ^ 32) 0 8) = false ∧ gjobSt.standby = false) ∧
      (getBits (255 + 2 ^ 8 + 2 * 2 ^ 9 + 291 * 2 ^ 16 + 4096 * 2 ^ 32) 9 2 ≠ 3) ∧
      (1 ≤ getBits (255 + 2 ^ 8 + 2 * 2 ^ 9 + 291 * 2 ^ 16 + 4096 * 2 ^ 32) 32 13) ∧
      (getBits (255 + 2 ^ 8 + 2 * 2 ^ 9 + 291 * 2 ^ 16 + 4096 * 2 ^ 32) 32 13 ≤ 4096)) ∧
    ((47 < 48) ∧
      (updating47.on fGjobValid 47 = true) ∧
      (updating47.get fGlzState 47 = 1) ∧
      (updating47.shadowOpened 47 (updating47.ax { kind := AuxKind.stepNo, a := updating47.get fGjob 47 : Aux }) = false) ∧
      (updating47.pinned 47 (updating47.shadowSlot 47) = false) ∧
      (∃ r ∈ updating47.gl.ranges, r.port = 47)) ∧
    ((List.find? (fun x => decide (x.port = 47) && decide (x.idx = 0) && decide (x.st = 0)) updateSt.gl.ranges = some { port := 47, idx := 0, bucket := 65535, st := 0 : GRange }) ∧
      (updateSt.bkt (updateSt.get fGjob 47) { port := 47, idx := 0, bucket := 65535, st := 0 : GRange }.bucket = some given11_4) ∧
      (updateSt.get fGlzState 47 = 1) ∧
      (updateSt.shadowOpened 47 given11_4.step = true) ∧
      (given11_4.state = 3) ∧
      (updateSt.rangeBad 47 (updateSt.rangeEnt 47 0) (hypOf ((Option.map (fun x => x.2) (List.find? (fun x => decide (x.1 = 47)) updateSt.gl.hyper)).getD []) (updateSt.rangeEnt 47 0).hset given11_4.step).opt = none) ∧
      ((updateSt.rangeEnt 47 0).stream = false) ∧
      (∀ x ∈ [((updateSt.rangeEnt 47 0).master, 4 * (updateSt.rangeEnt 47 0).n), ((updateSt.rangeEnt 47 0).mOff, (updateSt.rangeEnt 47 0).mBytes * (updateSt.rangeEnt 47 0).n)] ++ if (hypOf ((Option.map (fun x => x.2) (List.find? (fun x => decide (x.1 = 47)) updateSt.gl.hyper)).getD []) (updateSt.rangeEnt 47 0).hset given11_4.step).opt = 1 then [((updateSt.rangeEnt 47 0).vOff, (updateSt.rangeEnt 47 0).mBytes * (updateSt.rangeEnt 47 0).n)] else [], updateSt.badPart (updateSt.genAddr 47 0 (updateSt.shadowSlot 47) x.1) x.2 = false)) ∧
    ((∃ r ∈ (updated 2).gl.ranges, r.port = 47 ∧ r.idx = 0 ∧ r.st = 1) ∧
      (((markRange 47 0 2).run (updated 2)).allAccepted ((updated 2).get fGjob 47) = false ∨ (updated 2).ax { kind := AuxKind.voted, a := (updated 2).get fGjob 47 : Aux } ≠ 0)) ∧
    ((∃ r ∈ (updated 1).gl.ranges, r.port = 47 ∧ r.idx = 0 ∧ r.st = 1) ∧
      (((markRange 47 0 2).run (updated 1)).allAccepted ((updated 1).get fGjob 47) = true) ∧
      ((updated 1).ax { kind := AuxKind.voted, a := (updated 1).get fGjob 47 : Aux } = 0) ∧
      ((updated 1).ax { kind := AuxKind.stepOpen, a := (updated 1).get fGjob 47 : Aux } ≠ 0) ∧
      ((updated 1).jobCoord ((updated 1).get fGjob 47) = some 291) ∧
      (291 ≠ (updated 1).self)) ∧
    ((votedSt.ax { kind := AuxKind.voted, a := 255 : Aux } ≠ 0) ∧
      (votedSt.ax { kind := AuxKind.stepOpen, a := 255 : Aux } ≠ 0) ∧
      (votedSt.jobCoord 255 = some 291) ∧
      (291 ≠ votedSt.self)) ∧
    (committing.ax { kind := AuxKind.committed, a := 255 : Aux } = 4294967295 + 1) ∧
    ((47 < 48) ∧
      ((put [(fGlzState, 47, 2)] (glazed 1 stepping)).get fGlzState 47 = 2)) ∧
    (lateMirror.flipOf 47 = some lateFlip) ∧
    (((mirrorSt 2).admits ctx0 Blk.glaze 47 (mirrorSyncSpec [255])) ∧
      ((mirrorSt 2).lkUp 16 = true ∧ Option.any (fun x => decide (x.st ≠ 2)) ((mirrorSt 2).boardPeer 16) = true)) ∧
    (((mirrorSt 0).admits ctx0 Blk.glaze 47 (mirrorSyncSpec [255])) ∧
      ((mirrorSt 0).lkUp 16 = false)) ∧
    ((syncing.syncRuns 255 ≠ []) ∧
      (syncing.mirrorIdle = true) ∧
      (∃ p ∈ syncing.jobGlaze 255, syncing.get fMstate p = 3)) := by
  repeat' with_reducible apply And.intro
  all_goals decide +kernel

/-! ### Kilns: kiln 255 on the last tile, of job 255; its image, tables, LEDGER and swap slot in stack 47 -/

/-- The image's header without its CRC, with its flags: one tile, split 64, its record at 256, 784 bytes. -/
def imgHead (flags : Nat) : List Byte :=
  leBytes 4 0x4E4C494B ++ leBytes 2 1 ++ leBytes 1 flags ++ [0, 191, 191, 179, 179, 255, 0] ++ leBytes 2 64 ++ leBytes 8 (b47 + 0x1000) ++
  List.replicate 80 0 ++ leBytes 8 256 ++ leBytes 4 1 ++ List.replicate 44 0 ++ leBytes 8 784 ++ List.replicate 84 0
/-- The tile's record, its program of one slot at 768; and the slot, a NOP. -/
def imgRest : List Byte := leBytes 4 0 ++ leBytes 4 1 ++ leBytes 8 768 ++ List.replicate 512 0
def imgBytes (flags : Nat) : List Byte := imgHead flags ++ leBytes 4 (crc32c (imgHead flags ++ imgRest)) ++ imgRest
/-- The job-table entry: one module, one bucket; the shard list, with its 16 elements; the bucket's entry. -/
def jobBytes : List Byte :=
  leBytes 2 0 ++ leBytes 2 1 ++ leBytes 4 0 ++ leBytes 8 (b47 + 0x1100) ++ leBytes 8 1 ++ leBytes 8 (b47 + 0x1080) ++ List.replicate 104 0 ++ leBytes 8 16 ++ List.replicate 112 0 ++
  leBytes 8 (15 * 2 ^ 16 + 16 * 2 ^ 32) ++ leBytes 8 0 ++ leBytes 8 (b47 + 2 ^ 24) ++ leBytes 8 (b47 + 2 ^ 24 + 0x1000) ++
  leBytes 8 (b47 + 2 ^ 24 + 0x2000) ++ leBytes 8 47
/-- The one range of GLAZE unit 47: the bucket's 16 elements from 0. -/
def rangeBytes : List Byte := leBytes 8 0 ++ leBytes 8 16 ++ List.replicate 48 0
def kilnStore (flags : Nat) : FMap Nat Byte := stBytes b47 (imgBytes flags) ++ stBytes (b47 + 0x1000) jobBytes ++ stBytes (b47 + 0x1400) rangeBytes
/-- Stack 47 with regions KILN, LEDGER and the swap slots' of 16 MiB each, opened to saggar 5 with the job and the kiln. -/
def home47 (flags : Nat) : State :=
  { put [(fLinkUp, 256, 1), (fSlipState, 47, 2), (fTrained, 47, 1), (fUnits, 47, 3), (fMapBase 7, 47, 0), (fMapSize 7, 47, 1), (fMapBase 5, 47, 1), (fMapSize 5, 47, 1),
      (fMapBase 6, 47, 2), (fMapSize 6, 47, 1), (fSaggar .kiln, 255, 5), (fJobValid 255, 0, 1), (fJobSag 255, 0, 5),
      (fGjobValid, 47, 1), (fGjob, 47, 255), (fRanges, 47, b47 + 0x1400), (fRangeCnt, 47, 1), (fCommitted, 47, 0xFFFFFFFE)] live with
    sg := { wins := [(510, b47), (511, 768 + 5 * 2 ^ 32 + 7 * 2 ^ 40)] }, store := kilnStore flags }
def poweredOn (s : State) : State := putA [(⟨.tilePwr, 35998, 0⟩, 2)] s
/-- A kiln command of that kiln in progress, for the image or the slot at an address. -/
def inProgress (op a : Nat) (s : State) : State := putA [(⟨.kilnAddr, 255, 0⟩, a + 1)] (put [(fKilnBusy, 255, 1), (fBusyOp, 255, op)] s)
def loadingSt : State := poweredOn (inProgress 0x10 b47 (home47 0))
/-- Kiln 255 in a state, with its job and its image. -/
def kilnIn (st : Nat) : State := put ([(fKilnJob, 255, 255), (fKilnJobValid, 255, 1), (fJobtab, 255, b47 + 0x1000), (fImage, 255, b47)] ++ inKiln255 ++ [(fKilnState, 255, st), (fInKiln, 35998, 1), (fOwnKiln, 35998, 255)]) (home47 4)
def armed : State := put [(fRouteCreditInit 4, 35998, 1024)] (poweredOn (kilnIn 2))
/-- A step that ends: the tile DONE; a STOP waits for it. -/
def stopRun : Running := ⟨ctx0, .kiln, 255, 0x13, [], 1, true, none⟩
def ending (st : Nat) : State := { put [(fInStep, 255, 1), (fTileState, 35998, 2), (fKSteps, 255, 0xFFFFFFFF)] (poweredOn (kilnIn st)) with hi := { running := [stopRun] } }
/-- The swap slot: the last 64 KiB of stack 47's units. -/
def slot47 : Nat := b47 + 0x2FF0000
def swappedOut : State := put [(fSwapSlot, 255, slot47), (fFromStopped, 255, 1)] (kilnIn 7)

/-- A state and operands that meet the hypotheses of `LoadTakesTilesAndEndsLoaded`, clause by clause. -/
theorem test_hyps_LoadTakesTilesAndEndsLoaded :
    (((home47 0).admits ctx0 Blk.kiln 255 (loadSpec 255 [BitVec.ofNat 64 b47])) ∧
      (((home47 0).kilnTaken ctx0 255 16 [BitVec.ofNat 64 b47]).loadErr1 255 (((home47 0).kilnTaken ctx0 255 16 [BitVec.ofNat 64 b47]).img (BitVec.toNat (argN [BitVec.ofNat 64 b47] 0))) = none) ∧
      (((home47 0).kilnTaken ctx0 255 16 [BitVec.ofNat 64 b47]).loadErr2 255 (((home47 0).kilnTaken ctx0 255 16 [BitVec.ofNat 64 b47]).img (BitVec.toNat (argN [BitVec.ofNat 64 b47] 0))) = none)) ∧
    (((home47 0).admits ctx0 Blk.kiln 255 (loadSpec 255 [BitVec.ofNat 64 (b47 + 64)])) ∧
      (((home47 0).kilnTaken ctx0 255 16 [BitVec.ofNat 64 (b47 + 64)]).loadErr1 255 (((home47 0).kilnTaken ctx0 255 16 [BitVec.ofNat 64 (b47 + 64)]).img (BitVec.toNat (argN [BitVec.ofNat 64 (b47 + 64)] 0))) = some { code := eARG : LErr })) ∧
    ((255 < 256) ∧
      (loadingSt.on fKilnBusy 255 = true) ∧
      (loadingSt.get fBusyOp 255 = 16) ∧
      (loadingSt.tilesOn (loadingSt.img (loadingSt.ax { kind := AuxKind.kilnAddr, a := 255 : Aux } - 1)).tiles = true) ∧
      (loadingSt.loadErr3 255 (loadingSt.img (loadingSt.ax { kind := AuxKind.kilnAddr, a := 255 : Aux } - 1)) true = none)) := by
  repeat' with_reducible apply And.intro
  all_goals decide +kernel

/-- A state and operands that meet the hypotheses of `StartArmsTheKiln`, clause by clause. -/
theorem test_hyps_StartArmsTheKiln :
    ((kilnIn 1).admits ctx0 Blk.kiln 255 (startSpec 255 [])) ∧
    ((255 < 256) ∧
      (armed.get fKilnState 255 = 2) ∧
      (armed.armErr 255 = none)) ∧
    ((255 < 256) ∧
      ((kilnIn 2).get fKilnState 255 = 2) ∧
      ((kilnIn 2).armErr 255 = some (eSTATE, 0, 34559))) := by
  repeat' with_reducible apply And.intro
  all_goals decide +kernel

/-- A state and operands that meet the hypotheses of `StepOpensAndTheBoundaryEnds`, clause by clause. -/
theorem test_hyps_StepOpensAndTheBoundaryEnds :
    ((poweredOn (kilnIn 3)).admits ctx0 Blk.kiln 255 (stepSpec 255 [4294967295])) ∧
    ((255 < 256) ∧
      ((ending 3).get fKilnState 255 = 3 ∨ (ending 3).get fKilnState 255 = 4) ∧
      ((ending 3).on fInStep 255 = true) ∧
      (∀ w ∈ (ending 3).kilnTiles 255, (ending 3).get fTileState ((ending 3).phys w) = 2) ∧
      (∀ x ∈ (ending 3).kilnCtx 255, (ending 3).get (fCtxState x.2) x.1 = 3)) ∧
    ((255 < 256) ∧
      ((ending 4).get fKilnState 255 = 3 ∨ (ending 4).get fKilnState 255 = 4) ∧
      ((ending 4).on fInStep 255 = true) ∧
      (∀ w ∈ (ending 4).kilnTiles 255, (ending 4).get fTileState ((ending 4).phys w) = 2) ∧
      (∀ x ∈ (ending 4).kilnCtx 255, (ending 4).get (fCtxState x.2) x.1 = 3)) := by
  repeat' with_reducible apply And.intro
  all_goals decide +kernel

/-- A state and operands that meet the hypotheses of `StopAbortUnload`, clause by clause. -/
theorem test_hyps_StopAbortUnload :
    ((kilnIn 3).admits ctx0 Blk.kiln 255 (stopSpec 255 [])) ∧
    (((ending 4).admits ctx0 Blk.kiln 255 (abortSpec 255 [])) ∧
      ((ending 4).on fKilnBusy 255 = false) ∧
      ((ending 4).get fKilnState 255 = 3 ∨ (ending 4).get fKilnState 255 = 4)) ∧
    ((kilnIn 5).admits ctx0 Blk.kiln 255 (unloadSpec 255 [])) ∧
    ((kilnIn 7).admits ctx0 Blk.kiln 255 (unloadSpec 255 [])) := by
  repeat' with_reducible apply And.intro
  all_goals decide +kernel

/-- A state and operands that meet the hypotheses of `KilnsSwapOutAndIn`, clause by clause. -/
theorem test_hyps_KilnsSwapOutAndIn :
    (((kilnIn 5).admits ctx0 Blk.kiln 255 (swapOutSpec 255 [BitVec.ofNat 64 slot47])) ∧
      (((kilnIn 5).kilnTaken ctx0 255 21 [BitVec.ofNat 64 slot47]).inRegionAny 6 (BitVec.toNat (argN [BitVec.ofNat 64 slot47] 0)) (((kilnIn 5).kilnTaken ctx0 255 21 [BitVec.ofNat 64 slot47]).kilnImg 255).swapBytes = true) ∧
      (((kilnIn 5).kilnTaken ctx0 255 21 [BitVec.ofNat 64 slot47]).winErr 255 true (BitVec.toNat (argN [BitVec.ofNat 64 slot47] 0)) (((kilnIn 5).kilnTaken ctx0 255 21 [BitVec.ofNat 64 slot47]).kilnImg 255).swapBytes = none)) ∧
    ((255 < 256) ∧
      ((inProgress 21 slot47 (poweredOn (kilnIn 5))).on fKilnBusy 255 = true) ∧
      ((inProgress 21 slot47 (poweredOn (kilnIn 5))).get fBusyOp 255 = 21) ∧
      ((((inProgress 21 slot47 (poweredOn (kilnIn 5))).kilnTiles 255).any fun w => (inProgress 21 slot47 (poweredOn (kilnIn 5))).badIn ((inProgress 21 slot47 (poweredOn (kilnIn 5))).phys w) fun x => decide (((inProgress 21 slot47 (poweredOn (kilnIn 5))).kilnImg 255).saveBase ≤ x) && decide (x < ((inProgress 21 slot47 (poweredOn (kilnIn 5))).kilnImg 255).saveBase + 64 * ((inProgress 21 slot47 (poweredOn (kilnIn 5))).kilnImg 255).saveLines)) = false) ∧
      ((inProgress 21 slot47 (poweredOn (kilnIn 5))).storeWrErr ((inProgress 21 slot47 (poweredOn (kilnIn 5))).ax { kind := AuxKind.kilnAddr, a := 255 : Aux } - 1) ((inProgress 21 slot47 (poweredOn (kilnIn 5))).kilnImg 255).swapBytes = none)) ∧
    ((swappedOut.admits ctx0 Blk.kiln 255 (swapInSpec 255 [])) ∧
      ((swappedOut.kilnTaken ctx0 255 22 []).winErr 255 false ((swappedOut.kilnTaken ctx0 255 22 []).kilnImg 255).a ((swappedOut.kilnTaken ctx0 255 22 []).kilnImg 255).bytes = none) ∧
      ((swappedOut.kilnTaken ctx0 255 22 []).winErr 255 false ((swappedOut.kilnTaken ctx0 255 22 []).get fSwapSlot 255) ((swappedOut.kilnTaken ctx0 255 22 []).kilnImg 255).swapBytes = none) ∧
      ((swappedOut.kilnTaken ctx0 255 22 []).rectErr 255 ((swappedOut.kilnTaken ctx0 255 22 []).kilnImg 255) = none) ∧
      ((swappedOut.kilnTaken ctx0 255 22 []).rsvErrL 255 ((swappedOut.kilnTaken ctx0 255 22 []).kilnImg 255) (decide ((swappedOut.kilnTaken ctx0 255 22 []).ax { kind := AuxKind.kilnMoved, a := 255 : Aux } ≠ 0)) = none)) ∧
    ((255 < 256) ∧
      ((inProgress 22 slot47 (poweredOn swappedOut)).on fKilnBusy 255 = true) ∧
      ((inProgress 22 slot47 (poweredOn swappedOut)).get fBusyOp 255 = 22) ∧
      ((inProgress 22 slot47 (poweredOn swappedOut)).tilesOn ((inProgress 22 slot47 (poweredOn swappedOut)).kilnImg 255).tiles = true) ∧
      ((inProgress 22 slot47 (poweredOn swappedOut)).loadErr3 255 ((inProgress 22 slot47 (poweredOn swappedOut)).kilnImg 255) (decide ((inProgress 22 slot47 (poweredOn swappedOut)).ax { kind := AuxKind.kilnMoved, a := 255 : Aux } ≠ 0)) = none) ∧
      ((inProgress 22 slot47 (poweredOn swappedOut)).badBursts ((inProgress 22 slot47 (poweredOn swappedOut)).ax { kind := AuxKind.kilnAddr, a := 255 : Aux } - 1) ((inProgress 22 slot47 (poweredOn swappedOut)).kilnImg 255).swapBytes = [])) := by
  repeat' with_reducible apply And.intro
  all_goals decide +kernel

/-! ### Fabric ports and board links: F15, and L2 (port 18) -/

/-- Link port q in a state, EtherType 0x88B5, this module 5. -/
def linkIn (q st : Nat) : State := put [(lkF q 0x018 0 64, lkInst q, st), (fEtype, 0, 0x88B5), (fModuleId, 0, 5)] live
def enabledIn (q st : Nat) : State := put [(lkF q 0x010 2 1, lkInst q, 1)] (linkIn q st)
def retrainable (q st : Nat) : State := put [(fLinkUp, 256, 1)] (enabledIn q st)
/-- A HELLO has been received: 1 it matches, 2 it does not, 3 the training ended first. -/
def helloIn (n : Nat) (s : State) : State := putA [(⟨.helloSeen, 18, 0⟩, n), (⟨.helloSeen, 18, 1⟩, 0x123 + 1), (⟨.helloSeen, 18, 2⟩, 3)] s
def l2Enable : State := put [(⟨.blink, 0x180, 14, 1⟩, 0, 1)] (linkIn 18 0)
def f15Up : State := linkIn 15 2
/-- A frame to this module from module 0x123. -/
def frameOf (cls typ : Nat) (seqd : Bool) (seq : Nat) (payload : List Byte) : Frame :=
  ⟨true, true, 0, 0x88B5, 1, cls, typ, 0x123, 5, true, true, seqd, seq, 0, 0, payload.length, 0, payload⟩
def segFrame : Frame := frameOf 2 0x20 true 0xFFFFFFFF (List.replicate 16 1)
def heartFrame : Frame := frameOf 0 1 false 0 (List.replicate 16 1)
def badFcs : Frame := { heartFrame with fcsOk := false }
def badDst : Frame := { heartFrame with dst := 4 }
def badE2e : Frame := { heartFrame with e2eOk := false }
/-- The peer on F15, UP, its class 2 at the last SEQ of the window. -/
def peer15 : Peer := { port := 15, module_ := 0x123, st := 1, c2 := { rNext := 0xFFFFFFFF, asm := [9] } }
def peered (x : Peer) (s : State) : State := { s with fb := { s.fb with peers := [x] } }
def inbox (m : InMsg) (s : State) : State := { s with fb := { s.fb with inbox := [m] } }
/-- An ACK or NAK of class 2: NEXT and CREDIT. -/
def ackMsg (typ : Nat) : InMsg := ⟨15, 0x123, false, 0, typ, leBytes 4 2 ++ leBytes 4 0 ++ leBytes 2 0xFFFF⟩
def sentTo : Peer := { port := 15, module_ := 0x123, st := 1, c2 := { sBase := 0xFFFFFFFF, sNext := 1, retries := 2 }, frames := [⟨2, true, { segFrame with seq := 0xFFFFFFFF }, 0⟩, ⟨2, true, { segFrame with seq := 0 }, 0⟩] }
def tries (n : Nat) (s : State) : State := put [(lkF 15 0x110 8 4, 15, n)] s
def seenPeer : Peer := { peer15 with seen := true }
def hbMsg (w mine : Nat) : InMsg := ⟨15, 0x123, false, 0, 1, leBytes 4 w ++ leBytes 4 0xFFFFFFFF ++ leBytes 4 mine⟩
def syncPeer : Peer := { port := 15, module_ := 0x123, st := 0, hbBase := 0xFFFFFFFF }
def downPeer : Peer := { syncPeer with st := 2 }
def syncSt : State := inbox (hbMsg 0 1) (peered syncPeer (putA [(⟨.hbSeq, 0, 0⟩, 1)] f15Up))
def downSt : State := inbox (hbMsg 0 0) (peered downPeer f15Up)
/-- A RECORD of stage 1 for a job's bucket from 0x123. -/
def recMsg (job step c : Nat) : InMsg := ⟨15, 0x123, false, 1, 0x10, leBytes 1 job ++ leBytes 1 (1 + 7 * 16) ++ leBytes 2 0xFFFF ++ leBytes 4 step ++ leBytes 2 0 ++ leBytes 2 0x123 ++
  leBytes 2 1 ++ leBytes 2 0 ++ leBytes 4 0 ++ leBytes 4 16 ++ leBytes 8 c ++ leBytes 8 0 ++ List.replicate 24 0⟩
def stageBkt : Bkt := { bktIn 2 with stages := 1, stage := 1 }
def recSt : State := stagedSt stageBkt 2
def nextRec : InMsg := recMsg 254 1 0
def nowRec : InMsg := recMsg 255 0xFFFFFFFF (0xFFFF * 2 ^ 24 + 0xFFFF + 1)
def nextSt : State := inbox nextRec live
def nowSt : State := inbox nowRec recSt
/-- A message about step 0xFFFFFFFF (or another) of job 255. -/
def stepMsg (typ w n : Nat) : InMsg := ⟨15, 0x123, false, 0, typ, leBytes 1 255 ++ leBytes 3 w ++ leBytes 4 n⟩
def coordSt : State := put [(fGcoord, 47, 0)] (glazed 1 stepping)
def prepared (n : Nat) : State := putA [(⟨.voted, 255, 0⟩, n)] (glazed 1 stepping)
def abortIn : State := inbox (stepMsg 0x11 0 0xFFFFFFFF) stepping
def staleAbort : State := inbox (stepMsg 0x11 0 0xFFFFFFFE) stepping
def voteIn : State := inbox (stepMsg 0x12 2 0xFFFFFFFF) coordSt
def commitIn (n : Nat) : State := inbox (stepMsg 0x13 0 0xFFFFFFFF) (prepared n)
def ackIn : State := inbox (stepMsg 0x14 0 0xFFFFFFFF) committing
def reqMsg : InMsg := ⟨15, 0x123, false, 2, 0x20, leBytes 2 0xBFFF ++ leBytes 1 47 ++ leBytes 1 0 ++ leBytes 4 64 ++ leBytes 8 (2 ^ 40 - 64)⟩
def reqSt : State := inbox reqMsg f15Up
/-- A request for the last 64 bytes of the WEIGHTS region's first generation of one unit. -/
def serve47 : Serve := { port := 15, src := 0x123, alias_ := false, tag := 0xBFFF, stack := 47, off := 2 ^ 24 - genData - 64, len := 64 }
def serveBusy : Serve := { serve47 with busy := true }
def serveSt : State := { put [(fGenValid 0, 47, 1), (fGenVer 0, 47, 7), (fMapSize 0, 47, 1)] (peered peer15 port47) with fb := { peers := [peer15], serves := [serve47] } }
def servedSt : State := { live with fb := { peers := [peer15], serves := [{ serve47 with busy := true }] } }
def dataMsg : InMsg := ⟨15, 0x123, false, 2, 0x21, leBytes 2 0xBFFF ++ leBytes 2 0 ++ leBytes 4 7 ++ leBytes 2 3 ++ leBytes 6 0 ++ List.replicate 64 5⟩
def segIn : Seg := ⟨47, 7, 63, 0x123, 0, 15, 47, 0, 64, 0, 1, 0xBFFF, 0, 0⟩
def segWait : State := { put [(fWinState 7, 47, 1), (fMapSize 4, 47, 1)] port47 with sl := { segs := [segIn] } }
def segSt : State := inbox dataMsg segWait
def mwMsg : InMsg := ⟨16, 0x123, false, 3, 0x30, leBytes 1 47 ++ leBytes 1 1 ++ leBytes 6 0 ++ leBytes 8 (2 ^ 24 - 4) ++ [1, 2, 3, 4]⟩
def mwSt : State := inbox mwMsg (put [(fMapBase 3, 47, 1), (fMapSize 3, 47, 1)] port47)
def mhMsg : InMsg := ⟨16, 0x123, false, 3, 0x31, leBytes 1 0 ++ leBytes 1 1 ++ leBytes 2 0 ++ leBytes 4 7 ++ leBytes 6 (2 ^ 47)⟩
def mhSt : State := inbox mhMsg (put [(fMapBase 3, 47, 1), (fMapSize 3, 47, 1)] port47)

/-- A state and operands that meet the hypotheses of `LinksTrainAndDrop`, clause by clause. -/
theorem test_hyps_LinksTrainAndDrop :
    ((18 < 19) ∧
      (l2Enable.lets Src.mgmt (lkBlk 18) (lkInst 18) true) ∧
      (getBits 7 2 1 = 1) ∧
      (l2Enable.lkEnabled 18 = false) ∧
      (l2Enable.lkState 18 = 0) ∧
      (16 ≤ 18 → l2Enable.on { blk := Blk.blink, off := 384, lo := 14, w := 1 : Fld } 0 = true)) ∧
    ((15 < 19) ∧
      ((linkIn 15 0).lets Src.mgmt (lkBlk 15) (lkInst 15) true) ∧
      (getBits 4 2 1 = 1) ∧
      ((linkIn 15 0).lkEnabled 15 = false) ∧
      ((linkIn 15 0).lkState 15 = 0) ∧
      (16 ≤ 15 → (linkIn 15 0).on { blk := Blk.blink, off := 384, lo := 14, w := 1 : Fld } 0 = true)) ∧
    ((18 < 19) ∧
      ((enabledIn 18 2).lets Src.mgmt (lkBlk 18) (lkInst 18) true) ∧
      (getBits 0 2 1 = 0) ∧
      ((enabledIn 18 2).lkEnabled 18 = true)) ∧
    ((18 < 19) ∧
      ((retrainable 18 2).admits ctx0 (lkBlk 18) (lkInst 18) (retrainSpec 18 []))) ∧
    ((15 < 19) ∧
      ((retrainable 15 3).admits ctx0 (lkBlk 15) (lkInst 15) (retrainSpec 15 []))) ∧
    ((18 < 19) ∧
      ((helloIn 1 (linkIn 18 1)).held = false) ∧
      ((helloIn 1 (linkIn 18 1)).lkState 18 = 1) ∧
      ((helloIn 1 (linkIn 18 1)).ax { kind := AuxKind.helloSeen, a := 18 : Aux } ≠ 3) ∧
      (lanesUsed 18 65535 = some (16, 65535)) ∧
      (16 ≤ 18 → (helloIn 1 (linkIn 18 1)).ax { kind := AuxKind.helloSeen, a := 18 : Aux } = 1)) ∧
    ((15 < 19) ∧
      ((linkIn 15 1).held = false) ∧
      ((linkIn 15 1).lkState 15 = 1) ∧
      ((linkIn 15 1).ax { kind := AuxKind.helloSeen, a := 15 : Aux } ≠ 3) ∧
      (lanesUsed 15 240 = some (4, 240)) ∧
      (16 ≤ 15 → (linkIn 15 1).ax { kind := AuxKind.helloSeen, a := 15 : Aux } = 1)) ∧
    ((16 ≤ 18) ∧
      (18 < 19) ∧
      ((linkIn 18 1).lkState 18 = 1) ∧
      ((linkIn 18 1).ax { kind := AuxKind.helloSeen, a := 18 : Aux } ≠ 3)) ∧
    ((16 ≤ 18) ∧
      (18 < 19) ∧
      ((helloIn 3 (linkIn 18 1)).lkState 18 = 1) ∧
      ((helloIn 3 (linkIn 18 1)).ax { kind := AuxKind.helloSeen, a := 18 : Aux } = 3) ∧
      (2 = 18 - 16 ∧ 3 = ((helloIn 3 (linkIn 18 1)).get fBoardPos 0).xor (18 - 15) ∧ 291 ≠ (helloIn 3 (linkIn 18 1)).self)) ∧
    ((16 ≤ 18) ∧
      (18 < 19) ∧
      ((helloIn 3 (linkIn 18 1)).lkState 18 = 1) ∧
      ((helloIn 3 (linkIn 18 1)).ax { kind := AuxKind.helloSeen, a := 18 : Aux } = 3) ∧
      (¬(2 = 18 - 16 ∧ 3 = ((helloIn 3 (linkIn 18 1)).get fBoardPos 0).xor (18 - 15) ∧ 5 ≠ (helloIn 3 (linkIn 18 1)).self))) ∧
    ((18 < 19) ∧
      ((linkIn 18 1).lkState 18 = 1)) ∧
    ((15 < 19) ∧
      (f15Up.lkUp 15 = true)) ∧
    ((18 < 19) ∧
      ((put [(lkF 18 16 1 1, 2, 1)] (linkIn 18 3)).lkState 18 = 3) ∧
      ((put [(lkF 18 16 1 1, 2, 1)] (linkIn 18 3)).lk 18 16 1 1 = 1)) ∧
    ((18 < 19) ∧
      (7 < 8) ∧
      ((linkIn 18 2).lkUp 18 = true)) := by
  repeat' with_reducible apply And.intro
  all_goals decide +kernel

/-- A state and operands that meet the hypotheses of `FailedFramesAreDiscardedAndCounted`, clause by clause. -/
theorem test_hyps_FailedFramesAreDiscardedAndCounted :
    ((15 < 19) ∧
      (f15Up.fabLive = true) ∧
      (f15Up.lkUp 15 = true) ∧
      (badFcs.fcsOk = false)) ∧
    ((15 < 19) ∧
      (f15Up.fabLive = true) ∧
      (f15Up.lkUp 15 = true) ∧
      (badDst.fcsOk = true) ∧
      (badDst.etype ≠ f15Up.get fEtype 0 ∨ badDst.ver ≠ 1 ∨ badDst.rsvd ≠ 0 ∨ badDst.dst ≠ f15Up.self ∧ f15Up.forAlias 15 badDst = false ∨ typeInfo 15 badDst.typ = none)) ∧
    ((15 < 19) ∧
      (f15Up.fabLive = true) ∧
      (f15Up.lkUp 15 = true) ∧
      (badE2e.fcsOk = true) ∧
      (f15Up.headerBad 15 badE2e = false) ∧
      (badE2e.e2eOk = false)) := by
  repeat' with_reducible apply And.intro
  all_goals decide +kernel

/-- A state and operands that meet the hypotheses of `FramesAndHeartbeatsKeepPeers`, clause by clause. -/
theorem test_hyps_FramesAndHeartbeatsKeepPeers :
    ((15 < 19) ∧
      (f15Up.fabLive = true) ∧
      (f15Up.lkUp 15 = true) ∧
      (heartFrame.fcsOk = true) ∧
      (f15Up.headerBad 15 heartFrame = false) ∧
      (heartFrame.e2eOk = true) ∧
      (heartFrame.seqd = false) ∧
      (heartFrame.typ ≠ 4) ∧
      (f15Up.jobBarred heartFrame.typ heartFrame.payload = false)) ∧
    ((15 < 19) ∧
      ((peered peer15 f15Up).fabLive = true) ∧
      ((peered peer15 f15Up).lkUp 15 = true) ∧
      (segFrame.fcsOk = true) ∧
      ((peered peer15 f15Up).headerBad 15 segFrame = false) ∧
      (segFrame.e2eOk = true) ∧
      (segFrame.seqd = true) ∧
      (segFrame.typ ≠ 4) ∧
      ((peered peer15 f15Up).peer 15 segFrame.src ((peered peer15 f15Up).forAlias 15 segFrame) = some peer15) ∧
      (peer15.st = 1) ∧
      ((peer15.chan segFrame.cls).stale = false) ∧
      (segFrame.seq = (peer15.chan segFrame.cls).rNext) ∧
      ((peered peer15 f15Up).holdFull 15 (peer15.chan segFrame.cls) segFrame = false) ∧
      (segFrame.last = true) ∧
      ((peered peer15 f15Up).jobBarred segFrame.typ ((peer15.chan segFrame.cls).asm ++ segFrame.payload) = false)) ∧
    (((inbox (ackMsg 2) (peered sentTo f15Up)).fabLive = true) ∧
      ((inbox (ackMsg 2) (peered sentTo f15Up)).peer 15 (ackMsg 2).src (ackMsg 2).alias_ = some sentTo) ∧
      (sentTo.st ≠ 2) ∧
      (15 = 16 → (ackMsg 2).num 0 1 ≠ 3) ∧
      (sub32 ((ackMsg 2).num 4 4) (sentTo.chan ((ackMsg 2).num 0 1)).sBase ≤ sub32 (sentTo.chan ((ackMsg 2).num 0 1)).sNext (sentTo.chan ((ackMsg 2).num 0 1)).sBase) ∧
      ((inbox (ackMsg 2) (peered sentTo f15Up)).msgAt 15 2 = some (ackMsg 2))) ∧
    (((inbox (ackMsg 3) (peered sentTo f15Up)).fabLive = true) ∧
      ((inbox (ackMsg 3) (peered sentTo f15Up)).peer 15 (ackMsg 3).src (ackMsg 3).alias_ = some sentTo) ∧
      (sentTo.st ≠ 2) ∧
      (15 = 16 → (ackMsg 3).num 0 1 ≠ 3) ∧
      (sub32 ((ackMsg 3).num 4 4) (sentTo.chan ((ackMsg 3).num 0 1)).sBase ≤ sub32 (sentTo.chan ((ackMsg 3).num 0 1)).sNext (sentTo.chan ((ackMsg 3).num 0 1)).sBase) ∧
      ((inbox (ackMsg 3) (peered sentTo f15Up)).msgAt 15 3 = some (ackMsg 3))) ∧
    (((tries 4 (peered sentTo f15Up)).fabLive = true) ∧
      ((tries 4 (peered sentTo f15Up)).peer 15 291 false = some sentTo) ∧
      ((tries 4 (peered sentTo f15Up)).peer 15 291 true = none) ∧
      (sentTo.st = 1) ∧
      (∃ f ∈ sentTo.frames, f.cls = 2 ∧ f.sent = true) ∧
      ((sentTo.chan 2).retries + 1 < (tries 4 (peered sentTo f15Up)).lk 15 272 8 4)) ∧
    (((tries 3 (peered sentTo f15Up)).fabLive = true) ∧
      ((tries 3 (peered sentTo f15Up)).peer 15 291 false = some sentTo) ∧
      ((tries 3 (peered sentTo f15Up)).peer 15 291 true = none) ∧
      (sentTo.st = 1) ∧
      (∃ f ∈ sentTo.frames, f.cls = 2 ∧ f.sent = true) ∧
      ((tries 3 (peered sentTo f15Up)).lk 15 272 8 4 ≤ (sentTo.chan 2).retries + 1) ∧
      (15 < 16) ∧
      ((tries 3 (peered sentTo f15Up)).pg.buckets = []) ∧
      ((tries 3 (peered sentTo f15Up)).sl.segs = [])) ∧
    (((peered seenPeer f15Up).running) ∧
      (∀ x ∈ (peered seenPeer f15Up).fb.peers, x.st = 1 → x.seen = true)) ∧
    ((syncSt.fabLive = true) ∧
      (syncSt.msgAt 15 1 = some (hbMsg 0 1)) ∧
      (syncSt.peer 15 (hbMsg 0 1).src (hbMsg 0 1).alias_ = some syncPeer) ∧
      (15 = 16 → syncSt.get fPartnerState 0 ≠ 3) ∧
      (syncSt.lkUp 15 = true) ∧
      (syncPeer.st = 0) ∧
      ((hbMsg 0 1).num 8 4 ≠ 0) ∧
      (1 ≤ sub32 ((hbMsg 0 1).num 8 4) syncPeer.hbBase) ∧
      (sub32 ((hbMsg 0 1).num 8 4) syncPeer.hbBase ≤ sub32 (syncSt.ax { kind := AuxKind.hbSeq : Aux }) syncPeer.hbBase)) ∧
    ((downSt.fabLive = true) ∧
      (downSt.msgAt 15 1 = some (hbMsg 0 0)) ∧
      (downSt.peer 15 (hbMsg 0 0).src (hbMsg 0 0).alias_ = some downPeer) ∧
      (15 = 16 → downSt.get fPartnerState 0 ≠ 3) ∧
      (downSt.lkUp 15 = true) ∧
      (downPeer.st = 2) ∧
      ((hbMsg 0 0).num 0 1 ≠ 1)) := by
  repeat' with_reducible apply And.intro
  all_goals decide +kernel

/-- A state and operands that meet the hypotheses of `MessagesAct`, clause by clause. -/
theorem test_hyps_MessagesAct :
    ((nextSt.fabLive = true) ∧
      (List.find? (fun x => decide (x.port = 15) && decide (x.typ = 16) && decide (nextSt.recordWhen (Rec.parse x.data) ≠ 1)) nextSt.fb.inbox = some nextRec) ∧
      (nextSt.isNext nextRec = true)) ∧
    ((nowSt.fabLive = true) ∧
      (List.find? (fun x => decide (x.port = 15) && decide (x.typ = 16) && decide (nowSt.recordWhen (Rec.parse x.data) ≠ 1)) nowSt.fb.inbox = some nowRec) ∧
      (nowSt.isNext nowRec = false) ∧
      ((Rec.parse nowRec.data).step = nowSt.ax { kind := AuxKind.stepNo, a := (Rec.parse nowRec.data).job : Aux }) ∧
      (nowSt.ax { kind := AuxKind.stepOpen, a := (Rec.parse nowRec.data).job : Aux } ≠ 0) ∧
      (nowSt.bkt (Rec.parse nowRec.data).job (Rec.parse nowRec.data).bucket = some stageBkt) ∧
      (stageBkt.state = 2) ∧
      (nowSt.stageBad stageBkt (Rec.parse nowRec.data) = false) ∧
      ((Rec.parse nowRec.data).stage = stageBkt.stage) ∧
      ((Rec.parse nowRec.data).src ∉ stageBkt.from_) ∧
      (nowSt.recordErr stageBkt (Rec.parse nowRec.data) = none)) ∧
    ((abortIn.fabLive = true) ∧
      (abortIn.msgAt 15 17 = some (stepMsg 17 0 4294967295)) ∧
      (abortIn.openStep ((stepMsg 17 0 4294967295).num 0 1) = some ((stepMsg 17 0 4294967295).num 4 4))) ∧
    ((staleAbort.fabLive = true) ∧
      (staleAbort.msgAt 15 17 = some (stepMsg 17 0 4294967294)) ∧
      (staleAbort.openStep ((stepMsg 17 0 4294967294).num 0 1) ≠ some ((stepMsg 17 0 4294967294).num 4 4))) ∧
    ((voteIn.fabLive = true) ∧
      (voteIn.msgAt 15 18 = some (stepMsg 18 2 4294967295)) ∧
      (voteIn.openStep ((stepMsg 18 2 4294967295).num 0 1) = some ((stepMsg 18 2 4294967295).num 4 4) ∨ voteIn.ax { kind := AuxKind.stepNo, a := (stepMsg 18 2 4294967295).num 0 1 : Aux } < (stepMsg 18 2 4294967295).num 4 4) ∧
      (voteIn.isCoord ((stepMsg 18 2 4294967295).num 0 1) = true) ∧
      (∀ v ∈ voteIn.gl.votes, ¬(v.job = (stepMsg 18 2 4294967295).num 0 1 ∧ v.step = (stepMsg 18 2 4294967295).num 4 4 ∧ v.module_ = (stepMsg 18 2 4294967295).src)) ∧
      (voteIn.ax { kind := AuxKind.voted, a := (stepMsg 18 2 4294967295).num 0 1 : Aux } ≠ 1)) ∧
    (((commitIn 1).fabLive = true) ∧
      ((commitIn 1).msgAt 15 19 = some (stepMsg 19 0 4294967295)) ∧
      ((commitIn 1).openStep ((stepMsg 19 0 4294967295).num 0 1) = some ((stepMsg 19 0 4294967295).num 4 4)) ∧
      ((commitIn 1).ax { kind := AuxKind.voted, a := (stepMsg 19 0 4294967295).num 0 1 : Aux } = 1)) ∧
    (((commitIn 2).fabLive = true) ∧
      ((commitIn 2).msgAt 15 19 = some (stepMsg 19 0 4294967295)) ∧
      ((commitIn 2).openStep ((stepMsg 19 0 4294967295).num 0 1) = some ((stepMsg 19 0 4294967295).num 4 4)) ∧
      ((commitIn 2).ax { kind := AuxKind.voted, a := (stepMsg 19 0 4294967295).num 0 1 : Aux } = 2)) ∧
    ((ackIn.fabLive = true) ∧
      (ackIn.msgAt 15 20 = some (stepMsg 20 0 4294967295)) ∧
      (ackIn.ax { kind := AuxKind.committed, a := (stepMsg 20 0 4294967295).num 0 1 : Aux } = (stepMsg 20 0 4294967295).num 4 4 + 1) ∧
      (((stepMsg 20 0 4294967295).num 0 1, (stepMsg 20 0 4294967295).src) ∉ ackIn.gl.acks)) ∧
    ((reqSt.fabLive = true) ∧
      (reqSt.msgAt 15 32 = some reqMsg)) ∧
    ((serveSt.fabLive = true) ∧
      ((List.filter (fun y => decide (y.port = 15) && y.busy) serveSt.fb.serves).length < 64) ∧
      (List.find? (fun y => decide (y.port = 15) && !y.busy) serveSt.fb.serves = some serve47) ∧
      (serve47.alias_ = false) ∧
      (serve47.stack < 48) ∧
      (genData + serve47.off + serve47.len ≤ serveSt.regionSize serve47.stack 0) ∧
      (serveSt.on (fGenValid 0) serve47.stack = true) ∧
      (serveSt.badBursts (serveSt.genAddr serve47.stack 0 (serveSt.get (fCgen 0) serve47.stack) serve47.off) serve47.len = []) ∧
      (serveSt.peer 15 serve47.src false = some peer15)) ∧
    ((List.filter (fun y => decide (y.port = 15) && y.busy) servedSt.fb.serves)[0]? = some serveBusy) ∧
    ((segSt.fabLive = true) ∧
      (segSt.msgAt 15 33 = some dataMsg) ∧
      (List.find? (fun g => decide (g.st = 1) && decide (g.tag = dataMsg.num 0 2) && decide (g.module_ = dataMsg.src) && decide (planPort g.path g.link = 15)) segSt.sl.segs = some segIn) ∧
      (segSt.get (fWinState segIn.w) segIn.port = 1) ∧
      (∀ x ∈ segSt.sl.segs, x.port = segIn.port → x.st = 0 → x.path = 2) ∧
      (dataMsg.num 2 1 = 0) ∧
      (segSt.storeWrErr (segSt.winAddr segIn.port segIn.w (segIn.woff * 64)) (List.drop 16 dataMsg.data).length = none)) ∧
    ((List.find? (fun g => decide (g.st = 1) && decide (g.tag = 49151)) segWait.sl.segs = some segIn) ∧
      (segWait.get (fWinState segIn.w) segIn.port = 1) ∧
      (∀ x ∈ segWait.sl.segs, x.port = segIn.port → x.st = 0 → x.path = 2) ∧
      (segWait.winCtx segIn.port segIn.w = none)) ∧
    ((mwSt.fabLive = true) ∧
      (mwSt.msgAt 16 48 = some mwMsg) ∧
      (∃ x, List.find? (fun x => decide (x.port = 16) && decide (x.cls = 3)) mwSt.fb.inbox = some x ∧ x.typ = 48) ∧
      (mwMsg.num 0 1 % 64 < 48) ∧
      (mwSt.badPart (mwSt.regionBase (mwMsg.num 0 1 % 64) (2 + mwMsg.num 1 1 % 2) + mwMsg.num 8 8 % 2 ^ 40) (List.drop 16 mwMsg.data).length = false) ∧
      (mwSt.inRegion (mwMsg.num 0 1 % 64) (2 + mwMsg.num 1 1 % 2) (mwSt.regionBase (mwMsg.num 0 1 % 64) (2 + mwMsg.num 1 1 % 2) + mwMsg.num 8 8 % 2 ^ 40) (List.drop 16 mwMsg.data).length = true)) ∧
    ((mhSt.fabLive = true) ∧
      (mhSt.msgAt 16 49 = some mhMsg) ∧
      (∃ x, List.find? (fun x => decide (x.port = 16) && decide (x.cls = 3)) mhSt.fb.inbox = some x ∧ x.typ = 49)) := by
  repeat' with_reducible apply And.intro
  all_goals decide +kernel

/-! ### Faults and partners -/

/-- Core 0 of the last physical tile is dead, and nobody knows yet. -/
def deadSt : State := { linked with ft := { crack := [(35998, 1)] } }
def entrySt : State := put [(fEntrySel, 0, 35999), (fEntryInc, 0, 1)] live
def duePersist : State := putA [(⟨.persistDue, 2, 0⟩, 1)] (put [(fAutoPersist, 0, 1)] live)
def persistRun : Running := ⟨ctx0, .crack, 0, 0x13, [], 1, true, none⟩
def persisting (n : Nat) : State := { putA [(⟨.persist, 0, 0⟩, n)] (put [(fMapState, 0, 2)] linked) with hi := { running := [persistRun] } }
def autoSt : State := { put [(fAutoShift, 0, 1)] deadSt with geoLive := { segs := [(1439, ⟨1, 24, 0⟩)] } }
def partner (n : Nat) (s : State) : State := put [(fPartnerState, 0, n)] s
/-- A committed mirror of the weights of stack 47: its header in slot 2, the first of the MIRROR regions. -/
def mirrored : State := { partner 4 (put [(fMapSize 2, 47, 1)] port47) with store := stBytes b47 (headerBytes 7 0 2 0) }
/-- L0 UP with its peer and the root's ring link. -/
def l0Up (s : State) : State := peered peerL0 (put [(lkF 16 0x018 0 64, 0, 2)] s)
def pairMsg (typ : Nat) : InMsg := ⟨16, 0x123, false, 0, typ, leBytes 8 1 ++ leBytes 8 0xFFFFFFFF00000000⟩
def pairRun_ : Running := ⟨ctx0, .crack, 0, 0x10, [1], 1, true, none⟩
def pairing (s : State) : State := { partner 1 s with hi := { running := [pairRun_] } }
def pairHeldSt : State := inbox (pairMsg 0x40) (l0Up linked)
def pairAckSt : State := inbox (pairMsg 0x41) (putA [(⟨.pairAckOut, 0, 0⟩, 1)] (pairing (l0Up linked)))
def unpairSt : State := inbox (pairMsg 0x42) (partner 2 (l0Up linked))
def unpairAckSt : State := inbox (pairMsg 0x43) (l0Up linked)
def pllSt : State := put [(fMgmtState, 0, 1)] State.reset

/-- A state and operands that meet the hypotheses of `DetectionsRecordADeath`, clause by clause. -/
theorem test_hyps_DetectionsRecordADeath :
    (((put [(fTileState, 35998, 1)] tileOn).detects = true) ∧
      ((put [(fTileState, 35998, 1)] tileOn).physOn 35998 = true) ∧
      ((put [(fTileState, 35998, 1)] tileOn).get fTileState 35998 ≠ 0) ∧
      ((put [(fTileState, 35998, 1)] tileOn).get fTileState 35998 ≠ 2) ∧
      ((put [(fTileState, 35998, 1)] tileOn).crackOf 35998 / 32 % 2 = 0)) ∧
    ((tileOn.detects = true) ∧
      (tileOn.physOn 35998 = true) ∧
      (3 < 4) ∧
      (tileOn.crackOf 35998 / 2 ^ 3 % 2 = 0)) ∧
    ((tileOn.detects = true) ∧
      (tileOn.physOn 35998 = true) ∧
      (tileOn.crackOf 35998 / 16 % 2 = 0)) ∧
    ((live.detects = true) ∧
      (35999 < 36000) ∧
      (live.crackOf 35999 / 64 % 2 = 0)) ∧
    ((live.detects = true) ∧
      (35999 < 36000) ∧
      (live.crackOf 35999 / 128 % 2 = 0)) := by
  repeat' with_reducible apply And.intro
  all_goals decide +kernel

/-- A state and operands that meet the hypotheses of `CrackMapIsWrittenAndPersisted`, clause by clause. -/
theorem test_hyps_CrackMapIsWrittenAndPersisted :
    ((entrySt.lets Src.mgmt Blk.crack 0 true) ∧
      (entrySt.entryHeld (entrySt.get fEntrySel 0) (entrySt.crackOf (entrySt.get fEntrySel 0) % 256 &&& 255 - getBits 255 0 8) = false)) ∧
    (entrySt.held = false) ∧
    (linked.admits ctx0 Blk.crack 0 (persistSpec [])) ∧
    ((live.lets Src.mgmt Blk.crack 0 true) ∧
      (getBits 1 0 1 = 1) ∧
      (live.get fMapState 0 ≠ 2)) ∧
    ((duePersist.detects = true) ∧
      (duePersist.on fAutoPersist 0 = true) ∧
      (duePersist.ax { kind := AuxKind.persistDue, a := 2 : Aux } ≠ 0) ∧
      (duePersist.get fMapState 0 ≠ 2)) ∧
    (((persisting 1).get fMapState 0 = 2) ∧
      ((persisting 1).ax { kind := AuxKind.persist : Aux } ≠ 0)) ∧
    (((persisting 2).get fMapState 0 = 2) ∧
      ((persisting 2).ax { kind := AuxKind.persist : Aux } ≠ 0)) := by
  repeat' with_reducible apply And.intro
  all_goals decide +kernel

/-- A state and operands that meet the hypotheses of `ShiftsAndPromotions`, clause by clause. -/
theorem test_hyps_ShiftsAndPromotions :
    (deadSt.admits ctx0 Blk.crack 0 (shiftSpec [])) ∧
    (linked.admits ctx0 Blk.crack 0 (shiftSpec [])) ∧
    ((autoSt.detects = true) ∧
      (autoSt.on fAutoShift 0 = true) ∧
      (autoSt.on fUpdating 1 = false) ∧
      (autoSt.geoLive ≠ autoSt.geo) ∧
      (autoSt.ax { kind := AuxKind.geoDue : Aux } = 0) ∧
      (∀ k < 256, autoSt.get fKilnState k = 6 → autoSt.get fKFaultSrc k = 3 → ∀ w ∈ autoSt.kilnTiles k, autoSt.get fTileState (autoSt.phys w) ≠ 6)) ∧
    ((partner 3 linked).admits ctx0 Blk.crack 0 (promoteSpec [])) ∧
    ((partner 4 live).get fPartnerState 0 = 4) ∧
    (mirrored.get fPartnerState 0 = 4) := by
  repeat' with_reducible apply And.intro
  all_goals decide +kernel

/-- A state and operands that meet the hypotheses of `ModulesPairAndUnpair`, clause by clause. -/
theorem test_hyps_ModulesPairAndUnpair :
    (((l0Up linked).admits ctx0 Blk.crack 0 (pairSpec [1])) ∧
      ((l0Up linked).mirrorFits = true) ∧
      ((l0Up linked).ax { kind := AuxKind.pairHeld : Aux } = 0)) ∧
    (((l0Up linked).admits ctx0 Blk.crack 0 (pairSpec [6])) ∧
      ((l0Up linked).mirrorFits = true) ∧
      ((l0Up linked).ax { kind := AuxKind.pairHeld : Aux } = 0)) ∧
    ((pairHeldSt.running) ∧
      (pairHeldSt.msgAt 16 64 = some (pairMsg 64)) ∧
      (pairHeldSt.get fPartnerState 0 = 0)) ∧
    ((pairAckSt.running) ∧
      (pairAckSt.msgAt 16 65 = some (pairMsg 65)) ∧
      (pairAckSt.get fPartnerState 0 = 1) ∧
      (pairAckSt.ax { kind := AuxKind.pairAckOut : Aux } ≠ 0)) ∧
    ((pairing linked).get fPartnerState 0 = 1) ∧
    ((partner 2 (l0Up linked)).admits ctx0 Blk.crack 0 (unpairSpec [])) ∧
    ((partner 5 linked).admits ctx0 Blk.crack 0 (unpairSpec [])) ∧
    ((unpairSt.running) ∧
      (unpairSt.msgAt 16 66 = some (pairMsg 66)) ∧
      (unpairSt.get fPartnerState 0 = 2)) ∧
    ((unpairAckSt.running) ∧
      (unpairAckSt.msgAt 16 67 = some (pairMsg 67))) := by
  repeat' with_reducible apply And.intro
  all_goals decide +kernel

/-- A state and operands that meet the hypotheses of `CausesWedgeTheModule`, clause by clause. -/
theorem test_hyps_CausesWedgeTheModule :
    (live.running) ∧
    (((put [(fClkState, 0, 2)] live).running) ∧
      ((put [(fClkState, 0, 2)] live).get fClkState 0 = 2)) ∧
    (pllSt.inPhase 1 = true) := by
  repeat' with_reducible apply And.intro
  all_goals decide +kernel

/-! ### Saggars, clocks, power, heat: the last kiln, job, window, tile, field and sensor -/

def aChange (installed : Bool) : Change := ⟨0, 255, 5, 0, installed⟩
def changing (installed : Bool) : State := { live with sg := { change := some (aChange installed) } }
/-- Window 255 about to be committed over the last 64 KiB of stack 47's units. -/
def swSt : State := put [(fSwSel, 0, 255), (⟨.saggar, 0x118, 0, 48⟩, 0, b47 + 0x1FF0000)] port47
def pllIn (n : Nat) : State := put [(fClkState, 0, n)] live
/-- The south half's dividers are due, decided 2,400 edges before edge 4,096. -/
def dividing : State := { putA [(⟨.divDue, 1, 0⟩, 1697)] (pllIn 1) with wcount := 4096 }
def sole (b : Nat) : State := putA [(⟨.lastSole, 0, 0⟩, b)] (put [(fPwrState, 0, 2)] live)
def waking : State := { live with pw := { wakes := [34559] } }
def granted : State := { putA [(⟨.tilePwr, 35998, 0⟩, 1)] live with pw := { waking := [34559] } }
/-- The rectangle of the last tile. -/
def lastTile : W64 := BitVec.ofNat 64 (191 + 191 * 2 ^ 8 + 179 * 2 ^ 16 + 179 * 2 ^ 24)
def powered : State := put [(fLinkUp, 256, 1)] tileOn
/-- Every sensor at 20 °C but one. -/
def heat (n t : Nat) : List Int := (List.range 296).map fun i => if i = n then (t : Int) * 16 else 320
def alert95 : State := put [(fAlertT, 0, 95)] live
def levelSt (l h : Nat) : State := putA [(⟨.level, l, h⟩, 1)] alert95

/-- A state and operands that meet the hypotheses of `SaggarEntriesMakeWaferChanges`, clause by clause. -/
theorem test_hyps_SaggarEntriesMakeWaferChanges :
    ((live.lets Src.mgmt Blk.kiln 255 true) ∧
      (live.sg.change = none)) ∧
    ((live.lets Src.mgmt Blk.saggar 0 true) ∧
      (live.sg.change = none) ∧
      (255 < 256)) ∧
    ((swSt.lets Src.mgmt Blk.saggar 0 true) ∧
      (swSt.sg.change = none) ∧
      (swSt.swBad (swSt.get fSwSel 0) (getBits (swSt.rd Blk.saggar 0 280) 0 48) 7718056230913 = false)) ∧
    (((changing false).lets Src.mgmt Blk.kiln 255 true) ∧
      ((changing false).sg.change.isSome = true)) := by
  repeat' with_reducible apply And.intro
  all_goals decide +kernel

/-- A state and operands that meet the hypotheses of `WaferChangeInstallsAndSettles`, clause by clause. -/
theorem test_hyps_WaferChangeInstallsAndSettles :
    (((changing false).running) ∧
      ((changing false).sg.change = some (aChange false)) ∧
      ((aChange false).installed = false)) ∧
    (((changing true).running) ∧
      ((changing true).sg.change = some (aChange true)) ∧
      ((aChange true).installed = true) ∧
      ((changing true).drained = true) ∧
      ((changing true).sg.waiting = [])) := by
  repeat' with_reducible apply And.intro
  all_goals decide +kernel

/-- A state and operands that meet the hypotheses of `ClocksFollowThePllAndTheDividers`, clause by clause. -/
theorem test_hyps_ClocksFollowThePllAndTheDividers :
    (((pllIn 1).held = false) ∧
      ((pllIn 1).get fClkState 0 = 1)) ∧
    (((pllIn 2).held = false) ∧
      ((pllIn 2).get fClkState 0 = 2)) ∧
    ((dividing.held = false) ∧
      (1 < 2) ∧
      (dividing.get fClkState 0 = 1) ∧
      (dividing.ax { kind := AuxKind.divDue, a := 1 : Aux } ≠ 0) ∧
      (dividing.wcount % 1024 = 0) ∧
      (dividing.ax { kind := AuxKind.divDue, a := 1 : Aux } + 2400 ≤ dividing.wcount + 1)) := by
  repeat' with_reducible apply And.intro
  all_goals decide +kernel

/-- A state and operands that meet the hypotheses of `SuppliesSwitchAndAreSampled`, clause by clause. -/
theorem test_hyps_SuppliesSwitchAndAreSampled :
    ((sole 0).held = false) ∧
    ((sole 1).held = false) ∧
    ((live.held = false) ∧
      (44000 ≤ 44000 ∨ 44000 ≤ 0) ∧
      (44000 < 65536) ∧
      (65535 < 65536) ∧
      (0 < 65536) ∧
      (0 < 65536) ∧
      (65535 < 65536)) := by
  repeat' with_reducible apply And.intro
  all_goals decide +kernel

/-- A state and operands that meet the hypotheses of `TilesWakeAndSleep`, clause by clause. -/
theorem test_hyps_TilesWakeAndSleep :
    ((waking.ready = true) ∧
      (waking.held = false) ∧
      (waking.tripped = false) ∧
      (List.find? waking.grantable waking.pw.wakes = some 34559)) ∧
    ((34559 ∈ granted.pw.waking) ∧
      (granted.ax { kind := AuxKind.tilePwr, a := granted.phys 34559 : Aux } = 1)) ∧
    ((putA [({ kind := AuxKind.ramping, a := 47 : Aux }, 1)] live).tokens 47 = 0) ∧
    ((powered.admits ctx0 Blk.pwr 1 (sleepSpec 1 [lastTile])) ∧
      (∀ r ∈ powered.hi.running, r.seq ≠ powered.seq + 1)) ∧
    ((linked.admits ctx0 Blk.pwr 1 (wakeSpec 1 [lastTile])) ∧
      (34559 ∈ pwrRect (argN [lastTile] 0)) ∧
      (linked.ax { kind := AuxKind.tilePwr, a := linked.phys 34559 : Aux } = 0) ∧
      (linked.hot 34559 = false) ∧
      (linked.geo.outOfUse 34559 = false)) := by
  repeat' with_reducible apply And.intro
  all_goals decide +kernel

/-- A state and operands that meet the hypotheses of `HeatIsSampledAndClears`, clause by clause. -/
theorem test_hyps_HeatIsSampledAndClears :
    ((live.held = false) ∧
      (live.tripped = false) ∧
      (live.get fMgmtState 0 ≠ 1) ∧
      ((heat 295 105).length = 296) ∧
      ((hotAt (heat 295 105) (List.map (fun f => 192 + f) fields48) 115).or (hotAt (heat 295 105) stackSensors 105) = some 295)) ∧
    ((live.held = false) ∧
      (live.tripped = false) ∧
      (live.get fMgmtState 0 ≠ 1) ∧
      ((heat 239 115).length = 296) ∧
      ((hotAt (heat 239 115) (List.map (fun f => 192 + f) fields48) 115).or (hotAt (heat 239 115) stackSensors 105) = some 239)) ∧
    ((live.held = false) ∧
      (live.tripped = false) ∧
      (live.get fMgmtState 0 ≠ 1) ∧
      ((heat 191 98).length = 296) ∧
      ((hotAt (heat 191 98) (List.map (fun f => 192 + f) fields48) 115).or (hotAt (heat 191 98) stackSensors 105) = none) ∧
      (1 < 2) ∧
      (hotAt (heat 191 98) (List.flatMap computeSensors (halfFields 1)) 98 = some 191) ∧
      (live.level2 1 = false)) ∧
    ((alert95.held = false) ∧
      (alert95.tripped = false) ∧
      (alert95.get fMgmtState 0 ≠ 1) ∧
      ((heat 295 89).length = 296) ∧
      (∀ i < 296, -32768 ≤ (heat 295 89).getD i 0 ∧ (heat 295 89).getD i 0 < 16 * 90) ∧
      (90 ≤ alert95.get fAlertT 0)) ∧
    (((levelSt 2 1).held = false) ∧
      ((levelSt 2 1).tripped = false) ∧
      (1 < 2) ∧
      ((levelSt 2 1).level2 1 = true) ∧
      ((levelSt 2 1).cool (List.flatMap computeSensors (halfFields 1)) 92 = true)) ∧
    (((levelSt 1 0).held = false) ∧
      ((levelSt 1 0).tripped = false) ∧
      ((levelSt 1 0).level1 = true) ∧
      ((levelSt 1 0).cool (List.range 248) (↑((levelSt 1 0).get fAlertT 0) - 6) = true) ∧
      ((levelSt 1 0).cool stackSensors 89 = true)) := by
  repeat' with_reducible apply And.intro
  all_goals decide +kernel

/-! ### Background work -/

/-- The first generation of the geometry is published: background work runs. -/
def bg (s : State) : State := put [(fGen, 1, 1)] s
def scrubbing : State := putA [(⟨.scrubPos, 47, 0⟩, 0xFFFFF)] (bg port47)
def lateHour : State := putA [(⟨.onMs, 35998, 0⟩, 224999)] (bg tileOn)
/-- Copy A of the hours is the newest, with the last sequence number. -/
def hoursSt (b : Nat) : State := { bg live with ft := { hoursA := ⟨true, 0xFFFFFFFE, []⟩, hoursB := ⟨true, b, []⟩, hours := [(71999, 5)] } }
def hoursAt : State := put [(fHoursSel, 0, 35999), (fHoursInc, 0, 1)] live
def underTest : State := putA [(⟨.selftest, 35998, 0⟩, 1)] (bg tileOn)
/-- Edge 240,000; the telemetry ring of 2^4 samples with TAIL at its end. -/
def teleSt (en head : Nat) : State :=
  { bg (put [(fTeleEn, 0, en), (fTeleLog, 0, 4), (fTeleTail, 0, 15), (fTeleHead, 0, head)] linked) with wcount := 240000 }

/-- A state and operands that meet the hypotheses of `ScrubCalibrationAndTrims`, clause by clause. -/
theorem test_hyps_ScrubCalibrationAndTrims :
    ((scrubbing.bgOn = true) ∧
      ((b47 + 33554400) % 32 = 0) ∧
      (scrubbing.populated (b47 + 33554400) = true) ∧
      (scrubbing.on fTrained ((b47 + 33554400) / slotSize) = true) ∧
      (scrubbing.get fSlipState ((b47 + 33554400) / slotSize) ≠ 3) ∧
      (scrubbing.ax { kind := AuxKind.scrubPos, a := (b47 + 33554400) / slotSize : Aux } = (b47 + 33554400) % slotSize / 32) ∧
      (scrubbing.badBursts (b47 + 33554400) 32 = []) ∧
      (2 < 3)) ∧
    ((scrubbing.bgOn = true) ∧
      ((b47 + 33554400) % 32 = 0) ∧
      (scrubbing.populated (b47 + 33554400) = true) ∧
      (scrubbing.on fTrained ((b47 + 33554400) / slotSize) = true) ∧
      (scrubbing.get fSlipState ((b47 + 33554400) / slotSize) ≠ 3) ∧
      (scrubbing.ax { kind := AuxKind.scrubPos, a := (b47 + 33554400) / slotSize : Aux } = (b47 + 33554400) % slotSize / 32) ∧
      (scrubbing.badBursts (b47 + 33554400) 32 = []) ∧
      (1 < 3)) ∧
    ((bg live).bgOn = true) := by
  repeat' with_reducible apply And.intro
  all_goals decide +kernel

/-- A state and operands that meet the hypotheses of `HoursAndSelfTests`, clause by clause. -/
theorem test_hyps_HoursAndSelfTests :
    ((lateHour.bgOn = true) ∧
      (lateHour.onTiles.Nodup) ∧
      (35998 ∈ lateHour.onTiles)) ∧
    ((hoursSt 5).bgOn = true) ∧
    (hoursAt.held = false) ∧
    (((bg tileOn).bgOn = true) ∧
      ((bg tileOn).testable 35998 = true)) ∧
    ((underTest.bgOn = true) ∧
      (underTest.ax { kind := AuxKind.selftest, a := 35998 : Aux } ≠ 0)) ∧
    ((underTest.inTurnFor Src.mgmt) ∧
      (underTest.running) ∧
      (underTest.writeAccess Src.mgmt Blk.tile 34559 = WAcc.ok true) ∧
      (underTest.present Blk.tile 34559 = true) ∧
      (underTest.ax { kind := AuxKind.selftest, a := underTest.phys 34559 : Aux } ≠ 0)) := by
  repeat' with_reducible apply And.intro
  all_goals decide +kernel

/-- A state and operands that meet the hypotheses of `TelemetryIsSampledIntoItsRing`, clause by clause. -/
theorem test_hyps_TelemetryIsSampledIntoItsRing :
    (((teleSt 0 0).bgOn = true) ∧
      ((teleSt 0 0).wedged = false) ∧
      ((teleSt 0 0).wcount % 240000 = 0)) ∧
    (((teleSt 1 0).bgOn = true) ∧
      ((teleSt 1 0).wedged = false) ∧
      ((teleSt 1 0).wcount % 240000 = 0)) ∧
    (((teleSt 1 1).bgOn = true) ∧
      ((teleSt 1 1).wedged = false) ∧
      ((teleSt 1 1).wcount % 240000 = 0)) ∧
    ((live.lets Src.mgmt Blk.tele 0 true) ∧
      (4 ≤ getBits 782 0 4) ∧
      (getBits 782 0 4 ≤ 14) ∧
      (live.on fTeleEn 0 = true → getBits 782 0 4 = live.get fTeleLog 0)) ∧
    (((teleSt 1 0).bgOn = true) ∧
      ((teleSt 1 0).on fTeleEn 0 = true)) := by
  repeat' with_reducible apply And.intro
  all_goals decide +kernel

/-! ### Reset, power-on, the ports -/

def heldSt : State := putA [(⟨.resetHeld, 0, 0⟩, 1)] State.reset
def resetDue (n : Nat) : State := putA [(⟨.resetting, 1, 0⟩, n)] live
def justTripped : State := { putA [(⟨.tripAt, 0, 0⟩, 1)] (put [(fMgmtState, 0, 9)] live) with wcount := 2399999999 }
def phase (n : Nat) : State := put [(fMgmtState, 0, n)] State.reset
def copyB1 : FlashCopy := ⟨true, 1, [(35999, 128)]⟩
/-- Copy A carries the last sequence number: copy B, number 1, is newer. -/
def copies : State := { phase 3 with ft := { copyA := ⟨true, 0xFFFFFFFE, []⟩, copyB := copyB1 } }
def resetCopies : State := putA [(⟨.resetting, 0, 0⟩, 2)] copies
def noCopies : State := phase 3

/-- A state and operands that meet the hypotheses of `ResetsClearAndRestart`, clause by clause. -/
theorem test_hyps_ResetsClearAndRestart :
    (heldSt.held = true) ∧
    (((resetDue 1).held = false) ∧
      ((resetDue 1).ax { kind := AuxKind.resetting, a := 1 : Aux } ≠ 0) ∧
      ((resetDue 1).ax { kind := AuxKind.resetting, a := 1 : Aux } < 4)) ∧
    (((resetDue 3).held = false) ∧
      ((resetDue 3).ax { kind := AuxKind.resetting, a := 1 : Aux } ≠ 0) ∧
      ((resetDue 3).ax { kind := AuxKind.resetting, a := 1 : Aux } < 4)) ∧
    ((live.lets Src.mgmt Blk.mgmt 0 true) ∧
      (getBits 1 0 1 = 1) ∧
      (live.tooSoon = false) ∧
      (live.ax { kind := AuxKind.resetting : Aux } = 0) ∧
      (live.ax { kind := AuxKind.resetting, a := 1 : Aux } = 0)) ∧
    ((live.mgmtUp = true) ∧
      (live.tooSoon = false) ∧
      (live.ax { kind := AuxKind.resetting : Aux } = 0) ∧
      (live.ax { kind := AuxKind.resetting, a := 1 : Aux } = 0)) ∧
    ((justTripped.mgmtUp = true) ∧
      (justTripped.tooSoon = true)) := by
  repeat' with_reducible apply And.intro
  all_goals decide +kernel

/-- A state and operands that meet the hypotheses of `PowerOnPhasesFollow`, clause by clause. -/
theorem test_hyps_PowerOnPhasesFollow :
    ((phase 1).inPhase 1 = true) ∧
    ((phase 2).inPhase 2 = true) ∧
    ((copies.inPhase 3 = true) ∧
      (copies.ft.newCopy = some copyB1)) ∧
    ((resetCopies.inPhase 3 = true) ∧
      (resetCopies.ft.newCopy = some copyB1)) ∧
    ((noCopies.inPhase 3 = true) ∧
      (noCopies.ft.newCopy = none) ∧
      (noCopies.ax { kind := AuxKind.resetting : Aux } ≠ 2)) ∧
    ((phase 6).inPhase 6 = true) ∧
    ((phase 4).inPhase 4 = true) := by
  repeat' with_reducible apply And.intro
  all_goals decide +kernel

/-- A state and operands that meet the hypotheses of `PortsReadAndWriteRegisters`, clause by clause. -/
theorem test_hyps_PortsReadAndWriteRegisters :
    ((live.mgmtUp = true) ∧
      (live.reduced = false) ∧
      (393520 % 8 = 0) ∧
      (pageOfBar0 393520 = some (Blk.crack, 0, 304)) ∧
      (live.readsPlainly Blk.crack 0 304)) ∧
    ((live.mgmtUp = true) ∧
      ((2359296 + 47 * 4096 + 360) % 8 = 0) ∧
      (pageOfBar0 (2359296 + 47 * 4096 + 360) = some (Blk.glaze, 47, 360)) ∧
      (live.lets Src.mgmt Blk.glaze 47 true) ∧
      (256 ≤ 360) ∧
      ((ownEff Src.mgmt Blk.glaze 47 360 18446462603027742720).isNone = true) ∧
      (msixRange Blk.glaze 47 360 = false) ∧
      (plainMask Blk.glaze 47 360 ≠ 0)) ∧
    (0 ≠ 1) := by
  repeat' with_reducible apply And.intro
  all_goals decide +kernel

/-- A state and operands that meet the hypotheses of `RimCoresReachTheRegisters`, clause by clause. -/
theorem test_hyps_RimCoresReachTheRegisters :
    (((rim31 1).running) ∧
      (31 < 32) ∧
      ((rim31 1).get fRimState 31 = 1) ∧
      ((rim31 1).get (fSaggar Blk.rim) 31 = 0) ∧
      (4 = 4 ∨ 4 = 8) ∧
      (140737488748852 % 4 = 0) ∧
      (140737488355328 ≤ 140737488748852) ∧
      (140737488748852 < 140737555464192) ∧
      (pageOfBar0 (140737488748852 - 140737488355328) = some (Blk.crack, 0, 308)) ∧
      ((rim31 1).readsPlainly Blk.crack 0 (308 / 8 * 8))) ∧
    (((rim31 1).running) ∧
      (31 < 32) ∧
      ((rim31 1).get fRimState 31 = 1) ∧
      ((140737488355328 + 2359296 + 47 * 4096 + 360) % 8 = 0) ∧
      (140737488355328 ≤ 140737488355328 + 2359296 + 47 * 4096 + 360) ∧
      (140737488355328 + 2359296 + 47 * 4096 + 360 < 140737555464192) ∧
      (pageOfBar0 (140737488355328 + 2359296 + 47 * 4096 + 360 - 140737488355328) = some (Blk.glaze, 47, 360))) ∧
    (((rim31 1).running) ∧
      (31 < 32) ∧
      ((rim31 1).get fRimState 31 = 1) ∧
      (3298534883328 ≤ 140737555464192) ∧
      (¬(140737488355328 ≤ 140737555464192 ∧ 140737555464192 < 140737555464192)) ∧
      (¬(140741783322624 ≤ 140737555464192 ∧ 140737555464192 < 140743930806272))) ∧
    (((rim31 1).running) ∧
      (31 < 32) ∧
      ((rim31 1).get fRimState 31 = 1) ∧
      (3298534883328 ≤ 3298534883328) ∧
      (¬(140737488355328 ≤ 3298534883328 ∧ 3298534883328 < 140737555464192)) ∧
      (¬(140741783322624 ≤ 3298534883328 ∧ 3298534883328 < 140743930806272))) := by
  repeat' with_reducible apply And.intro
  all_goals decide +kernel

/-! ### Hypotheses over every address, which no decision procedure settles -/

/-- A state and operands that meet the hypotheses of `CoresAccumulateAndWriteBack` on the bytes written back. -/
theorem test_hyps_CoresAccumulateAndWriteBack_bytes :
    (∀ a : Nat, mWb mmaI.word = true ∧ mmaSt.destBytes (mmaSt.phys 34559) mmaI.c (mM mmaI.word)
      (mN mmaI.word * fmtBytes (mCvt mmaI.word % 16)) a → a < 2 ^ 21) ∧
    (∀ a : Nat, accwbSt.destBytes (accwbSt.phys 34559) accwbI.c (mM accwbI.word)
      (mN accwbI.word * fmtBytes (mCvt accwbI.word % 16)) a → a < 2 ^ 21) := by
  have h1 : mM mmaI.word = 1 ∧ mN mmaI.word * fmtBytes (mCvt mmaI.word % 16) = 4 := by decide +kernel
  have h2 : mM accwbI.word = 1 ∧ mN accwbI.word * fmtBytes (mCvt accwbI.word % 16) = 4 := by decide +kernel
  constructor
  · rintro a ⟨-, m, hm, -, h⟩
    rw [h1.1] at hm
    rw [h1.2] at h
    omega
  · rintro a ⟨m, hm, -, h⟩
    rw [h2.1] at hm
    rw [h2.2] at h
    omega

/-- Where every element's place ends by N, a sparse instruction behind a descriptor writes below N. -/
theorem sparse_dest_below {s : State} {i : QInstr} {core base f n0 n1 n2 st1 st2 N : Nat} (hc : i.c = .desc base f n0 n1 n2 st1 st2)
    (h : ∀ x ∈ s.smmaElems i core, s.spPlace i base st1 x + fmtBytes (spCvt i.word % 16) ≤ N) (a : Nat)
    (ha : s.sparseDest i core a) : a < N := by
  obtain ⟨-, ⟨b, f', m0, m1, m2, t1, t2, e, x, hx, -, hlt⟩ | ⟨q, n, e, -⟩⟩ := ha
  · rw [hc] at e
    cases e
    exact Nat.lt_of_lt_of_le hlt (h x hx)
  · rw [hc] at e
    cases e

/-- States and operands that meet the hypotheses of `CoresAccumulateAndWriteBack` on the bytes of sparse results. -/
theorem test_hyps_CoresAccumulateAndWriteBack_sparse :
    (∀ a, (spSt 40 4 tile24).sparseDest (spI 40 4 tile24) (4 * (spSt 40 4 tile24).phys 34559 + 3) a → a < 2 ^ 21) ∧
    (∀ a, (spSt 41 1 tileU).sparseDest (spI 41 1 tileU) (4 * (spSt 41 1 tileU).phys 34559 + 3) a → a < 2 ^ 21) ∧
    (∀ a, (spSt 42 4 tileB).sparseDest (spI 42 4 tileB) (4 * (spSt 42 4 tileB).phys 34559 + 3) a → a < 2 ^ 21) :=
  ⟨sparse_dest_below rfl (by decide +kernel), sparse_dest_below rfl (by decide +kernel), sparse_dest_below rfl (by decide +kernel)⟩

/-- A state and operands that meet the hypotheses of `VectorInstructionsTakeEffect` on the bytes a VOP stores. -/
theorem test_hyps_VectorInstructionsTakeEffect_bytes :
    ∀ a : Nat, ((∃ x ∈ (vopSt.vopRun vopI).stores ++ (vopSt.vopRun vopI).results, x.1 ≤ a ∧ a < x.1 + x.2.length) ∨
      ∃ q n, vopI.c = Opd.q q n ∧ vopSt.destBytes (vopSt.phys 34559) vopI.c 0 0 a) → a < 2 ^ 21 := by
  have h : ∀ x ∈ (vopSt.vopRun vopI).stores ++ (vopSt.vopRun vopI).results, x.1 + x.2.length ≤ 2 ^ 21 := by decide +kernel
  rintro a (⟨x, hx, -, hlt⟩ | ⟨q, n, hq, -⟩)
  · exact Nat.lt_of_lt_of_le hlt (h x hx)
  · cases hq

/-- The served request's answer has all been sent. -/
theorem test_hyps_MessagesAct_sent : ∀ x, servedSt.peer 15 serveBusy.src serveBusy.alias_ = some x →
    ∀ f ∈ x.frames, f.fr.typ = 0x21 → f.ref % 65536 = serveBusy.tag → f.sent = true := by
  intro x h
  have e : servedSt.peer 15 serveBusy.src serveBusy.alias_ = some peer15 := by decide +kernel
  rw [e] at h
  cases h
  decide +kernel

/-- A canonical state whose step answers a next state. -/
theorem test_hyps_EveryStepKeepsTheCanonicalForm : twoWait.Canon ∧ ∃ t, step twoWait = .next t :=
  ⟨by decide +kernel, _, rfl⟩

/-- A peer's port whose class-0 priority is paused, and the acknowledgement that then waits there. -/
theorem test_hyps_FramesAndHeartbeatsKeepPeers_paused :
    let s := putA [(⟨.paused, 15, 7⟩, 1)] (peered peer15 f15Up)
    s.isPaused 15 0 = true ∧ (((effFrameReceive 15 segFrame).run s).fb.dgrams.map fun d => (d.1, d.2.typ)) = [(15, 2)] := by
  decide +kernel

end Sys2Proof.Tests
end

section
/-! PROOFS. Geometry (chapter 01): the column shift of R12 stays in its row segment, so no row is remapped (R8). -/

namespace Sys2Proof.Machine

/-- The column shift never moves a tile into another field (R12): a field is 24 logical and 25 physical columns wide. -/
theorem GeoMap.px_div_fieldWidth (g : GeoMap) (x y : Nat) : g.px x y / 25 = x / 24 := by
  unfold GeoMap.px
  have hlx : x % 24 < 24 := Nat.mod_lt x (by decide)
  dsimp only
  split
  case isTrue => omega
  case isFalse => omega

/-- A logical column of the wafer lies at a physical column of the wafer. -/
theorem GeoMap.px_lt_width (g : GeoMap) (x y : Nat) (hx : x < 192) : g.px x y < 200 := by
  have hfield := g.px_div_fieldWidth x y
  omega

/-- The physical row of a logical tile, under any geometry map. -/
theorem GeoMap.phys_row (g : GeoMap) (t : Nat) : g.phys t / 200 = t / 192 := by
  have hpx : g.px (t % 192) (t / 192) < 200 := g.px_lt_width _ _ (Nat.mod_lt t (by decide))
  unfold GeoMap.phys
  omega

/-- Settles O6: whatever map is published, the shift moves a tile within its row. -/
theorem rowsAreNotRemapped : Obligations.RowsAreNotRemapped := by
  intro s t
  exact s.geo.phys_row t

end Sys2Proof.Machine
end

section
/-! PROOFS. The arbiter and the mailboxes (chapter 02): how the state of the mailbox a command names decides its admission
(R52), what an accepted and a rejected entry leave behind (R53, R54), what an ACK leaves behind (R55, R57). -/

namespace Sys2Proof.Machine

variable {s : State} {c : CmdCtx} {ps : List Component} {R : RK → Prop} {A : Aux → Prop}

/-! ## Fields after writes -/

/-- A field read back after it is written. -/
theorem get_setF_same {f : Fld} {i x : Nat} (h : f.lo + f.w ≤ 64) : ((setF f i x).run s).get f i = x % 2 ^ f.w := by
  simp [State.get, h]

/-- A field of another register, or of other bits of the same one, keeps its value. -/
theorem get_setF_ne {f g : Fld} {i j x : Nat}
    (h : g.blk = f.blk → j = i → g.off = f.off → g.lo + g.w ≤ f.lo ∨ f.lo + f.w ≤ g.lo) (hg : g.lo + g.w ≤ 64) :
    ((setF f i x).run s).get g j = s.get g j := by
  simp only [State.get, setF_run, State.rd_apply1, RK.mk.injEq]
  split
  next he =>
    obtain ⟨hb, rfl, ho⟩ := he
    rw [hb, ho, getBits_setBits_ne _ _ _ _ _ _ (h hb rfl ho) hg]
  next => rfl

/-- A field of a register outside those an effect touches keeps its value. -/
theorem Eff.Touches.get {e : Eff} (h : e.Touches ps R A) (s : State) {f : Fld} {i : Nat} (hk : ¬ R ⟨f.blk, i, f.off⟩) :
    (e.run s).get f i = s.get f i := by
  simp only [State.get, h.rd s hk]

/-- The number an accepted write takes shows in SEQ of its page only. -/
theorem numbered_get {blk : Blk} {key : Nat} {f : Fld} {i : Nat} (h : f.off ≠ offSeq) :
    (s.numbered blk key).get f i = s.get f i := by
  simp [State.get, h]

/-- Whether the module runs shows in RESET_N, MGMT.STATE and WEDGED alone. -/
theorem running_of_same {t : State} (hs : s.running) (hheld : t.ax ⟨.resetHeld, 0, 0⟩ = s.ax ⟨.resetHeld, 0, 0⟩)
    (hmgmt : t.get fMgmtState 0 = s.get fMgmtState 0) (hwedged : t.get fWedged 0 = s.get fWedged 0) : t.running := by
  unfold State.running State.held State.tripped State.wedged State.on at *
  rwa [hheld, hmgmt, hwedged]

theorem fabLive_of_running (h : s.running) : s.fabLive = true := by
  obtain ⟨hheld, htrip, hwedged⟩ := h
  simp [State.fabLive, hheld, htrip, hwedged]

/-! ## The mailbox at admission -/

/-- The command asks for a mailbox that is not EMPTY (R52). -/
def State.mailboxTaken (s : State) (c : CmdCtx) : Bool :=
  c.mbxEn && (s.on (fMbxValid c.mailbox) (64 + c.func) || s.on (fMbxPending c.mailbox) (64 + c.func))

theorem mailboxTaken_of_valid (he : c.mbxEn = true) (hv : s.on (fMbxValid c.mailbox) (64 + c.func) = true) :
    s.mailboxTaken c = true := by
  simp [State.mailboxTaken, he, hv]

theorem mailboxTaken_of_empty (hv : s.on (fMbxValid c.mailbox) (64 + c.func) = false)
    (hp : s.on (fMbxPending c.mailbox) (64 + c.func) = false) : s.mailboxTaken c = false := by
  simp [State.mailboxTaken, hv, hp]

theorem plainCode_eq (s : State) (c : CmdCtx) : s.plainCode c = if s.mailboxTaken c then eFULL else eOK := rfl

/-- R52: one of the earlier checks fails with a code of its own, or the block's state check and then the mailbox decide
(the order of DEDUCED log entry 18). -/
theorem State.admitCode_cases (s : State) (c : CmdCtx) (blk : Blk) (inst : Nat) (sp : CmdSpec) :
    s.admitCode c blk inst sp ∈ [eARG, eSTATE, eABSENT, eSAGGAR] ∨
      s.admitCode c blk inst sp = (sp.blocked s).getD (if s.mailboxTaken c then eFULL else eOK) := by
  unfold State.admitCode
  split
  case isTrue => simp
  split
  case isTrue => simp
  split
  case isTrue => simp
  split
  case isTrue => simp
  split
  case isTrue => simp
  right
  cases sp.blocked s <;> rfl

/-- With its mailbox EMPTY, only the block's own state can answer a command FULL. -/
theorem blocked_of_admitCode_full {blk : Blk} {inst : Nat} {sp : CmdSpec} (hfree : s.mailboxTaken c = false)
    (h : s.admitCode c blk inst sp = eFULL) : sp.blocked s = some eFULL := by
  rcases s.admitCode_cases c blk inst sp with hmem | heq
  · rw [h] at hmem
    exact absurd hmem (by decide)
  · rw [h, hfree] at heq
    cases hb : sp.blocked s with
    | none => rw [hb] at heq; exact absurd heq (by decide)
    | some code => rw [hb] at heq; exact congrArg some heq.symm

/-- With its mailbox not EMPTY, no command is accepted. -/
theorem admitCode_ne_ok_of_mailboxTaken {blk : Blk} {inst : Nat} {sp : CmdSpec} (htaken : s.mailboxTaken c = true)
    (hb : sp.blocked s ≠ some eOK) : s.admitCode c blk inst sp ≠ eOK := by
  intro h
  rcases s.admitCode_cases c blk inst sp with hmem | heq
  · rw [h] at hmem
    exact absurd hmem (by decide)
  · rw [h, htaken] at heq
    cases hcode : sp.blocked s with
    | none => rw [hcode] at heq; exact absurd heq (by decide)
    | some code => rw [hcode] at heq; exact hb (hcode.trans (congrArg some heq.symm))

/-! ## An accepted entry -/

theorem accept_run (s : State) (c : CmdCtx) (w : Nat) (blk : Blk) (inst op : Nat) (args : List W64) (k : Running → Eff) :
    (accept c w blk inst op args k).run s =
      (doAll [whenE (fun _ => c.mbxEn) (setF (fMbxPending c.mailbox) (64 + c.func) 1), writeBack c w,
        modHi fun h => { h with running := h.running ++ [s.asRunning c blk inst op args] },
        k (s.asRunning c blk inst op args)]).run (s.apply1 .seq) :=
  doAll_cons_run s _ _

/-- An accepted entry takes one number, when its command's effect takes none. -/
theorem accept_seq {w : Nat} {blk : Blk} {inst op : Nat} {args : List W64} {k : Running → Eff}
    (hk : ∀ r, (k r).Touches [.hi, .out, .free] (fun _ => True) (fun _ => True)) :
    ((accept c w blk inst op args k).run s).seq = s.seq + 1 := by
  rw [accept_run]
  refine Eff.Touches.same (ps := [.hi, .out, .free]) (R := fun _ => True) (A := fun _ => True) ?_ (s.apply1 .seq) .seq
    (by decide) (by decide) (by decide)
  simp (maxDischargeDepth := 20) [hk]

theorem finishFree_touches (r : Running) :
    (finishFree r).Touches [.hi, .out, .free] (fun _ => True) (fun _ => True) := by
  simp (maxDischargeDepth := 20) [finishFree]

/-! ## A rejected entry -/

@[simp] theorem setEvtI_hi_running (s : State) (blk : Blk) (i bit info : Nat) :
    ((setEvtI blk i bit info).run s).hi.running = s.hi.running := by
  simp only [Eff.run, setEvtI, setF]
  split
  · rfl
  · split <;> simp

@[simp] theorem recordErr_hi_running (s : State) (blk : Blk) (i code info : Nat) :
    ((recordErr blk i code info).run s).hi.running = s.hi.running := by
  simp only [Eff.run, recordErr]
  split
  · change ((doAll _).run s).hi.running = _
    simp [setEvt]
  · simp [addSat, setF]

@[simp] theorem writeBack_hi_running (s : State) (c : CmdCtx) (w : Nat) :
    ((writeBack c w).run s).hi.running = s.hi.running := by
  simp only [Eff.run, writeBack, hostWriteOr]
  split
  · simp
  · change ((ringLost _ _ _).run s).hi.running = _
    simp [ringLost]

theorem msixDue_hi (s : State) (f v : Nat) : ((msixDue f v).run s).hi = s.hi :=
  (touches_msixDue (ps := [.out]) (R := fun _ => True) (A := fun _ => True) trivial (by simp)).same s .hi
    (by decide) (by decide) (by decide)

/-- A rejected entry starts nothing. -/
theorem reject_hi_running (s : State) (c : CmdCtx) (w code : Nat) :
    ((reject c w code).run s).hi.running = s.hi.running := by
  simp [reject, setEvt, msixDue_hi]

/-- A rejected entry takes no number. -/
theorem reject_seq (s : State) (c : CmdCtx) (w code : Nat) : ((reject c w code).run s).seq = s.seq := by
  refine Eff.Touches.same (ps := [.hi, .out]) (R := fun _ => True) (A := fun _ => True) ?_ s .seq
    (by decide) (by decide) (by decide)
  simp (maxDischargeDepth := 20) [reject]

/-- With the ring's link up, the write-back of word 0 only sends a write to the host. -/
theorem writeBack_run_of_linkUp {w : Nat} (h : s.linkUp (s.ringLink c.func c.ring) = true) :
    ∃ o, (writeBack c w).run s = s.apply1 (.out o) := by
  simp only [Eff.run, writeBack, hostWriteOr, h, if_true]
  exact ⟨_, rfl⟩

theorem recordErr_run_of_clear {blk : Blk} {i code info : Nat} (h : s.get (fErrCode blk) i = 0) :
    (recordErr blk i code info).run s = (setEvt blk i 63).run ((setF (fErrInfo blk) i info).run
      ((setF (fErrCount blk) i 1).run ((setF (fErrCode blk) i code).run s))) := by
  have hfirst : (recordErr blk i code info).run s = (doAll [setF (fErrCode blk) i code, setF (fErrCount blk) i 1,
      setF (fErrInfo blk) i info, setEvt blk i 63]).run s := by
    simp only [Eff.run, recordErr, h, if_true]
  rw [hfirst, doAll_cons_run, doAll_cons_run, doAll_cons_run, doAll_cons_run, doAll_nil_run]

/-- R35: the first error since the last clear sets CODE and INFO. -/
theorem recordErr_get_of_clear {blk : Blk} {i code info : Nat} (h : s.get (fErrCode blk) i = 0) :
    ((recordErr blk i code info).run s).get (fErrCode blk) i = code % 2 ^ 8 ∧
      ((recordErr blk i code info).run s).get (fErrInfo blk) i = info % 2 ^ 32 := by
  have hevt : (setEvt blk i 63).Touches [.hi] (fun k => k.off = offEvtStatus) (fun _ => False) := by simp
  rw [recordErr_run_of_clear h]
  constructor
  · rw [hevt.get _ (by simp [fErrCode, offErr, offEvtStatus]),
      get_setF_ne (by simp [fErrCode, fErrInfo]) (by simp [fErrCode]),
      get_setF_ne (by simp [fErrCode, fErrCount]) (by simp [fErrCode]), get_setF_same (by simp [fErrCode]),
      show (fErrCode blk).w = 8 from rfl]
  · rw [hevt.get _ (by simp [fErrInfo, offErr, offEvtStatus]), get_setF_same (by simp [fErrInfo]),
      show (fErrInfo blk).w = 32 from rfl]

/-- R53: a rejected entry's code and place stand in ERR of the function's page, when ERR was clear and word 0 could be
written back. -/
theorem reject_get_err {w code : Nat} (h : s.get (fErrCode .host) c.func = 0)
    (hl : s.linkUp (s.ringLink c.func c.ring) = true) :
    ((reject c w code).run s).get (fErrCode .host) c.func = code % 2 ^ 8 ∧
      ((reject c w code).run s).get (fErrInfo .host) c.func = (c.ring * 0x10000 + c.idx) % 2 ^ 32 := by
  obtain ⟨o, hwb⟩ := writeBack_run_of_linkUp (w := w + code * 2 ^ 56) hl
  have htail : (doAll [setEvt .host c.func 0, msixDue c.func 3]).Touches [.hi, .out]
      (fun k => k.off = offEvtStatus ∨ k.off = 0x900) (fun _ => False) := by simp (maxDischargeDepth := 20)
  have herr : (s.apply1 (.out o)).get (fErrCode .host) c.func = 0 := by simpa [State.get] using h
  have hrun : (reject c w code).run s = (doAll [setEvt .host c.func 0, msixDue c.func 3]).run
      ((recordErr .host c.func code (c.ring * 0x10000 + c.idx)).run (s.apply1 (.out o))) := by
    rw [reject, doAll_cons_run, hwb, doAll_cons_run]
  rw [hrun, htail.get _ (by simp [fErrCode, offErr, offEvtStatus]),
    htail.get _ (by simp [fErrInfo, offErr, offEvtStatus])]
  exact recordErr_get_of_clear herr

/-! ## NOP and ACK -/

/-- A NOP at the head of its ring whose mailbox is EMPTY, or that names none, is accepted. -/
theorem effNop_run_of_free (hr : s.running) (ha : s.active c.func = true) (hf : s.fenceHeld c.func c.ring = false)
    (hfree : s.mailboxTaken c = false) :
    (effNop c).run s = (accept c (plainWord0 c 0) .host 0 0 [] finishFree).run s := by
  simp [Eff.run, effNop, admitPlain, fabLive_of_running hr, ha, hf, plainCode_eq, hfree]

/-- A NOP at the head of its ring whose mailbox is not EMPTY is rejected with FULL. -/
theorem effNop_run_of_taken (hr : s.running) (ha : s.active c.func = true) (hf : s.fenceHeld c.func c.ring = false)
    (htaken : s.mailboxTaken c = true) : (effNop c).run s = (reject c (plainWord0 c 0) eFULL).run s := by
  simp [Eff.run, effNop, admitPlain, fabLive_of_running hr, ha, hf, plainCode_eq, htaken, eFULL, eOK]

/-- The state an admitted ACK leaves: the write numbered, the mailbox's VALID cleared. -/
def State.acked (s : State) (f m : Nat) : State := (setF (fMbxValid m) (64 + f) 0).run (s.numbered .host (64 + f))

/-- An ACK of a VALID mailbox with its SEQ is accepted. -/
theorem execMbxAck_accepted {src : Src} {f m : Nat} {v : W64} {root : Bool} (hl : s.lets src .host (64 + f) root)
    (hf : f < 64) (hm : m < 64) (hv : s.on (fMbxValid m) (64 + f) = true)
    (hseq : getBits v 0 32 = s.get (fMbxSeq m) (64 + f)) :
    execMbxAck src f m v s = .next (s.acked f m) := by
  have hrange : ¬ (64 ≤ f ∨ 64 ≤ m) := by omega
  rw [execMbxAck, effMbxAck, if_neg hrange, write_accepted hl (by omega) (by simp [hv, hseq])]
  rfl

theorem acked_running {f m : Nat} (hs : s.running) : (s.acked f m).running :=
  have hack : (setF (fMbxValid m) (64 + f) 0).Touches [] (fun k => k.blk = .host) (fun _ => False) := touches_setF rfl
  running_of_same hs (hack.ax _ id)
    ((hack.get _ (by simp [fMgmtState])).trans (numbered_get (by decide)))
    ((hack.get _ (by simp [fWedged])).trans (numbered_get (by decide)))

theorem acked_valid (s : State) (f m : Nat) : (s.acked f m).on (fMbxValid m) (64 + f) = false := by
  unfold State.on State.acked
  rw [get_setF_same (by simp [fMbxValid])]
  simp

theorem acked_pending (s : State) (f m : Nat) :
    (s.acked f m).on (fMbxPending m) (64 + f) = s.on (fMbxPending m) (64 + f) := by
  have hseq : (fMbxPending m).off ≠ offSeq := by simp only [fMbxPending, offSeq]; omega
  unfold State.on State.acked
  rw [get_setF_ne (by simp [fMbxValid, fMbxPending]) (by simp [fMbxPending]), numbered_get hseq]

/-- A command that names a mailbox just emptied by an ACK finds it EMPTY. -/
theorem acked_mailboxTaken {f m : Nat} (hp : s.on (fMbxPending m) (64 + f) = false) (hf : c.func = f)
    (hm : c.mailbox = m) : (s.acked f m).mailboxTaken c = false := by
  subst hf hm
  exact mailboxTaken_of_empty (acked_valid s _ _) ((acked_pending s _ _).trans hp)

/-- Settles O17: the ACK first, and the command finds EMPTY; the command first, and it finds VALID and is rejected. -/
theorem arbiterOrderDecidesAckAgainstCommand : Obligations.ArbiterOrderDecidesAckAgainstCommand := by
  refine ⟨fun s src f m v root hl hf hm hv hp hseq => ?_, fun s c hr ha hf hen hv => ?_⟩
  · refine ⟨s.acked f m, execMbxAck_accepted hl hf hm hv hseq, fun c hcf hcm => ?_⟩
    have hfree : (s.acked f m).mailboxTaken c = false := acked_mailboxTaken hp hcf hcm
    obtain ⟨_, _, _, hrunning, _⟩ := hl
    refine ⟨fun blk inst sp hcode => blocked_of_admitCode_full hfree hcode, fun hact hfence => ?_⟩
    refine ⟨_, rfl, ?_⟩
    subst hcf
    rw [effNop_run_of_free (acked_running hrunning) hact hfence hfree]
    exact accept_seq finishFree_touches
  · have htaken : s.mailboxTaken c = true := mailboxTaken_of_valid hen hv
    refine ⟨fun blk inst sp hb => admitCode_ne_ok_of_mailboxTaken htaken hb, _, rfl, ?_⟩
    rw [effNop_run_of_taken hr ha hf htaken]
    exact ⟨reject_seq _ _ _ _, reject_hi_running _ _ _ _, fun herr hlink => reject_get_err herr hlink⟩

end Sys2Proof.Machine
end

section
/-! PROOFS. Frames a port discards (chapter 14): a frame that fails FCS, a header check or the E2E CRC only counts in its
field of DROPS (R373). -/

namespace Sys2Proof.Machine

variable {s : State} {q : Nat} {fr : Frame}

/-! ## Counters of a link port's page -/

theorem addLk_touches (q off lo w n : Nat) :
    (addLk q off lo w n).Touches [] (fun k => k = ⟨lkBlk q, lkInst q, off⟩) (fun _ => False) := touches_addSat rfl

/-- A counter of a link port's page gains n, held at its largest value. -/
theorem addLk_lk_same {off lo w n : Nat} (h : lo + w ≤ 64) :
    ((addLk q off lo w n).run s).lk q off lo w = min (s.lk q off lo w + n) (2 ^ w - 1) := by
  have hpos : 0 < 2 ^ w := Nat.two_pow_pos w
  have hheld : min (s.lk q off lo w + n) (2 ^ w - 1) < 2 ^ w := by omega
  rw [addLk, addSat_run, State.lk, get_setF_same h]
  exact Nat.mod_eq_of_lt hheld

/-- Another field of the counter's register keeps its value. -/
theorem addLk_lk_ne {off lo w n lo' w' : Nat} (h : lo' + w' ≤ lo ∨ lo + w ≤ lo') (h' : lo' + w' ≤ 64) :
    ((addLk q off lo w n).run s).lk q off lo' w' = s.lk q off lo' w' := by
  rw [addLk, addSat_run, State.lk, get_setF_ne (fun _ _ _ => h) h', State.lk]

/-! ## A discarded frame -/

/-- The state a discarded frame leaves: counted once in the field of DROPS at bit lo. -/
def State.dropped (s : State) (q lo : Nat) : State := (addLk q 0x158 lo 16 1).run s

theorem dropped_count {lo : Nat} (h : lo + 16 ≤ 64) :
    (s.dropped q lo).lk q 0x158 lo 16 = min (s.lk q 0x158 lo 16 + 1) 0xFFFF := addLk_lk_same h

theorem dropped_count_ne {lo lo' : Nat} (h : lo' + 16 ≤ lo ∨ lo + 16 ≤ lo') (h' : lo' + 16 ≤ 64) :
    (s.dropped q lo).lk q 0x158 lo' 16 = s.lk q 0x158 lo' 16 := addLk_lk_ne h h'

/-- A discarded frame leaves no trace outside DROPS of its port: no error, no event, no message. -/
theorem dropped_frame (s : State) (q lo : Nat) : OnlyParts [.regs] s (s.dropped q lo) ∧
    RegsKeptBut (fun b i o => b = lkBlk q ∧ i = lkInst q ∧ o = 0x158) s (s.dropped q lo) := by
  have htouch := addLk_touches q 0x158 lo 16 1
  refine ⟨htouch.only s (by simp) (.inl (by simp)) (.inr fun _ h => h), htouch.regsKept s _ fun blk inst off hk => ?_⟩
  cases hk
  exact ⟨rfl, rfl, rfl⟩

/-! ## The checks, in the order of DEDUCED log entry 92: FCS, header, E2E CRC -/

/-- Each header check R373 names is one of the model's header checks. -/
theorem headerBad_of_check (h : fr.etype ≠ s.get fEtype 0 ∨ fr.ver ≠ 1 ∨ fr.rsvd ≠ 0 ∨
    (fr.dst ≠ s.self ∧ s.forAlias q fr = false) ∨ typeInfo q fr.typ = none) : s.headerBad q fr = true := by
  unfold State.headerBad
  rcases h with hetype | hver | hrsvd | ⟨hdst, halias⟩ | htype
  · simp [hetype]
  · simp [hver]
  · simp [hrsvd]
  · simp [hdst, halias]
  · simp [htype]

section
variable (hq : q < 19) (hlive : s.fabLive = true) (hup : s.lkUp q = true)
include hq hlive hup

/-- On an UP link of a module that takes frames, the first failed check decides where the frame counts. -/
theorem execFrameReceive_of_badFcs (hfcs : fr.fcsOk = false) : execFrameReceive q fr s = .next (s.dropped q 0) := by
  simp [execFrameReceive, effFrameReceive, State.dropped, Eff.run, hlive, hup, hfcs, Nat.not_le.2 hq]

theorem execFrameReceive_of_headerBad (hfcs : fr.fcsOk = true) (hhdr : s.headerBad q fr = true) :
    execFrameReceive q fr s = .next (s.dropped q 32) := by
  simp [execFrameReceive, effFrameReceive, State.dropped, Eff.run, hlive, hup, hfcs, hhdr, Nat.not_le.2 hq]

theorem execFrameReceive_of_badE2e (hfcs : fr.fcsOk = true) (hhdr : s.headerBad q fr = false) (he2e : fr.e2eOk = false) :
    execFrameReceive q fr s = .next (s.dropped q 16) := by
  simp [execFrameReceive, effFrameReceive, State.dropped, Eff.run, hlive, hup, hfcs, hhdr, he2e, Nat.not_le.2 hq]

end

/-- Settles O40: the first check a frame fails decides the one field of DROPS that counts it, and nothing else changes. That
a frame failing several checks counts under the first of FCS, header and E2E is the model's choice (DEDUCED log entry 92);
R373 gives no order. -/
theorem failedFramesAreDiscardedAndCounted : Obligations.FailedFramesAreDiscardedAndCounted := by
  intro s q fr hq hlive hup
  refine ⟨fun hfcs => ?_, fun hfcs hcheck => ?_, fun hfcs hhdr he2e => ?_⟩
  · exact ⟨_, execFrameReceive_of_badFcs hq hlive hup hfcs, dropped_count (by decide),
      dropped_count_ne (by decide) (by decide), dropped_count_ne (by decide) (by decide), dropped_frame s q 0⟩
  · exact ⟨_, execFrameReceive_of_headerBad hq hlive hup hfcs (headerBad_of_check hcheck), dropped_count (by decide),
      dropped_count_ne (by decide) (by decide), dropped_count_ne (by decide) (by decide), dropped_frame s q 32⟩
  · exact ⟨_, execFrameReceive_of_badE2e hq hlive hup hfcs hhdr he2e, dropped_count (by decide),
      dropped_count_ne (by decide) (by decide), dropped_count_ne (by decide) (by decide), dropped_frame s q 16⟩

end Sys2Proof.Machine
end

section
/-! PROOFS. The machine: every command is an effect run on the state or one of two stops, so every step keeps the canonical
form and no command but those two stops. -/

namespace Sys2Proof.Machine

/-! ## What a command answers -/

/-- The command completes with an effect that runs on the state it finds. -/
def RunsEffect (c : Instr) (s : State) : Prop := ∃ e : Eff, exec c s = .next (e.run s)

/-- The command is one of the two to which the spec gives no behaviour. -/
def Undefined : Instr → Prop
  | .supplySample va _ vb _ _ => va < 44000 ∧ vb < 44000
  | .resetNRelease _ _ held => held = false
  | _ => False

theorem execSupplySample_runs {va ia vb ib w : Nat} (h : ¬ (va < 44000 ∧ vb < 44000)) (s : State) :
    RunsEffect (.supplySample va ia vb ib w) s := ⟨_, if_neg h⟩

theorem execResetNRelease_runs (pos : Nat) (v : Bool) (s : State) : RunsEffect (.resetNRelease pos v true) s := by
  by_cases hheld : s.held = true
  · exact ⟨effResetNRelease pos v, by simp [exec, execResetNRelease, hheld]⟩
  · exact ⟨skip, by simp [exec, execResetNRelease, hheld]⟩

/-- Every command with a defined behaviour completes, with an effect of its own. -/
theorem exec_runsEffect (c : Instr) (s : State) (h : ¬ Undefined c) : RunsEffect c s := by
  cases c
  case supplySample va ia vb ib w => exact execSupplySample_runs h s
  case resetNRelease pos v held =>
    cases held
    · exact absurd rfl h
    · exact execResetNRelease_runs pos v s
  all_goals exact ⟨_, rfl⟩

/-- Whatever a command answers as next state is an effect of its own run on the state it found. -/
theorem exec_next {c : Instr} {s t : State} (h : exec c s = .next t) : ∃ e : Eff, t = e.run s := by
  by_cases hc : Undefined c
  · cases c <;> try contradiction
    case supplySample va ia vb ib w =>
      have hlow : va < 44000 ∧ vb < 44000 := hc
      simp [exec, execSupplySample, hlow] at h
    case resetNRelease pos v held =>
      cases hc
      simp only [exec, execResetNRelease] at h
      split at h
      · exact ⟨skip, by cases h; rfl⟩
      · simp at h
  · obtain ⟨e, he⟩ := exec_runsEffect c s hc
    rw [he] at h
    exact ⟨e, by cases h; rfl⟩

/-! ## The steps of the machine -/

theorem step_cons {s : State} {c : Instr} {cs : List Instr} (h : s.pending = c :: cs) :
    step s = exec c { s with pending := cs } := by
  simp [step, h]

theorem step_idle {s : State} (h : s.pending = []) : step s = .next (tick.run s) := by
  simp [step, h]

/-- Settles O1. -/
theorem stepRunsTheFrontCommand : Obligations.StepRunsTheFrontCommand :=
  fun _ _ _ h => step_cons h

/-- One edge of CK_NET changes WCOUNT at most. -/
theorem tick_touches : tick.Touches [.wcount] (fun _ => False) (fun _ => False) :=
  touches_whenE (touches_upd ⟨by simp [Upd.parts], trivial⟩)

/-- Settles O2: the edge's effect touches WCOUNT alone; that it counts while CLK.STATE is not 0 is the model's choice (log
entry 2). -/
theorem idleStepCountsOneEdge : Obligations.IdleStepCountsOneEdge := by
  intro s h
  refine ⟨_, step_idle h, tick_touches.only s (by simp) (.inr fun _ => id) (.inr fun _ => id), ?_⟩
  by_cases hc : s.held = false ∧ s.get fClkState 0 ≠ 0
  · simp [tick, hc]
  · rw [if_neg hc, tick, whenE_run, if_neg (by simpa using hc)]

theorem reset_rd (blk : Blk) (inst off : Nat) : State.reset.rd blk inst off = resetVal ⟨blk, inst, off⟩ := rfl

theorem reset_canon : State.reset.Canon :=
  ⟨fwf_nil _ _, fwf_nil _ _, fwf_nil _ _, fwf_nil _ _, fwf_nil _ _, fwf_nil _ _, fwf_nil _ _, fwf_nil _ _, fwf_nil _ _⟩

/-- Settles O3: every map of the reset state lists nothing, so every register reads its reset value; the values the spec does
not give are the model's (log entries 10, 11, 12). -/
theorem resetIsCanonical : Obligations.ResetIsCanonical := by
  refine ⟨reset_canon, rfl, by decide, rfl, fun h => ?_, fun a => ?_, reset_rd⟩
  · have hrd : State.reset.rd .host (256 + h) 0x100 = 0 := by simp [reset_rd, resetVal]
    simp [State.linkUp, State.on, State.get, fLinkUp, hrd, getBits]
  · simp [State.storeByte, State.reset, storeFillByte]

/-- Settles O4: a step runs an effect, and every update of an effect keeps every map canonical. -/
theorem everyStepKeepsTheCanonicalForm : Obligations.EveryStepKeepsTheCanonicalForm := by
  intro s t hcanon hstep
  cases hpend : s.pending with
  | nil =>
    rw [step_idle hpend] at hstep
    cases hstep
    exact hcanon.run tick
  | cons c cs =>
    rw [step_cons hpend] at hstep
    obtain ⟨e, rfl⟩ := exec_next hstep
    have hrest : State.Canon { s with pending := cs } := hcanon
    exact hrest.run e

/-- Refutes O5: RESET_N_RELEASE with the board's conditions unmet stops only while RESET_N is asserted. On the state after
reset RESET_N is already released, and the command completes and changes nothing (log entry 1). -/
theorem not_onlyUndefinedBehaviourStops : ¬ Obligations.OnlyUndefinedBehaviourStops := by
  rintro ⟨-, -, hstops⟩
  have hnext : exec (.resetNRelease 0 false false) State.reset = .next State.reset := rfl
  have hfault := hstops State.reset 0 false
  rw [hnext] at hfault
  cases hfault

end Sys2Proof.Machine
end

section
/-! SUPPORT. What an accepted register write leaves, event bits and errors read back; and the writes that reach no register:
those their writer cannot reach, and those of another saggar's page. -/

namespace Sys2Proof.Machine

variable {s : State} {ps : List Component} {R : RK → Prop} {A : Aux → Prop}

/-! ## Fields -/

theorem on_eq_false_iff {f : Fld} {i : Nat} : s.on f i = false ↔ s.get f i = 0 := by simp [State.on]

theorem on_eq_true_iff {f : Fld} {i : Nat} : s.on f i = true ↔ s.get f i ≠ 0 := by simp [State.on]

theorem on_congr {t : State} {f g : Fld} {i j : Nat} (h : t.get g j = s.get f i) : t.on g j = s.on f i := by
  simp only [State.on, h]

theorem Eff.Touches.on {e : Eff} (h : e.Touches ps R A) (s : State) {f : Fld} {i : Nat} (hk : ¬ R ⟨f.blk, i, f.off⟩) :
    (e.run s).on f i = s.on f i := by
  simp only [State.on, h.get s hk]

theorem get_lt (s : State) (f : Fld) (i : Nat) : s.get f i < 2 ^ f.w := Nat.mod_lt _ (Nat.two_pow_pos _)

/-- A register after a field of it, or of another, is written. -/
theorem rd_setF (s : State) (f : Fld) (i x : Nat) (b : Blk) (j o : Nat) : ((setF f i x).run s).rd b j o =
    if b = f.blk ∧ j = i ∧ o = f.off then setBits (s.rd f.blk i f.off) f.lo f.w x else s.rd b j o := by
  simp

theorem get_setF_off_ne {f g : Fld} {i j x : Nat} (h : g.off ≠ f.off) : ((setF f i x).run s).get g j = s.get g j := by
  simp only [State.get, rd_setF]
  rw [if_neg fun hk => h hk.2.2]

theorem get_setF_inst_ne {f g : Fld} {i j x : Nat} (h : j ≠ i) : ((setF f i x).run s).get g j = s.get g j := by
  simp only [State.get, rd_setF]
  rw [if_neg fun hk => h hk.2.1]

theorem get_setReg_ne {blk : Blk} {i o : Nat} {v : W64} {g : Fld} {j : Nat} (h : ¬ (g.blk = blk ∧ j = i ∧ g.off = o)) :
    ((setReg blk i o v).run s).get g j = s.get g j := by
  simp only [State.get, setReg_run, State.rd_apply1, RK.mk.injEq]
  rw [if_neg h]

theorem setAx_get (k : Aux) (x : Nat) (g : Fld) (j : Nat) : ((setAx k x).run s).get g j = s.get g j := by
  simp only [State.get, setAx_run, State.rd_apply1]

/-- A field after an update of a register. -/
theorem get_apply1_reg (s : State) (f : Fld) (i : Nat) (k : RK) (v : W64) :
    (s.apply1 (.reg k v)).get f i = if (⟨f.blk, i, f.off⟩ : RK) = k then getBits v f.lo f.w else s.get f i := by
  simp only [State.get, State.rd_apply1]
  split <;> rfl

theorem on_setF_same {f : Fld} {i x : Nat} (h : f.lo + f.w ≤ 64) :
    ((setF f i x).run s).on f i = decide (x % 2 ^ f.w ≠ 0) := by
  simp only [State.on, get_setF_same h]

/-- A counter that gains n, held at its largest value. -/
theorem get_addSat_same {f : Fld} {i n : Nat} (h : f.lo + f.w ≤ 64) :
    ((addSat f i n).run s).get f i = min (s.get f i + n) (2 ^ f.w - 1) := by
  rw [addSat_run, get_setF_same h, Nat.mod_eq_of_lt]
  have := Nat.two_pow_pos f.w
  omega

/-- A field of a word given as a number. -/
theorem getBits_ofNat_of_lt {n lo w : Nat} (h : n < 2 ^ 64) : getBits (BitVec.ofNat 64 n) lo w = n / 2 ^ lo % 2 ^ w := by
  rw [getBits, BitVec.toNat_ofNat, Nat.mod_eq_of_lt h, Nat.shiftRight_eq_div_pow]

/-- The word of a register decides its fields. -/
theorem get_of_rd {f : Fld} {i : Nat} {v : W64} (h : s.rd f.blk i f.off = v) : s.get f i = getBits v f.lo f.w := by
  rw [State.get, h]

/-! ## Runs and touches at a state -/

/-- What an effect does at a state decides its run there. -/
theorem run_congr {e f : Eff} {s : State} (h : e s = f s) : e.run s = f.run s := congrArg s.applyAll h

/-- A sequence of effects at the state it finds. -/
theorem within_doAll {es : List Eff} {s : State} (h : (doAll es).Touches ps R A) : ∀ u ∈ doAll es s, u.Within ps R A := h s

theorem within_nil : ∀ u ∈ ([] : List Upd), u.Within ps R A := fun _ h => by simp at h

/-! ## Event bits and errors -/

/-- A bit of EVT_STATUS that is clear is set, whatever its enable says. -/
theorem setEvtI_rd {blk : Blk} {i bit info : Nat} (h : s.on (fEvt blk bit) i = false) (b : Blk) (j o : Nat) :
    ((setEvtI blk i bit info).run s).rd b j o = ((setF (fEvt blk bit) i 1).run s).rd b j o := by
  have hrun : (setEvtI blk i bit info).run s = ((setF (fEvt blk bit) i 1).run s).applyAll
      (if s.on (fEvtEn blk bit) i then [.hi fun h => { h with evq := h.evq ++ [s.mkEvent blk i bit info] }] else []) := by
    simp [Eff.run, setEvtI, h]
  rw [hrun]
  split <;> simp

theorem setEvtI_run_of_set {blk : Blk} {i bit info : Nat} (h : s.on (fEvt blk bit) i = true) :
    (setEvtI blk i bit info).run s = s := by
  simp [Eff.run, setEvtI, h]

theorem setEvtI_on {blk : Blk} {i bit info : Nat} (h : bit < 64) :
    ((setEvtI blk i bit info).run s).on (fEvt blk bit) i = true := by
  cases hs : s.on (fEvt blk bit) i with
  | true => rw [setEvtI_run_of_set hs, hs]
  | false =>
    have hset := on_setF_same (s := s) (f := fEvt blk bit) (i := i) (x := 1) (by simp [fEvt]; omega)
    simp only [State.on, State.get, setEvtI_rd hs] at hset ⊢
    simpa [fEvt] using hset

theorem setEvt_on {blk : Blk} {i bit : Nat} (h : bit < 64) : ((setEvt blk i bit).run s).on (fEvt blk bit) i = true :=
  setEvtI_on h

theorem setEvtI_on_ne {blk : Blk} {i bit info bit' : Nat} (h : bit' ≠ bit) (h' : bit' < 64) :
    ((setEvtI blk i bit info).run s).on (fEvt blk bit') i = s.on (fEvt blk bit') i := by
  cases hs : s.on (fEvt blk bit) i with
  | true => rw [setEvtI_run_of_set hs]
  | false =>
    have hkeep := get_setF_ne (s := s) (f := fEvt blk bit) (g := fEvt blk bit') (i := i) (j := i) (x := 1)
      (by simp [fEvt]; omega) (by simp [fEvt]; omega)
    refine on_congr (Eq.trans ?_ hkeep)
    simp only [State.get, setEvtI_rd hs]

/-- An error recorded under a code where ERR was clear. -/
theorem recordErr_err {blk : Blk} {i code info : Nat} (hc : code < 256) (h : s.get (fErrCode blk) i = 0) :
    ((recordErr blk i code info).run s).get (fErrCode blk) i = code ∧
      ((recordErr blk i code info).run s).get (fErrInfo blk) i = info % 2 ^ 32 := by
  have := recordErr_get_of_clear (code := code) (info := info) h
  rwa [Nat.mod_eq_of_lt (show code < 2 ^ 8 from hc)] at this

theorem recordErrFree_err {blk : Blk} {i code : Nat} (hc : code < 256) (h : s.get (fErrCode blk) i = 0) :
    ((recordErrFree blk i code).run s).get (fErrCode blk) i = code := by
  rw [recordErrFree, drawFree_run]
  exact (recordErr_err (s := s.apply1 .free) hc (by simpa [State.get] using h)).1

/-! ## An accepted write -/

/-- What an accepted write leaves when its register's effect leaves the number and SEQ alone. -/
theorem write_frame {blk : Blk} {key : Nat} {e : Eff} (he : e.Touches ps R A) (qs : List Component)
    (named : Blk → Nat → Nat → Prop) (hp : ∀ p ∈ ps, p ∈ qs) (hseq : Component.seq ∉ ps) (hs : Component.seq ∈ qs)
    (hr : Component.regs ∈ qs) (ha : Component.aux ∈ qs ∨ ∀ k, ¬ A k) (hk : ¬ R ⟨blk, key, offSeq⟩)
    (hn : ∀ b i o, R ⟨b, i, o⟩ → named b i o) (hq : named blk key offSeq) :
    TookNumber s blk key (e.run (s.numbered blk key)) ∧ OnlyParts qs s (e.run (s.numbered blk key)) ∧
      RegsKeptBut named s (e.run (s.numbered blk key)) :=
  ⟨tookNumber he hseq hk, (numbered_only hr hs).trans (he.only _ hp (.inl hr) ha),
    (numbered_kept hq).trans (he.regsKept _ _ hn)⟩

/-- A write that loads one register of its page. -/
theorem load_frame {blk : Blk} {key off : Nat} (v : State → W64) (h : off ≠ offSeq) :
    let t := Eff.run (fun s => [.reg ⟨blk, key, off⟩ (v s)]) (s.numbered blk key)
    TookNumber s blk key t ∧ t.rd blk key off = v (s.numbered blk key) ∧ OnlyParts [.regs, .seq] s t ∧
      RegsKeptBut (fun b i o => b = blk ∧ i = key ∧ (o = off ∨ o = offSeq)) s t := by
  have he : Eff.Touches [] (fun k => k = ⟨blk, key, off⟩) (fun _ => False) (fun s => [.reg ⟨blk, key, off⟩ (v s)]) :=
    fun s u hu => by simp only [List.mem_singleton] at hu; subst hu; exact ⟨by simp [Upd.parts], rfl⟩
  obtain ⟨hnum, honly, hkept⟩ := write_frame (s := s) he [.regs, .seq]
    (fun b i o => b = blk ∧ i = key ∧ (o = off ∨ o = offSeq)) (by simp) (by simp) (by simp) (by simp) (by simp)
    (by simpa using h.symm) (by rintro b i o ⟨⟩; exact ⟨rfl, rfl, .inl rfl⟩) ⟨rfl, rfl, .inr rfl⟩
  exact ⟨hnum, by simp [Eff.run_eq], honly, hkept⟩

/-! ## Writes that reach no register -/

/-- An effect that does what the arbiter does with a write of a page its writer cannot reach, or does not own. -/
def Eff.WritesAt (src : Src) (blk : Blk) (inst : Nat) (e : Eff) : Prop :=
  ∀ s : State, (s.writeAccess src blk inst = .ignored → e s = []) ∧
    ∀ b i info pres own wher, s.writeAccess src blk inst = .denied b i info pres own wher →
      e s = doAll [recordErr b i eSAGGAR info, deny 2 pres own true wher] s

variable {src : Src} {blk : Blk} {inst : Nat}

theorem regWrite_writesAt (off width : Nat) (check : Bool → State → Option WErr) (act : Bool → Eff) :
    (regWrite src blk inst off width check act).WritesAt src blk inst := fun s => by
  refine ⟨fun h => ?_, fun b i info pres own wher h => ?_⟩ <;> simp only [regWrite, h]

theorem rootOnly_writesAt {e : Eff} (he : e.WritesAt src blk inst) : (rootOnly src blk inst e).WritesAt src blk inst :=
  fun s => by
    refine ⟨fun h => ?_, fun b i info pres own wher h => ?_⟩ <;> simp only [rootOnly, h]
    · simpa using (he s).1 h
    · simpa using (he s).2 _ _ _ _ _ _ h

theorem waferWrite_writesAt (i : Instr) (off : Nat) (check : State → Option WErr) (act : Eff) :
    (waferWrite src i blk inst off check act).WritesAt src blk inst :=
  rootOnly_writesAt fun s => by
    refine ⟨fun h => ?_, fun b j info pres own wher h => ?_⟩ <;> simp only [h]
    · simpa using (regWrite_writesAt off 8 (fun _ => check) (fun _ => act) s).1 h
    · simpa using (regWrite_writesAt off 8 (fun _ => check) (fun _ => act) s).2 _ _ _ _ _ _ h

theorem effKilnSaggar_writesAt (k : Nat) (v : W64) : (effKilnSaggar src k v).WritesAt src .kiln k :=
  waferWrite_writesAt _ _ _ _

theorem effSaggarReg_writesAt (v : W64) : (effSaggarReg src blk inst v).WritesAt src blk inst := by
  unfold effSaggarReg
  split
  next h => subst h; exact effKilnSaggar_writesAt _ _
  next => exact rootOnly_writesAt (regWrite_writesAt _ _ _ _)

/-- A SAGGAR denial at a host semaphore follows a write that reaches its page only. -/
theorem effSemSignal_writesAt {f : Nat} (hf : f < 64) (v : W64) : (effSemSignal src f v).WritesAt src .sem f := fun s => by
  have hreg := regWrite_writesAt (src := src) (blk := .sem) (inst := f) 0x100 8 (fun root s => s.semErr src root v)
    (fun _ s => semAdd (s.phys (getBits v 0 16)) (getBits v 16 6) (getBits v 24 8) s) s
  refine ⟨fun h => ?_, fun b i info pres own wher h => ?_⟩ <;>
    simp only [effSemSignal, h, Nat.not_le.2 hf, if_false, doAll, Eff.seq, whenE, skip]
  · simp [hreg.1 h]
  · rw [hreg.2 _ _ _ _ _ _ h]
    simp [doAll, Eff.seq, skip]

theorem writesAt_of_ge {e : Eff} {c : Prop} [Decidable c] (h : ¬ c) (he : e.WritesAt src blk inst) :
    Eff.WritesAt src blk inst (if c then skip else e) := by rwa [if_neg h]

theorem effRingEnable_writesAt {f n : Nat} (hf : f < 64) (hn : n < 4) (v : W64) :
    (effRingEnable src f n v).WritesAt src .host f := writesAt_of_ge (by omega) (regWrite_writesAt _ _ _ _)

theorem effDoorbell_writesAt {f n : Nat} (hf : f < 64) (hn : n < 4) (v : W64) :
    (effDoorbell src f n v).WritesAt src .host f := writesAt_of_ge (by omega) (regWrite_writesAt _ _ _ _)

theorem effEvtCfg_writesAt {f : Nat} (hf : f < 64) (v : W64) : (effEvtCfg src f v).WritesAt src .host f :=
  writesAt_of_ge (by omega) (regWrite_writesAt _ _ _ _)

theorem effMbxAck_writesAt {f m : Nat} (hf : f < 64) (hm : m < 64) (v : W64) :
    (effMbxAck src f m v).WritesAt src .host (64 + f) := writesAt_of_ge (by omega) (regWrite_writesAt _ _ _ _)

theorem effHsemTake_writesAt {f i : Nat} (hf : f < 64) (hi : i < 64) (v : W64) :
    (effHsemTake src f i v).WritesAt src .sem f := writesAt_of_ge (by omega) (regWrite_writesAt _ _ _ _)

theorem effRimDoorbell_writesAt {c : Nat} (hc : c < 32) (v : W64) : (effRimDoorbell src c v).WritesAt src .rim c :=
  writesAt_of_ge (by omega) (regWrite_writesAt _ _ _ _)

theorem effMsipWrite_writesAt {c : Nat} (hc : c < 32) (en : Bool) (v : W64) :
    (effMsipWrite src c en v).WritesAt src .rim c := writesAt_of_ge (by omega) (regWrite_writesAt _ _ _ _)

theorem effJobOwner_writesAt {j : Nat} (hj : j < 256) (v : W64) : (effJobOwner src j v).WritesAt src .saggar 0 :=
  writesAt_of_ge (by omega) (waferWrite_writesAt _ _ _ _)

theorem effWindowCommit_writesAt (v : W64) : (effWindowCommit src v).WritesAt src .saggar 0 := waferWrite_writesAt _ _ _ _

theorem effLinkCtrl_writesAt (q : Nat) (v : W64) : (effLinkCtrl src q v).WritesAt src (lkBlk q) (lkInst q) :=
  regWrite_writesAt _ _ _ _

theorem effLinkCtrl_fab_writesAt {q : Nat} (hq : q < 16) (v : W64) : (effLinkCtrl src q v).WritesAt src .fab q := by
  have := effLinkCtrl_writesAt (src := src) q v
  rwa [show lkBlk q = .fab from if_pos hq, show lkInst q = q from if_pos hq] at this

theorem effLinkCtrl_blink_writesAt (q : Nat) (v : W64) : (effLinkCtrl src (16 + q) v).WritesAt src .blink q := by
  have := effLinkCtrl_writesAt (src := src) (16 + q) v
  rwa [show lkBlk (16 + q) = .blink from if_neg (by omega),
    show lkInst (16 + q) = q from (if_neg (by omega)).trans (by omega)] at this

/-- A register with a command of its own is written at its page. -/
theorem ownEff_writesAt {off : Nat} {v : W64} {e : Eff} (hl : pageListed blk inst = true)
    (h : ownEff src blk inst off v = some e) : e.WritesAt src blk inst := by
  cases blk <;> simp only [ownEff, reduceCtorEq] at h
  case mgmt =>
    split_ifs at h with h0 h1 <;> cases h
    · exact h0.1 ▸ regWrite_writesAt _ _ _ _
    · exact h1.1 ▸ regWrite_writesAt _ _ _ _
  case tele =>
    split_ifs at h
    cases h
    exact (of_decide_eq_true hl : inst = 0) ▸ regWrite_writesAt _ _ _ _
  case crack =>
    obtain rfl : inst = 0 := of_decide_eq_true hl
    split_ifs at h <;> cases h <;> exact regWrite_writesAt _ _ _ _
  case saggar =>
    obtain rfl : inst = 0 := of_decide_eq_true hl
    split_ifs at h <;> cases h
    · exact effWindowCommit_writesAt v
    · exact effJobOwner_writesAt (by omega) v
  case fab =>
    split_ifs at h
    cases h
    exact effLinkCtrl_fab_writesAt (of_decide_eq_true hl) v
  case blink =>
    split_ifs at h
    cases h
    exact effLinkCtrl_blink_writesAt inst v
  case host =>
    split_ifs at h with hf h0 <;> cases h
    · exact h0.1 ▸ regWrite_writesAt _ _ _ _
    · exact effEvtCfg_writesAt hf v
    · exact effRingEnable_writesAt hf (by omega) v
    · exact effDoorbell_writesAt hf (by omega) v
    · have := effMbxAck_writesAt (src := src) (f := inst - 64) (m := (off - 256) / 32) (by omega) (by omega) v
      rwa [show 64 + (inst - 64) = inst by omega] at this
  case rim =>
    split_ifs at h with hc <;> cases h
    · exact effMsipWrite_writesAt (by omega) true v
    · exact effRimDoorbell_writesAt (by omega) v
    · exact effMsipWrite_writesAt (by omega) false v
  case sem =>
    split_ifs at h <;> cases h
    · exact effSemSignal_writesAt (of_decide_eq_true hl) v
    · exact effHsemTake_writesAt (of_decide_eq_true hl) (by omega) v
  all_goals split_ifs at h <;> cases h <;> exact regWrite_writesAt _ _ _ _

theorem regWriteAny_writesAt {off : Nat} (ho : off < 0x1000) (width : Nat) (v : W64) :
    (regWriteAny src blk inst off width v).WritesAt src blk inst := by
  have hplain : (plainWrite src blk inst off width v).WritesAt src blk inst := regWrite_writesAt _ _ _ _
  rw [regWriteAny, if_neg (by omega)]
  split_ifs with hw hs
  · exact hplain
  · exact effSaggarReg_writesAt v
  · cases hown : ownEff src blk inst off v with
    | none => exact hplain
    | some e => exact ownEff_writesAt (by simp at hw; exact hw.2.2) hown

/-- A command that writes one register of a page does with a page its writer cannot reach, or does not own, what the arbiter
does. -/
theorem exec_writesAt {c : Instr} (h : writesPage c = some (src, blk, inst)) (ht : s.inTurnFor src) :
    ∃ e : Eff, e.WritesAt src blk inst ∧ exec c s = .next (e.run s) := by
  suffices hin : ∃ e : Eff, e.WritesAt src blk inst ∧ exec c s = .next ((inTurn src c e).run s) by
    obtain ⟨e, he, hc⟩ := hin
    exact ⟨e, he, by rw [hc, inTurn_run ht]⟩
  cases c <;> simp only [writesPage, reduceCtorEq] at h
  case registerWrite => split at h <;> cases h; exact ⟨_, regWriteAny_writesAt ‹_› _ _, rfl⟩
  case saggarRegisterWrite => cases h; exact ⟨_, effSaggarReg_writesAt _, rfl⟩
  case evtRingEnable => split at h <;> cases h; exact ⟨_, effEvtCfg_writesAt ‹_› _, rfl⟩
  case ringEnable => split at h <;> cases h; next hr => exact ⟨_, effRingEnable_writesAt hr.1 hr.2 _, rfl⟩
  case doorbell => split at h <;> cases h; next hr => exact ⟨_, effDoorbell_writesAt hr.1 hr.2 _, rfl⟩
  case mbxAck => split at h <;> cases h; next hr => exact ⟨_, effMbxAck_writesAt hr.1 hr.2 _, rfl⟩
  case semSignal => split at h <;> cases h; exact ⟨_, effSemSignal_writesAt ‹_› _, rfl⟩
  case hsemTake => split at h <;> cases h; next hr => exact ⟨_, effHsemTake_writesAt hr.1 hr.2 _, rfl⟩
  case rimDoorbell => split at h <;> cases h; exact ⟨_, effRimDoorbell_writesAt ‹_› _, rfl⟩
  case msipWrite => split at h <;> cases h; exact ⟨_, effMsipWrite_writesAt ‹_› _ _, rfl⟩
  case qcfgWrite => split at h <;> cases h; exact ⟨_, regWrite_writesAt _ _ _ _, rfl⟩
  case slipMapWrite => split at h <;> cases h; exact ⟨_, regWrite_writesAt _ _ _ _, rfl⟩
  case linkEnable => cases h; exact ⟨_, effLinkCtrl_writesAt _ _, rfl⟩
  case linkDisable => cases h; exact ⟨_, effLinkCtrl_writesAt _ _, rfl⟩
  case storeWindowCommit => cases h; exact ⟨_, effWindowCommit_writesAt _, rfl⟩
  case jobOwnerWrite => split at h <;> cases h; exact ⟨_, effJobOwner_writesAt ‹_› _, rfl⟩
  case kilnSaggarWrite => cases h; exact ⟨_, effKilnSaggar_writesAt _ _, rfl⟩
  all_goals cases h; exact ⟨_, regWrite_writesAt _ _ _ _, rfl⟩

end Sys2Proof.Machine
end

section
/-! PROOFS. Register writes (chapter 02): what a write of a plain or header register leaves (R36, R37, R46), the writes that
have no effect (R34, R40, R44, R66), denials (R45, R70, R429), and the SAGGAR register (R37). -/

namespace Sys2Proof.Machine

variable {s : State} {src : Src} {blk : Blk} {inst off : Nat} {v : W64} {root : Bool}

/-! ## Writes by access code -/

/-- A write of a page's register that has no command of its own is a write by the register's rule. -/
theorem regWriteAny_plain (ho : off < 0x1000) (h8 : off % 8 = 0) (hs : off ≠ offSaggar) (hl : pageListed blk inst = true)
    (hown : ownEff src blk inst off v = none) :
    regWriteAny src blk inst off 8 v = plainWrite src blk inst off 8 v := by
  simp [regWriteAny, Nat.not_le.2 ho, h8, hs, hl, hown]

/-- An accepted write of a register whose rule refuses nothing has the rule's effect. -/
theorem execRegisterWrite_rule (hl : s.lets src blk inst root) (ho : off < 0x1000) (h8 : off % 8 = 0)
    (hs : off ≠ offSaggar) (hown : ownEff src blk inst off v = none) {act : Eff}
    (hrule : ∀ t : State, t.key blk inst = s.key blk inst → regRule t blk inst off 8 v = ⟨none, act⟩) :
    exec (.registerWrite src blk inst off 8 v) s = .next (act.run (s.numbered blk (s.key blk inst))) := by
  have hact : (Eff.run (fun s => (regRule s blk inst off 8 v).act s) (s.numbered blk (s.key blk inst))) =
      act.run (s.numbered blk (s.key blk inst)) := by
    simp only [Eff.run, hrule _ (show (s.numbered blk (s.key blk inst)).key blk inst = s.key blk inst from rfl)]
  rw [← hact, ← write_accepted hl h8 (check := fun _ s => (regRule s blk inst off 8 v).err)
    (act := fun _ s => (regRule s blk inst off 8 v).act s) (i := .registerWrite src blk inst off 8 v)
    (by simp only [hrule s rfl])]
  show Host.Outcome.next _ = _
  rw [regWriteAny_plain ho h8 hs (lets_listed hl) hown, plainWrite]

/-- The header registers a page's command does not take. -/
theorem ownEff_header (ho : off < 0x100) (h10 : off ≠ 0x010) : ownEff src blk inst off v = none := by
  cases blk <;> simp only [ownEff] <;> split_ifs <;> first | rfl | omega

theorem msixRange_header (ho : off < 0x100) : msixRange blk inst off = false := by
  simp only [msixRange, Bool.and_eq_false_iff, decide_eq_false_iff_not]
  omega

theorem regRule_header (t : State) (ho : off < 0x100) :
    regRule t blk inst off 8 v = headerRule blk inst (t.key blk inst) off v := by
  simp [regRule, msixRange_header ho, ho]

theorem regRule_plain (t : State) (ho : 0x100 ≤ off) (hx : msixRange blk inst off = false)
    (hm : plainMask blk inst off ≠ 0) :
    regRule t blk inst off 8 v = ⟨none, keepW blk (t.key blk inst) off (plainMask blk inst off) v⟩ := by
  unfold regRule
  rw [if_neg (by simp [hx]), if_neg (by omega), if_pos hm]

/-- EVT_ENABLE written: the word, and the events of the bits that rise over a set status bit (R36). -/
theorem writeEvtEnable_touches (blk : Blk) (key : Nat) (v : W64) :
    (writeEvtEnable blk key v).Touches [.hi] (fun k => k = ⟨blk, key, offEvtEnable⟩) (fun _ => False) := fun s u hu => by
  simp only [writeEvtEnable, List.mem_cons, List.not_mem_nil, or_false] at hu
  rcases hu with rfl | rfl <;> simp [Upd.Within, Upd.parts]

theorem mkEvent_bit (t : State) (blk : Blk) (i bit info : Nat) : (t.mkEvent blk i bit info).bit = bit := by
  simp only [State.mkEvent]
  split
  next h => exact h.symm
  next => rfl

theorem writeEvtEnable_evq (s : State) (blk : Blk) (key : Nat) (v : W64) :
    ∃ new, ((writeEvtEnable blk key v).run s).hi.evq = s.hi.evq ++ new ∧ new.map (fun e => e.bit) =
      (List.range 64).filter fun b => getBits v b 1 = 1 && !s.on (fEvtEn blk b) key && s.on (fEvt blk b) key :=
  ⟨(bits64.filter fun b => getBits v b 1 = 1 && !s.on (fEvtEn blk b) key && s.on (fEvt blk b) key).map
      fun b => s.mkEvent blk key b 0, by simp [writeEvtEnable, Eff.run], by simp [mkEvent_bit, Function.comp_def, bits64]⟩

theorem numbered_on {b : Blk} {k : Nat} {f : Fld} {i : Nat} (h : f.off ≠ offSeq) : (s.numbered b k).on f i = s.on f i :=
  on_congr (numbered_get h)

/-- Settles O8. -/
theorem registerWritesByAccessCode : Obligations.RegisterWritesByAccessCode := by
  refine ⟨?_, ?_, ?_, ?_⟩
  · intro s src blk inst off v root hl h8 ho ho' hown hx hm
    have hseq : off ≠ offSeq := by simp only [offSeq]; omega
    have hsag : off ≠ offSaggar := by simp only [offSaggar]; omega
    refine ⟨_, execRegisterWrite_rule hl ho' h8 hsag (Option.isNone_iff_eq_none.1 hown)
      (fun t hk => (regRule_plain t ho hx hm).trans (by rw [hk])), ?_⟩
    obtain ⟨hnum, hrd, honly, hkept⟩ := load_frame (s := s) (blk := blk) (key := s.key blk inst) (off := off)
      (fun s' => (s'.rd blk (s.key blk inst) off &&& ~~~plainMask blk inst off) ||| (v &&& plainMask blk inst off)) hseq
    exact ⟨hnum, hrd.trans (by simp [hseq]), honly, hkept⟩
  · intro s src blk inst v root hl
    refine ⟨_, execRegisterWrite_rule hl (by decide) (by decide) (by decide) (ownEff_header (by decide) (by decide))
      (fun t hk => (regRule_header t (by decide)).trans (by rw [hk]; rfl)), ?_⟩
    obtain ⟨hnum, hrd, honly, hkept⟩ := load_frame (s := s) (blk := blk) (key := s.key blk inst) (off := offEvtStatus)
      (fun s' => s'.rd blk (s.key blk inst) offEvtStatus &&& ~~~(v &&& BitVec.allOnes 64)) (by decide)
    exact ⟨hnum, hrd.trans (by rw [BitVec.and_allOnes, numbered_rd, if_neg (by simp [offEvtStatus, offSeq])]), honly, hkept⟩
  · intro s src blk inst root hl
    have hrun : exec (.errClear src blk inst) s = .next ((setReg blk (s.key blk inst) offErr 0).run
        (s.numbered blk (s.key blk inst))) := by
      show Host.Outcome.next _ = _
      rw [effErrClear, plainWrite, write_accepted hl (by decide) (by rw [regRule_header _ (by decide)]; rfl)]
      congr 1
      simp only [Eff.run, regRule_header _ (show offErrClear < 0x100 by decide)]
      rfl
    refine ⟨_, hrun, ?_⟩
    exact load_frame (s := s) (blk := blk) (key := s.key blk inst) (off := offErr) (fun _ => 0) (by decide)
  · intro s src blk inst v root hl
    refine ⟨_, execRegisterWrite_rule hl (by decide) (by decide) (by decide) (ownEff_header (by decide) (by decide))
      (fun t hk => (regRule_header t (by decide)).trans (by rw [hk]; rfl)), ?_⟩
    obtain ⟨hnum, honly, -⟩ := write_frame (s := s) (writeEvtEnable_touches blk (s.key blk inst)
      (v &&& (evtMask blk inst ||| 0x8000000000000000))) [.regs, .seq, .hi] (fun _ _ _ => True) (by simp) (by simp)
      (by simp) (by simp) (by simp) (by simp [offEvtEnable, offSeq]) (fun _ _ _ _ => trivial) trivial
    refine ⟨hnum, by simp [writeEvtEnable, Eff.run], ?_, honly⟩
    have hevq := writeEvtEnable_evq (s.numbered blk (s.key blk inst)) blk (s.key blk inst)
      (v &&& (evtMask blk inst ||| 0x8000000000000000))
    have hen : ∀ b, (fEvtEn blk b).off ≠ offSeq := fun _ => by simp [fEvtEn, offEvtEnable, offSeq]
    have hst : ∀ b, (fEvt blk b).off ≠ offSeq := fun _ => by simp [fEvt, offEvtStatus, offSeq]
    simp only [numbered_on (hen _), numbered_on (hst _)] at hevq
    exact hevq

/-! ## Writes without effect -/

/-- A write that is not 64 bits wide and aligned meets the arbiter's own check. -/
theorem regWrite_misaligned {width : Nat} {check : Bool → State → Option WErr} {act : Bool → Eff}
    (h : s.writeAccess src blk inst = .ok root) (hp : s.present blk inst = true) (hx : msixRange blk inst off = false)
    (hw : width ≠ 8 ∨ off % 8 ≠ 0) :
    (regWrite src blk inst off width check act).run s = (recordErrFree blk (s.key blk inst) eARG).run s := by
  simp [regWrite, Eff.run, h, hp, hx, hw]

theorem regWriteAny_misaligned {width : Nat} (ho : off < 0x1000) (hw : width ≠ 8 ∨ off % 8 ≠ 0) :
    regWriteAny src blk inst off width v = plainWrite src blk inst off width v := by
  rw [regWriteAny, if_neg (by omega), if_pos]
  exact hw.elim .inl fun h => .inr (.inl h)

theorem regWriteAny_no_own {width : Nat} (ho : off < 0x1000) (hs : off ≠ offSaggar)
    (hown : (ownEff src blk inst off v).isNone) : regWriteAny src blk inst off width v = plainWrite src blk inst off width v := by
  rw [regWriteAny, if_neg (by omega), if_neg hs, Option.isNone_iff_eq_none.1 hown]
  split <;> rfl

/-- Settles O9: a page its writer cannot reach is settled by the arbiter before the register is looked at; that an absent page's
write takes a number is log entry 9, the free INFO of a misaligned write log entry 8. -/
theorem writesWithoutEffect : Obligations.WritesWithoutEffect := by
  refine ⟨?_, ?_, ?_⟩
  · intro c s src blk inst hc ht ha
    obtain ⟨e, he, hrun⟩ := exec_writesAt hc ht
    rw [hrun, Eff.run, (he s).1 ha, State.applyAll_nil]
  · intro s src blk inst off width v root ht hr ho hs ha hp hown
    refine ⟨_, rfl, ?_⟩
    rw [inTurn_run ht, regWriteAny_no_own ho hs hown, plainWrite, regWrite_absent ha hp hr]
    have htouch : Eff.Touches [.seq] (fun _ => False) (fun _ => False) (fun _ => [Upd.seq]) :=
      touches_upd ⟨by simp [Upd.parts], trivial⟩
    exact ⟨rfl, htouch.only s (by simp) (.inr fun _ => id) (.inr fun _ => id)⟩
  · intro s src blk inst off width v root ht hr ho ha hp hx hw
    refine ⟨_, rfl, ?_⟩
    rw [inTurn_run ht, regWriteAny_misaligned ho hw, plainWrite, regWrite_misaligned ha hp hx hw]
    have htouch : (recordErrFree blk (s.key blk inst) eARG).Touches [.hi, .free]
        (fun k => k.blk = blk ∧ k.inst = s.key blk inst ∧ (k.off = offErr ∨ k.off = offEvtStatus)) (fun _ => False) := by simp
    exact ⟨htouch.only s (by simp) (.inl (by simp)) (.inr fun _ => id), fun h => recordErrFree_err (by decide) h,
      htouch.regsKept s _ fun _ _ _ h => h⟩

/-! ## Denials -/

/-- A denial is counted, and is the first recorded if DENY_FIRST is free (R429). -/
theorem deny_count (point pres own wher : Nat) (owned : Bool) :
    ((deny point pres own owned wher).run s).get fDenyCount 0 = min (s.get fDenyCount 0 + 1) (2 ^ 48 - 1) := by
  have hrest : (whenE (fun s => !s.on fDenyValid 0) (doAll [setReg .saggar 0 0x130 (denyWord point pres own owned wher),
      setEvt .saggar 0 1])).Touches [.hi] (fun k => k.off = 0x130 ∨ k.off = offEvtStatus) (fun _ => False) := by
    simp (maxDischargeDepth := 20)
  rw [deny, doAll_cons_run, doAll_cons_run, doAll_nil_run, hrest.get _ (by simp [fDenyCount, offEvtStatus]),
    get_addSat_same (by decide)]
  rfl

theorem deny_first {point pres own wher : Nat} {owned : Bool} (h : s.on fDenyValid 0 = false) :
    ((deny point pres own owned wher).run s).rd .saggar 0 0x130 = denyWord point pres own owned wher := by
  have hcount : (addSat fDenyCount 0 1).Touches [] (fun k => k.off = 0x128) (fun _ => False) := touches_addSat rfl
  have hevt : (setEvt .saggar 0 1).Touches [.hi] (fun k => k.off = offEvtStatus) (fun _ => False) := by simp
  rw [deny, doAll_cons_run, doAll_cons_run, doAll_nil_run, whenE_run,
    hcount.on s (f := fDenyValid) (by simp [fDenyValid]), h, Bool.not_false, if_pos rfl, doAll_cons_run, doAll_cons_run,
    doAll_nil_run, hevt.rd _ (by simp [offEvtStatus])]
  simp

theorem deny_touches (point pres own wher : Nat) (owned : Bool) : (deny point pres own owned wher).Touches [.hi]
    (fun k => k.blk = .saggar ∧ k.inst = 0 ∧ (k.off = 0x128 ∨ k.off = 0x130 ∨ k.off = offEvtStatus)) (fun _ => False) := by
  unfold deny
  simp (maxDischargeDepth := 20) [fDenyCount]

theorem recordErr_touches (blk : Blk) (i code info : Nat) : (recordErr blk i code info).Touches [.hi]
    (fun k => k.blk = blk ∧ k.inst = i ∧ (k.off = offErr ∨ k.off = offEvtStatus)) (fun _ => False) := by
  simp

/-- A denial names a function page or a RIM page as the writer's own. -/
theorem writeAccess_denied_blk {b : Blk} {i info pres own wher : Nat}
    (h : s.writeAccess src blk inst = .denied b i info pres own wher) : b = .host ∨ b = .rim := by
  unfold State.writeAccess at h
  cases src with
  | host f l => dsimp only at h; split_ifs at h; exact .inl (by cases h; rfl)
  | rim c => dsimp only at h; split_ifs at h; exact .inr (by cases h; rfl)
  | mgmt => dsimp only at h; split_ifs at h

/-- Settles O10. -/
theorem deniedWritesAreCountedAndRecorded : Obligations.DeniedWritesAreCountedAndRecorded := by
  intro c s src blk inst b i info pres own wher hc ht ha
  obtain ⟨e, he, hrun⟩ := exec_writesAt hc ht
  refine ⟨_, hrun, ?_⟩
  have hden : e.run s = (deny 2 pres own true wher).run ((recordErr b i eSAGGAR info).run s) := by
    rw [Eff.run, (he s).2 _ _ _ _ _ _ ha]
    exact (doAll_cons_run ..).trans (doAll_cons_run ..)
  have hb : b ≠ .saggar := by rcases writeAccess_denied_blk ha with rfl | rfl <;> decide
  have herr := recordErr_touches b i eSAGGAR info
  have hdeny := deny_touches 2 pres own wher true
  rw [hden]
  refine ⟨?_, fun hv => ?_, fun hclear => ?_, ?_, ?_⟩
  · rw [deny_count, herr.get _ fun h => hb h.1.symm]
  · exact deny_first (by rw [herr.on _ fun h => hb h.1.symm, hv])
  · rw [hdeny.get _ fun h => hb h.1, hdeny.get _ fun h => hb h.1]
    exact recordErr_err (by decide) hclear
  · exact (herr.only s (by simp) (.inl (by simp)) (.inr fun _ => id)).trans
      (hdeny.only _ (by simp) (.inl (by simp)) (.inr fun _ => id))
  · exact RegsKeptBut.trans (herr.regsKept s _ fun _ _ _ h => .inl h) (hdeny.regsKept _ _ fun _ _ _ h => .inr h)

/-! ## The SAGGAR register -/

/-- A writer without root authority reaches the page, and its write of a saggar entry is recorded in its own (R37). -/
theorem rootOnly_run_host {f l : Nat} {e : Eff} (ha : s.writeAccess (.host f l) blk inst = .ok false)
    (hp : s.present blk inst = true) : (rootOnly (.host f l) blk inst e).run s =
      (recordErr .host f eSAGGAR (blkCode blk * 0x10000 + inst)).run s := by
  simp [Eff.run, rootOnly, ha, hp]

theorem rootOnly_run_root {e : Eff} (ha : s.writeAccess src blk inst = .ok true) :
    (rootOnly src blk inst e).run s = e.run s := by
  simp [Eff.run, rootOnly, ha]

/-- Settles O11: KILN pages apart, whose SAGGAR is a wafer change. -/
theorem saggarRegisterIsRootOnly : Obligations.SaggarRegisterIsRootOnly := by
  refine ⟨?_, ?_⟩
  · intro s src blk inst v hl hk hroot
    obtain ⟨ht, ha, hp, hr, hst⟩ := id hl
    have hrun : exec (.saggarRegisterWrite src blk inst v) s = .next (Eff.run (fun s' => setReg blk (s'.key blk inst) offSaggar
        (v &&& 0x3F) s') (s.numbered blk (s.key blk inst))) := by
      show Host.Outcome.next _ = _
      rw [inTurn_run ht, effSaggarReg, if_neg hk, rootOnly_run_root ha,
        regWrite_accepted hl (by decide) (by simpa [errIf] using fun h => hroot h)]
    refine ⟨_, hrun, load_frame (s := s) (blk := blk) (key := s.key blk inst) (off := offSaggar) (fun _ => v &&& 0x3F)
      (by decide)⟩
  · intro s f l blk inst v hl hk
    obtain ⟨ht, ha, hp, -, -⟩ := hl
    refine ⟨_, rfl, ?_⟩
    rw [inTurn_run ht, effSaggarReg, if_neg hk, rootOnly_run_host ha hp]
    have htouch := recordErr_touches .host f eSAGGAR (blkCode blk * 0x10000 + inst)
    exact ⟨fun hclear => recordErr_err (by decide) hclear, htouch.only s (by simp) (.inl (by simp)) (.inr fun _ => id),
      htouch.regsKept s _ fun _ _ _ h => h⟩

end Sys2Proof.Machine
end

section
/-! PROOFS. Command rings (chapter 02): RING_CFG, doorbells, fetches and their failures (R49–R52). -/

namespace Sys2Proof.Machine

variable {s : State} {src : Src} {f n : Nat} {v : W64} {root : Bool}

/-! ## What the rings read -/

theorem numbered_linkUp (b : Blk) (k h : Nat) : (s.numbered b k).linkUp h = s.linkUp h :=
  numbered_on (by decide)

theorem numbered_ringLink (b : Blk) (k f n : Nat) : (s.numbered b k).ringLink f n = s.ringLink f n := by
  have hlink : (s.numbered b k).get (fRingLink n) 0 = s.get (fRingLink n) 0 :=
    numbered_get (by simp only [fRingLink, offSeq]; omega)
  have hbind : (s.numbered b k).get (fBind f) 0 = s.get (fBind f) 0 := numbered_get (by simp [fBind, offSeq])
  simp only [State.ringLink, State.bind, hlink, hbind]

theorem numbered_ringBase (b : Blk) (k f n : Nat) : (s.numbered b k).ringBase f n = s.ringBase f n := by
  simp only [State.ringBase, numbered_rd]
  rw [if_neg (by simp only [offSeq]; omega)]

/-! ## RING_CFG -/

theorem ringCfg_touches (f n : Nat) (v : W64) : (ringCfg f n v).Touches []
    (fun k => k.blk = .host ∧ k.inst = f ∧ (k.off = 0x208 + 0x20 * n ∨ k.off = 0x210 + 0x20 * n)) (fun _ => True) := by
  refine touches_of (fun s => doAll _) (fun s => rfl) fun s => ?_
  simp (maxDischargeDepth := 20) [fRingHead]

theorem ringCfg_run (s : State) (f n : Nat) (v : W64) : (ringCfg f n v).run s =
    (doAll [setReg .host f (0x208 + 0x20 * n) (v &&& (if f = 0 then 0x30F else 0x10F)),
      whenE (fun _ => !s.on (fRingEnable n) f && getBits v 8 1 = 1)
        (doAll [setF (fRingHead n) f 0, setAx ⟨.ringTail, f, n⟩ 0]),
      whenE (fun _ => (!s.on (fRingEnable n) f && getBits v 8 1 = 1) || getBits v 8 1 = 0)
        (setAx ⟨.ringFetch, f, n⟩ 0)]).run s := rfl

theorem ringCfg_cfg (s : State) (f n : Nat) (v : W64) : ((ringCfg f n v).run s).rd .host f (0x208 + 0x20 * n) =
    v &&& (if f = 0 then 0x30F else 0x10F) := by
  have hrest (b c : Bool) : (doAll [whenE (fun _ => b) (doAll [setF (fRingHead n) f 0, setAx ⟨.ringTail, f, n⟩ 0]),
      whenE (fun _ => c) (setAx ⟨.ringFetch, f, n⟩ 0)]).Touches [] (fun k => k.off = 0x210 + 0x20 * n) (fun _ => True) := by
    simp (maxDischargeDepth := 20) [fRingHead]
  rw [ringCfg_run, doAll_cons_run, (hrest _ _).rd _ (by simp)]
  simp

theorem ringCfg_head (hoff : s.on (fRingEnable n) f = false) (hv : getBits v 8 1 = 1) :
    ((ringCfg f n v).run s).get (fRingHead n) f = 0 := by
  simp [ringCfg_run, hoff, hv, State.get, fRingHead]

theorem ringCfg_fetch (hv : getBits v 8 1 = 0) : ((ringCfg f n v).run s).ax ⟨.ringFetch, f, n⟩ = 0 := by
  simp [ringCfg_run, hv]

/-! ## Fetches -/

theorem fetchNext_run_of_posted (h : s.get (fRingHead n) f ≠ s.ax ⟨.ringTail, f, n⟩)
    (hl : s.linkUp (s.ringLink f n) = true) : (fetchNext f n).run s = (s.apply1 (.aux ⟨.ringFetch, f, n⟩ 1)).apply1
      (.out (.hostRead f (s.ringLink f n) (s.ringBase f n + 64 * s.get (fRingHead n) f) 64)) := by
  simp only [fetchNext, Eff.run, h, hl, ne_eq, not_false_eq_true, and_self, if_true]
  rfl

theorem fetchNext_touches (f n : Nat) :
    (fetchNext f n).Touches [.out] (fun _ => False) (fun k => k = ⟨.ringFetch, f, n⟩) := fun s => by
  unfold fetchNext
  dsimp only
  split
  · exact within_doAll (by simp (maxDischargeDepth := 20))
  · exact touches_setAx (by simp) s

theorem doorbell_run (hl : s.lets src .host f root) (hf : f < 64) (hn : n < 4) (hon : s.on (fRingEnable n) f = true)
    (hv : getBits v 0 16 < s.ringSz f n) : exec (.doorbell src f n v) s =
      .next ((doAll [setAx ⟨.ringTail, f, n⟩ (getBits v 0 16),
        whenE (fun s => s.ax ⟨.ringFetch, f, n⟩ = 0) (fetchNext f n)]).run (s.numbered .host f)) := by
  show Host.Outcome.next _ = _
  rw [effDoorbell, if_neg (by omega), write_accepted hl (by omega) (by simp [firstErr, errIf, hon, Nat.not_le.2 hv])]
  rfl

/-- The fields of a fetched entry, as its words give them. -/
theorem ofWords_of_own {ws : List W64} (h : getBits (ws.getD 0 0) 0 1 = 1) : CmdEntry.ofWords ws =
    { own := true, opcode := getBits (ws.getD 0 0) 8 8, blk := getBits (ws.getD 0 0) 16 16, inst := getBits (ws.getD 0 0) 32 16,
      mailbox := getBits (ws.getD 0 0) 48 6, mbxEn := decide (getBits (ws.getD 0 0) 54 1 = 1),
      userTag := getBits (ws.getD 1 0) 0 32, args := (List.range 6).map fun i => ws.getD (2 + i) 0 } := by
  simp only [CmdEntry.ofWords, h, decide_true]

section
variable (hr : s.running) (hf : f < 64) (hn : n < 4) (ha : s.active f = true) (hon : s.on (fRingEnable n) f = true)
  (hx : s.ax ⟨.ringFetch, f, n⟩ ≠ 0) (hl : s.linkUp (s.ringLink f n) = true) {ws : List W64}
include hr hf hn ha hon hx hl

/-- An entry the module does not own stops the fetch. -/
theorem effCmdFetched_run_of_not_own (h : getBits (ws.getD 0 0) 0 1 = 0) :
    (effCmdFetched f n ws).run s = s.apply1 (.aux ⟨.ringFetch, f, n⟩ 0) := by
  have hown : (CmdEntry.ofWords ws).own = false := by simp only [CmdEntry.ofWords, h]; rfl
  simp [effCmdFetched, Eff.run, fabLive_of_running hr, Nat.not_le.2 hf, Nat.not_le.2 hn, ha, hon, hx, hl, hown, setAx]

theorem effCmdFetched_run_of_own (h : getBits (ws.getD 0 0) 0 1 = 1) : (effCmdFetched f n ws).run s =
    (doAll [modHi (fun x => { x with fetched := x.fetched ++ [⟨f, n, s.get (fRingHead n) f, CmdEntry.ofWords ws⟩] }),
      setF (fRingHead n) f ((s.get (fRingHead n) f + 1) % s.ringSz f n), fetchNext f n]).run s := by
  have hown : (CmdEntry.ofWords ws).own = true := by simp only [CmdEntry.ofWords, h]; rfl
  simp only [effCmdFetched, Eff.run, fabLive_of_running hr, Nat.not_le.2 hf, Nat.not_le.2 hn, ha, hon, hx, hl, hown,
    Bool.not_true, Bool.false_eq_true, or_self, if_false]
end

theorem effCmdFetched_touches (f n : Nat) (ws : List W64) : (effCmdFetched f n ws).Touches [.hi, .out]
    (fun k => k.blk = .host ∧ k.inst = f ∧ k.off = 0x210 + 0x20 * n) (fun _ => True) := fun s => by
  have hnext := (fetchNext_touches f n).mono (ps := [.hi, .out]) (A := fun _ => True)
    (R := fun k => k.blk = .host ∧ k.inst = f ∧ k.off = 0x210 + 0x20 * n) (by simp) (fun _ => False.elim) (fun _ _ => trivial)
  unfold effCmdFetched
  dsimp only
  split_ifs
  · exact within_nil
  · exact touches_setAx trivial s
  · exact within_doAll (by simp (maxDischargeDepth := 20) [hnext, fRingHead])

/-- An index in a ring fits its pointer's 16 bits. -/
theorem mod_ringSz_lt (s : State) (x f n : Nat) : x % s.ringSz f n < 2 ^ 16 := by
  have hlog : s.get (fRingLog n) f < 2 ^ 4 := get_lt s (fRingLog n) f
  have hsz : s.ringSz f n ≤ 2 ^ 15 := Nat.pow_le_pow_right (by decide) (by omega)
  have := Nat.mod_lt x (show 0 < s.ringSz f n from Nat.two_pow_pos _)
  omega

/-! ## Event rings and failures at PCIe -/

theorem evtCfg_run (hl : s.lets src .host f root) (hf : f < 64) (hlo : 4 ≤ getBits v 0 4) (hhi : getBits v 0 4 ≤ 14)
    (hlog : s.on fEvtRingEn f = true → getBits v 0 4 = s.get fEvtRingLog f) : exec (.evtRingEnable src f v) s =
      .next ((doAll [whenE (fun s => !s.on fEvtRingEn f && getBits v 8 1 = 1) (setReg .host f 0x310 0x10000),
        setReg .host f 0x308 (v &&& (if f = 0 then 0x30F else 0x10F))]).run (s.numbered .host f)) := by
  show Host.Outcome.next _ = _
  rw [effEvtCfg, if_neg (by omega), write_accepted hl (by omega)
    (by cases hon : s.on fEvtRingEn f <;> simp_all [firstErr, errIf])]
  rfl

theorem ringLost_run (s : State) (f n idx : Nat) : (ringLost f n idx).run s =
    (recordErr .host f eTIMEOUT (n * 0x10000 + idx)).run
      ((setAx ⟨.ringFetch, f, n⟩ 0).run ((setF (fRingEnable n) f 0).run s)) := by
  simp [ringLost]

theorem ringLost_err {f n idx : Nat} (h : s.get (fErrCode .host) f = 0) :
    ((ringLost f n idx).run s).get (fErrCode .host) f = eTIMEOUT ∧
      ((ringLost f n idx).run s).get (fErrInfo .host) f = (n * 0x10000 + idx) % 2 ^ 32 := by
  have hpre : (doAll [setF (fRingEnable n) f 0, setAx ⟨.ringFetch, f, n⟩ 0]).Touches []
      (fun k => k.off = 0x208 + 0x20 * n) (fun _ => True) := by simp (maxDischargeDepth := 20) [fRingEnable]
  rw [ringLost_run]
  refine recordErr_err (by decide) (Eq.trans (hpre.get s ?_) h)
  simp only [fErrCode, offErr]
  omega

theorem ringLost_disabled (s : State) (f n idx : Nat) : ((ringLost f n idx).run s).on (fRingEnable n) f = false ∧
    ((ringLost f n idx).run s).ax ⟨.ringFetch, f, n⟩ = 0 := by
  have herr := recordErr_touches .host f eTIMEOUT (n * 0x10000 + idx)
  rw [ringLost_run]
  constructor
  · have hax : (setAx ⟨.ringFetch, f, n⟩ 0).Touches [] (fun _ => False) (fun _ => True) := touches_setAx trivial
    rw [herr.on _ (by simp only [fRingEnable, offErr, offEvtStatus]; omega), hax.on _ id, on_setF_same (by simp [fRingEnable])]
    simp
  · rw [herr.ax _ id]
    simp

theorem effRingFail_run (hr : s.running) (hf : f < 64) (hn : n < 4) (ha : s.active f = true) {idx : Nat}
    (hi : idx < s.ringSz f n) : (effRingFail f n idx).run s = (ringLost f n idx).run
      ((whenE (fun s => s.get (fRingHead n) f ≠ idx)
        (modHi fun h => { h with fetched := h.fetched.filter fun x => !(x.func = f && x.ring = n) })).run s) := by
  simp [effRingFail, fabLive_of_running hr, hf, hn, ha, hi]

theorem effRingFail_touches (f n idx : Nat) : (effRingFail f n idx).Touches [.hi] (fun k => k.blk = .host ∧ k.inst = f ∧
    (k.off = 0x208 + 0x20 * n ∨ k.off = offErr ∨ k.off = offEvtStatus)) (fun _ => True) := by
  unfold effRingFail ringLost
  simp (maxDischargeDepth := 20) [fRingEnable]

/-- TAIL, where the event ring is enabled, goes to the entry that failed. -/
def evtFailTail (f idx : Nat) : Eff := whenE (fun s => s.on fEvtRingEn f) (doAll
  [whenE (fun s => s.get fEvtTail f ≤ idx) (fun s => setF fEvtPhase f (1 - s.get fEvtPhase f) s), setF fEvtTail f idx])

theorem evtFailTail_touches (f idx : Nat) : (evtFailTail f idx).Touches []
    (fun k => k.blk = .host ∧ k.inst = f ∧ k.off = 0x310) (fun _ => False) := by
  have hphase : Eff.Touches [] (fun k => k.blk = .host ∧ k.inst = f ∧ k.off = 0x310) (fun _ => False)
      (fun s => setF fEvtPhase f (1 - s.get fEvtPhase f) s) := fun s => touches_setF (by simp [fEvtPhase]) s
  simp (maxDischargeDepth := 20) [evtFailTail, hphase, fEvtTail]

theorem evtFailTail_tail {idx : Nat} (hi : idx < 2 ^ 16) : ((evtFailTail f idx).run s).get fEvtTail f =
    if s.on fEvtRingEn f then idx else s.get fEvtTail f := by
  cases hon : s.on fEvtRingEn f with
  | false => simp [evtFailTail, hon]
  | true =>
    simp only [evtFailTail, whenE_run, hon, if_true, doAll_cons_run, doAll_nil_run]
    rw [get_setF_same (by decide)]
    exact Nat.mod_eq_of_lt hi

theorem effEvtFail_run {idx : Nat} (hh : s.held = false) (hf : f < 64) (ha : s.active f = true)
    (hi : idx < 2 ^ s.get fEvtRingLog f) : (effEvtFail f idx).run s =
      (recordErr .host f eTIMEOUT idx).run ((setF fEvtRingEn f 0).run ((evtFailTail f idx).run s)) := by
  simp [effEvtFail, hh, hf, ha, hi, evtLost, evtFailTail]

theorem evtIndex_lt {idx : Nat} (hi : idx < 2 ^ s.get fEvtRingLog f) : idx < 2 ^ 16 := by
  have hlog : s.get fEvtRingLog f < 2 ^ 4 := get_lt s fEvtRingLog f
  exact hi.trans_le (Nat.pow_le_pow_right (by decide) (by omega))

theorem effEvtFail_touches (f idx : Nat) : (doAll [evtFailTail f idx, setF fEvtRingEn f 0, recordErr .host f eTIMEOUT idx]).Touches
    [.hi] (fun k => k.blk = .host ∧ k.inst = f ∧ (k.off = 0x308 ∨ k.off = 0x310 ∨ k.off = offErr ∨ k.off = offEvtStatus))
    (fun _ => False) := by
  have htail := (evtFailTail_touches f idx).mono (ps := [.hi]) (A := fun _ => False)
    (R := fun k => k.blk = .host ∧ k.inst = f ∧ (k.off = 0x308 ∨ k.off = 0x310 ∨ k.off = offErr ∨ k.off = offEvtStatus))
    (by simp) (fun k h => ⟨h.1, h.2.1, .inr (.inl h.2.2)⟩) (fun _ h => h)
  simp (maxDischargeDepth := 20) [htail, fEvtRingEn]

/-- Settles O12: that a write-back that fails leaves TAIL at the failed entry is log entry 35, that disabling keeps the fetched
entries is log entry 37. -/
theorem commandRingsFetch : Obligations.CommandRingsFetch := by
  refine ⟨?_, ?_, ?_, ?_, ?_, ?_⟩
  · intro s src f n v root hl hf hn hlo hhi hlog
    have hrun : exec (.ringEnable src f n v) s = .next ((ringCfg f n v).run (s.numbered .host f)) := by
      show Host.Outcome.next _ = _
      rw [effRingEnable, if_neg (by omega), write_accepted hl (by omega)
        (by cases hon : s.on (fRingEnable n) f <;> simp_all [firstErr, errIf])]
      rfl
    refine ⟨_, hrun, ?_⟩
    have hen : (s.numbered .host f).on (fRingEnable n) f = s.on (fRingEnable n) f :=
      numbered_on (by simp only [fRingEnable, offSeq]; omega)
    obtain ⟨hnum, honly, hkept⟩ := write_frame (s := s) (blk := .host) (key := f) (ringCfg_touches f n v) [.regs, .aux, .seq]
      (fun b i o => b = .host ∧ i = f ∧ (o = 0x208 + 0x20 * n ∨ o = 0x210 + 0x20 * n ∨ o = offSeq)) (by simp) (by simp)
      (by simp) (by simp) (by simp) (by simp [offSeq]; omega) (by simp; tauto) (by simp)
    exact ⟨hnum, ringCfg_cfg _ f n v, fun hoff hv => ringCfg_head (hen.trans hoff) hv, ringCfg_fetch, honly, hkept⟩
  · intro s src f n v root hl hf hn hon hv
    refine ⟨_, doorbell_run hl hf hn hon hv, ?_⟩
    have htouch : (doAll [setAx ⟨.ringTail, f, n⟩ (getBits v 0 16),
        whenE (fun s => s.ax ⟨.ringFetch, f, n⟩ = 0) (fetchNext f n)]).Touches [.out] (fun _ => False) (fun _ => True) := by
      simp (maxDischargeDepth := 20) [(fetchNext_touches f n).mono (A := fun _ => True) (fun _ h => h) (fun _ h => h) fun _ _ => trivial]
    obtain ⟨hnum, honly, hkept⟩ := write_frame (s := s) (blk := .host) (key := f) htouch [.regs, .aux, .seq, .out]
      (fun b i o => b = .host ∧ i = f ∧ o = offSeq) (by simp) (by simp) (by simp) (by simp) (by simp) (by simp) (by simp)
      (by simp)
    refine ⟨hnum, ?_, fun hfetch hhead hup => ?_, honly, hkept⟩
    · simp only [doAll_cons_run, doAll_nil_run, whenE_run]
      split
      · rw [(fetchNext_touches f n).ax _ (by simp)]; simp
      · simp
    · have hposted : ∀ t : State, t = (s.numbered .host f).apply1 (.aux ⟨.ringTail, f, n⟩ (getBits v 0 16)) →
          t.get (fRingHead n) f = s.get (fRingHead n) f ∧ t.ringLink f n = s.ringLink f n ∧ t.linkUp = s.linkUp ∧
          t.ringBase f n = s.ringBase f n := by
        rintro t rfl
        exact ⟨(numbered_get (by simp only [fRingHead, offSeq]; omega) : (s.numbered .host f).get _ _ = _),
          numbered_ringLink .host f f n, funext fun h => numbered_linkUp .host f h, numbered_ringBase .host f f n⟩
      obtain ⟨hh, hlink, hups, hbase⟩ := hposted _ rfl
      simp only [doAll_cons_run, doAll_nil_run, setAx_run, whenE_run]
      rw [if_pos (by simpa using hfetch), fetchNext_run_of_posted (by simpa [hh] using hhead) (by rw [hlink, hups, hup]),
        hlink, hh, hbase]
      simp [State.numbered]
  · intro s src f v root hl hf hlo hhi hlog
    refine ⟨_, evtCfg_run hl hf hlo hhi hlog, ?_⟩
    have htouch : (doAll [whenE (fun s => !s.on fEvtRingEn f && getBits v 8 1 = 1) (setReg .host f 0x310 0x10000),
        setReg .host f 0x308 (v &&& (if f = 0 then 0x30F else 0x10F))]).Touches []
        (fun k => k.blk = .host ∧ k.inst = f ∧ (k.off = 0x308 ∨ k.off = 0x310)) (fun _ => False) := by
      simp (maxDischargeDepth := 20)
    obtain ⟨hnum, honly, hkept⟩ := write_frame (s := s) (blk := .host) (key := f) htouch [.regs, .seq]
      (fun b i o => b = .host ∧ i = f ∧ (o = 0x308 ∨ o = 0x310 ∨ o = offSeq)) (by simp) (by simp) (by simp) (by simp)
      (by simp) (by simp [offSeq]) (by simp; tauto) (by simp)
    refine ⟨hnum, by simp, fun hoff hv => ?_, honly, hkept⟩
    have hoff' : (s.numbered .host f).on fEvtRingEn f = false := (numbered_on (by decide)).trans hoff
    simp [hoff', hv, State.get, fEvtTail, fEvtPhase]
    decide
  · intro s f n ws hr hf hn ha hon hx hl
    refine ⟨_, rfl, fun hown => ?_, fun hown => ?_, ?_, ?_⟩
    · rw [effCmdFetched_run_of_own hr hf hn ha hon hx hl hown, doAll_cons_run, doAll_cons_run, doAll_cons_run,
        doAll_nil_run, ofWords_of_own hown]
      have hnext := fetchNext_touches f n
      constructor
      · rw [(hnext.same _ .hi (by simp) (by simp) (by simp) : _ = _)]
        rfl
      · rw [hnext.get _ id, get_setF_same (by simp [fRingHead])]
        exact Nat.mod_eq_of_lt (mod_ringSz_lt s _ f n)
    · rw [effCmdFetched_run_of_not_own hr hf hn ha hon hx hl hown]
      exact ⟨rfl, by simp, rfl⟩
    · exact (effCmdFetched_touches f n ws).only s (by simp) (.inl (by simp)) (.inl (by simp))
    · exact (effCmdFetched_touches f n ws).regsKept s _ fun _ _ _ h => h
  · intro s f n idx hr hf hn ha hi
    refine ⟨_, rfl, ?_, ?_, fun herr => ?_, ?_, ?_⟩
    · rw [effRingFail_run hr hf hn ha hi]
      exact (ringLost_disabled _ f n idx).1
    · rw [effRingFail_run hr hf hn ha hi]
      exact (ringLost_disabled _ f n idx).2
    · rw [effRingFail_run hr hf hn ha hi]
      refine ringLost_err (Eq.trans ?_ herr)
      exact Eff.Touches.get (ps := [.hi]) (R := fun _ => False) (A := fun _ => False) (by simp) s id
    · exact (effRingFail_touches f n idx).only s (by simp) (.inl (by simp)) (.inl (by simp))
    · exact (effRingFail_touches f n idx).regsKept s _ fun _ _ _ h => h
  · intro s f idx hh hf ha hi
    refine ⟨_, rfl, ?_⟩
    rw [effEvtFail_run hh hf ha hi]
    have herr := recordErr_touches .host f eTIMEOUT idx
    have htail := evtFailTail_touches f idx
    have hidx := evtIndex_lt hi
    have hrun : (doAll [evtFailTail f idx, setF fEvtRingEn f 0, recordErr .host f eTIMEOUT idx]).run s =
        (recordErr .host f eTIMEOUT idx).run ((setF fEvtRingEn f 0).run ((evtFailTail f idx).run s)) := by
      rw [doAll_cons_run, doAll_cons_run, doAll_cons_run, doAll_nil_run]
    have htouch := effEvtFail_touches f idx
    refine ⟨?_, ?_, fun hclear => ?_, hrun ▸ htouch.only s (by simp) (.inl (by simp)) (.inr fun _ => id),
      hrun ▸ htouch.regsKept s _ fun _ _ _ h => h⟩
    · rw [herr.on _ (by simp [fEvtRingEn, offErr, offEvtStatus]), on_setF_same (by decide)]
      simp
    · rw [herr.get _ (by simp [fEvtTail, offErr, offEvtStatus]), get_setF_off_ne (by decide), evtFailTail_tail hidx]
    · have hclear' : ((setF fEvtRingEn f 0).run ((evtFailTail f idx).run s)).get (fErrCode .host) f = 0 := by
        rw [get_setF_off_ne (by decide), htail.get _ (by simp [fErrCode, offErr]), hclear]
      obtain ⟨hcode, hinfo⟩ := recordErr_err (code := eTIMEOUT) (info := idx) (by decide) hclear'
      exact ⟨hcode, hinfo.trans (Nat.mod_eq_of_lt (by omega))⟩

end Sys2Proof.Machine
end

section
/-! PROOFS. Commands decided at the arbiter (chapter 02): what an accepted command leaves, its completion and its mailbox, NOP
and FENCE (R54, R55). -/

namespace Sys2Proof.Machine

variable {s : State} {c : CmdCtx} {ps : List Component} {R : RK → Prop} {A : Aux → Prop}

/-! ## Acceptance -/

theorem accept_touches {w : Nat} {blk : Blk} {inst op : Nat} {args : List W64} {k : Running → Eff}
    (hk : ∀ r, (k r).Touches ps R A) (hR : ∀ i off, R ⟨.host, i, off⟩) (hA : A ⟨.ringFetch, c.func, c.ring⟩)
    (hseq : Component.seq ∈ ps) (hhi : Component.hi ∈ ps) (hout : Component.out ∈ ps) :
    (accept c w blk inst op args k).Touches ps R A := fun s => by
  have hnum : Eff.Touches ps R A (fun _ => [Upd.seq]) := touches_upd ⟨by simpa [Upd.parts] using hseq, trivial⟩
  exact within_doAll (by simp (maxDischargeDepth := 20) [hk, hR, hA, hhi, hout, hnum, fMbxPending])

/-- The mailbox PENDING, and word 0 written back. -/
def posted (c : CmdCtx) (w : Nat) : Eff :=
  doAll [whenE (fun _ => c.mbxEn) (setF (fMbxPending c.mailbox) (64 + c.func) 1), writeBack c w]

theorem posted_hi_running (s : State) (c : CmdCtx) (w : Nat) : ((posted c w).run s).hi.running = s.hi.running := by
  simp only [posted, doAll_cons_run, doAll_nil_run, writeBack_hi_running, whenE_run]
  split <;> simp

/-- An accepted entry has its mailbox and word 0 posted, and runs. -/
theorem accept_run_posted (s : State) (c : CmdCtx) (w : Nat) (blk : Blk) (inst op : Nat) (args : List W64)
    (k : Running → Eff) : (accept c w blk inst op args k).run s = (k (s.asRunning c blk inst op args)).run
      ((modHi fun h => { h with running := h.running ++ [s.asRunning c blk inst op args] }).run
        ((posted c w).run (s.apply1 .seq))) := by
  rw [accept_run]
  simp only [posted, doAll_cons_run, doAll_nil_run]

/-- The commands under way as an accepted one begins to run. -/
theorem accept_started_running (s : State) (c : CmdCtx) (w : Nat) (r : Running) :
    ((modHi fun h => { h with running := h.running ++ [r] }).run ((posted c w).run (s.apply1 .seq))).hi.running =
      s.hi.running ++ [r] := by
  show ((posted c w).run (s.apply1 .seq)).hi.running ++ [r] = _
  rw [posted_hi_running, State.apply1_hi]

/-! ## Completion -/

theorem setEvt_hi_running (s : State) (blk : Blk) (i bit : Nat) : ((setEvt blk i bit).run s).hi.running = s.hi.running :=
  setEvtI_hi_running s blk i bit 0

/-- What a completion writes into its mailbox: code, sequence number x, result v, INFO word w. -/
def mbxFill (f m code x : Nat) (v w : W64) : Eff :=
  doAll [setF (fMbxPending m) (64 + f) 0, setF (fMbxCode m) (64 + f) code, setF (fMbxSeq m) (64 + f) x,
    setReg .host (64 + f) (0x108 + 0x20 * m) v, setReg .host (64 + f) (0x110 + 0x20 * m) w,
    setF (fMbxValid m) (64 + f) 1, setEvt .host (64 + f) 0, msixDue f 1]

theorem mbxPost_run_of_pending {f m code tag seq : Nat} {v : W64} (h : s.on (fMbxPending m) (64 + f) = true) :
    (mbxPost f m code v tag seq).run s = (mbxFill f m code (nextSeq32 (s.get (fMbxSeq m) (64 + f))) v
      (BitVec.ofNat 64 (tag % 2 ^ 32 + (seq % 2 ^ 32) * 2 ^ 32))).run s := by
  simp only [mbxPost, Eff.run, h, Bool.not_true, Bool.false_eq_true, if_false]
  rfl

theorem mbxPost_run_of_not_pending {f m code tag seq : Nat} {v : W64} (h : s.on (fMbxPending m) (64 + f) = false) :
    (mbxPost f m code v tag seq).run s = s := by
  simp [mbxPost, Eff.run, h]

theorem mbxPost_hi_running (s : State) (f m code : Nat) (v : W64) (tag seq : Nat) :
    ((mbxPost f m code v tag seq).run s).hi.running = s.hi.running := by
  cases h : s.on (fMbxPending m) (64 + f) with
  | false => rw [mbxPost_run_of_not_pending h]
  | true =>
    rw [mbxPost_run_of_pending h]
    simp [mbxFill, msixDue_hi, setEvt_hi_running]

theorem finish_hi_running (s : State) (r : Running) (code : Nat) (v : W64) :
    ((finish r code v).run s).hi.running = s.hi.running.filter fun x => x.seq ≠ r.seq := by
  simp only [finish, doAll_cons_run, doAll_nil_run, whenE_run]
  split
  · rw [mbxPost_hi_running]; rfl
  · rfl

/-- A mailbox filled is VALID with the command's code, and not PENDING (Table 02-10). -/
theorem mbxFill_mailbox (s : State) (f m code x : Nat) (v w : W64) :
    ((mbxFill f m code x v w).run s).on (fMbxPending m) (64 + f) = false ∧
    ((mbxFill f m code x v w).run s).on (fMbxValid m) (64 + f) = true ∧
    ((mbxFill f m code x v w).run s).get (fMbxCode m) (64 + f) = code % 2 ^ 8 := by
  have htail : (doAll [setEvt .host (64 + f) 0, msixDue f 1]).Touches [.hi, .out]
      (fun k => k.off = offEvtStatus ∨ k.inst = f) (fun _ => False) := by simp (maxDischargeDepth := 20)
  have hword : (doAll [setReg .host (64 + f) (0x108 + 0x20 * m) v, setReg .host (64 + f) (0x110 + 0x20 * m) w]).Touches []
      (fun k => k.off = 0x108 + 0x20 * m ∨ k.off = 0x110 + 0x20 * m) (fun _ => False) := by
    simp (maxDischargeDepth := 20)
  have hbox : ¬ (0x100 + 0x20 * m = offEvtStatus ∨ 64 + f = f) := by simp only [offEvtStatus]; omega
  have hbox' : ¬ (0x100 + 0x20 * m = 0x108 + 0x20 * m ∨ 0x100 + 0x20 * m = 0x110 + 0x20 * m) := by omega
  have hrun : (mbxFill f m code x v w).run s = (doAll [setEvt .host (64 + f) 0, msixDue f 1]).run
      ((setF (fMbxValid m) (64 + f) 1).run ((doAll [setReg .host (64 + f) (0x108 + 0x20 * m) v,
        setReg .host (64 + f) (0x110 + 0x20 * m) w]).run ((setF (fMbxSeq m) (64 + f) x).run
          ((setF (fMbxCode m) (64 + f) code).run ((setF (fMbxPending m) (64 + f) 0).run s))))) := by
    rw [mbxFill, doAll_cons_run, doAll_cons_run, doAll_cons_run, doAll_cons_run, doAll_cons_run, doAll_cons_run,
      doAll_cons_run _ (setReg _ _ _ _), doAll_cons_run _ (setReg _ _ _ _), doAll_nil_run]
  rw [hrun]
  refine ⟨?_, ?_, ?_⟩
  · rw [on_eq_false_iff, htail.get _ hbox, get_setF_ne (by simp [fMbxPending, fMbxValid]) (by simp [fMbxPending]),
      hword.get _ hbox', get_setF_ne (by simp [fMbxPending, fMbxSeq]) (by simp [fMbxPending]),
      get_setF_ne (by simp [fMbxPending, fMbxCode]) (by simp [fMbxPending]), get_setF_same (by simp [fMbxPending])]
    simp
  · rw [htail.on _ hbox, on_setF_same (by simp [fMbxValid])]
    simp [fMbxValid]
  · rw [htail.get _ hbox, get_setF_ne (by simp [fMbxCode, fMbxValid]) (by simp [fMbxCode]),
      hword.get _ hbox', get_setF_ne (by simp [fMbxCode, fMbxSeq]) (by simp [fMbxCode]), get_setF_same (by simp [fMbxCode])]
    simp [fMbxCode]

theorem finishFree_run (s : State) (r : Running) :
    (finishFree r).run s = (finish r eOK (Config.freeWord s.free)).run (s.apply1 .free) := drawFree_run s _

/-! ## NOP and FENCE -/

theorem effFence_run_of_free (hr : s.running) (ha : s.active c.func = true) (hf : s.fenceHeld c.func c.ring = false)
    (hp : s.plainCode c = eOK) :
    (effFence c).run s = (accept c (plainWord0 c 1) .host 0 1 [] fun _ => skip).run s := by
  simp [Eff.run, effFence, admitPlain, fabLive_of_running hr, ha, hf, hp]

theorem plainCode_ok (hp : s.plainCode c = eOK) : s.mailboxTaken c = false := by
  rw [plainCode_eq] at hp
  cases h : s.mailboxTaken c with
  | false => rfl
  | true => rw [h] at hp; exact absurd hp (by decide)

theorem fenceHeld_of_mem {t : State} {f n : Nat} {r : Running} (hr : r ∈ t.hi.running) (hb : r.blk = .host) (ho : r.op = 1)
    (hf : r.ctx.func = f) (hn : r.ctx.ring = n) : t.fenceHeld f n = true :=
  List.any_eq_true.2 ⟨r, hr, by simp [hb, ho, hf, hn]⟩

/-- A command with a number none of the others has: it leaves, and they stay. -/
theorem filter_append_new {l : List Running} {r : Running} (h : ∀ x ∈ l, x.seq ≠ r.seq) :
    (l ++ [r]).filter (fun x => x.seq ≠ r.seq) = l := by
  rw [List.filter_append, List.filter_eq_self.2 fun x hx => by simpa using h x hx]
  simp

theorem finishFree_only (r : Running) : (finishFree r).Touches [.hi, .out, .free] (fun _ => True) (fun _ => False) := by
  simp (maxDischargeDepth := 20) [finishFree]

/-- Settles O13. -/
theorem nopAndFence : Obligations.NopAndFence := by
  refine ⟨?_, ?_, ?_⟩
  · intro s c hr ha hf hp
    have htouch : (accept c (plainWord0 c 1) .host 0 1 [] fun _ => skip).Touches [.seq, .hi, .out] (fun _ => True)
        (fun _ => True) := accept_touches (by simp) (by simp) trivial (by simp) (by simp) (by simp)
    have hrun : ((effFence c).run s).hi.running = s.hi.running ++ [s.asRunning c .host 0 1 []] := by
      rw [effFence_run_of_free hr ha hf hp, accept_run_posted]
      exact accept_started_running s c _ _
    refine ⟨_, rfl, ?_, hrun, ?_, ?_⟩
    · rw [effFence_run_of_free hr ha hf hp]
      exact accept_seq (by simp)
    · exact fenceHeld_of_mem (r := s.asRunning c .host 0 1 []) (hrun ▸ by simp) rfl rfl rfl rfl
    · rw [effFence_run_of_free hr ha hf hp]
      exact htouch.only s (by simp) (.inl (by simp)) (.inl (by simp))
  · intro s c hr ha hf hp hnew
    have htouch : (accept c (plainWord0 c 0) .host 0 0 [] finishFree).Touches [.seq, .hi, .out, .free] (fun _ => True)
        (fun _ => True) := accept_touches (fun r => (finishFree_only r).mono (by simp) (by simp) (by simp)) (by simp)
      trivial (by simp) (by simp) (by simp)
    have heff := effNop_run_of_free hr ha hf (plainCode_ok hp)
    refine ⟨_, rfl, ?_, ?_, ?_⟩ <;> rw [heff]
    · exact accept_seq finishFree_touches
    · rw [accept_run_posted, finishFree_run, finish_hi_running, State.apply1_hi]
      exact (congrArg _ (accept_started_running s c _ _)).trans (filter_append_new fun x hx => hnew x hx)
    · exact htouch.only s (by simp) (.inl (by simp)) (.inl (by simp))
  · intro s f n r hh hfind hold
    have hany : (s.hi.running.filter fun r => r.ctx.func = f && r.ctx.ring = n).any (fun x => x.seq < r.seq) = false := by
      rw [List.any_eq_false]
      intro x hx
      obtain ⟨hmem, hown⟩ := List.mem_filter.1 hx
      simp only [Bool.and_eq_true, decide_eq_true_eq] at hown
      simpa using hold x hmem hown.1 hown.2
    have hrun : (effFenceComplete f n).run s = (finishFree r).run s := by
      simp only [Eff.run, effFenceComplete, hfind, hany, hh, Bool.or_false, Bool.false_eq_true, if_false]
    refine ⟨_, rfl, ?_, fun hen hpost hpend _ _ => ?_, ?_⟩ <;> rw [hrun]
    · rw [finishFree_run, finish_hi_running, State.apply1_hi]
    · have hpend' : ((s.apply1 .free).apply1 (.hi fun h => { h with running := h.running.filter fun x => x.seq ≠ r.seq })).on
          (fMbxPending r.ctx.mailbox) (64 + r.ctx.func) = true := hpend
      have hfin : (finish r eOK (Config.freeWord s.free)).run (s.apply1 .free) =
          (mbxPost r.ctx.func r.ctx.mailbox eOK (Config.freeWord s.free) r.ctx.userTag r.seq).run
            ((s.apply1 .free).apply1 (.hi fun h => { h with running := h.running.filter fun x => x.seq ≠ r.seq })) := by
        simp only [finish, doAll_cons_run, doAll_nil_run, whenE_run, hen, hpost, Bool.and_self, if_true, modHi_run]
      rw [finishFree_run, hfin, mbxPost_run_of_pending hpend']
      exact mbxFill_mailbox _ _ _ eOK _ _ _
    · exact (finishFree_only r).only s (by simp) (.inl (by simp)) (.inr fun _ => id)

end Sys2Proof.Machine
end

section
/-! PROOFS. Mailboxes, semaphores and the arbiter's events and signals (chapter 02): acknowledgement and take (R55, R64),
SEM.SIGNAL (R63, R116), an event on its way to the home ring (R25, R46, R60), a signal to a host semaphore (R64). -/

namespace Sys2Proof.Machine

variable {s : State} {src : Src} {v : W64} {root : Bool} {ps : List Component} {R : RK → Prop} {A : Aux → Prop}

/-! ## A semaphore raised -/

/-- R116: a raise is held at 0xFFFF. -/
theorem semAdd_get (s : State) (p sem n : Nat) :
    ((semAdd p sem n).run s).get (fSem sem) p = min (s.get (fSem sem) p + n) 0xFFFF := by
  unfold semAdd Eff.run
  dsimp only
  split
  next hle =>
    show ((setF (fSem sem) p _).run s).get (fSem sem) p = _
    rw [get_setF_same (by simp [fSem])]
    simp only [fSem] at hle ⊢
    omega
  next hle =>
    show ((doAll [setF (fSem sem) p 0xFFFF, recordErr .tile p eSATURATE sem]).run s).get (fSem sem) p = _
    rw [doAll_cons_run, doAll_cons_run, doAll_nil_run,
      (recordErr_touches .tile p eSATURATE sem).get _ (by simp only [fSem, offErr, offEvtStatus]; omega), get_setF_same (by simp [fSem])]
    simp only [fSem] at hle ⊢
    omega

theorem semAdd_touches (p sem n : Nat) : (semAdd p sem n).Touches [.hi] (fun k => k.blk = .tile ∧ k.inst = p ∧
    (k.off = 0x200 + 8 * sem ∨ (k.off = offErr ∨ k.off = offEvtStatus))) (fun _ => False) := fun s => by
  unfold semAdd
  dsimp only
  split
  · exact touches_setF (by simp [fSem]) s
  · exact within_doAll (by simp (maxDischargeDepth := 20) [fSem])

/-- A SEM.SIGNAL that passes its checks is no denial. -/
theorem execSemSignal_accepted {f : Nat} (hl : s.lets src .sem f root) (hf : f < 64) (hok : s.semErr src root v = none) :
    exec (.semSignal src f v) s = .next ((semAdd (s.phys (getBits v 0 16)) (getBits v 16 6)
      (getBits v 24 8)).run (s.numbered .sem f)) := by
  have hrun : (effSemSignal src f v).run s = (regWrite src .sem f 0x100 8 (fun root s => s.semErr src root v)
      (fun _ s => semAdd (s.phys (getBits v 0 16)) (getBits v 16 6) (getBits v 24 8) s)).run s := by
    simp only [effSemSignal, Eff.run, Nat.not_le.2 hf, if_false, hl.2.1, hok, Option.any_none, Bool.and_false]
    exact (doAll_cons_run ..).trans rfl
  show Host.Outcome.next _ = _
  rw [inTurn_run hl.1, hrun, regWrite_accepted hl (by decide) hok]
  rfl

/-- Settles O15. -/
theorem mailboxAndSemaphoreWrites : Obligations.MailboxAndSemaphoreWrites := by
  refine ⟨?_, ?_, ?_⟩
  · intro s src f m v root hl hf hm hv hseq
    refine ⟨_, execMbxAck_accepted hl hf hm hv hseq, ?_⟩
    obtain ⟨hnum, honly, hkept⟩ := write_frame (s := s) (blk := .host) (key := 64 + f) (ps := []) (A := fun _ => False)
      (R := fun k => k = ⟨.host, 64 + f, 0x100 + 0x20 * m⟩) (e := setF (fMbxValid m) (64 + f) 0) (touches_setF rfl)
      [.regs, .seq] (fun b i o => b = .host ∧ i = 64 + f ∧ (o = 0x100 + 0x20 * m ∨ o = offSeq)) (by simp) (by simp)
      (by simp) (by simp) (by simp) (by simp [offSeq]; omega) (by simp; tauto) (by simp)
    refine ⟨hnum, acked_valid s f m, ?_, honly, hkept⟩
    rw [State.acked, get_setF_ne (by simp [fMbxValid, fMbxSeq]) (by simp [fMbxSeq]), numbered_get (by simp [fMbxSeq, offSeq]; omega)]
  · intro s src f i v root hl hf hi hle
    have hrun : exec (.hsemTake src f i v) s = .next ((setF (fHsemCount i) f
        ((s.numbered .sem f).get (fHsemCount i) f - getBits v 0 32)).run (s.numbered .sem f)) := by
      show Host.Outcome.next _ = _
      rw [effHsemTake, if_neg (by omega), write_accepted hl (by omega) (if_neg (by omega))]
      rfl
    refine ⟨_, hrun, ?_⟩
    obtain ⟨hnum, honly, hkept⟩ := write_frame (s := s) (blk := .sem) (key := f) (ps := []) (A := fun _ => False)
      (R := fun k => k = ⟨.sem, f, 0x200 + 8 * i⟩)
      (e := setF (fHsemCount i) f ((s.numbered .sem f).get (fHsemCount i) f - getBits v 0 32)) (touches_setF rfl)
      [.regs, .seq] (fun b j o => b = .sem ∧ j = f ∧ (o = 0x200 + 8 * i ∨ o = offSeq)) (by simp) (by simp)
      (by simp) (by simp) (by simp) (by simp [offSeq]; omega) (by simp; tauto) (by simp)
    refine ⟨hnum, ?_, honly, hkept⟩
    have hcount : s.get (fHsemCount i) f < 2 ^ 32 := get_lt s (fHsemCount i) f
    rw [get_setF_same (by simp [fHsemCount]), numbered_get (by simp [fHsemCount, offSeq]; omega)]
    exact Nat.mod_eq_of_lt (show _ < 2 ^ 32 by omega)
  · intro s src f v root hl hf hok
    refine ⟨_, execSemSignal_accepted hl hf hok, ?_⟩
    have htouch := semAdd_touches (s.phys (getBits v 0 16)) (getBits v 16 6) (getBits v 24 8)
    obtain ⟨hnum, honly, -⟩ := write_frame (s := s) (blk := .sem) (key := f) htouch [.regs, .seq, .hi] (fun _ _ _ => True)
      (by simp) (by simp) (by simp) (by simp) (by simp) (by simp) (by simp) (by simp)
    refine ⟨hnum, ?_, honly⟩
    refine (semAdd_get (s.numbered .sem f) _ _ _).trans ?_
    rw [numbered_get (by simp [fSem, offSeq]; omega)]

/-! ## Events wait in order -/

/-- An effect that only adds events behind those that wait. -/
def Eff.AppendsEvents (e : Eff) : Prop := ∀ s : State, ∃ new, (e.run s).hi.evq = s.hi.evq ++ new

theorem appendsEvents_of_touches {e : Eff} (h : e.Touches ps R A) (hhi : Component.hi ∉ ps) : e.AppendsEvents :=
  fun s => ⟨[], by rw [(h.same s .hi hhi (by simp) (by simp) : _ = _), List.append_nil]⟩

theorem appendsEvents_skip : skip.AppendsEvents := fun s => ⟨[], by simp⟩

theorem appendsEvents_doAll {es : List Eff} (h : ∀ e ∈ es, Eff.AppendsEvents e) : (doAll es).AppendsEvents := by
  induction es with
  | nil => exact appendsEvents_skip
  | cons e es ih =>
    intro s
    obtain ⟨new, hnew⟩ := h e (List.mem_cons_self ..) s
    obtain ⟨more, hmore⟩ := ih (fun e he => h e (List.mem_cons_of_mem _ he)) (e.run s)
    exact ⟨new ++ more, by rw [doAll_cons_run, hmore, hnew, List.append_assoc]⟩

theorem appendsEvents_whenE {c : State → Bool} {e : Eff} (h : e.AppendsEvents) : (whenE c e).AppendsEvents := fun s => by
  rw [whenE_run]
  split
  · exact h s
  · exact ⟨[], by simp⟩

theorem appendsEvents_withSome {β : Type} {o : Option β} {k : β → Eff} (h : ∀ b, (k b).AppendsEvents) :
    (withSome o skip k).AppendsEvents := by
  cases o
  · exact appendsEvents_skip
  · exact h _

theorem setEvtI_hi (s : State) (blk : Blk) (i bit info : Nat) :
    ∃ new, ((setEvtI blk i bit info).run s).hi = { s.hi with evq := s.hi.evq ++ new } := by
  simp only [Eff.run, setEvtI, setF]
  split
  · exact ⟨[], by simp⟩
  · split
    · exact ⟨[s.mkEvent blk i bit info], by simp⟩
    · exact ⟨[], by simp⟩

theorem appendsEvents_setEvt (blk : Blk) (i bit : Nat) : (setEvt blk i bit).AppendsEvents := fun s => by
  obtain ⟨new, hnew⟩ := setEvtI_hi s blk i bit 0
  exact ⟨new, by rw [setEvt, hnew]⟩

/-- R35: an error recorded adds its event at most. -/
theorem recordErr_hi (s : State) (blk : Blk) (i code info : Nat) :
    ∃ new, ((recordErr blk i code info).run s).hi = { s.hi with evq := s.hi.evq ++ new } := by
  by_cases h : s.get (fErrCode blk) i = 0
  · rw [recordErr_run_of_clear h]
    exact setEvtI_hi _ blk i 63 0
  · exact ⟨[], by simp [Eff.run, recordErr, h, addSat, setF]⟩

theorem appendsEvents_recordErr (blk : Blk) (i code info : Nat) : (recordErr blk i code info).AppendsEvents := fun s => by
  obtain ⟨new, hnew⟩ := recordErr_hi s blk i code info
  exact ⟨new, by rw [hnew]⟩

theorem msixDue_touches (f v : Nat) :
    (msixDue f v).Touches [.out] (fun k => k.blk = .host ∧ k.inst = f ∧ k.off = 0x900) (fun _ => False) :=
  touches_msixDue (by simp) (by simp)

theorem rimWake_touches (c : Nat) :
    (rimWake c).Touches [] (fun k => k.blk = .rim ∧ k.inst = c ∧ k.off = 0x018) (fun _ => False) := by
  unfold rimWake
  simp (maxDischargeDepth := 20) [fRimState]

theorem rimPend_touches (c bit : Nat) : (rimPend c bit).Touches []
    (fun k => k.blk = .rim ∧ k.inst = c ∧ (k.off = 0x110 ∨ k.off = 0x018)) (fun _ => False) := by
  have hwake := (rimWake_touches c).mono (ps := []) (A := fun _ => False)
    (R := fun k => k.blk = .rim ∧ k.inst = c ∧ (k.off = 0x110 ∨ k.off = 0x018)) (by simp)
    (fun k h => ⟨h.1, h.2.1, .inr h.2.2⟩) (fun _ h => h)
  unfold rimPend
  simp (maxDischargeDepth := 20) [hwake]

/-! ## The home ring -/

/-- The link of a function's event ring. -/
def State.evtLink (s : State) (f : Nat) : Nat := if f = 0 then s.get fEvtRingLink 0 else s.bind f

/-- An entry sent to the event ring, and the pointers moved on. -/
def evtSent (s : State) (f : Nat) (e : Event) (n : Nat) : Eff :=
  doAll [emit (.hostWrite f (s.evtLink f) ((s.rd .host f 0x300).toNat + 32 * s.get fEvtTail f)
      (evtBytes e n s.seq (s.get fEvtPhase f))),
    setF fEvtTail f ((s.get fEvtTail f + 1) % 2 ^ s.get fEvtRingLog f),
    whenE (fun _ => s.get fEvtTail f + 1 = 2 ^ s.get fEvtRingLog f) (setF fEvtPhase f (1 - s.get fEvtPhase f)), msixDue f 0]

/-- The four fates of an event at a ring: disabled, full, its link down, sent. -/
theorem evtToRing_eq (f : Nat) (e : Event) (n : Nat) (s : State) : evtToRing f e n s =
    if !s.on fEvtRingEn f then []
    else if (s.get fEvtTail f + 1) % 2 ^ s.get fEvtRingLog f = s.get fEvtHead f then
      doAll [addSat fEvtLost f 1, setEvt .host f 1] s
    else if !s.linkUp (s.evtLink f) then doAll [setF fEvtRingEn f 0, recordErr .host f eTIMEOUT (s.get fEvtTail f)] s
    else evtSent s f e n s := rfl

theorem evtSent_touches (s : State) (f : Nat) (e : Event) (n : Nat) : (evtSent s f e n).Touches [.out]
    (fun k => k.blk = .host ∧ k.inst = f) (fun _ => False) := by
  simp (maxDischargeDepth := 20) [evtSent, fEvtTail, fEvtPhase]

theorem evtToRing_touches (f : Nat) (e : Event) (n : Nat) : (evtToRing f e n).Touches [.hi, .out]
    (fun k => k.blk = .host ∧ k.inst = f) (fun _ => False) := fun s => by
  rw [evtToRing_eq]
  split
  · exact within_nil
  split
  · exact within_doAll (by simp (maxDischargeDepth := 20) [fEvtLost])
  split
  · exact within_doAll (by simp (maxDischargeDepth := 20) [fEvtRingEn])
  · exact ((evtSent_touches s f e n).mono (by simp) (fun _ h => h) fun _ h => h) s

theorem appendsEvents_pair {e g : Eff} (he : e.AppendsEvents) (hg : g.AppendsEvents) : (doAll [e, g]).AppendsEvents :=
  appendsEvents_doAll fun x hx => by
    simp only [List.mem_cons, List.not_mem_nil, or_false] at hx
    rcases hx with rfl | rfl
    · exact he
    · exact hg

theorem appendsEvents_addSat (f : Fld) (i n : Nat) : (addSat f i n).AppendsEvents :=
  appendsEvents_of_touches (ps := []) (R := fun _ => True) (A := fun _ => False) (by simp) (by simp)

theorem appendsEvents_setF (f : Fld) (i x : Nat) : (setF f i x).AppendsEvents :=
  appendsEvents_of_touches (ps := []) (R := fun _ => True) (A := fun _ => False) (by simp) (by simp)

theorem appendsEvents_evtToRing (f : Nat) (e : Event) (n : Nat) : (evtToRing f e n).AppendsEvents := fun s => by
  rw [Eff.run, evtToRing_eq]
  split
  · exact ⟨[], by simp⟩
  split
  · exact appendsEvents_pair (appendsEvents_addSat _ _ _) (appendsEvents_setEvt _ _ _) s
  split
  · exact appendsEvents_pair (appendsEvents_setF _ _ _) (appendsEvents_recordErr _ _ _ _) s
  · exact appendsEvents_of_touches (evtSent_touches s f e n) (by simp) s

/-- What was sent stays sent. -/
theorem mem_out_run {o : Out} (h : o ∈ s.out) (e : Eff) : o ∈ (e.run s).out := by
  refine s.applyAll_induct (fun t => o ∈ t.out) (e s) (fun t u _ ht => ?_) h
  rw [State.apply1_out]
  cases u <;> simp_all

theorem evtToRing_sends {f : Nat} {e : Event} {n : Nat} (hon : s.on fEvtRingEn f = true)
    (hroom : (s.get fEvtTail f + 1) % 2 ^ s.get fEvtRingLog f ≠ s.get fEvtHead f) (hup : s.linkUp (s.evtLink f) = true) :
    .hostWrite f (s.evtLink f) ((s.rd .host f 0x300).toNat + 32 * s.get fEvtTail f) (evtBytes e n s.seq (s.get fEvtPhase f)) ∈
      ((evtToRing f e n).run s).out ∧
    ((evtToRing f e n).run s).get fEvtTail f = (s.get fEvtTail f + 1) % 2 ^ s.get fEvtRingLog f := by
  have hlog : s.get fEvtRingLog f < 2 ^ 4 := get_lt s fEvtRingLog f
  have hsize : 2 ^ s.get fEvtRingLog f ≤ 2 ^ 15 := Nat.pow_le_pow_right (by decide) (by omega)
  have hmod : (s.get fEvtTail f + 1) % 2 ^ s.get fEvtRingLog f < 2 ^ 16 :=
    (Nat.mod_lt _ (Nat.two_pow_pos _)).trans_le (hsize.trans (by decide))
  have hrun : (evtToRing f e n).run s = (evtSent s f e n).run s := by
    rw [Eff.run, evtToRing_eq, if_neg (by simp [hon]), if_neg hroom, if_neg (by simp [hup])]
    rfl
  rw [hrun, evtSent, doAll_cons_run, doAll_cons_run]
  constructor
  · exact mem_out_run (by simp) _
  · rw [doAll_cons_run, doAll_cons_run, doAll_nil_run, (msixDue_touches f 0).get _ (by simp [fEvtTail]), whenE_run]
    split
    · rw [get_setF_ne (by simp [fEvtTail, fEvtPhase]) (by decide), get_setF_same (by decide)]
      exact Nat.mod_eq_of_lt hmod
    · rw [get_setF_same (by decide)]
      exact Nat.mod_eq_of_lt hmod

/-! ## The arbiter's events -/

/-- The rim cores of a saggar see IRQ_PEND.EVENT. -/
def irqEvent (own : Nat) : Eff :=
  forEach (List.range 32) fun c => whenE (fun s => s.get (fSaggar .rim) c = own) (rimPend c 1)

theorem irqEvent_touches (own : Nat) : (irqEvent own).Touches [] (fun k => k.blk = .rim) (fun _ => False) :=
  touches_forEach fun c _ => touches_whenE ((rimPend_touches c 1).mono (by simp) (fun _ h => h.1) fun _ h => h)

/-- DEATH_LAST shows the number of the DEATH event. -/
def deathSeq (e : Event) : Eff := whenE (fun s => e.blk = .crack && e.bit = 0 && s.on fDeathEvent 0)
  (fun s => setF ⟨.crack, 0x118, 32, 32⟩ 0 (s.seq % 2 ^ 32) s)

theorem deathSeq_touches (e : Event) : (deathSeq e).Touches [] (fun k => k.blk = .crack) (fun _ => False) :=
  touches_whenE fun s => touches_setF (by simp) s

/-- The entry of an event reaches the home ring and, with MIRROR_ALL, the root's. -/
def evtSend (home : Option Nat) (e : Event) (n : Nat) : Eff :=
  doAll [withSome home skip (fun f => evtToRing f e n),
    whenE (fun s => s.on fMirrorAll 0 && home ≠ some 0) (evtToRing 0 e n)]

theorem evtSend_touches (home : Option Nat) (e : Event) (n : Nat) :
    (evtSend home e n).Touches [.hi, .out] (fun k => k.blk = .host) (fun _ => False) := by
  have hring (f : Nat) := (evtToRing_touches f e n).mono (ps := [.hi, .out]) (A := fun _ => False) (R := fun k => k.blk = .host)
    (by simp) (fun _ h => h.1) (fun _ h => h)
  simp (maxDischargeDepth := 20) [evtSend, hring]

theorem effEventAdmit_run {i : Nat} {e : Event} (hr : s.running) (he : s.hi.evq[i]? = some e)
    (hb : s.behindGeom i e = false) : (effEventAdmit i).run s = (doAll [deathSeq e,
      withSome (s.evtInst e) skip (evtSend (s.home (s.get (fSaggar e.blk) e.inst)) e),
      irqEvent (s.get (fSaggar e.blk) e.inst)]).run
        ((s.apply1 (.hi fun h => { h with evq := h.evq.eraseIdx i })).apply1 .seq) := by
  simp only [Eff.run, effEventAdmit, he, fabLive_of_running hr, hb, Bool.not_true, Bool.false_eq_true, or_self, if_false]
  rfl

/-- The entry is written at TAIL of the home ring, whatever the root's mirror does. -/
theorem evtSend_home {f n : Nat} {e : Event} (hon : s.on fEvtRingEn f = true)
    (hroom : (s.get fEvtTail f + 1) % 2 ^ s.get fEvtRingLog f ≠ s.get fEvtHead f) (hup : s.linkUp (s.evtLink f) = true) :
    .hostWrite f (s.evtLink f) ((s.rd .host f 0x300).toNat + 32 * s.get fEvtTail f) (evtBytes e n s.seq (s.get fEvtPhase f)) ∈
      ((evtSend (some f) e n).run s).out ∧
    ((evtSend (some f) e n).run s).get fEvtTail f = (s.get fEvtTail f + 1) % 2 ^ s.get fEvtRingLog f := by
  obtain ⟨hsent, htail⟩ := evtToRing_sends (e := e) (n := n) hon hroom hup
  rw [evtSend, doAll_cons_run, doAll_cons_run, doAll_nil_run, withSome_some]
  refine ⟨mem_out_run hsent _, ?_⟩
  rw [whenE_run]
  split
  next hm =>
    have hf : f ≠ 0 := fun h => by simp [h] at hm
    rw [(evtToRing_touches 0 e n).get _ fun h => hf h.2, htail]
  next => exact htail

theorem effEventAdmit_touches (e : Event) (home n : Option Nat) (own : Nat) :
    (doAll [deathSeq e, withSome n skip (evtSend home e), irqEvent own]).Touches [.hi, .out] (fun _ => True)
      (fun _ => False) := by
  have h1 := (deathSeq_touches e).mono (ps := [.hi, .out]) (R := fun _ => True) (A := fun _ => False) (by simp) (by simp) (by simp)
  have h2 (n : Nat) := (evtSend_touches home e n).mono (ps := [.hi, .out]) (R := fun _ => True) (A := fun _ => False)
    (by simp) (by simp) (by simp)
  have h3 := (irqEvent_touches own).mono (ps := [.hi, .out]) (R := fun _ => True) (A := fun _ => False) (by simp) (by simp) (by simp)
  simp (maxDischargeDepth := 20) [h1, h2, h3]

theorem effEventAdmit_appends (e : Event) (home n : Option Nat) (own : Nat) :
    (doAll [deathSeq e, withSome n skip (evtSend home e), irqEvent own]).AppendsEvents := by
  refine appendsEvents_doAll fun x hx => ?_
  simp only [List.mem_cons, List.not_mem_nil, or_false] at hx
  rcases hx with rfl | rfl | rfl
  · exact appendsEvents_of_touches (deathSeq_touches e) (by simp)
  · refine appendsEvents_withSome fun m => appendsEvents_pair (appendsEvents_withSome fun f => ?_) (appendsEvents_whenE ?_)
    · exact appendsEvents_evtToRing f e m
    · exact appendsEvents_evtToRing 0 e m
  · exact appendsEvents_of_touches (irqEvent_touches own) (by simp)

/-- The home ring of an admitted event: the effects before the entry leave its registers, those after it its TAIL. -/
theorem effEventAdmit_home {e : Event} {f n own : Nat} (hon : s.on fEvtRingEn f = true)
    (hroom : (s.get fEvtTail f + 1) % 2 ^ s.get fEvtRingLog f ≠ s.get fEvtHead f) (hup : s.linkUp (s.evtLink f) = true) :
    .hostWrite f (s.evtLink f) ((s.rd .host f 0x300).toNat + 32 * s.get fEvtTail f) (evtBytes e n s.seq (s.get fEvtPhase f)) ∈
      ((irqEvent own).run ((evtSend (some f) e n).run ((deathSeq e).run s))).out ∧
    ((irqEvent own).run ((evtSend (some f) e n).run ((deathSeq e).run s))).get fEvtTail f =
      (s.get fEvtTail f + 1) % 2 ^ s.get fEvtRingLog f := by
  have hdeath := deathSeq_touches e
  have hget (g : Fld) (i : Nat) (hg : g.blk = .host) : ((deathSeq e).run s).get g i = s.get g i :=
    hdeath.get s (by simp [hg])
  have hlink : ((deathSeq e).run s).evtLink f = s.evtLink f := by
    simp only [State.evtLink, State.bind, hget fEvtRingLink 0 rfl, hget (fBind f) 0 rfl]
  have hseq : ((deathSeq e).run s).seq = s.seq := hdeath.same s .seq (by simp) (by simp) (by simp)
  have hsend := evtSend_home (s := (deathSeq e).run s) (f := f) (n := n) (e := e)
    ((on_congr (hget fEvtRingEn f rfl)).trans hon)
    (by rw [hget fEvtTail f rfl, hget fEvtRingLog f rfl, hget fEvtHead f rfl]; exact hroom)
    (by rw [hlink]; exact (on_congr (hget fLinkUp _ rfl)).trans hup)
  rw [hlink, hget fEvtTail f rfl, hget fEvtRingLog f rfl, hget fEvtPhase f rfl, hseq, hdeath.rd s (by simp)] at hsend
  exact ⟨mem_out_run hsend.1 _, ((irqEvent_touches own).get _ (by simp [fEvtTail])).trans hsend.2⟩

/-! ## Signals to host semaphores -/

/-- A host semaphore is raised: the count held at its largest value, a carry recorded, the pending bit set. -/
def hsemRaise (f : Nat) (g : HostSig) : Eff :=
  doAll [whenE (fun s => 2 ^ 32 ≤ s.get (fHsemCount g.sem) f + g.count) (recordErr .sem f eSATURATE g.sem),
    addSat (fHsemCount g.sem) f g.count,
    whenE (fun s => !s.on (fHsemPending g.sem) f) (doAll [setF (fHsemPending g.sem) f 1,
      whenE (fun s => s.on (fHsemIrq g.sem) f) (msixDue f 2)])]

theorem hsemRaise_touches (f : Nat) (g : HostSig) : (hsemRaise f g).Touches [.hi, .out] (fun _ => True) (fun _ => False) := by
  simp (maxDischargeDepth := 20) [hsemRaise]

theorem hsemRaise_count (s : State) (f : Nat) (g : HostSig) : ((hsemRaise f g).run s).get (fHsemCount g.sem) f =
    min (s.get (fHsemCount g.sem) f + g.count) (2 ^ 32 - 1) := by
  have herr : (whenE (fun s => 2 ^ 32 ≤ s.get (fHsemCount g.sem) f + g.count) (recordErr .sem f eSATURATE g.sem)).Touches [.hi]
      (fun k => k.off = offErr ∨ k.off = offEvtStatus) (fun _ => False) := by simp (maxDischargeDepth := 20)
  have hpend : (whenE (fun s => !s.on (fHsemPending g.sem) f) (doAll [setF (fHsemPending g.sem) f 1,
      whenE (fun s => s.on (fHsemIrq g.sem) f) (msixDue f 2)])).Touches [.out]
      (fun k => k.off = 0x108 ∨ k.blk = .host) (fun _ => False) := by
    simp (maxDischargeDepth := 20) [fHsemPending]
  rw [hsemRaise, doAll_cons_run, doAll_cons_run, doAll_cons_run, doAll_nil_run,
    hpend.get _ (by simp [fHsemCount]; omega), get_addSat_same (by simp [fHsemCount]),
    herr.get _ (by simp only [fHsemCount, offErr, offEvtStatus]; omega)]
  rfl

theorem hsemRaise_pending {f : Nat} {g : HostSig} (hg : g.sem < 64) :
    ((hsemRaise f g).run s).on (fHsemPending g.sem) f = true := by
  rw [hsemRaise, doAll_cons_run, doAll_cons_run, doAll_cons_run, doAll_nil_run, whenE_run]
  split
  · have hirq : (whenE (fun s => s.on (fHsemIrq g.sem) f) (msixDue f 2)).Touches [.out] (fun k => k.blk = .host)
        (fun _ => False) := by simp (maxDischargeDepth := 20)
    rw [doAll_cons_run, doAll_cons_run, doAll_nil_run, hirq.on _ (by simp [fHsemPending]),
      on_setF_same (by simp [fHsemPending]; omega)]
    simp [fHsemPending]
  next h => simpa using h

theorem hsemRaise_signals (s : State) (f : Nat) (g : HostSig) : ((hsemRaise f g).run s).hi.signals = s.hi.signals := by
  have hrest : (doAll [addSat (fHsemCount g.sem) f g.count,
      whenE (fun s => !s.on (fHsemPending g.sem) f) (doAll [setF (fHsemPending g.sem) f 1,
        whenE (fun s => s.on (fHsemIrq g.sem) f) (msixDue f 2)])]).Touches [.out] (fun _ => True) (fun _ => False) := by
    simp (maxDischargeDepth := 20)
  rw [hsemRaise, doAll_cons_run, (hrest.same _ .hi (by simp) (by simp) (by simp) : _ = _), whenE_run]
  split
  · obtain ⟨new, hnew⟩ := recordErr_hi s .sem f eSATURATE g.sem
    rw [hnew]
  · rfl

/-- The state in which a signal acts: it waits no more. -/
def State.signalTaken (s : State) (i : Nat) : State := s.apply1 (.hi fun h => { h with signals := h.signals.eraseIdx i })

theorem effHostSem_run_of_home {i f : Nat} {g : HostSig} (hr : s.running) (hg : s.hi.signals[i]? = some g)
    (hh : s.home (s.kilnSag g.kiln none) = some f) :
    (effHostSem i).run s = (hsemRaise f g).run ((s.signalTaken i).apply1 .seq) := by
  simp only [Eff.run, effHostSem, hg, fabLive_of_running hr, hh, Bool.not_true, Bool.false_eq_true, if_false]
  exact (doAll_cons_run ..).trans ((doAll_cons_run ..).trans (doAll_cons_run ..))

theorem effHostSem_run_of_no_home {i : Nat} {g : HostSig} (hr : s.running) (hg : s.hi.signals[i]? = some g)
    (hh : s.home (s.kilnSag g.kiln none) = none) :
    (effHostSem i).run s = (addSat fHsemDrop 0 1).run (s.signalTaken i) := by
  simp only [Eff.run, effHostSem, hg, fabLive_of_running hr, hh, Bool.not_true, Bool.false_eq_true, if_false]
  exact (doAll_cons_run ..).trans (doAll_cons_run ..)

theorem signalTaken_only {qs : List Component} (i : Nat) (h : Component.hi ∈ qs) : OnlyParts qs s (s.signalTaken i) := by
  have htouch : Eff.Touches [.hi] (fun _ => False) (fun _ => False)
      (fun _ => [Upd.hi fun h => { h with signals := h.signals.eraseIdx i }]) := touches_upd ⟨by simp [Upd.parts], trivial⟩
  exact htouch.only s (by simpa using h) (.inr fun _ => id) (.inr fun _ => id)

/-- Settles O16: that a dropped signal takes no number is log entry 39; the root's copy of an event (MIRROR_ALL) and a full ring
are outside the statement. -/
theorem eventsAndHostSignalsAreAdmitted : Obligations.EventsAndHostSignalsAreAdmitted := by
  refine ⟨?_, ?_⟩
  · intro s i e hr he hb
    refine ⟨_, rfl, ?_⟩
    rw [effEventAdmit_run hr he hb]
    have htouch := effEventAdmit_touches e (s.home (s.get (fSaggar e.blk) e.inst)) (s.evtInst e) (s.get (fSaggar e.blk) e.inst)
    have htaken : Eff.Touches [.hi, .seq] (fun _ => False) (fun _ => False)
        (fun _ => [Upd.hi fun h => { h with evq := h.evq.eraseIdx i }, Upd.seq]) :=
      touches_list (by simp [Upd.Within, Upd.parts])
    refine ⟨?_, ?_, ?_, fun f r hhome hinst hon hroom hup => ?_⟩
    · exact (htouch.same _ .seq (by simp) (by simp) (by simp)).trans rfl
    · exact effEventAdmit_appends e _ _ _ _
    · exact (htaken.only s (by simp) (.inr fun _ => id) (.inr fun _ => id)).trans
        (htouch.only _ (by simp) (.inl (by simp)) (.inr fun _ => id))
    · rw [hhome, hinst, doAll_cons_run, doAll_cons_run, doAll_cons_run, doAll_nil_run, withSome_some]
      exact effEventAdmit_home (s := (s.apply1 (.hi fun h => { h with evq := h.evq.eraseIdx i })).apply1 .seq) hon hroom hup
  · intro s i g hr hg hsem
    refine ⟨_, rfl, ?_⟩
    cases hh : s.home (s.kilnSag g.kiln none) with
    | some f =>
      rw [effHostSem_run_of_home hr hg hh]
      have htouch := hsemRaise_touches f g
      refine ⟨hsemRaise_signals _ f g, fun f' hf => ?_, fun hc => by simp at hc, ?_⟩
      · obtain rfl : f = f' := by simpa using hf
        exact ⟨htouch.same _ .seq (by simp) (by simp) (by simp), hsemRaise_count _ f g, hsemRaise_pending hsem⟩
      · have hnum : Eff.Touches [.seq] (fun _ => False) (fun _ => False) (fun _ => [Upd.seq]) :=
          touches_upd ⟨by simp [Upd.parts], trivial⟩
        exact ((signalTaken_only i (by simp)).trans (hnum.only _ (by simp) (.inr fun _ => id) (.inr fun _ => id))).trans
          (htouch.only _ (by simp) (.inl (by simp)) (.inr fun _ => id))
    | none =>
      rw [effHostSem_run_of_no_home hr hg hh]
      have hdrop : (addSat fHsemDrop 0 1).Touches [] (fun _ => True) (fun _ => False) := touches_addSat trivial
      refine ⟨by rw [(hdrop.same _ .hi (by simp) (by simp) (by simp) : _ = _)]; rfl, fun f hf => by simp at hf, fun _ => ⟨?_, ?_⟩, ?_⟩
      · exact hdrop.same _ .seq (by simp) (by simp) (by simp)
      · exact get_addSat_same (by decide)
      · exact (signalTaken_only i (by simp)).trans (hdrop.only _ (by simp) (.inl (by simp)) (.inr fun _ => id))

end Sys2Proof.Machine
end

section
/-! PROOFS. Functions and host links (chapter 02): binding, Function Level Reset, a virtual function that leaves (R40, R58); host
links down, up and reset, and MSI-X unmasked (R62, R66, R476, R480, R482). -/

namespace Sys2Proof.Machine

variable {s : State} {src : Src} {v : W64} {ps : List Component} {R : RK → Prop} {A : Aux → Prop}

/-! ## What a list of effects keeps and reaches -/

/-- What each effect of a list keeps, the list keeps. -/
theorem forEach_keep {β : Type} {l : List β} {k : β → Eff} {P : State → Prop}
    (h : ∀ b ∈ l, ∀ s, P s → P ((k b).run s)) : ∀ s, P s → P ((forEach l k).run s) := by
  induction l with
  | nil => exact fun s hs => hs
  | cons b l ih =>
    intro s hs
    rw [forEach_cons_run]
    exact ih (fun b hb => h b (List.mem_cons_of_mem _ hb)) _ (h b (List.mem_cons_self ..) s hs)

/-- What one effect of a list makes so, and the others keep so while Q holds, is so at the list's end. -/
theorem forEach_reach {β : Type} {l : List β} {k : β → Eff} {P Q : State → Prop} {b : β} (hb : b ∈ l)
    (hQ : ∀ c ∈ l, ∀ s, Q s → Q ((k c).run s)) (hstep : ∀ s, Q s → P ((k b).run s))
    (hP : ∀ c ∈ l, ∀ s, Q s → P s → P ((k c).run s)) : ∀ s, Q s → P ((forEach l k).run s) := by
  induction l with
  | nil => simp at hb
  | cons c l ih =>
    intro s hs
    rw [forEach_cons_run]
    have hQ' := hQ c (List.mem_cons_self ..) s hs
    rcases List.mem_cons.1 hb with rfl | hb
    · refine (forEach_keep (P := fun t => Q t ∧ P t) (fun d hd t ht => ?_) _ ⟨hQ', hstep s hs⟩).2
      have hd := List.mem_cons_of_mem b hd
      exact ⟨hQ d hd t ht.1, hP d hd t ht.1 ht.2⟩
    · exact ih hb (fun d hd => hQ d (List.mem_cons_of_mem _ hd)) (fun d hd => hP d (List.mem_cons_of_mem _ hd)) _ hQ'

theorem get_regClear_same (s : State) {p : RK → Bool} {f : Fld} {i : Nat} (h : p ⟨f.blk, i, f.off⟩ = true)
    (h0 : resetVal ⟨f.blk, i, f.off⟩ = 0) : (s.apply1 (.regClear p)).get f i = 0 := by
  simp [State.get, h, h0, getBits]

/-! ## Function Level Reset -/

theorem hDisable_touches (p : Nat) : (hDisable p).Touches []
    (fun k => k.blk = .tdma ∧ k.inst = p ∧ (k.off = 0x118 ∨ k.off = offState)) (fun k => k = ⟨.hTail, p, 0⟩) := fun s => by
  unfold hDisable
  exact within_doAll (by simp (maxDischargeDepth := 20) [fHEn, fRState, offState])

/-- The rings of a function disabled. -/
def ringsOff (f : Nat) : Eff := forEach (List.range 4) fun n => doAll [setF (fRingEnable n) f 0, setAx ⟨.ringFetch, f, n⟩ 0]

/-- Its fetched entries discarded, the results of its commands taken away. -/
def commandsGone (f : Nat) : Eff := modHi fun h => { h with
  fetched := h.fetched.filter fun x => x.func ≠ f
  running := h.running.map fun r => if r.ctx.func = f then { r with post := false } else r }

/-- Its mailboxes and host semaphores as after reset. -/
def boxesCleared (f : Nat) : Eff := fun _ =>
  [.regClear fun k => (k.blk = .host && k.inst = 64 + f && 0x100 ≤ k.off && k.off < 0x900) ||
    (k.blk = .sem && k.inst = f && 0x100 ≤ k.off)]

/-- Ring 1 of every tile disabled, with the root's reset. -/
def tileRingsOff (f : Nat) : Eff := whenE (fun _ => f = 0) (look (fun s => s.regs.filterMap fun e =>
  if e.1.blk = .tdma && e.1.off = 0x118 then some e.1.inst else none) fun l => forEach l.dedup hDisable)

theorem flrEffect_eq (f : Nat) : flrEffect f =
    doAll [ringsOff f, setF fEvtRingEn f 0, commandsGone f, boxesCleared f, msixClear f, tileRingsOff f] := rfl

theorem ringsOff_touches (f : Nat) : (ringsOff f).Touches []
    (fun k => k.blk = .host ∧ k.inst = f ∧ k.off < 0x300) (fun k => k.kind = .ringFetch ∧ k.a = f) :=
  touches_forEach fun n hn => by
    have hn := List.mem_range.1 hn
    have hoff : (fRingEnable n).off < 0x300 := by simp only [fRingEnable]; omega
    exact touches_doAll_cons (touches_setF ⟨rfl, rfl, hoff⟩) (touches_doAll_cons (touches_setAx ⟨rfl, rfl⟩) touches_doAll_nil)

theorem boxesCleared_touches (f : Nat) : (boxesCleared f).Touches []
    (fun k => (k.blk = .host ∧ k.inst = 64 + f) ∨ (k.blk = .sem ∧ k.inst = f)) (fun _ => False) :=
  touches_upd ⟨by simp [Upd.parts], fun k hk => by simp at hk; tauto⟩

theorem msixClear_touches (f : Nat) : (msixClear f).Touches [] (fun k => k.blk = .host ∧ k.inst = f ∧ 0x800 ≤ k.off)
    (fun k => (k.kind = .msixEn ∨ k.kind = .msixMask) ∧ k.a = f) := touches_list fun u hu => by
  simp only [List.mem_cons, List.not_mem_nil, or_false] at hu
  rcases hu with rfl | rfl
  · exact ⟨by simp [Upd.parts], fun k hk => by simp at hk; tauto⟩
  · exact ⟨by simp [Upd.parts], fun k hk => by simpa using hk⟩

theorem tileRingsOff_touches (f : Nat) : (tileRingsOff f).Touches [] (fun k => f = 0 ∧ k.blk = .tdma)
    (fun k => f = 0 ∧ k.kind = .hTail) := fun s => by
  unfold tileRingsOff
  by_cases hf : f = 0
  · refine (touches_whenE (touches_look fun l => touches_forEach fun p _ => ?_)) s
    exact (hDisable_touches p).mono (by simp) (fun k h => ⟨hf, h.1⟩) (fun k h => ⟨hf, by rw [h]⟩)
  · simp [whenE, hf]

theorem commandsGone_touches (f : Nat) : (commandsGone f).Touches [.hi] (fun _ => False) (fun _ => False) := by
  simp [commandsGone]

/-- What a reset of function f may change. -/
def flrRegs (f : Nat) (k : RK) : Prop :=
  (k.blk = .host ∧ (k.inst = f ∨ k.inst = 64 + f)) ∨ (k.blk = .sem ∧ k.inst = f) ∨ (f = 0 ∧ k.blk = .tdma)
def flrAux (f : Nat) (k : Aux) : Prop :=
  (k.a = f ∧ k.kind ∈ [.ringTail, .ringFetch, .ringLast, .flrWait, .msixEn, .msixMask]) ∨ (f = 0 ∧ k.kind = .hTail)

theorem flrEffect_touches (f : Nat) : (flrEffect f).Touches [.hi] (flrRegs f) (flrAux f) := by
  have h1 := (ringsOff_touches f).mono (ps := [.hi]) (R := flrRegs f) (A := flrAux f) (by simp)
    (fun k h => .inl ⟨h.1, .inl h.2.1⟩) (fun k h => .inl ⟨h.2, by simp [h.1]⟩)
  have h2 := (commandsGone_touches f).mono (ps := [.hi]) (R := flrRegs f) (A := flrAux f) (by simp) (by simp) (by simp)
  have h3 := (boxesCleared_touches f).mono (ps := [.hi]) (R := flrRegs f) (A := flrAux f) (by simp)
    (fun k h => h.elim (fun h => .inl ⟨h.1, .inr h.2⟩) fun h => .inr (.inl h)) (by simp)
  have h4 := (msixClear_touches f).mono (ps := [.hi]) (R := flrRegs f) (A := flrAux f) (by simp)
    (fun k h => .inl ⟨h.1, .inl h.2.1⟩) (fun k h => .inl ⟨h.2, by rcases h.1 with h | h <;> simp [h]⟩)
  have h5 := (tileRingsOff_touches f).mono (ps := [.hi]) (R := flrRegs f) (A := flrAux f) (by simp)
    (fun k h => .inr (.inr h)) (fun k h => .inr h)
  have h6 : flrRegs f ⟨fEvtRingEn.blk, f, fEvtRingEn.off⟩ := .inl ⟨rfl, .inl rfl⟩
  rw [flrEffect_eq]
  simp (maxDischargeDepth := 20) [h1, h2, h3, h4, h5, h6]

/-- What a reset of function f does after its command rings are off, in two parts. -/
def flrHost (f : Nat) : Eff := doAll [setF fEvtRingEn f 0, commandsGone f]
def flrRest (f : Nat) : Eff := doAll [msixClear f, tileRingsOff f]

theorem flrEffect_run (s : State) (f : Nat) : (flrEffect f).run s =
    (flrRest f).run ((boxesCleared f).run ((commandsGone f).run ((setF fEvtRingEn f 0).run ((ringsOff f).run s)))) := by
  rw [flrEffect_eq, doAll_cons_run, doAll_cons_run, doAll_cons_run, doAll_cons_run]
  rfl

theorem flrRest_touches (f : Nat) : (flrRest f).Touches [] (fun k => (k.blk = .host ∧ k.inst = f ∧ 0x800 ≤ k.off) ∨ k.blk = .tdma)
    (fun _ => True) := by
  have h1 := (msixClear_touches f).mono (ps := []) (A := fun _ => True) (by simp)
    (fun k h => (.inl h : (k.blk = .host ∧ k.inst = f ∧ 0x800 ≤ k.off) ∨ k.blk = .tdma)) (by simp)
  have h2 := (tileRingsOff_touches f).mono (ps := []) (A := fun _ => True) (by simp)
    (fun k h => (.inr h.2 : (k.blk = .host ∧ k.inst = f ∧ 0x800 ≤ k.off) ∨ k.blk = .tdma)) (by simp)
  simp (maxDischargeDepth := 20) [flrRest, h1, h2]

theorem ringsOff_ring {f k : Nat} (hk : k < 4) (s : State) : ((ringsOff f).run s).on (fRingEnable k) f = false := by
  have hset (n : Nat) (t : State) : ((doAll [setF (fRingEnable n) f 0, setAx ⟨.ringFetch, f, n⟩ 0]).run t).get (fRingEnable k) f =
      ((setF (fRingEnable n) f 0).run t).get (fRingEnable k) f := by
    rw [doAll_cons_run, doAll_cons_run, doAll_nil_run, setAx_get]
  refine forEach_reach (P := fun t => t.on (fRingEnable k) f = false) (Q := fun _ => True) (b := k) (by simpa using hk)
    (fun _ _ _ _ => trivial) (fun t _ => ?_) (fun n hn t _ ht => ?_) s trivial
  · rw [on_eq_false_iff, hset, get_setF_same (by simp [fRingEnable])]
    simp
  · by_cases hnk : n = k
    · rw [on_eq_false_iff, hset, hnk, get_setF_same (by simp [fRingEnable])]
      simp
    · rw [on_eq_false_iff, hset, get_setF_off_ne (by simp only [fRingEnable]; omega)]
      exact on_eq_false_iff.1 ht

/-- The registers of function f below the MSI-X table stand as its rings' end left them. -/
theorem flrEffect_host_get {f : Nat} (s : State) {g : Fld} (hb : g.blk = .host) (ho : g.off < 0x800) :
    ((flrEffect f).run s).get g f = ((setF fEvtRingEn f 0).run ((ringsOff f).run s)).get g f := by
  rw [flrEffect_run, (flrRest_touches f).get _ (by simp [hb]; omega), (boxesCleared_touches f).get _ (by simp [hb]),
    (commandsGone_touches f).get _ id]

theorem flrEffect_ring {f k : Nat} (hk : k < 4) (s : State) : ((flrEffect f).run s).on (fRingEnable k) f = false := by
  rw [on_eq_false_iff, flrEffect_host_get s rfl (by simp only [fRingEnable]; omega),
    get_setF_off_ne (by simp only [fRingEnable, fEvtRingEn]; omega)]
  exact on_eq_false_iff.1 (ringsOff_ring hk s)

theorem flrEffect_evtRing (s : State) (f : Nat) : ((flrEffect f).run s).on fEvtRingEn f = false := by
  rw [on_eq_false_iff, flrEffect_host_get s rfl (by decide), get_setF_same (by decide)]
  simp

theorem flrEffect_hi (s : State) (f : Nat) : ((flrEffect f).run s).hi = { s.hi with
    fetched := s.hi.fetched.filter fun x => x.func ≠ f
    running := s.hi.running.map fun r => if r.ctx.func = f then { r with post := false } else r } := by
  have hpre : ((setF fEvtRingEn f 0).run ((ringsOff f).run s)).hi = s.hi := by
    rw [setF_run, State.apply1_hi]
    exact (ringsOff_touches f).same s .hi (by simp) (by simp) (by simp)
  rw [flrEffect_run, ((flrRest_touches f).same _ .hi (by simp) (by simp) (by simp) : _ = _),
    ((boxesCleared_touches f).same _ .hi (by simp) (by simp) (by simp) : _ = _), ← hpre]
  rfl

/-- The registers of a function's mailboxes and host semaphores are as after reset. -/
theorem flrEffect_box {f i : Nat} (s : State) {g : Fld}
    (h : (g.blk = .host ∧ i = 64 + f ∧ 0x100 ≤ g.off ∧ g.off < 0x900) ∨ (g.blk = .sem ∧ i = f ∧ 0x100 ≤ g.off)) :
    ((flrEffect f).run s).get g i = 0 := by
  have hrest : ¬ ((g.blk = .host ∧ i = f ∧ 0x800 ≤ g.off) ∨ g.blk = .tdma) := by
    rcases h with ⟨hb, hi, -⟩ | ⟨hb, -⟩
    · rw [hb]; simp; omega
    · rw [hb]; simp
  rw [flrEffect_run, (flrRest_touches f).get _ hrest]
  refine get_regClear_same _ ?_ ?_
  · rcases h with ⟨hb, rfl, hlo, hhi⟩ | ⟨hb, rfl, hlo⟩ <;> simp_all
  · rcases h with ⟨hb, rfl, -⟩ | ⟨hb, -⟩
    · rw [hb]; simp [resetVal]
    · rw [hb]; rfl

/-! ## A virtual function that leaves -/

/-- The registers and scalars of a function that leaves as after reset. -/
def leaveCleared (f : Nat) : Eff := fun _ =>
  [.regClear fun k => ((k.blk = .host && (k.inst = f || k.inst = 64 + f)) || (k.blk = .sem && k.inst = f)) &&
      k.off ≠ offSaggar && k.off ≠ offSeq,
    .auxClear fun a => (a.kind = .ringTail || a.kind = .ringFetch || a.kind = .ringLast || a.kind = .flrWait) && a.a = f]

theorem leaveCleared_touches (f : Nat) : (leaveCleared f).Touches [] (flrRegs f) (flrAux f) := touches_list fun u hu => by
  simp only [List.mem_cons, List.not_mem_nil, or_false] at hu
  rcases hu with rfl | rfl
  · exact ⟨by simp [Upd.parts], fun k hk => by simp at hk; unfold flrRegs; tauto⟩
  · exact ⟨by simp [Upd.parts], fun k hk => by simp at hk; exact .inl ⟨hk.2, by simp; tauto⟩⟩

theorem vfLeave_run (s : State) (f : Nat) : (vfLeave f).run s = (leaveCleared f).run ((flrEffect f).run s) := by
  show (doAll [flrEffect f, leaveCleared f]).run s = _
  rw [doAll_cons_run, doAll_cons_run, doAll_nil_run]

theorem vfLeave_touches (f : Nat) : (vfLeave f).Touches [.hi] (flrRegs f) (flrAux f) :=
  touches_doAll_cons (flrEffect_touches f) (touches_doAll_cons
    ((leaveCleared_touches f).mono (by simp) (fun _ h => h) fun _ h => h) touches_doAll_nil)

theorem vfLeave_ring {f k : Nat} (hk : k < 4) (s : State) : ((vfLeave f).run s).on (fRingEnable k) f = false := by
  have hclear (t : State) : ((leaveCleared f).run t).get (fRingEnable k) f = 0 := by
    have haux : Eff.Touches [] (fun _ => False) (fun _ => True) (fun _ => [Upd.auxClear fun a =>
        (a.kind = .ringTail || a.kind = .ringFetch || a.kind = .ringLast || a.kind = .flrWait) && a.a = f]) :=
      touches_upd ⟨by simp [Upd.parts], fun _ _ => trivial⟩
    refine (haux.get _ id).trans (get_regClear_same t ?_ ?_)
    · have hoff : 0x208 + 0x20 * k ≠ offSaggar ∧ 0x208 + 0x20 * k ≠ offSeq := by simp only [offSaggar, offSeq]; omega
      simp [fRingEnable, hoff]
    · simp only [fRingEnable, resetVal]; rw [if_neg (by omega)]
  rw [vfLeave_run, on_eq_false_iff, hclear]

theorem vfLeave_fetched (s : State) (f : Nat) :
    ((vfLeave f).run s).hi.fetched = s.hi.fetched.filter fun x => x.func ≠ f := by
  rw [vfLeave_run, ((leaveCleared_touches f).same _ .hi (by simp) (by simp) (by simp) : _ = _), flrEffect_hi]

/-- The functions of a list leave: each has no ring and no fetched entry left. -/
theorem forEach_vfLeave_gone {l : List Nat} {f : Nat} (hf : f ∈ l) (hl : ∀ g ∈ l, g ≠ 0 ∧ g < 64) (s : State) :
    (∀ k, k < 4 → ((forEach l vfLeave).run s).on (fRingEnable k) f = false) ∧
      ∀ x ∈ ((forEach l vfLeave).run s).hi.fetched, x.func ≠ f := by
  refine forEach_reach (P := fun t => (∀ k, k < 4 → t.on (fRingEnable k) f = false) ∧ ∀ x ∈ t.hi.fetched, x.func ≠ f)
    (Q := fun _ => True) hf (fun _ _ _ _ => trivial) (fun t _ => ?_) (fun g hg t _ ht => ?_) s trivial
  · refine ⟨fun k hk => vfLeave_ring hk t, fun x hx => ?_⟩
    rw [vfLeave_fetched] at hx
    simpa using (List.mem_filter.1 hx).2
  · by_cases hgf : g = f
    · subst hgf
      refine ⟨fun k hk => vfLeave_ring hk t, fun x hx => ?_⟩
      rw [vfLeave_fetched] at hx
      exact ht.2 x (List.mem_of_mem_filter hx)
    · have hf64 := (hl f hf).2
      refine ⟨fun k hk => ?_, fun x hx => ?_⟩
      · rw [(vfLeave_touches g).on t (by simp [flrRegs, fRingEnable]; omega)]
        exact ht.1 k hk
      · rw [vfLeave_fetched] at hx
        exact ht.2 x (List.mem_of_mem_filter hx)

theorem forEach_vfLeave_touches {l : List Nat} (hl : ∀ g ∈ l, g ≠ 0 ∧ g < 64) : (forEach l vfLeave).Touches [.hi]
    (fun k => (k.blk = .host ∧ k.inst < 128 ∧ k.inst ≠ 0) ∨ k.blk = .sem) (fun k => k.a ≠ 0) :=
  touches_forEach fun g hg => (vfLeave_touches g).mono (by simp)
    (fun k h => by
      obtain ⟨h0, h64⟩ := hl g hg
      rcases h with ⟨hb, hi⟩ | ⟨hb, -⟩ | ⟨hz, -⟩
      · exact .inl ⟨hb, by omega, by omega⟩
      · exact .inr hb
      · exact absurd hz h0)
    (fun k h => h.elim (fun h => h.1 ▸ (hl g hg).1) fun h => absurd h.1 (hl g hg).1)

/-- NumVFs and VF Enable of a link as written. -/
def vfWord (n : Nat) (en : Bool) : W64 := BitVec.ofNat 64 (n % 64 + if en then 256 else 0)

/-- The functions of link h that are active no more once its NumVFs and VF Enable are written. -/
def State.vfsGone (s : State) (h n : Nat) (en : Bool) : List Nat :=
  (s.vfsOn h).filter fun f => !((setReg .host (256 + h) 0x110 (vfWord n en)).run s).active f

theorem setVfs_run (s : State) (h n : Nat) (en : Bool) : (setVfs h n en).run s =
    (forEach (s.vfsGone h n en) vfLeave).run ((setReg .host (256 + h) 0x110 (vfWord n en)).run s) := by
  show (doAll [setReg .host (256 + h) 0x110 (vfWord n en),
    look (fun t => (s.vfsOn h).filter fun f => !t.active f) fun l => forEach l vfLeave]).run s = _
  rw [doAll_cons_run, doAll_cons_run, doAll_nil_run]
  rfl

theorem vfsGone_range {h n : Nat} {en : Bool} : ∀ g ∈ s.vfsGone h n en, g ≠ 0 ∧ g < 64 := fun g hg => by
  have := List.mem_of_mem_filter hg
  simp only [State.vfsOn, List.mem_filter, List.mem_range, Bool.and_eq_true, decide_eq_true_eq] at this
  exact ⟨this.2.1.1, this.1⟩

theorem vfWord_get {h n : Nat} {en : Bool} (hn : n < 64) :
    ((setReg .host (256 + h) 0x110 (vfWord n en)).run s).get fNumVfs (256 + h) = n ∧
    ((setReg .host (256 + h) 0x110 (vfWord n en)).run s).on fVfEnable (256 + h) = en := by
  have hlt : n % 64 + (if en then 256 else 0) < 2 ^ 64 := by split <;> omega
  simp only [State.on, State.get, setReg_run, State.rd_apply1, fNumVfs, fVfEnable, if_true, vfWord, getBits_ofNat_of_lt hlt]
  cases en <;> simp <;> omega

/-- Settles O18. -/
theorem functionsBindChangeAndReset : Obligations.FunctionsBindChangeAndReset := by
  refine ⟨?_, ?_, ?_⟩
  · intro s src v hl hbind
    have hrun : exec (.funcBindWrite src v) s = .next ((setReg .host 0 0x108 (v &&& ~~~1)).run (s.numbered .host 0)) := by
      have hstay : ((List.range 64).any fun f => f ≠ 0 && s.active f && getBits v f 1 ≠ s.bind f) = false := by
        rw [List.any_eq_false]
        intro f hf
        have := hbind f (List.mem_range.1 hf)
        simp only [Bool.and_eq_true, decide_eq_true_eq, not_and, not_not, and_imp]
        exact this
      show Host.Outcome.next _ = _
      rw [effFuncBind, write_accepted hl (by decide) (by simp only [hstay]; rfl)]
      rfl
    exact ⟨_, hrun, load_frame (s := s) (blk := .host) (key := 0) (off := 0x108) (fun _ => v &&& ~~~1) (by decide)⟩
  · intro s h n en hh hh2 hup hn
    have hrun : (effVfChange h n en).run s = (forEach (s.vfsGone h n en) vfLeave).run
        ((setReg .host (256 + h) 0x110 (vfWord n en)).run s) := by
      rw [effVfChange, whenE_run, if_pos (by simp [hh, hh2, hup, pcieCaps]; omega), setVfs_run]
    refine ⟨_, rfl, ?_⟩
    rw [hrun]
    have hgone := vfsGone_range (s := s) (h := h) (n := n) (en := en)
    have htouch := forEach_vfLeave_touches hgone
    have hset : (setReg .host (256 + h) 0x110 (vfWord n en)).Touches [] (fun k => k = ⟨.host, 256 + h, 0x110⟩) (fun _ => False) :=
      touches_setReg rfl
    obtain ⟨hnum, hen⟩ := vfWord_get (s := s) (h := h) (en := en) hn
    refine ⟨?_, ?_, fun f hf hf0 ha hb hleave => ?_, ?_⟩
    · rw [htouch.get _ (by simp [fNumVfs]; omega), hnum]
    · rw [htouch.on _ (by simp [fVfEnable]; omega), hen]
    · have hbind : ((setReg .host (256 + h) 0x110 (vfWord n en)).run s).bind f = h :=
        (hset.get s (f := fBind f) (by simp [fBind])).trans hb
      have hoff : ((setReg .host (256 + h) 0x110 (vfWord n en)).run s).active f = false := by
        unfold State.active
        rw [hbind, hnum, hen]
        rcases hleave with rfl | hlt
        · simp [hf0]
        · simp [hf0, hlt]
      have hmem : f ∈ s.vfsGone h n en := by
        simp only [State.vfsGone, State.vfsOn, List.mem_filter, List.mem_range, hoff]
        simp [hf, hf0, ha, hb]
      refine ⟨?_, forEach_vfLeave_gone hmem hgone _⟩
      have hkeep (g : Fld) (i : Nat) (hg : g.blk = .host) (hi : i = 0 ∨ 128 ≤ i) :
          ((forEach (s.vfsGone h n en) vfLeave).run ((setReg .host (256 + h) 0x110 (vfWord n en)).run s)).get g i =
            ((setReg .host (256 + h) 0x110 (vfWord n en)).run s).get g i := htouch.get _ (by simp [hg]; omega)
      unfold State.active State.bind State.on at hoff ⊢
      rw [hkeep (fBind f) 0 rfl (.inl rfl), hkeep fVfEnable _ rfl (.inr (by omega)), hkeep fNumVfs _ rfl (.inr (by omega))]
      exact hoff
    · exact (hset.only s (by simp) (.inl (by simp)) (.inr fun _ => id)).trans
        (htouch.only _ (by simp) (.inl (by simp)) (.inl (by simp)))
  · intro s f hh hf ha hr
    have hrun : (effFlr f).run s = (flrEffect f).run s := by
      simp only [Eff.run, effFlr, hh, Nat.not_le.2 hf, ha, hr]
      simp
    refine ⟨_, rfl, ?_⟩
    rw [hrun]
    refine ⟨fun k hk => flrEffect_ring hk s, flrEffect_evtRing s f, fun x hx => ?_, fun r hx hf => ?_, fun m hm => ⟨?_, ?_, ?_, ?_⟩, ?_, ?_⟩
    · rw [flrEffect_hi] at hx
      simpa using (List.mem_filter.1 hx).2
    · rw [flrEffect_hi] at hx
      obtain ⟨r', -, rfl⟩ := List.mem_map.1 hx
      by_cases h : r'.ctx.func = f
      · rw [if_pos h]
      · rw [if_neg h] at hf
        exact absurd hf h
    · exact on_eq_false_iff.2 (flrEffect_box s (.inl ⟨rfl, rfl, by simp [fMbxValid], by simp [fMbxValid]; omega⟩))
    · exact on_eq_false_iff.2 (flrEffect_box s (.inl ⟨rfl, rfl, by simp [fMbxPending], by simp [fMbxPending]; omega⟩))
    · exact flrEffect_box s (.inr ⟨rfl, rfl, by simp [fHsemCount]; omega⟩)
    · exact on_eq_false_iff.2 (flrEffect_box s (.inr ⟨rfl, rfl, by simp [fHsemPending]⟩))
    · exact (flrEffect_touches f).only s (by simp) (.inl (by simp)) (.inl (by simp))
    · exact (flrEffect_touches f).regsKept s _ fun _ _ _ h => h

end Sys2Proof.Machine
end

section
/-! PROOFS. Host links (chapters 02, 19): a link goes down, comes up, is reset (R66, R235, R476, R480, R482); MSI-X unmasked
(R62). -/

namespace Sys2Proof.Machine

variable {s : State} {ps : List Component} {R : RK → Prop} {A : Aux → Prop}

/-! ## The rings of a link that goes down -/

/-- A register that does not hold its reset value is listed. -/
theorem mem_regs_of_rd_ne {blk : Blk} {inst off : Nat} (h : s.rd blk inst off ≠ resetVal ⟨blk, inst, off⟩) :
    ∃ v, ((⟨blk, inst, off⟩ : RK), v) ∈ s.regs := by
  have hfind : ∀ m : FMap RK W64, fget resetVal m ⟨blk, inst, off⟩ ≠ resetVal ⟨blk, inst, off⟩ →
      ∃ v, ((⟨blk, inst, off⟩ : RK), v) ∈ m := fun m => by
    induction m with
    | nil => exact fun h => absurd rfl h
    | cons e m ih =>
      intro h
      by_cases he : e.1 = ⟨blk, inst, off⟩
      · exact ⟨e.2, List.mem_cons.2 (.inl (by rw [← he]))⟩
      · obtain ⟨v, hv⟩ := ih (by simpa [fget, ffind, he] using h)
        exact ⟨v, List.mem_cons_of_mem _ hv⟩
  exact hfind s.regs h

theorem mem_hRings {p : Nat} : p ∈ s.hRings ↔ s.on fHEn p = true := by
  constructor
  · intro h
    obtain ⟨e, -, he⟩ := List.mem_filterMap.1 h
    split at he
    next hc =>
      cases he
      simp only [Bool.and_eq_true] at hc
      exact hc.2
    next => exact absurd he (by simp)
  · intro h
    obtain ⟨v, hv⟩ := mem_regs_of_rd_ne (s := s) (blk := .tdma) (inst := p) (off := 0x118) fun hr => by
      rw [on_eq_true_iff, get_of_rd (f := fHEn) hr] at h
      exact h (getBits_zero _ _)
    exact List.mem_filterMap.2 ⟨_, hv, by simp [h]⟩

theorem hLost_touches (p idx : Nat) : (hLost p idx).Touches [.hi] (fun k => k.blk = .tdma ∧ k.inst = p ∧
    (k.off = 0x118 ∨ k.off = offState ∨ k.off = offErr ∨ k.off = offEvtStatus)) (fun k => k.kind = .hTail) := by
  have h1 := (hDisable_touches p).mono (ps := [.hi]) (R := fun k => k.blk = .tdma ∧ k.inst = p ∧
    (k.off = 0x118 ∨ k.off = offState ∨ k.off = offErr ∨ k.off = offEvtStatus)) (A := fun k => k.kind = .hTail) (by simp)
    (fun k h => ⟨h.1, h.2.1, h.2.2.elim .inl fun h => .inr (.inl h)⟩) (fun k h => by rw [h])
  unfold hLost
  simp (maxDischargeDepth := 20) [h1]

theorem hDisable_off (s : State) (p : Nat) : ((hDisable p).run s).on fHEn p = false := by
  have hrest : (doAll [setAx ⟨.hTail, p, 0⟩ 0,
      whenE (fun s => !(s.tl.jobs.any fun j => j.p = p && j.ring = 1)) (setF (fRState 1) p 0)]).Touches []
      (fun k => k.off = 0x018) (fun _ => True) := by simp (maxDischargeDepth := 20) [fRState]
  show ((doAll _).run s).on fHEn p = false
  rw [doAll_cons_run, hrest.on _ (by simp [fHEn]), on_setF_same (by decide)]
  simp

theorem hLost_off (s : State) (p idx : Nat) : ((hLost p idx).run s).on fHEn p = false := by
  rw [hLost, doAll_cons_run, doAll_cons_run, doAll_nil_run,
    (recordErr_touches .tdma p eTIMEOUT _).on _ (by simp [fHEn, offErr, offEvtStatus])]
  exact hDisable_off s p

/-- Ring 1 of a tile loses its host at its head. -/
def tileRingLost (p : Nat) : Eff := fun s => hLost p (s.get fHHead p) s

theorem tileRingLost_run (s : State) (p : Nat) : (tileRingLost p).run s = (hLost p (s.get fHHead p)).run s := by
  simp only [Eff.run, tileRingLost]

theorem tileRingLost_off (s : State) (p : Nat) : ((tileRingLost p).run s).on fHEn p = false := by
  rw [tileRingLost_run, hLost_off]

theorem tileRingLost_touches (p : Nat) : (tileRingLost p).Touches [.hi] (fun k => k.blk = .tdma ∧ k.inst = p ∧
    (k.off = 0x118 ∨ k.off = offState ∨ k.off = offErr ∨ k.off = offEvtStatus)) (fun k => k.kind = .hTail) :=
  fun s => by
    unfold tileRingLost
    exact hLost_touches p (s.get fHHead p) s

/-- Ring 1 of the tiles that have one loses its host. -/
def tileRingsLost (l : List Nat) : Eff := forEach l tileRingLost

theorem tileRingsLost_touches (l : List Nat) : (tileRingsLost l).Touches [.hi] (fun k => k.blk = .tdma ∧ k.inst ∈ l ∧
    (k.off = 0x118 ∨ k.off = offState ∨ k.off = offErr ∨ k.off = offEvtStatus)) (fun k => k.kind = .hTail) :=
  touches_forEach fun p hp => (tileRingLost_touches p).mono (fun _ h => h) (fun _ h => ⟨h.1, h.2.1 ▸ hp, h.2.2⟩) fun _ h => h

theorem tileRingsLost_off {l : List Nat} {p : Nat} (hp : p ∈ l) : ((tileRingsLost l).run s).on fHEn p = false := by
  refine forEach_reach (k := tileRingLost) (P := fun t => t.on fHEn p = false) (Q := fun _ => True) hp (fun _ _ _ _ => trivial)
    (fun t _ => tileRingLost_off t p) (fun q _ t _ ht => ?_) s trivial
  by_cases hq : q = p
  · subst hq
    exact tileRingLost_off t q
  · exact ((tileRingLost_touches q).on t fun h => hq h.2.1.symm).trans ht

/-- The command rings of a link stop fetching. -/
def fetchesStop (h : Nat) : Eff := forEach (List.range 64) fun f => forEach (List.range 4) fun n =>
  whenE (fun s => s.ringLink f n = h) (setAx ⟨.ringFetch, f, n⟩ 0)

theorem fetchesStop_touches (h : Nat) : (fetchesStop h).Touches [] (fun _ => False) (fun k => k.kind = .ringFetch) := by
  simp (maxDischargeDepth := 20) [fetchesStop]

/-- A function of the registers does not see a change of hidden scalars. -/
theorem ringLink_of_touches {e : Eff} (he : e.Touches ps R A) (h0 : ∀ off, ¬ R ⟨.host, 0, off⟩) (f n : Nat) :
    (e.run s).ringLink f n = s.ringLink f n := by
  simp only [State.ringLink, State.bind, he.get s (f := fRingLink n) (h0 _), he.get s (f := fBind f) (h0 _)]

theorem fetchesStop_ax {h f n : Nat} (hf : f < 64) (hn : n < 4) (hl : s.ringLink f n = h) :
    ((fetchesStop h).run s).ax ⟨.ringFetch, f, n⟩ = 0 := by
  have hone (g m : Nat) : (whenE (fun s => s.ringLink g m = h) (setAx ⟨.ringFetch, g, m⟩ 0)).Touches [] (fun _ => False)
      (fun _ => True) := by simp
  have hrow (g : Nat) : (forEach (List.range 4) fun n => whenE (fun s => s.ringLink g n = h)
      (setAx ⟨.ringFetch, g, n⟩ 0)).Touches [] (fun _ => False) (fun _ => True) := touches_forEach fun m _ => hone g m
  have hkeep (g m : Nat) (t : State) (ht : t.ax ⟨.ringFetch, f, n⟩ = 0) :
      ((whenE (fun s => s.ringLink g m = h) (setAx ⟨.ringFetch, g, m⟩ 0)).run t).ax ⟨.ringFetch, f, n⟩ = 0 := by
    rw [whenE_run]
    split
    · simp [ht]
    · exact ht
  refine forEach_reach (P := fun t => t.ax ⟨.ringFetch, f, n⟩ = 0) (Q := fun t => t.ringLink f n = h) (b := f)
    (by simpa using hf) (fun g _ t ht => (ringLink_of_touches (hrow g) (by simp) f n).trans ht) (fun t ht => ?_)
    (fun g _ t _ ht => forEach_keep (P := fun t => t.ax ⟨.ringFetch, f, n⟩ = 0) (fun m _ t ht => hkeep g m t ht) t ht) s hl
  refine forEach_reach (P := fun t => t.ax ⟨.ringFetch, f, n⟩ = 0) (Q := fun t => t.ringLink f n = h) (b := n)
    (by simpa using hn) (fun m _ t ht => (ringLink_of_touches (hone f m) (by simp) f n).trans ht) (fun t ht => ?_)
    (fun m _ t _ ht => hkeep f m t ht) t ht
  rw [whenE_run, if_pos (by simpa using ht)]
  simp

/-- What a link that goes down records in its page. -/
def linkLost (h : Nat) : Eff :=
  doAll [setF fLinkUp (256 + h) 0, addSat ⟨.host, 0x108, 0, 16⟩ (256 + h) 1, recordErrFree .host (256 + h) eLINK_DOWN]

theorem linkLost_touches (h : Nat) : (linkLost h).Touches [.hi, .free] (fun k => k.blk = .host ∧ k.inst = 256 + h ∧
    (k.off = 0x100 ∨ k.off = 0x108 ∨ k.off = offErr ∨ k.off = offEvtStatus)) (fun _ => False) := by
  simp (maxDischargeDepth := 20) [linkLost, fLinkUp]

theorem linkLost_page (s : State) (h : Nat) : ((linkLost h).run s).linkUp h = false ∧
    ((linkLost h).run s).get ⟨.host, 0x108, 0, 16⟩ (256 + h) = min (s.get ⟨.host, 0x108, 0, 16⟩ (256 + h) + 1) 0xFFFF ∧
    (s.get (fErrCode .host) (256 + h) = 0 → ((linkLost h).run s).get (fErrCode .host) (256 + h) = eLINK_DOWN) := by
  have herr : (recordErrFree .host (256 + h) eLINK_DOWN).Touches [.hi, .free] (fun k => k.off = offErr ∨ k.off = offEvtStatus)
      (fun _ => False) := by simp
  rw [linkLost, doAll_cons_run, doAll_cons_run, doAll_cons_run, doAll_nil_run]
  refine ⟨?_, ?_, fun hclear => ?_⟩
  · refine (herr.on _ (f := fLinkUp) (by simp [fLinkUp, offErr, offEvtStatus])).trans ?_
    rw [addSat_run, on_eq_false_iff, get_setF_off_ne (by decide), get_setF_same (by decide)]
    simp
  · rw [herr.get _ (by simp [offErr, offEvtStatus]), get_addSat_same (by decide), get_setF_off_ne (by decide)]
    rfl
  · exact recordErrFree_err (by decide) (by rw [addSat_run, get_setF_off_ne (by decide), get_setF_off_ne (by decide), hclear])

/-- The parts of a link's loss in their order. -/
theorem effLinkDown_run {h : Nat} (hh : s.held = false) (h2 : h < 2) (hup : s.linkUp h = true) : (effLinkDown h).run s =
    (whenE (fun s => s.get fRootLink 0 = h) (look State.hRings tileRingsLost)).run
      ((fetchesStop h).run ((linkLost h).run s)) := by
  rw [effLinkDown, whenE_run, if_pos (by simp [hh, h2, hup]), doAll_cons_run, doAll_cons_run, doAll_cons_run,
    doAll_cons_run, doAll_cons_run, doAll_nil_run, linkLost, doAll_cons_run, doAll_cons_run, doAll_cons_run, doAll_nil_run]
  rfl

/-! ## MSI-X -/

/-- One pending vector that is free is sent. -/
def msixSend (f v : Nat) : Eff := whenE (fun s => s.on (fPba v) f && s.msixFree f v)
  (doAll [setF (fPba v) f 0, look (fun s => s.funcLink f) fun l => emit (.msix f l v)])

theorem msixSend_touches (f v : Nat) : (msixSend f v).Touches [.out] (fun k => k.blk = .host ∧ k.inst = f ∧ k.off = 0x900)
    (fun _ => False) := by
  simp (maxDischargeDepth := 20) [msixSend, fPba]

theorem msixFlush_touches (f : Nat) : (msixFlush f).Touches [.out] (fun k => k.blk = .host ∧ k.inst = f ∧ k.off = 0x900)
    (fun _ => False) := touches_forEach fun v _ => msixSend_touches f v

/-- A vector stays free, and its link stays, while vectors of its function are sent. -/
theorem msixFree_of_touches {e : Eff} {f v : Nat} (he : e.Touches ps (fun k => k.blk = .host ∧ k.inst = f ∧ k.off = 0x900)
    (fun _ => False)) : (e.run s).msixFree f v = s.msixFree f v ∧ (e.run s).funcLink f = s.funcLink f := by
  have hget (g : Fld) (i : Nat) (hg : g.off ≠ 0x900) : (e.run s).get g i = s.get g i := he.get s fun h => hg h.2.2
  have hlink : (e.run s).funcLink f = s.funcLink f := by
    simp only [State.funcLink, State.bind, hget fRootLink 0 (by decide), hget (fBind f) 0 (by simp [fBind])]
  refine ⟨?_, hlink⟩
  simp only [State.msixFree, State.linkUp, State.on, hlink, he.ax s id, hget fLinkUp _ (by decide),
    hget (fVecMask v) f (by simp only [fVecMask]; omega)]

theorem msixSend_run {f v : Nat} (hp : s.on (fPba v) f = true) (hfree : s.msixFree f v = true) :
    (msixSend f v).run s = ((setF (fPba v) f 0).run s).apply1 (.out (.msix f (s.funcLink f) v)) := by
  have hlink : ((setF (fPba v) f 0).run s).funcLink f = s.funcLink f := by
    simp only [State.funcLink, State.bind, get_setF_off_ne (f := fPba v) (g := fRootLink) (by simp [fPba, fRootLink]),
      get_setF_off_ne (f := fPba v) (g := fBind f) (by simp [fPba, fBind])]
  rw [msixSend, whenE_run, if_pos (by simp [hp, hfree]), doAll_cons_run, doAll_cons_run, doAll_nil_run, look_run, hlink, emit_run]

theorem pba_off_keep {f v w : Nat} (hv : v < 16) (h : s.on (fPba v) f = false) :
    ((msixSend f w).run s).on (fPba v) f = false := by
  rw [msixSend, whenE_run]
  split
  · rw [doAll_cons_run, doAll_cons_run, doAll_nil_run, look_run, on_eq_false_iff]
    show ((setF (fPba w) f 0).run s).get (fPba v) f = 0
    by_cases hvw : v = w
    · subst hvw
      rw [get_setF_same (by simp [fPba]; omega)]
      simp
    · rw [get_setF_ne (by simp [fPba]; omega) (by simp [fPba]; omega)]
      exact on_eq_false_iff.1 h
  · exact h

/-- A pending vector that is free is sent and pends no more. -/
theorem msixFlush_sends {f v : Nat} (hv : v < 16) (hp : s.on (fPba v) f = true) (hfree : s.msixFree f v = true) :
    ((msixFlush f).run s).on (fPba v) f = false ∧ .msix f (s.funcLink f) v ∈ ((msixFlush f).run s).out := by
  refine forEach_reach (k := msixSend f) (l := List.range 16) (b := v)
    (P := fun t => t.on (fPba v) f = false ∧ .msix f (s.funcLink f) v ∈ t.out)
    (Q := fun t => (t.msixFree f v = true ∧ t.funcLink f = s.funcLink f) ∧
      (t.on (fPba v) f = true ∨ (t.on (fPba v) f = false ∧ .msix f (s.funcLink f) v ∈ t.out)))
    (by simpa using hv) (fun w hw t ht => ?_) (fun t ht => ?_) (fun w hw t _ ht => ?_) s ⟨⟨hfree, rfl⟩, .inl hp⟩
  · obtain ⟨hsame, hlink⟩ := msixFree_of_touches (s := t) (v := v) (msixSend_touches f w)
    refine ⟨⟨hsame.trans ht.1.1, hlink.trans ht.1.2⟩, ?_⟩
    have hw16 : w < 16 := List.mem_range.1 hw
    rcases ht.2 with hpend | ⟨hoff, hsent⟩
    · by_cases hvw : v = w
      · subst hvw
        rw [msixSend_run hpend ht.1.1]
        refine .inr ⟨on_eq_false_iff.2 ?_, by simp [ht.1.2]⟩
        show ((setF (fPba v) f 0).run t).get (fPba v) f = 0
        rw [get_setF_same (by simp [fPba]; omega)]
        simp
      · left
        rw [msixSend, whenE_run]
        split
        · rw [doAll_cons_run, doAll_cons_run, doAll_nil_run, look_run]
          refine (on_congr ?_).trans hpend
          show ((setF (fPba w) f 0).run t).get (fPba v) f = _
          rw [get_setF_ne (by simp [fPba]; omega) (by simp [fPba]; omega)]
        · exact hpend
    · exact .inr ⟨pba_off_keep hv hoff, mem_out_run hsent _⟩
  · rcases ht.2 with hpend | hdone
    · rw [msixSend_run hpend ht.1.1]
      refine ⟨on_eq_false_iff.2 ?_, by simp [ht.1.2]⟩
      show ((setF (fPba v) f 0).run t).get (fPba v) f = 0
      rw [get_setF_same (by simp [fPba]; omega)]
      simp
    · exact ⟨pba_off_keep hv hdone.1, mem_out_run hdone.2 _⟩
  · exact ⟨pba_off_keep hv ht.1, mem_out_run ht.2 _⟩

/-- R62: the link of a vector's change is up when the function's own is. -/
theorem msixLink_vec_up {f v : Nat} (h : s.linkUp (s.funcLink f) = true) : s.linkUp (s.msixLink f (.vec v)) = true := by
  unfold State.msixLink
  by_cases hf : f = 0
  · subst hf
    have hroot : s.get fRootLink 0 < 2 := get_lt s fRootLink 0
    simp only [State.funcLink, if_true] at h
    simp only [ne_eq, not_true_eq_false, if_false]
    split
    · assumption
    next h0 =>
      have : s.get fRootLink 0 ≠ 0 := fun hz => h0 (hz ▸ h)
      rwa [show s.get fRootLink 0 = 1 by omega] at h
  · simpa [hf, State.funcLink] using h

theorem msixUnmask_vec_run {f v : Nat} (hh : s.held = false) (hf : f < 64) (ha : s.active f = true) (hv : v < 16)
    (hup : s.linkUp (s.funcLink f) = true) :
    (effMsixUnmask f (.vec v)).run s = (msixFlush f).run ((setF (fVecMask v) f 0).run s) := by
  have hv' : v < (pcieCaps f).msixVectors := hv
  rw [effMsixUnmask, whenE_run, if_pos (by simp [hh, hf, ha, msixLink_vec_up hup])]
  refine Eq.trans (run_congr (f := doAll [if v < (pcieCaps f).msixVectors then setF (fVecMask v) f 0 else skip,
    msixFlush f]) ?_) ?_
  · rfl
  · rw [if_pos hv', doAll_cons_run, doAll_cons_run, doAll_nil_run]

/-- MSI-X Enable and Function Mask of a configuration space as written. -/
def msixSwitch (f c : Nat) (en mask : Bool) : Eff :=
  doAll [setAx ⟨.msixEn, f, c⟩ (if en then 1 else 0), setAx ⟨.msixMask, f, c⟩ (if mask then 1 else 0)]

theorem msixSwitch_touches (f c : Nat) (en mask : Bool) : (msixSwitch f c en mask).Touches [] (fun _ => False) (fun _ => True) := by
  simp (maxDischargeDepth := 20) [msixSwitch]

theorem msixUnmask_func_run {f l : Nat} {en mask : Bool} (hh : s.held = false) (hf : f < 64) (ha : s.active f = true)
    (hup : s.linkUp (if f = 0 then l else s.bind f) = true) : (effMsixUnmask f (.func l en mask)).run s =
      (msixFlush f).run ((msixSwitch f (if f = 0 then l else 0) en mask).run s) := by
  have hlink : s.msixLink f (.func l en mask) = if f = 0 then l else s.bind f := by
    by_cases h : f = 0 <;> simp [State.msixLink, h]
  rw [effMsixUnmask, whenE_run, if_pos (by simp [hh, hf, ha, hlink, hup])]
  have hspace : (if f = 0 then s.msixLink f (.func l en mask) else 0) = if f = 0 then l else 0 := by
    rw [hlink]
    by_cases h : f = 0 <;> simp [h]
  rw [← hspace]
  refine Eq.trans (run_congr (f := doAll [msixSwitch f (if f = 0 then s.msixLink f (.func l en mask) else 0) en mask,
    msixFlush f]) ?_) ?_
  · rfl
  · rw [doAll_cons_run, doAll_cons_run, doAll_nil_run]

/-- The word of LINK_STATUS of a trained link. -/
def linkWord (sp w : Nat) (fl : Bool) : W64 :=
  BitVec.ofNat 64 (1 + sp % 16 * 16 + w % 32 * 256 + if fl then 65536 else 0)

theorem linkWord_bits {sp w : Nat} {fl : Bool} (hsp : sp < 16) (hw : w < 32) : getBits (linkWord sp w fl) 0 1 = 1 ∧
    getBits (linkWord sp w fl) 4 4 = sp ∧ getBits (linkWord sp w fl) 8 5 = w := by
  have hlt : 1 + sp % 16 * 16 + w % 32 * 256 + (if fl then 65536 else 0) < 2 ^ 64 := by split <;> omega
  simp only [linkWord, getBits_ofNat_of_lt hlt]
  cases fl <;> simp <;> omega

/-- The pending messages of a link's functions are sent. -/
def msixFlushLink (h : Nat) : Eff :=
  forEach (List.range 64) fun f => whenE (fun s => s.active f && s.funcLink f = h) (msixFlush f)

theorem msixFlushLink_touches (h : Nat) : (msixFlushLink h).Touches [.out] (fun k => k.off = 0x900) (fun _ => False) :=
  touches_forEach fun f _ => touches_whenE ((msixFlush_touches f).mono (fun _ h => h) (fun _ h => h.2.2) fun _ h => h)

theorem effLinkUp_run {h sp w : Nat} {fl : Bool} (hh : s.held = false) (h2 : h < 2) (hdown : s.linkUp h = false)
    (hp : s.ax ⟨.perst, h, 0⟩ ≠ 0) (hm : s.get fMgmtState 0 ≠ 1) : (effLinkUp h sp w fl).run s =
      (msixFlushLink h).run ((setReg .host (256 + h) 0x100 (linkWord sp w fl)).run s) := by
  rw [effLinkUp, whenE_run, if_pos (by simp [hh, h2, hdown, hp, hm]), doAll_cons_run, doAll_cons_run, doAll_nil_run]
  rfl

/-! ## Link reset -/

theorem effLinkReset_run {h : Nat} (hh : s.held = false) (h2 : h < 2) (hr : s.ax ⟨.resetting, 0, 0⟩ = 0) :
    (effLinkReset h).run s = (whenE (fun s => s.get fRootLink 0 = h) (setReg .host 0 0x900 0)).run
      ((setReg .host (256 + h) 0x120 0).run ((setVfs h 0 false).run
        (s.apply1 (.auxClear fun a => (a.kind = .msixEn || a.kind = .msixMask) && a.a = 0 && a.b = h)))) := by
  have hrun : (effLinkReset h).run s = (linkResetEffect h).run s := by
    simp only [Eff.run, effLinkReset, hh, Nat.not_le.2 h2, hr]
    simp
  rw [hrun, linkResetEffect, doAll_cons_run, doAll_cons_run, doAll_cons_run, doAll_cons_run, doAll_nil_run]
  rfl

theorem setVfs_touches (h n : Nat) (en : Bool) : (setVfs h n en).Touches [.hi] (fun k => k.blk = .host ∨ k.blk = .sem)
    (fun k => k.a ≠ 0) := fun s => by
  have hleave : (look (fun t : State => (s.vfsOn h).filter fun f => !t.active f) fun l => forEach l vfLeave).Touches [.hi]
      (fun k => k.blk = .host ∨ k.blk = .sem) (fun k => k.a ≠ 0) := fun t =>
    ((forEach_vfLeave_touches fun g hg => by
      have := List.mem_of_mem_filter hg
      simp only [State.vfsOn, List.mem_filter, List.mem_range, Bool.and_eq_true, decide_eq_true_eq] at this
      exact ⟨this.2.1.1, this.1⟩).mono (fun _ h => h) (fun _ h => h.imp And.left id) fun _ h => h) t
  unfold setVfs
  exact within_doAll (touches_doAll_cons (touches_setReg (.inl rfl)) (touches_doAll_cons hleave touches_doAll_nil))

/-- Settles O19. -/
theorem hostLinksComeAndGo : Obligations.HostLinksComeAndGo := by
  refine ⟨?_, ?_, ?_, ?_, ?_, ?_⟩
  · intro s h hh h2 hup
    refine ⟨_, rfl, ?_⟩
    rw [effLinkDown_run hh h2 hup]
    obtain ⟨hdown, hcount, herr⟩ := linkLost_page s h
    have hlost := linkLost_touches h
    have hstop := fetchesStop_touches h
    have hroot : ((fetchesStop h).run ((linkLost h).run s)).get fRootLink 0 = s.get fRootLink 0 :=
      (hstop.get _ id).trans (hlost.get s fun hc => by simp at hc; omega)
    have hen (p : Nat) : ((fetchesStop h).run ((linkLost h).run s)).on fHEn p = s.on fHEn p :=
      (hstop.on _ id).trans (hlost.on s (by simp [fHEn]))
    have hrings (l : List Nat) := tileRingsLost_touches l
    have htile : (whenE (fun s => s.get fRootLink 0 = h) (look State.hRings tileRingsLost)).Touches [.hi]
        (fun k => k.blk = .tdma) (fun k => k.kind = .hTail) :=
      touches_whenE (touches_look fun l => (hrings l).mono (fun _ h => h) (fun _ h => h.1) fun _ h => h)
    refine ⟨?_, ?_, fun hclear => ?_, fun f n hf hn hl => ?_, fun hr p => ?_, ?_, ?_⟩
    · exact (htile.on _ (f := fLinkUp) (by simp [fLinkUp])).trans ((hstop.on _ id).trans hdown)
    · rw [htile.get _ (by simp), hstop.get _ id, hcount]
    · rw [htile.get _ (by simp [fErrCode]), hstop.get _ id, herr hclear]
    · rw [htile.ax _ (by simp)]
      exact fetchesStop_ax hf hn ((ringLink_of_touches hlost (fun _ hc => by simp at hc; omega) f n).trans hl)
    · rw [whenE_run, if_pos (by simp [hroot, hr]), look_run]
      by_cases hp : s.on fHEn p = true
      · exact tileRingsLost_off (mem_hRings.2 ((hen p).trans hp))
      · rw [(hrings _).on _ fun hc => hp ((hen p).symm.trans (mem_hRings.1 hc.2.1)), hen]
        simpa using hp
    · exact ((hlost.only s (by simp) (.inl (by simp)) (.inr fun _ => id)).trans
        (hstop.only _ (by simp) (.inl (by simp)) (.inl (by simp)))).trans
        (htile.only _ (by simp) (.inl (by simp)) (.inl (by simp)))
    · refine RegsKeptBut.trans (hlost.regsKept s _ fun b i o hk => .inl hk) (RegsKeptBut.trans
        (hstop.regsKept _ _ fun _ _ _ => False.elim) ?_)
      rw [whenE_run]
      split
      next hr =>
        rw [look_run]
        refine (hrings _).regsKept _ _ fun b i o hk => .inr ⟨hk.1, ?_, ?_, hk.2.2⟩
        · simpa [hroot] using hr
        · exact (hen i).symm.trans (mem_hRings.1 hk.2.1)
      next => exact fun _ _ _ _ => rfl
  · intro s h sp w fl hh h2 hdown hp hm hsp hw
    refine ⟨_, rfl, ?_⟩
    rw [effLinkUp_run hh h2 hdown hp hm]
    have hflush := msixFlushLink_touches h
    obtain ⟨hb0, hb4, hb8⟩ := linkWord_bits (fl := fl) hsp hw
    have hset : (setReg .host (256 + h) 0x100 (linkWord sp w fl)).Touches [] (fun _ => True) (fun _ => False) :=
      touches_setReg trivial
    have hget (lo wd : Nat) : ((setReg .host (256 + h) 0x100 (linkWord sp w fl)).run s).get ⟨.host, 0x100, lo, wd⟩ (256 + h) =
        getBits (linkWord sp w fl) lo wd := by simp [State.get]
    refine ⟨?_, ?_, ?_, ?_⟩
    · refine (hflush.on _ (f := fLinkUp) (by simp [fLinkUp])).trans (on_eq_true_iff.2 ?_)
      rw [show fLinkUp = ⟨.host, 0x100, 0, 1⟩ from rfl, hget, hb0]
      decide
    · rw [hflush.get _ (by simp), hget, hb4]
    · rw [hflush.get _ (by simp), hget, hb8]
    · exact (hset.only s (by simp) (.inl (by simp)) (.inr fun _ => id)).trans
        (hflush.only _ (by simp) (.inl (by simp)) (.inr fun _ => id))
  · intro s f v hh hf ha hv hup
    refine ⟨_, rfl, ?_⟩
    rw [msixUnmask_vec_run hh hf ha hv hup]
    have hmask : (setF (fVecMask v) f 0).Touches [] (fun k => k.blk = .host ∧ k.inst = f ∧ k.off = 0x808 + 16 * v) (fun _ => False) :=
      touches_setF ⟨rfl, rfl, rfl⟩
    have hflush := msixFlush_touches f
    have hlink : ((setF (fVecMask v) f 0).run s).funcLink f = s.funcLink f := by
      simp only [State.funcLink, State.bind, hmask.get s (f := fRootLink) (i := 0) (by simp [fRootLink]; omega),
        hmask.get s (f := fBind f) (i := 0) (by simp [fBind]; omega)]
    have hclear : ((setF (fVecMask v) f 0).run s).on (fVecMask v) f = false := by
      rw [on_setF_same (by simp [fVecMask])]
      simp
    refine ⟨?_, fun hpend hen hfm => ?_, ?_, ?_⟩
    · rw [hflush.on _ (by simp [fVecMask]; omega), hclear]
    · have hfree : ((setF (fVecMask v) f 0).run s).msixFree f v = true := by
        have hup' : ((setF (fVecMask v) f 0).run s).linkUp (s.funcLink f) = true :=
          (hmask.on s (f := fLinkUp) (by simp [fLinkUp]; omega)).trans hup
        simp only [State.msixFree, hlink, hup', hclear, hmask.ax s id]
        simp [hen, hfm]
      have := msixFlush_sends hv ((hmask.on s (by simp [fPba]; omega)).trans hpend) hfree
      rwa [hlink] at this
    · exact (hmask.only s (by simp) (.inl (by simp)) (.inr fun _ => id)).trans
        (hflush.only _ (by simp) (.inl (by simp)) (.inr fun _ => id))
    · exact RegsKeptBut.trans (hmask.regsKept s _ fun _ _ _ h => ⟨h.1, h.2.1, .inl h.2.2⟩)
        (hflush.regsKept _ _ fun _ _ _ h => ⟨h.1, h.2.1, .inr h.2.2⟩)
  · intro s f l en mask hh hf ha _ hup
    refine ⟨_, rfl, ?_⟩
    rw [msixUnmask_func_run hh hf ha hup]
    have hflush := msixFlush_touches f
    have hsw := msixSwitch_touches f (if f = 0 then l else 0) en mask
    refine ⟨?_, ?_, ?_, ?_⟩
    · rw [hflush.ax _ id]; simp [msixSwitch]
    · rw [hflush.ax _ id]; simp [msixSwitch]
    · exact (hsw.only s (by simp) (.inl (by simp)) (.inl (by simp))).trans
        (hflush.only _ (by simp) (.inl (by simp)) (.inr fun _ => id))
    · exact RegsKeptBut.trans (hsw.regsKept s _ fun _ _ _ => False.elim) (hflush.regsKept _ _ fun _ _ _ h => h)
  · intro s h h2
    have hset : (setAx ⟨.perst, h, 0⟩ 1).Touches [] (fun _ => False) (fun _ => True) := touches_setAx trivial
    have hrun : (effPerst h).run s = (setAx ⟨.perst, h, 0⟩ 1).run s := by
      rw [effPerst, whenE_run, if_pos (by simpa using h2)]
    refine ⟨_, rfl, ?_⟩
    rw [hrun]
    exact ⟨by simp, hset.only s (by simp) (.inr fun _ => id) (.inl (by simp))⟩
  · intro s h hh h2 hr
    refine ⟨_, rfl, ?_⟩
    rw [effLinkReset_run hh h2 hr]
    have hpba : (whenE (fun s => s.get fRootLink 0 = h) (setReg .host 0 0x900 0)).Touches [] (fun k => k.off = 0x900)
        (fun _ => False) := by simp
    have hap : (setReg .host (256 + h) 0x120 0).Touches [] (fun k => k.off = 0x120) (fun _ => False) := touches_setReg rfl
    have hvfs := setVfs_touches h 0 false
    have hcl : Eff.Touches [] (fun _ => False) (fun _ => True)
        (fun _ => [Upd.auxClear fun a => (a.kind = .msixEn || a.kind = .msixMask) && a.a = 0 && a.b = h]) :=
      touches_upd ⟨by simp [Upd.parts], fun _ _ => trivial⟩
    refine ⟨?_, ?_, ?_, ?_⟩
    · rw [hpba.on _ (by simp [fVfEnable]), hap.on _ (by simp [fVfEnable]), setVfs_run,
        (forEach_vfLeave_touches vfsGone_range).on _ (by simp [fVfEnable]; omega)]
      exact (vfWord_get (by decide)).2
    · rw [hpba.rd _ (by simp)]
      simp
    · rw [hpba.ax _ id, hap.ax _ id, hvfs.ax _ (by simp)]
      simp
    · exact (((hcl.only s (by simp) (.inr fun _ => id) (.inl (by simp))).trans
        (hvfs.only _ (by simp) (.inl (by simp)) (.inl (by simp)))).trans
        (hap.only _ (by simp) (.inl (by simp)) (.inr fun _ => id))).trans
        (hpba.only _ (by simp) (.inl (by simp)) (.inr fun _ => id))

end Sys2Proof.Machine
end

section
/-! SUPPORT. A command of a block that the arbiter accepts (R52, R54): the state its effect runs on, and what its completion
leaves. -/

namespace Sys2Proof.Machine

variable {s : State} {c : CmdCtx} {blk : Blk} {inst op : Nat} {args : List W64} {sp : CmdSpec}

/-- An accepted command's effect runs on the state with its number taken. -/
theorem accept_run_taken (s : State) (c : CmdCtx) (blk : Blk) (inst op : Nat) (args : List W64) (k : Running → Eff) :
    (accept c (ctxWord0 c blk inst op) blk inst op args k).run s =
      (k (s.asRunning c blk inst op args)).run (s.taken c blk inst op args) := by
  rw [State.taken, accept_run_posted, accept_run_posted, skip_run]

theorem admitCmd_run (h : s.admits c blk inst sp) : (admitCmd c blk inst op args sp).run s =
    (sp.run (s.asRunning c blk inst op args)).run (s.taken c blk inst op args) := by
  obtain ⟨⟨hheld, htrip, hwedged⟩, hact, hfence, hcode⟩ := h
  have hrun : (admitCmd c blk inst op args sp).run s =
      (accept c (ctxWord0 c blk inst op) blk inst op args sp.run).run s := by
    refine run_congr ?_
    simp only [admitCmd, hheld, htrip, hwedged, hact, hfence, hcode, Bool.not_true, Bool.or_self, Bool.false_eq_true, if_false,
      if_true]
  rw [hrun, accept_run_taken]

/-- What an accepted command's checks found. -/
theorem admits_checks (h : s.admits c blk inst sp) : pageListed blk inst = true ∧ s.ready = true ∧ s.present blk inst = true ∧
    sp.argBad s = false ∧ (sp.blocked s = none ∨ sp.blocked s = some eOK) := by
  obtain ⟨-, -, -, hcode⟩ := h
  unfold State.admitCode at hcode
  by_cases h1 : pageListed blk inst = true
  · by_cases h2 : s.ready = true
    · by_cases h3 : s.present blk inst = true
      · by_cases h4 : sp.argBad s = true
        · simp only [h1, h2, h3, h4, Bool.not_true, Bool.false_eq_true, if_false, if_true] at hcode
          exact absurd hcode (by decide)
        · refine ⟨h1, h2, h3, by simpa using h4, ?_⟩
          simp only [h1, h2, h3, h4, Bool.not_true, Bool.false_eq_true, if_false] at hcode
          split at hcode
          · exact absurd hcode (by decide)
          · cases hb : sp.blocked s with
            | none => exact .inl rfl
            | some code =>
              rw [hb] at hcode
              exact .inr (congrArg some hcode)
      · simp only [h1, h2, h3, Bool.not_true, Bool.not_false, Bool.false_eq_true, if_false, if_true] at hcode
        exact absurd hcode (by decide)
    · simp only [h1, h2, Bool.not_true, Bool.not_false, Bool.false_eq_true, if_false, if_true] at hcode
      exact absurd hcode (by decide)
  · simp only [h1, Bool.not_false, if_true] at hcode
    exact absurd hcode (by decide)

theorem takeCmd_touches (c : CmdCtx) (w : Nat) (blk : Blk) (inst op : Nat) (args : List W64) :
    (accept c w blk inst op args fun _ => skip).Touches [.seq, .hi, .out] (fun k => k.blk = .host)
      (fun k => k.kind = .ringFetch) := accept_touches (by simp) (by simp) rfl (by simp) (by simp) (by simp)

theorem taken_only {qs : List Component} (hseq : .seq ∈ qs) (hhi : .hi ∈ qs) (hout : .out ∈ qs) (hr : .regs ∈ qs)
    (ha : .aux ∈ qs) : OnlyParts qs s (s.taken c blk inst op args) :=
  (takeCmd_touches c _ blk inst op args).only s (by simp [hseq, hhi, hout]) (.inl hr) (.inl ha)

theorem taken_kept {named : Blk → Nat → Nat → Prop} (h : ∀ i o, named .host i o) :
    RegsKeptBut named s (s.taken c blk inst op args) :=
  (takeCmd_touches c _ blk inst op args).regsKept s _ fun b i o hb => by
    obtain rfl : b = .host := hb
    exact h i o

theorem taken_rd {b : Blk} {i o : Nat} (h : b ≠ .host) : (s.taken c blk inst op args).rd b i o = s.rd b i o :=
  (takeCmd_touches c _ blk inst op args).rd s h

theorem taken_get {f : Fld} {i : Nat} (h : f.blk ≠ .host) : (s.taken c blk inst op args).get f i = s.get f i :=
  (takeCmd_touches c _ blk inst op args).get s h

theorem taken_on {f : Fld} {i : Nat} (h : f.blk ≠ .host) : (s.taken c blk inst op args).on f i = s.on f i :=
  on_congr (taken_get h)

theorem taken_ax {a : Aux} (h : a.kind ≠ .ringFetch) : (s.taken c blk inst op args).ax a = s.ax a :=
  (takeCmd_touches c _ blk inst op args).ax s h

theorem taken_seq : (s.taken c blk inst op args).seq = s.seq + 1 := accept_seq (by simp)

theorem taken_running : (s.taken c blk inst op args).hi.running = s.hi.running ++ [s.asRunning c blk inst op args] := by
  rw [State.taken, accept_run_posted, skip_run]
  exact accept_started_running s c _ _

/-- The parts an accepted command's arrival leaves alone. -/
theorem taken_same {p : Component} (h : p ∉ [Component.seq, .hi, .out, .regs, .aux]) :
    p.same s (s.taken c blk inst op args) :=
  (takeCmd_touches c _ blk inst op args).same s p (by simp at h ⊢; tauto) (by simp at h; tauto) (by simp at h; tauto)

/-! ## Completion -/

theorem finish_touches (r : Running) (code : Nat) (v : W64) :
    (finish r code v).Touches [.hi, .out] (fun k => k.blk = .host) (fun _ => False) := by
  simp

/-- A command that completes as it is accepted leaves the commands under way as they were, when none has its number. -/
theorem finish_taken_running {t : State} {code : Nat} {v : W64} (hnew : ∀ r ∈ s.hi.running, r.seq ≠ s.seq + 1)
    (ht : t.hi.running = s.hi.running ++ [s.asRunning c blk inst op args]) :
    ((finish (s.asRunning c blk inst op args) code v).run t).hi.running = s.hi.running := by
  rw [finish_hi_running, ht]
  exact filter_append_new hnew

end Sys2Proof.Machine
end

section
/-! PROOFS. The rim cores (chapter 02): START, HALT, RESET and FLUSH, WFI and what wakes a waiting core (R72–R75). -/

namespace Sys2Proof.Machine

variable {s : State} {c : CmdCtx} {k : Nat} {args : List W64}

/-! ## Interrupts -/

theorem and_ne_zero_of_bit {a b n : Nat} (ha : a / 2 ^ n % 2 = 1) (hb : b / 2 ^ n % 2 = 1) : a &&& b ≠ 0 := by
  intro h
  have hbit : (a &&& b).testBit n = true := by
    rw [Nat.testBit_and, Nat.testBit_eq_decide_div_mod_eq, Nat.testBit_eq_decide_div_mod_eq, ha, hb]
    rfl
  rw [h] at hbit
  simp at hbit

/-- The bits of mip, each 0 or its place. -/
theorem rimMip_bits (s : State) (c t : Nat) : ∃ e m v w, (e ≤ 1 ∧ m ≤ 1 ∧ v ≤ 1 ∧ w ≤ 1) ∧
    s.rimMip c t = 2048 * e + 128 * m + 32 * v + 8 * w ∧ (e = 1 ↔ s.get fIrqPend c &&& s.get fIrqEn c ≠ 0) ∧
    (m = 1 ↔ s.get fMtimecmp c ≤ s.rimTime) ∧ (v = 1 ↔ t ≤ s.rimTime) ∧ (w = 1 ↔ s.on fMsip c = true) := by
  refine ⟨if s.get fIrqPend c &&& s.get fIrqEn c ≠ 0 then 1 else 0, if s.get fMtimecmp c ≤ s.rimTime then 1 else 0,
    if t ≤ s.rimTime then 1 else 0, if s.on fMsip c then 1 else 0, ?_, ?_, ?_, ?_, ?_, ?_⟩
  · refine ⟨?_, ?_, ?_, ?_⟩ <;> split <;> omega
  · unfold State.rimMip
    congr 1
    · congr 1
      · congr 1 <;> split <;> rfl
      · split <;> rfl
    · split <;> rfl
  all_goals simp

theorem rimWake_run (s : State) (c : Nat) : (rimWake c).run s =
    if c < 32 ∧ s.get fRimState c = 2 ∧ s.rimIrq c = true then (setF fRimState c 1).run s else s := by
  rw [rimWake, whenE_run]
  simp only [Bool.and_eq_true, decide_eq_true_eq, and_assoc]

/-- A waiting core with an interrupt pending and enabled in mie runs on. -/
theorem rimWake_state {c : Nat} (hc : c < 32) (hw : s.get fRimState c = 2) (hirq : s.rimIrq c = true) :
    ((rimWake c).run s).get fRimState c = 1 := by
  rw [rimWake_run, if_pos ⟨hc, hw, hirq⟩, get_setF_same (by decide)]
  decide

theorem rimIrq_of_bit {c n : Nat} (hm : s.rimMip c (s.ax ⟨.rimStimecmp, c, 0⟩) / 2 ^ n % 2 = 1)
    (he : s.ax ⟨.rimMie, c, 0⟩ / 2 ^ n % 2 = 1) : s.rimIrq c = true := by
  simpa [State.rimIrq, State.rimIrqOf] using and_ne_zero_of_bit hm he

theorem rimMip_external {c t : Nat} (h : s.get fIrqPend c &&& s.get fIrqEn c ≠ 0) : s.rimMip c t / 2 ^ 11 % 2 = 1 := by
  obtain ⟨e, m, v, w, hle, hmip, he, -⟩ := rimMip_bits s c t
  have := he.2 h
  omega

theorem rimMip_machineTimer {c t : Nat} (h : s.get fMtimecmp c ≤ s.rimTime) : s.rimMip c t / 2 ^ 7 % 2 = 1 := by
  obtain ⟨e, m, v, w, hle, hmip, -, hm, -⟩ := rimMip_bits s c t
  have := hm.2 h
  omega

theorem rimMip_supervisorTimer {c t : Nat} (h : t ≤ s.rimTime) : s.rimMip c t / 2 ^ 5 % 2 = 1 := by
  obtain ⟨e, m, v, w, hle, hmip, -, -, hv, -⟩ := rimMip_bits s c t
  have := hv.2 h
  omega

theorem rimMip_software {c t : Nat} (h : s.on fMsip c = true) : s.rimMip c t / 2 ^ 3 % 2 = 1 := by
  obtain ⟨e, m, v, w, hle, hmip, -, -, -, hw⟩ := rimMip_bits s c t
  have := hw.2 h
  omega

/-! ## Commands -/

theorem rimRetire_touches (k : Nat) : (rimRetire k).Touches [.free] (fun r => r.blk = .rim ∧ r.inst = k ∧ r.off = 0x138)
    (fun _ => False) := by
  simp [rimRetire, fInstret]

/-- What START does to its core. -/
def rimStarted (k a : Nat) : Eff :=
  doAll [setF fRimState k 1, setF fRimEntry k a, setAx ⟨.rimPc, k, 0⟩ a, setAx ⟨.rimMode, k, 0⟩ 3]

theorem rimStarted_touches (k a : Nat) : (rimStarted k a).Touches []
    (fun r => r.blk = .rim ∧ r.inst = k ∧ (r.off = 0x018 ∨ r.off = 0x100)) (fun _ => True) := by
  simp (maxDischargeDepth := 20) [rimStarted, fRimState, fRimEntry]

theorem rimStarted_core {a : Nat} (ha : a < 2 ^ 48) : ((rimStarted k a).run s).get fRimState k = 1 ∧
    ((rimStarted k a).run s).get fRimEntry k = a ∧ ((rimStarted k a).run s).ax ⟨.rimPc, k, 0⟩ = a ∧
    ((rimStarted k a).run s).ax ⟨.rimMode, k, 0⟩ = 3 := by
  rw [rimStarted, doAll_cons_run, doAll_cons_run, doAll_cons_run, doAll_cons_run, doAll_nil_run]
  refine ⟨?_, ?_, by simp, by simp⟩
  · rw [setAx_get, setAx_get, get_setF_off_ne (by decide), get_setF_same (by decide)]
    decide
  · rw [setAx_get, setAx_get, get_setF_same (by decide)]
    exact Nat.mod_eq_of_lt ha

theorem execRimStart_run (h : s.admits c .rim k (rimStartSpec k args)) : exec (.rimStart c k args) s =
    .next ((finish (s.asRunning c .rim k 0x10 args) eOK 0).run ((rimStarted k (argN args 0).toNat).run
      (s.taken c .rim k 0x10 args))) := by
  show Host.Outcome.next _ = _
  rw [admitCmd_run h]
  show Host.Outcome.next ((doAll [setF fRimState k 1, setF fRimEntry k (argN args 0).toNat,
    setAx ⟨.rimPc, k, 0⟩ (argN args 0).toNat, setAx ⟨.rimMode, k, 0⟩ 3, finish _ eOK 0]).run _) = _
  rw [rimStarted, doAll_cons_run, doAll_cons_run, doAll_cons_run, doAll_cons_run, doAll_cons_run, doAll_nil_run,
    doAll_cons_run, doAll_cons_run, doAll_cons_run, doAll_cons_run, doAll_nil_run]

/-- An accepted START names an address of the store. -/
theorem rimStart_entry_lt (h : s.admits c .rim k (rimStartSpec k args)) : (argN args 0).toNat < 2 ^ 48 := by
  obtain ⟨-, -, -, hbad, -⟩ := admits_checks h
  simp only [rimStartSpec, rimCoreSpec, Bool.or_eq_false_iff, decide_eq_false_iff_not] at hbad
  omega

/-- What HALT does to its core. -/
def rimHalted (k : Nat) (pc : W64) : Eff := doAll [rimRetire k, setF fRimState k 3,
  setAx ⟨.rimPc, k, 0⟩ (getBits pc 0 48), setF fHaltPc k (getBits pc 0 48), setEvt .rim k 0]

theorem rimHalted_touches (k : Nat) (pc : W64) : (rimHalted k pc).Touches [.free, .hi]
    (fun r => r.blk = .rim ∧ r.inst = k ∧ (r.off = 0x018 ∨ r.off = 0x108 ∨ r.off = 0x138 ∨ r.off = offEvtStatus))
    (fun _ => True) := by
  have h := (rimRetire_touches k).mono (ps := [.free, .hi]) (A := fun _ => True) (R := fun r => r.blk = .rim ∧ r.inst = k ∧
    (r.off = 0x018 ∨ r.off = 0x108 ∨ r.off = 0x138 ∨ r.off = offEvtStatus)) (by simp) (fun r h => ⟨h.1, h.2.1, .inr (.inr (.inl h.2.2))⟩)
    (fun _ h => h.elim)
  simp (maxDischargeDepth := 20) [rimHalted, h, fRimState, fHaltPc]

theorem rimHalted_core (s : State) (k : Nat) (pc : W64) : ((rimHalted k pc).run s).get fRimState k = 3 ∧
    ((rimHalted k pc).run s).get fHaltPc k = getBits pc 0 48 ∧ ((rimHalted k pc).run s).on (fEvt .rim 0) k = true ∧
    ((rimHalted k pc).run s).hi.running = s.hi.running := by
  have hevt : (setEvt .rim k 0).Touches [.hi] (fun r => r.off = offEvtStatus) (fun _ => False) := by simp
  rw [rimHalted, doAll_cons_run, doAll_cons_run, doAll_cons_run, doAll_cons_run, doAll_cons_run, doAll_nil_run]
  refine ⟨?_, ?_, setEvt_on (by decide), ?_⟩
  · rw [hevt.get _ (by simp [fRimState, offEvtStatus]), get_setF_off_ne (by decide), setAx_get, get_setF_same (by decide)]
    decide
  · rw [hevt.get _ (by simp [fHaltPc, offEvtStatus]), get_setF_same (by decide)]
    exact Nat.mod_eq_of_lt (getBits_lt _ _ _)
  · rw [setEvt_hi_running, setF_run, State.apply1_hi, setAx_run, State.apply1_hi, setF_run, State.apply1_hi]
    exact congrArg HostSt.running ((rimRetire_touches k).same s .hi (by simp) (by simp) (by simp))

theorem execRimHalt_run {pc : W64} (h : s.admits c .rim k (rimHaltSpec k args pc)) : exec (.rimHalt c k args pc) s =
    .next ((finish (s.asRunning c .rim k 0x11 args) eOK (BitVec.ofNat 64 (getBits pc 0 48))).run ((rimHalted k pc).run
      (s.taken c .rim k 0x11 args))) := by
  show Host.Outcome.next _ = _
  rw [admitCmd_run h]
  show Host.Outcome.next ((doAll [rimRetire k, setF fRimState k 3, setAx ⟨.rimPc, k, 0⟩ (getBits pc 0 48),
    setF fHaltPc k (getBits pc 0 48), setEvt .rim k 0, finish _ eOK _]).run _) = _
  rw [rimHalted, doAll_cons_run, doAll_cons_run, doAll_cons_run, doAll_cons_run, doAll_cons_run, doAll_cons_run, doAll_nil_run,
    doAll_cons_run, doAll_cons_run, doAll_cons_run, doAll_cons_run, doAll_cons_run, doAll_nil_run]

/-- What RESET does to its core. -/
def rimResetDone (k : Nat) : Eff := doAll [rimRetire k, setF fRimState k 0, modRm fun m => { m with lines := m.lines.map fun l =>
  if l.cluster = k / 8 ∧ l.core = k % 8 then { l with core := 8 } else l }]

theorem rimResetDone_touches (k : Nat) : (rimResetDone k).Touches [.free, .rm]
    (fun r => r.blk = .rim ∧ r.inst = k ∧ (r.off = 0x018 ∨ r.off = 0x138)) (fun _ => False) := by
  have h := (rimRetire_touches k).mono (ps := [.free, .rm]) (A := fun _ => False) (R := fun r => r.blk = .rim ∧ r.inst = k ∧
    (r.off = 0x018 ∨ r.off = 0x138)) (by simp) (fun r h => ⟨h.1, h.2.1, .inr h.2.2⟩) (fun _ h => h)
  simp (maxDischargeDepth := 20) [rimResetDone, h, fRimState]

theorem rimResetDone_core (s : State) (k : Nat) : ((rimResetDone k).run s).get fRimState k = 0 ∧
    ∀ l ∈ ((rimResetDone k).run s).rm.lines, ¬ (l.cluster = k / 8 ∧ l.core = k % 8) := by
  rw [rimResetDone, doAll_cons_run, doAll_cons_run, doAll_cons_run, doAll_nil_run]
  constructor
  · show ((setF fRimState k 0).run _).get fRimState k = 0
    rw [get_setF_same (by decide)]
    simp
  · intro l hl
    obtain ⟨l', -, rfl⟩ := List.mem_map.1 (show l ∈ List.map _ _ from hl)
    split
    · intro hk
      have := hk.2
      simp only at this
      omega
    next h => exact h

theorem execRimReset_run (h : s.admits c .rim k (rimResetSpec k args)) : exec (.rimReset c k args) s =
    .next ((finish (s.asRunning c .rim k 0x12 args) eOK 0).run ((rimResetDone k).run (s.taken c .rim k 0x12 args))) := by
  show Host.Outcome.next _ = _
  rw [admitCmd_run h]
  show Host.Outcome.next ((doAll [rimRetire k, setF fRimState k 0, modRm _, finish _ eOK 0]).run _) = _
  rw [rimResetDone, doAll_cons_run, doAll_cons_run, doAll_cons_run, doAll_cons_run, doAll_nil_run,
    doAll_cons_run, doAll_cons_run, doAll_cons_run, doAll_nil_run]

/-! ## The end of a FLUSH -/

/-- The effect of a FLUSH that is done. -/
def flushDone (k : Nat) (r : Running) (n : Nat) : Eff :=
  doAll [modRm (fun m => { m with lines := m.lines.filter fun l => l.cluster ≠ k }), finish r eOK (BitVec.ofNat 64 n),
    whenE (fun s => s.runningOf .rim (32 + k) 0x13 = []) (setF fRimState (32 + k) 0), setEvt .rim (32 + k) 0]

theorem effFlushDone_run {r : Running} (hh : s.held = false) (hr : (s.runningOf .rim (32 + k) 0x13).head? = some r) :
    ∃ n, (effFlushDone k).run s = (flushDone k r n).run s :=
  ⟨_, run_congr (by simp only [effFlushDone, hr, hh, Bool.false_eq_true, if_false]; rfl)⟩

theorem flushDone_run (s : State) (k : Nat) (r : Running) (n : Nat) : (flushDone k r n).run s = (setEvt .rim (32 + k) 0).run
    ((whenE (fun s => s.runningOf .rim (32 + k) 0x13 = []) (setF fRimState (32 + k) 0)).run
      ((finish r eOK (BitVec.ofNat 64 n)).run
        (s.apply1 (.rm fun m => { m with lines := m.lines.filter fun l => l.cluster ≠ k })))) := by
  rw [flushDone, doAll_cons_run, doAll_cons_run, doAll_cons_run, doAll_cons_run, doAll_nil_run, modRm_run]

theorem whenE_hi {p : State → Bool} {f : Fld} {i x : Nat} (s : State) : ((whenE p (setF f i x)).run s).hi = s.hi := by
  rw [whenE_run]
  split
  · rw [setF_run, State.apply1_hi]
  · rfl

theorem flushDone_core (s : State) (k : Nat) (r : Running) (n : Nat) :
    (∀ l ∈ ((flushDone k r n).run s).rm.lines, l.cluster ≠ k) ∧
    ((flushDone k r n).run s).hi.running = s.hi.running.filter (fun x => x.seq ≠ r.seq) ∧
    ((flushDone k r n).run s).on (fEvt .rim 0) (32 + k) = true ∧
    ((∀ x ∈ s.runningOf .rim (32 + k) 0x13, x.seq = r.seq) → ((flushDone k r n).run s).get fRimState (32 + k) = 0) := by
  have hevt : (setEvt .rim (32 + k) 0).Touches [.hi] (fun r => r.off = offEvtStatus) (fun _ => False) := by simp
  have hst : (whenE (fun s => s.runningOf .rim (32 + k) 0x13 = []) (setF fRimState (32 + k) 0)).Touches [] (fun _ => True)
      (fun _ => False) := by simp
  rw [flushDone_run]
  have hrun := finish_hi_running (s.apply1 (.rm fun m => { m with lines := m.lines.filter fun l => l.cluster ≠ k })) r eOK
    (BitVec.ofNat 64 n)
  refine ⟨fun l hl => ?_, ?_, setEvt_on (by decide), fun hall => ?_⟩
  · rw [(hevt.same _ .rm (by simp) (by simp) (by simp) : _ = _), (hst.same _ .rm (by simp) (by simp) (by simp) : _ = _),
      ((finish_touches r eOK _).same _ .rm (by simp) (by simp) (by simp) : _ = _), State.apply1_rm] at hl
    simpa using (List.mem_filter.1 hl).2
  · rw [setEvt_hi_running, whenE_hi, hrun, State.apply1_hi]
  · have hnone : State.runningOf ((finish r eOK (BitVec.ofNat 64 n)).run
        (s.apply1 (.rm fun m => { m with lines := m.lines.filter fun l => l.cluster ≠ k }))) .rim (32 + k) 0x13 = [] := by
      rw [State.runningOf, hrun, List.filter_eq_nil_iff]
      intro x hx hmine
      obtain ⟨hmem, hne⟩ := List.mem_filter.1 hx
      exact absurd (hall x (List.mem_filter.2 ⟨hmem, hmine⟩)) (by simpa using hne)
    rw [hevt.get _ (by simp [fRimState, offEvtStatus]), whenE_run, if_pos (by simpa using hnone), get_setF_same (by decide)]
    simp

theorem flushDone_touches (k : Nat) (r : Running) (n : Nat) :
    (flushDone k r n).Touches [.hi, .out, .rm] (fun _ => True) (fun _ => False) := by
  simp (maxDischargeDepth := 20) [flushDone]

/-! ## WFI -/

theorem effRimWfi_run {c mie t : Nat} (hr : s.running) (hc : c < 32) (hst : s.get fRimState c = 1)
    (hmip : s.rimMip c t &&& mie = 0) : (effRimWfi c mie t).run s = (doAll [rimRetire c, setAx ⟨.rimMie, c, 0⟩ mie,
      setAx ⟨.rimStimecmp, c, 0⟩ t, setF fRimState c 2]).run s := by
  rw [effRimWfi, whenE_run, if_pos]
  simp [fabLive_of_running hr, hc, hst, State.rimIrqOf, hmip]

theorem rimWfi_touches (c mie t : Nat) : (doAll [rimRetire c, setAx ⟨.rimMie, c, 0⟩ mie, setAx ⟨.rimStimecmp, c, 0⟩ t,
    setF fRimState c 2]).Touches [.free] (fun r => r.blk = .rim ∧ r.inst = c ∧ (r.off = 0x018 ∨ r.off = 0x138)) (fun _ => True) := by
  have h := (rimRetire_touches c).mono (ps := [.free]) (A := fun _ => True) (R := fun r => r.blk = .rim ∧ r.inst = c ∧
    (r.off = 0x018 ∨ r.off = 0x138)) (by simp) (fun r h => ⟨h.1, h.2.1, .inr h.2.2⟩) (fun _ _ => trivial)
  simp (maxDischargeDepth := 20) [h, fRimState]

/-! ## Doorbells and software interrupts -/

theorem execRimDoorbell_run {src : Src} {c : Nat} {v : W64} {root : Bool} (hl : s.lets src .rim c root) (hc : c < 32)
    (hv : getBits v 0 1 = 1) : exec (.rimDoorbell src c v) s = .next ((rimPend c 0).run (s.numbered .rim c)) := by
  show Host.Outcome.next _ = _
  rw [effRimDoorbell, if_neg (by omega), write_accepted hl (by decide) rfl, whenE_run, if_pos (by simpa using hv)]
  rfl

/-- A pending bit that its enable takes gives the machine external interrupt. -/
theorem irq_and_ne_zero {a b : Nat} (ha : a % 2 = 1) (hb : b % 2 = 1) : a &&& b ≠ 0 :=
  and_ne_zero_of_bit (n := 0) (by simpa using ha) (by simpa using hb)

theorem fIrq_bit {off c : Nat} (h : s.get ⟨.rim, off, 0, 1⟩ c = 1) : s.get ⟨.rim, off, 0, 2⟩ c % 2 = 1 := by
  simp only [State.get, getBits] at h ⊢
  omega

theorem rimPend_wakes {c : Nat} (hc : c < 32) (hst : s.get fRimState c = 2) (hen : s.get ⟨.rim, 0x118, 0, 1⟩ c = 1)
    (hmie : s.ax ⟨.rimMie, c, 0⟩ / 2 ^ 11 % 2 = 1) : ((rimPend c 0).run s).get fRimState c = 1 := by
  have hset : (setF ⟨.rim, 0x110, 0, 1⟩ c 1).Touches [] (fun k => k.off = 0x110) (fun _ => False) := touches_setF rfl
  have hpend : ((setF ⟨.rim, 0x110, 0, 1⟩ c 1).run s).get ⟨.rim, 0x110, 0, 1⟩ c = 1 := by
    rw [get_setF_same (by decide)]
    rfl
  rw [rimPend, doAll_cons_run, doAll_cons_run, doAll_nil_run]
  refine rimWake_state hc ((hset.get s (by simp [fRimState])).trans hst) (rimIrq_of_bit (n := 11) (rimMip_external ?_)
    (by rw [hset.ax s id, hmie]))
  exact irq_and_ne_zero (fIrq_bit hpend) (fIrq_bit ((hset.get s (by simp)).trans hen))

/-- A write of MSIP, or of IRQ_EN. -/
def msipSet (c : Nat) (en : Bool) (v : W64) : Eff :=
  doAll [if en then setReg .rim c 0x118 (v &&& 3) else setReg .rim c 0x128 (v &&& 1), rimWake c]

theorem msipSet_touches (c : Nat) (en : Bool) (v : W64) : (msipSet c en v).Touches []
    (fun k => k.blk = .rim ∧ (k.off = 0x118 ∨ k.off = 0x128 ∨ k.off = 0x018)) (fun _ => False) := by
  have h := (rimWake_touches c).mono (ps := []) (A := fun _ => False)
    (R := fun k => k.blk = .rim ∧ (k.off = 0x118 ∨ k.off = 0x128 ∨ k.off = 0x018)) (by simp)
    (fun k h => ⟨h.1, .inr (.inr h.2.2)⟩) (fun _ h => h)
  cases en <;> simp (maxDischargeDepth := 20) [msipSet, h]

theorem msipSet_run (s : State) (c : Nat) (en : Bool) (v : W64) : (msipSet c en v).run s = (rimWake c).run
    ((if en then setReg .rim c 0x118 (v &&& 3) else setReg .rim c 0x128 (v &&& 1) : Eff).run s) := by
  rw [msipSet, doAll_cons_run, doAll_cons_run, doAll_nil_run]

theorem msipSet_rd (s : State) (c : Nat) (v : W64) : ((msipSet c true v).run s).rd .rim c 0x118 = v &&& 3 ∧
    ((msipSet c false v).run s).rd .rim c 0x128 = v &&& 1 := by
  rw [msipSet_run, msipSet_run, (rimWake_touches c).rd _ (by simp), (rimWake_touches c).rd _ (by simp), if_pos rfl,
    if_neg (by decide)]
  constructor <;> simp

theorem msipSet_wakes {c : Nat} {v : W64} (hc : c < 32) (hst : s.get fRimState c = 2) (hv : getBits v 0 1 = 1)
    (hmie : s.ax ⟨.rimMie, c, 0⟩ / 2 ^ 3 % 2 = 1) : ((msipSet c false v).run s).get fRimState c = 1 := by
  have hset : (setReg .rim c 0x128 (v &&& 1)).Touches [] (fun k => k.off = 0x128) (fun _ => False) := touches_setReg rfl
  have hon : ((setReg .rim c 0x128 (v &&& 1)).run s).on fMsip c = true := by
    rw [on_eq_true_iff, get_of_rd (v := v &&& 1) (by simp [fMsip])]
    have hbit : (v &&& 1).toNat % 2 = v.toNat % 2 := by
      rw [BitVec.toNat_and, show (1 : W64).toNat = 1 from rfl, Nat.and_one_is_mod]
      omega
    simp only [getBits, fMsip, Nat.shiftRight_zero, pow_one] at hv ⊢
    omega
  rw [msipSet_run, if_neg (by decide)]
  exact rimWake_state hc ((hset.get s (by simp [fRimState])).trans hst)
    (rimIrq_of_bit (n := 3) (rimMip_software hon) (by rw [hset.ax s id, hmie]))

theorem execMsipWrite_run {src : Src} {c : Nat} {en : Bool} {v : W64} {root : Bool} (hl : s.lets src .rim c root) (hc : c < 32) :
    exec (.msipWrite src c en v) s = .next ((msipSet c en v).run (s.numbered .rim c)) := by
  show Host.Outcome.next _ = _
  rw [effMsipWrite, if_neg (by omega), write_accepted hl (by cases en <;> decide) rfl]
  rfl

theorem effRimTimer_run {c : Nat} (hr : s.running) (h : s.get fMtimecmp c ≤ s.rimTime ∨ s.ax ⟨.rimStimecmp, c, 0⟩ ≤ s.rimTime) :
    (effRimTimer c).run s = (rimWake c).run s := by
  rw [effRimTimer, whenE_run, if_pos]
  simpa [fabLive_of_running hr] using h

/-- Settles O20. -/
theorem rimCoresRunAndWake : Obligations.RimCoresRunAndWake := by
  refine ⟨?_, ?_, ?_, ?_, ?_, ?_, ?_, ?_, ?_⟩
  · intro s c k args h hnew
    refine ⟨_, execRimStart_run h, ?_⟩
    have hfin := finish_touches (s.asRunning c .rim k 0x10 args) eOK 0
    have htouch := rimStarted_touches k (argN args 0).toNat
    obtain ⟨hstate, hentry, hpc, hmode⟩ := rimStarted_core (s := s.taken c .rim k 0x10 args) (k := k) (rimStart_entry_lt h)
    refine ⟨?_, ?_, ?_, ?_, ?_, ?_, ?_, ?_⟩
    · rw [(hfin.same _ .seq (by simp) (by simp) (by simp) : _ = _), (htouch.same _ .seq (by simp) (by simp) (by simp) : _ = _),
        taken_seq]
    · rw [hfin.get _ (by simp [fRimState]), hstate]
    · rw [hfin.get _ (by simp [fRimEntry]), hentry]
    · rw [hfin.ax _ id, hpc]
    · rw [hfin.ax _ id, hmode]
    · refine finish_taken_running hnew ?_
      rw [(htouch.same _ .hi (by simp) (by simp) (by simp) : _ = _), taken_running]
    · exact ((taken_only (by simp) (by simp) (by simp) (by simp) (by simp)).trans (htouch.only _ (by simp) (.inl (by simp))
        (.inl (by simp)))).trans (hfin.only _ (by simp) (.inl (by simp)) (.inl (by simp)))
    · exact (taken_kept (by simp)).trans (RegsKeptBut.trans (htouch.regsKept _ _ fun _ _ _ h => .inl h)
        (hfin.regsKept _ _ fun _ _ _ h => .inr h))
  · intro s c k args pc h hnew
    refine ⟨_, execRimHalt_run h, ?_⟩
    have hfin := finish_touches (s.asRunning c .rim k 0x11 args) eOK (BitVec.ofNat 64 (getBits pc 0 48))
    have htouch := rimHalted_touches k pc
    obtain ⟨hstate, hpc, hevt, hhi⟩ := rimHalted_core (s.taken c .rim k 0x11 args) k pc
    refine ⟨?_, ?_, ?_, ?_, ?_, ?_, ?_⟩
    · rw [(hfin.same _ .seq (by simp) (by simp) (by simp) : _ = _), (htouch.same _ .seq (by simp) (by simp) (by simp) : _ = _),
        taken_seq]
    · rw [hfin.get _ (by simp [fRimState]), hstate]
    · rw [hfin.get _ (by simp [fHaltPc]), hpc]
    · rw [hfin.on _ (by simp [fEvt]), hevt]
    · exact finish_taken_running hnew (hhi.trans taken_running)
    · exact ((taken_only (by simp) (by simp) (by simp) (by simp) (by simp)).trans (htouch.only _ (by simp) (.inl (by simp))
        (.inl (by simp)))).trans (hfin.only _ (by simp) (.inl (by simp)) (.inl (by simp)))
    · exact (taken_kept (by simp)).trans (RegsKeptBut.trans (htouch.regsKept _ _ fun _ _ _ h => .inl h)
        (hfin.regsKept _ _ fun _ _ _ h => .inr h))
  · intro s c k args h hnew
    refine ⟨_, execRimReset_run h, ?_⟩
    have hfin := finish_touches (s.asRunning c .rim k 0x12 args) eOK 0
    have htouch := rimResetDone_touches k
    obtain ⟨hstate, hlines⟩ := rimResetDone_core (s.taken c .rim k 0x12 args) k
    refine ⟨?_, ?_, ?_, ?_, ?_, ?_⟩
    · rw [(hfin.same _ .seq (by simp) (by simp) (by simp) : _ = _), (htouch.same _ .seq (by simp) (by simp) (by simp) : _ = _),
        taken_seq]
    · rw [hfin.get _ (by simp [fRimState]), hstate]
    · rw [(hfin.same _ .rm (by simp) (by simp) (by simp) : _ = _)]
      exact hlines
    · refine finish_taken_running hnew ?_
      rw [(htouch.same _ .hi (by simp) (by simp) (by simp) : _ = _), taken_running]
    · exact ((taken_only (by simp) (by simp) (by simp) (by simp) (by simp)).trans (htouch.only _ (by simp) (.inl (by simp))
        (.inl (by simp)))).trans (hfin.only _ (by simp) (.inl (by simp)) (.inl (by simp)))
    · exact (taken_kept (by simp)).trans (RegsKeptBut.trans (htouch.regsKept _ _ fun _ _ _ h => .inl h)
        (hfin.regsKept _ _ fun _ _ _ h => .inr h))
  · intro s c k args h
    have hrun : exec (.rimFlush c k args) s = .next ((setF fRimState k 1).run (s.taken c .rim k 0x13 args)) := by
      show Host.Outcome.next _ = _
      rw [admitCmd_run h]
      rfl
    refine ⟨_, hrun, ?_⟩
    have htouch : (setF fRimState k 1).Touches [] (fun r => r.blk = .rim ∧ r.inst = k ∧ r.off = 0x018) (fun _ => False) :=
      touches_setF ⟨rfl, rfl, rfl⟩
    refine ⟨?_, ?_, ?_, ?_, ?_⟩
    · rw [(htouch.same _ .seq (by simp) (by simp) (by simp) : _ = _), taken_seq]
    · rw [get_setF_same (by decide)]
      decide
    · rw [(htouch.same _ .hi (by simp) (by simp) (by simp) : _ = _), taken_running]
    · exact (taken_only (by simp) (by simp) (by simp) (by simp) (by simp)).trans (htouch.only _ (by simp) (.inl (by simp))
        (.inr fun _ => id))
    · exact (taken_kept (by simp)).trans (htouch.regsKept _ _ fun _ _ _ h => .inl h)
  · intro s k r hh hr
    obtain ⟨n, hrun⟩ := effFlushDone_run (k := k) hh hr
    refine ⟨_, rfl, ?_⟩
    rw [hrun]
    obtain ⟨hlines, hrunning, hevt, hstate⟩ := flushDone_core s k r n
    exact ⟨hlines, hrunning, hevt, hstate, (flushDone_touches k r n).only s (by simp) (.inl (by simp)) (.inr fun _ => id)⟩
  · intro s c mie v hr hc hst hmip
    refine ⟨_, rfl, ?_⟩
    show _ ∧ _
    rw [effRimWfi_run hr hc hst hmip]
    have htouch := rimWfi_touches c mie v.toNat
    refine ⟨?_, ?_, ?_, htouch.only s (by simp) (.inl (by simp)) (.inl (by simp)), htouch.regsKept s _ fun _ _ _ h => h⟩
    · rw [doAll_cons_run, doAll_cons_run, doAll_cons_run, doAll_cons_run, doAll_nil_run, get_setF_same (by decide)]
      decide
    · rw [doAll_cons_run, doAll_cons_run, doAll_cons_run, doAll_cons_run, doAll_nil_run]
      simp
    · rw [doAll_cons_run, doAll_cons_run, doAll_cons_run, doAll_cons_run, doAll_nil_run]
      simp
  · intro s src c v root hl hc hv
    refine ⟨_, execRimDoorbell_run hl hc hv, ?_⟩
    obtain ⟨hnum, honly, hkept⟩ := write_frame (s := s) (blk := .rim) (key := c) (rimPend_touches c 0) [.regs, .seq]
      (fun b i o => b = .rim ∧ i = c ∧ (o = 0x110 ∨ o = 0x018 ∨ o = offSeq)) (by simp) (by simp) (by simp) (by simp) (by simp)
      (by simp [offSeq]) (by simp; tauto) (by simp)
    refine ⟨hnum, ?_, fun hst hen hmie => ?_, honly, hkept⟩
    · rw [rimPend, doAll_cons_run, doAll_cons_run, doAll_nil_run, (rimWake_touches c).get _ (by simp), get_setF_same (by decide)]
      decide
    · exact rimPend_wakes hc ((numbered_get (by decide)).trans hst) ((numbered_get (by decide)).trans hen) hmie
  · intro s src c en v root hl hc
    refine ⟨_, execMsipWrite_run hl hc, ?_⟩
    obtain ⟨hnum, honly, -⟩ := write_frame (s := s) (blk := .rim) (key := c) (msipSet_touches c en v) [.regs, .seq]
      (fun _ _ _ => True) (by simp) (by simp) (by simp) (by simp) (by simp) (by simp [offSeq]) (by simp) (by simp)
    refine ⟨hnum, ?_, ?_, fun hst he hv hmie => ?_, honly⟩
    · rintro rfl
      exact (msipSet_rd _ c v).1
    · rintro rfl
      exact (msipSet_rd _ c v).2
    · subst he
      exact msipSet_wakes hc ((numbered_get (by decide)).trans hst) hv hmie
  · intro s c hr hc hst hirq
    refine ⟨_, rfl, ?_⟩
    rw [effRimTimer_run hr (hirq.imp And.left And.left)]
    have htouch := rimWake_touches c
    refine ⟨?_, htouch.only s (by simp) (.inl (by simp)) (.inr fun _ => id), htouch.regsKept s _ fun _ _ _ h => h⟩
    rcases hirq with ⟨htime, hmie⟩ | ⟨htime, hmie⟩
    · exact rimWake_state hc hst (rimIrq_of_bit (rimMip_machineTimer htime) hmie)
    · exact rimWake_state hc hst (rimIrq_of_bit (rimMip_supervisorTimer htime) hmie)

end Sys2Proof.Machine
end

section
/-! PROOFS. The weight store (chapter 10): what a write leaves in each byte, and what it leaves alone (R277, R293). -/

namespace Sys2Proof.Machine

variable {s : State} {a : Nat} {data : List Byte}

/-! ## Bytes put into the store -/

/-- The updates that put bytes at an address. -/
def putBytes (a : Nat) (data : List Byte) : List Upd := data.zipIdx.map fun x => Upd.store (a + x.2) x.1

theorem putBytes_cons (a : Nat) (x : Byte) (xs : List Byte) : putBytes a (x :: xs) = .store a x :: putBytes (a + 1) xs := by
  simp [putBytes, List.zipIdx_cons, List.zipIdx_succ, Function.comp_def, Nat.add_comm, Nat.add_left_comm]

theorem putBytes_byte_ne {b : Nat} (s : State) (h : b < a ∨ a + data.length ≤ b) :
    (s.applyAll (putBytes a data)).storeByte b = s.storeByte b := by
  induction data generalizing a s with
  | nil => rfl
  | cons x xs ih =>
    rw [List.length_cons] at h
    rw [putBytes_cons, State.applyAll_cons, ih _ (by omega), State.storeByte_store, if_neg (by omega)]

theorem putBytes_byte (s : State) {i : Nat} (h : i < data.length) :
    (s.applyAll (putBytes a data)).storeByte (a + i) = data[i] := by
  induction data generalizing a s i with
  | nil => simp at h
  | cons x xs ih =>
    rw [putBytes_cons, State.applyAll_cons]
    cases i with
    | zero => simp [putBytes_byte_ne _ (a := a + 1) (b := a) (.inl (by omega)), State.storeByte_store]
    | succ i => rw [show a + (i + 1) = a + 1 + i by omega, ih _ (by simpa using h)]; rfl

theorem putBytes_within {ps : List Component} {R : RK → Prop} {A : Aux → Prop} (h : Component.store ∈ ps) :
    ∀ u ∈ putBytes a data, u.Within ps R A := fun u hu => by
  obtain ⟨x, -, rfl⟩ := List.mem_map.1 hu
  simpa [Upd.Within, Upd.parts] using h

/-- An effect that leaves the store alone leaves every byte of it. -/
theorem Eff.Touches.storeByte {ps : List Component} {R : RK → Prop} {A : Aux → Prop} {e : Eff} (h : e.Touches ps R A)
    (s : State) (b : Nat) (hp : Component.store ∉ ps) : (e.run s).storeByte b = s.storeByte b := by
  obtain ⟨hst, hfill⟩ := h.same s .store hp (by simp) (by simp)
  simp only [State.storeByte, hst, hfill]

/-! ## Writes of an extent (R277) -/

theorem storePut_touches (a : Nat) (data : List Byte) :
    (storePut a data).Touches [.store, .bad, .rm] (fun _ => False) (fun _ => False) := fun s => by
  unfold storePut storePutOr
  split
  · exact within_nil
  · intro u hu
    rcases List.mem_append.1 hu with h | h
    · exact putBytes_within (a := a) (data := data) (by simp) u h
    · simp only [List.mem_cons, List.not_mem_nil, or_false] at h
      rcases h with rfl | rfl <;> simp [Upd.Within, Upd.parts]

/-- The bad bursts an extent covers whole are sound again. -/
def burstsLeft (a n : Nat) (l : List Nat) : List Nat := l.filter fun b => !(a ≤ b * 32 && b * 32 + 32 ≤ a + n)

/-- What a write of a sound extent does beside its bytes. -/
def putTail (a n : Nat) : List Upd := [.storeBad (burstsLeft a n),
  .rm fun r => { r with lines := r.lines.filter fun l => !(l.addr < a + n && a < l.addr + 64) }]

theorem storePut_run (h : s.badPart a data.length = false) : (storePut a data).run s =
    (s.applyAll (putBytes a data)).applyAll (putTail a data.length) := by
  rw [← State.applyAll_append]
  refine congrArg s.applyAll ?_
  unfold storePut storePutOr
  rw [if_neg (by simp [h])]
  rfl

/-- A write of part of a bad burst is discarded in full. -/
theorem storePut_discarded (h : s.badPart a data.length = true) : (storePut a data).run s = s := by
  rw [Eff.run_eq, storePut, storePutOr, if_pos h]
  rfl

theorem putTail_byte (s : State) (a n b : Nat) : (s.applyAll (putTail a n)).storeByte b = s.storeByte b := by
  simp [putTail, State.storeByte]

theorem storePut_byte (h : s.badPart a data.length = false) {i : Nat} (hi : i < data.length) :
    ((storePut a data).run s).storeByte (a + i) = data[i] := by
  rw [storePut_run h, putTail_byte, putBytes_byte s hi]

theorem storePut_byte_ne (s : State) {b : Nat} (hb : b < a ∨ a + data.length ≤ b) :
    ((storePut a data).run s).storeByte b = s.storeByte b := by
  cases h : s.badPart a data.length with
  | false => rw [storePut_run h, putTail_byte, putBytes_byte_ne s hb]
  | true => rw [storePut_discarded h]

theorem putBytes_storeBad (s : State) : (s.applyAll (putBytes a data)).storeBad = s.storeBad := by
  induction data generalizing a s with
  | nil => rfl
  | cons x xs ih => rw [putBytes_cons, State.applyAll_cons, ih]; simp

/-- A write makes no burst bad. -/
theorem storePut_storeBad (s : State) (a : Nat) (data : List Byte) :
    ∀ b ∈ ((storePut a data).run s).storeBad, b ∈ s.storeBad := by
  intro b hb
  cases h : s.badPart a data.length with
  | false =>
    rw [storePut_run h] at hb
    simp only [putTail, State.applyAll_cons, State.applyAll_nil, State.apply1_storeBad, putBytes_storeBad, burstsLeft] at hb
    exact List.mem_of_mem_filter hb
  | true => rwa [storePut_discarded h] at hb

/-- Fewer bad bursts: an extent none of them is in part stays so. -/
theorem badPart_of_subset {t : State} {a n : Nat} (h : ∀ b ∈ t.storeBad, b ∈ s.storeBad) (hs : s.badPart a n = false) :
    t.badPart a n = false := by
  simp only [State.badPart, State.badBursts, List.any_eq_false, List.mem_filter] at hs ⊢
  exact fun b hb => hs b ⟨h b hb.1, hb.2⟩

/-! ## The alteration count (R293) -/

/-- A byte of a generation header of stack p. -/
def State.headerByte (s : State) (p b : Nat) : Prop := ∃ r < 4, s.regionBase p r ≤ b ∧ b < s.regionBase p r + 64

theorem headerBytes_length (ver alt st owner : Nat) : (headerBytes ver alt st owner).length = 64 := by
  simp [headerBytes, leBytes]

theorem writeHeader_run (s : State) (p g k ver alt st owner : Nat) : (writeHeader p g k ver alt st owner).run s =
    (storePut (s.regionBase p (2 * g + k)) (headerBytes ver alt st owner)).run s :=
  run_congr (by rw [writeHeader])

theorem writeHeader_touches (p g k ver alt st owner : Nat) : (writeHeader p g k ver alt st owner).Touches
    [.store, .bad, .rm] (fun _ => False) (fun _ => False) :=
  touches_of (fun s => storePut (s.regionBase p (2 * g + k)) (headerBytes ver alt st owner)) (fun _ => rfl)
    fun _ => storePut_touches _ _

/-- What an increment of ALT to `alt` writes: the header, and HOME_GEN. -/
def altWritten (s : State) (p g alt : Nat) : Eff := doAll [writeHeader p g (s.get (fCgen g) p) (s.hdrVer p g (s.get (fCgen g) p))
  alt 2 (s.hdrOwner p g (s.get (fCgen g) p)), setF (fGenAlt g) p alt]

theorem bumpAlt_eq (s : State) (p g : Nat) : bumpAlt p g s = altWritten s p g ((s.get (fGenAlt g) p + 1) % 65536) s := by
  rw [bumpAlt, altWritten]

theorem bumpAlt_touches (p g : Nat) : (bumpAlt p g).Touches [.store, .bad, .rm]
    (fun k => k.blk = .slip ∧ k.inst = p ∧ k.off = 0x180 + 8 * g) (fun _ => False) :=
  touches_of (fun s => altWritten s p g ((s.get (fGenAlt g) p + 1) % 65536)) (bumpAlt_eq · p g) fun s =>
    touches_doAll_cons ((writeHeader_touches p g _ _ _ _ _).mono (by simp) (by simp) (by simp))
      (touches_doAll_cons (touches_setF ⟨rfl, rfl, rfl⟩) touches_doAll_nil)

theorem bumpAlt_run (s : State) (p g : Nat) : ∃ alt ver owner, (bumpAlt p g).run s = (setF (fGenAlt g) p alt).run
    ((storePut (s.regionBase p (2 * g + s.get (fCgen g) p)) (headerBytes ver alt 2 owner)).run s) := by
  rw [run_congr (bumpAlt_eq s p g), altWritten, doAll_cons_run, doAll_cons_run, doAll_nil_run, writeHeader_run]
  exact ⟨_, s.hdrVer p g (s.get (fCgen g) p), s.hdrOwner p g (s.get (fCgen g) p), rfl⟩

theorem fCgen_lt_two (s : State) (g p : Nat) : s.get (fCgen g) p < 2 := get_lt s (fCgen g) p

theorem bumpAlt_byte {p g b : Nat} (hg : g < 2) (hb : ¬ s.headerByte p b) :
    ((bumpAlt p g).run s).storeByte b = s.storeByte b := by
  have hk := fCgen_lt_two s g p
  have hout : ¬ (s.regionBase p (2 * g + s.get (fCgen g) p) ≤ b ∧ b < s.regionBase p (2 * g + s.get (fCgen g) p) + 64) :=
    fun h => hb ⟨_, by omega, h⟩
  obtain ⟨alt, ver, owner, hrun⟩ := bumpAlt_run s p g
  rw [hrun, (touches_setF (ps := []) (R := fun _ => True) (A := fun _ => False) trivial).storeByte _ _ (by simp),
    storePut_byte_ne]
  rw [headerBytes_length]
  omega

theorem bumpAlt_storeBad (s : State) (p g : Nat) : ∀ b ∈ ((bumpAlt p g).run s).storeBad, b ∈ s.storeBad := by
  obtain ⟨alt, ver, owner, hrun⟩ := bumpAlt_run s p g
  rw [hrun]
  exact storePut_storeBad s _ _

/-- The stacks' regions lie where they lay. -/
theorem Eff.Touches.regionBase {ps : List Component} {R : RK → Prop} {A : Aux → Prop} {e : Eff} (h : e.Touches ps R A)
    (s : State) (p r : Nat) (hk : ¬ R ⟨.slip, p, 0x140 + 8 * r⟩) : (e.run s).regionBase p r = s.regionBase p r := by
  simp only [State.regionBase, h.get s (f := fMapBase r) (i := p) hk]

/-- One pair's turn of the alteration count. -/
def altPair (a n g : Nat) : Eff := whenE (fun s => s.on (fGenValid g) (a / slotSize) &&
  s.meetsRegion (a / slotSize) (2 * g + s.get (fCgen g) (a / slotSize)) a n &&
  !(a < s.regionBase (a / slotSize) (2 * g + s.get (fCgen g) (a / slotSize)) + 64 &&
    s.regionBase (a / slotSize) (2 * g + s.get (fCgen g) (a / slotSize)) < a + n)) (bumpAlt (a / slotSize) g)

theorem altCount_run (s : State) (a n : Nat) : (altCount a n).run s = (altPair a n 1).run ((altPair a n 0).run s) := by
  refine (run_congr (f := forEach [0, 1] (altPair a n)) rfl).trans ?_
  rw [forEach_cons_run, forEach_cons_run, forEach_nil_run]

theorem altPair_touches {g : Nat} (a n : Nat) (hg : g < 2) : (altPair a n g).Touches [.store, .bad, .rm]
    (fun k => k.blk = .slip ∧ k.inst = a / slotSize ∧ (k.off = 0x180 ∨ k.off = 0x188)) (fun _ => False) :=
  touches_whenE ((bumpAlt_touches _ g).mono (by simp) (fun k ⟨h, h', h''⟩ => ⟨h, h', by omega⟩) (by simp))

theorem altCount_touches (a n : Nat) : (altCount a n).Touches [.store, .bad, .rm]
    (fun k => k.blk = .slip ∧ k.inst = a / slotSize ∧ (k.off = 0x180 ∨ k.off = 0x188)) (fun _ => False) :=
  touches_of (fun _ => forEach [0, 1] (altPair a n)) (fun _ => rfl) fun _ => touches_forEach fun g hg =>
    altPair_touches a n (by simp at hg; omega)

theorem altPair_byte {n g b : Nat} (hg : g < 2) (hb : ¬ s.headerByte (a / slotSize) b) :
    ((altPair a n g).run s).storeByte b = s.storeByte b := by
  rw [altPair, whenE_run]
  split
  · exact bumpAlt_byte hg hb
  · rfl

theorem altPair_storeBad (s : State) (a n g : Nat) : ∀ b ∈ ((altPair a n g).run s).storeBad, b ∈ s.storeBad := by
  rw [altPair, whenE_run]
  split
  · exact bumpAlt_storeBad s _ _
  · exact fun _ h => h

theorem altCount_byte {n b : Nat} (hb : ¬ s.headerByte (a / slotSize) b) :
    ((altCount a n).run s).storeByte b = s.storeByte b := by
  rw [altCount_run, altPair_byte (by omega), altPair_byte (by omega) hb]
  rintro ⟨r, hr, hin⟩
  rw [(altPair_touches a n (by omega : 0 < 2)).regionBase _ _ _ (by simp; omega)] at hin
  exact hb ⟨r, hr, hin⟩

theorem altCount_storeBad (s : State) (a n : Nat) : ∀ b ∈ ((altCount a n).run s).storeBad, b ∈ s.storeBad := by
  rw [altCount_run]
  exact fun b h => altPair_storeBad _ _ _ _ b (altPair_storeBad _ _ _ _ b h)

/-! ## A write of a writer other than the glaze commit path -/

theorem countBytes_touches (f : Fld) (a n : Nat) : (countBytes f a n).Touches []
    (fun k => k = ⟨f.blk, a / slotSize, f.off⟩) (fun _ => False) := touches_whenE (touches_addSat rfl)

theorem reread1_touches (p g : Nat) : (reread1 p g).Touches [] (fun k => k.blk = .slip ∧ k.inst = p ∧ k.off = 0x180 + 8 * g)
    (fun _ => False) := touches_of (fun _ => setReg .slip p (0x180 + 8 * g) _) (fun _ => rfl) fun _ => touches_setReg ⟨rfl, rfl, rfl⟩

theorem headerReread_touches (p : Nat) : (headerReread p).Touches [] (fun k => k.blk = .slip ∧ k.inst = p ∧
    (k.off = 0x180 ∨ k.off = 0x188)) (fun _ => False) :=
  touches_doAll_cons ((reread1_touches p 0).mono (by simp) (fun _ ⟨h, h', h''⟩ => ⟨h, h', .inl h''⟩) (by simp))
    (touches_doAll_cons ((reread1_touches p 1).mono (by simp) (fun _ ⟨h, h', h''⟩ => ⟨h, h', .inr h''⟩) (by simp))
      touches_doAll_nil)

/-- What a write does after its bytes: BYTES_WR, and headers it covers read again (R485). -/
def writeNoted (a n : Nat) : Eff := doAll [countBytes fBytesWr a n,
  whenE (fun s => s.coversHeader (a / slotSize) a n) (headerReread (a / slotSize))]

theorem writeNoted_touches (a n : Nat) : (writeNoted a n).Touches [] (fun k => k.blk = .slip ∧ k.inst = a / slotSize ∧
    (k.off = 0x180 ∨ k.off = 0x188 ∨ k.off = 0x380)) (fun _ => False) :=
  touches_doAll_cons ((countBytes_touches _ a n).mono (by simp) (by rintro k rfl; simp [fBytesWr]) (by simp))
    (touches_doAll_cons (touches_whenE ((headerReread_touches _).mono (by simp) (fun k ⟨h, h', h''⟩ => ⟨h, h', by omega⟩) (by simp)))
      touches_doAll_nil)

theorem storeWrite_run (s : State) (a : Nat) (data : List Byte) : (storeWrite a data).run s =
    (writeNoted a data.length).run ((storePut a data).run ((altCount a data.length).run s)) := by
  rw [storeWrite, doAll_cons_run, doAll_cons_run, ← writeNoted]

theorem storeWrite_touches (a : Nat) (data : List Byte) : (storeWrite a data).Touches [.store, .bad, .rm]
    (fun k => k.blk = .slip ∧ k.inst = a / slotSize ∧ (k.off = 0x180 ∨ k.off = 0x188 ∨ k.off = 0x380)) (fun _ => False) :=
  touches_doAll_cons ((altCount_touches a _).mono (by simp) (fun k ⟨h, h', h''⟩ => ⟨h, h', by omega⟩) (by simp))
    (touches_doAll_cons ((storePut_touches a data).mono (by simp) (by simp) (by simp))
      (((writeNoted_touches a data.length).mono (by simp) (fun _ h => h) (by simp) : (writeNoted a data.length).Touches _ _ _)))

/-- A write of an extent with no burst bad in part writes its bytes. -/
theorem storeWrite_byte (h : s.badPart a data.length = false) {i : Nat} (hi : i < data.length) :
    ((storeWrite a data).run s).storeByte (a + i) = data[i] := by
  rw [storeWrite_run, (writeNoted_touches a _).storeByte _ _ (by simp),
    storePut_byte (badPart_of_subset (altCount_storeBad s a _) h) hi]

/-- Every other byte stays, but those of the stack's generation headers. -/
theorem storeWrite_byte_ne {b : Nat} (hb : b < a ∨ a + data.length ≤ b) (hh : ¬ s.headerByte (a / slotSize) b) :
    ((storeWrite a data).run s).storeByte b = s.storeByte b := by
  rw [storeWrite_run, (writeNoted_touches a _).storeByte _ _ (by simp), storePut_byte_ne _ hb, altCount_byte hh]

end Sys2Proof.Machine
end

section
/-! PROOFS. The rim cores' cached accesses to the weight store (R71). -/

namespace Sys2Proof.Machine

variable {s : State} {c addr len : Nat} {d : List Byte}

/-- What a load of sound store does. -/
def rimLoaded (addr len : Nat) (bs : List Byte) : Eff := doAll [countBytes fBytesRd addr len, emit (.bytes bs false)]

/-- What a store does: written through into a HOME or MIRROR region, else held by its cache. -/
def rimStored (c addr : Nat) (d : List Byte) : Eff := fun s =>
  if s.writeThrough addr d.length then storeWrite addr d s else rimCached c addr d s

theorem effRimStore_load (hr : s.running) (hc : c < 32) (hst : s.get fRimState c = 1) (hlen : 0 < len)
    (ha : addr < 0x30000000000) (hs : s.get (fSaggar .rim) c = 0) (hu : s.firstUnpop addr len = none)
    (hb : s.badBursts addr len = []) : effRimStore c addr len none 0 s = rimLoaded addr len (s.stRds addr len) s := by
  unfold effRimStore
  dsimp only
  rw [if_neg (by simp [fabLive_of_running hr, hst]; omega), hu, hs]
  simp [l2Meet, hb, rimLoaded]

theorem effRimStore_store (hr : s.running) (hc : c < 32) (hst : s.get fRimState c = 1) (hd : d ≠ [])
    (ha : addr < 0x30000000000) (hs : s.get (fSaggar .rim) c = 0) (hu : s.firstUnpop addr d.length = none)
    (hb : s.badPart addr d.length = false) : effRimStore c addr len (some d) 0 s = rimStored c addr d s := by
  unfold effRimStore
  dsimp only
  rw [if_neg (by simp [fabLive_of_running hr, hst, hd]; omega), hu, hs]
  simp [l2Meet, hb, rimStored]

theorem rimLoaded_touches (addr len : Nat) (bs : List Byte) : (rimLoaded addr len bs).Touches [.out]
    (fun k => k = ⟨.slip, addr / slotSize, 0x378⟩) (fun _ => False) :=
  touches_doAll_cons ((countBytes_touches _ addr len).mono (by simp) (fun _ h => h) (by simp))
    (touches_doAll_cons (touches_emit (by simp)) touches_doAll_nil)

theorem rimLoaded_out (s : State) (addr len : Nat) (bs : List Byte) :
    ((rimLoaded addr len bs).run s).out = .bytes bs false :: s.out := by
  rw [rimLoaded, doAll_cons_run, doAll_cons_run, doAll_nil_run, emit_run, State.apply1_out]
  exact congrArg _ ((countBytes_touches fBytesRd addr len).same s .out (by simp) (by simp) (by simp))

/-- What a cached store does to bad bursts and to the lines held. -/
def cachedTail (s : State) (c addr n : Nat) : List Upd :=
  [.storeBad (burstsLeft addr n),
   .rm fun r => { r with lines := (r.lines.filter fun x => !(linesAt addr n).contains x.addr) ++ (linesAt addr n).map fun l =>
      match s.rm.lines.find? fun x => x.addr = l with
      | some x => { x with cluster := c / 8, core := c % 8 }
      | none => ⟨l, c / 8, c % 8, s.stRds l 64⟩ }]

theorem rimCached_eq (s : State) (c addr : Nat) (d : List Byte) :
    rimCached c addr d s = putBytes addr d ++ cachedTail s c addr d.length := rfl

theorem rimCached_touches (c addr : Nat) (d : List Byte) :
    (rimCached c addr d).Touches [.store, .bad, .rm] (fun _ => False) (fun _ => False) := fun s u hu => by
  rw [rimCached_eq] at hu
  rcases List.mem_append.1 hu with h | h
  · exact putBytes_within (by simp) u h
  · simp only [cachedTail, List.mem_cons, List.not_mem_nil, or_false] at h
    rcases h with rfl | rfl <;> simp [Upd.Within, Upd.parts]

theorem rimCached_storeByte (s : State) (c addr : Nat) (d : List Byte) (b : Nat) :
    ((rimCached c addr d).run s).storeByte b = (s.applyAll (putBytes addr d)).storeByte b := by
  rw [Eff.run_eq, rimCached_eq, State.applyAll_append]
  simp [cachedTail, State.storeByte]

theorem rimStored_run (s : State) (c addr : Nat) (d : List Byte) : (rimStored c addr d).run s =
    if s.writeThrough addr d.length then (storeWrite addr d).run s else (rimCached c addr d).run s := by
  rw [Eff.run_eq, rimStored]
  split <;> rfl

theorem rimStored_touches (c addr : Nat) (d : List Byte) : (rimStored c addr d).Touches [.store, .bad, .rm]
    (fun k => k.blk = .slip ∧ k.inst = addr / slotSize) (fun _ => False) := fun s => by
  unfold rimStored
  split
  · exact (storeWrite_touches addr d).mono (by simp) (fun _ h => ⟨h.1, h.2.1⟩) (by simp) s
  · exact (rimCached_touches c addr d).mono (by simp) (by simp) (by simp) s

theorem rimStored_byte (hb : s.badPart addr d.length = false) {i : Nat} (hi : i < d.length) :
    ((rimStored c addr d).run s).storeByte (addr + i) = d[i] := by
  rw [rimStored_run]
  split
  · exact storeWrite_byte hb hi
  · rw [rimCached_storeByte, putBytes_byte s hi]

theorem rimStored_byte_ne {a : Nat} (ha : a < addr ∨ addr + d.length ≤ a)
    (hh : s.writeThrough addr d.length = true → ¬ s.headerByte (addr / slotSize) a) :
    ((rimStored c addr d).run s).storeByte a = s.storeByte a := by
  rw [rimStored_run]
  split
  next hw => exact storeWrite_byte_ne ha (hh hw)
  next => rw [rimCached_storeByte, putBytes_byte_ne s ha]

/-- Settles O21. -/
theorem rimCoreLoadsAndStores : Obligations.RimCoreLoadsAndStores := by
  unfold Obligations.RimCoreLoadsAndStores
  refine ⟨fun s c addr len hr hc hst hlen ha hs hu hb => ?_, fun s c addr len d hr hc hst hd ha hs hu hb => ?_⟩
  · refine ⟨(rimLoaded addr len (s.stRds addr len)).run s,
      congrArg Host.Outcome.next (run_congr (effRimStore_load hr hc hst hlen ha hs hu hb)), rimLoaded_out s addr len _,
      (rimLoaded_touches addr len _).only s (by simp) (by simp) (by simp),
      (rimLoaded_touches addr len _).regsKept s _ fun _ _ _ hk => ?_⟩
    simpa using hk
  · refine ⟨(rimStored c addr d).run s,
      congrArg Host.Outcome.next (run_congr (effRimStore_store hr hc hst hd ha hs hu hb)), fun i hi => rimStored_byte hb hi,
      fun a ha hh => rimStored_byte_ne ha ?_, (rimStored_touches c addr d).only s (by simp) (by simp) (by simp),
      (rimStored_touches c addr d).regsKept s _ fun _ _ _ hk => hk⟩
    rintro hw ⟨r, hr, hin⟩
    exact hh r hr hw hin

end Sys2Proof.Machine
end

section
/-! PROOFS. A rim core's accesses to the I/O regions (R69, R70). -/

namespace Sys2Proof.Machine

variable {s : State} {c addr width : Nat} {v : W64} {blk : Blk} {inst o : Nat}

theorem barSize_zero : barSize 0 0 = 0x4000000 := by decide

theorem barSize_two : barSize 0 2 = 0x80000000 := by decide

/-! ## Reads -/

theorem readBefore_plain (h : s.readsPlainly blk inst o) : readBefore blk inst o s = [] := by
  obtain ⟨htimed, -, hlist⟩ := h
  simp only [List.mem_cons, List.not_mem_nil, or_false, not_or, Prod.mk.injEq] at hlist
  unfold readBefore
  split
  · rfl
  · rw [htimed]
    split <;> simp_all [forEach, doAll, Eff.seq, skip]

theorem readAfter_plain (h : s.readsPlainly blk inst o) (t : State) : readAfter blk inst o t = [] := by
  obtain ⟨-, -, hlist⟩ := h
  simp only [List.mem_cons, List.not_mem_nil, or_false, not_or, Prod.mk.injEq] at hlist
  unfold readAfter
  split
  · rfl
  · split <;> simp_all

/-- A register read plainly answers its value and changes nothing. -/
theorem readReg_plain {arrived : Nat} (h : s.readsPlainly blk inst o) (g : W64 → Out) :
    (readReg blk inst o arrived fun x => emit (g x)).run s = s.apply1 (.out (g (s.view blk inst o arrived))) := by
  have htherm : ¬ (blk = .therm ∧ o = 0x128) := by
    rintro ⟨rfl, rfl⟩
    exact h.2.2 (by simp)
  have hbefore : (readBefore blk inst o).run s = s := congrArg s.applyAll (readBefore_plain h)
  rw [readReg, seq_run, hbefore]
  have hk : ((emit (g (s.view blk inst o arrived))).seq (readAfter blk inst o)).run s =
      s.apply1 (.out (g (s.view blk inst o arrived))) := by
    rw [seq_run, emit_run]
    exact congrArg _ (readAfter_plain h _)
  refine (run_congr ?_).trans hk
  dsimp only
  rw [if_neg fun hc => htherm ⟨hc.1, hc.2.1⟩]

theorem portRead_plain (h : s.readsPlainly blk inst o) (g : W64 → Out) :
    (portRead blk inst o fun x => emit (g x)).run s = s.apply1 (.out (g (s.view blk inst o 0))) := by
  rw [portRead, if_neg h.2.1, readReg_plain h]

/-! ## The regions -/

/-- An access of a running core in the region of the rim pages. -/
theorem effRimIo_pages {write : Bool} (hr : s.running) (hc : c < 32) (hst : s.get fRimState c = 1)
    (hlo : 0x800000000000 ≤ addr) (hhi : addr < 0x800004000000) :
    effRimIo c write addr width v s = rimPage c write addr width v (pageOfBar0 (addr - 0x800000000000)) s := by
  unfold effRimIo
  rw [if_neg (by simp [fabLive_of_running hr, hst]; omega), barSize_zero, if_pos ⟨hlo, by omega⟩]

theorem rimPage_read (hw : width = 4 ∨ width = 8) (ha : addr % width = 0) (hc : c < 32) (hs : s.get (fSaggar .rim) c = 0) :
    rimPage c false addr width v (some (blk, inst, o)) s =
      portRead blk inst (o / 8 * 8) (fun x => emit (.readData (readPart o width x))) s := by
  have hread : s.readAccess (.rim c) blk inst = true := by simp [State.readAccess, hc, hs]
  unfold rimPage
  rw [if_neg (by simp [ioBad, ha]; omega)]
  simp [hread]

theorem rimPage_write (ha : addr % 8 = 0) : rimPage c true addr 8 v (some (blk, inst, o)) s =
    inTurn (.rim c) (.registerWrite (.rim c) blk inst o 8 v) (regWriteAny (.rim c) blk inst o 8 v) s := by
  unfold rimPage
  rw [if_neg (by simp [ioBad, ha])]
  simp

/-- An address in no region faults the access. -/
theorem effRimIo_outside {write : Bool} (hr : s.running) (hc : c < 32) (hst : s.get fRimState c = 1)
    (ha : 0x30000000000 ≤ addr) (h0 : ¬ (0x800000000000 ≤ addr ∧ addr < 0x800004000000))
    (h2 : ¬ (0x800100000000 ≤ addr ∧ addr < 0x800180000000)) :
    effRimIo c write addr width v s = rimFault c addr eARG s := by
  unfold effRimIo
  rw [if_neg (by simp [fabLive_of_running hr, hst]; omega), barSize_zero, if_neg (by omega), barSize_two, if_neg (by omega)]

theorem rimFault_touches (c addr code : Nat) : (rimFault c addr code).Touches [.hi, .out]
    (fun k => k.blk = .rim ∧ k.inst = c) (fun _ => False) := by
  simp (maxDischargeDepth := 20) [rimFault, fRimFault]

theorem rimFault_run (s : State) (c addr code : Nat) : (rimFault c addr code).run s =
    (emit (.rimFault c)).run ((setEvt .rim c 1).run ((setF fRimFault c (addr % 2 ^ 48 + code * 2 ^ 48)).run s)) := by
  rw [rimFault, doAll_cons_run, doAll_cons_run, doAll_cons_run, doAll_nil_run]

theorem rimFault_out (s : State) (c addr code : Nat) : ((rimFault c addr code).run s).out = .rimFault c :: s.out := by
  rw [rimFault_run, emit_run, State.apply1_out]
  exact congrArg _ ((touches_setEvt (ps := [.hi]) (R := fun _ => True) (A := fun _ => False) trivial (by simp)).same
    ((setF fRimFault c (addr % 2 ^ 48 + code * 2 ^ 48)).run s) .out (by simp) (by simp) (by simp))

theorem rimFault_evt (s : State) (c addr code : Nat) : ((rimFault c addr code).run s).on (fEvt .rim 1) c = true := by
  rw [rimFault_run, (touches_emit (ps := [.out]) (R := fun _ => False) (A := fun _ => False) (by simp)).on _ (by simp)]
  exact setEvt_on (by simp)

/-- Settles O60. -/
theorem rimCoresReachTheRegisters : Obligations.RimCoresReachTheRegisters := by
  unfold Obligations.RimCoresReachTheRegisters
  refine ⟨fun s c addr width v blk inst o hr hc hst hs hw ha hlo hhi hp hplain => ?_,
    fun s c addr v blk inst o hr hc hst ha hlo hhi hp => ?_, fun s c addr width w v hr hc hst ha h0 h2 => ?_⟩
  · have hrun : (effRimIo c false addr width v).run s =
        s.apply1 (.out (.readData (readPart o width (s.view blk inst (o / 8 * 8) 0)))) := by
      rw [run_congr (effRimIo_pages hr hc hst hlo hhi), hp, run_congr (rimPage_read hw ha hc hs), portRead_plain hplain]
    refine ⟨_, congrArg Host.Outcome.next hrun, by simp, ?_⟩
    exact (touches_emit (ps := [.out]) (R := fun _ => False) (A := fun _ => False) (by simp)).only s (by simp) (by simp)
      (by simp)
  · refine congrArg Host.Outcome.next ?_
    rw [run_congr (effRimIo_pages hr hc hst hlo hhi), hp, run_congr (rimPage_write ha)]
  · exact ⟨(rimFault c addr eARG).run s, congrArg Host.Outcome.next (run_congr (effRimIo_outside hr hc hst ha h0 h2)),
      rimFault_out s c addr eARG, rimFault_evt s c addr eARG,
      (rimFault_touches c addr eARG).only s (by simp) (by simp) (by simp),
      (rimFault_touches c addr eARG).regsKept s _ fun _ _ _ hk => hk⟩

end Sys2Proof.Machine
end

section
/-! PROOFS. Frames of the operations of a tile's engines: what scratchpad accesses, pushes, write-backs, statistics and stops can
change at most. -/

namespace Sys2Proof.Machine

variable {ps : List Component} {R : RK → Prop} {A : Aux → Prop} {p q core : Nat} {i : QInstr}

/-! ## Scratchpad accesses -/

@[simp] theorem touches_eccTotal {n : Nat} (h : A ⟨.eccTotal, n, 0⟩) : (eccTotal n).Touches ps R A :=
  fun _ => touches_setAx h _

@[simp] theorem touches_spoil {x : Nat} (hsp : Component.sp ∈ ps) (hecc : Component.ecc ∈ ps) : (spoil p x).Touches ps R A :=
  fun s u hu => by
    rcases List.mem_append.1 hu with h | h
    · obtain ⟨k, -, rfl⟩ := List.mem_map.1 h
      simpa [Upd.Within, Upd.parts] using hsp
    · rw [List.mem_singleton.1 h]
      simpa [Upd.Within, Upd.parts] using hecc

@[simp] theorem touches_spWrIn {w : Nat → Bool} {x : Nat} {l : List Byte} (hsp : Component.sp ∈ ps)
    (hecc : Component.ecc ∈ ps) : (spWrIn p w x l).Touches ps R A := fun s => by
  unfold spWrIn
  split
  · intro u hu
    obtain ⟨y, -, rfl⟩ := List.mem_map.1 hu
    simpa [Upd.Within, Upd.parts] using hsp
  · refine within_doAll (touches_doAll_cons (touches_forEach fun _ _ => touches_spoil hsp hecc)
      (touches_doAll_cons (touches_list fun u hu => ?_) touches_doAll_nil))
    obtain ⟨y, -, hy⟩ := List.mem_flatMap.1 hu
    split at hy
    · simp only [List.mem_cons, List.not_mem_nil, or_false] at hy
      rcases hy with rfl | rfl <;> simpa [Upd.Within, Upd.parts]
    · simp at hy

@[simp] theorem touches_spWr {a : Nat} {l : List Byte} (hsp : Component.sp ∈ ps) (hecc : Component.ecc ∈ ps) :
    (spWr p a l).Touches ps R A := touches_spWrIn hsp hecc

/-- R223: a read of scratchpad words changes at most their check bits and bytes, the counters of the tile and of the module. -/
@[simp] theorem touches_eccReadW {req : Nat} {w : Nat → Bool} (hsp : Component.sp ∈ ps) (hecc : Component.ecc ∈ ps)
    (h608 : R ⟨.tile, p, 0x608⟩) (h610 : R ⟨.tile, p, 0x610⟩) (ha : ∀ n, A ⟨.eccTotal, n, 0⟩) :
    (eccReadW p req w).Touches ps R A := fun s => by
  refine touches_forEach (fun e _ => ?_) s
  dsimp only
  have hclear : Eff.Touches ps R A (fun _ => [.ecc e.1 0]) := touches_upd (by simpa [Upd.Within, Upd.parts] using hecc)
  refine touches_ite ?_ (touches_ite ?_ touches_skip)
  · exact touches_doAll_cons (touches_addSat h608) (touches_doAll_cons (touches_eccTotal (ha _)) (touches_doAll_cons
      (touches_ite hclear (touches_spoil hsp hecc)) touches_doAll_nil))
  · have hfirst : Eff.Touches ps R A (doAll [setF fUeAddr p (e.1 % 0x40000 * 8), setF fUeReq p req, setF fUeValid p 1]) :=
      touches_doAll_cons (touches_setF h610) (touches_doAll_cons (touches_setF h610) (touches_doAll_cons (touches_setF h610)
        touches_doAll_nil))
    exact touches_doAll_cons (touches_addSat h608) (touches_doAll_cons (touches_eccTotal (ha _)) (touches_doAll_cons
      (touches_whenE hfirst) touches_doAll_nil))

@[simp] theorem touches_eccRead {req : Nat} {l : Nat → Bool} (hsp : Component.sp ∈ ps) (hecc : Component.ecc ∈ ps)
    (h608 : R ⟨.tile, p, 0x608⟩) (h610 : R ⟨.tile, p, 0x610⟩) (ha : ∀ n, A ⟨.eccTotal, n, 0⟩) :
    (eccRead p req l).Touches ps R A := touches_eccReadW hsp hecc h608 h610 ha

@[simp] theorem touches_eccRmwIn {req : Nat} {w : Nat → Bool} (hsp : Component.sp ∈ ps) (hecc : Component.ecc ∈ ps)
    (h608 : R ⟨.tile, p, 0x608⟩) (h610 : R ⟨.tile, p, 0x610⟩) (ha : ∀ n, A ⟨.eccTotal, n, 0⟩) :
    (eccRmwIn p req w).Touches ps R A := touches_eccReadW hsp hecc h608 h610 ha

@[simp] theorem touches_eccRmw {req a n : Nat} (hsp : Component.sp ∈ ps) (hecc : Component.ecc ∈ ps)
    (h608 : R ⟨.tile, p, 0x608⟩) (h610 : R ⟨.tile, p, 0x610⟩) (ha : ∀ n, A ⟨.eccTotal, n, 0⟩) :
    (eccRmw p req a n).Touches ps R A := touches_eccRmwIn hsp hecc h608 h610 ha

/-! ## Pushes -/

@[simp] theorem touches_ringPush1 {l : List Byte} (hsp : Component.sp ∈ ps) (hecc : Component.ecc ∈ ps)
    (hr : R ⟨.tile, p, 0x4C0 + 8 * q⟩) (ha : A ⟨.ringLines, p, q⟩) : (ringPush1 p q l).Touches ps R A :=
  fun s => by
    unfold ringPush1
    exact within_doAll (touches_doAll_cons (touches_spWr hsp hecc) (touches_doAll_cons (touches_setF (f := fQWr q) hr)
      (touches_doAll_cons (touches_setAx ha) touches_doAll_nil)))

@[simp] theorem touches_ringPush {l : List Byte} (hsp : Component.sp ∈ ps) (hecc : Component.ecc ∈ ps)
    (hr : R ⟨.tile, p, 0x4C0 + 8 * q⟩) (ha : A ⟨.ringLines, p, q⟩) : (ringPush p q l).Touches ps R A :=
  touches_forEach fun _ _ => touches_ringPush1 hsp hecc hr ha

@[simp] theorem touches_pushSome {l : List Byte} (hsp : Component.sp ∈ ps) (hecc : Component.ecc ∈ ps)
    (hf : Component.free ∈ ps) (ht : Component.tl ∈ ps) (hr : R ⟨.tile, p, 0x4C0 + 8 * ringOf q⟩)
    (ha : A ⟨.ringLines, p, ringOf q⟩) : (pushSome p q l).Touches ps R A :=
  touches_drawFree hf fun _ => touches_doAll_cons (touches_ringPush hsp hecc hr ha) (touches_doAll_cons (touches_modTl ht)
    touches_doAll_nil)

/-- What the write-back to a destination may change: its ring's pointers where it is a queue end. -/
def Opd.pushRegs (c : Opd) (R : RK → Prop) (A : Aux → Prop) (p : Nat) : Prop :=
  ∀ q n, c = .q q n → R ⟨.tile, p, 0x4C0 + 8 * ringOf q⟩ ∧ A ⟨.ringLines, p, ringOf q⟩

@[simp] theorem touches_writeBackC {c : Opd} {e : Nat} {col : ElemOut → Nat} {cols : ElemOut → List Nat} {l : List ElemOut}
    (hsp : Component.sp ∈ ps) (hecc : Component.ecc ∈ ps) (hc : c.pushRegs R A p) :
    (writeBackC p c e col cols l).Touches ps R A := by
  unfold writeBackC
  split
  · exact touches_forEach fun _ _ => touches_spWrIn hsp hecc
  · exact touches_ringPush hsp hecc (hc _ _ rfl).1 (hc _ _ rfl).2
  · exact touches_skip

@[simp] theorem touches_rmwC {req : Nat} {c : Opd} {e : Nat} {col : ElemOut → Nat} {cols : ElemOut → List Nat}
    {l : List ElemOut} (hsp : Component.sp ∈ ps) (hecc : Component.ecc ∈ ps)
    (h608 : R ⟨.tile, p, 0x608⟩) (h610 : R ⟨.tile, p, 0x610⟩) (ha : ∀ n, A ⟨.eccTotal, n, 0⟩) :
    (rmwC p req c e col cols l).Touches ps R A := fun s => by
  unfold rmwC
  split
  · split
    · exact within_nil
    · exact touches_forEach (fun _ _ => touches_eccRmwIn hsp hecc h608 h610 ha) s
  · exact within_nil

/-! ## Counters and statistics of a matrix core -/

@[simp] theorem touches_countFl {blk : Blk} {off inst n : Nat} {fl : Fl} (h : R ⟨blk, inst, off⟩) :
    (countFl blk off inst fl n).Touches ps R A :=
  touches_doAll_cons (touches_whenE (touches_addSat h)) (touches_doAll_cons (touches_whenE (touches_addSat h))
    (touches_doAll_cons (touches_whenE (touches_addSat h)) (touches_doAll_cons (touches_whenE (touches_addSat h))
      touches_doAll_nil)))

section
variable (hcore : ∀ off, R ⟨.core, core, off⟩)
include hcore

@[simp] theorem touches_countExc {l : List ElemOut} (hh : Component.hi ∈ ps) : (countExc core i l).Touches ps R A :=
  touches_forEach fun _ _ => touches_doAll_cons (touches_countFl (hcore _)) (touches_doAll_cons
    (touches_whenE (touches_doAll_cons (touches_setReg (hcore _)) (touches_doAll_cons (touches_setEvt (hcore _) hh)
      touches_doAll_nil))) touches_doAll_nil)

@[simp] theorem touches_matStats {cycles macs : Nat} : (matStats core cycles macs).Touches ps R A :=
  touches_whenE (touches_doAll_cons (touches_addSat (hcore _)) (touches_doAll_cons
    (touches_fun fun _ => touches_setF (hcore _)) touches_doAll_nil))

@[simp] theorem touches_tbSet {halves st : Nat} : (tbSet core halves st).Touches ps R A :=
  touches_doAll_cons (touches_whenE (touches_setF (hcore _))) (touches_doAll_cons (touches_whenE (touches_setF (hcore _)))
    touches_doAll_nil)

@[simp] theorem touches_spStats {k nb rows : Nat} (hf : Component.free ∈ ps) : (spStats i core k nb rows).Touches ps R A :=
  fun s => by
  unfold spStats
  dsimp only
  exact within_doAll <| touches_doAll_cons (touches_matStats hcore) (touches_doAll_cons (touches_whenE
    (touches_doAll_cons (touches_addSat (hcore _)) (touches_doAll_cons (touches_addSat (hcore _)) (touches_doAll_cons
      (touches_addSat (hcore _)) (touches_doAll_cons (touches_addSat (hcore _)) (touches_doAll_cons
        (touches_ite (touches_addFree hf (hcore _)) touches_skip) touches_doAll_nil)))))) touches_doAll_nil)

@[simp] theorem touches_spErrRecord {e : Nat × Nat × Nat} : (spErrRecord i core e).Touches ps R A :=
  touches_whenE (touches_setReg (hcore _))

end

/-! ## Accumulators -/

@[simp] theorem touches_writeAccs {isInt : Bool} {l : List ElemOut} (h : Component.acc ∈ ps) :
    (writeAccs core isInt l).Touches ps R A := touches_list fun u hu => by
  obtain ⟨x, -, rfl⟩ := List.mem_map.1 hu
  simpa [Upd.Within, Upd.parts] using h

/-- Segment registers are accumulators. -/
@[simp] theorem touches_segRegs {M k : Nat} (h : Component.acc ∈ ps) :
    Eff.Touches ps R A (fun s => s.segRegs i core M k) := fun s u hu => by
  obtain ⟨x, -, hx⟩ := List.mem_flatMap.1 hu
  dsimp only at hx
  split at hx
  · simp at hx
  · obtain ⟨g, -, hg⟩ := List.mem_flatMap.1 hx
    obtain ⟨m, -, rfl⟩ := List.mem_map.1 hg
    simpa [Upd.Within, Upd.parts] using h

/-- The same, of a state found before. -/
theorem touches_segRegs_of {M k : Nat} (s : State) (h : Component.acc ∈ ps) :
    Eff.Touches ps R A (fun _ => s.segRegs i core M k) := touches_list (touches_segRegs h s)

/-! ## Heads of queues -/

@[simp] theorem touches_served {req : Nat} (h : ∀ k : Aux, k.kind = .urgent → k.a = p * 8 + req → A k) :
    (served p req).Touches ps R A := touches_upd ⟨by simp [Upd.parts], fun k hk => by
  simp only [Bool.and_eq_true, decide_eq_true_eq] at hk
  exact h k hk.1 hk.2⟩

@[simp] theorem touches_markWorked {e : Nat} (h : ∀ k : Aux, k.kind = .urgent → k.a = p * 8 + e → A k)
    (ht : Component.tl ∈ ps) : (markWorked p e).Touches ps R A :=
  touches_doAll_cons (touches_served h) (touches_doAll_cons (touches_modTl ht) touches_doAll_nil)

@[simp] theorem touches_tbForget (ht : Component.tl ∈ ps) : (tbForget core).Touches ps R A := touches_modTl ht

@[simp] theorem touches_tbDiscard (hcore : ∀ off, R ⟨.core, core, off⟩) (ht : Component.tl ∈ ps) :
    (tbDiscard core).Touches ps R A :=
  touches_doAll_cons (touches_setReg (hcore _)) (touches_doAll_cons (touches_tbForget ht) touches_doAll_nil)

/-! ## Generators and exceptions of a vector engine -/

@[simp] theorem touches_freeLanes (hf : Component.free ∈ ps) (hr : Component.rng ∈ ps) : (freeLanes p).Touches ps R A :=
  fun s u hu => by
    rcases List.mem_cons.1 hu with rfl | h
    · simpa [Upd.Within, Upd.parts] using hf
    · obtain ⟨l, -, rfl⟩ := List.mem_map.1 h
      simpa [Upd.Within, Upd.parts] using hr

@[simp] theorem touches_vecCount {l : List VExc} (hvec : ∀ off, R ⟨.vec, i.p, off⟩) (hh : Component.hi ∈ ps) :
    (vecCount i l).Touches ps R A :=
  touches_forEach fun _ _ => touches_doAll_cons (touches_countFl (hvec _)) (touches_doAll_cons
    (touches_whenE (touches_doAll_cons (touches_setReg (hvec _)) (touches_doAll_cons (touches_setReg (hvec _))
      (touches_doAll_cons (touches_setEvt (hvec _) hh) touches_doAll_nil)))) touches_doAll_nil)

/-- What a VOP's rows store: scratchpad bytes, row state, generators. -/
def vecStored (s : State) (i : QInstr) (v : VAcc) : List Eff :=
  let rows := if v.bad then v.results.length else vopRows i.a i.c
  let res := span (cRBase i.chain) (rows * cResBytes i.chain)
  [(if s.ecc = [] then skip else look (fun _ => i.vReads v) fun l =>
      eccRead i.p 4 fun ln => l.any fun x => x.1 < x.2 && x.1 / 64 ≤ ln && ln ≤ (x.2 - 1) / 64),
    forEach v.stores fun x => doAll [eccRmw i.p 4 x.1 x.2.length, spWr i.p x.1 x.2],
    (match i.c with
      | .q q _ => if v.bad then pushSome i.p q v.push else ringPush i.p (ringOf q) v.push
      | _ => skip),
    whenE (fun s => s.ecc ≠ [] && v.results ≠ []) (eccRmwIn i.p 4 res),
    forEach v.results fun x => spWrIn i.p res x.1 x.2,
    (fun _ => v.rowW.map fun x => Upd.row ((i.p * 256 + x.1) * 3 + x.2.1) x.2.2),
    (if s.on fRngMode i.p then doAll [fun _ => [.free], freeLanes i.p]
      else fun _ => v.lanes.zipIdx.map fun x => Upd.rng (rngKey i.p x.2) (BitVec.ofNat 96 x.1))]

/-- What a VOP counts. -/
def vecCounted (i : QInstr) (v : VAcc) : List Eff :=
  [addSat fRngDraws i.p v.draws, vecCount i v.exc, whenE (fun s => s.on fVecStat i.p)
      (doAll [addSat fVecBeats i.p v.beats, addSat fVecActive i.p v.beats, addFree fVecWait i.p])]

theorem vecCommit_eq (i : QInstr) (v : VAcc) (s : State) :
    vecCommit i v s = doAll (vecStored s i v ++ vecCounted i v) s := rfl

theorem touches_doAll_append {es fs : List Eff} (he : (doAll es).Touches ps R A) (hf : (doAll fs).Touches ps R A) :
    (doAll (es ++ fs)).Touches ps R A := fun s u hu => by
  have happ (s : State) : doAll (es ++ fs) s = (doAll es).seq (doAll fs) s := by
    clear he hf hu
    induction es generalizing s with
    | nil => simp [doAll, Eff.seq, skip]
    | cons e es ih =>
      show (e.seq (doAll (es ++ fs))) s = ((e.seq (doAll es)).seq (doAll fs)) s
      simp only [Eff.seq, ih, State.applyAll_append, List.append_assoc]
  exact touches_seq he hf s u (happ s ▸ hu)

theorem touches_vecStored {v : VAcc} (s : State) (hp : ∀ c ∈ [Component.sp, .ecc, .free, .tl, .row, .rng], c ∈ ps)
    (h608 : R ⟨.tile, i.p, 0x608⟩) (h610 : R ⟨.tile, i.p, 0x610⟩)
    (hc : i.c.pushRegs R A i.p) (ha : ∀ n, A ⟨.eccTotal, n, 0⟩) : (doAll (vecStored s i v)).Touches ps R A := by
  simp only [List.mem_cons, List.not_mem_nil, or_false, forall_eq_or_imp, forall_eq] at hp
  obtain ⟨hsp, hecc, hf, ht, hrow, hrng⟩ := hp
  have hpush : Eff.Touches ps R A (match i.c with
      | .q q _ => if v.bad then pushSome i.p q v.push else ringPush i.p (ringOf q) v.push
      | _ => skip) := by
    split
    next q n hq =>
      exact touches_ite (touches_pushSome hsp hecc hf ht (hc _ _ hq).1 (hc _ _ hq).2)
        (touches_ringPush hsp hecc (hc _ _ hq).1 (hc _ _ hq).2)
    next => exact touches_skip
  have hrows : Eff.Touches ps R A (fun _ => v.rowW.map fun x => Upd.row ((i.p * 256 + x.1) * 3 + x.2.1) x.2.2) :=
    touches_list fun u hu => by
      obtain ⟨x, -, rfl⟩ := List.mem_map.1 hu
      simpa [Upd.Within, Upd.parts] using hrow
  have hlanes : Eff.Touches ps R A (fun _ => v.lanes.zipIdx.map fun x => Upd.rng (rngKey i.p x.2) (BitVec.ofNat 96 x.1)) :=
    touches_list fun u hu => by
      obtain ⟨x, -, rfl⟩ := List.mem_map.1 hu
      simpa [Upd.Within, Upd.parts] using hrng
  have hfree : Eff.Touches ps R A (fun _ => [.free]) := touches_upd (by simpa [Upd.Within, Upd.parts] using hf)
  refine touches_doAll_cons (touches_ite touches_skip (touches_look fun _ => touches_eccRead hsp hecc h608 h610 ha)) ?_
  refine touches_doAll_cons (touches_forEach fun _ _ => touches_doAll_cons (touches_eccRmw hsp hecc h608 h610 ha)
    (touches_doAll_cons (touches_spWr hsp hecc) touches_doAll_nil)) ?_
  refine touches_doAll_cons hpush ?_
  refine touches_doAll_cons (touches_whenE (touches_eccRmwIn hsp hecc h608 h610 ha)) ?_
  refine touches_doAll_cons (touches_forEach fun _ _ => touches_spWrIn hsp hecc) ?_
  refine touches_doAll_cons hrows ?_
  exact touches_doAll_cons (touches_ite (touches_doAll_cons hfree (touches_doAll_cons (touches_freeLanes hf hrng)
    touches_doAll_nil)) hlanes) touches_doAll_nil

theorem touches_vecCounted {v : VAcc} (hf : Component.free ∈ ps) (hh : Component.hi ∈ ps) (hvec : ∀ off, R ⟨.vec, i.p, off⟩) :
    (doAll (vecCounted i v)).Touches ps R A :=
  touches_doAll_cons (touches_addSat (hvec _)) (touches_doAll_cons (touches_vecCount hvec hh) (touches_doAll_cons
    (touches_whenE (touches_doAll_cons (touches_addSat (hvec _)) (touches_doAll_cons (touches_addSat (hvec _))
      (touches_doAll_cons (touches_addFree hf (hvec _)) touches_doAll_nil)))) touches_doAll_nil))

/-- What a VOP's rows leave: scratchpad, row state, generators, the engine's page, its tile's counters of scratchpad errors and
the ring it pushes into. -/
theorem touches_vecCommit {v : VAcc} (hp : ∀ c ∈ [Component.sp, .ecc, .free, .tl, .row, .rng, .hi], c ∈ ps)
    (hvec : ∀ off, R ⟨.vec, i.p, off⟩) (h608 : R ⟨.tile, i.p, 0x608⟩) (h610 : R ⟨.tile, i.p, 0x610⟩)
    (hc : i.c.pushRegs R A i.p) (ha : ∀ n, A ⟨.eccTotal, n, 0⟩) : (vecCommit i v).Touches ps R A := fun s => by
  rw [vecCommit_eq]
  exact within_doAll (touches_doAll_append (touches_vecStored s (fun c hc => hp c (by revert c; decide)) h608 h610 hc ha)
    (touches_vecCounted (hp _ (by decide)) (hp _ (by decide)) hvec))

end Sys2Proof.Machine
end

section
/-! PROOFS. Frames of what leaves over fabric ports and board links: datagrams, messages, mirror writes. -/

namespace Sys2Proof.Machine

variable {ps : List Component} {R : RK → Prop} {A : Aux → Prop} {port m typ cls : Nat} {al : Bool} {data : List Byte}

@[simp] theorem touches_modPeer {f : Peer → Peer} (h : Component.fb ∈ ps) : (modPeer port m al f).Touches ps R A :=
  touches_modFb h

theorem touches_addLk {off lo w n : Nat} (h : R ⟨lkBlk port, lkInst port, off⟩) : (addLk port off lo w n).Touches ps R A :=
  touches_addSat h

theorem touches_setLk {off lo w n : Nat} (h : R ⟨lkBlk port, lkInst port, off⟩) : (setLk port off lo w n).Touches ps R A :=
  touches_setF h

theorem touches_evtLk {bit : Nat} (h : R ⟨lkBlk port, lkInst port, offEvtStatus⟩) (hh : Component.hi ∈ ps) :
    (evtLk port bit).Touches ps R A := touches_setEvt h hh

theorem touches_errLk {code info : Nat} (h : R ⟨lkBlk port, lkInst port, offErr⟩) (h' : R ⟨lkBlk port, lkInst port, offEvtStatus⟩)
    (hh : Component.hi ∈ ps) : (errLk port code info).Touches ps R A := touches_recordErr h h' hh

/-- The counters of a port that sending counts in: frames sent, and datagrams without a route. -/
def sendOff (off : Nat) : Bool := off = 0x148 || off = 0x170

section
variable (hl : ∀ q off, sendOff off = true → R ⟨lkBlk q, lkInst q, off⟩)
include hl

theorem touches_sendFrame {fr : Frame} (ho : Component.out ∈ ps) : (sendFrame port fr).Touches ps R A := fun s => by
  unfold sendFrame
  exact within_doAll (touches_doAll_cons (touches_emit ho) (touches_doAll_cons (touches_whenE (touches_addLk (hl _ _ rfl)))
    touches_doAll_nil))

variable (ho : Component.out ∈ ps) (hf : Component.fb ∈ ps)
include ho hf

theorem touches_pumpDgrams : (pumpDgrams port).Touches ps R A := fun s => by
  unfold pumpDgrams
  exact within_doAll (touches_doAll_cons (touches_forEach fun _ _ => touches_sendFrame hl ho) (touches_doAll_cons
    (touches_whenE (touches_modFb hf)) touches_doAll_nil))

theorem touches_sendOn : (sendOn port m al typ data).Touches ps R A := fun s => by
  unfold sendOn
  dsimp only
  split
  · exact touches_modFb hf s
  · exact within_doAll (touches_doAll_cons (touches_pumpDgrams hl ho hf) (touches_doAll_cons (touches_sendFrame hl ho)
      touches_doAll_nil))

theorem touches_pump : (pump port m al).Touches ps R A := fun s => by
  unfold pump
  split
  · exact within_nil
  · exact within_doAll (touches_doAll_cons (touches_forEach fun _ _ => touches_sendFrame hl ho) (touches_doAll_cons
      (touches_modPeer hf) touches_doAll_nil))

theorem touches_sendMsg : (sendMsg port m al cls typ data).Touches ps R A := fun s => by
  unfold sendMsg
  split
  · exact within_nil
  · exact within_doAll (touches_doAll_cons (touches_modPeer hf) (touches_doAll_cons (touches_pump hl ho hf)
      touches_doAll_nil))

theorem touches_sendDgram : (sendDgram m typ data).Touches ps R A := fun s => by
  unfold sendDgram
  split
  · exact within_nil
  split
  · exact touches_sendOn hl ho hf s
  split
  · exact touches_addLk (hl _ _ rfl) s
  · exact within_doAll (touches_doAll_cons (touches_sendOn hl ho hf) (touches_doAll_cons
      (touches_withSome touches_skip fun _ => touches_sendOn hl ho hf) touches_doAll_nil))

theorem touches_castJob {j : Nat} : (castJob j typ data).Touches ps R A := fun s => by
  unfold castJob
  exact touches_forEach (fun _ _ => touches_sendDgram hl ho hf) s

theorem touches_sendL0 : (sendL0 typ data).Touches ps R A := fun s => by
  unfold sendL0
  split
  · exact touches_sendMsg hl ho hf s
  · exact within_nil

theorem touches_mirrorWrite {p k off n step : Nat} (hg : Component.gl ∈ ps) : (mirrorWrite p k off n step).Touches ps R A :=
  fun s => by
    unfold mirrorWrite
    split
    · exact within_nil
    dsimp only
    split
    · exact touches_modGl hg s
    · exact touches_forEach (fun _ _ => touches_sendL0 hl ho hf) s

end

end Sys2Proof.Machine
end

section
/-! PROOFS. The frame of a fault: what the flush of a tile or a kiln, a kiln's fault and a step abort can change at most (R128,
R327, R356). -/

namespace Sys2Proof.Machine

variable {k p core : Nat} {i : QInstr}

/-- The parts a fault may change, registers and hidden scalars apart. -/
def faultParts : List Component :=
  [.hi, .out, .free, .tl, .sp, .ecc, .acc, .row, .rng, .net, .sl, .pg, .gl, .fb, .store, .bad, .rm]

/-- The hidden scalars a fault may change. -/
def faultKinds : List AuxKind :=
  [.eccTotal, .ringLines, .ringKept, .startDue, .dmaLeft, .dmaErr, .seqWait, .outLeft, .combCredit, .ringFreed, .feedUsed,
    .winKiln, .feedKiln, .kilnAddr, .stepOpen, .stepAborted, .voted, .urgent]

def faultAux (a : Aux) : Prop := faultKinds.contains a.kind = true

/-- The parts a fault may change that are not accumulators. -/
def quietParts : List Component := [.hi, .out, .free, .tl, .sp, .ecc, .row, .rng, .net, .sl, .pg, .gl, .fb, .store, .bad, .rm]

/-- Those of them that are neither the host interface's nor the pug units'. -/
def muteParts : List Component := [.out, .free, .tl, .sp, .ecc, .row, .rng, .net, .sl, .gl, .fb, .store, .bad, .rm]

/-- The pages a flush may change, the ports' apart. -/
def quietBlks : List Blk := [.core, .vec, .tile, .tdma, .router, .slip, .pug, .glaze, .host]

/-- The registers a flush may change: those of these pages, and what a port counts as it sends. -/
def quietReg (k : RK) : Bool := quietBlks.contains k.blk || ((k.blk = .fab || k.blk = .blink) && sendOff k.off)
def quietRegs (k : RK) : Prop := quietReg k = true

/-- The registers a fault may change: a flush's and the kilns'. -/
def faultReg (k : RK) : Bool := quietReg k || k.blk = .kiln
def faultRegs (k : RK) : Prop := faultReg k = true

/-- Of those, what the flush of a kiln changes: of the pug units, their feeds. -/
def calmBlks : List Blk := [.core, .vec, .tile, .tdma, .router, .slip, .glaze, .host]
def calmReg (k : RK) : Bool :=
  calmBlks.contains k.blk || (k.blk = .pug && 0x200 ≤ k.off) || ((k.blk = .fab || k.blk = .blink) && sendOff k.off)
def calmRegs (k : RK) : Prop := calmReg k = true

theorem calmRegs_of_blk {k : RK} (h : calmBlks.contains k.blk = true) : calmRegs k := by
  simp only [calmRegs, calmReg, h, Bool.true_or]

theorem quietRegs_of_calm {k : RK} (h : calmRegs k) : quietRegs k := by
  obtain ⟨blk, inst, off⟩ := k
  simp only [calmRegs, calmReg, quietRegs, quietReg, Bool.or_eq_true, Bool.and_eq_true] at h ⊢
  rcases h with (h | ⟨h, -⟩) | h
  · refine .inl ?_
    revert h
    cases blk <;> decide
  · exact .inl (by rw [of_decide_eq_true h]; rfl)
  · exact .inr h

/-- Parts and registers that take in what a flush changes, accumulators and the host interface apart. -/
abbrev HasQuiet (ps : List Component) (R : RK → Prop) : Prop := (∀ p ∈ muteParts, p ∈ ps) ∧ ∀ k, calmRegs k → R k

theorem faults_quiet : HasQuiet faultParts faultRegs := ⟨by decide, fun k h => by
  unfold faultRegs faultReg
  rw [show quietReg k = true from quietRegs_of_calm h, Bool.true_or]⟩

/-- An effect within some parts and registers, and the hidden scalars of a fault. -/
abbrev Eff.FaultsIn (ps : List Component) (R : RK → Prop) (e : Eff) : Prop := e.Touches ps R faultAux

/-- An effect within the frame of a fault. -/
abbrev Eff.Faults (e : Eff) : Prop := e.FaultsIn faultParts faultRegs

variable {ps : List Component} {R : RK → Prop}

theorem calmRegs_lk (q off : Nat) (h : sendOff off = true) : calmRegs ⟨lkBlk q, lkInst q, off⟩ := by
  unfold calmRegs calmReg lkBlk
  dsimp only
  split <;> simp [h]

theorem quietRegs_lk (q off : Nat) (h : sendOff off = true) : quietRegs ⟨lkBlk q, lkInst q, off⟩ :=
  quietRegs_of_calm (calmRegs_lk q off h)

theorem faultRegs_core (core off : Nat) : faultRegs ⟨.core, core, off⟩ := rfl

theorem push_faults (c : Opd) (hq : HasQuiet ps R) : c.pushRegs R faultAux p :=
  fun _ _ _ => ⟨hq.2 _ rfl, rfl⟩

theorem setReg_faults {blk : Blk} {inst off : Nat} {v : W64} (h : calmBlks.contains blk = true)
    (hq : HasQuiet ps R := by first | assumption | exact faults_quiet) :
    (setReg blk inst off v).FaultsIn ps R := touches_setReg (hq.2 _ (calmRegs_of_blk h))

theorem setF_faults {f : Fld} {inst x : Nat} (h : calmBlks.contains f.blk = true)
    (hq : HasQuiet ps R := by first | assumption | exact faults_quiet) : (setF f inst x).FaultsIn ps R := touches_setF (hq.2 _ (calmRegs_of_blk h))

theorem addSat_faults {f : Fld} {inst n : Nat} (h : calmBlks.contains f.blk = true)
    (hq : HasQuiet ps R := by first | assumption | exact faults_quiet) :
    (addSat f inst n).FaultsIn ps R := touches_addSat (hq.2 _ (calmRegs_of_blk h))

theorem setAx_faults {a : Aux} {v : Nat} (h : faultKinds.contains a.kind = true) : (setAx a v).FaultsIn ps R := touches_setAx h

theorem setEvt_faults {blk : Blk} {inst bit : Nat} (h : calmBlks.contains blk = true)
    (hq : HasQuiet ps R := by first | assumption | exact faults_quiet)
    (hh : Component.hi ∈ ps := by first | assumption | decide) : (setEvt blk inst bit).FaultsIn ps R :=
  touches_setEvt (hq.2 _ (calmRegs_of_blk h)) hh

theorem recordErr_faults {blk : Blk} {inst code info : Nat} (h : calmBlks.contains blk = true)
    (hq : HasQuiet ps R := by first | assumption | exact faults_quiet)
    (hh : Component.hi ∈ ps := by first | assumption | decide) : (recordErr blk inst code info).FaultsIn ps R :=
  touches_recordErr (hq.2 _ (calmRegs_of_blk h)) (hq.2 _ (calmRegs_of_blk h)) hh

theorem recordErrFree_faults {blk : Blk} {inst code : Nat} (h : calmBlks.contains blk = true)
    (hq : HasQuiet ps R := by first | assumption | exact faults_quiet)
    (hh : Component.hi ∈ ps := by first | assumption | decide) : (recordErrFree blk inst code).FaultsIn ps R :=
  touches_recordErrFree (hq.2 _ (calmRegs_of_blk h)) (hq.2 _ (calmRegs_of_blk h)) hh (hq.1 _ (by decide))

theorem finishAll_faults {blk : Blk} {inst op code : Nat} {v : W64}
    (hq : HasQuiet ps R := by first | assumption | exact faults_quiet)
    (hh : Component.hi ∈ ps := by first | assumption | decide) : (finishAll blk inst op code v).FaultsIn ps R :=
  touches_finishAll (fun _ _ => hq.2 _ rfl) hh (hq.1 _ (by decide))

theorem spWr_faults {a : Nat} {l : List Byte}
    (hq : HasQuiet ps R := by first | assumption | exact faults_quiet) : (spWr p a l).FaultsIn ps R :=
  touches_spWr (hq.1 _ (by decide)) (hq.1 _ (by decide))

/-! ## Instructions that stop -/

theorem matBlocks_faults (nb rows n : Nat) (hq : HasQuiet ps R := by first | assumption | exact faults_quiet)
    (ha : Component.acc ∈ ps := by first | assumption | decide) : (matBlocks i core nb rows n).FaultsIn ps R := by
  unfold matBlocks
  dsimp only
  split
  · exact touches_matStats (fun _ => hq.2 _ rfl)
  · exact touches_skip
  · exact touches_doAll_cons (touches_segRegs ha) (touches_doAll_cons
      (touches_spStats (fun _ => hq.2 _ rfl) (hq.1 _ (by decide))) touches_doAll_nil)

theorem matAccs_faults (l : List ElemOut)
    (ha : Component.acc ∈ ps := by first | assumption | decide) : (matAccs i core l).FaultsIn ps R :=
  touches_ite touches_skip (touches_writeAccs ha)

theorem rmwC_faults {req e : Nat} {c : Opd} {col : ElemOut → Nat} {cols : ElemOut → List Nat} {l : List ElemOut}
    (hq : HasQuiet ps R := by first | assumption | exact faults_quiet) :
    (rmwC p req c e col cols l).FaultsIn ps R :=
  touches_rmwC (hq.1 _ (by decide)) (hq.1 _ (by decide)) (hq.2 _ rfl) (hq.2 _ rfl)
    fun _ => rfl

theorem writeBackC_faults {e : Nat} {c : Opd} {col : ElemOut → Nat} {cols : ElemOut → List Nat} {l : List ElemOut}
    (hq : HasQuiet ps R := by first | assumption | exact faults_quiet) :
    (writeBackC p c e col cols l).FaultsIn ps R := touches_writeBackC (hq.1 _ (by decide)) (hq.1 _ (by decide)) (push_faults c hq)

theorem matBack_faults (l : List ElemOut) (hq : HasQuiet ps R := by first | assumption | exact faults_quiet) :
    (matBack i l).FaultsIn ps R := fun s => by
  unfold matBack
  split
  · exact within_doAll (touches_doAll_cons (rmwC_faults (hq := hq)) (touches_doAll_cons
      (writeBackC_faults (hq := hq)) touches_doAll_nil))
  · exact within_doAll (touches_doAll_cons (rmwC_faults (hq := hq)) (touches_doAll_cons
      (writeBackC_faults (hq := hq)) touches_doAll_nil))

theorem pushSome_faults {q : Nat} {l : List Byte} (hq : HasQuiet ps R := by first | assumption | exact faults_quiet) :
    (pushSome p q l).FaultsIn ps R :=
  touches_pushSome (hq.1 _ (by decide)) (hq.1 _ (by decide)) (hq.1 _ (by decide)) (hq.1 _ (by decide)) (hq.2 _ rfl) rfl

theorem matWrites_faults (l : List ElemOut) (hq : HasQuiet ps R := by first | assumption | exact faults_quiet) :
    (matWrites i l).FaultsIn ps R := by
  unfold matWrites
  split
  · exact matBack_faults (hq := hq) l
  · exact touches_look fun _ => pushSome_faults (hq := hq)
  · exact touches_skip

theorem matPart_faults (l : List ElemOut) (hq : HasQuiet ps R := by first | assumption | exact faults_quiet)
    (ha : Component.acc ∈ ps := by first | assumption | decide) : (matPart i core l).FaultsIn ps R :=
  touches_ite touches_skip (touches_forEach fun _ _ => touches_drawFree (hq.1 _ (by decide)) fun _ =>
    touches_upd (by simpa [Upd.Within, Upd.parts]))

theorem matStops_faults (l : List ElemOut) (x : MStop) (hq : HasQuiet ps R := by first | assumption | exact faults_quiet)
    (hh : Component.hi ∈ ps := by first | assumption | decide)
    (ha : Component.acc ∈ ps := by first | assumption | decide) : (matStops i core l x).FaultsIn ps R := by
  have hmet (met : List ElemOut) : Eff.FaultsIn ps R (fun s => smmaRmw i (s.spPermOf i) met s) := fun s => rmwC_faults (hq := hq) s
  refine touches_drawFree (hq.1 _ (by decide)) fun w => ?_
  dsimp only
  refine touches_doAll_cons (matBlocks_faults _ _ _) (touches_doAll_cons (matAccs_faults _) (touches_doAll_cons ?_
    (touches_doAll_cons (touches_countExc (fun _ => hq.2 _ rfl) hh) (touches_doAll_cons
      (touches_ite touches_skip (matPart_faults _)) (touches_doAll_cons ?_ touches_doAll_nil)))))
  · exact touches_ite (touches_doAll_cons (touches_ite (touches_ite rmwC_faults (hmet _)) touches_skip)
      (touches_doAll_cons (matWrites_faults _) touches_doAll_nil)) touches_skip
  · exact touches_ite touches_skip (touches_whenE (touches_doAll_cons (touches_addFree (hq.1 _ (by decide)) (hq.2 _ rfl))
      (touches_doAll_cons (touches_addFree (hq.1 _ (by decide)) (hq.2 _ rfl)) touches_doAll_nil)))

theorem vecCommit_faults (v : VAcc) (hq : HasQuiet ps R := by first | assumption | exact faults_quiet)
    (hh : Component.hi ∈ ps := by first | assumption | decide) :
    (vecCommit i v).FaultsIn ps R :=
  touches_vecCommit (fun c hc => by
    by_cases h : c = .hi
    · exact h ▸ hh
    · exact hq.1 c (by revert c; decide)) (fun _ => hq.2 _ rfl) (hq.2 _ rfl)
    (hq.2 _ rfl) (push_faults _ hq) fun _ => rfl

theorem abortLeaves_faults (hq : HasQuiet ps R := by first | assumption | exact faults_quiet)
    (hh : Component.hi ∈ ps := by first | assumption | decide)
    (ha : Component.acc ∈ ps := by first | assumption | decide) : (abortLeaves i).FaultsIn ps R := fun s => by
  unfold abortLeaves
  split
  · exact within_nil
  split
  · exact matStops_faults _ _ hq hh ha s
  split
  · exact touches_drawFree (hq.1 _ (by decide)) (fun w t => vecCommit_faults _ hq hh t) s
  · exact within_nil

/-! ## The flush of a tile -/

theorem dmaWriteBack0_faults (j : DmaJob) (status stored : Nat) (own : Bool)
    (hq : HasQuiet ps R := by first | assumption | exact faults_quiet) : (dmaWriteBack0 j status stored own).FaultsIn ps R :=
  fun s => by
    unfold dmaWriteBack0
    exact within_doAll (touches_doAll_cons (spWr_faults (hq := hq)) (touches_doAll_cons (spWr_faults (hq := hq)) touches_doAll_nil))

theorem countWedge_faults {off inst m n : Nat} {blk : Blk} {ts : List (Nat × Nat × Nat)} (h : calmBlks.contains blk = true)
    (hq : HasQuiet ps R := by first | assumption | exact faults_quiet) :
    (countWedge blk off inst ts m n).FaultsIn ps R :=
  touches_doAll_cons (addSat_faults h) (touches_doAll_cons (addSat_faults h) (touches_doAll_cons (addSat_faults h)
    (touches_doAll_cons (addSat_faults h) touches_doAll_nil)))

theorem tbsEmpty_faults (hq : HasQuiet ps R := by first | assumption | exact faults_quiet) : (tbsEmpty p).FaultsIn ps R :=
  touches_forEach fun _ _ => touches_tbDiscard (fun _ => hq.2 _ rfl) (hq.1 _ (by decide))

theorem ringEmpty_faults {q : Nat} (hq : HasQuiet ps R := by first | assumption | exact faults_quiet) :
    (ringEmpty p q).FaultsIn ps R := fun s => by
  unfold ringEmpty
  exact within_doAll (touches_doAll_cons (setF_faults rfl) (touches_doAll_cons (setAx_faults rfl)
    touches_doAll_nil))

/-- What a tile's flush does once its instructions have stopped. -/
def flushedRest (s : State) (p : Nat) : List Eff :=
  [forEach (s.tl.jobs.filter fun j => j.p = p && j.ring = 0) (fun j =>
      doAll [dmaWriteBack0 j eABORTED j.stored false, dmaLastSet j eABORTED j.stored, recordErr .tdma p eABORTED j.idx,
        whenE (fun _ => j.tiles ≠ []) (countWedge .tdma 0x158 p j.tiles 0 j.stored)]),
    modTl fun t => { t with q := t.q.filter fun i => i.p ≠ p, pushes := t.pushes.filter fun x => x.p ≠ p,
                            jobs := t.jobs.filter fun j => !(j.p = p && j.ring = 0) },
    tbsEmpty p, whenE (fun s => s.get fR0State p ≠ 3) (setF fR0State p 0), setAx ⟨.dmaLeft, p, 0⟩ 0,
    setAx ⟨.dmaErr, p, 0⟩ 0, setAx ⟨.seqWait, p, 0⟩ 0, setF fSwapWait p 0,
    forEach (List.range 14) (fun q => doAll [whenE (fun _ => 8 ≤ q) (ringEmpty p q), setAx ⟨.ringKept, p, q⟩ 0]),
    forEach ((List.range 16).filter fun r => r < 15 || !(s.tl.jobs.any fun j => j.p = p && j.ring = 1))
      (fun r => setAx ⟨.outLeft, p, r⟩ 0)]

theorem flushTile_eq (p : Nat) (s : State) : flushTile p s = if s.get fTileState p = 0 then [] else
    if s.get fTileState p = 6 then setAx ⟨.startDue, p, 0⟩ 0 s else
    doAll (setF fTileState p 6 :: forEach (s.tl.q.filter fun i => i.p = p) abortLeaves :: flushedRest s p) s := rfl

theorem flushedRest_faults (s : State) (p : Nat) (hq : HasQuiet ps R := by first | assumption | exact faults_quiet)
    (hh : Component.hi ∈ ps := by first | assumption | decide) :
    (doAll (flushedRest s p)).FaultsIn ps R := by
  have hjob (j : DmaJob) : Eff.FaultsIn ps R (doAll [dmaWriteBack0 j eABORTED j.stored false, dmaLastSet j eABORTED j.stored,
      recordErr .tdma p eABORTED j.idx, whenE (fun _ => j.tiles ≠ []) (countWedge .tdma 0x158 p j.tiles 0 j.stored)]) :=
    touches_doAll_cons (dmaWriteBack0_faults _ _ _ _) (touches_doAll_cons (setReg_faults rfl) (touches_doAll_cons
      (recordErr_faults rfl) (touches_doAll_cons (touches_whenE (countWedge_faults rfl)) touches_doAll_nil)))
  have hring (q : Nat) : Eff.FaultsIn ps R (doAll [whenE (fun _ => 8 ≤ q) (ringEmpty p q), setAx ⟨.ringKept, p, q⟩ 0]) :=
    touches_doAll_cons (touches_whenE ringEmpty_faults) (touches_doAll_cons (setAx_faults rfl) touches_doAll_nil)
  refine touches_doAll_cons (touches_forEach fun j _ => hjob j) ?_
  refine touches_doAll_cons (touches_modTl (hq.1 _ (by decide))) (touches_doAll_cons tbsEmpty_faults ?_)
  refine touches_doAll_cons (touches_whenE (setF_faults rfl)) ?_
  refine touches_doAll_cons (setAx_faults rfl) (touches_doAll_cons (setAx_faults rfl) ?_)
  refine touches_doAll_cons (setAx_faults rfl) (touches_doAll_cons (setF_faults rfl) ?_)
  refine touches_doAll_cons (touches_forEach fun q _ => hring q) ?_
  exact touches_doAll_cons (touches_forEach fun _ _ => setAx_faults rfl) touches_doAll_nil

theorem flushTile_faults (p : Nat) (hq : HasQuiet ps R := by first | assumption | exact faults_quiet)
    (hh : Component.hi ∈ ps := by first | assumption | decide)
    (ha : Component.acc ∈ ps := by first | assumption | decide) : (flushTile p).FaultsIn ps R := fun s => by
  rw [flushTile_eq]
  split
  · exact within_nil
  split
  · exact setAx_faults rfl s
  exact within_doAll (touches_doAll_cons (setF_faults rfl) (touches_doAll_cons (touches_forEach fun _ _ => abortLeaves_faults)
    (flushedRest_faults s p)))

/-! ## The flush and the release of a kiln -/

theorem flushNet_faults (k : Nat) (hq : HasQuiet ps R := by first | assumption | exact faults_quiet) :
    (flushNet k).FaultsIn ps R := fun s => by
  have htile (p : Nat) : Eff.FaultsIn ps R (doAll [forEach (List.range 5) (fun r => setF (fRouteCredit r) p 0),
      forEach (List.range 16) (fun c => setAx ⟨.combCredit, p, c⟩ 0),
      forEach (List.range 6) (fun q => setAx ⟨.ringFreed, p, q⟩ 0)]) :=
    touches_doAll_cons (touches_forEach fun _ _ => setF_faults rfl) (touches_doAll_cons
      (touches_forEach fun _ _ => setAx_faults rfl) (touches_doAll_cons
        (touches_forEach fun _ _ => setAx_faults rfl) touches_doAll_nil))
  have hused (l : List Nat) (c : List (Nat × Nat)) : Eff.FaultsIn ps R (fun _ =>
      [.auxClear fun a => a.kind = .feedUsed && feedIn l c a.a]) :=
    touches_upd ⟨by simp [Upd.parts], fun a ha => by
      simp only [Bool.and_eq_true, decide_eq_true_eq] at ha
      unfold faultAux
      rw [ha.1]
      decide⟩
  unfold flushNet
  exact within_doAll (touches_doAll_cons (touches_modNet (hq.1 _ (by decide))) (touches_doAll_cons
    (touches_forEach fun p _ => htile p) (touches_doAll_cons (hused _ _) touches_doAll_nil)))

theorem closeXfers_faults (k code : Nat) (hq : HasQuiet ps R := by first | assumption | exact faults_quiet)
    (hh : Component.hi ∈ ps := by first | assumption | decide) :
    (closeXfers k code).FaultsIn ps R := fun s => by
  unfold closeXfers
  exact within_doAll (touches_doAll_cons (touches_forEach fun x _ => touches_doAll_cons (recordErr_faults (hq := hq) rfl)
    (touches_doAll_cons (addSat_faults rfl) touches_doAll_nil)) (touches_doAll_cons (touches_modSl (hq.1 _ (by decide)))
      touches_doAll_nil))

theorem calmRegs_feed (u f : Nat) : calmRegs ⟨.pug, u, 0x200 + 0x10 * f⟩ := by
  simp [calmRegs, calmReg]

theorem feedsEmpty_faults (l : List (Nat × Nat)) (hq : HasQuiet ps R := by first | assumption | exact faults_quiet)
    (hg : Component.pg ∈ ps := by first | assumption | decide) :
    (feedsEmpty l).FaultsIn ps R :=
  touches_doAll_cons (touches_modPg hg) (touches_doAll_cons (touches_forEach fun f _ =>
    touches_doAll_cons (touches_setF (hq.2 _ (calmRegs_feed f.1 f.2))) (touches_doAll_cons
      (touches_setF (hq.2 _ (calmRegs_feed f.1 f.2))) (touches_doAll_cons (setAx_faults rfl) touches_doAll_nil))) touches_doAll_nil)

theorem flushCtx_faults (k : Nat) (hq : HasQuiet ps R := by first | assumption | exact faults_quiet)
    (hg : Component.pg ∈ ps := by first | assumption | decide) :
    (flushCtx k).FaultsIn ps R := fun s => by
  unfold flushCtx
  exact within_doAll (touches_doAll_cons (touches_forEach fun _ _ => setF_faults rfl) (touches_doAll_cons
    (touches_forEach fun _ _ => setF_faults rfl) (touches_doAll_cons (touches_modSl (hq.1 _ (by decide))) (touches_doAll_cons
      (feedsEmpty_faults (hq := hq) _) touches_doAll_nil))))

theorem flushKiln_faults (k : Nat) (hq : HasQuiet ps R := by first | assumption | exact faults_quiet)
    (hh : Component.hi ∈ ps := by first | assumption | decide)
    (ha : Component.acc ∈ ps := by first | assumption | decide)
    (hg : Component.pg ∈ ps := by first | assumption | decide) : (flushKiln k).FaultsIn ps R := fun s => by
  unfold flushKiln
  exact within_doAll (touches_doAll_cons (touches_forEach fun _ _ => flushTile_faults _) (touches_doAll_cons
    (flushNet_faults k) (touches_doAll_cons (flushCtx_faults k) (touches_doAll_cons (closeXfers_faults k _)
      touches_doAll_nil))))

theorem releaseKiln_faults (k : Nat) : (releaseKiln k).Faults := fun s => by
  unfold releaseKiln
  refine within_doAll (touches_doAll_cons (flushCtx_faults k) (touches_doAll_cons (closeXfers_faults k _) ?_))
  refine touches_doAll_cons (touches_forEach fun _ _ => touches_doAll_cons (setF_faults rfl) (touches_doAll_cons
    (setF_faults rfl) touches_doAll_nil)) ?_
  refine touches_doAll_cons (touches_forEach fun _ _ => touches_doAll_cons (setReg_faults rfl) (touches_doAll_cons
    (setReg_faults rfl) touches_doAll_nil)) ?_
  refine touches_doAll_cons (touches_forEach fun _ _ => setAx_faults rfl) ?_
  refine touches_doAll_cons (touches_forEach fun _ _ => touches_doAll_cons (touches_setF rfl) (touches_doAll_cons
    (setAx_faults rfl) touches_doAll_nil)) ?_
  refine touches_doAll_cons (touches_modNet (by decide)) (touches_doAll_cons (touches_modSl (by decide)) ?_)
  exact touches_doAll_cons (touches_modFb (by decide)) (touches_doAll_cons (touches_setReg rfl) touches_doAll_nil)

/-! ## The step abort -/

@[simp] theorem touches_storePutOr {ps : List Component} {R : RK → Prop} {A : Aux → Prop} {a : Nat} {data : List Byte}
    {lost : Eff} (hs : Component.store ∈ ps) (hb : Component.bad ∈ ps) (hr : Component.rm ∈ ps) (hl : lost.Touches ps R A) :
    (storePutOr a data lost).Touches ps R A := fun s => by
  unfold storePutOr
  split
  · exact hl s
  · intro u hu
    rcases List.mem_append.1 hu with h | h
    · exact putBytes_within (a := a) (data := data) hs u h
    · simp only [List.mem_cons, List.not_mem_nil, or_false] at h
      rcases h with rfl | rfl <;> simpa [Upd.Within, Upd.parts]

theorem storePutOr_faults {a : Nat} {data : List Byte} {lost : Eff} (h : lost.FaultsIn ps R)
    (hq : HasQuiet ps R := by first | assumption | exact faults_quiet) : (storePutOr a data lost).FaultsIn ps R :=
  touches_storePutOr (hq.1 _ (by decide)) (hq.1 _ (by decide)) (hq.1 _ (by decide)) h

theorem bktStatus_faults (b : Bkt)
    (hq : HasQuiet ps R := by first | assumption | exact faults_quiet)
    (hh : Component.hi ∈ ps := by first | assumption | decide)
    (hb : ∀ x off, R ⟨.pug, x, off⟩ := by first | assumption | exact fun _ _ => rfl | exact fun _ _ => trivial) :
    (bktStatus b).FaultsIn ps R :=
  storePutOr_faults (hq := hq) (touches_recordErrFree (hb _ _) (hb _ _) hh (hq.1 _ (by decide)))

theorem lastDone_faults (b : Bkt)
    (hb : ∀ x off, R ⟨.pug, x, off⟩ := by first | assumption | exact fun _ _ => rfl | exact fun _ _ => trivial) :
    (lastDone b).FaultsIn ps R := touches_setReg (hb _ _)

theorem putBkt_faults (b : Bkt) (hg : Component.pg ∈ ps := by first | assumption | decide) :
    (putBkt b).FaultsIn ps R := touches_modPg hg

theorem mirrorWrite_faults (p k off n step : Nat) (hq : HasQuiet ps R := by first | assumption | exact faults_quiet) :
    (mirrorWrite p k off n step).FaultsIn ps R :=
  touches_mirrorWrite (fun _ _ h => hq.2 _ (calmRegs_lk _ _ h)) (hq.1 _ (by decide)) (hq.1 _ (by decide)) (hq.1 _ (by decide))

theorem writeHeader_faults (p g k ver alt st owner : Nat)
    (hq : HasQuiet ps R := by first | assumption | exact faults_quiet) : (writeHeader p g k ver alt st owner).FaultsIn ps R :=
  fun s => storePutOr_faults (hq := hq) touches_skip s

theorem discardShadow_faults (j n : Nat) (hq : HasQuiet ps R := by first | assumption | exact faults_quiet) :
    (discardShadow j n).FaultsIn ps R := fun s => by
  have hlost (p k : Nat) : Eff.FaultsIn ps R (fun s => [.storeLost (s.genAddr p 0 k 0) (s.regionSize p k - genData)]) :=
    fun t u hu => by
      rw [List.mem_singleton.1 hu]
      simp [Upd.Within, Upd.parts, hq.1 .store (by decide), hq.1 .free (by decide)]
  unfold discardShadow
  refine within_doAll (touches_doAll_cons (touches_modGl (hq.1 _ (by decide))) (touches_doAll_cons (touches_forEach fun p _ => ?_)
    touches_doAll_nil))
  refine touches_doAll_cons (touches_whenE (touches_look fun k => ?_)) (touches_doAll_cons (setF_faults rfl)
    touches_doAll_nil)
  exact touches_doAll_cons (hlost p k) (touches_doAll_cons (writeHeader_faults (hq := hq) _ _ _ _ _ _ _) (touches_doAll_cons
    (mirrorWrite_faults (hq := hq) _ _ _ _ _) touches_doAll_nil))

theorem abortKiln_faults (k : Nat) (hq : HasQuiet ps R := by first | assumption | exact faults_quiet)
    (hh : Component.hi ∈ ps := by first | assumption | decide)
    (ha : Component.acc ∈ ps := by first | assumption | decide)
    (hk : R ⟨.kiln, k, 0x018⟩ := by first | assumption | rfl)
    (hg : Component.pg ∈ ps := by first | assumption | decide) :
    (abortKiln k).FaultsIn ps R := fun s => by
  unfold abortKiln
  split
  · exact within_doAll (touches_doAll_cons (flushKiln_faults k) (touches_doAll_cons (touches_setF hk)
      (touches_doAll_cons (touches_setF hk) touches_doAll_nil)))
  · exact within_doAll (touches_doAll_cons (flushKiln_faults k) (touches_doAll_cons (touches_setF hk)
      (touches_doAll_cons (touches_setF hk) (touches_doAll_cons finishAll_faults touches_doAll_nil))))
  · exact within_nil

/-- What a step abort does before the kilns of the job stop, and after. -/
def abortHead (s : State) (j n code u origin : Nat) (info : Option Nat) (rcvd : Bool) : Eff :=
  doAll [withSome info (recordErrFree .pug u code) (fun i => recordErr .pug u code i),
    abortLast u code origin j n, setEvt .pug u (if rcvd then 4 else 3),
    forEach (s.pg.buckets.filter fun b => b.job = j && 1 ≤ b.state && b.state ≤ 4) (fun b =>
      let b' := { b with state := 6, code := code, vals := [], sum := [] }
      doAll [putBkt b', bktStatus b', whenE (fun _ => b.state = 3) (lastDone b')]),
    feedsEmpty (s.jobFeeds j), dropRecords j n]

def abortTail (j n : Nat) : Eff :=
  doAll [discardShadow j n, setAx ⟨.stepOpen, j, 0⟩ 0, setAx ⟨.stepAborted, j, 0⟩ (n + 1), setAx ⟨.voted, j, 0⟩ 0]

theorem abortLocal_eq (j n code u origin : Nat) (info : Option Nat) (rcvd : Bool) (s : State) :
    abortLocal j n code u origin info rcvd s =
      doAll [abortHead s j n code u origin info rcvd, forEach (s.jobKilns j) abortKiln, abortTail j n] s := by
  unfold abortLocal abortHead abortTail
  simp only [doAll, Eff.seq, skip, List.append_assoc, List.append_nil, State.applyAll_append]

theorem abortHead_faults (s : State) (j n code u origin : Nat) (info : Option Nat) (rcvd : Bool)
    (hq : HasQuiet ps R := by first | assumption | exact faults_quiet)
    (hh : Component.hi ∈ ps := by first | assumption | decide)
    (hg : Component.pg ∈ ps := by first | assumption | decide)
    (hb : ∀ x off, R ⟨.pug, x, off⟩ := by first | assumption | exact fun _ _ => rfl | exact fun _ _ => trivial) :
    (abortHead s j n code u origin info rcvd).FaultsIn ps R := by
  have hbkt (b b' : Bkt) : Eff.FaultsIn ps R (doAll [putBkt b', bktStatus b', whenE (fun _ => b.state = 3) (lastDone b')]) :=
    touches_doAll_cons (putBkt_faults _) (touches_doAll_cons (bktStatus_faults _) (touches_doAll_cons
      (touches_whenE (lastDone_faults _)) touches_doAll_nil))
  refine touches_doAll_cons (touches_withSome (touches_recordErrFree (hb _ _) (hb _ _) hh (hq.1 _ (by decide))) fun _ =>
    touches_recordErr (hb _ _) (hb _ _) hh) ?_
  refine touches_doAll_cons (touches_setReg (hb _ _)) (touches_doAll_cons (touches_setEvt (hb _ _) hh) ?_)
  exact touches_doAll_cons (touches_forEach fun b _ => hbkt b _) (touches_doAll_cons (feedsEmpty_faults _) (touches_doAll_cons
    (touches_modFb (hq.1 _ (by decide))) touches_doAll_nil))

theorem abortTail_faults (j n : Nat) (hq : HasQuiet ps R := by first | assumption | exact faults_quiet) :
    (abortTail j n).FaultsIn ps R :=
  touches_doAll_cons (discardShadow_faults j n) (touches_doAll_cons (setAx_faults rfl) (touches_doAll_cons (setAx_faults rfl)
    (touches_doAll_cons (setAx_faults rfl) touches_doAll_nil)))

theorem abortLocal_faults (j n code u origin : Nat) (info : Option Nat) (rcvd : Bool)
    (hq : HasQuiet ps R := by first | assumption | exact faults_quiet)
    (hh : Component.hi ∈ ps := by first | assumption | decide) (ha : Component.acc ∈ ps := by first | assumption | decide)
    (hk : ∀ x, R ⟨.kiln, x, 0x018⟩ := by first | assumption | exact fun _ => rfl)
    (hg : Component.pg ∈ ps := by first | assumption | decide)
    (hb : ∀ x off, R ⟨.pug, x, off⟩ := by first | assumption | exact fun _ _ => rfl | exact fun _ _ => trivial) :
    (abortLocal j n code u origin info rcvd).FaultsIn ps R := fun s => by
  rw [abortLocal_eq]
  exact within_doAll (touches_doAll_cons (abortHead_faults _ _ _ _ _ _ _ _) (touches_doAll_cons (touches_forEach fun k _ =>
    abortKiln_faults k hq hh ha (hk k)) (touches_doAll_cons (abortTail_faults _ _) touches_doAll_nil)))

theorem stepAbortAt_faults (j code u : Nat) (info : Option Nat)
    (hq : HasQuiet ps R := by first | assumption | exact faults_quiet)
    (hh : Component.hi ∈ ps := by first | assumption | decide) (ha : Component.acc ∈ ps := by first | assumption | decide)
    (hk : ∀ x, R ⟨.kiln, x, 0x018⟩ := by first | assumption | exact fun _ => rfl)
    (hg : Component.pg ∈ ps := by first | assumption | decide)
    (hb : ∀ x off, R ⟨.pug, x, off⟩ := by first | assumption | exact fun _ _ => rfl | exact fun _ _ => trivial) :
    (stepAbortAt j code u info).FaultsIn ps R := fun s => by
  unfold stepAbortAt
  split
  · exact within_nil
  · exact within_doAll (touches_doAll_cons (touches_castJob (fun _ _ h => hq.2 _ (calmRegs_lk _ _ h)) (hq.1 _ (by decide)) (hq.1 _ (by decide)))
      (touches_doAll_cons
      (abortLocal_faults _ _ _ _ _ _ _) touches_doAll_nil))

theorem stepAbort_faults (j code : Nat) (hq : HasQuiet ps R := by first | assumption | exact faults_quiet)
    (hh : Component.hi ∈ ps := by first | assumption | decide)
    (ha : Component.acc ∈ ps := by first | assumption | decide)
    (hk : ∀ x, R ⟨.kiln, x, 0x018⟩ := by first | assumption | exact fun _ => rfl)
    (hg : Component.pg ∈ ps := by first | assumption | decide)
    (hb : ∀ x off, R ⟨.pug, x, off⟩ := by first | assumption | exact fun _ _ => rfl | exact fun _ _ => trivial) :
    (stepAbort j code).FaultsIn ps R := fun s => by
  unfold stepAbort
  split
  · exact within_nil
  · exact stepAbortAt_faults _ _ _ _ hq hh ha hk hg hb s

theorem bktFail_faults (b : Bkt) (code u : Nat) (info : Option Nat) : (bktFail b code u info).Faults :=
  touches_doAll_cons (putBkt_faults _) (touches_doAll_cons (bktStatus_faults _) (touches_doAll_cons
    (touches_whenE (lastDone_faults _)) (touches_doAll_cons (stepAbortAt_faults _ _ _ _) touches_doAll_nil)))

/-! ## Kiln faults -/

theorem setFault_faults (k code src tile port : Nat) : (setFault k code src tile port).Faults := touches_setReg rfl

theorem kilnFinish_faults (k op code : Nat) (v : W64)
    : (kilnFinish k op code v).Faults := fun s => by
  unfold kilnFinish
  split
  · exact within_nil
  · exact within_doAll (touches_doAll_cons (touches_setReg rfl) (touches_doAll_cons (finishAll_faults ) touches_doAll_nil))

theorem clearBusy_faults (k : Nat) : (clearBusy k).Faults :=
  touches_doAll_cons (touches_setF rfl) (touches_doAll_cons (touches_setF rfl) (touches_doAll_cons
    (setAx_faults rfl) touches_doAll_nil))

theorem slotLost_faults (k : Nat) : (slotLost k).Faults := fun s u hu => by
  rw [List.mem_singleton.1 hu]
  simp [Upd.Within, Upd.parts, faultParts]

theorem endBusy_faults (k code : Nat) : (endBusy k code).Faults := fun s => by
  unfold endBusy
  dsimp only
  split
  · exact within_nil
  split
  · exact within_doAll (touches_doAll_cons (releaseKiln_faults k) (touches_doAll_cons (touches_setF rfl)
      (touches_doAll_cons (touches_setReg rfl) (touches_doAll_cons (clearBusy_faults k) (touches_doAll_cons
        (kilnFinish_faults _ _ _ _) touches_doAll_nil)))))
  split
  · exact within_doAll (touches_doAll_cons (slotLost_faults k) (touches_doAll_cons (clearBusy_faults k) (touches_doAll_cons
      (kilnFinish_faults _ _ _ _) touches_doAll_nil)))
  · exact within_doAll (touches_doAll_cons (releaseKiln_faults k) (touches_doAll_cons (touches_setF rfl)
      (touches_doAll_cons (clearBusy_faults k) (touches_doAll_cons (kilnFinish_faults _ _ _ _) touches_doAll_nil))))

theorem kilnFault_faults (k code src tile port : Nat) : (kilnFault k code src tile port).Faults := fun s => by
  unfold kilnFault
  dsimp only
  split
  · exact endBusy_faults k code s
  split
  · refine within_doAll (touches_doAll_cons (setFault_faults _ _ _ _ _) (touches_doAll_cons (touches_setF rfl)
      (touches_doAll_cons (touches_setF rfl) (touches_doAll_cons (touches_setEvt rfl (by decide)) ?_))))
    exact touches_doAll_cons (touches_whenE finishAll_faults) (touches_doAll_cons (flushKiln_faults k) (touches_doAll_cons
      (touches_whenE (stepAbort_faults _ _)) touches_doAll_nil))
  · exact within_nil

end Sys2Proof.Machine
end

section
/-! PROOFS. Deaths (R398, R400–R405): what a detection leaves of a block found dead, and what it leaves alone. -/

namespace Sys2Proof.Machine

variable {s : State} {p : Nat}

/-! ## Bits of an entry -/

theorem testBit_255_sub {e : Nat} (he : e < 256) (n : Nat) : (255 - e).testBit n = (decide (n < 8) && !e.testBit n) := by
  rw [show 255 - e = 2 ^ 8 - (e + 1) by omega]
  exact Nat.testBit_two_pow_sub_succ (by simpa using he) n

theorem testBit_lt_eight {b n : Nat} (hb : b < 256) (h : b.testBit n = true) : n < 8 := by
  by_contra hn
  have hpow : 2 ^ 8 ≤ 2 ^ n := Nat.pow_le_pow_right (by omega) (by omega)
  rw [Nat.testBit_lt_two_pow (hb.trans_le hpow)] at h
  exact absurd h (by simp)

/-- Bits gained beside those there. -/
theorem or_and_not {e b : Nat} (he : e < 256) (hb : b < 256) : e ||| (b &&& (255 - e)) = e ||| b := by
  refine Nat.eq_of_testBit_eq fun n => ?_
  simp only [Nat.testBit_or, Nat.testBit_and, testBit_255_sub he]
  cases hbit : b.testBit n with
  | false => simp
  | true => cases e.testBit n <;> simp [testBit_lt_eight hb hbit]

theorem or_lt_256 {e b : Nat} (he : e < 256) (hb : b < 256) : e ||| b < 256 := Nat.or_lt_two_pow (n := 8) he hb

theorem and_lt_256 {b e : Nat} (hb : b < 256) : b &&& e < 256 := Nat.and_le_left.trans_lt hb

/-- A bit that an entry lacks is gained. -/
theorem two_pow_and_not {e n : Nat} (hn : n < 8) (he : e / 2 ^ n % 2 = 0) : 2 ^ n &&& (255 - e % 256) ≠ 0 := by
  intro h
  have hbit : (2 ^ n &&& (255 - e % 256)).testBit n = true := by
    have hlt : e % 256 < 256 := Nat.mod_lt _ (by omega)
    have he' : (e % 2 ^ 8).testBit n = false := by
      rw [Nat.testBit_mod_two_pow, Nat.testBit_eq_decide_div_mod_eq]
      simp [he]
    rw [Nat.testBit_and, testBit_255_sub hlt, Nat.testBit_two_pow_self, show (256 : Nat) = 2 ^ 8 by rfl, he']
    simp [hn]
  rw [h] at hbit
  simp at hbit

/-! ## The parts of a death -/

/-- The entry, the counters and the event of a death. -/
def deathNoted (p v cause new : Nat) : Eff :=
  doAll [putEntry p v, addSat fDeathCount 0 1, deathLast p cause new, setEvt .crack 0 0]

/-- The tile's compute lane: its self-test ends, its contents are lost, it is DEAD and no longer wakes. -/
def deathTile (s : State) (p : Nat) : Eff := doAll [selftestEnd p, tileLost p, setAx ⟨.tilePwr, p, 0⟩ 3,
  modPw (fun w => { w with wakes := w.wakes.filter fun t => s.phys t ≠ p, waking := w.waking.filter fun t => s.phys t ≠ p })]

/-- What falls due. -/
def deathDue (full : Bool) : Eff := doAll [whenE (fun _ => full) (setEvt .crack 0 2), setAx ⟨.persistDue, 0, 0⟩ 1,
  whenE (fun s => !s.on fAutoShift 0 && s.pendSegs = [] && s.geoLive ≠ s.geo) (setAx ⟨.geoDue, 0, 0⟩ 1)]

/-- The bits an entry gains. -/
def State.deathBits (s : State) (p bits : Nat) : Nat := bits % 256 &&& (255 - s.crackOf p % 256)

theorem death1_none {bits cause origin : Nat} (h : s.deathBits p bits = 0) : (death1 p bits cause origin).run s = s := by
  have hnil : death1 p bits cause origin s = [] := by
    unfold death1
    exact if_pos h
  rw [Eff.run_eq, hnil]
  rfl

/-- The first bits an entry gains whose router no map takes as dead yet. -/
def State.deathFresh (s : State) (p : Nat) : Bool := s.crackOf p % 256 = 0 && !s.geoLive.deadRouters.contains p

/-- The kilns a death faults. -/
def State.deathKilns (s : State) (p : Nat) : List Nat := kilns256.filter fun k =>
  s.kilnTakes k && (if s.deathFresh p then s.deathTiles p else []).any (s.inRect k)

/-- The segment's state after it. -/
def State.deathSeg (s : State) (p : Nat) : SegInfo := (s.geoLive.seg (segOf p)).after (colOf p)

/-- The map to publish takes the death. -/
def deathMap (s : State) (p new : Nat) : Eff := fun t => [.geoLive
  (let g := if 64 ≤ new && !t.geoLive.deadRouters.contains p then
      { t.geoLive with deadRouters := t.geoLive.deadRouters ++ [p] } else t.geoLive
   if s.deathFresh p then g.setSeg (segOf p) (s.deathSeg p) else g)]

/-- The kilns a death faults, told. -/
def deathTold (s : State) (p : Nat) : Eff :=
  forEach (s.deathKilns p) fun k => kilnDeath k ((s.geo.carries p).getD (segTile (segOf p)))

/-- The death's effects in their order. -/
def deathSteps (s : State) (p bits cause origin : Nat) : List Eff :=
  [putEntry p ((s.crackOf p % 256 ||| s.deathBits p bits) + origin * 256), addSat fDeathCount 0 1,
    deathLast p cause (s.deathBits p bits), setEvt .crack 0 0, deathTold s p, selftestEnd p, tileLost p,
    setAx ⟨.tilePwr, p, 0⟩ 3, modPw (fun w => { w with
      wakes := w.wakes.filter fun t => s.phys t ≠ p, waking := w.waking.filter fun t => s.phys t ≠ p }),
    deathMap s p (s.deathBits p bits),
    whenE (fun _ => s.deathFresh p && (s.geoLive.seg (segOf p)).state ≠ 3 && (s.deathSeg p).state = 3) (setEvt .crack 0 2),
    setAx ⟨.persistDue, 0, 0⟩ 1,
    whenE (fun s => !s.on fAutoShift 0 && s.pendSegs = [] && s.geoLive ≠ s.geo) (setAx ⟨.geoDue, 0, 0⟩ 1)]

theorem death1_eq {bits cause origin : Nat} (h : s.deathBits p bits ≠ 0) :
    death1 p bits cause origin s = doAll (deathSteps s p bits cause origin) s := by
  unfold death1
  exact if_neg h

theorem death1_run {bits cause origin : Nat} (h : s.deathBits p bits ≠ 0) : (death1 p bits cause origin).run s =
    (deathDue (s.deathFresh p && (s.geoLive.seg (segOf p)).state ≠ 3 && (s.deathSeg p).state = 3)).run
      ((deathMap s p (s.deathBits p bits)).run ((deathTile s p).run ((deathTold s p).run
        ((deathNoted p ((s.crackOf p % 256 ||| s.deathBits p bits) + origin * 256) cause (s.deathBits p bits)).run s)))) := by
  rw [run_congr (death1_eq h), deathSteps, deathNoted, deathTile, deathDue]
  repeat rw [doAll_cons_run]
  repeat rw [doAll_nil_run]

/-! ## Frames of the parts -/

/-- The registers of the crack map's page that a death writes. -/
def noteRegs (k : RK) : Prop := k.blk = .crack ∧ k.inst = 0 ∧ (k.off = 0x118 ∨ k.off = 0x148 ∨ k.off = offEvtStatus)

theorem deathLast_touches (p cause bits : Nat) : (deathLast p cause bits).Touches [] (fun k => k = ⟨.crack, 0, 0x118⟩)
    (fun _ => False) := fun s => by
  unfold deathLast
  exact touches_setReg (by rfl) s

theorem deathNoted_touches (p v cause new : Nat) : (deathNoted p v cause new).Touches [.ft, .hi] noteRegs (fun _ => False) :=
  touches_doAll_cons (touches_modFt (by decide)) (touches_doAll_cons (touches_addSat ⟨rfl, rfl, .inr (.inl rfl)⟩)
    (touches_doAll_cons ((deathLast_touches p cause new).mono (by simp) (by rintro k rfl; exact ⟨rfl, rfl, .inl rfl⟩) (by simp))
      (touches_doAll_cons (touches_setEvt ⟨rfl, rfl, .inr (.inr rfl)⟩ (by decide)) touches_doAll_nil)))

theorem deathDue_touches (full : Bool) : (deathDue full).Touches [.hi] noteRegs
    (fun a => a = ⟨.persistDue, 0, 0⟩ ∨ a = ⟨.geoDue, 0, 0⟩) :=
  touches_doAll_cons (touches_whenE (touches_setEvt ⟨rfl, rfl, .inr (.inr rfl)⟩ (by decide))) (touches_doAll_cons
    (touches_setAx (.inl rfl)) (touches_doAll_cons (touches_whenE (touches_setAx (.inr rfl))) touches_doAll_nil))

theorem deathMap_touches (s : State) (p new : Nat) : (deathMap s p new).Touches [.geo] (fun _ => False) (fun _ => False) :=
  fun t u hu => by
    rw [List.mem_singleton.1 hu]
    simp [Upd.Within, Upd.parts]

theorem kilnDeath_touches (k tile : Nat) : (kilnDeath k tile).Touches faultParts faultRegs
    (fun a => faultAux a ∨ a.kind = .kilnMoved) := fun s => by
  have hfault (src : Nat) : (kilnFault k eFENCED src tile 0).Touches faultParts faultRegs
      (fun a => faultAux a ∨ a.kind = .kilnMoved) :=
    (kilnFault_faults k eFENCED src tile 0).mono (fun _ h => h) (fun _ h => h) fun _ h => .inl h
  have hset : (setFault k eFENCED 3 tile 0).Touches faultParts faultRegs (fun a => faultAux a ∨ a.kind = .kilnMoved) :=
    (setFault_faults k eFENCED 3 tile 0).mono (fun _ h => h) (fun _ h => h) fun _ h => .inl h
  unfold kilnDeath
  exact within_doAll (touches_doAll_cons (touches_ite (hfault _) hset) (touches_doAll_cons (touches_whenE hset)
    (touches_doAll_cons (touches_setAx (.inr rfl)) touches_doAll_nil)))

theorem deathTold_touches (s : State) (p : Nat) : (deathTold s p).Touches faultParts faultRegs
    (fun a => faultAux a ∨ a.kind = .kilnMoved) := touches_forEach fun _ _ => kilnDeath_touches _ _

/-- The parts a tile's contents lie in. -/
def laneParts : List Component := [.sp, .ecc, .acc, .imem, .row, .tl, .rng]

/-- The hidden scalars of a tile's compute lane, as a loss of its contents clears them. -/
def laneAux (p : Nat) (a : Aux) : Prop := (tileAux a.kind = true ∧ a.a = p) ∨ a.kind = .tbNext ∨ a.kind = .urgent

theorem tileLost_touches (p : Nat) : (tileLost p).Touches laneParts (fun k => k.tileOf = some p) (laneAux p) := by
  refine touches_doAll_cons (touches_list fun u hu => ?_) (touches_doAll_cons (fun s u hu => ?_) touches_doAll_nil)
  · simp only [List.mem_cons, List.not_mem_nil, or_false] at hu
    rcases hu with rfl | rfl | rfl | rfl | rfl | rfl | rfl | rfl <;> refine ⟨by simp [Upd.parts, laneParts], ?_⟩
    any_goals exact trivial
    · exact fun k hk => by simpa using hk
    · intro a ha
      simp only [Bool.or_eq_true, Bool.and_eq_true, decide_eq_true_eq] at ha
      rcases ha with (ha | ha) | ha
      · exact .inl ha
      · exact .inr (.inl ha.1)
      · exact .inr (.inr ha.1)
  · obtain ⟨x, -, rfl⟩ := List.mem_map.1 hu
    simp [Upd.Within, Upd.parts, laneParts]

/-- The registers and hidden scalars that the loss of a dead tile's lane may change. -/
def laneRegs (p : Nat) (k : RK) : Prop := k.tileOf = some p ∨ k = ⟨.tele, 0, 0x140⟩

theorem deathTile_touches (s : State) (p : Nat) : (deathTile s p).Touches (.pw :: laneParts) (laneRegs p)
    (fun a => laneAux p a ∨ a.kind = .selftest ∨ a = ⟨.tilePwr, p, 0⟩) := by
  have hend : (selftestEnd p).Touches (.pw :: laneParts) (laneRegs p)
      (fun a => laneAux p a ∨ a.kind = .selftest ∨ a = ⟨.tilePwr, p, 0⟩) :=
    touches_whenE (touches_doAll_cons (touches_setAx (.inr (.inl rfl))) (touches_doAll_cons (touches_addSat (.inr rfl))
      touches_doAll_nil))
  exact touches_doAll_cons hend (touches_doAll_cons ((tileLost_touches p).mono (fun _ h => List.mem_cons_of_mem _ h)
    (fun _ h => .inl h) fun _ h => .inl h) (touches_doAll_cons (touches_setAx (.inr (.inr rfl))) (touches_doAll_cons
      (touches_modPw (by simp)) touches_doAll_nil)))

/-! ## What a death leaves -/

/-- The parts, registers and hidden scalars a death may change. -/
def deathParts : List Component := .ft :: .geo :: .pw :: .imem :: faultParts
def deathRegs (k : RK) : Prop := noteRegs k ∨ faultRegs k ∨ k = ⟨.tele, 0, 0x140⟩
def deathAux (a : Aux) : Prop := faultAux a ∨ tileAux a.kind = true ∨
  a.kind ∈ [.kilnMoved, .tbNext, .selftest, .tilePwr, .geoDue] ∨ a = ⟨.persistDue, 0, 0⟩

theorem tileOf_fault {k : RK} {p : Nat} (h : k.tileOf = some p) : faultRegs k := by
  unfold RK.tileOf at h
  unfold faultRegs
  split at h <;> simp_all [faultReg, quietReg, quietBlks]

theorem laneAux_death {a : Aux} {p : Nat} (h : laneAux p a) : deathAux a := by
  rcases h with h | h | h
  · exact .inr (.inl h.1)
  · exact .inr (.inr (.inl (by simp [h])))
  · exact .inl (by unfold faultAux; rw [h]; decide)

theorem noted_death {off : Nat} (h : off = 0x118 ∨ off = 0x148 ∨ off = offEvtStatus) : deathRegs ⟨.crack, 0, off⟩ :=
  .inl ⟨rfl, rfl, h⟩

theorem selftestEnd_death (p : Nat) : (selftestEnd p).Touches deathParts deathRegs deathAux :=
  touches_whenE (touches_doAll_cons (touches_setAx (.inr (.inr (.inl (by simp))))) (touches_doAll_cons
    (touches_addSat (.inr (.inr rfl))) touches_doAll_nil))

theorem deathTold_death (s : State) (p : Nat) : (deathTold s p).Touches deathParts deathRegs deathAux :=
  (deathTold_touches s p).mono (by decide) (fun _ h => .inr (.inl h)) fun a h =>
    h.elim .inl fun h => .inr (.inr (.inl (by simp [h])))

theorem death1_touches (p bits cause origin : Nat) : (death1 p bits cause origin).Touches deathParts deathRegs deathAux :=
  fun s => by
    by_cases h : s.deathBits p bits = 0
    · rw [show death1 p bits cause origin s = [] by unfold death1; exact if_pos h]
      exact within_nil
    rw [death1_eq h, deathSteps]
    refine within_doAll (touches_doAll_cons (touches_modFt (by decide)) ?_)
    refine touches_doAll_cons (touches_addSat (noted_death (.inr (.inl rfl)))) ?_
    refine touches_doAll_cons ((deathLast_touches p cause _).mono (by simp) (by rintro k rfl; exact noted_death (.inl rfl))
      (by simp)) ?_
    refine touches_doAll_cons (touches_setEvt (noted_death (.inr (.inr rfl))) (by decide)) ?_
    refine touches_doAll_cons (deathTold_death s p) (touches_doAll_cons (selftestEnd_death p) ?_)
    refine touches_doAll_cons ((tileLost_touches p).mono (by decide) (fun _ h => .inr (.inl (tileOf_fault h)))
      fun _ h => laneAux_death h) ?_
    refine touches_doAll_cons (touches_setAx (.inr (.inr (.inl (by simp))))) (touches_doAll_cons (touches_modPw (by decide)) ?_)
    refine touches_doAll_cons ((deathMap_touches s p _).mono (by decide) (by simp) (by simp)) ?_
    refine touches_doAll_cons (touches_whenE (touches_setEvt (noted_death (.inr (.inr rfl))) (by decide))) ?_
    refine touches_doAll_cons (touches_setAx (.inr (.inr (.inr rfl)))) (touches_doAll_cons (touches_whenE
      (touches_setAx (.inr (.inr (.inl (by simp)))))) touches_doAll_nil)

theorem putEntry_crackOf (s : State) (p v q : Nat) : ((putEntry p v).run s).crackOf q = if q = p then v else s.crackOf q := by
  rw [putEntry, modFt_run, State.crackOf, State.apply1_ft]
  exact fget_fset _ _ _ _ _ _

/-- The entries and the repeaters' tree, where only other parts change. -/
theorem Eff.Touches.crackOf {e : Eff} {ps : List Component} {R : RK → Prop} {A : Aux → Prop} (h : e.Touches ps R A)
    (s : State) (q : Nat) (hp : Component.ft ∉ ps) : (e.run s).crackOf q = s.crackOf q := by
  rw [State.crackOf, (h.same s .ft hp (by simp) (by simp) : _ = _), State.crackOf]

theorem deathNoted_crackOf (s : State) (p v cause new q : Nat) :
    ((deathNoted p v cause new).run s).crackOf q = if q = p then v else s.crackOf q := by
  have hrest : (doAll [addSat fDeathCount 0 1, deathLast p cause new, setEvt .crack 0 0]).Touches [.hi] (fun _ => True)
      (fun _ => False) := touches_doAll_cons (touches_addSat trivial) (touches_doAll_cons
        ((deathLast_touches p cause new).mono (by simp) (by simp) (by simp)) (touches_doAll_cons
          (touches_setEvt trivial (by simp)) touches_doAll_nil))
  rw [deathNoted, doAll_cons_run, hrest.crackOf _ _ (by simp), putEntry_crackOf]

theorem death1_crackOf {bits cause origin : Nat} (h : s.deathBits p bits ≠ 0) (q : Nat) :
    ((death1 p bits cause origin).run s).crackOf q =
      if q = p then (s.crackOf p % 256 ||| s.deathBits p bits) + origin * 256 else s.crackOf q := by
  rw [death1_run h, (deathDue_touches _).crackOf _ _ (by decide), (deathMap_touches s p _).crackOf _ _ (by decide),
    (deathTile_touches s p).crackOf _ _ (by decide), (deathTold_touches s p).crackOf _ _ (by decide), deathNoted_crackOf]

/-- The entry of the block found dead gains the bits. -/
theorem death1_gains {bits cause origin : Nat} (hb : bits < 256) (h : s.deathBits p bits ≠ 0) :
    ((death1 p bits cause origin).run s).crackOf p % 256 = s.crackOf p % 256 ||| bits := by
  have he : s.crackOf p % 256 < 256 := Nat.mod_lt _ (by omega)
  rw [death1_crackOf h, if_pos rfl, Nat.add_mul_mod_self_right, State.deathBits, Nat.mod_eq_of_lt hb, or_and_not he hb,
    Nat.mod_eq_of_lt (or_lt_256 he hb)]

theorem death1_crackOf_ne {bits cause origin q : Nat} (s : State) (hq : q ≠ p) :
    ((death1 p bits cause origin).run s).crackOf q = s.crackOf q := by
  by_cases h : s.deathBits p bits = 0
  · rw [death1_none h]
  · rw [death1_crackOf h, if_neg hq]

/-- The published geometry stays. -/
theorem Eff.Touches.geo {e : Eff} {ps : List Component} {R : RK → Prop} {A : Aux → Prop} (h : e.Touches ps R A)
    (s : State) (hp : Component.geo ∉ ps) : (e.run s).geo = s.geo := (h.same s .geo hp (by simp) (by simp)).1

theorem death1_geo (s : State) (p bits cause origin : Nat) : ((death1 p bits cause origin).run s).geo = s.geo := by
  by_cases h : s.deathBits p bits = 0
  · rw [death1_none h]
  have hmap (t : State) : ((deathMap s p (s.deathBits p bits)).run t).geo = t.geo := by simp [Eff.run, deathMap]
  rw [death1_run h, (deathDue_touches _).geo _ (by decide), hmap, (deathTile_touches s p).geo _ (by decide),
    (deathTold_touches s p).geo _ (by decide), (deathNoted_touches p _ cause _).geo _ (by decide)]

/-- The tile's compute is DEAD. -/
theorem death1_pwr {bits cause origin : Nat} (h : s.deathBits p bits ≠ 0) :
    ((death1 p bits cause origin).run s).ax ⟨.tilePwr, p, 0⟩ = 3 := by
  rw [death1_run h, (deathDue_touches _).ax _ (by simp), (deathMap_touches s p _).ax _ id, deathTile, doAll_cons_run,
    doAll_cons_run, doAll_cons_run, doAll_cons_run, doAll_nil_run, modPw_run, setAx_run]
  simp

/-- A tile whose compute is DEAD stays so at another's death. -/
theorem death1_pwr_keep {bits cause origin q : Nat} (hq : s.ax ⟨.tilePwr, q, 0⟩ = 3) :
    ((death1 p bits cause origin).run s).ax ⟨.tilePwr, q, 0⟩ = 3 := by
  by_cases h : s.deathBits p bits = 0
  · rwa [death1_none h]
  by_cases hqp : q = p
  · rw [hqp, death1_pwr h]
  · rw [death1_run h, (deathDue_touches _).ax _ (by simp), (deathMap_touches s p _).ax _ id,
      (deathTile_touches s p).ax _ (by simp [laneAux, tileAux, hqp]), (deathTold_touches s p).ax _ (by simp [faultAux, faultKinds]),
      (deathNoted_touches p _ cause _).ax _ id, hq]

/-- The parts of a death after its entry is noted leave the events of the crack map's page. -/
theorem deathRest_on (s : State) {t : State} (p new bit : Nat) : ((deathMap s p new).run ((deathTile s p).run
    ((deathTold s p).run t))).on (fEvt .crack bit) 0 = t.on (fEvt .crack bit) 0 := by
  rw [(deathMap_touches s p new).on _ id, (deathTile_touches s p).on _ (by simp [laneRegs, RK.tileOf, fEvt]),
    (deathTold_touches s p).on _ (by simp [faultRegs, faultReg, quietReg, quietBlks, fEvt])]

theorem deathDue_evt {full : Bool} (h : s.on (fEvt .crack 0) 0 = true) : ((deathDue full).run s).on (fEvt .crack 0) 0 = true := by
  have hrest : (doAll [setAx ⟨.persistDue, 0, 0⟩ 1, whenE (fun s => !s.on fAutoShift 0 && s.pendSegs = [] && s.geoLive ≠ s.geo)
      (setAx ⟨.geoDue, 0, 0⟩ 1)]).Touches [] (fun _ => False) (fun _ => True) :=
    touches_doAll_cons (touches_setAx trivial) (touches_doAll_cons (touches_whenE (touches_setAx trivial)) touches_doAll_nil)
  rw [deathDue, doAll_cons_run, hrest.on _ id, whenE_run]
  split
  · rwa [setEvt, setEvtI_on_ne (by omega) (by omega)]
  · exact h

/-- DEATH is set. -/
theorem death1_evt {bits cause origin : Nat} (h : s.deathBits p bits ≠ 0) :
    ((death1 p bits cause origin).run s).on (fEvt .crack 0) 0 = true := by
  rw [death1_run h]
  refine deathDue_evt ?_
  rw [deathRest_on, deathNoted, doAll_cons_run, doAll_cons_run, doAll_cons_run, doAll_cons_run,
    doAll_nil_run]
  exact setEvt_on (by omega)

theorem deathDue_persist (s : State) (full : Bool) : ((deathDue full).run s).ax ⟨.persistDue, 0, 0⟩ = 1 := by
  rw [deathDue, doAll_cons_run, doAll_cons_run, doAll_cons_run, doAll_nil_run, whenE_run]
  split <;> simp

/-- A persist is due. -/
theorem death1_due {bits cause origin : Nat} (h : s.deathBits p bits ≠ 0) :
    ((death1 p bits cause origin).run s).ax ⟨.persistDue, 0, 0⟩ = 1 := by
  rw [death1_run h, deathDue_persist]

/-! ## The repeaters a death leaves without a clock (R405) -/

/-- The repeaters that lose their clock, or move to their standby parent, live. -/
theorem orphans_live {tree : FMap Nat Nat} {live : Nat → Bool} (fuel : Nat) {todo gone moved : List Nat}
    (h : ∀ q ∈ gone, live q = true) : ∀ q ∈ (orphans tree live fuel todo gone moved).1, live q = true := by
  induction fuel generalizing todo gone moved with
  | zero => simpa [orphans] using h
  | succ fuel ih =>
    cases todo with
    | nil => simpa [orphans] using h
    | cons p todo =>
      rw [orphans]
      refine ih fun q hq => ?_
      rcases List.mem_append.1 hq with hq | hq
      · exact h q hq
      · have hkid := List.mem_of_mem_filter (List.mem_filter.1 hq).1
        have hk := (List.mem_filter.1 (List.mem_filter.1 hq).1).2
        simp only [Bool.and_eq_true] at hk
        exact hk.1.1

/-- The repeaters lost and moved by a death. -/
def State.deathOrphans (s : State) (p bits : Nat) : List Nat × List Nat :=
  if bits % 256 / 128 = 1 && s.crackOf p % 256 / 128 = 0 then
    orphans s.ft.tree (fun q => q ≠ p && s.crackOf q % 256 / 128 = 0) 36000 [p] [] [] else ([], [])

theorem deathOrphans_ne {bits : Nat} : ∀ q ∈ (s.deathOrphans p bits).1, q ≠ p := by
  unfold State.deathOrphans
  split
  · intro q hq
    have := orphans_live 36000 (by simp) q hq
    simp only [Bool.and_eq_true, decide_eq_true_eq] at this
    exact this.1
  · simp

/-- Repeaters move to their standby parents. -/
def standby (q : Nat) : Eff := doAll [
  modFt (fun f => { f with tree := fset id (fun _ => 0) f.tree q (fget (fun _ => 0) f.tree q % 64 + 64) }),
  addSat fOnStandby 0 1, setEvt .clk 0 2]

/-- A repeater without a clock is dead. -/
def unclocked (q : Nat) : Eff := doAll [death1 q 0x80 8 2, addSat fUnclocked 0 1]

theorem death_run (s : State) (p bits cause origin : Nat) : (death p bits cause origin).run s =
    (forEach (s.deathOrphans p bits).1 unclocked).run ((forEach (s.deathOrphans p bits).2 standby).run
      ((death1 p bits cause origin).run s)) := by
  refine (run_congr (f := doAll [death1 p bits cause origin, forEach (s.deathOrphans p bits).2 standby,
    forEach (s.deathOrphans p bits).1 unclocked]) rfl).trans ?_
  rw [doAll_cons_run, doAll_cons_run, doAll_cons_run, doAll_nil_run]

/-- The registers of the clock page that a death may write. -/
def clkRegs (k : RK) : Prop := k.blk = .clk ∧ k.inst = 0 ∧ (k.off = 0x110 ∨ k.off = offEvtStatus)

theorem standby_touches (q : Nat) : (standby q).Touches [.ft, .hi] clkRegs (fun _ => False) :=
  touches_doAll_cons (touches_modFt (by simp)) (touches_doAll_cons (touches_addSat ⟨rfl, rfl, .inl rfl⟩) (touches_doAll_cons
    (touches_setEvt ⟨rfl, rfl, .inr rfl⟩ (by simp)) touches_doAll_nil))

theorem standby_crackOf (s : State) (q r : Nat) : ((standby q).run s).crackOf r = s.crackOf r := by
  have hrest : (doAll [addSat fOnStandby 0 1, setEvt .clk 0 2]).Touches [.hi] clkRegs (fun _ => False) :=
    touches_doAll_cons (touches_addSat ⟨rfl, rfl, .inl rfl⟩) (touches_doAll_cons
      (touches_setEvt ⟨rfl, rfl, .inr rfl⟩ (by simp)) touches_doAll_nil)
  rw [standby, doAll_cons_run, hrest.crackOf _ _ (by simp)]
  simp [State.crackOf]

theorem death_touches (p bits cause origin : Nat) : (death p bits cause origin).Touches deathParts
    (fun k => deathRegs k ∨ clkRegs k) deathAux := fun s => by
  refine within_doAll (es := [death1 p bits cause origin, forEach (s.deathOrphans p bits).2 standby,
    forEach (s.deathOrphans p bits).1 unclocked]) ?_
  have h1 (q b c o : Nat) := (death1_touches q b c o).mono (ps := deathParts) (R := fun k => deathRegs k ∨ clkRegs k)
    (A := deathAux) (fun _ h => h) (fun _ h => .inl h) fun _ h => h
  refine touches_doAll_cons (h1 _ _ _ _) (touches_doAll_cons (touches_forEach fun q _ => ?_) (touches_doAll_cons
    (touches_forEach fun q _ => ?_) touches_doAll_nil))
  · exact (standby_touches q).mono (by decide) (fun _ h => .inr h) (by simp)
  · exact touches_doAll_cons (h1 _ _ _ _) (touches_doAll_cons (touches_addSat (.inr ⟨rfl, rfl, .inl rfl⟩)) touches_doAll_nil)

/-- A death is on record: the entry's bits, a compute that is DEAD, DEATH, a persist due; the published map as given. -/
def Dead (v p : Nat) (g : GeoMap) (t : State) : Prop :=
  t.crackOf p % 256 = v ∧ t.ax ⟨.tilePwr, p, 0⟩ = 3 ∧ t.on (fEvt .crack 0) 0 = true ∧ t.ax ⟨.persistDue, 0, 0⟩ = 1 ∧ t.geo = g

theorem death1_dead {bits cause origin : Nat} (hb : bits < 256) (h : s.deathBits p bits ≠ 0) :
    Dead (s.crackOf p % 256 ||| bits) p s.geo ((death1 p bits cause origin).run s) :=
  ⟨death1_gains hb h, death1_pwr h, death1_evt h, death1_due h, death1_geo s p bits cause origin⟩

/-- Another's death keeps it on record. -/
theorem unclocked_dead {v q : Nat} {g : GeoMap} (hq : q ≠ p) (h : Dead v p g s) : Dead v p g ((unclocked q).run s) := by
  have hcount : (addSat fUnclocked 0 1).Touches [] clkRegs (fun _ => False) := touches_addSat ⟨rfl, rfl, .inl rfl⟩
  obtain ⟨hv, hp, he, hd, hg⟩ := h
  rw [unclocked, doAll_cons_run, doAll_cons_run, doAll_nil_run]
  refine ⟨?_, ?_, ?_, ?_, ?_⟩
  · rw [hcount.crackOf _ _ (by simp), death1_crackOf_ne _ hq.symm, hv]
  · rw [hcount.ax _ id, death1_pwr_keep hp]
  · rw [hcount.on _ (by simp [clkRegs, fEvt])]
    by_cases hn : s.deathBits q 0x80 = 0
    · rwa [death1_none hn]
    · exact death1_evt hn
  · rw [hcount.ax _ id]
    by_cases hn : s.deathBits q 0x80 = 0
    · rwa [death1_none hn]
    · exact death1_due hn
  · rw [hcount.geo _ (by simp), death1_geo, hg]

theorem standby_dead {v q : Nat} {g : GeoMap} (h : Dead v p g s) : Dead v p g ((standby q).run s) := by
  obtain ⟨hv, hp, he, hd, hg⟩ := h
  refine ⟨by rw [standby_crackOf, hv], by rw [(standby_touches q).ax _ id, hp], ?_, by rw [(standby_touches q).ax _ id, hd],
    by rw [(standby_touches q).geo _ (by simp), hg]⟩
  rwa [(standby_touches q).on _ (by simp [clkRegs, fEvt])]

/-- A detection's death stands once the repeaters it leaves without a clock are dead too. -/
theorem death_dead {bits cause origin : Nat} (hb : bits < 256) (h : s.deathBits p bits ≠ 0) :
    Dead (s.crackOf p % 256 ||| bits) p s.geo ((death p bits cause origin).run s) := by
  rw [death_run]
  refine forEach_keep (fun q hq t ht => unclocked_dead (deathOrphans_ne q hq) ht) _ ?_
  exact forEach_keep (fun q _ t ht => standby_dead ht) _ (death1_dead hb h)

end Sys2Proof.Machine
end

section
/-! PROOFS. Detections (R398, R400, R401); the crack map written and persisted (R397–R399, R421, R422). -/

namespace Sys2Proof.Machine

variable {s : State} {p : Nat} {c : CmdCtx} {args : List W64}

/-! ## Detections -/

theorem State.deathBits_two_pow {n : Nat} (hn : n < 8) (h : s.crackOf p / 2 ^ n % 2 = 0) : s.deathBits p (2 ^ n) ≠ 0 := by
  have hlt : 2 ^ n < 256 := Nat.pow_lt_pow_right (m := n) (n := 8) (by omega) hn
  rw [State.deathBits, Nat.mod_eq_of_lt hlt]
  exact two_pow_and_not hn h

theorem death_died {n cause origin : Nat} (hn : n < 8) (h : s.crackOf p / 2 ^ n % 2 = 0) :
    Died s ((death p (2 ^ n) cause origin).run s) p (2 ^ n) :=
  death_dead (Nat.pow_lt_pow_right (m := n) (n := 8) (by omega) hn) (State.deathBits_two_pow hn h)

theorem detection_died {n cause origin : Nat} {cond : State → Bool} (hc : cond s = true) (hn : n < 8)
    (h : s.crackOf p / 2 ^ n % 2 = 0) : Died s ((whenE cond (death p (2 ^ n) cause origin)).run s) p (2 ^ n) := by
  rw [whenE_run, if_pos hc]
  exact death_died hn h

/-- Settles O43. -/
theorem detectionsRecordADeath : Obligations.DetectionsRecordADeath := by
  unfold Obligations.DetectionsRecordADeath
  refine ⟨fun s p hd hon h0 h2 hb => ⟨_, rfl, ?_⟩, fun s p c hd hon hc hb => ⟨_, rfl, ?_⟩, fun s p hd hon hb => ⟨_, rfl, ?_⟩,
    fun s p hd hp hb => ⟨_, rfl, ?_⟩, fun s p hd hp hb => ⟨_, rfl, ?_⟩⟩
  · exact detection_died (n := 5) (by simp [hd, hon, h0, h2]) (by omega) hb
  · have hcore : c % 4 = c := Nat.mod_eq_of_lt hc
    show Died s ((whenE (fun s => s.detects && s.physOn p && c < 4) (death p (2 ^ (c % 4)) 2 2)).run s) p (2 ^ c)
    rw [hcore]
    exact detection_died (by simp [hd, hon, hc]) (by omega) hb
  · exact detection_died (n := 4) (by simp [hd, hon]) (by omega) hb
  · exact detection_died (n := 6) (by simp [hd, hp]) (by omega) hb
  · exact detection_died (n := 7) (by simp [hd, hp]) (by omega) hb

/-! ## Bits of an entry written -/

theorem sub_and_not {e w : Nat} (he : e < 256) (hw : w < 256) : e - (e &&& (255 - w)) = e &&& w := by
  have hx : e &&& w < 256 := and_lt_256 he
  have hy : e &&& (255 - w) < 256 := and_lt_256 he
  have hdisj : (e &&& w) &&& (e &&& (255 - w)) = 0 := Nat.eq_of_testBit_eq fun n => by
    simp only [Nat.testBit_and, testBit_255_sub hw, Nat.zero_testBit]
    cases w.testBit n <;> simp
  have hor : (e &&& w) ||| (e &&& (255 - w)) = e := Nat.eq_of_testBit_eq fun n => by
    simp only [Nat.testBit_and, Nat.testBit_or, testBit_255_sub hw]
    cases hb : e.testBit n with
    | false => simp
    | true => cases w.testBit n <;> simp [testBit_lt_eight he hb]
  have hsum := congrArg BitVec.toNat (BitVec.add_eq_or_of_and_eq_zero (BitVec.ofNat 8 (e &&& w))
    (BitVec.ofNat 8 (e &&& (255 - w))) (BitVec.eq_of_toNat_eq (by
      rw [BitVec.toNat_and, BitVec.toNat_ofNat, BitVec.toNat_ofNat, Nat.mod_eq_of_lt hx, Nat.mod_eq_of_lt hy, hdisj]
      rfl)))
  rw [BitVec.toNat_add, BitVec.toNat_or, BitVec.toNat_ofNat, BitVec.toNat_ofNat, Nat.mod_eq_of_lt hx, Nat.mod_eq_of_lt hy,
    hor] at hsum
  have hle : e &&& (255 - w) ≤ e := Nat.and_le_left
  omega

/-- Bits cleared and bits set leave the value written. -/
theorem clear_or_set {e w : Nat} (he : e < 256) (hw : w < 256) : e &&& w ||| (w &&& (255 - e)) = w := by
  refine Nat.eq_of_testBit_eq fun n => ?_
  simp only [Nat.testBit_or, Nat.testBit_and, testBit_255_sub he]
  cases hb : w.testBit n with
  | false => simp
  | true => cases e.testBit n <;> simp [testBit_lt_eight hw hb]

/-! ## ENTRY_DATA (R399, R422) -/

/-- The entry's value after an effect of a write of ENTRY_DATA, the published map kept. -/
def EntryIs (p v : Nat) (g : GeoMap) (t : State) : Prop := t.crackOf p % 256 = v ∧ t.geo = g

/-- The bits a write clears. -/
def entryCleared (p e clr : Nat) : Eff :=
  whenE (fun _ => clr ≠ 0) (putEntry p (if e - clr = 0 then 0 else e - clr + 3 * 256))

/-- The segment built anew where a block's bits are cleared. -/
def entryRebuilt (p clr : Nat) : Eff := whenE (fun _ => clr % 64 ≠ 0) (fun s =>
  [.geoLive (s.geoLive.setSeg (segOf p) (segFrom (s.deadCols (segOf p)))), .aux ⟨.geoDue, 0, 0⟩ 1])

theorem entryWrite_run {v : Nat} (hw : s.wedged = false) : (entryWrite p v).run s =
    if s.crackOf p % 256 = v % 256 then s else
    (whenE (fun _ => v % 256 &&& (255 - s.crackOf p % 256) ≠ 0) (death p (v % 256 &&& (255 - s.crackOf p % 256)) 7 3)).run
      ((entryRebuilt p (s.crackOf p % 256 &&& (255 - v % 256))).run
        ((entryCleared p (s.crackOf p % 256) (s.crackOf p % 256 &&& (255 - v % 256))).run s)) := by
  have he : s.crackOf p % 256 < 256 := Nat.mod_lt _ (by omega)
  have hv : v % 256 < 256 := Nat.mod_lt _ (by omega)
  have hclear := sub_and_not he hv
  have hset := clear_or_set he hv
  have hnone : (s.crackOf p % 256 &&& (255 - v % 256) = 0 ∧ v % 256 &&& (255 - s.crackOf p % 256) = 0) ↔
      s.crackOf p % 256 = v % 256 := by
    refine ⟨fun ⟨h0, h1⟩ => ?_, fun h => ?_⟩
    · rw [h0] at hclear
      rw [h1, ← hclear] at hset
      simpa using hset
    · rw [h]
      have hself : v % 256 &&& (255 - v % 256) = 0 := by
        have := sub_and_not hv hv
        rw [Nat.and_self] at this
        have hle : v % 256 &&& (255 - v % 256) ≤ v % 256 := Nat.and_le_left
        omega
      exact ⟨hself, hself⟩
  rw [Eff.run_eq]
  unfold entryWrite
  dsimp only
  split
  next h => rw [if_pos (hnone.1 h)]; rfl
  next h =>
    rw [if_neg (mt hnone.2 h), if_neg (by simp [hw])]
    refine (run_congr (f := doAll [entryCleared p (s.crackOf p % 256) (s.crackOf p % 256 &&& (255 - v % 256)),
      entryRebuilt p (s.crackOf p % 256 &&& (255 - v % 256)), whenE (fun _ => v % 256 &&& (255 - s.crackOf p % 256) ≠ 0)
        (death p (v % 256 &&& (255 - s.crackOf p % 256)) 7 3)]) rfl).trans ?_
    rw [doAll_cons_run, doAll_cons_run, doAll_cons_run, doAll_nil_run]

theorem entryCleared_is {v : Nat} (s : State) (p : Nat) (hv : v < 256) :
    EntryIs p (s.crackOf p % 256 &&& v) s.geo ((entryCleared p (s.crackOf p % 256) (s.crackOf p % 256 &&& (255 - v))).run s) := by
  have he : s.crackOf p % 256 < 256 := Nat.mod_lt _ (by omega)
  have hclear := sub_and_not he hv
  have hlt : s.crackOf p % 256 &&& v < 256 := and_lt_256 he
  have hput (x : Nat) : (putEntry p x).Touches [.ft] (fun _ => False) (fun _ => False) := touches_modFt (by simp)
  rw [entryCleared, whenE_run]
  split
  · refine ⟨?_, (hput _).geo _ (by simp)⟩
    rw [putEntry_crackOf, if_pos rfl, hclear]
    split
    · omega
    · omega
  next h =>
    simp only [ne_eq, decide_not, Bool.not_eq_true', decide_eq_false_iff_not, not_not] at h
    rw [h, Nat.sub_zero] at hclear
    exact ⟨hclear, rfl⟩

theorem entryRebuilt_is {v clr : Nat} {g : GeoMap} (h : EntryIs p v g s) : EntryIs p v g ((entryRebuilt p clr).run s) := by
  rw [entryRebuilt, whenE_run]
  split
  · exact h
  · exact h

/-- A write of an entry gives it its bits, and leaves the published map. -/
theorem entryWrite_is {v : Nat} (hw : s.wedged = false) : EntryIs p (v % 256) s.geo ((entryWrite p v).run s) := by
  have he : s.crackOf p % 256 < 256 := Nat.mod_lt _ (by omega)
  have hv : v % 256 < 256 := Nat.mod_lt _ (by omega)
  rw [entryWrite_run hw]
  split
  next h => exact ⟨h, rfl⟩
  next h =>
    have hmid := entryRebuilt_is (clr := s.crackOf p % 256 &&& (255 - v % 256)) (entryCleared_is s p hv)
    obtain ⟨hcrack, hgeo⟩ := hmid
    rw [whenE_run]
    split
    next hset =>
      have hset : v % 256 &&& (255 - s.crackOf p % 256) ≠ 0 := by simpa using hset
      have hlt : v % 256 &&& (255 - s.crackOf p % 256) < 256 := and_lt_256 hv
      have hall : (v % 256 &&& (255 - s.crackOf p % 256)) &&& (255 - (s.crackOf p % 256 &&& v % 256)) =
          v % 256 &&& (255 - s.crackOf p % 256) := by
        refine Nat.eq_of_testBit_eq fun n => ?_
        simp only [Nat.testBit_and, testBit_255_sub he, testBit_255_sub (and_lt_256 he : s.crackOf p % 256 &&& v % 256 < 256)]
        cases s.crackOf p % 256 |>.testBit n <;> cases decide (n < 8) <;> simp
      have hdead := death_dead (cause := 7) (origin := 3) hlt (by
        rw [State.deathBits, hcrack, Nat.mod_eq_of_lt hlt, hall]; exact hset)
      rw [hcrack, clear_or_set he hv, hgeo] at hdead
      exact ⟨hdead.1, hdead.2.2.2.2⟩
    next hset =>
      have hset : v % 256 &&& (255 - s.crackOf p % 256) = 0 := by simpa using hset
      have hor := clear_or_set he hv
      rw [hset] at hor
      exact ⟨by rw [hcrack]; simpa using hor, hgeo⟩

theorem entryWrite_touches (p v : Nat) : (entryWrite p v).Touches deathParts (fun k => deathRegs k ∨ clkRegs k) deathAux :=
  fun s => by
    have hput (x : Nat) : (putEntry p x).Touches deathParts (fun k => deathRegs k ∨ clkRegs k) deathAux :=
      touches_modFt (by decide)
    have hmap : Eff.Touches deathParts (fun k => deathRegs k ∨ clkRegs k) deathAux (fun s =>
        [.geoLive (s.geoLive.setSeg (segOf p) (segFrom (s.deadCols (segOf p)))), .aux ⟨.geoDue, 0, 0⟩ 1]) := fun t u hu => by
      simp only [List.mem_cons, List.not_mem_nil, or_false] at hu
      rcases hu with rfl | rfl
      · exact ⟨by simp [Upd.parts, deathParts], trivial⟩
      · exact ⟨by simp [Upd.parts], .inr (.inr (.inl (by simp)))⟩
    unfold entryWrite
    dsimp only
    split
    · exact within_nil
    split
    · exact hput _ s
    · exact within_doAll (touches_doAll_cons (touches_whenE (hput _)) (touches_doAll_cons (touches_whenE hmap)
        (touches_doAll_cons (touches_whenE (death_touches _ _ _ _)) touches_doAll_nil)))

theorem entryAdvance_run (s : State) : entryAdvance.run s =
    if s.on fEntryInc 0 then (setF fEntrySel 0 ((s.get fEntrySel 0 + 1) % 36000)).run s else s := by
  rw [entryAdvance, whenE_run]
  rfl

theorem entryAdvance_touches : entryAdvance.Touches [] (fun k => k = ⟨.crack, 0, 0x100⟩) (fun _ => False) :=
  touches_whenE (touches_look fun _ => touches_setF rfl)

theorem entryAdvance_sel (s : State) : (entryAdvance.run s).get fEntrySel 0 =
    if s.on fEntryInc 0 then (s.get fEntrySel 0 + 1) % 36000 else s.get fEntrySel 0 := by
  rw [entryAdvance_run]
  split
  · rw [get_setF_same (by decide)]
    exact Nat.mod_eq_of_lt ((Nat.mod_lt _ (by omega)).trans (by decide))
  · rfl

/-- What an accepted write of ENTRY_DATA does. -/
def entryWritten (v : W64) : Eff := doAll [look (fun s => s.get fEntrySel 0) fun p => entryWrite p (getBits v 0 8), entryAdvance]

theorem execEntryDataWrite_run {src : Src} {v : W64} (hl : s.lets src .crack 0 true)
    (he : s.entryHeld (s.get fEntrySel 0) (s.crackOf (s.get fEntrySel 0) % 256 &&& (255 - getBits v 0 8)) = false) :
    exec (.entryDataWrite src v) s = .next ((entryWritten v).run (s.numbered .crack (s.key .crack 0))) :=
  congrArg Host.Outcome.next (write_accepted hl (by decide) (by simp [firstErr, errIf, he]))

theorem entryWritten_run (s : State) (v : W64) : (entryWritten v).run s =
    entryAdvance.run ((entryWrite (s.get fEntrySel 0) (getBits v 0 8)).run s) := by
  rw [entryWritten, doAll_cons_run, doAll_cons_run, doAll_nil_run, look_run]

theorem entryWritten_touches (v : W64) : (entryWritten v).Touches deathParts
    (fun k => (deathRegs k ∨ clkRegs k) ∨ k = ⟨.crack, 0, 0x100⟩) deathAux :=
  touches_doAll_cons (touches_look fun p => (entryWrite_touches p _).mono (fun _ h => h) (fun _ h => .inl h) fun _ h => h)
    (touches_doAll_cons (entryAdvance_touches.mono (by simp) (fun _ h => .inr h) (by simp)) touches_doAll_nil)

theorem entryData_not_death : ¬ (deathRegs ⟨.crack, 0, 0x100⟩ ∨ clkRegs ⟨.crack, 0, 0x100⟩) := by
  simp [deathRegs, clkRegs, noteRegs, faultRegs, faultReg, quietReg, quietBlks, offEvtStatus]

theorem offSeq_not_entry : ¬ ((deathRegs ⟨.crack, 0, offSeq⟩ ∨ clkRegs ⟨.crack, 0, offSeq⟩) ∨
    (⟨.crack, 0, offSeq⟩ : RK) = ⟨.crack, 0, 0x100⟩) := by
  simp [deathRegs, clkRegs, noteRegs, faultRegs, faultReg, quietReg, quietBlks, offEvtStatus, offSeq]

/-! ## Persists (R397, R398, R421) -/

/-- The copy that is programmed: B where A is the newest, else A. -/
def FaultSt.spare (f : FaultSt) : Nat := match f.newest with
  | some 0 => 1
  | _ => 0

theorem persistStart_run (s : State) : persistStart.run s = (setAx ⟨.persist, 0, 0⟩ (1 + s.ft.spare)).run ((setF fMapState 0 2).run
    ((modFt fun f => if s.ft.spare = 0 then { f with copyA := ⟨false, s.ft.nextSeq, s.ft.crack⟩ }
      else { f with copyB := ⟨false, s.ft.nextSeq, s.ft.crack⟩ }).run s)) := by
  refine (run_congr (f := doAll [_, setF fMapState 0 2, _]) rfl).trans ?_
  rw [doAll_cons_run, doAll_cons_run, doAll_cons_run, doAll_nil_run]
  rfl

/-- The registers and scalars a persist's start writes. -/
def mapStateRegs (k : RK) : Prop := k = ⟨.crack, 0, 0x018⟩
def persistAux (a : Aux) : Prop := a = ⟨.persist, 0, 0⟩

theorem persistStart_touches : persistStart.Touches [.ft] mapStateRegs persistAux := fun s => by
  unfold persistStart
  exact within_doAll (touches_doAll_cons (touches_modFt (by simp)) (touches_doAll_cons (touches_setF rfl)
    (touches_doAll_cons (touches_setAx rfl) touches_doAll_nil)))

theorem persistStart_persisting (s : State) : Persisting s (persistStart.run s) := by
  rw [persistStart_run]
  refine ⟨?_, fun h => ?_, fun h => ?_⟩
  · rw [setAx_get, get_setF_same (by decide)]
    rfl
  · simp [FaultSt.spare, h]
  · simp [FaultSt.spare]

/-- Persisting as seen from a state with the same fault record. -/
theorem Persisting.of_ft {t u : State} (h : Persisting t u) (hft : t.ft = s.ft) : Persisting s u := by
  obtain ⟨hmap, h0, h1⟩ := h
  rw [hft] at h0 h1
  exact ⟨hmap, h0, h1⟩

theorem execPersist_run (h : s.admits c .crack 0 (persistSpec args)) : exec (.persist c args) s =
    .next (persistStart.run (s.taken c .crack 0 0x13 args)) := congrArg Host.Outcome.next (admitCmd_run h)

theorem execPersistGo_run {src : Src} {v : W64} (hl : s.lets src .crack 0 true) (hv : getBits v 0 1 = 1)
    (hm : s.get fMapState 0 ≠ 2) : exec (.persistGo src v) s = .next (persistStart.run (s.numbered .crack (s.key .crack 0))) :=
  congrArg Host.Outcome.next ((write_accepted hl (by decide) (by simp [firstErr, errIf, hm])).trans (by
    rw [whenE_run, if_pos (by simpa using hv)]))

/-! ## The end of a persist -/

/-- Commands that complete are no longer under way. -/
theorem forEach_finish_running (l : List Running) (code : Nat) (v : W64) (s : State) :
    ((forEach l fun r => finish r code v).run s).hi.running = s.hi.running.filter fun x => l.all fun r => x.seq ≠ r.seq := by
  induction l generalizing s with
  | nil => exact (List.filter_eq_self.2 fun _ _ => by simp).symm
  | cons r l ih =>
    rw [forEach_cons_run, ih, finish_hi_running, List.filter_filter]
    refine List.filter_congr fun x _ => ?_
    rw [List.all_cons, Bool.and_comm]

theorem finishAll_running {blk : Blk} {inst op code : Nat} {v : W64} (s : State) :
    ((finishAll blk inst op code v).run s).hi.running =
      s.hi.running.filter fun x => (s.runningOf blk inst op).all fun r => x.seq ≠ r.seq := by
  rw [finishAll, look_run, forEach_finish_running]

theorem finishAll_runningOf {blk : Blk} {inst op code : Nat} {v : W64} (s : State) :
    ((finishAll blk inst op code v).run s).runningOf blk inst op = [] := by
  rw [State.runningOf, finishAll_running, List.filter_eq_nil_iff]
  intro x hx hop
  obtain ⟨hmem, hall⟩ := List.mem_filter.1 hx
  have := List.all_eq_true.1 hall x (List.mem_filter.2 ⟨hmem, hop⟩)
  simp at this

/-- The commands of other kinds stay, where sequence numbers tell them apart. -/
theorem Eff.Touches.runningOf {e : Eff} {ps : List Component} {R : RK → Prop} {A : Aux → Prop} (h : e.Touches ps R A)
    (s : State) (blk : Blk) (inst op : Nat) (hp : Component.hi ∉ ps) : (e.run s).runningOf blk inst op = s.runningOf blk inst op := by
  rw [State.runningOf, (h.same s .hi hp (by simp) (by simp) : _ = _), State.runningOf]

/-- The copy a persist programmed, with the outcome. -/
def copySet (x : Nat) (ok : Bool) : Eff := modFt fun f =>
  if x = 1 then { f with copyA := { f.copyA with valid := ok } } else { f with copyB := { f.copyB with valid := ok } }

/-- The end of a persist: the copy, the page, and the command done. -/
def persistEnded (x seq : Nat) (ok : Bool) : Eff := doAll [copySet x ok,
    setAx ⟨.persist, 0, 0⟩ 0, setF fFlashCode 0 (if ok then eOK else eTIMEOUT),
    look (fun s => s.ft.newest) (fun n => setF fMapState 0 (if n = none then 3 else 1)),
    if ok then setEvt .crack 0 3 else recordErr .crack 0 eTIMEOUT (x - 1),
    finishAll .crack 0 0x13 (if ok then eOK else eTIMEOUT) (if ok then BitVec.ofNat 64 seq else 0)]

theorem effPersistDone_run (ok : Bool) (hm : s.get fMapState 0 = 2) (hx : s.ax ⟨.persist, 0, 0⟩ ≠ 0) :
    ∃ seq, (effPersistDone ok).run s = (persistEnded (s.ax ⟨.persist, 0, 0⟩) seq ok).run s := by
  refine ⟨if s.ax ⟨.persist, 0, 0⟩ = 1 then s.ft.copyA.seq else s.ft.copyB.seq, ?_⟩
  rw [Eff.run_eq]
  unfold effPersistDone
  dsimp only
  rw [if_neg (by simp [hm, hx])]
  cases ok
  · refine (run_congr (f := doAll [copySet (s.ax ⟨.persist, 0, 0⟩) false, setAx ⟨.persist, 0, 0⟩ 0, setF fFlashCode 0 eTIMEOUT,
      look (fun s => s.ft.newest) (fun n => setF fMapState 0 (if n = none then 3 else 1)),
      doAll [recordErr .crack 0 eTIMEOUT (s.ax ⟨.persist, 0, 0⟩ - 1), finishAll .crack 0 0x13 eTIMEOUT 0]]) rfl).trans ?_
    rw [persistEnded]
    repeat rw [doAll_cons_run]
    repeat rw [doAll_nil_run]
    simp
  · refine (run_congr (f := doAll [copySet (s.ax ⟨.persist, 0, 0⟩) true, setAx ⟨.persist, 0, 0⟩ 0, setF fFlashCode 0 eOK,
      look (fun s => s.ft.newest) (fun n => setF fMapState 0 (if n = none then 3 else 1)),
      doAll [setEvt .crack 0 3, finishAll .crack 0 0x13 eOK (BitVec.ofNat 64 (if s.ax ⟨.persist, 0, 0⟩ = 1
        then s.ft.copyA.seq else s.ft.copyB.seq))]]) rfl).trans ?_
    rw [persistEnded]
    repeat rw [doAll_cons_run]
    repeat rw [doAll_nil_run]
    simp

/-- The registers the end of a persist writes. -/
def endedRegs (k : RK) : Prop := k.blk = .host ∨ (k.blk = .crack ∧ k.inst = 0 ∧
  (k.off = 0x018 ∨ k.off = 0x128 ∨ k.off = offErr ∨ k.off = offEvtStatus))

theorem persistNoted_touches (x : Nat) (ok : Bool) : Eff.Touches [.hi] (fun k => k.blk = .crack ∧ k.inst = 0 ∧
    (k.off = offErr ∨ k.off = offEvtStatus)) (fun _ => False)
    (if ok then setEvt .crack 0 3 else recordErr .crack 0 eTIMEOUT (x - 1)) :=
  touches_ite (touches_setEvt ⟨rfl, rfl, .inr rfl⟩ (by simp)) (touches_recordErr ⟨rfl, rfl, .inl rfl⟩ ⟨rfl, rfl, .inr rfl⟩ (by simp))

theorem persistFinished_touches (code : Nat) (v : W64) : (finishAll .crack 0 0x13 code v).Touches [.hi, .out]
    (fun k => k.blk = .host) (fun _ => False) := touches_finishAll (fun _ _ => rfl) (by simp) (by simp)

theorem persistEnded_touches (x seq : Nat) (ok : Bool) : (persistEnded x seq ok).Touches [.hi, .out, .ft] endedRegs persistAux := by
  refine touches_doAll_cons (touches_modFt (by simp)) (touches_doAll_cons (touches_setAx rfl) ?_)
  refine touches_doAll_cons (touches_setF (.inr ⟨rfl, rfl, .inr (.inl rfl)⟩)) (touches_doAll_cons (touches_look fun _ =>
    touches_setF (.inr ⟨rfl, rfl, .inl rfl⟩)) ?_)
  refine touches_doAll_cons ((persistNoted_touches x ok).mono (by simp) (fun k ⟨h, h', h''⟩ =>
    .inr ⟨h, h', h''.elim (fun h => .inr (.inr (.inl h))) fun h => .inr (.inr (.inr h))⟩) (by simp)) ?_
  exact touches_doAll_cons ((persistFinished_touches _ _).mono (by simp) (fun _ h => .inl h) (by simp)) touches_doAll_nil

/-- The fault record as the end of a persist leaves it. -/
def FaultSt.ended (f : FaultSt) (x : Nat) (ok : Bool) : FaultSt :=
  if x = 1 then { f with copyA := { f.copyA with valid := ok } } else { f with copyB := { f.copyB with valid := ok } }

theorem newestOf_ne_none {a b : FlashCopy} (h : a.valid = true ∨ b.valid = true) : newestOf a b ≠ none := by
  unfold newestOf
  cases ha : a.valid <;> cases hb : b.valid <;> simp_all

theorem FaultSt.ended_newest (f : FaultSt) (x : Nat) : (f.ended x true).newest ≠ none := by
  unfold FaultSt.newest FaultSt.ended
  split
  · exact newestOf_ne_none (.inl rfl)
  · exact newestOf_ne_none (.inr rfl)

/-- The page as the end of a persist shows it, before its event. -/
def State.persistShown (s : State) (x : Nat) (ok : Bool) : State :=
  (setF fMapState 0 (if (s.ft.ended x ok).newest = none then 3 else 1)).run ((setF fFlashCode 0 (if ok then eOK else eTIMEOUT)).run
    ((setAx ⟨.persist, 0, 0⟩ 0).run ((copySet x ok).run s)))

theorem persistEnded_run (s : State) (x seq : Nat) (ok : Bool) : (persistEnded x seq ok).run s =
    (finishAll .crack 0 0x13 (if ok then eOK else eTIMEOUT) (if ok then BitVec.ofNat 64 seq else 0)).run
      (Eff.run (if ok then setEvt .crack 0 3 else recordErr .crack 0 eTIMEOUT (x - 1)) (s.persistShown x ok)) := by
  rw [persistEnded]
  repeat rw [doAll_cons_run]
  rw [doAll_nil_run, look_run]
  rfl

theorem persistEnded_ft (s : State) (x seq : Nat) (ok : Bool) : ((persistEnded x seq ok).run s).ft = s.ft.ended x ok := by
  rw [persistEnded_run, ((persistFinished_touches _ _).same _ .ft (by simp) (by simp) (by simp) : _ = _),
    ((persistNoted_touches x ok).same _ .ft (by simp) (by simp) (by simp) : _ = _)]
  simp [State.persistShown, copySet, FaultSt.ended]

theorem persistEnded_flash (s : State) (x seq : Nat) (ok : Bool) : ((persistEnded x seq ok).run s).get fFlashCode 0 =
    if ok then eOK else eTIMEOUT := by
  rw [persistEnded_run, (persistFinished_touches _ _).get _ (by simp [fFlashCode]),
    (persistNoted_touches x ok).get _ (by simp [fFlashCode, offErr, offEvtStatus]), State.persistShown,
    get_setF_off_ne (by decide), get_setF_same (by decide)]
  cases ok <;> rfl

theorem persistEnded_ok (s : State) (x seq : Nat) : ((persistEnded x seq true).run s).get fMapState 0 = 1 ∧
    ((persistEnded x seq true).run s).on (fEvt .crack 0) 0 = s.on (fEvt .crack 0) 0 ∧
    ((persistEnded x seq true).run s).on (fEvt .crack 3) 0 = true := by
  have hn := s.ft.ended_newest x
  rw [persistEnded_run, (persistFinished_touches _ _).get _ (by simp [fMapState]),
    (persistFinished_touches _ _).on _ (by simp [fEvt]), (persistFinished_touches _ _).on _ (by simp [fEvt]),
    (persistNoted_touches x true).get _ (by simp [fMapState, offErr, offEvtStatus])]
  refine ⟨?_, ?_, setEvt_on (by omega)⟩
  · rw [State.persistShown, get_setF_same (by decide), if_neg hn]
    rfl
  · rw [if_pos rfl, setEvt, setEvtI_on_ne (by omega) (by omega), State.persistShown]
    refine (on_congr ?_).trans (on_congr (f := fEvt .crack 0) (i := 0) ?_ : ((copySet x true).run s).on (fEvt .crack 0) 0 = _)
    · rw [get_setF_off_ne (by decide), get_setF_off_ne (by decide), setAx_get]
    · rfl

/-- Settles O44. -/
theorem crackMapIsWrittenAndPersisted : Obligations.CrackMapIsWrittenAndPersisted := by
  unfold Obligations.CrackMapIsWrittenAndPersisted
  refine ⟨fun s src v hl he => ?_, fun s hh => ?_, fun s c args h => ?_, fun s src v hl hv hm => ?_,
    fun s hd ha hp hm => ?_, fun s ok hm hx => ?_⟩
  · have hsel : (s.numbered .crack (s.key .crack 0)).get fEntrySel 0 = s.get fEntrySel 0 := numbered_get (by decide)
    have hw : (s.numbered .crack (s.key .crack 0)).wedged = false := by
      rw [State.wedged, numbered_on (by decide)]
      exact hl.2.2.2.1.2.2
    have hv : getBits v 0 8 % 256 = getBits v 0 8 := Nat.mod_eq_of_lt (getBits_lt v 0 8)
    obtain ⟨hcrack, hgeo⟩ := entryWrite_is (p := s.get fEntrySel 0) (v := getBits v 0 8) hw
    refine ⟨_, execEntryDataWrite_run hl he, tookNumber (entryWritten_touches v) (by decide) offSeq_not_entry, ?_, ?_, ?_⟩
    · rw [entryWritten_run, hsel, entryAdvance_touches.crackOf _ _ (by simp), hcrack, hv]
    · rw [entryWritten_run, hsel, entryAdvance_sel, (entryWrite_touches _ _).get _ entryData_not_death,
        (entryWrite_touches _ _).on _ entryData_not_death, hsel, numbered_on (by decide)]
    · rw [entryWritten_run, hsel, entryAdvance_touches.geo _ (by simp), hgeo]
      rfl
  · have hrun : effEntryDataRead.run s = entryAdvance.run (s.apply1 (.out (.readData (s.entryView (s.get fEntrySel 0))))) := by
      refine (run_congr (f := doAll [emit (.readData (s.entryView (s.get fEntrySel 0))), entryAdvance]) ?_).trans ?_
      · unfold effEntryDataRead
        simp [hh]
      · rw [doAll_cons_run, doAll_cons_run, doAll_nil_run, emit_run]
    have hout : (doAll [emit (.readData (s.entryView (s.get fEntrySel 0))), entryAdvance]).Touches [.out]
        (fun k => k = ⟨.crack, 0, 0x100⟩) (fun _ => False) :=
      touches_doAll_cons (touches_emit (by simp)) (touches_doAll_cons (entryAdvance_touches.mono (by simp) (fun _ h => h)
        fun _ h => h) touches_doAll_nil)
    have hrun' : (doAll [emit (.readData (s.entryView (s.get fEntrySel 0))), entryAdvance]).run s = effEntryDataRead.run s := by
      rw [hrun, doAll_cons_run, doAll_cons_run, doAll_nil_run, emit_run]
    refine ⟨_, rfl, ?_, ?_, ?_, ?_⟩
    · rw [hrun, (entryAdvance_touches.same _ .out (by simp) (by simp) (by simp) : _ = _)]
      simp
    · rw [← hrun', doAll_cons_run, doAll_cons_run, doAll_nil_run, entryAdvance_sel]
      rfl
    · rw [← hrun']
      exact hout.only s (by simp) (by simp) (by simp)
    · rw [← hrun']
      exact hout.regsKept s _ fun b i o h => by simpa using h
  · refine ⟨_, execPersist_run h, ?_, ?_, ?_, ?_⟩
    · rw [(persistStart_touches.same _ .seq (by simp) (by simp) (by simp) : _ = _), taken_seq]
    · exact (persistStart_persisting _).of_ft (taken_same (p := .ft) (by simp))
    · rw [(persistStart_touches.same _ .hi (by simp) (by simp) (by simp) : _ = _), taken_running]
    · exact (taken_only (by simp) (by simp) (by simp) (by simp) (by simp)).trans
        (persistStart_touches.only _ (by simp) (by simp) (by simp))
  · refine ⟨_, execPersistGo_run hl hv hm, tookNumber persistStart_touches (by simp) (by simp [mapStateRegs, offSeq]),
      (persistStart_persisting _).of_ft rfl, ?_⟩
    exact (numbered_only (by simp) (by simp)).trans (persistStart_touches.only _ (by simp) (by simp) (by simp))
  · have hrun : effAutoPersist.run s = persistStart.run ((setAx ⟨.persistDue, 2, 0⟩ 0).run s) := by
      rw [effAutoPersist, whenE_run, if_pos (by simp [hd, ha, hp, hm]), doAll_cons_run, doAll_cons_run, doAll_nil_run]
    refine ⟨_, congrArg Host.Outcome.next hrun, ?_, (persistStart_persisting _).of_ft (by simp), ?_⟩
    · rw [persistStart_touches.ax _ (by simp [persistAux])]
      simp
    · exact ((touches_setAx (ps := []) (R := fun _ => False) (A := fun _ => True) trivial).only s (by simp) (by simp) (by simp)).trans
        (persistStart_touches.only _ (by simp) (by simp) (by simp))
  · obtain ⟨seq, hrun⟩ := effPersistDone_run (s := s) ok hm hx
    refine ⟨_, congrArg Host.Outcome.next hrun, fun h1 => ?_, fun h1 => ?_, ?_, persistEnded_flash _ _ _ _, ?_,
      (persistEnded_touches _ _ _).only s (by simp) (by simp) (by simp)⟩
    · rw [persistEnded_ft, FaultSt.ended, if_pos h1]
      exact ⟨rfl, rfl⟩
    · rw [persistEnded_ft, FaultSt.ended, if_neg h1]
      exact ⟨rfl, rfl⟩
    · rw [persistEnded_run, finishAll_runningOf]
    · rintro rfl
      exact persistEnded_ok s _ seq

end Sys2Proof.Machine
end

section
/-! PROOFS. The phases of the power-on sequence (chapter 19, R478–R480, R440). -/

namespace Sys2Proof.Machine

variable {s : State}

/-! ## Phases -/

/-- The registers that show a phase. -/
def phaseRegs (k : RK) : Prop := k.blk = .mgmt ∧ k.inst = 0 ∧ (k.off = 0x018 ∨ k.off = 0x110)

theorem setPhase_touches (n : Nat) : (setPhase n).Touches [] phaseRegs (fun _ => False) :=
  touches_doAll_cons (touches_setF ⟨rfl, rfl, .inl rfl⟩) (touches_doAll_cons (touches_setF ⟨rfl, rfl, .inr rfl⟩)
    touches_doAll_nil)

theorem setPhase_run (s : State) (n : Nat) : (setPhase n).run s = (setF fBootPhase 0 n).run ((setF fMgmtState 0 n).run s) := by
  rw [setPhase, doAll_cons_run, doAll_cons_run, doAll_nil_run]

theorem setPhase_state {n : Nat} (hn : n < 256) (s : State) :
    ((setPhase n).run s).get fMgmtState 0 = n ∧ ((setPhase n).run s).get fBootPhase 0 = n := by
  rw [setPhase_run]
  refine ⟨?_, ?_⟩
  · rw [get_setF_off_ne (by decide), get_setF_same (by decide)]
    exact Nat.mod_eq_of_lt (hn.trans (by decide))
  · rw [get_setF_same (by decide)]
    exact Nat.mod_eq_of_lt hn

/-! ## PLL and AON -/

/-- The end of phase PLL: the root PLL locked, the reference's offset shown. -/
def pllLocked (w : W64) : Eff := doAll [setF fClkState 0 1,
  setReg .clk 0 0x100 (BitVec.ofNat 64 (3 + getBits w 0 16 * 2 ^ 16)), setPhase 2]

theorem pllLocked_touches (w : W64) : (pllLocked w).Touches []
    (fun k => (k.blk = .clk ∧ k.inst = 0 ∧ (k.off = 0x018 ∨ k.off = 0x100)) ∨ phaseRegs k) (fun _ => False) :=
  touches_doAll_cons (touches_setF (.inl ⟨rfl, rfl, .inl rfl⟩)) (touches_doAll_cons (touches_setReg (.inl ⟨rfl, rfl, .inr rfl⟩))
    (touches_doAll_cons ((setPhase_touches 2).mono (by simp) (fun _ h => .inr h) (by simp)) touches_doAll_nil))

theorem pllLocked_shows (s : State) (w : W64) : ((pllLocked w).run s).get fMgmtState 0 = 2 ∧
    ((pllLocked w).run s).get fClkState 0 = 1 ∧ ((pllLocked w).run s).get fPllLock 0 = 1 := by
  rw [pllLocked, doAll_cons_run, doAll_cons_run, doAll_cons_run, doAll_nil_run]
  refine ⟨(setPhase_state (by omega) _).1, ?_, ?_⟩
  · rw [(setPhase_touches 2).get _ (by simp [phaseRegs, fClkState]), get_setReg_ne (by simp [fClkState]),
      get_setF_same (by decide)]
    rfl
  · rw [(setPhase_touches 2).get _ (by simp [phaseRegs, fPllLock])]
    have hlt : 3 + getBits w 0 16 * 2 ^ 16 < 2 ^ 64 := by
      have := getBits_lt w 0 16
      omega
    rw [get_of_rd (v := BitVec.ofNat 64 (3 + getBits w 0 16 * 2 ^ 16)) (by simp [fPllLock]), getBits_ofNat_of_lt hlt]
    simp only [fPllLock]
    omega

/-! ## The crack map -/

theorem wedgeNow_run (hw : s.wedged = false) (cause : Nat) : (wedgeNow cause).run s =
    (doAll [setReg .crack 0 0x130 (BitVec.ofNat 64 (1 + cause % 16 * 16 + getBits (Config.freeWord s.free) 0 32 * 2 ^ 32)),
      recordErr .crack 0 eWEDGED cause, setReg .tele 0 0x018 1,
      whenE (fun s => !s.ready) (setF fBootCode 0 eWEDGED), setF fMgmtState 0 8]).run (s.apply1 .free) := by
  have hw' : (s.apply1 .free).wedged = false := hw
  rw [wedgeNow, drawFree_run]
  refine run_congr ?_
  exact if_neg (by simp [hw'])

/-- The registers a wedge writes. -/
def wedgeRegs (k : RK) : Prop := (k.blk = .crack ∧ k.inst = 0 ∧ (k.off = 0x130 ∨ k.off = offErr ∨ k.off = offEvtStatus)) ∨
  k = ⟨.tele, 0, 0x018⟩ ∨ phaseRegs k

/-- What a wedge does after its cause is shown. -/
def wedgeRest (cause : Nat) : Eff := doAll [recordErr .crack 0 eWEDGED cause, setReg .tele 0 0x018 1,
  whenE (fun s => !s.ready) (setF fBootCode 0 eWEDGED), setF fMgmtState 0 8]

theorem wedgeRest_touches (cause : Nat) : (wedgeRest cause).Touches [.hi] (fun k => wedgeRegs k ∧ k ≠ ⟨.crack, 0, 0x130⟩)
    (fun _ => False) :=
  touches_doAll_cons (touches_recordErr ⟨.inl ⟨rfl, rfl, .inr (.inl rfl)⟩, by decide⟩
    ⟨.inl ⟨rfl, rfl, .inr (.inr rfl)⟩, by decide⟩ (by simp)) (touches_doAll_cons (touches_setReg ⟨.inr (.inl rfl), by decide⟩)
    (touches_doAll_cons (touches_whenE (touches_setF ⟨.inr (.inr ⟨rfl, rfl, .inr rfl⟩), by decide⟩)) (touches_doAll_cons
      (touches_setF ⟨.inr (.inr ⟨rfl, rfl, .inl rfl⟩), by decide⟩) touches_doAll_nil)))

theorem wedgeRest_err (cause : Nat) (hc : cause < 2 ^ 32) (h : s.get (fErrCode .crack) 0 = 0) :
    ((wedgeRest cause).run s).get (fErrCode .crack) 0 = eWEDGED ∧ ((wedgeRest cause).run s).get (fErrInfo .crack) 0 = cause := by
  have hrest : (doAll [setReg .tele 0 0x018 1, whenE (fun s => !s.ready) (setF fBootCode 0 eWEDGED), setF fMgmtState 0 8]).Touches
      [] (fun k => k.blk ≠ .crack) (fun _ => False) :=
    touches_doAll_cons (touches_setReg (by simp)) (touches_doAll_cons (touches_whenE (touches_setF (by simp [fBootCode])))
      (touches_doAll_cons (touches_setF (by simp [fMgmtState])) touches_doAll_nil))
  obtain ⟨hcode, hinfo⟩ := recordErr_get_of_clear (code := eWEDGED) (info := cause) h
  rw [wedgeRest, doAll_cons_run, hrest.get _ (by simp [fErrCode]), hrest.get _ (by simp [fErrInfo]), hcode, hinfo]
  exact ⟨by decide, Nat.mod_eq_of_lt hc⟩

/-- A cause wedges a module that is not wedged (R418). -/
theorem wedgeNow_wedges {cause : Nat} (hw : s.wedged = false) (hc : cause < 16) : Wedges s ((wedgeNow cause).run s) cause := by
  have hlt : 1 + cause % 16 * 16 + getBits (Config.freeWord s.free) 0 32 * 2 ^ 32 < 2 ^ 64 := by
    have := getBits_lt (Config.freeWord s.free) 0 32
    omega
  have hrd (t : State) (v : W64) : ((wedgeRest cause).run ((setReg .crack 0 0x130 v).run t)).rd .crack 0 0x130 = v := by
    rw [(wedgeRest_touches cause).rd _ (by simp)]
    simp
  rw [wedgeNow_run hw, doAll_cons_run, ← wedgeRest]
  refine ⟨?_, ?_, ?_, fun herr => ?_, ?_⟩
  · rw [State.wedged, on_eq_true_iff, get_of_rd (hrd _ _), getBits_ofNat_of_lt hlt]
    simp only [fWedged]
    omega
  · rw [hrd, getBits_ofNat_of_lt hlt]
    omega
  · rw [wedgeRest, doAll_cons_run, doAll_cons_run, doAll_cons_run, doAll_cons_run, doAll_nil_run, get_setF_same (by decide)]
    rfl
  · refine wedgeRest_err cause (by omega) ?_
    rw [get_setReg_ne (by simp [fErrCode, offErr])]
    exact herr
  · have hall : (setReg .crack 0 0x130 (BitVec.ofNat 64 (1 + cause % 16 * 16 + getBits (Config.freeWord s.free) 0 32 * 2 ^ 32))).Touches
        [.hi, .free] (fun _ => True) (fun _ => False) := touches_setReg trivial
    have hfree : Eff.Touches [.free] (fun _ => False) (fun _ => False) (fun _ => [.free]) :=
      touches_upd (by simp [Upd.Within, Upd.parts])
    exact ((hfree.only s (by simp) (by simp) (by simp)).trans (hall.only _ (by simp) (by simp) (by simp))).trans
      ((wedgeRest_touches cause).only _ (by simp) (by simp) (by simp))

/-- What the load of a crack map with a copy does. -/
def crackLoaded (s : State) : Eff :=
  doAll [whenE (fun _ => !decide (s.ax ⟨.resetting, 0, 0⟩ = 2)) (modFt fun f => { f with crack := (f.newCopy.elim [] fun c => c.entries) }),
    whenE (fun _ => !decide (s.ax ⟨.resetting, 0, 0⟩ = 2)) (modFt fun f => { f with hours := f.newHours }),
    setF fMapState 0 (if s.ax ⟨.persist, 0, 0⟩ ≠ 0 then 2 else 1),
    look (fun s => s.ft.crack) (fun l => forEach l fun e => whenE (fun _ => e.2 % 256 ≠ 0) (setAx ⟨.tilePwr, e.1, 0⟩ 3)),
    setPhase 4]

theorem newest_of_newCopy {f : FaultSt} {c : FlashCopy} (h : f.newCopy = some c) : f.newest ≠ none := fun hn => by
  simp [FaultSt.newCopy, hn] at h

theorem effCrackLoad_loaded {c : FlashCopy} (hp : s.inPhase 3 = true) (hc : s.ft.newCopy = some c) :
    effCrackLoad.run s = (crackLoaded s).run s := by
  rw [effCrackLoad, whenE_run, if_pos hp]
  refine run_congr ?_
  dsimp only
  exact if_neg (by simp [newest_of_newCopy hc])

theorem effCrackLoad_lost (hp : s.inPhase 3 = true) (hn : s.ft.newCopy = none) (hr : s.ax ⟨.resetting, 0, 0⟩ ≠ 2) :
    effCrackLoad.run s = (wedgeNow 3).run ((setF fMapState 0 3).run s) := by
  have hnew : s.ft.newest = none := by simpa [FaultSt.newCopy] using hn
  rw [effCrackLoad, whenE_run, if_pos hp]
  refine (run_congr (f := doAll [setF fMapState 0 3, wedgeNow 3]) ?_).trans ?_
  · dsimp only
    exact if_pos (by simp [hr, hnew])
  · rw [doAll_cons_run, doAll_cons_run, doAll_nil_run]

theorem crackLoaded_touches (s : State) : (crackLoaded s).Touches [.ft] (fun _ => True) (fun _ => True) :=
  touches_doAll_cons (touches_whenE (touches_modFt (by simp))) (touches_doAll_cons (touches_whenE (touches_modFt (by simp)))
    (touches_doAll_cons (touches_setF trivial) (touches_doAll_cons (touches_look fun _ => touches_forEach fun _ _ =>
      touches_whenE (touches_setAx trivial)) (touches_doAll_cons ((setPhase_touches 4).mono (by simp) (by simp) (by simp))
        touches_doAll_nil))))

/-- The page and the tiles as the loaded map shows them. -/
def crackShown (n : Nat) : Eff := doAll [setF fMapState 0 n,
  look (fun s => s.ft.crack) (fun l => forEach l fun e => whenE (fun _ => e.2 % 256 ≠ 0) (setAx ⟨.tilePwr, e.1, 0⟩ 3)), setPhase 4]

theorem crackShown_touches (n : Nat) : (crackShown n).Touches [] (fun _ => True) (fun _ => True) :=
  touches_doAll_cons (touches_setF trivial) (touches_doAll_cons (touches_look fun _ => touches_forEach fun _ _ =>
      touches_whenE (touches_setAx trivial)) (touches_doAll_cons ((setPhase_touches 4).mono (by simp) (by simp) (by simp))
        touches_doAll_nil))

theorem crackLoaded_run (s t : State) : (crackLoaded s).run t = (crackShown (if s.ax ⟨.persist, 0, 0⟩ ≠ 0 then 2 else 1)).run
    ((whenE (fun _ => !decide (s.ax ⟨.resetting, 0, 0⟩ = 2)) (modFt fun f => { f with hours := f.newHours })).run
      ((whenE (fun _ => !decide (s.ax ⟨.resetting, 0, 0⟩ = 2)) (modFt fun f => { f with crack := (f.newCopy.elim [] fun c => c.entries) })).run t)) := by
  rw [crackLoaded, crackShown, doAll_cons_run, doAll_cons_run]

theorem crackLoaded_ft (s t : State) : ((crackLoaded s).run t).ft = if s.ax ⟨.resetting, 0, 0⟩ = 2 then t.ft else
    { t.ft with crack := (t.ft.newCopy.elim [] fun c => c.entries), hours := t.ft.newHours } := by
  rw [crackLoaded_run, ((crackShown_touches _).same _ .ft (by simp) (by simp) (by simp) : _ = _), whenE_run, whenE_run]
  by_cases h : s.ax ⟨.resetting, 0, 0⟩ = 2
  · simp [h]
  · simp [h, FaultSt.newHours]

theorem crackLoaded_phase (s t : State) : ((crackLoaded s).run t).get fMgmtState 0 = 4 := by
  rw [crackLoaded_run, crackShown, doAll_cons_run, doAll_cons_run, doAll_cons_run, doAll_nil_run]
  exact (setPhase_state (by omega) _).1

/-! ## The clock tree (R440) -/

theorem Eff.Touches.tree {e : Eff} {ps : List Component} {R : RK → Prop} {A : Aux → Prop} (h : e.Touches ps R A)
    (s : State) (hp : Component.ft ∉ ps) : (e.run s).ft.tree = s.ft.tree := by
  rw [(h.same s .ft hp (by simp) (by simp) : _ = _)]

theorem death1_tree (s : State) (p bits cause origin : Nat) : ((death1 p bits cause origin).run s).ft.tree = s.ft.tree := by
  by_cases h : s.deathBits p bits = 0
  · rw [death1_none h]
  have hrest (new : Nat) : (doAll [addSat fDeathCount 0 1, deathLast p cause new, setEvt .crack 0 0]).Touches [.hi]
      (fun _ => True) (fun _ => False) := touches_doAll_cons (touches_addSat trivial) (touches_doAll_cons
        ((deathLast_touches p cause new).mono (by simp) (by simp) (by simp)) (touches_doAll_cons
          (touches_setEvt trivial (by simp)) touches_doAll_nil))
  rw [death1_run h, (deathDue_touches _).tree _ (by decide), (deathMap_touches s p _).tree _ (by decide),
    (deathTile_touches s p).tree _ (by decide), (deathTold_touches s p).tree _ (by decide), deathNoted, doAll_cons_run,
    (hrest _).tree _ (by simp)]
  simp [putEntry]

/-- The tree and the deaths of the repeaters it does not reach. -/
def treeBuilt (tree : FMap Nat Nat) (lost : List Nat) : Eff :=
  doAll [modFt (fun f => { f with tree := tree }), forEach lost (fun p => death1 p 0x80 8 2)]

/-- What phase TREE shows at its end. -/
def treeShown (w : W64) : Eff := doAll [setReg .clk 0 0x110 w, fun s => [.geoLive s.builtMap], setPhase 5]

theorem treeBuilt_keeps (s : State) (tree : FMap Nat Nat) (lost : List Nat) :
    ((treeBuilt tree lost).run s).geo = s.geo ∧ ((treeBuilt tree lost).run s).ft.tree = tree := by
  rw [treeBuilt, doAll_cons_run, doAll_cons_run, doAll_nil_run]
  refine forEach_keep (P := fun t => t.geo = s.geo ∧ t.ft.tree = tree) (fun p _ t ht => ?_) _ ⟨rfl, by simp⟩
  rw [death1_geo, death1_tree]
  exact ht

theorem treeShown_keeps (s : State) (w : W64) : ((treeShown w).run s).get fMgmtState 0 = 5 ∧
    ((treeShown w).run s).geo = s.geo ∧ ((treeShown w).run s).ft = s.ft := by
  have hreg : (setReg .clk 0 0x110 w).Touches [] (fun _ => True) (fun _ => False) := touches_setReg trivial
  have hlive (t : State) : (Eff.run (fun s => [.geoLive s.builtMap]) t).geo = t.geo ∧
      (Eff.run (fun s => [.geoLive s.builtMap]) t).ft = t.ft := by simp [Eff.run]
  rw [treeShown, doAll_cons_run, doAll_cons_run, doAll_cons_run, doAll_nil_run]
  refine ⟨(setPhase_state (by omega) _).1, ?_, ?_⟩
  · rw [(setPhase_touches 5).geo _ (by simp), (hlive _).1, hreg.geo _ (by simp)]
  · rw [((setPhase_touches 5).same _ .ft (by simp) (by simp) (by simp) : _ = _), (hlive _).2,
      (hreg.same _ .ft (by simp) (by simp) (by simp) : _ = _)]

/-- The nodes of the tree of the live repeaters, and the tree. -/
def State.treeNodes (s : State) : List TNode := buildTree fun p => s.crackOf p % 256 / 128 = 0
def State.treeMap (s : State) : FMap Nat Nat :=
  s.treeNodes.foldl (fun m n => fset id (fun _ => 0) m n.p (n.dir + 8 * treeStandby s.treeNodes n)) []

/-- The live repeaters the tree does not reach. -/
def State.treeLost (s : State) : List Nat := (List.range 36000).filter fun p =>
  (decide (s.crackOf p % 256 / 128 = 0)) && (treeNode s.treeNodes p).isNone

theorem effTreeBuild_run (h : s.inPhase 4 = true) : effTreeBuild.run s =
    (treeShown (treeWord s.treeNodes s.treeLost.length)).run ((treeBuilt s.treeMap s.treeLost).run s) := by
  have hlist : effTreeBuild.run s = (doAll [modFt (fun f => { f with tree := s.treeMap }),
      forEach s.treeLost (fun p => death1 p 0x80 8 2), setReg .clk 0 0x110 (treeWord s.treeNodes s.treeLost.length),
      fun s => [.geoLive s.builtMap], setPhase 5]).run s := by
    rw [effTreeBuild, whenE_run, if_pos h]
    exact run_congr rfl
  rw [hlist, treeShown, treeBuilt]
  repeat rw [doAll_cons_run]
  repeat rw [doAll_nil_run]

theorem effTreeBuild_shows (h : s.inPhase 4 = true) : (effTreeBuild.run s).get fMgmtState 0 = 5 ∧
    (effTreeBuild.run s).geo = s.geo ∧ (effTreeBuild.run s).ft.tree = s.treeMap := by
  rw [effTreeBuild_run h]
  obtain ⟨hstate, hgeo', hft⟩ := treeShown_keeps ((treeBuilt s.treeMap s.treeLost).run s)
    (treeWord s.treeNodes s.treeLost.length)
  obtain ⟨hgeo, htree⟩ := treeBuilt_keeps s s.treeMap s.treeLost
  exact ⟨hstate, by rw [hgeo', hgeo], by rw [hft, htree]⟩

/-! ## The store (R479) -/

theorem linkResetEffect_touches (h : Nat) : (linkResetEffect h).Touches [.hi] (fun k => k.blk = .host ∨ k.blk = .sem)
    (fun a => a.kind ≠ .resetting ∨ a.a ≠ 0) := by
  have hmsix : Eff.Touches [.hi] (fun k => k.blk = .host ∨ k.blk = .sem) (fun a => a.kind ≠ .resetting ∨ a.a ≠ 0)
      (fun _ => [.auxClear fun a => (a.kind = .msixEn || a.kind = .msixMask) && a.a = 0 && a.b = h]) :=
    touches_upd ⟨by simp [Upd.parts], fun a ha => by
      simp only [Bool.and_eq_true, Bool.or_eq_true, decide_eq_true_eq] at ha
      rcases ha.1.1 with h | h <;> exact .inl (by simp [h])⟩
  exact touches_doAll_cons hmsix (touches_doAll_cons ((setVfs_touches h 0 false).mono (fun _ h => h) (fun _ h => h)
    fun _ h => .inr h) (touches_doAll_cons (touches_setReg (.inl rfl)) (touches_doAll_cons (touches_whenE
      (touches_setReg (.inl rfl))) touches_doAll_nil)))

/-- The registers and scalars the resets that waited may change. -/
def waitingRegs (k : RK) : Prop := k.blk = .host ∨ k.blk = .sem ∨ k.blk = .tdma

theorem waitingResets_touches : waitingResets.Touches [.hi] waitingRegs (fun a => a ≠ ⟨.resetting, 0, 0⟩) := by
  refine touches_doAll_cons (touches_forEach fun h _ => touches_whenE (touches_doAll_cons (touches_setAx (by simp))
    (touches_doAll_cons ?_ touches_doAll_nil))) (touches_doAll_cons (touches_forEach fun f _ => touches_whenE
      (touches_doAll_cons (touches_setAx (by simp)) (touches_doAll_cons ?_ touches_doAll_nil))) touches_doAll_nil)
  · exact (linkResetEffect_touches h).mono (fun _ h => h) (fun _ h => h.imp id .inl) fun a h => by
      rintro rfl
      simp at h
  · refine (flrEffect_touches f).mono (fun _ h => h) (fun k h => ?_) fun a h => ?_
    · rcases h with ⟨h, -⟩ | ⟨h, -⟩ | ⟨-, h⟩
      · exact .inl h
      · exact .inr (.inl h)
      · exact .inr (.inr h)
    · rintro rfl
      simp [flrAux] at h

/-- The end of the sequence: READY. -/
def readyShown (us : Nat) : Eff := doAll [setPhase 7, setF fReadyUs 0 (min us (2 ^ 32 - 1)), setEvt .mgmt 0 0,
  setAx ⟨.resetting, 0, 0⟩ 0]

theorem readyShown_touches (us : Nat) : (readyShown us).Touches [.hi]
    (fun k => k.blk = .mgmt ∧ k.inst = 0 ∧ (k.off = 0x018 ∨ k.off = 0x110 ∨ k.off = offEvtStatus))
    (fun a => a = ⟨.resetting, 0, 0⟩) :=
  touches_doAll_cons ((setPhase_touches 7).mono (by simp) (fun _ ⟨h, h', h''⟩ => ⟨h, h', h''.imp id .inl⟩) (by simp))
    (touches_doAll_cons (touches_setF ⟨rfl, rfl, .inr (.inl rfl)⟩) (touches_doAll_cons
      (touches_setEvt ⟨rfl, rfl, .inr (.inr rfl)⟩ (by simp)) (touches_doAll_cons (touches_setAx rfl) touches_doAll_nil)))

theorem readyShown_shows (s : State) (us : Nat) : ((readyShown us).run s).get fMgmtState 0 = 7 ∧
    ((readyShown us).run s).on (fEvt .mgmt 0) 0 = true ∧ ((readyShown us).run s).get fReadyUs 0 = min us (2 ^ 32 - 1) ∧
    ((readyShown us).run s).ax ⟨.resetting, 0, 0⟩ = 0 := by
  have hevt : (setEvt .mgmt 0 0).Touches [.hi] (fun k => k = ⟨.mgmt, 0, offEvtStatus⟩) (fun _ => False) :=
    touches_setEvt rfl (by simp)
  rw [readyShown, doAll_cons_run, doAll_cons_run, doAll_cons_run, doAll_cons_run, doAll_nil_run]
  refine ⟨?_, ?_, ?_, by simp⟩
  · rw [setAx_get, hevt.get _ (by simp [fMgmtState, offEvtStatus]), get_setF_off_ne (by decide)]
    exact (setPhase_state (by omega) _).1
  · exact (on_congr (setAx_get ..)).trans (setEvt_on (by omega))
  · rw [setAx_get, hevt.get _ (by simp [fReadyUs, offEvtStatus]), get_setF_same (by decide)]
    exact Nat.mod_eq_of_lt (by simp only [fReadyUs]; omega)

/-- The end of a port's training, trained or failed. -/
def trainFailed (p : Nat) : Eff := doAll [setF fSlipState p 3, setF (fOffline p) 0 1, setEvt .mgmt 0 1]
def trainGood (s : State) (p : Nat) : Eff := doAll [setF fUnits p (gradeUnits s.grade), setF fTrained p 1,
  setF fSlipState p (if s.geo.linksOn p = [] then 2 else 0), headerReread p]

/-- The registers of a port's training. -/
def trainRegs (p : Nat) (k : RK) : Prop := (k.blk = .slip ∧ k.inst = p) ∨ k = ⟨.mgmt, 0, 0x118⟩ ∨ k = ⟨.mgmt, 0, offEvtStatus⟩

theorem trainFailed_touches (p : Nat) : (trainFailed p).Touches [.hi] (trainRegs p) (fun _ => False) :=
  touches_doAll_cons (touches_setF (.inl ⟨rfl, rfl⟩)) (touches_doAll_cons (touches_setF (.inr (.inl rfl)))
    (touches_doAll_cons (touches_setEvt (.inr (.inr rfl)) (by simp)) touches_doAll_nil))

theorem trainGood_touches (s : State) (p : Nat) : (trainGood s p).Touches [.hi] (fun k => k.blk = .slip ∧ k.inst = p)
    (fun _ => False) :=
  touches_doAll_cons (touches_setF ⟨rfl, rfl⟩) (touches_doAll_cons (touches_setF ⟨rfl, rfl⟩) (touches_doAll_cons
    (touches_setF ⟨rfl, rfl⟩) (touches_doAll_cons ((headerReread_touches p).mono (by simp) (fun _ h => ⟨h.1, h.2.1⟩)
      (by simp)) touches_doAll_nil)))

theorem portTrained_run (s : State) (p : Nat) (failed : Bool) : (portTrained p failed).run s =
    if failed then (trainFailed p).run s else (trainGood s p).run s := by
  rw [Eff.run_eq, portTrained]
  cases failed <;> rfl

theorem portTrained_touches (p : Nat) (failed : Bool) : (portTrained p failed).Touches [.hi] (trainRegs p) (fun _ => False) :=
  fun s => by
    unfold portTrained
    split
    · exact trainFailed_touches p s
    · exact (trainGood_touches s p).mono (fun _ h => h) (fun _ h => .inl h) (fun _ h => h) s

theorem trainFailed_shows (s : State) (p : Nat) (hp : p < 48) : ((trainFailed p).run s).get fSlipState p = 3 ∧
    ((trainFailed p).run s).on (fOffline p) 0 = true := by
  have hevt : (setEvt .mgmt 0 1).Touches [.hi] (fun k => k = ⟨.mgmt, 0, offEvtStatus⟩) (fun _ => False) :=
    touches_setEvt rfl (by simp)
  rw [trainFailed, doAll_cons_run, doAll_cons_run, doAll_cons_run, doAll_nil_run]
  refine ⟨?_, ?_⟩
  · rw [hevt.get _ (by simp [fSlipState]), get_setF_ne (by simp [fSlipState, fOffline]) (by decide), get_setF_same (by decide)]
    rfl
  · rw [hevt.on _ (by simp [fOffline, offEvtStatus]), on_setF_same (by simp [fOffline]; omega)]
    rfl

theorem trainGood_shows (s t : State) (p : Nat) (hg : gradeUnits s.grade < 2 ^ 12) : ((trainGood s p).run t).on fTrained p = true ∧
    ((trainGood s p).run t).get fUnits p = gradeUnits s.grade := by
  have hhdr := headerReread_touches p
  rw [trainGood, doAll_cons_run, doAll_cons_run, doAll_cons_run, doAll_cons_run, doAll_nil_run,
    hhdr.on _ (by simp [fTrained]), hhdr.get _ (by simp [fUnits])]
  refine ⟨?_, ?_⟩
  · rw [on_eq_true_iff, get_setF_off_ne (by decide), get_setF_same (by decide)]
    decide
  · rw [get_setF_off_ne (by decide), get_setF_ne (by simp [fUnits, fTrained]) (by decide), get_setF_same (by decide)]
    exact Nat.mod_eq_of_lt hg

/-- Each port's training, in order. -/
def portsTrained (failed : List Nat) : Eff := forEach ports48 fun p => portTrained p (failed.contains p)

theorem portTrained_slip {p q : Nat} (hq : q ≠ p) (s : State) (failed : Bool) {g : Fld} (hg : g.blk = .slip) :
    ((portTrained q failed).run s).get g p = s.get g p :=
  (portTrained_touches q failed).get s (by simp [trainRegs, hg, hq.symm])

theorem portTrained_offline {p q : Nat} (hp : p < 48) (hq : q ≠ p) (s : State) (failed : Bool) :
    ((portTrained q failed).run s).on (fOffline p) 0 = s.on (fOffline p) 0 := by
  have hevt : (setEvt .mgmt 0 1).Touches [.hi] (fun k => k = ⟨.mgmt, 0, offEvtStatus⟩) (fun _ => False) :=
    touches_setEvt rfl (by simp)
  rw [portTrained_run]
  split
  · rw [trainFailed, doAll_cons_run, doAll_cons_run, doAll_cons_run, doAll_nil_run, hevt.on _ (by simp [fOffline, offEvtStatus])]
    refine on_congr ?_
    rw [get_setF_ne (fun _ _ _ => by simp only [fOffline]; omega) (by simp [fOffline]; omega),
      get_setF_ne (by simp [fOffline, fSlipState]) (by simp [fOffline]; omega)]
  · exact (trainGood_touches s q).on _ (by simp [fOffline])

theorem portsTrained_failed {failed : List Nat} {p : Nat} (hp : p < 48) (hf : p ∈ failed) (s : State) :
    ((portsTrained failed).run s).get fSlipState p = 3 ∧ ((portsTrained failed).run s).on (fOffline p) 0 = true := by
  have hself (t : State) : ((portTrained p (failed.contains p)).run t).get fSlipState p = 3 ∧
      ((portTrained p (failed.contains p)).run t).on (fOffline p) 0 = true := by
    rw [portTrained_run, if_pos (by simpa using hf)]
    exact trainFailed_shows t p hp
  refine forEach_reach (P := fun t => t.get fSlipState p = 3 ∧ t.on (fOffline p) 0 = true) (Q := fun _ => True) (b := p)
    (by simpa [ports48] using hp) (fun _ _ _ _ => trivial) (fun t _ => hself t) (fun q _ t _ ht => ?_) s trivial
  by_cases hqp : q = p
  · rw [hqp]
    exact hself t
  · rw [portTrained_slip hqp _ _ rfl, portTrained_offline hp hqp]
    exact ht

theorem portTrained_grade (s : State) (q : Nat) (failed : Bool) : ((portTrained q failed).run s).grade = s.grade := by
  have h : ((portTrained q failed).run s).grade = s.grade ∧ ((portTrained q failed).run s).serial = s.serial :=
    (portTrained_touches q failed).same s .fuses (by simp) (by simp) (by simp)
  exact h.1

theorem portsTrained_good {failed : List Nat} {p : Nat} (hp : p < 48) (hf : p ∉ failed) (s : State) :
    ((portsTrained failed).run s).on fTrained p = true ∧ ((portsTrained failed).run s).get fUnits p = gradeUnits s.grade := by
  have hunits : gradeUnits s.grade < 2 ^ 12 := by unfold gradeUnits; split <;> decide
  have hself (t : State) (ht : t.grade = s.grade) : ((portTrained p (failed.contains p)).run t).on fTrained p = true ∧
      ((portTrained p (failed.contains p)).run t).get fUnits p = gradeUnits s.grade := by
    rw [portTrained_run, if_neg (by simpa using hf), ← ht]
    exact trainGood_shows t t p (by rwa [ht])
  refine forEach_reach (P := fun t => t.on fTrained p = true ∧ t.get fUnits p = gradeUnits s.grade)
    (Q := fun t => t.grade = s.grade) (b := p) (by simpa [ports48] using hp) (fun q _ t ht => (portTrained_grade t q _).trans ht)
    (fun t ht => hself t ht) (fun q _ t hgr ht => ?_) s rfl
  by_cases hqp : q = p
  · rw [hqp]
    exact hself t hgr
  · rw [on_congr (portTrained_slip hqp _ _ (g := fTrained) rfl), portTrained_slip hqp _ _ rfl]
    exact ht

theorem effStoreTrain_run (failed : List Nat) (us : Nat) (h : s.inPhase 6 = true) : (effStoreTrain failed us).run s =
    waitingResets.run ((readyShown us).run ((portsTrained failed).run s)) := by
  rw [effStoreTrain, whenE_run, if_pos h, portsTrained, readyShown]
  repeat rw [doAll_cons_run]
  repeat rw [doAll_nil_run]

/-- Settles O58. -/
theorem powerOnPhasesFollow : Obligations.PowerOnPhasesFollow := by
  unfold Obligations.PowerOnPhasesFollow
  refine ⟨fun s h => ?_, fun s h => ?_, fun s c h hc => ?_, fun s h hn hr => ?_, fun s h => ?_, fun s failed us h => ?_⟩
  · have hrun : effPllLock.run s = (pllLocked (Config.freeWord s.free)).run (s.apply1 .free) := by
      rw [effPllLock, whenE_run, if_pos h, drawFree_run]
      rfl
    have hfree : Eff.Touches [.free] (fun _ => False) (fun _ => False) (fun _ => [.free]) :=
      touches_upd (by simp [Upd.Within, Upd.parts])
    have hlock := pllLocked_touches (Config.freeWord s.free)
    obtain ⟨hstate, hclk, hpll⟩ := pllLocked_shows (s.apply1 .free) (Config.freeWord s.free)
    refine ⟨_, congrArg Host.Outcome.next hrun, hstate, hclk, hpll,
      (hfree.only s (by simp) (by simp) (by simp)).trans (hlock.only _ (by simp) (by simp) (by simp)),
      hlock.regsKept _ _ fun b i o h => ?_⟩
    rcases h with h | ⟨h, h', -⟩
    · exact .inl h
    · exact .inr ⟨h, .inl h'⟩
  · have hrun : effAonDone.run s = (setPhase 3).run ((setReg .mgmt 0 0x108 (BitVec.ofNat 64 (s.serial / 2 ^ 64 % 2 ^ 64))).run
        ((setReg .mgmt 0 0x100 (BitVec.ofNat 64 (s.serial % 2 ^ 64))).run s)) := by
      rw [effAonDone, whenE_run, if_pos h]
      refine (run_congr (f := doAll [setReg .mgmt 0 0x100 (BitVec.ofNat 64 (s.serial % 2 ^ 64)),
        setReg .mgmt 0 0x108 (BitVec.ofNat 64 (s.serial / 2 ^ 64 % 2 ^ 64)), setPhase 3]) rfl).trans ?_
      rw [doAll_cons_run, doAll_cons_run, doAll_cons_run, doAll_nil_run]
    have hreg (o : Nat) (v : W64) : (setReg .mgmt 0 o v).Touches [] (fun _ => True) (fun _ => False) := touches_setReg trivial
    refine ⟨_, congrArg Host.Outcome.next hrun, (setPhase_state (by omega) _).1, ?_, ?_, ?_⟩
    · rw [(setPhase_touches 3).rd _ (by simp [phaseRegs])]
      simp
    · rw [(setPhase_touches 3).rd _ (by simp [phaseRegs])]
      simp
    · exact ((hreg _ _).only s (by simp) (by simp) (by simp)).trans (((hreg _ _).only _ (by simp) (by simp) (by simp)).trans
        ((setPhase_touches 3).only _ (by simp) (by simp) (by simp)))
  · refine ⟨_, congrArg Host.Outcome.next (effCrackLoad_loaded h hc), crackLoaded_phase s s, fun hr => ?_, fun hr => ?_,
      (crackLoaded_touches s).only s (by simp) (by simp) (by simp)⟩
    · rw [crackLoaded_ft, if_neg hr, hc]
      exact ⟨rfl, rfl⟩
    · rw [crackLoaded_ft, if_pos hr]
  · have hw : s.wedged = false := by
      simp only [State.inPhase, Bool.and_eq_true, Bool.not_eq_true'] at h
      exact h.1.2
    have hmap : (setF fMapState 0 3).Touches [] (fun k => k = ⟨.crack, 0, 0x018⟩) (fun _ => False) := touches_setF rfl
    have hw' : ((setF fMapState 0 3).run s).wedged = false := by rwa [State.wedged, hmap.on _ (by simp [fWedged])]
    obtain ⟨hwedge, hcause, hstate, herr, honly⟩ := wedgeNow_wedges (cause := 3) hw' (by omega)
    refine ⟨_, congrArg Host.Outcome.next (effCrackLoad_lost h hn hr), ⟨hwedge, hcause, hstate, fun h0 => herr ?_,
      (hmap.only s (by simp) (by simp) (by simp)).trans honly⟩, ?_⟩
    · rwa [hmap.get _ (by simp [fErrCode, offErr])]
    · have hreg (v : W64) : (setReg .crack 0 0x130 v).Touches [] (fun k => k = ⟨.crack, 0, 0x130⟩) (fun _ => False) :=
        touches_setReg rfl
      rw [wedgeNow_run hw', doAll_cons_run, ← wedgeRest, (wedgeRest_touches 3).get _ (by
        simp [wedgeRegs, fMapState, offErr, offEvtStatus, phaseRegs]), (hreg _).get _ (by simp [fMapState])]
      have hsame : (((setF fMapState 0 3).run s).apply1 .free).get fMapState 0 = ((setF fMapState 0 3).run s).get fMapState 0 := by
        simp only [State.get, State.rd_apply1]
      rw [hsame, get_setF_same (by decide)]
      rfl
  · have hanswers : Answers .treeBuildDone s fun t => t.get fMgmtState 0 = 5 ∧ t.geo = s.geo ∧ t.ft.tree = s.treeMap :=
      ⟨effTreeBuild.run s, rfl, effTreeBuild_shows h⟩
    exact hanswers
  · have hwait := waitingResets_touches
    have hready := readyShown_touches us
    obtain ⟨hstate, hevt, hus, hres⟩ := readyShown_shows ((portsTrained failed).run s) us
    refine ⟨_, congrArg Host.Outcome.next (effStoreTrain_run failed us h), ?_, ?_, ?_, ?_, fun p hp h48 => ?_, fun p h48 hp => ?_⟩
    · rw [hwait.get _ (by simp [waitingRegs, fMgmtState]), hstate]
    · rw [hwait.on _ (by simp [waitingRegs, fEvt]), hevt]
    · rw [hwait.get _ (by simp [waitingRegs, fReadyUs]), hus]
    · rw [hwait.ax _ (by simp), hres]
    · rw [hwait.get _ (by simp [waitingRegs, fSlipState]), hwait.on _ (by simp [waitingRegs, fOffline]),
        hready.get _ (by simp [fSlipState]), hready.on _ (by simp [fOffline, offEvtStatus])]
      exact portsTrained_failed h48 hp s
    · rw [hwait.on _ (by simp [waitingRegs, fTrained]), hwait.get _ (by simp [waitingRegs, fUnits]),
        hready.on _ (by simp [fTrained]), hready.get _ (by simp [fUnits])]
      exact portsTrained_good h48 hp s

end Sys2Proof.Machine
end

section
/-! PROOFS. RESET_N, the module reset and its requests (chapter 19, R476, R477, R482, R483). -/

namespace Sys2Proof.Machine

variable {s : State} {keepReg : RK → Bool} {keepAux : Aux → Bool}

/-! ## What a reset clears -/

/-- The lane generators go back to 1. -/
def rngCleared : Eff := fun s => s.rng.map fun e => Upd.rng e.1 1

/-- The registers, hidden scalars, memories and queues a reset clears, lane generators apart. -/
def partsCleared (keepReg : RK → Bool) (keepAux : Aux → Bool) : List Upd :=
  [.regClear fun k => !keepReg k, .auxClear fun a => !keepAux a, .wzero, .hi fun _ => {}, .tl fun _ => {},
   .spClear fun _ => true, .eccClear fun _ => true, .accClear fun _ => true, .imemClear fun _ => true,
   .rowClear fun _ => true, .net fun _ => {}, .sl fun _ => {}, .pg fun _ => {}, .gl fun _ => {}, .fb fun _ => {},
   .pw fun _ => {}, .sg fun _ => {}, .rm fun _ => {}, .geo {}, .geoNext {}, .geoLive {}]

theorem clearAll_run (s : State) : (clearAll keepReg keepAux).run s =
    (rngCleared.run s).applyAll (partsCleared keepReg keepAux) := by
  simp only [Eff.run, clearAll, rngCleared, State.applyAll_append, partsCleared]

theorem rngCleared_touches : rngCleared.Touches [.rng] (fun _ => False) (fun _ => False) := fun s u hu => by
  obtain ⟨e, -, rfl⟩ := List.mem_map.1 hu
  simp [Upd.Within, Upd.parts]

theorem fclear_all {κ α : Type} (m : FMap κ α) : fclear (fun _ => true) m = [] := by simp [fclear]

/-- The memories and queues after a reset. -/
structure Cleared (t : State) : Prop where
  wcount : t.wcount = 0
  hi : t.hi = {}
  tl : t.tl = {}
  sp : t.sp = []
  acc : t.acc = []
  imem : t.imem = []

theorem partsCleared_cleared (s : State) : Cleared (s.applyAll (partsCleared keepReg keepAux)) :=
  ⟨by simp [partsCleared], by simp [partsCleared], by simp [partsCleared], by simp [partsCleared, fclear_all],
    by simp [partsCleared, fclear_all], by simp [partsCleared, fclear_all]⟩

theorem clearAll_cleared (s : State) : Cleared ((clearAll keepReg keepAux).run s) := by
  rw [clearAll_run]
  exact partsCleared_cleared _

theorem clearAll_rd (s : State) (blk : Blk) (inst off : Nat) : ((clearAll keepReg keepAux).run s).rd blk inst off =
    if keepReg ⟨blk, inst, off⟩ then s.rd blk inst off else resetVal ⟨blk, inst, off⟩ := by
  rw [clearAll_run, ← rngCleared_touches.rd s (blk := blk) (inst := inst) (off := off) (by simp)]
  by_cases h : keepReg ⟨blk, inst, off⟩ = true <;> simp [partsCleared, h]

theorem clearAll_ax (s : State) (a : Aux) : ((clearAll keepReg keepAux).run s).ax a =
    if keepAux a then s.ax a else 0 := by
  rw [clearAll_run, ← rngCleared_touches.ax s (a := a) (by simp)]
  by_cases h : keepAux a = true <;> simp [partsCleared, h]

theorem clearAll_touches : (clearAll keepReg keepAux).Touches [.rng, .wcount, .hi, .tl, .sp, .ecc, .acc, .imem, .row, .net,
    .sl, .pg, .gl, .fb, .pw, .sg, .rm, .geo] (fun _ => True) (fun _ => True) := fun s u hu => by
  rcases List.mem_append.1 hu with hu | hu
  · obtain ⟨e, -, rfl⟩ := List.mem_map.1 hu
    simp [Upd.Within, Upd.parts]
  · simp only [List.mem_cons, List.not_mem_nil, or_false] at hu
    rcases hu with h | h | h | h | h | h | h | h | h | h | h | h | h | h | h | h | h | h | h | h | h <;> subst h <;>
      simp [Upd.Within, Upd.parts]

/-- What a later effect of registers and hidden scalars leaves of a reset. -/
theorem Cleared.run {t : State} {e : Eff} {R : RK → Prop} {A : Aux → Prop} {ps : List Component} (h : Cleared t)
    (he : e.Touches ps R A) (hp : ∀ p ∈ ps, p ∉ [Component.wcount, .hi, .tl, .sp, .acc, .imem]) : Cleared (e.run t) := by
  have hkeep (p : Component) (hmem : p ∈ [Component.wcount, .hi, .tl, .sp, .acc, .imem]) : p ∉ ps := fun h => hp p h hmem
  refine ⟨?_, ?_, ?_, ?_, ?_, ?_⟩
  · exact (he.same t .wcount (hkeep _ (by simp)) (by simp) (by simp) : _ = _).trans h.wcount
  · exact (he.same t .hi (hkeep _ (by simp)) (by simp) (by simp) : _ = _).trans h.hi
  · exact (he.same t .tl (hkeep _ (by simp)) (by simp) (by simp) : _ = _).trans h.tl
  · exact (he.same t .sp (hkeep _ (by simp)) (by simp) (by simp) : _ = _).trans h.sp
  · exact (he.same t .acc (hkeep _ (by simp)) (by simp) (by simp) : _ = _).trans h.acc
  · exact (he.same t .imem (hkeep _ (by simp)) (by simp) (by simp) : _ = _).trans h.imem

/-! ## RESET_N (R476, R477) -/

/-- What RESET_N asserted clears beyond the memories a module reset clears. -/
def resetHeldSet : Eff := doAll [fun _ => [.seqZero, .storeClear, .storeBad fun _ => []],
  modFt (fun f => { f with crack := [], hours := [], tree := [] }), setAx ⟨.resetHeld, 0, 0⟩ 1]

theorem resetHeldSet_touches : resetHeldSet.Touches [.seq, .store, .bad, .ft] (fun _ => False)
    (fun a => a = ⟨.resetHeld, 0, 0⟩) :=
  touches_doAll_cons (fun s u hu => by
    simp only [List.mem_cons, List.not_mem_nil, or_false] at hu
    rcases hu with h | h | h <;> subst h <;> simp [Upd.Within, Upd.parts])
    (touches_doAll_cons (touches_modFt (by simp)) (touches_doAll_cons (touches_setAx rfl) touches_doAll_nil))

theorem effResetNAssert_run (s : State) : effResetNAssert.run s = resetHeldSet.run
    ((clearAll (fun _ => false) (fun a => a.kind = .perst)).run s) := by
  rw [effResetNAssert, doAll_cons_run, resetHeldSet]

theorem resetHeldSet_shows (s : State) : (resetHeldSet.run s).held = true ∧ (resetHeldSet.run s).seq = 0 ∧
    (resetHeldSet.run s).store = [] ∧ (resetHeldSet.run s).storeFill = [] ∧
    (resetHeldSet.run s).ft = { s.ft with crack := [], hours := [], tree := [] } := by
  simp [resetHeldSet, State.held]

/-- What RESET_N released does. -/
theorem effResetNRelease_run (pos : Nat) (pv : Bool) (s : State) : (effResetNRelease pos pv).run s =
    (setF fResetKind 0 1).run ((setPhase 1).run (straps.run ((setAx ⟨.strap, 1, 0⟩ (if pv then 1 else 0)).run
      ((setAx ⟨.strap, 0, 0⟩ (pos % 4)).run ((setAx ⟨.resetHeld, 0, 0⟩ 0).run s))))) := by
  rw [effResetNRelease, doAll_cons_run, doAll_cons_run, doAll_cons_run, doAll_cons_run, doAll_cons_run, doAll_cons_run,
    doAll_nil_run]

theorem straps_touches : straps.Touches [] (fun k => k = ⟨.blink, 0, 0x180⟩) (fun _ => False) :=
  touches_look fun _ => touches_doAll_cons (touches_setF rfl) (touches_doAll_cons (touches_setF rfl) touches_doAll_nil)

theorem straps_boardPos (s : State) : (straps.run s).get fBoardPos 0 = s.ax ⟨.strap, 0, 0⟩ % 4 := by
  rw [straps, look_run, doAll_cons_run, doAll_cons_run, doAll_nil_run, get_setF_ne (by decide) (by decide),
    get_setF_same (by decide)]
  rfl

/-! ## The module reset (R482, R483) -/

theorem resetLinks_touches : resetLinks.Touches [.out, .fb] (fun k => k.blk = .fab ∨ k.blk = .blink) (fun a => a.kind = .hbSeq) := by
  have hl (q off : Nat) : (⟨lkBlk q, lkInst q, off⟩ : RK).blk = .fab ∨ (⟨lkBlk q, lkInst q, off⟩ : RK).blk = .blink := by
    simp only [lkBlk]
    split
    · exact .inl rfl
    · exact .inr rfl
  intro s
  unfold resetLinks
  refine within_doAll (touches_doAll_cons (touches_whenE (touches_doAll_cons (touches_setAx rfl) (touches_doAll_cons
    (touches_forEach fun x _ t => ?_) touches_doAll_nil))) (touches_doAll_cons (touches_forEach fun q _ => touches_whenE
      (touches_addLk (hl _ _))) touches_doAll_nil))
  exact touches_sendOn (fun q off _ => hl q off) (by simp) (by simp) t

theorem rimInvalidate_touches : rimInvalidate.Touches [.store] (fun _ => False) (fun _ => False) := fun s u hu => by
  obtain ⟨l, -, hx⟩ := List.mem_flatMap.1 hu
  obtain ⟨x, -, rfl⟩ := List.mem_map.1 hx
  simp [Upd.Within, Upd.parts]

/-- What a module reset does before it clears the module. -/
def resetPrepared (kept : Bool) : Eff := doAll [setAx ⟨.resetting, 0, 0⟩ (if kept then 2 else 1), setAx ⟨.resetting, 1, 0⟩ 0,
  resetLinks, rimInvalidate]

/-- What a module reset does after it has cleared the module, the cause apart. -/
def resetRestored (trip : Bool) : Eff := doAll [whenE (fun _ => trip) (fun _ => [.storeLost 0 (2 ^ 48), .storeBad fun _ => []]),
  modFt (fun f => { f with tree := [] }), straps, whenE (fun s => s.ax ⟨.persist, 0, 0⟩ ≠ 0) (setF fMapState 0 2)]

/-- The cause a module reset shows, and its phase. -/
def resetShown (cause : Nat) : Eff := doAll [setReg .mgmt 0 0x120 (BitVec.ofNat 64 cause), setPhase 1]

/-- CAUSE of the MGMT page: the kind, a trip, a wedge, the count of module resets. -/
def State.resetCause (s : State) : Nat := s.ax ⟨.resetting, 1, 0⟩ + (if s.tripped then 2 ^ 8 else 0) +
  (if s.wedged then 2 ^ 9 else 0) + min (s.get fModuleResets 0 + 1) 65535 * 2 ^ 16

/-- The module reset keeps the crack map it holds. -/
def State.resetKeepsMap (s : State) : Bool :=
  s.get fMapState 0 = 1 || s.get fMapState 0 = 2 || s.ax ⟨.resetting, 0, 0⟩ = 2

theorem effModuleReset_run (hh : s.held = false) (hk : s.ax ⟨.resetting, 1, 0⟩ ≠ 0) : effModuleReset.run s =
    (resetShown s.resetCause).run ((resetRestored s.tripped).run ((clearAll resetKeepsReg resetKeepsAux).run
      ((resetPrepared s.resetKeepsMap).run s))) := by
  have hlist : effModuleReset.run s = (doAll [setAx ⟨.resetting, 0, 0⟩ (if s.resetKeepsMap then 2 else 1),
      setAx ⟨.resetting, 1, 0⟩ 0, resetLinks, rimInvalidate, clearAll resetKeepsReg resetKeepsAux,
      whenE (fun _ => s.tripped) (fun _ => [.storeLost 0 (2 ^ 48), .storeBad fun _ => []]),
      modFt (fun f => { f with tree := [] }), straps, whenE (fun s => s.ax ⟨.persist, 0, 0⟩ ≠ 0) (setF fMapState 0 2),
      setReg .mgmt 0 0x120 (BitVec.ofNat 64 s.resetCause), setPhase 1]).run s :=
    run_congr (if_neg (by simp [hh, hk]))
  rw [hlist, resetShown, resetRestored, resetPrepared]
  repeat rw [doAll_cons_run]
  repeat rw [doAll_nil_run]

theorem resetPrepared_touches (kept : Bool) : (resetPrepared kept).Touches [.out, .fb, .store]
    (fun k => k.blk = .fab ∨ k.blk = .blink) (fun a => a.kind = .hbSeq ∨ a.kind = .resetting) :=
  touches_doAll_cons (touches_setAx (.inr rfl)) (touches_doAll_cons (touches_setAx (.inr rfl)) (touches_doAll_cons
    (resetLinks_touches.mono (by simp) (fun _ h => h) fun _ h => .inl h) (touches_doAll_cons
      (rimInvalidate_touches.mono (by simp) (fun _ h => h.elim) fun _ h => h.elim) touches_doAll_nil)))

theorem resetPrepared_requested (s : State) (kept : Bool) : ((resetPrepared kept).run s).ax ⟨.resetting, 1, 0⟩ = 0 := by
  rw [resetPrepared, doAll_cons_run, doAll_cons_run, doAll_cons_run, doAll_cons_run, doAll_nil_run,
    rimInvalidate_touches.ax _ (by simp), resetLinks_touches.ax _ (by simp)]
  simp

theorem resetRestored_touches (trip : Bool) : (resetRestored trip).Touches [.store, .free, .bad, .ft]
    (fun k => k = ⟨.blink, 0, 0x180⟩ ∨ k = ⟨.crack, 0, 0x018⟩) (fun _ => False) :=
  touches_doAll_cons (touches_whenE fun s u hu => by
    simp only [List.mem_cons, List.not_mem_nil, or_false] at hu
    rcases hu with h | h <;> subst h <;> simp [Upd.Within, Upd.parts])
    (touches_doAll_cons (touches_modFt (by simp)) (touches_doAll_cons (straps_touches.mono (by simp) (fun _ h => .inl h)
      fun _ h => h) (touches_doAll_cons (touches_whenE (touches_setF (.inr rfl))) touches_doAll_nil)))

theorem resetRestored_ft (s : State) (trip : Bool) : ((resetRestored trip).run s).ft = { s.ft with tree := [] } := by
  have hrest : (doAll [straps, whenE (fun s => s.ax ⟨.persist, 0, 0⟩ ≠ 0) (setF fMapState 0 2)]).Touches [] (fun _ => True)
      (fun _ => False) := touches_doAll_cons (straps_touches.mono (by simp) (by simp) (by simp)) (touches_doAll_cons
        (touches_whenE (touches_setF trivial)) touches_doAll_nil)
  rw [resetRestored, doAll_cons_run, doAll_cons_run, (hrest.same _ .ft (by simp) (by simp) (by simp) : _ = _), whenE_run]
  split <;> simp

theorem resetShown_touches (cause : Nat) : (resetShown cause).Touches [] (fun k => k.blk = .mgmt) (fun _ => False) :=
  touches_doAll_cons (touches_setReg rfl) (touches_doAll_cons ((setPhase_touches 1).mono (by simp) (fun _ h => h.1) (by simp))
    touches_doAll_nil)

theorem resetCause_kind {s : State} (h : s.ax ⟨.resetting, 1, 0⟩ < 4) : s.resetCause % 4 = s.ax ⟨.resetting, 1, 0⟩ ∧
    s.resetCause / 2 ^ 16 = min (s.get fModuleResets 0 + 1) 65535 ∧ s.resetCause < 2 ^ 64 := by
  unfold State.resetCause
  split <;> split <;> omega

theorem resetShown_get {s t : State} (h : s.ax ⟨.resetting, 1, 0⟩ < 4) : ((resetShown s.resetCause).run t).get fMgmtState 0 = 1 ∧
    ((resetShown s.resetCause).run t).get fResetKind 0 = s.ax ⟨.resetting, 1, 0⟩ ∧
    ((resetShown s.resetCause).run t).get fModuleResets 0 = min (s.get fModuleResets 0 + 1) 65535 := by
  obtain ⟨hkind, hcount, hlt⟩ := resetCause_kind h
  have hrd : ((resetShown s.resetCause).run t).rd .mgmt 0 0x120 = BitVec.ofNat 64 s.resetCause := by
    rw [resetShown, doAll_cons_run, doAll_cons_run, doAll_nil_run, (setPhase_touches 1).rd _ (by simp [phaseRegs])]
    simp
  refine ⟨?_, ?_, ?_⟩
  · rw [resetShown, doAll_cons_run, doAll_cons_run, doAll_nil_run]
    exact (setPhase_state (by omega) _).1
  · rw [get_of_rd (f := fResetKind) hrd, getBits_ofNat_of_lt hlt]
    simp only [fResetKind]
    omega
  · rw [get_of_rd (f := fModuleResets) hrd, getBits_ofNat_of_lt hlt]
    show s.resetCause / 2 ^ 16 % 2 ^ 16 = _
    omega

/-! ## Requests of a module reset -/

theorem requestReset_run (kind : Nat) (h0 : s.ax ⟨.resetting, 0, 0⟩ = 0) (h1 : s.ax ⟨.resetting, 1, 0⟩ = 0) :
    (requestReset kind).run s = (setAx ⟨.resetting, 1, 0⟩ kind).run s := by
  rw [requestReset, whenE_run, if_pos (by simp [h0, h1])]

theorem requestReset_touches (kind : Nat) : (requestReset kind).Touches [] (fun _ => False) (fun a => a.kind = .resetting) :=
  touches_whenE (touches_setAx rfl)

theorem execMgmtResetGo_run {src : Src} {v : W64} (hl : s.lets src .mgmt 0 true) (hv : getBits v 0 1 = 1)
    (hs : s.tooSoon = false) : exec (.mgmtResetGo src v) s = .next ((requestReset 3).run (s.numbered .mgmt (s.key .mgmt 0))) :=
  congrArg Host.Outcome.next ((write_accepted hl (by decide) (by simp [firstErr, errIf, hs])).trans (by
    rw [whenE_run, if_pos (by simpa using hv)]))

/-- Settles O57. -/
theorem resetsClearAndRestart : Obligations.ResetsClearAndRestart := by
  unfold Obligations.ResetsClearAndRestart
  refine ⟨fun s => ?_, fun s pos pv h => ?_, fun s hh hk h4 => ?_, fun s src v hl hv hs h0 h1 => ?_,
    fun s tag hup hs h0 h1 => ?_, fun s tag hup hs => ?_⟩
  · obtain ⟨hheld, hseq, hstore, hfill, hft⟩ :=
      resetHeldSet_shows ((clearAll (fun _ => false) (fun a => a.kind = .perst)).run s)
    have hc := (clearAll_cleared (keepReg := fun _ => false) (keepAux := fun a => a.kind = .perst) s).run resetHeldSet_touches
      (by simp)
    rw [(clearAll_touches.same s .ft (by simp) (by simp) (by simp) : _ = _)] at hft
    refine ⟨_, congrArg Host.Outcome.next (effResetNAssert_run s), hheld, hseq, hc.wcount, hc.hi, hc.tl, hc.sp, hc.acc, hc.imem,
      hstore, hfill, ?_, ?_, ?_, ?_, ?_, fun blk inst off => ?_⟩
    · rw [hft]
    · rw [hft]
    · rw [hft]
    · rw [hft]
    · rw [hft]
    · rw [resetHeldSet_touches.rd _ (by simp), clearAll_rd]
      rfl
  · have hrun : exec (.resetNRelease pos pv true) s = .next ((effResetNRelease pos pv).run s) := by
      show execResetNRelease pos pv true s = _
      simp [execResetNRelease, h]
    have hphase := setPhase_touches 1
    have hkind : (setF fResetKind 0 1).Touches [] (fun k => k = ⟨.mgmt, 0, 0x120⟩) (fun _ => False) := touches_setF rfl
    have hax (a : Aux) (x : Nat) : (setAx a x).Touches [] (fun _ => False) (fun b => b = a) := touches_setAx rfl
    rw [effResetNRelease_run] at hrun
    refine ⟨_, hrun, ?_, ?_, ?_, ?_, ?_, ?_, ?_⟩
    · unfold State.held
      rw [hkind.ax _ (by simp), hphase.ax _ (by simp), straps_touches.ax _ (by simp), (hax _ _).ax _ (by simp),
        (hax _ _).ax _ (by simp)]
      simp
    · rw [hkind.get _ (by simp [fMgmtState]), (setPhase_state (by omega) _).1]
    · rw [hkind.get _ (by simp [fBootPhase]), (setPhase_state (by omega) _).2]
    · rw [get_setF_same (by decide)]
      rfl
    · rw [hkind.get _ (by simp [fBoardPos]), hphase.get _ (by simp [fBoardPos, phaseRegs]), straps_boardPos,
        (hax _ _).ax _ (by simp)]
      simp
    · rw [hkind.ax _ (by simp), hphase.ax _ (by simp), straps_touches.ax _ (by simp)]
      simp
    · exact ((hax _ _).only s (by simp) (by simp) (by simp)).trans (((hax _ _).only _ (by simp) (by simp) (by simp)).trans
        (((hax _ _).only _ (by simp) (by simp) (by simp)).trans ((straps_touches.only _ (by simp) (by simp) (by simp)).trans
          ((hphase.only _ (by simp) (by simp) (by simp)).trans (hkind.only _ (by simp) (by simp) (by simp))))))
  · have hpre := resetPrepared_touches s.resetKeepsMap
    have hres := resetRestored_touches s.tripped
    have hshow := resetShown_touches s.resetCause
    have hclear := clearAll_touches (keepReg := resetKeepsReg) (keepAux := resetKeepsAux)
    have hc := ((clearAll_cleared (keepReg := resetKeepsReg) (keepAux := resetKeepsAux)
      ((resetPrepared s.resetKeepsMap).run s)).run hres (by simp)).run hshow (by simp)
    obtain ⟨hstate, hkind, hcount⟩ := resetShown_get (t := (resetRestored s.tripped).run
      ((clearAll resetKeepsReg resetKeepsAux).run ((resetPrepared s.resetKeepsMap).run s))) h4
    have hft : (effModuleReset.run s).ft = { s.ft with tree := [] } := by
      rw [effModuleReset_run hh hk, (hshow.same _ .ft (by simp) (by simp) (by simp) : _ = _), resetRestored_ft,
        (hclear.same _ .ft (by simp) (by simp) (by simp) : _ = _), (hpre.same s .ft (by simp) (by simp) (by simp) : _ = _)]
    rw [effModuleReset_run hh hk] at hft
    refine ⟨_, congrArg Host.Outcome.next (effModuleReset_run hh hk), hstate, ?_, hc.wcount, hc.hi, hc.tl, hc.sp, hc.acc,
      hc.imem, hkind, hcount, ?_, ?_, ?_, ?_⟩
    · rw [(hshow.same _ .seq (by simp) (by simp) (by simp) : _ = _), (hres.same _ .seq (by simp) (by simp) (by simp) : _ = _),
        (hclear.same _ .seq (by simp) (by simp) (by simp) : _ = _), (hpre.same s .seq (by simp) (by simp) (by simp) : _ = _)]
    · rw [hshow.ax _ (by simp), hres.ax _ (by simp), clearAll_ax, resetPrepared_requested]
      simp
    · rw [hft]
    · rw [hft]
    · rw [hft]
  · have hreq := requestReset_touches 3
    obtain ⟨htook, honly, -⟩ := write_frame (s := s) (blk := .mgmt) (key := s.key .mgmt 0) hreq [.regs, .aux, .seq]
      (fun _ _ _ => True) (by simp) (by simp) (by simp) (by simp) (by simp) (by simp) (by simp) trivial
    refine ⟨_, execMgmtResetGo_run hl hv hs, htook, ?_, honly⟩
    rw [requestReset_run 3 (by simpa using h0) (by simpa using h1)]
    simp
  · have hrun : (effMgmtReset tag).run s = (emit (.mgmt 3 tag eOK 0)).run ((setAx ⟨.resetting, 1, 0⟩ 2).run s) := by
      refine (run_congr (f := doAll [requestReset 2, emit (.mgmt 3 tag eOK 0)]) ?_).trans ?_
      · simp [effMgmtReset, hup, hs]
      · rw [doAll_cons_run, doAll_cons_run, doAll_nil_run, requestReset_run 2 h0 h1]
    have hset : (setAx ⟨.resetting, 1, 0⟩ 2).Touches [] (fun _ => False) (fun _ => True) := touches_setAx trivial
    have hemit : (emit (.mgmt 3 tag eOK 0)).Touches [.out] (fun _ => False) (fun _ => False) := touches_emit (by simp)
    exact ⟨_, congrArg Host.Outcome.next hrun, by simp, by simp, (hset.only s (by simp) (by simp) (by simp)).trans
      (hemit.only _ (by simp) (by simp) (by simp))⟩
  · have hrun : (effMgmtReset tag).run s = (emit (.mgmt 3 tag eSTATE 0)).run ((recordErrFree .mgmt 0 eSTATE).run s) := by
      refine (run_congr (f := doAll [recordErrFree .mgmt 0 eSTATE, emit (.mgmt 3 tag eSTATE 0)]) ?_).trans ?_
      · simp [effMgmtReset, hup, hs]
      · rw [doAll_cons_run, doAll_cons_run, doAll_nil_run]
    have herr : (recordErrFree .mgmt 0 eSTATE).Touches [.hi, .free] (fun _ => True) (fun _ => False) := by simp
    have hemit : (emit (.mgmt 3 tag eSTATE 0)).Touches [.out] (fun _ => False) (fun _ => False) := touches_emit (by simp)
    refine ⟨_, congrArg Host.Outcome.next hrun, ?_, ?_, fun hclear => ?_⟩
    · rw [emit_run, State.apply1_out, (herr.same s .out (by simp) (by simp) (by simp) : _ = _)]
    · have honly : OnlyParts [.hi, .free, .out, .regs] s ((emit (.mgmt 3 tag eSTATE 0)).run ((recordErrFree .mgmt 0 eSTATE).run s)) :=
        (herr.only s (by simp) (by simp) (by simp)).trans (hemit.only _ (by simp) (by simp) (by simp))
      exact honly.2 .aux (by simp)
    · rw [hemit.get _ (by simp)]
      exact recordErrFree_err (by decide) hclear

end Sys2Proof.Machine
end

section
/-! PROOFS. SHIFT, AUTO_SHIFT, PROMOTE; PAIR and UNPAIR between partners (chapter 15, R404, R411, R412, R414, R416). -/

namespace Sys2Proof.Machine

variable {s : State} {c : CmdCtx} {args : List W64}

/-! ## SHIFT -/

theorem taken_pendSegs {blk : Blk} {inst op : Nat} : (s.taken c blk inst op args).pendSegs = s.pendSegs := by
  have h : (s.taken c blk inst op args).geo = s.geo ∧ (s.taken c blk inst op args).geoNext = s.geoNext ∧
    (s.taken c blk inst op args).geoLive = s.geoLive := taken_same (p := .geo) (by simp)
  rw [State.pendSegs, h.1, h.2.2, State.pendSegs]

/-- A publication is due, with the SHIFT that asked for it. -/
def shiftPending (s : State) : Eff := doAll [setAx ⟨.geoDue, 0, 0⟩ 1, setAx ⟨.shiftDue, 0, 0⟩ (s.ax ⟨.shiftDue, 0, 0⟩ + 1)]

theorem shiftRun_run (r : Running) (s : State) : (shiftRun r).run s =
    if s.pendSegs = [] then (finish r eOK 0).run s else (shiftPending s).run s := by
  split
  · exact run_congr (if_pos ‹_›)
  · exact run_congr (if_neg ‹_›)

theorem shiftPending_touches (s : State) : (shiftPending s).Touches [] (fun _ => False) (fun _ => True) :=
  touches_doAll_cons (touches_setAx trivial) (touches_doAll_cons (touches_setAx trivial) touches_doAll_nil)

theorem shiftRun_touches (r : Running) : (shiftRun r).Touches [.hi, .out] (fun k => k.blk = .host) (fun _ => True) := fun s => by
  unfold shiftRun
  split
  · exact (finish_touches r eOK 0).mono (fun _ h => h) (fun _ h => h) (fun _ h => h.elim) s
  · exact (shiftPending_touches s).mono (by simp) (by simp) (by simp) s

/-! ## PROMOTE -/

/-- The ports whose mirror region's header is valid. -/
def State.mirrorPorts (s : State) : List Nat := ports48.filter fun p => s.on (fGenValid 1) p

theorem mirrorPorts_eq_nil : s.mirrorPorts = [] ↔ ∀ p, p < 48 → s.on (fGenValid 1) p = false := by
  simp [State.mirrorPorts, ports48]

/-- The headers of the mirror regions as read anew. -/
def State.mirrorsReread (s : State) : State := (forEach ports48 fun p => reread1 p 1).run s

theorem effPromoteDone_lost (h : s.get fPartnerState 0 = 4) (hm : s.mirrorsReread.mirrorPorts = []) : effPromoteDone.run s =
    (finishAll .crack 0 0x12 eUNMIRRORED 0).run ((setF fPartnerState 0 3).run
      ((setReg .crack 0 0x140 (BitVec.ofNat 64 (48 * 2 ^ 40))).run s.mirrorsReread)) := by
  have h4 : ¬ s.get fPartnerState 0 ≠ 4 := not_not_intro h
  refine (run_congr (if_neg h4)).trans ?_
  rw [doAll_cons_run, doAll_cons_run, doAll_nil_run, ← State.mirrorsReread]
  refine (run_congr (if_pos hm)).trans ?_
  rw [doAll_cons_run, doAll_cons_run, doAll_cons_run, doAll_nil_run]

theorem effPromoteDone_promoted (h : s.get fPartnerState 0 = 4) (hm : s.mirrorsReread.mirrorPorts ≠ []) :
    ∃ t v, effPromoteDone.run s = (finishAll .crack 0 0x12 eOK v).run ((setEvt .crack 0 7).run ((setF fPartnerState 0 5).run t)) := by
  have h4 : ¬ s.get fPartnerState 0 ≠ 4 := not_not_intro h
  have hfirst : effPromoteDone.run s = _ := run_congr (if_neg h4)
  rw [doAll_cons_run, doAll_cons_run, doAll_nil_run, ← State.mirrorsReread] at hfirst
  have hrest := hfirst.trans (run_congr (if_neg hm))
  rw [doAll_cons_run, doAll_cons_run, doAll_cons_run, doAll_cons_run, doAll_cons_run, doAll_cons_run, doAll_cons_run,
    doAll_nil_run] at hrest
  exact ⟨_, _, hrest⟩

/-- A command's completion touches the pages of the functions alone. -/
theorem finishAll_touches (blk : Blk) (inst op code : Nat) (v : W64) : (finishAll blk inst op code v).Touches [.hi, .out]
    (fun k => k.blk = .host) (fun _ => False) := touches_finishAll (by simp) (by simp) (by simp)

theorem effPromoteDone_shows (h : s.get fPartnerState 0 = 4) : (effPromoteDone.run s).runningOf .crack 0 0x12 = [] ∧
    (s.mirrorsReread.mirrorPorts = [] → (effPromoteDone.run s).get fPartnerState 0 = 3) ∧
    (s.mirrorsReread.mirrorPorts ≠ [] →
      (effPromoteDone.run s).get fPartnerState 0 = 5 ∧ (effPromoteDone.run s).on (fEvt .crack 7) 0 = true) := by
  have hfin (code : Nat) (v : W64) := finishAll_touches .crack 0 0x12 code v
  have hevt : (setEvt .crack 0 7).Touches [.hi] (fun k => k = ⟨.crack, 0, offEvtStatus⟩) (fun _ => False) :=
    touches_setEvt rfl (by simp)
  by_cases hm : s.mirrorsReread.mirrorPorts = []
  · rw [effPromoteDone_lost h hm]
    refine ⟨finishAll_runningOf _, fun _ => ?_, fun hne => absurd hm hne⟩
    rw [(hfin _ _).get _ (by simp [fPartnerState]), get_setF_same (by decide)]
    rfl
  · obtain ⟨t, v, hrun⟩ := effPromoteDone_promoted h hm
    rw [hrun]
    refine ⟨finishAll_runningOf _, fun hn => absurd hn hm, fun _ => ⟨?_, ?_⟩⟩
    · rw [(hfin _ _).get _ (by simp [fPartnerState]), hevt.get _ (by simp [fPartnerState, offEvtStatus]),
        get_setF_same (by decide)]
      rfl
    · rw [(hfin _ _).on _ (by simp [fEvt])]
      exact setEvt_on (by omega)

/-- Settles O45. -/
theorem shiftsAndPromotions : Obligations.ShiftsAndPromotions := by
  unfold Obligations.ShiftsAndPromotions
  refine ⟨fun s c args h => ?_, fun s hd ha hu hl hg hk => ?_, fun s c args h => ?_, fun s h => ?_⟩
  · have hrun := admitCmd_run (op := 0x14) (args := args) h
    have htouch := shiftRun_touches (s.asRunning c .crack 0 0x14 args)
    refine ⟨_, congrArg Host.Outcome.next hrun, ?_, fun hne => ?_, fun hn r hr => ?_, ?_⟩
    · exact (htouch.same _ .seq (by simp) (by simp) (by simp) : _ = _).trans taken_seq
    · show ((shiftRun _).run _).ax _ = 1 ∧ ((shiftRun _).run _).hi.running = _
      rw [shiftRun_run, if_neg (by rwa [taken_pendSegs])]
      refine ⟨by simp [shiftPending], ?_⟩
      rw [((shiftPending_touches _).same _ .hi (by simp) (by simp) (by simp) : _ = _), taken_running]
    · have hr' : r ∈ ((shiftRun (s.asRunning c .crack 0 0x14 args)).run (s.taken c .crack 0 0x14 args)).hi.running := hr
      rw [shiftRun_run, if_pos (by rwa [taken_pendSegs]), finish_hi_running] at hr'
      exact of_decide_eq_true (List.mem_filter.1 hr').2
    · exact (taken_only (by simp) (by simp) (by simp) (by simp) (by simp)).trans
        (htouch.only _ (by simp) (by simp) (by simp))
  · have hrun : effShiftPublish.run s = (setAx ⟨.geoDue, 0, 0⟩ 1).run s := by
      rw [effShiftPublish, whenE_run, if_pos ?_]
      simp only [hd, ha, hu, hg, Bool.true_and, Bool.and_true, Bool.false_eq_true, if_false, Bool.and_eq_true, decide_eq_true_eq,
        Bool.not_eq_true', List.any_eq_false, kilns256, List.mem_range]
      refine ⟨⟨hl, trivial⟩, fun k hk' hc => ?_⟩
      simp only [decide_eq_true_eq, List.any_eq_true] at hc
      obtain ⟨⟨h6, h3⟩, w, hw, hw6⟩ := hc
      exact hk k hk' h6 h3 w hw hw6
    have hset : (setAx ⟨.geoDue, 0, 0⟩ 1).Touches [] (fun _ => False) (fun _ => True) := touches_setAx trivial
    exact ⟨_, congrArg Host.Outcome.next hrun, by simp, hset.only s (by simp) (by simp) (by simp)⟩
  · have hset : (setF fPartnerState 0 4).Touches [] (fun k => k = ⟨.crack, 0, 0x138⟩) (fun _ => False) := touches_setF rfl
    refine ⟨_, congrArg Host.Outcome.next (admitCmd_run (op := 0x12) h), ?_, ?_, ?_, ?_, ?_⟩
    · exact (hset.same _ .seq (by simp) (by simp) (by simp) : _ = _).trans taken_seq
    · exact get_setF_same (by decide)
    · exact (congrArg HostSt.running (hset.same _ .hi (by simp) (by simp) (by simp) : _ = _)).trans taken_running
    · exact (taken_only (by simp) (by simp) (by simp) (by simp) (by simp)).trans
        (hset.only _ (by simp) (by simp) (by simp))
    · refine RegsKeptBut.trans (taken_kept fun _ _ => .inr rfl) (hset.regsKept _ _ fun b i o hk => .inl ?_)
      cases hk
      exact ⟨rfl, rfl, rfl⟩
  · intro u
    obtain ⟨hrun, hlost, hprom⟩ := effPromoteDone_shows h
    refine ⟨_, rfl, hrun, fun hn => hlost (mirrorPorts_eq_nil.2 hn), fun p hp hv => hprom fun hn => ?_⟩
    exact absurd (mirrorPorts_eq_nil.1 hn p hp) (by rw [show s.mirrorsReread.on (fGenValid 1) p = true from hv]; simp)

end Sys2Proof.Machine
end

section
/-! PROOFS. PAIR and UNPAIR between partners (chapter 15, R411, R412). -/

namespace Sys2Proof.Machine

variable {s : State} {c : CmdCtx} {args : List W64}

/-! ## A message taken -/

/-- A message at a port is taken, then acts. -/
theorem withMsg_run {port typ : Nat} {f : InMsg → Eff} {m : InMsg} (hr : s.running) (hm : s.msgAt port typ = some m) :
    (withMsg port typ f).run s = (f m).run ((takeMsg m).run s) := by
  have h : withMsg port typ f s = doAll [takeMsg m, f m] s := by
    simp only [withMsg, fabLive_of_running hr, hm, Bool.not_true, Bool.false_eq_true, if_false]
  rw [run_congr h, doAll_cons_run, doAll_cons_run, doAll_nil_run]

theorem takeMsg_touches (m : InMsg) : (takeMsg m).Touches [.fb] (fun _ => False) (fun _ => False) := touches_modFb (by simp)

/-- The registers of a port's page are those of a fabric port or of a board link. -/
theorem lkBlk_fab_or_blink (q : Nat) : lkBlk q = .fab ∨ lkBlk q = .blink := by
  unfold lkBlk
  split
  · exact .inl rfl
  · exact .inr rfl

theorem sendPartner_touches (typ : Nat) (data : List Byte) : (sendPartner typ data).Touches [.out, .fb]
    (fun k => k.blk = .fab ∨ k.blk = .blink) (fun _ => False) := fun s => by
  unfold sendPartner
  split
  · exact touches_sendMsg (fun q _ _ => lkBlk_fab_or_blink q) (by simp) (by simp) s
  · exact within_nil

/-! ## PAIR -/

theorem pairReset_touches : pairReset.Touches [] (fun _ => False) (fun _ => True) :=
  touches_doAll_cons (touches_setAx trivial) (touches_doAll_cons (touches_setAx trivial) (touches_doAll_cons
    (touches_setAx trivial) touches_doAll_nil))

/-- PAIR sent, none held. -/
def pairAsked (s : State) (a : W64) : Eff :=
  doAll [setF fPartnerState 0 1, sendPartner 0x40 (s.pairBytes (getBits a 0 2) (getBits a 2 1))]

theorem pairAsked_touches (s : State) (a : W64) : (pairAsked s a).Touches [.out, .fb] (fun _ => True) (fun _ => False) :=
  touches_doAll_cons (touches_setF trivial) (touches_doAll_cons ((sendPartner_touches _ _).mono (by simp) (by simp) (by simp))
    touches_doAll_nil)

theorem pairAsked_state (s t : State) (a : W64) : ((pairAsked s a).run t).get fPartnerState 0 = 1 := by
  rw [pairAsked, doAll_cons_run, doAll_cons_run, doAll_nil_run, (sendPartner_touches _ _).get _ (by simp [fPartnerState]),
    get_setF_same (by decide)]
  rfl

theorem pairTry_none (h : s.ax ⟨.pairHeld, 0, 0⟩ = 0) : pairTry.run s = s :=
  (run_congr (f := skip) (if_pos (.inr h))).trans (skip_run s)

theorem pairTry_other (h : s.get fPartnerState 0 ≠ 1) : pairTry.run s = s :=
  (run_congr (f := skip) (if_pos (.inl h))).trans (skip_run s)

theorem pairRun_run (hf : s.mirrorFits = true) (hh : s.ax ⟨.pairHeld, 0, 0⟩ = 0) (a : W64) :
    (pairRun a).run s = (pairAsked s a).run s := by
  have hn : ¬ (!s.mirrorFits) = true := by simp [hf]
  have hfirst : (pairRun a).run s = _ := run_congr (if_neg hn)
  have hheld : ((pairAsked s a).run s).ax ⟨.pairHeld, 0, 0⟩ = 0 := ((pairAsked_touches s a).ax s (by simp)).trans hh
  rw [hfirst, doAll_cons_run, doAll_cons_run, doAll_cons_run, doAll_nil_run]
  rw [pairAsked, doAll_cons_run, doAll_cons_run, doAll_nil_run] at hheld ⊢
  exact pairTry_none hheld

theorem mirrorFits_congr {t : State} (h : ∀ f p, f.blk = .slip → t.get f p = s.get f p) : t.mirrorFits = s.mirrorFits := by
  unfold State.mirrorFits
  simp only [h _ _ (rfl : (fMapSize _).blk = .slip)]

/-! ## PAIR_ACK -/

/-- The pair stands: MODE, ROLE and the partner's ID shown, the jobs' mirrors ACTIVE, PAIR done. -/
def pairStands (m : Nat × Nat) (id : Nat) : Eff :=
  doAll [setF fPartnerState 0 2, setF fPmode 0 m.1, setF fRole 0 m.2, setF fPartnerId 0 id, pairReset,
    forEach ports48 (fun p => whenE (fun s => s.on fGjobValid p) (setF fMstate p 2)),
    setEvt .crack 0 4, finishAll .crack 0 0x10 eOK 0]

theorem pairStands_touches (m : Nat × Nat) (id : Nat) : (pairStands m id).Touches [.hi, .out] (fun _ => True) (fun _ => True) :=
  touches_doAll_cons (touches_setF trivial) (touches_doAll_cons (touches_setF trivial) (touches_doAll_cons (touches_setF trivial)
    (touches_doAll_cons (touches_setF trivial) (touches_doAll_cons (pairReset_touches.mono (by simp) (by simp) (by simp))
      (touches_doAll_cons (touches_forEach fun _ _ => touches_whenE (touches_setF trivial)) (touches_doAll_cons
        (touches_setEvt trivial (by simp)) (touches_doAll_cons ((finishAll_touches _ _ _ _ _).mono (by simp) (by simp) (by simp))
          touches_doAll_nil)))))))

/-- What follows the partner's fields. -/
def pairRest (id : Nat) : Eff := doAll [setF fPartnerId 0 id, pairReset,
    forEach ports48 (fun p => whenE (fun s => s.on fGjobValid p) (setF fMstate p 2)), setEvt .crack 0 4]

theorem pairStands_run (s : State) (m : Nat × Nat) (id : Nat) : (pairStands m id).run s =
    (finishAll .crack 0 0x10 eOK 0).run ((pairRest id).run ((setF fRole 0 m.2).run ((setF fPmode 0 m.1).run
      ((setF fPartnerState 0 2).run s)))) := by
  rw [pairStands, pairRest]
  repeat rw [doAll_cons_run]
  repeat rw [doAll_nil_run]

theorem pairRest_get (s : State) (id : Nat) {f : Fld} (hb : f.blk = .crack) (ho : f.off ≠ offEvtStatus) (hlo : f.lo + f.w ≤ 16) :
    ((pairRest id).run s).get f 0 = s.get f 0 := by
  have hrest : (doAll [pairReset, forEach ports48 (fun p => whenE (fun s => s.on fGjobValid p) (setF fMstate p 2)),
      setEvt .crack 0 4]).Touches [.hi] (fun k => k.blk = .glaze ∨ k.off = offEvtStatus) (fun _ => True) :=
    touches_doAll_cons (pairReset_touches.mono (by simp) (by simp) (by simp)) (touches_doAll_cons
      (touches_forEach fun _ _ => touches_whenE (touches_setF (.inl rfl))) (touches_doAll_cons (touches_setEvt (.inr rfl) (by simp))
        touches_doAll_nil))
  rw [pairRest, doAll_cons_run, hrest.get _ (by simp [hb, ho]), get_setF_ne (fun _ _ _ => .inl hlo) (by omega)]

theorem pairRest_evt (s : State) (id : Nat) : ((pairRest id).run s).on (fEvt .crack 4) 0 = true := by
  rw [pairRest, doAll_cons_run, doAll_cons_run, doAll_cons_run, doAll_cons_run, doAll_nil_run]
  exact setEvt_on (by omega)

theorem pairStands_shows (s : State) {m : Nat × Nat} (id : Nat) (h1 : m.1 < 4) (h2 : m.2 < 2) :
    ((pairStands m id).run s).get fPartnerState 0 = 2 ∧ ((pairStands m id).run s).get fPmode 0 = m.1 ∧
    ((pairStands m id).run s).get fRole 0 = m.2 ∧ ((pairStands m id).run s).on (fEvt .crack 4) 0 = true ∧
    ((pairStands m id).run s).runningOf .crack 0 0x10 = [] := by
  have hfin := finishAll_touches .crack 0 0x10 eOK 0
  rw [pairStands_run]
  refine ⟨?_, ?_, ?_, ?_, finishAll_runningOf _⟩
  · rw [hfin.get _ (by simp [fPartnerState]), pairRest_get _ _ rfl (by decide) (by decide),
      get_setF_ne (by decide) (by decide), get_setF_ne (by decide) (by decide), get_setF_same (by decide)]
    rfl
  · rw [hfin.get _ (by simp [fPmode]), pairRest_get _ _ rfl (by decide) (by decide), get_setF_ne (by decide) (by decide),
      get_setF_same (by decide)]
    exact Nat.mod_eq_of_lt h1
  · rw [hfin.get _ (by simp [fRole]), pairRest_get _ _ rfl (by decide) (by decide), get_setF_same (by decide)]
    exact Nat.mod_eq_of_lt h2
  · rw [hfin.on _ (by simp [fEvt]), pairRest_evt]

theorem pairMode_lt (s : State) : s.pairMode.1 < 4 ∧ s.pairMode.2 < 2 := by
  unfold State.pairMode
  split
  · exact ⟨getBits_lt _ _ _, getBits_lt _ _ _⟩
  · decide

theorem pairEnd_run (hin : s.ax ⟨.pairAckIn, 0, 0⟩ ≠ 0) (hout : s.ax ⟨.pairAckOut, 0, 0⟩ ≠ 0) :
    ∃ id, pairEnd.run s = (pairStands s.pairMode id).run s :=
  ⟨getBits s.peerPair.1 16 12, run_congr (if_neg (by simp [hin, hout]))⟩

theorem pairMode_of_touches {e : Eff} {ps : List Component} {R : RK → Prop} {A : Aux → Prop} (h : e.Touches ps R A)
    (hp : Component.hi ∉ ps) (s : State) : (e.run s).pairMode = s.pairMode := by
  rw [State.pairMode, h.runningOf s _ _ _ hp, State.pairMode]

/-! ## PAIR_TIMEOUT -/

theorem pairFail_touches (code : Nat) : (pairFail code).Touches [.hi, .out] (fun _ => True) (fun _ => True) :=
  touches_doAll_cons (touches_setF trivial) (touches_doAll_cons (pairReset_touches.mono (by simp) (by simp) (by simp))
    (touches_doAll_cons ((finishAll_touches _ _ _ _ _).mono (by simp) (by simp) (by simp)) touches_doAll_nil))

theorem pairFail_shows (s : State) (code : Nat) : ((pairFail code).run s).get fPartnerState 0 = 0 ∧
    ((pairFail code).run s).runningOf .crack 0 0x10 = [] := by
  rw [pairFail, doAll_cons_run, doAll_cons_run, doAll_cons_run, doAll_nil_run]
  refine ⟨?_, finishAll_runningOf _⟩
  rw [(finishAll_touches _ _ _ _ _).get _ (by simp [fPartnerState]), pairReset_touches.get _ (by simp),
    get_setF_same (by decide)]
  rfl

/-! ## UNPAIR -/

/-- The alias's peers, transfers and messages are dropped. -/
def aliasDropped (b : FabSt) : FabSt :=
  { b with peers := b.peers.filter fun x => !x.alias_, serves := b.serves.filter fun v => !v.alias_
           inbox := b.inbox.filter fun m => !m.alias_ }

/-- What ends of a pair: its fields, the synchronising jobs' commands, the mirrors, the alias. -/
def pairEnded (s : State) (jobs : List Nat) : Eff := doAll [setReg .crack 0 0x138 0,
    forEach jobs (fun j => forEach (s.syncRuns j) fun r => finish r eABORTED 0),
    forEach ports48 (fun p => setF fMstate p 0), modGl (fun g => { g with mirrorQ := [], flips := [] }), modFb aliasDropped]

theorem unpairClear_run (s : State) : unpairClear.run s =
    (pairEnded s ((ports48.filter fun p => s.get fMstate p = 3).map fun p => s.get fGjob p).dedup).run s := run_congr rfl

theorem pairEnded_shows (s t : State) (jobs : List Nat) : ((pairEnded s jobs).run t).rd .crack 0 0x138 = 0 ∧
    ∀ p, p < 48 → ((pairEnded s jobs).run t).get fMstate p = 0 := by
  have hjobs : (forEach jobs fun j => forEach (s.syncRuns j) fun r => finish r eABORTED 0).Touches [.hi, .out]
      (fun k => k.blk = .host) (fun _ => False) := touches_forEach fun _ _ => touches_forEach fun r _ => finish_touches r _ _
  have hmir : (forEach ports48 fun p => setF fMstate p 0).Touches [] (fun k => k.blk = .glaze) (fun _ => False) :=
    touches_forEach fun _ _ => touches_setF rfl
  have hrest : (doAll [modGl (fun g => { g with mirrorQ := [], flips := [] }), modFb aliasDropped]).Touches [.gl, .fb]
      (fun _ => False) (fun _ => False) :=
    touches_doAll_cons (touches_modGl (by simp)) (touches_doAll_cons (touches_modFb (by simp)) touches_doAll_nil)
  rw [pairEnded, doAll_cons_run, doAll_cons_run, doAll_cons_run]
  refine ⟨?_, fun p hp => ?_⟩
  · rw [hrest.rd _ (by simp), hmir.rd _ (by simp), hjobs.rd _ (by simp)]
    simp
  · rw [hrest.get _ (by simp)]
    refine forEach_reach (P := fun t => t.get fMstate p = 0) (Q := fun _ => True) (b := p) (by simpa [ports48] using hp)
      (fun _ _ _ _ => trivial) (fun t _ => get_setF_same (by decide)) (fun q _ t _ ht => ?_) _ trivial
    by_cases hq : p = q
    · rw [← hq]
      exact get_setF_same (by decide)
    · rw [get_setF_inst_ne hq, ht]

theorem sendPartner_keeps (s : State) (typ : Nat) (data : List Byte)
    (h : s.rd .crack 0 0x138 = 0 ∧ ∀ p, p < 48 → s.get fMstate p = 0) :
    ((sendPartner typ data).run s).rd .crack 0 0x138 = 0 ∧ ∀ p, p < 48 → ((sendPartner typ data).run s).get fMstate p = 0 := by
  have hsend := sendPartner_touches typ data
  refine ⟨by rw [hsend.rd _ (by simp), h.1], fun p hp => ?_⟩
  rw [hsend.get _ (by simp [fMstate]), h.2 p hp]

theorem unpairClear_shows (s : State) : (unpairClear.run s).rd .crack 0 0x138 = 0 ∧
    ∀ p, p < 48 → (unpairClear.run s).get fMstate p = 0 := by
  rw [unpairClear_run]
  exact pairEnded_shows _ _ _

/-- The answer to the peer's UNPAIR. -/
def unpairAnswer : Eff := fun s => sendPartner 0x43 (leBytes 2 s.self ++ leBytes 14 0) s

theorem unpairAnswer_run (s : State) : unpairAnswer.run s = (sendPartner 0x43 (leBytes 2 s.self ++ leBytes 14 0)).run s :=
  run_congr rfl

theorem unpairAnswer_keeps (s : State) : (unpairAnswer.run (unpairClear.run s)).rd .crack 0 0x138 = 0 ∧
    ∀ p, p < 48 → (unpairAnswer.run (unpairClear.run s)).get fMstate p = 0 := by
  rw [unpairAnswer_run]
  exact sendPartner_keeps _ _ _ (unpairClear_shows s)

theorem unpairRun_run (s : State) (r : Running) : (unpairRun r).run s =
    if s.get fPartnerState 0 = 2 ∧ s.lkUp 16 = true then (sendPartner 0x42 (leBytes 2 s.self ++ leBytes 14 0)).run (unpairClear.run s)
    else (finish r eOK 0).run (unpairClear.run s) := by
  have hrun : (unpairRun r).run s = (doAll [unpairClear, if (s.get fPartnerState 0 = 2 && s.lkUp 16) = true
      then sendPartner 0x42 (leBytes 2 s.self ++ leBytes 14 0) else finish r eOK 0]).run s := run_congr rfl
  rw [hrun, doAll_cons_run, doAll_cons_run, doAll_nil_run]
  by_cases h : s.get fPartnerState 0 = 2 ∧ s.lkUp 16 = true
  · rw [if_pos h, if_pos (by simp [h])]
  · rw [if_neg h, if_neg (by simpa using h)]

theorem unpairClear_touches : unpairClear.Touches [.hi, .out, .gl, .fb] (fun _ => True) (fun _ => False) := fun s => by
  unfold unpairClear
  exact within_doAll (touches_doAll_cons (touches_setReg trivial) (touches_doAll_cons (touches_forEach fun _ _ =>
    touches_forEach fun r _ => (finish_touches r _ _).mono (by simp) (by simp) (by simp)) (touches_doAll_cons
      (touches_forEach fun _ _ => touches_setF trivial) (touches_doAll_cons (touches_modGl (by simp)) (touches_doAll_cons
        (touches_modFb (by simp)) touches_doAll_nil)))))

theorem unpairRun_touches (r : Running) : (unpairRun r).Touches [.hi, .out, .gl, .fb] (fun _ => True) (fun _ => False) := fun s => by
  unfold unpairRun
  dsimp only
  refine within_doAll (touches_doAll_cons unpairClear_touches (touches_doAll_cons ?_ touches_doAll_nil))
  split
  · exact (sendPartner_touches _ _).mono (by simp) (by simp) (by simp)
  · exact (finish_touches r _ _).mono (by simp) (by simp) (by simp)

theorem unpairRun_shows (s : State) (r : Running) : ((unpairRun r).run s).rd .crack 0 0x138 = 0 ∧
    ∀ p, p < 48 → ((unpairRun r).run s).get fMstate p = 0 := by
  obtain ⟨hrd, hmir⟩ := unpairClear_shows s
  rw [unpairRun_run]
  split
  · exact sendPartner_keeps _ _ _ ⟨hrd, hmir⟩
  · have hfin := finish_touches r eOK 0
    refine ⟨by rw [hfin.rd _ (by simp), hrd], fun p hp => ?_⟩
    rw [hfin.get _ (by simp [fMstate]), hmir p hp]

theorem lkUp_of_touches {e : Eff} {ps : List Component} {R : RK → Prop} {A : Aux → Prop} (h : e.Touches ps R A)
    (q : Nat) (hk : ∀ off, ¬ R ⟨lkBlk q, lkInst q, off⟩) (s : State) : (e.run s).lkUp q = s.lkUp q := by
  rw [State.lkUp, State.lkState, State.lk, h.get s (f := lkF q 0x018 0 64) (hk _), State.lkUp, State.lkState, State.lk]

/-- Settles O46. -/
theorem modulesPairAndUnpair : Obligations.ModulesPairAndUnpair := by
  unfold Obligations.ModulesPairAndUnpair
  refine ⟨fun s c args h hf hh => ?_, fun s m hr hm h0 => ?_, fun s m hr hm h1 hout => ?_, fun s h1 => ?_,
    fun s c args h => ?_, fun s m hr hm h2 => ?_, fun s m hr hm => ?_⟩
  · have hrun : exec (.pair c args) s = .next ((pairAsked (s.taken c .crack 0 0x10 args) (argN args 0)).run
        (s.taken c .crack 0 0x10 args)) := by
      refine congrArg Host.Outcome.next ((admitCmd_run (op := 0x10) h).trans (pairRun_run ?_ ?_ _))
      · rwa [mirrorFits_congr fun f p hb => taken_get (by simp [hb])]
      · rwa [taken_ax (by simp)]
    have htouch := pairAsked_touches (s.taken c .crack 0 0x10 args) (argN args 0)
    refine ⟨_, hrun, ?_, pairAsked_state _ _ _, ?_, ?_⟩
    · rw [(htouch.same _ .seq (by simp) (by simp) (by simp) : _ = _), taken_seq]
    · rw [(htouch.same _ .hi (by simp) (by simp) (by simp) : _ = _), taken_running]
    · exact (taken_only (by simp) (by simp) (by simp) (by simp) (by simp)).trans (htouch.only _ (by simp) (by simp) (by simp))
  · have htake := takeMsg_touches m
    have hax (a : Aux) (x : Nat) : (setAx a x).Touches [] (fun _ => False) (fun _ => True) := touches_setAx trivial
    have hrun : effPairReceive.run s = (setAx ⟨.pairWord, 1, 0⟩ (m.num 8 8)).run ((setAx ⟨.pairWord, 0, 0⟩ (m.num 0 8)).run
        ((setAx ⟨.pairHeld, 0, 0⟩ 1).run ((takeMsg m).run s))) := by
      have hst : ((takeMsg m).run s).get fPartnerState 0 = 0 := (htake.get s (by simp)).trans h0
      rw [effPairReceive, withMsg_run hr hm, whenE_run, if_pos (by simp [hst]), doAll_cons_run, doAll_cons_run, doAll_cons_run,
        doAll_cons_run, doAll_nil_run]
      refine pairTry_other ?_
      rw [setAx_get, setAx_get, setAx_get, hst]
      decide
    refine ⟨_, congrArg Host.Outcome.next hrun, by simp, by simp, by simp, ?_⟩
    exact (htake.only s (by simp) (by simp) (by simp)).trans (((hax _ _).only _ (by simp) (by simp) (by simp)).trans
      (((hax _ _).only _ (by simp) (by simp) (by simp)).trans ((hax _ _).only _ (by simp) (by simp) (by simp))))
  · have htake := takeMsg_touches m
    have hset : (setAx ⟨.pairAckIn, 0, 0⟩ 1).Touches [] (fun _ => False) (fun a => a = ⟨.pairAckIn, 0, 0⟩) := touches_setAx rfl
    obtain ⟨id, hend⟩ := pairEnd_run (s := (setAx ⟨.pairAckIn, 0, 0⟩ 1).run ((takeMsg m).run s)) (by simp) (by
      rwa [hset.ax _ (by simp), htake.ax _ (by simp)])
    rw [pairMode_of_touches hset (by simp), pairMode_of_touches htake (by simp)] at hend
    have hrun : effPairAck.run s = (pairStands s.pairMode id).run ((setAx ⟨.pairAckIn, 0, 0⟩ 1).run ((takeMsg m).run s)) := by
      have hst : ((takeMsg m).run s).get fPartnerState 0 = 1 := (htake.get s (by simp)).trans h1
      rw [effPairAck, withMsg_run hr hm, whenE_run, if_pos (by simp [hst]), doAll_cons_run, doAll_cons_run, doAll_nil_run, hend]
    obtain ⟨hst, hmode, hrole, hevt, hdone⟩ := pairStands_shows ((setAx ⟨.pairAckIn, 0, 0⟩ 1).run ((takeMsg m).run s)) id
      (pairMode_lt s).1 (pairMode_lt s).2
    exact ⟨_, congrArg Host.Outcome.next hrun, hst, hmode, hrole, hevt, hdone, (htake.only s (by simp) (by simp) (by simp)).trans
      ((hset.only _ (by simp) (by simp) (by simp)).trans ((pairStands_touches _ _).only _ (by simp) (by simp) (by simp)))⟩
  · have hrun : effPairTimeout.run s = (pairFail eTIMEOUT).run s := by
      rw [effPairTimeout, whenE_run, if_pos (by simp [h1])]
    obtain ⟨hst, hdone⟩ := pairFail_shows s eTIMEOUT
    exact ⟨_, congrArg Host.Outcome.next hrun, hst, hdone, (pairFail_touches _).only s (by simp) (by simp) (by simp)⟩
  · have hrun : exec (.unpair c args) s = .next ((unpairRun (s.asRunning c .crack 0 0x11 args)).run
        (s.taken c .crack 0 0x11 args)) := congrArg Host.Outcome.next (admitCmd_run (op := 0x11) h)
    obtain ⟨hrd, hmir⟩ := unpairRun_shows (s.taken c .crack 0 0x11 args) (s.asRunning c .crack 0 0x11 args)
    have hseq : ((unpairRun (s.asRunning c .crack 0 0x11 args)).run (s.taken c .crack 0 0x11 args)).seq = s.seq + 1 := by
      rw [((unpairRun_touches _).same _ .seq (by simp) (by simp) (by simp) : _ = _), taken_seq]
    refine ⟨_, hrun, hseq, hrd, hmir, fun hno r hr => ?_⟩
    have hup : (s.taken c .crack 0 0x11 args).lkUp 16 = s.lkUp 16 :=
      congrArg (fun n => decide (n = 2)) (taken_get (f := lkF 16 0x018 0 64) (i := lkInst 16) (by decide))
    rw [unpairRun_run, taken_get (by decide), hup, if_neg (by rintro ⟨h2, h16⟩; rcases hno with h | h <;> simp_all),
      finish_hi_running] at hr
    exact of_decide_eq_true (List.mem_filter.1 hr).2
  · have htake := takeMsg_touches m
    have hrun : effUnpairReceive.run s = unpairAnswer.run (unpairClear.run ((takeMsg m).run s)) := by
      have hst : ((takeMsg m).run s).get fPartnerState 0 = 2 := (htake.get s (by simp)).trans h2
      show (withMsg 16 0x42 fun _ => doAll [whenE (fun s => s.get fPartnerState 0 = 2) unpairClear, unpairAnswer]).run s = _
      rw [withMsg_run hr hm, doAll_cons_run, doAll_cons_run, doAll_nil_run, whenE_run, if_pos (by simp [hst])]
    exact ⟨_, congrArg Host.Outcome.next hrun, unpairAnswer_keeps _⟩
  · have hrun : effUnpairAck.run s = (finishAll .crack 0 0x11 eOK 0).run ((takeMsg m).run s) := by
      rw [effUnpairAck, withMsg_run hr hm]
    exact ⟨_, congrArg Host.Outcome.next hrun, finishAll_runningOf _, ((takeMsg_touches m).only s (by simp) (by simp) (by simp)).trans
      ((finishAll_touches _ _ _ _ _).only _ (by simp) (by simp) (by simp))⟩

end Sys2Proof.Machine
end

section
/-! PROOFS. A wafer change is installed and settles (chapter 16, R432, R433); the supply inputs (chapter 17, R447, R449). -/

namespace Sys2Proof.Machine

variable {s : State}

/-! ## Wafer changes -/

/-- The routers of a kiln's rectangle take its saggar. -/
def routersTake (s : State) (k : Nat) : Eff := forEach (s.kilnTiles k) fun t =>
  whenE (fun s => s.on fInKiln (s.phys t) && s.get fOwnKiln (s.phys t) = k) (setF fOwnSag (s.phys t) (s.kilnSag k none))

/-- The change installed at the edge S. -/
def changeInstalled (s : State) (c : Change) : Eff :=
  doAll [modSg (fun g => { g with change := some { c with installed := true } }), setF fEpoch 0 (1 - s.get fEpoch 0),
    whenE (fun s => c.kind = 0 && s.kilnHolds c.idx) (routersTake s c.idx)]

theorem effChangeInstall_run {c : Change} (hr : s.running) (hc : s.sg.change = some c) (hi : c.installed = false) :
    effChangeInstall.run s = (changeInstalled s c).run s := by
  refine run_congr ?_
  simp only [effChangeInstall, hc, hi, fabLive_of_running hr, Bool.false_eq_true, Bool.not_true, or_self, if_false]
  rfl

theorem routersTake_touches (s : State) (c : Change) :
    (whenE (fun t => decide (c.kind = 0) && t.kilnHolds c.idx) (routersTake s c.idx)).Touches []
    (fun r => r.blk = .router ∧ r.off = 0x108) (fun _ => False) :=
  touches_whenE (touches_forEach fun _ _ => touches_whenE (touches_setF ⟨rfl, rfl⟩))

theorem changeInstalled_touches (s : State) (c : Change) : (changeInstalled s c).Touches [.sg]
    (fun k => (k.blk = .saggar ∧ k.inst = 0 ∧ k.off = 0x108) ∨ (k.blk = .router ∧ k.off = 0x108)) (fun _ => False) :=
  touches_doAll_cons (touches_modSg (by simp)) (touches_doAll_cons (touches_setF (.inl ⟨rfl, rfl, rfl⟩)) (touches_doAll_cons
    ((routersTake_touches s c).mono (by simp) (fun _ h => .inr h) (by simp)) touches_doAll_nil))

theorem changeInstalled_shows (s : State) (c : Change) :
    ((changeInstalled s c).run s).sg.change = some { c with installed := true } ∧
    ((changeInstalled s c).run s).get fEpoch 0 = 1 - s.get fEpoch 0 := by
  have htake := routersTake_touches s c
  have hset : (setF fEpoch 0 (1 - s.get fEpoch 0)).Touches [] (fun _ => True) (fun _ => False) := touches_setF trivial
  rw [changeInstalled, doAll_cons_run, doAll_cons_run, doAll_cons_run, doAll_nil_run]
  refine ⟨?_, ?_⟩
  · rw [(htake.same _ .sg (by simp) (by simp) (by simp) : _ = _), (hset.same _ .sg (by simp) (by simp) (by simp) : _ = _)]
    simp
  · rw [htake.get _ (by simp [fEpoch]), get_setF_same (by decide)]
    exact Nat.mod_eq_of_lt (lt_of_le_of_lt (Nat.sub_le _ _) (by decide))

/-- What a wafer change that has settled shows. -/
def changeSettled (ns : Nat) : Eff := doAll [modSg fun g => { g with change := none }, setF fSettling 0 0,
  setF fSettleNs 0 (min ns (2 ^ 32 - 1)), setEvt .saggar 0 0]

theorem changeSettled_touches (ns : Nat) : (changeSettled ns).Touches [.sg, .hi]
    (fun k => k.blk = .saggar ∧ k.inst = 0 ∧ (k.off = 0x018 ∨ k.off = 0x108 ∨ k.off = offEvtStatus)) (fun _ => False) :=
  touches_doAll_cons (touches_modSg (by simp)) (touches_doAll_cons (touches_setF ⟨rfl, rfl, .inl rfl⟩) (touches_doAll_cons
    (touches_setF ⟨rfl, rfl, .inr (.inl rfl)⟩) (touches_doAll_cons (touches_setEvt ⟨rfl, rfl, .inr (.inr rfl)⟩ (by simp))
      touches_doAll_nil)))

theorem changeSettled_shows (s : State) (ns : Nat) : ((changeSettled ns).run s).sg = { s.sg with change := none } ∧
    ((changeSettled ns).run s).get fSettling 0 = 0 ∧ ((changeSettled ns).run s).get fSettleNs 0 = min ns (2 ^ 32 - 1) ∧
    ((changeSettled ns).run s).on (fEvt .saggar 0) 0 = true := by
  have hevt : (setEvt .saggar 0 0).Touches [.hi] (fun k => k = ⟨.saggar, 0, offEvtStatus⟩) (fun _ => False) :=
    touches_setEvt rfl (by simp)
  have hset (f : Fld) (i x : Nat) : (setF f i x).Touches [] (fun _ => True) (fun _ => False) := touches_setF trivial
  rw [changeSettled, doAll_cons_run, doAll_cons_run, doAll_cons_run, doAll_cons_run, doAll_nil_run]
  refine ⟨?_, ?_, ?_, setEvt_on (by omega)⟩
  · rw [(hevt.same _ .sg (by simp) (by simp) (by simp) : _ = _), ((hset _ _ _).same _ .sg (by simp) (by simp) (by simp) : _ = _),
      ((hset _ _ _).same _ .sg (by simp) (by simp) (by simp) : _ = _)]
    simp
  · rw [hevt.get _ (by simp [fSettling, offEvtStatus]), get_setF_off_ne (by decide), get_setF_same (by decide)]
    rfl
  · rw [hevt.get _ (by simp [fSettleNs, offEvtStatus]), get_setF_same (by decide)]
    exact Nat.mod_eq_of_lt (lt_of_le_of_lt (Nat.min_le_right _ _) (by decide))

/-- Writes that waited: none. -/
theorem admitWaiting_none (h : s.sg.waiting = []) : admitWaiting.run s = (modSg fun g => { g with waiting := [] }).run s := by
  have hrun : admitWaiting.run s = (doAll [modSg fun g => { g with waiting := [] },
    forEach s.sg.waiting fun x => inTurn x.1 x.2 (writeEff x.2)]).run s := run_congr rfl
  rw [hrun, h, doAll_cons_run, doAll_cons_run, doAll_nil_run, forEach_nil_run]

theorem effChangeSettle_run {c : Change} {ns : Nat} (hr : s.running) (hc : s.sg.change = some c) (hi : c.installed = true)
    (hd : s.drained = true) : (effChangeSettle ns).run s = admitWaiting.run ((changeSettled ns).run s) := by
  have hrun : (effChangeSettle ns).run s = (doAll [modSg fun g => { g with change := none }, setF fSettling 0 0,
      setF fSettleNs 0 (min ns (2 ^ 32 - 1)), setEvt .saggar 0 0, admitWaiting]).run s := by
    refine run_congr ?_
    simp only [effChangeSettle, hc, hi, hd, fabLive_of_running hr, Bool.false_eq_true, Bool.not_true, or_self, if_false]
  rw [hrun, changeSettled]
  repeat rw [doAll_cons_run]
  repeat rw [doAll_nil_run]

/-- Settles O49. -/
theorem waferChangeInstallsAndSettles : Obligations.WaferChangeInstallsAndSettles := by
  unfold Obligations.WaferChangeInstallsAndSettles
  refine ⟨fun s c hr hc hi => ?_, fun s ns c hr hc hi hd hw => ?_⟩
  · obtain ⟨hchange, hepoch⟩ := changeInstalled_shows s c
    exact ⟨_, congrArg Host.Outcome.next (effChangeInstall_run hr hc hi), hchange, hepoch,
      (changeInstalled_touches s c).only s (by simp) (by simp) (by simp), (changeInstalled_touches s c).regsKept s _ fun _ _ _ h => h⟩
  · obtain ⟨hsg, hst, hns, hevt⟩ := changeSettled_shows s ns
    have hrun := effChangeSettle_run (ns := ns) hr hc hi hd
    rw [admitWaiting_none (by rw [hsg, ← hw])] at hrun
    have hmod : (modSg fun g => { g with waiting := [] }).Touches [.sg] (fun _ => False) (fun _ => False) := touches_modSg (by simp)
    refine ⟨_, congrArg Host.Outcome.next hrun, ?_, ?_, ?_, ?_, ?_, ?_⟩
    · rw [modSg_run, State.apply1_sg, hsg]
    · rw [hmod.get _ (by simp), hst]
    · rw [hmod.get _ (by simp), hns]
    · rw [hmod.on _ (by simp), hevt]
    · exact ((changeSettled_touches ns).only s (by simp) (by simp) (by simp)).trans (hmod.only _ (by simp) (by simp) (by simp))
    · exact ((changeSettled_touches ns).regsKept s _ fun _ _ _ h => h).trans (hmod.regsKept _ _ fun _ _ _ h => h.elim)

/-! ## Supply inputs -/

/-- A counted switch-over to an input. -/
def switchedOver (b : Bool) : Eff := doAll [addSat (if b then fToB else fToA) 0 1, setEvt .pwr 0 (if b then 0 else 1)]

theorem switchedOver_touches (b : Bool) : (switchedOver b).Touches [.hi]
    (fun k => k.blk = .pwr ∧ k.inst = 0 ∧ (k.off = 0x118 ∨ k.off = offEvtStatus)) (fun _ => False) := by
  cases b
  · exact touches_doAll_cons (touches_addSat ⟨rfl, rfl, .inl rfl⟩) (touches_doAll_cons
      (touches_setEvt ⟨rfl, rfl, .inr rfl⟩ (by simp)) touches_doAll_nil)
  · exact touches_doAll_cons (touches_addSat ⟨rfl, rfl, .inl rfl⟩) (touches_doAll_cons
      (touches_setEvt ⟨rfl, rfl, .inr rfl⟩ (by simp)) touches_doAll_nil)

/-- The number of an input: 0 A, 1 B. -/
def inputNo (b : Bool) : Nat := if b then 1 else 0

theorem solely_run (s : State) (b : Bool) : (solely (inputNo b)).run s =
    if s.ax ⟨.lastSole, 0, 0⟩ = inputNo b then (setF fPwrState 0 (inputNo b)).run s
    else (switchedOver b).run ((setAx ⟨.lastSole, 0, 0⟩ (inputNo b)).run ((setF fPwrState 0 (inputNo b)).run s)) := by
  have hrun : (solely (inputNo b)).run s = (doAll [setF fPwrState 0 (inputNo b),
    whenE (fun s => s.ax ⟨.lastSole, 0, 0⟩ ≠ inputNo b) (doAll [setAx ⟨.lastSole, 0, 0⟩ (inputNo b), switchedOver b])]).run s := by
    refine run_congr ?_
    cases b <;> rfl
  have hax : ((setF fPwrState 0 (inputNo b)).run s).ax ⟨.lastSole, 0, 0⟩ = s.ax ⟨.lastSole, 0, 0⟩ := by simp
  rw [hrun, doAll_cons_run, doAll_cons_run, doAll_nil_run, whenE_run, hax]
  by_cases h : s.ax ⟨.lastSole, 0, 0⟩ = inputNo b
  · rw [if_neg (by simp [h]), if_pos h]
  · rw [if_pos (by simp [h]), if_neg h, doAll_cons_run, doAll_cons_run, doAll_nil_run]

theorem solely_touches (b : Bool) : (solely (inputNo b)).Touches [.hi]
    (fun k => k.blk = .pwr ∧ k.inst = 0 ∧ (k.off = 0x018 ∨ k.off = 0x118 ∨ k.off = offEvtStatus)) (fun _ => True) := fun s => by
  unfold solely
  refine within_doAll (touches_doAll_cons (touches_setF ⟨rfl, rfl, .inl rfl⟩) (touches_doAll_cons (touches_whenE
    (touches_doAll_cons (touches_setAx trivial) (touches_doAll_cons ?_ touches_doAll_nil))) touches_doAll_nil))
  split
  · exact (switchedOver_touches true).mono (by simp) (fun _ ⟨h, h', h''⟩ => ⟨h, h', .inr h''⟩) (by simp)
  · exact (switchedOver_touches false).mono (by simp) (fun _ ⟨h, h', h''⟩ => ⟨h, h', .inr h''⟩) (by simp)

theorem inputNo_lt (b : Bool) : inputNo b < 2 := by cases b <;> decide

theorem solely_state (s : State) (b : Bool) : ((solely (inputNo b)).run s).get fPwrState 0 = inputNo b ∧
    ((solely (inputNo b)).run s).ax ⟨.lastSole, 0, 0⟩ = inputNo b := by
  have hset : ((setF fPwrState 0 (inputNo b)).run s).get fPwrState 0 = inputNo b :=
    (get_setF_same (by decide)).trans (Nat.mod_eq_of_lt ((inputNo_lt b).trans (by decide)))
  have hover := switchedOver_touches b
  rw [solely_run]
  split
  · exact ⟨hset, by simpa⟩
  · refine ⟨?_, ?_⟩
    · rw [hover.get _ (by simp [fPwrState, offEvtStatus]), setAx_get, hset]
    · rw [hover.ax _ (by simp)]
      simp

theorem solely_counts (s : State) (b : Bool) (h : s.ax ⟨.lastSole, 0, 0⟩ ≠ inputNo b) :
    ((solely (inputNo b)).run s).get (if b then fToB else fToA) 0 = min (s.get (if b then fToB else fToA) 0 + 1) 0xFFFF ∧
    ((solely (inputNo b)).run s).on (fEvt .pwr (if b then 0 else 1)) 0 = true := by
  have hevt (bit : Nat) : (setEvt .pwr 0 bit).Touches [.hi] (fun k => k = ⟨.pwr, 0, offEvtStatus⟩) (fun _ => False) :=
    touches_setEvt rfl (by simp)
  rw [solely_run, if_neg h, switchedOver, doAll_cons_run, doAll_cons_run, doAll_nil_run]
  cases b
  · refine ⟨?_, setEvt_on (by decide)⟩
    rw [(hevt _).get _ (by simp [fToA, offEvtStatus])]
    refine (get_addSat_same (by decide)).trans ?_
    rw [setAx_get, get_setF_off_ne (by decide)]
    rfl
  · refine ⟨?_, setEvt_on (by decide)⟩
    rw [(hevt _).get _ (by simp [fToB, offEvtStatus])]
    refine (get_addSat_same (by decide)).trans ?_
    rw [setAx_get, get_setF_off_ne (by decide)]
    rfl

/-- Both inputs conduct, or part again. -/
theorem effBothInputs_run (s : State) (tog : Bool) (hh : s.held = false) : (effBothInputs tog).run s =
    if tog = true then (setF fPwrState 0 2).run s
    else if s.get fPwrState 0 = 2 then (setF fPwrState 0 (s.ax ⟨.lastSole, 0, 0⟩)).run s else s := by
  cases tog
  · rw [if_neg (by simp)]
    split
    · refine run_congr ?_
      simp [effBothInputs, *]
    · refine (run_congr (f := skip) ?_).trans (skip_run s)
      simp [effBothInputs, *, skip]
  · rw [if_pos rfl]
    refine run_congr ?_
    simp [effBothInputs, hh]

theorem effBothInputs_touches (tog : Bool) : (effBothInputs tog).Touches [] (fun k => k.blk = .pwr ∧ k.inst = 0 ∧ k.off = 0x018)
    (fun _ => False) := fun s => by
  unfold effBothInputs
  split
  · exact within_nil
  split
  · exact touches_setF ⟨rfl, rfl, rfl⟩ s
  split
  · exact touches_setF ⟨rfl, rfl, rfl⟩ s
  · exact within_nil

/-- A supply sample's word: volts or watts, amperes, the sample's number. -/
def supplyWord (v i n : Nat) : W64 := BitVec.ofNat 64 (v % 65536 + i % 65536 * 2 ^ 16 + n % 2 ^ 32 * 2 ^ 32)

theorem supplyWord_parts {v i n : Nat} (hv : v < 65536) (hi : i < 65536) : getBits (supplyWord v i n) 0 16 = v ∧
    getBits (supplyWord v i n) 16 16 = i ∧ getBits (supplyWord v i n) 32 32 = n % 2 ^ 32 := by
  have hlt : v % 65536 + i % 65536 * 2 ^ 16 + n % 2 ^ 32 * 2 ^ 32 < 2 ^ 64 := by omega
  simp only [supplyWord, getBits_ofNat_of_lt hlt]
  omega

/-- The words of a supply sample. -/
def supplyShown (va ia vb ib w n : Nat) : Eff := doAll [setReg .pwr 0 0x100 (supplyWord va ia n),
  setReg .pwr 0 0x108 (supplyWord vb ib n), setReg .pwr 0 0x110 (supplyWord w 0 n)]

theorem supplyShown_touches (va ia vb ib w n : Nat) : (supplyShown va ia vb ib w n).Touches []
    (fun k => k.blk = .pwr ∧ k.inst = 0 ∧ (k.off = 0x100 ∨ k.off = 0x108 ∨ k.off = 0x110)) (fun _ => False) :=
  touches_doAll_cons (touches_setReg ⟨rfl, rfl, .inl rfl⟩) (touches_doAll_cons (touches_setReg ⟨rfl, rfl, .inr (.inl rfl)⟩)
    (touches_doAll_cons (touches_setReg ⟨rfl, rfl, .inr (.inr rfl)⟩) touches_doAll_nil))

theorem supplyShown_rd (s : State) (va ia vb ib w n : Nat) :
    ((supplyShown va ia vb ib w n).run s).rd .pwr 0 0x100 = supplyWord va ia n ∧
    ((supplyShown va ia vb ib w n).run s).rd .pwr 0 0x108 = supplyWord vb ib n ∧
    ((supplyShown va ia vb ib w n).run s).rd .pwr 0 0x110 = supplyWord w 0 n := by
  simp [supplyShown]

theorem execSupplySample_run {va ia vb ib w : Nat} (hh : s.held = false) (hv : 44000 ≤ va ∨ 44000 ≤ vb) :
    exec (.supplySample va ia vb ib w) s =
      .next ((supplyShown va ia vb ib w (getBits (s.rd .pwr 0 0x110) 32 32 + 1)).run s) := by
  have hlow : ¬ (va < 44000 ∧ vb < 44000) := by omega
  refine (if_neg hlow).trans (congrArg Host.Outcome.next (run_congr ?_))
  simp only [effSupplySample, hh, Bool.false_eq_true, if_false]
  rfl

/-- Settles O51. -/
theorem suppliesSwitchAndAreSampled : Obligations.SuppliesSwitchAndAreSampled := by
  unfold Obligations.SuppliesSwitchAndAreSampled
  refine ⟨fun s b hh => ?_, fun s tog hh => ?_, fun s va ia vb ib w hh hv hva hia hvb hib hw => ?_⟩
  · have hrun : (effSupplySwitchover b).run s = (solely (inputNo b)).run s := by
      rw [effSupplySwitchover, whenE_run, if_pos (by simp [hh])]
      rfl
    obtain ⟨hst, hax⟩ := solely_state s b
    refine ⟨_, congrArg Host.Outcome.next hrun, hst, hax, fun h0 hb => ?_, fun h1 hb => ?_, fun hsame => ?_,
      (solely_touches b).only s (by simp) (by simp) (by simp), (solely_touches b).regsKept s _ fun _ _ _ h => h⟩
    · subst hb
      exact solely_counts s true (by rw [h0]; decide)
    · subst hb
      exact solely_counts s false (by rw [h1]; decide)
    · have hsame' : s.ax ⟨.lastSole, 0, 0⟩ = inputNo b := hsame
      rw [solely_run, if_pos hsame']
      exact ⟨get_setF_off_ne (by decide), get_setF_off_ne (by decide)⟩
  · have htouch := effBothInputs_touches tog
    refine ⟨_, rfl, fun ht => ?_, fun ht h2 hlt => ?_, htouch.get s (by simp [fToA]), htouch.get s (by simp [fToB]),
      htouch.only s (by simp) (by simp) (by simp), htouch.regsKept s _ fun _ _ _ h => h⟩
    · rw [effBothInputs_run s tog hh, if_pos ht, get_setF_same (by decide)]
      rfl
    · rw [effBothInputs_run s tog hh, if_neg (by simp [ht]), if_pos h2, get_setF_same (by decide)]
      exact Nat.mod_eq_of_lt (hlt.trans (by decide))
  · obtain ⟨hA, hB, hP⟩ := supplyShown_rd s va ia vb ib w (getBits (s.rd .pwr 0 0x110) 32 32 + 1)
    have htouch := supplyShown_touches va ia vb ib w (getBits (s.rd .pwr 0 0x110) 32 32 + 1)
    refine ⟨_, execSupplySample_run hh hv, ?_, ?_, ?_, ?_, ?_, ?_, htouch.only s (by simp) (by simp) (by simp),
      htouch.regsKept s _ fun _ _ _ h => h⟩
    · rw [hA, (supplyWord_parts hva hia).1]
    · rw [hA, (supplyWord_parts hva hia).2.1]
    · rw [hB, (supplyWord_parts hvb hib).1]
    · rw [hB, (supplyWord_parts hvb hib).2.1]
    · rw [hP, (supplyWord_parts hw (by decide)).1]
    · rw [hP, (supplyWord_parts hw (by decide)).2.2]

end Sys2Proof.Machine
end

section
/-! PROOFS. Telemetry samples and their ring (chapter 18, R472–R474). -/

namespace Sys2Proof.Machine

variable {s : State}

/-! ## Numbers as bytes -/

@[simp] theorem length_leBytes (n v : Nat) : (leBytes n v).length = n := by simp [leBytes]

theorem ofBytes_append (a b : List Byte) : ofBytes (a ++ b) = ofBytes a + 256 ^ a.length * ofBytes b := by
  induction a with
  | nil => simp [ofBytes]
  | cons x a ih =>
    simp only [List.cons_append, ofBytes, ih, List.length_cons, Nat.pow_succ]
    ring

theorem ofBytes_lt (a : List Byte) : ofBytes a < 256 ^ a.length := by
  induction a with
  | nil => simp [ofBytes]
  | cons x a ih =>
    have hx := x.isLt
    simp only [ofBytes, List.length_cons, Nat.pow_succ]
    omega

theorem leBytes_succ (n v : Nat) : leBytes (n + 1) v = BitVec.ofNat 8 v :: leBytes n (v / 256) := by
  simp only [leBytes, List.range_succ_eq_map, List.map_cons, List.map_map, Nat.mul_zero, Nat.shiftRight_zero]
  refine congrArg _ (List.map_congr_left fun i _ => ?_)
  simp only [Function.comp_apply, Nat.shiftRight_eq_div_pow, Nat.div_div_eq_div_mul, Nat.succ_eq_add_one]
  rw [show (2 : Nat) ^ (8 * (i + 1)) = 256 * 2 ^ (8 * i) by rw [Nat.mul_add, Nat.pow_add]; ring]

theorem ofBytes_leBytes (n v : Nat) : ofBytes (leBytes n v) = v % 256 ^ n := by
  induction n generalizing v with
  | zero => simp [leBytes, ofBytes, Nat.mod_one]
  | succ n ih =>
    rw [leBytes_succ, ofBytes, ih, BitVec.toNat_ofNat, show (256 : Nat) ^ (n + 1) = 256 * 256 ^ n from Nat.pow_succ', Nat.mod_mul]

/-! ## The number of a sample (Table 18-3) -/

/-- Bytes [7:4] of a sample: its number. -/
def sampleNo (l : List Byte) : List Byte := (l.drop 4).take 4

theorem length_le_putAt (l : List Byte) (i : Nat) (d : List Byte) : l.length ≤ (putAt l i d).length := by
  simp only [putAt, List.length_append, List.length_take, List.length_drop]
  omega

theorem take_eight_putAt {l : List Byte} {i : Nat} (d : List Byte) (hi : 8 ≤ i) (hl : 8 ≤ l.length) :
    (putAt l i d).take 8 = l.take 8 := by
  rw [putAt, List.append_assoc, List.take_append_of_le_length (by simp [hi, hl]), List.take_take, Nat.min_eq_left hi]

theorem sampleNo_take (l : List Byte) : sampleNo l = (l.take 8).drop 4 := by
  rw [sampleNo, List.drop_take]

theorem sampleNo_putAt_after {l : List Byte} {i : Nat} (d : List Byte) (hi : 8 ≤ i) (hl : 8 ≤ l.length) :
    sampleNo (putAt l i d) = sampleNo l := by
  rw [sampleNo_take, take_eight_putAt d hi hl, ← sampleNo_take]

theorem sampleNo_putAt_before {l : List Byte} {i : Nat} {d : List Byte} (hd : i + d.length ≤ 4) (hl : 8 ≤ l.length) :
    sampleNo (putAt l i d) = sampleNo l := by
  rw [sampleNo, sampleNo, putAt, List.drop_append, List.drop_drop]
  have hfirst : (l.take i ++ d).drop 4 = [] := List.drop_eq_nil_of_le (by
    simp only [List.length_append, List.length_take]
    omega)
  rw [hfirst, List.nil_append]
  congr 2
  simp only [List.length_append, List.length_take]
  omega

theorem sampleNo_putAt_same {l d : List Byte} (hd : d.length = 4) (hl : 4 ≤ l.length) : sampleNo (putAt l 4 d) = d := by
  have htake : (l.take 4).length = 4 := by simp [hl]
  rw [sampleNo, putAt, List.append_assoc, List.drop_append_of_le_length (by omega), List.drop_of_length_le (by omega),
    List.nil_append, List.take_append_of_le_length (by omega), List.take_of_length_le (by omega)]

theorem length_sampleBytes (s : State) : s.sampleBytes.length = 1024 := by
  simp [State.sampleBytes]

/-- A list of bytes that shows a sample's number and holds a whole sample. -/
def ShowsNo (n : Nat) (l : List Byte) : Prop := 1024 ≤ l.length ∧ sampleNo l = leBytes 4 n

theorem ShowsNo.putAt_after {n i : Nat} {l : List Byte} (h : ShowsNo n l) (d : List Byte) (hi : 8 ≤ i) :
    ShowsNo n (putAt l i d) := ⟨h.1.trans (length_le_putAt l i d), by rw [sampleNo_putAt_after d hi (by have := h.1; omega), h.2]⟩

theorem ShowsNo.putAt_before {n i : Nat} {l d : List Byte} (h : ShowsNo n l) (hd : i + d.length ≤ 4) :
    ShowsNo n (putAt l i d) := ⟨h.1.trans (length_le_putAt l i d), by rw [sampleNo_putAt_before hd (by have := h.1; omega), h.2]⟩

theorem showsNo_sampleLive (s : State) (n : Nat) (l : List Byte) (hl : l.length = 1024) : ShowsNo n (s.sampleLive n l) := by
  have h : ShowsNo n (putAt l 4 (leBytes 4 n)) :=
    ⟨by have := length_le_putAt l 4 (leBytes 4 n); omega, sampleNo_putAt_same (by simp) (by omega)⟩
  exact ((h.putAt_after _ (by omega)).putAt_after _ (by omega)).putAt_after _ (by omega)

theorem ShowsNo.sampleFull {n : Nat} {l : List Byte} (h : ShowsNo n l) (s : State) (x : TeleExtra) (w : W64) :
    ShowsNo n (s.sampleFull x w l) :=
  ((((((h.putAt_after _ (by omega)).putAt_after _ (by omega)).putAt_after _ (by omega)).putAt_after _ (by omega)).putAt_after _
    (by omega)).putAt_after _ (by omega)).putAt_after _ (by omega)

theorem length_sealSample {l : List Byte} (hl : 1024 ≤ l.length) (phase : Nat) : (sealSample phase l).length = 1024 := by
  have := length_le_putAt l 0 (leBytes 1 phase)
  simp only [sealSample, List.length_append, List.length_take, length_leBytes]
  omega

theorem take_eight_sealSample {l : List Byte} (hl : 1024 ≤ l.length) (phase : Nat) :
    (sealSample phase l).take 8 = (putAt l 0 (leBytes 1 phase)).take 8 := by
  have := length_le_putAt l 0 (leBytes 1 phase)
  rw [sealSample, List.take_append_of_le_length (by simp only [List.length_take]; omega), List.take_take]
  rfl

theorem ShowsNo.sealSample {n : Nat} {l : List Byte} (h : ShowsNo n l) (phase : Nat) : ShowsNo n (sealSample phase l) :=
  ⟨(length_sealSample h.1 phase).ge, by
    rw [sampleNo_take, take_eight_sealSample h.1, ← sampleNo_take]
    exact (h.putAt_before (i := 0) (d := leBytes 1 phase) (by simp)).2⟩

theorem ShowsNo.word {n : Nat} {l : List Byte} (h : ShowsNo n l) :
    getBits (BitVec.ofNat 64 (ofBytes (l.take 8))) 32 32 = n % 2 ^ 32 := by
  obtain ⟨hlen, hno⟩ := h
  have hsplit : l.take 8 = l.take 4 ++ sampleNo l := by rw [sampleNo, ← List.take_add]
  have h4 : (l.take 4).length = 4 := by simp only [List.length_take]; omega
  have hlt : ofBytes (l.take 8) < 2 ^ 64 := by
    have := ofBytes_lt (l.take 8)
    rwa [show (l.take 8).length = 8 by simp only [List.length_take]; omega] at this
  have hlow := ofBytes_lt (l.take 4)
  rw [getBits_ofNat_of_lt hlt, hsplit, ofBytes_append, hno, ofBytes_leBytes, h4]
  rw [h4] at hlow
  omega

/-! ## The SAMPLE window -/

/-- The SAMPLE window's registers. -/
theorem putSample_touches (l : List Byte) : (putSample l).Touches [] (fun k => k.blk = .tele ∧ k.inst = 0 ∧ 0x400 ≤ k.off)
    (fun _ => False) := touches_forEach fun _ _ => touches_setReg ⟨rfl, rfl, Nat.le_add_right _ _⟩

theorem putSample_first (s : State) (l : List Byte) :
    ((putSample l).run s).rd .tele 0 0x400 = BitVec.ofNat 64 (ofBytes (l.take 8)) := by
  refine forEach_reach (P := fun t => t.rd .tele 0 0x400 = BitVec.ofNat 64 (ofBytes (l.take 8))) (Q := fun _ => True) (b := 0)
    (by simp) (fun _ _ _ _ => trivial) (fun t _ => by simp) (fun i _ t _ ht => ?_) s trivial
  by_cases hi : i = 0
  · subst hi
    simp
  · rw [setReg_run, State.rd_apply1]
    simpa [hi] using ht

/-! ## The ring -/

theorem teleRing_off {l : List Byte} (h : s.on fTeleEn 0 = false) : (teleRing l).run s = s :=
  (run_congr (f := skip) (if_pos (by simp [h]))).trans (skip_run s)

/-- A sample the ring has no room for. -/
def teleMissed : Eff := doAll [addSat fTeleLost 0 1, setEvt .tele 0 0, setAx ⟨.teleLost, 0, 0⟩ 1]

theorem teleRing_full {l : List Byte} (h : s.on fTeleEn 0 = true)
    (hr : (s.get fTeleTail 0 + 1) % 2 ^ s.get fTeleLog 0 = s.get fTeleHead 0) : (teleRing l).run s = teleMissed.run s := by
  refine run_congr ((if_neg (by simp [h])).trans ((if_pos hr).trans rfl))

theorem teleMissed_shows (s : State) : (teleMissed.run s).get fTeleLost 0 = min (s.get fTeleLost 0 + 1) (2 ^ 32 - 1) ∧
    (teleMissed.run s).on (fEvt .tele 0) 0 = true ∧ (teleMissed.run s).out = s.out := by
  have hax : (setAx ⟨.teleLost, 0, 0⟩ 1).Touches [] (fun _ => False) (fun _ => True) := touches_setAx trivial
  have hevt : (setEvt .tele 0 0).Touches [.hi] (fun k => k = ⟨.tele, 0, offEvtStatus⟩) (fun _ => False) :=
    touches_setEvt rfl (by simp)
  have hadd : (addSat fTeleLost 0 1).Touches [] (fun _ => True) (fun _ => False) := touches_addSat trivial
  rw [teleMissed, doAll_cons_run, doAll_cons_run, doAll_cons_run, doAll_nil_run]
  refine ⟨?_, ?_, ?_⟩
  · rw [hax.get _ (by simp), hevt.get _ (by simp [fTeleLost, offEvtStatus]), get_addSat_same (by decide)]
    rfl
  · rw [hax.on _ (by simp)]
    exact setEvt_on (by omega)
  · rw [(hax.same _ .out (by simp) (by simp) (by simp) : _ = _), (hevt.same _ .out (by simp) (by simp) (by simp) : _ = _),
      (hadd.same _ .out (by simp) (by simp) (by simp) : _ = _)]

/-- What follows the write of a sample. -/
def teleAdvanced (tail size : Nat) : Eff := doAll [setF fTeleTail 0 ((tail + 1) % size), setAx ⟨.teleLost, 0, 0⟩ 0,
    whenE (fun _ => tail + 1 = size) (look (fun s => s.get fTelePhase 0) fun x => setF fTelePhase 0 (1 - x))]

theorem teleRing_written {l : List Byte} (h : s.on fTeleEn 0 = true)
    (hr : (s.get fTeleTail 0 + 1) % 2 ^ s.get fTeleLog 0 ≠ s.get fTeleHead 0) (hl : s.linkUp (s.get fTeleLink 0) = true) :
    (teleRing l).run s = (teleAdvanced (s.get fTeleTail 0) (2 ^ s.get fTeleLog 0)).run (s.apply1 (.out (.hostWrite 0
      (s.get fTeleLink 0) ((s.rd .tele 0 0x100).toNat + 1024 * s.get fTeleTail 0) (sealSample (s.get fTelePhase 0) l)))) := by
  have hen : ¬ (!s.on fTeleEn 0) = true := by simp [h]
  refine (run_congr ((if_neg hen).trans (if_neg hr))).trans ?_
  rw [doAll_cons_run, teleAdvanced]
  congr 1
  exact congrArg s.applyAll (if_pos hl)

theorem teleAdvanced_touches (tail size : Nat) : (teleAdvanced tail size).Touches []
    (fun k => k = ⟨.tele, 0, 0x110⟩) (fun a => a = ⟨.teleLost, 0, 0⟩) :=
  touches_doAll_cons (touches_setF rfl) (touches_doAll_cons (touches_setAx rfl) (touches_doAll_cons (touches_whenE
    (touches_look fun _ => touches_setF rfl)) touches_doAll_nil))

theorem teleAdvanced_tail (s : State) {tail size : Nat} (h : (tail + 1) % size < 2 ^ 16) :
    ((teleAdvanced tail size).run s).get fTeleTail 0 = (tail + 1) % size := by
  rw [teleAdvanced, doAll_cons_run, doAll_cons_run, doAll_cons_run, doAll_nil_run, whenE_run]
  have htail : ((setAx ⟨.teleLost, 0, 0⟩ 0).run ((setF fTeleTail 0 ((tail + 1) % size)).run s)).get fTeleTail 0 =
      (tail + 1) % size := by
    rw [setAx_get, get_setF_same (by decide)]
    exact Nat.mod_eq_of_lt h
  split
  · rw [look_run, get_setF_ne (by decide) (by decide), htail]
  · exact htail

theorem teleRing_touches (l : List Byte) : (teleRing l).Touches [.hi, .out] (fun k => k.blk = .tele ∧ k.inst = 0 ∧ k.off < 0x400)
    (fun a => a.kind = .teleLost) := fun s => by
  unfold teleRing
  dsimp only
  split
  · exact within_nil
  split
  · exact within_doAll (touches_doAll_cons (touches_addSat ⟨rfl, rfl, by decide⟩) (touches_doAll_cons
      (touches_setEvt ⟨rfl, rfl, by decide⟩ (by simp)) (touches_doAll_cons (touches_setAx rfl) touches_doAll_nil)))
  · exact within_doAll (touches_doAll_cons (touches_hostWriteOr (by simp) (touches_doAll_cons
      (touches_setF ⟨rfl, rfl, by decide⟩) (touches_doAll_cons (touches_recordErr ⟨rfl, rfl, by decide⟩ ⟨rfl, rfl, by decide⟩
        (by simp)) touches_doAll_nil))) (touches_doAll_cons (touches_setF ⟨rfl, rfl, by decide⟩) (touches_doAll_cons
      (touches_setAx rfl) (touches_doAll_cons (touches_whenE (touches_look fun _ => touches_setF ⟨rfl, rfl, by decide⟩))
        touches_doAll_nil))))

/-! ## A sample -/

/-- What precedes the SAMPLE window: the sample's number, the peaks, the links' errors, the stacks' corrected errors. -/
def sampleCounted (x : TeleExtra) (n : Nat) : Eff := doAll [setAx ⟨.samples, 0, 0⟩ n,
    whenE (fun s => s.get fBgPeak 0 < x.bgPeak) (doAll [setF fBgPeak 0 x.bgPeak, setF fBgTile 0 x.bgTile]),
    setReg .tele 0 0x178 (BitVec.ofNat 64 (x.serdes % 2 ^ 32)), forEach ports48 ceGain]

theorem ceGain_touches (p : Nat) : (ceGain p).Touches [.free] (fun k => k.blk = .slip) (fun a => a.kind = .eccTotal) :=
  touches_drawFree (by simp) fun _ => touches_doAll_cons (touches_addSat rfl) (touches_doAll_cons
    (touches_fun fun _ => touches_setAx rfl) touches_doAll_nil)

/-- The registers the counts of a sample write. -/
def countRegs (k : RK) : Prop := k = ⟨.tele, 0, 0x138⟩ ∨ k = ⟨.tele, 0, 0x178⟩ ∨ k.blk = .slip

theorem ceGains_touches : (forEach ports48 ceGain).Touches [.free] (fun k => k.blk = .slip) (fun a => a.kind = .eccTotal) :=
  touches_forEach fun p _ => ceGain_touches p

theorem sampleCounted_touches (x : TeleExtra) (n : Nat) : (sampleCounted x n).Touches [.free] countRegs (fun _ => True) :=
  touches_doAll_cons (touches_setAx trivial) (touches_doAll_cons (touches_whenE (touches_doAll_cons (touches_setF (.inl rfl))
    (touches_doAll_cons (touches_setF (.inl rfl)) touches_doAll_nil))) (touches_doAll_cons (touches_setReg (.inr (.inl rfl)))
      (touches_doAll_cons (ceGains_touches.mono (by simp) (fun _ h => .inr (.inr h)) (by simp)) touches_doAll_nil)))

theorem sampleCounted_number (s : State) (x : TeleExtra) (n : Nat) : ((sampleCounted x n).run s).ax ⟨.samples, 0, 0⟩ = n := by
  have hpeak : (whenE (fun s => s.get fBgPeak 0 < x.bgPeak) (doAll [setF fBgPeak 0 x.bgPeak, setF fBgTile 0 x.bgTile])).Touches
      [] (fun _ => True) (fun _ => False) := touches_whenE (touches_doAll_cons (touches_setF trivial) (touches_doAll_cons
        (touches_setF trivial) touches_doAll_nil))
  have hreg : (setReg .tele 0 0x178 (BitVec.ofNat 64 (x.serdes % 2 ^ 32))).Touches [] (fun _ => True) (fun _ => False) :=
    touches_setReg trivial
  rw [sampleCounted, doAll_cons_run, doAll_cons_run, doAll_cons_run, doAll_cons_run, doAll_nil_run,
    ceGains_touches.ax _ (by simp), hreg.ax _ (by simp), hpeak.ax _ (by simp)]
  simp

/-- The sample's bytes before its PHASE and CRC. -/
def State.sampleList (s u : State) (x : TeleExtra) (steps : W64) : List Byte :=
  putAt (u.sampleFull { x with bgPeak := max x.bgPeak (u.get fBgPeak 0) } steps
    (s.sampleLive (s.ax ⟨.samples, 0, 0⟩ + 1) s.sampleBytes)) 1
    (leBytes 1 ((if s.get fClkState 0 = 2 then 2 else 0) + 4 * u.ax ⟨.teleLost, 0, 0⟩) ++ leBytes 2 16)

theorem showsNo_sampleList (s u : State) (x : TeleExtra) (steps : W64) :
    ShowsNo (s.ax ⟨.samples, 0, 0⟩ + 1) (s.sampleList u x steps) :=
  ((showsNo_sampleLive s _ _ (length_sampleBytes s)).sampleFull u _ steps).putAt_before (by simp)

/-- The state a sample's counts leave. -/
def State.counted (s : State) (x : TeleExtra) : State :=
  (sampleCounted x (s.ax ⟨.samples, 0, 0⟩ + 1)).run (s.apply1 .free)

/-- The bytes of the sample taken next. -/
def State.nextSample (s : State) (x : TeleExtra) : List Byte :=
  (s.apply1 .free).sampleList (s.counted x) x (Config.freeWord s.free)

/-- What follows the counts of a sample: the SAMPLE window and the ring. -/
def sampleShown (s : State) (x : TeleExtra) (steps : W64) : Eff := fun u =>
  doAll [putSample (sealSample 0 (s.sampleList u x steps)), teleRing (s.sampleList u x steps)] u

theorem sampleShown_run (s u : State) (x : TeleExtra) (steps : W64) : (sampleShown s x steps).run u =
    (teleRing (s.sampleList u x steps)).run ((putSample (sealSample 0 (s.sampleList u x steps))).run u) := by
  refine (run_congr (f := doAll [putSample (sealSample 0 (s.sampleList u x steps)), teleRing (s.sampleList u x steps)]) ?_).trans ?_
  · rw [sampleShown]
  · rw [doAll_cons_run, doAll_cons_run, doAll_nil_run]

theorem effTelemetry_counted (x : TeleExtra) (hb : s.bgOn = true) (hw : s.wedged = false) (hc : s.wcount % 240000 = 0) :
    (effTelemetry x).run s = (sampleShown (s.apply1 .free) x (Config.freeWord s.free)).run (s.counted x) := by
  have hb' : (s.apply1 .free).bgOn = true := hb
  have hw' : (s.apply1 .free).wedged = false := hw
  have hc' : (s.apply1 .free).wcount % 240000 = 0 := hc
  have hlist : (effTelemetry x).run s = (doAll [setAx ⟨.samples, 0, 0⟩ (s.ax ⟨.samples, 0, 0⟩ + 1),
      whenE (fun s => s.get fBgPeak 0 < x.bgPeak) (doAll [setF fBgPeak 0 x.bgPeak, setF fBgTile 0 x.bgTile]),
      setReg .tele 0 0x178 (BitVec.ofNat 64 (x.serdes % 2 ^ 32)),
      doAll [forEach ports48 ceGain, sampleShown (s.apply1 .free) x (Config.freeWord s.free)]]).run (s.apply1 .free) := by
    rw [effTelemetry, drawFree_run]
    refine run_congr ?_
    simp only [hb', hw', hc', Bool.not_true, Bool.false_eq_true, ne_eq, not_true_eq_false, or_self, if_false]
    rfl
  rw [hlist, State.counted, sampleCounted]
  repeat rw [doAll_cons_run]
  repeat rw [doAll_nil_run]

theorem effTelemetry_run (x : TeleExtra) (hb : s.bgOn = true) (hw : s.wedged = false) (hc : s.wcount % 240000 = 0) :
    (effTelemetry x).run s = (teleRing (s.nextSample x)).run ((putSample (sealSample 0 (s.nextSample x))).run (s.counted x)) := by
  rw [effTelemetry_counted x hb hw hc, sampleShown_run, State.nextSample]

theorem counted_touches (s : State) (x : TeleExtra) : OnlyParts [.regs, .aux, .free] s (s.counted x) ∧
    (∀ b i o, ¬ countRegs ⟨b, i, o⟩ → (s.counted x).rd b i o = s.rd b i o) := by
  have h := sampleCounted_touches x (s.ax ⟨.samples, 0, 0⟩ + 1)
  have hfree : Eff.Touches [.free] (fun _ => False) (fun _ => False) (fun _ => [.free]) :=
    touches_upd (by simp [Upd.Within, Upd.parts])
  exact ⟨(hfree.only s (by simp) (by simp) (by simp)).trans (h.only _ (by simp) (by simp) (by simp)),
    fun b i o hk => (h.rd _ hk).trans (by simp)⟩

/-- The ring's registers as the sample finds them. -/
theorem sampled_rd (s : State) (x : TeleExtra) (l : List Byte) {b : Blk} {i o : Nat}
    (h : ¬ countRegs ⟨b, i, o⟩) (h' : ¬ (b = .tele ∧ i = 0 ∧ 0x400 ≤ o)) :
    ((putSample l).run (s.counted x)).rd b i o = s.rd b i o :=
  ((putSample_touches l).rd _ h').trans ((counted_touches s x).2 b i o h)

theorem sampled_get (s : State) (x : TeleExtra) (l : List Byte) {f : Fld} {i : Nat}
    (h : ¬ countRegs ⟨f.blk, i, f.off⟩) (h' : ¬ (f.blk = .tele ∧ i = 0 ∧ 0x400 ≤ f.off)) :
    ((putSample l).run (s.counted x)).get f i = s.get f i := by
  rw [State.get, sampled_rd s x l h h', State.get]

theorem sampled_out (s : State) (x : TeleExtra) (l : List Byte) : ((putSample l).run (s.counted x)).out = s.out :=
  ((putSample_touches l).same _ .out (by simp) (by simp) (by simp) : _ = _).trans ((counted_touches s x).1.2 .out (by simp))

/-- The samples' number, the SAMPLE window and the frame of a sample. -/
theorem effTelemetry_shows (x : TeleExtra) (hb : s.bgOn = true) (hw : s.wedged = false) (hc : s.wcount % 240000 = 0) :
    ((effTelemetry x).run s).ax ⟨.samples, 0, 0⟩ = s.ax ⟨.samples, 0, 0⟩ + 1 ∧
    getBits (((effTelemetry x).run s).rd .tele 0 0x400) 32 32 = (s.ax ⟨.samples, 0, 0⟩ + 1) % 2 ^ 32 ∧
    OnlyParts [.regs, .aux, .hi, .out, .free] s ((effTelemetry x).run s) := by
  have hring := teleRing_touches (s.nextSample x)
  have hput := putSample_touches (sealSample 0 (s.nextSample x))
  rw [effTelemetry_run x hb hw hc]
  refine ⟨?_, ?_, ?_⟩
  · rw [hring.ax _ (by simp), hput.ax _ (by simp), State.counted, sampleCounted_number]
  · rw [hring.rd _ (by simp), putSample_first]
    exact ((showsNo_sampleList _ _ x _).sealSample 0).word
  · have hcount : OnlyParts [.regs, .aux, .hi, .out, .free] s (s.counted x) :=
      ⟨(counted_touches s x).1.1, fun p hp => (counted_touches s x).1.2 p (by simp at hp ⊢; tauto)⟩
    exact hcount.trans ((hput.only _ (by simp) (by simp) (by simp)).trans
      (hring.only _ (by simp) (by simp) (by simp)))

/-! ## The ring's configuration and its failure -/

/-- RING_CFG written. -/
def teleCfg (v : W64) : Eff := doAll [whenE (fun s => !s.on fTeleEn 0 && getBits v 8 1 = 1) (setReg .tele 0 0x110 0x10000),
  setReg .tele 0 0x108 (v &&& 0x30F)]

theorem teleCfg_touches (v : W64) : (teleCfg v).Touches [] (fun k => k.blk = .tele ∧ k.inst = 0 ∧ (k.off = 0x108 ∨ k.off = 0x110))
    (fun _ => False) := touches_doAll_cons (touches_whenE (touches_setReg ⟨rfl, rfl, .inr rfl⟩)) (touches_doAll_cons
      (touches_setReg ⟨rfl, rfl, .inl rfl⟩) touches_doAll_nil)

theorem teleCfg_enabled (v : W64) (h : s.on fTeleEn 0 = false) (hv : getBits v 8 1 = 1) :
    ((teleCfg v).run s).get fTeleTail 0 = 0 ∧ ((teleCfg v).run s).get fTelePhase 0 = 1 := by
  have hrd : ((teleCfg v).run s).rd .tele 0 0x110 = 0x10000 := by
    rw [teleCfg, doAll_cons_run, doAll_cons_run, doAll_nil_run, whenE_run, if_pos (by simp [h, hv])]
    simp
  refine ⟨?_, ?_⟩
  · rw [get_of_rd (f := fTeleTail) hrd]
    decide
  · rw [get_of_rd (f := fTelePhase) hrd]
    decide

theorem execTeleRingEnable_run {src : Src} {v : W64} {root : Bool} (hl : s.lets src .tele 0 root) (h4 : 4 ≤ getBits v 0 4)
    (h14 : getBits v 0 4 ≤ 14) (hsame : s.on fTeleEn 0 = true → getBits v 0 4 = s.get fTeleLog 0) :
    exec (.teleRingEnable src v) s = .next ((teleCfg v).run (s.numbered .tele 0)) := by
  refine congrArg Host.Outcome.next ((write_accepted hl (by decide) ?_).trans rfl)
  cases hen : s.on fTeleEn 0
  · simp [firstErr, errIf, h4, h14]
  · simp [firstErr, errIf, hsame hen, hsame hen ▸ h4, hsame hen ▸ h14]

theorem teleLostWrite_touches (n : Nat) : (teleLostWrite n).Touches [.hi]
    (fun k => k.blk = .tele ∧ k.inst = 0 ∧ (k.off = 0x108 ∨ k.off = offErr ∨ k.off = offEvtStatus)) (fun _ => False) :=
  touches_doAll_cons (touches_setF ⟨rfl, rfl, .inl rfl⟩) (touches_doAll_cons (touches_recordErr ⟨rfl, rfl, .inr (.inl rfl)⟩
    ⟨rfl, rfl, .inr (.inr rfl)⟩ (by simp)) touches_doAll_nil)

theorem teleLostWrite_shows (s : State) (n : Nat) : ((teleLostWrite n).run s).on fTeleEn 0 = false ∧
    (s.get (fErrCode .tele) 0 = 0 → ((teleLostWrite n).run s).get (fErrCode .tele) 0 = eTIMEOUT ∧
      ((teleLostWrite n).run s).get (fErrInfo .tele) 0 = n % 2 ^ 32) := by
  rw [teleLostWrite, doAll_cons_run, doAll_cons_run, doAll_nil_run]
  refine ⟨?_, fun h => ?_⟩
  · rw [(recordErr_touches .tele 0 eTIMEOUT n).on _ (by simp [fTeleEn, offErr, offEvtStatus]), on_setF_same (by decide)]
    rfl
  · have h' : ((setF fTeleEn 0 0).run s).get (fErrCode .tele) 0 = 0 := by
      rw [get_setF_off_ne (by decide), h]
    obtain ⟨hcode, hinfo⟩ := recordErr_get_of_clear (code := eTIMEOUT) (info := n) h'
    exact ⟨hcode, hinfo⟩

/-- Settles O56. -/
theorem telemetryIsSampledIntoItsRing : Obligations.TelemetryIsSampledIntoItsRing := by
  unfold Obligations.TelemetryIsSampledIntoItsRing
  refine ⟨fun s x hb hw hc => ?_, fun s src v root hl h4 h14 hsame => ?_, fun s n hb hen => ?_⟩
  · obtain ⟨hno, hword, honly⟩ := effTelemetry_shows x hb hw hc
    have hrun := effTelemetry_run x hb hw hc
    have hget (f : Fld) (hf : f.blk = .tele) (ho : f.off < 0x130) :
        ((putSample (sealSample 0 (s.nextSample x))).run (s.counted x)).get f 0 = s.get f 0 :=
      sampled_get s x _ (by simp [countRegs, hf]; omega) (by simp [hf]; omega)
    have hon : ((putSample (sealSample 0 (s.nextSample x))).run (s.counted x)).on fTeleEn 0 = s.on fTeleEn 0 :=
      on_congr (hget _ rfl (by decide))
    have hrd : ((putSample (sealSample 0 (s.nextSample x))).run (s.counted x)).rd .tele 0 0x100 = s.rd .tele 0 0x100 :=
      sampled_rd s x _ (by simp [countRegs]) (by simp)
    have hlink (h : Nat) : ((putSample (sealSample 0 (s.nextSample x))).run (s.counted x)).linkUp h = s.linkUp h := by
      exact on_congr (sampled_get s x _ (by simp [countRegs, fLinkUp]) (by simp [fLinkUp]))
    refine ⟨_, rfl, hno, hword, fun h => ?_, fun h hr => ?_, fun h hr hup => ?_, honly⟩
    · rw [hrun, teleRing_off (by rw [hon, h]), sampled_out]
    · rw [hrun, teleRing_full (by rw [hon, h]) (by
        rw [hget _ rfl (by decide), hget _ rfl (by decide), hget _ rfl (by decide), hr])]
      obtain ⟨hlost, hevt, hout⟩ := teleMissed_shows ((putSample (sealSample 0 (s.nextSample x))).run (s.counted x))
      rw [hget _ rfl (by decide)] at hlost
      exact ⟨hlost, hevt, hout.trans (sampled_out s x _)⟩
    · have hsize : (s.get fTeleTail 0 + 1) % 2 ^ s.get fTeleLog 0 < 2 ^ 16 :=
        (Nat.mod_lt _ (Nat.two_pow_pos _)).trans_le (Nat.pow_le_pow_right (by omega) (by
          have := get_lt s fTeleLog 0
          have h16 : (2 : Nat) ^ fTeleLog.w = 16 := rfl
          omega))
      rw [hrun, teleRing_written (by rw [hon, h]) (by
        rwa [hget _ rfl (by decide), hget _ rfl (by decide), hget _ rfl (by decide)]) (by
        rwa [hget _ rfl (by decide), hlink])]
      simp only [hget _ (rfl : fTeleTail.blk = _) (by decide), hget _ (rfl : fTeleLog.blk = _) (by decide),
        hget _ (rfl : fTeleLink.blk = _) (by decide), hrd]
      refine ⟨teleAdvanced_tail _ hsize, sealSample (((putSample (sealSample 0 (s.nextSample x))).run (s.counted x)).get fTelePhase 0)
        (s.nextSample x), length_sealSample (showsNo_sampleList _ _ x _).1 _, ?_⟩
      rw [((teleAdvanced_touches _ _).same _ .out (by simp) (by simp) (by simp) : _ = _), State.apply1_out, sampled_out]
  · have htouch := teleCfg_touches v
    obtain ⟨htook, honly, hkept⟩ := write_frame (s := s) (blk := .tele) (key := 0) htouch [.regs, .seq]
      (fun b i o => b = .tele ∧ i = 0 ∧ (o = 0x108 ∨ o = 0x110 ∨ o = offSeq)) (by simp) (by simp) (by simp) (by simp) (by simp)
      (by simp [offSeq]) (fun _ _ _ h => ⟨h.1, h.2.1, h.2.2.elim .inl fun h => .inr (.inl h)⟩) ⟨rfl, rfl, .inr (.inr rfl)⟩
    refine ⟨_, execTeleRingEnable_run hl h4 h14 hsame, htook, ?_, fun h hv => teleCfg_enabled v ?_ hv, honly, hkept⟩
    · simp [teleCfg]
    · rw [numbered_on (by decide), h]
  · have hrun : (effTeleFail n).run s = (teleLostWrite n).run s := by
      rw [effTeleFail, whenE_run, if_pos (by simp [hb, hen])]
    obtain ⟨hoff, herr⟩ := teleLostWrite_shows s n
    have htouch := teleLostWrite_touches n
    exact ⟨_, congrArg Host.Outcome.next hrun, hoff, herr, htouch.only s (by simp) (by simp) (by simp),
      htouch.regsKept s _ fun _ _ _ h => h⟩

end Sys2Proof.Machine
end

section
/-! PROOFS. The geometry: build, swap, reads of the distance table, its copy (chapter 01, R25, R27–R30, R404). -/

namespace Sys2Proof.Machine

variable {s : State}

/-! ## Build -/

/-- A build starts with every change recorded so far. -/
def buildStarted (s : State) : Eff := doAll [setF fUpdating 1 1, fun _ => [.geoNext s.geoLive], setAx ⟨.geoDue, 0, 0⟩ 0,
      setAx ⟨.shiftDue, 1, 0⟩ (s.ax ⟨.shiftDue, 0, 0⟩), setAx ⟨.shiftDue, 0, 0⟩ 0,
      whenE (fun s => s.ax ⟨.persistDue, 0, 0⟩ ≠ 0) (doAll [setAx ⟨.persistDue, 1, 0⟩ 1, setAx ⟨.persistDue, 0, 0⟩ 0])]

theorem effBuildStart_run (hr : s.running) (hu : s.on fUpdating 1 = false) (hd : s.ax ⟨.geoDue, 0, 0⟩ ≠ 0 ∨ s.bootGeom = true) :
    effBuildStart.run s = (buildStarted s).run s := by
  obtain ⟨hh, ht, hw⟩ := hr
  rw [effBuildStart, whenE_run, if_pos (by
    rcases hd with hd | hd
    · simp [hh, ht, hw, hu, hd]
    · simp [hh, ht, hw, hu, hd])]
  exact run_congr (by rw [buildStarted])

/-- The scalars of a build, once its map is taken. -/
def buildMarked (n : Nat) : Eff := doAll [setAx ⟨.geoDue, 0, 0⟩ 0, setAx ⟨.shiftDue, 1, 0⟩ n, setAx ⟨.shiftDue, 0, 0⟩ 0,
      whenE (fun s => s.ax ⟨.persistDue, 0, 0⟩ ≠ 0) (doAll [setAx ⟨.persistDue, 1, 0⟩ 1, setAx ⟨.persistDue, 0, 0⟩ 0])]

theorem buildMarked_touches (n : Nat) : (buildMarked n).Touches [] (fun _ => False) (fun _ => True) :=
  touches_doAll_cons (touches_setAx trivial) (touches_doAll_cons (touches_setAx trivial) (touches_doAll_cons (touches_setAx trivial)
    (touches_doAll_cons (touches_whenE (touches_doAll_cons (touches_setAx trivial) (touches_doAll_cons (touches_setAx trivial)
      touches_doAll_nil))) touches_doAll_nil)))

theorem buildMarked_due (s : State) (n : Nat) : ((buildMarked n).run s).ax ⟨.geoDue, 0, 0⟩ = 0 := by
  have hrest : (doAll [setAx ⟨.shiftDue, 1, 0⟩ n, setAx ⟨.shiftDue, 0, 0⟩ 0, whenE (fun s => s.ax ⟨.persistDue, 0, 0⟩ ≠ 0)
      (doAll [setAx ⟨.persistDue, 1, 0⟩ 1, setAx ⟨.persistDue, 0, 0⟩ 0])]).Touches [] (fun _ => False) (fun a => a.kind ≠ .geoDue) :=
    touches_doAll_cons (touches_setAx (by simp)) (touches_doAll_cons (touches_setAx (by simp)) (touches_doAll_cons (touches_whenE
      (touches_doAll_cons (touches_setAx (by simp)) (touches_doAll_cons (touches_setAx (by simp)) touches_doAll_nil)))
        touches_doAll_nil))
  rw [buildMarked, doAll_cons_run, hrest.ax _ (by simp)]
  simp

theorem buildStarted_run (s t : State) : (buildStarted s).run t = (buildMarked (s.ax ⟨.shiftDue, 0, 0⟩)).run
    (((setF fUpdating 1 1).run t).apply1 (.geoNext s.geoLive)) := by
  rw [buildStarted, buildMarked, doAll_cons_run, doAll_cons_run]
  rfl

theorem buildStarted_touches (s : State) : (buildStarted s).Touches [.geo] (fun k => k = ⟨.mgmt, 1, 0x108⟩) (fun _ => True) :=
  touches_doAll_cons (touches_setF rfl) (touches_doAll_cons (touches_upd (by simp [Upd.Within, Upd.parts]))
    ((buildMarked_touches _).mono (by simp) (by simp) (by simp)))

theorem buildStarted_shows (s : State) : ((buildStarted s).run s).on fUpdating 1 = true ∧ ((buildStarted s).run s).geoNext = s.geoLive ∧
    ((buildStarted s).run s).geo = s.geo ∧ ((buildStarted s).run s).geoLive = s.geoLive := by
  have hmark := buildMarked_touches (s.ax ⟨.shiftDue, 0, 0⟩)
  have hset : (setF fUpdating 1 1).Touches [] (fun _ => True) (fun _ => False) := touches_setF trivial
  have hmap (t : State) : ((buildMarked (s.ax ⟨.shiftDue, 0, 0⟩)).run t).geo = t.geo ∧
    ((buildMarked (s.ax ⟨.shiftDue, 0, 0⟩)).run t).geoNext = t.geoNext ∧
    ((buildMarked (s.ax ⟨.shiftDue, 0, 0⟩)).run t).geoLive = t.geoLive := hmark.same t .geo (by simp) (by simp) (by simp)
  have hset' : ((setF fUpdating 1 1).run s).geo = s.geo ∧ ((setF fUpdating 1 1).run s).geoNext = s.geoNext ∧
    ((setF fUpdating 1 1).run s).geoLive = s.geoLive := hset.same s .geo (by simp) (by simp) (by simp)
  rw [buildStarted_run]
  refine ⟨?_, ?_, ?_, ?_⟩
  · rw [hmark.on _ (by simp), on_eq_true_iff]
    have hget : (((setF fUpdating 1 1).run s).apply1 (.geoNext s.geoLive)).get fUpdating 1 = ((setF fUpdating 1 1).run s).get fUpdating 1 := by
      simp only [State.get, State.rd_apply1]
    rw [hget, get_setF_same (by decide)]
    decide
  · rw [(hmap _).2.1]
    simp
  · rw [(hmap _).1, State.apply1_geo, hset'.1]
  · rw [(hmap _).2.2, State.apply1_geoLive, hset'.2.2]

/-! ## Swap -/

theorem wakeDone_touches (r : Running) : (wakeDone r).Touches [.hi, .out] (fun k => k.blk = .host) (fun _ => False) := fun s => by
  unfold wakeDone
  dsimp only
  split
  · exact within_nil
  · exact finish_touches r _ _ s

theorem wakesCheck_touches : wakesCheck.Touches [.hi, .out] (fun k => k.blk = .host ∨ k.blk = .pwr) (fun _ => True) :=
  touches_doAll_cons (touches_look fun _ => touches_forEach fun r _ => (wakeDone_touches r).mono (by simp) (fun _ h => .inl h)
    (by simp)) (touches_doAll_cons (touches_forEach fun _ _ => touches_whenE (touches_doAll_cons (touches_setAx trivial)
      (touches_doAll_cons (touches_setEvt (.inr rfl) (by simp)) touches_doAll_nil))) touches_doAll_nil)

theorem drainKiln_faults (k code src : Nat) : (drainKiln k code src).Faults := fun s => by
  unfold drainKiln
  split
  · exact within_doAll (touches_doAll_cons (setFault_faults _ _ _ _ _) (touches_doAll_cons (touches_setF rfl) touches_doAll_nil))
  · exact within_nil

theorem refit_faults (code src : Nat) : (refit code src).Faults :=
  touches_forEach fun _ _ => touches_whenE (drainKiln_faults _ _ _)

theorem portLinksState_touches : portLinksState.Touches [] (fun k => k.blk = .slip) (fun _ => False) :=
  touches_forEach fun p _ => fun s => by
    have hset (x : Nat) : (setF fSlipState p x).Touches [] (fun k => k.blk = .slip) (fun _ => False) := touches_setF rfl
    dsimp only
    split
    · exact hset 2 s
    split
    · exact hset 0 s
    · exact within_nil

/-- The parts a swap's last effects leave alone are the geometry and what a fault leaves. -/
def swapParts : List Component := faultParts

/-- What follows the event GEOM_CHANGED of a swap, the phase apart. -/
def swapFollows (shifted : List Nat) : Eff := doAll [whenE (fun _ => shifted ≠ []) (setEvt .crack 0 1), wakesCheck, refit eFENCED 3,
    look (fun s => (s.runningOf .crack 0 0x14).take (s.ax ⟨.shiftDue, 1, 0⟩)) (fun l =>
      forEach l fun r => finish r eOK (BitVec.ofNat 64 shifted.length)),
    setAx ⟨.shiftDue, 1, 0⟩ 0,
    whenE (fun s => s.ax ⟨.persistDue, 1, 0⟩ ≠ 0) (doAll [setAx ⟨.persistDue, 2, 0⟩ 1, setAx ⟨.persistDue, 1, 0⟩ 0])]

theorem swapFollows_touches (shifted : List Nat) : (swapFollows shifted).Touches faultParts (fun k => k.blk ≠ .mgmt) (fun _ => True) :=
  touches_doAll_cons (touches_whenE (touches_setEvt (by simp) (by decide))) (touches_doAll_cons (wakesCheck_touches.mono
    (by decide) (fun k h hm => by rcases h with h | h <;> rw [hm] at h <;> exact absurd h (by decide)) (by simp)) (touches_doAll_cons ((refit_faults _ _).mono
      (fun _ h => h) (fun k h hm => by
        have h' : faultReg k = true := h
        simp [faultReg, quietReg, quietBlks, hm] at h') (by simp)) (touches_doAll_cons
        (touches_look fun _ => touches_forEach fun r _ => (finish_touches r _ _).mono (by decide) (fun k h hm => by
          rw [hm] at h
          exact absurd h (by decide)) (by simp))
        (touches_doAll_cons (touches_setAx trivial) (touches_doAll_cons (touches_whenE (touches_doAll_cons (touches_setAx trivial)
          (touches_doAll_cons (touches_setAx trivial) touches_doAll_nil))) touches_doAll_nil)))))

/-- The published map and its generation. -/
def swapPublished (new : GeoMap) (gen : Nat) : Eff := doAll [fun _ => [.geo new], modNet (fun n => { n with holds := [] }),
  setF fGen 1 (if gen = 0xFFFFFFFF then 1 else gen + 1), setF fUpdating 1 0, portLinksState, setEvt .mgmt 1 0]

/-- The phase after the first publication. -/
def swapPhase (boot : Bool) : Eff := whenE (fun _ => boot) (doAll [setF fMgmtState 0 6, setF fBootPhase 0 6])

theorem swapPublished_shows (s : State) (new : GeoMap) {gen : Nat} (hg : gen < 2 ^ 32) :
    ((swapPublished new gen).run s).geo = new ∧ ((swapPublished new gen).run s).on fUpdating 1 = false ∧
    ((swapPublished new gen).run s).get fGen 1 = (if gen = 0xFFFFFFFF then 1 else gen + 1) ∧
    ((swapPublished new gen).run s).on (fEvt .mgmt 0) 1 = true := by
  have hnext : (if gen = 0xFFFFFFFF then 1 else gen + 1) < 2 ^ 32 := by split <;> omega
  have hport := portLinksState_touches
  have hevt : (setEvt .mgmt 1 0).Touches [.hi] (fun k => k = ⟨.mgmt, 1, offEvtStatus⟩) (fun _ => False) :=
    touches_setEvt rfl (by simp)
  have hset (f : Fld) (i x : Nat) : (setF f i x).Touches [] (fun _ => True) (fun _ => False) := touches_setF trivial
  have hnet (f : NetSt → NetSt) : (modNet f).Touches [.net] (fun _ => False) (fun _ => False) := touches_modNet (by simp)
  rw [swapPublished, doAll_cons_run, doAll_cons_run, doAll_cons_run, doAll_cons_run, doAll_cons_run, doAll_cons_run, doAll_nil_run]
  refine ⟨?_, ?_, ?_, setEvt_on (by omega)⟩
  · rw [hevt.geo _ (by simp), hport.geo _ (by simp), (hset _ _ _).geo _ (by simp), (hset _ _ _).geo _ (by simp),
      (hnet _).geo _ (by simp)]
    simp
  · rw [hevt.on _ (by simp [fUpdating, offEvtStatus]), hport.on _ (by simp [fUpdating]), on_setF_same (by decide)]
    rfl
  · rw [hevt.get _ (by simp [fGen, offEvtStatus]), hport.get _ (by simp [fGen]), get_setF_ne (by decide) (by decide),
      get_setF_same (by decide)]
    exact Nat.mod_eq_of_lt hnext

theorem swapPhase_touches (boot : Bool) : (swapPhase boot).Touches [] (fun k => k.inst = 0) (fun _ => False) :=
  touches_whenE (touches_doAll_cons (touches_setF rfl) (touches_doAll_cons (touches_setF rfl) touches_doAll_nil))

theorem swapPhase_state (s : State) {boot : Bool} (hb : boot = true) : ((swapPhase boot).run s).get fMgmtState 0 = 6 := by
  rw [swapPhase, whenE_run, if_pos hb]
  exact (setPhase_state (n := 6) (by omega) s).1

/-- A swap publishes the build. -/
theorem effGeomSwap_run (hr : s.running) (hu : s.on fUpdating 1 = true) : ∃ t shifted, effGeomSwap.run s =
    (swapPhase s.bootGeom).run ((swapFollows shifted).run ((swapPublished s.geoNext (s.get fGen 1)).run t)) := by
  obtain ⟨hh, ht, hw⟩ := hr
  have hgo : ¬ (s.held = true ∨ s.tripped = true ∨ s.wedged = true ∨ (!s.on fUpdating 1) = true) := by
    simp [hh, ht, hw, hu]
  have hrun : effGeomSwap.run s = (doAll [_, _, _, _, _, _, _, _, _, _, _, _, _, _, _, _, _]).run s := run_congr (if_neg hgo)
  repeat rw [doAll_cons_run] at hrun
  rw [doAll_nil_run] at hrun
  simp only [swapPhase, swapFollows, swapPublished, doAll_cons_run, doAll_nil_run]
  exact ⟨_, _, hrun⟩

theorem effGeomSwap_shows (hr : s.running) (hu : s.on fUpdating 1 = true) : (effGeomSwap.run s).geo = s.geoNext ∧
    (effGeomSwap.run s).on fUpdating 1 = false ∧
    (effGeomSwap.run s).get fGen 1 = (if s.get fGen 1 = 0xFFFFFFFF then 1 else s.get fGen 1 + 1) ∧
    (effGeomSwap.run s).on (fEvt .mgmt 0) 1 = true ∧ (s.bootGeom = true → (effGeomSwap.run s).get fMgmtState 0 = 6) := by
  obtain ⟨t, shifted, hrun⟩ := effGeomSwap_run hr hu
  obtain ⟨hgeo, hupd, hgen, hevt⟩ := swapPublished_shows t s.geoNext (get_lt s fGen 1)
  have hphase := swapPhase_touches s.bootGeom
  have hrest := swapFollows_touches shifted
  rw [hrun]
  refine ⟨?_, ?_, ?_, ?_, swapPhase_state _⟩
  · rw [hphase.geo _ (by simp), hrest.geo _ (by decide), hgeo]
  · rw [hphase.on _ (by simp), hrest.on _ (by simp [fUpdating]), hupd]
  · rw [hphase.get _ (by simp), hrest.get _ (by simp [fGen]), hgen]
  · rw [hphase.on _ (by simp), hrest.on _ (by simp [fEvt]), hevt]

/-! ## DIST_DATA -/

/-- The selected entry is answered, and the selection steps on. -/
theorem effDistRead_run (hh : s.held = false) : effDistRead.run s = distAdvance.run (s.apply1 (.out (.readData s.distView))) := by
  have hrun : effDistRead.run s = (doAll [emit (.readData s.distView), distAdvance]).run s := by
    refine run_congr ?_
    simp only [effDistRead, hh, Bool.false_eq_true, if_false]
  rw [hrun, doAll_cons_run, doAll_cons_run, doAll_nil_run, emit_run]

/-- The next selection: the port, then the tile. -/
def distStep (s : State) : Eff := if s.get fDistPort 1 < 47 then setF fDistPort 1 (s.get fDistPort 1 + 1)
  else doAll [setF fDistPort 1 0, setF fDistTile 1 (if s.get fDistTile 1 < 34559 then s.get fDistTile 1 + 1 else 0)]

theorem distStep_touches (s : State) : (distStep s).Touches [] (fun k => k.blk = .mgmt ∧ k.inst = 1 ∧ k.off = 0x128) (fun _ => False) := by
  unfold distStep
  split
  · exact touches_setF ⟨rfl, rfl, rfl⟩
  · exact touches_doAll_cons (touches_setF ⟨rfl, rfl, rfl⟩) (touches_doAll_cons (touches_setF ⟨rfl, rfl, rfl⟩) touches_doAll_nil)

theorem distAdvance_eq : distAdvance = whenE (fun s => s.on fDistInc 1) fun s => distStep s s := by
  refine congrArg _ (funext fun s => ?_)
  dsimp only [distStep]
  split <;> rfl

theorem distAdvance_run (s : State) : distAdvance.run s = if s.on fDistInc 1 = true then (distStep s).run s else s := by
  rw [distAdvance_eq, whenE_run]
  split
  · exact run_congr rfl
  · rfl

theorem distAdvance_touches : distAdvance.Touches [] (fun k => k.blk = .mgmt ∧ k.inst = 1 ∧ k.off = 0x128) (fun _ => False) := by
  rw [distAdvance_eq]
  exact touches_whenE (touches_fun distStep_touches)

theorem distStep_port (s : State) : (s.get fDistPort 1 < 47 → ((distStep s).run s).get fDistPort 1 = s.get fDistPort 1 + 1 ∧
      ((distStep s).run s).get fDistTile 1 = s.get fDistTile 1) ∧
    (s.get fDistPort 1 = 47 → ((distStep s).run s).get fDistPort 1 = 0 ∧
      ((distStep s).run s).get fDistTile 1 = if s.get fDistTile 1 < 34559 then s.get fDistTile 1 + 1 else 0) := by
  refine ⟨fun h => ?_, fun h => ?_⟩
  · rw [distStep, if_pos h, get_setF_same (by decide), get_setF_ne (by decide) (by decide)]
    exact ⟨Nat.mod_eq_of_lt (show _ < 64 by omega), rfl⟩
  · rw [distStep, if_neg (by omega), doAll_cons_run, doAll_cons_run, doAll_nil_run, get_setF_ne (by decide) (by decide),
      get_setF_same (by decide), get_setF_same (by decide)]
    refine ⟨rfl, Nat.mod_eq_of_lt ?_⟩
    show _ < 65536
    split <;> omega

/-! ## The copy of the table -/

/-- An error sets no event bit but its own. -/
theorem recordErr_on_evt {blk : Blk} {i code info bit : Nat} (hb : bit < 63) :
    ((recordErr blk i code info).run s).on (fEvt blk bit) i = s.on (fEvt blk bit) i := by
  have hset (f : Fld) (x : Nat) (hf : f.off = offErr) (t : State) :
      ((setF f i x).run t).on (fEvt blk bit) i = t.on (fEvt blk bit) i :=
    on_congr (get_setF_off_ne (by rw [hf]; exact fun h => absurd (show offEvtStatus = offErr from h) (by decide)))
  rw [Eff.run_eq, recordErr]
  split
  · rw [← Eff.run_eq, doAll_cons_run, doAll_cons_run, doAll_cons_run, doAll_cons_run, doAll_nil_run]
    refine (setEvtI_on_ne (by omega) (by omega)).trans ?_
    rw [hset _ _ rfl, hset _ _ rfl, hset _ _ rfl]
  · rw [← Eff.run_eq, addSat_run, hset _ _ rfl]

/-- A copy leaves on the root's link. -/
def copyStarted (s : State) : Eff := doAll [setF fCopying 1 1,
  emit (.distTable (s.get fRootLink 0) (s.rd .mgmt 1 0x138).toNat (s.get fGen 1) s.geo)]

theorem copyStarted_touches (s : State) : (copyStarted s).Touches [.out] (fun k => k = ⟨.mgmt, 1, 0x018⟩) (fun _ => False) :=
  touches_doAll_cons (touches_setF rfl) (touches_doAll_cons (touches_emit (by simp)) touches_doAll_nil)

theorem distCopyStart_run (hl : s.linkUp (s.get fRootLink 0) = true) : distCopyStart.run s = (copyStarted s).run s :=
  run_congr (if_pos hl)

theorem execDistCopy_run {src : Src} {v : W64} {root : Bool} (hl : s.lets src .mgmt 1 root) (hv : getBits v 0 1 = 1)
    (ha : getBits (s.rd .mgmt 1 0x138) 0 6 = 0) (hc : s.get fCopying 1 ≠ 1) (hg : s.get fGen 1 ≠ 0)
    (hup : s.linkUp (s.get fRootLink 0) = true) :
    exec (.distCopy src v) s = .next ((copyStarted (s.numbered .mgmt 1)).run (s.numbered .mgmt 1)) := by
  refine congrArg Host.Outcome.next ((write_accepted hl (by decide) ?_).trans ?_)
  · simp [hv, ha, hc, hg, firstErr, errIf]
  · rw [whenE_run, if_pos (by simpa using hv)]
    refine distCopyStart_run ?_
    rw [State.linkUp, numbered_on (by decide), numbered_get (by decide)]
    exact hup

theorem copyStarted_shows (s t : State) : ((copyStarted s).run t).get fCopying 1 = 1 ∧ ((copyStarted s).run t).out =
    .distTable (s.get fRootLink 0) (s.rd .mgmt 1 0x138).toNat (s.get fGen 1) s.geo :: t.out := by
  have hset : (setF fCopying 1 1).Touches [] (fun _ => True) (fun _ => False) := touches_setF trivial
  have hemit (o : Out) : (emit o).Touches [.out] (fun _ => False) (fun _ => False) := touches_emit (by simp)
  rw [copyStarted, doAll_cons_run, doAll_cons_run, doAll_nil_run]
  refine ⟨?_, ?_⟩
  · rw [(hemit _).get _ (by simp), get_setF_same (by decide)]
    rfl
  · rw [emit_run, State.apply1_out, (hset.same t .out (by simp) (by simp) (by simp) : _ = _)]

/-- A copy ends, with its event or with its failure. -/
theorem copyDone_shows (s : State) : ((doAll [setF fCopying 1 0, setEvt .mgmt 1 1]).run s).get fCopying 1 = 0 ∧
    ((doAll [setF fCopying 1 0, setEvt .mgmt 1 1]).run s).on (fEvt .mgmt 1) 1 = true := by
  have hevt : (setEvt .mgmt 1 1).Touches [.hi] (fun k => k = ⟨.mgmt, 1, offEvtStatus⟩) (fun _ => False) :=
    touches_setEvt rfl (by simp)
  rw [doAll_cons_run, doAll_cons_run, doAll_nil_run]
  refine ⟨?_, setEvt_on (by omega)⟩
  rw [hevt.get _ (by simp [fCopying, offEvtStatus]), get_setF_same (by decide)]
  rfl

theorem copyDone_touches : (doAll [setF fCopying 1 0, setEvt .mgmt 1 1]).Touches [.hi]
    (fun k => k.blk = .mgmt ∧ k.inst = 1 ∧ (k.off = 0x018 ∨ k.off = offEvtStatus)) (fun _ => False) :=
  touches_doAll_cons (touches_setF ⟨rfl, rfl, .inl rfl⟩) (touches_doAll_cons (touches_setEvt ⟨rfl, rfl, .inr rfl⟩ (by simp))
    touches_doAll_nil)

/-- A copy fails at a byte. -/
def copyFailed (off : Nat) : Eff := doAll [setF fCopying 1 0, recordErr .mgmt 1 eTIMEOUT off]

theorem copyFailed_touches (off : Nat) : (copyFailed off).Touches [.hi]
    (fun k => k.blk = .mgmt ∧ k.inst = 1 ∧ (k.off = 0x018 ∨ k.off = offErr ∨ k.off = offEvtStatus)) (fun _ => False) :=
  touches_doAll_cons (touches_setF ⟨rfl, rfl, .inl rfl⟩) (touches_doAll_cons (touches_recordErr ⟨rfl, rfl, .inr (.inl rfl)⟩
    ⟨rfl, rfl, .inr (.inr rfl)⟩ (by simp)) touches_doAll_nil)

theorem copyFailed_shows (s : State) {off : Nat} (ho : off < 2 ^ 32) : ((copyFailed off).run s).get fCopying 1 = 0 ∧
    ((copyFailed off).run s).on (fEvt .mgmt 1) 1 = s.on (fEvt .mgmt 1) 1 ∧
    (s.get (fErrCode .mgmt) 1 = 0 → ((copyFailed off).run s).get (fErrCode .mgmt) 1 = eTIMEOUT ∧
      ((copyFailed off).run s).get (fErrInfo .mgmt) 1 = off) := by
  rw [copyFailed, doAll_cons_run, doAll_cons_run, doAll_nil_run]
  refine ⟨?_, ?_, fun h => ?_⟩
  · rw [(recordErr_touches .mgmt 1 eTIMEOUT off).get _ (by simp [fCopying, offErr, offEvtStatus]), get_setF_same (by decide)]
    rfl
  · rw [recordErr_on_evt (by omega)]
    exact on_congr (get_setF_off_ne (by decide))
  · have h' : ((setF fCopying 1 0).run s).get (fErrCode .mgmt) 1 = 0 := by
      rw [get_setF_off_ne (by decide), h]
    obtain ⟨hcode, hinfo⟩ := recordErr_get_of_clear (code := eTIMEOUT) (info := off) h'
    exact ⟨hcode, hinfo.trans (Nat.mod_eq_of_lt ho)⟩

/-- Settles O7. -/
theorem geometryIsPublishedAndRead : Obligations.GeometryIsPublishedAndRead := by
  unfold Obligations.GeometryIsPublishedAndRead
  refine ⟨fun s hr hu hd => ?_, fun s hr hu => ?_, fun s hh => ?_, fun s src v root hl hv ha hc hg hup => ?_, fun s hh hc => ?_,
    fun s off hh hc ho => ?_⟩
  · obtain ⟨hupd, hnext, hgeo, hlive⟩ := buildStarted_shows s
    refine ⟨_, congrArg Host.Outcome.next (effBuildStart_run hr hu hd), hupd, hnext, hgeo, hlive, ?_,
      (buildStarted_touches s).only s (by simp) (by simp) (by simp), (buildStarted_touches s).regsKept s _ fun b i o h => ?_⟩
    · rw [buildStarted_run, buildMarked_due]
    · cases h
      exact ⟨rfl, rfl, rfl⟩
  · exact ⟨_, rfl, effGeomSwap_shows hr hu⟩
  · have hemit : (emit (.readData s.distView)).Touches [.out] (fun _ => False) (fun _ => False) := touches_emit (by simp)
    have hget (f : Fld) : (s.apply1 (.out (.readData s.distView))).get f 1 = s.get f 1 := hemit.get s (by simp)
    have hinc : (s.apply1 (.out (.readData s.distView))).on fDistInc 1 = s.on fDistInc 1 := on_congr (hget _)
    have htouch := distAdvance_touches
    obtain ⟨hbelow, hlast⟩ := distStep_port (s.apply1 (.out (.readData s.distView)))
    simp only [hget] at hbelow hlast
    refine ⟨_, congrArg Host.Outcome.next (effDistRead_run hh), ?_, fun hi => ?_, fun hi hp => ?_, fun hi hp => ?_, ?_, ?_⟩
    · rw [(htouch.same _ .out (by simp) (by simp) (by simp) : _ = _), State.apply1_out]
    · rw [distAdvance_run, if_neg (by rw [hinc, hi]; simp), State.apply1_regs]
    · rw [distAdvance_run, if_pos (by rw [hinc, hi])]
      exact hbelow hp
    · rw [distAdvance_run, if_pos (by rw [hinc, hi])]
      exact hlast hp
    · exact (hemit.only s (by simp) (by simp) (by simp)).trans (htouch.only _ (by simp) (by simp) (by simp))
    · exact (hemit.regsKept s _ fun _ _ _ h => h.elim).trans (htouch.regsKept _ _ fun _ _ _ h => h)
  · have htouch := copyStarted_touches (s.numbered .mgmt 1)
    obtain ⟨htook, honly, hkept⟩ := write_frame (s := s) (blk := .mgmt) (key := 1) htouch [.regs, .seq, .out]
      (fun b i o => b = .mgmt ∧ i = 1 ∧ (o = 0x018 ∨ o = offSeq)) (by simp) (by simp) (by simp) (by simp) (by simp)
      (by simp [offSeq]) (fun _ _ _ h => by cases h; exact ⟨rfl, rfl, .inl rfl⟩) ⟨rfl, rfl, .inr rfl⟩
    obtain ⟨hcopy, hout⟩ := copyStarted_shows (s.numbered .mgmt 1) (s.numbered .mgmt 1)
    refine ⟨_, execDistCopy_run hl hv ha hc hg hup, htook, hcopy, ?_, honly, hkept⟩
    rw [hout, numbered_get (by decide), numbered_get (by decide), numbered_rd, if_neg (by decide)]
    rfl
  · have hrun : effCopyDone.run s = (doAll [setF fCopying 1 0, setEvt .mgmt 1 1]).run s := by
      rw [effCopyDone, whenE_run, if_pos (by simp [hh, hc])]
    obtain ⟨hcopy, hevt⟩ := copyDone_shows s
    exact ⟨_, congrArg Host.Outcome.next hrun, hcopy, hevt, copyDone_touches.only s (by simp) (by simp) (by simp),
      copyDone_touches.regsKept s _ fun _ _ _ h => h⟩
  · have hrun : (effDistFail off).run s = (copyFailed off).run s := by
      rw [effDistFail, whenE_run, if_pos (by simp [hh, hc, ho]), copyFailed]
    obtain ⟨hcopy, hevt, herr⟩ := copyFailed_shows s (off := off) (by omega)
    exact ⟨_, congrArg Host.Outcome.next hrun, hcopy, hevt, herr, (copyFailed_touches off).only s (by simp) (by simp) (by simp),
      (copyFailed_touches off).regsKept s _ fun _ _ _ h => h⟩

end Sys2Proof.Machine
end

section
/-! SUPPORT. Kiln commands (chapter 13): the state an accepted one runs on, its completion, the release of a kiln and of its job
(R352, R355). -/

namespace Sys2Proof.Machine

variable {s : State} {c : CmdCtx} {k op : Nat} {args : List W64}

/-! ## What an effect keeps -/

/-- An effect leaves what q reads of the state as it was. -/
def Eff.Keeps {α : Type} (q : State → α) (e : Eff) : Prop := ∀ s, q (e.run s) = q s

theorem keeps_nil {α : Type} {q : State → α} : Eff.Keeps q (doAll []) := fun _ => rfl

theorem keeps_cons {α : Type} {q : State → α} {e : Eff} {es : List Eff} (h : e.Keeps q) (hs : (doAll es).Keeps q) :
    (doAll (e :: es)).Keeps q := fun s => by rw [doAll_cons_run, hs, h]

theorem keeps_forEach {α β : Type} {q : State → α} {l : List β} {f : β → Eff} (h : ∀ b ∈ l, (f b).Keeps q) :
    (forEach l f).Keeps q := fun s =>
  forEach_keep (P := fun t => q t = q s) (fun b hb t ht => (h b hb t).trans ht) s rfl

theorem keeps_whenE {α : Type} {q : State → α} {p : State → Bool} {e : Eff} (h : e.Keeps q) : (whenE p e).Keeps q := fun s => by
  rw [whenE_run]
  split
  · exact h s
  · rfl

theorem Eff.Touches.keeps_get {ps : List Component} {R : RK → Prop} {A : Aux → Prop} {e : Eff} (h : e.Touches ps R A) {f : Fld}
    {i : Nat} (hk : ¬ R ⟨f.blk, i, f.off⟩) : e.Keeps fun s => s.get f i := fun s => h.get s hk

/-- An effect that finds a state of a certain kind. -/
theorem keeps_of {α : Type} {q : State → α} {e : Eff} (k : State → Eff) (he : ∀ s, e s = k s s) (h : ∀ s, (k s).Keeps q) :
    e.Keeps q := fun s => (congrArg q (run_congr (he s))).trans (h s s)

theorem Eff.Touches.keeps_rd {ps : List Component} {R : RK → Prop} {A : Aux → Prop} {e : Eff} (h : e.Touches ps R A) {b : Blk}
    {i o : Nat} (hk : ¬ R ⟨b, i, o⟩) : e.Keeps fun s => s.rd b i o := fun s => h.rd s hk

/-- A field that holds a value holds it still as the field of some instance takes that value. -/
theorem get_setF_const {f : Fld} {i j x : Nat} (hw : f.lo + f.w ≤ 64) (hx : x < 2 ^ f.w) (h : s.get f i = x) :
    ((setF f j x).run s).get f i = x := by
  by_cases hij : i = j
  · rw [hij, get_setF_same hw, Nat.mod_eq_of_lt hx]
  · rw [get_setF_inst_ne hij, h]

/-- A field keeps its value as another is written. -/
theorem setF_keeps {f g : Fld} {i j x : Nat} (h : (g.blk ≠ f.blk ∨ j ≠ i ∨ g.off ≠ f.off) ∨ g.lo + g.w ≤ f.lo ∨ f.lo + f.w ≤ g.lo)
    (hw : g.lo + g.w ≤ 64) : (setF f i x).Keeps fun s => s.get g j := fun s => get_setF_ne (by tauto) hw

/-! ## The arrival of a kiln command -/

theorem timed_run (k : Nat) (e : Eff) (s : State) : (timed k e).run s = e.run ((timed k skip).run s) := by
  have h (f : Eff) : (timed k f).run s = (doAll [setAx ⟨.kilnT0, k, 0⟩ (s.wcount + 1), f]).run s := rfl
  simp only [h, doAll_cons_run, doAll_nil_run, skip_run]

theorem timed_skip_touches (k : Nat) : (timed k skip).Touches [] (fun _ => False) (fun a => a.kind = .kilnT0) := fun s => by
  unfold timed
  exact within_doAll (touches_doAll_cons (touches_setAx rfl) (touches_doAll_cons touches_skip touches_doAll_nil))

/-- An accepted kiln command whose admission time is noted runs on the state with its number taken. -/
theorem kilnCmd_run {e : Eff} (h : s.admits c .kiln k (kilnSpec k op args (timed k e))) :
    (admitCmd c .kiln k op args (kilnSpec k op args (timed k e))).run s = e.run (s.kilnTaken c k op args) := by
  rw [admitCmd_run (op := op) (args := args) h, State.kilnTaken]
  exact timed_run k e _

theorem kilnTaken_only {qs : List Component} (hseq : .seq ∈ qs) (hhi : .hi ∈ qs) (hout : .out ∈ qs) (hr : .regs ∈ qs)
    (ha : .aux ∈ qs) : OnlyParts qs s (s.kilnTaken c k op args) :=
  (taken_only hseq hhi hout hr ha).trans ((timed_skip_touches k).only _ (by simp) (.inl hr) (.inl ha))

theorem kilnTaken_kept {named : Blk → Nat → Nat → Prop} (h : ∀ i o, named .host i o) :
    RegsKeptBut named s (s.kilnTaken c k op args) :=
  RegsKeptBut.trans (taken_kept h) ((timed_skip_touches k).regsKept _ _ fun _ _ _ hk => hk.elim)

theorem kilnTaken_rd {b : Blk} {i o : Nat} (h : b ≠ .host) : (s.kilnTaken c k op args).rd b i o = s.rd b i o :=
  ((timed_skip_touches k).rd _ id).trans (taken_rd h)

theorem kilnTaken_get {f : Fld} {i : Nat} (h : f.blk ≠ .host) : (s.kilnTaken c k op args).get f i = s.get f i := by
  rw [State.get, kilnTaken_rd h, State.get]

theorem kilnTaken_on {f : Fld} {i : Nat} (h : f.blk ≠ .host) : (s.kilnTaken c k op args).on f i = s.on f i :=
  on_congr (kilnTaken_get h)

theorem kilnTaken_ax {a : Aux} (h : a.kind ≠ .ringFetch) (h' : a.kind ≠ .kilnT0) : (s.kilnTaken c k op args).ax a = s.ax a :=
  ((timed_skip_touches k).ax _ h').trans (taken_ax h)

theorem kilnTaken_same {p : Component} (h : p ∉ [Component.seq, .hi, .out, .regs, .aux]) :
    p.same s (s.kilnTaken c k op args) := by
  have h1 := taken_same (s := s) (c := c) (blk := .kiln) (inst := k) (op := op) (args := args) h
  have h2 := (timed_skip_touches k).same (s.taken c .kiln k op args) p (by simp) (by simp at h; tauto) (by simp at h; tauto)
  cases p <;> simp_all [Component.same, State.kilnTaken]

theorem kilnTaken_seq : (s.kilnTaken c k op args).seq = s.seq + 1 :=
  ((timed_skip_touches k).same _ .seq (by simp) (by simp) (by simp) : _ = _).trans taken_seq

theorem kilnTaken_running : (s.kilnTaken c k op args).hi.running = s.hi.running ++ [s.asRunning c .kiln k op args] :=
  (congrArg HostSt.running ((timed_skip_touches k).same _ .hi (by simp) (by simp) (by simp) : _ = _)).trans taken_running

theorem kilnTaken_geo : (s.kilnTaken c k op args).geo = s.geo := by
  have h : (s.kilnTaken c k op args).geo = s.geo ∧ (s.kilnTaken c k op args).geoNext = s.geoNext ∧
    (s.kilnTaken c k op args).geoLive = s.geoLive := kilnTaken_same (p := .geo) (by simp)
  exact h.1

theorem kilnBlocked_ne_ok (k op n : Nat) : s.kilnBlocked k op n ≠ some eOK := by
  have hstop (b : Bool) : (if b then some eSTATE else none : Option Nat) ≠ some eOK := by cases b <;> decide
  unfold State.kilnBlocked
  dsimp only
  split
  · exact hstop _
  split <;> try exact hstop _
  split
  · decide
  split <;> decide

/-- An accepted kiln command meets a kiln that its state does not refuse. -/
theorem kiln_admitted {e : Eff} (h : s.admits c .kiln k (kilnSpec k op args e)) : k < 256 ∧
    s.kilnBlocked k op (argN args 0).toNat = none ∧ (kilnSpec k op args e).argBad s = false := by
  obtain ⟨hl, -, -, harg, hb⟩ := admits_checks h
  refine ⟨of_decide_eq_true hl, ?_, harg⟩
  rcases hb with hb | hb
  · exact hb
  · exact absurd hb (kilnBlocked_ne_ok _ _ _)

/-- Only ABORT is taken while a kiln is BUSY. -/
theorem not_busy_of_unblocked {n : Nat} (hop : op ≠ 0x14) (h : s.kilnBlocked k op n = none) : s.on fKilnBusy k = false := by
  cases hb : s.on fKilnBusy k with
  | false => rfl
  | true =>
    unfold State.kilnBlocked at h
    simp [hb, hop] at h

/-! ## Completion -/

theorem runningOf_nil_of_same {t : State} (h : t.hi = s.hi) (blk : Blk) (inst : Nat) :
    t.runningOf blk inst op = s.runningOf blk inst op := by rw [State.runningOf, h, State.runningOf]

/-- CMD_TIME of a command that completes. -/
def kilnTime (s : State) (k : Nat) : W64 :=
  BitVec.ofNat 64 (min ((s.wcount + 1 - s.ax ⟨.kilnT0, k, 0⟩) / 2400) (2 ^ 32 - 1))

theorem kilnFinish_run (k op code : Nat) (v : W64) (s : State) : (kilnFinish k op code v).run s =
    if s.runningOf .kiln k op = [] then s
    else (finishAll .kiln k op code v).run ((setReg .kiln k 0x138 (kilnTime s k)).run s) := by
  split
  · exact (run_congr (f := skip) (if_pos ‹_›)).trans (skip_run s)
  · have h : (kilnFinish k op code v).run s = _ := run_congr (if_neg ‹_›)
    rw [h, doAll_cons_run, doAll_cons_run, doAll_nil_run]
    rfl

theorem kilnFinish_runningOf (k op code : Nat) (v : W64) (s : State) :
    ((kilnFinish k op code v).run s).runningOf .kiln k op = [] := by
  rw [kilnFinish_run]
  split
  · assumption
  · exact finishAll_runningOf _

theorem kilnFinish_touches (k op code : Nat) (v : W64) : (kilnFinish k op code v).Touches [.hi, .out]
    (fun r => r.blk = .host ∨ r = ⟨.kiln, k, 0x138⟩) (fun _ => False) := fun s => by
  unfold kilnFinish
  split
  · exact within_nil
  · exact within_doAll (touches_doAll_cons (touches_setReg (.inr rfl)) (touches_doAll_cons
      ((finishAll_touches _ _ _ _ _).mono (fun _ h => h) (fun _ h => .inl h) (fun _ h => h)) touches_doAll_nil))

/-! ## A kiln released -/

/-- A context belongs to a kiln. -/
def State.ctxOf (s : State) (k p c : Nat) : Prop := s.on (fCtxValid c) p = true ∧ s.get (fCtxKiln c) p = k

theorem mem_kilnCtx {x : Nat × Nat} : x ∈ s.kilnCtx k ↔ (x.1 < 48 ∧ x.2 < 16) ∧ s.ctxOf k x.1 x.2 := by
  unfold State.kilnCtx State.ctxOf
  simp only [ports48, List.mem_flatMap, List.mem_range, List.mem_filterMap, Option.ite_none_right_eq_some, Bool.and_eq_true,
    decide_eq_true_eq, Option.some.injEq]
  constructor
  · rintro ⟨p, hp, c, hc, h, rfl⟩
    exact ⟨⟨hp, hc⟩, h⟩
  · rintro ⟨⟨hp, hc⟩, h⟩
    exact ⟨x.1, hp, x.2, hc, h, rfl⟩

theorem kilnCtx_eq_nil : s.kilnCtx k = [] ↔ ∀ p c, p < 48 → c < 16 → ¬ s.ctxOf k p c := by
  rw [List.eq_nil_iff_forall_not_mem]
  exact ⟨fun h p c hp hc hx => h (p, c) (mem_kilnCtx.2 ⟨⟨hp, hc⟩, hx⟩), fun h x hx =>
    h x.1 x.2 (mem_kilnCtx.1 hx).1.1 (mem_kilnCtx.1 hx).1.2 (mem_kilnCtx.1 hx).2⟩

/-- The registers that hold a kiln's contexts, and their pages. -/
def ctxReg (r : RK) : Prop := r.blk = .slip ∧ 0x200 ≤ r.off ∧ r.off < 0x300

theorem ctxOf_congr {t : State} {p c : Nat} (h : t.rd .slip p (0x200 + 0x10 * c) = s.rd .slip p (0x200 + 0x10 * c)) :
    t.ctxOf k p c ↔ s.ctxOf k p c := by
  simp only [State.ctxOf, State.on, State.get, fCtxValid, fCtxKiln, h]
  exact Iff.rfl

theorem ctxOf_of_touches {e : Eff} {ps : List Component} {R : RK → Prop} {A : Aux → Prop} (h : e.Touches ps R A) {p c : Nat}
    (hc : c < 16) (hR : ∀ r, R r → ¬ ctxReg r) : (e.run s).ctxOf k p c ↔ s.ctxOf k p c :=
  ctxOf_congr (h.rd s fun hr => hR _ hr ⟨rfl, by simp, by show _ + _ < _; omega⟩)

/-- The registers a kiln's release may change. -/
def releaseRegs (k : Nat) (r : RK) : Prop :=
  r.blk = .slip ∨ r.blk = .pug ∨ r.blk = .tile ∨ r.blk = .router ∨ r = ⟨.kiln, k, 0x140⟩

/-- The hidden scalars a kiln's release may change. -/
def releaseAux (a : Aux) : Prop := a.kind = .ringFreed ∨ a.kind = .winKiln ∨ a.kind = .feedKiln

theorem feedsEmpty_touches (l : List (Nat × Nat)) : (feedsEmpty l).Touches [.pg] (fun r => r.blk = .pug)
    (fun a => a.kind = .ringFreed) :=
  touches_doAll_cons (touches_modPg (by simp)) (touches_doAll_cons (touches_forEach fun f _ =>
    touches_doAll_cons (touches_setF rfl) (touches_doAll_cons (touches_setF rfl) (touches_doAll_cons
      (touches_setAx rfl) touches_doAll_nil))) touches_doAll_nil)

theorem flushCtx_touches (k : Nat) : (flushCtx k).Touches [.sl, .pg] (fun r => r.blk = .slip ∨ r.blk = .pug)
    (fun a => a.kind = .ringFreed) := fun s => by
  unfold flushCtx
  exact within_doAll (touches_doAll_cons (touches_forEach fun _ _ => touches_setF (.inl rfl)) (touches_doAll_cons
    (touches_forEach fun _ _ => touches_setF (.inl rfl)) (touches_doAll_cons (touches_modSl (by simp)) (touches_doAll_cons
      ((feedsEmpty_touches _).mono (by simp) (fun _ h => .inr h) (fun _ h => h)) touches_doAll_nil))))

theorem closeXfers_touches (k code : Nat) : (closeXfers k code).Touches [.hi, .sl] (fun r => r.blk = .slip ∧
    (r.off = offErr ∨ r.off = offEvtStatus ∨ r.off = 0x398)) (fun _ => False) := fun s => by
  unfold closeXfers
  exact within_doAll (touches_doAll_cons (touches_forEach fun x _ => touches_doAll_cons (touches_recordErr ⟨rfl, .inl rfl⟩
    ⟨rfl, .inr (.inl rfl)⟩ (by simp)) (touches_doAll_cons (touches_addSat ⟨rfl, .inr (.inr rfl)⟩) touches_doAll_nil))
      (touches_doAll_cons (touches_modSl (by simp)) touches_doAll_nil))

/-- The tiles of a kiln leave it. -/
def tilesFreed (s : State) (k : Nat) : Eff :=
  forEach (s.kilnTiles k) (fun t => doAll [setF fInKiln (s.phys t) 0, setF fTileState (s.phys t) 0])

/-- The contexts of a kiln are given back. -/
def ctxFreed (s : State) (k : Nat) : Eff :=
  forEach (s.kilnCtx k) (fun c => doAll [setReg .slip c.1 (0x200 + 0x10 * c.2) 0, setReg .slip c.1 (0x208 + 0x10 * c.2) 0])

/-- The windows, feeds, reservations and peers of a kiln are given back. -/
def restFreed (s : State) (k : Nat) : List Eff :=
  [forEach (s.kilnWins k) (fun w => setAx ⟨.winKiln, w.1, w.2⟩ 0),
    forEach (s.kilnFeeds k) (fun f => doAll [setF (fFeedValid f.2) f.1 0, setAx ⟨.feedKiln, f.1, f.2⟩ 0]),
    modNet fun n => { n with rsv := n.rsv.filter fun r => r.kiln ≠ k },
    modSl fun l => { l with bud := l.bud.filter fun b => b.kiln ≠ k },
    modFb fun b => { b with refs := b.refs.filter fun r => r.1 ≠ k
                            peers := dropPeers (b.refs.filter fun r => r.1 ≠ k) b.peers },
    setReg .kiln k 0x140 0]

theorem releaseKiln_eq (k : Nat) (s : State) : releaseKiln k s =
    doAll (flushCtx k :: closeXfers k eABORTED :: tilesFreed s k :: ctxFreed s k :: restFreed s k) s := rfl

theorem releaseKiln_run (k : Nat) (s : State) : (releaseKiln k).run s = (doAll (restFreed s k)).run ((ctxFreed s k).run
    ((tilesFreed s k).run ((closeXfers k eABORTED).run ((flushCtx k).run s)))) := by
  rw [run_congr (releaseKiln_eq k s)]
  simp only [doAll_cons_run]

theorem tilesFreed_touches (s : State) (k : Nat) : (tilesFreed s k).Touches [] (fun r => r.blk = .tile ∨ r.blk = .router)
    (fun _ => False) :=
  touches_forEach fun _ _ => touches_doAll_cons (touches_setF (.inr rfl)) (touches_doAll_cons (touches_setF (.inl rfl))
    touches_doAll_nil)

theorem ctxFreed_touches (s : State) (k : Nat) : (ctxFreed s k).Touches [] (fun r => r.blk = .slip) (fun _ => False) :=
  touches_forEach fun _ _ => touches_doAll_cons (touches_setReg rfl) (touches_doAll_cons (touches_setReg rfl) touches_doAll_nil)

theorem restFreed_touches (s : State) (k : Nat) : (doAll (restFreed s k)).Touches [.net, .sl, .fb]
    (fun r => r.blk = .pug ∨ r = ⟨.kiln, k, 0x140⟩) (fun a => a.kind = .winKiln ∨ a.kind = .feedKiln) := by
  refine touches_doAll_cons (touches_forEach fun _ _ => touches_setAx (.inl rfl)) (touches_doAll_cons (touches_forEach fun _ _ =>
    touches_doAll_cons (touches_setF (.inl rfl)) (touches_doAll_cons (touches_setAx (.inr rfl)) touches_doAll_nil)) ?_)
  exact touches_doAll_cons (touches_modNet (by simp)) (touches_doAll_cons (touches_modSl (by simp)) (touches_doAll_cons
    (touches_modFb (by simp)) (touches_doAll_cons (touches_setReg (.inr rfl)) touches_doAll_nil)))

theorem releaseKiln_touches (k : Nat) : (releaseKiln k).Touches [.hi, .net, .sl, .pg, .fb] (releaseRegs k) releaseAux := by
  refine touches_of _ (releaseKiln_eq k) fun s => ?_
  refine touches_doAll_cons ((flushCtx_touches k).mono (by simp) (fun r h => ?_) fun _ h => .inl h) (touches_doAll_cons
    ((closeXfers_touches k _).mono (by simp) (fun r h => .inl h.1) (by simp)) (touches_doAll_cons
      ((tilesFreed_touches s k).mono (by simp) (fun r h => ?_) (by simp)) (touches_doAll_cons
        ((ctxFreed_touches s k).mono (by simp) (fun r h => .inl h) (by simp)) ?_)))
  · exact h.elim .inl fun h => .inr (.inl h)
  · exact .inr (.inr (h.elim .inl fun h => .inr (.inl h)))
  · exact (restFreed_touches s k).mono (by simp) (fun r h => h.elim (fun h => .inr (.inl h)) fun h => .inr (.inr (.inr (.inr h))))
      fun _ h => .inr h

theorem tilesFreed_shows {w : Nat} (hw : w ∈ s.kilnTiles k) (t : State) :
    ((tilesFreed s k).run t).get fInKiln (s.phys w) = 0 ∧ ((tilesFreed s k).run t).get fTileState (s.phys w) = 0 := by
  refine forEach_reach (P := fun u => u.get fInKiln (s.phys w) = 0 ∧ u.get fTileState (s.phys w) = 0) (Q := fun _ => True) hw
    (fun _ _ _ _ => trivial) (fun u _ => ?_) (fun w' _ u _ hu => ?_) t trivial
  all_goals rw [doAll_cons_run, doAll_cons_run, doAll_nil_run]
  · exact ⟨by rw [get_setF_off_ne (by decide), get_setF_same (by decide)]; rfl, by rw [get_setF_same (by decide)]; rfl⟩
  · refine ⟨?_, get_setF_const (by decide) (by decide) ?_⟩
    · rw [get_setF_off_ne (by decide)]
      exact get_setF_const (by decide) (by decide) hu.1
    · rw [get_setF_off_ne (by decide)]
      exact hu.2

/-- A kiln that is released leaves its tiles, which go IDLE. -/
theorem releaseKiln_tiles {w : Nat} (hw : w ∈ s.kilnTiles k) : ((releaseKiln k).run s).get fInKiln (s.phys w) = 0 ∧
    ((releaseKiln k).run s).get fTileState (s.phys w) = 0 := by
  rw [releaseKiln_run, (restFreed_touches s k).get _ (by simp [fInKiln]), (restFreed_touches s k).get _ (by simp [fTileState]),
    (ctxFreed_touches s k).get _ (by simp [fInKiln]), (ctxFreed_touches s k).get _ (by simp [fTileState])]
  exact tilesFreed_shows hw _

/-- A flush of a kiln's contexts leaves each bound as it was. -/
theorem flushCtx_keeps {g : Fld} {c p : Nat} (hg : g = fCtxValid c ∨ g = fCtxKiln c) (hc : c < 16) :
    (flushCtx k).Keeps fun s => s.get g p := by
  have hblk : g.blk = .slip := by rcases hg with rfl | rfl <;> rfl
  have hoff : g.off = 0x200 + 0x10 * c := by rcases hg with rfl | rfl <;> rfl
  have hlo : g.lo + g.w ≤ 9 := by rcases hg with rfl | rfl <;> simp [fCtxValid, fCtxKiln]
  refine keeps_of (fun s => doAll [_, _, _, _]) (fun s => rfl) fun s => ?_
  refine keeps_cons (keeps_forEach fun _ _ => setF_keeps (.inr (.inl hlo)) (by omega)) (keeps_cons (keeps_forEach fun _ _ =>
    setF_keeps (.inl (.inr (.inr ?_))) (by omega)) (keeps_cons ?_ (keeps_cons ?_ keeps_nil)))
  · rw [hoff]
    simp only [fWinState]
    omega
  · exact Eff.Touches.keeps_get (ps := [.sl]) (R := fun _ => False) (A := fun _ => False) (touches_modSl (by simp)) id
  · exact (feedsEmpty_touches _).keeps_get (by simp [hblk])

/-- A context freed is no kiln's; the others stay as they were. -/
theorem ctxFreed_ctxOf (t : State) {p c : Nat} (hc : c < 16) (hp : p < 48) (ht : t.ctxOf k p c ↔ s.ctxOf k p c) :
    ¬ ((ctxFreed s k).run t).ctxOf k p c := by
  by_cases hx : (p, c) ∈ s.kilnCtx k
  · have h0 : ((ctxFreed s k).run t).rd .slip p (0x200 + 0x10 * c) = 0 := by
      refine forEach_reach (P := fun u => u.rd .slip p (0x200 + 0x10 * c) = 0) (Q := fun _ => True) hx
        (fun _ _ _ _ => trivial) (fun u _ => ?_) (fun x hx' u _ hu => ?_) t trivial
      all_goals simp only [doAll_cons_run, doAll_nil_run, setReg_run, State.rd_apply1]
      · simp
      · split
        · rfl
        split
        · rfl
        · exact hu
    simp [State.ctxOf, State.on, State.get, fCtxValid, h0, getBits]
  · have hs : ¬ s.ctxOf k p c := fun h => hx (mem_kilnCtx.2 ⟨⟨hp, hc⟩, h⟩)
    rw [ctxOf_congr (s := t)]
    · exact fun h => hs (ht.1 h)
    · refine forEach_keep (P := fun u => u.rd .slip p (0x200 + 0x10 * c) = t.rd .slip p (0x200 + 0x10 * c)) (fun x hx' u hu => ?_) t rfl
      simp only [doAll_cons_run, doAll_nil_run, setReg_run, State.rd_apply1, RK.mk.injEq]
      have hxc := (mem_kilnCtx.1 hx').1.2
      rw [if_neg (by omega), if_neg ?_, hu]
      rintro ⟨-, h1, h2⟩
      exact hx (by rwa [h1, show c = x.2 by omega])

/-- A kiln that is released has no contexts. -/
theorem releaseKiln_ctx (k : Nat) (s : State) : ((releaseKiln k).run s).kilnCtx k = [] := by
  refine kilnCtx_eq_nil.2 fun p c hp hc => ?_
  rw [releaseKiln_run, ctxOf_of_touches (restFreed_touches s k) hc (by rintro r (h | rfl) ⟨h', -⟩ <;> simp_all)]
  refine ctxFreed_ctxOf _ hc hp ?_
  rw [ctxOf_of_touches (tilesFreed_touches s k) hc (by rintro r (h | h) ⟨h', -⟩ <;> simp_all),
    ctxOf_of_touches (closeXfers_touches k _) hc (by rintro r ⟨-, h⟩ ⟨-, h', h''⟩; simp only [offErr, offEvtStatus] at h; omega)]
  simp only [State.ctxOf, State.on, flushCtx_keeps (.inl rfl) hc s, flushCtx_keeps (.inr rfl) hc s]

end Sys2Proof.Machine
end

section
/-! PROOFS. STOP, ABORT, UNLOAD (chapter 13, R352, R355, R356, Table 13-2). -/

namespace Sys2Proof.Machine

variable {s : State} {c : CmdCtx} {k op : Nat} {args : List W64}

/-! ## UNLOAD -/

theorem emptyRegs_touches (k : Nat) : (emptyRegs k).Touches [] (fun r => r.blk = .kiln ∧ r.inst = k) (fun _ => False) := by
  unfold emptyRegs
  simp (maxDischargeDepth := 20) [fKilnState, fInStep, fRestart]

theorem emptyRegs_shows (k : Nat) (s : State) : ((emptyRegs k).run s).get fKilnState k = 0 ∧
    ((emptyRegs k).run s).rd .kiln k 0x100 = 0 ∧ ((emptyRegs k).run s).rd .kiln k 0x108 = 0 ∧
    ((emptyRegs k).run s).rd .kiln k 0x110 = 0 := by
  refine ⟨?_, ?_, ?_, ?_⟩
  · simp only [emptyRegs, doAll_cons_run, doAll_nil_run]
    rw [get_setF_ne (fun _ _ _ => by decide) (by decide), get_setF_ne (fun _ _ _ => by decide) (by decide)]
    iterate 6 rw [get_setReg_ne (by simp [fKilnState])]
    rw [get_setF_same (by decide)]
    rfl
  all_goals simp [emptyRegs, fInStep, fRestart, fKilnState]

theorem lastKiln_touches (j : Nat) : (lastKiln j).Touches [.store, .bad, .rm, .hi, .free, .pg] (fun r => r.blk = .pug)
    (fun _ => False) := fun s => by
  unfold lastKiln
  split
  · exact within_nil
  · refine within_doAll (touches_doAll_cons (touches_forEach fun b _ => ?_) (touches_doAll_cons (touches_modPg (by simp))
      (touches_doAll_cons (touches_forEach fun _ _ => touches_setF rfl) touches_doAll_nil)))
    exact touches_doAll_cons (touches_storePutOr (by simp) (by simp) (by simp) (touches_recordErrFree rfl rfl (by simp) (by simp)))
      (touches_doAll_cons (touches_whenE (touches_setReg rfl)) touches_doAll_nil)

/-- A kiln that holds its rectangle is released (R355). -/
def releaseHeld (k : Nat) : Eff := whenE (fun s => s.get fKilnState k ≠ 7) (releaseKiln k)

theorem releaseHeld_touches (k : Nat) : (releaseHeld k).Touches [.hi, .net, .sl, .pg, .fb] (releaseRegs k) releaseAux :=
  touches_whenE (releaseKiln_touches k)

theorem unloadRun_run (k : Nat) (s : State) : (unloadRun k).run s = (kilnFinish k 0x17 eOK 0).run
    ((lastKiln (s.get fKilnJob k)).run ((emptyRegs k).run ((releaseHeld k).run s))) := by
  have h : unloadRun k s = doAll [releaseHeld k, emptyRegs k, lastKiln (s.get fKilnJob k), kilnFinish k 0x17 eOK 0] s := rfl
  rw [run_congr h]
  simp only [doAll_cons_run, doAll_nil_run]

/-- The parts, registers and hidden scalars an UNLOAD may change. -/
def unloadParts : List Component := [.hi, .out, .free, .net, .sl, .pg, .fb, .store, .bad, .rm]

theorem unloadRun_only {u : State} {qs : List Component} (h : ∀ p ∈ unloadParts, p ∈ qs) (hr : .regs ∈ qs) (ha : .aux ∈ qs) :
    OnlyParts qs u ((unloadRun k).run u) := by
  rw [unloadRun_run]
  refine (((releaseHeld_touches k).only u (fun p hp => h p ?_) (.inl hr) (.inl ha)).trans ((emptyRegs_touches k).only _ (by simp)
    (.inl hr) (.inl ha))).trans (((lastKiln_touches _).only _ (fun p hp => h p ?_) (.inl hr) (.inl ha)).trans
      ((kilnFinish_touches k _ _ _).only _ (fun p hp => h p ?_) (.inl hr) (.inl ha)))
  all_goals
    simp [unloadParts] at hp ⊢
    tauto

theorem unloadRun_shows (k : Nat) (u : State) : ((unloadRun k).run u).get fKilnState k = 0 ∧
    ((unloadRun k).run u).rd .kiln k 0x100 = 0 ∧ ((unloadRun k).run u).rd .kiln k 0x108 = 0 ∧
    ((unloadRun k).run u).rd .kiln k 0x110 = 0 ∧ ((unloadRun k).run u).runningOf .kiln k 0x17 = [] := by
  obtain ⟨hst, h0, h8, h10⟩ := emptyRegs_shows k ((releaseHeld k).run u)
  have hkeep (o : Nat) (ho : o ≠ 0x138) : ((unloadRun k).run u).rd .kiln k o =
      ((emptyRegs k).run ((releaseHeld k).run u)).rd .kiln k o := by
    rw [unloadRun_run, (kilnFinish_touches k _ _ _).rd _ (by simp [ho]), (lastKiln_touches _).rd _ (by simp)]
  refine ⟨?_, (hkeep _ (by decide)).trans h0, (hkeep _ (by decide)).trans h8, (hkeep _ (by decide)).trans h10, ?_⟩
  · rw [State.get] at hst ⊢
    exact (congrArg (getBits · _ _) (hkeep _ (by decide))).trans hst
  · rw [unloadRun_run]
    exact kilnFinish_runningOf _ _ _ _ _

/-- What an UNLOAD leaves of its kiln's tiles and contexts, where it held its rectangle. -/
theorem unloadRun_releases {u : State} (h : u.get fKilnState k ≠ 7) : ((unloadRun k).run u).kilnCtx k = [] ∧
    ∀ w ∈ u.kilnTiles k, ((unloadRun k).run u).get fInKiln (u.phys w) = 0 ∧
      ((unloadRun k).run u).get fTileState (u.phys w) = 0 := by
  have hrel : (releaseHeld k).run u = (releaseKiln k).run u := by rw [releaseHeld, whenE_run, if_pos (by simpa using h)]
  have hkeep (b : Blk) (i o : Nat) (hb : b = .slip ∨ b = .tile ∨ b = .router) : ((unloadRun k).run u).rd b i o =
      ((releaseKiln k).run u).rd b i o := by
    rw [unloadRun_run, hrel, (kilnFinish_touches k _ _ _).rd _ (by rcases hb with rfl | rfl | rfl <;> simp),
      (lastKiln_touches _).rd _ (by rcases hb with rfl | rfl | rfl <;> simp),
      (emptyRegs_touches k).rd _ (by rcases hb with rfl | rfl | rfl <;> simp)]
  refine ⟨kilnCtx_eq_nil.2 fun p c hp hc => ?_, fun w hw => ?_⟩
  · rw [ctxOf_congr (hkeep _ _ _ (.inl rfl))]
    exact kilnCtx_eq_nil.1 (releaseKiln_ctx k u) p c hp hc
  · obtain ⟨hin, hst⟩ := releaseKiln_tiles hw
    rw [State.get] at hin hst ⊢
    rw [State.get]
    exact ⟨(congrArg (getBits · _ _) (hkeep _ _ _ (.inr (.inr rfl)))).trans hin,
      (congrArg (getBits · _ _) (hkeep _ _ _ (.inr (.inl rfl)))).trans hst⟩

theorem kilnTaken_tiles : (s.kilnTaken c k op args).kilnTiles k = s.kilnTiles k := by
  have h (f : Fld) (hf : f.blk = .kiln) : (s.kilnTaken c k op args).get f k = s.get f k := kilnTaken_get (by rw [hf]; decide)
  simp only [State.kilnTiles, h _ (rfl : fKilnX0.blk = _), h _ (rfl : fKilnX1.blk = _), h _ (rfl : fKilnY0.blk = _),
    h _ (rfl : fKilnY1.blk = _)]

theorem kilnTaken_phys (w : Nat) : (s.kilnTaken c k op args).phys w = s.phys w := by
  rw [State.phys, kilnTaken_geo, State.phys]

theorem unload_answers (h : s.admits c .kiln k (unloadSpec k args)) :
    Answers (.unload c k args) s fun t => t.seq = s.seq + 1 ∧ t.get fKilnState k = 0 ∧ t.rd .kiln k 0x100 = 0 ∧
      t.rd .kiln k 0x108 = 0 ∧ t.rd .kiln k 0x110 = 0 ∧ t.runningOf .kiln k 0x17 = [] ∧
      (s.get fKilnState k ≠ 7 → t.kilnCtx k = [] ∧
        ∀ w ∈ s.kilnTiles k, t.on fInKiln (s.phys w) = false ∧ t.get fTileState (s.phys w) = 0) ∧
      OnlyParts [.seq, .regs, .aux, .hi, .out, .free, .net, .sl, .pg, .fb, .store, .bad, .rm] s t := by
  refine ⟨_, congrArg Host.Outcome.next (kilnCmd_run h), ?_⟩
  obtain ⟨hst, h0, h8, h10, hrun⟩ := unloadRun_shows k (s.kilnTaken c k 0x17 args)
  refine ⟨?_, hst, h0, h8, h10, hrun, fun h7 => ?_, ?_⟩
  · exact ((unloadRun_only (qs := .regs :: .aux :: unloadParts) (fun _ hp => by simp [hp]) (by simp) (by simp)).2 .seq (by decide) : _ = _).trans
      kilnTaken_seq
  · rw [← kilnTaken_get (c := c) (k := k) (op := 0x17) (args := args) (by decide)] at h7
    obtain ⟨hctx, htiles⟩ := unloadRun_releases h7
    refine ⟨hctx, fun w hw => ?_⟩
    rw [← kilnTaken_tiles (c := c) (op := 0x17) (args := args)] at hw
    rw [← kilnTaken_phys (c := c) (k := k) (op := 0x17) (args := args) w]
    exact ⟨on_eq_false_iff.2 (htiles w hw).1, (htiles w hw).2⟩
  · exact (kilnTaken_only (by simp) (by simp) (by simp) (by simp) (by simp)).trans
      (unloadRun_only (by simp [unloadParts]) (by simp) (by simp))

/-! ## STOP -/

theorem stop_answers (h : s.admits c .kiln k (stopSpec k args)) :
    Answers (.stop c k args) s fun t => t.seq = s.seq + 1 ∧ t.get fKilnState k = 4 ∧
      t.hi.running = s.hi.running ++ [s.asRunning c .kiln k 0x13 args] ∧
      OnlyParts [.seq, .regs, .aux, .hi, .out, .free] s t ∧
      RegsKeptBut (fun b i o => (b = .kiln ∧ i = k ∧ o = 0x018) ∨ b = .host) s t := by
  have hset : (setF fKilnState k 4).Touches [] (fun r => r = ⟨.kiln, k, 0x018⟩) (fun _ => False) := touches_setF rfl
  refine ⟨_, congrArg Host.Outcome.next (kilnCmd_run h), ?_, ?_, ?_, ?_, ?_⟩
  · exact (hset.same _ .seq (by simp) (by simp) (by simp) : _ = _).trans kilnTaken_seq
  · exact get_setF_same (by decide)
  · exact (congrArg HostSt.running (hset.same _ .hi (by simp) (by simp) (by simp) : _ = _)).trans kilnTaken_running
  · exact (kilnTaken_only (by simp) (by simp) (by simp) (by simp) (by simp)).trans (hset.only _ (by simp) (by simp) (by simp))
  · refine RegsKeptBut.trans (kilnTaken_kept fun _ _ => .inr rfl) (hset.regsKept _ _ fun b i o hk => .inl ?_)
    cases hk
    exact ⟨rfl, rfl, rfl⟩

end Sys2Proof.Machine
end

section
/-! PROOFS. The accumulators a flush leaves alone: those of the tiles it does not flush (chapter 5, R128, R135). -/

namespace Sys2Proof.Machine

variable {s : State} {k p core core' a m n : Nat} {i : QInstr}

/-! ## Keys of accumulators -/

/-- An accumulator's key names its core. -/
theorem accKey_div (h : a * 256 + m * 16 + n < 4096) : accKey core a m n / 4096 = core := by
  unfold accKey
  omega

/-- An accumulator of a core is left alone by updates of the accumulators of another. -/
theorem keeps_accs {us : State → List Upd} (hcore : core ≠ core') (ha : a < 16) (hm : m < 16) (hn : n < 16)
    (h : ∀ s, ∀ u ∈ us s, ∃ key v, u = .acc key v ∧ key / 4096 = core') : Eff.Keeps (fun s => s.accRd core a m n) us := fun s => by
  refine s.applyAll_induct (fun t => t.accRd core a m n = s.accRd core a m n) (us s) (fun t u hu ht => ?_) rfl
  obtain ⟨key, v, rfl, hkey⟩ := h s u hu
  have hne : accKey core a m n ≠ key := by
    rintro rfl
    exact hcore ((accKey_div (by omega)).symm.trans hkey)
  rw [← ht]
  unfold State.accRd
  simp only [State.apply1_acc, fget_fset, if_neg hne]

/-- An effect within the quiet parts leaves every accumulator alone. -/
theorem quiet_keeps_acc {e : Eff} {R : RK → Prop} (h : e.FaultsIn quietParts R) : e.Keeps fun s => s.accRd core a m n := fun s => by
  have hacc : (e.run s).acc = s.acc := h.same s .acc (by decide) (by decide) (by decide)
  show (e.run s).accRd core a m n = s.accRd core a m n
  unfold State.accRd
  rw [hacc]

/-- What a flush touches, accumulators apart, is quiet. -/
theorem quiet_has : HasQuiet quietParts quietRegs := ⟨by decide, fun _ h => quietRegs_of_calm h⟩

/-! ## The places of a matrix instruction's elements -/

/-- An element's accumulator and rows are those of a core. -/
def ElemOut.placed (x : ElemOut) : Prop := x.a < 16 ∧ x.m < 64

theorem sb_lt (w : W128) (lo n : Nat) : sb w lo n < 2 ^ n := Nat.mod_lt _ (Nat.two_pow_pos n)

theorem sweep_placed {M N : Nat} (hM : M ≤ 64) (hN : N ≤ 64) {x : Nat × Nat × Nat} (h : x ∈ sweep M N) : x.1 < 16 ∧ x.2.1 < 64 := by
  simp only [sweep, List.mem_flatMap, List.mem_map, List.mem_range] at h
  obtain ⟨bm, hbm, bn, hbn, m, hm, n, -, rfl⟩ := h
  unfold cdiv at hbm hbn
  exact ⟨by show bm * 4 + bn < 16; omega, by show 16 * bm + m < 64; omega⟩

theorem mM_le (w : W128) : mM w ≤ 64 := sb_lt w 80 6
theorem mN_le (w : W128) : mN w ≤ 64 := sb_lt w 86 6
theorem spM_le (w : W128) : spM w ≤ 64 := sb_lt w 80 6

theorem matElems_placed {x : ElemOut} (h : x ∈ s.matElems i core) : x.placed := by
  unfold State.matElems at h
  split at h
  · simp only [State.mmaElems, List.mem_map] at h
    obtain ⟨y, hy, rfl⟩ := h
    exact sweep_placed (mM_le _) (mN_le _) hy
  · simp only [State.accwbElems, List.mem_map] at h
    obtain ⟨y, hy, rfl⟩ := h
    exact sweep_placed (mM_le _) (mN_le _) hy
  · simp only [State.smmaElems, State.smmaPart, List.mem_flatMap, List.mem_map, List.mem_range] at h
    obtain ⟨m, hm, n, -, rfl⟩ := h
    have := spM_le i.word
    exact ⟨by show 4 * (m / 16) < 16; omega, by show m < 64; omega⟩

/-! ## Segment registers -/

theorem argMin'_le {N : Nat} (l load : List Nat) (h : ∀ x ∈ l, x ≤ N) : (leastLane.argMin' l load).1 ≤ N := by
  induction l with
  | nil => exact Nat.zero_le _
  | cons x l ih =>
    have hl := ih fun y hy => h y (List.mem_cons_of_mem _ hy)
    cases l with
    | nil => exact h x (by simp)
    | cons y l =>
      simp only [leastLane.argMin']
      split
      · exact h x (by simp)
      · exact hl

theorem leastLane_le (load : List Nat) : leastLane load ≤ load.length :=
  argMin'_le _ _ fun x hx => Nat.le_of_lt (List.mem_range.1 hx)

/-- The lanes of a schedule are those of its rows. -/
theorem schedule_lane_le {cnt : List Nat} {t : Nat} {g : Nat × Nat × Nat × Nat} (h : g ∈ (schedule cnt t).2) :
    g.2.2.1 ≤ cnt.length := by
  unfold schedule at h
  generalize (cnt.zipIdx.flatMap fun x => (extraSegs x.1 t).map fun g => (x.2, g.1, g.2)) = l at h
  refine (?_ : ∀ st : List Nat × List (Nat × Nat × Nat × Nat), st.1.length = cnt.length → (∀ g ∈ st.2, g.2.2.1 ≤ cnt.length) →
    ∀ g ∈ (l.foldl (fun st x =>
      (st.1.set (leastLane st.1) (st.1.getD (leastLane st.1) 0 + x.2.2), st.2 ++ [(x.1, x.2.1, leastLane st.1, x.2.2)])) st).2,
      g.2.2.1 ≤ cnt.length) _ (by simp) (by simp) g h
  clear h g
  induction l with
  | nil => exact fun _ _ hs => hs
  | cons x l ih =>
    intro st hlen hs
    refine ih _ (by simpa using hlen) fun g hg => ?_
    rcases List.mem_append.1 hg with hg | hg
    · exact hs g hg
    · rw [List.mem_singleton.1 hg, ← hlen]
      exact leastLane_le _

theorem phaseRun_lane_le {op c T : Nat} {t : STile} {g : Nat × Nat × Nat × Nat} (h : g ∈ (phaseRun op t c T).extra) :
    g.2.2.1 ≤ t.rowCnt.length := by
  unfold phaseRun at h
  split at h
  · simp at h
  · simp at h
  · split at h <;> simp at h
  · dsimp only at h
    split at h
    · simp at h
    · exact schedule_lane_le h

theorem spTiles_rowCnt {n : Nat} {l : List Byte} {t : STile} (h : t ∈ spTiles n l) : t.rowCnt.length = 16 := by
  induction n generalizing l with
  | zero => simp [spTiles] at h
  | succ n ih =>
    rcases List.mem_cons.1 h with rfl | h
    · simp [parseHead]
    · exact ih h

/-- The segment registers of a core are accumulators of it. -/
theorem segRegs_core {M kb : Nat} (hM : M ≤ 64) {u : Upd} (hu : u ∈ s.segRegs i core M kb) :
    ∃ key v, u = .acc key v ∧ key / 4096 = core := by
  obtain ⟨x, hx, hxu⟩ := List.mem_flatMap.1 hu
  dsimp only at hxu
  split at hxu
  · simp at hxu
  · obtain ⟨g, hg, hgu⟩ := List.mem_flatMap.1 hxu
    obtain ⟨m, hm, rfl⟩ := List.mem_map.1 hgu
    have hm' := List.mem_range.1 hm
    have hlane := phaseRun_lane_le hg
    rw [spTiles_rowCnt (List.mem_of_mem_take (List.fst_mem_of_mem_zipIdx hx))] at hlane
    exact ⟨_, _, rfl, accKey_div (by omega)⟩

/-! ## An instruction that stops -/

section
variable (hcore : core ≠ core') (ha : a < 16) (hm : m < 16) (hn : n < 16)
include hcore ha hm hn

theorem matBlocks_keeps {nb rows nn : Nat} (hr : rows ≤ 64) :
    (matBlocks i core' nb rows nn).Keeps fun s => s.accRd core a m n := by
  unfold matBlocks
  dsimp only
  split
  · exact quiet_keeps_acc (R := quietRegs) (touches_matStats fun _ => rfl)
  · exact fun _ => rfl
  · exact keeps_cons (keeps_accs hcore ha hm hn fun s u hu => segRegs_core hr hu) (keeps_cons
      (quiet_keeps_acc (R := quietRegs) (touches_spStats (fun _ => rfl) (by decide))) keeps_nil)

theorem matAccs_keeps {l : List ElemOut} (hl : ∀ x ∈ l, x.placed) : (matAccs i core' l).Keeps fun s => s.accRd core a m n := by
  unfold matAccs
  split
  · exact fun _ => rfl
  · refine keeps_accs hcore ha hm hn fun s u hu => ?_
    obtain ⟨x, hx, rfl⟩ := List.mem_map.1 hu
    have hx' := (hl x hx).1
    exact ⟨_, _, rfl, accKey_div (by omega)⟩

theorem matPart_keeps {l : List ElemOut} (hl : ∀ x ∈ l, x.placed) : (matPart i core' l).Keeps fun s => s.accRd core a m n := by
  unfold matPart
  split
  · exact fun _ => rfl
  · refine keeps_forEach fun x hx s => ?_
    rw [drawFree_run]
    have hx' := (hl x hx).1
    exact keeps_accs hcore ha hm hn (fun s u hu => ⟨_, _, List.mem_singleton.1 hu, accKey_div (by omega)⟩) _

theorem matStops_keeps {l : List ElemOut} {x : MStop} (hl : ∀ y ∈ l, y.placed) :
    (matStops i core' l x).Keeps fun s => s.accRd core a m n := fun s => by
  have hrows (q : ElemOut → Bool) : (((l.filter q).map (·.m)).dedup).length ≤ 64 := by
    have hsub : ((l.filter q).map (·.m)).dedup ⊆ List.range 64 := fun y hy => by
      obtain ⟨z, hz, rfl⟩ := List.mem_map.1 (List.mem_dedup.1 hy)
      exact List.mem_range.2 (hl z (List.mem_of_mem_filter hz)).2
    simpa using ((List.nodup_dedup _).subperm hsub).length_le
  have hsub (q : ElemOut → Bool) : ∀ y ∈ l.filter q, y.placed := fun y hy => hl y (List.mem_of_mem_filter hy)
  have hquiet {e : Eff} (h : e.FaultsIn quietParts quietRegs) : e.Keeps fun s => s.accRd core a m n := quiet_keeps_acc h
  unfold matStops
  rw [drawFree_run]
  refine Eq.trans ?_ (rfl : (s.apply1 .free).accRd core a m n = _)
  generalize s.apply1 .free = t
  generalize Config.freeWord s.free = w
  dsimp only
  refine (keeps_cons (matBlocks_keeps hcore ha hm hn (hrows _)) (keeps_cons (matAccs_keeps hcore ha hm hn (hsub _)) (keeps_cons (hquiet ?_)
    (keeps_cons (hquiet (touches_countExc (fun _ => rfl) (by decide))) (keeps_cons ?_ (keeps_cons (hquiet ?_) keeps_nil)))))) t
  · refine touches_ite (touches_doAll_cons (touches_ite (touches_ite (rmwC_faults quiet_has) fun s => rmwC_faults quiet_has s) touches_skip)
      (touches_doAll_cons (matWrites_faults _ quiet_has) touches_doAll_nil)) touches_skip
  · split
    · exact fun _ => rfl
    · exact matPart_keeps hcore ha hm hn (hsub _)
  · exact touches_ite touches_skip (touches_whenE (touches_doAll_cons (touches_addFree (by decide) rfl)
      (touches_doAll_cons (touches_addFree (by decide) rfl) touches_doAll_nil)))

end

end Sys2Proof.Machine
end

section
/-! PROOFS. ABORT of a running kiln (chapter 13, R356, Table 13-2): the kiln stops, its tiles are flushed, the accumulators of other
tiles stand. -/

namespace Sys2Proof.Machine

variable {s : State} {c : CmdCtx} {k p core a m n : Nat} {args : List W64} {i : QInstr}

/-! ## A flush -/

/-- A kiln has no tile with this core. -/
def State.aloof (s : State) (core k : Nat) : Prop := ∀ w ∈ s.kilnTiles k, s.phys w ≠ core / 4

theorem aloof_of_touches {e : Eff} {ps : List Component} {R : RK → Prop} {A : Aux → Prop} (h : e.Touches ps R A)
    (hg : Component.geo ∉ ps) (hR : ¬ R ⟨.kiln, k, 0x100⟩) : (e.run s).aloof core k ↔ s.aloof core k := by
  have hgeo : (e.run s).geo = s.geo ∧ (e.run s).geoNext = s.geoNext ∧ (e.run s).geoLive = s.geoLive :=
    h.same s .geo hg (by simp) (by simp)
  have hk : (e.run s).rd .kiln k 0x100 = s.rd .kiln k 0x100 := h.rd s hR
  simp only [State.aloof, State.kilnTiles, State.phys, State.get, fKilnX0, fKilnX1, fKilnY0, fKilnY1, hgeo.1, hk]

/-- The block at which an aborted matrix instruction stops at the latest. -/
def State.abortMost (s : State) (i : QInstr) : Nat :=
  match s.matStop i (4 * i.p + i.e) (s.matElems i (4 * i.p + i.e)) with
  | some x => x.blk
  | none => (blocksOf (s.matElems i (4 * i.p + i.e))).length

/-- What an instruction leaves that an ABORT stops, by its engine. -/
def abortLeft (s : State) (i : QInstr) : Eff :=
  if !i.issued ∨ i.worked ∨ iOp i.word < 0x20 then skip
  else if i.e < 4 then matStops i (4 * i.p + i.e) (s.matElems i (4 * i.p + i.e)) { code := eABORTED, blk := s.abortMost i }
  else if iOp i.word = 0x40 then drawFree (fun w => fun s => vecCommit i (s.vopUpTo i (getBits w 0 32 % (i.beats + 1))) s)
  else skip

theorem abortLeaves_eq (i : QInstr) (s : State) : abortLeaves i s = abortLeft s i s := by
  unfold abortLeaves abortLeft
  split
  · rfl
  split
  · rfl
  split
  · rfl
  · rfl

/-- The flush of a tile, by the state it finds. -/
def tileFlushed (s : State) (p : Nat) : Eff :=
  if s.get fTileState p = 0 then skip else if s.get fTileState p = 6 then setAx ⟨.startDue, p, 0⟩ 0
  else doAll (setF fTileState p 6 :: forEach (s.tl.q.filter fun i => i.p = p) abortLeaves :: flushedRest s p)

theorem flushTile_flushed (p : Nat) (s : State) : flushTile p s = tileFlushed s p s := by
  rw [flushTile_eq, tileFlushed]
  split
  · rfl
  split <;> rfl

/-- What a step abort does to a kiln: RUNNING, DRAINING, or neither. -/
theorem abortKiln_cases (k : Nat) (s : State) : abortKiln k s = doAll [flushKiln k, setF fRestart k 1, setF fInStep k 0] s ∨
    (∃ v, abortKiln k s = doAll [flushKiln k, setF fKilnState k 5, setF fInStep k 0, finishAll .kiln k 0x13 eOK v] s) ∨
    abortKiln k s = skip s := by
  unfold abortKiln
  split
  · exact .inl rfl
  · exact .inr (.inl ⟨_, rfl⟩)
  · exact .inr (.inr rfl)

/-- The flush of a kiln: tiles, routers, contexts and transfers. -/
def kilnFlushed (s : State) (k : Nat) : Eff :=
  doAll [forEach (s.kilnTiles k) (fun t => flushTile (s.phys t)), flushNet k, flushCtx k, closeXfers k eABORTED]

theorem flushKiln_eq (k : Nat) (s : State) : flushKiln k s = kilnFlushed s k s := rfl

section
variable (ha : a < 16) (hm : m < 16) (hn : n < 16)
include ha hm hn

theorem abortLeaves_keeps (hp : i.p ≠ core / 4) : (abortLeaves i).Keeps fun s => s.accRd core a m n := by
  refine keeps_of _ (abortLeaves_eq i) fun s => ?_
  unfold abortLeft
  split
  · exact fun _ => rfl
  split
  · exact matStops_keeps (by omega) ha hm hn fun _ hy => matElems_placed hy
  split
  · exact quiet_keeps_acc (R := quietRegs) (touches_drawFree (by decide) fun w t => vecCommit_faults _ quiet_has (by decide) t)
  · exact fun _ => rfl

theorem flushTile_keeps (hp : p ≠ core / 4) : (flushTile p).Keeps fun s => s.accRd core a m n := by
  refine keeps_of _ (flushTile_flushed p) fun s => ?_
  unfold tileFlushed
  split
  · exact fun _ => rfl
  split
  · exact quiet_keeps_acc (setAx_faults rfl : Eff.FaultsIn quietParts quietRegs _)
  refine keeps_cons (quiet_keeps_acc (setF_faults rfl quiet_has)) (keeps_cons (keeps_forEach fun i hi => ?_)
    (quiet_keeps_acc (flushedRest_faults s p quiet_has)))
  exact abortLeaves_keeps ha hm hn (by rw [of_decide_eq_true (List.mem_filter.1 hi).2]; exact hp)

/-- The flush of a kiln leaves the accumulators of other tiles. -/
theorem flushKiln_acc (h : s.aloof core k) : ((flushKiln k).run s).accRd core a m n = s.accRd core a m n := by
  rw [run_congr (flushKiln_eq k s)]
  exact (keeps_cons (keeps_forEach fun w hw => flushTile_keeps ha hm hn (h w hw)) (keeps_cons
    (quiet_keeps_acc (flushNet_faults k quiet_has)) (keeps_cons (quiet_keeps_acc (flushCtx_faults k quiet_has)) (keeps_cons (quiet_keeps_acc (closeXfers_faults k _ quiet_has))
      keeps_nil)))) s

/-- What a step abort does to a kiln leaves the accumulators of other tiles. -/
theorem abortKiln_acc (h : s.aloof core k) : ((abortKiln k).run s).accRd core a m n = s.accRd core a m n := by
  have hset (f : Fld) (x : Nat) : (setF f k x).Keeps fun s => s.accRd core a m n :=
    quiet_keeps_acc (R := fun _ => True) (touches_setF trivial)
  have hfin (v : W64) : (finishAll .kiln k 0x13 eOK v).Keeps fun s => s.accRd core a m n :=
    quiet_keeps_acc (finishAll_faults quiet_has)
  have hflush := flushKiln_acc ha hm hn h
  rcases abortKiln_cases k s with h1 | ⟨v, h1⟩ | h1 <;> rw [run_congr h1]
  · rw [doAll_cons_run]
    exact (keeps_cons (hset _ _) (keeps_cons (hset _ _) keeps_nil) _).trans hflush
  · rw [doAll_cons_run]
    exact (keeps_cons (hset _ _) (keeps_cons (hset _ _) (keeps_cons (hfin v) keeps_nil)) _).trans hflush
  · rfl

/-- The registers a step abort may change: those of a flush, and the states of kilns. -/
def abortRegs (r : RK) : Prop := quietRegs r ∨ (r.blk = .kiln ∧ r.off = 0x018)

end

theorem abort_quiet : HasQuiet faultParts abortRegs := ⟨faults_quiet.1, fun _ h => .inl (quietRegs_of_calm h)⟩

theorem kilnReg_not_quiet {o : Nat} : ¬ quietRegs ⟨.kiln, k, o⟩ := by simp [quietRegs, quietReg, quietBlks]

theorem kilnGeom_not_abort : ¬ abortRegs ⟨.kiln, k, 0x100⟩ := by
  simp [abortRegs, quietRegs, quietReg, quietBlks]

section
variable (ha : a < 16) (hm : m < 16) (hn : n < 16)
include ha hm hn

theorem abortKilns_acc {l : List Nat} (h : ∀ x ∈ l, s.aloof core x) :
    ((forEach l abortKiln).run s).accRd core a m n = s.accRd core a m n := by
  refine (forEach_keep (P := fun t => t.accRd core a m n = s.accRd core a m n ∧ ∀ x ∈ l, t.aloof core x) (fun x hx t ht => ?_) s
    ⟨rfl, h⟩).1
  refine ⟨(abortKiln_acc ha hm hn (ht.2 x hx)).trans ht.1, fun y hy => ?_⟩
  exact (aloof_of_touches (abortKiln_faults x abort_quiet (by decide) (by decide) (.inr ⟨rfl, rfl⟩)) (by decide) kilnGeom_not_abort).2
    (ht.2 y hy)

/-- A step abort leaves the accumulators of the tiles that are no kiln's of the job. -/
theorem stepAbort_acc {j code : Nat} (h : ∀ x ∈ s.jobKilns j, s.aloof core x) :
    ((stepAbort j code).run s).accRd core a m n = s.accRd core a m n := by
  by_cases hv : s.ax ⟨.voted, j, 0⟩ = 1
  · rw [run_congr (f := skip) (if_pos hv), skip_run]
  have h1 : (stepAbort j code).run s = (stepAbortAt j code (s.jobPug j) none).run s := run_congr (if_neg hv)
  rw [h1]
  by_cases ho : s.ax ⟨.stepOpen, j, 0⟩ = 0
  · rw [run_congr (f := skip) (if_pos ho), skip_run]
  have hcast (d : List Byte) : (castJob j 0x11 d).FaultsIn quietParts quietRegs :=
    touches_castJob (fun _ _ h => quietRegs_lk _ _ h) (by decide) (by decide)
  have h2 : stepAbortAt j code (s.jobPug j) none s =
      doAll [castJob j 0x11 (abortBytes j code s.self (s.ax ⟨.stepNo, j, 0⟩)),
        abortLocal j (s.ax ⟨.stepNo, j, 0⟩) code (s.jobPug j) s.self none false] s := if_neg ho
  rw [run_congr h2, doAll_cons_run, doAll_cons_run, doAll_nil_run]
  generalize hd : abortBytes j code s.self (s.ax ⟨.stepNo, j, 0⟩) = d
  generalize s.ax ⟨.stepNo, j, 0⟩ = q
  have hjobs : ((castJob j 0x11 d).run s).jobKilns j = s.jobKilns j := by
    have hg (f : Fld) (x : Nat) (hf : f.blk = .kiln) : ((castJob j 0x11 d).run s).get f x = s.get f x :=
      (hcast d).get s (by rw [hf]; exact kilnReg_not_quiet)
    simp only [State.jobKilns, State.on, hg _ _ (rfl : fKilnState.blk = _), hg _ _ (rfl : fKilnJobValid.blk = _),
      hg _ _ (rfl : fKilnJob.blk = _)]
  rw [run_congr (abortLocal_eq _ _ _ _ _ _ _ _)]
  simp only [doAll_cons_run, doAll_nil_run, hjobs]
  refine (quiet_keeps_acc (abortTail_faults _ _ quiet_has) _).trans ((abortKilns_acc ha hm hn ?_).trans
    ((quiet_keeps_acc (abortHead_faults _ _ _ _ _ _ _ _ quiet_has) _).trans (quiet_keeps_acc (hcast d) _)))
  intro x hx
  refine (aloof_of_touches (abortHead_faults _ _ _ _ _ _ _ _ quiet_has) (by decide) kilnReg_not_quiet).2
    ((aloof_of_touches (hcast d) (by decide) kilnReg_not_quiet).2 (h x hx))

end

/-! ## The abort of a running kiln -/

/-- A running kiln stops, outside any step, and its STOP completes. -/
def abortStops (k : Nat) (v : W64) : Eff :=
  doAll [setF fKilnState k 5, setF fInStep k 0, setF fRestart k 0, kilnFinish k 0x13 eOK v]

/-- The registers of a kiln's own page that its ABORT may change. -/
def abortOwn (k : Nat) (r : RK) : Prop := r = ⟨.kiln, k, 0x018⟩ ∨ r = ⟨.kiln, k, 0x138⟩ ∨ r.blk = .host

theorem abortStops_touches (k : Nat) (v : W64) : (abortStops k v).Touches [.hi, .out] (abortOwn k) (fun _ => False) :=
  touches_doAll_cons (touches_setF (.inl rfl)) (touches_doAll_cons (touches_setF (.inl rfl)) (touches_doAll_cons
    (touches_setF (.inl rfl)) (touches_doAll_cons ((kilnFinish_touches k _ _ _).mono (fun _ h => h)
      (fun _ h => h.elim (fun h => .inr (.inr h)) fun h => .inr (.inl h)) (fun _ h => h)) touches_doAll_nil)))

theorem abortStops_shows (k : Nat) (v : W64) (s : State) : ((abortStops k v).run s).get fKilnState k = 5 ∧
    ((abortStops k v).run s).get fInStep k = 0 ∧ ((abortStops k v).run s).runningOf .kiln k 0x13 = [] := by
  simp only [abortStops, doAll_cons_run, doAll_nil_run]
  refine ⟨?_, ?_, kilnFinish_runningOf _ _ _ _ _⟩
  · rw [(kilnFinish_touches k _ _ _).get _ (by simp [fKilnState]), get_setF_ne (fun _ _ _ => by decide) (by decide),
      get_setF_ne (fun _ _ _ => by decide) (by decide), get_setF_same (by decide)]
    rfl
  · rw [(kilnFinish_touches k _ _ _).get _ (by simp [fInStep]), get_setF_ne (fun _ _ _ => by decide) (by decide),
      get_setF_same (by decide)]
    rfl

theorem abortDone_touches (k : Nat) : (abortDone k).Touches [.hi, .out] (fun r => r.blk = .host ∨ r = ⟨.kiln, k, 0x138⟩)
    (fun _ => False) := fun s => by
  unfold abortDone
  split
  · exact within_nil
  · exact kilnFinish_touches k _ _ _ s

/-- The end of an ABORT: its time is noted, and it completes where no tile flushes. -/
def abortEnd (k t : Nat) : Eff := doAll [setAx ⟨.kilnT0, k, 0⟩ t, abortDone k]

theorem abortEnd_touches (k t : Nat) : (abortEnd k t).Touches [.hi, .out] (fun r => r.blk = .host ∨ r = ⟨.kiln, k, 0x138⟩)
    (fun _ => True) :=
  touches_doAll_cons (touches_setAx trivial) (touches_doAll_cons ((abortDone_touches k).mono (fun _ h => h) (fun _ h => h) (by simp))
    touches_doAll_nil)

theorem abortRun_run (hb : s.on fKilnBusy k = false) (hst : s.get fKilnState k = 3 ∨ s.get fKilnState k = 4) :
    (abortRun k).run s = (abortEnd k (s.wcount + 1)).run ((stepAbort (s.get fKilnJob k) eABORTED).run ((flushKiln k).run
      ((abortStops k (BitVec.ofNat 64 (s.ax ⟨.kilnLast, k, 0⟩))).run s))) := by
  have h2 : s.get fKilnState k ≠ 2 := by omega
  have heq : abortRun k s = doAll [doAll [setF fKilnState k 5, setF fInStep k 0, setF fRestart k 0,
      kilnFinish k 0x13 eOK (BitVec.ofNat 64 (s.ax ⟨.kilnLast, k, 0⟩)), flushKiln k, stepAbort (s.get fKilnJob k) eABORTED],
      setAx ⟨.kilnT0, k, 0⟩ (s.wcount + 1), abortDone k] s := by
    unfold abortRun
    simp only [hb, h2, hst, Bool.false_eq_true, if_false, if_true]
  rw [run_congr heq]
  simp only [abortStops, abortEnd, doAll_cons_run, doAll_nil_run]

/-- What leaves a kiln's own page alone, the states of other kilns apart, leaves a kiln that is neither RUNNING nor DRAINING. -/
theorem abortKilns_own {l : List Nat} {s : State} (h5 : s.get fKilnState k = 5) (h0 : s.get fInStep k = 0) :
    ((forEach l abortKiln).run s).get fKilnState k = 5 ∧ ((forEach l abortKiln).run s).get fInStep k = 0 := by
  refine forEach_keep (P := fun t => t.get fKilnState k = 5 ∧ t.get fInStep k = 0) (fun x hx t ht => ?_) s ⟨h5, h0⟩
  by_cases hxk : x = k
  · have hskip : abortKiln x t = skip t := by
      unfold abortKiln
      rw [hxk, ht.1]
      rfl
    rw [run_congr hskip]
    exact ht
  · have htouch : (abortKiln x).FaultsIn faultParts (fun r => quietRegs r ∨ r = ⟨.kiln, x, 0x018⟩) :=
      abortKiln_faults x ⟨faults_quiet.1, fun _ h => .inl (quietRegs_of_calm h)⟩ (by decide) (by decide) (.inr rfl)
    have hno (o : Nat) : ¬ (quietRegs ⟨.kiln, k, o⟩ ∨ (⟨.kiln, k, o⟩ : RK) = ⟨.kiln, x, 0x018⟩) := by
      simp [quietRegs, quietReg, quietBlks, Ne.symm hxk]
    exact ⟨(htouch.get t (hno _)).trans ht.1, (htouch.get t (hno _)).trans ht.2⟩

end Sys2Proof.Machine
end

section
/-! SUPPORT. Commands under way leave the list and never join it but at their admission: what a flush, a step abort and a commit do
with those that run (R54). -/

namespace Sys2Proof.Machine

variable {s : State} {k p core : Nat} {i : QInstr}

/-- An effect adds no running command. -/
def Eff.Drops (e : Eff) : Prop := ∀ s, ∀ r ∈ (e.run s).hi.running, r ∈ s.hi.running

/-- Every part but the host interface's. -/
def hostless : List Component :=
  [.out, .free, .tl, .sp, .ecc, .acc, .row, .rng, .net, .sl, .pg, .gl, .fb, .store, .bad, .rm, .seq, .imem, .pw, .ft, .sg, .geo]

abbrev Eff.Hostless (e : Eff) : Prop := e.Touches hostless (fun _ => True) (fun _ => True)

theorem drops_of_touches {ps : List Component} {R : RK → Prop} {A : Aux → Prop} {e : Eff} (h : e.Touches ps R A)
    (hh : Component.hi ∉ ps) : e.Drops := fun s r hr => by
  have hhi : (e.run s).hi = s.hi := h.same s .hi hh (by simp) (by simp)
  rwa [hhi] at hr

theorem drops_hostless {e : Eff} (h : e.Hostless) : e.Drops := drops_of_touches h (by decide)

theorem drops_skip : skip.Drops := fun _ _ h => h

theorem drops_nil : (doAll []).Drops := fun _ _ h => h

theorem drops_cons {e : Eff} {es : List Eff} (h : e.Drops) (hs : (doAll es).Drops) : (doAll (e :: es)).Drops := fun s r hr => by
  rw [doAll_cons_run] at hr
  exact h s r (hs _ r hr)

theorem drops_forEach {β : Type} {l : List β} {f : β → Eff} (h : ∀ b ∈ l, (f b).Drops) : (forEach l f).Drops := fun s =>
  forEach_keep (P := fun t => ∀ r ∈ t.hi.running, r ∈ s.hi.running) (fun b hb t ht r hr => ht r (h b hb t r hr)) s fun _ h => h

theorem drops_whenE {c : State → Bool} {e : Eff} (h : e.Drops) : (whenE c e).Drops := fun s r hr => by
  rw [whenE_run] at hr
  split at hr
  · exact h s r hr
  · exact hr

theorem drops_ite {c : Prop} [Decidable c] {e f : Eff} (he : e.Drops) (hf : f.Drops) : Eff.Drops (if c then e else f) := by
  split
  · exact he
  · exact hf

theorem drops_look {β : Type} {g : State → β} {f : β → Eff} (h : ∀ b, (f b).Drops) : (look g f).Drops :=
  fun s r hr => h (g s) s r hr

theorem drops_withSome {β : Type} {o : Option β} {n : Eff} {f : β → Eff} (hn : n.Drops) (h : ∀ b, (f b).Drops) :
    (withSome o n f).Drops := by
  cases o
  · exact hn
  · exact h _

theorem drops_of (f : State → Eff) {e : Eff} (he : ∀ s, e s = f s s) (h : ∀ s, (f s).Drops) : e.Drops := fun s r hr => by
  rw [run_congr (he s)] at hr
  exact h s s r hr

theorem drops_drawFree {f : W64 → Eff} (h : ∀ w, (f w).Drops) : (drawFree f).Drops := fun s r hr => by
  rw [drawFree_run] at hr
  simpa using h _ _ r hr

theorem drops_setReg {blk : Blk} {inst off : Nat} {v : W64} : (setReg blk inst off v).Drops := fun _ _ h => h
theorem drops_setF {f : Fld} {inst x : Nat} : (setF f inst x).Drops := fun _ _ h => h
theorem drops_addSat {f : Fld} {inst n : Nat} : (addSat f inst n).Drops := fun _ _ h => h
theorem drops_setAx {a : Aux} {v : Nat} : (setAx a v).Drops := fun _ _ h => h

theorem drops_setEvt {blk : Blk} {inst bit : Nat} : (setEvt blk inst bit).Drops := fun s r hr => by
  obtain ⟨new, hnew⟩ := setEvtI_hi s blk inst bit 0
  rwa [setEvt, hnew] at hr

theorem drops_recordErr {blk : Blk} {inst code info : Nat} : (recordErr blk inst code info).Drops := fun s r hr => by
  obtain ⟨new, hnew⟩ := recordErr_hi s blk inst code info
  rwa [hnew] at hr

theorem drops_recordErrFree {blk : Blk} {inst code : Nat} : (recordErrFree blk inst code).Drops :=
  drops_drawFree fun _ => drops_recordErr

theorem drops_finishAll {blk : Blk} {inst op code : Nat} {v : W64} : (finishAll blk inst op code v).Drops := fun s r hr => by
  rw [finishAll_running] at hr
  exact List.mem_of_mem_filter hr

/-- No command of a kind runs where an effect that adds none has run. -/
theorem Eff.Drops.runningOf {e : Eff} (h : e.Drops) {blk : Blk} {inst op : Nat} (hs : s.runningOf blk inst op = []) :
    (e.run s).runningOf blk inst op = [] := by
  rw [State.runningOf, List.filter_eq_nil_iff] at hs ⊢
  exact fun r hr => hs r (h s r hr)

/-! ## A flush -/

theorem countExc_drops {l : List ElemOut} : (countExc core i l).Drops :=
  drops_forEach fun _ _ => drops_cons (drops_hostless (touches_countFl trivial)) (drops_cons (drops_whenE (drops_cons drops_setReg
    (drops_cons drops_setEvt drops_nil))) drops_nil)

theorem drops_append {es fs : List Eff} (he : (doAll es).Drops) (hf : (doAll fs).Drops) : (doAll (es ++ fs)).Drops := by
  have happ (s : State) : (doAll (es ++ fs)).run s = (doAll fs).run ((doAll es).run s) := by
    clear he hf
    induction es generalizing s with
    | nil => rfl
    | cons e es ih => rw [List.cons_append, doAll_cons_run, doAll_cons_run, ih]
  exact fun s r hr => he s r (hf _ r (happ s ▸ hr))

theorem vecCounted_drops {v : VAcc} : (doAll (vecCounted i v)).Drops :=
  drops_cons drops_addSat (drops_cons (drops_forEach fun _ _ => drops_cons (drops_hostless (touches_countFl trivial)) (drops_cons
    (drops_whenE (drops_cons drops_setReg (drops_cons drops_setReg (drops_cons drops_setEvt drops_nil)))) drops_nil))
    (drops_cons (drops_whenE (drops_cons drops_addSat (drops_cons drops_addSat (drops_cons (drops_hostless
      (touches_addFree (by decide) trivial)) drops_nil)))) drops_nil))

theorem pushRegs_any (c : Opd) : c.pushRegs (fun _ => True) (fun _ => True) p := fun _ _ _ => ⟨trivial, trivial⟩

theorem vecCommit_drops {v : VAcc} : (vecCommit i v).Drops :=
  drops_of _ (vecCommit_eq i v) fun s => drops_append (drops_hostless (touches_vecStored s (by decide) trivial trivial (pushRegs_any _)
    fun _ => trivial)) vecCounted_drops

theorem hostless_quiet : HasQuiet hostless (fun _ => True) := ⟨by decide, fun _ _ => trivial⟩

/-- What changes only parts of a fault that are not the host interface's adds no command. -/
theorem drops_mute {e : Eff} (h : e.FaultsIn hostless (fun _ => True)) : e.Drops := drops_of_touches h (by decide)

theorem matBlocks_drops {nb rows n : Nat} : (matBlocks i core nb rows n).Drops := drops_mute (matBlocks_faults _ _ _ hostless_quiet)

theorem matStops_drops {l : List ElemOut} {x : MStop} : (matStops i core l x).Drops := by
  refine drops_drawFree fun w => ?_
  dsimp only
  refine drops_cons matBlocks_drops (drops_cons (drops_mute (matAccs_faults _)) (drops_cons (drops_mute ?_) (drops_cons
    countExc_drops (drops_cons (drops_ite drops_skip (drops_mute (matPart_faults _ hostless_quiet))) (drops_cons (drops_mute ?_)
      drops_nil)))))
  · exact touches_ite (touches_doAll_cons (touches_ite (touches_ite (rmwC_faults hostless_quiet) fun s => rmwC_faults hostless_quiet s)
      touches_skip) (touches_doAll_cons (matWrites_faults _ hostless_quiet) touches_doAll_nil)) touches_skip
  · exact touches_ite touches_skip (touches_whenE (touches_doAll_cons (touches_addFree (by decide) trivial)
      (touches_doAll_cons (touches_addFree (by decide) trivial) touches_doAll_nil)))

theorem abortLeaves_drops : (abortLeaves i).Drops := drops_of _ (abortLeaves_eq i) fun s => by
  unfold abortLeft
  split
  · exact drops_skip
  split
  · exact matStops_drops
  split
  · exact drops_drawFree fun w => drops_of (fun s => vecCommit i (s.vopUpTo i (getBits w 0 32 % (i.beats + 1)))) (fun _ => rfl)
      fun _ => vecCommit_drops
  · exact drops_skip

theorem flushedRest_drops (s : State) (p : Nat) : (doAll (flushedRest s p)).Drops := by
  refine drops_cons (drops_forEach fun j _ => drops_cons (drops_mute (dmaWriteBack0_faults _ _ _ _ hostless_quiet)) (drops_cons
    drops_setReg (drops_cons drops_recordErr (drops_cons (drops_whenE (drops_mute (countWedge_faults rfl hostless_quiet)))
      drops_nil)))) (drops_cons (drops_hostless (touches_modTl (by decide))) (drops_cons (drops_mute (tbsEmpty_faults hostless_quiet)) ?_))
  refine drops_cons (drops_whenE drops_setF) (drops_cons drops_setAx (drops_cons drops_setAx (drops_cons drops_setAx (drops_cons
    drops_setF ?_))))
  exact drops_cons (drops_forEach fun q _ => drops_cons (drops_whenE (drops_mute (ringEmpty_faults hostless_quiet))) (drops_cons
    drops_setAx drops_nil)) (drops_cons (drops_forEach fun _ _ => drops_setAx) drops_nil)

theorem flushTile_drops : (flushTile p).Drops := drops_of _ (flushTile_flushed p) fun s =>
  drops_ite drops_skip (drops_ite drops_setAx (drops_cons drops_setF (drops_cons (drops_forEach fun _ _ => abortLeaves_drops)
    (flushedRest_drops s p))))

theorem closeXfers_drops (k code : Nat) : (closeXfers k code).Drops :=
  drops_of (fun s => doAll [forEach (s.sl.xfers.filter fun x => x.kiln = k) (fun x =>
      doAll [recordErr .slip x.port code x.src, addSat fXferClosed x.port 1]),
    modSl fun l => { l with xfers := l.xfers.filter fun x => x.kiln ≠ k }]) (fun _ => rfl) fun _ =>
    drops_cons (drops_forEach fun _ _ => drops_cons drops_recordErr (drops_cons drops_addSat drops_nil)) (drops_cons
      (drops_hostless (touches_modSl (by decide))) drops_nil)

theorem flushKiln_drops : (flushKiln k).Drops := drops_of _ (flushKiln_eq k) fun _ =>
  drops_cons (drops_forEach fun _ _ => flushTile_drops) (drops_cons (drops_mute (flushNet_faults k hostless_quiet)) (drops_cons
    (drops_mute (flushCtx_faults k hostless_quiet)) (drops_cons (closeXfers_drops k _) drops_nil)))

/-! ## A step abort -/

theorem abortKiln_drops : (abortKiln k).Drops := fun s r hr => by
  rcases abortKiln_cases k s with h1 | ⟨v, h1⟩ | h1 <;> rw [run_congr h1] at hr
  · exact drops_cons flushKiln_drops (drops_cons drops_setF (drops_cons drops_setF drops_nil)) s r hr
  · exact drops_cons flushKiln_drops (drops_cons drops_setF (drops_cons drops_setF (drops_cons drops_finishAll drops_nil))) s r hr
  · exact hr

theorem drops_storePutOr {a : Nat} {data : List Byte} {lost : Eff} (h : lost.Drops) : (storePutOr a data lost).Drops := fun s r hr => by
  by_cases hb : s.badPart a data.length = true
  · rw [run_congr (f := lost) (if_pos hb)] at hr
    exact h s r hr
  · have hput : Eff.Hostless (storePutOr a data skip) := touches_storePutOr (by decide) (by decide) (by decide) touches_skip
    rw [run_congr (f := storePutOr a data skip) ((if_neg hb).trans (if_neg hb).symm)] at hr
    exact drops_hostless hput s r hr

theorem abortHead_drops (s : State) (j n code u origin : Nat) (info : Option Nat) (rcvd : Bool) :
    (abortHead s j n code u origin info rcvd).Drops := by
  have hstatus (b : Bkt) : (bktStatus b).Drops := drops_storePutOr drops_recordErrFree
  refine drops_cons (drops_withSome drops_recordErrFree fun _ => drops_recordErr) (drops_cons drops_setReg (drops_cons drops_setEvt ?_))
  refine drops_cons (drops_forEach fun b _ => ?_) (drops_cons (drops_mute (feedsEmpty_faults _ hostless_quiet)) (drops_cons
    (drops_hostless (touches_modFb (by decide))) drops_nil))
  exact drops_cons (drops_mute (putBkt_faults _)) (drops_cons (hstatus _) (drops_cons (drops_whenE drops_setReg)
    drops_nil))

theorem abortLocal_drops (j n code u origin : Nat) (info : Option Nat) (rcvd : Bool) :
    (abortLocal j n code u origin info rcvd).Drops := drops_of _ (abortLocal_eq j n code u origin info rcvd) fun s =>
  drops_cons (abortHead_drops s _ _ _ _ _ _ _) (drops_cons (drops_forEach fun _ _ => abortKiln_drops) (drops_cons
    (drops_mute (abortTail_faults _ _ hostless_quiet)) drops_nil))

theorem castJob_drops (j typ : Nat) (d : List Byte) : (castJob j typ d).Drops :=
  drops_hostless (touches_castJob (fun _ _ _ => trivial) (by decide) (by decide))

theorem stepAbortAt_cases (j code u : Nat) (info : Option Nat) (s : State) : stepAbortAt j code u info s = skip s ∨
    ∃ d n o, stepAbortAt j code u info s = doAll [castJob j 0x11 d, abortLocal j n code u o info false] s := by
  unfold stepAbortAt
  split
  · exact .inl rfl
  · exact .inr ⟨_, _, _, rfl⟩

theorem stepAbortAt_drops (j code u : Nat) (info : Option Nat) : (stepAbortAt j code u info).Drops := fun s r hr => by
  rcases stepAbortAt_cases j code u info s with h | ⟨d, n, o, h⟩ <;> rw [run_congr h] at hr
  · exact hr
  · exact drops_cons (castJob_drops _ _ _) (drops_cons (abortLocal_drops _ _ _ _ _ _ _) drops_nil) s r hr

theorem stepAbort_drops (j code : Nat) : (stepAbort j code).Drops := fun s r hr => by
  by_cases hv : s.ax ⟨.voted, j, 0⟩ = 1
  · rwa [run_congr (f := skip) (if_pos hv), skip_run] at hr
  · rw [run_congr (f := stepAbortAt j code (s.jobPug j) none) (if_neg hv)] at hr
    exact stepAbortAt_drops _ _ _ _ s r hr

theorem kilnFinish_drops (k op code : Nat) (v : W64) : (kilnFinish k op code v).Drops := fun s r hr => by
  rw [kilnFinish_run] at hr
  split at hr
  · exact hr
  · exact drops_setReg (blk := .kiln) (inst := k) (off := 0x138) (v := kilnTime s k) s r (drops_finishAll _ r hr)

theorem abortDone_drops (k : Nat) : (abortDone k).Drops := fun s r hr => by
  by_cases h : s.runningOf .kiln k 0x14 = [] ∨ (s.kilnTiles k).any (fun t => s.get fTileState (s.phys t) = 6)
  · rwa [run_congr (f := skip) (if_pos h), skip_run] at hr
  · rw [run_congr (f := kilnFinish k 0x14 eOK 0) (if_neg h)] at hr
    exact kilnFinish_drops _ _ _ _ s r hr

end Sys2Proof.Machine
end

section
/-! PROOFS. STOP, ABORT, UNLOAD settled (chapter 13, R352, R356, Table 13-2). -/

namespace Sys2Proof.Machine

variable {s : State} {c : CmdCtx} {k core : Nat} {args : List W64}

theorem fault_has_quiet : HasQuiet faultParts quietRegs := ⟨faults_quiet.1, fun _ h => quietRegs_of_calm h⟩

theorem flushKiln_quiet (k : Nat) : (flushKiln k).FaultsIn faultParts quietRegs := flushKiln_faults k fault_has_quiet

/-- A step abort leaves a kiln that has stopped as it is. -/
theorem stepAbort_own {j code : Nat} (h : s.get fKilnState k = 5 ∧ s.get fInStep k = 0) :
    ((stepAbort j code).run s).get fKilnState k = 5 ∧ ((stepAbort j code).run s).get fInStep k = 0 := by
  have hquiet {e : Eff} (he : e.FaultsIn quietParts quietRegs) {t : State} (ht : t.get fKilnState k = 5 ∧ t.get fInStep k = 0) :
      (e.run t).get fKilnState k = 5 ∧ (e.run t).get fInStep k = 0 :=
    ⟨(he.get t kilnReg_not_quiet).trans ht.1, (he.get t kilnReg_not_quiet).trans ht.2⟩
  by_cases hv : s.ax ⟨.voted, j, 0⟩ = 1
  · rwa [run_congr (f := skip) (if_pos hv), skip_run]
  rw [run_congr (f := stepAbortAt j code (s.jobPug j) none) (if_neg hv)]
  rcases stepAbortAt_cases j code (s.jobPug j) none s with h1 | ⟨d, n, o, h1⟩ <;> rw [run_congr h1]
  · exact h
  · rw [doAll_cons_run, doAll_cons_run, doAll_nil_run, run_congr (abortLocal_eq _ _ _ _ _ _ _ _)]
    rw [doAll_cons_run, doAll_cons_run, doAll_cons_run, doAll_nil_run]
    have h2 := hquiet (touches_castJob (j := j) (typ := 0x11) (data := d) (fun _ _ h => quietRegs_lk _ _ h) (by decide) (by decide)) h
    have h3 := hquiet (abortHead_faults ((castJob j 0x11 d).run s) j n code (s.jobPug j) o none false quiet_has) h2
    exact hquiet (abortTail_faults j n quiet_has) (abortKilns_own h3.1 h3.2)

/-- Who has a tile of a kiln depends on the kiln's rectangle and the published geometry. -/
theorem aloof_jobs {j : Nat} {v : W64} (h : ∀ x ∈ k :: s.jobKilns j, s.aloof core x) :
    ∀ x ∈ ((abortStops k v).run s).jobKilns j, ((abortStops k v).run s).aloof core x := by
  intro x hx
  have htouch := abortStops_touches k v
  rw [aloof_of_touches htouch (by decide) (by simp [abortOwn])]
  by_cases hxk : x = k
  · exact h x (by simp [hxk])
  · refine h x (List.mem_cons_of_mem _ ?_)
    have hg (f : Fld) (hf : f.blk = .kiln) : ((abortStops k v).run s).get f x = s.get f x :=
      htouch.get s (by rw [hf]; simp [abortOwn, hxk])
    simpa only [State.jobKilns, List.mem_filter, State.on, hg _ (rfl : fKilnState.blk = _), hg _ (rfl : fKilnJobValid.blk = _),
      hg _ (rfl : fKilnJob.blk = _)] using hx

theorem aloof_taken {x op : Nat} : (s.taken c .kiln k op args).aloof core x ↔ s.aloof core x := by
  have h := takeCmd_touches c (ctxWord0 c .kiln k op) .kiln k op args
  exact aloof_of_touches h (by decide) (by simp)

theorem jobKilns_taken {j op : Nat} : (s.taken c .kiln k op args).jobKilns j = s.jobKilns j := by
  have hg (f : Fld) (x : Nat) (hf : f.blk = .kiln) : (s.taken c .kiln k op args).get f x = s.get f x := taken_get (by rw [hf]; decide)
  simp only [State.jobKilns, State.on, hg _ _ (rfl : fKilnState.blk = _), hg _ _ (rfl : fKilnJobValid.blk = _),
    hg _ _ (rfl : fKilnJob.blk = _)]

/-- What an ABORT of a running kiln leaves. -/
theorem abortRun_shows {u : State} (hb : u.on fKilnBusy k = false) (hst : u.get fKilnState k = 3 ∨ u.get fKilnState k = 4) :
    ((abortRun k).run u).get fKilnState k = 5 ∧ ((abortRun k).run u).on fInStep k = false ∧
      ((abortRun k).run u).runningOf .kiln k 0x13 = [] ∧ ((abortRun k).run u).geo = u.geo ∧ ((abortRun k).run u).imem = u.imem ∧
      ((abortRun k).run u).seq = u.seq := by
  rw [abortRun_run hb hst]
  generalize BitVec.ofNat 64 (u.ax ⟨.kilnLast, k, 0⟩) = v
  obtain ⟨h5, h0, hrun⟩ := abortStops_shows k v u
  have hstops := abortStops_touches k v
  have hflush := flushKiln_quiet k
  have habort := stepAbort_faults (u.get fKilnJob k) eABORTED
  have hend := abortEnd_touches k (u.wcount + 1)
  have hown := stepAbort_own (j := u.get fKilnJob k) (code := eABORTED) ⟨(hflush.get _ kilnReg_not_quiet).trans h5,
    (hflush.get _ kilnReg_not_quiet).trans h0⟩
  have hendDrops : (abortEnd k (u.wcount + 1)).Drops := drops_cons drops_setAx (drops_cons (abortDone_drops k) drops_nil)
  refine ⟨?_, on_eq_false_iff.2 ?_, hendDrops.runningOf ((stepAbort_drops _ _).runningOf (flushKiln_drops.runningOf hrun)), ?_, ?_, ?_⟩
  · exact (hend.get _ (by simp [fKilnState])).trans hown.1
  · exact (hend.get _ (by simp [fInStep])).trans hown.2
  · have hgeo {e : Eff} {ps : List Component} {R : RK → Prop} {A : Aux → Prop} (he : e.Touches ps R A) (hg : Component.geo ∉ ps)
        (t : State) : (e.run t).geo = t.geo := by
      have h : (e.run t).geo = t.geo ∧ (e.run t).geoNext = t.geoNext ∧ (e.run t).geoLive = t.geoLive :=
        he.same t .geo hg (by simp) (by simp)
      exact h.1
    rw [hgeo hend (by decide), hgeo habort (by decide), hgeo hflush (by decide), hgeo hstops (by decide)]
  · rw [(hend.same _ .imem (by decide) (by decide) (by decide) : _ = _), (habort.same _ .imem (by decide) (by decide) (by decide) : _ = _),
      (hflush.same _ .imem (by decide) (by decide) (by decide) : _ = _), (hstops.same _ .imem (by decide) (by decide) (by decide) : _ = _)]
  · rw [(hend.same _ .seq (by decide) (by decide) (by decide) : _ = _), (habort.same _ .seq (by decide) (by decide) (by decide) : _ = _),
      (hflush.same _ .seq (by decide) (by decide) (by decide) : _ = _), (hstops.same _ .seq (by decide) (by decide) (by decide) : _ = _)]

/-- The accumulators of tiles that are no kiln's of the job stand as a kiln is aborted. -/
theorem abortRun_acc {u : State} (hb : u.on fKilnBusy k = false) (hst : u.get fKilnState k = 3 ∨ u.get fKilnState k = 4)
    {a m n : Nat} (ha : a < 16) (hm : m < 16) (hn : n < 16) (h : ∀ x ∈ k :: u.jobKilns (u.get fKilnJob k), u.aloof core x) :
    ((abortRun k).run u).accRd core a m n = u.accRd core a m n := by
  rw [abortRun_run hb hst]
  generalize BitVec.ofNat 64 (u.ax ⟨.kilnLast, k, 0⟩) = v
  have hstops := abortStops_touches k v
  have hflush := flushKiln_quiet k
  have hkept {e : Eff} {ps : List Component} {R : RK → Prop} {A : Aux → Prop} (he : e.Touches ps R A) (hg : Component.acc ∉ ps)
      (t : State) : (e.run t).accRd core a m n = t.accRd core a m n := by
    have hacc : (e.run t).acc = t.acc := he.same t .acc hg (by simp) (by simp)
    unfold State.accRd
    rw [hacc]
  rw [hkept (abortEnd_touches k _) (by decide), stepAbort_acc ha hm hn, flushKiln_acc ha hm hn, hkept hstops (by decide)]
  · exact (aloof_of_touches hstops (by decide) (by simp [abortOwn])).2 (h k (by simp))
  · intro x hx
    have hjobs : ((flushKiln k).run ((abortStops k v).run u)).jobKilns (u.get fKilnJob k) =
        ((abortStops k v).run u).jobKilns (u.get fKilnJob k) := by
      have hg (f : Fld) (x : Nat) (hf : f.blk = .kiln) : ((flushKiln k).run ((abortStops k v).run u)).get f x =
          ((abortStops k v).run u).get f x := hflush.get _ (by rw [hf]; exact kilnReg_not_quiet)
      simp only [State.jobKilns, State.on, hg _ _ (rfl : fKilnState.blk = _), hg _ _ (rfl : fKilnJobValid.blk = _),
        hg _ _ (rfl : fKilnJob.blk = _)]
    rw [hjobs] at hx
    exact (aloof_of_touches hflush (by decide) kilnReg_not_quiet).2 (aloof_jobs h x hx)

theorem abort_answers (h : s.admits c .kiln k (abortSpec k args)) (hb : s.on fKilnBusy k = false)
    (hst : s.get fKilnState k = 3 ∨ s.get fKilnState k = 4) :
    Answers (.abort c k args) s fun t => t.seq = s.seq + 1 ∧ t.get fKilnState k = 5 ∧ t.on fInStep k = false ∧
      t.runningOf .kiln k 0x13 = [] ∧ t.geo = s.geo ∧ t.imem = s.imem ∧
      (∀ core a m n, (∀ x ∈ k :: s.jobKilns (s.get fKilnJob k), ∀ w ∈ s.kilnTiles x, s.phys w ≠ core / 4) →
        a < 16 → m < 16 → n < 16 → t.accRd core a m n = s.accRd core a m n) := by
  have hb' : (s.taken c .kiln k 0x14 args).on fKilnBusy k = false := (taken_on (by decide)).trans hb
  have hst' : (s.taken c .kiln k 0x14 args).get fKilnState k = 3 ∨ (s.taken c .kiln k 0x14 args).get fKilnState k = 4 := by
    rwa [taken_get (by decide)]
  have hgeo : (s.taken c .kiln k 0x14 args).geo = s.geo ∧ (s.taken c .kiln k 0x14 args).geoNext = s.geoNext ∧
    (s.taken c .kiln k 0x14 args).geoLive = s.geoLive := taken_same (p := .geo) (by simp)
  have himem : (s.taken c .kiln k 0x14 args).imem = s.imem := taken_same (p := .imem) (by simp)
  have hacc : (s.taken c .kiln k 0x14 args).acc = s.acc := taken_same (p := .acc) (by simp)
  obtain ⟨h5, h0, hrun, hg, hi, hseq⟩ := abortRun_shows hb' hst'
  refine ⟨_, congrArg Host.Outcome.next (admitCmd_run (op := 0x14) (args := args) h), hseq.trans taken_seq, h5, h0, hrun,
    hg.trans hgeo.1, hi.trans himem, fun core a m n hw ha hm hn => ?_⟩
  refine (abortRun_acc hb' hst' ha hm hn fun x hx => ?_).trans (by unfold State.accRd; rw [hacc])
  rw [taken_get (by decide), jobKilns_taken] at hx
  exact aloof_taken.2 (hw x hx)

/-- Settles O37. -/
theorem stopAbortUnload : Obligations.StopAbortUnload := by
  unfold Obligations.StopAbortUnload
  exact ⟨fun _ _ _ _ h => stop_answers h, fun _ _ _ _ h hb hst => abort_answers h hb hst, fun _ _ _ _ h => unload_answers h⟩

end Sys2Proof.Machine
end

section
/-! SUPPORT. What a failed check of a kiln command leaves (R52): the mailbox of the command, the kiln as it was; the wake requests of a
rectangle (R451). -/

namespace Sys2Proof.Machine

variable {s : State} {c : CmdCtx} {k op : Nat} {args : List W64}

/-! ## A command's mailbox -/

theorem ringLost_page (f n idx : Nat) : (ringLost f n idx).Touches [.hi] (fun r => r.blk = .host ∧ r.inst = f) (fun _ => True) :=
  touches_doAll_cons (touches_setF ⟨rfl, rfl⟩) (touches_doAll_cons (touches_setAx trivial) (touches_doAll_cons
    (touches_recordErr ⟨rfl, rfl⟩ ⟨rfl, rfl⟩ (by simp)) touches_doAll_nil))

theorem writeBack_page (c : CmdCtx) (w : Nat) : (writeBack c w).Touches [.hi, .out] (fun r => r.blk = .host ∧ r.inst = c.func)
    (fun _ => True) := fun s =>
  touches_hostWriteOr (by simp) ((ringLost_page _ _ _).mono (by simp) (fun _ h => h) (fun _ h => h)) s

/-- An accepted command's mailbox waits for its result. -/
theorem taken_pending {blk : Blk} {inst : Nat} (hm : c.mbxEn = true) :
    (s.taken c blk inst op args).on (fMbxPending c.mailbox) (64 + c.func) = true := by
  have hrun : (s.taken c blk inst op args).on (fMbxPending c.mailbox) (64 + c.func) =
      ((posted c (ctxWord0 c blk inst op)).run (s.apply1 .seq)).on (fMbxPending c.mailbox) (64 + c.func) := by
    rw [State.taken, accept_run_posted, skip_run]
    rfl
  rw [hrun]
  simp only [posted, doAll_cons_run, doAll_nil_run, whenE_run, hm, if_true]
  rw [(writeBack_page c _).on _ (by simp [fMbxPending]), on_setF_same (by simp [fMbxPending])]
  rfl

/-- The mailbox of function f holds this code, or is still to take one. -/
def State.mbxAwaits (s : State) (f m code : Nat) : Prop :=
  s.on (fMbxPending m) (64 + f) = true ∨ s.get (fMbxCode m) (64 + f) = code % 256

/-- A result posted elsewhere leaves a mailbox alone. -/
theorem mbxFill_other {f m f' m' code x : Nat} {v w : W64} (h : ¬ (f = f' ∧ m = m')) (hm' : m' < 64) {g : Fld}
    (ho : g.off = 0x100 + 0x20 * m') : ((mbxFill f m code x v w).run s).get g (64 + f') = s.get g (64 + f') := by
  refine Eff.Touches.get (ps := [.hi, .out]) (R := fun r => r.blk = .host ∧
    ((r.inst = 64 + f ∧ (r.off = 0x100 + 0x20 * m ∨ r.off % 32 = 8 ∨ r.off % 32 = 16)) ∨ r.off = 0x900)) (A := fun _ => False) ?_ s ?_
  · refine touches_doAll_cons (touches_setF ⟨rfl, .inl ⟨rfl, .inl rfl⟩⟩) (touches_doAll_cons (touches_setF ⟨rfl, .inl ⟨rfl, .inl rfl⟩⟩)
      (touches_doAll_cons (touches_setF ⟨rfl, .inl ⟨rfl, .inl rfl⟩⟩) (touches_doAll_cons (touches_setReg ⟨rfl, .inl ⟨rfl, .inr (.inl ?_)⟩⟩)
        (touches_doAll_cons (touches_setReg ⟨rfl, .inl ⟨rfl, .inr (.inr ?_)⟩⟩) (touches_doAll_cons
          (touches_setF ⟨rfl, .inl ⟨rfl, .inl rfl⟩⟩) (touches_doAll_cons (touches_setEvt ⟨rfl, .inl ⟨rfl, .inr (.inr (by simp [offEvtStatus]))⟩⟩
            (by simp))
            (touches_doAll_cons (touches_msixDue ⟨rfl, .inr rfl⟩ (by simp)) touches_doAll_nil)))))))
    · show (0x108 + 0x20 * m) % 32 = 8
      omega
    · show (0x110 + 0x20 * m) % 32 = 16
      omega
  · rintro ⟨-, ⟨hi, ho'⟩ | ho'⟩
    · simp only [ho] at ho'
      simp only at hi
      exact h (by omega)
    · simp only [ho] at ho'
      omega

/-- A result posted: the mailbox it goes to, if it is PENDING, takes the code; every other stands. -/
theorem mbxPost_mailbox {f m f' m' code tag seq : Nat} {v : W64} (hm : m < 64) {t : State}
    (ht : t = (mbxPost f' m' code v tag seq).run s) :
    (f' = f ∧ m' = m ∧ s.on (fMbxPending m) (64 + f) = true ∧ t.get (fMbxCode m) (64 + f) = code % 256) ∨
    (t.get (fMbxCode m) (64 + f) = s.get (fMbxCode m) (64 + f) ∧ t.on (fMbxPending m) (64 + f) = s.on (fMbxPending m) (64 + f) ∧
      ¬ (f' = f ∧ m' = m ∧ s.on (fMbxPending m) (64 + f) = true)) := by
  subst ht
  cases hp : s.on (fMbxPending m') (64 + f') with
  | false =>
    rw [mbxPost_run_of_not_pending hp]
    exact .inr ⟨rfl, rfl, by rintro ⟨rfl, rfl, h⟩; simp [hp] at h⟩
  | true =>
    rw [mbxPost_run_of_pending hp]
    by_cases h : f' = f ∧ m' = m
    · obtain ⟨rfl, rfl⟩ := h
      exact .inl ⟨rfl, rfl, hp, (mbxFill_mailbox _ _ _ _ _ _ _).2.2⟩
    · exact .inr ⟨mbxFill_other h hm rfl, on_congr (mbxFill_other h hm rfl), fun hc => h ⟨hc.1, hc.2.1⟩⟩

theorem finish_posts (s : State) (r : Running) (code : Nat) (v : W64) : ∃ u : State, (∀ b i o, u.rd b i o = s.rd b i o) ∧
    (finish r code v).run s = if r.ctx.mbxEn && r.post then (mbxPost r.ctx.func r.ctx.mailbox code v r.ctx.userTag r.seq).run u
      else u := by
  refine ⟨(modHi fun h => { h with running := h.running.filter fun x => x.seq ≠ r.seq }).run s, fun _ _ _ => ?_, ?_⟩
  · simp
  · rw [finish, doAll_cons_run, doAll_cons_run, doAll_nil_run, whenE_run]

/-- A completion leaves a mailbox that has its code, or waits for it, so. -/
theorem finish_mailbox (s : State) {r : Running} {f m code : Nat} {v : W64} (hm : m < 64) :
    (s.mbxAwaits f m code → ((finish r code v).run s).mbxAwaits f m code) ∧
    (s.get (fMbxCode m) (64 + f) = code % 256 → ((finish r code v).run s).get (fMbxCode m) (64 + f) = code % 256) ∧
    (r.ctx.mbxEn = true → r.post = true → r.ctx.func = f → r.ctx.mailbox = m → s.mbxAwaits f m code →
      ((finish r code v).run s).get (fMbxCode m) (64 + f) = code % 256) := by
  obtain ⟨u, hu, hrun⟩ := finish_posts s r code v
  have hcode : u.get (fMbxCode m) (64 + f) = s.get (fMbxCode m) (64 + f) := by rw [State.get, hu, State.get]
  have hpend : u.on (fMbxPending m) (64 + f) = s.on (fMbxPending m) (64 + f) := on_congr (by rw [State.get, hu, State.get])
  rw [hrun]
  split
  next hb =>
    rcases mbxPost_mailbox (s := u) (f := f) hm rfl with ⟨-, -, -, hc⟩ | ⟨hc, hp, hno⟩
    · exact ⟨fun _ => .inr hc, fun _ => hc, fun _ _ _ _ _ => hc⟩
    · rw [hcode] at hc
      rw [hpend] at hp hno
      refine ⟨fun h => h.imp (fun h => hp.trans h) fun h => hc.trans h, fun h => hc.trans h, fun _ _ hf hmb h => hc.trans ?_⟩
      exact h.resolve_left fun h => hno ⟨hf, hmb, h⟩
  next hb =>
    refine ⟨fun h => h.imp (fun h => hpend.trans h) fun h => hcode.trans h, fun h => hcode.trans h, fun h1 h2 => ?_⟩
    exact absurd (by simp [h1, h2]) hb

/-- The mailbox of a command takes the code that all commands of its kind complete with. -/
theorem finishAll_mailbox {blk : Blk} {inst code : Nat} {v : W64} {r : Running} (hr : r ∈ s.runningOf blk inst op)
    (hen : r.ctx.mbxEn = true) (hpost : r.post = true) (hm : r.ctx.mailbox < 64)
    (h : s.mbxAwaits r.ctx.func r.ctx.mailbox code) :
    ((finishAll blk inst op code v).run s).get (fMbxCode r.ctx.mailbox) (64 + r.ctx.func) = code % 256 := by
  rw [finishAll, look_run]
  generalize hl : s.runningOf blk inst op = l at hr ⊢
  generalize hf : r.ctx.func = f at h ⊢
  generalize hx : r.ctx.mailbox = m at h hm ⊢
  refine forEach_reach (k := fun x => finish x code v) (P := fun t => t.get (fMbxCode m) (64 + f) = code % 256)
    (Q := fun t => t.mbxAwaits f m code) hr (fun x _ t ht => ?_) (fun t ht => ?_) (fun x _ t _ ht => ?_) s h
  · exact (finish_mailbox t hm).1 ht
  · exact (finish_mailbox t hm).2.2 hen hpost hf hx ht
  · exact (finish_mailbox t hm).2.1 ht

/-! ## A failed check -/

/-- The registers of a failed check's record. -/
def failRegs (k : Nat) (r : RK) : Prop :=
  r.blk = .saggar ∨ (r.blk = .kiln ∧ r.inst = k ∧ (r.off = offErr ∨ r.off = offEvtStatus))

/-- The denial and the error of a failed check. -/
def kilnFailNoted (s : State) (k : Nat) (e : LErr) : Eff :=
  doAll [withSome e.den skip (fun d => deny 9 (s.kilnSag k none) d.1 d.2 k),
    whenE (fun _ => e.info.isSome) (recordW .kiln k ⟨e.code, e.info⟩)]

theorem kilnFailNoted_touches (s : State) (k : Nat) (e : LErr) : (kilnFailNoted s k e).Touches [.hi, .free] (failRegs k)
    (fun _ => False) := by
  have hrec : (recordW .kiln k ⟨e.code, e.info⟩).Touches [.hi, .free] (failRegs k) (fun _ => False) := by
    unfold recordW
    split
    · exact touches_recordErr (.inr ⟨rfl, rfl, .inl rfl⟩) (.inr ⟨rfl, rfl, .inr rfl⟩) (by simp)
    · exact touches_recordErrFree (.inr ⟨rfl, rfl, .inl rfl⟩) (.inr ⟨rfl, rfl, .inr rfl⟩) (by simp) (by simp)
  exact touches_doAll_cons (touches_withSome touches_skip fun _ => touches_deny (fun _ => .inl rfl) (by simp)) (touches_doAll_cons
    (touches_whenE hrec) touches_doAll_nil)

theorem kilnFail_run (k op : Nat) (e : LErr) (s : State) : (kilnFail k op e).run s =
    (kilnFinish k op e.code 0).run ((kilnFailNoted s k e).run s) := by
  have heq : kilnFail k op e s = doAll [withSome e.den skip (fun d => deny 9 (s.kilnSag k none) d.1 d.2 k),
    whenE (fun _ => e.info.isSome) (recordW .kiln k ⟨e.code, e.info⟩), kilnFinish k op e.code 0] s := rfl
  rw [run_congr heq, kilnFailNoted]
  simp only [doAll_cons_run, doAll_nil_run]

theorem deny_drops {p pr o w : Nat} {b : Bool} : (deny p pr o b w).Drops :=
  drops_cons drops_addSat (drops_cons (drops_whenE (drops_cons drops_setReg (drops_cons drops_setEvt drops_nil))) drops_nil)

end Sys2Proof.Machine
end

section
/-! PROOFS. LOAD in progress, refused, and done (chapter 13, R352, R364, R452). -/

namespace Sys2Proof.Machine

variable {s : State} {c : CmdCtx} {k op : Nat} {args : List W64}

/-! ## A check that fails -/

theorem keeps_running_setEvt {blk : Blk} {inst bit : Nat} : (setEvt blk inst bit).Keeps fun s => s.hi.running :=
  fun s => setEvt_hi_running s blk inst bit

theorem keeps_running_recordErr {blk : Blk} {inst code info : Nat} : (recordErr blk inst code info).Keeps fun s => s.hi.running :=
  fun s => by
    obtain ⟨new, hnew⟩ := recordErr_hi s blk inst code info
    show ((recordErr blk inst code info).run s).hi.running = s.hi.running
    rw [hnew]

theorem keeps_running_of_touches {ps : List Component} {R : RK → Prop} {A : Aux → Prop} {e : Eff} (h : e.Touches ps R A)
    (hh : Component.hi ∉ ps) : e.Keeps fun s => s.hi.running := fun s =>
  congrArg HostSt.running (h.same s .hi hh (by simp) (by simp) : _ = _)

theorem keeps_running_setReg {blk : Blk} {inst off : Nat} {v : W64} : (setReg blk inst off v).Keeps fun s => s.hi.running :=
  keeps_running_of_touches (ps := []) (R := fun _ => True) (A := fun _ => True) (touches_setReg trivial) (by simp)

theorem keeps_running_addSat {f : Fld} {inst n : Nat} : (addSat f inst n).Keeps fun s => s.hi.running :=
  keeps_running_of_touches (ps := []) (R := fun _ => True) (A := fun _ => True) (touches_addSat trivial) (by simp)

theorem kilnFailNoted_running (s : State) (k : Nat) (e : LErr) : (kilnFailNoted s k e).Keeps fun s => s.hi.running := by
  refine keeps_cons ?_ (keeps_cons (keeps_whenE ?_) keeps_nil)
  · cases e.den with
    | none => exact fun s => congrArg (fun t : State => t.hi.running) (skip_run s)
    | some d => exact keeps_cons keeps_running_addSat (keeps_cons (keeps_whenE (keeps_cons keeps_running_setReg (keeps_cons
        keeps_running_setEvt keeps_nil))) keeps_nil)
  · unfold recordW
    split
    · exact keeps_running_recordErr
    · exact fun s => (congrArg (fun t : State => t.hi.running) (drawFree_run _ _)).trans (keeps_running_recordErr _)

theorem kilnFail_touches (k op : Nat) (e : LErr) : (kilnFail k op e).Touches [.hi, .out, .free]
    (fun r => failRegs k r ∨ r.blk = .host ∨ r = ⟨.kiln, k, 0x138⟩) (fun _ => False) := by
  refine touches_of (fun s => doAll [kilnFailNoted s k e, kilnFinish k op e.code 0]) (fun s => ?_) fun s => ?_
  · unfold kilnFail kilnFailNoted
    simp only [doAll, Eff.seq, skip, List.append_assoc, List.append_nil, State.applyAll_append]
  · exact touches_doAll_cons ((kilnFailNoted_touches s k e).mono (by simp) (fun _ h => .inl h) (fun _ h => h)) (touches_doAll_cons
      ((kilnFinish_touches k op _ _).mono (by simp) (fun _ h => .inr h) (fun _ h => h)) touches_doAll_nil)

theorem asRunning_mem : s.asRunning c .kiln k op args ∈ (s.kilnTaken c k op args).runningOf .kiln k op := by
  refine List.mem_filter.2 ⟨by rw [kilnTaken_running]; simp, by simp [State.asRunning]⟩

/-- A command whose check fails has the check's code in its mailbox. -/
theorem kilnFail_mailbox {e : LErr} (hen : c.mbxEn = true) (hm : c.mailbox < 64) :
    ((kilnFail k op e).run (s.kilnTaken c k op args)).get (fMbxCode c.mailbox) (64 + c.func) = e.code % 256 := by
  rw [kilnFail_run]
  generalize hv : (kilnFailNoted (s.kilnTaken c k op args) k e).run (s.kilnTaken c k op args) = v
  have hpend : v.on (fMbxPending c.mailbox) (64 + c.func) = true := by
    rw [← hv, (kilnFailNoted_touches _ k e).on _ (by simp [failRegs, fMbxPending]), State.kilnTaken,
      (timed_skip_touches k).on _ id]
    exact taken_pending hen
  have hmem : s.asRunning c .kiln k op args ∈ v.runningOf .kiln k op := by
    have hrun : v.hi.running = (s.kilnTaken c k op args).hi.running := by
      rw [← hv]
      exact kilnFailNoted_running _ k e _
    rw [State.runningOf, hrun]
    exact asRunning_mem
  rw [kilnFinish_run, if_neg (List.ne_nil_of_mem hmem)]
  have hset : (setReg .kiln k 0x138 (kilnTime v k)).Touches [] (fun r => r = ⟨.kiln, k, 0x138⟩) (fun _ => False) := touches_setReg rfl
  refine finishAll_mailbox (r := s.asRunning c .kiln k op args) ?_ hen rfl hm (.inl ?_)
  · rw [hset.runningOf _ _ _ _ (by simp)]
    exact hmem
  · exact (hset.on _ (by simp [fMbxPending])).trans hpend

/-! ## Wake requests -/

/-- The registers a self-test's end may change. -/
def selftestRegs (r : RK) : Prop := r.tileOf.isSome = true ∨ r.blk = .tele

/-- The hidden scalars a self-test's end may change. -/
def selftestAux (a : Aux) : Prop := a.kind = .selftest ∨ ∃ p, laneAux p a

theorem selftestStop_touches (p : Nat) : (selftestStop p).Touches laneParts selftestRegs selftestAux := by
  refine touches_whenE (touches_doAll_cons (touches_whenE ?_) (touches_doAll_cons ?_ (touches_doAll_cons ?_ touches_doAll_nil)))
  · exact touches_doAll_cons (touches_setAx (.inl rfl)) (touches_doAll_cons (touches_addSat (.inr rfl)) touches_doAll_nil)
  · exact (tileLost_touches p).mono (fun _ h => h) (fun r h => .inl (by rw [h]; rfl)) fun _ h => .inr ⟨p, h⟩
  · exact fun s => touches_setReg (.inr rfl) s

/-- The self-tests of a rectangle end. -/
def testsEnd (ts : List Nat) : Eff := forEach ts (fun t => fun s => selftestStop (s.phys t) s)

theorem testsEnd_touches (ts : List Nat) : (testsEnd ts).Touches laneParts selftestRegs selftestAux :=
  touches_forEach fun _ _ s => selftestStop_touches _ s

theorem wakeRect_touches (ts : List Nat) : (wakeRect ts).Touches [.pw] (fun _ => False) (fun _ => False) :=
  fun s => touches_modPw (by simp) s

/-- Every OFF tile of a rectangle has asked for power. -/
theorem wakeRect_asks {ts : List Nat} {w : Nat} (hw : w ∈ ts) (hoff : s.ax ⟨.tilePwr, s.phys w, 0⟩ = 0) :
    w ∈ ((wakeRect ts).run s).pw.wakes ∨ w ∈ ((wakeRect ts).run s).pw.waking := by
  have hwk : ((wakeRect ts).run s).pw.wakes = s.pw.wakes ++ ts.filter fun t =>
      s.ax ⟨.tilePwr, s.phys t, 0⟩ = 0 && !s.pw.wakes.contains t && !s.pw.waking.contains t := rfl
  have hwg : ((wakeRect ts).run s).pw.waking = s.pw.waking := rfl
  rw [hwk, hwg]
  by_cases h1 : w ∈ s.pw.wakes
  · exact .inl (List.mem_append_left _ h1)
  by_cases h2 : w ∈ s.pw.waking
  · exact .inr h2
  · exact .inl (List.mem_append_right _ (List.mem_filter.2 ⟨hw, by simp [hoff, h1, h2]⟩))

/-- The tiles of a rectangle stop their self-tests and ask for power. -/
def rectAsks (ts : List Nat) : Eff := doAll [testsEnd ts, wakeRect ts]

theorem rectAsks_touches (ts : List Nat) : (rectAsks ts).Touches (.pw :: laneParts) selftestRegs selftestAux :=
  touches_doAll_cons ((testsEnd_touches ts).mono (fun _ h => List.mem_cons_of_mem _ h) (fun _ h => h) (fun _ h => h))
    (touches_doAll_cons ((wakeRect_touches ts).mono (by simp) (fun _ h => h.elim) (fun _ h => h.elim)) touches_doAll_nil)

theorem tilePwr_not_selftest {p : Nat} : ¬ selftestAux ⟨.tilePwr, p, 0⟩ := by
  rintro (h | ⟨q, h⟩)
  · cases h
  · simp [laneAux, tileAux] at h

theorem rectAsks_asks {ts : List Nat} {w : Nat} (hw : w ∈ ts) (hoff : s.ax ⟨.tilePwr, s.phys w, 0⟩ = 0) :
    w ∈ ((rectAsks ts).run s).pw.wakes ∨ w ∈ ((rectAsks ts).run s).pw.waking := by
  rw [rectAsks, doAll_cons_run, doAll_cons_run, doAll_nil_run]
  refine wakeRect_asks hw ?_
  have hgeo : ((testsEnd ts).run s).geo = s.geo ∧ ((testsEnd ts).run s).geoNext = s.geoNext ∧
      ((testsEnd ts).run s).geoLive = s.geoLive := (testsEnd_touches ts).same s .geo (by decide) (by simp) (by simp)
  rw [State.phys, hgeo.1, (testsEnd_touches ts).ax _ tilePwr_not_selftest]
  exact hoff

/-! ## LOAD under way -/

theorem setBusy_touches (k op a : Nat) : (setBusy k op a).Touches [] (fun r => r = ⟨.kiln, k, 0x018⟩) (fun x => x = ⟨.kilnAddr, k, 0⟩) :=
  touches_doAll_cons (touches_setF rfl) (touches_doAll_cons (touches_setF rfl) (touches_doAll_cons (touches_setAx rfl) touches_doAll_nil))

theorem setBusy_busy {k op a : Nat} : ((setBusy k op a).run s).on fKilnBusy k = true := by
  simp only [setBusy, doAll_cons_run, doAll_nil_run]
  rw [on_congr (setAx_get ..), on_congr (get_setF_ne (fun _ _ _ => by decide) (by decide)), on_setF_same (by decide)]
  simp only [fKilnBusy]
  decide

theorem setBusy_op {k op a : Nat} (hop : op < 256) : ((setBusy k op a).run s).get fBusyOp k = op := by
  simp only [setBusy, doAll_cons_run, doAll_nil_run]
  rw [setAx_get, get_setF_same (by decide)]
  simp only [fBusyOp]
  omega

theorem setBusy_addr {k op a : Nat} : ((setBusy k op a).run s).ax ⟨.kilnAddr, k, 0⟩ = a + 1 := by
  simp only [setBusy, doAll_cons_run, doAll_nil_run]
  simp

theorem setBusy_state {k op a : Nat} : ((setBusy k op a).run s).get fKilnState k = s.get fKilnState k := by
  simp only [setBusy, doAll_cons_run, doAll_nil_run]
  rw [setAx_get, get_setF_ne (fun _ _ _ => by decide) (by decide), get_setF_ne (fun _ _ _ => by decide) (by decide)]

theorem doAll_two_then_two (a b c d : Eff) (s : State) :
    (doAll [a, b, doAll [c, d]]).run s = d.run (c.run ((doAll [a, b]).run s)) := by
  simp only [doAll_cons_run, doAll_nil_run]

theorem loadRun_busy {a : Nat} (h1 : s.loadErr1 k (s.img a) = none) (h2 : s.loadErr2 k (s.img a) = none) : (loadRun k a).run s =
    (setBusy k 0x10 a).run ((setGeom k (s.img a)).run ((rectAsks (s.img a).tiles).run s)) := by
  have heq : loadRun k a s = doAll [testsEnd (s.img a).tiles, wakeRect (s.img a).tiles,
      doAll [setGeom k (s.img a), setBusy k 0x10 a]] s := by
    simp only [loadRun, testsEnd, h1, h2]
  exact (run_congr heq).trans (doAll_two_then_two ..)

theorem loadRun_fails {a : Nat} {e : LErr} (h : s.loadErr1 k (s.img a) = some e) : (loadRun k a).run s = (kilnFail k 0x10 e).run s := by
  refine run_congr ?_
  unfold loadRun
  simp only [h]

theorem load_busy_answers (h : s.admits c .kiln k (loadSpec k args))
    (h1 : (s.kilnTaken c k 0x10 args).loadErr1 k ((s.kilnTaken c k 0x10 args).img (argN args 0).toNat) = none)
    (h2 : (s.kilnTaken c k 0x10 args).loadErr2 k ((s.kilnTaken c k 0x10 args).img (argN args 0).toNat) = none) :
    let hd := (s.kilnTaken c k 0x10 args).img (argN args 0).toNat
    Answers (.load c k args) s fun t => t.seq = s.seq + 1 ∧ t.on fKilnBusy k = true ∧ t.get fBusyOp k = 0x10 ∧
        t.ax ⟨.kilnAddr, k, 0⟩ = (argN args 0).toNat + 1 ∧ t.get fKilnState k = s.get fKilnState k ∧
        t.rd .kiln k 0x100 =
          BitVec.ofNat 64 (hd.x0 + hd.x1 * 2 ^ 8 + hd.y0 * 2 ^ 16 + hd.y1 * 2 ^ 24 + hd.tileCnt % 65536 * 2 ^ 32) ∧
        (∀ w ∈ hd.tiles, s.ax ⟨.tilePwr, s.phys w, 0⟩ = 0 → w ∈ t.pw.wakes ∨ w ∈ t.pw.waking) ∧
        OnlyParts [.seq, .regs, .aux, .hi, .out, .free, .pw, .tl, .sp, .ecc, .acc, .imem, .rng, .row] s t := by
  intro hd
  have hrun := (kilnCmd_run h).trans (loadRun_busy h1 h2)
  have hset := setBusy_touches k 0x10 (argN args 0).toNat
  have hgeom : (setGeom k hd).Touches [] (fun r => r = ⟨.kiln, k, 0x100⟩) (fun _ => False) := touches_setReg rfl
  have hask := rectAsks_touches hd.tiles
  refine ⟨_, congrArg Host.Outcome.next hrun, ?_, setBusy_busy, setBusy_op (by decide), setBusy_addr, setBusy_state.trans ?_, ?_, fun w hw hoff => ?_, ?_⟩
  · exact (hset.same _ .seq (by simp) (by simp) (by simp) : _ = _).trans ((hgeom.same _ .seq (by simp) (by simp) (by simp) : _ = _).trans
      ((hask.same _ .seq (by decide) (by simp) (by simp) : _ = _).trans kilnTaken_seq))
  · rw [hgeom.get _ (by simp [fKilnState]), hask.get _ (by simp [selftestRegs, RK.tileOf, fKilnState]), kilnTaken_get (by decide)]
  · rw [hset.rd _ (by simp), setGeom]
    simp only [setReg_run, State.rd_apply1, if_pos, Nat.reducePow]
    rfl
  · have hpw {e : Eff} {ps : List Component} {R : RK → Prop} {A : Aux → Prop} (he : e.Touches ps R A) (hp : Component.pw ∉ ps)
        (t : State) : (e.run t).pw = t.pw := he.same t .pw hp (by simp) (by simp)
    rw [hpw hset (by simp), hpw hgeom (by simp)]
    refine rectAsks_asks hw ?_
    rwa [kilnTaken_ax (by simp) (by simp), kilnTaken_phys]
  · exact (kilnTaken_only (by simp) (by simp) (by simp) (by simp) (by simp)).trans ((hask.only _ (by decide) (by simp) (by simp)).trans
      ((hgeom.only _ (by simp) (by simp) (by simp)).trans (hset.only _ (by simp) (by simp) (by simp))))

theorem load_fails_answers {e : LErr} (h : s.admits c .kiln k (loadSpec k args))
    (he : (s.kilnTaken c k 0x10 args).loadErr1 k ((s.kilnTaken c k 0x10 args).img (argN args 0).toNat) = some e) :
    Answers (.load c k args) s fun t => t.seq = s.seq + 1 ∧ t.get fKilnState k = s.get fKilnState k ∧
        t.on fKilnBusy k = false ∧
        (c.mbxEn = true → c.mailbox < 64 → t.get (fMbxCode c.mailbox) (64 + c.func) = e.code % 256) ∧
        OnlyParts [.seq, .regs, .aux, .hi, .out, .free] s t := by
  have hrun := (kilnCmd_run h).trans (loadRun_fails he)
  have hfail := kilnFail_touches k 0x10 e
  have hno : ¬ (failRegs k ⟨.kiln, k, 0x018⟩ ∨ Blk.kiln = .host ∨ (⟨.kiln, k, 0x018⟩ : RK) = ⟨.kiln, k, 0x138⟩) := by
    simp [failRegs, offErr, offEvtStatus]
  refine ⟨_, congrArg Host.Outcome.next hrun, ?_, ?_, ?_, fun hen hm => kilnFail_mailbox hen hm, ?_⟩
  · exact (hfail.same _ .seq (by simp) (by simp) (by simp) : _ = _).trans kilnTaken_seq
  · exact (hfail.get _ hno).trans (kilnTaken_get (by decide))
  · exact (hfail.on _ hno).trans ((kilnTaken_on (by decide)).trans
      (not_busy_of_unblocked (by omega) (kiln_admitted h).2.1))
  · exact (kilnTaken_only (by simp) (by simp) (by simp) (by simp) (by simp)).trans (hfail.only _ (by simp) (by simp) (by simp))

end Sys2Proof.Machine
end

section
/-! PROOFS. What LOAD writes, and the kiln LOADED (chapter 13, R362, R364). -/

namespace Sys2Proof.Machine

variable {s : State} {k : Nat} {h : ImgHdr}

/-! ## The tiles of the image -/

/-- The registers a tile's record writes, its owner apart. -/
def recRegs (r : RK) : Prop := r.blk = .tile ∨ r.blk = .core ∨ r.blk = .vec ∨ (r.blk = .router ∧ r.off ≠ 0x108)

/-- The registers of loading a tile. -/
def tileRegs (r : RK) : Prop := recRegs r ∨ (r.blk = .router ∧ r.off = 0x108)

/-- The hidden scalars of a tile's record: its semaphores' initial counts. -/
def recAux (a : Aux) : Prop := a.kind = .semInit

/-- What a tile's record writes before its owner. -/
def recWrites (s : State) (h : ImgHdr) (i t : Nat) : List Eff :=
  let p := s.phys t
  let r := h.recAt i
  let c := s.recCfg r t
  [setF fEntry p (s.stNum (r + 2) 2),
    forEach c.qcfg.zipIdx (fun x => setReg .tile p (0x440 + 8 * x.2) (x.1 &&& (bitMask 0 21 ||| bitMask 24 4 ||| bitMask 32 1))),
    forEach (List.range 48) (fun n => setAx ⟨.semInit, p, n⟩ (s.stNum (r + 16 + 2 * n) 2)),
    forEach [0, 1, 2, 3] (fun q => doAll [setReg .core (4 * p + q) 0x148 (BitVec.ofNat 64 h.split),
      whenE (fun s => s.grade ≠ 3) (forEach h.binCap.zipIdx fun x => setReg .core (4 * p + q) (0x180 + 8 * x.2) (x.1 &&& bitMask 0 33))]),
    setF ⟨.vec, 0x140, 0, 1⟩ p (if h.rngFree then 1 else 0), setReg .vec p 0x148 (BitVec.ofNat 64 h.seed),
    setReg .router p 0x110 (c.coSet &&& bitMask 0 5),
    forEach c.routes.zipIdx (fun x => doAll [setReg .router p (0x120 + 0x10 * x.2) (x.1.1 &&& bitMask 0 46),
      setReg .router p (0x128 + 0x10 * x.2) (x.1.2 &&& (bitMask 0 10 ||| bitMask 32 11 ||| bitMask 48 16))]),
    forEach c.combs.zipIdx (fun x => setReg .router p (0x180 + 8 * x.2) (x.1 &&& (bitMask 0 28 ||| bitMask 49 15)))]

/-- A tile's owner. -/
def ownWrites (p k sag : Nat) : List Eff := [setF fOwnKiln p k, setF fInKiln p 1, setF fOwnSag p sag]

theorem loadRegs_eq (i t : Nat) :
    loadRegs k h i t s = doAll (recWrites s h i t ++ ownWrites (s.phys t) k (s.kilnSag k none)) s := rfl

theorem recWrites_touches (s : State) (h : ImgHdr) (i t : Nat) : (doAll (recWrites s h i t)).Touches [] recRegs recAux := by
  have hrt (o : Nat) (ho : 0x110 ≤ o) : recRegs ⟨.router, s.phys t, o⟩ := .inr (.inr (.inr ⟨rfl, by simp only; omega⟩))
  refine touches_doAll_cons (touches_setF (.inl rfl)) (touches_doAll_cons (touches_forEach fun _ _ => touches_setReg (.inl rfl))
    (touches_doAll_cons (touches_forEach fun _ _ => touches_setAx rfl) (touches_doAll_cons ?_
    (touches_doAll_cons (touches_setF (.inr (.inr (.inl rfl)))) (touches_doAll_cons (touches_setReg (.inr (.inr (.inl rfl))))
    (touches_doAll_cons (touches_setReg (hrt _ (by omega))) (touches_doAll_cons ?_ (touches_doAll_cons ?_ touches_doAll_nil))))))))
  · exact touches_forEach fun _ _ => touches_doAll_cons (touches_setReg (.inr (.inl rfl))) (touches_doAll_cons (touches_whenE
      (touches_forEach fun _ _ => touches_setReg (.inr (.inl rfl)))) touches_doAll_nil)
  · exact touches_forEach fun _ _ => touches_doAll_cons (touches_setReg (hrt _ (by omega))) (touches_doAll_cons
      (touches_setReg (hrt _ (by omega))) touches_doAll_nil)
  · exact touches_forEach fun _ _ => touches_setReg (hrt _ (by omega))

theorem ownWrites_touches (p k sag : Nat) : (doAll (ownWrites p k sag)).Touches [] (fun r => r = ⟨.router, p, 0x108⟩) (fun _ => False) :=
  touches_doAll_cons (touches_setF rfl) (touches_doAll_cons (touches_setF rfl) (touches_doAll_cons (touches_setF rfl) touches_doAll_nil))

theorem doAll_append_run (es fs : List Eff) (s : State) : (doAll (es ++ fs)).run s = (doAll fs).run ((doAll es).run s) := by
  induction es generalizing s with
  | nil => rw [List.nil_append, doAll_nil_run]
  | cons e es ih => rw [List.cons_append, doAll_cons_run, doAll_cons_run, ih]

theorem loadRegs_run (i t : Nat) : (loadRegs k h i t).run s =
    (doAll (ownWrites (s.phys t) k (s.kilnSag k none))).run ((doAll (recWrites s h i t)).run s) :=
  (run_congr (loadRegs_eq i t)).trans (doAll_append_run _ _ s)

theorem loadRegs_touches (k : Nat) (h : ImgHdr) (i t : Nat) : (loadRegs k h i t).Touches [] tileRegs recAux := by
  refine touches_of (fun s => doAll (recWrites s h i t ++ ownWrites (s.phys t) k (s.kilnSag k none))) (fun _ => loadRegs_eq i t) fun s => ?_
  refine touches_doAll_append ((recWrites_touches s h i t).mono (fun _ h => h) (fun _ h => .inl h) (fun _ h => h)) ?_
  exact (ownWrites_touches _ _ _).mono (fun _ h => h) (fun r hr => .inr (by rw [hr]; exact ⟨rfl, rfl⟩)) (fun _ h => h.elim)

/-- Tile p belongs to kiln k. -/
def State.owned (s : State) (p k : Nat) : Prop := s.get fOwnKiln p = k ∧ s.on fInKiln p = true

theorem owned_of_touches {e : Eff} {ps : List Component} {R : RK → Prop} {A : Aux → Prop} (he : e.Touches ps R A) {p : Nat}
    (hR : ¬ R ⟨.router, p, 0x108⟩) (hs : s.owned p k) : (e.run s).owned p k :=
  ⟨(he.get s hR).trans hs.1, (he.on s hR).trans hs.2⟩

theorem recRegs_own {p : Nat} : ¬ recRegs ⟨.router, p, 0x108⟩ := by simp [recRegs]

theorem ownWrites_owned (p sag : Nat) (hk : k < 256) : ((doAll (ownWrites p k sag)).run s).owned p k := by
  simp only [ownWrites, doAll_cons_run, doAll_nil_run]
  refine ⟨?_, ?_⟩
  · rw [get_setF_ne (fun _ _ _ => by decide) (by decide), get_setF_ne (fun _ _ _ => by decide) (by decide), get_setF_same (by decide)]
    simp only [fOwnKiln]
    omega
  · rw [on_congr (get_setF_ne (fun _ _ _ => by decide) (by decide)), on_setF_same (by decide)]
    simp only [fInKiln]
    decide

/-- Taking a tile leaves the kiln's other tiles its own. -/
theorem ownWrites_keeps_owned (q p sag : Nat) (hk : k < 256) (hs : s.owned p k) : ((doAll (ownWrites q k sag)).run s).owned p k := by
  by_cases hpq : p = q
  · rw [hpq]
    exact ownWrites_owned q sag hk
  · exact owned_of_touches (ownWrites_touches q k sag) (by simp [hpq]) hs

theorem loadRegs_owned (i t : Nat) (hk : k < 256) : ((loadRegs k h i t).run s).owned (s.phys t) k := by
  rw [loadRegs_run]
  exact ownWrites_owned _ _ hk

theorem loadRegs_keeps_owned (i t p : Nat) (hk : k < 256) (hs : s.owned p k) : ((loadRegs k h i t).run s).owned p k := by
  rw [loadRegs_run]
  exact ownWrites_keeps_owned _ _ _ hk (owned_of_touches (recWrites_touches s h i t) recRegs_own hs)

theorem loadData_touches (h : ImgHdr) (i t : Nat) :
    (loadData h i t).Touches [.imem, .sp, .ecc] (fun r => r.blk = .tile) (fun _ => False) := fun s => by
  unfold loadData
  refine within_doAll (touches_doAll_cons (fun s u hu => ?_) (touches_doAll_cons (touches_setF rfl) (touches_doAll_cons
    (touches_whenE (touches_spWr (by simp) (by simp))) touches_doAll_nil)))
  obtain ⟨i, -, rfl⟩ := List.mem_map.1 hu
  simp [Upd.Within, Upd.parts]

/-- The tiles of an image are written, each by `w` after its registers. -/
def tilesLoaded (k : Nat) (h : ImgHdr) (w : Nat × Nat → Eff) : Eff :=
  forEach h.tiles.zipIdx fun x => doAll [loadRegs k h x.2 x.1, w x]

theorem tilesLoaded_touches {w : Nat × Nat → Eff}
    (hw : ∀ x, (w x).Touches [.imem, .sp, .ecc] (fun r => r.blk = .tile) (fun _ => False)) :
    (tilesLoaded k h w).Touches [.imem, .sp, .ecc] tileRegs recAux :=
  touches_forEach fun x _ => touches_doAll_cons ((loadRegs_touches k h x.2 x.1).mono (by simp) (fun _ h => h) (fun _ h => h))
    (touches_doAll_cons ((hw x).mono (fun _ h => h) (fun _ h => .inl (.inl h)) (fun _ h => h.elim)) touches_doAll_nil)

/-- Every tile of the image belongs to the kiln once they are written. -/
theorem tilesLoaded_owned {w : Nat × Nat → Eff}
    (hw : ∀ x, (w x).Touches [.imem, .sp, .ecc] (fun r => r.blk = .tile) (fun _ => False)) (hk : k < 256) {t : Nat} (ht : t ∈ h.tiles) :
    ((tilesLoaded k h w).run s).owned (s.phys t) k := by
  obtain ⟨i, hi, hti⟩ := List.mem_iff_getElem.1 ht
  have hx : (t, i) ∈ h.tiles.zipIdx := List.mem_zipIdx_iff_getElem?.2 (by rw [List.getElem?_eq_getElem hi, hti])
  have hkeep (x : Nat × Nat) (p : Nat) (u : State) (hu : u.owned p k) :
      ((doAll [loadRegs k h x.2 x.1, w x]).run u).owned p k := by
    rw [doAll_cons_run, doAll_cons_run, doAll_nil_run]
    exact owned_of_touches (hw x) (by simp) (loadRegs_keeps_owned _ _ _ hk hu)
  have hgeo (x : Nat × Nat) (u : State) (hu : u.geo = s.geo) : ((doAll [loadRegs k h x.2 x.1, w x]).run u).geo = s.geo := by
    rw [doAll_cons_run, doAll_cons_run, doAll_nil_run, (hw x).geo _ (by simp), (loadRegs_touches k h _ _).geo _ (by simp), hu]
  refine forEach_reach (P := fun u => u.owned (s.phys t) k) (Q := fun u => u.geo = s.geo) hx (fun c _ => hgeo c) (fun u hu => ?_)
    (fun c _ u _ hu => hkeep c _ u hu) s rfl
  rw [doAll_cons_run, doAll_cons_run, doAll_nil_run]
  refine owned_of_touches (hw _) (by simp) ?_
  have hp : s.phys t = u.phys t := by rw [State.phys, State.phys, hu]
  rw [hp]
  exact loadRegs_owned i t hk

/-! ## Contexts, feeds, glaze units, the kiln's page -/

/-- The registers that hold what a plan binds. -/
def planRegs (k : Nat) (r : RK) : Prop := r.blk = .slip ∨ r.blk = .pug ∨ r = ⟨.kiln, k, 0x140⟩

/-- The hidden scalars of what a plan binds: who holds a window, a feed. -/
def planAux (a : Aux) : Prop := a.kind = .winKiln ∨ a.kind = .feedKiln

theorem bindPlans_touches (k : Nat) (h : ImgHdr) : (bindPlans k h).Touches [.net, .sl, .fb] (planRegs k) planAux := fun s => by
  unfold bindPlans
  refine within_doAll (touches_doAll_cons (touches_forEach fun x _ => ?_) (touches_doAll_cons (touches_forEach fun x _ => ?_)
    (touches_doAll_cons (touches_modNet (by simp)) (touches_doAll_cons (touches_modSl (by simp)) (touches_doAll_cons
    (touches_modFb (by simp)) touches_doAll_nil)))))
  · refine touches_doAll_cons (touches_setReg (.inl rfl)) (touches_doAll_cons (touches_setReg (.inl rfl)) (touches_doAll_cons
      (touches_setF (.inr (.inr rfl))) (touches_doAll_cons (touches_forEach fun w _ => ?_) touches_doAll_nil)))
    exact touches_doAll_cons (touches_setAx (.inl rfl)) (touches_doAll_cons (touches_setF (.inl rfl)) (touches_doAll_cons
      (touches_setF (.inl rfl)) (touches_doAll_cons (touches_setF (.inl rfl)) touches_doAll_nil)))
  · exact touches_doAll_cons (touches_setReg (.inr (.inl rfl))) (touches_doAll_cons (touches_setReg (.inr (.inl rfl)))
      (touches_doAll_cons (touches_setAx (.inr rfl)) touches_doAll_nil))

/-- The glaze units of an image that are not bound are bound. -/
def unitsBound (s : State) (h : ImgHdr) : Eff :=
  forEach ((s.glzRecs h).filter fun g => !s.on fGjobValid g.p) fun g => doAll [bindGlaze g.p g.gjob, setReg .glaze g.p 0x108 g.ranges,
    setReg .glaze g.p 0x110 g.cnt, setReg .glaze g.p 0x118 g.hyper, setReg .glaze g.p 0x120 g.resel]

theorem bindGlaze_touches (p : Nat) (v : W64) : (bindGlaze p v).Touches [] (fun r => r.blk = .glaze) (fun _ => False) := fun s => by
  unfold bindGlaze
  refine within_doAll (touches_doAll_cons (touches_setReg rfl) (touches_doAll_cons (touches_whenE (touches_look fun n => ?_))
    touches_doAll_nil))
  exact touches_doAll_cons (touches_setF rfl) (touches_doAll_cons (touches_setF rfl) (touches_doAll_cons (touches_whenE
    (touches_setF rfl)) touches_doAll_nil))

theorem unitsBound_touches (s : State) (h : ImgHdr) : (unitsBound s h).Touches [] (fun r => r.blk = .glaze) (fun _ => False) :=
  touches_forEach fun _ _ => touches_doAll_cons (bindGlaze_touches _ _) (touches_doAll_cons (touches_setReg rfl) (touches_doAll_cons
    (touches_setReg rfl) (touches_doAll_cons (touches_setReg rfl) (touches_doAll_cons (touches_setReg rfl) touches_doAll_nil))))

/-- The kiln's page names image, job and table. -/
def pageWrites (k : Nat) (h : ImgHdr) : Eff := doAll [setReg .kiln k 0x108 (BitVec.ofNat 64 h.a),
  setReg .kiln k 0x110 (BitVec.ofNat 64 (h.job + 2 ^ 8)), setReg .kiln k 0x118 (BitVec.ofNat 64 h.tab)]

/-- The kiln's counts begin. -/
def countsBegin (k : Nat) : Eff := doAll [setReg .kiln k 0x120 0, setReg .kiln k 0x128 0, setAx ⟨.kilnMoved, k, 0⟩ 0,
  setAx ⟨.kilnLast, k, 0⟩ 0]

/-- A job without an open step takes the number of its committed generation. -/
def stepNoTaken (h : ImgHdr) : Eff := whenE (fun s => s.ax ⟨.stepOpen, h.job, 0⟩ = 0) (fun s =>
  match s.jobGlaze h.job with
  | p :: _ => setAx ⟨.stepNo, h.job, 0⟩ (s.get fCommitted p) s
  | [] => [])

theorem stepNoTaken_touches (h : ImgHdr) : (stepNoTaken h).Touches [] (fun _ => False) (fun x => x = ⟨.stepNo, h.job, 0⟩) :=
  touches_whenE fun s => by
    split
    · exact touches_setAx (R := fun _ => False) (A := fun x => x = ⟨.stepNo, h.job, 0⟩) rfl s
    · exact within_nil

theorem loadWrite_eq (k : Nat) (h : ImgHdr) (s : State) : loadWrite k h s = doAll [tilesLoaded k h fun x => loadData h x.2 x.1,
    bindPlans k h, unitsBound s h, setReg .kiln k 0x108 (BitVec.ofNat 64 h.a), setReg .kiln k 0x110 (BitVec.ofNat 64 (h.job + 2 ^ 8)),
    setReg .kiln k 0x118 (BitVec.ofNat 64 h.tab), setReg .kiln k 0x120 0, setReg .kiln k 0x128 0,
    setAx ⟨.kilnMoved, k, 0⟩ 0, setAx ⟨.kilnLast, k, 0⟩ 0, stepNoTaken h] s := rfl

/-- The effects of a load, one after the other. -/
theorem doAll_eleven (a b c d₁ d₂ d₃ e₁ e₂ e₃ e₄ f : Eff) (s : State) : (doAll [a, b, c, d₁, d₂, d₃, e₁, e₂, e₃, e₄, f]).run s =
    f.run ((doAll [e₁, e₂, e₃, e₄]).run ((doAll [d₁, d₂, d₃]).run (c.run (b.run (a.run s))))) := by
  simp only [doAll_cons_run, doAll_nil_run]

theorem loadWrite_run (k : Nat) (h : ImgHdr) (s : State) : (loadWrite k h).run s =
    (stepNoTaken h).run ((countsBegin k).run ((pageWrites k h).run ((unitsBound s h).run ((bindPlans k h).run
      ((tilesLoaded k h fun x => loadData h x.2 x.1).run s))))) :=
  (run_congr (loadWrite_eq k h s)).trans (doAll_eleven ..)

theorem pageWrites_touches (k : Nat) (h : ImgHdr) :
    (pageWrites k h).Touches [] (fun r => r.blk = .kiln ∧ r.off ≠ 0x018) (fun _ => False) :=
  touches_doAll_cons (touches_setReg ⟨rfl, by simp⟩) (touches_doAll_cons (touches_setReg ⟨rfl, by simp⟩)
    (touches_doAll_cons (touches_setReg ⟨rfl, by simp⟩) touches_doAll_nil))

theorem pageWrites_shows (k : Nat) (h : ImgHdr) (s : State) :
    ((pageWrites k h).run s).rd .kiln k 0x108 = BitVec.ofNat 64 h.a ∧
      ((pageWrites k h).run s).rd .kiln k 0x110 = BitVec.ofNat 64 (h.job + 2 ^ 8) ∧
      ((pageWrites k h).run s).rd .kiln k 0x118 = BitVec.ofNat 64 h.tab := by
  simp only [pageWrites, doAll_cons_run, doAll_nil_run, setReg_run, State.rd_apply1]
  simp

theorem countsBegin_touches (k : Nat) : (countsBegin k).Touches [] (fun r => r = ⟨.kiln, k, 0x120⟩ ∨ r = ⟨.kiln, k, 0x128⟩)
    (fun a => a = ⟨.kilnMoved, k, 0⟩ ∨ a = ⟨.kilnLast, k, 0⟩) :=
  touches_doAll_cons (touches_setReg (.inl rfl)) (touches_doAll_cons (touches_setReg (.inr rfl)) (touches_doAll_cons
    (touches_setAx (.inl rfl)) (touches_doAll_cons (touches_setAx (.inr rfl)) touches_doAll_nil)))

/-! ## LOADED -/

theorem clearBusy_touches (k : Nat) : (clearBusy k).Touches [] (fun r => r = ⟨.kiln, k, 0x018⟩) (fun x => x = ⟨.kilnAddr, k, 0⟩) :=
  touches_doAll_cons (touches_setF rfl) (touches_doAll_cons (touches_setF rfl) (touches_doAll_cons (touches_setAx rfl) touches_doAll_nil))

theorem clearBusy_busy : ((clearBusy k).run s).on fKilnBusy k = false := by
  simp only [clearBusy, doAll_cons_run, doAll_nil_run]
  rw [on_congr (setAx_get ..), on_congr (get_setF_ne (fun _ _ _ => by decide) (by decide)), on_setF_same (by decide)]
  simp only [fKilnBusy]
  decide

theorem clearBusy_state : ((clearBusy k).run s).get fKilnState k = s.get fKilnState k := by
  simp only [clearBusy, doAll_cons_run, doAll_nil_run]
  rw [setAx_get, get_setF_ne (fun _ _ _ => by decide) (by decide), get_setF_ne (fun _ _ _ => by decide) (by decide)]

/-- A kiln command of state st ends: the state is shown, BUSY is over, the event is set and the command completes. -/
def kilnDone (k st bit op : Nat) (v : W64) : Eff :=
  doAll [setF fKilnState k st, clearBusy k, setEvt .kiln k bit, kilnFinish k op eOK v]

theorem kilnDone_touches (k st bit op : Nat) (v : W64) : (kilnDone k st bit op v).Touches [.hi, .out]
    (fun r => r.blk = .host ∨ (r.blk = .kiln ∧ r.inst = k ∧ (r.off = 0x018 ∨ r.off = offEvtStatus ∨ r.off = 0x138)))
    (fun x => x = ⟨.kilnAddr, k, 0⟩) := by
  refine touches_doAll_cons (touches_setF (.inr ⟨rfl, rfl, .inl rfl⟩)) (touches_doAll_cons ?_ (touches_doAll_cons
    (touches_setEvt (.inr ⟨rfl, rfl, .inr (.inl rfl)⟩) (by simp)) (touches_doAll_cons ?_ touches_doAll_nil)))
  · exact (clearBusy_touches k).mono (by simp) (fun r hr => .inr (by rw [hr]; exact ⟨rfl, rfl, .inl rfl⟩)) (fun _ h => h)
  · refine (kilnFinish_touches k op eOK v).mono (fun _ h => h) (fun r hr => hr.imp_right fun hr => ?_) (fun _ h => h.elim)
    rw [hr]
    exact ⟨rfl, rfl, .inr (.inr rfl)⟩

theorem kilnDone_shows {st bit op : Nat} {v : W64} (hst : st < 8) (hbit : bit < 64) :
    ((kilnDone k st bit op v).run s).get fKilnState k = st ∧ ((kilnDone k st bit op v).run s).on fKilnBusy k = false ∧
      ((kilnDone k st bit op v).run s).on (fEvt .kiln bit) k = true ∧ ((kilnDone k st bit op v).run s).runningOf .kiln k op = [] := by
  have hfin := kilnFinish_touches k op eOK v
  have hevt : (setEvt .kiln k bit).Touches [.hi] (fun r => r = ⟨.kiln, k, offEvtStatus⟩) (fun _ => False) :=
    touches_setEvt rfl (by simp)
  simp only [kilnDone, doAll_cons_run, doAll_nil_run]
  refine ⟨?_, ?_, ?_, kilnFinish_runningOf ..⟩
  · rw [hfin.get _ (by simp [fKilnState]), hevt.get _ (by simp [fKilnState, offEvtStatus]), clearBusy_state, get_setF_same (by decide)]
    simp only [fKilnState]
    omega
  · rw [hfin.on _ (by simp [fKilnBusy]), hevt.on _ (by simp [fKilnBusy, offEvtStatus]), clearBusy_busy]
  · rw [hfin.on _ (by simp [fEvt, offEvtStatus]), setEvt_on hbit]

theorem effKilnLoadDone_run (hk : k < 256) (hb : s.on fKilnBusy k = true) (hop : s.get fBusyOp k = 0x10)
    (hon : s.tilesOn (s.img (s.ax ⟨.kilnAddr, k, 0⟩ - 1)).tiles = true)
    (he : s.loadErr3 k (s.img (s.ax ⟨.kilnAddr, k, 0⟩ - 1)) true = none) : (effKilnLoadDone k).run s =
      (kilnDone k 1 0 0x10 (BitVec.ofNat 64 (s.img (s.ax ⟨.kilnAddr, k, 0⟩ - 1)).tileCnt)).run
        ((loadWrite k (s.img (s.ax ⟨.kilnAddr, k, 0⟩ - 1))).run s) := by
  generalize hh : s.img (s.ax ⟨.kilnAddr, k, 0⟩ - 1) = h at hon he
  have heq : effKilnLoadDone k s = doAll (loadWrite k h :: [setF fKilnState k 1, clearBusy k, setEvt .kiln k 0,
      kilnFinish k 0x10 eOK (BitVec.ofNat 64 h.tileCnt)]) s := by
    have hno : ¬ (256 ≤ k ∨ (!s.on fKilnBusy k) = true ∨ s.get fBusyOp k ≠ 0x10 ∨ (!s.tilesOn h.tiles) = true) := by
      simp [hb, hop, hon, hk]
    rw [effKilnLoadDone]
    simp only [hh]
    rw [if_neg hno, he]
  rw [run_congr heq, doAll_cons_run, kilnDone]

theorem loadDone_answers (hk : k < 256) (hb : s.on fKilnBusy k = true) (hop : s.get fBusyOp k = 0x10)
    (hon : s.tilesOn (s.img (s.ax ⟨.kilnAddr, k, 0⟩ - 1)).tiles = true)
    (he : s.loadErr3 k (s.img (s.ax ⟨.kilnAddr, k, 0⟩ - 1)) true = none) :
    let h := s.img (s.ax ⟨.kilnAddr, k, 0⟩ - 1)
    Answers (.kilnLoadDone k) s fun t => t.get fKilnState k = 1 ∧ t.on fKilnBusy k = false ∧
      t.rd .kiln k 0x108 = BitVec.ofNat 64 h.a ∧ t.rd .kiln k 0x110 = BitVec.ofNat 64 (h.job + 2 ^ 8) ∧
      t.rd .kiln k 0x118 = BitVec.ofNat 64 h.tab ∧ t.on (fEvt .kiln 0) k = true ∧ t.runningOf .kiln k 0x10 = [] ∧
      (∀ w ∈ h.tiles, t.get fOwnKiln (s.phys w) = k ∧ t.on fInKiln (s.phys w) = true) ∧
      OnlyParts [.regs, .aux, .hi, .out, .sp, .ecc, .imem, .net, .sl, .fb] s t := by
  intro h
  have hrun := (effKilnLoadDone_run hk hb hop hon he).trans (congrArg _ (loadWrite_run k h s))
  have htiles : (tilesLoaded k h fun x => loadData h x.2 x.1).Touches [.imem, .sp, .ecc] tileRegs recAux :=
    tilesLoaded_touches fun x => loadData_touches h x.2 x.1
  have hplans := bindPlans_touches k h
  have hpage := pageWrites_touches k h
  have hcounts := countsBegin_touches k
  have hno := stepNoTaken_touches h
  have hdone := kilnDone_touches k 1 0 0x10 (BitVec.ofNat 64 h.tileCnt)
  generalize hu : (unitsBound s h) = units at hrun
  have hunits : units.Touches [] (fun r => r.blk = .glaze) (fun _ => False) := hu ▸ unitsBound_touches s h
  obtain ⟨hst, hbusy, hevt, hfin⟩ := kilnDone_shows (s := (stepNoTaken h).run ((countsBegin k).run ((pageWrites k h).run (units.run
    ((bindPlans k h).run ((tilesLoaded k h fun x => loadData h x.2 x.1).run s)))))) (k := k) (st := 1) (bit := 0) (op := 0x10)
    (v := BitVec.ofNat 64 h.tileCnt) (by omega) (by omega)
  obtain ⟨himg, hjob, htab⟩ := pageWrites_shows k h (units.run ((bindPlans k h).run
    ((tilesLoaded k h fun x => loadData h x.2 x.1).run s)))
  refine ⟨_, congrArg Host.Outcome.next hrun, hst, hbusy, ?_, ?_, ?_, hevt, hfin, fun w hw => ?_, ?_⟩
  · rw [hdone.rd _ (by simp [offEvtStatus]), hno.rd _ id, hcounts.rd _ (by simp), himg]
  · rw [hdone.rd _ (by simp [offEvtStatus]), hno.rd _ id, hcounts.rd _ (by simp), hjob]
  · rw [hdone.rd _ (by simp [offEvtStatus]), hno.rd _ id, hcounts.rd _ (by simp), htab]
  · have hown := tilesLoaded_owned (s := s) (w := fun x => loadData h x.2 x.1) (fun x => loadData_touches h x.2 x.1) hk hw
    exact owned_of_touches hdone (by simp) (owned_of_touches hno id (owned_of_touches hcounts (by simp) (owned_of_touches hpage
      (by simp) (owned_of_touches hunits (by simp) (owned_of_touches hplans (by simp [planRegs]) hown)))))
  · exact (htiles.only _ (by simp) (by simp) (by simp)).trans ((hplans.only _ (by simp) (by simp) (by simp)).trans
      ((hunits.only _ (by simp) (by simp) (by simp)).trans ((hpage.only _ (by simp) (by simp) (by simp)).trans
      ((hcounts.only _ (by simp) (by simp) (by simp)).trans ((hno.only _ (by simp) (by simp) (by simp)).trans
      (hdone.only _ (by simp) (by simp) (by simp)))))))

/-- Settles O34: an accepted LOAD is in progress or fails; with its tiles ON the kiln is LOADED. -/
theorem loadTakesTilesAndEndsLoaded : Obligations.LoadTakesTilesAndEndsLoaded := by
  unfold Obligations.LoadTakesTilesAndEndsLoaded
  exact ⟨fun s c k args h => ⟨load_busy_answers h, fun e he => load_fails_answers h he⟩,
    fun s k hk hb hop hon he => loadDone_answers hk hb hop hon he⟩

end Sys2Proof.Machine
end

section
/-! PROOFS. SWAP_OUT and SWAP_IN (chapter 13, R365–R367). -/

namespace Sys2Proof.Machine

variable {s : State} {c : CmdCtx} {k : Nat} {args : List W64}

/-! ## In progress -/

theorem lFirst_none {l : List (Option LErr)} (h : ∀ e ∈ l, e = none) : lFirst l = none := by
  induction l with
  | nil => rfl
  | cons e l ih =>
    rw [h e (List.mem_cons_self ..)]
    exact ih fun e he => h e (List.mem_cons_of_mem _ he)

theorem swapOutRun_run {a : Nat} (hreg : s.inRegionAny 6 a (s.kilnImg k).swapBytes = true)
    (hwin : s.winErr k true a (s.kilnImg k).swapBytes = none) :
    (swapOutRun k a).run s = (setAx ⟨.kilnAddr, k, 1⟩ (s.kilnImg k).swapBytes).run ((setBusy k 0x15 a).run s) := by
  have hchk : lFirst [lIf (!s.inRegionAny 6 a (s.kilnImg k).swapBytes) eARG, s.winErr k true a (s.kilnImg k).swapBytes] = none :=
    lFirst_none (by simp [hreg, hwin, lIf])
  have heq : swapOutRun k a s = doAll [setBusy k 0x15 a, setAx ⟨.kilnAddr, k, 1⟩ (s.kilnImg k).swapBytes] s := by
    simp only [swapOutRun, hchk]
  rw [run_congr heq, doAll_cons_run, doAll_cons_run, doAll_nil_run]

theorem swapOut_answers (h : s.admits c .kiln k (swapOutSpec k args))
    (hreg : (s.kilnTaken c k 0x15 args).inRegionAny 6 (argN args 0).toNat ((s.kilnTaken c k 0x15 args).kilnImg k).swapBytes = true)
    (hwin : (s.kilnTaken c k 0x15 args).winErr k true (argN args 0).toNat ((s.kilnTaken c k 0x15 args).kilnImg k).swapBytes = none) :
    Answers (.swapOut c k args) s fun t => t.seq = s.seq + 1 ∧ t.on fKilnBusy k = true ∧ t.get fBusyOp k = 0x15 ∧
      t.ax ⟨.kilnAddr, k, 0⟩ = (argN args 0).toNat + 1 ∧ t.get fKilnState k = s.get fKilnState k ∧
      OnlyParts [.seq, .regs, .aux, .hi, .out, .free] s t := by
  have hrun := (kilnCmd_run h).trans (swapOutRun_run hreg hwin)
  have hset := setBusy_touches k 0x15 (argN args 0).toNat
  have hlen (n : Nat) : (setAx ⟨.kilnAddr, k, 1⟩ n).Touches [] (fun _ => False) (fun x => x = ⟨.kilnAddr, k, 1⟩) := touches_setAx rfl
  refine ⟨_, congrArg Host.Outcome.next hrun, ?_, ?_, ?_, ?_, ?_, ?_⟩
  · exact ((hlen _).same _ .seq (by simp) (by simp) (by simp) : _ = _).trans
      ((hset.same _ .seq (by simp) (by simp) (by simp) : _ = _).trans kilnTaken_seq)
  · exact ((hlen _).on _ id).trans setBusy_busy
  · exact ((hlen _).get _ id).trans (setBusy_op (by decide))
  · exact ((hlen _).ax _ (by simp)).trans setBusy_addr
  · exact ((hlen _).get _ id).trans (setBusy_state.trans (kilnTaken_get (by decide)))
  · exact (kilnTaken_only (by simp) (by simp) (by simp) (by simp) (by simp)).trans ((hset.only _ (by simp) (by simp) (by simp)).trans
      ((hlen _).only _ (by simp) (by simp) (by simp)))

theorem doAll_two_then_one (a b c : Eff) (s : State) : (doAll [a, b, c]).run s = c.run ((doAll [a, b]).run s) := by
  simp only [doAll_cons_run, doAll_nil_run]

theorem swapInRun_run (h1 : s.winErr k false (s.kilnImg k).a (s.kilnImg k).bytes = none)
    (h2 : s.winErr k false (s.get fSwapSlot k) (s.kilnImg k).swapBytes = none) (h3 : s.rectErr k (s.kilnImg k) = none)
    (h4 : s.rsvErrL k (s.kilnImg k) (s.ax ⟨.kilnMoved, k, 0⟩ ≠ 0) = none) :
    (swapInRun k).run s = (setBusy k 0x16 (s.get fSwapSlot k)).run ((rectAsks (s.kilnImg k).tiles).run s) := by
  have hchk : lFirst [s.winErr k false (s.kilnImg k).a (s.kilnImg k).bytes,
      s.winErr k false (s.get fSwapSlot k) (s.kilnImg k).swapBytes, s.rectErr k (s.kilnImg k)] = none :=
    lFirst_none (by simp [h1, h2, h3])
  have heq : swapInRun k s = doAll [testsEnd (s.kilnImg k).tiles, wakeRect (s.kilnImg k).tiles,
      setBusy k 0x16 (s.get fSwapSlot k)] s := by
    simp only [swapInRun, testsEnd, hchk, h4]
  exact (run_congr heq).trans (doAll_two_then_one ..)

theorem swapIn_answers (h : s.admits c .kiln k (swapInSpec k args)) :
    let u := s.kilnTaken c k 0x16 args
    let h := u.kilnImg k
    u.winErr k false h.a h.bytes = none → u.winErr k false (u.get fSwapSlot k) h.swapBytes = none → u.rectErr k h = none →
    u.rsvErrL k h (u.ax ⟨.kilnMoved, k, 0⟩ ≠ 0) = none →
    Answers (.swapIn c k args) s fun t => t.seq = s.seq + 1 ∧ t.on fKilnBusy k = true ∧ t.get fBusyOp k = 0x16 ∧
      t.ax ⟨.kilnAddr, k, 0⟩ = s.get fSwapSlot k + 1 ∧ t.get fKilnState k = 7 ∧
      ∀ w ∈ h.tiles, s.ax ⟨.tilePwr, s.phys w, 0⟩ = 0 → w ∈ t.pw.wakes ∨ w ∈ t.pw.waking := by
  intro u hd h1 h2 h3 h4
  have hrun := (kilnCmd_run h).trans (swapInRun_run h1 h2 h3 h4)
  have hset := setBusy_touches k 0x16 (u.get fSwapSlot k)
  have hask := rectAsks_touches hd.tiles
  have hst : s.get fKilnState k = 7 := by
    obtain ⟨-, hb, -⟩ := kiln_admitted h
    have hbusy := not_busy_of_unblocked (by omega) hb
    simpa [State.kilnBlocked, hbusy] using hb
  refine ⟨_, congrArg Host.Outcome.next hrun, ?_, setBusy_busy, setBusy_op (by decide), ?_, ?_, fun w hw hoff => ?_⟩
  · exact (hset.same _ .seq (by simp) (by simp) (by simp) : _ = _).trans
      ((hask.same _ .seq (by decide) (by simp) (by simp) : _ = _).trans kilnTaken_seq)
  · exact setBusy_addr.trans (congrArg (· + 1) (kilnTaken_get (f := fSwapSlot) (by decide)))
  · rw [setBusy_state, hask.get _ (by simp [selftestRegs, RK.tileOf, fKilnState]), kilnTaken_get (by decide), hst]
  · have hpw (t : State) : ((setBusy k 0x16 (u.get fSwapSlot k)).run t).pw = t.pw := hset.same t .pw (by simp) (by simp) (by simp)
    rw [hpw]
    refine rectAsks_asks hw ?_
    rwa [kilnTaken_ax (by simp) (by simp), kilnTaken_phys]

/-! ## SWAPPED_OUT -/

/-- The tiles' records are written into the slot. -/
def slotWritten (s : State) (k a : Nat) : Eff := forEach (s.kilnTiles k).zipIdx fun x =>
  storeWrite (a + x.2 * (s.kilnImg k).swapRec) (s.swapData (s.kilnImg k) (decide (s.get fKilnState k = 5)) x.1)

theorem slotWritten_touches (s : State) (k a : Nat) :
    (slotWritten s k a).Touches [.store, .bad, .rm] (fun r => r.blk = .slip) (fun _ => False) :=
  touches_forEach fun _ _ => (storeWrite_touches _ _).mono (fun _ h => h) (fun _ h => h.1) (fun _ h => h)

theorem kilnTiles_of_touches {e : Eff} {ps : List Component} {R : RK → Prop} {A : Aux → Prop} (he : e.Touches ps R A)
    (hR : ¬ R ⟨.kiln, k, 0x100⟩) : (e.run s).kilnTiles k = s.kilnTiles k := by
  simp only [State.kilnTiles, he.get s (f := fKilnX0) hR, he.get s (f := fKilnX1) hR, he.get s (f := fKilnY0) hR,
    he.get s (f := fKilnY1) hR]

/-- The slot a SWAP register names, with the state it was saved from. -/
def slotWord (s : State) (k a : Nat) : W64 := BitVec.ofNat 64 (a + 2 ^ 48 + if s.get fKilnState k = 5 then 2 ^ 49 else 0)

/-- The end of a SWAP_OUT: SWAPPED_OUT, SWAP names the slot. -/
def swappedOut (k : Nat) (w v : W64) : Eff := doAll [setF fKilnState k 7, setAx ⟨.kilnMoved, k, 0⟩ 0, setReg .kiln k 0x130 w,
  clearBusy k, setEvt .kiln k 5, kilnFinish k 0x15 eOK v]

theorem swappedOut_touches (k : Nat) (w v : W64) :
    (swappedOut k w v).Touches [.hi, .out] (fun r => r.blk = .host ∨ r.blk = .kiln) (fun _ => True) := by
  refine touches_doAll_cons (touches_setF (.inr rfl)) (touches_doAll_cons (touches_setAx trivial) (touches_doAll_cons
    (touches_setReg (.inr rfl)) (touches_doAll_cons ?_ (touches_doAll_cons (touches_setEvt (.inr rfl) (by simp)) (touches_doAll_cons ?_
    touches_doAll_nil)))))
  · exact (clearBusy_touches k).mono (by simp) (fun r hr => .inr (by rw [hr])) (fun _ _ => trivial)
  · exact (kilnFinish_touches k 0x15 eOK v).mono (fun _ h => h) (fun r hr => hr.imp_right fun hr => by rw [hr]) (fun _ h => h.elim)

theorem swappedOut_shows (s : State) (k : Nat) (w v : W64) : ((swappedOut k w v).run s).get fKilnState k = 7 ∧
    ((swappedOut k w v).run s).on fKilnBusy k = false ∧ ((swappedOut k w v).run s).runningOf .kiln k 0x15 = [] ∧
    ((swappedOut k w v).run s).rd .kiln k 0x130 = w ∧ ((swappedOut k w v).run s).on (fEvt .kiln 5) k = true := by
  have hfin := kilnFinish_touches k 0x15 eOK v
  have hevt : (setEvt .kiln k 5).Touches [.hi] (fun r => r = ⟨.kiln, k, offEvtStatus⟩) (fun _ => False) :=
    touches_setEvt rfl (by simp)
  have hclr := clearBusy_touches k
  have hreg : (setReg .kiln k 0x130 w).Touches [] (fun r => r = ⟨.kiln, k, 0x130⟩) (fun _ => False) := touches_setReg rfl
  simp only [swappedOut, doAll_cons_run, doAll_nil_run]
  refine ⟨?_, ?_, kilnFinish_runningOf .., ?_, ?_⟩
  · rw [hfin.get _ (by simp [fKilnState]), hevt.get _ (by simp [fKilnState, offEvtStatus]), clearBusy_state,
      hreg.get _ (by simp [fKilnState]), setAx_get, get_setF_same (by decide)]
    simp only [fKilnState]
    decide
  · rw [hfin.on _ (by simp [fKilnBusy]), hevt.on _ (by simp [fKilnBusy, offEvtStatus]), clearBusy_busy]
  · rw [hfin.rd _ (by simp), hevt.rd _ (by simp [offEvtStatus]), hclr.rd _ (by simp), setReg_run, State.rd_apply1]
    simp
  · rw [hfin.on _ (by simp [fEvt, offEvtStatus]), setEvt_on (by omega)]

theorem effSwapOutDone_run (hk : k < 256) (hb : s.on fKilnBusy k = true) (hop : s.get fBusyOp k = 0x15)
    (hbad : ((s.kilnTiles k).any fun w => s.badIn (s.phys w) fun x =>
      (s.kilnImg k).saveBase ≤ x && x < (s.kilnImg k).saveBase + 64 * (s.kilnImg k).saveLines) = false)
    (hwr : s.storeWrErr (s.ax ⟨.kilnAddr, k, 0⟩ - 1) (s.kilnImg k).swapBytes = none) : (effSwapOutDone k).run s =
      (swappedOut k (slotWord s k (s.ax ⟨.kilnAddr, k, 0⟩ - 1)) (BitVec.ofNat 64 (s.kilnImg k).swapBytes)).run
        ((releaseKiln k).run ((slotWritten s k (s.ax ⟨.kilnAddr, k, 0⟩ - 1)).run s)) := by
  have hchk : lFirst [lIf ((s.kilnTiles k).any fun w => s.badIn (s.phys w) fun x =>
      (s.kilnImg k).saveBase ≤ x && x < (s.kilnImg k).saveBase + 64 * (s.kilnImg k).saveLines) eECC_UE,
      (s.storeWrErr (s.ax ⟨.kilnAddr, k, 0⟩ - 1) (s.kilnImg k).swapBytes).map fun e => ⟨e.1, some e.2, none⟩] = none :=
    lFirst_none (by simp only [hbad, hwr]; simp [lIf])
  have hno : ¬ (256 ≤ k ∨ (!s.on fKilnBusy k) = true ∨ s.get fBusyOp k ≠ 0x15) := by simp [hb, hop, hk]
  have heq : effSwapOutDone k s = doAll (slotWritten s k (s.ax ⟨.kilnAddr, k, 0⟩ - 1) :: releaseKiln k ::
      [setF fKilnState k 7, setAx ⟨.kilnMoved, k, 0⟩ 0, setReg .kiln k 0x130 (slotWord s k (s.ax ⟨.kilnAddr, k, 0⟩ - 1)),
        clearBusy k, setEvt .kiln k 5, kilnFinish k 0x15 eOK (BitVec.ofNat 64 (s.kilnImg k).swapBytes)]) s := by
    rw [effSwapOutDone, if_neg hno]
    simp only [hchk]
    simp only [slotWritten, slotWord]
  rw [run_congr heq, doAll_cons_run, doAll_cons_run, swappedOut]

theorem swapOutDone_answers (hk : k < 256) (hb : s.on fKilnBusy k = true) (hop : s.get fBusyOp k = 0x15)
    (hbad : ((s.kilnTiles k).any fun w => s.badIn (s.phys w) fun x =>
      (s.kilnImg k).saveBase ≤ x && x < (s.kilnImg k).saveBase + 64 * (s.kilnImg k).saveLines) = false)
    (hwr : s.storeWrErr (s.ax ⟨.kilnAddr, k, 0⟩ - 1) (s.kilnImg k).swapBytes = none) :
    Answers (.swapOutDone k) s fun t => t.get fKilnState k = 7 ∧ t.on fKilnBusy k = false ∧ t.runningOf .kiln k 0x15 = [] ∧
      t.rd .kiln k 0x130 =
        BitVec.ofNat 64 (s.ax ⟨.kilnAddr, k, 0⟩ - 1 + 2 ^ 48 + if s.get fKilnState k = 5 then 2 ^ 49 else 0) ∧
      t.on (fEvt .kiln 5) k = true ∧ ∀ w ∈ s.kilnTiles k, t.on fInKiln (s.phys w) = false := by
  have hrun := effSwapOutDone_run hk hb hop hbad hwr
  generalize hw' : slotWord s k (s.ax ⟨.kilnAddr, k, 0⟩ - 1) = w' at hrun
  have hslot := slotWritten_touches s k (s.ax ⟨.kilnAddr, k, 0⟩ - 1)
  generalize hu : (slotWritten s k (s.ax ⟨.kilnAddr, k, 0⟩ - 1)).run s = u at hrun
  obtain ⟨hst, hbusy, hfin, hswap, hevt⟩ := swappedOut_shows ((releaseKiln k).run u) k w' (BitVec.ofNat 64 (s.kilnImg k).swapBytes)
  refine ⟨_, congrArg Host.Outcome.next hrun, hst, hbusy, hfin, hswap.trans hw'.symm, hevt, fun w hw => ?_⟩
  have hgeo : u.geo = s.geo := hu ▸ hslot.geo s (by simp)
  have htiles : u.kilnTiles k = s.kilnTiles k := hu ▸ kilnTiles_of_touches hslot (by simp)
  have hphys : u.phys w = s.phys w := by rw [State.phys, hgeo, State.phys]
  rw [(swappedOut_touches k w' _).on _ (by simp [fInKiln]), ← hphys]
  exact on_eq_false_iff.2 (releaseKiln_tiles (htiles ▸ hw)).1

/-! ## LOADED or STOPPED again -/

theorem swapTile_touches (h : ImgHdr) (a : Nat) (stopped : Bool) (t : Nat) :
    (swapTile h a stopped t).Touches [.imem, .sp, .ecc] (fun r => r.blk = .tile) (fun _ => False) := fun s => by
  unfold swapTile
  refine within_doAll (touches_doAll_cons (fun s u hu => ?_) (touches_doAll_cons (touches_setF rfl) (touches_doAll_cons
    (touches_spWr (by simp) (by simp)) touches_doAll_nil)))
  obtain ⟨i, -, rfl⟩ := List.mem_map.1 hu
  simp [Upd.Within, Upd.parts]

/-- A whole register is written with 0. -/
theorem setBits_whole_zero (v : W64) : setBits v 0 64 0 = 0 := by
  refine BitVec.eq_of_getLsbD_eq fun i hi => ?_
  rw [getLsbD_setBits _ _ _ _ _ hi]
  simp [hi]

/-- The end of a SWAP_IN: the state is shown, SWAP is 0, the command completes. -/
def swappedIn (k st : Nat) (v : W64) : Eff := doAll [setAx ⟨.kilnMoved, k, 0⟩ 0, setF fKilnState k st, setF fKilnSwap k 0,
  clearBusy k, kilnFinish k 0x16 eOK v]

theorem swappedIn_touches (k st : Nat) (v : W64) :
    (swappedIn k st v).Touches [.hi, .out] (fun r => r.blk = .host ∨ r.blk = .kiln) (fun _ => True) := by
  refine touches_doAll_cons (touches_setAx trivial) (touches_doAll_cons (touches_setF (.inr rfl)) (touches_doAll_cons
    (touches_setF (.inr rfl)) (touches_doAll_cons ?_ (touches_doAll_cons ?_ touches_doAll_nil))))
  · exact (clearBusy_touches k).mono (by simp) (fun r hr => .inr (by rw [hr])) (fun _ _ => trivial)
  · exact (kilnFinish_touches k 0x16 eOK v).mono (fun _ h => h) (fun r hr => hr.imp_right fun hr => by rw [hr]) (fun _ h => h.elim)

theorem swappedIn_shows (s : State) (k : Nat) {st : Nat} (v : W64) (hst : st < 8) : ((swappedIn k st v).run s).get fKilnState k = st ∧
    ((swappedIn k st v).run s).on fKilnBusy k = false ∧ ((swappedIn k st v).run s).rd .kiln k 0x130 = 0 ∧
    ((swappedIn k st v).run s).runningOf .kiln k 0x16 = [] := by
  have hfin := kilnFinish_touches k 0x16 eOK v
  have hclr := clearBusy_touches k
  simp only [swappedIn, doAll_cons_run, doAll_nil_run]
  refine ⟨?_, ?_, ?_, kilnFinish_runningOf ..⟩
  · rw [hfin.get _ (by simp [fKilnState]), clearBusy_state, get_setF_ne (fun _ _ => by decide) (by decide), get_setF_same (by decide)]
    simp only [fKilnState]
    omega
  · rw [hfin.on _ (by simp [fKilnBusy]), clearBusy_busy]
  · rw [hfin.rd _ (by simp), hclr.rd _ (by simp), rd_setF, if_pos ⟨rfl, rfl, rfl⟩]
    exact setBits_whole_zero _

theorem effSwapInDone_run (hk : k < 256) (hb : s.on fKilnBusy k = true) (hop : s.get fBusyOp k = 0x16)
    (hon : s.tilesOn (s.kilnImg k).tiles = true) (he : s.loadErr3 k (s.kilnImg k) (s.ax ⟨.kilnMoved, k, 0⟩ ≠ 0) = none)
    (hbad : s.badBursts (s.ax ⟨.kilnAddr, k, 0⟩ - 1) (s.kilnImg k).swapBytes = []) : (effSwapInDone k).run s =
      (swappedIn k (if s.on fFromStopped k then 5 else 1) (BitVec.ofNat 64 (s.kilnImg k).swapBytes)).run
        ((bindPlans k (s.kilnImg k)).run ((tilesLoaded k (s.kilnImg k) fun x => swapTile (s.kilnImg k)
          (s.ax ⟨.kilnAddr, k, 0⟩ - 1 + x.2 * (s.kilnImg k).swapRec) (s.on fFromStopped k) x.1).run s)) := by
  generalize hh : s.kilnImg k = h at hon he hbad
  have hchk : lFirst [s.loadErr3 k h (s.ax ⟨.kilnMoved, k, 0⟩ ≠ 0), lIf (s.badBursts (s.ax ⟨.kilnAddr, k, 0⟩ - 1) h.swapBytes ≠ [])
      eECC_UE ((s.badBursts (s.ax ⟨.kilnAddr, k, 0⟩ - 1) h.swapBytes).head?.map fun b => storeInfo (b * 32))] = none :=
    lFirst_none (by rw [he, hbad]; simp [lIf])
  have hno : ¬ (256 ≤ k ∨ (!s.on fKilnBusy k) = true ∨ s.get fBusyOp k ≠ 0x16 ∨ (!s.tilesOn h.tiles) = true) := by
    simp [hb, hop, hon, hk]
  have heq : effSwapInDone k s = doAll ((tilesLoaded k h fun x => swapTile h
      (s.ax ⟨.kilnAddr, k, 0⟩ - 1 + x.2 * h.swapRec) (s.on fFromStopped k) x.1) :: bindPlans k h ::
      [setAx ⟨.kilnMoved, k, 0⟩ 0, setF fKilnState k (if s.on fFromStopped k then 5 else 1), setF fKilnSwap k 0, clearBusy k,
        kilnFinish k 0x16 eOK (BitVec.ofNat 64 h.swapBytes)]) s := by
    rw [effSwapInDone]
    simp only [hh]
    rw [if_neg hno]
    simp only [hchk]
    rw [tilesLoaded]
  rw [run_congr heq, doAll_cons_run, doAll_cons_run, swappedIn]

theorem swapInDone_answers (hk : k < 256) (hb : s.on fKilnBusy k = true) (hop : s.get fBusyOp k = 0x16)
    (hon : s.tilesOn (s.kilnImg k).tiles = true) (he : s.loadErr3 k (s.kilnImg k) (s.ax ⟨.kilnMoved, k, 0⟩ ≠ 0) = none)
    (hbad : s.badBursts (s.ax ⟨.kilnAddr, k, 0⟩ - 1) (s.kilnImg k).swapBytes = []) :
    Answers (.swapInDone k) s fun t => t.get fKilnState k = (if s.on fFromStopped k then 5 else 1) ∧
      t.on fKilnBusy k = false ∧ t.rd .kiln k 0x130 = 0 ∧ t.runningOf .kiln k 0x16 = [] ∧
      ∀ w ∈ (s.kilnImg k).tiles, t.get fOwnKiln (s.phys w) = k ∧ t.on fInKiln (s.phys w) = true := by
  have hrun := effSwapInDone_run hk hb hop hon he hbad
  obtain ⟨hst, hbusy, hswap, hfin⟩ := swappedIn_shows ((bindPlans k (s.kilnImg k)).run ((tilesLoaded k (s.kilnImg k) fun x =>
    swapTile (s.kilnImg k) (s.ax ⟨.kilnAddr, k, 0⟩ - 1 + x.2 * (s.kilnImg k).swapRec) (s.on fFromStopped k) x.1).run s)) k
    (st := if s.on fFromStopped k then 5 else 1) (BitVec.ofNat 64 (s.kilnImg k).swapBytes) (by split <;> omega)
  refine ⟨_, congrArg Host.Outcome.next hrun, hst, hbusy, hswap, hfin, fun w hw => ?_⟩
  have hown := tilesLoaded_owned (s := s) (fun x => swapTile_touches (s.kilnImg k)
    (s.ax ⟨.kilnAddr, k, 0⟩ - 1 + x.2 * (s.kilnImg k).swapRec) (s.on fFromStopped k) x.1) hk hw
  exact owned_of_touches (swappedIn_touches k _ _) (by simp) (owned_of_touches (bindPlans_touches k _) (by simp [planRegs]) hown)

/-- Settles O38: an accepted swap is in progress; its end leaves the kiln SWAPPED_OUT, or with its tiles again. -/
theorem kilnsSwapOutAndIn : Obligations.KilnsSwapOutAndIn := by
  unfold Obligations.KilnsSwapOutAndIn
  exact ⟨fun s c k args h hreg hwin => swapOut_answers h hreg hwin,
    fun s k hk hb hop hbad hwr => swapOutDone_answers hk hb hop hbad hwr,
    fun s c k args h => swapIn_answers h,
    fun s k hk hb hop hon he hbad => swapInDone_answers hk hb hop hon he hbad⟩

end Sys2Proof.Machine
end

section
/-! PROOFS. STEP opens a step, the step boundary ends it (chapter 13, R350, R354). -/

namespace Sys2Proof.Machine

variable {s : State} {c : CmdCtx} {k j n p t : Nat} {args : List W64}

/-! ## A tile starts -/

/-- The blocks of a tile and of its router. -/
def tileBlk : Blk → Bool
  | .tile => true | .vec => true | .core => true | .tdma => true | .router => true | _ => false

/-- What the start of a step leaves: the step's own scalars. -/
def stepQuiet (a : Aux) : Prop := a.kind ≠ .stepOpen ∧ a.kind ≠ .stepNo ∧ a.kind ≠ .voted

/-- The parts of the state the start of a tile may change. -/
def startParts : List Component := [.hi, .acc, .row, .rng, .tl]

/-- The start of a tile changes registers of tiles alone. -/
def Eff.Starts (e : Eff) : Prop := e.Touches startParts (fun r => tileBlk r.blk = true) stepQuiet

theorem starts_setF {f : Fld} {i x : Nat} (h : tileBlk f.blk = true) : (setF f i x).Starts := touches_setF h

theorem starts_setReg {blk : Blk} {i o : Nat} {v : W64} (h : tileBlk blk = true) : (setReg blk i o v).Starts := touches_setReg h

theorem starts_setAx {a : Aux} {x : Nat} (h : stepQuiet a) : (setAx a x).Starts := touches_setAx h

theorem clearLoops_starts (p : Nat) : (clearLoops p).Starts :=
  touches_doAll_cons (touches_forEach fun _ _ => starts_setF rfl) (touches_doAll_cons (touches_forEach fun _ _ =>
    touches_doAll_cons (starts_setReg rfl) (touches_doAll_cons (starts_setAx (by simp [stepQuiet])) touches_doAll_nil))
    touches_doAll_nil)

theorem tbsEmpty_starts (p : Nat) : (tbsEmpty p).Starts :=
  touches_forEach fun _ _ => touches_tbDiscard (fun _ => rfl) (by decide)

theorem flipBank_starts (p : Nat) : (flipBank p).Starts := fun s => by
  unfold flipBank
  exact within_doAll (touches_doAll_cons (starts_setF rfl) (touches_doAll_cons (starts_setF rfl) (touches_doAll_cons (starts_setF rfl)
    (touches_doAll_cons (touches_setEvt rfl (by decide)) touches_doAll_nil))))

theorem seedLanes_starts (t p stream step : Nat) : (seedLanes t p stream step).Starts := fun s u hu => by
  rcases List.mem_append.1 hu with hu | hu
  · obtain ⟨i, -, rfl⟩ := List.mem_map.1 hu
    simp [Upd.Within, Upd.parts, startParts]
  · exact (starts_setF rfl : (setF fRngStream p stream).Starts) s u hu

theorem tileFresh_starts (t p step : Nat) : (tileFresh t p step).Starts := by
  have hclear : Eff.Starts fun _ => [.accClear fun a => a / 16384 = p, .rowClear fun a => a / 3 / 256 = p] := fun s u hu => by
    simp only [List.mem_cons, List.not_mem_nil, or_false] at hu
    rcases hu with rfl | rfl <;> simp [Upd.Within, Upd.parts, startParts]
  exact touches_doAll_cons (starts_setF rfl) (touches_doAll_cons (fun s => (starts_setF rfl : (setF fPc p _).Starts) s)
    (touches_doAll_cons (starts_setF rfl) (touches_doAll_cons (seedLanes_starts t p 0 step) (touches_doAll_cons (starts_setF rfl)
    (touches_doAll_cons hclear (touches_doAll_cons (touches_forEach fun _ _ => starts_setF rfl) (touches_doAll_cons
    (tbsEmpty_starts p) touches_doAll_nil)))))))

theorem tileStart_starts (t p step : Nat) : (tileStart t p step).Starts := fun s => by
  unfold tileStart
  split
  · exact starts_setAx (by simp [stepQuiet]) s
  split
  · exact within_nil
  refine within_doAll (touches_doAll_cons (starts_setF rfl) (touches_doAll_cons (starts_setAx (by simp [stepQuiet])) (touches_doAll_cons
    (starts_setAx (by simp [stepQuiet])) (touches_doAll_cons (touches_forEach fun n _ s => ?_) (touches_doAll_cons (clearLoops_starts p)
    (touches_doAll_cons (touches_forEach fun q _ => ?_) (touches_doAll_cons (touches_whenE (flipBank_starts p)) (touches_doAll_cons
    (starts_setF rfl) (touches_doAll_cons (tileFresh_starts t p step) touches_doAll_nil)))))))))
  · exact (starts_setF rfl : (setF (fSem n) p _).Starts) s
  · exact touches_doAll_cons (starts_setReg rfl) (touches_doAll_cons (starts_setAx (by simp [stepQuiet])) (touches_doAll_cons
      (starts_setAx (by simp [stepQuiet])) touches_doAll_nil))

theorem tileStepStart_starts (t p step : Nat) : (tileStepStart t p step).Starts := fun s => by
  unfold tileStepStart
  split
  · exact within_nil
  exact within_doAll (touches_doAll_cons (starts_setF rfl) (touches_doAll_cons (starts_setAx (by simp [stepQuiet])) (touches_doAll_cons
    (clearLoops_starts p) (touches_doAll_cons (tileFresh_starts t p step) touches_doAll_nil))))

/-! ## A kiln starts a step -/

theorem kilnCredits_starts (k : Nat) : (kilnCredits k).Starts := fun s => by
  unfold kilnCredits
  refine within_doAll (touches_doAll_cons (touches_forEach fun p _ => ?_) (touches_doAll_cons (touches_forEach fun f _ =>
    starts_setAx (by simp [stepQuiet])) (touches_doAll_cons (fun s u hu => ?_) touches_doAll_nil)))
  · refine touches_doAll_cons (touches_forEach fun r _ s => (starts_setF rfl : (setF (fRouteCredit r) p _).Starts) s)
      (touches_doAll_cons (touches_forEach fun c _ s => ?_) (touches_doAll_cons (touches_forEach fun q _ =>
        starts_setAx (by simp [stepQuiet])) touches_doAll_nil))
    exact within_doAll (touches_doAll_cons (starts_setF rfl) (touches_doAll_cons (starts_setF rfl) (touches_doAll_cons
      (starts_setAx (by simp [stepQuiet])) touches_doAll_nil)))
  · simp only [List.mem_singleton] at hu
    subst hu
    refine ⟨by simp [Upd.parts], fun a ha => ?_⟩
    simp only [Bool.and_eq_true, decide_eq_true_eq] at ha
    simp [stepQuiet, ha.1]

/-- The registers the start of a kiln's step may change. -/
def kilnStepRegs (r : RK) : Prop := tileBlk r.blk = true ∨ r.blk = .slip ∨ (r.blk = .kiln ∧ (r.off = 0x018 ∨ r.off = 0x120))

/-- The kiln's page: in the step, with no restart due, its number shown. -/
def stepShown (k n : Nat) : Eff := doAll [setF fInStep k 1, setF fRestart k 0, setF fKStep k n]

/-- What a kiln's tiles, contexts and windows do as a step starts. -/
def stepStarts (s : State) (k n : Nat) : List Eff := 
  let restart := s.on fRestart k
  let ctxs := s.kilnCtx k
  let wins := s.kilnWins k
  [setAx ⟨.kilnLast, k, 0⟩ n,
    forEach (s.kilnTiles k) (fun t => doAll [setF fOwnStep (s.phys t) n,
      if restart then tileStart t (s.phys t) n else tileStepStart t (s.phys t) n]),
    forEach ctxs (fun c => doAll [setF (fCtxState c.2) c.1 1, setF (fCtxIndex c.2) c.1 0]),
    forEach wins (fun w => setF (fWinState w.2) w.1 0),
    modSl fun l => { dropReads s.wcount (fun t => ctxs.contains (t.port, t.ctx)) (fun g => wins.contains (g.port, g.w)) l with
      glog := l.glog.filter fun g => g.kiln ≠ k }]

theorem kilnStepStart_eq (k n : Nat) (s : State) : kilnStepStart k n s = doAll (whenE (fun _ => s.on fRestart k) (kilnCredits k) ::
    ([setF fInStep k 1, setF fRestart k 0, setF fKStep k n] ++ stepStarts s k n)) s := rfl

theorem kilnStepStart_run (k n : Nat) (s : State) : (kilnStepStart k n).run s = (doAll (stepStarts s k n)).run ((stepShown k n).run
    ((whenE (fun _ => s.on fRestart k) (kilnCredits k)).run s)) := by
  rw [run_congr (kilnStepStart_eq k n s), doAll_cons_run, doAll_append_run, stepShown]

theorem stepStarts_touches (s : State) (k n : Nat) : (doAll (stepStarts s k n)).Touches (.sl :: startParts)
    (fun r => tileBlk r.blk = true ∨ r.blk = .slip) stepQuiet := by
  refine touches_doAll_cons (touches_setAx (by simp [stepQuiet])) (touches_doAll_cons (touches_forEach fun t _ =>
    touches_doAll_cons (touches_setF (.inl rfl)) (touches_doAll_cons ?_ touches_doAll_nil)) (touches_doAll_cons
    (touches_forEach fun c _ => touches_doAll_cons (touches_setF (.inr rfl)) (touches_doAll_cons (touches_setF (.inr rfl))
    touches_doAll_nil)) (touches_doAll_cons (touches_forEach fun w _ => touches_setF (.inr rfl)) (touches_doAll_cons
    (touches_modSl (by simp)) touches_doAll_nil))))
  have hmono {e : Eff} (h : e.Starts) : e.Touches (.sl :: startParts) (fun r => tileBlk r.blk = true ∨ r.blk = .slip) stepQuiet :=
    Eff.Touches.mono h (fun _ h => List.mem_cons_of_mem _ h) (fun _ h => .inl h) (fun _ h => h)
  split
  · exact hmono (tileStart_starts _ _ _)
  · exact hmono (tileStepStart_starts _ _ _)

theorem stepShown_touches (k n : Nat) : (stepShown k n).Touches [] (fun r => r = ⟨.kiln, k, 0x018⟩ ∨ r = ⟨.kiln, k, 0x120⟩)
    (fun _ => False) :=
  touches_doAll_cons (touches_setF (.inl rfl)) (touches_doAll_cons (touches_setF (.inl rfl)) (touches_doAll_cons
    (touches_setF (.inr rfl)) touches_doAll_nil))

theorem kilnStepStart_touches (k n : Nat) : (kilnStepStart k n).Touches (.sl :: startParts) kilnStepRegs stepQuiet := by
  refine touches_of _ (kilnStepStart_eq k n) fun s => touches_doAll_cons (touches_whenE ?_) (touches_doAll_append ?_ ?_)
  · exact Eff.Touches.mono (kilnCredits_starts k) (fun _ h => List.mem_cons_of_mem _ h) (fun _ h => .inl h) (fun _ h => h)
  · refine Eff.Touches.mono (stepShown_touches k n) (by simp) (fun r hr => .inr (.inr ?_)) (fun _ h => h.elim)
    rcases hr with rfl | rfl
    · exact ⟨rfl, .inl rfl⟩
    · exact ⟨rfl, .inr rfl⟩
  · exact (stepStarts_touches s k n).mono (fun _ h => h) (fun _ h => h.elim .inl fun h => .inr (.inl h)) (fun _ h => h)

/-- Kiln x is in step n. -/
def State.inStepNo (s : State) (x n : Nat) : Prop := s.on fInStep x = true ∧ s.on fRestart x = false ∧ s.get fKStep x = n

theorem inStepNo_of_touches {e : Eff} {ps : List Component} {R : RK → Prop} {A : Aux → Prop} (he : e.Touches ps R A) {x : Nat}
    (h1 : ¬ R ⟨.kiln, x, 0x018⟩) (h2 : ¬ R ⟨.kiln, x, 0x120⟩) (hs : s.inStepNo x n) : (e.run s).inStepNo x n :=
  ⟨(he.on s h1).trans hs.1, (he.on s h1).trans hs.2.1, (he.get s h2).trans hs.2.2⟩

theorem stepShown_shows (x : Nat) (hn : n < 2 ^ 32) : ((stepShown x n).run s).inStepNo x n := by
  simp only [stepShown, doAll_cons_run, doAll_nil_run]
  refine ⟨?_, ?_, ?_⟩
  · rw [on_congr (get_setF_ne (fun _ _ => by decide) (by decide)), on_congr (get_setF_ne (fun _ _ _ => by decide) (by decide)),
      on_setF_same (by decide)]
    simp only [fInStep]
    decide
  · rw [on_congr (get_setF_ne (fun _ _ => by decide) (by decide)), on_setF_same (by decide)]
    simp only [fRestart]
    decide
  · rw [get_setF_same (by decide)]
    simp only [fKStep]
    omega

theorem kilnStepStart_shows (x : Nat) (hn : n < 2 ^ 32) : ((kilnStepStart x n).run s).inStepNo x n := by
  rw [kilnStepStart_run]
  exact inStepNo_of_touches (stepStarts_touches s x n) (by simp [tileBlk]) (by simp [tileBlk]) (stepShown_shows x hn)

theorem kilnStepStart_keeps (x y : Nat) (hn : n < 2 ^ 32) (hs : s.inStepNo x n) : ((kilnStepStart y n).run s).inStepNo x n := by
  by_cases hxy : x = y
  · rw [hxy]
    exact kilnStepStart_shows y hn
  · rw [kilnStepStart_run]
    refine inStepNo_of_touches (stepStarts_touches s y n) (by simp [tileBlk]) (by simp [tileBlk]) ?_
    refine inStepNo_of_touches (stepShown_touches y n) (by simp [hxy]) (by simp [hxy]) ?_
    exact inStepNo_of_touches (touches_whenE (kilnCredits_starts y)) (by simp [tileBlk]) (by simp [tileBlk]) hs

/-! ## The step opens -/

theorem openBkts_eq (j tab n : Nat) (s : State) : openBkts j tab n s = doAll
    [forEach (s.pg.buckets.filter fun b => b.job = j && (b.state = 5 || b.state = 6)) lastDone,
      modPg fun g => { g with buckets := g.buckets.filter (fun b => b.job ≠ j) ++
        (List.range (s.stNum (tab + 16) 4)).map fun i => s.newBkt j (s.stNum (tab + 8) 8) i n },
      forEach ((List.range (s.stNum (tab + 16) 4)).map fun i => s.newBkt j (s.stNum (tab + 8) 8) i n) bktStatus] s := rfl

/-- The parts of the state that opening a job's buckets may change, the buckets apart. -/
def bktParts : List Component := [.store, .bad, .rm, .hi, .free]

theorem lastDone_touches (b : Bkt) : (lastDone b).Touches bktParts (fun r => r.blk = .pug) (fun _ => False) := touches_setReg rfl

theorem bktStatus_touches (b : Bkt) : (bktStatus b).Touches bktParts (fun r => r.blk = .pug) (fun _ => False) :=
  touches_storePutOr (by decide) (by decide) (by decide) (touches_recordErrFree rfl rfl (by decide) (by decide))

theorem openBkts_touches (j tab n : Nat) : (openBkts j tab n).Touches (.pg :: bktParts) (fun r => r.blk = .pug) (fun _ => False) :=
  touches_of _ (openBkts_eq j tab n) fun s => touches_doAll_cons (touches_forEach fun b _ => (lastDone_touches b).mono
    (fun _ h => List.mem_cons_of_mem _ h) (fun _ h => h) (fun _ h => h)) (touches_doAll_cons (touches_modPg (by simp))
    (touches_doAll_cons (touches_forEach fun b _ => (bktStatus_touches b).mono (fun _ h => List.mem_cons_of_mem _ h)
    (fun _ h => h) (fun _ h => h)) touches_doAll_nil))

theorem openBkts_bucket {tab : Nat} {b : Bkt} (hb : b ∈ ((openBkts j tab n).run s).pg.buckets) (hj : b.job = j) :
    b.state = 1 ∧ b.step = n := by
  have hlast (l : List Bkt) : (forEach l lastDone).Touches bktParts (fun r => r.blk = .pug) (fun _ => False) :=
    touches_forEach fun b _ => lastDone_touches b
  have hstat (l : List Bkt) : (forEach l bktStatus).Touches bktParts (fun r => r.blk = .pug) (fun _ => False) :=
    touches_forEach fun b _ => bktStatus_touches b
  rw [run_congr (openBkts_eq j tab n s), doAll_cons_run, doAll_cons_run, doAll_cons_run, doAll_nil_run,
    ((hstat _).same _ .pg (by decide) (by simp) (by simp) : _ = _)] at hb
  rcases List.mem_append.1 (hb : b ∈ List.filter _ _ ++ _) with hb | hb
  · exact absurd hj (of_decide_eq_true (List.mem_filter.1 hb).2)
  · obtain ⟨i, -, rfl⟩ := List.mem_map.1 hb
    exact ⟨rfl, rfl⟩

theorem jobGlaze_of_touches {e : Eff} {ps : List Component} {R : RK → Prop} {A : Aux → Prop} (he : e.Touches ps R A)
    (hR : ∀ p, ¬ R ⟨.glaze, p, 0x100⟩) : (e.run s).jobGlaze j = s.jobGlaze j := by
  have hv (p : Nat) : (e.run s).on fGjobValid p = s.on fGjobValid p := he.on s (hR p)
  have hg (p : Nat) : (e.run s).get fGjob p = s.get fGjob p := he.get s (hR p)
  simp only [State.jobGlaze, hv, hg]

theorem showVotes_touches (j n : Nat) : (showVotes j n).Touches [] (fun r => r.blk = .glaze ∧ r.off = 0x140) (fun _ => False) :=
  fun s => by
    unfold showVotes
    exact touches_forEach (fun p _ => touches_setReg ⟨rfl, rfl⟩) s

theorem openGlaze_touches (j n : Nat) : (openGlaze j n).Touches [.gl] (fun r => r.blk = .glaze ∧ r.off ≠ 0x100) (fun _ => False) :=
  fun s => by
    unfold openGlaze
    refine within_doAll (touches_doAll_cons (touches_forEach fun p _ => ?_) (touches_doAll_cons (touches_modGl (by simp))
      (touches_doAll_cons ((showVotes_touches j n).mono (by simp) (fun r h => ⟨h.1, by rw [h.2]; decide⟩) (fun _ h => h))
      touches_doAll_nil)))
    · exact touches_doAll_cons (touches_setF ⟨rfl, by simp [fGlzState]⟩) (touches_doAll_cons (touches_setF ⟨rfl, by simp [fPGrad]⟩)
        (touches_doAll_cons (touches_setF ⟨rfl, by simp [fPResult]⟩) touches_doAll_nil))

/-- A unit enters UPDATING, its counts of the step at 0. -/
def unitOpens (p : Nat) : Eff := doAll [setF fGlzState p 1, setF fPGrad p 0, setF fPResult p 0]

theorem unitOpens_state (p q : Nat) (h : p = q ∨ s.get fGlzState q = 1) : ((unitOpens p).run s).get fGlzState q = 1 := by
  simp only [unitOpens, doAll_cons_run, doAll_nil_run]
  rw [get_setF_ne (fun _ _ => by decide) (by decide), get_setF_ne (fun _ _ => by decide) (by decide)]
  rcases h with rfl | h
  · rw [get_setF_same (by decide)]
    simp only [fGlzState]
    decide
  · exact get_setF_const (by decide) (by decide) h

theorem openGlaze_state (hp : p ∈ s.jobGlaze j) : ((openGlaze j n).run s).get fGlzState p = 1 := by
  have hgl (f : GlazeSt → GlazeSt) : (modGl f).Touches [.gl] (fun _ => False) (fun _ => False) := touches_modGl (by simp)
  have heq : ∃ f, openGlaze j n s = doAll [forEach (s.jobGlaze j) unitOpens, modGl f, showVotes j n] s := ⟨_, rfl⟩
  obtain ⟨f, heq⟩ := heq
  rw [run_congr heq, doAll_cons_run, doAll_cons_run, doAll_cons_run, doAll_nil_run, (showVotes_touches j n).get _ (by simp [fGlzState]),
    (hgl f).get _ id]
  exact forEach_reach (P := fun u => u.get fGlzState p = 1) (Q := fun _ => True) hp (fun _ _ _ _ => trivial)
    (fun _ _ => unitOpens_state p p (.inl rfl)) (fun q _ _ _ h => unitOpens_state q p (.inr h)) s trivial

theorem freeHeld_touches (j n : Nat) : (freeHeld j n).Touches [.fb, .out] (fun r => r.blk = .fab ∨ r.blk = .blink) (fun _ => False) :=
  fun s => by
    unfold freeHeld
    refine within_doAll (touches_doAll_cons (touches_modFb (by simp)) (touches_doAll_cons (touches_forEach fun x _ s => ?_)
      touches_doAll_nil))
    unfold sendAck
    split
    · exact within_nil
    · exact touches_sendOn (fun q _ _ => lkBlk_fab_or_blink q) (by simp) (by simp) s

/-- The step's own scalars: step n is open, the module has not voted. -/
def stepOpened (j n : Nat) : Eff :=
  doAll [setAx ⟨.stepOpen, j, 0⟩ 1, setAx ⟨.stepNo, j, 0⟩ n, setAx ⟨.voted, j, 0⟩ 0, setAx ⟨.stepAborted, j, 0⟩ 0]

theorem stepOpened_touches (j n : Nat) : (stepOpened j n).Touches [] (fun _ => False) (fun _ => True) :=
  touches_doAll_cons (touches_setAx trivial) (touches_doAll_cons (touches_setAx trivial) (touches_doAll_cons (touches_setAx trivial)
    (touches_doAll_cons (touches_setAx trivial) touches_doAll_nil)))

/-- Step n of job j is open, with no vote cast. -/
def State.opened (s : State) (j n : Nat) : Prop :=
  s.ax ⟨.stepOpen, j, 0⟩ = 1 ∧ s.ax ⟨.stepNo, j, 0⟩ = n ∧ s.ax ⟨.voted, j, 0⟩ = 0

theorem stepOpened_shows : ((stepOpened j n).run s).opened j n := by
  simp only [stepOpened, doAll_cons_run, doAll_nil_run, State.opened]
  refine ⟨?_, ?_, ?_⟩ <;> simp

theorem opened_of_touches {e : Eff} {ps : List Component} {R : RK → Prop} {A : Aux → Prop} (he : e.Touches ps R A)
    (hA : ∀ a, A a → stepQuiet a) (hs : s.opened j n) : (e.run s).opened j n :=
  ⟨(he.ax s fun h => (hA _ h).1 rfl).trans hs.1, (he.ax s fun h => (hA _ h).2.1 rfl).trans hs.2.1,
    (he.ax s fun h => (hA _ h).2.2 rfl).trans hs.2.2⟩

/-- The positions of a job's feeds. -/
def feedsBegin (l : List (Nat × Nat)) : Eff := forEach l fun f => doAll [setF (fFeedPos f.2) f.1 0]

theorem feedsBegin_touches (l : List (Nat × Nat)) : (feedsBegin l).Touches [] (fun r => r.blk = .pug) (fun _ => False) :=
  touches_forEach fun _ _ => touches_doAll_cons (touches_setF rfl) touches_doAll_nil

theorem stepRun_eq (k n : Nat) (s : State) : stepRun k n s = doAll (
    [setAx ⟨.stepOpen, s.get fKilnJob k, 0⟩ 1, setAx ⟨.stepNo, s.get fKilnJob k, 0⟩ n, setAx ⟨.voted, s.get fKilnJob k, 0⟩ 0,
      setAx ⟨.stepAborted, s.get fKilnJob k, 0⟩ 0] ++
    [openBkts (s.get fKilnJob k) (s.get fJobtab k) n, feedsBegin (s.jobFeeds (s.get fKilnJob k)), openGlaze (s.get fKilnJob k) n,
      forEach (s.jobKilns (s.get fKilnJob k)) (fun x => kilnStepStart x n), freeHeld (s.get fKilnJob k) n,
      kilnFinish k 0x12 eOK (BitVec.ofNat 64 n)]) s := rfl

theorem doAll_six (a b c d e f : Eff) (s : State) :
    (doAll [a, b, c, d, e, f]).run s = f.run (e.run (d.run (c.run (b.run (a.run s))))) := by
  simp only [doAll_cons_run, doAll_nil_run]

theorem stepRun_run (k n : Nat) (s : State) : (stepRun k n).run s = (kilnFinish k 0x12 eOK (BitVec.ofNat 64 n)).run
    ((freeHeld (s.get fKilnJob k) n).run ((forEach (s.jobKilns (s.get fKilnJob k)) fun x => kilnStepStart x n).run
    ((openGlaze (s.get fKilnJob k) n).run ((feedsBegin (s.jobFeeds (s.get fKilnJob k))).run
    ((openBkts (s.get fKilnJob k) (s.get fJobtab k) n).run ((stepOpened (s.get fKilnJob k) n).run s)))))) :=
  (run_congr (stepRun_eq k n s)).trans ((doAll_append_run _ _ s).trans (doAll_six ..))

theorem step_number (h : s.admits c .kiln k (stepSpec k args)) : (argN args 0).toNat < 2 ^ 32 := by
  obtain ⟨-, -, ha⟩ := kiln_admitted h
  simp only [kilnSpec, Bool.or_eq_false_iff, decide_eq_false_iff_not, not_le] at ha
  exact ha.2

theorem kilnTaken_jobKilns {op : Nat} : (s.kilnTaken c k op args).jobKilns j = s.jobKilns j := by
  have hg (f : Fld) (x : Nat) (hf : f.blk = .kiln) : (s.kilnTaken c k op args).get f x = s.get f x := kilnTaken_get (by rw [hf]; decide)
  simp only [State.jobKilns, State.on, hg _ _ (rfl : fKilnState.blk = _), hg _ _ (rfl : fKilnJobValid.blk = _),
    hg _ _ (rfl : fKilnJob.blk = _)]

theorem kilnTaken_jobGlaze {op : Nat} : (s.kilnTaken c k op args).jobGlaze j = s.jobGlaze j := by
  have hg (f : Fld) (x : Nat) (hf : f.blk = .glaze) : (s.kilnTaken c k op args).get f x = s.get f x := kilnTaken_get (by rw [hf]; decide)
  simp only [State.jobGlaze, State.on, hg _ _ (rfl : fGjobValid.blk = _), hg _ _ (rfl : fGjob.blk = _)]

theorem kilnsStart_shows {ks : List Nat} {x : Nat} (hn : n < 2 ^ 32) (hx : x ∈ ks) (u : State) :
    ((forEach ks fun x => kilnStepStart x n).run u).inStepNo x n :=
  forEach_reach (k := fun x => kilnStepStart x n) (P := fun t => t.inStepNo x n) (Q := fun _ => True) hx
    (fun _ _ _ _ => trivial) (fun _ _ => kilnStepStart_shows x hn) (fun y _ _ _ h => kilnStepStart_keeps x y hn h) u trivial

/-- What STEP leaves of the state it finds. -/
theorem stepRun_shows (u : State) (k : Nat) {n : Nat} (hn : n < 2 ^ 32) : ((stepRun k n).run u).seq = u.seq ∧
    ((stepRun k n).run u).opened (u.get fKilnJob k) n ∧
    (∀ x ∈ u.jobKilns (u.get fKilnJob k), ((stepRun k n).run u).inStepNo x n) ∧
    (∀ p ∈ u.jobGlaze (u.get fKilnJob k), ((stepRun k n).run u).get fGlzState p = 1) ∧
    (∀ b ∈ ((stepRun k n).run u).pg.buckets, b.job = u.get fKilnJob k → b.state = 1 ∧ b.step = n) ∧
    ((stepRun k n).run u).runningOf .kiln k 0x12 = [] := by
  rw [stepRun_run]
  generalize u.get fKilnJob k = j
  generalize u.get fJobtab k = tab
  generalize u.jobFeeds j = feeds
  generalize hks : u.jobKilns j = ks
  have hset := stepOpened_touches j n
  have hbkt := openBkts_touches j tab n
  have hfeed := feedsBegin_touches feeds
  have hglz := openGlaze_touches j n
  have hkiln : (forEach ks fun x => kilnStepStart x n).Touches (.sl :: startParts) kilnStepRegs stepQuiet :=
    touches_forEach fun x _ => kilnStepStart_touches x n
  have hheld := freeHeld_touches j n
  have hfin := kilnFinish_touches k 0x12 eOK (BitVec.ofNat 64 n)
  refine ⟨?_, ?_, fun x hx => ?_, fun p hp => ?_, fun b hb hj => ?_, kilnFinish_runningOf ..⟩
  · have hseq {e : Eff} {ps : List Component} {R : RK → Prop} {A : Aux → Prop} (he : e.Touches ps R A) (hp : Component.seq ∉ ps)
        (t : State) : (e.run t).seq = t.seq := he.same t .seq hp (by simp) (by simp)
    rw [hseq hfin (by decide), hseq hheld (by decide), hseq hkiln (by decide), hseq hglz (by decide), hseq hfeed (by decide),
      hseq hbkt (by decide), hseq hset (by decide)]
  · exact opened_of_touches hfin (fun _ h => h.elim) (opened_of_touches hheld (fun _ h => h.elim) (opened_of_touches hkiln (fun _ h => h)
      (opened_of_touches hglz (fun _ h => h.elim) (opened_of_touches hfeed (fun _ h => h.elim) (opened_of_touches hbkt
      (fun _ h => h.elim) stepOpened_shows)))))
  · refine inStepNo_of_touches hfin (by simp) (by simp) (inStepNo_of_touches hheld (by simp) (by simp) ?_)
    exact kilnsStart_shows hn hx _
  · rw [hfin.get _ (by simp [fGlzState]), hheld.get _ (by simp [fGlzState]), hkiln.get _ (by simp [fGlzState, kilnStepRegs, tileBlk])]
    refine openGlaze_state ?_
    rwa [jobGlaze_of_touches hfeed (by simp), jobGlaze_of_touches hbkt (by simp), jobGlaze_of_touches hset (by simp)]
  · have hpg {e : Eff} {ps : List Component} {R : RK → Prop} {A : Aux → Prop} (he : e.Touches ps R A) (hp : Component.pg ∉ ps)
        (t : State) : (e.run t).pg = t.pg := he.same t .pg hp (by simp) (by simp)
    rw [hpg hfin (by decide), hpg hheld (by decide), hpg hkiln (by decide), hpg hglz (by decide), hpg hfeed (by decide)] at hb
    exact openBkts_bucket hb hj

theorem step_answers (h : s.admits c .kiln k (stepSpec k args)) : Answers (.step c k args) s fun t =>
      let j := s.get fKilnJob k
      let n := (argN args 0).toNat
      t.seq = s.seq + 1 ∧ t.ax ⟨.stepOpen, j, 0⟩ = 1 ∧ t.ax ⟨.stepNo, j, 0⟩ = n ∧ t.ax ⟨.voted, j, 0⟩ = 0 ∧
      (∀ x ∈ s.jobKilns j, t.on fInStep x = true ∧ t.on fRestart x = false ∧ t.get fKStep x = n) ∧
      (∀ p ∈ s.jobGlaze j, t.get fGlzState p = 1) ∧
      (∀ b ∈ t.pg.buckets, b.job = j → b.state = 1 ∧ b.step = n) ∧ t.runningOf .kiln k 0x12 = [] := by
  have hjob : (s.kilnTaken c k 0x12 args).get fKilnJob k = s.get fKilnJob k := kilnTaken_get (by decide)
  obtain ⟨hseq, hopen, hks, hps, hbs, hfin⟩ := stepRun_shows (s.kilnTaken c k 0x12 args) k (step_number h)
  rw [hjob] at hopen hks hps hbs
  rw [kilnTaken_jobKilns] at hks
  rw [kilnTaken_jobGlaze] at hps
  exact ⟨_, congrArg Host.Outcome.next (kilnCmd_run h), hseq.trans kilnTaken_seq, hopen.1, hopen.2.1, hopen.2.2, hks, hps, hbs, hfin⟩

end Sys2Proof.Machine
end

section
/-! PROOFS. Votes and the commit point: what they may change (R340, R341), and the step boundary (R354). -/

namespace Sys2Proof.Machine

variable {s : State} {k j n p : Nat}

/-! ## Votes and commits -/

/-- The blocks whose registers a vote or a commit may change. -/
def voteBlk : Blk → Bool
  | .glaze => true | .slip => true | .pug => true | .fab => true | .blink => true | _ => false

/-- The parts of the state a vote or a commit may change. -/
def voteParts : List Component := [.seq, .hi, .out, .gl, .fb, .store, .bad, .rm]

/-- A vote or a commit: it changes registers of the units, the pugs, the ports alone, and adds no running command. -/
def Eff.Votes (e : Eff) : Prop := e.Touches voteParts (fun r => voteBlk r.blk = true) (fun _ => True) ∧ e.Drops

theorem votes_of_touches {e : Eff} {ps : List Component} {R : RK → Prop} {A : Aux → Prop} (h : e.Touches ps R A)
    (hp : ∀ c ∈ ps, c ∈ voteParts) (hh : Component.hi ∉ ps) (hR : ∀ r, R r → voteBlk r.blk = true) : e.Votes :=
  ⟨h.mono hp hR fun _ _ => trivial, drops_of_touches h hh⟩

theorem votes_cons {e : Eff} {es : List Eff} (h : e.Votes) (hs : (doAll es).Votes) : (doAll (e :: es)).Votes :=
  ⟨touches_doAll_cons h.1 hs.1, drops_cons h.2 hs.2⟩

theorem votes_nil : (doAll []).Votes := ⟨touches_doAll_nil, drops_nil⟩

theorem votes_forEach {β : Type} {l : List β} {f : β → Eff} (h : ∀ b ∈ l, (f b).Votes) : (forEach l f).Votes :=
  ⟨touches_forEach fun b hb => (h b hb).1, drops_forEach fun b hb => (h b hb).2⟩

theorem votes_whenE {c : State → Bool} {e : Eff} (h : e.Votes) : (whenE c e).Votes := ⟨touches_whenE h.1, drops_whenE h.2⟩

theorem votes_look {β : Type} {g : State → β} {f : β → Eff} (h : ∀ b, (f b).Votes) : (look g f).Votes :=
  ⟨touches_look fun b => (h b).1, drops_look fun b => (h b).2⟩

theorem votes_of (f : State → Eff) {e : Eff} (he : ∀ s, e s = f s s) (h : ∀ s, (f s).Votes) : e.Votes :=
  ⟨touches_of f he fun s => (h s).1, drops_of f he fun s => (h s).2⟩

theorem votes_skip : skip.Votes := ⟨touches_skip, drops_skip⟩

theorem votes_ite {c : Prop} [Decidable c] {e f : Eff} (he : e.Votes) (hf : f.Votes) : Eff.Votes (if c then e else f) :=
  ⟨touches_ite he.1 hf.1, drops_ite he.2 hf.2⟩

theorem votes_setReg {blk : Blk} {i o : Nat} {v : W64} (h : voteBlk blk = true) : (setReg blk i o v).Votes :=
  ⟨touches_setReg h, drops_setReg⟩

theorem votes_setF {f : Fld} {i x : Nat} (h : voteBlk f.blk = true) : (setF f i x).Votes := ⟨touches_setF h, drops_setF⟩

theorem votes_addSat {f : Fld} {i x : Nat} (h : voteBlk f.blk = true) : (addSat f i x).Votes := ⟨touches_addSat h, drops_addSat⟩

theorem votes_setAx {a : Aux} {x : Nat} : (setAx a x).Votes := ⟨touches_setAx trivial, drops_setAx⟩

theorem votes_setEvt {blk : Blk} {i b : Nat} (h : voteBlk blk = true) : (setEvt blk i b).Votes :=
  ⟨touches_setEvt h (by decide), drops_setEvt⟩

theorem votes_modGl {f : GlazeSt → GlazeSt} : (modGl f).Votes :=
  votes_of_touches (ps := [.gl]) (R := fun _ => False) (A := fun _ => False) (touches_modGl (by simp)) (by decide) (by decide)
    fun _ h => h.elim

theorem lkBlk_votes (q : Nat) : voteBlk (lkBlk q) = true := by
  rcases lkBlk_fab_or_blink q with h | h <;> rw [h] <;> rfl

theorem sendL0_votes {typ : Nat} {data : List Byte} : (sendL0 typ data).Votes :=
  votes_of_touches (ps := [.out, .fb]) (A := fun _ => False) (touches_sendL0 (fun q _ _ => lkBlk_votes q) (by simp) (by simp)) (by decide)
    (by decide) fun _ h => h

theorem castJob_votes {typ : Nat} {data : List Byte} : (castJob j typ data).Votes :=
  votes_of_touches (ps := [.out, .fb]) (A := fun _ => False) (touches_castJob (fun q _ _ => lkBlk_votes q) (by simp) (by simp)) (by decide)
    (by decide) fun _ h => h

theorem sendDgram_votes {m typ : Nat} {data : List Byte} : (sendDgram m typ data).Votes :=
  votes_of_touches (ps := [.out, .fb]) (A := fun _ => False) (touches_sendDgram (fun q _ _ => lkBlk_votes q) (by simp) (by simp)) (by decide)
    (by decide) fun _ h => h

theorem flipDone_votes {x : MFlip} : (flipDone x).Votes :=
  votes_cons votes_modGl (votes_cons (votes_setF rfl) (votes_cons (votes_setEvt rfl) votes_nil))

theorem releaseMirror_votes : releaseMirror.Votes :=
  votes_of (fun s => doAll [modGl fun g => { g with mirrorQ := g.mirrorQ.filter fun x => !((s.flipOf x.port).all fun f => f.step = x.step) },
    forEach (s.gl.mirrorQ.filter fun x => (s.flipOf x.port).all fun f => f.step = x.step) fun x => sendL0 0x30 x.data]) (fun _ => rfl)
    fun _ => votes_cons votes_modGl (votes_cons (votes_forEach fun _ _ => sendL0_votes) votes_nil)

/-- The flips that leave. -/
def State.flipsReady (s : State) : List MFlip := s.gl.flips.filter fun x => !x.sent && s.flipOf x.port = some x && s.writesAcked x.port &&
  !(s.gl.mirrorQ.any fun w => w.port = x.port && w.step = x.step)

/-- Flips leave. -/
def flipsSent (ready : List MFlip) : Eff :=
  doAll [forEach (ready.map fun x => (x.job, x.slot, x.step)).dedup (fun k => sendL0 0x31 (leBytes 1 k.1 ++ leBytes 1 k.2.1 ++
      leBytes 2 0 ++ leBytes 4 k.2.2 ++
      leBytes 6 (((ready.filter fun x => (x.job, x.slot, x.step) = k).map fun x => 2 ^ x.port).sum) ++ leBytes 2 0)),
    forEach ready (fun x => setAx ⟨.mirrorSlot, x.port, 0⟩ (x.slot + 1)),
    modGl fun g => { g with flips := g.flips.map fun x => if ready.contains x then { x with sent := true } else x }]

theorem sendFlips_votes : sendFlips.Votes :=
  votes_of (fun s => flipsSent s.flipsReady) (fun _ => rfl) fun _ => votes_cons (votes_forEach fun _ _ => sendL0_votes)
    (votes_cons (votes_forEach fun _ _ => votes_setAx) (votes_cons votes_modGl votes_nil))

theorem mirrorAdvance_votes : mirrorAdvance.Votes :=
  votes_cons (votes_look fun _ => votes_forEach fun _ _ => flipDone_votes) (votes_cons releaseMirror_votes
    (votes_cons sendFlips_votes votes_nil))

theorem writeHeader_votes {p g k ver alt st owner : Nat} : (writeHeader p g k ver alt st owner).Votes :=
  votes_of_touches (writeHeader_touches p g k ver alt st owner) (by decide) (by decide) fun _ h => h.elim

/-- A unit's commit. -/
def unitCommits (p j n : Nat) : Eff := doAll [
  whenE (fun s => s.shadowOpened p n) (look (fun s => (s.shadowSlot p, s.hdrOwner p 0 (s.shadowSlot p))) fun x =>
    doAll [whenE (fun s => s.on (fGenValid 0) p) (look (fun s => s.get (fCgen 0) p) fun k => fun s =>
        writeHeader p 0 k (s.hdrVer p 0 k) (s.hdrAlt p 0 k) 3 (s.hdrOwner p 0 k) s),
      writeHeader p 0 x.1 n 0 2 x.2, setReg .slip p 0x180 (genWord x.1 1 x.2 0 n)]),
  setF fCommitted p n, setF fGlzState p 0, setEvt .glaze p 1,
  whenE (fun s => s.get fMstate p = 1) (look (fun s => s.get (fCgen 0) p) fun k =>
    modGl fun g => { g with flips := g.flips ++ [⟨p, j, n, k, false⟩] })]

theorem unitCommits_votes : (unitCommits p j n).Votes := by
  refine votes_cons (votes_whenE (votes_look fun x => ?_)) (votes_cons (votes_setF rfl) (votes_cons (votes_setF rfl) (votes_cons
    (votes_setEvt rfl) (votes_cons (votes_whenE (votes_look fun _ => votes_modGl)) votes_nil))))
  exact votes_cons (votes_whenE (votes_look fun k => votes_of (fun s => writeHeader p 0 k (s.hdrVer p 0 k) (s.hdrAlt p 0 k) 3
    (s.hdrOwner p 0 k)) (fun _ => rfl) fun _ => writeHeader_votes)) (votes_cons writeHeader_votes (votes_cons (votes_setReg rfl) votes_nil))

/-- Every pug's generation of a job goes on. -/
def gensGoOn (j : Nat) : Eff := forEach pugs16 fun u => look (fun s => s.get (fLgen j) u) fun x => setF (fLgen j) u (1 - x)

theorem commitPoint_eq (j n : Nat) (s : State) : commitPoint j n s = doAll [forEach (s.jobGlaze j) (fun p => unitCommits p j n),
    gensGoOn j, modGl fun g => { g with ranges := g.ranges.filter fun r => !(s.jobGlaze j).contains r.port },
    setAx ⟨.stepOpen, j, 0⟩ 0, setAx ⟨.voted, j, 0⟩ 0, mirrorAdvance] s := rfl

theorem commitPoint_votes : (commitPoint j n).Votes :=
  votes_of _ (commitPoint_eq j n) fun _ => votes_cons (votes_forEach fun _ _ => unitCommits_votes) (votes_cons (votes_forEach fun _ _ =>
    votes_look fun _ => votes_setF rfl) (votes_cons votes_modGl (votes_cons votes_setAx (votes_cons votes_setAx (votes_cons
    mirrorAdvance_votes votes_nil)))))

theorem seqStep_votes : Eff.Votes fun _ => [.seq] :=
  votes_of_touches (ps := [.seq]) (R := fun _ => False) (A := fun _ => False) (touches_upd (by simp [Upd.Within, Upd.parts])) (by decide)
    (by decide) fun _ h => h.elim

theorem coordCommit_votes : (coordCommit j n).Votes :=
  votes_cons seqStep_votes (votes_cons votes_setAx (votes_cons votes_modGl (votes_cons castJob_votes (votes_cons commitPoint_votes
    votes_nil))))

theorem coordDecide_votes : (coordDecide j n).Votes :=
  votes_of (fun s => if s.isCoord j ∧ s.ax ⟨.stepOpen, j, 0⟩ ≠ 0 ∧ s.ax ⟨.stepNo, j, 0⟩ = n ∧ s.ax ⟨.voted, j, 0⟩ = 1 ∧
      s.votesOf j n true = 0 ∧ s.jobModCount j ≤ s.votesOf j n false then coordCommit j n else skip)
    (fun s => by unfold coordDecide; split <;> rfl) fun _ => votes_ite coordCommit_votes votes_skip

theorem showVotes_votes : (showVotes j n).Votes :=
  votes_of_touches (showVotes_touches j n) (by decide) (by decide) fun r h => by rw [h.1]; rfl

theorem takeVote_votes {m : Nat} {held : Bool} : (takeVote j n m held).Votes :=
  votes_of (fun s => if (s.gl.votes.any fun v => v.job = j && v.step = n && v.module_ = m) ∨ !s.isCoord j then skip else
      doAll [modGl fun g => { g with votes := g.votes ++ [⟨j, n, m, held⟩] },
        whenE (fun s => s.ax ⟨.stepNo, j, 0⟩ = n) (showVotes j n), coordDecide j n])
    (fun s => by unfold takeVote; split <;> rfl) fun _ => votes_ite votes_skip (votes_cons votes_modGl (votes_cons (votes_whenE
      showVotes_votes) (votes_cons coordDecide_votes votes_nil)))

/-- What a module votes: HELD where a unit holds its step, else PREPARED. -/
def State.voteHeld (s : State) (j : Nat) : Bool :=
  ((s.jobGlaze j).any fun p => s.get fGpolicy p = 0) && (s.jobGlaze j).any fun p => s.gl.tainted.contains p

/-- A unit shows what its module voted. -/
def unitVotes (held : Bool) (p : Nat) : Eff := doAll [setF fGlzState p (if held then 3 else 2), setEvt .glaze p (if held then 3 else 0),
  whenE (fun _ => held) (addSat fHeldSteps p 1)]

theorem castVote_eq (j : Nat) (s : State) : castVote j s = doAll [setAx ⟨.voted, j, 0⟩ (if s.voteHeld j then 2 else 1),
    forEach (s.jobGlaze j) (unitVotes (s.voteHeld j)),
    if s.isCoord j then takeVote j (s.ax ⟨.stepNo, j, 0⟩) s.self (s.voteHeld j)
    else withSome (s.jobCoord j) skip fun c => sendDgram c 0x12 (voteBytes j (if s.voteHeld j then 2 else 1) (s.ax ⟨.stepNo, j, 0⟩))] s :=
  rfl

theorem votes_withSome {β : Type} {o : Option β} {e : Eff} {f : β → Eff} (he : e.Votes) (h : ∀ b, (f b).Votes) : (withSome o e f).Votes := by
  cases o with
  | none => exact he
  | some b => exact h b

theorem castVote_votes : (castVote j).Votes :=
  votes_of _ (castVote_eq j) fun _ => votes_cons votes_setAx (votes_cons (votes_forEach fun _ _ => votes_cons (votes_setF rfl) (votes_cons
    (votes_setEvt rfl) (votes_cons (votes_whenE (votes_addSat rfl)) votes_nil))) (votes_cons (votes_ite takeVote_votes
    (votes_withSome votes_skip fun _ => sendDgram_votes)) votes_nil))

theorem bareVote_votes : (bareVote j).Votes :=
  votes_of (fun s => if s.jobGlaze j = [] ∧ s.ax ⟨.stepOpen, j, 0⟩ ≠ 0 ∧ s.ax ⟨.voted, j, 0⟩ = 0 ∧
      (s.jobKilns j).all (fun k => !s.on fInStep k) ∧ (s.pg.buckets.all fun b => b.job ≠ j || b.state = 4) then castVote j else skip)
    (fun s => by unfold bareVote; split <;> rfl) fun _ => votes_ite castVote_votes votes_skip

/-! ## The step boundary -/

/-- The kiln is past its step. -/
def stepEnds (k : Nat) : Eff := doAll [setF fInStep k 0, addSat fKSteps k 1, setEvt .kiln k 2]

/-- The kiln's job votes where it has no glaze unit. -/
def jobVotes (k j : Nat) : Eff := whenE (fun s => s.on fKilnJobValid k) (bareVote j)

theorem jobVotes_votes (k j : Nat) : (jobVotes k j).Votes := votes_whenE bareVote_votes

theorem doAll_three_two (a b c d e : Eff) (s : State) : (doAll [a, b, c, d, e]).run s = e.run (d.run ((doAll [a, b, c]).run s)) := by
  simp only [doAll_cons_run, doAll_nil_run]

theorem boundary_run (hk : k < 256) (hst : s.get fKilnState k = 3 ∨ s.get fKilnState k = 4) (hin : s.on fInStep k = true)
    (hts : ∀ w ∈ s.kilnTiles k, s.get fTileState (s.phys w) = 2) (hcs : ∀ x ∈ s.kilnCtx k, s.get (fCtxState x.2) x.1 = 3) :
    (effKilnStepBoundary k).run s = (jobVotes k (s.get fKilnJob k)).run
      ((whenE (fun _ => s.get fKilnState k = 4) (kilnStops k)).run ((stepEnds k).run s)) := by
  have hno : ¬ (256 ≤ k ∨ (!decide (s.get fKilnState k = 3 ∨ s.get fKilnState k = 4)) = true) := by simp [hk, hst]
  have hall : ((s.kilnTiles k).all fun t => s.get fTileState (s.phys t) = 2) = true ∧
      ((s.kilnCtx k).all fun c => s.get (fCtxState c.2) c.1 = 3) = true := by
    simp only [List.all_eq_true, decide_eq_true_eq]
    exact ⟨hts, hcs⟩
  have heq : effKilnStepBoundary k s = doAll [setF fInStep k 0, addSat fKSteps k 1, setEvt .kiln k 2,
      whenE (fun _ => s.get fKilnState k = 4) (kilnStops k), jobVotes k (s.get fKilnJob k)] s := by
    rw [effKilnStepBoundary]
    rw [if_neg hno, if_pos hin, if_pos hall, jobVotes]
  exact (run_congr heq).trans (doAll_three_two ..)

theorem stepEnds_touches (k : Nat) : (stepEnds k).Touches [.hi]
    (fun r => r.blk = .kiln ∧ (r.off = 0x018 ∨ r.off = 0x120 ∨ r.off = offEvtStatus)) (fun _ => False) :=
  touches_doAll_cons (touches_setF ⟨rfl, .inl rfl⟩) (touches_doAll_cons (touches_addSat ⟨rfl, .inr (.inl rfl)⟩) (touches_doAll_cons
    (touches_setEvt ⟨rfl, .inr (.inr rfl)⟩ (by simp)) touches_doAll_nil))

theorem stepEnds_shows (s : State) (k : Nat) : ((stepEnds k).run s).on fInStep k = false ∧
    ((stepEnds k).run s).get fKSteps k = min (s.get fKSteps k + 1) (2 ^ 32 - 1) ∧
    ((stepEnds k).run s).on (fEvt .kiln 2) k = true ∧ ((stepEnds k).run s).get fKilnState k = s.get fKilnState k := by
  have hevt : (setEvt .kiln k 2).Touches [.hi] (fun r => r = ⟨.kiln, k, offEvtStatus⟩) (fun _ => False) :=
    touches_setEvt rfl (by simp)
  have hcnt : (addSat fKSteps k 1).Touches [] (fun r => r = ⟨.kiln, k, 0x120⟩) (fun _ => False) := touches_addSat rfl
  simp only [stepEnds, doAll_cons_run, doAll_nil_run]
  refine ⟨?_, ?_, setEvt_on (by omega), ?_⟩
  · rw [hevt.on _ (by simp [fInStep, offEvtStatus]), hcnt.on _ (by simp [fInStep]), on_setF_same (by decide)]
    simp only [fInStep]
    decide
  · rw [hevt.get _ (by simp [fKSteps, offEvtStatus]), get_addSat_same (by decide), get_setF_ne (fun _ _ => by decide) (by decide)]
    simp only [fKSteps]
  · rw [hevt.get _ (by simp [fKilnState, offEvtStatus]), hcnt.get _ (by simp [fKilnState]), get_setF_ne (fun _ _ _ => by decide) (by decide)]

/-- A PARKED tile goes IDLE. -/
def parkedIdle (s : State) (t : Nat) : Eff := whenE (fun u => u.get fTileState (u.phys t) = 2) (setF fTileState (s.phys t) 0)

theorem parkedIdle_touches (s : State) (t : Nat) : (parkedIdle s t).Touches [] (fun r => r.blk = .tile) (fun _ => False) :=
  touches_whenE (touches_setF rfl)

/-- A tile that is PARKED or IDLE. -/
def State.rests (u s : State) (w : Nat) : Prop :=
  u.geo = s.geo ∧ (u.get fTileState (s.phys w) = 2 ∨ u.get fTileState (s.phys w) = 0)

theorem parkedIdle_rests {u : State} {t w : Nat} (h : u.rests s w) : ((parkedIdle s t).run u).rests s w := by
  refine ⟨((parkedIdle_touches s t).geo u (by simp)).trans h.1, ?_⟩
  rw [parkedIdle, whenE_run]
  split
  · by_cases hp : s.phys w = s.phys t
    · rw [hp, get_setF_same (by decide)]
      exact .inr (by simp only [fTileState]; decide)
    · rw [get_setF_inst_ne hp]
      exact h.2
  · exact h.2

theorem parkedIdle_idle {u : State} {w : Nat} (h : u.rests s w) : ((parkedIdle s w).run u).get fTileState (s.phys w) = 0 := by
  have hphys : u.phys w = s.phys w := by rw [State.phys, State.phys, h.1]
  rw [parkedIdle, whenE_run, hphys]
  split
  · rw [get_setF_same (by decide)]
    simp only [fTileState]
    decide
  · exact h.2.resolve_left fun h2 => absurd (decide_eq_true h2) ‹_›

theorem parkedIdle_keeps_idle {u : State} {t w : Nat} (h : u.get fTileState (s.phys w) = 0) :
    ((parkedIdle s t).run u).get fTileState (s.phys w) = 0 := by
  rw [parkedIdle, whenE_run]
  split
  · exact get_setF_const (by decide) (by decide) h
  · exact h

theorem kilnStops_eq (k : Nat) (s : State) : kilnStops k s = doAll [forEach (s.kilnTiles k) (parkedIdle s), setF fKilnState k 5,
    setEvt .kiln k 3, kilnFinish k 0x13 eOK (BitVec.ofNat 64 (s.ax ⟨.kilnLast, k, 0⟩))] s := rfl

theorem kilnStops_touches (k : Nat) : (kilnStops k).Touches [.hi, .out] (fun r => r.blk = .tile ∨ r.blk = .host ∨
    (r.blk = .kiln ∧ (r.off = 0x018 ∨ r.off = offEvtStatus ∨ r.off = 0x138))) (fun _ => False) := by
  refine touches_of _ (kilnStops_eq k) fun s => touches_doAll_cons (touches_forEach fun t _ => ?_) (touches_doAll_cons
    (touches_setF (.inr (.inr ⟨rfl, .inl rfl⟩))) (touches_doAll_cons (touches_setEvt (.inr (.inr ⟨rfl, .inr (.inl rfl)⟩)) (by simp))
    (touches_doAll_cons ?_ touches_doAll_nil)))
  · exact (parkedIdle_touches s t).mono (by simp) (fun _ h => .inl h) (fun _ h => h)
  · refine (kilnFinish_touches k 0x13 eOK _).mono (fun _ h => h) (fun r h => .inr (h.imp_right fun h => ?_)) (fun _ h => h)
    rw [h]
    exact ⟨rfl, .inr (.inr rfl)⟩

/-- A kiln that stops with every tile PARKED is STOPPED, its tiles IDLE and its STOP complete. -/
theorem kilnStops_shows (hts : ∀ w ∈ s.kilnTiles k, s.get fTileState (s.phys w) = 2) : ((kilnStops k).run s).get fKilnState k = 5 ∧
    ((kilnStops k).run s).runningOf .kiln k 0x13 = [] ∧
    ∀ w ∈ s.kilnTiles k, ((kilnStops k).run s).get fTileState (s.phys w) = 0 := by
  have hfin := kilnFinish_touches k 0x13 eOK (BitVec.ofNat 64 (s.ax ⟨.kilnLast, k, 0⟩))
  have hevt : (setEvt .kiln k 3).Touches [.hi] (fun r => r = ⟨.kiln, k, offEvtStatus⟩) (fun _ => False) :=
    touches_setEvt rfl (by simp)
  have hset : (setF fKilnState k 5).Touches [] (fun r => r = ⟨.kiln, k, 0x018⟩) (fun _ => False) := touches_setF rfl
  rw [run_congr (kilnStops_eq k s), doAll_cons_run, doAll_cons_run, doAll_cons_run, doAll_cons_run, doAll_nil_run]
  refine ⟨?_, kilnFinish_runningOf .., fun w hw => ?_⟩
  · rw [hfin.get _ (by simp [fKilnState]), hevt.get _ (by simp [fKilnState, offEvtStatus]), get_setF_same (by decide)]
    simp only [fKilnState]
    decide
  · rw [hfin.get _ (by simp [fTileState]), hevt.get _ (by simp [fTileState, offEvtStatus]), hset.get _ (by simp [fTileState])]
    exact forEach_reach (k := parkedIdle s) (P := fun u => u.get fTileState (s.phys w) = 0) (Q := fun u => u.rests s w) hw
      (fun _ _ _ h => parkedIdle_rests h) (fun _ h => parkedIdle_idle h) (fun _ _ _ _ h => parkedIdle_keeps_idle h) s
      ⟨rfl, .inl (hts w hw)⟩

/-- A kiln that stops stays outside the step, its events as they were. -/
theorem kilnStops_keeps (s : State) (k : Nat) : ((kilnStops k).run s).on fInStep k = s.on fInStep k ∧
    ((kilnStops k).run s).on (fEvt .kiln 2) k = s.on (fEvt .kiln 2) k := by
  have hfin := kilnFinish_touches k 0x13 eOK (BitVec.ofNat 64 (s.ax ⟨.kilnLast, k, 0⟩))
  have hevt : (setEvt .kiln k 3).Touches [.hi] (fun r => r = ⟨.kiln, k, offEvtStatus⟩) (fun _ => False) :=
    touches_setEvt rfl (by simp)
  have hset : (setF fKilnState k 5).Touches [] (fun r => r = ⟨.kiln, k, 0x018⟩) (fun _ => False) := touches_setF rfl
  have htiles : (forEach (s.kilnTiles k) (parkedIdle s)).Touches [] (fun r => r.blk = .tile) (fun _ => False) :=
    touches_forEach fun t _ => parkedIdle_touches s t
  rw [run_congr (kilnStops_eq k s), doAll_cons_run, doAll_cons_run, doAll_cons_run, doAll_cons_run, doAll_nil_run]
  refine ⟨?_, ?_⟩
  · rw [hfin.on _ (by simp [fInStep]), hevt.on _ (by simp [fInStep, offEvtStatus]),
      on_congr (get_setF_ne (fun _ _ => by decide) (by decide)), htiles.on _ (by simp [fInStep])]
  · rw [hfin.on _ (by simp [fEvt, offEvtStatus]), setEvt, setEvtI_on_ne (by omega) (by omega), hset.on _ (by simp [fEvt, offEvtStatus]),
      htiles.on _ (by simp [fEvt])]

theorem boundary_answers (hk : k < 256) (hst : s.get fKilnState k = 3 ∨ s.get fKilnState k = 4) (hin : s.on fInStep k = true)
    (hts : ∀ w ∈ s.kilnTiles k, s.get fTileState (s.phys w) = 2) (hcs : ∀ x ∈ s.kilnCtx k, s.get (fCtxState x.2) x.1 = 3) :
    Answers (.kilnStepBoundary k) s fun t => t.on fInStep k = false ∧
      t.get fKSteps k = min (s.get fKSteps k + 1) (2 ^ 32 - 1) ∧ t.on (fEvt .kiln 2) k = true ∧
      (s.get fKilnState k = 3 → t.get fKilnState k = 3) ∧
      (s.get fKilnState k = 4 → t.get fKilnState k = 5 ∧ t.runningOf .kiln k 0x13 = [] ∧
        ∀ w ∈ s.kilnTiles k, t.get fTileState (s.phys w) = 0) := by
  have hrun := boundary_run hk hst hin hts hcs
  obtain ⟨hvote, hdrops⟩ := jobVotes_votes k (s.get fKilnJob k)
  have hends := stepEnds_touches k
  obtain ⟨hstep, hcount, hevt, hstate⟩ := stepEnds_shows s k
  have hkeep {f : Fld} (hf : f.blk = .kiln ∨ f.blk = .tile) (i : Nat) (u : State) :
      ((jobVotes k (s.get fKilnJob k)).run u).get f i = u.get f i := hvote.get u (by rcases hf with h | h <;> simp [h, voteBlk])
  have hkiln {f : Fld} (hf : f.blk = .kiln) (i : Nat) (u : State) : ((jobVotes k (s.get fKilnJob k)).run u).on f i = u.on f i :=
    on_congr (hkeep (.inl hf) i u)
  have hgeo : ((stepEnds k).run s).geo = s.geo := hends.geo s (by simp)
  have hphys (w : Nat) : ((stepEnds k).run s).phys w = s.phys w := by rw [State.phys, hgeo, State.phys]
  have htiles : ((stepEnds k).run s).kilnTiles k = s.kilnTiles k := kilnTiles_of_touches hends (by simp [offEvtStatus])
  rw [whenE_run] at hrun
  by_cases h4 : s.get fKilnState k = 4
  · rw [if_pos (decide_eq_true h4)] at hrun
    obtain ⟨hno, hevt'⟩ := kilnStops_keeps ((stepEnds k).run s) k
    obtain ⟨hst5, hfin, hidle⟩ := kilnStops_shows (s := (stepEnds k).run s) (k := k) fun w hw => by
      rw [hphys, hends.get _ (by simp [fTileState])]
      exact hts w (htiles ▸ hw)
    refine ⟨_, congrArg Host.Outcome.next hrun, ?_, ?_, ?_, fun h3 => by omega, fun _ => ⟨?_, hdrops.runningOf hfin, fun w hw => ?_⟩⟩
    · exact (hkiln rfl k _).trans (hno.trans hstep)
    · rw [hkeep (.inl rfl), (kilnStops_touches k).get _ (by simp [fKSteps, offEvtStatus]), hcount]
    · exact (hkiln rfl k _).trans (hevt'.trans hevt)
    · rw [hkeep (.inl rfl), hst5]
    · rw [hkeep (.inr rfl), ← hphys]
      exact hidle w (htiles ▸ hw)
  · rw [if_neg fun h => h4 (of_decide_eq_true h)] at hrun
    refine ⟨_, congrArg Host.Outcome.next hrun, ?_, ?_, ?_, fun h3 => ?_, fun h => absurd h h4⟩
    · exact (hkiln rfl k _).trans hstep
    · rw [hkeep (.inl rfl), hcount]
    · exact (hkiln rfl k _).trans hevt
    · rw [hkeep (.inl rfl), hstate, h3]

/-- Settles O36: STEP opens a step of its job; the boundary ends the kiln's step, and stops a DRAINING kiln. -/
theorem stepOpensAndTheBoundaryEnds : Obligations.StepOpensAndTheBoundaryEnds := by
  unfold Obligations.StepOpensAndTheBoundaryEnds
  exact ⟨fun s c k args h => step_answers h, fun s k hk hst hin hts hcs => boundary_answers hk hst hin hts hcs⟩

end Sys2Proof.Machine
end

section
/-! PROOFS. What a port that leaves UP, and a peer that goes DOWN, may change (chapter 14, R390). -/

namespace Sys2Proof.Machine

variable {s : State} {q m code : Nat} {al : Bool}

/-! ## Fields of a port -/

theorem lkBlk_not_host (q : Nat) : lkBlk q ≠ .host := by
  rcases lkBlk_fab_or_blink q with h | h <;> simp [h]

theorem lk_of_touches {e : Eff} {ps : List Component} {R : RK → Prop} {A : Aux → Prop} (he : e.Touches ps R A) {off lo w : Nat}
    (hR : ¬ R ⟨lkBlk q, lkInst q, off⟩) : (e.run s).lk q off lo w = s.lk q off lo w := he.get s (f := lkF q off lo w) hR

theorem setLk_same {off lo w x : Nat} (h : lo + w ≤ 64) : ((setLk q off lo w x).run s).lk q off lo w = x % 2 ^ w :=
  get_setF_same (f := lkF q off lo w) h

theorem addLk_same {off lo w n : Nat} (h : lo + w ≤ 64) :
    ((addLk q off lo w n).run s).lk q off lo w = min (s.lk q off lo w + n) (2 ^ w - 1) := get_addSat_same (f := lkF q off lo w) h

theorem evtLk_on {b : Nat} (h : b < 64) : ((evtLk q b).run s).on (fEvt (lkBlk q) b) (lkInst q) = true := setEvt_on h

/-! ## A peer goes DOWN -/

/-- Of a port's page, the counts of sending, the frames dropped, the error and its events. -/
def dropOff (o : Nat) : Bool := sendOff o || o = 0x160 || o = offErr || o = offEvtStatus

/-- The registers a peer that goes DOWN may change. -/
def dropRegs (r : RK) : Prop := (r.blk ≠ .fab ∧ r.blk ≠ .blink) ∨ dropOff r.off = true

/-- The registers it may change beyond its own port's error and counts: of a port's page, the counts of sending alone. -/
def followRegs (r : RK) : Prop := (r.blk ≠ .fab ∧ r.blk ≠ .blink) ∨ sendOff r.off = true

theorem dropRegs_of_follow {r : RK} (h : followRegs r) : dropRegs r := h.imp_right fun h => by simp [dropOff, h]

theorem followRegs_of_fault {r : RK} (h : faultRegs r) : followRegs r := by
  simp only [faultRegs, faultReg, quietReg, Bool.or_eq_true, Bool.and_eq_true, decide_eq_true_eq] at h
  rcases h with (h | ⟨-, h⟩) | h
  · refine .inl ⟨fun h' => ?_, fun h' => ?_⟩ <;> rw [h'] at h <;> exact absurd h (by decide)
  · exact .inr h
  · exact .inl ⟨by simp [h], by simp [h]⟩

/-- What follows a peer that goes DOWN. -/
abbrev Eff.Downs (e : Eff) : Prop := e.Touches faultParts followRegs (fun _ => True)

theorem downs_of_faults {e : Eff} (h : e.Faults) : e.Downs :=
  Eff.Touches.mono h (fun _ h => h) (fun _ h => followRegs_of_fault h) (fun _ _ => trivial)

theorem downs_of_sends {e : Eff} (h : e.Touches [.out, .fb] (fun r => sendOff r.off = true) (fun _ => False)) : e.Downs :=
  h.mono (by decide) (fun _ hr => .inr hr) (fun _ h => h.elim)

theorem ctxFaulted_downs (p c code : Nat) : (ctxFaulted p c code).Downs := fun s => by
  unfold ctxFaulted
  exact within_doAll (touches_doAll_cons (touches_setF (.inl (by simp [fCtxState]))) (touches_doAll_cons (touches_modSl (by decide))
    (touches_doAll_cons (touches_setEvt (.inl (by simp)) (by decide)) (touches_doAll_cons (downs_of_faults (kilnFault_faults _ _ _ _ _))
    touches_doAll_nil))))

theorem winFail_downs (p w seg code : Nat) : (winFail p w seg code).Downs := fun s => by
  unfold winFail
  refine within_doAll (touches_doAll_cons (touches_setF (.inl (by simp [fWinState]))) (touches_doAll_cons (touches_recordErr (.inl (by simp))
    (.inl (by simp)) (by decide)) (touches_doAll_cons (touches_setEvt (.inl (by simp)) (by decide)) (touches_doAll_cons
    (touches_withSome touches_skip fun c => ctxFaulted_downs p c code) touches_doAll_nil))))

theorem sendMsg_downs (port m : Nat) (al : Bool) (cls typ : Nat) (data : List Byte) : (sendMsg port m al cls typ data).Downs :=
  downs_of_sends (touches_sendMsg (fun _ _ h => h) (by simp) (by simp))

theorem tagsPeak_downs (p : Nat) : (tagsPeak p).Downs := fun s => touches_setF (f := fTagsPeak) (.inl (by simp [fTagsPeak])) s

theorem segAsk_downs (g : Seg) : (segAsk g).Downs := fun s => by
  unfold segAsk
  split
  · exact within_nil
  split
  · exact winFail_downs _ _ _ _ s
  split
  · exact within_nil
  · exact within_doAll (touches_doAll_cons (touches_modSl (by decide)) (touches_doAll_cons (tagsPeak_downs _) (touches_doAll_cons
      (sendMsg_downs _ _ _ _ _ _) touches_doAll_nil)))

theorem segRetry_downs (p : Nat) : (segRetry p).Downs := fun s => touches_forEach (fun g _ => segAsk_downs g) s

theorem bktsFail_downs (bs : List Bkt) (code : Nat) : (bktsFail bs code).Downs :=
  touches_doAll_cons (touches_forEach fun b _ => touches_doAll_cons (downs_of_faults (putBkt_faults _)) (touches_doAll_cons
    (downs_of_faults (bktStatus_faults _)) (touches_doAll_cons (touches_whenE (downs_of_faults (lastDone_faults _)))
    touches_doAll_nil))) (touches_doAll_cons (touches_forEach fun b _ => downs_of_faults (stepAbortAt_faults _ _ _ _)) touches_doAll_nil)

theorem mirrorBreak_downs (p step : Nat) : (mirrorBreak p step).Downs :=
  touches_doAll_cons (touches_recordErr (.inl (by simp)) (.inl (by simp)) (by decide)) (touches_doAll_cons (touches_setEvt (.inl (by simp))
    (by decide)) (touches_doAll_cons (touches_setF (.inl (by simp [fMstate]))) (touches_doAll_cons (touches_modGl (by decide))
    touches_doAll_nil)))

theorem finish_downs (r : Running) (code : Nat) (v : W64) : (finish r code v).Downs :=
  (finish_touches r code v).mono (by decide) (fun k h => .inl (by simp [h])) (fun _ h => h.elim)

theorem finishAll_downs (blk : Blk) (inst op code : Nat) (v : W64) : (finishAll blk inst op code v).Downs :=
  (finishAll_touches blk inst op code v).mono (by decide) (fun k h => .inl (by simp [h])) (fun _ h => h.elim)

theorem mirrorLost_downs (out : List Nat) : (mirrorLost out).Downs := fun s => by
  unfold mirrorLost
  refine within_doAll (touches_doAll_cons (touches_forEach fun p _ => mirrorBreak_downs _ _) (touches_doAll_cons
    (touches_forEach fun j _ s => ?_) touches_doAll_nil))
  unfold syncFail
  exact within_doAll (touches_doAll_cons (touches_forEach fun p _ => touches_setF (.inl (by simp [fMstate]))) (touches_doAll_cons
    (touches_forEach fun r _ => finish_downs _ _ _) touches_doAll_nil))

/-- The segments asked of a peer over a port. -/
def State.peerSegs (s : State) (port m : Nat) (al : Bool) : List Seg :=
  if al then [] else s.sl.segs.filter fun g => g.st = 1 && g.module_ = m && planPort g.path g.link = port

/-- The buckets a peer leaves. -/
def State.peerBkts (s : State) (x : Peer) (al : Bool) : List Bkt := if al then [] else s.lostBkts x

/-- The peer's entry is new and DOWN, its port counts what it dropped. -/
def peerGone (port m : Nat) (al : Bool) (code : Nat) (x : Peer) : List Eff :=
  [modPeer port m al (fun y => y.fresh 2 y.hbBase), addLk port 0x160 0 32 x.frames.length,
    whenE (fun _ => x.st = 1) (doAll [errLk port code m, evtLk port 3])]

/-- What else waits for a peer that is gone. -/
def peerFollows (s : State) (port m : Nat) (al : Bool) (code : Nat) (x : Peer) : List Eff :=
  [modFb (fun b => { b with
      held := b.held.filter fun q => !(q.port = port && q.src = m)
      inbox := b.inbox.filter fun q => !(q.port = port && q.src = m && s.isNext q)
      serves := b.serves.filter fun v => !(v.port = port && v.src = m && v.alias_ = al) }),
    modSl (fun l => { l with
      segs := l.segs.map fun g => if (s.peerSegs port m al).contains g then { g with st := 3 } else g
      drain := l.drain.filter fun d => al || d.module_ ≠ m || d.link ≠ some port }),
    bktsFail (s.peerBkts x al) code,
    forEach (s.peerSegs port m al) (fun g => whenE (fun s => s.get (fWinState g.w) g.port = 1) (winFail g.port g.w g.seg code)),
    whenE (fun _ => !al) (forEach ports48 segRetry)]

/-- The partner is lost with its link. -/
def partnerGone (port : Nat) (x : Peer) : Eff :=
  whenE (fun _ => port = 16 && x.st = 1) (doAll [mirrorLost ((x.frames.filter fun f => f.fr.typ = 0x30).map fun f => f.ref % 256),
    finishAll .crack 0 0x11 eOK 0, whenE (fun s => s.get fPartnerState 0 = 2) (doAll [setF fPartnerState 0 3, setEvt .crack 0 5])])

theorem peerDown_none (h : s.peer q m al = none) : peerDown q m al code s = [] := by
  rw [peerDown, h]

theorem peerDown_already {x : Peer} (h : s.peer q m al = some x) (hst : x.st = 2) : peerDown q m al code s = [] := by
  rw [peerDown, h]
  exact if_pos hst

theorem peerDown_eq {x : Peer} (h : s.peer q m al = some x) (hst : x.st ≠ 2) : peerDown q m al code s =
    doAll (peerGone q m al code x ++ (peerFollows s q m al code x ++ [partnerGone q x])) s := by
  rw [peerDown, h]
  exact if_neg hst

theorem peerDown_run {x : Peer} (h : s.peer q m al = some x) (hst : x.st ≠ 2) : (peerDown q m al code).run s =
    (partnerGone q x).run ((doAll (peerFollows s q m al code x)).run ((doAll (peerGone q m al code x)).run s)) := by
  rw [run_congr (peerDown_eq h hst), doAll_append_run, doAll_append_run, doAll_cons_run, doAll_nil_run]

theorem peerGone_touches (port m : Nat) (al : Bool) (code : Nat) (x : Peer) : (doAll (peerGone port m al code x)).Touches [.hi, .fb]
    (fun r => r.blk = lkBlk port ∧ r.inst = lkInst port ∧ (r.off = 0x160 ∨ r.off = offErr ∨ r.off = offEvtStatus)) (fun _ => False) :=
  touches_doAll_cons (touches_modPeer (by simp)) (touches_doAll_cons (touches_addLk ⟨rfl, rfl, .inl rfl⟩) (touches_doAll_cons
    (touches_whenE (touches_doAll_cons (touches_errLk ⟨rfl, rfl, .inr (.inl rfl)⟩ ⟨rfl, rfl, .inr (.inr rfl)⟩ (by simp))
    (touches_doAll_cons (touches_evtLk ⟨rfl, rfl, .inr (.inr rfl)⟩ (by simp)) touches_doAll_nil))) touches_doAll_nil))

theorem peerFollows_downs (s : State) (port m : Nat) (al : Bool) (code : Nat) (x : Peer) : (doAll (peerFollows s port m al code x)).Downs :=
  touches_doAll_cons (touches_modFb (by decide)) (touches_doAll_cons (touches_modSl (by decide)) (touches_doAll_cons (bktsFail_downs _ _)
    (touches_doAll_cons (touches_forEach fun g _ => touches_whenE (winFail_downs _ _ _ _)) (touches_doAll_cons (touches_whenE
    (touches_forEach fun p _ => segRetry_downs p)) touches_doAll_nil))))

theorem partnerGone_downs (port : Nat) (x : Peer) : (partnerGone port x).Downs :=
  touches_whenE (touches_doAll_cons (mirrorLost_downs _) (touches_doAll_cons (finishAll_downs _ _ _ _ _) (touches_doAll_cons
    (touches_whenE (touches_doAll_cons (touches_setF (.inl (by simp [fPartnerState]))) (touches_doAll_cons (touches_setEvt (.inl (by simp))
    (by decide)) touches_doAll_nil))) touches_doAll_nil)))

theorem peerDown_touches (port m : Nat) (al : Bool) (code : Nat) :
    (peerDown port m al code).Touches faultParts dropRegs (fun _ => True) := fun s => by
  have hmono {e : Eff} (h : e.Downs) : e.Touches faultParts dropRegs (fun _ => True) :=
    Eff.Touches.mono h (fun _ h => h) (fun _ h => dropRegs_of_follow h) (fun _ h => h)
  cases hx : s.peer port m al with
  | none => rw [peerDown_none hx]; exact within_nil
  | some x =>
    by_cases hst : x.st = 2
    · rw [peerDown_already hx hst]; exact within_nil
    · rw [peerDown_eq hx hst]
      refine within_doAll (touches_doAll_append ((peerGone_touches port m al code x).mono (by decide) (fun r hr => ?_) (fun _ h => h.elim))
        (touches_doAll_append (hmono (peerFollows_downs s port m al code x)) (touches_doAll_cons (hmono (partnerGone_downs port x))
          touches_doAll_nil)))
      obtain ⟨-, -, h | h | h⟩ := hr <;> exact .inr (by rw [h]; rfl)

theorem not_followRegs {o : Nat} (h : sendOff o = false) : ¬ followRegs ⟨lkBlk q, lkInst q, o⟩ := by
  rintro (⟨h1, h2⟩ | h')
  · rcases lkBlk_fab_or_blink q with hb | hb
    · exact h1 hb
    · exact h2 hb
  · exact absurd (h.symm.trans h') (by decide)

/-- An event bit of a page that is set stays set. -/
def Eff.HoldsEvt (e : Eff) (blk : Blk) (i b : Nat) : Prop :=
  ∀ s : State, s.on (fEvt blk b) i = true → (e.run s).on (fEvt blk b) i = true

section
variable {blk : Blk} {i b : Nat}

theorem holdsEvt_of_touches {e : Eff} {ps : List Component} {R : RK → Prop} {A : Aux → Prop} (he : e.Touches ps R A)
    (hR : ¬ R ⟨blk, i, offEvtStatus⟩) : e.HoldsEvt blk i b := fun s hs => (he.on s hR).trans hs

theorem holdsEvt_setEvt (hb : b < 64) (blk' : Blk) (i' bit : Nat) : (setEvt blk' i' bit).HoldsEvt blk i b := fun s hs => by
  by_cases hpage : blk' = blk ∧ i' = i
  · obtain ⟨rfl, rfl⟩ := hpage
    by_cases hbit : b = bit
    · rw [← hbit, setEvt_on hb]
    · rw [setEvt, setEvtI_on_ne hbit hb, hs]
  · have h : (setEvt blk' i' bit).Touches [.hi] (fun r => r = ⟨blk', i', offEvtStatus⟩) (fun _ => False) := touches_setEvt rfl (by simp)
    exact holdsEvt_of_touches h (by simpa [eq_comm] using hpage) s hs

theorem holdsEvt_recordErr (hb : b < 63) (blk' : Blk) (i' code info : Nat) : (recordErr blk' i' code info).HoldsEvt blk i b :=
  fun s hs => by
    by_cases hpage : blk' = blk ∧ i' = i
    · obtain ⟨rfl, rfl⟩ := hpage
      rw [recordErr_on_evt hb, hs]
    · have h : (recordErr blk' i' code info).Touches [.hi] (fun r => r = ⟨blk', i', offErr⟩ ∨ r = ⟨blk', i', offEvtStatus⟩)
          (fun _ => False) := touches_recordErr (.inl rfl) (.inr rfl) (by simp)
      exact holdsEvt_of_touches h (by simp [offErr, offEvtStatus]; simpa [eq_comm] using hpage) s hs

theorem holdsEvt_cons {e : Eff} {es : List Eff} (h : e.HoldsEvt blk i b) (hs : (doAll es).HoldsEvt blk i b) :
    (doAll (e :: es)).HoldsEvt blk i b := fun s h' => by
  rw [doAll_cons_run]
  exact hs _ (h s h')

theorem holdsEvt_nil : (doAll []).HoldsEvt blk i b := fun _ h => h

theorem holdsEvt_whenE {c : State → Bool} {e : Eff} (h : e.HoldsEvt blk i b) : (whenE c e).HoldsEvt blk i b := fun s hs => by
  rw [whenE_run]
  split
  · exact h s hs
  · exact hs

theorem holdsEvt_forEach {β : Type} {l : List β} {f : β → Eff} (h : ∀ x ∈ l, (f x).HoldsEvt blk i b) : (forEach l f).HoldsEvt blk i b :=
  fun s hs => forEach_keep (P := fun t => t.on (fEvt blk b) i = true) (fun x hx t ht => h x hx t ht) s hs

theorem holdsEvt_followed {e : Eff} {p : Nat} (he : e.Downs) : e.HoldsEvt (lkBlk p) (lkInst p) b :=
  holdsEvt_of_touches he (not_followRegs rfl)

theorem peerGone_holdsEvt {x : Peer} {b : Nat} (hb : b < 63) : (doAll (peerGone q m al code x)).HoldsEvt blk i b := by
  have hfb : (modPeer q m al fun y => y.fresh 2 y.hbBase).Touches [.fb] (fun _ => False) (fun _ => False) := touches_modPeer (by simp)
  have hcnt : (addLk q 0x160 0 32 x.frames.length).Touches [] (fun r => r.off = 0x160) (fun _ => False) := touches_addLk rfl
  exact holdsEvt_cons (holdsEvt_of_touches hfb id) (holdsEvt_cons (holdsEvt_of_touches hcnt (by simp [offEvtStatus])) (holdsEvt_cons
    (holdsEvt_whenE (holdsEvt_cons (holdsEvt_recordErr hb _ _ _ _) (holdsEvt_cons (holdsEvt_setEvt (by omega) _ _ _) holdsEvt_nil)))
    holdsEvt_nil))

end

/-- A peer that goes DOWN leaves a port's events that are set. -/
theorem peerDown_holdsEvt {p b : Nat} (hb : b < 63) : (peerDown q m al code).HoldsEvt (lkBlk p) (lkInst p) b := fun s hs => by
  cases hx : s.peer q m al with
  | none => rwa [Eff.run_eq, peerDown_none hx]
  | some x =>
    by_cases hst : x.st = 2
    · rwa [Eff.run_eq, peerDown_already hx hst]
    · rw [peerDown_run hx hst]
      exact holdsEvt_followed (partnerGone_downs q x) _ (holdsEvt_followed (peerFollows_downs s q m al code x) _
        (peerGone_holdsEvt hb _ hs))

/-! ## A port leaves UP -/

/-- The registers a port that leaves UP may change. -/
def leaveRegs (port : Nat) (r : RK) : Prop :=
  dropRegs r ∨ (r.blk = lkBlk port ∧ r.inst = lkInst port ∧ (r.off = 0x018 ∨ r.off = 0x108))

theorem leaveUp_eq (q st : Nat) (s : State) : leaveUp q st s = doAll [setLk q 0x018 0 64 st, addLk q 0x108 0 16 1, evtLk q 1,
    forEach (s.fb.peers.filter fun x => x.port = q) fun x => peerDown q x.module_ x.alias_ eLINK_DOWN] s := rfl

/-- The peers of a port go DOWN. -/
def peersDown (s : State) (q : Nat) : Eff :=
  forEach (s.fb.peers.filter fun x => x.port = q) fun x => peerDown q x.module_ x.alias_ eLINK_DOWN

/-- The port's state, its count of losses and its event. -/
def portLeaves (q st : Nat) : Eff := doAll [setLk q 0x018 0 64 st, addLk q 0x108 0 16 1, evtLk q 1]

theorem doAll_three_one (a b c d : Eff) (s : State) : (doAll [a, b, c, d]).run s = d.run ((doAll [a, b, c]).run s) := by
  simp only [doAll_cons_run, doAll_nil_run]

theorem leaveUp_run (q st : Nat) (s : State) : (leaveUp q st).run s = (peersDown s q).run ((portLeaves q st).run s) :=
  (run_congr (leaveUp_eq q st s)).trans (doAll_three_one ..)

theorem peersDown_touches (s : State) (q : Nat) : (peersDown s q).Touches faultParts dropRegs (fun _ => True) :=
  touches_forEach fun _ _ => peerDown_touches _ _ _ _

theorem peersDown_holdsEvt {p b : Nat} (hb : b < 63) (s : State) (q : Nat) : (peersDown s q).HoldsEvt (lkBlk p) (lkInst p) b := by
  unfold peersDown
  exact holdsEvt_forEach fun x _ => peerDown_holdsEvt hb

theorem portLeaves_touches (q st : Nat) : (portLeaves q st).Touches [.hi] (fun r => r.blk = lkBlk q ∧ r.inst = lkInst q ∧
    (r.off = 0x018 ∨ r.off = 0x108 ∨ r.off = offEvtStatus)) (fun _ => False) :=
  touches_doAll_cons (touches_setLk ⟨rfl, rfl, .inl rfl⟩) (touches_doAll_cons (touches_addLk ⟨rfl, rfl, .inr (.inl rfl)⟩)
    (touches_doAll_cons (touches_evtLk ⟨rfl, rfl, .inr (.inr rfl)⟩ (by simp)) touches_doAll_nil))

theorem portLeaves_shows {st : Nat} (hst : st < 2 ^ 64) : ((portLeaves q st).run s).lkState q = st ∧
    ((portLeaves q st).run s).lk q 0x108 0 16 = min (s.lk q 0x108 0 16 + 1) 0xFFFF ∧
    ((portLeaves q st).run s).on (fEvt (lkBlk q) 1) (lkInst q) = true := by
  have hevt : (evtLk q 1).Touches [.hi] (fun r => r = ⟨lkBlk q, lkInst q, offEvtStatus⟩) (fun _ => False) := touches_evtLk rfl (by simp)
  have hcnt : (addLk q 0x108 0 16 1).Touches [] (fun r => r = ⟨lkBlk q, lkInst q, 0x108⟩) (fun _ => False) := touches_addLk rfl
  have hset : (setLk q 0x018 0 64 st).Touches [] (fun r => r = ⟨lkBlk q, lkInst q, 0x018⟩) (fun _ => False) := touches_setLk rfl
  rw [portLeaves, doAll_cons_run, doAll_cons_run, doAll_cons_run, doAll_nil_run]
  refine ⟨?_, ?_, evtLk_on (by omega)⟩
  · rw [State.lkState, lk_of_touches hevt (by simp [offEvtStatus]), lk_of_touches hcnt (by simp), setLk_same (by omega)]
    omega
  · rw [lk_of_touches hevt (by simp [offEvtStatus]), addLk_same (by omega), show (2 : Nat) ^ 16 - 1 = 0xFFFF by norm_num,
      lk_of_touches hset (by simp)]

theorem not_dropRegs {o : Nat} (h : dropOff o = false) : ¬ dropRegs ⟨lkBlk q, lkInst q, o⟩ := by
  rintro (⟨h1, h2⟩ | h')
  · rcases lkBlk_fab_or_blink q with hb | hb
    · exact h1 hb
    · exact h2 hb
  · exact absurd (h.symm.trans h') (by decide)

theorem leaveUp_touches (q st : Nat) : (leaveUp q st).Touches faultParts (leaveRegs q) (fun _ => True) :=
  touches_of (fun s => doAll [setLk q 0x018 0 64 st, addLk q 0x108 0 16 1, evtLk q 1, peersDown s q]) (fun _ => rfl) fun s =>
    touches_doAll_cons (touches_setLk (.inr ⟨rfl, rfl, .inl rfl⟩)) (touches_doAll_cons (touches_addLk (.inr ⟨rfl, rfl, .inr rfl⟩))
      (touches_doAll_cons (touches_evtLk (.inl (.inr rfl)) (by decide)) (touches_doAll_cons (Eff.Touches.mono (peersDown_touches s q)
      (fun _ h => h) (fun _ h => .inl h) (fun _ h => h)) touches_doAll_nil)))

/-- A port that leaves UP shows its state, its count and its event, whatever its peers leave. -/
theorem leaveUp_shows {st : Nat} (hst : st < 2 ^ 64) : ((leaveUp q st).run s).lkState q = st ∧
    ((leaveUp q st).run s).lk q 0x108 0 16 = min (s.lk q 0x108 0 16 + 1) 0xFFFF ∧
    ((leaveUp q st).run s).on (fEvt (lkBlk q) 1) (lkInst q) = true := by
  obtain ⟨hs, hc, he⟩ := portLeaves_shows (q := q) (s := s) hst
  have hd := peersDown_touches s q
  rw [leaveUp_run]
  exact ⟨(lk_of_touches hd (not_dropRegs rfl)).trans hs, (lk_of_touches hd (not_dropRegs rfl)).trans hc,
    peersDown_holdsEvt (by omega) s q _ he⟩

end Sys2Proof.Machine
end

section
/-! PROOFS. Link states: ENABLE, RETRAIN, training, HELLO, loss, pause (chapter 14, R370, R387–R390, Table 14-8). -/

namespace Sys2Proof.Machine

variable {s : State} {c : CmdCtx} {q : Nat} {args : List W64}

/-! ## Training starts, a port drops -/

theorem unpause_touches (q : Nat) : (unpause q).Touches [.fb] (fun _ => False) (fun a => a.kind = .paused) :=
  touches_doAll_cons (touches_forEach fun _ _ => touches_whenE (touches_setAx rfl)) (touches_doAll_cons (touches_whenE
    (touches_modFb (by simp))) touches_doAll_nil)

theorem trainStart_touches (q : Nat) : (trainStart q).Touches [.fb] (fun r => r = ⟨lkBlk q, lkInst q, 0x018⟩)
    (fun a => a = ⟨.helloSeen, q, 0⟩ ∨ a.kind = .paused) :=
  touches_doAll_cons (touches_setLk rfl) (touches_doAll_cons (touches_setAx (.inl rfl)) (touches_doAll_cons
    ((unpause_touches q).mono (by simp) (fun _ h => h.elim) (fun _ h => .inr h)) touches_doAll_nil))

theorem trainStart_shows (s : State) (q : Nat) :
    ((trainStart q).run s).lkState q = 1 ∧ ((trainStart q).run s).ax ⟨.helloSeen, q, 0⟩ = 0 := by
  have hp := unpause_touches q
  have hax : (setAx ⟨.helloSeen, q, 0⟩ 0).Touches [] (fun _ => False) (fun a => a = ⟨.helloSeen, q, 0⟩) := touches_setAx rfl
  simp only [trainStart, doAll_cons_run, doAll_nil_run]
  refine ⟨?_, ?_⟩
  · rw [State.lkState, lk_of_touches hp id, lk_of_touches hax id, setLk_same (by omega)]
    omega
  · rw [hp.ax _ (by simp)]
    simp

theorem dropTo_run_up {st : Nat} (h : s.lkUp q = true) : (dropTo q st).run s = (leaveUp q st).run s :=
  run_congr (by rw [dropTo, if_pos h])

theorem dropTo_run_down {st : Nat} (h : s.lkUp q = false) : (dropTo q st).run s = (setLk q 0x018 0 64 st).run s :=
  run_congr (by rw [dropTo, if_neg (by simp [h])])

theorem retrainEnd_touches (q code : Nat) (v : W64) : (retrainEnd q code v).Touches [.hi, .out] (fun k => k.blk = .host) (fun _ => False) :=
  finishAll_touches _ _ _ _ _

theorem retrainEnd_runningOf (q code : Nat) (v : W64) : ((retrainEnd q code v).run s).runningOf (lkBlk q) (lkInst q) 0x10 = [] :=
  finishAll_runningOf s

/-! ## CTRL -/

theorem ctrlEnable_rises {u : State} {v : W64} (hv : getBits v 2 1 = 1) (hen : u.lkEnabled q = false) (hst : u.lkState q = 0) :
    (ctrlEnable q v).run u = (trainStart q).run ((setReg (lkBlk q) (lkInst q) 0x010 (v &&& 7#64)).run u) := by
  have hreg : (setReg (lkBlk q) (lkInst q) 0x010 (v &&& 7#64)).Touches [] (fun r => r = ⟨lkBlk q, lkInst q, 0x010⟩) (fun _ => False) :=
    touches_setReg rfl
  have heq : ctrlEnable q v u = doAll [setReg (lkBlk q) (lkInst q) 0x010 (v &&& 7#64),
      whenE (fun s => s.lkState q = 0) (trainStart q), skip] u := by
    simp only [ctrlEnable, hen, hv, Bool.not_false, Bool.true_and, decide_true, Bool.not_true, Bool.and_false]
    rfl
  have hst' : ((setReg (lkBlk q) (lkInst q) 0x010 (v &&& 7#64)).run u).lkState q = 0 := (lk_of_touches hreg (by simp)).trans hst
  rw [run_congr heq, doAll_cons_run, doAll_cons_run, doAll_cons_run, doAll_nil_run, skip_run, whenE_run, if_pos (decide_eq_true hst')]

theorem ctrlEnable_falls {u : State} {v : W64} (hv : getBits v 2 1 = 0) (hen : u.lkEnabled q = true) : (ctrlEnable q v).run u =
    (retrainEnd q eLINK_DOWN 0).run ((dropTo q 0).run ((setReg (lkBlk q) (lkInst q) 0x010 (v &&& 7#64)).run u)) := by
  have heq : ctrlEnable q v u = doAll [setReg (lkBlk q) (lkInst q) 0x010 (v &&& 7#64), skip,
      doAll [dropTo q 0, retrainEnd q eLINK_DOWN 0]] u := by
    simp only [ctrlEnable, hen, hv, Bool.not_true, Bool.false_and, zero_ne_one, decide_false, Bool.not_false, Bool.and_self]
    rfl
  rw [run_congr heq]
  simp only [doAll_cons_run, doAll_nil_run, skip_run]

theorem lk_key (s : State) (q : Nat) : s.key (lkBlk q) (lkInst q) = lkInst q := by
  rcases lkBlk_fab_or_blink q with h | h <;> rw [h] <;> rfl

/-- The registers ENABLE's rise may change. -/
def riseRegs (q : Nat) (r : RK) : Prop := r.blk = lkBlk q ∧ r.inst = lkInst q ∧ (r.off = 0x010 ∨ r.off = 0x018)

theorem enable_answers {src : Src} {v : W64} (hl : s.lets src (lkBlk q) (lkInst q) true) (hv : getBits v 2 1 = 1)
    (hen : s.lkEnabled q = false) (hst : s.lkState q = 0) (hpos : 16 ≤ q → s.on ⟨.blink, 0x180, 14, 1⟩ 0 = true) :
    Answers (.linkEnable src q v) s fun t => TookNumber s (lkBlk q) (lkInst q) t ∧ t.lkState q = 1 ∧
        t.rd (lkBlk q) (lkInst q) 0x010 = v &&& 7 ∧ t.ax ⟨.helloSeen, q, 0⟩ = 0 ∧ OnlyParts [.regs, .seq, .aux, .fb] s t ∧
        RegsKeptBut (fun b i o => b = lkBlk q ∧ i = lkInst q ∧ (o = 0x010 ∨ o = 0x018 ∨ o = offSeq)) s t := by
  have hchk : errIf (16 ≤ q && getBits v 2 1 = 1 && !s.lkEnabled q && !s.on ⟨.blink, 0x180, 14, 1⟩ 0) eSTATE = none := by
    by_cases hq : 16 ≤ q
    · simp [hpos hq, errIf]
    · simp [hq, errIf]
  have hlk (off lo w : Nat) (ho : off ≠ offSeq) : (s.numbered (lkBlk q) (lkInst q)).lk q off lo w = s.lk q off lo w :=
    numbered_get ho
  have hreg : (setReg (lkBlk q) (lkInst q) 0x010 (v &&& 7#64)).Touches [] (fun r => r = ⟨lkBlk q, lkInst q, 0x010⟩) (fun _ => False) :=
    touches_setReg rfl
  have hrun : (inTurn src (.linkEnable src q v) (effLinkCtrl src q v)).run s = (doAll [setReg (lkBlk q) (lkInst q) 0x010 (v &&& 7#64),
      trainStart q]).run (s.numbered (lkBlk q) (lkInst q)) := by
    rw [effLinkCtrl, write_accepted hl (by decide) hchk, lk_key, ctrlEnable_rises hv, doAll_cons_run, doAll_cons_run, doAll_nil_run]
    · rw [State.lkEnabled, hlk _ _ _ (by decide)]
      exact hen
    · rw [State.lkState, hlk _ _ _ (by decide)]
      exact hst
  have htouch : (doAll [setReg (lkBlk q) (lkInst q) 0x010 (v &&& 7#64), trainStart q]).Touches [.fb] (riseRegs q)
      (fun a => a = ⟨.helloSeen, q, 0⟩ ∨ a.kind = .paused) :=
    touches_doAll_cons (touches_setReg ⟨rfl, rfl, .inl rfl⟩) (touches_doAll_cons ((trainStart_touches q).mono (fun _ h => h)
      (fun r hr => by rw [hr]; exact ⟨rfl, rfl, .inr rfl⟩) (fun _ h => h)) touches_doAll_nil)
  obtain ⟨hnum, honly, hkept⟩ := write_frame (s := s) (blk := lkBlk q) (key := lkInst q) htouch [.regs, .seq, .aux, .fb]
    (fun b i o => b = lkBlk q ∧ i = lkInst q ∧ (o = 0x010 ∨ o = 0x018 ∨ o = offSeq)) (by simp) (by simp) (by simp) (by simp)
    (.inl (by simp)) (by simp [riseRegs, offSeq]) (fun b i o h => ⟨h.1, h.2.1, h.2.2.imp_right .inl⟩) ⟨rfl, rfl, .inr (.inr rfl)⟩
  refine ⟨_, congrArg Host.Outcome.next hrun, hnum, ?_, ?_, ?_, honly, hkept⟩
  · rw [doAll_cons_run, doAll_cons_run, doAll_nil_run]
    exact (trainStart_shows _ q).1
  · rw [doAll_cons_run, doAll_cons_run, doAll_nil_run, (trainStart_touches q).rd _ (by simp), setReg_run, State.rd_apply1]
    exact if_pos rfl
  · rw [doAll_cons_run, doAll_cons_run, doAll_nil_run]
    exact (trainStart_shows _ q).2

/-- The registers of a page of a port that ENABLE's fall may change, its port UP or not. -/
theorem disable_answers {src : Src} {v : W64} (hl : s.lets src (lkBlk q) (lkInst q) true) (hv : getBits v 2 1 = 0)
    (hen : s.lkEnabled q = true) : Answers (.linkDisable src q v) s fun t => TookNumber s (lkBlk q) (lkInst q) t ∧ t.lkState q = 0 ∧
        t.rd (lkBlk q) (lkInst q) 0x010 = v &&& 7 ∧ t.runningOf (lkBlk q) (lkInst q) 0x10 = [] ∧
        (s.lkUp q = true → t.lk q 0x108 0 16 = min (s.lk q 0x108 0 16 + 1) 0xFFFF) ∧
        (s.lkUp q = false → OnlyParts [.regs, .seq, .hi, .out] s t) := by
  have hlk (off lo w : Nat) (ho : off ≠ offSeq) : (s.numbered (lkBlk q) (lkInst q)).lk q off lo w = s.lk q off lo w :=
    numbered_get ho
  have hreg : (setReg (lkBlk q) (lkInst q) 0x010 (v &&& 7#64)).Touches [] (fun r => r = ⟨lkBlk q, lkInst q, 0x010⟩) (fun _ => False) :=
    touches_setReg rfl
  have hrun : (inTurn src (.linkDisable src q v) (effLinkCtrl src q v)).run s = (retrainEnd q eLINK_DOWN 0).run ((dropTo q 0).run
      ((setReg (lkBlk q) (lkInst q) 0x010 (v &&& 7#64)).run (s.numbered (lkBlk q) (lkInst q)))) := by
    rw [effLinkCtrl, write_accepted hl (by decide) (by simp [hen, errIf]), lk_key, ctrlEnable_falls hv]
    rw [State.lkEnabled, hlk _ _ _ (by decide)]
    exact hen
  have hend := retrainEnd_touches q eLINK_DOWN 0
  have hup : ((setReg (lkBlk q) (lkInst q) 0x010 (v &&& 7#64)).run (s.numbered (lkBlk q) (lkInst q))).lkUp q = s.lkUp q := by
    rw [State.lkUp, State.lkState, lk_of_touches hreg (by simp), hlk _ _ _ (by decide), State.lkUp, State.lkState]
  have hloss : ((setReg (lkBlk q) (lkInst q) 0x010 (v &&& 7#64)).run (s.numbered (lkBlk q) (lkInst q))).lk q 0x108 0 16 =
      s.lk q 0x108 0 16 := (lk_of_touches hreg (by simp)).trans (hlk _ _ _ (by decide))
  have hctrl : ((setReg (lkBlk q) (lkInst q) 0x010 (v &&& 7#64)).run (s.numbered (lkBlk q) (lkInst q))).rd (lkBlk q) (lkInst q) 0x010 =
      v &&& 7 := by
    rw [setReg_run, State.rd_apply1]
    exact if_pos rfl
  have hnum : TookNumber s (lkBlk q) (lkInst q) ((setReg (lkBlk q) (lkInst q) 0x010 (v &&& 7#64)).run
      (s.numbered (lkBlk q) (lkInst q))) := tookNumber hreg (by simp) (by simp [offSeq])
  have honly : OnlyParts [.regs, .seq, .hi, .out] s ((setReg (lkBlk q) (lkInst q) 0x010 (v &&& 7#64)).run
      (s.numbered (lkBlk q) (lkInst q))) := (numbered_only (by simp) (by simp)).trans (hreg.only _ (by simp) (by simp) (by simp))
  generalize (setReg (lkBlk q) (lkInst q) 0x010 (v &&& 7#64)).run (s.numbered (lkBlk q) (lkInst q)) = u at hrun hup hloss hctrl hnum honly
  have hfin : ((retrainEnd q eLINK_DOWN 0).run ((dropTo q 0).run u)).runningOf (lkBlk q) (lkInst q) 0x10 = [] := retrainEnd_runningOf ..
  have hhost {o : Nat} : ¬ (⟨lkBlk q, lkInst q, o⟩ : RK).blk = .host := lkBlk_not_host q
  have hseq {e : Eff} {ps : List Component} {R : RK → Prop} {A : Aux → Prop} (he : e.Touches ps R A) (hp : Component.seq ∉ ps)
      (hR : ¬ R ⟨lkBlk q, lkInst q, offSeq⟩) {t : State} (ht : TookNumber s (lkBlk q) (lkInst q) t) :
      TookNumber s (lkBlk q) (lkInst q) (e.run t) :=
    ⟨(he.same t .seq hp (by simp) (by simp) : _ = _).trans ht.1, (he.rd t hR).trans ht.2⟩
  cases hs : s.lkUp q with
  | true =>
    rw [dropTo_run_up (hup.trans hs)] at hrun hfin
    have hleave := leaveUp_touches q 0
    obtain ⟨hst, hcnt, -⟩ := leaveUp_shows (s := u) (q := q) (st := 0) (by omega)
    have hno {o : Nat} (h : dropOff o = false) (h1 : o ≠ 0x018) (h2 : o ≠ 0x108) : ¬ leaveRegs q ⟨lkBlk q, lkInst q, o⟩ := by
      rintro (h' | ⟨-, -, h' | h'⟩)
      · exact not_dropRegs h h'
      · exact h1 h'
      · exact h2 h'
    refine ⟨_, congrArg Host.Outcome.next hrun, ?_, ?_, ?_, hfin, fun _ => ?_, fun h => by cases h⟩
    · exact hseq hend (by simp) hhost (hseq hleave (by decide) (hno (by decide) (by decide) (by decide)) hnum)
    · exact (lk_of_touches hend hhost).trans hst
    · rw [hend.rd _ hhost, hleave.rd _ (hno (by decide) (by decide) (by decide)), hctrl]
    · rw [lk_of_touches hend hhost, hcnt, hloss]
  | false =>
    rw [dropTo_run_down (hup.trans hs)] at hrun hfin
    have hset : (setLk q 0x018 0 64 0).Touches [] (fun r => r = ⟨lkBlk q, lkInst q, 0x018⟩) (fun _ => False) := touches_setLk rfl
    refine ⟨_, congrArg Host.Outcome.next hrun, ?_, ?_, ?_, hfin, fun h => (by cases h), fun _ => ?_⟩
    · exact hseq hend (by simp) hhost (hseq hset (by simp) (by simp [offSeq]) hnum)
    · exact (lk_of_touches hend hhost).trans (setLk_same (by omega))
    · rw [hend.rd _ hhost, hset.rd _ (by simp), hctrl]
    · exact honly.trans ((hset.only _ (by simp) (by simp) (by simp)).trans (hend.only _ (by simp) (by simp) (by simp)))

/-! ## RETRAIN -/

theorem effRetrain_eq (hq : q < 19) : effRetrain c (lkBlk q) (lkInst q) args =
    admitCmd c (lkBlk q) (lkInst q) 0x10 args (retrainSpec q args) := by
  unfold effRetrain lkBlk lkInst
  by_cases h : q < 16
  · simp [h]
  · simp [h, show 16 + (q - 16) = q by omega]

theorem retrain_answers (hq : q < 19) (h : s.admits c (lkBlk q) (lkInst q) (retrainSpec q args)) :
    Answers (.retrain c (lkBlk q) (lkInst q) args) s fun t => t.seq = s.seq + 1 ∧ t.lkState q = 1 ∧
      t.ax ⟨.helloSeen, q, 0⟩ = 0 ∧
      (s.lkUp q = true → t.lk q 0x108 0 16 = min (s.lk q 0x108 0 16 + 1) 0xFFFF) ∧
      (s.lkUp q = false → t.hi.running = s.hi.running ++ [s.asRunning c (lkBlk q) (lkInst q) 0x10 args] ∧
        OnlyParts [.seq, .regs, .aux, .hi, .out, .free, .fb] s t) := by
  have hrun : (effRetrain c (lkBlk q) (lkInst q) args).run s = (trainStart q).run ((whenE (fun s => s.lkUp q) (leaveUp q 3)).run
      (s.taken c (lkBlk q) (lkInst q) 0x10 args)) := by
    rw [effRetrain_eq hq, admitCmd_run h, retrainSpec]
    dsimp only
    rw [doAll_cons_run, doAll_cons_run, doAll_nil_run]
  have htaken (off lo w : Nat) : (s.taken c (lkBlk q) (lkInst q) 0x10 args).lk q off lo w = s.lk q off lo w :=
    taken_get (lkBlk_not_host q)
  have hup : (s.taken c (lkBlk q) (lkInst q) 0x10 args).lkUp q = s.lkUp q := by
    rw [State.lkUp, State.lkState, htaken, State.lkUp, State.lkState]
  have htrain := trainStart_touches q
  rw [whenE_run, hup] at hrun
  cases hs : s.lkUp q with
  | true =>
    rw [if_pos hs] at hrun
    obtain ⟨-, hcnt, -⟩ := leaveUp_shows (s := s.taken c (lkBlk q) (lkInst q) 0x10 args) (q := q) (st := 3) (by omega)
    refine ⟨_, congrArg Host.Outcome.next hrun, ?_, (trainStart_shows _ q).1, (trainStart_shows _ q).2, fun _ => ?_,
      fun h => by cases h⟩
    · exact (htrain.same _ .seq (by simp) (by simp) (by simp) : _ = _).trans
        (((leaveUp_touches q 3).same _ .seq (by decide) (by simp) (by simp) : _ = _).trans taken_seq)
    · rw [lk_of_touches htrain (by simp), hcnt, htaken]
  | false =>
    rw [if_neg (by simp [hs])] at hrun
    refine ⟨_, congrArg Host.Outcome.next hrun, ?_, (trainStart_shows _ q).1, (trainStart_shows _ q).2, fun h => (by cases h),
      fun _ => ⟨?_, ?_⟩⟩
    · exact (htrain.same _ .seq (by simp) (by simp) (by simp) : _ = _).trans taken_seq
    · exact (congrArg HostSt.running (htrain.same _ .hi (by simp) (by simp) (by simp) : _ = _)).trans taken_running
    · exact (taken_only (by simp) (by simp) (by simp) (by simp) (by simp)).trans (htrain.only _ (by simp) (by simp) (by simp))

/-! ## A link comes UP -/

/-- The peers of a link that comes UP: a fabric port's go SYNC, a board link's is the module of its HELLO. -/
def State.linkPeers (s : State) (q : Nat) (l : List Peer) : List Peer :=
  if q < 16 then l.map fun x => if x.port = q then x.fresh 0 s.hb else x
  else l.filter (fun x => x.port ≠ q) ++
    [{ port := q, module_ := s.ax ⟨.helloSeen, q, 1⟩ - 1, pos := s.ax ⟨.helloSeen, q, 2⟩, hbBase := s.hb }]

theorem linkPeers_st {l : List Peer} {x : Peer} (h : x ∈ s.linkPeers q l) (hp : x.port = q) : x.st = 0 := by
  unfold State.linkPeers at h
  split at h
  · obtain ⟨y, -, rfl⟩ := List.mem_map.1 h
    by_cases hy : y.port = q
    · simp only [if_pos hy, Peer.fresh]
    · simp only [if_neg hy] at hp
      exact absurd hp hy
  · rcases List.mem_append.1 h with h | h
    · exact absurd hp (of_decide_eq_true (List.mem_filter.1 h).2)
    · rw [List.mem_singleton.1 h]

theorem linkPeers_board {l : List Peer} (hq : 16 ≤ q) : (s.linkPeers q l).find? (fun x => x.port = q) =
    some { port := q, module_ := s.ax ⟨.helloSeen, q, 1⟩ - 1, pos := s.ax ⟨.helloSeen, q, 2⟩, hbBase := s.hb } := by
  rw [State.linkPeers, if_neg (by omega), List.find?_append, List.find?_eq_none.2 fun x hx => ?_]
  · simp
  · simpa using (List.mem_filter.1 hx).2

theorem linkGoUp_eq (q : Nat) (s : State) : linkGoUp q s = doAll [setLk q 0x018 0 64 2, evtLk q 0,
    whenE (fun _ => s.lk q 0x100 0 5 < lanesOf q) (evtLk q 2), modFb fun b => { b with peers := s.linkPeers q b.peers },
    retrainEnd q eOK (BitVec.ofNat 64 (s.lk q 0x100 0 5))] s := by
  unfold linkGoUp State.linkPeers
  split <;> rfl

theorem linkGoUp_touches (q : Nat) : (linkGoUp q).Touches [.hi, .out, .fb] (fun r => r.blk = .host ∨ (r.blk = lkBlk q ∧
    r.inst = lkInst q ∧ (r.off = 0x018 ∨ r.off = offEvtStatus))) (fun _ => False) :=
  touches_of _ (linkGoUp_eq q) fun s => touches_doAll_cons (touches_setLk (.inr ⟨rfl, rfl, .inl rfl⟩)) (touches_doAll_cons
    (touches_evtLk (.inr ⟨rfl, rfl, .inr rfl⟩) (by simp)) (touches_doAll_cons (touches_whenE (touches_evtLk (.inr ⟨rfl, rfl, .inr rfl⟩)
    (by simp))) (touches_doAll_cons (touches_modFb (by simp)) (touches_doAll_cons ((retrainEnd_touches q eOK _).mono (by simp)
    (fun _ h => .inl h) (fun _ h => h)) touches_doAll_nil))))

/-- A link that comes UP. -/
theorem linkGoUp_shows (s : State) (q : Nat) : ((linkGoUp q).run s).lkState q = 2 ∧
    ((linkGoUp q).run s).on (fEvt (lkBlk q) 0) (lkInst q) = true ∧
    (s.lk q 0x100 0 5 < lanesOf q → ((linkGoUp q).run s).on (fEvt (lkBlk q) 2) (lkInst q) = true) ∧
    ((linkGoUp q).run s).runningOf (lkBlk q) (lkInst q) 0x10 = [] ∧
    ((linkGoUp q).run s).fb.peers = s.linkPeers q s.fb.peers := by
  have hevt (b : Nat) : (evtLk q b).Touches [.hi] (fun r => r.off = offEvtStatus) (fun _ => False) := touches_evtLk rfl (by simp)
  have hset : (setLk q 0x018 0 64 2).Touches [] (fun r => r.off = 0x018) (fun _ => False) := touches_setLk rfl
  have hlanes : (whenE (fun _ => s.lk q 0x100 0 5 < lanesOf q) (evtLk q 2)).Touches [.hi] (fun r => r.off = offEvtStatus)
      (fun _ => False) := touches_whenE (hevt 2)
  have hfb (f : FabSt → FabSt) : (modFb f).Touches [.fb] (fun _ => False) (fun _ => False) := touches_modFb (by simp)
  have hend := retrainEnd_touches q eOK (BitVec.ofNat 64 (s.lk q 0x100 0 5))
  have hhost {o : Nat} : ¬ (⟨lkBlk q, lkInst q, o⟩ : RK).blk = .host := lkBlk_not_host q
  rw [run_congr (linkGoUp_eq q s), doAll_cons_run, doAll_cons_run, doAll_cons_run, doAll_cons_run, doAll_cons_run, doAll_nil_run]
  refine ⟨?_, ?_, fun hl => ?_, retrainEnd_runningOf .., ?_⟩
  · rw [State.lkState, lk_of_touches hend hhost, lk_of_touches (hfb _) id, lk_of_touches hlanes (by simp [offEvtStatus]),
      lk_of_touches (hevt 0) (by simp [offEvtStatus]), setLk_same (by omega)]
    decide
  · rw [hend.on _ hhost, (hfb _).on _ id]
    exact holdsEvt_whenE (holdsEvt_setEvt (by omega) _ _ _) _ (evtLk_on (by omega))
  · rw [hend.on _ hhost, (hfb _).on _ id, whenE_run, if_pos (decide_eq_true hl)]
    exact evtLk_on (by omega)
  · have hpeers {e : Eff} {ps : List Component} {R : RK → Prop} {A : Aux → Prop} (he : e.Touches ps R A) (hp : Component.fb ∉ ps)
        (t : State) : (e.run t).fb = t.fb := he.same t .fb hp (by simp) (by simp)
    have hmod (f : FabSt → FabSt) (t : State) : ((modFb f).run t).fb = f t.fb := rfl
    rw [hpeers hend (by simp), hmod, hpeers hlanes (by simp), hpeers (hevt 0) (by simp), hpeers hset (by simp)]

/-! ## Training is done -/

theorem lanesUsed_lt {ok : Nat} {u : Nat × Nat} (h : lanesUsed q ok = some u) : u.1 < 32 ∧ u.2 < 2 ^ 16 := by
  have hn : lanesOf q = 8 ∨ lanesOf q = 16 := by
    unfold lanesOf
    split
    · exact .inl rfl
    · exact .inr rfl
  unfold lanesUsed at h
  dsimp only at h
  rcases hn with hn | hn <;> rw [hn] at h <;> split at h
  · cases h; decide
  · split at h
    · cases h; decide
    · split at h
      · cases h; decide
      · cases h
  · cases h; decide
  · split at h
    · cases h; decide
    · split at h
      · cases h; decide
      · cases h

/-- The word a port shows once its lanes have trained. -/
def trainWord (q : Nat) (u : Nat × Nat) (ms : Nat) (rev : Bool) : W64 :=
  BitVec.ofNat 64 (u.1 + (if 16 ≤ q ∧ rev then 2 ^ 5 else 0) + u.2 * 2 ^ 16 + ms % 65536 * 2 ^ 32)

theorem trainWord_lanes {u : Nat × Nat} (ms : Nat) (rev : Bool) (h1 : u.1 < 32) (h2 : u.2 < 2 ^ 16) :
    getBits (trainWord q u ms rev) 0 5 = u.1 ∧ getBits (trainWord q u ms rev) 16 16 = u.2 := by
  have hr : ∃ r, (if 16 ≤ q ∧ rev then 2 ^ 5 else 0) = 32 * r ∧ r < 2 := by
    split
    · exact ⟨1, rfl, by omega⟩
    · exact ⟨0, rfl, by omega⟩
  obtain ⟨r, hr, hr2⟩ := hr
  have hm : ms % 65536 < 65536 := Nat.mod_lt _ (by omega)
  rw [trainWord, hr, getBits_ofNat_of_lt (by omega), getBits_ofNat_of_lt (by omega)]
  omega

/-- A board link's HELLO leaves. -/
def helloSent (q : Nat) : Eff := if q < 16 then skip else sendHello q

theorem sendHello_touches (q : Nat) : (sendHello q).Touches [.out, .fb, .free] (fun r => sendOff r.off = true) (fun _ => False) :=
  fun s => by
    unfold sendHello
    dsimp only
    split
    · exact touches_sendOn (fun _ _ h => h) (by simp) (by simp) s
    · exact touches_drawFree (by simp) (fun w => touches_sendOn (fun _ _ h => h) (by simp) (by simp)) s

theorem helloSent_touches (q : Nat) : (helloSent q).Touches [.out, .fb, .free] (fun r => sendOff r.off = true) (fun _ => False) :=
  touches_ite touches_skip (sendHello_touches q)

theorem effLinkTrainDone_run {ok ms : Nat} {rev : Bool} {u : Nat × Nat} (hq : q < 19) (hheld : s.held = false) (hst : s.lkState q = 1)
    (h3 : s.ax ⟨.helloSeen, q, 0⟩ ≠ 3) (hu : lanesUsed q ok = some u) (hhello : 16 ≤ q → s.ax ⟨.helloSeen, q, 0⟩ = 1) :
    (effLinkTrainDone q ok ms rev).run s =
      (linkGoUp q).run ((helloSent q).run ((setReg (lkBlk q) (lkInst q) 0x100 (trainWord q u ms rev)).run s)) := by
  have hno : ¬ (19 ≤ q ∨ s.held = true ∨ s.lkState q ≠ 1 ∨ s.ax ⟨.helloSeen, q, 0⟩ = 3) := by
    simp [hheld, hst, h3, hq]
  have heq : effLinkTrainDone q ok ms rev s = doAll [setReg (lkBlk q) (lkInst q) 0x100 (trainWord q u ms rev),
      if q < 16 then linkGoUp q else doAll [sendHello q, linkGoUp q]] s := by
    rw [effLinkTrainDone, if_neg hno, hu]
    by_cases h16 : q < 16
    · simp only [if_pos h16, trainWord]
    · simp only [if_neg h16, hhello (by omega), trainWord]
  rw [run_congr heq, doAll_cons_run, doAll_cons_run, doAll_nil_run]
  by_cases h16 : q < 16
  · rw [if_pos h16, helloSent, if_pos h16, skip_run]
  · rw [if_neg h16, helloSent, if_neg h16, doAll_cons_run, doAll_cons_run, doAll_nil_run]

theorem trainDone_answers {ok ms : Nat} {rev : Bool} {u : Nat × Nat} (hq : q < 19) (hheld : s.held = false) (hst : s.lkState q = 1)
    (h3 : s.ax ⟨.helloSeen, q, 0⟩ ≠ 3) (hu : lanesUsed q ok = some u) (hhello : 16 ≤ q → s.ax ⟨.helloSeen, q, 0⟩ = 1) :
    Answers (.linkTrainDone q ok ms rev) s fun t => t.lkState q = 2 ∧ t.lk q 0x100 0 5 = u.1 ∧ t.lk q 0x100 16 16 = u.2 ∧
      t.on (fEvt (lkBlk q) 0) (lkInst q) = true ∧
      (u.1 < lanesOf q → t.on (fEvt (lkBlk q) 2) (lkInst q) = true) ∧ t.runningOf (lkBlk q) (lkInst q) 0x10 = [] ∧
      (∀ x ∈ t.fb.peers, x.port = q → x.st = 0) ∧
      (16 ≤ q → ∃ x, t.boardPeer q = some x ∧ x.module_ = s.ax ⟨.helloSeen, q, 1⟩ - 1 ∧ x.pos = s.ax ⟨.helloSeen, q, 2⟩) ∧
      OnlyParts [.regs, .hi, .out, .free, .fb] s t := by
  have hrun := effLinkTrainDone_run (ms := ms) (rev := rev) hq hheld hst h3 hu hhello
  obtain ⟨hu1, hu2⟩ := lanesUsed_lt hu
  obtain ⟨hw1, hw2⟩ := trainWord_lanes (q := q) ms rev hu1 hu2
  have hreg : (setReg (lkBlk q) (lkInst q) 0x100 (trainWord q u ms rev)).Touches [] (fun r => r.off = 0x100) (fun _ => False) :=
    touches_setReg rfl
  have hhel := helloSent_touches q
  have hgo := linkGoUp_touches q
  have hword : ((setReg (lkBlk q) (lkInst q) 0x100 (trainWord q u ms rev)).run s).rd (lkBlk q) (lkInst q) 0x100 = trainWord q u ms rev := by
    rw [setReg_run, State.rd_apply1]
    exact if_pos rfl
  have honly : OnlyParts [.regs, .hi, .out, .free, .fb] s ((helloSent q).run ((setReg (lkBlk q) (lkInst q) 0x100 (trainWord q u ms rev)).run
    s)) := (hreg.only _ (by simp) (by simp) (by simp)).trans (hhel.only _ (by simp) (by simp) (by simp))
  have hw : ((helloSent q).run ((setReg (lkBlk q) (lkInst q) 0x100 (trainWord q u ms rev)).run s)).rd (lkBlk q) (lkInst q) 0x100 =
      trainWord q u ms rev := (hhel.rd _ (by simp [sendOff])).trans hword
  have hax (k : Aux) : ((helloSent q).run ((setReg (lkBlk q) (lkInst q) 0x100 (trainWord q u ms rev)).run s)).ax k = s.ax k :=
    (hhel.ax _ id).trans (hreg.ax _ id)
  generalize (helloSent q).run ((setReg (lkBlk q) (lkInst q) 0x100 (trainWord q u ms rev)).run s) = v at hrun honly hw hax
  obtain ⟨hup, hevt0, hevt2, hfin, hpeers⟩ := linkGoUp_shows v q
  have hlk (lo w : Nat) : v.lk q 0x100 lo w = getBits (trainWord q u ms rev) lo w := get_of_rd (f := lkF q 0x100 lo w) hw
  have hlanes (lo w : Nat) : ((linkGoUp q).run v).lk q 0x100 lo w = getBits (trainWord q u ms rev) lo w :=
    (lk_of_touches hgo (by simp [offEvtStatus, lkBlk_not_host])).trans (hlk lo w)
  refine ⟨_, congrArg Host.Outcome.next hrun, hup, (hlanes 0 5).trans hw1, (hlanes 16 16).trans hw2, hevt0, fun hl => hevt2 ?_, hfin,
    fun x hx hp => ?_, fun h16 => ?_, honly.trans (hgo.only _ (by simp) (by simp) (by simp))⟩
  · rwa [hlk, hw1]
  · rw [hpeers] at hx
    exact linkPeers_st hx hp
  · refine ⟨_, (congrArg _ hpeers).trans (linkPeers_board h16), ?_, ?_⟩ <;> simp [hax]

/-! ## HELLO -/

/-- What a HELLO in TRAINING notes: the module and place it names, and whether they are the expected ones. -/
def helloNoted (q m pos : Nat) (seen : Nat) : Eff :=
  doAll [setAx ⟨.helloSeen, q, 1⟩ (m + 1), setAx ⟨.helloSeen, q, 2⟩ pos, setAx ⟨.helloSeen, q, 0⟩ seen]

theorem helloNoted_touches (q m pos seen : Nat) : (helloNoted q m pos seen).Touches [] (fun _ => False) (fun _ => True) :=
  touches_doAll_cons (touches_setAx trivial) (touches_doAll_cons (touches_setAx trivial) (touches_doAll_cons (touches_setAx trivial)
    touches_doAll_nil))

theorem helloNoted_shows (s : State) (q m pos seen : Nat) : ((helloNoted q m pos seen).run s).ax ⟨.helloSeen, q, 0⟩ = seen ∧
    ((helloNoted q m pos seen).run s).ax ⟨.helloSeen, q, 1⟩ = m + 1 ∧ ((helloNoted q m pos seen).run s).ax ⟨.helloSeen, q, 2⟩ = pos := by
  simp only [helloNoted, doAll_cons_run, doAll_nil_run]
  refine ⟨?_, ?_, ?_⟩ <;> simp

/-- A HELLO in TRAINING, good or not: it is noted, and decides the link once its lanes are locked. -/
theorem effHello_run {m pos link seen : Nat} {after : Eff} (h16 : 16 ≤ q) (hq : q < 19) (hst : s.lkState q = 1)
    (hg : (link = q - 16 ∧ pos = Nat.xor (s.get fBoardPos 0) (q - 15) ∧ m ≠ s.self) ∧ seen = 1 ∧ after = linkGoUp q ∨
      ¬ (link = q - 16 ∧ pos = Nat.xor (s.get fBoardPos 0) (q - 15) ∧ m ≠ s.self) ∧ seen = 2 ∧ after = linkMiswired q) :
    (effHello q m pos link).run s = (whenE (fun _ => s.ax ⟨.helloSeen, q, 0⟩ = 3) after).run ((helloNoted q m pos seen).run s) := by
  have hno : ¬ (q < 16 ∨ 19 ≤ q ∨ s.lkState q ≠ 1) := by
    rintro (h | h | h)
    · omega
    · omega
    · exact h hst
  have heq : effHello q m pos link s = doAll [setAx ⟨.helloSeen, q, 1⟩ (m + 1), setAx ⟨.helloSeen, q, 2⟩ pos,
      setAx ⟨.helloSeen, q, 0⟩ seen, whenE (fun _ => s.ax ⟨.helloSeen, q, 0⟩ = 3) after] s := by
    rw [effHello, if_neg hno]
    rcases hg with ⟨hg, rfl, rfl⟩ | ⟨hg, rfl, rfl⟩
    · simp only [if_pos hg]
    · simp only [if_neg hg]
  exact (run_congr heq).trans (doAll_three_one ..)

theorem hello_waits {m pos link seen : Nat} {after : Eff} (g : Nat) (h16 : 16 ≤ q) (hq : q < 19) (hst : s.lkState q = 1)
    (h3 : s.ax ⟨.helloSeen, q, 0⟩ ≠ 3)
    (hg : (link = q - 16 ∧ pos = Nat.xor (s.get fBoardPos 0) (q - 15) ∧ m ≠ s.self) ∧ seen = 1 ∧ after = linkGoUp q ∨
      ¬ (link = q - 16 ∧ pos = Nat.xor (s.get fBoardPos 0) (q - 15) ∧ m ≠ s.self) ∧ seen = 2 ∧ after = linkMiswired q) :
    Answers (.hello q m pos link g) s fun t => t.ax ⟨.helloSeen, q, 0⟩ = seen ∧ t.lkState q = 1 ∧
        t.ax ⟨.helloSeen, q, 1⟩ = m + 1 ∧ OnlyParts [.aux] s t := by
  have hrun := effHello_run h16 hq hst hg
  rw [whenE_run, if_neg (by simp [h3])] at hrun
  have hnote := helloNoted_touches q m pos seen
  obtain ⟨h0, h1, -⟩ := helloNoted_shows s q m pos seen
  exact ⟨_, congrArg Host.Outcome.next hrun, h0, (lk_of_touches hnote id).trans hst, h1, hnote.only _ (by simp) (by simp) (by simp)⟩

theorem linkMiswired_eq (q : Nat) (s : State) : linkMiswired q s = doAll [setLk q 0x018 0 64 4, evtLk q 5,
    errLk q eARG (s.ax ⟨.helloSeen, q, 1⟩ - 1), retrainEnd q eARG 0] s := rfl

theorem linkMiswired_touches (q : Nat) : (linkMiswired q).Touches [.hi, .out] (fun _ => True) (fun _ => False) :=
  touches_of _ (linkMiswired_eq q) fun s => touches_doAll_cons (touches_setLk trivial) (touches_doAll_cons (touches_evtLk trivial (by simp))
    (touches_doAll_cons (touches_errLk trivial trivial (by simp)) (touches_doAll_cons ((retrainEnd_touches q eARG 0).mono (fun _ h => h)
    (fun _ _ => trivial) (fun _ h => h)) touches_doAll_nil)))

theorem linkMiswired_shows (s : State) (q : Nat) : ((linkMiswired q).run s).lkState q = 4 ∧
    ((linkMiswired q).run s).on (fEvt (lkBlk q) 5) (lkInst q) = true ∧
    (s.get (fErrCode (lkBlk q)) (lkInst q) = 0 → ((linkMiswired q).run s).get (fErrCode (lkBlk q)) (lkInst q) = eARG ∧
      ((linkMiswired q).run s).get (fErrInfo (lkBlk q)) (lkInst q) = (s.ax ⟨.helloSeen, q, 1⟩ - 1) % 2 ^ 32) := by
  have hevt : (evtLk q 5).Touches [.hi] (fun r => r.off = offEvtStatus) (fun _ => False) := touches_evtLk rfl (by simp)
  have hset : (setLk q 0x018 0 64 4).Touches [] (fun r => r.off = 0x018) (fun _ => False) := touches_setLk rfl
  have herr : (errLk q eARG (s.ax ⟨.helloSeen, q, 1⟩ - 1)).Touches [.hi] (fun r => r.off = offErr ∨ r.off = offEvtStatus) (fun _ => False) :=
    touches_errLk (.inl rfl) (.inr rfl) (by simp)
  have hend := retrainEnd_touches q eARG 0
  have hhost {o : Nat} : ¬ (⟨lkBlk q, lkInst q, o⟩ : RK).blk = .host := lkBlk_not_host q
  rw [run_congr (linkMiswired_eq q s), doAll_cons_run, doAll_cons_run, doAll_cons_run, doAll_cons_run, doAll_nil_run]
  refine ⟨?_, ?_, fun h0 => ?_⟩
  · rw [State.lkState, lk_of_touches hend hhost, lk_of_touches herr (by simp [offErr, offEvtStatus]),
      lk_of_touches hevt (by simp [offEvtStatus]), setLk_same (by omega)]
    decide
  · rw [hend.on _ hhost]
    exact holdsEvt_recordErr (by omega) _ _ _ _ _ (evtLk_on (by omega))
  · rw [hend.get _ hhost, hend.get _ hhost]
    refine recordErr_err (by decide) ?_
    rw [hevt.get _ (by simp [fErrCode, offErr, offEvtStatus]), hset.get _ (by simp [fErrCode, offErr]), h0]

theorem hello_up {m pos link : Nat} (g : Nat) (h16 : 16 ≤ q) (hq : q < 19) (hst : s.lkState q = 1) (h3 : s.ax ⟨.helloSeen, q, 0⟩ = 3)
    (hg : link = q - 16 ∧ pos = Nat.xor (s.get fBoardPos 0) (q - 15) ∧ m ≠ s.self) :
    Answers (.hello q m pos link g) s fun t => t.lkState q = 2 ∧
      (∃ x, t.boardPeer q = some x ∧ x.module_ = m ∧ x.st = 0 ∧ x.pos = pos) ∧ OnlyParts [.regs, .aux, .hi, .out, .fb] s t := by
  have hrun := effHello_run h16 hq hst (.inl ⟨hg, rfl, rfl⟩)
  rw [whenE_run, if_pos (by simp [h3])] at hrun
  obtain ⟨-, h1, h2⟩ := helloNoted_shows s q m pos 1
  obtain ⟨hup, -, -, -, hpeers⟩ := linkGoUp_shows ((helloNoted q m pos 1).run s) q
  refine ⟨_, congrArg Host.Outcome.next hrun, hup, ⟨_, (congrArg _ hpeers).trans (linkPeers_board h16), ?_, rfl, ?_⟩,
    ((helloNoted_touches q m pos 1).only _ (by simp) (by simp) (by simp)).trans ((linkGoUp_touches q).only _ (by simp) (by simp) (by simp))⟩
  · simp only [h1]
    omega
  · simp only [h2]

theorem hello_miswired {m pos link : Nat} (g : Nat) (h16 : 16 ≤ q) (hq : q < 19) (hst : s.lkState q = 1)
    (h3 : s.ax ⟨.helloSeen, q, 0⟩ = 3) (hg : ¬ (link = q - 16 ∧ pos = Nat.xor (s.get fBoardPos 0) (q - 15) ∧ m ≠ s.self)) :
    Answers (.hello q m pos link g) s fun t => t.lkState q = 4 ∧ t.on (fEvt (lkBlk q) 5) (lkInst q) = true ∧
      (s.get (fErrCode (lkBlk q)) (lkInst q) = 0 → t.get (fErrCode (lkBlk q)) (lkInst q) = eARG ∧
        t.get (fErrInfo (lkBlk q)) (lkInst q) = m % 2 ^ 32) ∧ OnlyParts [.regs, .aux, .hi, .out] s t := by
  have hrun := effHello_run h16 hq hst (.inr ⟨hg, rfl, rfl⟩)
  rw [whenE_run, if_pos (by simp [h3])] at hrun
  have hnote := helloNoted_touches q m pos 2
  obtain ⟨-, h1, -⟩ := helloNoted_shows s q m pos 2
  obtain ⟨hst4, hevt, herr⟩ := linkMiswired_shows ((helloNoted q m pos 2).run s) q
  rw [hnote.get _ id, h1, Nat.add_sub_cancel] at herr
  exact ⟨_, congrArg Host.Outcome.next hrun, hst4, hevt, herr, (hnote.only _ (by simp) (by simp) (by simp)).trans
    ((linkMiswired_touches q).only _ (by simp) (by simp) (by simp))⟩

/-! ## A time limit, AUTO_RETRAIN, pause -/

theorem trainTimeout_answers (hq : q < 19) (hst : s.lkState q = 1) : Answers (.linkTrainTimeout q) s fun t => t.lkState q = 3 ∧
      (s.get (fErrCode (lkBlk q)) (lkInst q) = 0 → t.get (fErrCode (lkBlk q)) (lkInst q) = eTIMEOUT) ∧
      t.runningOf (lkBlk q) (lkInst q) 0x10 = [] ∧ OnlyParts [.regs, .hi, .out, .free] s t := by
  have hno : ¬ (19 ≤ q ∨ s.lkState q ≠ 1) := by simp [hst, hq]
  have hset : (setLk q 0x018 0 64 3).Touches [] (fun r => r.off = 0x018) (fun _ => False) := touches_setLk rfl
  have herr : (recordErrFree (lkBlk q) (lkInst q) eTIMEOUT).Touches [.hi, .free] (fun r => r.off = offErr ∨ r.off = offEvtStatus)
      (fun _ => False) := touches_recordErrFree (.inl rfl) (.inr rfl) (by simp) (by simp)
  have hend := retrainEnd_touches q eLINK_DOWN 0
  have hhost {o : Nat} : ¬ (⟨lkBlk q, lkInst q, o⟩ : RK).blk = .host := lkBlk_not_host q
  have hrun : (effLinkTrainTimeout q).run s = (retrainEnd q eLINK_DOWN 0).run ((recordErrFree (lkBlk q) (lkInst q) eTIMEOUT).run
      ((setLk q 0x018 0 64 3).run s)) := by
    have heq : effLinkTrainTimeout q s = doAll [setLk q 0x018 0 64 3, recordErrFree (lkBlk q) (lkInst q) eTIMEOUT,
        retrainEnd q eLINK_DOWN 0] s := by rw [effLinkTrainTimeout, if_neg hno]
    rw [run_congr heq, doAll_cons_run, doAll_cons_run, doAll_cons_run, doAll_nil_run]
  refine ⟨_, congrArg Host.Outcome.next hrun, ?_, fun h0 => ?_, retrainEnd_runningOf .., (hset.only _ (by simp) (by simp) (by simp)).trans
    ((herr.only _ (by simp) (by simp) (by simp)).trans (hend.only _ (by simp) (by simp) (by simp)))⟩
  · rw [State.lkState, lk_of_touches hend hhost, lk_of_touches herr (by simp [offErr, offEvtStatus]), setLk_same (by omega)]
    decide
  · rw [hend.get _ hhost]
    refine recordErrFree_err (by decide) ?_
    rw [hset.get _ (by simp [fErrCode, offErr]), h0]

theorem autoRetrain_answers (hq : q < 19) (hst : s.lkState q = 3) (hauto : s.lk q 0x010 1 1 = 1) :
    Answers (.linkAutoRetrain q) s fun t => t.lkState q = 1 ∧ t.ax ⟨.helloSeen, q, 0⟩ = 0 ∧ OnlyParts [.regs, .aux, .fb] s t ∧
      RegsKeptBut (fun b i o => b = lkBlk q ∧ i = lkInst q ∧ o = 0x018) s t := by
  have hno : ¬ (19 ≤ q ∨ s.lkState q ≠ 3 ∨ s.lk q 0x010 1 1 = 0) := by simp [hst, hq, hauto]
  have hrun : (effLinkAutoRetrain q).run s = (trainStart q).run s := run_congr (by rw [effLinkAutoRetrain, if_neg hno])
  have htrain := trainStart_touches q
  refine ⟨_, congrArg Host.Outcome.next hrun, (trainStart_shows s q).1, (trainStart_shows s q).2,
    htrain.only _ (by simp) (by simp) (by simp), htrain.regsKept _ _ fun b i o h => ?_⟩
  cases h
  exact ⟨rfl, rfl, rfl⟩

end Sys2Proof.Machine
end

section
/-! PROOFS. Peers: their entries, a peer that goes DOWN on a port without buckets and segments, a link lost, a pause (chapter 14, R387,
R390). -/

namespace Sys2Proof.Machine

variable {s : State} {q m code : Nat} {al : Bool}

/-! ## Peer entries -/

/-- An entry of a peer. -/
def isPeer (q m : Nat) (al : Bool) (x : Peer) : Bool := x.port = q && x.module_ = m && x.alias_ = al

theorem peer_eq (s : State) (q m : Nat) (al : Bool) : s.peer q m al = s.fb.peers.find? (isPeer q m al) := rfl

theorem peer_congr {t : State} (h : t.fb.peers = s.fb.peers) : t.peer q m al = s.peer q m al := by
  rw [peer_eq, peer_eq, h]

theorem peer_isPeer {x : Peer} (h : s.peer q m al = some x) : x.port = q ∧ x.module_ = m ∧ x.alias_ = al := by
  have := List.find?_some (p := isPeer q m al) h
  simpa [isPeer, and_assoc] using this

theorem peer_mem {x : Peer} (h : s.peer q m al = some x) : x ∈ s.fb.peers := List.mem_of_find?_eq_some h

/-- A peer's fields that no change of its entry changes. -/
def KeepsPeer (f : Peer → Peer) : Prop := ∀ x, (f x).port = x.port ∧ (f x).module_ = x.module_ ∧ (f x).alias_ = x.alias_

/-- The change of one peer's entry. -/
def onPeer (q m : Nat) (al : Bool) (f : Peer → Peer) (x : Peer) : Peer :=
  if x.port = q && x.module_ = m && x.alias_ = al then f x else x

theorem modPeer_peers (q m : Nat) (al : Bool) (f : Peer → Peer) (s : State) :
    ((modPeer q m al f).run s).fb.peers = s.fb.peers.map (onPeer q m al f) := rfl

theorem onPeer_key {f : Peer → Peer} (hf : KeepsPeer f) (q m q' m' : Nat) (al al' : Bool) (x : Peer) :
    isPeer q' m' al' (onPeer q m al f x) = isPeer q' m' al' x := by
  unfold onPeer
  split
  · simp only [isPeer, (hf x).1, (hf x).2.1, (hf x).2.2]
  · rfl

theorem modPeer_peer {f : Peer → Peer} (hf : KeepsPeer f) (q m q' m' : Nat) (al al' : Bool) (s : State) :
    ((modPeer q m al f).run s).peer q' m' al' = (s.peer q' m' al').map (onPeer q m al f) := by
  rw [peer_eq, modPeer_peers, List.find?_map, peer_eq]
  congr 2
  funext x
  exact onPeer_key hf q m q' m' al al' x

theorem modPeer_peer_same {f : Peer → Peer} (hf : KeepsPeer f) {x : Peer} (h : s.peer q m al = some x) :
    ((modPeer q m al f).run s).peer q m al = some (f x) := by
  obtain ⟨h1, h2, h3⟩ := peer_isPeer h
  rw [modPeer_peer hf, h]
  simp [onPeer, h1, h2, h3]

theorem modPeer_peer_ne {f : Peer → Peer} (hf : KeepsPeer f) {q' m' : Nat} {al' : Bool} (hne : ¬ (q' = q ∧ m' = m ∧ al' = al)) :
    ((modPeer q m al f).run s).peer q' m' al' = s.peer q' m' al' := by
  rw [modPeer_peer hf]
  cases hx : s.peer q' m' al' with
  | none => rfl
  | some x =>
    obtain ⟨rfl, rfl, rfl⟩ := peer_isPeer hx
    rw [Option.map_some, onPeer, if_neg (by simpa [and_assoc] using hne)]

theorem fresh_keepsPeer (st : Nat) (hb : Peer → Nat) : KeepsPeer fun y => y.fresh st (hb y) := fun _ => ⟨rfl, rfl, rfl⟩

/-! ## A peer of a fabric port that leaves no bucket and no segment -/

/-- A module with no bucket and no segment request. -/
def State.bare (s : State) : Prop := s.pg.buckets = [] ∧ s.sl.segs = []

theorem peerBkts_bare {x : Peer} (h : s.bare) : s.peerBkts x al = [] := by
  unfold State.peerBkts State.lostBkts
  rw [h.1]
  split <;> rfl

theorem peerSegs_bare (h : s.bare) : s.peerSegs q m al = [] := by
  unfold State.peerSegs
  rw [h.2]
  split <;> rfl

/-- The messages held of a peer are dropped. -/
def heldDropped (s : State) (q m : Nat) (al : Bool) : Eff := modFb (fun b => { b with
  held := b.held.filter fun w => !(w.port = q && w.src = m)
  inbox := b.inbox.filter fun w => !(w.port = q && w.src = m && s.isNext w)
  serves := b.serves.filter fun v => !(v.port = q && v.src = m && v.alias_ = al) })

/-- Its segment requests are over. -/
def segsDropped (s : State) (q m : Nat) (al : Bool) : Eff := modSl (fun l => { l with
  segs := l.segs.map fun g => if (s.peerSegs q m al).contains g then { g with st := 3 } else g
  drain := l.drain.filter fun d => al || d.module_ ≠ m || d.link ≠ some q })

theorem retries_bare (h : s.sl.segs = []) : (forEach ports48 segRetry).run s = s := by
  have hone (p : Nat) : (segRetry p).run s = s := by
    have heq : segRetry p s = skip s := by
      rw [segRetry, h]
      rfl
    rw [run_congr heq, skip_run]
  refine forEach_keep (P := fun t => t = s) (fun p _ t ht => ?_) s rfl
  rw [ht]
  exact hone p

theorem peerFollows_bare {x : Peer} (u : State) (h : s.bare) (hu : u.sl.segs = []) :
    (doAll (peerFollows s q m al code x)).run u = (segsDropped s q m al).run ((heldDropped s q m al).run u) := by
  have hb : (bktsFail [] code).run ((segsDropped s q m al).run ((heldDropped s q m al).run u)) =
      (segsDropped s q m al).run ((heldDropped s q m al).run u) := by
    rw [bktsFail, doAll_cons_run, doAll_cons_run, doAll_nil_run]
    rfl
  have hsegs : ((segsDropped s q m al).run ((heldDropped s q m al).run u)).sl.segs = [] := by
    show List.map _ u.sl.segs = []
    rw [hu]
    rfl
  rw [peerFollows, doAll_cons_run, doAll_cons_run, doAll_cons_run, doAll_cons_run, doAll_cons_run, doAll_nil_run, peerBkts_bare h]
  rw [heldDropped, segsDropped] at hb hsegs
  rw [hb, peerSegs_bare h] at *
  rw [show ∀ t : State, ∀ f : Seg → Eff, (forEach [] f).run t = t from fun _ _ => rfl, whenE_run]
  split
  · rw [retries_bare hsegs, heldDropped, segsDropped, peerSegs_bare h]
  · rw [heldDropped, segsDropped, peerSegs_bare h]

theorem peerDown_bare_run {x : Peer} (hs : s.bare) (hq : q < 16) (h : s.peer q m al = some x) (hst : x.st ≠ 2) :
    (peerDown q m al code).run s =
      (segsDropped s q m al).run ((heldDropped s q m al).run ((doAll (peerGone q m al code x)).run s)) := by
  have hsl : ((doAll (peerGone q m al code x)).run s).sl = s.sl :=
    (peerGone_touches q m al code x).same s .sl (by simp) (by simp) (by simp)
  rw [peerDown_run h hst, peerFollows_bare _ hs (by rw [hsl]; exact hs.2), partnerGone, whenE_run, if_neg]
  have hne : q ≠ 16 := by omega
  simp [hne]

theorem heldDropped_touches (s : State) (q m : Nat) (al : Bool) : (heldDropped s q m al).Touches [.fb] (fun _ => False) (fun _ => False) :=
  touches_modFb (by simp)

theorem segsDropped_touches (s : State) (q m : Nat) (al : Bool) : (segsDropped s q m al).Touches [.sl] (fun _ => False) (fun _ => False) :=
  touches_modSl (by simp)

/-- The peers after one of a fabric port goes DOWN. -/
theorem peerDown_bare_peers {x : Peer} (hs : s.bare) (hq : q < 16) (h : s.peer q m al = some x) (hst : x.st ≠ 2) :
    ((peerDown q m al code).run s).fb.peers = s.fb.peers.map (onPeer q m al fun y => y.fresh 2 y.hbBase) := by
  have hrest : (doAll [addLk q 0x160 0 32 x.frames.length, whenE (fun _ => x.st = 1) (doAll [errLk q code m, evtLk q 3])]).Touches
      [.hi] (fun _ => True) (fun _ => False) :=
    touches_doAll_cons (touches_addLk trivial) (touches_doAll_cons (touches_whenE (touches_doAll_cons (touches_errLk trivial trivial (by simp))
      (touches_doAll_cons (touches_evtLk trivial (by simp)) touches_doAll_nil))) touches_doAll_nil)
  have hfb {e : Eff} {ps : List Component} {R : RK → Prop} {A : Aux → Prop} (he : e.Touches ps R A) (hp : Component.fb ∉ ps)
      (t : State) : (e.run t).fb = t.fb := he.same t .fb hp (by simp) (by simp)
  have hheld (t : State) : ((heldDropped s q m al).run t).fb.peers = t.fb.peers := rfl
  rw [peerDown_bare_run hs hq h hst, hfb (segsDropped_touches s q m al) (by simp), hheld, peerGone, doAll_cons_run,
    hfb hrest (by simp), modPeer_peers]

theorem peerDown_bare_only {x : Peer} (hs : s.bare) (hq : q < 16) (h : s.peer q m al = some x) (hst : x.st ≠ 2) :
    OnlyParts [.regs, .hi, .fb, .sl] s ((peerDown q m al code).run s) := by
  rw [peerDown_bare_run hs hq h hst]
  exact ((peerGone_touches q m al code x).only _ (by simp) (by simp) (by simp)).trans
    (((heldDropped_touches s q m al).only _ (by simp) (by simp) (by simp)).trans
    ((segsDropped_touches s q m al).only _ (by simp) (by simp) (by simp)))

theorem peerDown_bare_bare {x : Peer} (hs : s.bare) (hq : q < 16) (h : s.peer q m al = some x) (hst : x.st ≠ 2) :
    ((peerDown q m al code).run s).bare := by
  have honly := peerDown_bare_only (code := code) hs hq h hst
  have hpg : ((peerDown q m al code).run s).pg = s.pg := honly.2 .pg (by simp)
  refine ⟨by rw [hpg]; exact hs.1, ?_⟩
  have hsl {e : Eff} {ps : List Component} {R : RK → Prop} {A : Aux → Prop} (he : e.Touches ps R A) (hp : Component.sl ∉ ps)
      (t : State) : (e.run t).sl = t.sl := he.same t .sl hp (by simp) (by simp)
  have hdrop (t : State) (ht : t.sl.segs = []) : ((segsDropped s q m al).run t).sl.segs = [] := by
    show List.map _ t.sl.segs = []
    rw [ht]
    rfl
  rw [peerDown_bare_run hs hq h hst]
  refine hdrop _ ?_
  rw [hsl (heldDropped_touches s q m al) (by simp), hsl (peerGone_touches q m al code x) (by simp)]
  exact hs.2

/-! ## A link lost -/

/-- A peer entry that is DOWN, where there is one. -/
def State.gone (s : State) (q m : Nat) (al : Bool) : Prop := ∀ x, s.peer q m al = some x → x.st = 2

/-- What holds as the peers of a fabric port of a bare module go DOWN one after the other. -/
def State.losing (s t : State) : Prop := t.bare ∧ OnlyParts [.regs, .hi, .fb, .sl] s t

theorem peerDown_losing {t : State} (hq : q < 16) (h : s.losing t) : s.losing ((peerDown q m al code).run t) := by
  cases hx : t.peer q m al with
  | none => rwa [Eff.run_eq, peerDown_none hx]
  | some x =>
    by_cases hst : x.st = 2
    · rwa [Eff.run_eq, peerDown_already hx hst]
    · exact ⟨peerDown_bare_bare h.1 hq hx hst, h.2.trans (peerDown_bare_only h.1 hq hx hst)⟩

theorem peerDown_gone {t : State} (hq : q < 16) (h : t.bare) : ((peerDown q m al code).run t).gone q m al := by
  cases hx : t.peer q m al with
  | none =>
    intro y hy
    rw [Eff.run_eq, peerDown_none hx] at hy
    exact absurd (hx.symm.trans hy) (by simp)
  | some x =>
    by_cases hst : x.st = 2
    · intro y hy
      rw [Eff.run_eq, peerDown_already hx hst] at hy
      obtain rfl : x = y := Option.some.inj (hx.symm.trans hy)
      exact hst
    · intro y hy
      have hp : ((peerDown q m al code).run t).peer q m al = ((modPeer q m al fun y => y.fresh 2 y.hbBase).run t).peer q m al :=
        peer_congr (peerDown_bare_peers h hq hx hst)
      rw [hp, modPeer_peer_same (fresh_keepsPeer 2 fun y => y.hbBase) hx] at hy
      rw [← Option.some.inj hy]
      rfl

theorem peerDown_keeps_gone {t : State} {m' : Nat} {al' : Bool} (hq : q < 16) (h : t.bare) (hg : t.gone q m' al') :
    ((peerDown q m al code).run t).gone q m' al' := by
  by_cases hkey : m' = m ∧ al' = al
  · obtain ⟨rfl, rfl⟩ := hkey
    exact peerDown_gone hq h
  cases hx : t.peer q m al with
  | none => rwa [Eff.run_eq, peerDown_none hx]
  | some x =>
    by_cases hst : x.st = 2
    · rwa [Eff.run_eq, peerDown_already hx hst]
    · intro y hy
      have hp : ((peerDown q m al code).run t).peer q m' al' = ((modPeer q m al fun y => y.fresh 2 y.hbBase).run t).peer q m' al' :=
        peer_congr (peerDown_bare_peers h hq hx hst)
      rw [hp, modPeer_peer_ne (fresh_keepsPeer 2 fun y => y.hbBase) fun h => hkey h.2] at hy
      exact hg y hy

theorem peersDown_losing {t : State} (hq : q < 16) (h : s.losing t) : s.losing ((peersDown s q).run t) := by
  unfold peersDown
  exact forEach_keep (fun x _ u hu => peerDown_losing hq hu) t h

/-- The peers of a list of a port go DOWN. -/
def listDown (q : Nat) (l : List Peer) : Eff := forEach l fun x => peerDown q x.module_ x.alias_ eLINK_DOWN

theorem listDown_keeps_gone {l : List Peer} {t : State} {m : Nat} {al : Bool} (hq : q < 16) (h : s.losing t) (hg : t.gone q m al) :
    ((listDown q l).run t).gone q m al := by
  unfold listDown
  exact (forEach_keep (P := fun u => s.losing u ∧ u.gone q m al)
    (fun x _ u hu => ⟨peerDown_losing hq hu.1, peerDown_keeps_gone hq hu.1.1 hu.2⟩) t ⟨h, hg⟩).2

theorem listDown_gone {l : List Peer} {t : State} {y : Peer} (hq : q < 16) (h : s.losing t) (hy : y ∈ l) :
    ((listDown q l).run t).gone q y.module_ y.alias_ := by
  unfold listDown
  refine forEach_reach (P := fun u => u.gone q y.module_ y.alias_) (Q := s.losing) hy ?_ ?_ ?_ t h
  · exact fun x _ u hu => peerDown_losing hq hu
  · exact fun u hu => peerDown_gone hq hu.1
  · exact fun x _ u hu hg => peerDown_keeps_gone hq hu.1 hg

/-- Every peer of a fabric port of a bare module is DOWN once its link is lost. -/
theorem peersDown_gone {t : State} (hq : q < 16) (h : s.losing t) (hpeers : t.fb.peers = s.fb.peers) (m : Nat) (al : Bool) :
    ((peersDown s q).run t).gone q m al := by
  have hlist : peersDown s q = listDown q (s.fb.peers.filter fun x => x.port = q) := rfl
  rw [hlist]
  cases hx : s.peer q m al with
  | none =>
    have hg : t.gone q m al := fun y hy => absurd (((peer_congr hpeers).trans hx).symm.trans hy) (by simp)
    exact listDown_keeps_gone hq h hg
  | some y =>
    obtain ⟨hport, rfl, rfl⟩ := peer_isPeer hx
    exact listDown_gone hq h (List.mem_filter.2 ⟨peer_mem hx, decide_eq_true hport⟩)

theorem linkLoss_answers (hq : q < 19) (hup : s.lkUp q = true) : Answers (.linkLoss q) s fun t => t.lkState q = 3 ∧
      t.lk q 0x108 0 16 = min (s.lk q 0x108 0 16 + 1) 0xFFFF ∧ t.on (fEvt (lkBlk q) 1) (lkInst q) = true ∧
      (q < 16 → s.pg.buckets = [] → s.sl.segs = [] → (∀ m al x, t.peer q m al = some x → x.st = 2) ∧
        OnlyParts [.regs, .hi, .fb, .sl] s t) := by
  have hno : ¬ (19 ≤ q ∨ (!s.lkUp q) = true) := by simp [hq, hup]
  have hrun : (effLinkLoss q).run s = (leaveUp q 3).run s := run_congr (by rw [effLinkLoss, if_neg hno])
  obtain ⟨hst, hcnt, hevt⟩ := leaveUp_shows (s := s) (q := q) (st := 3) (by omega)
  refine ⟨_, congrArg Host.Outcome.next hrun, hst, hcnt, hevt, fun h16 hb hsg => ?_⟩
  have hport := portLeaves_touches q 3
  have hpg : ((portLeaves q 3).run s).pg = s.pg := hport.same s .pg (by simp) (by simp) (by simp)
  have hsl : ((portLeaves q 3).run s).sl = s.sl := hport.same s .sl (by simp) (by simp) (by simp)
  have hfb : ((portLeaves q 3).run s).fb = s.fb := hport.same s .fb (by simp) (by simp) (by simp)
  have hlose : s.losing ((portLeaves q 3).run s) :=
    ⟨⟨by rw [hpg]; exact hb, by rw [hsl]; exact hsg⟩, hport.only _ (by simp) (by simp) (by simp)⟩
  rw [leaveUp_run]
  exact ⟨fun m al x hx => peersDown_gone h16 hlose (by rw [hfb]) m al x hx, (peersDown_losing h16 hlose).2⟩

/-! ## Pause -/

theorem keeps_fb_sendFrame {fr : Frame} : (sendFrame q fr).Keeps fun s => s.fb := fun s =>
  (touches_sendFrame (ps := [.out]) (R := fun _ => True) (A := fun _ => True) (fun _ _ _ => trivial) (by simp)).same s .fb
    (by simp) (by simp) (by simp)

theorem pumpDgrams_dgrams (s : State) (q : Nat) :
    ((pumpDgrams q).run s).fb.dgrams = s.fb.dgrams.filter fun d => d.1 ≠ q := by
  have heq : pumpDgrams q s = doAll [forEach (s.fb.dgrams.filter fun x => x.1 = q) (fun x => sendFrame q x.2),
    whenE (fun s => s.fb.dgrams ≠ []) (modFb fun b => { b with dgrams := b.dgrams.filter fun x => x.1 ≠ q })] s := rfl
  have hsend : ((forEach (s.fb.dgrams.filter fun x => x.1 = q) fun x => sendFrame q x.2).run s).fb = s.fb :=
    keeps_forEach (fun x _ => keeps_fb_sendFrame) s
  have hmod (f : FabSt → FabSt) (t : State) : ((modFb f).run t).fb = f t.fb := rfl
  rw [run_congr heq, doAll_cons_run, doAll_cons_run, doAll_nil_run, whenE_run, hsend]
  split
  · rw [hmod, hsend]
  · rename_i h
    have hnil : s.fb.dgrams = [] := by simpa using h
    rw [hsend, hnil]
    rfl

theorem keeps_dgrams_pump {q' m' : Nat} {al' : Bool} : (pump q' m' al').Keeps fun s => s.fb.dgrams := fun s => by
  cases hx : s.peer q' m' al' with
  | none =>
    have heq : pump q' m' al' s = skip s := by rw [pump, hx]; rfl
    rw [run_congr heq, skip_run]
  | some x =>
    have heq : pump q' m' al' s = doAll [forEach (x.frames.filter fun f => s.ready? x f) (fun f => sendFrame q' f.fr),
        modPeer q' m' al' fun y => { y with frames := y.frames.map fun f => { f with sent := f.sent || s.ready? x f } }] s := by
      rw [pump, hx]
    have hsend : ((forEach (x.frames.filter fun f => s.ready? x f) fun f => sendFrame q' f.fr).run s).fb = s.fb :=
      keeps_forEach (fun f _ => keeps_fb_sendFrame) s
    have hmod (f : Peer → Peer) (t : State) : ((modPeer q' m' al' f).run t).fb.dgrams = t.fb.dgrams := rfl
    rw [run_congr heq, doAll_cons_run, doAll_cons_run, doAll_nil_run]
    exact (hmod _ _).trans (congrArg FabSt.dgrams hsend)

/-- A resumed priority sends what waits. -/
def resumed (s : State) (q : Nat) : Eff := doAll [whenE (fun s => !s.isPaused q 0) (pumpDgrams q),
  forEach (s.fb.peers.filter fun x => x.port = q) fun x => pump q x.module_ x.alias_]

theorem resumed_touches (s : State) (q : Nat) :
    (resumed s q).Touches [.out, .fb] (fun r => sendOff r.off = true) (fun _ => False) :=
  touches_doAll_cons (touches_whenE (touches_pumpDgrams (fun _ _ h => h) (by simp) (by simp))) (touches_doAll_cons
    (touches_forEach fun x _ => touches_pump (fun _ _ h => h) (by simp) (by simp)) touches_doAll_nil)

theorem resumed_dgrams {u : State} (h : u.isPaused q 0 = false) :
    ((resumed s q).run u).fb.dgrams = u.fb.dgrams.filter fun d => d.1 ≠ q := by
  rw [resumed, doAll_cons_run, doAll_cons_run, doAll_nil_run]
  refine (keeps_forEach (fun x _ => keeps_dgrams_pump) _).trans ?_
  rw [whenE_run, if_pos (by simp [h]), pumpDgrams_dgrams]

theorem pause_answers {prio : Nat} {pause : Bool} (hq : q < 19) (hp : prio < 8) (hup : s.lkUp q = true) :
    Answers (.pauseFrame q prio pause) s fun t => t.ax ⟨.paused, q, prio⟩ = (if pause then 1 else 0) ∧
      t.lk q 0x168 0 32 = min (s.lk q 0x168 0 32 + 1) (2 ^ 32 - 1) ∧ (pause = true → OnlyParts [.regs, .aux] s t) ∧
      (pause = false → s.get (fPrio 0) 0 = prio → t.fb.dgrams = s.fb.dgrams.filter fun d => d.1 ≠ q) ∧
      OnlyParts [.regs, .aux, .out, .fb] s t := by
  have hno : ¬ (19 ≤ q ∨ 8 ≤ prio ∨ (!s.lkUp q) = true) := by simp [hq, hp, hup]
  have heq : effPauseFrame q prio pause s = doAll [addLk q 0x168 0 32 1, setAx ⟨.paused, q, prio⟩ (if pause then 1 else 0),
      whenE (fun _ => !pause) (resumed s q)] s := by
    rw [effPauseFrame, if_neg hno, resumed]
  have hcnt : (addLk q 0x168 0 32 1).Touches [] (fun r => r = ⟨lkBlk q, lkInst q, 0x168⟩) (fun _ => False) := touches_addLk rfl
  have hax : (setAx ⟨.paused, q, prio⟩ (if pause then 1 else 0)).Touches [] (fun _ => False) (fun a => a = ⟨.paused, q, prio⟩) :=
    touches_setAx rfl
  have hres : (whenE (fun _ => !pause) (resumed s q)).Touches [.out, .fb] (fun r => sendOff r.off = true) (fun _ => False) :=
    touches_whenE (resumed_touches s q)
  have hrun : (effPauseFrame q prio pause).run s = (whenE (fun _ => !pause) (resumed s q)).run
      ((setAx ⟨.paused, q, prio⟩ (if pause then 1 else 0)).run ((addLk q 0x168 0 32 1).run s)) := by
    rw [run_congr heq, doAll_cons_run, doAll_cons_run, doAll_cons_run, doAll_nil_run]
  have hfb : ((setAx ⟨.paused, q, prio⟩ (if pause then 1 else 0)).run ((addLk q 0x168 0 32 1).run s)).fb = s.fb :=
    (hax.same _ .fb (by simp) (by simp) (by simp) : _ = _).trans (hcnt.same s .fb (by simp) (by simp) (by simp))
  have hpaused : ((setAx ⟨.paused, q, prio⟩ (if pause then 1 else 0)).run ((addLk q 0x168 0 32 1).run s)).ax ⟨.paused, q, prio⟩ =
      if pause then 1 else 0 := by simp
  have honly : OnlyParts [.regs, .aux] s ((setAx ⟨.paused, q, prio⟩ (if pause then 1 else 0)).run ((addLk q 0x168 0 32 1).run s)) :=
    (hcnt.only _ (by simp) (by simp) (by simp)).trans (hax.only _ (by simp) (by simp) (by simp))
  refine ⟨_, congrArg Host.Outcome.next hrun, (hres.ax _ id).trans hpaused, ?_, fun h => ?_, fun h hprio => ?_, ?_⟩
  · rw [lk_of_touches hres (by simp [sendOff]), lk_of_touches hax id, addLk_same (by omega)]
  · rw [whenE_run, if_neg (by simp [h])]
    exact honly
  · have hfree : ((setAx ⟨.paused, q, prio⟩ (if pause then 1 else 0)).run ((addLk q 0x168 0 32 1).run s)).isPaused q 0 = false := by
      rw [State.isPaused, hax.get _ id, hcnt.get _ (by simp [fPrio]), hprio, hpaused, h]
      rfl
    rw [whenE_run, if_pos (by simp [h]), resumed_dgrams hfree, hfb]
  · exact (hcnt.only _ (by simp) (by simp) (by simp)).trans ((hax.only _ (by simp) (by simp) (by simp)).trans
      (hres.only _ (by simp) (by simp) (by simp)))

/-- Settles O39: a link port's states follow Table 14-8; its peers follow the port; a pause frame pauses its priority. -/
theorem linksTrainAndDrop : Obligations.LinksTrainAndDrop := by
  unfold Obligations.LinksTrainAndDrop
  refine ⟨fun s src q v _ hl => ⟨enable_answers hl, disable_answers hl⟩, fun s c q args hq h => retrain_answers hq h,
    fun s q ok ms rev u hq hheld hst h3 hu hhello => trainDone_answers hq hheld hst h3 hu hhello, fun s q m pos link g h16 hq hst => ?_,
    fun s q hq hst => trainTimeout_answers hq hst, fun s q hq hup => linkLoss_answers hq hup,
    fun s q hq hst hauto => autoRetrain_answers hq hst hauto, fun s q prio pause hq hp hup => pause_answers hq hp hup⟩
  refine ⟨fun h3 => ?_, fun h3 hg => hello_up g h16 hq hst h3 hg, fun h3 hg => hello_miswired g h16 hq hst h3 hg⟩
  by_cases hg : link = q - 16 ∧ pos = Nat.xor (s.get fBoardPos 0) (q - 15) ∧ m ≠ s.self
  · obtain ⟨t, ht, h0, hup, h1, honly⟩ := hello_waits g h16 hq hst h3 (.inl ⟨hg, rfl, rfl⟩)
    exact ⟨t, ht, fun _ => h0, fun h => absurd hg h, hup, h1, honly⟩
  · obtain ⟨t, ht, h0, hup, h1, honly⟩ := hello_waits g h16 hq hst h3 (.inr ⟨hg, rfl, rfl⟩)
    exact ⟨t, ht, fun h => absurd h hg, fun _ => h0, hup, h1, honly⟩

end Sys2Proof.Machine
end

section
/-! PROOFS. Frames received, acknowledgement, deadlines, heartbeats (chapter 14, R374, R378, R379, R382, R383, Table 14-7). -/

namespace Sys2Proof.Machine

variable {s : State} {q m cls : Nat} {al : Bool}

/-! ## What sending leaves of the peers -/

/-- An effect that changes, of peers and messages, the datagrams that wait alone. -/
def Eff.Datagrams (e : Eff) : Prop := ∀ s : State, (e.run s).fb = { s.fb with dgrams := (e.run s).fb.dgrams }

theorem datagrams_of_fb {e : Eff} (h : e.Keeps fun s => s.fb) : e.Datagrams := fun s => by
  have := h s
  dsimp only at this
  rw [this]

theorem datagrams_nil : (doAll []).Datagrams := fun _ => rfl

theorem datagrams_cons {e : Eff} {es : List Eff} (h : e.Datagrams) (hs : (doAll es).Datagrams) : (doAll (e :: es)).Datagrams := fun s => by
  rw [doAll_cons_run, hs, h s]

theorem datagrams_forEach {β : Type} {l : List β} {f : β → Eff} (h : ∀ b ∈ l, (f b).Datagrams) : (forEach l f).Datagrams := by
  induction l with
  | nil => exact datagrams_nil
  | cons b l ih =>
    intro s
    rw [forEach_cons_run, ih (fun c hc => h c (List.mem_cons_of_mem _ hc)), h b (List.mem_cons_self ..) s]

theorem datagrams_whenE {c : State → Bool} {e : Eff} (h : e.Datagrams) : (whenE c e).Datagrams := fun s => by
  rw [whenE_run]
  split
  · exact h s
  · rfl

theorem datagrams_of (f : State → Eff) {e : Eff} (he : ∀ s, e s = f s s) (h : ∀ s, (f s).Datagrams) : e.Datagrams := fun s => by
  rw [run_congr (he s)]
  exact h s s

theorem datagrams_skip : skip.Datagrams := fun s => by rw [skip_run]

theorem datagrams_modFb {f : List (Nat × Frame) → List (Nat × Frame)} :
    (modFb fun b => { b with dgrams := f b.dgrams }).Datagrams := fun _ => rfl

theorem sendFrame_datagrams {fr : Frame} : (sendFrame q fr).Datagrams := datagrams_of_fb keeps_fb_sendFrame

theorem addLk_datagrams {o lo w n : Nat} : (addLk q o lo w n).Datagrams := datagrams_of_fb fun s =>
  (touches_addLk (ps := []) (R := fun _ => True) (A := fun _ => True) trivial).same s .fb (by simp) (by simp) (by simp)

theorem pumpDgrams_datagrams : (pumpDgrams q).Datagrams :=
  datagrams_of (fun s => doAll [forEach (s.fb.dgrams.filter fun x => x.1 = q) (fun x => sendFrame q x.2),
    whenE (fun s => s.fb.dgrams ≠ []) (modFb fun b => { b with dgrams := b.dgrams.filter fun x => x.1 ≠ q })]) (fun _ => rfl) fun _ =>
    datagrams_cons (datagrams_forEach fun _ _ => sendFrame_datagrams) (datagrams_cons (datagrams_whenE datagrams_modFb) datagrams_nil)

/-- A datagram of this module. -/
def State.dgram (s : State) (q m : Nat) (al : Bool) (typ : Nat) (data : List Byte) : Frame :=
  s.mkFrame q m al 0 typ false true true 0 0 0 data.length data

theorem sendOn_paused {typ : Nat} {data : List Byte} (h : s.isPaused q 0 = true) : (sendOn q m al typ data).run s =
    (modFb fun b => { b with dgrams := b.dgrams ++ [(q, s.dgram q m al typ data)] }).run s :=
  run_congr (by rw [sendOn]; exact if_pos h)

theorem sendOn_free {typ : Nat} {data : List Byte} (h : s.isPaused q 0 = false) : (sendOn q m al typ data).run s =
    (sendFrame q (s.dgram q m al typ data)).run ((pumpDgrams q).run s) := by
  have heq : sendOn q m al typ data s = doAll [pumpDgrams q, sendFrame q (s.dgram q m al typ data)] s := by
    rw [sendOn]
    exact if_neg (by simp [h])
  rw [run_congr heq, doAll_cons_run, doAll_cons_run, doAll_nil_run]

theorem sendOn_datagrams {typ : Nat} {data : List Byte} : (sendOn q m al typ data).Datagrams := fun s => by
  cases h : s.isPaused q 0 with
  | true => rw [sendOn_paused h]; rfl
  | false => rw [sendOn_free h, sendFrame_datagrams, pumpDgrams_datagrams s]

theorem sendAck_run {typ : Nat} {x : Peer} (h : s.peer q m al = some x) : (sendAck q m al typ cls).run s =
    (sendOn q m al typ (leBytes 1 cls ++ leBytes 3 0 ++ leBytes 4 (s.nextSeq x cls) ++ leBytes 2 (s.credit x cls) ++ leBytes 6 0)).run s :=
  run_congr (by rw [sendAck, h])

theorem sendAck_none {typ : Nat} (h : s.peer q m al = none) : (sendAck q m al typ cls).run s = s :=
  (run_congr (f := skip) (by rw [sendAck, h]; rfl)).trans (skip_run s)

theorem sendAck_datagrams {typ : Nat} : (sendAck q m al typ cls).Datagrams := fun s => by
  cases h : s.peer q m al with
  | none => rw [sendAck_none h]
  | some x => rw [sendAck_run h]; exact sendOn_datagrams s

theorem touches_sendAck {typ : Nat} : (sendAck q m al typ cls).Touches [.out, .fb] (fun r => sendOff r.off = true) (fun _ => False) :=
  fun s => by
    unfold sendAck
    split
    · exact within_nil
    · exact touches_sendOn (fun _ _ h => h) (by simp) (by simp) s

/-- The frames that a resend sends again. -/
def resent (q cls : Nat) (x : Peer) : Eff :=
  forEach (x.frames.filter fun f => f.cls = cls && f.sent) fun f => doAll [sendFrame q f.fr, addLk q 0x160 0 32 1]

theorem resend_cases (s : State) (q m cls : Nat) (al : Bool) :
    (resend q m al cls).run s = s ∨ ∃ x, s.peer q m al = some x ∧ (resend q m al cls).run s = (resent q cls x).run s := by
  cases h : s.peer q m al with
  | none => exact .inl ((run_congr (f := skip) (by rw [resend, h]; rfl)).trans (skip_run s))
  | some x =>
    by_cases hc : x.st ≠ 1 ∨ (!s.lkUp q) = true ∨ s.isPaused q cls = true
    · refine .inl ((run_congr (f := skip) ?_).trans (skip_run s))
      rw [resend, h]
      exact if_pos hc
    · refine .inr ⟨x, rfl, run_congr ?_⟩
      rw [resend, h]
      exact if_neg hc

theorem resend_datagrams : (resend q m al cls).Datagrams := fun s => by
  rcases resend_cases s q m cls al with h | ⟨x, -, h⟩
  · rw [h]
  · rw [h]
    exact datagrams_forEach (fun _ _ => datagrams_cons sendFrame_datagrams (datagrams_cons addLk_datagrams datagrams_nil)) s

theorem resend_touches : (resend q m al cls).Touches [.out] (fun r => sendOff r.off = true ∨ r.off = 0x160) (fun _ => False) :=
  fun s => by
    unfold resend
    split
    · exact within_nil
    split
    · exact within_nil
    · exact touches_forEach (fun f _ => touches_doAll_cons (touches_sendFrame (fun _ _ h => .inl h) (by simp)) (touches_doAll_cons
        (touches_addLk (.inr rfl)) touches_doAll_nil)) s

/-! ## What the pump leaves of a peer -/

/-- A peer entry with the frames that may go marked as sent. -/
def State.pumped (s : State) (x y : Peer) : Peer :=
  { y with frames := y.frames.map fun f => { f with sent := f.sent || s.ready? x f } }

theorem pumped_keepsPeer (s : State) (x : Peer) : KeepsPeer (s.pumped x) := fun _ => ⟨rfl, rfl, rfl⟩

theorem pump_fb {x : Peer} (h : s.peer q m al = some x) :
    ((pump q m al).run s).fb = { s.fb with peers := s.fb.peers.map (onPeer q m al (s.pumped x)) } := by
  have heq : pump q m al s = doAll [forEach (x.frames.filter fun f => s.ready? x f) (fun f => sendFrame q f.fr),
      modPeer q m al (s.pumped x)] s := by
    rw [pump, h]
    rfl
  have hsend : ((forEach (x.frames.filter fun f => s.ready? x f) fun f => sendFrame q f.fr).run s).fb = s.fb :=
    keeps_forEach (fun f _ => keeps_fb_sendFrame) s
  have hmod (f : Peer → Peer) (t : State) : ((modPeer q m al f).run t).fb = { t.fb with peers := t.fb.peers.map (onPeer q m al f) } := rfl
  rw [run_congr heq, doAll_cons_run, doAll_cons_run, doAll_nil_run, hmod, hsend]

theorem pump_peer {x : Peer} (h : s.peer q m al = some x) : ((pump q m al).run s).peer q m al = some (s.pumped x x) := by
  have hp : ((pump q m al).run s).peer q m al = ((modPeer q m al (s.pumped x)).run s).peer q m al :=
    peer_congr (by rw [pump_fb h]; rfl)
  rw [hp, modPeer_peer_same (pumped_keepsPeer s x) h]

theorem pump_none (h : s.peer q m al = none) : (pump q m al).run s = s :=
  (run_congr (f := skip) (by rw [pump, h]; rfl)).trans (skip_run s)

/-! ## One class of a peer -/

@[simp] theorem chan_setChan (x : Peer) (c : Chan) : ∀ cls, (x.setChan cls c).chan cls = c
  | 0 => rfl
  | 1 => rfl
  | 2 => rfl
  | _ + 3 => rfl

theorem chan_of_channels {x y : Peer} (h0 : y.c0 = x.c0) (h1 : y.c1 = x.c1) (h2 : y.c2 = x.c2) (h3 : y.c3 = x.c3) :
    ∀ cls, y.chan cls = x.chan cls
  | 0 => h0
  | 1 => h1
  | 2 => h2
  | _ + 3 => h3

theorem setChan_kept (x : Peer) (cls : Nat) (c : Chan) : (x.setChan cls c).port = x.port ∧ (x.setChan cls c).module_ = x.module_ ∧
    (x.setChan cls c).alias_ = x.alias_ ∧ (x.setChan cls c).st = x.st ∧ (x.setChan cls c).frames = x.frames := by
  unfold Peer.setChan
  split <;> exact ⟨rfl, rfl, rfl, rfl, rfl⟩

theorem setChan_keepsPeer (cls : Nat) (c : Chan) : KeepsPeer fun y => y.setChan cls c := fun x =>
  ⟨(setChan_kept x cls c).1, (setChan_kept x cls c).2.1, (setChan_kept x cls c).2.2.1⟩

/-! ## A frame received -/

/-- Whether a job's messages are barred shows in the SAGGAR page and in the wafer change. -/
theorem jobBarred_of_touches {e : Eff} {ps : List Component} {R : RK → Prop} {A : Aux → Prop} (he : e.Touches ps R A)
    (hp : Component.sg ∉ ps) (hR : ∀ o, ¬ R ⟨.saggar, 0, o⟩) (s : State) (typ : Nat) (data : List Byte) :
    (e.run s).jobBarred typ data = s.jobBarred typ data := by
  have hsg : (e.run s).sg = s.sg := he.same s .sg hp (by simp) (by simp)
  have hep : (e.run s).get fEpoch 0 = s.get fEpoch 0 := he.get s (hR _)
  have hv (j : Nat) : (e.run s).on (fJobValid j) 0 = s.on (fJobValid j) 0 := he.on s (hR _)
  have hs (j : Nat) : (e.run s).get (fJobSag j) 0 = s.get (fJobSag j) 0 := he.get s (hR _)
  have hold (k i ep : Nat) : (e.run s).oldEntry k i ep = s.oldEntry k i ep := by
    unfold State.oldEntry
    rw [hsg, hep]
  have hch : (e.run s).changeOld = s.changeOld := by
    unfold State.changeOld
    rw [hsg]
  simp only [State.jobBarred, State.jobOwner, hep, hold, hch, hv, hs]

/-- A frame counted while STAT_EN. -/
def frameCounted (q : Nat) (c : State → Bool) : Eff := whenE c (addLk q 0x150 0 48 1)

theorem frameCounted_touches (q : Nat) (c : State → Bool) :
    (frameCounted q c).Touches [] (fun r => r = ⟨lkBlk q, lkInst q, 0x150⟩) (fun _ => False) := touches_whenE (touches_addLk rfl)

theorem putMsg_run {x : InMsg} (hb : s.jobBarred x.typ x.data = false) (ht : x.typ ≠ 4) :
    (putMsg x).run s = (modFb fun b => { b with inbox := b.inbox ++ [x] }).run s := by
  refine run_congr ?_
  rw [putMsg, if_neg (by simp [hb]), if_neg ht]

theorem lkBlk_ne_saggar (q : Nat) : lkBlk q ≠ .saggar := by
  rcases lkBlk_fab_or_blink q with h | h <;> simp [h]

theorem datagram_answers {fr : Frame} (hq : q < 19) (hlive : s.fabLive = true) (hup : s.lkUp q = true) (hfcs : fr.fcsOk = true)
    (hhdr : s.headerBad q fr = false) (he2e : fr.e2eOk = true) (hseq : fr.seqd = false) (ht : fr.typ ≠ 4)
    (hb : s.jobBarred fr.typ fr.payload = false) : Answers (.frameReceive q fr) s fun t =>
        t.fb = { s.fb with inbox := s.fb.inbox ++ [⟨q, fr.src, s.forAlias q fr, fr.cls, fr.typ, fr.payload⟩] } ∧
        OnlyParts [.regs, .fb] s t ∧
        RegsKeptBut (fun b i o => b = lkBlk q ∧ i = lkInst q ∧ o = 0x150 ∧ s.lkStat q = true) s t := by
  have hno : ¬ (19 ≤ q ∨ (!s.fabLive) = true ∨ (!s.lkUp q) = true) := by simp [hq, hlive, hup]
  have heq : effFrameReceive q fr s = doAll [frameCounted q fun s => s.lkStat q && !s.jobBarred fr.typ fr.payload,
      putMsg ⟨q, fr.src, s.forAlias q fr, fr.cls, fr.typ, fr.payload⟩] s := by
    rw [effFrameReceive, if_neg hno, if_neg (by simp [hfcs]), if_neg (by simp [hhdr]), if_neg (by simp [he2e]), if_neg (by simp [hseq]),
      frameCounted]
  have hcnt := frameCounted_touches q fun s => s.lkStat q && !s.jobBarred fr.typ fr.payload
  have hput (f : FabSt → FabSt) : (modFb f).Touches [.fb] (fun _ => False) (fun _ => False) := touches_modFb (by simp)
  have hrun : (effFrameReceive q fr).run s = (modFb fun b => { b with inbox := b.inbox ++
      [⟨q, fr.src, s.forAlias q fr, fr.cls, fr.typ, fr.payload⟩] }).run
      ((frameCounted q fun s => s.lkStat q && !s.jobBarred fr.typ fr.payload).run s) := by
    rw [run_congr heq, doAll_cons_run, doAll_cons_run, doAll_nil_run]
    refine putMsg_run ?_ ht
    rw [jobBarred_of_touches hcnt (by simp) (by simp [Ne.symm (lkBlk_ne_saggar q)])]
    exact hb
  have hfb : ((frameCounted q fun s => s.lkStat q && !s.jobBarred fr.typ fr.payload).run s).fb = s.fb :=
    hcnt.same s .fb (by simp) (by simp) (by simp)
  have hmod (f : FabSt → FabSt) (t : State) : ((modFb f).run t).fb = f t.fb := rfl
  refine ⟨_, congrArg Host.Outcome.next hrun, ?_, (hcnt.only _ (by simp) (by simp) (by simp)).trans
    ((hput _).only _ (by simp) (by simp) (by simp)), RegsKeptBut.trans ?_ ((hput _).regsKept _ _ fun _ _ _ h => h.elim)⟩
  · rw [hmod, hfb]
  · rw [frameCounted, whenE_run]
    split
    · rename_i hc
      have hadd : (addLk q 0x150 0 48 1).Touches [] (fun r => r = ⟨lkBlk q, lkInst q, 0x150⟩) (fun _ => False) := touches_addLk rfl
      refine hadd.regsKept _ _ fun b i o h => ?_
      cases h
      exact ⟨rfl, rfl, rfl, (Bool.and_eq_true _ _ ▸ hc).1⟩
    · exact fun _ _ _ _ => rfl

/-! ## What leaves over a port -/

/-- Sending reads the same addresses, tags and pauses in two states. -/
def State.sameWire (s t : State) : Prop :=
  (∀ q m, t.mac q m = s.mac q m) ∧ (∀ c, t.tci c = s.tci c) ∧ ∀ q c, t.isPaused q c = s.isPaused q c

theorem sameWire_refl (s : State) : s.sameWire s := ⟨fun _ _ => rfl, fun _ => rfl, fun _ _ => rfl⟩

theorem State.sameWire.trans {s t u : State} (h : s.sameWire t) (h' : t.sameWire u) : s.sameWire u :=
  ⟨fun q m => (h'.1 q m).trans (h.1 q m), fun c => (h'.2.1 c).trans (h.2.1 c), fun q c => (h'.2.2 q c).trans (h.2.2 q c)⟩

/-- The registers of L0 with the module's addresses and priorities. -/
def wireOff (off : Nat) : Bool := off = 0x180 || off = 0x188 || off = 0x198

theorem Eff.Touches.sameWire {e : Eff} {ps : List Component} {R : RK → Prop} {A : Aux → Prop} (he : e.Touches ps R A)
    (hR : ∀ o, wireOff o = true → ¬ R ⟨.blink, 0, o⟩) (hA : ∀ q p, ¬ A ⟨.paused, q, p⟩) (s : State) : s.sameWire (e.run s) := by
  have hpre : (e.run s).get fMacPrefix 0 = s.get fMacPrefix 0 := he.get s (hR _ rfl)
  have hprio (c : Nat) : (e.run s).get (fPrio c) 0 = s.get (fPrio c) 0 := he.get s (hR _ rfl)
  have hvid : (e.run s).get fVid 0 = s.get fVid 0 := he.get s (hR _ rfl)
  have hax (q p : Nat) : (e.run s).ax ⟨.paused, q, p⟩ = s.ax ⟨.paused, q, p⟩ := he.ax s (hA q p)
  refine ⟨fun q m => ?_, fun c => ?_, fun q c => ?_⟩
  · rw [State.mac, State.mac, hpre]
  · rw [State.tci, State.tci, hprio, hvid]
  · rw [State.isPaused, State.isPaused, hprio, hax]

theorem not_wireOff_of_sendOff (o : Nat) (h : wireOff o = true) : ¬ sendOff o = true := by
  simp only [wireOff, sendOff, Bool.or_eq_true, decide_eq_true_eq] at *
  omega

/-- An effect that only adds to what leaves the module. -/
def Eff.Grows (e : Eff) : Prop := ∀ s : State, ∃ l, (e.run s).out = l ++ s.out

theorem grows_nil : (doAll []).Grows := fun _ => ⟨[], rfl⟩

theorem grows_cons {e : Eff} {es : List Eff} (h : e.Grows) (hs : (doAll es).Grows) : (doAll (e :: es)).Grows := fun s => by
  obtain ⟨l, hl⟩ := h s
  obtain ⟨l', hl'⟩ := hs (e.run s)
  exact ⟨l' ++ l, by rw [doAll_cons_run, hl', hl, List.append_assoc]⟩

theorem grows_forEach {β : Type} {l : List β} {f : β → Eff} (h : ∀ b ∈ l, (f b).Grows) : (forEach l f).Grows := by
  induction l with
  | nil => exact grows_nil
  | cons b l ih =>
    intro s
    obtain ⟨k, hk⟩ := h b (List.mem_cons_self ..) s
    obtain ⟨k', hk'⟩ := ih (fun c hc => h c (List.mem_cons_of_mem _ hc)) ((f b).run s)
    exact ⟨k' ++ k, by rw [forEach_cons_run, hk', hk, List.append_assoc]⟩

theorem grows_of_touches {e : Eff} {ps : List Component} {R : RK → Prop} {A : Aux → Prop} (he : e.Touches ps R A)
    (hp : Component.out ∉ ps) : e.Grows := fun s => ⟨[], he.same s .out hp (by simp) (by simp)⟩

theorem sendFrame_out (fr : Frame) (s : State) :
    ((sendFrame q fr).run s).out = .frame q (s.mac q fr.src) (s.tci fr.cls) fr :: s.out := by
  have heq : sendFrame q fr s = doAll [emit (.frame q (s.mac q fr.src) (s.tci fr.cls) fr),
    whenE (fun s => s.lkStat q) (addLk q 0x148 0 48 1)] s := rfl
  have hcnt : (whenE (fun s => s.lkStat q) (addLk q 0x148 0 48 1)).Touches [] (fun _ => True) (fun _ => False) :=
    touches_whenE (touches_addLk trivial)
  have hemit (o : Out) (t : State) : ((emit o).run t).out = o :: t.out := rfl
  have hsame (t : State) : ((whenE (fun s => s.lkStat q) (addLk q 0x148 0 48 1)).run t).out = t.out :=
    hcnt.same t .out (by simp) (by simp) (by simp)
  rw [run_congr heq, doAll_cons_run, doAll_cons_run, doAll_nil_run, hsame, hemit]

theorem sendFrame_grows {fr : Frame} : (sendFrame q fr).Grows := fun s => ⟨[_], sendFrame_out fr s⟩

theorem pumpDgrams_grows : (pumpDgrams q).Grows := fun s => by
  have heq : pumpDgrams q s = doAll [forEach (s.fb.dgrams.filter fun x => x.1 = q) (fun x => sendFrame q x.2),
    whenE (fun s => s.fb.dgrams ≠ []) (modFb fun b => { b with dgrams := b.dgrams.filter fun x => x.1 ≠ q })] s := rfl
  have hmod : (whenE (fun s => s.fb.dgrams ≠ []) (modFb fun b => { b with dgrams := b.dgrams.filter fun x => x.1 ≠ q })).Touches [.fb]
      (fun _ => False) (fun _ => False) := touches_whenE (touches_modFb (by simp))
  rw [run_congr heq]
  exact grows_cons (grows_forEach fun _ _ => sendFrame_grows) (grows_cons (grows_of_touches hmod (by simp)) grows_nil) s

/-- A port where no datagram waits. -/
theorem pumpDgrams_idle (h : ∀ d ∈ s.fb.dgrams, d.1 ≠ q) : ((pumpDgrams q).run s).out = s.out := by
  have hnil : s.fb.dgrams.filter (fun x => x.1 = q) = [] := List.filter_eq_nil_iff.2 fun d hd => by simp [h d hd]
  have heq : pumpDgrams q s = doAll [forEach (s.fb.dgrams.filter fun x => x.1 = q) (fun x => sendFrame q x.2),
    whenE (fun s => s.fb.dgrams ≠ []) (modFb fun b => { b with dgrams := b.dgrams.filter fun x => x.1 ≠ q })] s := rfl
  have hmod : (whenE (fun s => s.fb.dgrams ≠ []) (modFb fun b => { b with dgrams := b.dgrams.filter fun x => x.1 ≠ q })).Touches [.fb]
      (fun _ => False) (fun _ => False) := touches_whenE (touches_modFb (by simp))
  have hsame (t : State) : ((whenE (fun s => s.fb.dgrams ≠ [])
      (modFb fun b => { b with dgrams := b.dgrams.filter fun x => x.1 ≠ q })).run t).out = t.out :=
    hmod.same t .out (by simp) (by simp) (by simp)
  rw [run_congr heq, doAll_cons_run, doAll_cons_run, doAll_nil_run, hsame, hnil]
  rfl

/-- A datagram on a port that is not paused leaves, after those that waited there. -/
theorem sendOn_out {typ : Nat} {data : List Byte} (h : s.isPaused q 0 = false) :
    ∃ l, ((sendOn q m al typ data).run s).out =
      .frame q (s.mac q (s.dgram q m al typ data).src) (s.tci 0) (s.dgram q m al typ data) :: (l ++ s.out) ∧
      ((∀ d ∈ s.fb.dgrams, d.1 ≠ q) → l = []) := by
  have hpump : (pumpDgrams q).Touches [.out, .fb] (fun r => sendOff r.off = true) (fun _ => False) :=
    touches_pumpDgrams (fun _ _ h => h) (by simp) (by simp)
  obtain ⟨hmac, htci, -⟩ := hpump.sameWire (fun o ho => not_wireOff_of_sendOff o ho) (fun _ _ h => h) s
  have hcls : (s.dgram q m al typ data).cls = 0 := rfl
  rw [sendOn_free h, sendFrame_out, hmac, htci, hcls]
  by_cases hd : ∀ d ∈ s.fb.dgrams, d.1 ≠ q
  · exact ⟨[], by rw [pumpDgrams_idle hd]; rfl, fun _ => rfl⟩
  · obtain ⟨l, hl⟩ := pumpDgrams_grows (q := q) s
    exact ⟨l, by rw [hl], fun h => absurd h hd⟩

/-! ## A sequenced message received -/

/-- A class of a peer after the last frame of a message. -/
def Chan.took (c : Chan) : Chan := { c with rNext := (c.rNext + 1) % 2 ^ 32, asm := [], stale := false }

/-- A message waits. -/
def msgWaits (x : InMsg) : Eff := modFb fun b => { b with inbox := b.inbox ++ [x] }

/-- What the last frame of a message does before its ACK. -/
def lastFrame (q : Nat) (al : Bool) (fr : Frame) (x : Peer) : Eff :=
  doAll [frameCounted q fun s => s.lkStat q, modPeer q fr.src al fun y => y.setChan fr.cls (x.chan fr.cls).took,
    msgWaits ⟨q, fr.src, al, fr.cls, fr.typ, (x.chan fr.cls).asm ++ fr.payload⟩]

theorem lastFrame_touches (q : Nat) (al : Bool) (fr : Frame) (x : Peer) :
    (lastFrame q al fr x).Touches [.fb] (fun r => r = ⟨lkBlk q, lkInst q, 0x150⟩) (fun _ => False) :=
  touches_doAll_cons ((frameCounted_touches q _).mono (by simp) (fun _ h => h) (fun _ h => h)) (touches_doAll_cons
    (touches_modPeer (by simp))
    (touches_doAll_cons (touches_modFb (by simp)) touches_doAll_nil))

theorem lastFrame_fb (q : Nat) (al : Bool) (fr : Frame) (x : Peer) (s : State) : ((lastFrame q al fr x).run s).fb =
    { s.fb with
      peers := s.fb.peers.map (onPeer q fr.src al fun y => y.setChan fr.cls (x.chan fr.cls).took)
      inbox := s.fb.inbox ++ [⟨q, fr.src, al, fr.cls, fr.typ, (x.chan fr.cls).asm ++ fr.payload⟩] } := by
  have hfb : ((frameCounted q fun s => s.lkStat q).run s).fb = s.fb :=
    (frameCounted_touches q fun s => s.lkStat q).same s .fb (by simp) (by simp) (by simp)
  have hwait (y : InMsg) (t : State) : ((msgWaits y).run t).fb = { t.fb with inbox := t.fb.inbox ++ [y] } := rfl
  have hmod (f : Peer → Peer) (t : State) : ((modPeer q fr.src al f).run t).fb =
    { t.fb with peers := t.fb.peers.map (onPeer q fr.src al f) } := rfl
  rw [lastFrame, doAll_cons_run, doAll_cons_run, doAll_cons_run, doAll_nil_run, hwait, hmod, hfb]

theorem lastFrame_peer {fr : Frame} {x : Peer} (h : s.peer q fr.src al = some x) :
    ((lastFrame q al fr x).run s).peer q fr.src al = some (x.setChan fr.cls (x.chan fr.cls).took) := by
  have hp : ((lastFrame q al fr x).run s).peer q fr.src al =
      ((modPeer q fr.src al fun y => y.setChan fr.cls (x.chan fr.cls).took).run s).peer q fr.src al :=
    peer_congr (by rw [lastFrame_fb]; rfl)
  rw [hp, modPeer_peer_same (setChan_keepsPeer _ _) h]

theorem seqFrame_run {fr : Frame} {x : Peer} (h : s.peer q fr.src al = some x) (hst : x.st = 1) (hstale : (x.chan fr.cls).stale = false)
    (hseq : fr.seq = (x.chan fr.cls).rNext) (hfull : s.holdFull q (x.chan fr.cls) fr = false) (hlast : fr.last = true)
    (htyp : fr.typ ≠ 4) (hb : s.jobBarred fr.typ ((x.chan fr.cls).asm ++ fr.payload) = false) : (seqFrame q al fr).run s =
      (whenE (fun _ => fr.cls ≠ 3) (sendAck q fr.src al 2 fr.cls)).run ((lastFrame q al fr x).run s) := by
  have heq : seqFrame q al fr s = doAll [frameCounted q fun s => s.lkStat q,
      modPeer q fr.src al (fun y => y.setChan fr.cls (x.chan fr.cls).took),
      putMsg ⟨q, fr.src, al, fr.cls, fr.typ, (x.chan fr.cls).asm ++ fr.payload⟩,
      whenE (fun _ => fr.cls ≠ 3) (sendAck q fr.src al 2 fr.cls)] s := by
    rw [seqFrame, h]
    dsimp only
    rw [if_neg (by simp [hst]), if_pos (by simp [hseq, hfull]), hlast, hstale]
    rfl
  have htouch : (doAll [frameCounted q fun s => s.lkStat q,
      modPeer q fr.src al (fun y => y.setChan fr.cls (x.chan fr.cls).took)]).Touches [.fb]
      (fun r => r = ⟨lkBlk q, lkInst q, 0x150⟩) (fun _ => False) :=
    touches_doAll_cons ((frameCounted_touches q _).mono (by simp) (fun _ h => h) (fun _ h => h)) (touches_doAll_cons
      (touches_modPeer (by simp)) touches_doAll_nil)
  have hbar := jobBarred_of_touches htouch (by simp) (by simp [Ne.symm (lkBlk_ne_saggar q)]) s fr.typ ((x.chan fr.cls).asm ++ fr.payload)
  rw [doAll_cons_run, doAll_cons_run, doAll_nil_run, hb] at hbar
  rw [run_congr heq, doAll_cons_run, doAll_cons_run, doAll_cons_run, doAll_cons_run, doAll_nil_run, putMsg_run hbar htyp, lastFrame,
    doAll_cons_run, doAll_cons_run, doAll_cons_run, doAll_nil_run]
  rfl

theorem sequenced_answers {fr : Frame} {x : Peer} (hq : q < 19) (hlive : s.fabLive = true) (hup : s.lkUp q = true)
    (hfcs : fr.fcsOk = true) (hhdr : s.headerBad q fr = false) (he2e : fr.e2eOk = true) (hseqd : fr.seqd = true) (htyp : fr.typ ≠ 4)
    (h : s.peer q fr.src (s.forAlias q fr) = some x) (hst : x.st = 1) (hstale : (x.chan fr.cls).stale = false)
    (hseq : fr.seq = (x.chan fr.cls).rNext) (hfull : s.holdFull q (x.chan fr.cls) fr = false) (hlast : fr.last = true)
    (hb : s.jobBarred fr.typ ((x.chan fr.cls).asm ++ fr.payload) = false) : Answers (.frameReceive q fr) s fun t =>
        t.fb.inbox = s.fb.inbox ++ [⟨q, fr.src, s.forAlias q fr, fr.cls, fr.typ, (x.chan fr.cls).asm ++ fr.payload⟩] ∧
        (∃ y, t.peer q fr.src (s.forAlias q fr) = some y ∧ (y.chan fr.cls).rNext = ((x.chan fr.cls).rNext + 1) % 2 ^ 32 ∧
          (y.chan fr.cls).asm = []) ∧
        (fr.cls ≠ 3 → s.isPaused q 0 = false → (∀ d ∈ s.fb.dgrams, d.1 ≠ q) →
          ∃ a, t.out = .frame q (s.mac q a.src) (s.tci 0) a :: s.out ∧ a.typ = 2 ∧ a.dst = fr.src) ∧
        (fr.cls ≠ 3 → s.isPaused q 0 = true → ∃ a, t.fb.dgrams = s.fb.dgrams ++ [(q, a)] ∧ a.typ = 2 ∧ a.dst = fr.src) ∧
        OnlyParts [.regs, .fb, .out] s t := by
  have hno : ¬ (19 ≤ q ∨ (!s.fabLive) = true ∨ (!s.lkUp q) = true) := by simp [hq, hlive, hup]
  have heq : effFrameReceive q fr s = seqFrame q (s.forAlias q fr) fr s := by
    rw [effFrameReceive, if_neg hno, if_neg (by simp [hfcs]), if_neg (by simp [hhdr]), if_neg (by simp [he2e]), if_pos hseqd]
  have hrun := (run_congr heq).trans (seqFrame_run h hst hstale hseq hfull hlast htyp hb)
  set al := s.forAlias q fr
  have htouch := lastFrame_touches q al fr x
  obtain ⟨hmac, htci, hpause⟩ := htouch.sameWire (fun o ho => by
    intro hr
    rw [show o = 0x150 from congrArg RK.off hr] at ho
    exact absurd ho (by decide)) (fun _ _ h => h) s
  have hout : ((lastFrame q al fr x).run s).out = s.out := htouch.same s .out (by simp) (by simp) (by simp)
  have hfb := lastFrame_fb q al fr x s
  have hpeer := lastFrame_peer (al := al) h
  have hack : (whenE (fun _ => fr.cls ≠ 3) (sendAck q fr.src al 2 fr.cls)).Datagrams := datagrams_whenE sendAck_datagrams
  have hsend : (whenE (fun _ => fr.cls ≠ 3) (sendAck q fr.src al 2 fr.cls)).Touches [.out, .fb] (fun r => sendOff r.off = true)
    (fun _ => False) := touches_whenE touches_sendAck
  have hdg := hack ((lastFrame q al fr x).run s)
  refine ⟨_, congrArg Host.Outcome.next hrun, ?_, ⟨_, (peer_congr ?_).trans hpeer, ?_, ?_⟩, fun hc hfree hidle => ?_, fun hc hpaused => ?_,
    (htouch.only _ (by simp) (by simp) (by simp)).trans (hsend.only _ (by simp) (by simp) (by simp))⟩
  · rw [hdg, hfb]
  · rw [hdg]
  · rw [chan_setChan]; rfl
  · rw [chan_setChan]; rfl
  · rw [whenE_run, if_pos (by simp [hc]), sendAck_run hpeer]
    obtain ⟨l, hl, hnil⟩ := sendOn_out (s := (lastFrame q al fr x).run s) (q := q) (m := fr.src) (al := al) (typ := 2)
      (data := leBytes 1 fr.cls ++
      leBytes 3 0 ++ leBytes 4 (((lastFrame q al fr x).run s).nextSeq (x.setChan fr.cls (x.chan fr.cls).took) fr.cls) ++
      leBytes 2 (((lastFrame q al fr x).run s).credit (x.setChan fr.cls (x.chan fr.cls).took) fr.cls) ++ leBytes 6 0)
      ((hpause q 0).trans hfree)
    rw [hl, hnil (by rw [hfb]; exact hidle), hmac, htci, hout]
    exact ⟨_, rfl, rfl, rfl⟩
  · rw [whenE_run, if_pos (by simp [hc]), sendAck_run hpeer, sendOn_paused ((hpause q 0).trans hpaused)]
    have hmod (f : FabSt → FabSt) (t : State) : ((modFb f).run t).fb = f t.fb := rfl
    rw [hmod, hfb]
    exact ⟨_, rfl, rfl, rfl⟩

/-! ## ACK and NAK -/

/-- A message taken by a port that acts on frames. -/
theorem withMsg_live {typ : Nat} {f : InMsg → Eff} {w : InMsg} (hs : s.fabLive = true) (h : s.msgAt q typ = some w) :
    (withMsg q typ f).run s = (f w).run ((takeMsg w).run s) := by
  have heq : withMsg q typ f s = doAll [takeMsg w, f w] s := by
    rw [withMsg, if_neg (by simp [hs]), h]
  rw [run_congr heq, doAll_cons_run, doAll_cons_run, doAll_nil_run]

/-- A class of a peer that has been acknowledged up to NEXT. -/
def Chan.acked (c : Chan) (next credit : Nat) : Chan :=
  { c with sBase := next, sLimit := some credit, retries := if sub32 next c.sBase = 0 then c.retries else 0 }

/-- A peer entry with the class of an entry x acknowledged. -/
def ackPeer (x : Peer) (cls next credit : Nat) (y : Peer) : Peer :=
  { y.setChan cls ((x.chan cls).acked next credit) with
    frames := (y.setChan cls ((x.chan cls).acked next credit)).frames.filter fun f =>
      f.cls ≠ cls || sub32 next (x.chan cls).sBase ≤ sub32 f.fr.seq (x.chan cls).sBase }

theorem ackPeer_keepsPeer (x : Peer) (cls next credit : Nat) : KeepsPeer (ackPeer x cls next credit) := fun y =>
  setChan_keepsPeer cls ((x.chan cls).acked next credit) y

theorem ackPeer_chan (x y : Peer) (cls next credit : Nat) : (ackPeer x cls next credit y).chan cls = (x.chan cls).acked next credit :=
  (chan_of_channels rfl rfl rfl rfl cls).trans (chan_setChan y _ cls)

theorem ackPeer_frames (x y : Peer) (cls next credit : Nat) : (ackPeer x cls next credit y).frames = y.frames.filter fun f =>
    f.cls ≠ cls || sub32 next (x.chan cls).sBase ≤ sub32 f.fr.seq (x.chan cls).sBase := by
  rw [ackPeer]
  dsimp only
  rw [(setChan_kept y cls _).2.2.2.2]

/-- What an ACK does to the sender: the class steps on, and what it allows leaves. -/
def acked (q m : Nat) (al : Bool) (x : Peer) (cls next credit : Nat) : Eff :=
  doAll [modPeer q m al (ackPeer x cls next credit), pump q m al]

theorem ackTake_run {x : Peer} {next credit : Nat} (h : s.peer q m al = some x) (hst : x.st ≠ 2) (hcls : q = 16 → cls ≠ 3)
    (hd : sub32 next (x.chan cls).sBase ≤ sub32 (x.chan cls).sNext (x.chan cls).sBase) :
    (ackTake q m al cls next credit).run s = (acked q m al x cls next credit).run s := by
  have heq : ackTake q m al cls next credit s = doAll [modPeer q m al (ackPeer x cls next credit), pump q m al,
      whenE (fun _ => q = 16 && cls = 3) mirrorAdvance] s := by
    rw [ackTake, h]
    dsimp only
    rw [if_neg (not_or.2 ⟨hst, by omega⟩)]
    rfl
  have hno : (decide (q = 16) && decide (cls = 3)) = false := by
    by_cases h16 : q = 16
    · simp [hcls h16]
    · simp [h16]
  rw [run_congr heq, doAll_cons_run, doAll_cons_run, doAll_cons_run, doAll_nil_run, whenE_run, hno, acked, doAll_cons_run,
    doAll_cons_run, doAll_nil_run]
  rfl

theorem acked_touches (q m : Nat) (al : Bool) (x : Peer) (cls next credit : Nat) :
    (acked q m al x cls next credit).Touches [.out, .fb] (fun r => sendOff r.off = true) (fun _ => False) :=
  touches_doAll_cons (touches_modPeer (by simp)) (touches_doAll_cons (touches_pump (fun _ _ h => h) (by simp) (by simp)) touches_doAll_nil)

/-- What an ACK leaves: the other messages, and the sender's class acknowledged. -/
theorem acked_shows {x : Peer} {next credit : Nat} (h : s.peer q m al = some x) :
    ((acked q m al x cls next credit).run s).fb.inbox = s.fb.inbox ∧
    ∃ y, ((acked q m al x cls next credit).run s).peer q m al = some y ∧ y.chan cls = (x.chan cls).acked next credit ∧
      y.frames.length = (x.frames.filter fun f =>
        f.cls ≠ cls || sub32 next (x.chan cls).sBase ≤ sub32 f.fr.seq (x.chan cls).sBase).length := by
  have hz := modPeer_peer_same (ackPeer_keepsPeer x cls next credit) h
  set t := (modPeer q m al (ackPeer x cls next credit)).run s
  have hinbox : t.fb.inbox = s.fb.inbox := rfl
  have hrun : (acked q m al x cls next credit).run s = (pump q m al).run t := by
    rw [acked, doAll_cons_run, doAll_cons_run, doAll_nil_run]
  rw [hrun]
  refine ⟨by rw [pump_fb hz]; exact hinbox, _, pump_peer hz,
    (chan_of_channels rfl rfl rfl rfl cls).trans (ackPeer_chan x x cls next credit), ?_⟩
  rw [State.pumped]
  dsimp only
  rw [List.length_map, ackPeer_frames]

section
variable {w : InMsg} {x : Peer} (hlive : s.fabLive = true) (h : s.peer q w.src w.alias_ = some x) (hst : x.st ≠ 2)
  (hcls : q = 16 → w.num 0 1 ≠ 3)
  (hd : sub32 (w.num 4 4) (x.chan (w.num 0 1)).sBase ≤ sub32 (x.chan (w.num 0 1)).sNext (x.chan (w.num 0 1)).sBase)
include hlive h hst hcls hd

theorem ack_answers (hm : s.msgAt q 2 = some w) : Answers (.ack q) s fun t => t.fb.inbox = s.fb.inbox.erase w ∧
      (∃ y, t.peer q w.src w.alias_ = some y ∧ (y.chan (w.num 0 1)).sBase = w.num 4 4 ∧
        (y.chan (w.num 0 1)).sLimit = some (w.num 8 2) ∧
        y.frames.length = (x.frames.filter fun f => f.cls ≠ w.num 0 1 ||
          sub32 (w.num 4 4) (x.chan (w.num 0 1)).sBase ≤ sub32 f.fr.seq (x.chan (w.num 0 1)).sBase).length) ∧
      OnlyParts [.regs, .fb, .out] s t := by
  have hp : ((takeMsg w).run s).peer q w.src w.alias_ = some x := h
  have hrun : (effAck q).run s = (acked q w.src w.alias_ x (w.num 0 1) (w.num 4 4) (w.num 8 2)).run ((takeMsg w).run s) := by
    rw [effAck, withMsg_live hlive hm, ackTake_run hp hst hcls hd]
  obtain ⟨hinbox, y, hy, hchan, hlen⟩ := acked_shows (cls := w.num 0 1) (next := w.num 4 4) (credit := w.num 8 2) hp
  refine ⟨_, congrArg Host.Outcome.next hrun, hinbox, ⟨y, hy, by rw [hchan]; rfl, by rw [hchan]; rfl, hlen⟩,
    ((takeMsg_touches w).only _ (by simp) (by simp) (by simp)).trans ((acked_touches _ _ _ _ _ _ _).only _ (by simp) (by simp) (by simp))⟩

theorem nak_answers (hm : s.msgAt q 3 = some w) : Answers (.nak q) s fun t => t.fb.inbox = s.fb.inbox.erase w ∧
      (∃ y, t.peer q w.src w.alias_ = some y ∧ (y.chan (w.num 0 1)).sBase = w.num 4 4 ∧
        (y.chan (w.num 0 1)).sLimit = some (w.num 8 2)) ∧
      OnlyParts [.regs, .fb, .out] s t := by
  have hp : ((takeMsg w).run s).peer q w.src w.alias_ = some x := h
  have hrun : (effNak q).run s = (resend q w.src w.alias_ (w.num 0 1)).run
      ((acked q w.src w.alias_ x (w.num 0 1) (w.num 4 4) (w.num 8 2)).run ((takeMsg w).run s)) := by
    rw [effNak, withMsg_live hlive hm, doAll_cons_run, doAll_cons_run, doAll_nil_run, ackTake_run hp hst hcls hd]
  obtain ⟨hinbox, y, hy, hchan, -⟩ := acked_shows (cls := w.num 0 1) (next := w.num 4 4) (credit := w.num 8 2) hp
  have hfb := resend_datagrams (q := q) (m := w.src) (al := w.alias_) (cls := w.num 0 1)
    ((acked q w.src w.alias_ x (w.num 0 1) (w.num 4 4) (w.num 8 2)).run ((takeMsg w).run s))
  refine ⟨_, congrArg Host.Outcome.next hrun, ?_, ⟨y, (peer_congr ?_).trans hy, by rw [hchan]; rfl, by rw [hchan]; rfl⟩,
    ((takeMsg_touches w).only _ (by simp) (by simp) (by simp)).trans
    (((acked_touches _ _ _ _ _ _ _).only _ (by simp) (by simp) (by simp)).trans
    (resend_touches.only _ (by simp) (by simp) (by simp)))⟩
  · rw [hfb]; exact hinbox
  · rw [hfb]

end

/-! ## The deadline of an acknowledgement -/

theorem ackLate_none (h : s.peer q m al = none) : (ackLate q m al cls).run s = s :=
  (run_congr (f := skip) (by rw [ackLate, h]; rfl)).trans (skip_run s)

theorem ackTimeout_run (hlive : s.fabLive = true) (hother : ((ackLate q m false cls).run s).peer q m true = none) :
    (effAckTimeout q m cls).run s = (ackLate q m false cls).run s := by
  rw [effAckTimeout, whenE_run, if_pos hlive, doAll_cons_run, doAll_cons_run, doAll_nil_run, ackLate_none hother]

/-- A class of a peer with one retry more. -/
def Chan.retried (c : Chan) : Chan := { c with retries := c.retries + 1 }

/-- A deadline that is not the last: the retry is counted, and what was sent is sent again. -/
def retried (q m : Nat) (al : Bool) (cls : Nat) (x : Peer) : Eff :=
  doAll [modPeer q m al (fun y => y.setChan cls (x.chan cls).retried), resend q m al cls]

theorem retried_fb (q m : Nat) (al : Bool) (cls : Nat) (x : Peer) (s : State) :
    ((retried q m al cls x).run s).fb.peers = s.fb.peers.map (onPeer q m al fun y => y.setChan cls (x.chan cls).retried) := by
  rw [retried, doAll_cons_run, doAll_cons_run, doAll_nil_run, resend_datagrams, ← modPeer_peers]

theorem retried_touches (q m : Nat) (al : Bool) (cls : Nat) (x : Peer) :
    (retried q m al cls x).Touches [.out, .fb] (fun r => sendOff r.off = true ∨ r.off = 0x160) (fun _ => False) :=
  touches_doAll_cons (touches_modPeer (by simp)) (touches_doAll_cons (resend_touches.mono (by simp) (fun _ h => h) fun _ h => h)
    touches_doAll_nil)

theorem ackLate_waits {x : Peer} (hst : x.st = 1) (hsent : ∃ f ∈ x.frames, f.cls = cls ∧ f.sent = true) :
    ¬ (x.st ≠ 1 ∨ (!(x.frames.any fun f => f.cls = cls && f.sent)) = true) := by
  obtain ⟨f, hf, hc, hs⟩ := hsent
  have hany : (x.frames.any fun f => f.cls = cls && f.sent) = true := List.any_eq_true.2 ⟨f, hf, by simp [hc, hs]⟩
  simp [hst, hany]

section
variable {x : Peer} (h : s.peer q m false = some x) (hst : x.st = 1) (hsent : ∃ f ∈ x.frames, f.cls = cls ∧ f.sent = true)
include h hst hsent

theorem ackLate_retries (hr : (x.chan cls).retries + 1 < s.lk q 0x110 8 4) :
    (ackLate q m false cls).run s = (retried q m false cls x).run s := by
  refine run_congr ?_
  rw [ackLate, h]
  dsimp only
  rw [if_neg (ackLate_waits hst hsent), if_neg (by omega), retried]
  rfl

theorem ackLate_last (hr : s.lk q 0x110 8 4 ≤ (x.chan cls).retries + 1) :
    (ackLate q m false cls).run s = (peerDown q m false eLINK_DOWN).run s := by
  refine run_congr ?_
  rw [ackLate, h]
  dsimp only
  rw [if_neg (ackLate_waits hst hsent), if_pos hr]

variable (hlive : s.fabLive = true) (hother : s.peer q m true = none)
include hlive hother

theorem retry_answers (hr : (x.chan cls).retries + 1 < s.lk q 0x110 8 4) : Answers (.ackTimeout q m cls) s fun t =>
      (∃ y, t.peer q m false = some y ∧ y.st = 1 ∧ (y.chan cls).retries = (x.chan cls).retries + 1) ∧
      OnlyParts [.regs, .fb, .out] s t := by
  have hrun := ackLate_retries h hst hsent hr
  have hkeep := setChan_keepsPeer cls (x.chan cls).retried
  have hpeers (al : Bool) : ((retried q m false cls x).run s).peer q m al =
      ((modPeer q m false fun y => y.setChan cls (x.chan cls).retried).run s).peer q m al :=
    peer_congr (by rw [retried_fb]; rfl)
  have hnone : ((ackLate q m false cls).run s).peer q m true = none := by
    rw [hrun, hpeers, modPeer_peer_ne hkeep (by simp), hother]
  refine ⟨_, congrArg Host.Outcome.next ((ackTimeout_run hlive hnone).trans hrun),
    ⟨_, (hpeers false).trans (modPeer_peer_same hkeep h), (setChan_kept x cls _).2.2.2.1.trans hst, by rw [chan_setChan]; rfl⟩,
    (retried_touches _ _ _ _ _).only _ (by simp) (by simp) (by simp)⟩

end

/-- An UP peer that is gone: its port shows the event, and the error where none stood. -/
theorem peerGone_shows {x : Peer} {code : Nat} (hst : x.st = 1) (hc : code < 256) :
    ((doAll (peerGone q m al code x)).run s).on (fEvt (lkBlk q) 3) (lkInst q) = true ∧
    (s.get (fErrCode (lkBlk q)) (lkInst q) = 0 →
      ((doAll (peerGone q m al code x)).run s).get (fErrCode (lkBlk q)) (lkInst q) = code ∧
      ((doAll (peerGone q m al code x)).run s).get (fErrInfo (lkBlk q)) (lkInst q) = m % 2 ^ 32) := by
  have hcount : (doAll [modPeer q m al (fun y => y.fresh 2 y.hbBase), addLk q 0x160 0 32 x.frames.length]).Touches [.fb]
      (fun r => r.off = 0x160) (fun _ => False) :=
    touches_doAll_cons (touches_modPeer (by simp)) (touches_doAll_cons (touches_addLk rfl) touches_doAll_nil)
  have hevt : (evtLk q 3).Touches [.hi] (fun r => r.off = offEvtStatus) (fun _ => False) := touches_evtLk rfl (by simp)
  have hrun : (doAll (peerGone q m al code x)).run s = (evtLk q 3).run ((errLk q code m).run
      ((doAll [modPeer q m al (fun y => y.fresh 2 y.hbBase), addLk q 0x160 0 32 x.frames.length]).run s)) := by
    rw [peerGone, doAll_cons_run, doAll_cons_run, doAll_cons_run, doAll_nil_run, whenE_run, if_pos (by simp [hst]), doAll_cons_run,
      doAll_cons_run, doAll_nil_run, doAll_cons_run, doAll_cons_run, doAll_nil_run]
  rw [hrun]
  refine ⟨evtLk_on (by omega), fun hclear => ?_⟩
  rw [hevt.get _ (by simp [fErrCode, offErr, offEvtStatus]), hevt.get _ (by simp [fErrInfo, offErr, offEvtStatus])]
  exact recordErr_err hc ((hcount.get s (by simp [fErrCode, offErr])).trans hclear)

theorem lastRetry_answers {x : Peer} (hlive : s.fabLive = true) (h : s.peer q m false = some x) (hother : s.peer q m true = none)
    (hst : x.st = 1) (hsent : ∃ f ∈ x.frames, f.cls = cls ∧ f.sent = true) (hr : s.lk q 0x110 8 4 ≤ (x.chan cls).retries + 1)
    (hq : q < 16) (hs : s.bare) : Answers (.ackTimeout q m cls) s fun t =>
      (∃ y, t.peer q m false = some y ∧ y.st = 2 ∧ y.frames = []) ∧ t.on (fEvt (lkBlk q) 3) (lkInst q) = true ∧
      (s.get (fErrCode (lkBlk q)) (lkInst q) = 0 → t.get (fErrCode (lkBlk q)) (lkInst q) = eLINK_DOWN ∧
        t.get (fErrInfo (lkBlk q)) (lkInst q) = m % 2 ^ 32) ∧ OnlyParts [.regs, .hi, .fb, .sl] s t := by
  have hlast := ackLate_last h hst hsent hr
  have hup : x.st ≠ 2 := by omega
  have hkeep := fresh_keepsPeer 2 fun y => y.hbBase
  have hpeers (al : Bool) : ((peerDown q m false eLINK_DOWN).run s).peer q m al =
      ((modPeer q m false fun y => y.fresh 2 y.hbBase).run s).peer q m al := peer_congr (peerDown_bare_peers hs hq h hup)
  have hnone : ((ackLate q m false cls).run s).peer q m true = none := by
    rw [hlast, hpeers, modPeer_peer_ne hkeep (by simp), hother]
  obtain ⟨hevt, herr⟩ := peerGone_shows (s := s) (q := q) (m := m) (al := false) (code := eLINK_DOWN) hst (by decide)
  have hget (f : Fld) (i : Nat) : ((peerDown q m false eLINK_DOWN).run s).get f i =
      ((doAll (peerGone q m false eLINK_DOWN x)).run s).get f i := by
    rw [peerDown_bare_run hs hq h hup, (segsDropped_touches _ _ _ _).get _ id, (heldDropped_touches _ _ _ _).get _ id]
  refine ⟨_, congrArg Host.Outcome.next ((ackTimeout_run hlive hnone).trans hlast),
    ⟨_, (hpeers false).trans (modPeer_peer_same hkeep h), rfl, rfl⟩, (on_congr (hget _ _)).trans hevt, ?_, peerDown_bare_only hs hq h hup⟩
  rw [hget, hget]
  exact herr

/-! ## The heartbeat tick -/

/-- A heartbeat to a peer. -/
def beat (x : Peer) : Eff := fun t => sendOn x.port x.module_ x.alias_ 1 (t.hbBytes x) t

theorem beat_run (x : Peer) (s : State) : (beat x).run s = (sendOn x.port x.module_ x.alias_ 1 (s.hbBytes x)).run s := run_congr rfl

/-- Heartbeats to peers. -/
def beats (l : List Peer) : Eff := forEach l beat

/-- The peers that were heard are to be heard again. -/
def counts (l : List Peer) : Eff := forEach l fun x =>
  if x.seen then modPeer x.port x.module_ x.alias_ fun y => { y with seen := false, missed := 0 }
  else if x.missed < 2 then modPeer x.port x.module_ x.alias_ fun y => { y with missed := y.missed + 1 }
  else peerDown x.port x.module_ x.alias_ eLINK_DOWN

theorem beats_touches (l : List Peer) : (beats l).Touches [.out, .fb] (fun r => sendOff r.off = true) (fun _ => False) :=
  touches_forEach fun x _ => touches_fun (k := fun t => sendOn x.port x.module_ x.alias_ 1 (t.hbBytes x)) fun _ =>
    touches_sendOn (fun _ _ h => h) (by simp) (by simp)

theorem beats_datagrams (l : List Peer) : (beats l).Datagrams :=
  datagrams_forEach fun x _ => datagrams_of (fun t => sendOn x.port x.module_ x.alias_ 1 (t.hbBytes x)) (fun _ => rfl) fun _ =>
    sendOn_datagrams

theorem sendOn_grows {typ : Nat} {data : List Byte} : (sendOn q m al typ data).Grows := fun s => by
  cases h : s.isPaused q 0 with
  | true => exact ⟨[], by rw [sendOn_paused h]; rfl⟩
  | false =>
    obtain ⟨l, hl, -⟩ := sendOn_out (m := m) (al := al) (typ := typ) (data := data) h
    exact ⟨_ :: l, hl⟩

/-- A state on the way of the heartbeats from s: what has left has been added. -/
def State.beating (s t : State) : Prop := s.sameWire t ∧ ∃ l, t.out = l ++ s.out

/-- A heartbeat to a peer has left since s. -/
def State.beaten (s : State) (x : Peer) (t : State) : Prop := ∃ l, t.out = l ++ s.out ∧
  ∃ fr, Out.frame x.port (s.mac x.port fr.src) (s.tci 0) fr ∈ l ∧ fr.typ = 1 ∧ fr.dst = x.module_

theorem sendOn_beating {t : State} {typ : Nat} {data : List Byte} (h : s.beating t) : s.beating ((sendOn q m al typ data).run t) := by
  obtain ⟨hwire, l, hl⟩ := h
  have htouch : (sendOn q m al typ data).Touches [.out, .fb] (fun r => sendOff r.off = true) (fun _ => False) :=
    touches_sendOn (fun _ _ h => h) (by simp) (by simp)
  obtain ⟨k, hk⟩ := sendOn_grows (q := q) (m := m) (al := al) (typ := typ) (data := data) t
  exact ⟨hwire.trans (htouch.sameWire (fun o ho => not_wireOff_of_sendOff o ho) (fun _ _ h => h) t), k ++ l, by
    rw [hk, hl, List.append_assoc]⟩

theorem beats_beaten {l : List Peer} {x : Peer} {t : State} (hx : x ∈ l) (hfree : s.isPaused x.port 0 = false) (h : s.beating t) :
    s.beaten x ((beats l).run t) := by
  unfold beats
  refine forEach_reach (P := s.beaten x) (Q := s.beating) hx (fun c _ u hu => ?_) (fun u hu => ?_) (fun c _ u _ hb => ?_) t h
  · rw [beat_run]
    exact sendOn_beating hu
  · obtain ⟨⟨hmac, htci, hpause⟩, l, hl⟩ := hu
    rw [beat_run]
    obtain ⟨k, hk, -⟩ := sendOn_out (m := x.module_) (al := x.alias_) (typ := 1) (data := u.hbBytes x) ((hpause x.port 0).trans hfree)
    rw [hmac, htci] at hk
    exact ⟨_ :: (k ++ l), by rw [hk, hl, List.cons_append, List.append_assoc], _, List.mem_cons_self .., rfl, rfl⟩
  · obtain ⟨l, hl, fr, hfr, htyp⟩ := hb
    rw [beat_run]
    obtain ⟨k, hk⟩ := sendOn_grows (q := c.port) (m := c.module_) (al := c.alias_) (typ := 1) (data := u.hbBytes c) u
    exact ⟨k ++ l, by rw [hk, hl, List.append_assoc], fr, List.mem_append_right _ hfr, htyp⟩

theorem count_run {x : Peer} (h : x.seen = true) (s : State) : ((if x.seen then
      modPeer x.port x.module_ x.alias_ fun y => { y with seen := false, missed := 0 }
    else if x.missed < 2 then modPeer x.port x.module_ x.alias_ fun y => { y with missed := y.missed + 1 }
    else peerDown x.port x.module_ x.alias_ eLINK_DOWN) : Eff).run s =
    (modPeer x.port x.module_ x.alias_ fun y => { y with seen := false, missed := 0 }).run s := by
  rw [if_pos h]

theorem counts_touches {l : List Peer} (h : ∀ x ∈ l, x.seen = true) : (counts l).Touches [.fb] (fun _ => False) (fun _ => False) :=
  touches_forEach fun x hx => by
    rw [if_pos (h x hx)]
    exact touches_modPeer (by simp)

theorem counted_keepsPeer : KeepsPeer fun y => { y with seen := false, missed := 0 } := fun _ => ⟨rfl, rfl, rfl⟩

/-- A peer that is UP, and one that is UP and has been counted. -/
def State.upPeer (s : State) (x : Peer) : Prop := ∃ y, s.peer x.port x.module_ x.alias_ = some y ∧ y.st = 1
def State.countedPeer (s : State) (x : Peer) : Prop :=
  ∃ y, s.peer x.port x.module_ x.alias_ = some y ∧ y.st = 1 ∧ y.seen = false ∧ y.missed = 0

theorem counts_counted {l : List Peer} {x : Peer} (hl : ∀ x ∈ l, x.seen = true) (hx : x ∈ l) (h : s.upPeer x) :
    ((counts l).run s).countedPeer x := by
  unfold counts
  refine forEach_reach (P := fun t => t.countedPeer x) (Q := fun t => t.upPeer x) hx (fun c hc u hu => ?_) (fun u hu => ?_)
    (fun c hc u _ hu => ?_) s h
  · obtain ⟨y, hy, hst⟩ := hu
    rw [count_run (hl c hc), State.upPeer, modPeer_peer counted_keepsPeer, hy]
    refine ⟨_, rfl, ?_⟩
    unfold onPeer
    split <;> exact hst
  · obtain ⟨y, hy, hst⟩ := hu
    rw [count_run (hl x hx)]
    exact ⟨_, modPeer_peer_same counted_keepsPeer hy, hst, rfl, rfl⟩
  · obtain ⟨y, hy, hst, hseen, hmissed⟩ := hu
    rw [count_run (hl c hc), State.countedPeer, modPeer_peer counted_keepsPeer, hy]
    refine ⟨_, rfl, ?_⟩
    unfold onPeer
    split
    · exact ⟨hst, rfl, rfl⟩
    · exact ⟨hst, hseen, hmissed⟩

theorem tick_answers (hr : s.running) (hseen : ∀ x ∈ s.fb.peers, x.st = 1 → x.seen = true) :
    Answers .heartbeatTick s fun t => t.ax ⟨.hbSeq, 0, 0⟩ = nextSeq32 (s.ax ⟨.hbSeq, 0, 0⟩) ∧
      (∃ l, t.out = l ++ s.out ∧ ∀ x ∈ s.fb.peers, s.lkUp x.port = true → s.isPaused x.port 0 = false →
        ∃ fr, Out.frame x.port (s.mac x.port fr.src) (s.tci 0) fr ∈ l ∧ fr.typ = 1 ∧ fr.dst = x.module_) ∧
      (∀ q m al x, s.peer q m al = some x → x.st = 1 →
        ∃ y, t.peer q m al = some y ∧ y.st = 1 ∧ y.seen = false ∧ y.missed = 0) ∧
      OnlyParts [.regs, .aux, .out, .fb] s t := by
  obtain ⟨hheld, htrip, hwedged⟩ := hr
  set ups := s.fb.peers.filter fun x => s.lkUp x.port
  set live := s.fb.peers.filter fun x => x.st = 1
  set s1 := (setAx ⟨.hbSeq, 0, 0⟩ (nextSeq32 s.hb)).run s
  have hset : (setAx ⟨.hbSeq, 0, 0⟩ (nextSeq32 s.hb)).Touches [] (fun _ => False) (fun a => a = ⟨.hbSeq, 0, 0⟩) := touches_setAx rfl
  have hbeat := beats_touches ups
  have hlive : ∀ x ∈ live, x.seen = true := fun x hx => by
    obtain ⟨hmem, hst⟩ := List.mem_filter.1 hx
    exact hseen x hmem (of_decide_eq_true hst)
  have hcount := counts_touches hlive
  have heq : effHeartbeatTick s = doAll [setAx ⟨.hbSeq, 0, 0⟩ (nextSeq32 s.hb), beats ups,
      whenE (fun s => !s.wedged) (counts live)] s := by
    rw [effHeartbeatTick, if_neg (by simp [hheld, htrip])]
    rfl
  have hw : ((beats ups).run s1).wedged = false := by
    have h1 : ((beats ups).run s1).on fWedged 0 = s1.on fWedged 0 := hbeat.on s1 (by decide)
    exact (h1.trans (hset.on s id)).trans hwedged
  have hrun : effHeartbeatTick.run s = (counts live).run ((beats ups).run s1) := by
    rw [run_congr heq, doAll_cons_run, doAll_cons_run, doAll_cons_run, doAll_nil_run, whenE_run, if_pos (by rw [hw]; rfl)]
  have hout : ((counts live).run ((beats ups).run s1)).out = ((beats ups).run s1).out := hcount.same _ .out (by simp) (by simp) (by simp)
  have hout1 : s1.out = s.out := rfl
  have hstart : s.beating s1 := ⟨hset.sameWire (fun _ _ h => h) (by simp) s, [], by rw [hout1]; rfl⟩
  have hpeers : ((beats ups).run s1).fb.peers = s.fb.peers := by
    rw [beats_datagrams ups s1]
    rfl
  obtain ⟨l, hl⟩ : ∃ l, ((beats ups).run s1).out = l ++ s.out := (forEach_keep (P := s.beating) (k := beat) (fun x _ u hu => by
      rw [beat_run]
      exact sendOn_beating hu) s1 hstart).2
  refine ⟨_, congrArg Host.Outcome.next hrun, ?_, ⟨l, hout.trans hl, fun x hx hup hfree => ?_⟩, fun q m al x hx hst => ?_, ?_⟩
  · rw [hcount.ax _ id, hbeat.ax _ id]
    simp [s1, State.hb]
  · obtain ⟨k, hk, h⟩ := beats_beaten (l := ups) (List.mem_filter.2 ⟨hx, hup⟩) hfree hstart
    rwa [List.append_cancel_right (hk.symm.trans hl)] at h
  · obtain ⟨rfl, rfl, rfl⟩ := peer_isPeer hx
    exact counts_counted hlive (List.mem_filter.2 ⟨peer_mem hx, decide_eq_true hst⟩) ⟨x, (peer_congr hpeers).trans hx, hst⟩
  · exact (hset.only s (by simp) (by simp) (by simp)).trans ((hbeat.only _ (by simp) (by simp) (by simp)).trans
      (hcount.only _ (by simp) (by simp) (by simp)))

/-! ## A heartbeat that comes -/

/-- What a heartbeat notes of its sender. -/
def noted (status pmode seq : Nat) (y : Peer) : Peer := { y with seen := true, lastHb := seq, pmode := pmode, wedged := status = 1 }

theorem noted_keepsPeer (status pmode seq : Nat) : KeepsPeer (noted status pmode seq) := fun _ => ⟨rfl, rfl, rfl⟩

/-- The first ACK of each class. -/
def firstAcks (q m : Nat) (al : Bool) : Eff := forEach [0, 1, 2, 3] fun c => sendAck q m al 2 c

theorem firstAcks_touches (q m : Nat) (al : Bool) :
    (firstAcks q m al).Touches [.out, .fb] (fun r => sendOff r.off = true) (fun _ => False) := touches_forEach fun _ _ => touches_sendAck

theorem firstAcks_datagrams (q m : Nat) (al : Bool) : (firstAcks q m al).Datagrams := datagrams_forEach fun _ _ => sendAck_datagrams

/-- A peer that goes UP, but for the partner. -/
def goesUp (q m : Nat) (al : Bool) : Eff := doAll [modPeer q m al (fun y => { y with st := 1, missed := 0, seen := true }),
  firstAcks q m al, evtLk q 4, pump q m al]

theorem goesUp_touches (q m : Nat) (al : Bool) : (goesUp q m al).Touches [.hi, .out, .fb]
    (fun r => sendOff r.off = true ∨ r = ⟨lkBlk q, lkInst q, offEvtStatus⟩) (fun _ => False) :=
  touches_doAll_cons (touches_modPeer (by simp)) (touches_doAll_cons
    ((firstAcks_touches q m al).mono (by simp) (fun _ h => .inl h) fun _ h => h)
    (touches_doAll_cons (touches_evtLk (.inr rfl) (by simp)) (touches_doAll_cons (touches_pump (fun _ _ h => .inl h) (by simp) (by simp))
    touches_doAll_nil)))

theorem goesUp_shows {x : Peer} (h : s.peer q m al = some x) : (∃ y, ((goesUp q m al).run s).peer q m al = some y ∧ y.st = 1 ∧
    y.lastHb = x.lastHb) ∧ ((goesUp q m al).run s).on (fEvt (lkBlk q) 4) (lkInst q) = true := by
  have hkeep : KeepsPeer fun y => { y with st := 1, missed := 0, seen := true } := fun _ => ⟨rfl, rfl, rfl⟩
  have hz := modPeer_peer_same hkeep h
  set s1 := (modPeer q m al fun y => { y with st := 1, missed := 0, seen := true }).run s
  have hevt : (evtLk q 4).Touches [.hi] (fun r => r.off = offEvtStatus) (fun _ => False) := touches_evtLk rfl (by simp)
  have hpump : (pump q m al).Touches [.out, .fb] (fun r => sendOff r.off = true) (fun _ => False) :=
    touches_pump (fun _ _ h => h) (by simp) (by simp)
  have hfb : ((evtLk q 4).run ((firstAcks q m al).run s1)).fb = ((firstAcks q m al).run s1).fb :=
    hevt.same _ .fb (by simp) (by simp) (by simp)
  have hbefore := (peer_congr (q := q) (m := m) (al := al) (t := (evtLk q 4).run ((firstAcks q m al).run s1)) (s := s1) (by
    rw [hfb, firstAcks_datagrams q m al s1])).trans hz
  have hrun : (goesUp q m al).run s = (pump q m al).run ((evtLk q 4).run ((firstAcks q m al).run s1)) := by
    rw [goesUp, doAll_cons_run, doAll_cons_run, doAll_cons_run, doAll_cons_run, doAll_nil_run]
  rw [hrun]
  exact ⟨⟨_, pump_peer hbefore, rfl, rfl⟩, (hpump.on _ (by simp [sendOff, fEvt, offEvtStatus])).trans (evtLk_on (by omega))⟩

theorem peerGoUp_run (hpart : q = 16 → s.get fPartnerState 0 ≠ 3) : (peerGoUp q m al).run s = (goesUp q m al).run s := by
  have heq : peerGoUp q m al s = doAll [modPeer q m al (fun y => { y with st := 1, missed := 0, seen := true }),
      firstAcks q m al, evtLk q 4, pump q m al, whenE (fun s => q = 16 && s.get fPartnerState 0 = 3 &&
        (s.boardPeer 16).any fun x => x.pmode = s.get fPmode 0) (doAll [setF fPartnerState 0 2, setEvt .crack 0 6])] s := rfl
  have hpage : ¬ (sendOff (0x138 : Nat) = true ∨ (⟨.crack, 0, 0x138⟩ : RK) = ⟨lkBlk q, lkInst q, offEvtStatus⟩) := by
    rcases lkBlk_fab_or_blink q with h | h <;> simp [sendOff, offEvtStatus]
  have hget : ((goesUp q m al).run s).get fPartnerState 0 = s.get fPartnerState 0 := (goesUp_touches q m al).get s hpage
  have hrun : (goesUp q m al).run s = (pump q m al).run ((evtLk q 4).run ((firstAcks q m al).run
      ((modPeer q m al fun y => { y with st := 1, missed := 0, seen := true }).run s))) := by
    rw [goesUp, doAll_cons_run, doAll_cons_run, doAll_cons_run, doAll_cons_run, doAll_nil_run]
  rw [run_congr heq, doAll_cons_run, doAll_cons_run, doAll_cons_run, doAll_cons_run, doAll_cons_run, doAll_nil_run, ← hrun, whenE_run,
    if_neg]
  rw [hget]
  by_cases h16 : q = 16
  · simp [hpart h16]
  · simp [h16]

/-- The entry of a module that is heard for the alias for the first time. -/
def aliasOpened (q : Nat) (w : InMsg) (hb : Nat) : Eff := whenE (fun s => w.alias_ && (s.peer q w.src true).isNone)
  (modFb fun b => { b with peers := b.peers ++ [{ port := q, module_ := w.src, alias_ := true, hbBase := hb }] })

section
variable {w : InMsg} {x : Peer} (hlive : s.fabLive = true) (hm : s.msgAt q 1 = some w) (h : s.peer q w.src w.alias_ = some x)
include hlive hm h

theorem heartbeat_run : (effHeartbeat q).run s =
    (heartbeatAt q w.src w.alias_ (w.num 0 1) (w.num 1 1) (w.num 2 1) (w.num 4 4) (w.num 8 4)).run ((takeMsg w).run s) := by
  have hp : ((takeMsg w).run s).peer q w.src w.alias_ = some x := h
  have hknown : (w.alias_ && (((takeMsg w).run s).peer q w.src true).isNone) = false := by
    cases hal : w.alias_ with
    | false => rfl
    | true => rw [hal] at hp; rw [hp]; rfl
  have hrun : (effHeartbeat q).run s = (doAll [aliasOpened q w s.hb, heartbeatAt q w.src w.alias_ (w.num 0 1) (w.num 1 1) (w.num 2 1)
      (w.num 4 4) (w.num 8 4)]).run ((takeMsg w).run s) := (withMsg_live hlive hm).trans (run_congr rfl)
  rw [hrun, doAll_cons_run, doAll_cons_run, doAll_nil_run, aliasOpened, whenE_run, hknown]
  rfl

variable (hup : s.lkUp q = true)
include hup

theorem firstHeartbeat_answers (hpart : q = 16 → s.get fPartnerState 0 ≠ 3) (hst : x.st = 0) (he : w.num 8 4 ≠ 0)
    (h1 : 1 ≤ sub32 (w.num 8 4) x.hbBase) (h2 : sub32 (w.num 8 4) x.hbBase ≤ sub32 (s.ax ⟨.hbSeq, 0, 0⟩) x.hbBase) :
    Answers (.heartbeat q) s fun t => (∃ y, t.peer q w.src w.alias_ = some y ∧ y.st = 1 ∧ y.lastHb = w.num 4 4) ∧
        t.on (fEvt (lkBlk q) 4) (lkInst q) = true ∧ OnlyParts [.regs, .hi, .out, .fb] s t := by
  have hp : ((takeMsg w).run s).peer q w.src w.alias_ = some x := h
  have hu : ((takeMsg w).run s).lkUp q = true := hup
  have hb : ((takeMsg w).run s).hb = s.ax ⟨.hbSeq, 0, 0⟩ := rfl
  have heq : heartbeatAt q w.src w.alias_ (w.num 0 1) (w.num 1 1) (w.num 2 1) (w.num 4 4) (w.num 8 4) ((takeMsg w).run s) =
      doAll [modPeer q w.src w.alias_ (noted (w.num 0 1) (w.num 1 1) (w.num 4 4)), peerGoUp q w.src w.alias_] ((takeMsg w).run s) := by
    rw [heartbeatAt, hp]
    dsimp only
    rw [if_neg (by simp [hu]), if_pos hst, if_pos ⟨he, h1, by rw [hb]; exact h2⟩]
    rfl
  have hnote : (modPeer q w.src w.alias_ (noted (w.num 0 1) (w.num 1 1) (w.num 4 4))).Touches [.fb] (fun _ => False) (fun _ => False) :=
    touches_modPeer (by simp)
  have hp3 : q = 16 → ((modPeer q w.src w.alias_ (noted (w.num 0 1) (w.num 1 1) (w.num 4 4))).run ((takeMsg w).run s)).get
    fPartnerState 0 ≠ 3 := hpart
  have hrun := (heartbeat_run hlive hm h).trans (run_congr heq)
  rw [doAll_cons_run, doAll_cons_run, doAll_nil_run, peerGoUp_run hp3] at hrun
  obtain ⟨⟨y, hy, hyst, hyseq⟩, hevt⟩ := goesUp_shows (modPeer_peer_same (noted_keepsPeer (w.num 0 1) (w.num 1 1) (w.num 4 4)) hp)
  exact ⟨_, congrArg Host.Outcome.next hrun, ⟨y, hy, hyst, hyseq⟩, hevt, ((takeMsg_touches w).only _ (by simp) (by simp) (by simp)).trans
    ((hnote.only _ (by simp) (by simp) (by simp)).trans ((goesUp_touches _ _ _).only _ (by simp) (by simp) (by simp)))⟩

theorem peerBack_answers (hst : x.st = 2) (hw : w.num 0 1 ≠ 1) : Answers (.heartbeat q) s fun t =>
      (∃ y, t.peer q w.src w.alias_ = some y ∧ y.st = 0 ∧ y.frames = [] ∧ y.hbBase = s.ax ⟨.hbSeq, 0, 0⟩) ∧
      OnlyParts [.fb] s t := by
  have hp : ((takeMsg w).run s).peer q w.src w.alias_ = some x := h
  have hu : ((takeMsg w).run s).lkUp q = true := hup
  have heq : heartbeatAt q w.src w.alias_ (w.num 0 1) (w.num 1 1) (w.num 2 1) (w.num 4 4) (w.num 8 4) ((takeMsg w).run s) =
      doAll [modPeer q w.src w.alias_ (noted (w.num 0 1) (w.num 1 1) (w.num 4 4)),
        doAll [modPeer q w.src w.alias_ (fun y => y.fresh 0 s.hb),
          modFb (fun b => { b with held := b.held.filter fun v => !(v.port = q && v.src = w.src) })]] ((takeMsg w).run s) := by
    rw [heartbeatAt, hp]
    dsimp only
    rw [if_neg (by simp [hu]), if_neg (by omega), if_neg (by omega), if_pos hw]
    rfl
  have hmod (f : Peer → Peer) : (modPeer q w.src w.alias_ f).Touches [.fb] (fun _ => False) (fun _ => False) := touches_modPeer (by simp)
  have hheld (f : FabSt → FabSt) : (modFb f).Touches [.fb] (fun _ => False) (fun _ => False) := touches_modFb (by simp)
  have hrun := (heartbeat_run hlive hm h).trans (run_congr heq)
  rw [doAll_cons_run, doAll_cons_run, doAll_nil_run, doAll_cons_run, doAll_cons_run, doAll_nil_run] at hrun
  have hy := modPeer_peer_same (fresh_keepsPeer 0 fun _ => s.hb) (modPeer_peer_same (noted_keepsPeer (w.num 0 1) (w.num 1 1) (w.num 4 4)) hp)
  exact ⟨_, congrArg Host.Outcome.next hrun, ⟨_, hy, rfl, rfl, rfl⟩, ((takeMsg_touches w).only _ (by simp) (by simp) (by simp)).trans
    (((hmod _).only _ (by simp) (by simp) (by simp)).trans (((hmod _).only _ (by simp) (by simp) (by simp)).trans
    ((hheld _).only _ (by simp) (by simp) (by simp))))⟩

end

/-- Settles O41: frames that pass every check, ACK and NAK, a deadline, the heartbeat tick, and a heartbeat to a peer in SYNC or DOWN. -/
theorem framesAndHeartbeatsKeepPeers : Obligations.FramesAndHeartbeatsKeepPeers := by
  unfold Obligations.FramesAndHeartbeatsKeepPeers
  refine ⟨fun s q fr hq hlive hup hfcs hhdr he2e => ⟨fun hseqd ht hb => ?_, fun x hseqd ht hx hst hstale hseq hfull hlast hb => ?_⟩,
    fun s q w x => ?_, fun s q m cls x hlive hx hother hst hsent => ⟨fun hr => ?_, fun hr hq hb hs => ?_⟩,
    fun s hr hseen => tick_answers hr hseen, fun s q w x hlive hm hx hpart hup => ⟨fun hst he h1 h2 => ?_, fun hst hw => ?_⟩⟩
  · exact datagram_answers hq hlive hup hfcs hhdr he2e hseqd ht hb
  · exact sequenced_answers hq hlive hup hfcs hhdr he2e hseqd ht hx hst hstale hseq hfull hlast hb
  · exact fun hlive hx hst hcls hd => ⟨ack_answers hlive hx hst hcls hd, nak_answers hlive hx hst hcls hd⟩
  · exact retry_answers hx hst hsent hlive hother hr
  · exact lastRetry_answers hlive hx hother hst hsent hr hq ⟨hb, hs⟩
  · exact firstHeartbeat_answers hlive hm hx hup hpart hst he h1 h2
  · exact peerBack_answers hlive hm hx hup hst hw

end Sys2Proof.Machine
end

section
/-! PROOFS. Records and segments received (chapters 11 and 14, R289, R320, R326, R376, R391). -/

namespace Sys2Proof.Machine

variable {s : State} {q j n : Nat}

/-! ## What is read of the store -/

/-- An effect that leaves the store and its units alone leaves every byte that is read of it. -/
theorem Eff.Touches.stRd {e : Eff} {ps : List Component} {R : RK → Prop} {A : Aux → Prop} (he : e.Touches ps R A)
    (hp : Component.store ∉ ps) (hR : ∀ p, ¬ R ⟨.slip, p, 0x108⟩) (s : State) : (e.run s).stRd = s.stRd := by
  have hunits (p : Nat) : (e.run s).get fUnits p = s.get fUnits p := he.get s (hR p)
  obtain ⟨hst, hfill⟩ := he.same s .store hp (by simp) (by simp)
  funext a
  have hpop : (e.run s).populated a = s.populated a := by
    unfold State.populated State.usable
    rw [hunits]
  rw [State.stRd, State.stRd, hpop, hst, hfill]

section
variable {t : State} (h : t.stRd = s.stRd)
include h

theorem stNum_congr : t.stNum = s.stNum := by
  funext a w
  simp only [State.stNum, State.stRds, h]

theorem planAt_congr (a : Nat) : ∀ k, t.planAt a k = s.planAt a k
  | 0 => rfl
  | k + 1 => by rw [State.planAt, State.planAt, planAt_congr a k, stNum_congr h]

theorem stageMembers_congr (b : Bkt) : t.stageMembers b = s.stageMembers b := by
  funext k
  simp only [State.stageMembers, State.bktPlan, State.planBlock, planAt_congr h, stNum_congr h]

theorem groupProd_congr (b : Bkt) : t.groupProd b = s.groupProd b := by
  funext k
  simp only [State.groupProd, stageMembers_congr h]

theorem stageBad_congr (b : Bkt) (r : Rec) : t.stageBad b r = s.stageBad b r := by
  simp only [State.stageBad, stageMembers_congr h]

theorem bktRecordErr_congr (hself : t.self = s.self) (b : Bkt) (r : Rec) : t.recordErr b r = s.recordErr b r := by
  have hown (k : Nat) : t.ownMember b k = s.ownMember b k := by
    rw [State.ownMember, State.ownMember, stageMembers_congr h, hself]
  have hfmt (k : Nat) : t.stageFmt b k = s.stageFmt b k := by
    rw [State.stageFmt, State.stageFmt, groupProd_congr h]
  unfold State.recordErr
  rw [hown, hfmt, groupProd_congr h]

end

/-! ## Buckets -/

theorem putBkt_bkt {b b' : Bkt} {i : Nat} (h : s.bkt j i = some b) (hj : b'.job = b.job) (hi : b'.id = b.id) :
    ((putBkt b').run s).bkt j i = some b' := by
  have hkey : b.job = j ∧ b.id = i := by simpa using List.find?_some h
  have hput : ((putBkt b').run s).pg.buckets = s.pg.buckets.map fun x => if x.job = b'.job && x.id = b'.id then b' else x := rfl
  have hsame : ((fun x : Bkt => x.job = j && x.id = i) ∘ fun x => if x.job = b'.job && x.id = b'.id then b' else x) =
      fun x => x.job = j && x.id = i := by
    funext x
    simp only [Function.comp_apply]
    split
    · rename_i hx
      simp only [Bool.and_eq_true, decide_eq_true_eq] at hx
      rw [hx.1, hx.2]
    · rfl
  unfold State.bkt at h ⊢
  rw [hput, List.find?_map, hsame, h, Option.map_some, if_pos (by simp [hj, hi])]

/-- The bytes of a record counted while STAT_EN. -/
def recordCounted (u w : Nat) : Eff := whenE (fun s => s.on fPugStat u) (addSat fBytesIn u w)

theorem recordCounted_touches (u w : Nat) : (recordCounted u w).Touches [] (fun r => r.blk = .pug) (fun _ => False) :=
  touches_whenE (touches_addSat rfl)

/-- A record that fits its bucket's present stage is added to the bucket. -/
theorem takeRecord_run {r : Rec} {b : Bkt} (hstep : r.step = s.ax ⟨.stepNo, r.job, 0⟩) (hopen : s.ax ⟨.stepOpen, r.job, 0⟩ ≠ 0)
    (hb : s.bkt r.job r.bucket = some b) (hst : b.state = 2) (hbad : s.stageBad b r = false) (hstage : r.stage = b.stage)
    (hsrc : r.src ∉ b.from_) (herr : s.recordErr b r = none) : (takeRecord r).run s =
      (putBkt (b.add r)).run ((recordCounted b.chan (48 + r.codes.length * fmtWidth r.fmt)).run s) := by
  have heq : takeRecord r s = doAll [recordCounted b.chan (48 + r.codes.length * fmtWidth r.fmt), putBkt (b.add r)] s := by
    rw [takeRecord]
    simp only [hb]
    rw [if_neg (by omega), if_neg (by simp [hopen, hstep]), if_neg (by omega), if_neg (by simp [hbad]), if_neg (by simp [hst, hstage, hsrc]),
      herr]
    rfl
  rw [run_congr heq, doAll_cons_run, doAll_cons_run, doAll_nil_run]

section
variable {m : InMsg} (hlive : s.fabLive = true) (hm : s.fb.inbox.find? (fun x => x.port = q && x.typ = 0x10 &&
  s.recordWhen (Rec.parse x.data) ≠ 1) = some m)
include hlive hm

theorem recordHeld_answers (hnext : s.isNext m = true) : Answers (.record q) s fun t =>
      t.fb = { s.fb with inbox := s.fb.inbox.erase m, held := s.fb.held ++ [m] } ∧ OnlyParts [.regs, .fb] s t := by
  have hcount (c : Nat) : (addSat fPugHeld c 1).Touches [] (fun _ => True) (fun _ => False) := touches_addSat trivial
  have hhold : (modFb fun b => { b with held := b.held ++ [m] }).Touches [.fb] (fun _ => False) (fun _ => False) := touches_modFb (by simp)
  have heq : effRecord q s = doAll [takeMsg m, modFb (fun b => { b with held := b.held ++ [m] }),
      addSat fPugHeld ((s.bkt (Rec.parse m.data).job (Rec.parse m.data).bucket).elim (s.jobPug (Rec.parse m.data).job)
        fun b => b.chan) 1] s := by
    rw [effRecord, if_neg (by simp [hlive]), hm]
    exact if_pos hnext
  have hrun := run_congr heq
  rw [doAll_cons_run, doAll_cons_run, doAll_cons_run, doAll_nil_run] at hrun
  refine ⟨_, congrArg Host.Outcome.next hrun, ((hcount _).same _ .fb (by simp) (by simp) (by simp) : _ = _),
    ((takeMsg_touches m).only _ (by simp) (by simp) (by simp)).trans ((hhold.only _ (by simp) (by simp) (by simp)).trans
    ((hcount _).only _ (by simp) (by simp) (by simp)))⟩

theorem recordAdded_answers {b : Bkt} (hnext : s.isNext m = false)
    (hstep : (Rec.parse m.data).step = s.ax ⟨.stepNo, (Rec.parse m.data).job, 0⟩)
    (hopen : s.ax ⟨.stepOpen, (Rec.parse m.data).job, 0⟩ ≠ 0)
    (hb : s.bkt (Rec.parse m.data).job (Rec.parse m.data).bucket = some b) (hst : b.state = 2)
    (hbad : s.stageBad b (Rec.parse m.data) = false) (hstage : (Rec.parse m.data).stage = b.stage)
    (hsrc : (Rec.parse m.data).src ∉ b.from_) (herr : s.recordErr b (Rec.parse m.data) = none) :
    Answers (.record q) s fun t => t.bkt (Rec.parse m.data).job (Rec.parse m.data).bucket = some (b.add (Rec.parse m.data)) ∧
      OnlyParts [.regs, .fb, .pg] s t := by
  have heq : effRecord q s = doAll [takeMsg m, takeRecord (Rec.parse m.data)] s := by
    rw [effRecord, if_neg (by simp [hlive]), hm]
    exact if_neg (by simp [hnext])
  have hrd : ((takeMsg m).run s).stRd = s.stRd := (takeMsg_touches m).stRd (by simp) (by simp) s
  have hrun := run_congr heq
  rw [doAll_cons_run, doAll_cons_run, doAll_nil_run, takeRecord_run (s := (takeMsg m).run s) hstep hopen hb hst
    ((stageBad_congr hrd _ _).trans hbad) hstage hsrc ((bktRecordErr_congr hrd rfl _ _).trans herr)] at hrun
  have hcount := recordCounted_touches b.chan (48 + (Rec.parse m.data).codes.length * fmtWidth (Rec.parse m.data).fmt)
  have hput : (putBkt (b.add (Rec.parse m.data))).Touches [.pg] (fun _ => False) (fun _ => False) := touches_modPg (by simp)
  have hpg := hcount.same ((takeMsg m).run s) .pg (by simp) (by simp) (by simp)
  refine ⟨_, congrArg Host.Outcome.next hrun, putBkt_bkt (b := b) ?_ rfl rfl, ((takeMsg_touches m).only _ (by simp) (by simp) (by simp)).trans
    ((hcount.only _ (by simp) (by simp) (by simp)).trans (hput.only _ (by simp) (by simp) (by simp)))⟩
  rw [← hb]
  exact congrArg (fun g : PugSt => g.buckets.find? fun x => x.job = (Rec.parse m.data).job && x.id = (Rec.parse m.data).bucket) hpg

end

/-! ## Segment requests -/

theorem segReq_answers {m : InMsg} (hlive : s.fabLive = true) (hm : s.msgAt q 0x20 = some m) :
    Answers (.segReq q) s fun t => t.fb.inbox = s.fb.inbox.erase m ∧
      (∃ v, t.fb.serves = s.fb.serves ++ [v] ∧ v.port = q ∧ v.src = m.src ∧ v.tag = m.num 0 2 ∧ v.stack = m.num 2 1 % 64 ∧
        v.off = m.num 8 8 % 2 ^ 40 ∧ v.len = m.num 4 4) ∧ OnlyParts [.fb] s t := by
  have hmod (f : FabSt → FabSt) : (modFb f).Touches [.fb] (fun _ => False) (fun _ => False) := touches_modFb (by simp)
  exact ⟨_, congrArg Host.Outcome.next (withMsg_live hlive hm), rfl, ⟨_, rfl, rfl, rfl, rfl, rfl, rfl, rfl⟩,
    ((takeMsg_touches m).only _ (by simp) (by simp) (by simp)).trans ((hmod _).only _ (by simp) (by simp) (by simp))⟩

/-- The frames of a message on a peer's queue. -/
theorem sendMsg_peer {m typ cls : Nat} {al : Bool} {data : List Byte} {x : Peer} (h : s.peer q m al = some x) :
    ∃ y, ((sendMsg q m al cls typ data).run s).peer q m al = some y ∧
      y.frames.length = x.frames.length + (fragments (data.length / 4096 + 1) 0 data).length := by
  have hkeep (c : Chan) (l : List SentFrame) : KeepsPeer fun y => { y.setChan cls c with frames := y.frames ++ l } := fun y =>
    setChan_keepsPeer cls c y
  have hrun : ∃ c l, l.length = (fragments (data.length / 4096 + 1) 0 data).length ∧ (sendMsg q m al cls typ data).run s =
      (pump q m al).run ((modPeer q m al fun y => { y.setChan cls c with frames := y.frames ++ l }).run s) := by
    refine ⟨_, _, ?_, (run_congr (by rw [sendMsg, h])).trans (by rw [doAll_cons_run, doAll_cons_run, doAll_nil_run])⟩
    rw [List.length_map, List.length_zipIdx]
  obtain ⟨c, l, hl, hrun⟩ := hrun
  rw [hrun, pump_peer (modPeer_peer_same (hkeep c l) h)]
  refine ⟨_, rfl, ?_⟩
  rw [State.pumped]
  dsimp only
  rw [List.length_map, List.length_append, hl]

theorem sendMsg_fb {m typ cls : Nat} {al : Bool} {data : List Byte} :
    (sendMsg q m al cls typ data).Keeps fun s => (s.fb.serves, s.fb.inbox, s.fb.held) := fun s => by
  cases h : s.peer q m al with
  | none => rw [run_congr (f := skip) (by rw [sendMsg, h]; rfl), skip_run]
  | some x =>
    have hkeep (c : Chan) (l : List SentFrame) : KeepsPeer fun y => { y.setChan cls c with frames := y.frames ++ l } := fun y =>
      setChan_keepsPeer cls c y
    have hrun : ∃ c l, (sendMsg q m al cls typ data).run s =
        (pump q m al).run ((modPeer q m al fun y => { y.setChan cls c with frames := y.frames ++ l }).run s) :=
      ⟨_, _, (run_congr (by rw [sendMsg, h])).trans (by rw [doAll_cons_run, doAll_cons_run, doAll_nil_run])⟩
    obtain ⟨c, l, hrun⟩ := hrun
    dsimp only
    rw [hrun, pump_fb (modPeer_peer_same (hkeep c l) h)]
    rfl

/-- The request served first is busy, with the slot it reads. -/
def serveBusy (v : Serve) (k : Nat) : Eff := modFb fun b =>
  { b with serves := b.serves.map fun x => if x = v then { v with busy := true, slot := k } else x }

theorem serveStart_answers {v : Serve} {x : Peer} (hlive : s.fabLive = true)
    (hn : (s.fb.serves.filter fun y => y.port = q && y.busy).length < 64)
    (hv : s.fb.serves.find? (fun y => y.port = q && !y.busy) = some v) (hal : v.alias_ = false) (hst : v.stack < 48)
    (hsize : genData + v.off + v.len ≤ s.regionSize v.stack 0) (hvalid : s.on (fGenValid 0) v.stack = true)
    (hbad : s.badBursts (s.genAddr v.stack 0 (s.get (fCgen 0) v.stack) v.off) v.len = []) (hx : s.peer q v.src false = some x) :
    Answers (.segServeStart q) s fun t =>
      t.fb.serves = s.fb.serves.map (fun y => if y = v then { v with busy := true, slot := s.get (fCgen 0) v.stack } else y) ∧
      (∃ y, t.peer q v.src false = some y ∧ y.frames.length = x.frames.length +
        (fragments ((leBytes 2 v.tag ++ leBytes 1 0 ++ leBytes 1 0 ++ (leBytes 4 (s.get (fGenVer 0) v.stack) ++
          leBytes 2 (s.get (fGenAlt 0) v.stack)) ++ leBytes 6 0 ++
          s.stRds (s.genAddr v.stack 0 (s.get (fCgen 0) v.stack) v.off) v.len).length / 4096 + 1) 0
          (leBytes 2 v.tag ++ leBytes 1 0 ++ leBytes 1 0 ++ (leBytes 4 (s.get (fGenVer 0) v.stack) ++
          leBytes 2 (s.get (fGenAlt 0) v.stack)) ++ leBytes 6 0 ++
          s.stRds (s.genAddr v.stack 0 (s.get (fCgen 0) v.stack) v.off) v.len)).length) ∧
      OnlyParts [.regs, .fb, .out] s t := by
  set k := s.get (fCgen 0) v.stack
  set d := leBytes 2 v.tag ++ leBytes 1 0 ++ leBytes 1 0 ++ (leBytes 4 (s.get (fGenVer 0) v.stack) ++
    leBytes 2 (s.get (fGenAlt 0) v.stack)) ++ leBytes 6 0 ++ s.stRds (s.genAddr v.stack 0 k v.off) v.len with hd
  have hg : (if v.alias_ = true then 1 else 0) = 0 := by rw [hal]; rfl
  have heq : effSegServeStart q s = doAll [serveBusy v k, countBytes fBytesRd (s.genAddr v.stack 0 k v.off) v.len,
      sendMsg q v.src v.alias_ 2 0x21 d] s := by
    rw [effSegServeStart, if_neg (by simp only [hlive]; simpa using hn), hv]
    dsimp only
    rw [hg, if_neg (by simp only [Nat.mul_zero]; omega), if_neg (by simp [hvalid]), if_neg (by simpa using hbad)]
    rfl
  have hrun := run_congr heq
  rw [doAll_cons_run, doAll_cons_run, doAll_cons_run, doAll_nil_run] at hrun
  have hx' : s.peer q v.src v.alias_ = some x := by rw [hal]; exact hx
  have hcount := countBytes_touches fBytesRd (s.genAddr v.stack 0 k v.off) v.len
  have hbusy : (serveBusy v k).Touches [.fb] (fun _ => False) (fun _ => False) := touches_modFb (by simp)
  have hsend : (sendMsg q v.src v.alias_ 2 0x21 d).Touches [.out, .fb] (fun r => sendOff r.off = true) (fun _ => False) :=
    touches_sendMsg (fun _ _ h => h) (by simp) (by simp)
  have hfb := hcount.same ((serveBusy v k).run s) .fb (by simp) (by simp) (by simp)
  have hpeer : ((countBytes fBytesRd (s.genAddr v.stack 0 k v.off) v.len).run ((serveBusy v k).run s)).peer q v.src v.alias_ = some x :=
    (peer_congr (congrArg FabSt.peers (hfb : _ = _))).trans hx'
  obtain ⟨y, hy, hlen⟩ := sendMsg_peer (typ := 0x21) (cls := 2) (data := d) hpeer
  refine ⟨_, congrArg Host.Outcome.next hrun, ?_, ⟨y, (congrArg _ hal.symm).trans hy, hlen⟩, (hbusy.only _ (by simp) (by simp) (by simp)).trans
    ((hcount.only _ (by simp) (by simp) (by simp)).trans (hsend.only _ (by simp) (by simp) (by simp)))⟩
  exact (congrArg Prod.fst (sendMsg_fb _)).trans (congrArg FabSt.serves (hfb : _ = _))

theorem serveDone_answers {i : Nat} {v : Serve} (hv : (s.fb.serves.filter fun y => y.port = q && y.busy)[i]? = some v)
    (hsent : ∀ x, s.peer q v.src v.alias_ = some x → ∀ f ∈ x.frames, f.fr.typ = 0x21 → f.ref % 65536 = v.tag → f.sent = true) :
    Answers (.segServeDone q i) s fun t => t.fb = { s.fb with serves := s.fb.serves.erase v } ∧ OnlyParts [.fb] s t := by
  have hnone : ((s.peer q v.src v.alias_).any fun x => x.frames.any fun f => f.fr.typ = 0x21 && f.ref % 65536 = v.tag && !f.sent) = false := by
    cases hx : s.peer q v.src v.alias_ with
    | none => rfl
    | some x =>
      rw [Option.any_some, List.any_eq_false]
      intro f hf
      simp only [Bool.and_eq_true, decide_eq_true_eq, Bool.not_eq_true', not_and, Bool.not_eq_false]
      exact fun h => hsent x hx f hf h.1 h.2
  have heq : effSegServeDone q i s = modFb (fun b => { b with serves := b.serves.erase v }) s := by
    rw [effSegServeDone, hv]
    exact if_neg (by rw [hnone]; decide)
  have hmod (f : FabSt → FabSt) : (modFb f).Touches [.fb] (fun _ => False) (fun _ => False) := touches_modFb (by simp)
  exact ⟨_, congrArg Host.Outcome.next (run_congr heq), rfl, (hmod _).only _ (by simp) (by simp) (by simp)⟩

/-! ## Segments that come -/

/-- No segment of a port waits for a tag. -/
def State.noneWaits (s : State) (p : Nat) : Prop := ∀ x ∈ s.sl.segs, x.port = p → x.st = 0 → x.path = 2

theorem segRetry_idle {p : Nat} (h : s.noneWaits p) : (segRetry p).run s = s := by
  have hnil : s.sl.segs.filter (fun g => g.port = p && g.st = 0 && g.path ≠ 2) = [] := List.filter_eq_nil_iff.2 fun g hg => by
    simp only [Bool.and_eq_true, decide_eq_true_eq, not_and, not_not]
    exact fun h' => h g hg h'.1 h'.2
  have heq : segRetry p s = forEach [] segAsk s := by rw [segRetry, hnil]
  rw [run_congr heq, forEach_nil_run]

theorem noneWaits_map {p : Nat} {f : Seg → Seg} (h : s.noneWaits p) (hf : ∀ g, f g = g ∨ (f g).st ≠ 0) {t : State}
    (ht : t.sl.segs = s.sl.segs.map f) : t.noneWaits p := by
  intro x hx hp hst
  rw [ht, List.mem_map] at hx
  obtain ⟨g, hg, rfl⟩ := hx
  rcases hf g with heq | hne
  · rw [heq] at hp hst ⊢
    exact h g hg hp hst
  · exact absurd hst hne

/-- A segment in its place, with its version. -/
def segPlaced (p w seg ver alt : Nat) : Eff := modSl fun l => { l with segs := l.segs.map fun g =>
  if g.port = p && g.w = w && g.seg = seg then { g with st := 2, ver := ver, alt := alt } else g }

theorem segArrived_run (s : State) (p w seg ver alt : Nat) : (segArrived p w seg ver alt).run s =
    (whenE (fun s => (s.winSegs p w).all fun g => g.st = 2) (setF (fWinState w) p 2)).run
      ((setF (fWinDone w) p (s.get (fWinDone w) p + 1)).run ((segPlaced p w seg ver alt).run s)) := by
  have heq : segArrived p w seg ver alt s = doAll [segPlaced p w seg ver alt, setF (fWinDone w) p (s.get (fWinDone w) p + 1),
      whenE (fun s => (s.winSegs p w).all fun g => g.st = 2) (setF (fWinState w) p 2)] s := rfl
  rw [run_congr heq, doAll_cons_run, doAll_cons_run, doAll_cons_run, doAll_nil_run]

theorem segArrived_touches (p w seg ver alt : Nat) : (segArrived p w seg ver alt).Touches [.sl] (fun _ => True) (fun _ => False) :=
  touches_of (fun s => doAll [segPlaced p w seg ver alt, setF (fWinDone w) p (s.get (fWinDone w) p + 1),
      whenE (fun s => (s.winSegs p w).all fun g => g.st = 2) (setF (fWinState w) p 2)]) (fun _ => rfl) fun _ =>
    touches_doAll_cons (touches_modSl (by simp)) (touches_doAll_cons (touches_setF trivial) (touches_doAll_cons
      (touches_whenE (touches_setF trivial)) touches_doAll_nil))

theorem segArrived_shows (s : State) (p w seg ver alt : Nat) :
    ((segArrived p w seg ver alt).run s).sl = ((segPlaced p w seg ver alt).run s).sl ∧
    ((∀ x ∈ ((segArrived p w seg ver alt).run s).winSegs p w, x.st = 2) →
      ((segArrived p w seg ver alt).run s).get (fWinState w) p = 2) := by
  have hdone : (setF (fWinDone w) p (s.get (fWinDone w) p + 1)).Touches [] (fun _ => True) (fun _ => False) := touches_setF trivial
  have hready : (whenE (fun s => (s.winSegs p w).all fun g => g.st = 2) (setF (fWinState w) p 2)).Touches [] (fun _ => True)
    (fun _ => False) := touches_whenE (touches_setF trivial)
  rw [segArrived_run]
  set u := (setF (fWinDone w) p (s.get (fWinDone w) p + 1)).run ((segPlaced p w seg ver alt).run s)
  have hsl : ((whenE (fun s => (s.winSegs p w).all fun g => g.st = 2) (setF (fWinState w) p 2)).run u).sl = u.sl :=
    hready.same u .sl (by simp) (by simp) (by simp)
  refine ⟨hsl.trans (hdone.same _ .sl (by simp) (by simp) (by simp)), fun hall => ?_⟩
  have hsegs : ((whenE (fun s => (s.winSegs p w).all fun g => g.st = 2) (setF (fWinState w) p 2)).run u).winSegs p w =
      u.winSegs p w := by rw [State.winSegs, hsl, State.winSegs]
  rw [hsegs] at hall
  rw [whenE_run, if_pos (by simpa using hall), get_setF_same (by simp [fWinState])]
  simp [fWinState]

theorem badPart_of_storeWrErr {a w : Nat} (h : s.storeWrErr a w = none) : s.badPart a w = false := by
  unfold State.storeWrErr at h
  split at h
  · exact absurd h (by simp)
  · by_contra hb
    rw [if_pos (by simpa using hb)] at h
    exact absurd h (by simp)

/-- A segment's data put in its place in the window. -/
def segStored (a : Nat) (data : List Byte) (g : Seg) (ver alt : Nat) : Eff :=
  doAll [storePut a data, countBytes fBytesWr a data.length, segArrived g.port g.w g.seg ver alt]

theorem segData_answers {m : InMsg} {g : Seg} (hlive : s.fabLive = true) (hm : s.msgAt q 0x21 = some m)
    (hg : s.sl.segs.find? (fun g => g.st = 1 && g.tag = m.num 0 2 && g.module_ = m.src && planPort g.path g.link = q) = some g)
    (hw : s.get (fWinState g.w) g.port = 1) (hidle : s.noneWaits g.port) (hcode : m.num 2 1 = 0)
    (herr : s.storeWrErr (s.winAddr g.port g.w (g.woff * 64)) (m.data.drop 16).length = none) :
    Answers (.segData q) s fun t =>
      (∀ i (h : i < (m.data.drop 16).length), t.storeByte (s.winAddr g.port g.w (g.woff * 64) + i) = (m.data.drop 16)[i]) ∧
      t.sl = { s.sl with segs := s.sl.segs.map fun x => if x.port = g.port && x.w = g.w && x.seg = g.seg
        then { x with st := 2, ver := m.num 4 4, alt := m.num 8 2 } else x } ∧
      ((∀ x ∈ t.winSegs g.port g.w, x.st = 2) → t.get (fWinState g.w) g.port = 2) ∧
      OnlyParts [.regs, .fb, .sl, .store, .bad, .rm] s t := by
  set a := s.winAddr g.port g.w (g.woff * 64)
  set data := m.data.drop 16
  set s1 := (takeMsg m).run s with hs1
  have hg1 : s1.sl.segs.find? (fun g => g.st = 1 && g.tag = m.num 0 2 && g.module_ = m.src && planPort g.path g.link = q) = some g := hg
  have hw1 : ¬ s1.get (fWinState g.w) g.port ≠ 1 := not_not.2 hw
  have herr1 : s1.storeWrErr (s1.winAddr g.port g.w (g.woff * 64)) data.length = none := herr
  have hrun : (effSegData q).run s = (doAll [segStored a data g (m.num 4 4) (m.num 8 2), segRetry g.port]).run s1 := by
    refine (withMsg_live hlive hm).trans (run_congr ?_)
    dsimp only
    rw [hg1]
    dsimp only
    rw [if_neg hw1, if_neg (not_not.2 hcode), herr1]
    rfl
  have hput := storePut_touches a data
  have hcount := countBytes_touches fBytesWr a data.length
  have harr := segArrived_touches g.port g.w g.seg (m.num 4 4) (m.num 8 2)
  set s3 := (countBytes fBytesWr a data.length).run ((storePut a data).run s1)
  have hsl3 : s3.sl = s.sl := (hcount.same _ .sl (by simp) (by simp) (by simp) : _ = _).trans
    (hput.same _ .sl (by simp) (by simp) (by simp))
  obtain ⟨hsl, hready⟩ := segArrived_shows s3 g.port g.w g.seg (m.num 4 4) (m.num 8 2)
  have hplaced : ((segPlaced g.port g.w g.seg (m.num 4 4) (m.num 8 2)).run s3).sl = { s3.sl with segs := s3.sl.segs.map fun x =>
    if x.port = g.port && x.w = g.w && x.seg = g.seg then { x with st := 2, ver := m.num 4 4, alt := m.num 8 2 } else x } := rfl
  rw [hsl3] at hplaced
  have hstored : (segStored a data g (m.num 4 4) (m.num 8 2)).run s1 = (segArrived g.port g.w g.seg (m.num 4 4) (m.num 8 2)).run s3 := by
    rw [segStored, doAll_cons_run, doAll_cons_run, doAll_cons_run, doAll_nil_run]
  have hretry : (segRetry g.port).run ((segStored a data g (m.num 4 4) (m.num 8 2)).run s1) =
      (segArrived g.port g.w g.seg (m.num 4 4) (m.num 8 2)).run s3 := by
    rw [hstored]
    refine segRetry_idle (noneWaits_map hidle (f := fun x => if x.port = g.port && x.w = g.w && x.seg = g.seg
      then { x with st := 2, ver := m.num 4 4, alt := m.num 8 2 } else x) (fun x => ?_) (by rw [hsl, hplaced]))
    split
    · exact .inr (Nat.succ_ne_zero _)
    · exact .inl rfl
  rw [doAll_cons_run, doAll_cons_run, doAll_nil_run, hretry] at hrun
  refine ⟨_, congrArg Host.Outcome.next hrun, fun i hi => ?_, hsl.trans hplaced, hready,
    ((takeMsg_touches m).only _ (by simp) (by simp) (by simp)).trans ((hput.only _ (by simp) (by simp) (by simp)).trans
    ((hcount.only _ (by simp) (by simp) (by simp)).trans (harr.only _ (by simp) (by simp) (by simp))))⟩
  rw [harr.storeByte _ _ (by simp), hcount.storeByte _ _ (by simp)]
  exact storePut_byte (s := s1) (badPart_of_storeWrErr (s := s) herr) hi

theorem winFail_run {p w seg code : Nat} (h : s.winCtx p w = none) : (winFail p w seg code).run s =
    (setEvt .slip p 1).run ((recordErr .slip p code (w * 0x100 + seg)).run ((setF (fWinState w) p 3).run s)) := by
  have heq : winFail p w seg code s = doAll [setF (fWinState w) p 3, recordErr .slip p code (w * 0x100 + seg), setEvt .slip p 1, skip] s := by
    rw [winFail, h]
    rfl
  rw [run_congr heq, doAll_cons_run, doAll_cons_run, doAll_cons_run, doAll_cons_run, doAll_nil_run, skip_run]

theorem segReadTimeout_answers {tag : Nat} {g : Seg} (hg : s.sl.segs.find? (fun g => g.st = 1 && g.tag = tag) = some g)
    (hw : s.get (fWinState g.w) g.port = 1) (hidle : s.noneWaits g.port) (hctx : s.winCtx g.port g.w = none) :
    Answers (.segReadTimeout tag) s fun t => t.get (fWinState g.w) g.port = 3 ∧
      t.sl = { s.sl with segs := s.sl.segs.map fun x => if x = g then { x with st := 3 } else x } ∧
      (s.get (fErrCode .slip) g.port = 0 → t.get (fErrCode .slip) g.port = eTIMEOUT ∧
        t.get (fErrInfo .slip) g.port = (g.w * 0x100 + g.seg) % 2 ^ 32) ∧ OnlyParts [.regs, .hi, .sl] s t := by
  have heq : effSegReadTimeout tag s = doAll [segOver g, whenE (fun s => s.get (fWinState g.w) g.port = 1)
      (winFail g.port g.w g.seg eTIMEOUT), segRetry g.port] s := by
    rw [effSegReadTimeout, hg]
  set s1 := (segOver g).run s
  have hw1 : s1.get (fWinState g.w) g.port = 1 := hw
  have hover : (segOver g).Touches [.sl] (fun _ => False) (fun _ => False) := touches_modSl (by simp)
  have hctx1 : s1.winCtx g.port g.w = none := hctx
  set s4 := (setEvt .slip g.port 1).run ((recordErr .slip g.port eTIMEOUT (g.w * 0x100 + g.seg)).run
    ((setF (fWinState g.w) g.port 3).run s1))
  have hset : (setF (fWinState g.w) g.port 3).Touches [] (fun r => r = ⟨.slip, g.port, 0x300 + 8 * g.w⟩) (fun _ => False) := touches_setF rfl
  have hrec : (recordErr .slip g.port eTIMEOUT (g.w * 0x100 + g.seg)).Touches [.hi]
    (fun r => r.off = offErr ∨ r.off = offEvtStatus) (fun _ => False) := touches_recordErr (.inl rfl) (.inr rfl) (by simp)
  have hevt : (setEvt .slip g.port 1).Touches [.hi] (fun r => r.off = offEvtStatus) (fun _ => False) := touches_setEvt rfl (by simp)
  have hsl : s4.sl = s1.sl := (hevt.same _ .sl (by simp) (by simp) (by simp) : _ = _).trans
    ((hrec.same _ .sl (by simp) (by simp) (by simp) : _ = _).trans (hset.same _ .sl (by simp) (by simp) (by simp)))
  have hsegs : s1.sl = { s.sl with segs := s.sl.segs.map fun x => if x = g then { x with st := 3 } else x } := rfl
  have hretry : (segRetry g.port).run s4 = s4 := by
    refine segRetry_idle (noneWaits_map hidle (f := fun x => if x = g then { x with st := 3 } else x) (fun x => ?_) (by rw [hsl, hsegs]))
    split
    · exact .inr (Nat.succ_ne_zero _)
    · exact .inl rfl
  have hrun := run_congr heq
  rw [doAll_cons_run, doAll_cons_run, doAll_cons_run, doAll_nil_run, whenE_run, if_pos (by simpa using hw1), winFail_run hctx1, hretry] at hrun
  refine ⟨_, congrArg Host.Outcome.next hrun, ?_, hsl.trans hsegs, fun hclear => ?_, (hover.only _ (by simp) (by simp) (by simp)).trans
    ((hset.only _ (by simp) (by simp) (by simp)).trans ((hrec.only _ (by simp) (by simp) (by simp)).trans
    (hevt.only _ (by simp) (by simp) (by simp))))⟩
  · rw [hevt.get _ (by simp [fWinState, offEvtStatus]; omega), hrec.get _ (by simp [fWinState, offErr, offEvtStatus]; omega),
      get_setF_same (by simp [fWinState])]
    simp [fWinState]
  · rw [hevt.get _ (by simp [fErrCode, offErr, offEvtStatus]), hevt.get _ (by simp [fErrInfo, offErr, offEvtStatus])]
    refine recordErr_err (by decide) ((hset.get _ ?_).trans hclear)
    simp [fErrCode, offErr]
    omega

end Sys2Proof.Machine
end

section
/-! PROOFS. The commit point of a step on a module (chapter 12, R340, R341, R343). -/

namespace Sys2Proof.Machine

variable {s : State} {p j n : Nat}

/-! ## Lists whose members are taken once -/

/-- What the turn of one member of a list establishes, where the turns of the others keep it. -/
theorem forEach_once {β : Type} {l : List β} {k : β → Eff} {P Q : State → Prop} {b : β} (hl : l.Nodup) (hb : b ∈ l)
    (hQ : ∀ c ∈ l, c ≠ b → ∀ s, Q s → Q ((k c).run s)) (hstep : ∀ s, Q s → P ((k b).run s))
    (hP : ∀ c ∈ l, c ≠ b → ∀ s, P s → P ((k c).run s)) : ∀ s, Q s → P ((forEach l k).run s) := by
  induction l with
  | nil => simp at hb
  | cons c l ih =>
    intro s hs
    obtain ⟨hc, hl⟩ := List.nodup_cons.1 hl
    rw [forEach_cons_run]
    by_cases h : c = b
    · rw [h] at hc ⊢
      exact forEach_keep (fun d hd => hP d (List.mem_cons_of_mem _ hd) fun h => hc (h ▸ hd)) _ (hstep s hs)
    · exact ih hl ((List.mem_cons.1 hb).resolve_left (Ne.symm h)) (fun d hd => hQ d (List.mem_cons_of_mem _ hd))
        (fun d hd => hP d (List.mem_cons_of_mem _ hd)) _ (hQ c (List.mem_cons_self ..) h s hs)

theorem ports48_nodup : ports48.Nodup := List.nodup_range

theorem jobGlaze_nodup (s : State) (j : Nat) : (s.jobGlaze j).Nodup := ports48_nodup.filter _

theorem jobGlaze_lt {p : Nat} (h : p ∈ s.jobGlaze j) : p < 48 := List.mem_range.1 (List.mem_filter.1 h).1

/-! ## What a stack holds -/

/-- Two states whose stack p has the same registers and bytes. -/
def State.stackAs (s t : State) (p : Nat) : Prop :=
  (∀ off, t.rd .slip p off = s.rd .slip p off) ∧ ∀ b, b / slotSize = p → t.storeByte b = s.storeByte b

theorem State.stackAs.trans {t u : State} (h : s.stackAs t p) (h' : t.stackAs u p) : s.stackAs u p :=
  ⟨fun off => (h'.1 off).trans (h.1 off), fun b hb => (h'.2 b hb).trans (h.2 b hb)⟩

theorem Eff.Touches.stackAs {e : Eff} {ps : List Component} {R : RK → Prop} {A : Aux → Prop} (he : e.Touches ps R A)
    (hp : Component.store ∉ ps) (hR : ∀ off, ¬ R ⟨.slip, p, off⟩) (s : State) : s.stackAs (e.run s) p :=
  ⟨fun off => he.rd s (hR off), fun b _ => he.storeByte s b hp⟩

theorem stackAs_get {t : State} {f : Fld} (h : s.stackAs t p) (hf : f.blk = .slip) : t.get f p = s.get f p := by
  rw [State.get, State.get, hf, h.1]

/-- The bytes of a generation's header lie in its stack. -/
theorem header_slot (s : State) (p r : Nat) {d : Nat} (hd : d < 64) : (s.regionBase p r + d) / slotSize = p := by
  have hbase : s.get (fMapBase r) p < 2 ^ 12 := get_lt s (fMapBase r) p
  rw [State.regionBase, slotSize]
  omega

theorem stRd_stackAs {t : State} (h : s.stackAs t p) {a : Nat} (ha : a / slotSize = p) : t.stRd a = s.stRd a := by
  have hpop : t.populated a = s.populated a := by
    unfold State.populated State.usable
    rw [ha, stackAs_get h rfl]
  have hbyte := h.2 a ha
  rw [State.storeByte, State.storeByte] at hbyte
  rw [State.stRd, State.stRd, hpop, hbyte]

theorem stNum_stackAs {t : State} (h : s.stackAs t p) {r d w : Nat} (hd : d + w ≤ 64) :
    t.stNum (t.regionBase p r + d) w = s.stNum (s.regionBase p r + d) w := by
  have hbase : t.regionBase p r = s.regionBase p r := by rw [State.regionBase, State.regionBase, stackAs_get h rfl]
  rw [hbase, State.stNum, State.stNum, State.stRds, State.stRds]
  refine congrArg ofBytes (List.map_congr_left fun i hi => stRd_stackAs h ?_)
  rw [Nat.add_assoc]
  exact header_slot s p r (by have := List.mem_range.1 hi; omega)

theorem shadowSlot_stackAs {t : State} (h : s.stackAs t p) : t.shadowSlot p = s.shadowSlot p := by
  rw [State.shadowSlot, State.shadowSlot, State.on, State.on, stackAs_get h rfl, stackAs_get h rfl]

theorem shadowOpened_stackAs {t : State} (h : s.stackAs t p) : t.shadowOpened p n = s.shadowOpened p n := by
  rw [State.shadowOpened, State.shadowOpened, shadowSlot_stackAs h, stNum_stackAs h (by omega), State.hdrVer, State.hdrVer]
  have h0 := stNum_stackAs h (r := 2 * 0 + s.shadowSlot p) (d := 0) (w := 4) (by omega)
  rw [Nat.add_zero, Nat.add_zero] at h0
  rw [h0]

/-- A header is written in its own stack. -/
theorem writeHeader_stackAs {p q g k ver alt st owner : Nat} (hpq : p ≠ q) (s : State) :
    s.stackAs ((writeHeader q g k ver alt st owner).run s) p := by
  refine ⟨fun off => (writeHeader_touches q g k ver alt st owner).rd s id, fun b hb => ?_⟩
  rw [writeHeader_run]
  refine storePut_byte_ne s ?_
  rw [headerBytes_length]
  by_contra hin
  have hslot := header_slot s q (2 * g + k) (d := b - s.regionBase q (2 * g + k)) (by omega)
  rw [show s.regionBase q (2 * g + k) + (b - s.regionBase q (2 * g + k)) = b by omega] at hslot
  exact hpq (hb.symm.trans hslot)

/-! ## The committed generation of a stack -/

theorem genWord_shows {k g owner ver : Nat} (s : State) (p alt : Nat) (hk : k < 2) :
    ((setReg .slip p (0x180 + 8 * g) (genWord k 1 owner alt ver)).run s).get (fCgen g) p = k ∧
    ((setReg .slip p (0x180 + 8 * g) (genWord k 1 owner alt ver)).run s).on (fGenValid g) p = true ∧
    ((setReg .slip p (0x180 + 8 * g) (genWord k 1 owner alt ver)).run s).get (fGenVer g) p = ver % 2 ^ 32 ∧
    ((setReg .slip p (0x180 + 8 * g) (genWord k 1 owner alt ver)).run s).get (fGenAlt g) p = alt % 65536 := by
  have hrd : ((setReg .slip p (0x180 + 8 * g) (genWord k 1 owner alt ver)).run s).rd .slip p (0x180 + 8 * g) =
      genWord k 1 owner alt ver := by simp
  have hlt : k % 2 + 2 * (1 % 2) + owner % 4096 * 16 + alt % 65536 * 2 ^ 16 + ver % 2 ^ 32 * 2 ^ 32 < 2 ^ 64 := by omega
  refine ⟨?_, decide_eq_true ?_, ?_, ?_⟩
  · rw [get_of_rd (f := fCgen g) hrd, genWord, getBits_ofNat_of_lt hlt]
    simp only [fCgen]
    omega
  · rw [get_of_rd (f := fGenValid g) hrd, genWord, getBits_ofNat_of_lt hlt]
    simp only [fGenValid]
    omega
  · rw [get_of_rd (f := fGenVer g) hrd, genWord, getBits_ofNat_of_lt hlt]
    simp only [fGenVer]
    omega
  · rw [get_of_rd (f := fGenAlt g) hrd, genWord, getBits_ofNat_of_lt hlt]
    simp only [fGenAlt]
    omega

theorem shadowSlot_lt (s : State) (p : Nat) : s.shadowSlot p < 2 := by
  rw [State.shadowSlot]
  split <;> omega

/-! ## A unit at the commit point -/

/-- The header of slot k is RETIRED. -/
def headerRetires (p k : Nat) : Eff := fun s => writeHeader p 0 k (s.hdrVer p 0 k) (s.hdrAlt p 0 k) 3 (s.hdrOwner p 0 k) s

theorem headerRetires_run (p k : Nat) (s : State) : (headerRetires p k).run s =
    (writeHeader p 0 k (s.hdrVer p 0 k) (s.hdrAlt p 0 k) 3 (s.hdrOwner p 0 k)).run s := run_congr rfl

/-- The generation that was committed is retired. -/
def homeRetires (p : Nat) : Eff := whenE (fun s => s.on (fGenValid 0) p) (look (fun s => s.get (fCgen 0) p) (headerRetires p))

/-- The shadow becomes the committed generation. -/
def homeFlips (p n : Nat) : Eff := whenE (fun s => s.shadowOpened p n) (look (fun s => (s.shadowSlot p, s.hdrOwner p 0 (s.shadowSlot p)))
  fun x => doAll [homeRetires p, writeHeader p 0 x.1 n 0 2 x.2, setReg .slip p 0x180 (genWord x.1 1 x.2 0 n)])

/-- The unit shows the commit. -/
def unitShown (p j n : Nat) : List Eff := [setF fCommitted p n, setF fGlzState p 0, setEvt .glaze p 1,
  whenE (fun s => s.get fMstate p = 1) (look (fun s => s.get (fCgen 0) p) fun k =>
    modGl fun g => { g with flips := g.flips ++ [⟨p, j, n, k, false⟩] })]

def unitShows (p j n : Nat) : Eff := doAll (unitShown p j n)

theorem unitCommits_run (s : State) (p j n : Nat) : (unitCommits p j n).run s = (unitShows p j n).run ((homeFlips p n).run s) := by
  rw [unitCommits, doAll_cons_run]
  rfl

theorem homeRetires_touches (p : Nat) : (homeRetires p).Touches [.store, .bad, .rm] (fun _ => False) (fun _ => False) :=
  touches_whenE (touches_look fun k => touches_fun (k := fun s => writeHeader p 0 k (s.hdrVer p 0 k) (s.hdrAlt p 0 k) 3
    (s.hdrOwner p 0 k)) fun _ => writeHeader_touches _ _ _ _ _ _ _)

theorem homeFlips_touches (p n : Nat) : (homeFlips p n).Touches [.store, .bad, .rm] (fun r => r = ⟨.slip, p, 0x180⟩) (fun _ => False) :=
  touches_whenE (touches_look fun x => touches_doAll_cons ((homeRetires_touches p).mono (by simp) (fun _ h => h.elim) fun _ h => h)
    (touches_doAll_cons ((writeHeader_touches _ _ _ _ _ _ _).mono (by simp) (fun _ h => h.elim) fun _ h => h)
    (touches_doAll_cons (touches_setReg rfl) touches_doAll_nil)))

theorem unitShows_touches (p j n : Nat) : (unitShows p j n).Touches [.hi, .gl]
    (fun r => r.blk = .glaze ∧ r.inst = p ∧ (r.off = 0x128 ∨ r.off = 0x018 ∨ r.off = offEvtStatus)) (fun _ => False) :=
  touches_doAll_cons (touches_setF ⟨rfl, rfl, .inl rfl⟩) (touches_doAll_cons (touches_setF ⟨rfl, rfl, .inr (.inl rfl)⟩) (touches_doAll_cons
    (touches_setEvt ⟨rfl, rfl, .inr (.inr rfl)⟩ (by simp)) (touches_doAll_cons (touches_whenE (touches_look fun _ => touches_modGl (by simp)))
    touches_doAll_nil)))

theorem homeRetires_stackAs {q : Nat} (hpq : p ≠ q) (s : State) : s.stackAs ((homeRetires q).run s) p := by
  rw [homeRetires, whenE_run]
  split
  · rw [look_run, headerRetires_run]
    exact writeHeader_stackAs hpq s
  · exact ⟨fun _ => rfl, fun _ _ => rfl⟩

theorem homeFlips_stackAs {q : Nat} (hpq : p ≠ q) (s : State) : s.stackAs ((homeFlips q n).run s) p := by
  have hset (v : W64) : (setReg .slip q 0x180 v).Touches [] (fun r => r = ⟨.slip, q, 0x180⟩) (fun _ => False) := touches_setReg rfl
  rw [homeFlips, whenE_run]
  split
  · rw [look_run, doAll_cons_run, doAll_cons_run, doAll_cons_run, doAll_nil_run]
    exact ((homeRetires_stackAs hpq s).trans (writeHeader_stackAs hpq _)).trans ((hset _).stackAs (by simp) (by simp [hpq]) _)
  · exact ⟨fun _ => rfl, fun _ _ => rfl⟩

theorem unitCommits_stackAs {q : Nat} (hpq : p ≠ q) (s : State) : s.stackAs ((unitCommits q j n).run s) p := by
  rw [unitCommits_run]
  exact (homeFlips_stackAs hpq s).trans ((unitShows_touches q j n).stackAs (by simp) (by simp) _)

/-- What a unit shows after the commit point of step n. -/
def State.unitDone (t : State) (p n : Nat) : Prop :=
  t.get fCommitted p = n ∧ t.get fGlzState p = 0 ∧ t.on (fEvt .glaze 1) p = true

/-- The committed generation of a stack is slot k, of step n. -/
def State.homeIs (t : State) (p k n : Nat) : Prop :=
  t.get (fCgen 0) p = k ∧ t.on (fGenValid 0) p = true ∧ t.get (fGenVer 0) p = n ∧ t.get (fGenAlt 0) p = 0

theorem unitShows_done (s : State) (hn : n < 2 ^ 32) : ((unitShows p j n).run s).unitDone p n := by
  have hmod : (whenE (fun s => s.get fMstate p = 1) (look (fun s => s.get (fCgen 0) p) fun k =>
      modGl fun g => { g with flips := g.flips ++ [⟨p, j, n, k, false⟩] })).Touches [.gl] (fun _ => False) (fun _ => False) :=
    touches_whenE (touches_look fun _ => touches_modGl (by simp))
  have hevt : (setEvt .glaze p 1).Touches [.hi] (fun r => r.off = offEvtStatus) (fun _ => False) := touches_setEvt rfl (by simp)
  rw [unitShows, unitShown, doAll_cons_run, doAll_cons_run, doAll_cons_run, doAll_cons_run, doAll_nil_run, State.unitDone]
  refine ⟨?_, ?_, (hmod.on _ id).trans (setEvt_on (by omega))⟩
  · rw [hmod.get _ id, hevt.get _ (by simp [fCommitted, offEvtStatus]), get_setF_ne (fun _ _ => by decide) (by decide),
      get_setF_same (by decide)]
    simp only [fCommitted]
    exact Nat.mod_eq_of_lt hn
  · rw [hmod.get _ id, hevt.get _ (by simp [fGlzState, offEvtStatus]), get_setF_same (by decide)]
    simp only [fGlzState]
    decide

theorem homeFlips_home (h : s.shadowOpened p n = true) (hn : n < 2 ^ 32) : ((homeFlips p n).run s).homeIs p (s.shadowSlot p) n := by
  rw [homeFlips, whenE_run, if_pos h, look_run, doAll_cons_run, doAll_cons_run, doAll_cons_run, doAll_nil_run, State.homeIs]
  obtain ⟨h1, h2, h3, h4⟩ := genWord_shows (k := s.shadowSlot p) (g := 0) (owner := s.hdrOwner p 0 (s.shadowSlot p)) (ver := n)
    ((writeHeader p 0 (s.shadowSlot p) n 0 2 (s.hdrOwner p 0 (s.shadowSlot p))).run ((homeRetires p).run s)) p 0 (shadowSlot_lt s p)
  exact ⟨h1, h2, h3.trans (Nat.mod_eq_of_lt hn), h4⟩

theorem homeIs_of_touches {e : Eff} {ps : List Component} {R : RK → Prop} {A : Aux → Prop} (he : e.Touches ps R A)
    (hR : ¬ R ⟨.slip, p, 0x180⟩) {k : Nat} (h : s.homeIs p k n) : (e.run s).homeIs p k n := by
  obtain ⟨h1, h2, h3, h4⟩ := h
  exact ⟨(he.get s hR).trans h1, (he.on s hR).trans h2, (he.get s hR).trans h3, (he.get s hR).trans h4⟩

theorem unitDone_of_touches {e : Eff} {ps : List Component} {R : RK → Prop} {A : Aux → Prop} (he : e.Touches ps R A)
    (hR : ∀ off, ¬ R ⟨.glaze, p, off⟩) (h : s.unitDone p n) : (e.run s).unitDone p n :=
  ⟨(he.get s (hR _)).trans h.1, (he.get s (hR _)).trans h.2.1, (he.on s (hR _)).trans h.2.2⟩

theorem unitCommits_touches (p j n : Nat) : (unitCommits p j n).Touches [.hi, .gl, .store, .bad, .rm]
    (fun r => (r.blk = .glaze ∨ r.blk = .slip) ∧ r.inst = p) (fun _ => False) := by
  have hflip : (homeFlips p n).Touches [.hi, .gl, .store, .bad, .rm] (fun r => (r.blk = .glaze ∨ r.blk = .slip) ∧ r.inst = p)
      (fun _ => False) := (homeFlips_touches p n).mono (by simp) (fun r h => by rw [h]; exact ⟨.inr rfl, rfl⟩) fun _ h => h
  have hshow : (doAll (unitShown p j n)).Touches [.hi, .gl, .store, .bad, .rm] (fun r => (r.blk = .glaze ∨ r.blk = .slip) ∧ r.inst = p)
      (fun _ => False) := (unitShows_touches p j n).mono (by simp) (fun r h => ⟨.inl h.1, h.2.1⟩) fun _ h => h
  exact touches_doAll_cons hflip hshow

/-- After the commit point every unit of the job shows it, and its shadow is committed where it was open. -/
theorem unitsCommit_shows (s : State) (j : Nat) (hn : n < 2 ^ 32) {p : Nat} (hp : p ∈ s.jobGlaze j) :
    ((forEach (s.jobGlaze j) fun p => unitCommits p j n).run s).unitDone p n ∧
    (s.shadowOpened p n = true → ((forEach (s.jobGlaze j) fun p => unitCommits p j n).run s).homeIs p (s.shadowSlot p) n) := by
  refine forEach_once (k := fun p => unitCommits p j n) (P := fun t => t.unitDone p n ∧ (s.shadowOpened p n = true → t.homeIs p
    (s.shadowSlot p) n)) (Q := fun t => s.stackAs t p) (jobGlaze_nodup s j) hp (fun c _ hc t ht => ?_) (fun t ht => ?_) (fun c _ hc t ht => ?_)
    s ⟨fun _ => rfl, fun _ _ => rfl⟩
  · exact ht.trans (unitCommits_stackAs (Ne.symm hc) t)
  · rw [unitCommits_run]
    refine ⟨unitShows_done _ hn, fun ho => homeIs_of_touches (unitShows_touches p j n) (by simp) ?_⟩
    rw [← shadowSlot_stackAs ht]
    exact homeFlips_home ((shadowOpened_stackAs ht).trans ho) hn
  · have htouch := unitCommits_touches c j n
    exact ⟨unitDone_of_touches htouch (by simp [Ne.symm hc]) ht.1, fun ho => homeIs_of_touches htouch (by simp [Ne.symm hc]) (ht.2 ho)⟩

/-! ## The generations of the pug units, and the mirror -/

theorem gensGoOn_touches (j : Nat) : (gensGoOn j).Touches [] (fun r => r.blk = .pug) (fun _ => False) :=
  touches_forEach fun _ _ => touches_look fun _ => touches_setF rfl

theorem gensGoOn_shows (s : State) (j : Nat) : ∀ u < 16, ((gensGoOn j).run s).get (fLgen j) u = 1 - s.get (fLgen j) u := by
  intro u hu
  have hlt : s.get (fLgen j) u < 2 := get_lt s (fLgen j) u
  have hfld : (fLgen j).lo + (fLgen j).w ≤ 64 := by simp only [fLgen]; omega
  unfold gensGoOn
  refine forEach_once (P := fun t => t.get (fLgen j) u = 1 - s.get (fLgen j) u) (Q := fun t => t.get (fLgen j) u = s.get (fLgen j) u)
    List.nodup_range (List.mem_range.2 hu) (fun c _ hc t ht => ?_) (fun t ht => ?_) (fun c _ hc t ht => ?_) s rfl
  · rw [look_run, get_setF_inst_ne (Ne.symm hc)]
    exact ht
  · rw [look_run, get_setF_same hfld, ht]
    exact Nat.mod_eq_of_lt (show 1 - s.get (fLgen j) u < 2 by omega)
  · rw [look_run, get_setF_inst_ne (Ne.symm hc)]
    exact ht

/-- The counts of the ports as they send. -/
def portRegs (r : RK) : Prop := (r.blk = .fab ∨ r.blk = .blink) ∧ sendOff r.off = true

theorem portRegs_lk (q off : Nat) (h : sendOff off = true) : portRegs ⟨lkBlk q, lkInst q, off⟩ := ⟨lkBlk_fab_or_blink q, h⟩

/-- What the mirror's progress changes: DURABLE, the glaze units' events and the ports' counts. -/
def mirrorRegs (r : RK) : Prop := (r.blk = .glaze ∧ (r.off = 0x128 ∨ r.off = offEvtStatus)) ∨ portRegs r

abbrev mirrorAux (a : Aux) : Prop := a.kind = .mirrorSlot

abbrev Eff.Mirrors (e : Eff) : Prop := e.Touches [.hi, .out, .gl, .fb] mirrorRegs mirrorAux

/-- What leaves for the mirror. -/
abbrev Eff.MirrorSends (e : Eff) : Prop := e.Touches [.out, .gl, .fb] portRegs mirrorAux

theorem mirrors_of_sends {e : Eff} (h : e.MirrorSends) : e.Mirrors :=
  h.mono (by simp) (fun _ h => .inr h) (fun _ h => h)

theorem flipDone_mirrors (x : MFlip) : (flipDone x).Mirrors :=
  touches_doAll_cons (touches_modGl (by simp)) (touches_doAll_cons (touches_setF (.inl ⟨rfl, .inl rfl⟩)) (touches_doAll_cons
    (touches_setEvt (.inl ⟨rfl, .inr rfl⟩) (by simp)) touches_doAll_nil))

theorem releaseMirror_sends : releaseMirror.MirrorSends :=
  touches_of (fun s => doAll [modGl fun g => { g with mirrorQ := g.mirrorQ.filter fun x => !((s.flipOf x.port).all fun f => f.step = x.step) },
    forEach (s.gl.mirrorQ.filter fun x => (s.flipOf x.port).all fun f => f.step = x.step) fun x => sendL0 0x30 x.data]) (fun _ => rfl)
    fun _ => touches_doAll_cons (touches_modGl (by simp)) (touches_doAll_cons (touches_forEach fun _ _ =>
      touches_sendL0 portRegs_lk (by simp) (by simp)) touches_doAll_nil)

theorem sendFlips_sends : sendFlips.MirrorSends :=
  touches_of (fun s => flipsSent s.flipsReady) (fun _ => rfl) fun _ => touches_doAll_cons (touches_forEach fun _ _ =>
    touches_sendL0 portRegs_lk (by simp) (by simp)) (touches_doAll_cons (touches_forEach fun _ _ => touches_setAx rfl)
    (touches_doAll_cons (touches_modGl (by simp)) touches_doAll_nil))

theorem mirrorAdvance_mirrors : mirrorAdvance.Mirrors :=
  touches_doAll_cons (touches_look fun _ => touches_forEach fun _ _ => flipDone_mirrors _) (touches_doAll_cons
    (mirrors_of_sends releaseMirror_sends) (touches_doAll_cons (mirrors_of_sends sendFlips_sends) touches_doAll_nil))

theorem setF_keeps_unitDone {f : Fld} {i x : Nat} (hf : f = fDurable) (h : s.unitDone p n) : ((setF f i x).run s).unitDone p n := by
  have hset : (setF f i x).Touches [] (fun r => r.off = 0x128) (fun _ => False) := touches_setF (by rw [hf]; rfl)
  subst hf
  refine ⟨(get_setF_ne (fun _ _ => by decide) (by decide)).trans h.1, (hset.get _ (by simp [fGlzState])).trans h.2.1,
    (hset.on _ (by simp [fEvt, offEvtStatus])).trans h.2.2⟩

theorem flipDone_unitDone (x : MFlip) (h : s.unitDone p n) : ((flipDone x).run s).unitDone p n := by
  have hevt : (setEvt .glaze x.port 2).Touches [.hi] (fun r => r.off = offEvtStatus) (fun _ => False) := touches_setEvt rfl (by simp)
  have h2 := setF_keeps_unitDone (i := x.port) (x := x.step) rfl
    (unitDone_of_touches (touches_modGl (ps := [.gl]) (R := fun _ => False) (A := fun _ => False) (f := fun g => { g with flips := g.flips.erase x })
      (by simp)) (fun _ h => h) h)
  rw [flipDone, doAll_cons_run, doAll_cons_run, doAll_cons_run, doAll_nil_run]
  exact ⟨(hevt.get _ (by simp [fCommitted, offEvtStatus])).trans h2.1, (hevt.get _ (by simp [fGlzState, offEvtStatus])).trans h2.2.1,
    holdsEvt_setEvt (by omega) .glaze x.port 2 _ h2.2.2⟩

theorem mirrorAdvance_unitDone (h : s.unitDone p n) : (mirrorAdvance.run s).unitDone p n := by
  have hsend {e : Eff} (he : e.MirrorSends) {t : State} (ht : t.unitDone p n) : (e.run t).unitDone p n :=
    unitDone_of_touches he (by simp [portRegs]) ht
  have hflips (l : List MFlip) (t : State) (ht : t.unitDone p n) : ((forEach l flipDone).run t).unitDone p n :=
    forEach_keep (P := fun t => t.unitDone p n) (fun x _ t ht => flipDone_unitDone x ht) t ht
  rw [mirrorAdvance, doAll_cons_run, doAll_cons_run, doAll_cons_run, doAll_nil_run, look_run]
  exact hsend sendFlips_sends (hsend releaseMirror_sends (hflips _ _ h))

/-! ## The commit point -/

/-- What the commit point does after its units and generations. -/
def stepCloses (s : State) (j : Nat) : Eff := doAll [modGl fun g => { g with ranges := g.ranges.filter fun r => !(s.jobGlaze j).contains r.port },
  setAx ⟨.stepOpen, j, 0⟩ 0, setAx ⟨.voted, j, 0⟩ 0]

theorem stepCloses_touches (s : State) (j : Nat) : (stepCloses s j).Touches [.gl] (fun _ => False)
    (fun a => a.kind = .stepOpen ∨ a.kind = .voted) :=
  touches_doAll_cons (touches_modGl (by simp)) (touches_doAll_cons (touches_setAx (.inl rfl)) (touches_doAll_cons (touches_setAx (.inr rfl))
    touches_doAll_nil))

theorem stepCloses_open (s t : State) (j : Nat) : ((stepCloses s j).run t).ax ⟨.stepOpen, j, 0⟩ = 0 := by
  rw [stepCloses, doAll_cons_run, doAll_cons_run, doAll_cons_run, doAll_nil_run]
  simp

theorem doAll_six_split (a b c d e f : Eff) (s : State) :
    (doAll [a, b, c, d, e, f]).run s = f.run ((doAll [c, d, e]).run (b.run (a.run s))) := by
  simp only [doAll_cons_run, doAll_nil_run]

theorem commitPoint_run (s : State) (j n : Nat) : (commitPoint j n).run s = mirrorAdvance.run ((stepCloses s j).run
    ((gensGoOn j).run ((forEach (s.jobGlaze j) fun p => unitCommits p j n).run s))) :=
  (run_congr (commitPoint_eq j n s)).trans (doAll_six_split ..)

theorem unitsCommit_touches (s : State) (j n : Nat) : (forEach (s.jobGlaze j) fun p => unitCommits p j n).Touches [.hi, .gl, .store, .bad, .rm]
    (fun r => r.blk = .glaze ∨ r.blk = .slip) (fun _ => False) :=
  touches_forEach fun p _ => (unitCommits_touches p j n).mono (fun _ h => h) (fun _ h => h.1) (fun _ h => h)

theorem commitPoint_shows (s : State) (j : Nat) (hn : n < 2 ^ 32) :
    ((commitPoint j n).run s).ax ⟨.stepOpen, j, 0⟩ = 0 ∧ ((commitPoint j n).run s).seq = s.seq ∧
    (∀ p ∈ s.jobGlaze j, ((commitPoint j n).run s).unitDone p n ∧
      (s.shadowOpened p n = true → ((commitPoint j n).run s).homeIs p (s.shadowSlot p) n)) ∧
    ∀ u < 16, ((commitPoint j n).run s).get (fLgen j) u = 1 - s.get (fLgen j) u := by
  have hunits := unitsCommit_touches s j n
  have hgens := gensGoOn_touches j
  have hclose := stepCloses_touches s j
  have hmir := mirrorAdvance_mirrors
  rw [commitPoint_run]
  refine ⟨(hmir.ax _ (by simp)).trans (stepCloses_open ..), ?_, fun p hp => ⟨?_, fun ho => ?_⟩, fun u hu => ?_⟩
  · exact (hmir.same _ .seq (by simp) (by simp) (by simp) : _ = _).trans ((hclose.same _ .seq (by simp) (by simp) (by simp) : _ = _).trans
      ((hgens.same _ .seq (by simp) (by simp) (by simp) : _ = _).trans (hunits.same _ .seq (by simp) (by simp) (by simp))))
  · exact mirrorAdvance_unitDone (unitDone_of_touches hclose (fun _ h => h) (unitDone_of_touches hgens (by simp)
      (unitsCommit_shows s j hn hp).1))
  · exact homeIs_of_touches hmir (by simp [mirrorRegs, portRegs]) (homeIs_of_touches hclose id (homeIs_of_touches hgens (by simp)
      ((unitsCommit_shows s j hn hp).2 ho)))
  · rw [hmir.get _ (by simp [mirrorRegs, portRegs, fLgen]), hclose.get _ id, gensGoOn_shows _ j u hu, hunits.get _ (by simp [fLgen])]

end Sys2Proof.Machine
end

section
/-! PROOFS. Votes, commits and mirror messages received (chapters 11, 12 and 14, R340, R341, R377, R386). -/

namespace Sys2Proof.Machine

variable {s : State} {q : Nat} {m : InMsg}

theorem num_lt (m : InMsg) (at' n : Nat) : m.num at' n < 256 ^ n :=
  lt_of_lt_of_le (ofBytes_lt _) (Nat.pow_le_pow_right (show 0 < 256 by decide) (List.length_take_le ..))

theorem num_four_lt (m : InMsg) (at' : Nat) : m.num at' 4 < 2 ^ 32 := lt_of_lt_of_eq (num_lt m at' 4) (by norm_num)

/-! ## Votes (R340, R386) -/

theorem takeVote_run {j n x : Nat} {held : Bool} (hcoord : s.isCoord j = true)
    (hnew : ∀ v ∈ s.gl.votes, ¬ (v.job = j ∧ v.step = n ∧ v.module_ = x)) (hvoted : s.ax ⟨.voted, j, 0⟩ ≠ 1) :
    (takeVote j n x held).run s = (whenE (fun s => s.ax ⟨.stepNo, j, 0⟩ = n) (showVotes j n)).run
      ((modGl fun g => { g with votes := g.votes ++ [⟨j, n, x, held⟩] }).run s) := by
  have hany : ¬ ((s.gl.votes.any fun v => v.job = j && v.step = n && v.module_ = x) = true ∨ (!s.isCoord j) = true) := by
    simp only [hcoord, List.any_eq_true, Bool.and_eq_true, decide_eq_true_eq, Bool.not_true, Bool.false_eq_true, or_false, not_exists,
      not_and]
    exact fun v hv h => fun h' => hnew v hv ⟨h.1, h.2, h'⟩
  have heq : takeVote j n x held s = doAll [modGl fun g => { g with votes := g.votes ++ [⟨j, n, x, held⟩] },
      whenE (fun s => s.ax ⟨.stepNo, j, 0⟩ = n) (showVotes j n), coordDecide j n] s := by
    rw [takeVote, if_neg hany]
  have hshow : (whenE (fun s => s.ax ⟨.stepNo, j, 0⟩ = n) (showVotes j n)).Touches [] (fun r => r.blk = .glaze ∧ r.off = 0x140)
    (fun _ => False) := touches_whenE (showVotes_touches j n)
  have hno (t : State) (ht : t.ax ⟨.voted, j, 0⟩ ≠ 1) : (coordDecide j n).run t = t :=
    (run_congr (f := skip) (by rw [coordDecide, if_neg (by simp [ht])]; rfl)).trans (skip_run t)
  rw [run_congr heq, doAll_cons_run, doAll_cons_run, doAll_cons_run, doAll_nil_run, hno _ (by rw [hshow.ax _ id]; exact hvoted)]

theorem vote_answers (hlive : s.fabLive = true) (hm : s.msgAt q 0x12 = some m)
    (hstep : s.openStep (m.num 0 1) = some (m.num 4 4) ∨ s.ax ⟨.stepNo, m.num 0 1, 0⟩ < m.num 4 4) (hcoord : s.isCoord (m.num 0 1) = true)
    (hnew : ∀ v ∈ s.gl.votes, ¬ (v.job = m.num 0 1 ∧ v.step = m.num 4 4 ∧ v.module_ = m.src))
    (hvoted : s.ax ⟨.voted, m.num 0 1, 0⟩ ≠ 1) : Answers (.vote q) s fun t =>
      t.gl = { s.gl with votes := s.gl.votes ++ [⟨m.num 0 1, m.num 4 4, m.src, decide (m.num 1 1 = 2)⟩] } ∧
      OnlyParts [.regs, .gl, .fb] s t := by
  set s1 := (takeMsg m).run s
  have hrun : (effVote q).run s = (takeVote (m.num 0 1) (m.num 4 4) m.src (decide (m.num 1 1 = 2))).run s1 :=
    (withMsg_live hlive hm).trans (run_congr (if_pos hstep))
  rw [takeVote_run (s := s1) hcoord hnew hvoted] at hrun
  have hshow : (whenE (fun s => s.ax ⟨.stepNo, m.num 0 1, 0⟩ = m.num 4 4) (showVotes (m.num 0 1) (m.num 4 4))).Touches []
    (fun r => r.blk = .glaze ∧ r.off = 0x140) (fun _ => False) := touches_whenE (showVotes_touches _ _)
  have hmod (f : GlazeSt → GlazeSt) : (modGl f).Touches [.gl] (fun _ => False) (fun _ => False) := touches_modGl (by simp)
  exact ⟨_, congrArg Host.Outcome.next hrun, hshow.same _ .gl (by simp) (by simp) (by simp),
    ((takeMsg_touches m).only _ (by simp) (by simp) (by simp)).trans (((hmod _).only _ (by simp) (by simp) (by simp)).trans
    (hshow.only _ (by simp) (by simp) (by simp)))⟩

/-! ## COMMIT and COMMIT_ACK (R340, R341) -/

theorem commit_answers (hlive : s.fabLive = true) (hm : s.msgAt q 0x13 = some m) (hopen : s.openStep (m.num 0 1) = some (m.num 4 4))
    (hvoted : s.ax ⟨.voted, m.num 0 1, 0⟩ = 1) : Answers (.commit q) s fun t =>
      t.seq = s.seq + 1 ∧ t.ax ⟨.stepOpen, m.num 0 1, 0⟩ = 0 ∧
      (∀ p ∈ s.jobGlaze (m.num 0 1), t.get fCommitted p = m.num 4 4 ∧ t.get fGlzState p = 0 ∧ t.on (fEvt .glaze 1) p = true ∧
        (s.shadowOpened p (m.num 4 4) = true → t.get (fCgen 0) p = s.shadowSlot p ∧ t.on (fGenValid 0) p = true ∧
          t.get (fGenVer 0) p = m.num 4 4 ∧ t.get (fGenAlt 0) p = 0)) ∧
      (∀ u < 16, t.get (fLgen (m.num 0 1)) u = 1 - s.get (fLgen (m.num 0 1)) u) := by
  set j := m.num 0 1
  set n := m.num 4 4
  set s2 := Eff.run (fun _ => [.seq]) ((takeMsg m).run s)
  have hrun : (effCommit q).run s = (sendDgram m.src 0x14 (commitBytes j n)).run ((commitPoint j n).run s2) := by
    refine (withMsg_live hlive hm).trans ((run_congr (if_pos (show _ ∧ _ from ⟨hopen, hvoted⟩))).trans ?_)
    rw [doAll_cons_run, doAll_cons_run, doAll_cons_run, doAll_nil_run]
  have hseq : Eff.Touches [.seq] (fun _ => False) (fun _ => False) (fun _ => [.seq]) := touches_upd (by simp [Upd.Within, Upd.parts])
  have hsend : (sendDgram m.src 0x14 (commitBytes j n)).Touches [.out, .fb] portRegs (fun _ => False) :=
    touches_sendDgram portRegs_lk (by simp) (by simp)
  have hstart : s2.seq = s.seq + 1 := rfl
  have hsame (p : Nat) : s.stackAs s2 p :=
    ((takeMsg_touches m).stackAs (by simp) (fun _ h => h) s).trans (hseq.stackAs (by simp) (fun _ h => h) _)
  obtain ⟨h0, h1, h2, h3⟩ := commitPoint_shows s2 j (n := n) (num_four_lt m 4)
  have hglaze : s2.jobGlaze j = s.jobGlaze j := rfl
  refine ⟨_, congrArg Host.Outcome.next hrun, (hsend.same _ .seq (by simp) (by simp) (by simp) : _ = _).trans (h1.trans hstart),
    (hsend.ax _ id).trans h0, fun p hp => ?_, fun u hu => ?_⟩
  · obtain ⟨hdone, hhome⟩ := h2 p (hglaze ▸ hp)
    obtain ⟨hc, hg, he⟩ := unitDone_of_touches hsend (by simp [portRegs]) hdone
    refine ⟨hc, hg, he, fun ho => ?_⟩
    have h := homeIs_of_touches hsend (by simp [portRegs]) (hhome ((shadowOpened_stackAs (hsame p)).trans ho))
    rwa [shadowSlot_stackAs (hsame p)] at h
  · rw [hsend.get _ (by simp [portRegs, fLgen]), h3 u hu]
    rfl

theorem commitHeld_answers (hlive : s.fabLive = true) (hm : s.msgAt q 0x13 = some m) (hopen : s.openStep (m.num 0 1) = some (m.num 4 4))
    (hvoted : s.ax ⟨.voted, m.num 0 1, 0⟩ = 2) : Answers (.commit q) s fun t =>
      (∀ p ∈ s.jobGlaze (m.num 0 1), s.get (fErrCode .glaze) p = 0 → t.get (fErrCode .glaze) p = eARG ∧
        t.get (fErrInfo .glaze) p = m.src % 2 ^ 32) ∧ OnlyParts [.regs, .hi, .fb] s t := by
  set j := m.num 0 1
  set s1 := (takeMsg m).run s
  have hrun : (effCommit q).run s = (forEach (s.jobGlaze j) fun p => recordErr .glaze p eARG m.src).run s1 :=
    (withMsg_live hlive hm).trans (run_congr ((if_neg (by
      show ¬ (_ ∧ s.ax ⟨.voted, j, 0⟩ = 1)
      omega)).trans (if_pos (show _ ∧ _ from ⟨hopen, hvoted⟩))))
  have hrec (p : Nat) : (recordErr .glaze p eARG m.src).Touches [.hi] (fun r => r.inst = p) (fun _ => False) :=
    touches_recordErr rfl rfl (by simp)
  have hall : (forEach (s.jobGlaze j) fun p => recordErr .glaze p eARG m.src).Touches [.hi] (fun _ => True) (fun _ => False) :=
    touches_forEach fun p _ => (hrec p).mono (fun _ h => h) (fun _ _ => trivial) (fun _ h => h)
  refine ⟨_, congrArg Host.Outcome.next hrun, fun p hp hclear => ?_, ((takeMsg_touches m).only _ (by simp) (by simp) (by simp)).trans
    (hall.only _ (by simp) (by simp) (by simp))⟩
  refine forEach_once (k := fun p => recordErr .glaze p eARG m.src) (P := fun t => t.get (fErrCode .glaze) p = eARG ∧
    t.get (fErrInfo .glaze) p = m.src % 2 ^ 32) (Q := fun t => t.get (fErrCode .glaze) p = 0) (jobGlaze_nodup s j) hp
    (fun c _ hc t ht => ?_) (fun t ht => recordErr_err (by decide) ht) (fun c _ hc t ht => ?_) s1 hclear
  · exact ((hrec c).get t (Ne.symm hc)).trans ht
  · exact ⟨((hrec c).get t (Ne.symm hc)).trans ht.1, ((hrec c).get t (Ne.symm hc)).trans ht.2⟩

theorem commitAck_answers (hlive : s.fabLive = true) (hm : s.msgAt q 0x14 = some m)
    (hcom : s.ax ⟨.committed, m.num 0 1, 0⟩ = m.num 4 4 + 1) (hnew : (m.num 0 1, m.src) ∉ s.gl.acks) :
    Answers (.commitAck q) s fun t => t.gl = { s.gl with acks := s.gl.acks ++ [(m.num 0 1, m.src)] } ∧
      t.ax ⟨.committed, m.num 0 1, 0⟩ = (if (s.jobModules (m.num 0 1)).all (fun x => x = s.self ||
        (s.gl.acks ++ [(m.num 0 1, m.src)]).contains (m.num 0 1, x)) then 0 else m.num 4 4 + 1) ∧
      OnlyParts [.aux, .gl, .fb] s t := by
  set j := m.num 0 1
  set s1 := (takeMsg m).run s
  set s2 := (modGl fun g => { g with acks := g.acks ++ [(j, m.src)] }).run s1
  have hrun : (effCommitAck q).run s = (whenE (fun s => (s.jobModules j).all fun x => x = s.self || s.gl.acks.contains (j, x))
      (setAx ⟨.committed, j, 0⟩ 0)).run s2 := by
    refine (withMsg_live hlive hm).trans ((run_congr (if_neg ?_)).trans ?_)
    · show ¬ (s.ax ⟨.committed, j, 0⟩ ≠ _ ∨ s.gl.acks.contains (j, m.src) = true)
      simp only [hcom, ne_eq, not_true_eq_false, false_or, List.contains_iff_mem]
      exact hnew
    · rw [doAll_cons_run, doAll_cons_run, doAll_nil_run]
  have hset : (whenE (fun s => (s.jobModules j).all fun x => x = s.self || s.gl.acks.contains (j, x))
    (setAx ⟨.committed, j, 0⟩ 0)).Touches [] (fun _ => False) (fun _ => True) := touches_whenE (touches_setAx trivial)
  have hmod (f : GlazeSt → GlazeSt) : (modGl f).Touches [.gl] (fun _ => False) (fun _ => False) := touches_modGl (by simp)
  have hmods : s2.jobModules j = s.jobModules j := by
    have htake := takeMsg_touches m
    have hrd : s2.stRd = s.stRd := ((hmod _).stRd (by simp) (by simp) s1).trans (htake.stRd (by simp) (by simp) s)
    have hk : s2.jobTab j = s.jobTab j := rfl
    rw [State.jobModules, State.jobModules, hk]
    cases s.jobTab j with
    | none => rfl
    | some a => simp only [Option.elim_some, State.shardModules, stNum_congr hrd]
  refine ⟨_, congrArg Host.Outcome.next hrun, hset.same _ .gl (by simp) (by simp) (by simp), ?_,
    ((takeMsg_touches m).only _ (by simp) (by simp) (by simp)).trans (((hmod _).only _ (by simp) (by simp) (by simp)).trans
    (hset.only _ (by simp) (by simp) (by simp)))⟩
  rw [whenE_run, hmods]
  have hself : s2.self = s.self := rfl
  have hacks : s2.gl.acks = s.gl.acks ++ [(j, m.src)] := rfl
  rw [hself, hacks]
  split
  · simp
  · exact hcom

/-! ## The mirror of the partner (R377) -/

theorem withMirror_run {typ : Nat} {f : InMsg → Eff} (hlive : s.fabLive = true) (hm : s.msgAt 16 typ = some m)
    (hfirst : ∃ x, s.fb.inbox.find? (fun x => x.port = 16 && x.cls = 3) = some x ∧ x.typ = typ) :
    (withMirror typ f).run s = (f m).run ((takeMsg m).run s) := by
  obtain ⟨x, hx, htyp⟩ := hfirst
  have heq : withMirror typ f s = withMsg 16 typ f s := by
    rw [withMirror, hx]
    exact if_pos htyp
  rw [run_congr heq, withMsg_live hlive hm]

/-- A mirror write of some bytes at an address, if it lies in region r of stack p, and its ACK. -/
def mirrorPut (p r a : Nat) (data : List Byte) (src : Nat) : Eff :=
  doAll [whenE (fun s => p < 48 && s.inRegion p r a data.length) (doAll [storePut a data, countBytes fBytesWr a data.length]),
    sendAck 16 src false 2 3]

theorem effMwrite_eq : effMwrite = withMirror 0x30 fun m => fun s => mirrorPut (m.num 0 1 % 64) (2 + m.num 1 1 % 2)
    (s.regionBase (m.num 0 1 % 64) (2 + m.num 1 1 % 2) + m.num 8 8 % 2 ^ 40) (m.data.drop 16) m.src s := rfl

theorem mirrorPut_run {p r a src : Nat} {data : List Byte} (hp : p < 48) (hin : s.inRegion p r a data.length = true) :
    (mirrorPut p r a data src).run s = (sendAck 16 src false 2 3).run ((countBytes fBytesWr a data.length).run ((storePut a data).run s)) := by
  rw [mirrorPut, doAll_cons_run, doAll_cons_run, doAll_nil_run, whenE_run, if_pos (by rw [decide_eq_true hp, hin]; rfl), doAll_cons_run,
    doAll_cons_run, doAll_nil_run]

theorem mwrite_answers (hlive : s.fabLive = true) (hm : s.msgAt 16 0x30 = some m)
    (hfirst : ∃ x, s.fb.inbox.find? (fun x => x.port = 16 && x.cls = 3) = some x ∧ x.typ = 0x30) (hp : m.num 0 1 % 64 < 48)
    (hbad : s.badPart (s.regionBase (m.num 0 1 % 64) (2 + m.num 1 1 % 2) + m.num 8 8 % 2 ^ 40) (m.data.drop 16).length = false)
    (hin : s.inRegion (m.num 0 1 % 64) (2 + m.num 1 1 % 2) (s.regionBase (m.num 0 1 % 64) (2 + m.num 1 1 % 2) + m.num 8 8 % 2 ^ 40)
      (m.data.drop 16).length = true) : Answers .mwrite s fun t =>
      (∀ i (h : i < (m.data.drop 16).length), t.storeByte (s.regionBase (m.num 0 1 % 64) (2 + m.num 1 1 % 2) + m.num 8 8 % 2 ^ 40 + i) =
        (m.data.drop 16)[i]) ∧
      (∀ b, ¬ (s.regionBase (m.num 0 1 % 64) (2 + m.num 1 1 % 2) + m.num 8 8 % 2 ^ 40 ≤ b ∧
        b < s.regionBase (m.num 0 1 % 64) (2 + m.num 1 1 % 2) + m.num 8 8 % 2 ^ 40 + (m.data.drop 16).length) →
        t.storeByte b = s.storeByte b) ∧
      OnlyParts [.regs, .fb, .out, .store, .bad, .rm] s t := by
  set a := s.regionBase (m.num 0 1 % 64) (2 + m.num 1 1 % 2) + m.num 8 8 % 2 ^ 40
  set data := m.data.drop 16
  set s1 := (takeMsg m).run s
  have hrun : effMwrite.run s = (sendAck 16 m.src false 2 3).run ((countBytes fBytesWr a data.length).run ((storePut a data).run s1)) := by
    rw [effMwrite_eq, withMirror_run hlive hm hfirst]
    have hbase := (takeMsg_touches m).regionBase s (m.num 0 1 % 64) (2 + m.num 1 1 % 2) id
    have hin1 : s1.inRegion (m.num 0 1 % 64) (2 + m.num 1 1 % 2) a data.length = true := hin
    refine Eq.trans (b := (mirrorPut (m.num 0 1 % 64) (2 + m.num 1 1 % 2) a data m.src).run s1) (run_congr ?_) (mirrorPut_run hp hin1)
    rw [hbase]
  have hput := storePut_touches a data
  have hcount := countBytes_touches fBytesWr a data.length
  have hack := touches_sendAck (q := 16) (m := m.src) (al := false) (typ := 2) (cls := 3)
  have hbyte (t : State) (b : Nat) : ((sendAck 16 m.src false 2 3).run ((countBytes fBytesWr a data.length).run t)).storeByte b =
      t.storeByte b := (hack.storeByte _ b (by simp)).trans (hcount.storeByte _ b (by simp))
  refine ⟨_, congrArg Host.Outcome.next hrun, fun i hi => ?_, fun b hb => ?_, ((takeMsg_touches m).only _ (by simp) (by simp) (by simp)).trans
    ((hput.only _ (by simp) (by simp) (by simp)).trans ((hcount.only _ (by simp) (by simp) (by simp)).trans
    (hack.only _ (by simp) (by simp) (by simp))))⟩
  · rw [hbyte]
    exact storePut_byte (s := s1) hbad hi
  · rw [hbyte]
    exact storePut_byte_ne s1 (by omega)

/-- The other slot of the mirror pair is RETIRED where it was COMMITTED. -/
def mirrorRetires (p k : Nat) : Eff := whenE (fun s => s.hdrCommitted p 1 (1 - k)) (fun s =>
  writeHeader p 1 (1 - k) (s.hdrVer p 1 (1 - k)) (s.hdrAlt p 1 (1 - k)) 3 (s.hdrOwner p 1 (1 - k)) s)

theorem mirrorRetires_touches (p k : Nat) : (mirrorRetires p k).Touches [.store, .bad, .rm] (fun _ => False) (fun _ => False) :=
  touches_whenE (touches_fun (k := fun s => writeHeader p 1 (1 - k) (s.hdrVer p 1 (1 - k)) (s.hdrAlt p 1 (1 - k)) 3
    (s.hdrOwner p 1 (1 - k))) fun _ => writeHeader_touches _ _ _ _ _ _ _)

/-- The flip of a stack whose slot's header has an owner and an ALT. -/
def mirrorTurns (p k ver owner alt : Nat) : Eff :=
  doAll [mirrorRetires p k, writeHeader p 1 k ver alt 2 owner, setReg .slip p 0x188 (genWord k 1 owner alt ver)]

theorem mirrorFlip_run (s : State) (p k ver : Nat) :
    (mirrorFlip p k ver).run s = (mirrorTurns p k ver (s.hdrOwner p 1 k) (s.hdrAlt p 1 k)).run s := by
  refine run_congr ?_
  rw [mirrorFlip, mirrorTurns, mirrorRetires]

/-- The mirror generation of a stack is slot k with a version. -/
def State.mirrorIs (t : State) (p k ver : Nat) : Prop :=
  t.get (fCgen 1) p = k ∧ t.on (fGenValid 1) p = true ∧ t.get (fGenVer 1) p = ver

theorem mirrorFlip_shows {p k ver : Nat} (hk : k < 2) (hv : ver < 2 ^ 32) : ((mirrorFlip p k ver).run s).mirrorIs p k ver := by
  obtain ⟨h1, h2, h3, -⟩ := genWord_shows (k := k) (g := 1) (owner := s.hdrOwner p 1 k) (ver := ver)
    ((writeHeader p 1 k ver (s.hdrAlt p 1 k) 2 (s.hdrOwner p 1 k)).run ((mirrorRetires p k).run s)) p (s.hdrAlt p 1 k) hk
  rw [mirrorFlip_run, mirrorTurns, doAll_cons_run, doAll_cons_run, doAll_cons_run, doAll_nil_run]
  exact ⟨h1, h2, h3.trans (Nat.mod_eq_of_lt hv)⟩

theorem mirrorFlip_touches (p k ver : Nat) : (mirrorFlip p k ver).Touches [.store, .bad, .rm] (fun r => r = ⟨.slip, p, 0x188⟩)
    (fun _ => False) :=
  touches_of (fun s => mirrorTurns p k ver (s.hdrOwner p 1 k) (s.hdrAlt p 1 k)) (fun s => by rw [mirrorFlip, mirrorTurns, mirrorRetires])
    fun s => touches_doAll_cons ((mirrorRetires_touches p k).mono (fun _ h => h) (fun _ h => h.elim) (fun _ h => h)) (touches_doAll_cons
      ((writeHeader_touches _ _ _ _ _ _ _).mono (fun _ h => h) (fun _ h => h.elim) (fun _ h => h)) (touches_doAll_cons (touches_setReg rfl)
      touches_doAll_nil))

theorem mirrorIs_of_touches {e : Eff} {ps : List Component} {R : RK → Prop} {A : Aux → Prop} {p k ver : Nat} (he : e.Touches ps R A)
    (hR : ¬ R ⟨.slip, p, 0x188⟩) (h : s.mirrorIs p k ver) : (e.run s).mirrorIs p k ver :=
  ⟨(he.get s hR).trans h.1, (he.on s hR).trans h.2.1, (he.get s hR).trans h.2.2⟩

theorem mhdr_answers (hlive : s.fabLive = true) (hm : s.msgAt 16 0x31 = some m)
    (hfirst : ∃ x, s.fb.inbox.find? (fun x => x.port = 16 && x.cls = 3) = some x ∧ x.typ = 0x31) : Answers .mhdr s fun t =>
      (∀ p < 48, m.num 8 6 / 2 ^ p % 2 = 1 → t.get (fCgen 1) p = m.num 1 1 % 2 ∧ t.on (fGenValid 1) p = true ∧
        t.get (fGenVer 1) p = m.num 4 4) ∧ OnlyParts [.regs, .fb, .out, .store, .bad, .rm] s t := by
  set l := ports48.filter fun p => m.num 8 6 / 2 ^ p % 2 = 1
  have hrun : effMhdr.run s = (sendAck 16 m.src false 2 3).run
      ((forEach l fun p => mirrorFlip p (m.num 1 1 % 2) (m.num 4 4)).run ((takeMsg m).run s)) :=
    (withMirror_run hlive hm hfirst).trans (by rw [doAll_cons_run, doAll_cons_run, doAll_nil_run])
  have hack := touches_sendAck (q := 16) (m := m.src) (al := false) (typ := 2) (cls := 3)
  have hflips : (forEach l fun p => mirrorFlip p (m.num 1 1 % 2) (m.num 4 4)).Touches [.store, .bad, .rm] (fun _ => True) (fun _ => False) :=
    touches_forEach fun p _ => (mirrorFlip_touches _ _ _).mono (fun _ h => h) (fun _ _ => trivial) (fun _ h => h)
  refine ⟨_, congrArg Host.Outcome.next hrun, fun p hp hbit => mirrorIs_of_touches hack (by simp [sendOff]) ?_,
    ((takeMsg_touches m).only _ (by simp) (by simp) (by simp)).trans ((hflips.only _ (by simp) (by simp) (by simp)).trans
    (hack.only _ (by simp) (by simp) (by simp)))⟩
  refine forEach_once (k := fun p => mirrorFlip p (m.num 1 1 % 2) (m.num 4 4)) (P := fun t => t.mirrorIs p (m.num 1 1 % 2) (m.num 4 4))
    (Q := fun _ => True) (ports48_nodup.filter _) (List.mem_filter.2 ⟨List.mem_range.2 hp, decide_eq_true hbit⟩) (fun _ _ _ _ _ => trivial)
    (fun t _ => mirrorFlip_shows (Nat.mod_lt _ (by decide)) (num_four_lt m 4)) (fun c _ hc t ht => ?_) _ trivial
  exact mirrorIs_of_touches (mirrorFlip_touches c _ _) (by simp [Ne.symm hc]) ht

end Sys2Proof.Machine
end

section
/-! PROOFS. The abort of a step: its buckets and its events (chapter 11, R327), and the messages of a step settled (R326, R386). -/

namespace Sys2Proof.Machine

variable {s : State} {j n k : Nat}

/-! ## What a flush leaves of the buckets and of the pug units' events -/

/-- The parts a flush may change that hold no bucket. -/
def bucketless : List Component := [.hi, .out, .free, .tl, .sp, .ecc, .acc, .row, .rng, .net, .sl, .gl, .fb, .store, .bad, .rm]

/-- The registers a flush or the abort of a kiln may change. -/
def stopRegs (r : RK) : Prop := calmRegs r ∨ (r.blk = .kiln ∧ r.off = 0x018)

theorem bucketless_quiet : HasQuiet bucketless stopRegs := ⟨by decide, fun _ h => .inl h⟩

theorem fault_has_stop : HasQuiet faultParts stopRegs := ⟨faults_quiet.1, fun _ h => .inl h⟩

theorem not_stopRegs_evt (u : Nat) : ¬ stopRegs ⟨.pug, u, offEvtStatus⟩ := by
  simp [stopRegs, calmRegs, calmReg, calmBlks, offEvtStatus]

/-- An effect that leaves every bucket. -/
abbrev Eff.KeepsBkts (e : Eff) : Prop := e.Keeps fun s => s.pg.buckets

theorem keepsBkts_of_touches {e : Eff} {ps : List Component} {R : RK → Prop} {A : Aux → Prop} (he : e.Touches ps R A)
    (hp : Component.pg ∉ ps) : e.KeepsBkts := fun s => congrArg PugSt.buckets (he.same s .pg hp (by simp) (by simp) : _ = _)

theorem feedsEmpty_keepsBkts (l : List (Nat × Nat)) : (feedsEmpty l).KeepsBkts := by
  have hrest : (doAll [forEach l fun f => doAll [setF (fFeedFill f.2) f.1 0, setF (fFeedPos f.2) f.1 0,
      setAx ⟨.ringFreed, 36000 + f.1, f.2⟩ 0]]).Touches [] (fun _ => True) (fun _ => True) :=
    touches_doAll_cons (touches_forEach fun f _ => touches_doAll_cons (touches_setF trivial) (touches_doAll_cons (touches_setF trivial)
      (touches_doAll_cons (touches_setAx trivial) touches_doAll_nil))) touches_doAll_nil
  exact keeps_cons (fun _ => rfl) (keepsBkts_of_touches hrest (by decide))

theorem flushCtx_keepsBkts (k : Nat) : (flushCtx k).KeepsBkts := fun s => by
  have heq : ∃ f, flushCtx k s = doAll [forEach (s.kilnCtx k) (fun c => setF (fCtxState c.2) c.1 0),
      forEach (s.kilnWins k) (fun w => setF (fWinState w.2) w.1 0), modSl f, feedsEmpty (s.kilnFeeds k)] s := ⟨_, rfl⟩
  obtain ⟨f, heq⟩ := heq
  have hset (g : Fld) (i : Nat) : (setF g i 0).KeepsBkts := fun _ => rfl
  rw [run_congr heq]
  exact keeps_cons (keeps_forEach fun _ _ => hset _ _) (keeps_cons (keeps_forEach fun _ _ => hset _ _) (keeps_cons (fun _ => rfl)
    (keeps_cons (feedsEmpty_keepsBkts _) keeps_nil))) s

theorem flushKiln_keepsBkts (k : Nat) : (flushKiln k).KeepsBkts :=
  keeps_of _ (flushKiln_eq k) fun _ => keeps_cons (keeps_forEach fun _ _ => keepsBkts_of_touches (flushTile_faults _ bucketless_quiet)
    (by decide)) (keeps_cons (keepsBkts_of_touches (flushNet_faults k bucketless_quiet) (by decide)) (keeps_cons (flushCtx_keepsBkts k)
    (keeps_cons (keepsBkts_of_touches (closeXfers_faults k _ bucketless_quiet) (by decide)) keeps_nil)))

theorem abortKiln_keepsBkts (k : Nat) : (abortKiln k).KeepsBkts := fun s => by
  have hfin (v : W64) : (finishAll .kiln k 0x13 eOK v).KeepsBkts := keepsBkts_of_touches (finishAll_faults bucketless_quiet) (by decide)
  rcases abortKiln_cases k s with h | ⟨v, h⟩ | h
  · rw [run_congr h]
    exact keeps_cons (flushKiln_keepsBkts k) (keeps_cons (fun _ => rfl) (keeps_cons (fun _ => rfl) keeps_nil)) s
  · rw [run_congr h]
    exact keeps_cons (flushKiln_keepsBkts k) (keeps_cons (fun _ => rfl) (keeps_cons (fun _ => rfl) (keeps_cons (hfin v) keeps_nil))) s
  · rw [run_congr (f := skip) h, skip_run]

theorem abortTail_keepsBkts (j n : Nat) : (abortTail j n).KeepsBkts :=
  keepsBkts_of_touches (abortTail_faults j n bucketless_quiet) (by decide)

/-! ## Buckets of a step that is aborted -/

/-- A bucket ABORTED with a code. -/
def Bkt.aborted (b : Bkt) (code : Nat) : Bkt := { b with state := 6, code := code, vals := [], sum := [] }

/-- What an abort does to a bucket. -/
def bktAborts (code : Nat) (b : Bkt) : Eff :=
  doAll [putBkt (b.aborted code), bktStatus (b.aborted code), whenE (fun _ => b.state = 3) (lastDone (b.aborted code))]

theorem bktStatus_keepsBkts (b : Bkt) : (bktStatus b).KeepsBkts :=
  keepsBkts_of_touches (bktStatus_faults b (R := fun _ => True) ⟨bucketless_quiet.1, fun _ _ => trivial⟩) (by decide)

theorem bktAborts_bkts (s : State) (code : Nat) (b : Bkt) : ((bktAborts code b).run s).pg.buckets =
    s.pg.buckets.map fun x => if x.job = b.job && x.id = b.id then b.aborted code else x := by
  have hlast : (whenE (fun _ => b.state = 3) (lastDone (b.aborted code))).Touches [] (fun _ => True) (fun _ => False) :=
    touches_whenE (touches_setReg trivial)
  have hput (c : Bkt) : ((putBkt c).run s).pg.buckets = s.pg.buckets.map fun x => if x.job = c.job && x.id = c.id then c else x := rfl
  rw [bktAborts, doAll_cons_run, doAll_cons_run, doAll_cons_run, doAll_nil_run]
  refine (keepsBkts_of_touches hlast (by simp) _).trans ((bktStatus_keepsBkts _ _).trans ?_)
  exact hput (b.aborted code)

/-- The buckets of a job that are IDLE or have left the step, but for those of a list. -/
def State.settledBut (s : State) (j : Nat) (l : List Bkt) : Prop :=
  ∀ x ∈ s.pg.buckets, x.job = j → x.state = 0 ∨ 5 ≤ x.state ∨ ∃ b ∈ l, x.job = b.job ∧ x.id = b.id

theorem bktsAbort_settled {l : List Bkt} {code : Nat} : ∀ {s : State}, s.settledBut j l → ((forEach l (bktAborts code)).run s).settledBut j [] := by
  induction l with
  | nil => exact fun h => h
  | cons b l ih =>
    intro s h
    rw [forEach_cons_run]
    refine ih fun x hx hj => ?_
    rw [bktAborts_bkts, List.mem_map] at hx
    obtain ⟨y, hy, hyx⟩ := hx
    split at hyx
    · rw [← hyx]
      exact .inr (.inl (by simp [Bkt.aborted]))
    · rename_i hkey
      subst hyx
      rcases h y hy hj with h0 | h5 | ⟨c, hc, hck⟩
      · exact .inl h0
      · exact .inr (.inl h5)
      · refine .inr (.inr ⟨c, (List.mem_cons.1 hc).resolve_left fun hcb => hkey ?_, hck⟩)
        simp only [Bool.and_eq_true, decide_eq_true_eq]
        rwa [hcb] at hck

/-! ## What the abort of a step leaves -/

/-- What an abort records. -/
def abortNoted (j n code u origin : Nat) (info : Option Nat) (rcvd : Bool) : Eff :=
  doAll [withSome info (recordErrFree .pug u code) (fun i => recordErr .pug u code i),
    abortLast u code origin j n, setEvt .pug u (if rcvd then 4 else 3)]

/-- The records and buckets of the step that are dropped. -/
def abortDrops (s : State) (j n code : Nat) : Eff :=
  doAll [forEach (s.pg.buckets.filter fun b => b.job = j && 1 ≤ b.state && b.state ≤ 4) (bktAborts code), feedsEmpty (s.jobFeeds j),
    dropRecords j n]

theorem doAll_three_three (a b c d e f : Eff) (s : State) :
    (doAll [a, b, c, d, e, f]).run s = (doAll [d, e, f]).run ((doAll [a, b, c]).run s) := by
  simp only [doAll_cons_run, doAll_nil_run]

theorem abortHead_run (s t : State) (j n code u origin : Nat) (info : Option Nat) (rcvd : Bool) :
    (abortHead s j n code u origin info rcvd).run t = (abortDrops s j n code).run ((abortNoted j n code u origin info rcvd).run t) :=
  doAll_three_three ..

theorem abortLocal_run (s : State) (j n code u origin : Nat) (info : Option Nat) (rcvd : Bool) :
    (abortLocal j n code u origin info rcvd).run s = (abortTail j n).run ((forEach (s.jobKilns j) abortKiln).run
      ((abortDrops s j n code).run ((abortNoted j n code u origin info rcvd).run s))) := by
  rw [run_congr (abortLocal_eq j n code u origin info rcvd s), doAll_cons_run, doAll_cons_run, doAll_cons_run, doAll_nil_run, abortHead_run]

theorem abortNoted_touches (j n code u origin : Nat) (info : Option Nat) (rcvd : Bool) :
    (abortNoted j n code u origin info rcvd).Touches [.hi, .free] (fun r => r.blk = .pug ∧ r.inst = u) (fun _ => False) :=
  touches_doAll_cons (touches_withSome (touches_recordErrFree ⟨rfl, rfl⟩ ⟨rfl, rfl⟩ (by simp) (by simp)) fun _ =>
    touches_recordErr ⟨rfl, rfl⟩ ⟨rfl, rfl⟩ (by simp)) (touches_doAll_cons (touches_setReg ⟨rfl, rfl⟩) (touches_doAll_cons
    (touches_setEvt ⟨rfl, rfl⟩ (by simp)) touches_doAll_nil))

theorem abortNoted_evt (s : State) (j n code u origin : Nat) (info : Option Nat) (rcvd : Bool) :
    ((abortNoted j n code u origin info rcvd).run s).on (fEvt .pug (if rcvd then 4 else 3)) u = true := by
  rw [abortNoted, doAll_cons_run, doAll_cons_run, doAll_cons_run, doAll_nil_run]
  exact setEvt_on (by split <;> omega)

section
variable {u b : Nat}

theorem holdsEvt_drawFree {blk : Blk} {i b : Nat} {f : W64 → Eff} (h : ∀ w, (f w).HoldsEvt blk i b) : (drawFree f).HoldsEvt blk i b :=
  fun s hs => by
    rw [drawFree_run]
    exact h _ _ hs

theorem bktStatus_holdsEvt (hb : b < 63) (x : Bkt) : (bktStatus x).HoldsEvt .pug u b := fun s hs => by
  have hrec : (recordErrFree .pug x.chan eECC_UE).HoldsEvt .pug u b := holdsEvt_drawFree fun _ => holdsEvt_recordErr hb _ _ _ _
  by_cases hbad : s.badPart (x.addr + 48) (leBytes 8 (bktWord6 x) ++ leBytes 8 (bktWord7 x)).length = true
  · rw [run_congr (f := recordErrFree .pug x.chan eECC_UE) (if_pos hbad)]
    exact hrec s hs
  · rw [run_congr (f := storePutOr (x.addr + 48) (leBytes 8 (bktWord6 x) ++ leBytes 8 (bktWord7 x)) skip)
      ((if_neg hbad).trans (if_neg hbad).symm)]
    exact holdsEvt_of_touches (touches_storePutOr (ps := [.store, .bad, .rm]) (R := fun _ => False) (A := fun _ => False) (by decide)
      (by decide) (by decide) touches_skip) id s hs

theorem bktAborts_holdsEvt (hb : b < 63) (code : Nat) (x : Bkt) : (bktAborts code x).HoldsEvt .pug u b := by
  have hput : (putBkt (x.aborted code)).Touches [.pg] (fun _ => False) (fun _ => False) := touches_modPg (by simp)
  have hlast : (lastDone (x.aborted code)).Touches [] (fun r => r.off = 0x108) (fun _ => False) := touches_setReg rfl
  exact holdsEvt_cons (holdsEvt_of_touches hput id) (holdsEvt_cons (bktStatus_holdsEvt hb _) (holdsEvt_cons (holdsEvt_whenE
    (holdsEvt_of_touches hlast (by simp [offEvtStatus]))) holdsEvt_nil))

theorem abortDrops_holdsEvt (hb : b < 63) (s : State) (j n code : Nat) : (abortDrops s j n code).HoldsEvt .pug u b := by
  have hfeeds : (feedsEmpty (s.jobFeeds j)).FaultsIn faultParts stopRegs := feedsEmpty_faults _ fault_has_stop
  have hdrop : (dropRecords j n).Touches [.fb] (fun _ => False) (fun _ => False) := touches_modFb (by simp)
  exact holdsEvt_cons (holdsEvt_forEach fun x _ => bktAborts_holdsEvt hb code x) (holdsEvt_cons (holdsEvt_of_touches hfeeds
    (not_stopRegs_evt u)) (holdsEvt_cons (holdsEvt_of_touches hdrop id) holdsEvt_nil))

theorem abortKilns_holdsEvt (l : List Nat) : (forEach l abortKiln).HoldsEvt .pug u b :=
  holdsEvt_forEach fun k _ => holdsEvt_of_touches (abortKiln_faults k fault_has_stop (by decide) (by decide) (.inr ⟨rfl, rfl⟩))
    (not_stopRegs_evt u)

theorem abortTail_holdsEvt (j n : Nat) : (abortTail j n).HoldsEvt .pug u b :=
  holdsEvt_of_touches (abortTail_faults j n fault_has_stop) (not_stopRegs_evt u)

end

theorem abortDrops_settled (s t : State) (j n code : Nat) (ht : t.pg.buckets = s.pg.buckets) :
    ((abortDrops s j n code).run t).settledBut j [] := by
  have hstart : t.settledBut j (s.pg.buckets.filter fun b => b.job = j && 1 ≤ b.state && b.state ≤ 4) := fun x hx hj => by
    by_cases h0 : x.state = 0
    · exact .inl h0
    by_cases h5 : 5 ≤ x.state
    · exact .inr (.inl h5)
    · refine .inr (.inr ⟨x, List.mem_filter.2 ⟨ht ▸ hx, ?_⟩, rfl, rfl⟩)
      simp [hj]
      omega
  have hdrop : (dropRecords j n).KeepsBkts := fun _ => rfl
  have h := bktsAbort_settled (code := code) hstart
  rw [State.settledBut] at h ⊢
  rw [abortDrops, doAll_cons_run, doAll_cons_run, doAll_cons_run, doAll_nil_run]
  have hb : ∀ u : State, ((dropRecords j n).run ((feedsEmpty (s.jobFeeds j)).run u)).pg.buckets = u.pg.buckets :=
    fun u => (hdrop _).trans (feedsEmpty_keepsBkts _ u)
  rwa [hb]

theorem abortTail_shows (s : State) (j n : Nat) : ((abortTail j n).run s).ax ⟨.stepOpen, j, 0⟩ = 0 ∧
    ((abortTail j n).run s).ax ⟨.stepAborted, j, 0⟩ = n + 1 := by
  rw [abortTail, doAll_cons_run, doAll_cons_run, doAll_cons_run, doAll_cons_run, doAll_nil_run]
  simp

/-- The abort of a step on this module: the step is closed, it is the one aborted, the event shows, and no bucket is in it. -/
theorem abortLocal_shows (s : State) (j n code u origin : Nat) (info : Option Nat) (rcvd : Bool) :
    ((abortLocal j n code u origin info rcvd).run s).ax ⟨.stepOpen, j, 0⟩ = 0 ∧
    ((abortLocal j n code u origin info rcvd).run s).ax ⟨.stepAborted, j, 0⟩ = n + 1 ∧
    ((abortLocal j n code u origin info rcvd).run s).on (fEvt .pug (if rcvd then 4 else 3)) u = true ∧
    ∀ b ∈ ((abortLocal j n code u origin info rcvd).run s).pg.buckets, b.job = j → b.state = 0 ∨ 5 ≤ b.state := by
  have hbit : (if rcvd = true then 4 else 3) < 63 := by split <;> omega
  have hnoted : ((abortNoted j n code u origin info rcvd).run s).pg.buckets = s.pg.buckets :=
    keepsBkts_of_touches (abortNoted_touches j n code u origin info rcvd) (by decide) s
  have hdrops := abortDrops_settled s _ j n code hnoted
  have hbkts (t : State) : ((abortTail j n).run ((forEach (s.jobKilns j) abortKiln).run t)).pg.buckets = t.pg.buckets :=
    (abortTail_keepsBkts j n _).trans (keeps_forEach (fun k _ => abortKiln_keepsBkts k) t)
  rw [abortLocal_run]
  refine ⟨(abortTail_shows _ j n).1, (abortTail_shows _ j n).2, ?_, fun b hb hj => ?_⟩
  · exact abortTail_holdsEvt j n _ (abortKilns_holdsEvt _ _ (abortDrops_holdsEvt hbit s j n code _ (abortNoted_evt s j n code u origin info
      rcvd)))
  · rw [hbkts] at hb
    rcases hdrops b hb hj with h | h | ⟨c, hc, -⟩
    · exact .inl h
    · exact .inr h
    · exact absurd hc (by simp)

/-! ## ABORT received -/

section
variable {q : Nat} {m : InMsg} (hlive : s.fabLive = true) (hm : s.msgAt q 0x11 = some m)
include hlive hm

theorem abortMessage_answers (hopen : s.openStep (m.num 0 1) = some (m.num 4 4)) : Answers (.abortBroadcastReceive q) s fun t =>
      t.ax ⟨.stepOpen, m.num 0 1, 0⟩ = 0 ∧ t.ax ⟨.stepAborted, m.num 0 1, 0⟩ = m.num 4 4 + 1 ∧
      t.on (fEvt .pug 4) (s.jobPug (m.num 0 1)) = true ∧
      (∀ b ∈ t.pg.buckets, b.job = m.num 0 1 → b.state = 0 ∨ 5 ≤ b.state) := by
  have hrun : (effAbortBroadcastReceive q).run s = (abortLocal (m.num 0 1) (m.num 4 4) (m.num 1 1) (s.jobPug (m.num 0 1))
      (m.num 2 2 % 4096) none true).run ((takeMsg m).run s) := (withMsg_live hlive hm).trans (run_congr (if_pos hopen))
  exact ⟨_, congrArg Host.Outcome.next hrun, abortLocal_shows ..⟩

theorem abortStale_answers (hopen : s.openStep (m.num 0 1) ≠ some (m.num 4 4)) : Answers (.abortBroadcastReceive q) s fun t =>
      t.get fPugStale (s.jobPug (m.num 0 1)) = min (s.get fPugStale (s.jobPug (m.num 0 1)) + 1) 0xFFFF ∧
      OnlyParts [.regs, .hi, .fb] s t := by
  have hrun : (effAbortBroadcastReceive q).run s = (staleDrop (s.jobPug (m.num 0 1))).run ((takeMsg m).run s) :=
    (withMsg_live hlive hm).trans (run_congr (if_neg hopen))
  have hevt : (setEvt .pug (s.jobPug (m.num 0 1)) 5).Touches [.hi] (fun r => r.off = offEvtStatus) (fun _ => False) :=
    touches_setEvt rfl (by simp)
  have hcount : (addSat fPugStale (s.jobPug (m.num 0 1)) 1).Touches [] (fun _ => True) (fun _ => False) := touches_addSat trivial
  rw [staleDrop, doAll_cons_run, doAll_cons_run, doAll_nil_run] at hrun
  refine ⟨_, congrArg Host.Outcome.next hrun, ?_, ((takeMsg_touches m).only _ (by simp) (by simp) (by simp)).trans
    ((hcount.only _ (by simp) (by simp) (by simp)).trans (hevt.only _ (by simp) (by simp) (by simp)))⟩
  rw [hevt.get _ (by simp [fPugStale, offEvtStatus]), get_addSat_same (by decide)]
  rfl

end

/-- Settles O42: the messages of a step, of segments and of the mirror, one after the other. -/
theorem messagesAct : Obligations.MessagesAct := by
  unfold Obligations.MessagesAct
  refine ⟨fun s q m hlive hm => ⟨fun hnext => recordHeld_answers hlive hm hnext, fun b hnext hstep hopen hb hst hbad hstage hsrc herr => ?_⟩,
    fun s q m hlive => ⟨?_, ?_, ?_, ?_, ?_, ?_⟩, fun s q m hlive hm => segReq_answers hlive hm, fun s q v x hlive hn hv hal hst hsize hvalid
    hbad hx => serveStart_answers hlive hn hv hal hst hsize hvalid hbad hx, fun s q i v hv hsent => serveDone_answers hv hsent,
    fun s q m g hlive hm hg hw hidle hcode herr => segData_answers hlive hm hg hw hidle hcode herr,
    fun s tag g hg hw hidle hctx => segReadTimeout_answers hg hw hidle hctx,
    fun s m hlive hm hfirst hp hbad hin => mwrite_answers hlive hm hfirst hp hbad hin, fun s m hlive hm hfirst => mhdr_answers hlive hm hfirst⟩
  · exact recordAdded_answers hlive hm hnext hstep hopen hb hst hbad hstage hsrc herr
  · exact fun hm hopen => abortMessage_answers hlive hm hopen
  · exact fun hm hopen => abortStale_answers hlive hm hopen
  · exact fun hm hstep hcoord hnew hvoted => vote_answers hlive hm hstep hcoord hnew hvoted
  · exact fun hm hopen hvoted => commit_answers hlive hm hopen hvoted
  · exact fun hm hopen hvoted => commitHeld_answers hlive hm hopen hvoted
  · exact fun hm hcom hnew => commitAck_answers hlive hm hcom hnew

end Sys2Proof.Machine
end

section
/-! PROOFS. Writes of the TILE and TDMA pages that act (chapters 04 and 08, R113, R123, R124, R238, R239, Table 08-5). -/

namespace Sys2Proof.Machine

variable {s : State} {src : Src} {t p : Nat} {v : W64} {root : Bool}

/-! ## QCFG and SHADOW_READY -/

theorem qcfg_answers {q : Nat} (hl : s.lets src .tile t true) (hq : q < 14) (hst : s.get fTileState (s.phys t) = 0)
    (hbase : getBits v 0 21 % 64 = 0) (hlog : getBits v 24 4 ≠ 15)
    (hen : getBits v 32 1 = 1 → getBits v 0 21 + 64 * 2 ^ getBits v 24 4 ≤ spSize ∧
      s.ringMeets (s.phys t) q (getBits v 0 21) (getBits v 24 4) = false) :
    Answers (.qcfgWrite src t q v) s fun u => TookNumber s .tile (s.phys t) u ∧
      u.rd .tile (s.phys t) (0x440 + 8 * q) = v &&& 0x10F1FFFFF ∧ OnlyParts [.regs, .seq] s u ∧
      RegsKeptBut (fun b i o => b = .tile ∧ i = s.phys t ∧ (o = 0x440 + 8 * q ∨ o = offSeq)) s u := by
  have hbad : ((decide (getBits v 0 21 % 64 ≠ 0) || decide (getBits v 24 4 = 15)) || (decide (getBits v 32 1 = 1) &&
      (decide (spSize < getBits v 0 21 + 64 * 2 ^ getBits v 24 4) || s.ringMeets (s.phys t) q (getBits v 0 21) (getBits v 24 4)))) = false := by
    by_cases h : getBits v 32 1 = 1
    · obtain ⟨h1, h2⟩ := hen h
      simp only [h2, Bool.or_false, hbase, hlog]
      simpa using fun _ => h1
    · simp [h, hbase, hlog]
  refine ⟨_, congrArg Host.Outcome.next ((write_accepted hl (by omega) ?_).trans (run_congr (f := setReg .tile (s.phys t) (0x440 + 8 * q)
    (v &&& 0x10F1FFFFF)) (if_pos hq))), load_frame (s := s) (blk := .tile) (key := s.phys t) (fun _ => v &&& 0x10F1FFFFF)
    (by simp only [offSeq]; omega)⟩
  simp only [firstErr, errIf, Bool.not_true, Bool.false_eq_true, if_false, hst, ne_eq, not_true_eq_false, decide_false]
  rw [hbad]
  rfl

theorem shadowReady_answers (hl : s.lets src .tile t root) : Answers (.shadowReadySet src t v) s fun u =>
      TookNumber s .tile (s.phys t) u ∧
      (u.on fShadowReady (s.phys t) = (s.on fShadowReady (s.phys t) || decide (getBits v 1 1 = 1))) ∧ OnlyParts [.regs, .seq] s u ∧
      RegsKeptBut (fun b i o => b = .tile ∧ i = s.phys t ∧ (o = 0x108 ∨ o = offSeq)) s u := by
  have hrun := write_accepted (i := .shadowReadySet src t v) (off := 0x108) (check := noCheck)
    (act := fun _ s => if getBits v 1 1 = 1 then setF fShadowReady (s.phys t) 1 s else []) hl (by decide) rfl
  set u := s.numbered .tile (s.key .tile t)
  have heq : (fun s => if getBits v 1 1 = 1 then setF fShadowReady (s.phys t) 1 s else [] : Eff) u =
      whenE (fun _ => getBits v 1 1 = 1) (setF fShadowReady (s.phys t) 1) u := by
    by_cases h : getBits v 1 1 = 1
    · simp only [h, if_true]
      rfl
    · simp only [h, if_false]
      rfl
  have htouch : (whenE (fun _ => getBits v 1 1 = 1) (setF fShadowReady (s.phys t) 1)).Touches [] (fun r => r = ⟨.tile, s.phys t, 0x108⟩)
    (fun _ => False) := touches_whenE (touches_setF rfl)
  obtain ⟨hnum, honly, hkept⟩ := write_frame (s := s) htouch [.regs, .seq] (fun b i o => b = .tile ∧ i = s.phys t ∧ (o = 0x108 ∨ o = offSeq))
    (by simp) (by simp) (by simp) (by simp) (by simp) (by simp [offSeq]) (by rintro b i o ⟨⟩; exact ⟨rfl, rfl, .inl rfl⟩) ⟨rfl, rfl, .inr rfl⟩
  refine ⟨_, congrArg Host.Outcome.next (hrun.trans (run_congr heq)), hnum, ?_, honly, hkept⟩
  have hbefore : u.on fShadowReady (s.phys t) = s.on fShadowReady (s.phys t) := numbered_on (by decide)
  rw [whenE_run]
  split
  · rename_i h
    rw [on_setF_same (by decide), h]
    simp only [fShadowReady]
    simp
  · rename_i h
    rw [hbefore]
    have h' : getBits v 1 1 ≠ 1 := by simpa using h
    simp [h']

/-! ## The instruction memory and the scratchpad's injector -/

/-- A slot written and SLOT stepped on under AUTO_INC. -/
def imemTaken (p bank slot : Nat) (w : W128) : Eff :=
  doAll [imemPut p bank slot w, whenE (fun s => s.on fImAuto p) (setF fImSlot p ((slot + 1) % 2048))]

theorem imemPut_run (p bank slot : Nat) (w : W128) : (imemPut p bank slot w).run s =
    (doAll [fun _ => [.imem (imemKey p bank slot) w], whenE (fun _ => bank % 2 ≠ s.get fActive p) (setF fShadowReady p 0)]).run s :=
  run_congr rfl

theorem imemPut_touches (p bank slot : Nat) (w : W128) : (imemPut p bank slot w).Touches [.imem] (fun k => k = ⟨.tile, p, 0x108⟩)
    (fun _ => False) := by
  refine touches_of (fun s => doAll [fun _ => [.imem (imemKey p bank slot) w],
    whenE (fun _ => bank % 2 ≠ s.get fActive p) (setF fShadowReady p 0)]) (fun _ => rfl) fun s => touches_doAll ?_
  rintro e he
  simp only [List.mem_cons, List.not_mem_nil, or_false] at he
  rcases he with rfl | rfl
  · intro s u hu
    simp only [List.mem_singleton] at hu
    subst hu
    exact ⟨by simp [Upd.parts], trivial⟩
  · exact touches_whenE (touches_setF rfl)

theorem imemTaken_touches (p bank slot : Nat) (w : W128) : (imemTaken p bank slot w).Touches [.imem]
    (fun k => k.blk = .tile ∧ k.inst = p ∧ (k.off = 0x108 ∨ k.off = 0x110)) (fun _ => False) := by
  refine touches_doAll ?_
  simp only [List.forall_mem_cons, List.not_mem_nil, false_implies, implies_true, and_true]
  refine ⟨Eff.Touches.mono (imemPut_touches p bank slot w) (fun _ h => h) (by rintro k rfl; exact ⟨rfl, rfl, .inl rfl⟩) fun _ h => h, touches_whenE (touches_setF ?_)⟩
  exact ⟨rfl, rfl, .inr rfl⟩

theorem imemTaken_imem (p bank slot : Nat) (w : W128) : ((imemTaken p bank slot w).run s).imem = fset id (fun _ => 0) s.imem (imemKey p bank slot) w := by
  have hset : ∀ {t : State} {f : Fld} {i x : Nat} {c : State → Bool}, ((whenE c (setF f i x)).run t).imem = t.imem := fun {t f i x c} =>
    (touches_whenE (c := c) (touches_setF (ps := []) (R := fun k => k = ⟨f.blk, i, f.off⟩) (A := fun _ => False) rfl)).same t .imem
      (by simp) (by simp) (by simp)
  rw [imemTaken, doAll_cons_run, doAll_cons_run, doAll_nil_run, hset, imemPut_run, doAll_cons_run, doAll_cons_run, doAll_nil_run, hset]
  rfl

theorem imemTaken_slot (p bank slot : Nat) (w : W128) : ((imemTaken p bank slot w).run s).slot p bank slot = w ∧
    ∀ b k, b < 2 → k < 2048 → bank < 2 → slot < 2048 → ¬ (b = bank ∧ k = slot) →
      ((imemTaken p bank slot w).run s).slot p b k = s.slot p b k := by
  simp only [State.slot, imemTaken_imem, fget_fset]
  refine ⟨if_pos trivial, fun b k hb hk hbank hslot hne => if_neg ?_⟩
  simp only [imemKey]
  omega

theorem imemTaken_on (p bank slot : Nat) (w : W128) (hb : bank < 2) (h : bank ≠ s.get fActive p) :
    ((imemTaken p bank slot w).run s).on fShadowReady p = false := by
  rw [imemTaken, doAll_cons_run, doAll_cons_run, doAll_nil_run, (touches_whenE (touches_setF
    (ps := []) (R := fun k => k = ⟨.tile, p, 0x110⟩) (A := fun _ => False) rfl)).on _ (by simp [fShadowReady]), imemPut_run,
    doAll_cons_run, doAll_cons_run, doAll_nil_run, whenE_run, if_pos (by simpa [Nat.mod_eq_of_lt hb] using h), on_setF_same (by decide)]
  simp

theorem imemTaken_get (p bank slot : Nat) (w : W128) (h : s.get fImSlot p = slot) : ((imemTaken p bank slot w).run s).get fImSlot p =
    if s.on fImAuto p then (slot + 1) % 2048 else slot := by
  have hon : ((imemPut p bank slot w).run s).on fImAuto p = s.on fImAuto p := (imemPut_touches p bank slot w).on s (by simp [fImAuto])
  rw [imemTaken, doAll_cons_run, doAll_cons_run, doAll_nil_run, whenE_run, hon]
  split
  · rw [get_setF_same (by decide)]
    simp only [fImSlot]
    omega
  · rw [(imemPut_touches p bank slot w).get s (by simp [fImSlot]), h]

theorem imemWrite_answers (hl : s.lets src .tile t true) (h : s.get fTileState (s.phys t) = 0 ∨ s.get fImBank (s.phys t) ≠ s.get fActive (s.phys t)) :
    Answers (.imemDataHiWrite src t v) s fun u => TookNumber s .tile (s.phys t) u ∧
      u.slot (s.phys t) (s.get fImBank (s.phys t)) (s.get fImSlot (s.phys t)) = v ++ s.rd .tile (s.phys t) 0x118 ∧
      (∀ b k, b < 2 → k < 2048 → ¬ (b = s.get fImBank (s.phys t) ∧ k = s.get fImSlot (s.phys t)) →
        u.slot (s.phys t) b k = s.slot (s.phys t) b k) ∧
      (s.get fImBank (s.phys t) ≠ s.get fActive (s.phys t) → u.on fShadowReady (s.phys t) = false) ∧
      u.get fImSlot (s.phys t) = (if s.on fImAuto (s.phys t) then (s.get fImSlot (s.phys t) + 1) % 2048 else s.get fImSlot (s.phys t)) ∧
      OnlyParts [.regs, .seq, .imem] s u ∧
      RegsKeptBut (fun b i o => b = .tile ∧ i = s.phys t ∧ (o = 0x108 ∨ o = 0x110 ∨ o = offSeq)) s u := by
  set p := s.phys t with hp
  set n := s.numbered .tile p with hn
  set w : W128 := v ++ s.rd .tile p 0x118
  have hbank : n.get fImBank p = s.get fImBank p := numbered_get (by decide)
  have hslot : n.get fImSlot p = s.get fImSlot p := numbered_get (by decide)
  have hact : n.get fActive p = s.get fActive p := numbered_get (by decide)
  have hauto : n.on fImAuto p = s.on fImAuto p := numbered_on (by decide)
  have hlow : n.rd .tile p 0x118 = s.rd .tile p 0x118 := by rw [hn, numbered_rd, if_neg (by simp [offSeq])]
  have hrun : (inTurn src (.imemDataHiWrite src t v) (effImemDataHiWrite src t v)).run s =
      (imemTaken p (s.get fImBank p) (s.get fImSlot p) w).run n := by
    refine (write_accepted hl (by decide) ?_).trans (run_congr ?_)
    · simp only [firstErr, errIf, Bool.not_true, Bool.false_eq_true, if_false]
      rw [if_neg fun hc => h.elim hc.1 fun hne => hne hc.2]
      rfl
    · show doAll [imemPut p (n.get fImBank p) (n.get fImSlot p) (v ++ n.rd .tile p 0x118),
        whenE (fun s => s.on fImAuto p) (setF fImSlot p ((n.get fImSlot p + 1) % 2048))] n = _
      rw [hbank, hslot, hlow]
      rfl
  obtain ⟨hnum, honly, hkept⟩ := write_frame (s := s) (imemTaken_touches p (s.get fImBank p) (s.get fImSlot p) w) [.regs, .seq, .imem]
    (fun b i o => b = .tile ∧ i = p ∧ (o = 0x108 ∨ o = 0x110 ∨ o = offSeq)) (by simp) (by simp) (by simp) (by simp) (by simp) (by simp [offSeq])
    (by rintro b i o ⟨rfl, rfl, h | h⟩ <;> simp_all) ⟨rfl, rfl, .inr (.inr rfl)⟩
  obtain ⟨hsame, hother⟩ := imemTaken_slot (s := n) p (s.get fImBank p) (s.get fImSlot p) w
  refine ⟨_, congrArg Host.Outcome.next hrun, hnum, hsame,
    fun b k hb hk hne => (hother b k hb hk (get_lt s fImBank p) (get_lt s fImSlot p) hne).trans ?_,
    fun hne => imemTaken_on _ _ _ _ (get_lt s fImBank p) (by rwa [hact]), ?_, honly, hkept⟩
  · simp only [State.slot]
    rfl
  · rw [imemTaken_get _ _ _ _ hslot, hauto]

theorem imemWrite_refused (hl : s.lets src .tile t true) (hst : s.get fTileState (s.phys t) ≠ 0)
    (hb : s.get fImBank (s.phys t) = s.get fActive (s.phys t)) :
    Answers (.imemDataHiWrite src t v) s fun u => u.imem = s.imem ∧
      (s.get (fErrCode .tile) (s.phys t) = 0 → u.get (fErrCode .tile) (s.phys t) = eIMEM_ACTIVE ∧
        u.get (fErrInfo .tile) (s.phys t) = s.get fImBank (s.phys t) * 0x800 + s.get fImSlot (s.phys t)) ∧
      OnlyParts [.regs, .hi] s u := by
  obtain ⟨hturn, hacc, hpres, -, -⟩ := id hl
  have hrun : (inTurn src (.imemDataHiWrite src t v) (effImemDataHiWrite src t v)).run s =
      (recordErr .tile (s.phys t) eIMEM_ACTIVE (s.get fImBank (s.phys t) * 0x800 + s.get fImSlot (s.phys t))).run s := by
    rw [inTurn_run hturn]
    refine (regWrite_refused (e := ⟨eIMEM_ACTIVE, some (s.get fImBank (s.phys t) * 0x800 + s.get fImSlot (s.phys t))⟩) hacc hpres
      (by decide) ?_).trans (run_congr rfl)
    simp only [firstErr, errIf, Bool.not_true, Bool.false_eq_true, if_false]
    rw [if_pos ⟨hst, hb⟩]
    rfl
  have htouch := recordErr_touches .tile (s.phys t) eIMEM_ACTIVE (s.get fImBank (s.phys t) * 0x800 + s.get fImSlot (s.phys t))
  refine ⟨_, congrArg Host.Outcome.next hrun, (htouch.same s .imem (by simp) (by simp) (by simp) : _ = _), fun hz => ?_,
    htouch.only s (by simp) (by simp) (by simp)⟩
  obtain ⟨hcode, hinfo⟩ := recordErr_err (code := eIMEM_ACTIVE) (info := s.get fImBank (s.phys t) * 0x800 + s.get fImSlot (s.phys t))
    (by decide) hz
  have h1 : s.get fImBank (s.phys t) < 2 := get_lt s fImBank _
  have h2 : s.get fImSlot (s.phys t) < 2048 := get_lt s fImSlot _
  exact ⟨hcode, hinfo.trans (Nat.mod_eq_of_lt (by omega))⟩

theorem imemRead_answers (h : s.present .tile t = true) : Answers (.imemDataHiRead t) s fun u =>
      u.out = .readData ((s.slot (s.phys t) (s.get fImBank (s.phys t)) (s.get fImSlot (s.phys t)) >>> 64).setWidth 64) :: s.out ∧
      u.get fImSlot (s.phys t) = (if s.on fImAuto (s.phys t) then (s.get fImSlot (s.phys t) + 1) % 2048 else s.get fImSlot (s.phys t)) ∧
      OnlyParts [.regs, .out] s u ∧ RegsKeptBut (fun b i o => b = .tile ∧ i = s.phys t ∧ o = 0x110) s u := by
  set p := s.phys t with hp
  set shown := (s.slot p (s.get fImBank p) (s.get fImSlot p) >>> 64).setWidth 64
  set on := whenE (fun s => s.on fImAuto p) (setF fImSlot p ((s.get fImSlot p + 1) % 2048))
  have hrun : (effImemDataHiRead t).run s = on.run ((emit (.readData shown)).run s) := by
    refine (run_congr (f := doAll [emit (.readData shown), on]) ?_).trans ?_
    · simp only [effImemDataHiRead, h, Bool.not_true, Bool.false_eq_true, if_false]
      rfl
    · rw [doAll_cons_run, doAll_cons_run, doAll_nil_run]
  have hon : on.Touches [.out] (fun k => k = ⟨.tile, p, 0x110⟩) (fun _ => False) := touches_whenE (touches_setF rfl)
  have hemit : (emit (.readData shown)).Touches [.out] (fun k => k = ⟨.tile, p, 0x110⟩) (fun _ => False) := touches_emit (by simp)
  have hauto : ((emit (.readData shown)).run s).on fImAuto p = s.on fImAuto p := rfl
  have hboth := touches_doAll (es := [emit (.readData shown), on]) (by simpa using ⟨hemit, hon⟩)
  have hrun' : (effImemDataHiRead t).run s = (doAll [emit (.readData shown), on]).run s := by
    rw [hrun, doAll_cons_run, doAll_cons_run, doAll_nil_run]
  refine ⟨_, rfl, ?_, ?_, ?_, ?_⟩
  · rw [hrun]
    exact (Eff.Touches.same (e := on) (ps := []) (R := fun k => k = ⟨.tile, p, 0x110⟩) (A := fun _ => False)
      (touches_whenE (touches_setF rfl)) _ .out (by simp) (by simp) (by simp) : _ = _)
  · rw [hrun, whenE_run, hauto]
    split
    · rw [get_setF_same (by decide)]
      simp only [fImSlot]
      omega
    · rfl
  · rw [hrun']
    exact hboth.only s (by simp) (by simp) (by simp)
  · rw [hrun']
    exact hboth.regsKept s _ (by rintro b i o ⟨⟩; exact ⟨rfl, rfl, rfl⟩)

theorem spInject_answers (hl : s.lets src .tile t true) (h8 : getBits v 0 21 % 8 = 0) (hlt : getBits v 0 21 < spSize)
    (ha : getBits v 32 7 ≤ 71) (hb : getBits v 40 7 ≤ 71) (hgo : getBits v 48 1 = 1) :
    Answers (.spInject src t v) s fun u => TookNumber s .tile (s.phys t) u ∧
      u.eccMask (s.phys t) (getBits v 0 21) = s.eccMask (s.phys t) (getBits v 0 21) ^^^
        (2 ^ getBits v 32 7 ^^^ if getBits v 47 1 = 1 then 2 ^ getBits v 40 7 else 0) ∧
      OnlyParts [.regs, .seq, .ecc] s u ∧ RegsKeptBut (fun b i o => b = .tile ∧ i = s.phys t ∧ o = offSeq) s u := by
  set m := 2 ^ getBits v 32 7 ^^^ if getBits v 47 1 = 1 then 2 ^ getBits v 40 7 else 0
  have hrun : (inTurn src (.spInject src t v) (effSpInject src t v)).run s =
      (eccFlip (s.phys t) (getBits v 0 21) m).run (s.numbered .tile (s.phys t)) := by
    refine (write_accepted hl (by decide) ?_).trans (run_congr ?_)
    · simp only [firstErr, errIf, Bool.not_true, Bool.false_eq_true, if_false, h8]
      rw [decide_eq_false (show ¬ spSize ≤ _ by omega), decide_eq_false (show ¬ 71 < _ by omega), decide_eq_false (show ¬ 71 < _ by omega)]
      rfl
    · show whenE (fun _ => getBits v 48 1 = 1) _ _ = _
      simp only [whenE, hgo, decide_true, if_true]
      rfl
  have htouch : (eccFlip (s.phys t) (getBits v 0 21) m).Touches [.ecc] (fun _ => False) (fun _ => False) := by
    intro s u hu
    simp only [eccFlip, List.mem_singleton] at hu
    subst hu
    exact ⟨by simp [Upd.parts], trivial⟩
  obtain ⟨hnum, honly, hkept⟩ := write_frame (s := s) (blk := .tile) (key := s.phys t) htouch [.regs, .seq, .ecc]
    (fun b i o => b = .tile ∧ i = s.phys t ∧ o = offSeq) (by simp) (by simp) (by simp) (by simp) (by simp) (by simp)
    (fun _ _ _ h => h.elim) ⟨rfl, rfl, rfl⟩
  refine ⟨_, congrArg Host.Outcome.next hrun, hnum, ?_, honly, hkept⟩
  exact Eq.trans (fget_fset _ _ _ _ _ _) (if_pos rfl)

/-! ## The rings of the tile DMA -/

/-- TAIL of ring 1 set, and D told of it: it asks the host for the next descriptor. -/
def hRung (p n : Nat) (o : Out) : Eff := doAll [setAx ⟨.hTail, p, 0⟩ (n + 1), whenE (fun s => s.get fHHead p ≠ n)
  (doAll [whenE (fun s => s.get (fRState 1) p = 0) (setF (fRState 1) p 1), emit o])]

theorem hRung_touches (p n : Nat) (o : Out) :
    (hRung p n o).Touches [.out] (fun k => k = ⟨.tdma, p, offState⟩) (fun k => k = ⟨.hTail, p, 0⟩) :=
  touches_doAll_cons (touches_setAx rfl) (touches_doAll_cons (touches_whenE (touches_doAll_cons (touches_whenE (touches_setF rfl))
    (touches_doAll_cons (touches_emit (by simp)) touches_doAll_nil))) touches_doAll_nil)

theorem hRung_shows (p n : Nat) (o : Out) : ((hRung p n o).run s).ax ⟨.hTail, p, 0⟩ = n + 1 ∧
    (s.get fHHead p ≠ n → (s.get (fRState 1) p = 0 → ((hRung p n o).run s).get (fRState 1) p = 1) ∧ ((hRung p n o).run s).out = o :: s.out) := by
  set a := (setAx ⟨.hTail, p, 0⟩ (n + 1)).run s with ha
  set w := whenE (fun s => s.get (fRState 1) p = 0) (setF (fRState 1) p 1) with hw
  have hwt : w.Touches [] (fun k => k = ⟨.tdma, p, offState⟩) (fun _ => False) := touches_whenE (touches_setF rfl)
  have hget : ∀ f i, a.get f i = s.get f i := setAx_get _ _
  have htail : a.ax ⟨.hTail, p, 0⟩ = n + 1 := by simp [ha]
  have hrun : (hRung p n o).run s = if s.get fHHead p ≠ n then (emit o).run (w.run a) else a := by
    rw [hRung, doAll_cons_run, doAll_cons_run, doAll_nil_run, whenE_run, ← ha, hget]
    by_cases h : s.get fHHead p = n
    · simp [h]
    · rw [if_pos (by simpa using h), if_pos h, doAll_cons_run, doAll_cons_run, doAll_nil_run]
  refine ⟨?_, fun hne => ?_⟩
  · rw [hrun]
    split
    · exact (hwt.ax a (by simp) : (w.run a).ax _ = _).trans htail
    · exact htail
  · rw [hrun, if_pos hne]
    refine ⟨fun h0 => ?_, ?_⟩
    · show (w.run a).get (fRState 1) p = 1
      rw [hw, whenE_run, if_pos (decide_eq_true ((hget _ _).trans h0)), get_setF_same (by decide)]
      rfl
    · exact congrArg _ (hwt.same a .out (by simp) (by simp) (by simp) : _ = _)

theorem hDoorbell_answers (hl : s.lets src .tdma t root) (hen : s.on fHEn (s.phys t) = true)
    (hn : getBits v 0 12 < 2 ^ s.get fHLog (s.phys t)) : Answers (.hDoorbell src t v) s fun u => TookNumber s .tdma (s.phys t) u ∧
      u.ax ⟨.hTail, s.phys t, 0⟩ = getBits v 0 12 + 1 ∧
      (s.get fHHead (s.phys t) ≠ getBits v 0 12 → (s.get (fRState 1) (s.phys t) = 0 → u.get (fRState 1) (s.phys t) = 1) ∧
        u.out = .hostRead 0 (s.get fRootLink 0) (s.get fHBase (s.phys t) + 32 * s.get fHHead (s.phys t)) 32 :: s.out) ∧
      OnlyParts [.regs, .seq, .aux, .out] s u ∧
      RegsKeptBut (fun b i o => b = .tdma ∧ i = s.phys t ∧ (o = offState ∨ o = offSeq)) s u := by
  set n := s.numbered .tdma (s.phys t) with hnum
  have hget : ∀ (f : Fld) i, f.off ≠ offSeq → n.get f i = s.get f i := fun f i h => numbered_get h
  have hrun : (inTurn src (.hDoorbell src t v) (effHDoorbell src t v)).run s =
      (hRung (s.phys t) (getBits v 0 12) (.hostRead 0 (s.get fRootLink 0) (s.get fHBase (s.phys t) + 32 * s.get fHHead (s.phys t)) 32)).run n := by
    refine (write_accepted hl (by decide) ?_).trans (run_congr ?_)
    rotate_left
    · show hRung (s.phys t) (getBits v 0 12) (.hostRead 0 (n.get fRootLink 0) (n.get fHBase (s.phys t) + 32 * n.get fHHead (s.phys t)) 32) n = _
      rw [hget fHHead _ (by decide), hget fRootLink _ (by decide), hget fHBase _ (by decide)]
      rfl
    simp only [firstErr, errIf, hen, Bool.not_true, Bool.false_eq_true, if_false, decide_eq_true_eq]
    rw [if_neg (by omega)]
    rfl
  obtain ⟨hnumb, honly, hkept⟩ := write_frame (s := s) (blk := .tdma) (key := s.phys t) (hRung_touches (s.phys t) (getBits v 0 12)
    (.hostRead 0 (s.get fRootLink 0) (s.get fHBase (s.phys t) + 32 * s.get fHHead (s.phys t)) 32))
    [.regs, .seq, .aux, .out] (fun b i o => b = .tdma ∧ i = s.phys t ∧ (o = offState ∨ o = offSeq)) (by simp) (by simp) (by simp) (by simp)
    (by simp) (by simp [offState, offSeq]) (by rintro b i o ⟨⟩; exact ⟨rfl, rfl, .inl rfl⟩) ⟨rfl, rfl, .inr rfl⟩
  obtain ⟨htail, hgo⟩ := hRung_shows (s := n) (s.phys t) (getBits v 0 12)
    (.hostRead 0 (s.get fRootLink 0) (s.get fHBase (s.phys t) + 32 * s.get fHHead (s.phys t)) 32)
  rw [hget fHHead _ (by decide), hget (fRState 1) _ (by decide)] at hgo
  exact ⟨_, congrArg Host.Outcome.next hrun, hnumb, htail, hgo, honly, hkept⟩

/-- H_CFG loaded: a rise of ENABLE sets H_HEAD to 0, a fall idles the ring. -/
def hCfgTaken (p : Nat) (v : W64) (was : Bool) : Eff :=
  doAll [setReg .tdma p 0x118 (v &&& 0x10F), whenE (fun _ => !was && getBits v 8 1 = 1) (setF fHHead p 0),
    whenE (fun _ => was && getBits v 8 1 = 0) (hDisable p)]

theorem hCfgTaken_touches (p : Nat) (v : W64) (was : Bool) : (hCfgTaken p v was).Touches []
    (fun k => k.blk = .tdma ∧ k.inst = p ∧ (k.off = 0x118 ∨ k.off = 0x120 ∨ k.off = offState)) (fun k => k = ⟨.hTail, p, 0⟩) := by
  refine touches_doAll_cons (touches_setReg ⟨rfl, rfl, .inl rfl⟩) (touches_doAll_cons (touches_whenE (touches_setF ⟨rfl, rfl, .inr (.inl rfl)⟩))
    (touches_doAll_cons (touches_whenE (Eff.Touches.mono (hDisable_touches p) (fun _ h => h) ?_ fun _ h => h)) touches_doAll_nil))
  rintro k ⟨hb, hi, h | h⟩
  · exact ⟨hb, hi, .inl h⟩
  · exact ⟨hb, hi, .inr (.inr h)⟩

/-- Clearing a bit that is clear changes nothing. -/
theorem setBits_clear {w : W64} {lo : Nat} (h : getBits w lo 1 = 0) : setBits w lo 1 0 = w := by
  refine BitVec.eq_of_getLsbD_eq fun i hi => ?_
  rw [getLsbD_setBits _ _ _ _ _ hi, Nat.zero_testBit]
  split
  · rename_i hlo
    have hbit := congrArg (fun n => n.testBit 0) h
    simp only [testBit_getBits, Nat.zero_testBit] at hbit
    rw [show i = lo by omega]
    simpa using hbit.symm
  · rfl

theorem getBits_and_mask (v m : W64) (lo : Nat) (h : m.getLsbD lo = true) : getBits (v &&& m) lo 1 = getBits v lo 1 := by
  refine Nat.eq_of_testBit_eq fun i => ?_
  rw [testBit_getBits, testBit_getBits]
  by_cases hi : i < 1
  · rw [show i = 0 by omega]
    simp [h]
  · simp [hi]

theorem hDisable_shows (p : Nat) : ((hDisable p).run s).ax ⟨.hTail, p, 0⟩ = 0 ∧
    (s.on fHEn p = false → ((hDisable p).run s).rd .tdma p 0x118 = s.rd .tdma p 0x118) ∧
    ((∀ j ∈ s.tl.jobs, ¬ (j.p = p ∧ j.ring = 1)) → ((hDisable p).run s).get (fRState 1) p = 0) := by
  have hrun : (hDisable p).run s = (whenE (fun s => !(s.tl.jobs.any fun j => j.p = p && j.ring = 1)) (setF (fRState 1) p 0)).run
      ((setAx ⟨.hTail, p, 0⟩ 0).run ((setF fHEn p 0).run s)) := by
    refine (run_congr (f := doAll [setF fHEn p 0, setAx ⟨.hTail, p, 0⟩ 0,
      whenE (fun s => !(s.tl.jobs.any fun j => j.p = p && j.ring = 1)) (setF (fRState 1) p 0)]) rfl).trans ?_
    rw [doAll_cons_run, doAll_cons_run, doAll_cons_run, doAll_nil_run]
  have hlast : (whenE (fun s => !(s.tl.jobs.any fun j => j.p = p && j.ring = 1)) (setF (fRState 1) p 0)).Touches []
      (fun k => k = ⟨.tdma, p, offState⟩) (fun _ => False) := touches_whenE (touches_setF rfl)
  rw [hrun]
  refine ⟨?_, fun h => ?_, fun h => ?_⟩
  · rw [hlast.ax _ (by simp)]
    simp
  · rw [hlast.rd _ (by simp [offState]), setAx_run, State.rd_apply1]
    show ((setF fHEn p 0).run s).rd .tdma p 0x118 = _
    rw [rd_setF, if_pos ⟨rfl, rfl, rfl⟩]
    refine setBits_clear ?_
    have : s.get fHEn p = 0 := by simpa [State.on] using h
    exact this
  · rw [whenE_run, if_pos, get_setF_same (by decide)]
    · rfl
    · have : s.tl.jobs.any (fun j => j.p = p && j.ring = 1) = false := by simpa using h
      exact (congrArg (! ·) this).trans rfl

theorem hCfg_answers (hl : s.lets src .tdma t root) (h4 : 4 ≤ getBits v 0 4) (h12 : getBits v 0 4 ≤ 12)
    (hsize : s.on fHEn (s.phys t) = true → getBits v 0 4 = s.get fHLog (s.phys t)) :
    Answers (.hCfgEnable src t v) s fun u => TookNumber s .tdma (s.phys t) u ∧ u.rd .tdma (s.phys t) 0x118 = v &&& 0x10F ∧
      (s.on fHEn (s.phys t) = false → getBits v 8 1 = 1 → u.get fHHead (s.phys t) = 0) ∧
      (s.on fHEn (s.phys t) = true → getBits v 8 1 = 0 → u.ax ⟨.hTail, s.phys t, 0⟩ = 0 ∧
        ((∀ j ∈ s.tl.jobs, ¬ (j.p = s.phys t ∧ j.ring = 1)) → u.get (fRState 1) (s.phys t) = 0)) ∧
      OnlyParts [.regs, .seq, .aux] s u ∧
      RegsKeptBut (fun b i o => b = .tdma ∧ i = s.phys t ∧ (o = 0x118 ∨ o = 0x120 ∨ o = offState ∨ o = offSeq)) s u := by
  set p := s.phys t
  set n := s.numbered .tdma p with hnum
  set was := s.on fHEn p with hwas
  have hon : n.on fHEn p = was := numbered_on (by decide)
  have hlog : n.get fHLog p = s.get fHLog p := numbered_get (by decide)
  have hrun : (inTurn src (.hCfgEnable src t v) (effHCfgEnable src t v)).run s = (hCfgTaken p v was).run n := by
    refine (write_accepted hl (by decide) ?_).trans (run_congr ?_)
    · have hfirst : (s.on fHEn p && decide (getBits v 0 4 ≠ s.get fHLog p)) = false := by
        by_cases h : s.on fHEn p = true
        · simp [hsize h]
        · simp [h]
      have hsecond : (!(decide (4 ≤ getBits v 0 4) && decide (getBits v 0 4 ≤ 12))) = false := by simp [h4, h12]
      show firstErr [errIf (s.on fHEn p && decide (getBits v 0 4 ≠ s.get fHLog p)) eSTATE, errIf _ eARG] = none
      rw [hfirst, hsecond]
      rfl
    · show hCfgTaken p v (n.on fHEn p) n = hCfgTaken p v was n
      rw [hon]
  obtain ⟨hnumb, honly, hkept⟩ := write_frame (s := s) (blk := .tdma) (key := p) (hCfgTaken_touches p v was) [.regs, .seq, .aux]
    (fun b i o => b = .tdma ∧ i = p ∧ (o = 0x118 ∨ o = 0x120 ∨ o = offState ∨ o = offSeq)) (by simp) (by simp) (by simp) (by simp)
    (by simp) (by simp [offSeq, offState]) (by rintro b i o ⟨h1, h2, h | h | h⟩ <;> simp_all) ⟨rfl, rfl, .inr (.inr (.inr rfl))⟩
  set a := (setReg .tdma p 0x118 (v &&& 0x10F)).run n with ha
  have hload : a.rd .tdma p 0x118 = v &&& 0x10F := by
    rw [ha, setReg_run, State.rd_apply1]
    exact if_pos rfl
  have hhead : (whenE (fun _ => !was && getBits v 8 1 = 1) (setF fHHead p 0)).Touches [] (fun k => k = ⟨.tdma, p, 0x120⟩) (fun _ => False) :=
    touches_whenE (touches_setF rfl)
  set b := (whenE (fun _ => !was && getBits v 8 1 = 1) (setF fHHead p 0)).run a with hb
  have hshape : (hCfgTaken p v was).run n = (whenE (fun _ => was && getBits v 8 1 = 0) (hDisable p)).run b := by
    rw [hCfgTaken, doAll_cons_run, doAll_cons_run, doAll_cons_run, doAll_nil_run]
  have hloaded : b.rd .tdma p 0x118 = v &&& 0x10F := (hhead.rd a (by simp)).trans hload
  obtain ⟨htail, hkeep, hidle⟩ := hDisable_shows (s := b) p
  refine ⟨_, congrArg Host.Outcome.next hrun, hnumb, ?_, fun hoff hbit => ?_, fun hwon hbit => ?_, honly, hkept⟩
  · rw [hshape, whenE_run]
    split
    · rename_i h
      have hclear : getBits v 8 1 = 0 := of_decide_eq_true ((Bool.and_eq_true _ _).mp h).2
      refine (hkeep ?_).trans hloaded
      have hfield : b.get fHEn p = 0 := by
        show getBits (b.rd .tdma p 0x118) 8 1 = 0
        rw [hloaded, getBits_and_mask _ _ _ (by decide), hclear]
      simp [State.on, hfield]
    · exact hloaded
  · rw [hshape, whenE_run, if_neg (by simp [hoff]), hb, whenE_run, if_pos (by simp [hoff, hbit]), get_setF_same (by decide)]
    rfl
  · rw [hshape, whenE_run, if_pos (by simp [hwon, hbit])]
    have hjobs : b.tl = s.tl := by
      refine (hhead.same a .tl (by simp) (by simp) (by simp) : _ = _).trans ?_
      rfl
    exact ⟨htail, fun h => hidle (by rwa [hjobs])⟩

/-! ## STOP of the rings (Table 08-5) -/

/-- The STATE a ring goes to as STOP is set or cleared. -/
def State.ringMoved (s : State) (p r : Nat) (stop : Bool) : Nat :=
  let st := s.get (fRState r) p
  if stop then (if st = 0 then 3 else if st = 1 then (if s.tl.jobs.any fun j => j.p = p && j.ring = r then 2 else 3) else st)
  else if st = 2 then 1
  else if st = 3 then (if r = 0 then (if s.ax ⟨.dmaLeft, p, 0⟩ ≠ 0 then 1 else 0)
    else if s.on fHEn p ∧ s.ax ⟨.hTail, p, 0⟩ ≠ 0 ∧ s.get fHHead p ≠ s.ax ⟨.hTail, p, 0⟩ - 1 then 1 else 0)
  else st

/-- The registers the rings of tile p show themselves in. -/
def ringRegs (p : Nat) (k : RK) : Prop := k.blk = .tdma ∧ k.inst = p ∧ (k.off = offState ∨ k.off = offEvtStatus)

theorem stopWrite_touches (p r : Nat) (stop : Bool) : (stopWrite p r stop).Touches [.hi] (ringRegs p) (fun _ => False) := by
  have hset : ∀ x, (setF (fRState r) p x).Touches [.hi] (ringRegs p) (fun _ => False) := fun x => touches_setF ⟨rfl, rfl, .inl rfl⟩
  have hevt : (setEvt .tdma p 1).Touches [.hi] (ringRegs p) (fun _ => False) := touches_setEvt ⟨rfl, rfl, .inr rfl⟩ (by simp)
  intro s
  simp only [stopWrite]
  split_ifs
  · exact hset 3 s
  · exact hset 2 s
  · exact within_doAll (touches_doAll_cons (hset 3) (touches_doAll_cons (touches_whenE hevt) touches_doAll_nil))
  · exact within_nil
  · exact hset 1 s
  all_goals first | exact hset _ s | exact within_nil

theorem stopWrite_get {p r : Nat} (hr : r < 2) (stop : Bool) :
    ((stopWrite p r stop).run s).get (fRState r) p = s.ringMoved p r stop := by
  have hset : ∀ x, x < 4 → ((setF (fRState r) p x).run s).get (fRState r) p = x := fun x hx => by
    rw [get_setF_same (show (fRState r).lo + (fRState r).w ≤ 64 by simp only [fRState]; omega)]
    exact Nat.mod_eq_of_lt hx
  have hstop : (doAll [setF (fRState r) p 3, whenE (fun _ => r = 1) (setEvt .tdma p 1)]).run s =
      (whenE (fun _ => r = 1) (setEvt .tdma p 1)).run ((setF (fRState r) p 3).run s) := by
    rw [doAll_cons_run, doAll_cons_run, doAll_nil_run]
  have hevt : (whenE (fun _ => r = 1) (setEvt .tdma p 1)).Touches [.hi] (fun k => k.off = offEvtStatus) (fun _ => False) :=
    touches_whenE (touches_setEvt rfl (by simp))
  simp only [State.ringMoved]
  cases stop with
  | true =>
    simp only [if_true]
    by_cases h0 : s.get (fRState r) p = 0
    · rw [run_congr (f := setF (fRState r) p 3) (by simp only [stopWrite, if_true, if_pos h0]), hset 3 (by omega), if_pos h0]
    · rw [if_neg h0]
      by_cases h1 : s.get (fRState r) p = 1
      · rw [if_pos h1]
        by_cases hj : (s.tl.jobs.any fun j => j.p = p && j.ring = r) = true
        · rw [if_pos hj, run_congr (f := setF (fRState r) p 2) (by simp only [stopWrite, if_true, if_neg h0, if_pos h1, if_pos hj]),
            hset 2 (by omega)]
        · rw [if_neg hj, run_congr (f := doAll [setF (fRState r) p 3, whenE (fun _ => r = 1) (setEvt .tdma p 1)])
            (by simp only [stopWrite, if_true, if_neg h0, if_pos h1, if_neg hj]), hstop, hevt.get _ (by simp [fRState, offEvtStatus]),
            hset 3 (by omega)]
      · rw [if_neg h1, run_congr (f := skip) (by simp only [stopWrite, if_true, if_neg h0, if_neg h1]; rfl)]
        rfl
  | false =>
    simp only [Bool.false_eq_true, if_false]
    by_cases h2 : s.get (fRState r) p = 2
    · rw [run_congr (f := setF (fRState r) p 1) (by simp only [stopWrite, Bool.false_eq_true, if_false, if_pos h2]), hset 1 (by omega), if_pos h2]
    · rw [if_neg h2]
      by_cases h3 : s.get (fRState r) p = 3
      · rw [if_pos h3, run_congr (by simp only [stopWrite, Bool.false_eq_true, if_false, if_neg h2, if_pos h3]; rfl), hset]
        split_ifs <;> omega
      · rw [if_neg h3, run_congr (f := skip) (by simp only [stopWrite, Bool.false_eq_true, if_false, if_neg h2, if_neg h3]; rfl)]
        rfl

/-- A STOP write of one ring leaves the STATE of the other. -/
theorem stopWrite_get_ne {p r q : Nat} (hq : q < 2) (hne : q ≠ r) (stop : Bool) :
    ((stopWrite p r stop).run s).get (fRState q) p = s.get (fRState q) p := by
  have hset : ∀ x, ((setF (fRState r) p x).run s).get (fRState q) p = s.get (fRState q) p := fun x =>
    get_setF_ne (fun _ _ _ => by simp only [fRState]; omega) (by simp only [fRState]; omega)
  have hevt : (whenE (fun _ => r = 1) (setEvt .tdma p 1)).Touches [.hi] (fun k => k.off = offEvtStatus) (fun _ => False) :=
    touches_whenE (touches_setEvt rfl (by simp))
  have hstop : ((doAll [setF (fRState r) p 3, whenE (fun _ => r = 1) (setEvt .tdma p 1)]).run s).get (fRState q) p = s.get (fRState q) p := by
    rw [doAll_cons_run, doAll_cons_run, doAll_nil_run, hevt.get _ (by simp [fRState, offEvtStatus]), hset]
  have hall : ∃ e : Eff, stopWrite p r stop s = e s ∧ (e.run s).get (fRState q) p = s.get (fRState q) p := by
    simp only [stopWrite]
    split_ifs
    · exact ⟨_, rfl, hset 3⟩
    · exact ⟨_, rfl, hset 2⟩
    · exact ⟨_, rfl, hstop⟩
    · exact ⟨skip, rfl, rfl⟩
    · exact ⟨_, rfl, hset 1⟩
    all_goals first | exact ⟨_, rfl, hset _⟩ | exact ⟨skip, rfl, rfl⟩
  obtain ⟨e, he, hget⟩ := hall
  rwa [run_congr he]

theorem ringMoved_congr {u : State} {p r : Nat} {stop : Bool} (hst : u.get (fRState r) p = s.get (fRState r) p) (htl : u.tl = s.tl)
    (hax : u.ax = s.ax) (hen : u.on fHEn p = s.on fHEn p) (hhead : u.get fHHead p = s.get fHHead p) :
    u.ringMoved p r stop = s.ringMoved p r stop := by
  simp only [State.ringMoved, hst, htl, hax, hen, hhead]

/-- CTRL loaded, and each STOP bit that changes acts. -/
def ctrlTaken (p : Nat) (v : W64) (was : Nat → Nat) : Eff :=
  doAll [setReg .tdma p 0x010 (v &&& 0x7),
    forEach [0, 1] fun r => whenE (fun _ => was r ≠ getBits v r 1) (stopWrite p r (getBits v r 1 = 1))]

theorem ctrlTaken_touches (p : Nat) (v : W64) (was : Nat → Nat) : (ctrlTaken p v was).Touches [.hi]
    (fun k => k.blk = .tdma ∧ k.inst = p ∧ (k.off = offCtrl ∨ k.off = offState ∨ k.off = offEvtStatus)) (fun _ => False) := by
  refine touches_doAll_cons (touches_setReg ⟨rfl, rfl, .inl rfl⟩) (touches_doAll_cons (touches_forEach fun r _ => touches_whenE ?_) touches_doAll_nil)
  exact Eff.Touches.mono (stopWrite_touches p r _) (fun _ h => h) (fun k hk => ⟨hk.1, hk.2.1, .inr hk.2.2⟩) fun _ h => h

theorem ctrlTaken_get {p r : Nat} (hr : r < 2) (v : W64) (was : Nat → Nat) : ((ctrlTaken p v was).run s).get (fRState r) p =
    if was r ≠ getBits v r 1 then s.ringMoved p r (getBits v r 1 = 1) else s.get (fRState r) p := by
  have hload : Eff.Touches [] (fun k => k = ⟨.tdma, p, 0x010⟩) (fun _ => False) (setReg .tdma p 0x010 (v &&& 0x7)) := touches_setReg rfl
  set a := (setReg .tdma p 0x010 (v &&& 0x7)).run s with ha
  set go : Nat → Eff := fun r => whenE (fun _ => was r ≠ getBits v r 1) (stopWrite p r (getBits v r 1 = 1)) with hgo
  have hrun : (ctrlTaken p v was).run s = (go 1).run ((go 0).run a) := by
    rw [ctrlTaken, doAll_cons_run, doAll_cons_run, doAll_nil_run, forEach_cons_run, forEach_cons_run, forEach_nil_run]
  have hown : ∀ q t, q < 2 → ((go q).run t).get (fRState q) p =
      if was q ≠ getBits v q 1 then t.ringMoved p q (getBits v q 1 = 1) else t.get (fRState q) p := fun q t hq => by
    simp only [hgo, whenE_run, decide_eq_true_eq]
    split
    · exact stopWrite_get hq _
    · rfl
  have hother : ∀ q q' t, q < 2 → q ≠ q' → ((go q').run t).get (fRState q) p = t.get (fRState q) p := fun q q' t hq hne => by
    simp only [hgo, whenE_run, decide_eq_true_eq]
    split
    · exact stopWrite_get_ne hq hne _
    · rfl
  have hgot : ∀ q, (go q).Touches [.hi] (ringRegs p) (fun _ => False) := fun q => touches_whenE (stopWrite_touches p q _)
  have hst : ∀ q, a.get (fRState q) p = s.get (fRState q) p := fun q => hload.get s (by simp [fRState])
  have hmoved : ∀ q stop, a.ringMoved p q stop = s.ringMoved p q stop := fun q stop =>
    ringMoved_congr (hst q) (hload.same s .tl (by simp) (by simp) (by simp)) (funext fun k => hload.ax s (by simp))
      (hload.on s (by simp [fHEn])) (hload.get s (by simp [fHHead]))
  rw [hrun]
  rcases (by omega : r = 0 ∨ r = 1) with rfl | rfl
  · rw [hother 0 1 _ (by omega) (by omega), hown 0 a (by omega), hst, hmoved]
  · rw [hown 1 _ (by omega), hother 1 0 a (by omega) (by omega), hst, ringMoved_congr (hother 1 0 a (by omega) (by omega))
      ((hgot 0).same a .tl (by simp) (by simp) (by simp)) (funext fun k => (hgot 0).ax a (by simp))
      ((hgot 0).on a (by simp [fHEn, ringRegs, offState, offEvtStatus])) ((hgot 0).get a (by simp [fHHead, ringRegs, offState, offEvtStatus])),
      hmoved]

/-- Both STOP and RESUME are a write of CTRL. -/
theorem tdmaCtrl_answers (hl : s.lets src .tdma t root) (i : Instr) :
    let u := (inTurn src i (effTdmaCtrl src t v)).run s
    TookNumber s .tdma (s.phys t) u ∧ RingsSwitched s u (s.phys t) v := by
  intro u
  set p := s.phys t
  set n := s.numbered .tdma p
  have hget : ∀ (f : Fld) j, f.off ≠ offSeq → n.get f j = s.get f j := fun f j h => numbered_get h
  have hwas : (fun r => n.get (fStop r) p) = fun r => s.get (fStop r) p := funext fun r => hget _ _ (by simp [fStop, offSeq])
  have hrun : u = (ctrlTaken p v fun r => s.get (fStop r) p).run n := by
    refine (write_accepted hl (by decide) rfl).trans (run_congr ?_)
    show ctrlTaken p v (fun r => n.get (fStop r) p) n = _
    rw [hwas]
    rfl
  obtain ⟨hnumb, honly, hkept⟩ := write_frame (s := s) (blk := .tdma) (key := p) (ctrlTaken_touches p v fun r => s.get (fStop r) p)
    [.regs, .seq, .hi] (fun b i o => b = .tdma ∧ i = p ∧ (o = offCtrl ∨ o = offState ∨ o = offEvtStatus ∨ o = offSeq)) (by simp) (by simp)
    (by simp) (by simp) (by simp) (by simp [offSeq, offState, offCtrl, offEvtStatus]) (by rintro b i o ⟨h1, h2, h | h | h⟩ <;> simp_all)
    ⟨rfl, rfl, .inr (.inr (.inr rfl))⟩
  have hmoved : ∀ r stop, n.ringMoved p r stop = s.ringMoved p r stop := fun r stop =>
    ringMoved_congr (hget _ _ (by simp [fRState, offSeq])) rfl rfl (numbered_on (by decide)) (hget _ _ (by decide))
  have hring : ∀ r, r < 2 → u.get (fRState r) p =
      if s.get (fStop r) p ≠ getBits v r 1 then s.ringMoved p r (getBits v r 1 = 1) else s.get (fRState r) p := fun r hr => by
    rw [hrun, ctrlTaken_get hr, hmoved, hget (fRState r) _ (by simp [fRState, offSeq])]
  have hload : u.rd .tdma p 0x010 = v &&& 7 := by
    have hlist : (forEach [0, 1] fun r => whenE (fun _ => s.get (fStop r) p ≠ getBits v r 1) (stopWrite p r (getBits v r 1 = 1))).Touches [.hi]
        (ringRegs p) (fun _ => False) := touches_forEach fun r _ => touches_whenE (stopWrite_touches p r _)
    rw [hrun, ctrlTaken, doAll_cons_run, doAll_cons_run, doAll_nil_run, hlist.rd _ (by simp [ringRegs, offState, offEvtStatus]), setReg_run,
      State.rd_apply1]
    exact if_pos rfl
  rw [← hrun] at hnumb honly hkept
  refine ⟨hnumb, hload, fun r hr => ⟨fun h => ?_, fun h0 h1 => ?_, fun h1 h0 => ?_⟩, honly, hkept⟩
  · rw [hring r hr, if_neg (by simpa using h)]
  · rw [hring r hr, if_pos (by rw [h0, h1]; decide), h1]
    refine ⟨fun hs => ?_, fun hs => ?_⟩ <;> simp [State.ringMoved, hs]
  · rw [hring r hr, if_pos (by rw [h0, h1]; decide), h0]
    refine ⟨fun hs => ?_, fun hs hr0 => ?_, fun hs hr1 hoff => ?_⟩
    · simp [State.ringMoved, hs]
    · subst hr0
      simp [State.ringMoved, hs]
    · subst hr1
      simp [State.ringMoved, hs, hoff]

/-- Settles O27: each write that acts is accepted by the arbiter and is its register's act on the numbered state. -/
theorem tilePageWritesAct : Obligations.TilePageWritesAct :=
  ⟨fun _ _ _ _ _ hl hq hst hbase hlog hen => qcfg_answers hl hq hst hbase hlog hen,
    fun _ _ _ _ hl => ⟨imemWrite_answers hl, imemWrite_refused hl⟩,
    fun _ _ h => imemRead_answers h,
    fun _ _ _ _ _ hl => shadowReady_answers hl,
    fun _ _ _ _ hl h8 hlt ha hb hgo => spInject_answers hl h8 hlt ha hb hgo,
    fun _ _ _ _ _ hl hen hn => hDoorbell_answers hl hen hn,
    fun _ _ _ _ _ hl h4 h12 hsize => hCfg_answers hl h4 h12 hsize,
    fun _ src t v _ hl => ⟨_, rfl, tdmaCtrl_answers hl (.tdmaRingStop src t v)⟩,
    fun _ src t v _ hl => ⟨_, rfl, tdmaCtrl_answers hl (.tdmaRingResume src t v)⟩⟩

end Sys2Proof.Machine
end

section
/-! PROOFS. The sequencer's own instructions (chapter 04, R114, R115, R125, R126, R128, R129). -/

namespace Sys2Proof.Machine

variable {s : State} {t p : Nat} {w : W128}

/-! ## SIG raised, an instruction retired -/

/-- R116: a raise writes its semaphore, and the page's error where the semaphore is full. -/
theorem semAdd_kept (s : State) (p sem n : Nat) : RegsKeptBut (fun b i o => b = .tile ∧ i = p ∧ (o = 0x200 + 8 * sem ∨
    (o = offErr ∨ o = offEvtStatus) ∧ 0xFFFF < s.get (fSem sem) p + n)) s ((semAdd p sem n).run s) := by
  by_cases hle : s.get (fSem sem) p + n ≤ 0xFFFF
  · rw [run_congr (f := setF (fSem sem) p (s.get (fSem sem) p + n)) (if_pos hle)]
    exact (touches_setF (ps := []) (R := fun k => k = ⟨.tile, p, 0x200 + 8 * sem⟩) (A := fun _ => False) rfl).regsKept s _
      (by rintro b i o ⟨⟩; exact ⟨rfl, rfl, .inl rfl⟩)
  · refine (semAdd_touches p sem n).regsKept s _ ?_
    rintro b i o ⟨hb, hi, ho | ho⟩
    · exact ⟨hb, hi, .inl ho⟩
    · exact ⟨hb, hi, .inr ⟨ho, by omega⟩⟩

theorem semAdd_get_ne {sem m n : Nat} (h : m ≠ sem) : ((semAdd p sem n).run s).get (fSem m) p = s.get (fSem m) p :=
  (semAdd_touches p sem n).get s (by simp only [fSem, offErr, offEvtStatus]; omega)

/-- The registers a SIG may write. -/
def raiseRegs (p : Nat) (k : RK) : Prop := k.blk = .tile ∧ k.inst = p ∧ ((0x200 ≤ k.off ∧ k.off < 0x380) ∨ k.off = offErr ∨ k.off = offEvtStatus)

/-- The registers a retirement may write. -/
def retireRegs (p : Nat) (k : RK) : Prop := raiseRegs p k ∨ k = ⟨.tile, p, 0x100⟩

theorem raiseSig_touches (p : Nat) (w : W128) : (raiseSig p w).Touches [.hi] (raiseRegs p) (fun _ => False) := by
  unfold raiseSig
  split
  · refine (Eff.Touches.mono (semAdd_touches p (iSig w) 1) (fun _ h => h) ?_ fun _ h => h)
    rintro k ⟨hb, hi, ho⟩
    exact ⟨hb, hi, by omega⟩
  · exact touches_skip

theorem raiseSig_kept (s : State) (p : Nat) (w : W128) :
    RegsKeptBut (fun b i o => b = .tile ∧ i = p ∧ s.sigRegs p w o) s ((raiseSig p w).run s) := by
  unfold raiseSig
  split
  next h =>
    refine fun b i o hn => semAdd_kept s p (iSig w) 1 b i o ?_
    rintro ⟨hb, hi, ho⟩
    have hlt : s.get (fSem (iSig w)) p < 65536 := get_lt s (fSem (iSig w)) p
    exact hn ⟨hb, hi, h, ho.imp id fun ⟨he, hf⟩ => ⟨by omega, he⟩⟩
  next => exact fun _ _ _ _ => rfl

theorem raiseSig_raised (s : State) (p : Nat) (w : W128) : SigRaised s ((raiseSig p w).run s) p w := fun h => by
  rw [raiseSig, if_pos h, semAdd_get]

theorem seqRetire_touches (p pc : Nat) (w : W128) : (seqRetire p pc w).Touches [.hi] (retireRegs p) (fun _ => False) :=
  touches_doAll_cons (touches_addSat (.inr rfl)) (touches_doAll_cons (touches_setF (.inr rfl))
    (touches_doAll_cons (Eff.Touches.mono (raiseSig_touches p w) (fun _ h => h) (fun _ => .inl) fun _ h => h) touches_doAll_nil))

/-- What follows a command that keeps the counters and the semaphores, and retires its instruction. -/
theorem seqRetire_done {u : State} {ps : List Component} {pc : Nat} {more : Nat → Prop} (hr : Component.regs ∈ ps) (hh : Component.hi ∈ ps)
    (hd : u.get fDispatched p = s.get fDispatched p) (hsem : ∀ n, n < 48 → u.get (fSem n) p = s.get (fSem n) p) (honly : OnlyParts ps s u)
    (hkept : RegsKeptBut (fun b i o => b = .tile ∧ i = p ∧ (o = 0x100 ∨ s.sigRegs p w o ∨ more o)) s u) :
    SeqDone ps s ((seqRetire p pc w).run u) p pc w more := by
  set a := (setF fPc p (pc % 2048)).run ((addSat fDispatched p 1).run u) with ha
  have hpage : (doAll [addSat fDispatched p 1, setF fPc p (pc % 2048)]).Touches [] (fun k => k = ⟨.tile, p, 0x100⟩) (fun _ => False) :=
    touches_doAll_cons (touches_addSat rfl) (touches_doAll_cons (touches_setF rfl) touches_doAll_nil)
  have ha' : (doAll [addSat fDispatched p 1, setF fPc p (pc % 2048)]).run u = a := by
    rw [doAll_cons_run, doAll_cons_run, doAll_nil_run]
  have hrun : (seqRetire p pc w).run u = (raiseSig p w).run a := by
    rw [seqRetire, doAll_cons_run, doAll_cons_run, doAll_cons_run, doAll_nil_run]
  have hsem' : ∀ n, n < 48 → a.get (fSem n) p = s.get (fSem n) p := fun n hn => by
    rw [← ha', hpage.get u (by simp only [fSem, RK.mk.injEq]; omega), hsem n hn]
  refine ⟨?_, ?_, fun h => ?_, ?_, ?_⟩
  · rw [hrun, (raiseSig_touches p w).get a (by simp [raiseRegs, fDispatched, offErr, offEvtStatus]), ha,
      get_setF_ne (fun _ _ _ => by decide) (by decide), get_addSat_same (by decide), hd]
    rfl
  · rw [hrun, (raiseSig_touches p w).get a (by simp [raiseRegs, fPc, offErr, offEvtStatus]), ha, get_setF_same (by decide)]
    simp only [fPc]
    omega
  · rw [hrun, raiseSig_raised a p w h, hsem' _ h]
  · exact honly.trans ((seqRetire_touches p pc w).only u (by simpa using hh) (.inl hr) (.inr fun _ h => h))
  · refine hkept.trans ?_
    rw [hrun]
    refine RegsKeptBut.trans (t := a) ?_ fun b i o hn => raiseSig_kept a p w b i o ?_
    · rw [← ha']
      exact hpage.regsKept u _ (by rintro b i o ⟨⟩; exact ⟨rfl, rfl, .inl rfl⟩)
    · rintro ⟨hb, hi, hlt, ho⟩
      rw [hsem' _ hlt] at ho
      exact hn ⟨hb, hi, .inr (.inl ⟨hlt, ho⟩)⟩

/-- An instruction that only retires. -/
theorem seqRetire_only (s : State) (p pc : Nat) (w : W128) : SeqDone [.regs, .hi] s ((seqRetire p pc w).run s) p pc w fun _ => False :=
  seqRetire_done (by simp) (by simp) rfl (fun _ _ => rfl) (OnlyParts.refl _ _) fun _ _ _ _ => rfl

/-- An effect on registers of its own before the retirement. -/
theorem seqRetire_after {e : Eff} {ps qs : List Component} {R : RK → Prop} {A : Aux → Prop} {pc : Nat} {more : Nat → Prop}
    (he : e.Touches ps R A) (hp : ∀ x ∈ ps, x ∈ qs) (hr : Component.regs ∈ qs) (hh : Component.hi ∈ qs) (ha : Component.aux ∈ qs ∨ ∀ k, ¬ A k)
    (hR : ∀ b i o, R ⟨b, i, o⟩ → b = .tile ∧ i = p ∧ more o) (hm : ∀ o, more o → o ≠ 0x100 ∧ ¬ (0x200 ≤ o ∧ o < 0x380)) :
    SeqDone qs s ((seqRetire p pc w).run (e.run s)) p pc w more :=
  seqRetire_done hr hh (he.get s fun h => (hm _ (hR _ _ _ h).2.2).1 rfl)
    (fun n hn => he.get s fun h => (hm _ (hR _ _ _ h).2.2).2 (by simp only [fSem]; omega))
    (he.only s hp (.inl hr) ha)
    (he.regsKept s _ fun b i o h => ⟨(hR b i o h).1, (hR b i o h).2.1, .inr (.inr (hR b i o h).2.2)⟩)

/-- What is done stays done under a write of named registers. -/
theorem SeqDone.andThen {e : Eff} {u : State} {ps qs : List Component} {R : RK → Prop} {pc : Nat} {more : Nat → Prop}
    (h : SeqDone qs s u p pc w more) (he : e.Touches ps R (fun _ => False)) (hp : ∀ x ∈ ps, x ∈ qs) (hr : Component.regs ∈ qs)
    (hR : ∀ b i o, R ⟨b, i, o⟩ → b = .tile ∧ i = p ∧ more o) (hm : ∀ o, more o → o ≠ 0x100 ∧ ¬ (0x200 ≤ o ∧ o < 0x380)) :
    SeqDone qs s (e.run u) p pc w more := by
  obtain ⟨hd, hpc, hsig, honly, hkept⟩ := h
  exact ⟨(he.get u fun h => (hm _ (hR _ _ _ h).2.2).1 rfl).trans hd, (he.get u fun h => (hm _ (hR _ _ _ h).2.2).1 rfl).trans hpc,
    fun hlt => (he.get u fun h => (hm _ (hR _ _ _ h).2.2).2 (by simp only [fSem]; omega)).trans (hsig hlt),
    honly.trans (he.only u hp (.inl hr) (.inr fun _ h => h)),
    hkept.trans (he.regsKept u _ fun b i o h => ⟨(hR b i o h).1, (hR b i o h).2.1, .inr (.inr (hR b i o h).2.2)⟩)⟩

/-! ## Comparators follow a loop counter -/

/-- Comparator k of tile p stands with these settings on a counter that shows v. -/
def State.cmpStands (s : State) (p k n v op val m : Nat) : Prop := s.ax ⟨.cmpLive, p, k⟩ ≠ 0 ∧ s.get (fCmpLc k) p = n ∧
  s.get (fLc n) p = v ∧ s.get (fCmpOp k) p = op ∧ s.get (fCmpVal k) p = val ∧ s.get (fCmpMod k) p = m

theorem cmpUpdate_touches (p k : Nat) : (cmpUpdate p k).Touches [] (fun r => r = ⟨.tile, p, 0x180 + 8 * k⟩) (fun _ => False) := fun s => by
  unfold cmpUpdate
  split
  · exact within_nil
  · exact touches_setF (by simp [fCmpResult]) s

theorem cmpUpdate_on {k n v op val m : Nat} (h : s.cmpStands p k n v op val m) :
    ((cmpUpdate p k).run s).on (fCmpResult k) p = cmpEval v op val m := by
  obtain ⟨hlive, hn, hv, hop, hval, hm⟩ := h
  rw [run_congr (f := setF (fCmpResult k) p (if cmpEval v op val m then 1 else 0)), on_setF_same (by simp [fCmpResult])]
  · cases cmpEval v op val m <;> rfl
  · rw [← hv, ← hop, ← hval, ← hm, ← hn]
    exact if_neg hlive

/-- One comparator's update leaves another, and the counters. -/
theorem cmpUpdate_stands {c k n v op val m : Nat} (hne : c ≠ k) (hc : c < 4) (hn : n < 8) (h : s.cmpStands p k n v op val m) :
    ((cmpUpdate p c).run s).cmpStands p k n v op val m := by
  have ht := cmpUpdate_touches p c
  obtain ⟨hlive, hlc, hv, hop, hval, hm⟩ := h
  refine ⟨?_, ?_, ?_, ?_, ?_, ?_⟩
  · rwa [ht.ax s (by simp)]
  · rwa [ht.get s (by simp only [fCmpLc, RK.mk.injEq]; omega)]
  · rwa [ht.get s (by simp only [fLc, RK.mk.injEq]; omega)]
  · rwa [ht.get s (by simp only [fCmpOp, RK.mk.injEq]; omega)]
  · rwa [ht.get s (by simp only [fCmpVal, RK.mk.injEq]; omega)]
  · rwa [ht.get s (by simp only [fCmpMod, RK.mk.injEq]; omega)]

/-- The comparators on counter n follow it. -/
def cmpsFollow (p n : Nat) : Eff := forEach [0, 1, 2, 3] fun k => whenE (fun s => s.get (fCmpLc k) p = n) (cmpUpdate p k)

theorem cmpsFollow_touches (p n : Nat) : (cmpsFollow p n).Touches [] (fun r => r.blk = .tile ∧ r.inst = p ∧ 0x180 ≤ r.off ∧ r.off < 0x1A0)
    (fun _ => False) := by
  refine touches_forEach fun k hk => touches_whenE (Eff.Touches.mono (cmpUpdate_touches p k) (fun _ h => h) ?_ fun _ h => h)
  rintro r rfl
  simp only [List.mem_cons, List.not_mem_nil, or_false] at hk
  exact ⟨rfl, rfl, by simp only; omega⟩

theorem cmpsFollow_on {k n v op val m : Nat} (hk : k < 4) (hn : n < 8) (h : s.cmpStands p k n v op val m) :
    ((cmpsFollow p n).run s).on (fCmpResult k) p = cmpEval v op val m := by
  have hlist : ∀ c ∈ [0, 1, 2, 3], c < 4 := by simp
  refine forEach_once (P := fun t => t.on (fCmpResult k) p = cmpEval v op val m) (Q := fun t => t.cmpStands p k n v op val m) (b := k)
    (by decide) (by simp only [List.mem_cons, List.not_mem_nil, or_false]; omega) (fun c hc hne t ht => ?_) (fun t ht => ?_)
    (fun c hc hne t ht => ?_) s h
  · rw [whenE_run]
    split
    · exact cmpUpdate_stands hne (hlist c hc) hn ht
    · exact ht
  · rw [whenE_run, if_pos (by simpa using ht.2.1)]
    exact cmpUpdate_on ht
  · rw [whenE_run]
    split
    · rwa [(cmpUpdate_touches p c).on t (by simp only [fCmpResult, RK.mk.injEq]; omega)]
    · exact ht

theorem setLc_eq (p n v : Nat) : setLc p n v = doAll [setF (fLc n) p v, cmpsFollow p n] := rfl

/-- The registers of the loop counters' settings and of the comparators. -/
def loopRegs (p n : Nat) (r : RK) : Prop := r.blk = .tile ∧ r.inst = p ∧ (r.off = 0x140 + 8 * n ∨ 0x180 ≤ r.off ∧ r.off < 0x1A0)

theorem setLc_touches (p n v : Nat) : (setLc p n v).Touches [] (loopRegs p n) (fun _ => False) :=
  touches_doAll_cons (touches_setF ⟨rfl, rfl, .inl rfl⟩) (touches_doAll_cons (Eff.Touches.mono (cmpsFollow_touches p n) (fun _ h => h)
    (fun _ h => ⟨h.1, h.2.1, .inr h.2.2⟩) fun _ h => h) touches_doAll_nil)

theorem setLc_shows {n v : Nat} (hn : n < 8) (hv : v < 65536) : ((setLc p n v).run s).get (fLc n) p = v ∧
    ((setLc p n v).run s).get (fLimit n) p = s.get (fLimit n) p ∧
    ∀ k, k < 4 → s.ax ⟨.cmpLive, p, k⟩ ≠ 0 → s.get (fCmpLc k) p = n → ((setLc p n v).run s).on (fCmpResult k) p =
      cmpEval v (s.get (fCmpOp k) p) (s.get (fCmpVal k) p) (s.get (fCmpMod k) p) := by
  have hset : (setF (fLc n) p v).Touches [] (fun r => r = ⟨.tile, p, 0x140 + 8 * n⟩) (fun _ => False) := touches_setF rfl
  have hlc : ((setF (fLc n) p v).run s).get (fLc n) p = v := by
    rw [get_setF_same (by simp [fLc])]
    exact Nat.mod_eq_of_lt hv
  rw [setLc_eq, doAll_cons_run, doAll_cons_run, doAll_nil_run]
  refine ⟨?_, ?_, fun k hk hlive hkn => cmpsFollow_on hk hn ⟨?_, ?_, hlc, ?_, ?_, ?_⟩⟩
  · rw [(cmpsFollow_touches p n).get _ (by simp only [fLc]; omega), hlc]
  · rw [(cmpsFollow_touches p n).get _ (by simp only [fLimit]; omega)]
    exact get_setF_ne (fun _ _ _ => by simp [fLimit, fLc]) (by simp [fLimit])
  · rwa [hset.ax s (by simp)]
  · rwa [hset.get s (by simp only [fCmpLc, RK.mk.injEq]; omega)]
  · exact hset.get s (by simp only [fCmpOp, RK.mk.injEq]; omega)
  · exact hset.get s (by simp only [fCmpVal, RK.mk.injEq]; omega)
  · exact hset.get s (by simp only [fCmpMod, RK.mk.injEq]; omega)

/-! ## Loops, branches, waits -/

theorem nop_answers (h : s.seqAt (s.phys t) 0x00 6 = some w) : Answers (.seqDispatch t) s fun u =>
    SeqDone [.regs, .hi] s u (s.phys t) (s.get fPc (s.phys t) + 1) w fun _ => False := by
  refine ⟨_, congrArg Host.Outcome.next (run_congr (f := seqRetire (s.phys t) (s.get fPc (s.phys t) + 1) w) ?_), seqRetire_only ..⟩
  simp only [State.seqAt] at h
  split at h
  next hc =>
    obtain rfl := Option.some.inj h
    simp only [Bool.and_eq_true, decide_eq_true_eq] at hc
    obtain ⟨⟨⟨⟨⟨hready, hop⟩, heng⟩, hhead⟩, hpred⟩, hbody⟩ := hc
    simp only [effSeqDispatch, hready, hhead, hpred, hbody, heng, hop, leastReason, Bool.not_true, Bool.false_eq_true, if_false, if_true]
  next => exact absurd h (by simp)

theorem loop_answers (h : s.seqAt (s.phys t) 0x10 6 = some w) : Answers (.loop t) s fun u =>
    u.get (fLimit (sb w 32 3)) (s.phys t) = sb w 48 16 ∧ u.get (fLc (sb w 32 3)) (s.phys t) = 0 ∧
    (∀ k, k < 4 → s.ax ⟨.cmpLive, s.phys t, k⟩ ≠ 0 → s.get (fCmpLc k) (s.phys t) = sb w 32 3 → u.on (fCmpResult k) (s.phys t) =
      cmpEval 0 (s.get (fCmpOp k) (s.phys t)) (s.get (fCmpVal k) (s.phys t)) (s.get (fCmpMod k) (s.phys t))) ∧
    SeqDone [.regs, .hi] s u (s.phys t) (s.get fPc (s.phys t) + 1) w
      fun o => o = 0x140 + 8 * sb w 32 3 ∨ 0x180 ≤ o ∧ o < 0x1A0 := by
  have heq : effLoop t s = doAll [setF (fLimit (sb w 32 3)) (s.phys t) (sb w 48 16), setLc (s.phys t) (sb w 32 3) 0,
      seqRetire (s.phys t) (s.get fPc (s.phys t) + 1) w] s := by
    simp only [effLoop, h]
  set p := s.phys t
  set n := sb w 32 3 with hndef
  have hn : n < 8 := sb_lt w 32 3
  have hlim : (setF (fLimit n) p (sb w 48 16)).Touches [] (fun r => r = ⟨.tile, p, 0x140 + 8 * n⟩) (fun _ => False) := touches_setF rfl
  set a := (setF (fLimit n) p (sb w 48 16)).run s with ha
  have hpre : (doAll [setF (fLimit n) p (sb w 48 16), setLc p n 0]).Touches [] (loopRegs p n) (fun _ => False) :=
    touches_doAll_cons (touches_setF ⟨rfl, rfl, .inl rfl⟩) (touches_doAll_cons (setLc_touches p n 0) touches_doAll_nil)
  have hpre' : (doAll [setF (fLimit n) p (sb w 48 16), setLc p n 0]).run s = (setLc p n 0).run a := by
    rw [doAll_cons_run, doAll_cons_run, doAll_nil_run]
  have hrun : (effLoop t).run s = (seqRetire p (s.get fPc p + 1) w).run ((setLc p n 0).run a) := by
    rw [run_congr heq, doAll_cons_run, doAll_cons_run, doAll_cons_run, doAll_nil_run]
  have hret := seqRetire_touches p (s.get fPc p + 1) w
  obtain ⟨hlc, hlimit, hcmp⟩ := setLc_shows (s := a) (p := p) hn (show 0 < 65536 by decide)
  refine ⟨_, congrArg Host.Outcome.next hrun, ?_, ?_, fun k hk hlive hkn => ?_, ?_⟩
  · rw [hret.get _ (by simp only [retireRegs, raiseRegs, fLimit, RK.mk.injEq, offErr, offEvtStatus]; omega), hlimit,
      get_setF_same (by simp [fLimit])]
    exact Nat.mod_eq_of_lt (sb_lt w 48 16)
  · rw [hret.get _ (by simp only [retireRegs, raiseRegs, fLc, RK.mk.injEq, offErr, offEvtStatus]; omega), hlc]
  · rw [hret.on _ (by simp only [retireRegs, raiseRegs, fCmpResult, RK.mk.injEq, offErr, offEvtStatus]; omega), hcmp k hk,
      hlim.get s (by simp only [fCmpOp, RK.mk.injEq]; omega), hlim.get s (by simp only [fCmpVal, RK.mk.injEq]; omega),
      hlim.get s (by simp only [fCmpMod, RK.mk.injEq]; omega)]
    · rwa [hlim.ax s (by simp)]
    · rwa [hlim.get s (by simp only [fCmpLc, RK.mk.injEq]; omega)]
  · rw [← hpre']
    exact seqRetire_after hpre (by simp) (by simp) (by simp) (by simp) (fun _ _ _ h => h) (fun o ho => by omega)

theorem loopEnd_answers (h : s.seqAt (s.phys t) 0x11 6 = some w) {v lim : Nat} (hv : v = s.get (fLc (sb w 32 3)) (s.phys t) + 1)
    (hlim : lim = s.get (fLimit (sb w 32 3)) (s.phys t)) : Answers (.loopEnd t) s fun u =>
    u.get (fLc (sb w 32 3)) (s.phys t) = (if v < lim then v else lim) ∧
    (∀ k, k < 4 → s.ax ⟨.cmpLive, s.phys t, k⟩ ≠ 0 → s.get (fCmpLc k) (s.phys t) = sb w 32 3 → u.on (fCmpResult k) (s.phys t) =
      cmpEval (if v < lim then v else lim) (s.get (fCmpOp k) (s.phys t)) (s.get (fCmpVal k) (s.phys t)) (s.get (fCmpMod k) (s.phys t))) ∧
    SeqDone [.regs, .hi] s u (s.phys t) (if v < lim then sb w 48 11 else s.get fPc (s.phys t) + 1) w
      fun o => o = 0x140 + 8 * sb w 32 3 ∨ 0x180 ≤ o ∧ o < 0x1A0 := by
  have heq : effLoopEnd t s = doAll [setLc (s.phys t) (sb w 32 3) (if v < lim then v else lim),
      seqRetire (s.phys t) (if v < lim then sb w 48 11 else s.get fPc (s.phys t) + 1) w] s := by
    simp only [effLoopEnd, h, hv, hlim]
  set p := s.phys t
  set n := sb w 32 3
  set v' := if v < lim then v else lim
  set pc := if v < lim then sb w 48 11 else s.get fPc p + 1
  have hn : n < 8 := sb_lt w 32 3
  have hlt : v' < 65536 := by
    have : lim < 65536 := hlim ▸ get_lt s (fLimit n) p
    simp only [v']
    split <;> omega
  have hrun : (effLoopEnd t).run s = (seqRetire p pc w).run ((setLc p n v').run s) := by
    rw [run_congr heq, doAll_cons_run, doAll_cons_run, doAll_nil_run]
  have hret := seqRetire_touches p pc w
  obtain ⟨hlc, -, hcmp⟩ := setLc_shows (s := s) (p := p) hn hlt
  refine ⟨_, congrArg Host.Outcome.next hrun, ?_, fun k hk hlive hkn => ?_, ?_⟩
  · rw [hret.get _ (by simp only [retireRegs, raiseRegs, fLc, RK.mk.injEq, offErr, offEvtStatus]; omega), hlc]
  · rw [hret.on _ (by simp only [retireRegs, raiseRegs, fCmpResult, RK.mk.injEq, offErr, offEvtStatus]; omega), hcmp k hk hlive hkn]
  · exact seqRetire_after (setLc_touches p n v') (by simp) (by simp) (by simp) (by simp) (fun _ _ _ h => h) (fun o ho => by omega)

theorem cmpset_answers (h : s.seqAt (s.phys t) 0x12 6 = some w) : Answers (.cmpset t) s fun u =>
    u.get (fCmpLc (sb w 32 2)) (s.phys t) = sb w 36 3 ∧ u.get (fCmpOp (sb w 32 2)) (s.phys t) = sb w 40 2 ∧
    u.get (fCmpVal (sb w 32 2)) (s.phys t) = sb w 48 16 ∧ u.get (fCmpMod (sb w 32 2)) (s.phys t) = sb w 64 16 ∧
    u.ax ⟨.cmpLive, s.phys t, sb w 32 2⟩ = 1 ∧
    u.on (fCmpResult (sb w 32 2)) (s.phys t) = cmpEval (s.get (fLc (sb w 36 3)) (s.phys t)) (sb w 40 2) (sb w 48 16) (sb w 64 16) ∧
    SeqDone [.regs, .aux, .hi] s u (s.phys t) (s.get fPc (s.phys t) + 1) w fun o => o = 0x180 + 8 * sb w 32 2 := by
  set x : W64 := BitVec.ofNat 64 (sb w 36 3 + sb w 40 2 * 2 ^ 4 + sb w 48 16 * 2 ^ 16 + sb w 64 16 * 2 ^ 32) with hx
  have heq : effCmpset t s = doAll [setReg .tile (s.phys t) (0x180 + 8 * sb w 32 2) x, setAx ⟨.cmpLive, s.phys t, sb w 32 2⟩ 1,
      cmpUpdate (s.phys t) (sb w 32 2), seqRetire (s.phys t) (s.get fPc (s.phys t) + 1) w] s := by
    simp only [effCmpset, h, hx]
  set p := s.phys t
  set k := sb w 32 2
  have hk : k < 4 := sb_lt w 32 2
  have h3 : sb w 36 3 < 8 := sb_lt w 36 3
  have h2 : sb w 40 2 < 4 := sb_lt w 40 2
  have hv : sb w 48 16 < 65536 := sb_lt w 48 16
  have hm : sb w 64 16 < 65536 := sb_lt w 64 16
  set a := (setAx ⟨.cmpLive, p, k⟩ 1).run ((setReg .tile p (0x180 + 8 * k) x).run s) with ha
  have hpre : (doAll [setReg .tile p (0x180 + 8 * k) x, setAx ⟨.cmpLive, p, k⟩ 1, cmpUpdate p k]).Touches []
      (fun r => r = ⟨.tile, p, 0x180 + 8 * k⟩) (fun _ => True) :=
    touches_doAll_cons (touches_setReg rfl) (touches_doAll_cons (touches_setAx trivial) (touches_doAll_cons
      (Eff.Touches.mono (cmpUpdate_touches p k) (fun _ h => h) (fun _ h => h) fun _ h => h.elim) touches_doAll_nil))
  have hpre' : (doAll [setReg .tile p (0x180 + 8 * k) x, setAx ⟨.cmpLive, p, k⟩ 1, cmpUpdate p k]).run s = (cmpUpdate p k).run a := by
    rw [doAll_cons_run, doAll_cons_run, doAll_cons_run, doAll_nil_run]
  have hrun : (effCmpset t).run s = (seqRetire p (s.get fPc p + 1) w).run ((cmpUpdate p k).run a) := by
    rw [run_congr heq, doAll_cons_run, doAll_cons_run, doAll_cons_run, doAll_cons_run, doAll_nil_run]
  have hfield : ∀ f : Fld, f.blk = .tile → f.off = 0x180 + 8 * k → a.get f p = getBits x f.lo f.w := fun f hb ho => by
    rw [ha, setAx_get, setReg_run, get_apply1_reg, if_pos (by rw [hb, ho])]
  have hbits : ∀ lo n, getBits x lo n = (sb w 36 3 + sb w 40 2 * 2 ^ 4 + sb w 48 16 * 2 ^ 16 + sb w 64 16 * 2 ^ 32) / 2 ^ lo % 2 ^ n :=
    fun lo n => getBits_ofNat_of_lt (by omega)
  have hst : a.cmpStands p k (sb w 36 3) (s.get (fLc (sb w 36 3)) p) (sb w 40 2) (sb w 48 16) (sb w 64 16) := by
    refine ⟨by simp [ha], ?_, ?_, ?_, ?_, ?_⟩
    · rw [hfield _ rfl rfl, hbits]
      simp only [fCmpLc]
      omega
    · rw [ha, setAx_get, setReg_run, get_apply1_reg, if_neg (by simp only [fLc, RK.mk.injEq]; omega)]
    · rw [hfield _ rfl rfl, hbits]
      simp only [fCmpOp]
      omega
    · rw [hfield _ rfl rfl, hbits]
      simp only [fCmpVal]
      omega
    · rw [hfield _ rfl rfl, hbits]
      simp only [fCmpMod]
      omega
  have hlive : a.ax ⟨.cmpLive, p, k⟩ = 1 := by simp [ha]
  have hret := seqRetire_touches p (s.get fPc p + 1) w
  have hrd : ∀ (f : Fld) {z : Nat}, f.blk = .tile → f.off = 0x180 + 8 * k → f.lo + f.w ≤ 63 → a.get f p = z →
      ((effCmpset t).run s).get f p = z := fun f z hb ho hw hz => by
    rw [hrun, hret.get _ (by simp only [retireRegs, raiseRegs, ho, RK.mk.injEq, offErr, offEvtStatus]; omega), ← hz]
    have heq' : cmpUpdate p k a = setF (fCmpResult k) p (if cmpEval (a.get (fLc (a.get (fCmpLc k) p)) p) (a.get (fCmpOp k) p)
        (a.get (fCmpVal k) p) (a.get (fCmpMod k) p) then 1 else 0) a := if_neg hst.1
    rw [run_congr heq']
    exact get_setF_ne (fun _ _ _ => .inl hw) (by omega)
  refine ⟨_, rfl, hrd _ rfl rfl (by simp [fCmpLc]) hst.2.1, hrd _ rfl rfl (by simp [fCmpOp]) hst.2.2.2.1,
    hrd _ rfl rfl (by simp [fCmpVal]) hst.2.2.2.2.1, hrd _ rfl rfl (by simp [fCmpMod]) hst.2.2.2.2.2, ?_, ?_, ?_⟩
  · rw [hrun, hret.ax _ (fun h => h), (cmpUpdate_touches p k).ax _ (fun h => h), hlive]
  · rw [hrun, hret.on _ (by simp only [retireRegs, raiseRegs, fCmpResult, RK.mk.injEq, offErr, offEvtStatus]; omega), cmpUpdate_on hst]
  · rw [hrun, ← hpre']
    exact seqRetire_after hpre (by simp) (by simp) (by simp) (.inl (by simp)) (by rintro b i o ⟨⟩; exact ⟨rfl, rfl, rfl⟩)
      (fun o ho => by omega)

theorem branch_answers (h : s.seqAt (s.phys t) 0x13 6 = some w) : Answers (.branch t) s fun u =>
    SeqDone [.regs, .hi] s u (s.phys t) (sb w 48 11) w fun _ => False :=
  ⟨_, congrArg Host.Outcome.next (run_congr (f := seqRetire (s.phys t) (sb w 48 11) w) (by simp only [effBranch, h])), seqRetire_only ..⟩

theorem swap_answers (h : s.seqAt (s.phys t) 0x14 6 = some w) : Answers (.swap t) s fun u =>
    u.ax ⟨.seqWait, s.phys t, 0⟩ = 2 ∧ u.on fSwapWait (s.phys t) = true ∧ OnlyParts [.regs, .aux] s u ∧
    RegsKeptBut (fun b i o => b = .tile ∧ i = s.phys t ∧ o = 0x108) s u := by
  have heq : effSwap t s = doAll [setAx ⟨.seqWait, s.phys t, 0⟩ 2, setF fSwapWait (s.phys t) 1] s := by simp only [effSwap, h]
  have ht : (doAll [setAx ⟨.seqWait, s.phys t, 0⟩ 2, setF fSwapWait (s.phys t) 1]).Touches [] (fun r => r = ⟨.tile, s.phys t, 0x108⟩)
      (fun _ => True) := touches_doAll_cons (touches_setAx trivial) (touches_doAll_cons (touches_setF rfl) touches_doAll_nil)
  refine ⟨_, congrArg Host.Outcome.next (run_congr heq), ?_, ?_, ht.only s (by simp) (by simp) (.inl (by simp)),
    ht.regsKept s _ (by rintro b i o ⟨⟩; exact ⟨rfl, rfl, rfl⟩)⟩
  · simp
  · rw [doAll_cons_run, doAll_cons_run, doAll_nil_run, on_setF_same (by decide)]
    rfl

theorem drain_answers (h : s.seqAt (s.phys t) 0x17 6 = some w) : Answers (.drain t) s fun u =>
    u.ax ⟨.seqWait, s.phys t, 0⟩ = 3 ∧ OnlyParts [.aux] s u := by
  have ht : (setAx ⟨.seqWait, s.phys t, 0⟩ 3).Touches [] (fun _ => False) (fun _ => True) := touches_setAx trivial
  exact ⟨_, congrArg Host.Outcome.next (run_congr (f := setAx ⟨.seqWait, s.phys t, 0⟩ 3) (by simp only [effDrain, h])), by simp,
    ht.only s (by simp) (.inr fun _ h => h) (.inl (by simp))⟩

/-! ## HALT, END and what they wait for -/

theorem halt_answers (h : s.seqAt (s.phys t) 0x15 6 = some w) : Answers (.halt t) s fun u => u.get fTileState (s.phys t) = 3 ∧
    u.rd .tile (s.phys t) 0x548 = BitVec.ofNat 64 (sb w 32 16 + s.get fPc (s.phys t) * 2 ^ 16 + s.get fActive (s.phys t) * 2 ^ 27 +
      u.get fDispatched (s.phys t) * 2 ^ 32) ∧
    SeqDone [.regs, .hi] s u (s.phys t) (s.get fPc (s.phys t)) w fun o => o = offState ∨ o = 0x548 := by
  set n := min (s.get fDispatched (s.phys t) + 1) (2 ^ 32 - 1) with hn
  have heq : effHalt t s = doAll [seqRetire (s.phys t) (s.get fPc (s.phys t)) w, setReg .tile (s.phys t) 0x548
        (BitVec.ofNat 64 (sb w 32 16 + s.get fPc (s.phys t) * 2 ^ 16 + s.get fActive (s.phys t) * 2 ^ 27 + n * 2 ^ 32)),
        setF fTileState (s.phys t) 3] s := by
    simp only [effHalt, h, hn]
  set p := s.phys t
  set v : W64 := BitVec.ofNat 64 (sb w 32 16 + s.get fPc p * 2 ^ 16 + s.get fActive p * 2 ^ 27 + n * 2 ^ 32) with hv
  set last := doAll [setReg .tile p 0x548 v, setF fTileState p 3] with hlast
  have hrun : (effHalt t).run s = last.run ((seqRetire p (s.get fPc p) w).run s) := by
    rw [run_congr heq, doAll_cons_run]
  have ht : last.Touches [] (fun r => r = ⟨.tile, p, offState⟩ ∨ r = ⟨.tile, p, 0x548⟩) (fun _ => False) :=
    touches_doAll_cons (touches_setReg (.inr rfl)) (touches_doAll_cons (touches_setF (.inl rfl)) touches_doAll_nil)
  have hdone : SeqDone [.regs, .hi] s (last.run ((seqRetire p (s.get fPc p) w).run s)) p (s.get fPc p) w fun o => o = offState ∨ o = 0x548 := by
    refine SeqDone.andThen (seqRetire_done (by simp) (by simp) rfl (fun _ _ => rfl) (OnlyParts.refl _ _) fun _ _ _ _ => rfl) ht (by simp)
      (by simp) ?_ (by simp only [offState]; omega)
    rintro b i o (h | h) <;> obtain ⟨rfl, rfl, rfl⟩ := RK.mk.inj h
    · exact ⟨rfl, rfl, .inl rfl⟩
    · exact ⟨rfl, rfl, .inr rfl⟩
  refine ⟨_, congrArg Host.Outcome.next hrun, ?_, ?_, hdone⟩
  · rw [hlast, doAll_cons_run, doAll_cons_run, doAll_nil_run, get_setF_same (by decide)]
    rfl
  · rw [hdone.1, ← hn, ← hv, hlast, doAll_cons_run, doAll_cons_run, doAll_nil_run, rd_setF, if_neg (by simp [fTileState]), setReg_run,
      State.rd_apply1]
    exact if_pos rfl

theorem tileHalted_answers (h3 : s.get fTileState (s.phys t) = 3) (hq : s.queuesEmpty (s.phys t) = true) :
    Answers (.tileHalted t) s fun u => u.get fTileState (s.phys t) = 4 ∧ u.on (fEvt .tile 0) (s.phys t) = true ∧
      OnlyParts [.regs, .hi] s u ∧ RegsKeptBut (fun b i o => b = .tile ∧ i = s.phys t ∧ (o = offState ∨ o = offEvtStatus)) s u := by
  have heq : effTileHalted t s = doAll [setF fTileState (s.phys t) 4, setEvt .tile (s.phys t) 0] s := by simp [effTileHalted, h3, hq]
  have hevt : (setEvt .tile (s.phys t) 0).Touches [.hi] (fun r => r = ⟨.tile, s.phys t, offEvtStatus⟩) (fun _ => False) :=
    touches_setEvt rfl (by simp)
  have ht : (doAll [setF fTileState (s.phys t) 4, setEvt .tile (s.phys t) 0]).Touches [.hi]
      (fun r => r = ⟨.tile, s.phys t, offState⟩ ∨ r = ⟨.tile, s.phys t, offEvtStatus⟩) (fun _ => False) :=
    touches_doAll_cons (touches_setF (.inl rfl)) (touches_doAll_cons (touches_setEvt (.inr rfl) (by simp)) touches_doAll_nil)
  refine ⟨_, congrArg Host.Outcome.next (run_congr heq), ?_, ?_, ht.only s (by simp) (by simp) (by simp), ht.regsKept s _ ?_⟩
  · rw [doAll_cons_run, doAll_cons_run, doAll_nil_run, hevt.get _ (by simp [fTileState, offEvtStatus]), get_setF_same (by decide)]
    rfl
  · rw [doAll_cons_run, doAll_cons_run, doAll_nil_run, setEvt_on (by decide)]
  · rintro b i o (h | h) <;> obtain ⟨rfl, rfl, rfl⟩ := RK.mk.inj h
    · exact ⟨rfl, rfl, .inl rfl⟩
    · exact ⟨rfl, rfl, .inr rfl⟩

theorem endProg_answers (h : s.seqAt (s.phys t) 0x16 6 = some w) : Answers (.endProg t) s fun u => u.ax ⟨.seqWait, s.phys t, 0⟩ = 4 ∧
    SeqDone [.regs, .aux, .hi] s u (s.phys t) (s.get fPc (s.phys t)) w fun _ => False := by
  have heq : effEndProg t s = doAll [setAx ⟨.seqWait, s.phys t, 0⟩ 4, seqRetire (s.phys t) (s.get fPc (s.phys t)) w] s := by
    simp only [effEndProg, h]
  have ht : (setAx ⟨.seqWait, s.phys t, 0⟩ 4).Touches [] (fun _ => False) (fun _ => True) := touches_setAx trivial
  refine ⟨_, congrArg Host.Outcome.next (run_congr heq), ?_, ?_⟩ <;> rw [doAll_cons_run, doAll_cons_run, doAll_nil_run]
  · rw [(seqRetire_touches _ _ _).ax _ (fun h => h)]
    simp
  · exact seqRetire_after ht (by simp) (by simp) (by simp) (.inl (by simp)) (fun _ _ _ h => h.elim) (fun _ h => h.elim)

theorem tilePark_answers (h1 : s.get fTileState (s.phys t) = 1) (hw : s.ax ⟨.seqWait, s.phys t, 0⟩ = 4)
    (hq : s.queuesEmpty (s.phys t) = true) : Answers (.tilePark t) s fun u => u.get fTileState (s.phys t) = 2 ∧
      u.ax ⟨.seqWait, s.phys t, 0⟩ = 0 ∧ u.on (fEvt .tile 1) (s.phys t) = true ∧ OnlyParts [.regs, .aux, .hi] s u ∧
      RegsKeptBut (fun b i o => b = .tile ∧ i = s.phys t ∧ (o = offState ∨ o = offEvtStatus)) s u := by
  have heq : effTilePark t s = doAll [setF fTileState (s.phys t) 2, setAx ⟨.seqWait, s.phys t, 0⟩ 0, setEvt .tile (s.phys t) 1] s := by
    simp [effTilePark, h1, hw, hq]
  have hevt : (setEvt .tile (s.phys t) 1).Touches [.hi] (fun r => r = ⟨.tile, s.phys t, offEvtStatus⟩) (fun _ => False) :=
    touches_setEvt rfl (by simp)
  have ht : (doAll [setF fTileState (s.phys t) 2, setAx ⟨.seqWait, s.phys t, 0⟩ 0, setEvt .tile (s.phys t) 1]).Touches [.hi]
      (fun r => r = ⟨.tile, s.phys t, offState⟩ ∨ r = ⟨.tile, s.phys t, offEvtStatus⟩) (fun _ => True) :=
    touches_doAll_cons (touches_setF (.inl rfl)) (touches_doAll_cons (touches_setAx trivial) (touches_doAll_cons
      (touches_setEvt (.inr rfl) (by simp)) touches_doAll_nil))
  refine ⟨_, congrArg Host.Outcome.next (run_congr heq), ?_, ?_, ?_, ht.only s (by simp) (by simp) (by simp), ht.regsKept s _ ?_⟩
  · rw [doAll_cons_run, doAll_cons_run, doAll_cons_run, doAll_nil_run, hevt.get _ (by simp [fTileState, offEvtStatus]), setAx_get,
      get_setF_same (by decide)]
    rfl
  · rw [doAll_cons_run, doAll_cons_run, doAll_cons_run, doAll_nil_run, hevt.ax _ (fun h => h)]
    simp
  · rw [doAll_cons_run, doAll_cons_run, doAll_cons_run, doAll_nil_run, setEvt_on (by decide)]
  · rintro b i o (h | h) <;> obtain ⟨rfl, rfl, rfl⟩ := RK.mk.inj h
    · exact ⟨rfl, rfl, .inl rfl⟩
    · exact ⟨rfl, rfl, .inr rfl⟩

theorem drainComplete_answers (hruns : s.tileRuns (s.phys t) = true) (h1 : s.get fTileState (s.phys t) = 1)
    (hw : s.ax ⟨.seqWait, s.phys t, 0⟩ = 3)
    (hq : ∀ e, e < 6 → sb (s.pcWord (s.phys t)) (32 + e) 1 = 1 → s.depth (s.phys t) e = 0) :
    Answers (.drainComplete t) s fun u => u.ax ⟨.seqWait, s.phys t, 0⟩ = 0 ∧
      SeqDone [.regs, .aux, .hi] s u (s.phys t) (s.get fPc (s.phys t) + 1) (s.pcWord (s.phys t)) fun _ => False := by
  have hnone : ((List.range 6).any fun e => sb (s.pcWord (s.phys t)) (32 + e) 1 = 1 && s.depth (s.phys t) e ≠ 0) = false := by
    rw [List.any_eq_false]
    intro e he
    have := hq e (List.mem_range.1 he)
    simpa using this
  have heq : effDrainComplete t s = doAll [setAx ⟨.seqWait, s.phys t, 0⟩ 0,
      seqRetire (s.phys t) (s.get fPc (s.phys t) + 1) (s.pcWord (s.phys t))] s := by
    simp only [effDrainComplete]
    rw [if_neg (by rw [hnone]; simp [hruns, h1, hw])]
  have ht : (setAx ⟨.seqWait, s.phys t, 0⟩ 0).Touches [] (fun _ => False) (fun _ => True) := touches_setAx trivial
  refine ⟨_, congrArg Host.Outcome.next (run_congr heq), ?_, ?_⟩ <;> rw [doAll_cons_run, doAll_cons_run, doAll_nil_run]
  · rw [(seqRetire_touches _ _ _).ax _ (fun h => h)]
    simp
  · exact seqRetire_after ht (by simp) (by simp) (by simp) (.inl (by simp)) (fun _ _ _ h => h.elim) (fun _ h => h.elim)

/-! ## The banks swap -/

theorem flipBank_run (p : Nat) : (flipBank p).run s = (setEvt .tile p 2).run ((setF fShadowReady p 0).run
    ((setF fBank p (1 - s.get fActive p)).run ((setF fActive p (1 - s.get fActive p)).run s))) := by
  have heq : flipBank p s = doAll [setF fActive p (1 - s.get fActive p), setF fBank p (1 - s.get fActive p), setF fShadowReady p 0,
    setEvt .tile p 2] s := rfl
  rw [run_congr heq, doAll_cons_run, doAll_cons_run, doAll_cons_run, doAll_cons_run, doAll_nil_run]

theorem flipBank_touches (p : Nat) : (flipBank p).Touches [.hi]
    (fun r => r.blk = .tile ∧ r.inst = p ∧ (r.off = 0x100 ∨ r.off = 0x108 ∨ r.off = offEvtStatus)) (fun _ => False) := fun s => by
  unfold flipBank
  exact within_doAll (touches_doAll_cons (touches_setF ⟨rfl, rfl, .inr (.inl rfl)⟩) (touches_doAll_cons (touches_setF ⟨rfl, rfl, .inl rfl⟩)
    (touches_doAll_cons (touches_setF ⟨rfl, rfl, .inr (.inl rfl)⟩) (touches_doAll_cons (touches_setEvt ⟨rfl, rfl, .inr (.inr rfl)⟩ (by simp))
    touches_doAll_nil))))

theorem flipBank_shows (p : Nat) : ((flipBank p).run s).get fActive p = 1 - s.get fActive p ∧
    ((flipBank p).run s).get fBank p = 1 - s.get fActive p ∧ ((flipBank p).run s).on fShadowReady p = false ∧
    ((flipBank p).run s).on fSwapWait p = s.on fSwapWait p ∧ ((flipBank p).run s).on (fEvt .tile 2) p = true ∧
    ((flipBank p).run s).get fDispatched p = s.get fDispatched p := by
  have hevt : (setEvt .tile p 2).Touches [.hi] (fun r => r = ⟨.tile, p, offEvtStatus⟩) (fun _ => False) := touches_setEvt rfl (by simp)
  set a := (setF fActive p (1 - s.get fActive p)).run s
  set b := (setF fBank p (1 - s.get fActive p)).run a
  have hactive : a.get fActive p = 1 - s.get fActive p := by
    rw [get_setF_same (by decide)]
    simp only [fActive]
    omega
  have hbank : b.get fBank p = 1 - s.get fActive p := by
    rw [get_setF_same (by decide)]
    simp only [fBank]
    omega
  have hset : (setF fBank p (1 - s.get fActive p)).Touches [] (fun r => r = ⟨.tile, p, 0x100⟩) (fun _ => False) := touches_setF rfl
  have hready : (setF fShadowReady p 0).Touches [] (fun r => r = ⟨.tile, p, 0x108⟩) (fun _ => False) := touches_setF rfl
  rw [flipBank_run]
  refine ⟨?_, ?_, ?_, ?_, setEvt_on (by decide), ?_⟩
  · rw [hevt.get _ (by simp [fActive, offEvtStatus]), get_setF_ne (fun _ _ _ => by decide) (by decide), hset.get a (by simp [fActive]), hactive]
  · rw [hevt.get _ (by simp [fBank, offEvtStatus]), hready.get _ (by simp [fBank]), hbank]
  · rw [hevt.on _ (by simp [fShadowReady, offEvtStatus]), on_setF_same (by decide)]
    rfl
  · rw [hevt.on _ (by simp [fSwapWait, offEvtStatus]), on_congr (get_setF_ne (fun _ _ _ => by decide) (by decide)),
      hset.on a (by simp [fSwapWait]), on_congr (get_setF_ne (fun _ _ _ => by decide) (by decide))]
  · rw [hevt.get _ (by simp [fDispatched, offEvtStatus]), hready.get _ (by simp [fDispatched]),
      get_setF_ne (fun _ _ _ => by decide) (by decide), get_setF_off_ne (by decide)]

theorem seqRetire_bank (p pc : Nat) (w : W128) : ((seqRetire p pc w).run s).get fBank p = s.get fBank p := by
  rw [seqRetire, doAll_cons_run, doAll_cons_run, doAll_cons_run, doAll_nil_run,
    (raiseSig_touches p w).get _ (by simp [raiseRegs, fBank, offErr, offEvtStatus]), get_setF_ne (fun _ _ _ => by decide) (by decide), addSat_run,
    get_setF_ne (fun _ _ _ => by decide) (by decide)]

theorem semAdd_holdsEvt {b : Nat} (hb : b < 63) (sem n : Nat) : (semAdd p sem n).HoldsEvt .tile p b := fun s hs => by
  have hsem : ∀ x, (setF (fSem sem) p x).HoldsEvt .tile p b := fun x =>
    holdsEvt_of_touches (touches_setF (ps := []) (R := fun r => r.off = 0x200 + 8 * sem) (A := fun _ => False) rfl)
      (by simp only [offEvtStatus]; omega)
  unfold semAdd Eff.run
  dsimp only
  split
  · exact hsem _ s hs
  · exact holdsEvt_cons (hsem _) (holdsEvt_cons (holdsEvt_recordErr hb _ _ _ _) holdsEvt_nil) s hs

theorem seqRetire_holdsEvt {b : Nat} (hb : b < 63) (p pc : Nat) (w : W128) : (seqRetire p pc w).HoldsEvt .tile p b := by
  have hcount : (addSat fDispatched p 1).Touches [] (fun r => r.off = 0x100) (fun _ => False) := touches_addSat rfl
  have hpc : (setF fPc p (pc % 2048)).Touches [] (fun r => r.off = 0x100) (fun _ => False) := touches_setF rfl
  refine holdsEvt_cons (holdsEvt_of_touches hcount (by simp [offEvtStatus])) (holdsEvt_cons (holdsEvt_of_touches hpc (by simp [offEvtStatus]))
    (holdsEvt_cons ?_ holdsEvt_nil))
  unfold raiseSig
  split
  · exact semAdd_holdsEvt hb _ _
  · exact fun _ hs => hs

theorem bankSwap_answers (hruns : s.tileRuns (s.phys t) = true) (h1 : s.get fTileState (s.phys t) = 1)
    (hw : s.ax ⟨.seqWait, s.phys t, 0⟩ = 2) (hready : s.on fShadowReady (s.phys t) = true) : Answers (.bankSwap t) s fun u =>
      u.get fActive (s.phys t) = 1 - s.get fActive (s.phys t) ∧ u.get fBank (s.phys t) = u.get fActive (s.phys t) ∧
      u.on fShadowReady (s.phys t) = false ∧ u.on fSwapWait (s.phys t) = false ∧ u.on (fEvt .tile 2) (s.phys t) = true ∧
      u.ax ⟨.seqWait, s.phys t, 0⟩ = 0 ∧
      SeqDone [.regs, .aux, .hi] s u (s.phys t) (sb (s.pcWord (s.phys t)) 48 11) (s.pcWord (s.phys t))
        fun o => o = 0x108 ∨ o = offEvtStatus := by
  set p := s.phys t
  set w := s.pcWord p
  have heq : effBankSwap t s = doAll [setAx ⟨.seqWait, p, 0⟩ 0, setF fSwapWait p 0, flipBank p, seqRetire p (sb w 48 11) w] s := by
    simp only [effBankSwap]
    exact if_neg (by simp [p, hruns, h1, hw, hready])
  set a := (setF fSwapWait p 0).run ((setAx ⟨.seqWait, p, 0⟩ 0).run s) with ha
  have hrun : (effBankSwap t).run s = (seqRetire p (sb w 48 11) w).run ((flipBank p).run a) := by
    rw [run_congr heq, doAll_cons_run, doAll_cons_run, doAll_cons_run, doAll_cons_run, doAll_nil_run]
  have hpre : (doAll [setAx ⟨.seqWait, p, 0⟩ 0, setF fSwapWait p 0, flipBank p]).Touches [.hi]
      (fun r => r.blk = .tile ∧ r.inst = p ∧ (r.off = 0x100 ∨ r.off = 0x108 ∨ r.off = offEvtStatus)) (fun _ => True) :=
    touches_doAll_cons (touches_setAx trivial) (touches_doAll_cons (touches_setF ⟨rfl, rfl, .inr (.inl rfl)⟩) (touches_doAll_cons
      (Eff.Touches.mono (flipBank_touches p) (fun _ h => h) (fun _ h => h) fun _ h => h.elim) touches_doAll_nil))
  have hpre' : (doAll [setAx ⟨.seqWait, p, 0⟩ 0, setF fSwapWait p 0, flipBank p]).run s = (flipBank p).run a := by
    rw [doAll_cons_run, doAll_cons_run, doAll_cons_run, doAll_nil_run]
  have hactive : a.get fActive p = s.get fActive p := by rw [ha, get_setF_ne (fun _ _ _ => by decide) (by decide), setAx_get]
  have hdisp : a.get fDispatched p = s.get fDispatched p := by rw [ha, get_setF_off_ne (by decide), setAx_get]
  have hwait : a.on fSwapWait p = false := by
    rw [ha, on_setF_same (by decide)]
    rfl
  have hlive : a.ax ⟨.seqWait, p, 0⟩ = 0 := by simp [ha]
  have hret := seqRetire_touches p (sb w 48 11) w
  obtain ⟨hact, hbank, hsr, hsw, hevt, hd⟩ := flipBank_shows (s := a) p
  have hone : ((effBankSwap t).run s).get fActive p = 1 - s.get fActive p := by
    rw [hrun, hret.get _ (by simp [retireRegs, raiseRegs, fActive, offErr, offEvtStatus]), hact, hactive]
  refine ⟨_, rfl, hone, ?_, ?_, ?_, ?_, ?_, ?_⟩
  · show ((effBankSwap t).run s).get fBank p = ((effBankSwap t).run s).get fActive p
    rw [hone, hrun, seqRetire_bank, hbank, hactive]
  · rw [hrun, hret.on _ (by simp [retireRegs, raiseRegs, fShadowReady, offErr, offEvtStatus]), hsr]
  · rw [hrun, hret.on _ (by simp [retireRegs, raiseRegs, fSwapWait, offErr, offEvtStatus]), hsw, hwait]
  · rw [hrun]
    exact seqRetire_holdsEvt (by decide) _ _ _ _ hevt
  · rw [hrun, hret.ax _ (fun h => h), (flipBank_touches p).ax _ (fun h => h), hlive]
  · rw [hrun]
    refine seqRetire_done (by simp) (by simp) (by rw [hd, hdisp]) (fun n _ => ?_) ?_ ?_ <;> rw [← hpre']
    · exact hpre.get s (by simp only [fSem, offEvtStatus]; omega)
    · exact hpre.only s (by simp) (by simp) (.inl (by simp))
    · refine hpre.regsKept s _ ?_
      rintro b i o ⟨hb, hi, ho | ho⟩
      · exact ⟨hb, hi, .inl ho⟩
      · exact ⟨hb, hi, .inr (.inr ho)⟩

/-! ## The end of a flush -/

theorem tileFlushDone_run (h6 : s.get fTileState (s.phys t) = 6) : (effTileFlushDone t).run s =
    (whenE (fun _ => s.ax ⟨.startDue, s.phys t, 0⟩ ≠ 0) (tileStart t (s.phys t) (s.ax ⟨.startDue, s.phys t, 0⟩ - 1))).run
      ((withSome (s.kilnOf t) skip abortDone).run ((setAx ⟨.startDue, s.phys t, 0⟩ 0).run ((setF fTileState (s.phys t) 0).run s))) := by
  have heq : effTileFlushDone t s = doAll [setF fTileState (s.phys t) 0, setAx ⟨.startDue, s.phys t, 0⟩ 0, withSome (s.kilnOf t) skip abortDone,
      whenE (fun _ => s.ax ⟨.startDue, s.phys t, 0⟩ ≠ 0) (tileStart t (s.phys t) (s.ax ⟨.startDue, s.phys t, 0⟩ - 1))] s := by
    simp only [effTileFlushDone]
    exact if_neg (by simp [h6])
  rw [run_congr heq, doAll_cons_run, doAll_cons_run, doAll_cons_run, doAll_cons_run, doAll_nil_run]

theorem abortDone_runningOf {k : Nat} (h : (s.kilnTiles k).any (fun t => s.get fTileState (s.phys t) = 6) = false) :
    ((abortDone k).run s).runningOf .kiln k 0x14 = [] := by
  by_cases hr : s.runningOf .kiln k 0x14 = []
  · rw [run_congr (f := skip) (if_pos (.inl hr))]
    exact hr
  · rw [run_congr (f := kilnFinish k 0x14 eOK 0) (if_neg (by simp [hr, h]))]
    exact kilnFinish_runningOf ..

/-- The end of the kiln's ABORT, where a kiln has the tile. -/
theorem flushNoted_touches (o : Option Nat) : (withSome o skip abortDone).Touches [.hi, .out] (fun r => r.blk = .host ∨ r.blk = .kiln)
    (fun _ => False) := by
  refine touches_withSome touches_skip fun k => Eff.Touches.mono (abortDone_touches k) (fun _ h => h) ?_ fun _ h => h
  rintro r (h | rfl)
  · exact .inl h
  · exact .inr rfl

theorem flushIdle_answers (h6 : s.get fTileState (s.phys t) = 6) (hdue : s.ax ⟨.startDue, s.phys t, 0⟩ = 0) :
    Answers (.tileFlushDone t) s fun u => u.get fTileState (s.phys t) = 0 ∧ OnlyParts [.regs, .aux, .hi, .out] s u ∧
      ∀ k, s.kilnOf t = some k → (∀ x ∈ s.kilnTiles k, s.phys x ≠ s.phys t → s.get fTileState (s.phys x) ≠ 6) →
        u.runningOf .kiln k 0x14 = [] := by
  set p := s.phys t with hp
  set a := (setAx ⟨.startDue, p, 0⟩ 0).run ((setF fTileState p 0).run s) with ha
  have hpre : (doAll [setF fTileState p 0, setAx ⟨.startDue, p, 0⟩ 0]).Touches [] (fun r => r = ⟨.tile, p, offState⟩) (fun _ => True) :=
    touches_doAll_cons (touches_setF rfl) (touches_doAll_cons (touches_setAx trivial) touches_doAll_nil)
  have hpre' : (doAll [setF fTileState p 0, setAx ⟨.startDue, p, 0⟩ 0]).run s = a := by
    rw [doAll_cons_run, doAll_cons_run, doAll_nil_run]
  have hnote := flushNoted_touches (s.kilnOf t)
  have hrun : (effTileFlushDone t).run s = (withSome (s.kilnOf t) skip abortDone).run a := by
    rw [tileFlushDone_run h6, whenE_run, if_neg (by simp [← hp, hdue])]
  refine ⟨_, congrArg Host.Outcome.next hrun, ?_, ?_, fun k hk hothers => ?_⟩
  · rw [hnote.get _ (by simp [fTileState]), ha, setAx_get, get_setF_same (by decide)]
    rfl
  · refine OnlyParts.trans ?_ (hnote.only a (by simp) (by simp) (by simp))
    rw [← hpre']
    exact hpre.only s (by simp) (by simp) (.inl (by simp))
  · rw [hk]
    refine abortDone_runningOf ?_
    have htiles : a.kilnTiles k = s.kilnTiles k := by
      rw [← hpre']
      exact kilnTiles_of_touches hpre (by simp)
    rw [htiles, List.any_eq_false]
    intro x hx
    have hstate : a.get fTileState (s.phys x) ≠ 6 := by
      by_cases hxp : s.phys x = p
      · rw [hxp, ha, setAx_get, get_setF_same (by decide)]
        decide
      · rw [← hpre', hpre.get s (by simp [hxp])]
        exact hothers x hx hxp
    have hphys : a.phys x = s.phys x := rfl
    simpa [hphys] using hstate

/-! ## A START that waited for the flush -/

/-- The semaphores as the image says. -/
def semsSet (p : Nat) : Eff := forEach (List.range 48) (fun n => fun s => setF (fSem n) p (s.ax ⟨.semInit, p, n⟩) s)

/-- Loops cleared, rings emptied, the banks swapped if the shadow is ready, ring 0 of D at its first descriptor. -/
def ringsSet (p : Nat) : Eff := doAll [clearLoops p,
  forEach (List.range 14) (fun q => doAll [setReg .tile p (0x4C0 + 8 * q) 0, setAx ⟨.ringLines, p, q⟩ 0, setAx ⟨.ringKept, p, q⟩ 0]),
  whenE (fun s => s.on fShadowReady p) (flipBank p), setF fR0Head p 0]

/-- What a fresh start sets after PC. -/
def freshRest (t p step : Nat) : Eff := doAll [setF fVl p 128, seedLanes t p 0 step, setF fRngDraws p 0,
  fun _ => [.accClear fun a => a / 16384 = p, .rowClear fun a => a / 3 / 256 = p],
  forEach (List.range 7) (fun e => setF ⟨.tile, 0x400 + 8 * e, 32, 32⟩ p 0), tbsEmpty p]

theorem semsSet_touches (p : Nat) : (semsSet p).Touches [] (fun r => r.blk = .tile ∧ 0x200 ≤ r.off ∧ r.off < 0x380) (fun _ => False) :=
  touches_forEach fun n hn s => by
    have hlt := List.mem_range.1 hn
    exact touches_setF (R := fun r => r.blk = .tile ∧ 0x200 ≤ r.off ∧ r.off < 0x380) ⟨rfl, by simp only [fSem]; omega⟩ s

theorem semsSet_get {n : Nat} (hn : n < 48) : ((semsSet p).run s).get (fSem n) p = s.ax ⟨.semInit, p, n⟩ % 2 ^ 16 := by
  refine forEach_once (P := fun u => u.get (fSem n) p = s.ax ⟨.semInit, p, n⟩ % 2 ^ 16) (Q := fun u => u.ax ⟨.semInit, p, n⟩ = s.ax ⟨.semInit, p, n⟩)
    (b := n) List.nodup_range (List.mem_range.2 hn) (fun m _ _ u hu => ?_) (fun u hu => ?_) (fun m hm hne u hu => ?_) s rfl
  · exact ((touches_setF (ps := []) (R := fun _ => True) (A := fun _ => False) (f := fSem m) trivial).ax u (fun h => h)).trans hu
  · have := get_setF_same (s := u) (f := fSem n) (i := p) (x := u.ax ⟨.semInit, p, n⟩) (by simp [fSem])
    rw [hu] at this
    refine Eq.trans (congrArg (fun v : State => v.get (fSem n) p) (run_congr (f := setF (fSem n) p (s.ax ⟨.semInit, p, n⟩)) ?_)) this
    exact congrArg (fun x => setF (fSem n) p x u) hu
  · exact ((touches_setF (ps := []) (R := fun r => r = ⟨.tile, p, 0x200 + 8 * m⟩) (A := fun _ => False) (f := fSem m) rfl).get u
      (by simp only [fSem, RK.mk.injEq]; omega)).trans hu

theorem ringsSet_touches (p : Nat) : (ringsSet p).Touches startParts
    (fun r => r.blk ≠ .tile ∨ r.off = 0x100 ∨ r.off = 0x108 ∨ r.off = offEvtStatus ∨ (0x140 ≤ r.off ∧ r.off < 0x1A0) ∨ 0x4C0 ≤ r.off)
    (fun a => a.kind ≠ .startDue ∧ a.kind ≠ .semInit) := by
  refine touches_doAll_cons (touches_doAll_cons (touches_forEach fun n hn => touches_setF ?_) (touches_doAll_cons (touches_forEach fun k hk =>
    touches_doAll_cons (touches_setReg ?_) (touches_doAll_cons (touches_setAx (by simp)) touches_doAll_nil)) touches_doAll_nil))
    (touches_doAll_cons (touches_forEach fun q _ => touches_doAll_cons (touches_setReg ?_) (touches_doAll_cons (touches_setAx (by simp))
    (touches_doAll_cons (touches_setAx (by simp)) touches_doAll_nil))) (touches_doAll_cons (touches_whenE
    (Eff.Touches.mono (flipBank_touches p) (by decide) (fun r h => .inr (by tauto)) fun _ h => h.elim))
    (touches_doAll_cons (touches_setF (.inl (by simp [fR0Head]))) touches_doAll_nil)))
  · have := List.mem_range.1 hn
    exact .inr (by simp only [fLc]; omega)
  · simp only [List.mem_cons, List.not_mem_nil, or_false] at hk
    exact .inr (by simp only; omega)
  · exact .inr (by simp only; omega)

theorem freshRest_touches (t p step : Nat) : (freshRest t p step).Touches startParts (fun r => r.blk ≠ .tile ∨ 0x400 ≤ r.off) (fun _ => False) := by
  have hclear : Eff.Touches startParts (fun r => r.blk ≠ .tile ∨ 0x400 ≤ r.off) (fun _ => False)
      fun _ => [.accClear fun a => a / 16384 = p, .rowClear fun a => a / 3 / 256 = p] := fun s u hu => by
    simp only [List.mem_cons, List.not_mem_nil, or_false] at hu
    rcases hu with rfl | rfl <;> simp [Upd.Within, Upd.parts, startParts]
  have hseed : (seedLanes t p 0 step).Touches startParts (fun r => r.blk ≠ .tile ∨ 0x400 ≤ r.off) (fun _ => False) := fun s u hu => by
    rcases List.mem_append.1 hu with hu | hu
    · obtain ⟨i, -, rfl⟩ := List.mem_map.1 hu
      simp [Upd.Within, Upd.parts, startParts]
    · exact touches_setF (ps := startParts) (R := fun r => r.blk ≠ .tile ∨ 0x400 ≤ r.off) (A := fun _ => False) (.inl (by simp [fRngStream])) s u hu
  exact touches_doAll_cons (touches_setF (.inl (by simp [fVl]))) (touches_doAll_cons hseed (touches_doAll_cons (touches_setF (.inl (by simp [fRngDraws])))
    (touches_doAll_cons hclear (touches_doAll_cons (touches_forEach fun e _ => touches_setF (.inr (by simp only; omega)))
    (touches_doAll_cons (touches_forEach fun c _ => touches_tbDiscard (fun _ => .inl (by simp)) (by decide)) touches_doAll_nil)))))

theorem tileFresh_run (t p step : Nat) : (tileFresh t p step).run s = (freshRest t p step).run
    ((setF fPc p (((setF fDispatched p 0).run s).get fEntry p)).run ((setF fDispatched p 0).run s)) := by
  rw [tileFresh, doAll_cons_run, doAll_cons_run]
  rfl

theorem ringsSet_run (p : Nat) : (ringsSet p).run s = (setF fR0Head p 0).run ((whenE (fun s => s.on fShadowReady p) (flipBank p)).run
    ((forEach (List.range 14) (fun q => doAll [setReg .tile p (0x4C0 + 8 * q) 0, setAx ⟨.ringLines, p, q⟩ 0,
      setAx ⟨.ringKept, p, q⟩ 0])).run ((clearLoops p).run s))) := by
  rw [ringsSet, doAll_cons_run, doAll_cons_run, doAll_cons_run, doAll_cons_run, doAll_nil_run]

theorem tileStart_run (h0 : s.get fTileState p = 0) (step : Nat) : ∃ a b : State,
    a = (semsSet p).run ((setAx ⟨.dmaErr, p, 0⟩ 0).run ((setAx ⟨.seqWait, p, 0⟩ 0).run ((setF fTileState p 1).run s))) ∧
    b = (setF fDispatched p 0).run ((ringsSet p).run a) ∧
    (tileStart t p step).run s = (freshRest t p step).run ((setF fPc p (b.get fEntry p)).run b) := by
  have heq : tileStart t p step s = doAll [setF fTileState p 1, setAx ⟨.seqWait, p, 0⟩ 0, setAx ⟨.dmaErr, p, 0⟩ 0, semsSet p, clearLoops p,
      forEach (List.range 14) (fun q => doAll [setReg .tile p (0x4C0 + 8 * q) 0, setAx ⟨.ringLines, p, q⟩ 0, setAx ⟨.ringKept, p, q⟩ 0]),
      whenE (fun s => s.on fShadowReady p) (flipBank p), setF fR0Head p 0, tileFresh t p step] s := by
    unfold tileStart
    rw [if_neg (by omega), if_neg (by omega)]
    rfl
  refine ⟨_, _, rfl, rfl, ?_⟩
  rw [run_congr heq, doAll_cons_run, doAll_cons_run, doAll_cons_run, doAll_cons_run, doAll_cons_run, doAll_cons_run, doAll_cons_run,
    doAll_cons_run, doAll_cons_run, doAll_nil_run, tileFresh_run, ← ringsSet_run]

theorem tileStart_shows (h0 : s.get fTileState p = 0) (step : Nat) : ((tileStart t p step).run s).get fTileState p = 1 ∧
    ((tileStart t p step).run s).get fPc p = s.get fEntry p ∧
    ((tileStart t p step).run s).ax ⟨.startDue, p, 0⟩ = s.ax ⟨.startDue, p, 0⟩ ∧
    ∀ n, n < 48 → ((tileStart t p step).run s).get (fSem n) p = s.ax ⟨.semInit, p, n⟩ % 2 ^ 16 := by
  obtain ⟨a, b, ha, hb, hrun⟩ := tileStart_run (t := t) h0 step
  have hrest := freshRest_touches t p step
  have hrings := ringsSet_touches p
  have hsems := semsSet_touches p
  have hpc : (setF fPc p (b.get fEntry p)).Touches [] (fun r => r = ⟨.tile, p, 0x100⟩) (fun _ => False) := touches_setF rfl
  have hd : (setF fDispatched p 0).Touches [] (fun r => r = ⟨.tile, p, 0x100⟩) (fun _ => False) := touches_setF rfl
  have hst : (setF fTileState p 1).Touches [] (fun r => r = ⟨.tile, p, offState⟩) (fun _ => False) := touches_setF rfl
  have hmid : ∀ f : Fld, f.blk = .tile → f.off ≠ 0x100 → f.off ≠ 0x108 → f.off ≠ offEvtStatus → ¬ (0x140 ≤ f.off ∧ f.off < 0x1A0) →
      f.off < 0x400 → b.get f p = a.get f p := fun f hf h1 h2 h3 h4 h5 => by
    rw [hb, hd.get _ (by simp [h1]), hrings.get _ (by simp [hf]; omega)]
  have hend : ∀ f : Fld, f.blk = .tile → f.off ≠ 0x100 → f.off < 0x400 → ((tileStart t p step).run s).get f p = b.get f p := fun f hf h1 h2 => by
    rw [hrun, hrest.get _ (by simp [hf]; omega), hpc.get _ (by simp [h1])]
  refine ⟨?_, ?_, ?_, fun n hn => ?_⟩
  · rw [hend _ rfl (by decide) (by decide), hmid _ rfl (by decide) (by decide) (by decide) (by decide) (by decide), ha,
      hsems.get _ (by simp [fTileState]), setAx_get, setAx_get, get_setF_same (by decide)]
    rfl
  · rw [hrun, hrest.get _ (by simp [fPc]), get_setF_same (by decide), hmid _ rfl (by decide) (by decide) (by decide) (by decide) (by decide),
      ha, hsems.get _ (by simp [fEntry]), setAx_get, setAx_get, hst.get _ (by simp [fEntry, offState])]
    exact Nat.mod_eq_of_lt (get_lt s fEntry p)
  · rw [hrun, hrest.ax _ (fun h => h), hpc.ax _ (fun h => h), hb, hd.ax _ (fun h => h), hrings.ax _ (by simp), ha, hsems.ax _ (fun h => h)]
    simp
  · rw [hend _ rfl (by simp only [fSem]; omega) (by simp only [fSem]; omega), hmid _ rfl (by simp only [fSem]; omega) (by simp only [fSem]; omega)
      (by simp only [fSem, offEvtStatus]; omega) (by simp only [fSem]; omega) (by simp only [fSem]; omega), ha, semsSet_get hn]
    simp

theorem flushStart_answers (h6 : s.get fTileState (s.phys t) = 6) (hdue : s.ax ⟨.startDue, s.phys t, 0⟩ ≠ 0) :
    Answers (.tileFlushDone t) s fun u => u.get fTileState (s.phys t) = 1 ∧ u.get fPc (s.phys t) = s.get fEntry (s.phys t) ∧
      u.ax ⟨.startDue, s.phys t, 0⟩ = 0 ∧ ∀ n, n < 48 → u.get (fSem n) (s.phys t) = s.ax ⟨.semInit, s.phys t, n⟩ % 2 ^ 16 := by
  set p := s.phys t with hp
  set b := (withSome (s.kilnOf t) skip abortDone).run ((setAx ⟨.startDue, p, 0⟩ 0).run ((setF fTileState p 0).run s)) with hb
  have hst : (setF fTileState p 0).Touches [] (fun r => r = ⟨.tile, p, offState⟩) (fun _ => False) := touches_setF rfl
  have hnote := flushNoted_touches (s.kilnOf t)
  have hrun : (effTileFlushDone t).run s = (tileStart t p (s.ax ⟨.startDue, p, 0⟩ - 1)).run b := by
    rw [tileFlushDone_run h6, whenE_run, if_pos (by simpa [← hp] using hdue)]
  have h0 : b.get fTileState p = 0 := by
    rw [hb, hnote.get _ (by simp [fTileState]), setAx_get, get_setF_same (by decide)]
    rfl
  obtain ⟨hstate, hpc, hsd, hsem⟩ := tileStart_shows (t := t) h0 (s.ax ⟨.startDue, p, 0⟩ - 1)
  refine ⟨_, congrArg Host.Outcome.next hrun, hstate, hpc.trans ?_, hsd.trans ?_, fun n hn => (hsem n hn).trans ?_⟩
  · rw [hb, hnote.get _ (by simp [fEntry]), setAx_get, hst.get _ (by simp [fEntry, offState])]
  · rw [hb, hnote.ax _ (fun h => h)]
    simp
  · rw [hb, hnote.ax _ (fun h => h)]
    simp

/-- Settles O22: each sequencer instruction takes its effect and then retires, a halt, an end and a flush end as their conditions hold. -/
theorem sequencerInstructionsTakeEffect : Obligations.SequencerInstructionsTakeEffect :=
  ⟨fun _ _ _ h => nop_answers h, fun _ _ _ h => loop_answers h, fun _ _ _ h => loopEnd_answers h rfl rfl, fun _ _ _ h => cmpset_answers h,
    fun _ _ _ h => branch_answers h, fun _ _ _ h => swap_answers h, fun _ _ hruns h1 hw hr => bankSwap_answers hruns h1 hw hr,
    fun _ _ _ h => halt_answers h, fun _ _ h3 hq => tileHalted_answers h3 hq, fun _ _ _ h => endProg_answers h,
    fun _ _ h1 hw hq => tilePark_answers h1 hw hq, fun _ _ _ h => drain_answers h,
    fun _ _ hruns h1 hw hq => drainComplete_answers hruns h1 hw hq, fun _ _ h6 hdue => flushIdle_answers h6 hdue,
    fun _ _ h6 hdue => flushStart_answers h6 hdue⟩

end Sys2Proof.Machine
end

section
/-! PROOFS. Waits and signals of tile semaphores (chapter 04, R116–R120). -/

namespace Sys2Proof.Machine

variable {s : State} {t p e : Nat} {w : W128} {i : QInstr}

/-! ## The head of an engine queue -/

/-- Whether an instruction stands in queue e of tile p. -/
def inQueue (p e : Nat) (i : QInstr) : Bool := i.p = p && i.e = e

theorem head_eq (s : State) (p e : Nat) : s.head p e = s.tl.q.find? (inQueue p e) := rfl

theorem inQueue_ne {x : Nat} (h : x ≠ e) (hi : inQueue p e i = true) : inQueue p x i = false := by
  simp only [inQueue, Bool.and_eq_true, decide_eq_true_eq, Bool.and_eq_false_iff, decide_eq_false_iff_not] at hi ⊢
  exact .inr fun hx => h (hx.symm.trans hi.2)

/-- The head of a queue changed: it stays the head. -/
theorem find_mapHead {f : QInstr → QInstr} (hf : ∀ i, inQueue p e (f i) = inQueue p e i) (l : List QInstr) :
    (mapHead p e f l).find? (inQueue p e) = (l.find? (inQueue p e)).map f := by
  induction l with
  | nil => rfl
  | cons a l ih =>
    by_cases ha : inQueue p e a = true
    · rw [show mapHead p e f (a :: l) = f a :: l from if_pos ha, List.find?_cons_of_pos ((hf a).trans ha), List.find?_cons_of_pos ha]
      rfl
    · rw [show mapHead p e f (a :: l) = a :: mapHead p e f l from if_neg ha, List.find?_cons_of_neg ha, List.find?_cons_of_neg ha, ih]

/-- The head of a queue removed: the other queues keep theirs. -/
theorem find_dropHead_ne {x : Nat} (h : x ≠ e) (l : List QInstr) :
    (dropHead p e l).find? (inQueue p x) = l.find? (inQueue p x) := by
  induction l with
  | nil => rfl
  | cons a l ih =>
    by_cases ha : inQueue p e a = true
    · rw [show dropHead p e (a :: l) = l from if_pos ha, List.find?_cons_of_neg (by simp [inQueue_ne h ha])]
    · rw [show dropHead p e (a :: l) = a :: dropHead p e l from if_neg ha, List.find?_cons, List.find?_cons, ih]

/-! ## SIG after a semaphore has changed -/

/-- What raising SIG leaves in a semaphore. -/
theorem raiseSig_sem (s : State) (p : Nat) (w : W128) (m : Nat) : ((raiseSig p w).run s).get (fSem m) p =
    min (s.get (fSem m) p + if iSig w < 48 ∧ iSig w = m then 1 else 0) 0xFFFF := by
  have hlt : s.get (fSem m) p < 65536 := get_lt s (fSem m) p
  have hkeep : min (s.get (fSem m) p + 0) 0xFFFF = s.get (fSem m) p := by omega
  unfold raiseSig
  by_cases h : iSig w < 48
  · rw [if_pos h]
    by_cases hm : iSig w = m
    · rw [if_pos ⟨h, hm⟩, ← hm, semAdd_get]
    · rw [if_neg fun hc => hm hc.2, hkeep, semAdd_get_ne (Ne.symm hm)]
  · rw [if_neg h, if_neg fun hc => h hc.1, hkeep]
    rfl

/-- SIG raised after semaphore m has changed. -/
theorem raiseSig_kept_after {a : State} {m : Nat} {P : Nat → Prop} (hsem : ∀ n, n < 48 → n ≠ m → a.get (fSem n) p = s.get (fSem n) p)
    (hsig : ∀ o, s.sigRegs p w o → P o) (hm : ∀ o, iSig w = m → (o = 0x200 + 8 * m ∨ o = offErr ∨ o = offEvtStatus) → P o)
    (h : RegsKeptBut (fun b i o => b = .tile ∧ i = p ∧ P o) s a) :
    RegsKeptBut (fun b i o => b = .tile ∧ i = p ∧ P o) s ((raiseSig p w).run a) := by
  refine h.trans fun b i o hn => raiseSig_kept a p w b i o ?_
  rintro ⟨hb, hi, hlt, ho⟩
  refine hn ⟨hb, hi, ?_⟩
  by_cases heq : iSig w = m
  · exact hm o heq (by rw [heq] at ho; exact ho.imp id And.right)
  · rw [hsem _ hlt heq] at ho
    exact hsig o ⟨hlt, ho⟩

/-! ## WAIT stalls -/

theorem waitSeq_answers (h : s.seqAt (s.phys t) 0x01 6 = some w) : Answers (.wait t 6) s fun u =>
    u.ax ⟨.seqWait, s.phys t, 0⟩ = 1 ∧ OnlyParts [.aux] s u := by
  have ht : (setAx ⟨.seqWait, s.phys t, 0⟩ 1).Touches [] (fun _ => False) (fun _ => True) := touches_setAx trivial
  exact ⟨_, congrArg Host.Outcome.next (run_congr (f := setAx ⟨.seqWait, s.phys t, 0⟩ 1) (by simp only [effWait, h, if_true])), by simp,
    ht.only s (by simp) (.inr fun _ h => h) (.inl (by simp))⟩

theorem waitHead_answers (he : e < 6) (hruns : s.tileRuns (s.phys t) = true) (hi : s.head (s.phys t) e = some i) (hop : iOp i.word = 1) :
    Answers (.wait t e) s fun u => u.head (s.phys t) e = some { i with issued := true } ∧ OnlyParts [.tl] s u := by
  have heq : effWait t e s = modTl (fun x => { x with q := mapHead (s.phys t) e (fun i => { i with issued := true }) x.q }) s := by
    simp only [effWait, hi]
    rw [if_neg (by omega), if_pos (by simp [hruns, hop, he])]
  have ht : (modTl fun x => { x with q := mapHead (s.phys t) e (fun i => { i with issued := true }) x.q }).Touches [.tl] (fun _ => False)
      (fun _ => False) := touches_modTl (by simp)
  refine ⟨_, congrArg Host.Outcome.next (run_congr heq), ?_, ht.only s (by simp) (.inr fun _ h => h) (.inr fun _ h => h)⟩
  refine (find_mapHead (f := fun i => { i with issued := true }) (fun _ => rfl) s.tl.q).trans ?_
  rw [← head_eq, hi]
  rfl

/-! ## WAIT is satisfied -/

/-- A list of effects of which one alone changes the state. -/
theorem forEach_only {β : Type} {l : List β} {k : β → Eff} {b : β} (hl : l.Nodup) (hb : b ∈ l) (hbefore : ∀ c ∈ l, c ≠ b → (k c).run s = s)
    (hafter : ∀ c ∈ l, c ≠ b → (k c).run ((k b).run s) = (k b).run s) : (forEach l k).run s = (k b).run s :=
  forEach_once (P := fun u => u = (k b).run s) (Q := fun u => u = s) hl hb (fun c hc hne u hu => by rw [hu, hbefore c hc hne])
    (fun u hu => by rw [hu]) (fun c hc hne u hu => by rw [hu, hafter c hc hne]) s rfl

theorem filterMap_only {α β : Type} {f : α → Option β} {b : α} {y : β} {l : List α} (hl : l.Nodup) (hb : b ∈ l) (hf : f b = some y)
    (hnone : ∀ c ∈ l, c ≠ b → f c = none) : l.filterMap f = [y] := by
  induction l with
  | nil => simp at hb
  | cons a l ih =>
    obtain ⟨ha, hl⟩ := List.nodup_cons.1 hl
    by_cases hab : a = b
    · subst hab
      rw [List.filterMap_cons_some hf, List.filterMap_eq_nil_iff.2 fun c hc => hnone c (List.mem_cons_of_mem _ hc) fun h => ha (h ▸ hc)]
    · rw [List.filterMap_cons_none (hnone a (List.mem_cons_self ..) hab)]
      exact ih hl ((List.mem_cons.1 hb).resolve_left fun h => hab h.symm) fun c hc => hnone c (List.mem_cons_of_mem _ hc)

theorem waitTry_none {x : Nat} (h : s.waiter p x = none) : (waitTry p x).run s = s := by
  rw [run_congr (f := skip) (by simp only [waitTry, h]; rfl)]
  rfl

/-- One waiter alone, satisfied: it retires and its SIG is raised. -/
theorem waitSatisfied_run (hruns : s.tileRuns (s.phys t) = true) (he : e < 7) (hw : s.waiter (s.phys t) e = some w)
    (hothers : ∀ x, x < 7 → x ≠ e → s.waiter (s.phys t) x = none)
    (hafter : ∀ x, x < 7 → ((waitTry (s.phys t) e).run s).waiter (s.phys t) x = none) :
    (effWaitSatisfied t).run s = (raiseSig (s.phys t) w).run ((waitTry (s.phys t) e).run s) := by
  set p := s.phys t with hp
  have hall : (forEach (List.range 7) (waitTry p)).run s = (waitTry p e).run s :=
    forEach_only List.nodup_range (List.mem_range.2 he) (fun c hc hne => waitTry_none (hothers c (List.mem_range.1 hc) hne))
      fun c hc _ => waitTry_none (hafter c (List.mem_range.1 hc))
  have hmet : ((List.range 7).filterMap fun x => if s.waiter p x ≠ none ∧ ((forEach (List.range 7) (waitTry p)).run s).waiter p x = none
      then s.waiter p x else none) = [w] := by
    refine filterMap_only (b := e) List.nodup_range (List.mem_range.2 he) ?_ fun c hc hne => ?_
    · rw [if_pos ⟨by simp [hw], by rw [hall]; exact hafter e he⟩, hw]
    · rw [if_neg fun h => h.1 (hothers c (List.mem_range.1 hc) hne)]
  have heq : effWaitSatisfied t s = doAll [forEach (List.range 7) (waitTry p), forEach ((List.range 7).filterMap fun x =>
      if s.waiter p x ≠ none ∧ ((forEach (List.range 7) (waitTry p)).run s).waiter p x = none then s.waiter p x else none) (raiseSig p)] s := by
    simp only [effWaitSatisfied]
    exact if_neg (by simp [← hp, hruns])
  rw [run_congr heq, hmet, doAll_cons_run, doAll_cons_run, doAll_nil_run, forEach_cons_run, forEach_nil_run, hall]

/-- The semaphore of a satisfied wait. -/
def waitTakes (p : Nat) (w : W128) : Eff := fun s => setF (fSem (sb w 32 6)) p (s.get (fSem (sb w 32 6)) p - sb w 48 16) s

theorem waitTakes_touches (p : Nat) (w : W128) : (waitTakes p w).Touches [] (fun r => r = ⟨.tile, p, 0x200 + 8 * sb w 32 6⟩) (fun _ => False) :=
  fun s => touches_setF (ps := []) (R := fun r => r = ⟨.tile, p, 0x200 + 8 * sb w 32 6⟩) (A := fun _ => False) rfl s

theorem waitTakes_get (p : Nat) (w : W128) : ((waitTakes p w).run s).get (fSem (sb w 32 6)) p = s.get (fSem (sb w 32 6)) p - sb w 48 16 := by
  have hlt : s.get (fSem (sb w 32 6)) p < 65536 := get_lt s (fSem (sb w 32 6)) p
  refine (get_setF_same (by simp [fSem])).trans ?_
  simp only [fSem] at hlt ⊢
  omega

theorem waitTry_seq (hw : s.waiter p 6 = some w) (hc : sb w 48 16 ≤ s.get (fSem (sb w 32 6)) p) : (waitTry p 6).run s =
    (setF fPc p ((s.get fPc p + 1) % 2048)).run ((addSat fDispatched p 1).run ((setAx ⟨.seqWait, p, 0⟩ 0).run ((waitTakes p w).run s))) := by
  have heq : waitTry p 6 s = doAll [setF (fSem (sb w 32 6)) p (s.get (fSem (sb w 32 6)) p - sb w 48 16),
      doAll [setAx ⟨.seqWait, p, 0⟩ 0, addSat fDispatched p 1, setF fPc p ((s.get fPc p + 1) % 2048)]] s := by
    simp only [waitTry, hw]
    rw [if_neg (by omega), if_neg (by omega)]
  rw [run_congr heq, doAll_cons_run, doAll_cons_run, doAll_nil_run, doAll_cons_run, doAll_cons_run, doAll_cons_run, doAll_nil_run]
  rfl

theorem waitTry_queue (he : e < 6) (hw : s.waiter p e = some w) (hc : sb w 48 16 ≤ s.get (fSem (sb w 32 6)) p) : (waitTry p e).run s =
    (whenE (fun _ => e < 4) (tbForget (4 * p + e))).run ((modTl fun x => { x with q := dropHead p e x.q }).run ((waitTakes p w).run s)) := by
  have heq : waitTry p e s = doAll [setF (fSem (sb w 32 6)) p (s.get (fSem (sb w 32 6)) p - sb w 48 16),
      doAll [modTl fun x => { x with q := dropHead p e x.q }, whenE (fun _ => e < 4) (tbForget (4 * p + e))]] s := by
    simp only [waitTry, hw]
    rw [if_neg (by omega), if_pos he]
  rw [run_congr heq, doAll_cons_run, doAll_cons_run, doAll_nil_run, doAll_cons_run, doAll_cons_run, doAll_nil_run]
  rfl

/-- Where a waiter stands is read off the queues, and off STATE and what the sequencer waits for. -/
theorem waiter_queue {u : State} {x : Nat} (hx : x < 6) (h : u.head p x = s.head p x) : u.waiter p x = s.waiter p x := by
  simp only [State.waiter, if_pos hx, h]

theorem waiter_head_none {x : Nat} (hx : x < 6) (h : ∀ i, s.head p x = some i → i.issued = false) : s.waiter p x = none := by
  simp only [State.waiter, if_pos hx]
  cases hh : s.head p x with
  | none => rfl
  | some i => simp [h i hh]

theorem waiter_seq (s : State) (p : Nat) :
    s.waiter p 6 = if s.get fTileState p = 1 ∧ s.ax ⟨.seqWait, p, 0⟩ = 1 then some (s.pcWord p) else none := rfl

theorem waitSatisfied_seq {m : Nat} (hm : m = sb w 32 6) (hruns : s.tileRuns (s.phys t) = true) (hw : s.waiter (s.phys t) 6 = some w)
    (hnone : ∀ e, e < 6 → s.waiter (s.phys t) e = none) (hc : sb w 48 16 ≤ s.get (fSem m) (s.phys t)) :
    Answers (.waitSatisfied t) s fun u => u.ax ⟨.seqWait, s.phys t, 0⟩ = 0 ∧ u.get fPc (s.phys t) = (s.get fPc (s.phys t) + 1) % 2048 ∧
      u.get fDispatched (s.phys t) = min (s.get fDispatched (s.phys t) + 1) (2 ^ 32 - 1) ∧
      u.get (fSem m) (s.phys t) = min (s.get (fSem m) (s.phys t) - sb w 48 16 + if iSig w < 48 ∧ iSig w = m then 1 else 0) 0xFFFF ∧
      OnlyParts [.regs, .aux, .hi] s u ∧ RegsKeptBut (fun b i o => b = .tile ∧ i = s.phys t ∧
        (o = 0x100 ∨ o = 0x200 + 8 * m ∨ s.sigRegs (s.phys t) w o ∨ (iSig w = m ∧ (o = offErr ∨ o = offEvtStatus)))) s u := by
  subst hm
  set p := s.phys t with hp
  set m := sb w 32 6 with hm
  set last := doAll [setAx ⟨.seqWait, p, 0⟩ 0, addSat fDispatched p 1, setF fPc p ((s.get fPc p + 1) % 2048)] with hlast
  set a := (waitTry p 6).run s with ha
  have htry : a = last.run ((waitTakes p w).run s) := by
    rw [ha, waitTry_seq hw hc, hlast, doAll_cons_run, doAll_cons_run, doAll_cons_run, doAll_nil_run]
  have htakes := waitTakes_touches p w
  have ht : last.Touches [] (fun r => r = ⟨.tile, p, 0x100⟩) (fun _ => True) :=
    touches_doAll_cons (touches_setAx trivial) (touches_doAll_cons (touches_addSat rfl) (touches_doAll_cons (touches_setF rfl) touches_doAll_nil))
  have hlive : a.ax ⟨.seqWait, p, 0⟩ = 0 := by
    rw [ha, waitTry_seq hw hc]
    simp
  have hafter : ∀ x, x < 7 → a.waiter p x = none := fun x hx => by
    by_cases h6 : x = 6
    · rw [h6, waiter_seq, if_neg (by rw [hlive]; omega)]
    · have htl : a.tl = s.tl := by
        rw [htry]
        exact (ht.same _ .tl (by simp) (by simp) (by simp)).trans (htakes.same s .tl (by simp) (by simp) (by simp))
      rw [waiter_queue (s := s) (by omega) (by rw [head_eq, head_eq, htl]), hnone x (by omega)]
  have hrun := waitSatisfied_run (t := t) hruns (by omega) hw (fun x hx hne => hnone x (by omega)) hafter
  have hraise := raiseSig_touches p w
  have hoff : ∀ n, n < 64 → (⟨.tile, p, 0x200 + 8 * n⟩ : RK) ≠ ⟨.tile, p, 0x100⟩ := fun n _ => by simp only [ne_eq, RK.mk.injEq]; omega
  have hsemm : a.get (fSem m) p = s.get (fSem m) p - sb w 48 16 := by
    rw [htry, ht.get _ (hoff m (sb_lt w 32 6)), waitTakes_get]
  have hkept : RegsKeptBut (fun b i o => b = .tile ∧ i = p ∧
      (o = 0x100 ∨ o = 0x200 + 8 * m ∨ s.sigRegs p w o ∨ (iSig w = m ∧ (o = offErr ∨ o = offEvtStatus)))) s a := by
    rw [htry]
    refine (htakes.regsKept s _ ?_).trans (ht.regsKept _ _ ?_)
    · rintro b i o ⟨⟩
      exact ⟨rfl, rfl, .inr (.inl rfl)⟩
    · rintro b i o ⟨⟩
      exact ⟨rfl, rfl, .inl rfl⟩
  refine ⟨_, congrArg Host.Outcome.next hrun, ?_, ?_, ?_, ?_, ?_, ?_⟩
  · rw [hraise.ax _ (fun h => h), hlive]
  · rw [hraise.get _ (by simp [raiseRegs, fPc, offErr, offEvtStatus]), ← ha, htry, hlast, doAll_cons_run, doAll_cons_run, doAll_cons_run,
      doAll_nil_run, get_setF_same (by decide)]
    simp only [fPc]
    omega
  · rw [hraise.get _ (by simp [raiseRegs, fDispatched, offErr, offEvtStatus]), ← ha, htry, hlast, doAll_cons_run, doAll_cons_run,
      doAll_cons_run, doAll_nil_run, get_setF_ne (fun _ _ _ => by decide) (by decide), get_addSat_same (by decide), setAx_get,
      htakes.get s (by simp only [fDispatched, RK.mk.injEq]; omega)]
    rfl
  · rw [raiseSig_sem, ← ha, hsemm]
  · refine OnlyParts.trans ?_ (hraise.only a (by simp) (by simp) (.inl (by simp)))
    rw [htry]
    exact (htakes.only s (by simp) (by simp) (.inl (by simp))).trans (ht.only _ (by simp) (by simp) (.inl (by simp)))
  · refine raiseSig_kept_after (m := m) (fun n hn hne => ?_) (fun o ho => .inr (.inr (.inl ho))) (fun o heq ho => ?_) hkept
    · show a.get (fSem n) p = _
      rw [htry, ht.get _ (hoff n (by omega)), htakes.get s (by simp only [fSem, RK.mk.injEq]; omega)]
    · rcases ho with ho | ho
      · exact .inr (.inl ho)
      · exact .inr (.inr (.inr ⟨heq, ho⟩))

theorem waitSatisfied_queue {m : Nat} (hm : m = sb w 32 6) (hruns : s.tileRuns (s.phys t) = true) (he : e < 6)
    (hw : s.waiter (s.phys t) e = some w) (hnone : ∀ x, x < 7 → x ≠ e → s.waiter (s.phys t) x = none)
    (hnext : ∀ i ∈ dropHead (s.phys t) e s.tl.q, i.p = s.phys t → i.e = e → i.issued = false)
    (hc : sb w 48 16 ≤ s.get (fSem m) (s.phys t)) :
    Answers (.waitSatisfied t) s fun u => u.tl.q = dropHead (s.phys t) e s.tl.q ∧
      u.get (fSem m) (s.phys t) = min (s.get (fSem m) (s.phys t) - sb w 48 16 + if iSig w < 48 ∧ iSig w = m then 1 else 0) 0xFFFF ∧
      OnlyParts [.regs, .tl, .hi] s u ∧ RegsKeptBut (fun b i o => b = .tile ∧ i = s.phys t ∧
        (o = 0x200 + 8 * m ∨ s.sigRegs (s.phys t) w o ∨ (iSig w = m ∧ (o = offErr ∨ o = offEvtStatus)))) s u := by
  subst hm
  set p := s.phys t with hp
  set m := sb w 32 6 with hm
  set last := doAll [modTl fun x => { x with q := dropHead p e x.q }, whenE (fun _ => e < 4) (tbForget (4 * p + e))] with hlast
  set a := (waitTry p e).run s with ha
  have htry : a = last.run ((waitTakes p w).run s) := by
    rw [ha, waitTry_queue he hw hc, hlast, doAll_cons_run, doAll_cons_run, doAll_nil_run]
  have htakes := waitTakes_touches p w
  have ht : last.Touches [.tl] (fun _ => False) (fun _ => False) :=
    touches_doAll_cons (touches_modTl (by simp)) (touches_doAll_cons (touches_whenE (touches_tbForget (by simp))) touches_doAll_nil)
  have hq : a.tl.q = dropHead p e s.tl.q := by
    rw [ha, waitTry_queue he hw hc, whenE_run]
    split <;> exact congrArg (fun x => dropHead p e x.q) (htakes.same s .tl (by simp) (by simp) (by simp))
  have hafter : ∀ x, x < 7 → a.waiter p x = none := fun x hx => by
    by_cases h6 : x = 6
    · have hsame : ¬ (s.get fTileState p = 1 ∧ s.ax ⟨.seqWait, p, 0⟩ = 1) := fun h => by
        have := hnone 6 (by omega) (by omega)
        rw [waiter_seq, if_pos h] at this
        exact absurd this (by simp)
      have hst : a.get fTileState p = s.get fTileState p := by
        rw [htry, ht.get _ (fun h => h), htakes.get s (by simp only [fTileState, RK.mk.injEq]; omega)]
      have hax : a.ax ⟨.seqWait, p, 0⟩ = s.ax ⟨.seqWait, p, 0⟩ := by rw [htry, ht.ax _ (fun h => h), htakes.ax s (fun h => h)]
      rw [h6, waiter_seq, hst, hax, if_neg hsame]
    · by_cases hxe : x = e
      · refine waiter_head_none (by omega) fun i hi => ?_
        rw [head_eq, hq, hxe] at hi
        have hin := List.find?_some hi
        simp only [inQueue, Bool.and_eq_true, decide_eq_true_eq] at hin
        exact hnext i (List.mem_of_find?_eq_some hi) hin.1 hin.2
      · rw [waiter_queue (s := s) (by omega) (by rw [head_eq, head_eq, hq, find_dropHead_ne hxe]), hnone x hx hxe]
  have hrun := waitSatisfied_run (t := t) hruns (by omega) hw hnone hafter
  have hraise := raiseSig_touches p w
  have hsemm : a.get (fSem m) p = s.get (fSem m) p - sb w 48 16 := by
    rw [htry, ht.get _ (fun h => h), waitTakes_get]
  have hkept : RegsKeptBut (fun b i o => b = .tile ∧ i = p ∧
      (o = 0x200 + 8 * m ∨ s.sigRegs p w o ∨ (iSig w = m ∧ (o = offErr ∨ o = offEvtStatus)))) s a := by
    rw [htry]
    refine (htakes.regsKept s _ ?_).trans (ht.regsKept _ _ fun _ _ _ h => h.elim)
    rintro b i o ⟨⟩
    exact ⟨rfl, rfl, .inl rfl⟩
  refine ⟨_, congrArg Host.Outcome.next hrun, ?_, ?_, ?_, ?_⟩
  · exact (congrArg TileSt.q (hraise.same a .tl (by simp) (by simp) (by simp))).trans hq
  · rw [raiseSig_sem, ← ha, hsemm]
  · refine OnlyParts.trans ?_ (hraise.only a (by simp) (by simp) (.inr fun _ h => h))
    rw [htry]
    exact (htakes.only s (by simp) (by simp) (.inr fun _ h => h)).trans (ht.only _ (by simp) (by simp) (.inr fun _ h => h))
  · refine raiseSig_kept_after (m := m) (fun n hn hne => ?_) (fun o ho => .inr (.inl ho)) (fun o heq ho => ?_) hkept
    · show a.get (fSem n) p = _
      rw [htry, ht.get _ (fun h => h), htakes.get s (by simp only [fSem, RK.mk.injEq]; omega)]
    · rcases ho with ho | ho
      · exact .inl ho
      · exact .inr (.inr ⟨heq, ho⟩)

/-! ## SIGNAL leaves -/

/-- A signal that leaves the tile: what its packet says. -/
def signalOf (p : Nat) (w : W128) (f : Flit) : Prop := f.ctrl = true ∧ f.h.typ = 3 ∧ f.at_ = p ∧ f.h.arg % 64 = sb w 34 6 ∧
  f.h.arg / 64 % 256 = sb w 40 8 ∧ f.h.exitEn = decide (sb w 32 2 ≠ 1) ∧
  (sb w 32 2 = 1 → f.h.dx = (sb w 56 8 * 192 + sb w 48 8) % 192 ∧ f.h.dy = (sb w 56 8 * 192 + sb w 48 8) / 192)

theorem sendSignal_local (h : sb w 32 2 = 0) : sendSignal t p w = semAdd p (sb w 34 6) (sb w 40 8) := by
  simp only [sendSignal, h]

theorem sendSignal_out (h : sb w 32 2 ≠ 0) (s : State) : ∃ f : Flit, signalOf (s.phys t) w f ∧
    sendSignal t p w s = inject f s := by
  have hsem : sb w 34 6 < 64 := sb_lt w 34 6
  have hn : sb w 40 8 < 256 := sb_lt w 40 8
  by_cases h1 : sb w 32 2 = 1
  · refine ⟨_, ?_, by simp only [sendSignal, h1]; rfl⟩
    refine ⟨rfl, rfl, rfl, ?_, ?_, by simp [h1, flitAt], fun _ => ⟨rfl, rfl⟩⟩ <;> simp only [flitAt] <;> omega
  · have heq : sendSignal t p w = sendCtrl t (bktProgram p) (tileX t) 3 (sb w 34 6 + sb w 40 8 * 64 + 2 ^ 14) 0 true := by
      unfold sendSignal
      split
      · omega
      · omega
      · rfl
    refine ⟨_, ?_, by rw [heq]; rfl⟩
    refine ⟨rfl, rfl, rfl, ?_, ?_, by simp [h1, flitAt], fun h => absurd h h1⟩ <;> simp only [flitAt] <;> omega

theorem inject_touches (f : Flit) : (inject f).Touches [.net] (fun _ => False) (fun _ => False) := touches_modNet (by simp)

/-- A count held twice is held once. -/
theorem held_twice (v n k : Nat) : min (min (v + n) 0xFFFF + k) 0xFFFF = min (v + n + k) 0xFFFF := by omega

theorem seqRetire_sem (s : State) (p pc : Nat) (w : W128) {m : Nat} : ((seqRetire p pc w).run s).get (fSem m) p =
    min (s.get (fSem m) p + if iSig w < 48 ∧ iSig w = m then 1 else 0) 0xFFFF := by
  have hpage : (doAll [addSat fDispatched p 1, setF fPc p (pc % 2048)]).Touches [] (fun k => k = ⟨.tile, p, 0x100⟩) (fun _ => False) :=
    touches_doAll_cons (touches_addSat rfl) (touches_doAll_cons (touches_setF rfl) touches_doAll_nil)
  have hrun : (seqRetire p pc w).run s = (raiseSig p w).run ((doAll [addSat fDispatched p 1, setF fPc p (pc % 2048)]).run s) := by
    rw [seqRetire, doAll_cons_run, doAll_cons_run, doAll_cons_run, doAll_nil_run, doAll_cons_run, doAll_cons_run, doAll_nil_run]
  rw [hrun, raiseSig_sem, hpage.get s (by simp only [fSem, RK.mk.injEq]; omega)]

theorem signalSeq_local (h : s.seqAt (s.phys t) 0x02 6 = some w) (h0 : sb w 32 2 = 0) : Answers (.signal t 6) s fun u =>
    u.get fPc (s.phys t) = (s.get fPc (s.phys t) + 1) % 2048 ∧
    u.get fDispatched (s.phys t) = min (s.get fDispatched (s.phys t) + 1) (2 ^ 32 - 1) ∧
    u.get (fSem (sb w 34 6)) (s.phys t) = min (s.get (fSem (sb w 34 6)) (s.phys t) + sb w 40 8 +
      if iSig w < 48 ∧ iSig w = sb w 34 6 then 1 else 0) 0xFFFF ∧
    OnlyParts [.regs, .hi] s u ∧ RegsKeptBut (fun b i o => b = .tile ∧ i = s.phys t ∧
      (o = 0x100 ∨ o = 0x200 + 8 * sb w 34 6 ∨ s.sigRegs (s.phys t) w o ∨ o = offErr ∨ o = offEvtStatus)) s u := by
  have heq : effSignal t 6 s = doAll [sendSignal t (s.phys t) w, seqRetire (s.phys t) (s.get fPc (s.phys t) + 1) w] s := by
    simp only [effSignal, h, if_true]
  set p := s.phys t
  set m := sb w 34 6 with hm
  have hmlt : m < 64 := sb_lt w 34 6
  have hraise := semAdd_touches p m (sb w 40 8)
  set a := (semAdd p m (sb w 40 8)).run s with ha
  have hrun : (effSignal t 6).run s = (seqRetire p (s.get fPc p + 1) w).run a := by
    rw [run_congr heq, sendSignal_local h0, doAll_cons_run, doAll_cons_run, doAll_nil_run]
  have hdisp : a.get fDispatched p = s.get fDispatched p := hraise.get s (by simp only [fDispatched, offErr, offEvtStatus]; omega)
  have hret := seqRetire_touches p (s.get fPc p + 1) w
  obtain ⟨hd, hpc, -, honly, hkept⟩ := seqRetire_only a p (s.get fPc p + 1) w
  refine ⟨_, congrArg Host.Outcome.next hrun, hpc, hd.trans (by rw [hdisp]), ?_, ?_, ?_⟩
  · rw [seqRetire_sem, ha, semAdd_get, held_twice]
  · exact (hraise.only s (by simp) (by simp) (.inr fun _ h => h)).trans honly
  · refine RegsKeptBut.trans (t := a) (hraise.regsKept s _ ?_) fun b i o hn => hkept b i o ?_
    · rintro b i o ⟨hb, hi, ho⟩
      exact ⟨hb, hi, ho.elim (fun h => .inr (.inl h)) fun h => .inr (.inr (.inr h))⟩
    · rintro ⟨hb, hi, ho⟩
      refine hn ⟨hb, hi, ?_⟩
      rcases ho with ho | ⟨hlt, ho⟩ | ho
      · exact .inl ho
      · rcases ho with ho | ho
        · exact .inr (.inr (.inl ⟨hlt, .inl ho⟩))
        · exact .inr (.inr (.inr ho.2))
      · exact ho.elim

theorem signalSeq_out (h : s.seqAt (s.phys t) 0x02 6 = some w) (h0 : sb w 32 2 ≠ 0) : Answers (.signal t 6) s fun u =>
    (∃ f, u.net.flits = s.net.flits ++ [f] ∧ signalOf (s.phys t) w f) ∧
    SeqDone [.regs, .hi, .net] s u (s.phys t) (s.get fPc (s.phys t) + 1) w fun _ => False := by
  obtain ⟨f, hf, hsend⟩ := sendSignal_out (t := t) (p := s.phys t) h0 s
  have heq : effSignal t 6 s = doAll [sendSignal t (s.phys t) w, seqRetire (s.phys t) (s.get fPc (s.phys t) + 1) w] s := by
    simp only [effSignal, h, if_true]
  have hrun : (effSignal t 6).run s = (seqRetire (s.phys t) (s.get fPc (s.phys t) + 1) w).run ((inject f).run s) := by
    rw [run_congr heq, doAll_cons_run, doAll_cons_run, doAll_nil_run, run_congr hsend]
  have hret := seqRetire_touches (s.phys t) (s.get fPc (s.phys t) + 1) w
  have hnet : ((seqRetire (s.phys t) (s.get fPc (s.phys t) + 1) w).run ((inject f).run s)).net = ((inject f).run s).net :=
    hret.same _ .net (by simp) (by simp) (by simp)
  refine ⟨_, congrArg Host.Outcome.next hrun, ⟨f, ?_, hf⟩, ?_⟩
  · rw [hnet]
    rfl
  · exact seqRetire_after (inject_touches f) (by simp) (by simp) (by simp) (.inr fun _ h => h) (fun _ _ _ h => h.elim) (fun _ h => h.elim)

/-- A SIGNAL at the head of its queue: it is sent, leaves the queue, and raises its SIG. -/
theorem signalHead_run (he : e < 6) (hruns : s.tileRuns (s.phys t) = true) (hi : s.head (s.phys t) e = some i) (hop : iOp i.word = 2) :
    (effSignal t e).run s = (raiseSig (s.phys t) i.word).run ((whenE (fun _ => e < 4) (tbForget (4 * s.phys t + e))).run
      ((modTl fun x => { x with q := dropHead (s.phys t) e x.q }).run ((sendSignal t (s.phys t) i.word).run s))) := by
  have heq : effSignal t e s = doAll [sendSignal t (s.phys t) i.word, modTl fun x => { x with q := dropHead (s.phys t) e x.q },
      whenE (fun _ => e < 4) (tbForget (4 * s.phys t + e)), raiseSig (s.phys t) i.word] s := by
    simp only [effSignal, hi]
    rw [if_neg (by omega), if_pos (by simp [hruns, hop, he])]
  rw [run_congr heq, doAll_cons_run, doAll_cons_run, doAll_cons_run, doAll_cons_run, doAll_nil_run]

theorem signalHead_answers (he : e < 6) (hruns : s.tileRuns (s.phys t) = true) (hi : s.head (s.phys t) e = some i) (hop : iOp i.word = 2) :
    Answers (.signal t e) s fun u => u.tl.q = dropHead (s.phys t) e s.tl.q ∧
      (sb i.word 32 2 = 0 → u.get (fSem (sb i.word 34 6)) (s.phys t) = min (s.get (fSem (sb i.word 34 6)) (s.phys t) + sb i.word 40 8 +
        if iSig i.word < 48 ∧ iSig i.word = sb i.word 34 6 then 1 else 0) 0xFFFF ∧ u.net = s.net) ∧
      (sb i.word 32 2 ≠ 0 → SigRaised s u (s.phys t) i.word ∧ ∃ f, u.net.flits = s.net.flits ++ [f]) ∧
      OnlyParts [.regs, .tl, .hi, .net] s u := by
  have hrun := signalHead_run he hruns hi hop
  set p := s.phys t
  set w := i.word
  set a := (sendSignal t p w).run s with ha
  set last := doAll [modTl fun x => { x with q := dropHead p e x.q }, whenE (fun _ => e < 4) (tbForget (4 * p + e))] with hlast
  have hl : last.Touches [.tl] (fun _ => False) (fun _ => False) :=
    touches_doAll_cons (touches_modTl (by simp)) (touches_doAll_cons (touches_whenE (touches_tbForget (by simp))) touches_doAll_nil)
  have hraise := raiseSig_touches p w
  have hu : (effSignal t e).run s = (raiseSig p w).run (last.run a) := by
    rw [hrun, hlast, doAll_cons_run, doAll_cons_run, doAll_nil_run]
  have hsent : OnlyParts [.regs, .tl, .hi, .net] s a ∧ a.tl = s.tl := by
    by_cases h0 : sb w 32 2 = 0
    · have hadd := semAdd_touches p (sb w 34 6) (sb w 40 8)
      rw [ha, sendSignal_local h0]
      exact ⟨hadd.only s (by simp) (by simp) (.inr fun _ h => h), hadd.same s .tl (by simp) (by simp) (by simp)⟩
    · obtain ⟨f, -, hsend⟩ := sendSignal_out (t := t) (p := p) h0 s
      rw [ha, run_congr hsend]
      exact ⟨(inject_touches f).only s (by simp) (by simp) (.inr fun _ h => h), rfl⟩
  have hq : (last.run a).tl.q = dropHead p e s.tl.q := by
    rw [hlast, doAll_cons_run, doAll_cons_run, doAll_nil_run, whenE_run, ← hsent.2]
    split <;> rfl
  have hsem : ∀ m, (last.run a).get (fSem m) p = a.get (fSem m) p := fun m => hl.get a fun h => h
  refine ⟨_, congrArg Host.Outcome.next hu, ?_, fun h0 => ⟨?_, ?_⟩, fun h0 => ⟨fun hlt => ?_, ?_⟩, ?_⟩
  · exact (congrArg TileSt.q (hraise.same _ .tl (by simp) (by simp) (by simp) : _ = (last.run a).tl)).trans hq
  · rw [raiseSig_sem, hsem, ha, sendSignal_local h0, semAdd_get, held_twice]
  · refine (hraise.same _ .net (by simp) (by simp) (by simp) : _ = (last.run a).net).trans
      ((hl.same a .net (by simp) (by simp) (by simp) : _ = a.net).trans ?_)
    rw [ha, sendSignal_local h0]
    exact (semAdd_touches p (sb w 34 6) (sb w 40 8)).same s .net (by simp) (by simp) (by simp)
  · obtain ⟨f, -, hsend⟩ := sendSignal_out (t := t) (p := p) h0 s
    rw [raiseSig_raised _ p w hlt, hsem, ha, run_congr hsend]
    rfl
  · obtain ⟨f, -, hsend⟩ := sendSignal_out (t := t) (p := p) h0 s
    have hnet : ((raiseSig p w).run (last.run a)).net = (last.run a).net := hraise.same _ .net (by simp) (by simp) (by simp)
    have hnet' : (last.run a).net = a.net := hl.same a .net (by simp) (by simp) (by simp)
    refine ⟨f, ?_⟩
    rw [hnet, hnet', ha, run_congr hsend]
    rfl
  · exact hsent.1.trans ((hl.only a (by simp) (.inr fun _ h => h) (.inr fun _ h => h)).trans
      (hraise.only _ (by simp) (by simp) (.inr fun _ h => h)))

theorem signalArrive_answers {k x : Nat} {f : Flit} (hf : s.net.flits[k]? = some f) (hx : s.geo.carries f.at_ = some x) (hbr : f.br = 5)
    (htyp : f.h.typ = 3) (hok : s.deliverFail f.at_ f true = 0) : Answers (.tileSignalArrive k) s fun u =>
      u.net = { s.net with flits := s.net.flits.eraseIdx k } ∧
      u.get (fSem (f.h.arg % 64)) f.at_ = min (s.get (fSem (f.h.arg % 64)) f.at_ + f.h.arg / 64 % 256) 0xFFFF ∧
      OnlyParts [.regs, .net, .hi] s u ∧ RegsKeptBut (fun b j o => b = .tile ∧ j = f.at_ ∧
        (o = 0x200 + 8 * (f.h.arg % 64) ∨ (o = offErr ∨ o = offEvtStatus) ∧
          0xFFFF < s.get (fSem (f.h.arg % 64)) f.at_ + f.h.arg / 64 % 256)) s u := by
  have heq : effTileSignalArrive k s = doAll [dropFlit k, semAdd f.at_ (f.h.arg % 64) (f.h.arg / 64 % 256)] s := by
    simp only [effTileSignalArrive, hf, hx]
    rw [if_neg (by omega), if_neg (by omega)]
  have hdrop : (dropFlit k).Touches [.net] (fun _ => False) (fun _ => False) := touches_modNet (by simp)
  have hadd := semAdd_touches f.at_ (f.h.arg % 64) (f.h.arg / 64 % 256)
  have hrun : (effTileSignalArrive k).run s = (semAdd f.at_ (f.h.arg % 64) (f.h.arg / 64 % 256)).run ((dropFlit k).run s) := by
    rw [run_congr heq, doAll_cons_run, doAll_cons_run, doAll_nil_run]
  refine ⟨_, congrArg Host.Outcome.next hrun, ?_, ?_, ?_, ?_⟩
  · exact (hadd.same _ .net (by simp) (by simp) (by simp) : _ = ((dropFlit k).run s).net)
  · rw [semAdd_get]
    rfl
  · exact (hdrop.only s (by simp) (.inr fun _ h => h) (.inr fun _ h => h)).trans (hadd.only _ (by simp) (by simp) (.inr fun _ h => h))
  · exact RegsKeptBut.trans (t := (dropFlit k).run s) (fun _ _ _ _ => rfl) (semAdd_kept ((dropFlit k).run s) f.at_ (f.h.arg % 64) _)

/-- Settles O23: waits stall and are met one at a time, signals are sent and arrive, and each SIG raised is one more. -/
theorem semaphoresWaitAndSignal : Obligations.SemaphoresWaitAndSignal := by
  refine ⟨fun _ _ _ h => waitSeq_answers h, fun _ _ _ _ he hruns hi hop => waitHead_answers he hruns hi hop,
    fun _ _ _ hruns hw hnone hc => waitSatisfied_seq rfl hruns hw hnone hc,
    fun _ _ _ _ hruns he hw hnone hnext hc => waitSatisfied_queue rfl hruns he hw hnone hnext hc,
    fun _ _ _ h h0 => signalSeq_local h h0, fun _ _ _ h h0 => ?_, fun _ _ _ _ he hruns hi hop => signalHead_answers he hruns hi hop,
    fun _ _ _ _ hf hx hbr htyp hok => signalArrive_answers hf hx hbr htyp hok⟩
  obtain ⟨u, hu, ⟨f, hflits, hctrl, htyp, hat, hsem, hn, hexit, hdest⟩, hdone⟩ := signalSeq_out h h0
  exact ⟨u, hu, ⟨f, hflits, hctrl, htyp, hat, hsem, hn, hexit, hdest⟩, hdone⟩

end Sys2Proof.Machine
end

section
/-! PROOFS. Edge requests, the BAR4 aperture, MAP registers and COMB packets at the edge (chapter 10, R272, R274, R297–R302, R306). -/

namespace Sys2Proof.Machine

variable {s : State} {p : Nat} {e : EdgePkt}

/-! ## What an edge request is judged by -/

/-- The state an edge request is judged by: the wafer change and the windows, the epoch, the kilns' saggars, the stacks' sizes and
bad bursts. -/
def State.judges (s u : State) : Prop := u.sg = s.sg ∧ u.get fEpoch 0 = s.get fEpoch 0 ∧
  (∀ k, u.get (fSaggar .kiln) k = s.get (fSaggar .kiln) k) ∧ (∀ q, u.get fUnits q = s.get fUnits q) ∧ u.storeBad = s.storeBad

theorem oldEntry_congr {u : State} (h : s.judges u) (kind idx ep : Nat) : u.oldEntry kind idx ep = s.oldEntry kind idx ep := by
  unfold State.oldEntry
  rw [h.1, h.2.1]

theorem changeOld_congr {u : State} (h : s.judges u) : u.changeOld = s.changeOld := by
  unfold State.changeOld
  rw [h.1]

theorem win_congr {u : State} (h : s.judges u) (w : Nat) (ep : Option Nat) : u.win w ep = s.win w ep := by
  cases ep <;> simp only [State.win, oldEntry_congr h, changeOld_congr h, h.1]

theorem winAt_congr {u : State} (h : s.judges u) (ep : Option Nat) (a : Nat) : u.winAt ep a = s.winAt ep a := by
  simp only [State.winAt, win_congr h]

theorem sagStop_congr {u : State} (h : s.judges u) (ep : Option Nat) (sag : Nat) (rd wr : Bool) (stop fuel : Nat) :
    ∀ a, u.sagStop ep sag rd wr stop fuel a = s.sagStop ep sag rd wr stop fuel a := by
  induction fuel with
  | zero => exact fun _ => rfl
  | succ n ih =>
    intro a
    simp only [State.sagStop, winAt_congr h, ih]

theorem sagDenied_congr {u : State} (h : s.judges u) (ep : Option Nat) (sag : Nat) (rd wr : Bool) (a n : Nat) :
    u.sagDenied ep sag rd wr a n = s.sagDenied ep sag rd wr a n := sagStop_congr h ..

theorem kilnSag_congr {u : State} (h : s.judges u) (k : Nat) (ep : Option Nat) : u.kilnSag k ep = s.kilnSag k ep := by
  cases ep <;> simp only [State.kilnSag, oldEntry_congr h, changeOld_congr h, h.2.2.1]

theorem usable_congr {u : State} (h : s.judges u) (q : Nat) : u.usable q = s.usable q := by
  unfold State.usable
  rw [h.2.2.2.1]

theorem populated_congr {u : State} (h : s.judges u) (a : Nat) : u.populated a = s.populated a := by
  simp only [State.populated, usable_congr h]

theorem firstUnpop_congr {u : State} (h : s.judges u) (a n : Nat) : u.firstUnpop a n = s.firstUnpop a n := by
  simp only [State.firstUnpop, usable_congr h, populated_congr h]

theorem badBursts_congr {u : State} (h : s.judges u) (a n : Nat) : u.badBursts a n = s.badBursts a n := by
  simp only [State.badBursts, h.2.2.2.2]

theorem badPart_congr {u : State} (h : s.judges u) (a n : Nat) : u.badPart a n = s.badPart a n := by
  simp only [State.badPart, badBursts_congr h]

theorem storeWrErr_congr {u : State} (h : s.judges u) (a n : Nat) : u.storeWrErr a n = s.storeWrErr a n := by
  simp only [State.storeWrErr, firstUnpop_congr h, badPart_congr h]

theorem edgeErr_congr {u : State} (h : s.judges u) (wr : Bool) (a n : Nat) : u.edgeErr e wr a n = s.edgeErr e wr a n := by
  simp only [State.edgeErr, State.storeRdErr, sagDenied_congr h, kilnSag_congr h, storeWrErr_congr h, firstUnpop_congr h, badBursts_congr h]

theorem Eff.Touches.judges {ps : List Component} {R : RK → Prop} {A : Aux → Prop} {f : Eff} (h : f.Touches ps R A) (s : State)
    (hsg : Component.sg ∉ ps) (hbad : Component.bad ∉ ps) (hep : ¬ R ⟨.saggar, 0, 0x108⟩) (hk : ∀ k, ¬ R ⟨.kiln, k, (fSaggar .kiln).off⟩)
    (hu : ∀ q, ¬ R ⟨.slip, q, fUnits.off⟩) : s.judges (f.run s) :=
  ⟨h.same s .sg hsg (by simp) (by simp), h.get s hep, fun k => h.get s (hk k), fun q => h.get s (hu q),
    h.same s .bad hbad (by simp) (by simp)⟩

/-! ## A packet is taken, and answered -/

theorem feederCredit_touches (feed n : Nat) : (feederCredit feed n).Touches [] (fun k => k.blk = .router) (fun _ => True) := fun s => by
  unfold feederCredit
  dsimp only
  split
  · exact touches_setF (R := fun k => k.blk = .router) (A := fun _ => True) rfl s
  · exact touches_setAx (R := fun k => k.blk = .router) (A := fun _ => True) trivial s
  · exact touches_setAx (R := fun k => k.blk = .router) (A := fun _ => True) trivial s

theorem edgeGone_touches (e : EdgePkt) : (edgeGone e).Touches [.net] (fun k => k.blk = .router) (fun _ => True) :=
  touches_doAll_cons (touches_modNet (by simp)) (touches_doAll_cons (touches_whenE (Eff.Touches.mono (feederCredit_touches _ _) (by simp)
    (fun _ h => h) fun _ h => h)) touches_doAll_nil)

theorem edgeGone_net (s : State) (e : EdgePkt) : ((edgeGone e).run s).net = { s.net with edge := s.net.edge.erase e } := by
  have hfeed := touches_whenE (c := fun _ => e.eo) (feederCredit_touches (e.feed - 1) e.lines.length)
  rw [edgeGone, doAll_cons_run, doAll_cons_run, doAll_nil_run]
  exact (hfeed.same _ .net (by simp) (by simp) (by simp) : _ = ((modNet fun n => { n with edge := n.edge.erase e }).run s).net)

/-- A packet of no EO queue takes nothing with it but itself. -/
theorem edgeGone_run (h : e.eo = false) : (edgeGone e).run s = (modNet fun n => { n with edge := n.edge.erase e }).run s := by
  rw [edgeGone, doAll_cons_run, doAll_cons_run, doAll_nil_run, whenE_run, if_neg (by simp [h])]

theorem edgeGone_judges (s : State) (e : EdgePkt) : s.judges ((edgeGone e).run s) :=
  (edgeGone_touches e).judges s (by simp) (by simp) (by simp) (by simp) (by simp)

/-- The packet of an answer of the edge interface. -/
theorem edgeCtrl_inject (s : State) (e : EdgePkt) (typ arg : Nat) : ∃ f : Flit, edgeCtrl e typ arg s = inject f s ∧ f.h.typ = typ ∧
    f.h.arg = arg ∧ f.h.dx = e.h.sx ∧ f.h.dy = e.h.sy := ⟨_, rfl, rfl, rfl, rfl, rfl⟩

theorem edgeCtrl_touches (e : EdgePkt) (typ arg : Nat) : (edgeCtrl e typ arg).Touches [.net] (fun _ => False) (fun _ => False) := fun s => by
  obtain ⟨f, hf, -⟩ := edgeCtrl_inject s e typ arg
  rw [hf]
  exact inject_touches f s

theorem edgeCtrl_edge (s : State) (e : EdgePkt) (typ arg : Nat) : ((edgeCtrl e typ arg).run s).net.edge = s.net.edge := by
  obtain ⟨f, hf, -⟩ := edgeCtrl_inject s e typ arg
  rw [run_congr hf]
  rfl

/-- The end of a stored transfer without STORED_ADDR. -/
def edgeAcked (e : EdgePkt) : Eff := if e.eo then whenE (fun _ => e.bits 4 6 1 = 1) (edgeCtrl e 3 (e.bits 4 0 6 + 64)) else edgeAnswer e 0

theorem edgeDone_run (h : e.bits 3 0 48 = 0) (n : Nat) : (edgeDone e n).run s = (edgeAcked e).run s := by
  have heq : edgeDone e n = doAll [whenE (fun _ => e.bits 3 0 48 ≠ 0) (storeWrite (e.bits 3 0 48) (leBytes 8 n)), edgeAcked e] := rfl
  rw [heq, doAll_cons_run, doAll_cons_run, doAll_nil_run, whenE_run, if_neg (by simp [h])]

theorem edgeAcked_touches (e : EdgePkt) : (edgeAcked e).Touches [.net] (fun _ => False) (fun _ => False) := by
  unfold edgeAcked
  split
  · exact touches_whenE (edgeCtrl_touches e _ _)
  · exact edgeCtrl_touches e _ _

theorem edgeAcked_edge (s : State) (e : EdgePkt) : ((edgeAcked e).run s).net.edge = s.net.edge := by
  unfold edgeAcked
  split
  · rw [whenE_run]
    split
    · exact edgeCtrl_edge s e _ _
    · rfl
  · exact edgeCtrl_edge s e _ _

/-! ## A PLAIN write -/

theorem edgePlain_run (hsa : e.bits 3 0 48 = 0) (herr : s.edgeErr e true (e.bits 0 0 48) e.data.length = none) :
    (edgePlain e).run s = (edgeAcked e).run ((storeWrite (e.bits 0 0 48) e.data).run s) := by
  have heq : edgePlain e s = doAll [storeWrite (e.bits 0 0 48) e.data, edgeDone e e.data.length] s := by
    simp only [edgePlain, herr, hsa, if_true]
  rw [run_congr heq, doAll_cons_run, doAll_cons_run, doAll_nil_run, edgeDone_run hsa]

theorem edgeErr_badPart {a n : Nat} (h : s.edgeErr e true a n = none) : s.badPart a n = false := by
  unfold State.edgeErr at h
  split at h
  · exact absurd h (by simp)
  · rw [if_pos rfl] at h
    exact badPart_of_storeWrErr (Option.map_eq_none_iff.1 h)

theorem edgeWrite_answers (hreq : s.edgeReq p = some e) (hop : e.op ≠ 1) (hbad : e.wrBad = false) (hword : e.bits 1 0 32 = 0)
    (hsa : e.bits 3 0 48 = 0) (herr : s.edgeErr e true (e.bits 0 0 48) e.data.length = none) :
    Answers (.edgeWrite p) s fun u => u.net.edge = s.net.edge.erase e ∧
      (∀ i (h : i < e.data.length), u.storeByte (e.bits 0 0 48 + i) = e.data[i]) ∧
      (∀ b, ¬ (e.bits 0 0 48 ≤ b ∧ b < e.bits 0 0 48 + e.data.length) →
        (∀ r < 4, ¬ (s.regionBase (e.bits 0 0 48 / slotSize) r ≤ b ∧ b < s.regionBase (e.bits 0 0 48 / slotSize) r + 64)) →
        u.storeByte b = s.storeByte b) ∧
      (e.eo = false → ∃ f, u.net.flits = s.net.flits ++ [f] ∧ f.h.typ = 6 ∧ f.h.arg = e.rid * 4 ∧ f.h.dx = e.h.sx ∧ f.h.dy = e.h.sy) ∧
      OnlyParts [.regs, .aux, .net, .store, .bad, .rm] s u := by
  have heq : effEdgeWrite p s = doAll [edgeGone e, edgePlain e] s := by
    simp only [effEdgeWrite, hreq, hbad, hword, if_neg hop]
    rfl
  set a := e.bits 0 0 48
  set v := (edgeGone e).run s with hv
  set x := (storeWrite a e.data).run v with hx
  have hgone := edgeGone_touches e
  have hwrite := storeWrite_touches a e.data
  have hack := edgeAcked_touches e
  have hjudge := edgeGone_judges s e
  have herr' : v.edgeErr e true a e.data.length = none := (edgeErr_congr hjudge true a e.data.length).trans herr
  have hrun : (effEdgeWrite p).run s = (edgeAcked e).run x := by
    rw [run_congr heq, doAll_cons_run, doAll_cons_run, doAll_nil_run, edgePlain_run hsa herr']
  have hnet : x.net = { s.net with edge := s.net.edge.erase e } :=
    (hwrite.same v .net (by simp) (by simp) (by simp) : _ = v.net).trans (edgeGone_net s e)
  refine ⟨_, congrArg Host.Outcome.next hrun, ?_, fun i hi => ?_, fun b hb hregion => ?_, fun heo => ?_, ?_⟩
  · rw [edgeAcked_edge, hnet]
  · rw [hack.storeByte _ _ (by simp), hx, storeWrite_byte (edgeErr_badPart herr') hi]
  · rw [hack.storeByte _ _ (by simp), hx, storeWrite_byte_ne (by omega), hv, hgone.storeByte _ _ (by simp)]
    rintro ⟨r, hr, hin⟩
    rw [hgone.regionBase _ _ _ (by simp)] at hin
    exact hregion r hr hin
  · obtain ⟨f, hf, htyp, harg, hdx, hdy⟩ := edgeCtrl_inject x e 6 (e.rid * 4 + 0 * 256)
    have hans : edgeAcked e x = inject f x := by
      unfold edgeAcked
      rw [if_neg (by simp [heo])]
      exact hf
    refine ⟨f, ?_, htyp, harg.trans (by omega), hdx, hdy⟩
    rw [run_congr hans]
    show x.net.flits ++ [f] = _
    rw [hnet]
  · exact (hgone.only s (by simp) (by simp) (.inl (by simp))).trans ((hwrite.only v (by simp) (by simp) (.inr fun _ h => h)).trans
      (hack.only x (by simp) (.inr fun _ h => h) (.inr fun _ h => h)))

/-! ## A read -/

theorem forEach_inject_net {β : Type} (l : List β) (g : β → Flit) : ∀ s : State,
    ((forEach l fun x => inject (g x)).run s).net = { s.net with flits := s.net.flits ++ l.map g } := by
  induction l with
  | nil => simp [forEach_nil_run]
  | cons x l ih =>
    intro s
    rw [forEach_cons_run, ih]
    simp [inject]

/-- The i-th flit of the answer to a read. -/
def replyFlit (s : State) (e : EdgePkt) (data : List (List Byte)) (l : List Byte × Nat) : Flit :=
  let x := edgeTile e.port e.link
  let h : Hdr := {
    cone := e.h.cone, lines := data.length + 1, dx := e.h.sx, dy := e.h.sy, sx := x.1, sy := x.2, sag := e.h.sag
    rim := true, kiln := e.h.kiln }
  { flitAt (s.phys (x.2 * 192 + x.1)) (edgeDir e.port) h false (l.2 = 0) (l.2 + 1 = data.length + 1) l.1
    (s.get fEpoch 0) e.root 0 with wait := bktEdge e.port e.link + 1 }

/-- The lines of the answer to a read: the response line and the data. -/
def replyLines (e : EdgePkt) (code : Nat) (data : List (List Byte)) : List (List Byte) :=
  (leBytes 1 e.rid ++ leBytes 1 data.length ++ leBytes 1 code ++ leBytes 61 0) :: data

theorem edgeReply_eq (s : State) (e : EdgePkt) (code : Nat) (data : List (List Byte)) :
    edgeReply e code data s = forEach (replyLines e code data).zipIdx (fun l => inject (replyFlit s e data l)) s := rfl

theorem edgeReply_touches (e : EdgePkt) (code : Nat) (data : List (List Byte)) :
    (edgeReply e code data).Touches [.net] (fun _ => False) (fun _ => False) := fun s => by
  rw [edgeReply_eq]
  exact touches_forEach (fun l _ => inject_touches _) s

theorem edgeReply_net (s : State) (e : EdgePkt) (code : Nat) (data : List (List Byte)) : ((edgeReply e code data).run s).net =
    { s.net with flits := s.net.flits ++ (replyLines e code data).zipIdx.map (replyFlit s e data) } := by
  rw [run_congr (edgeReply_eq s e code data), forEach_inject_net]

theorem edgeRead_answers (hreq : s.edgeReq p = some e) (hop : e.op = 1) (hrsvd : e.rsvd = false) (hlines : e.lines.length = 1) {a n : Nat}
    (ha : a = e.bits 0 0 48) (hn : n = e.h.arg / 2 ^ 7 % 16 + 1) (h15 : n ≤ 15) (h64 : a % 64 = 0) (heo : e.eo = false)
    (herr : s.edgeErr e false a (64 * n) = none) : Answers (.edgeRead p) s fun u => u.net.edge = s.net.edge.erase e ∧
      (∃ fs, u.net.flits = s.net.flits ++ fs ∧ fs.length = n + 1 ∧
        (∀ i < n, (fs[i + 1]?).map (fun f => f.line) = some (s.stRds (a + 64 * i) 64)) ∧
        ∀ f ∈ fs, f.h.dx = e.h.sx ∧ f.h.dy = e.h.sy ∧ f.h.rim = true) ∧
      OnlyParts [.regs, .net] s u ∧ RegsKeptBut (fun b i o => b = .slip ∧ i = a / slotSize ∧ o = 0x378) s u := by
  set data := (List.range n).map fun i => s.stRds (a + 64 * i) 64 with hdata
  have heq : effEdgeRead p s = doAll [edgeGone e, doAll [countBytes fBytesRd a (64 * n), edgeReply e 0 data]] s := by
    simp only [effEdgeRead, hreq, ← ha, ← hn, herr, ← hdata]
    rw [if_neg (by omega), if_neg ?_]
    rintro (h | h | h | h)
    · exact absurd h (by simp [hrsvd])
    · exact h hlines
    · exact absurd h (by omega)
    · exact h h64
  have hcount := countBytes_touches fBytesRd a (64 * n)
  set v := (edgeGone e).run s with hv
  set y := (countBytes fBytesRd a (64 * n)).run v with hy
  have hgone : v = (modNet fun n => { n with edge := n.edge.erase e }).run s := edgeGone_run heo
  have hrun : (effEdgeRead p).run s = (edgeReply e 0 data).run y := by
    rw [run_congr heq, doAll_cons_run, doAll_cons_run, doAll_nil_run, doAll_cons_run, doAll_cons_run, doAll_nil_run]
  have hnet : y.net = { s.net with edge := s.net.edge.erase e } :=
    (hcount.same v .net (by simp) (by simp) (by simp) : _ = v.net).trans (edgeGone_net s e)
  have hlen : data.length = n := by simp [hdata]
  have hreply := edgeReply_touches e 0 data
  refine ⟨_, congrArg Host.Outcome.next hrun, ?_, ⟨(replyLines e 0 data).zipIdx.map (replyFlit y e data), ?_, ?_, fun i hi => ?_, ?_⟩, ?_, ?_⟩
  · rw [edgeReply_net, hnet]
  · rw [edgeReply_net, hnet]
  · simp [replyLines, hlen]
  · rw [List.getElem?_map, List.getElem?_zipIdx]
    simp only [replyLines, List.getElem?_cons_succ, hdata, List.getElem?_map]
    rw [List.getElem?_range hi]
    rfl
  · intro f hf
    obtain ⟨l, -, rfl⟩ := List.mem_map.1 hf
    exact ⟨rfl, rfl, rfl⟩
  · refine OnlyParts.trans ?_ (hreply.only y (by simp) (.inr fun _ h => h) (.inr fun _ h => h))
    refine OnlyParts.trans ?_ (hcount.only v (by simp) (by simp) (.inr fun _ h => h))
    rw [hgone]
    exact (touches_modNet (ps := [.net]) (R := fun _ => False) (A := fun _ => False) (by simp)).only s (by simp) (.inr fun _ h => h)
      (.inr fun _ h => h)
  · refine RegsKeptBut.trans ?_ (hreply.regsKept y _ fun _ _ _ h => h.elim)
    refine RegsKeptBut.trans ?_ (hcount.regsKept v _ (by rintro b i o ⟨⟩; exact ⟨rfl, rfl, rfl⟩))
    rw [hgone]
    exact fun _ _ _ _ => rfl

/-! ## A transfer that waits too long -/

theorem xferTimeout_answers {i : Nat} {x : Xfer} (h : (s.sl.xfers.filter fun y => y.port = p)[i]? = some x) :
    Answers (.xferTimeout p i) s fun u =>
      u.sl = { s.sl with xfers := s.sl.xfers.filter fun y => !(y.port = p && y.src = x.src && y.txn = x.txn) } ∧
      u.get fXferClosed p = min (s.get fXferClosed p + 1) 0xFFFF ∧
      (s.get (fErrCode .slip) p = 0 → u.get (fErrCode .slip) p = eTIMEOUT ∧ u.get (fErrInfo .slip) p = x.src % 2 ^ 32) ∧
      OnlyParts [.regs, .hi, .sl] s u ∧
      RegsKeptBut (fun b j o => b = .slip ∧ j = p ∧ (o = offErr ∨ o = offEvtStatus ∨ o = 0x398)) s u := by
  have hport : x.port = p := of_decide_eq_true (List.mem_filter.1 (List.mem_of_getElem? h)).2
  have heq : effXferTimeout p i s = doAll [putXfer x none, recordErr .slip p eTIMEOUT x.src, addSat fXferClosed p 1] s := by
    simp only [effXferTimeout, h, xferClose, hport]
  have hput : (putXfer x none).Touches [.sl] (fun _ => False) (fun _ => False) := touches_modSl (by simp)
  have hrec := recordErr_touches .slip p eTIMEOUT x.src
  have hadd : (addSat fXferClosed p 1).Touches [] (fun k => k = ⟨.slip, p, 0x398⟩) (fun _ => False) := touches_addSat rfl
  set a := (putXfer x none).run s with ha
  set b := (recordErr .slip p eTIMEOUT x.src).run a with hb
  have hrun : (effXferTimeout p i).run s = (addSat fXferClosed p 1).run b := by
    rw [run_congr heq, doAll_cons_run, doAll_cons_run, doAll_cons_run, doAll_nil_run]
  have hsl : a.sl = { s.sl with xfers := s.sl.xfers.filter fun y => !(y.port = p && y.src = x.src && y.txn = x.txn) } := by
    refine congrArg (fun l => { s.sl with xfers := l }) ?_
    show (s.sl.xfers.flatMap fun y => if y.port = x.port && y.src = x.src && y.txn = x.txn then [] else [y]) = _
    rw [hport]
    induction s.sl.xfers with
    | nil => rfl
    | cons y l ih =>
      rw [List.flatMap_cons, ih, List.filter_cons]
      split
      next hy => rw [hy]; rfl
      next hy => rw [Bool.not_eq_true _ |>.mp hy]; rfl
  refine ⟨_, congrArg Host.Outcome.next hrun, ?_, ?_, fun hz => ?_, ?_, ?_⟩
  · exact (hadd.same b .sl (by simp) (by simp) (by simp) : _ = b.sl).trans ((hrec.same a .sl (by simp) (by simp) (by simp) : _ = a.sl).trans hsl)
  · rw [get_addSat_same (by decide), hb, hrec.get a (by simp [fXferClosed, offErr, offEvtStatus])]
    rfl
  · obtain ⟨hcode, hinfo⟩ := recordErr_err (s := a) (blk := .slip) (i := p) (code := eTIMEOUT) (info := x.src) (by decide) hz
    exact ⟨(hadd.get b (by simp [fErrCode, offErr])).trans hcode, (hadd.get b (by simp [fErrInfo, offErr])).trans hinfo⟩
  · exact (hput.only s (by simp) (.inr fun _ h => h) (.inr fun _ h => h)).trans ((hrec.only a (by simp) (by simp) (.inr fun _ h => h)).trans
      (hadd.only b (by simp) (by simp) (.inr fun _ h => h)))
  · refine RegsKeptBut.trans (t := b) (RegsKeptBut.trans (t := a) (fun _ _ _ _ => rfl) (hrec.regsKept a _ ?_)) (hadd.regsKept b _ ?_)
    · rintro c j o ⟨hc, hj, ho | ho⟩
      · exact ⟨hc, hj, .inl ho⟩
      · exact ⟨hc, hj, .inr (.inl ho)⟩
    · rintro c j o ⟨⟩
      exact ⟨rfl, rfl, .inr (.inr rfl)⟩

/-! ## The BAR4 aperture -/

theorem badMeet_touches (reader a n : Nat) : (badMeet reader a n).Touches [.hi] (fun k => k.blk = .slip) (fun _ => True) :=
  touches_of (fun s => forEach (s.badBursts a n) fun b => doAll [addSat fStoreUe (b * 32 / slotSize) 1, eccTotal 3,
      setEvt .slip (b * 32 / slotSize) 2, whenE (fun s => !s.on fEccFirstValid (b * 32 / slotSize))
        (setReg .slip (b * 32 / slotSize) 0x368 (BitVec.ofNat 64 (b * 32 / 64 + reader * 2 ^ 42 + 2 ^ 63)))]) (fun _ => rfl)
    fun _ => touches_forEach fun b _ => touches_doAll_cons (touches_addSat rfl) (touches_doAll_cons (touches_eccTotal trivial)
      (touches_doAll_cons (touches_setEvt rfl (by simp)) (touches_doAll_cons (touches_whenE (touches_setReg rfl)) touches_doAll_nil)))

theorem badMeet_none {reader a n : Nat} (h : s.badBursts a n = []) : (badMeet reader a n).run s = s := by
  have heq : badMeet reader a n s = forEach (s.badBursts a n) (fun b => doAll [addSat fStoreUe (b * 32 / slotSize) 1, eccTotal 3,
      setEvt .slip (b * 32 / slotSize) 2, whenE (fun s => !s.on fEccFirstValid (b * 32 / slotSize))
        (setReg .slip (b * 32 / slotSize) 0x368 (BitVec.ofNat 64 (b * 32 / 64 + reader * 2 ^ 42 + 2 ^ 63)))]) s := rfl
  rw [run_congr heq, h, forEach_nil_run]

/-- What a BAR4 read meets before its bytes are answered: bad bursts, an unpopulated byte; and its count. -/
def bar4Meets (h a len : Nat) (bad : List Nat) (x : Option Nat) : Eff := doAll [badMeet 5 a len,
  whenE (fun _ => bad ≠ []) (recordErrFree .host (256 + h) eECC_UE), withSome x skip fun x => recordErr .host (256 + h) eARG (storeInfo x),
  countBytes fBytesRd a len]

theorem bar4Meets_touches (h a len : Nat) (bad : List Nat) (x : Option Nat) : (bar4Meets h a len bad x).Touches [.hi, .free]
    (fun _ => True) (fun _ => True) :=
  touches_doAll_cons (Eff.Touches.mono (badMeet_touches 5 a len) (by simp) (fun _ _ => trivial) fun _ _ => trivial)
    (touches_doAll_cons (touches_whenE (touches_recordErrFree trivial trivial (by simp) (by simp)))
    (touches_doAll_cons (touches_withSome touches_skip fun _ => touches_recordErr trivial trivial (by simp))
    (touches_doAll_cons (touches_whenE (touches_addSat trivial)) touches_doAll_nil)))

theorem bar4Read_run {h off len a : Nat} (ha : a = s.get fApBase (256 + h) * 2 ^ 30 + off) (hlive : s.apLive h = true)
    (hen : s.on fApEnable (256 + h) = true) (htr : s.training a = false) : (effBar4Read h off len).run s =
      (emit (.bytes (s.stRds a len) (decide (s.badBursts a len ≠ [])))).run
        ((bar4Meets h a len (s.badBursts a len) (s.firstUnpop a len)).run s) := by
  have heq : effBar4Read h off len s = doAll [badMeet 5 a len, whenE (fun _ => s.badBursts a len ≠ []) (recordErrFree .host (256 + h) eECC_UE),
      withSome (s.firstUnpop a len) skip fun x => recordErr .host (256 + h) eARG (storeInfo x), countBytes fBytesRd a len,
      emit (.bytes (s.stRds a len) (s.badBursts a len ≠ []))] s := by
    simp only [effBar4Read, ← ha, hlive, hen, htr]
    rfl
  rw [run_congr heq, doAll_cons_run, doAll_cons_run, doAll_cons_run, doAll_cons_run, doAll_cons_run, doAll_nil_run, bar4Meets,
    doAll_cons_run, doAll_cons_run, doAll_cons_run, doAll_cons_run, doAll_nil_run]

theorem bar4Meets_sound {h a len : Nat} (hbad : s.badBursts a len = []) (x : Option Nat) : (bar4Meets h a len [] x).run s =
    (countBytes fBytesRd a len).run ((withSome x skip fun x => recordErr .host (256 + h) eARG (storeInfo x)).run s) := by
  rw [bar4Meets, doAll_cons_run, doAll_cons_run, doAll_cons_run, doAll_cons_run, doAll_nil_run, badMeet_none hbad, whenE_run,
    if_neg (by simp)]

theorem bar4Read_answers {h off len a : Nat} (ha : a = s.get fApBase (256 + h) * 2 ^ 30 + off) (hlive : s.apLive h = true)
    (hen : s.on fApEnable (256 + h) = true) (htr : s.training a = false) : Answers (.bar4Read h off len) s fun u =>
      u.out = .bytes (s.stRds a len) (decide (s.badBursts a len ≠ [])) :: s.out ∧
      (s.badBursts a len = [] → s.firstUnpop a len = none → OnlyParts [.regs, .out] s u) ∧
      (∀ x, s.badBursts a len = [] → s.firstUnpop a len = some x → s.get (fErrCode .host) (256 + h) = 0 →
        u.get (fErrCode .host) (256 + h) = eARG ∧ u.get (fErrInfo .host) (256 + h) = storeInfo x) := by
  have hmeets := bar4Meets_touches h a len (s.badBursts a len) (s.firstUnpop a len)
  have hcount := countBytes_touches fBytesRd a len
  refine ⟨_, congrArg Host.Outcome.next (bar4Read_run ha hlive hen htr), ?_, fun hbad hpop => ?_, fun x hbad hpop hz => ?_⟩
  · exact congrArg _ (hmeets.same s .out (by simp) (by simp) (by simp) : _ = s.out)
  · rw [hbad, bar4Meets_sound hbad, hpop]
    exact (hcount.only s (by simp) (by simp) (.inr fun _ h => h)).trans
      ((touches_emit (ps := [.out]) (R := fun _ => False) (A := fun _ => False) (by simp)).only _ (by simp) (.inr fun _ h => h) (.inr fun _ h => h))
  · rw [hbad, bar4Meets_sound hbad, hpop]
    obtain ⟨hcode, hinfo⟩ := recordErr_err (s := s) (blk := .host) (i := 256 + h) (code := eARG) (info := storeInfo x) (by decide) hz
    have hmod : storeInfo x % 2 ^ 32 = storeInfo x := Nat.mod_mod _ _
    exact ⟨(hcount.get _ (by simp [fErrCode, fBytesRd])).trans hcode, (hcount.get _ (by simp [fErrInfo, fBytesRd])).trans (hinfo.trans hmod)⟩

theorem bar4Read_off {h off len : Nat} (hlive : s.apLive h = true) (hen : s.on fApEnable (256 + h) = false) :
    Answers (.bar4Read h off len) s fun u => u.out = .bytes (List.replicate len 0) false :: s.out ∧
      (s.get (fErrCode .host) (256 + h) = 0 → u.get (fErrCode .host) (256 + h) = eARG) ∧ OnlyParts [.regs, .hi, .out, .free] s u := by
  have heq : effBar4Read h off len s = doAll [emit (.bytes (List.replicate len 0) false), recordErrFree .host (256 + h) eARG] s := by
    simp only [effBar4Read, hlive, hen]
    rfl
  have hrec : (recordErrFree .host (256 + h) eARG).Touches [.hi, .free] (fun _ => True) (fun _ => False) :=
    touches_recordErrFree trivial trivial (by simp) (by simp)
  have hemit : (emit (.bytes (List.replicate len 0) false)).Touches [.out] (fun _ => False) (fun _ => False) := touches_emit (by simp)
  refine ⟨_, congrArg Host.Outcome.next (run_congr heq), ?_, fun hz => ?_, ?_⟩ <;> rw [doAll_cons_run, doAll_cons_run, doAll_nil_run]
  · exact (hrec.same _ .out (by simp) (by simp) (by simp) : _ = ((emit (.bytes (List.replicate len 0) false)).run s).out)
  · exact recordErrFree_err (by decide) hz
  · exact (hemit.only s (by simp) (.inr fun _ h => h) (.inr fun _ h => h)).trans (hrec.only _ (by simp) (by simp) (.inr fun _ h => h))

theorem bar4Write_answers {h off a : Nat} {data : List Byte} (ha : a = s.get fApBase (256 + h) * 2 ^ 30 + off) (hlive : s.apLive h = true)
    (hdata : data ≠ []) (hen : s.on fApEnable (256 + h) = true) (htr : s.training a = false) (herr : s.storeWrErr a data.length = none) :
    Answers (.bar4Write h off data) s fun u => (∀ i (hi : i < data.length), u.storeByte (a + i) = data[i]) ∧
      (∀ b, ¬ (a ≤ b ∧ b < a + data.length) →
        (∀ r < 4, ¬ (s.regionBase (a / slotSize) r ≤ b ∧ b < s.regionBase (a / slotSize) r + 64)) →
        u.storeByte b = s.storeByte b) ∧ OnlyParts [.regs, .store, .bad, .rm] s u := by
  have heq : effBar4Write h off data s = storeWrite a data s := by
    simp only [effBar4Write, ← ha, hlive, hen, htr, hdata, rootStore, herr]
    rfl
  refine ⟨_, congrArg Host.Outcome.next (run_congr heq), fun i hi => storeWrite_byte (badPart_of_storeWrErr herr) hi, fun b hb hregion =>
    storeWrite_byte_ne (by omega) ?_, (storeWrite_touches a data).only s (by simp) (by simp) (.inr fun _ h => h)⟩
  rintro ⟨r, hr, hin⟩
  exact hregion r hr hin

/-! ## MAP registers -/

theorem mapWrite_answers {src : Src} {r b n : Nat} {v : W64} (hb : b = getBits v 0 12) (hn : n = getBits v 16 12)
    (hl : s.lets src .slip p true) (hr : r < 8) (hempty : ∀ k < 256, s.get fKilnState k = 0)
    (hfit : n ≠ 0 → b + n ≤ s.get fUnits p ∧ ∀ q < 8, q ≠ r → s.get (fMapSize q) p ≠ 0 →
      (s.get (fMapBase q) p + s.get (fMapSize q) p ≤ b ∨ b + n ≤ s.get (fMapBase q) p))
    (hwin : r < 5 → s.winMeets (p * slotSize + b * 2 ^ 24) (n * 2 ^ 24) = false) :
    Answers (.slipMapWrite src p r v) s fun u => TookNumber s .slip p u ∧ u.rd .slip p (0x140 + 8 * r) = v &&& 0x0FFF0FFF ∧
      OnlyParts [.regs, .seq] s u ∧
      RegsKeptBut (fun b i o => b = .slip ∧ i = p ∧ (o = 0x140 + 8 * r ∨ o = 0x180 ∨ o = 0x188 ∨ o = offSeq)) s u := by
  have hkilns : (kilns256.any fun k => s.get fKilnState k ≠ 0) = false := by
    rw [List.any_eq_false]
    intro k hk
    simpa using hempty k (List.mem_range.1 hk)
  have hmeets : (decide (n ≠ 0) && (decide (s.get fUnits p < b + n) || (List.range 8).any fun q => q ≠ r && s.get (fMapSize q) p ≠ 0 &&
      s.get (fMapBase q) p < b + n && b < s.get (fMapBase q) p + s.get (fMapSize q) p)) = false := by
    by_cases h0 : n = 0
    · simp [h0]
    · obtain ⟨hle, hmap⟩ := hfit h0
      have hnone : ((List.range 8).any fun q => q ≠ r && s.get (fMapSize q) p ≠ 0 && s.get (fMapBase q) p < b + n &&
          b < s.get (fMapBase q) p + s.get (fMapSize q) p) = false := by
        rw [List.any_eq_false]
        intro q hq hc
        simp only [Bool.and_eq_true, decide_eq_true_eq] at hc
        obtain ⟨⟨⟨hqr, hsize⟩, h1⟩, h2⟩ := hc
        have := hmap q (List.mem_range.1 hq) hqr hsize
        omega
      rw [hnone, decide_eq_false (show ¬ s.get fUnits p < b + n by omega)]
      simp
  have hrun : (inTurn src (.slipMapWrite src p r v) (effSlipMapWrite src p r v)).run s =
      (doAll [setReg .slip p (0x140 + 8 * r) (v &&& 0x0FFF0FFF), headerReread p]).run (s.numbered .slip p) := by
    refine (write_accepted hl (by omega) ?_).trans ?_
    · have hw : (decide (r < 5) && s.winMeets (p * slotSize + b * 2 ^ 24) (n * 2 ^ 24)) = false := by
        by_cases h5 : r < 5
        · rw [hwin h5, Bool.and_false]
        · simp [h5]
      show firstErr [errIf (kilns256.any fun k => s.get fKilnState k ≠ 0) eSTATE, errIf _ eARG, errIf _ eARG] = none
      simp only [← hb, ← hn]
      rw [hkilns, hmeets, hw]
      rfl
    · rw [if_pos hr]
      rfl
  have hread := headerReread_touches p
  have ht : (doAll [setReg .slip p (0x140 + 8 * r) (v &&& 0x0FFF0FFF), headerReread p]).Touches [] (fun k => k.blk = .slip ∧ k.inst = p ∧
      (k.off = 0x140 + 8 * r ∨ k.off = 0x180 ∨ k.off = 0x188)) (fun _ => False) :=
    touches_doAll_cons (touches_setReg ⟨rfl, rfl, .inl rfl⟩) (touches_doAll_cons (Eff.Touches.mono hread (fun _ h => h)
      (fun k hk => ⟨hk.1, hk.2.1, .inr hk.2.2⟩) fun _ h => h) touches_doAll_nil)
  obtain ⟨hnum, honly, hkept⟩ := write_frame (s := s) (blk := .slip) (key := p) ht [.regs, .seq]
    (fun b i o => b = .slip ∧ i = p ∧ (o = 0x140 + 8 * r ∨ o = 0x180 ∨ o = 0x188 ∨ o = offSeq)) (by simp) (by simp) (by simp) (by simp)
    (by simp) (by simp only [offSeq]; omega) (by rintro b i o ⟨h1, h2, h | h | h⟩ <;> simp_all) ⟨rfl, rfl, .inr (.inr (.inr rfl))⟩
  refine ⟨_, congrArg Host.Outcome.next hrun, hnum, ?_, honly, hkept⟩
  rw [doAll_cons_run, doAll_cons_run, doAll_nil_run, hread.rd _ (by simp only; omega), setReg_run, State.rd_apply1]
  exact if_pos rfl

/-! ## COMB packets -/

theorem combTaken_answers {x : Nat × Nat} (hfind : (s.net.edge.find? fun x => x.port = p && x.full && x.h.typ = 2) = some e)
    (hfeed : s.feedFor p e.link e.h.set = some x) (hroom : s.get (fFeedFill x.2) x.1 + e.lines.length ≤ 64) :
    Answers (.combExitForward p) s fun u => u.net = { s.net with edge := s.net.edge.erase e } ∧
      u.pg = { s.pg with feedq := s.pg.feedq ++ [⟨x.1, x.2, e.h, e.epoch, e.lines⟩] } ∧
      u.get (fFeedFill x.2) x.1 = s.get (fFeedFill x.2) x.1 + e.lines.length ∧ OnlyParts [.regs, .net, .pg] s u ∧
      RegsKeptBut (fun b i o => b = .pug ∧ i = x.1 ∧ o = 0x200 + 0x10 * x.2) s u := by
  set fill := s.get (fFeedFill x.2) x.1 + e.lines.length with hfill
  set taken := doAll [modNet fun n => { n with edge := n.edge.erase e },
    modPg fun g => { g with feedq := g.feedq ++ [⟨x.1, x.2, e.h, e.epoch, e.lines⟩] }, setF (fFeedFill x.2) x.1 fill] with htaken
  have heq : effCombExitForward p s = taken s := by
    simp only [effCombExitForward, hfind, hfeed]
    rw [if_neg (by omega)]
  have ht : taken.Touches [.net, .pg] (fun k => k = ⟨.pug, x.1, 0x200 + 0x10 * x.2⟩) (fun _ => False) :=
    touches_doAll_cons (touches_modNet (by simp)) (touches_doAll_cons (touches_modPg (by simp)) (touches_doAll_cons (touches_setF rfl)
      touches_doAll_nil))
  have hlast : (setF (fFeedFill x.2) x.1 fill).Touches [] (fun k => k = ⟨.pug, x.1, 0x200 + 0x10 * x.2⟩) (fun _ => False) := touches_setF rfl
  refine ⟨_, congrArg Host.Outcome.next (run_congr heq), ?_, ?_, ?_, ht.only s (by simp) (by simp) (.inr fun _ h => h),
    ht.regsKept s _ (by rintro b i o ⟨⟩; exact ⟨rfl, rfl, rfl⟩)⟩ <;>
    rw [htaken, doAll_cons_run, doAll_cons_run, doAll_cons_run, doAll_nil_run]
  · exact (hlast.same _ .net (by simp) (by simp) (by simp) : _ = _)
  · exact (hlast.same _ .pg (by simp) (by simp) (by simp) : _ = _)
  · rw [get_setF_same (by simp [fFeedFill])]
    simp only [fFeedFill] at hfill ⊢
    omega

theorem combDropped_answers (hfind : (s.net.edge.find? fun x => x.port = p && x.full && x.h.typ = 2) = some e)
    (hfeed : s.feedFor p e.link e.h.set = none) : Answers (.combExitForward p) s fun u =>
      u.net = { s.net with edge := s.net.edge.erase e } ∧
      (s.get (fErrCode .slip) p = 0 → u.get (fErrCode .slip) p = eARG ∧ u.get (fErrInfo .slip) p = (e.link * 16 + e.h.set) % 2 ^ 32) ∧
      OnlyParts [.regs, .net, .hi] s u ∧ RegsKeptBut (fun b i o => b = .slip ∧ i = p ∧ (o = offErr ∨ o = offEvtStatus)) s u := by
  have heq : effCombExitForward p s = doAll [modNet (fun n => { n with edge := n.edge.erase e }),
      recordErr .slip p eARG (e.link * 16 + e.h.set)] s := by
    simp only [effCombExitForward, hfind, hfeed]
  have hrec := recordErr_touches .slip p eARG (e.link * 16 + e.h.set)
  have hnet : (modNet fun n => { n with edge := n.edge.erase e }).Touches [.net] (fun _ => False) (fun _ => False) := touches_modNet (by simp)
  refine ⟨_, congrArg Host.Outcome.next (run_congr heq), ?_, fun hz => ?_, ?_, ?_⟩ <;> rw [doAll_cons_run, doAll_cons_run, doAll_nil_run]
  · exact (hrec.same _ .net (by simp) (by simp) (by simp) : _ = ((modNet fun n => { n with edge := n.edge.erase e }).run s).net)
  · exact recordErr_err (by decide) hz
  · exact (hnet.only s (by simp) (.inr fun _ h => h) (.inr fun _ h => h)).trans (hrec.only _ (by simp) (by simp) (.inr fun _ h => h))
  · exact RegsKeptBut.trans (t := (modNet fun n => { n with edge := n.edge.erase e }).run s) (fun _ _ _ _ => rfl) (hrec.regsKept _ _ fun _ _ _ h => h)

/-- Settles O31: the packet is taken, judged by windows and bursts the taking leaves, and the store or the answer follows. -/
theorem edgeAndApertureReachTheStore : Obligations.EdgeAndApertureReachTheStore :=
  ⟨fun _ _ _ hreq hop hbad hword hsa herr => edgeWrite_answers hreq hop hbad hword hsa herr,
    fun _ _ _ hreq hop hrsvd hlines h15 h64 heo herr => edgeRead_answers hreq hop hrsvd hlines rfl rfl h15 h64 heo herr,
    fun _ _ _ _ h => xferTimeout_answers h,
    fun _ _ _ _ hlive => ⟨fun hen htr => bar4Read_answers rfl hlive hen htr, fun hen => bar4Read_off hlive hen⟩,
    fun _ _ _ _ hlive hdata hen htr herr => bar4Write_answers rfl hlive hdata hen htr herr,
    fun _ _ _ _ _ hl hr hempty hfit hwin => mapWrite_answers rfl rfl hl hr hempty hfit hwin,
    fun _ _ _ hfind => ⟨fun _ hfeed hroom => combTaken_answers hfind hfeed hroom, fun hfeed => combDropped_answers hfind hfeed⟩⟩

end Sys2Proof.Machine
end
